-- ==== Sys2Proof/Word.lean ====
section
/-! DEFINITION. The word types of the panel (R3) and their plainest arithmetic. -/

namespace Sys2Proof

/-- A word: 64 bits, the width of a scalar register (R3). -/
abbrev Word := BitVec 64

/-- A byte of memory (R2, R3). -/
abbrev Byte := BitVec 8

/-- The 2,048 bits of a vector register (R116). -/
abbrev Vec := BitVec 2048

/-- A word from a natural number, kept modulo 2^64 (R12). -/
abbrev word (n : Nat) : Word := BitVec.ofNat 64 n

end Sys2Proof
end

