-- ==== Sys2Proof/Config.lean ====
section
/-! DEFINITION. The free values: what the spec leaves open and the machine goes on with. None has a body, so
nothing can be proved of its value; each is applied to the model's counter of free values, or to the operands
it depends on. -/

namespace Sys2Proof.Config

/-- A choice the spec leaves open, by the counter of free values. -/
opaque freeNat (n : Nat) : Nat

/-- A 64-bit value the spec does not state. -/
opaque freeWord (n : Nat) : Word

/-- Whether a buffered store of a sibling slot is forwarded to a load (R239). -/
opaque forwarded (n : Nat) : Bool

/-- Whether a stage-2 fault of an engine's access is not yet answered when the engine hands back; else it has been failed
(R343). -/
opaque stage2Pending (n : Nat) : Bool

/-- Whether the host IOMMU refuses a page of a virtual function to an engine (R208). -/
opaque atsRefuses (vf page : Nat) : Bool

/-- Whether the permission table of a link lets a partition have a slot for a stream (R337). -/
opaque streamPermitted (pid link slot : Nat) : Bool

/-- The partition of this panel that the domain permission table gives a partition of a peer panel, none when it denies it
(R208). -/
opaque peerPartition (panel pid : Nat) : Option Nat

/-- Word n of the guarantee-shortfall event, whose fields R333 names without places. -/
opaque shortfallWord (n sid link guaranteed deliverable : Nat) : Word

/-- Whether a signature of a reinstate entry verifies against the vendor key (R363). -/
opaque signatureOk (qi unit : Nat) (time : Word) (sig : Nat) : Bool

/-- Where the save area of a partition's thread lies in the partition's memory (R98, R384), which no rule says. -/
opaque saveArea (pid thread : Nat) : Word

/-- How far the time counter of a region runs ahead of region 0's after boot (R336). -/
opaque counterLead (region : Nat) : Nat

/-- Whether a destination has no stream buffers left for one more stream (R337). -/
opaque streamBuffersGone (n : Nat) : Bool

/-- The result of a transcendental on a lane whose exact value the rounding bound does not separate (R136). -/
opaque freeLane (op lane : Nat) : BitVec 32

end Sys2Proof.Config
end

