-- ==== Sys2Proof/Syntax.lean ====
section
/-! DEFINITION. The instructions and events of the panel, and the names their fields take. -/

namespace Sys2Proof

/-- A scalar register field: t0–t31 are 0–31, c0–c31 are 32–63 (R50). -/
abbrev Reg := BitVec 6
/-- A vector register field: v0–v15 are 0–15, w0–w15 are 16–31 (R50). -/
abbrev VReg := BitVec 5
/-- A mask register field (R50). -/
abbrev MReg := BitVec 3

/-- Vector element types (R66). -/
inductive VTy where
  | f32 | f64 | i32 | n32 | i64 | n64
  deriving DecidableEq, Repr

/-- Rounding codes (R67). -/
inductive Rnd where
  | rne | rtz | rup | rdn | rsr
  deriving DecidableEq, Repr

/-- Scopes (R60). -/
inductive Scope where
  | slot | core | quad | part | dom | sys
  deriving DecidableEq, Repr

/-- Access sizes (R48). -/
inductive Size where
  | b | h | l | w
  deriving DecidableEq, Repr

/-- Cache policies (R48, R199). -/
inductive Cp where
  | n | s | na | k
  deriving DecidableEq, Repr

/-- Operation codes of atomics (R61). -/
inductive AmoOp where
  | add | and_ | or_ | xor | min | max | minu | maxu | swap | fadd32 | fmin32 | fmax32
  deriving DecidableEq, Repr

/-- Ordering codes of atomics (R61). -/
inductive MOrd where
  | rlx | acq | rel | ar
  deriving DecidableEq, Repr

/-- Kinds of channel and message data (R63). -/
inductive ElemKind where
  | s | v | a
  deriving DecidableEq, Repr

/-- Formats of VCVT and VQUANT (R69). -/
inductive NFmt where
  | bf16 | fp16 | e4m3 | e5m2 | fp64 | int8 | int4
  deriving DecidableEq, Repr

/-- Output formats of MDRAIN (R70). -/
inductive OFmt where
  | f32 | bf16 | fp16 | e4m3 | e5m2 | int8 | i32 | f64 | i64
  deriving DecidableEq, Repr

/-- Conditions of VCMP (R68). -/
inductive Cond where
  | eq | ne | lt | le | gt | ge | un
  deriving DecidableEq, Repr

/-- Selectors of GETID (R58). -/
inductive IdSel where
  | thr | pthr | gca | quad | pquad | part | panel | size
  deriving DecidableEq, Repr

/-- Selectors of GEOM (R70). -/
inductive GeomSel where
  | mlo | mcnt | nlo | ncnt | klo | kcnt | edge
  deriving DecidableEq, Repr

/-- Selectors of DOMAIN (R64, R321). -/
inductive DomSel where
  | ext | org | cnt | nf
  deriving DecidableEq, Repr

/-- Selectors of ALLOW (R64, R322). -/
inductive AllowSel where
  | cyc | sp | eff | reg
  deriving DecidableEq, Repr

/-- Selectors of CPYST (R65, R346). -/
inductive CpySel where
  | depth | stat
  deriving DecidableEq, Repr

/-- Selectors of MSGST (R65, R352). -/
inductive MsgSel where
  | rxq | txc
  deriving DecidableEq, Repr

/-- The quad that a DEBUG write names (R361), and the BRKARM bit of the word written (R380). -/
structure DebugQuad where
  quad : Nat
  brkArm : Bool
  deriving DecidableEq, Repr

/-- The HALT and BRKARM bits of a word written to DEBUG (R380). -/
structure DebugBits where
  halt : Bool
  brkArm : Bool
  deriving DecidableEq, Repr

/-- What an edge unit's firmware reports beside its data wavelengths (R355): the lock of the control wavelength, and the heater
retunes made since its last report. -/
structure ControlReport where
  locked : Bool
  retunes : Nat
  deriving DecidableEq, Repr

/-- The attributes the physical function gives a partition at its creation (R357), with the PC from which the
slots of its service core run. -/
structure PartCfg where
  pid : Nat
  x0 : Nat
  y0 : Nat
  w : Nat
  h : Nat
  key : Nat
  vf : Nat
  /-- SPSIZE in MiB (R192). -/
  spMiB : Nat
  /-- The service core: partition-logical quad and core. -/
  svcP : Nat
  svcC : Nat
  svcPc : Word
  /-- Wavelengths it owns, by edge unit (R354). -/
  edges : List (Nat × BitVec 16) := []
  deriving DecidableEq, Repr

/-- What a burst from a peer panel carries (R208, R347, R353): the sender's partition there, and its message or access. -/
inductive PeerPkt where
  | msg (pid : Nat) (dest hdr : Word) (seq : Option Nat) (data : List Byte)
  /-- A basted sender's free notice (R370). -/
  | notice (pid : Nat) (dest hdr : Word)
  | store (pid : Nat) (addr : Word) (data : List Byte)
  | load (pid : Nat) (addr : Word) (n : Nat)
  | amo (pid : Nat) (addr : Word) (n op : Nat) (b : Word)
  | cas (pid : Nat) (addr : Word) (n : Nat) (b c : BitVec 128)
  | lde (pid : Nat) (addr : Word)
  | stf (pid : Nat) (addr b : Word)
  | feinit (pid : Nat) (addr b : Word) (full : Bool)
  deriving DecidableEq, Repr

/-- The steps of the panel: one constructor per row of spec/opcode_table.json, those with an encoding first (in
the order of the table), then the rows without one. Those are events: they name the thing they act on by thread key `tk`, core key `ck`, quad index `qi`,
or the name `id` it bears in flight. -/
inductive Instr where
  /-- NOP (R46): Has no effect beyond advancing the PC and counting as an issue. -/
  | nop
  /-- ADD (R101): d := a + b modulo 2^64. -/
  | add (d a b : Reg)
  /-- SUB (R101): d := a - b modulo 2^64. -/
  | sub (d a b : Reg)
  /-- ADDW (R101): d := sign-extended low 32 bits of a + b. -/
  | addw (d a b : Reg)
  /-- SUBW (R101): d := sign-extended low 32 bits of a - b. -/
  | subw (d a b : Reg)
  /-- MUL (R101): d := low 64 bits of a × b. -/
  | mul (d a b : Reg)
  /-- MULH (R101): d := high 64 bits of the signed 128-bit product. -/
  | mulh (d a b : Reg)
  /-- MULHU (R101): d := high 64 bits of the unsigned 128-bit product. -/
  | mulhu (d a b : Reg)
  /-- MULW (R101): d := sign-extended low 32 bits of a × b. -/
  | mulw (d a b : Reg)
  /-- DIV (R101): Signed division with spacing 24, never trapping, with defined results for zero and overflow. -/
  | div (d a b : Reg)
  /-- DIVU (R101): Unsigned division with spacing 24; all ones on division by zero. -/
  | divu (d a b : Reg)
  /-- REM (R101): Signed remainder with spacing 24 and defined special cases. -/
  | rem (d a b : Reg)
  /-- REMU (R101): Unsigned remainder with spacing 24; a on division by zero. -/
  | remu (d a b : Reg)
  /-- AND (R101): d := a & b. -/
  | and_ (d a b : Reg)
  /-- OR (R101): d := a | b. -/
  | or_ (d a b : Reg)
  /-- XOR (R101): d := a ^ b. -/
  | xor (d a b : Reg)
  /-- ANDN (R101): d := a & ~b. -/
  | andn (d a b : Reg)
  /-- ORN (R101): d := a | ~b. -/
  | orn (d a b : Reg)
  /-- SHL (R101): d := a shifted left by b[5:0]. -/
  | shl (d a b : Reg)
  /-- SHR (R101): d := a shifted right logically by b[5:0]. -/
  | shr (d a b : Reg)
  /-- SRA (R101): d := a shifted right arithmetically by b[5:0]. -/
  | sra (d a b : Reg)
  /-- ROTL (R101): d := a rotated left by b[5:0]. -/
  | rotl (d a b : Reg)
  /-- ROTR (R101): d := a rotated right by b[5:0]. -/
  | rotr (d a b : Reg)
  /-- CLZ (R101): d := count of leading zero bits of a. -/
  | clz (d a : Reg)
  /-- CTZ (R101): d := count of trailing zero bits of a. -/
  | ctz (d a : Reg)
  /-- POPC (R101): d := count of one bits of a. -/
  | popc (d a : Reg)
  /-- BREV (R101): d := a with its bits reversed. -/
  | brev (d a : Reg)
  /-- BSWAP (R101): d := a with its bytes reversed. -/
  | bswap (d a : Reg)
  /-- MIN (R101): d := signed minimum of a and b. -/
  | min (d a b : Reg)
  /-- MAX (R101): d := signed maximum of a and b. -/
  | max (d a b : Reg)
  /-- MINU (R101): d := unsigned minimum of a and b. -/
  | minu (d a b : Reg)
  /-- MAXU (R101): d := unsigned maximum of a and b. -/
  | maxu (d a b : Reg)
  /-- SEQ (R101): d := 1 when a = b, else 0. -/
  | seq (d a b : Reg)
  /-- SNE (R101): d := 1 when a differs from b, else 0. -/
  | sne (d a b : Reg)
  /-- SLT (R101): d := 1 when a < b signed, else 0. -/
  | slt (d a b : Reg)
  /-- SLTU (R101): d := 1 when a < b unsigned, else 0. -/
  | sltu (d a b : Reg)
  /-- ADDI (R101): d := a + sign-extended imm22. -/
  | addi (d a : Reg) (imm : BitVec 22)
  /-- ANDI (R101): d := a & sign-extended imm22. -/
  | andi (d a : Reg) (imm : BitVec 22)
  /-- ORI (R101): d := a | sign-extended imm22. -/
  | ori (d a : Reg) (imm : BitVec 22)
  /-- XORI (R101): d := a ^ sign-extended imm22. -/
  | xori (d a : Reg) (imm : BitVec 22)
  /-- SLTI (R101): d := 1 when a < sign-extended imm22, else 0. -/
  | slti (d a : Reg) (imm : BitVec 22)
  /-- SHLI (R101): d := a shifted left by an immediate 0-63. -/
  | shli (d a : Reg) (imm : BitVec 22)
  /-- SHRI (R101): d := a shifted right logically by an immediate 0-63. -/
  | shri (d a : Reg) (imm : BitVec 22)
  /-- SRAI (R101): d := a shifted right arithmetically by an immediate 0-63. -/
  | srai (d a : Reg) (imm : BitVec 22)
  /-- SEL (R101): d := b when a is non-zero, else c. -/
  | sel (d a b c : Reg)
  /-- EXT (R101): d := zero-extended bit field of a. -/
  | ext (d a : Reg) (pos : BitVec 6) (len : BitVec 7)
  /-- EXTS (R101): d := sign-extended bit field of a. -/
  | exts (d a : Reg) (pos : BitVec 6) (len : BitVec 7)
  /-- INS (R101): Replaces a bit field of d with the low bits of a. -/
  | ins (d a : Reg) (pos : BitVec 6) (len : BitVec 7)
  /-- LI (R101): d := sign-extended 48-bit immediate. -/
  | li (d : Reg) (imm : BitVec 48)
  /-- LIH (R101): d := imm16 in bits [63:48] over the low 48 bits of a. -/
  | lih (d a : Reg) (imm : BitVec 16)
  /-- MOV (R101): d := a. -/
  | mov (d a : Reg)
  /-- ADDPC (R101): d := PC of this head + sign-extended imm22. -/
  | addpc (d : Reg) (imm : BitVec 22)
  /-- BR (R102): Unconditional branch, B form with a 15-bit line offset. -/
  | br (off : BitVec 15) (idx : BitVec 5)
  /-- BR_LONG (R102): Unconditional branch, BL form with a 37-bit line offset. -/
  | brLong (off : BitVec 37) (idx : BitVec 5)
  /-- BEQ (R102): Branches when a = b. -/
  | beq (a b : Reg) (off : BitVec 15) (idx : BitVec 5)
  /-- BNE (R102): Branches when a differs from b. -/
  | bne (a b : Reg) (off : BitVec 15) (idx : BitVec 5)
  /-- BLT (R102): Branches when a < b signed. -/
  | blt (a b : Reg) (off : BitVec 15) (idx : BitVec 5)
  /-- BGE (R102): Branches when a >= b signed. -/
  | bge (a b : Reg) (off : BitVec 15) (idx : BitVec 5)
  /-- BLTU (R102): Branches when a < b unsigned. -/
  | bltu (a b : Reg) (off : BitVec 15) (idx : BitVec 5)
  /-- BGEU (R102): Branches when a >= b unsigned. -/
  | bgeu (a b : Reg) (off : BitVec 15) (idx : BitVec 5)
  /-- BZ (R102): Branches when a = 0, B form. -/
  | bz (a : Reg) (off : BitVec 15) (idx : BitVec 5)
  /-- BZ_LONG (R102): Branches when a = 0, BL form. -/
  | bzLong (a : Reg) (off : BitVec 37) (idx : BitVec 5)
  /-- BNZ (R102): Branches when a is non-zero, B form. -/
  | bnz (a : Reg) (off : BitVec 15) (idx : BitVec 5)
  /-- BNZ_LONG (R102): Branches when a is non-zero, BL form. -/
  | bnzLong (a : Reg) (off : BitVec 37) (idx : BitVec 5)
  /-- CALL (R103): Writes the link PC into d and branches, B form. -/
  | call (d : Reg) (off : BitVec 15) (idx : BitVec 5)
  /-- CALL_LONG (R103): Writes the link PC into d and branches, BL form. -/
  | callLong (d : Reg) (off : BitVec 37) (idx : BitVec 5)
  /-- CALLR (R103): Writes the link PC into d and jumps to the address in a. -/
  | callr (d a : Reg)
  /-- RET (R103): Jumps to the address in d and marks a return in the branch trace. -/
  | ret (d : Reg)
  /-- JR (R103): Jumps to the address in d. -/
  | jr (d : Reg)
  /-- LOOP (R104): Decrements d and branches when the result is non-zero, B form. -/
  | loop (d : Reg) (off : BitVec 15) (idx : BitVec 5)
  /-- LOOP_LONG (R104): Decrements d and branches when the result is non-zero, BL form. -/
  | loopLong (d : Reg) (off : BitVec 37) (idx : BitVec 5)
  /-- YIELD (R105): Does nothing with spacing 8, giving turns to sibling slots. -/
  | yield
  /-- TEND (R325): Waits for the slot's counts, hands held records to the drain or fences, returns the allotment and frees the slot. -/
  | tend
  /-- TRAP (R106): Raises ECAUSE 0x15 with EINFO = n. -/
  | trap (n : BitVec 6)
  /-- ERET (R107): Returns from a trap handler to EPC, restoring PL and EXL from ESTATUS. -/
  | eret
  /-- RDSR (R108): Reads a system register into d after privilege and number checks. -/
  | rdsr (d : Reg) (sr : BitVec 12)
  /-- WRSR (R108): Writes a system register that has no behaviour of its own, after privilege and number checks. -/
  | wrsr (sr : BitVec 12) (a : Reg)
  /-- SWSR (R108): Atomically swaps a system register, returning the old value. -/
  | swsr (d : Reg) (sr : BitVec 12) (a : Reg)
  /-- GETID (R109): Writes the thread, core, quad, partition, panel or size identifier selected by the minor. -/
  | getid (sel : IdSel) (d : Reg)
  /-- WID (R109): Writes field n of the slot's work identifier. -/
  | wid (d : Reg) (n : BitVec 22)
  /-- TIME_LOC (R109): Writes TCNT of the slot's region. -/
  | timeLoc (d : Reg)
  /-- TIME_GLOB (R109): Writes TCNT + TOFS, region-0 time. -/
  | timeGlob (d : Reg)
  /-- WAITADDR (R110): Checks a local word and blocks until it differs from b or a WAKE arrives, then loads it as an acquire. -/
  | waitaddr (d a b : Reg) (off : BitVec 14) (w : BitVec 2)
  /-- WAKE (R111): Posts a wake to a partition-relative thread after range and absence checks. -/
  | wake (a : Reg)
  /-- SPILL (R112): Supervisor request to spill a slot to an image; rips an optimistic task; returns a status. -/
  | spill (d a b : Reg)
  /-- RESTOR (R112): Supervisor request to fill a free slot from a spill image; returns a status. -/
  | restor (d a b : Reg)
  /-- BRK (R106): Raises ECAUSE 0x14, or halts the quad when it is armed for breakpoints. -/
  | brk (n : BitVec 6)
  /-- BASTE (R369): Takes a basting checkpoint into the alternate half of the guarding quad's area. -/
  | baste
  /-- SALLOC (R113): Allocates from the slot's scratchpad allotment or exhausts it. -/
  | salloc (d a : Reg) (imm : BitVec 22)
  /-- SFREE (R113): Sets the allotment TOP to a after checks. -/
  | sfree (a : Reg)
  /-- QMAP (R114): Binds a core queue to writer and reader slots, discarding its entries and held pushes. -/
  | qmap (q : BitVec 2) (w r : BitVec 3)
  /-- QCLEAR (R115): Discards a core queue's entries and keeps the binding. -/
  | qclear (q : BitVec 2)
  /-- QLEN (R115): Writes the count of a core queue. -/
  | qlen (d : Reg) (n : BitVec 22)
  /-- VADD (R134): FP32 lanewise addition rounded once. -/
  | vadd (d a b : VReg) (m : MReg) (r : Rnd)
  /-- VSUB (R134): FP32 lanewise subtraction rounded once. -/
  | vsub (d a b : VReg) (m : MReg) (r : Rnd)
  /-- VMUL (R134): FP32 lanewise multiplication rounded once. -/
  | vmul (d a b : VReg) (m : MReg) (r : Rnd)
  /-- VDIV (R134): FP32 lanewise division rounded once. -/
  | vdiv (d a b : VReg) (m : MReg) (r : Rnd)
  /-- VFMA (R134): Fused a × b + c per FP32 lane. -/
  | vfma (d a b c : VReg) (m : MReg) (r : Rnd)
  /-- VFMS (R134): Fused a × b - c per FP32 lane. -/
  | vfms (d a b c : VReg) (m : MReg) (r : Rnd)
  /-- VFNMA (R134): Fused -(a × b) + c per FP32 lane. -/
  | vfnma (d a b c : VReg) (m : MReg) (r : Rnd)
  /-- VMIN (R135): Lanewise minimum with the NaN and signed-zero rules. -/
  | vmin (d a b : VReg) (m : MReg) (ty : VTy)
  /-- VMAX (R135): Lanewise maximum with the NaN and signed-zero rules. -/
  | vmax (d a b : VReg) (m : MReg) (ty : VTy)
  /-- VABS (R135): Lanewise absolute value. -/
  | vabs (d a : VReg) (m : MReg) (ty : VTy)
  /-- VNEG (R135): Lanewise negation. -/
  | vneg (d a : VReg) (m : MReg) (ty : VTy)
  /-- VRCP (R136): Lanewise reciprocal rounded to nearest. -/
  | vrcp (d a : VReg) (m : MReg)
  /-- VRSQ (R136): Lanewise reciprocal square root. -/
  | vrsq (d a : VReg) (m : MReg)
  /-- VEXP2 (R136): Lanewise base-2 exponential. -/
  | vexp2 (d a : VReg) (m : MReg)
  /-- VLOG2 (R136): Lanewise base-2 logarithm. -/
  | vlog2 (d a : VReg) (m : MReg)
  /-- VSQRT (R136): Lanewise square root. -/
  | vsqrt (d a : VReg) (m : MReg)
  /-- VTANH (R136): Lanewise hyperbolic tangent. -/
  | vtanh (d a : VReg) (m : MReg)
  /-- VCVT (R142): Converts FP32 lanes to or from a narrow or FP64 format. -/
  | vcvt (d a : VReg) (m : MReg) (fmt : NFmt) (toF32 : Bool) (r : Rnd)
  /-- VQUANT (R143): Quantises FP32 lanes by E8M0 block scales into packed narrow elements. -/
  | vquant (d a b : VReg) (m : MReg) (fmt : NFmt) (r : Rnd)
  /-- VSCALE (R137): Multiplies each lane by 2 to an integer lane power. -/
  | vscale (d a b : VReg) (m : MReg) (ty : VTy) (r : Rnd)
  /-- VCMP (R138): Writes a mask of lanewise comparison results. -/
  | vcmp (d : MReg) (a b : VReg) (m : MReg) (ty : VTy) (c : Cond)
  /-- VSEL (R139): Selects each lane from VA or VB by the mask. -/
  | vsel (d a b : VReg) (m : MReg) (ty : VTy)
  /-- VIADD (R140): Integer lanewise addition, wrapping or saturating. -/
  | viadd (d a b : VReg) (m : MReg) (ty : VTy) (sat : Bool)
  /-- VISUB (R140): Integer lanewise subtraction, wrapping or saturating. -/
  | visub (d a b : VReg) (m : MReg) (ty : VTy) (sat : Bool)
  /-- VIMUL (R140): Integer lanewise multiplication, low, high or saturated. -/
  | vimul (d a b : VReg) (m : MReg) (ty : VTy) (sat hi : Bool)
  /-- VIMAD (R140): Integer lanewise a × b + c, wrapped or saturated once. -/
  | vimad (d a b c : VReg) (m : MReg) (ty : VTy) (sat : Bool)
  /-- VAND (R141): Lanewise bitwise and. -/
  | vand (d a b : VReg) (m : MReg) (ty : VTy)
  /-- VOR (R141): Lanewise bitwise or. -/
  | vor (d a b : VReg) (m : MReg) (ty : VTy)
  /-- VXOR (R141): Lanewise bitwise exclusive or. -/
  | vxor (d a b : VReg) (m : MReg) (ty : VTy)
  /-- VSHL (R141): Lanewise shift left. -/
  | vshl (d a b : VReg) (m : MReg) (ty : VTy)
  /-- VSHR (R141): Lanewise logical shift right. -/
  | vshr (d a b : VReg) (m : MReg) (ty : VTy)
  /-- VSRA (R141): Lanewise arithmetic shift right. -/
  | vsra (d a b : VReg) (m : MReg) (ty : VTy)
  /-- VREDADD (R146): Sums active lanes in a fixed tree into every lane. -/
  | vredadd (d a : VReg) (m : MReg) (ty : VTy) (r : Rnd)
  /-- VREDMAX (R146): Maximum of active lanes in a fixed tree into every lane. -/
  | vredmax (d a : VReg) (m : MReg) (ty : VTy)
  /-- VREDMIN (R146): Minimum of active lanes in a fixed tree into every lane. -/
  | vredmin (d a : VReg) (m : MReg) (ty : VTy)
  /-- VSCANADD (R147): Inclusive prefix sums of the active lanes. -/
  | vscanadd (d a : VReg) (m : MReg) (ty : VTy) (r : Rnd)
  /-- VPERM (R148): Permutes lanes by an index vector. -/
  | vperm (d a b : VReg) (m : MReg) (ty : VTy)
  /-- VBCAST (R148): Broadcasts lane j to active lanes. -/
  | vbcast (d a : VReg) (m : MReg) (ty : VTy) (j : BitVec 6)
  /-- VSPLAT (R148): Broadcasts a scalar to active lanes. -/
  | vsplat (d : VReg) (a : Reg) (m : MReg) (ty : VTy)
  /-- VIOTA (R148): Writes the lane index into active lanes. -/
  | viota (d : VReg) (m : MReg) (ty : VTy)
  /-- VMOV (R148): Copies active lanes of VA. -/
  | vmov (d a : VReg) (m : MReg) (ty : VTy)
  /-- VEXTR (R149): Extracts one 32- or 64-bit lane into a scalar register. -/
  | vextr (d : Reg) (v : VReg) (b : Reg) (wide : Bool)
  /-- VINSR (R149): Inserts a scalar into one 32- or 64-bit lane. -/
  | vinsr (v : VReg) (a b : Reg) (wide : Bool)
  /-- VLD (R150): Loads one footprint decoded by the address's window. -/
  | vld (v : VReg) (a : Reg) (off : BitVec 14) (m : MReg) (w : BitVec 2) (cp : Cp)
  /-- VST (R150): Stores one footprint encoded by the address's window. -/
  | vst (v : VReg) (a : Reg) (off : BitVec 14) (m : MReg) (w : BitVec 2) (cp : Cp)
  /-- VLDS (R151): Loads 64 strided elements. -/
  | vlds (v : VReg) (a b : Reg) (m : MReg) (off : BitVec 10)
  /-- VSTS (R151): Stores 64 strided elements. -/
  | vsts (v : VReg) (a b : Reg) (m : MReg) (off : BitVec 10)
  /-- VGATH (R152): Gathers 64 indexed elements. -/
  | vgath (v : VReg) (a : Reg) (ix : VReg) (m : MReg) (sc : BitVec 2)
  /-- VSCAT (R152): Scatters 64 indexed elements. -/
  | vscat (v : VReg) (a : Reg) (ix : VReg) (m : MReg) (sc : BitVec 2)
  /-- MAND (R154): Mask and. -/
  | mand (d a b : MReg)
  /-- MOR (R154): Mask or. -/
  | mor (d a b : MReg)
  /-- MXOR (R154): Mask exclusive or. -/
  | mxor (d a b : MReg)
  /-- MNOT (R154): Mask complement. -/
  | mnot (d a : MReg)
  /-- MPOPC (R154): Counts the set bits of a mask. -/
  | mpopc (d : Reg) (a : MReg)
  /-- MFIRST (R154): Index of the lowest set bit of a mask, 64 when none. -/
  | mfirst (d : Reg) (a : MReg)
  /-- MSETV (R154): Sets a mask from a scalar register. -/
  | msetv (d : MReg) (a : Reg)
  /-- MGETV (R154): Copies a mask into a scalar register. -/
  | mgetv (d : Reg) (a : MReg)
  /-- VDADD (R134): FP64 lanewise addition. -/
  | vdadd (d a b : VReg) (m : MReg) (r : Rnd)
  /-- VDMUL (R134): FP64 lanewise multiplication. -/
  | vdmul (d a b : VReg) (m : MReg) (r : Rnd)
  /-- VDFMA (R134): FP64 lanewise fused multiply-add. -/
  | vdfma (d a b c : VReg) (m : MReg) (r : Rnd)
  /-- VCLASS (R144): Classifies each floating lane into one-hot class bits. -/
  | vclass (d a : VReg) (m : MReg) (ty : VTy)
  /-- VROUND (R144): Rounds each floating lane to an integral value. -/
  | vround (d a : VReg) (m : MReg) (ty : VTy) (r : Rnd)
  /-- VFCVTI (R145): Converts floating lanes to saturated integers. -/
  | vfcvti (d a : VReg) (m : MReg) (ty : VTy) (r : Rnd)
  /-- VICVTF (R145): Converts integer lanes to floating lanes. -/
  | vicvtf (d a : VReg) (m : MReg) (ty : VTy) (r : Rnd)
  /-- LD (R223): Loads a value through the address's window, zero-extended. -/
  | ld (d a : Reg) (off : BitVec 14) (sz : Size) (w : BitVec 2) (cp : Cp)
  /-- LDS (R223): Loads a value through the address's window, sign-extended. -/
  | lds (d a : Reg) (off : BitVec 14) (sz : Size) (w : BitVec 2) (cp : Cp)
  /-- ST (R223): Stores b through the address's window; remote stores are posted. -/
  | st (a b : Reg) (off : BitVec 14) (sz : Size) (w : BitVec 2) (cp : Cp)
  /-- LDG (R223): Loads from a + b × size + offset. -/
  | ldg (d a b : Reg) (off : BitVec 14) (sz : Size) (w : BitVec 2) (cp : Cp)
  /-- STG (R223): Stores register D at a + b × size + offset. -/
  | stg (d a b : Reg) (off : BitVec 14) (sz : Size) (w : BitVec 2) (cp : Cp)
  /-- LDA (R224): Acquire load at its scope. -/
  | lda (d a : Reg) (sz : Size) (sc : Scope)
  /-- STL (R224): Release store at its scope. -/
  | stl (a b : Reg) (sz : Size) (sc : Scope)
  /-- PREF (R226): Prefetches an HBM line when translation hits, else does nothing. -/
  | pref (a : Reg) (off : BitVec 14) (cp : Cp)
  /-- CFLUSH_LINE (R227): Pushes the core's buffered stores to a line and evicts it from L1 and RDC. -/
  | cflushLine (a : Reg)
  /-- CFLUSH_ALL (R227): Pushes all buffered stores and evicts the whole L1. -/
  | cflushAll (a : Reg)
  /-- CINV_LINE (R227): Invalidates one L1 data line and its pin. -/
  | cinvLine (a : Reg)
  /-- CINV_ILINE (R227): Invalidates one instruction line in the quad instruction cache. -/
  | cinvIline (a : Reg)
  /-- CINV_ALL (R227): Invalidates every L1 data line, pinned lines included. -/
  | cinvAll (a : Reg)
  /-- FENCE (R225): Blocks later heads until the scope's counter and buffer conditions hold. -/
  | fence (sc : Scope)
  /-- WAITC (R221): Blocks until the outstanding counters fall to the given limits. -/
  | waitc (l s c t : BitVec 4)
  /-- LDE (R252): Checks and issues a full/empty load that waits for a full word. -/
  | lde (d a : Reg) (off : BitVec 14) (w : BitVec 2) (cp : Cp)
  /-- STF (R252): Checks and issues a full/empty store that waits for an empty word. -/
  | stf (a b : Reg) (off : BitVec 14) (w : BitVec 2) (cp : Cp)
  /-- FEINIT_EMPTY (R253): Writes b and sets the word's state empty. -/
  | feinitEmpty (a b : Reg)
  /-- FEINIT_FULL (R253): Writes b and sets the word's state full. -/
  | feinitFull (a b : Reg)
  /-- TOUCH_RD (R228): Translates an address for reading through the fault path without moving data. -/
  | touchRd (a : Reg)
  /-- TOUCH_WR (R228): Translates an address for writing through the fault path without moving data. -/
  | touchWr (a : Reg)
  /-- AMO (R246): Atomic read-modify-write returning the old value. -/
  | amo (d a b : Reg) (op : AmoOp) (wide : Bool) (mo : MOrd) (sc : Scope)
  /-- CAS (R247): Compare and swap of 4 or 8 bytes. -/
  | cas (d a b c : Reg) (wide : Bool) (mo : MOrd) (sc : Scope)
  /-- CAS2 (R247): Compare and swap of 16 bytes on register pairs. -/
  | cas2 (d a b c : Reg) (mo : MOrd) (sc : Scope)
  /-- RED (R248): Posted atomic without result, or a tree reduction when b[63:48] is non-zero. -/
  | red (a b : Reg) (op : AmoOp) (wide : Bool) (mo : MOrd) (sc : Scope)
  /-- PLACE_SET (R217): Sets the partition's page placement threshold. -/
  | placeSet (imm : BitVec 22)
  /-- PLACE_GET (R217): Reads the partition's page placement threshold. -/
  | placeGet (d : Reg)
  /-- PLACE_CLR (R217): Clears all or one granule's placement counters. -/
  | placeClr (a : Reg)
  /-- ARRIVE (R257): Marks the slot's arrival on a wired barrier group as a release. -/
  | arrive (g : BitVec 5)
  /-- WAITB (R258): Blocks until the phase of the slot's latest arrival is released. -/
  | waitb (g : BitVec 5)
  /-- BARSET (R256): Checks a membership descriptor for a wired barrier group. -/
  | barset (g : BitVec 5) (a : Reg)
  /-- TBINIT (R263): Initialises a transaction barrier with expected arrivals. -/
  | tbinit (a b : Reg)
  /-- TBEXP (R263): Adds expected bytes to a transaction barrier. -/
  | tbexp (a b : Reg)
  /-- TBARR (R263): Arrives on a transaction barrier, returning the phase. -/
  | tbarr (d a : Reg)
  /-- TBWAIT (R264): Blocks until the barrier's phase differs from b. -/
  | tbwait (a b : Reg)
  /-- TBTEST (R264): Writes 1 when the barrier's phase differs from b. -/
  | tbtest (d a b : Reg)
  /-- CHPUSH (R287): Waits for release and room, assigns a sequence number and sends an element to the home. -/
  | chpush (k : ElemKind) (a b : Reg) (imm : BitVec 10)
  /-- CHPOP (R289): Pops an element at the home, blocking while the channel is empty and open. -/
  | chpop (k : ElemKind) (d a b : Reg) (imm : BitVec 10)
  /-- CHOFFER (R288): Pushes an element only if room exists, returning a status. -/
  | choffer (k : ElemKind) (d a b : Reg) (imm : BitVec 10)
  /-- CHTAKE (R289): Pops an element if one is visible, else returns status 1. -/
  | chtake (k : ElemKind) (d a b : Reg) (imm : BitVec 10)
  /-- CHPEEK (R289): Reads the head element without removing it. -/
  | chpeek (k : ElemKind) (d a b : Reg) (imm : BitVec 10)
  /-- CHLEN (R290): Writes the element count known at the issuing quad. -/
  | chlen (d a : Reg) (imm : BitVec 10)
  /-- CHCLOSE (R291): Sends the close mark behind the writer's pushes. -/
  | chclose (a : Reg) (imm : BitVec 10)
  /-- CHINV (R292): Drops the channel entry cached at the issuing quad, writing it back at the home. -/
  | chinv (a : Reg) (imm : BitVec 10)
  /-- SPAWN (R318): Launches a header without waiting, optionally for one tile. -/
  | spawn (a b : Reg)
  /-- DEC (R319): Posts a release decrement of a dependence cell. -/
  | dec (a : Reg)
  /-- TSET (R320): Sets the count of an armed dependence cell. -/
  | tset (a b : Reg)
  /-- DOMAIN (R321): Writes the extent, origin or count of a field, or NF. -/
  | domain (sel : DomSel) (d : Reg) (n : BitVec 22)
  /-- ALLOW (R322): Writes what remains of a cycle, scratchpad, effect or register allowance. -/
  | allow (sel : AllowSel) (d : Reg)
  /-- KEYHOME (R323): Writes the partition-logical quad that is home of a key on the ring. -/
  | keyhome (d a : Reg)
  /-- SPLIT (R324): Rips the optimistic task with split when its piece is splittable. -/
  | split
  /-- LAUNCH (R317): Submits a launch header and blocks until the engine returns a status. -/
  | launch (d a b : Reg)
  /-- GEOM (R169): Writes a tile bound or edge mask computed from GEOM0-GEOM3. -/
  | geom (sel : GeomSel) (d : Reg)
  /-- LTAB (R160): Checks and starts loading the quad's lattice pattern table. -/
  | ltab (a : Reg)
  /-- WLOAD (R179): Checks and starts loading the core's shadow plane without scales. -/
  | wload (a b : Reg)
  /-- WLOAD_SC (R179): Pairs a scale block and starts loading the shadow plane with scales. -/
  | wloadSc (a b : Reg)
  /-- WSWAP (R180): Exchanges active and shadow planes in slice order. -/
  | wswap
  /-- GANG (R171): Checks a descriptor address and enters the core's gang sequence, blocking until the join. -/
  | gang (a : Reg)
  /-- MZERO (R181): Zeroes accumulator rows in slice order. -/
  | mzero (first : BitVec 6) (count : BitVec 7)
  /-- MDRAIN (R184): Converts accumulator rows and writes them to local scratchpad. -/
  | mdrain (fmt : OFmt) (r : Rnd) (a b c : Reg)
  /-- MDRAIN_PORT (R185): Converts accumulator rows into handles for the read side of c28. -/
  | mdrainPort (fmt : OFmt) (r : Rnd) (b : Reg)
  /-- MREAD (R182): Copies one accumulator row into a vector register. -/
  | mread (d : VReg) (g : BitVec 22)
  /-- SBTAKE (R167): Stages or discards the oldest scale block of the core's queue. -/
  | sbtake (d a : Reg)
  /-- CPYQ (R344): Checks and queues a copy, stalling when the FIFO is full. -/
  | cpyq (d a : Reg)
  /-- CPYQ_NB (R344): Checks and queues a copy, returning busy when the FIFO is full. -/
  | cpyqNb (d a : Reg)
  /-- CPYST (R346): Writes the copy FIFO depth or status. -/
  | cpyst (sel : CpySel) (d : Reg)
  /-- CPYRES (R345): Resubmits the copy of a handback record, stalling when full. -/
  | cpyres (d a : Reg)
  /-- CPYRES_NB (R345): Resubmits the copy of a handback record, returning busy when full. -/
  | cpyresNb (d a : Reg)
  /-- MSEND (R348): Checks and enqueues a message to a global core address or the panel controller. -/
  | msend (k : ElemKind) (d a b c : Reg) (len : BitVec 10)
  /-- MRECV (R350): Pops the oldest message of the core, blocking while the queue is empty. -/
  | mrecv (k : ElemKind) (d b : Reg) (len : BitVec 10)
  /-- MWAIT (R351): Blocks until the receive queue is non-empty or a WAKE names the slot. -/
  | mwait
  /-- MSGST (R352): Writes the receive-queue count or transmit status. -/
  | msgst (sel : MsgSel) (d : Reg)
  /-- ILLEGAL_INSTRUCTION (R53): Issue of a head with an unassigned major, major 0xFF or an undefined field value raises ECAUSE 0x01 before any operand is read. -/
  | illegalInstruction (head : BitVec 16) (rsv : Bool)
  /-- HELD_PUSH_RETRY (R89): A held slot retries its push into a full port and performs it once room exists. -/
  | heldPushRetry (tk : Nat)
  /-- ASYNC_TRAP_ENTRY (R97): A pending asynchronous cause is taken before the next issue once EXL is 0, abandoning a blocked head. -/
  | asyncTrapEntry (tk : Nat)
  /-- LINE_FETCH (R38): The fetch unit fetches a head's line, checks it is well formed and raises ECAUSE 0x11 or a fetch fault. -/
  | lineFetch (tk : Nat)
  /-- CYCLE_ALLOWANCE_EXHAUSTED (R309): REM reaches 0: an optimistic task is ripped or faults, a pinned task takes ECAUSE 0x17. -/
  | cycleAllowanceExhausted (tk : Nat)
  /-- BASTE_INTERVAL_EXPIRY (R369): IVL × 1,024 cycles after the last checkpoint an implied BASTE is taken. -/
  | basteIntervalExpiry (tk : Nat)
  /-- WAKE_ARRIVAL (R111): A posted wake ends the target's WAITADDR or MWAIT, or sets its wake-pending bit. -/
  | wakeArrival (tk : Nat)
  /-- SLOT_SPILL (R100): Once the slot's counts are zero the spill engine starts writing its image. -/
  | slotSpill (tk : Nat)
  /-- SPILL_COMPLETE (R100): The image write ends after 80 cycles and the slot becomes free. -/
  | spillComplete (tk : Nat)
  /-- RESTORE_COMPLETE (R100): A restore ends after 80 cycles and the slot is ready at the image PC. -/
  | restoreComplete (tk : Nat)
  /-- VECTOR_BEAT_START (R121): A lane group's arbiter starts the next beat of a core with quota. -/
  | vectorBeatStart (qi g : Nat)
  /-- VECTOR_COMPLETE (R120): A vector instruction writes its destination in its completion cycle and frees its queue entry. -/
  | vectorComplete (ck id : Nat)
  /-- LDE_PERFORM (R252): At the word's scratchpad a waiting LDE reads a full word and sets it empty. -/
  | ldePerform (id : Nat)
  /-- STF_PERFORM (R252): At the word's scratchpad a waiting STF writes an empty word and sets it full. -/
  | stfPerform (id : Nat)
  /-- LOAD_RESPONSE (R223): A load or atomic result arrives, is written to its register and ends its LDC count. -/
  | loadResponse (id : Nat)
  /-- STORE_ACK (R218): A destination acknowledges a store as performed and its STC count ends. -/
  | storeAck (id : Nat)
  /-- REMOTE_ACCESS_ARRIVAL (R197): A remote scratchpad access reaches its destination interface, which performs it or sends a denial. -/
  | remoteAccessArrival (id : Nat)
  /-- REMOTE_DENIAL (R197): A denial returns to the issuing slot, ends the count and raises an asynchronous ECAUSE 0x07. -/
  | remoteDenial (id : Nat)
  /-- HOME_STORE (R200): A store reaches its home slice, invalidates other RDC copies and is performed. -/
  | homeStore (id : Nat)
  /-- HOME_ATOMIC (R244): An atomic executes at the line's home slice after recalling any exclusive owner. -/
  | homeAtomic (id : Nat)
  /-- PAGE_MIGRATION (R216): A granule whose count reached the threshold is copied to a frame homed at its leader and remapped. -/
  | pageMigration (granule frame : Nat)
  /-- NI_ATOMIC (R243): An atomic executes at a destination network interface, replaying a logged value for a basted replay. -/
  | niAtomic (id : Nat)
  /-- TRANSLATION_REQUEST (R204): A TLB-missing access reaches its translating slice, which looks up the TLBs or walks and forwards it. -/
  | translationRequest (id : Nat)
  /-- STAGE2_FAULT_REPLY (R211): The panel controller resolves a stage-2 fault and replies retry or fail. -/
  | stage2FaultReply (id : Nat) (retry : Bool)
  /-- FAULT_NOTICE (R211): A fault notice reaches the slot, which blocks before its next issue. -/
  | faultNotice (id : Nat)
  /-- ATS_REPLY (R208): The host IOMMU answers an ATS translation, and a refusal ends the access with ECAUSE 0x06. -/
  | atsReply (id : Nat) (ok : Bool)
  /-- FREPLY_RETRY (R212): A FREPLY write with FAIL 0 resends every faulted access of the thread and tag. -/
  | freplyRetry (pid thread : Nat) (tag : BitVec 8)
  /-- FREPLY_FAIL (R212): A FREPLY write with FAIL 1 ends the faulted accesses unperformed and raises ECAUSE 0x06. -/
  | freplyFail (pid thread : Nat) (tag : BitVec 8) (reason : BitVec 12)
  /-- S1INV_PAGE (R210): A write to S1INV invalidates one virtual page's stage-1 translations. -/
  | s1invPage (pid vpn size : Nat)
  /-- S1INV_ALL (R210): A write to S1INV with ALL invalidates every stage-1 translation of the partition. -/
  | s1invAll (pid : Nat)
  /-- S1INV_COMPLETE (R210): An accepted invalidation completes and DONE increments. -/
  | s1invComplete (pid : Nat)
  /-- BARSET_INSTALL (R256): Once no arrival is pending or FORCE is set, BARMASK is written on every quad of the partition. -/
  | barsetInstall (pid g : Nat)
  /-- BARRIER_RELEASE (R257): A phase whose members have all arrived is released at the member quads and wakes WAITB. -/
  | barrierRelease (pid g : Nat)
  /-- CHANNEL_FILL (R271): A channel-table entry read completes into the quad's cache, or a failed push-started fill refuses waiting pushes. -/
  | channelFill (qi ch : Nat)
  /-- CHANNEL_PUSH_ACCEPT (R274): The home accepts a push in sequence order into ring or spill and acknowledges it once visible. -/
  | channelPushAccept (id : Nat)
  /-- CHANNEL_REFILL (R274): The refill engine moves the first spilled element into ring room. -/
  | channelRefill (qi ch : Nat)
  /-- CHANNEL_EVICTION (R272): An entry leaving the home cache lets out its ring, writes back its fields and frees ring space. -/
  | channelEviction (qi ch : Nat)
  /-- CHANNEL_ROOM_REPORT (R287): The home reports freed room or a new LETLIM to the writer's quad. -/
  | channelRoomReport (qi ch : Nat)
  /-- CHANNEL_CLOSE_APPLY (R279): The close mark takes effect at the home when TAIL reaches the writer's count. -/
  | channelCloseApply (id : Nat)
  /-- PROBE_SEND (R284): After 2,048 cycles in one channel wait, and every 4,096 after, a slot sends a probe along its edge. -/
  | probeSend (tk : Nat)
  /-- PROBE_ARRIVAL (R284): A probe reaches the target thread's interface and is forwarded, ended or returned. -/
  | probeArrival (id : Nat)
  /-- PROBE_EXPIRY (R284): A probe not returned within 4,096 cycles ends. -/
  | probeExpiry (id : Nat)
  /-- LETOUT_REQUEST (R285): A let-out request at the home grows LETLIM by a step from ALLOWANCE when the channel is still full. -/
  | letoutRequest (id : Nat)
  /-- SPAWN_ACCEPT (R318): The launch engine accepts or refuses a spawn and ends its STC.S count. -/
  | spawnAccept (id : Nat)
  /-- DEP_CELL_DECREMENT (R319): At the cell, an armed count is decremented and a zero count releases the cell. -/
  | depCellDecrement (id : Nat)
  /-- LAUNCH_ACCEPT (R298): The engine reads and checks a header, allots a record, arms a cell or places pieces. -/
  | launchAccept (id : Nat)
  /-- PIECE_ENQUEUE (R302): A piece enters the tail of its priority list once a list entry is free. -/
  | pieceEnqueue (qi rec : Nat)
  /-- TASK_BIND (R303): A list head binds to a free bindable slot when effect space, allotment and stagger budget allow. -/
  | taskBind (qi : Nat)
  /-- RUN_LIST_PROMOTION (R305): An entry that waits 2^20 cycles moves to the next higher list. -/
  | runListPromotion (qi list idx : Nat)
  /-- READY_RING_PUSH (R308): A released cell's pending record enters the ready ring once room exists. -/
  | readyRingPush (qi : Nat)
  /-- READY_RECORD_PLACE (R308): The engine takes a record from its ready ring and places its pieces. -/
  | readyRecordPlace (qi : Nat)
  /-- EFFECT_DRAIN_RECORD (R397): The quad's drain performs the next held record of an ended task. -/
  | effectDrainRecord (qi idx : Nat)
  /-- LTAB_DONE (R160): The whole pattern table is replaced at once and the TLC count ends. -/
  | ltabDone (id : Nat)
  /-- WLOAD_DONE (R179): The decoded image is written to the shadow plane and the TLC count ends. -/
  | wloadDone (ck : Nat)
  /-- C28_STREAM_COMMAND (R172): A write to c28 pushes a gang descriptor address into the gang sequence. -/
  | c28StreamCommand (ck slot : Nat) (v : Word)
  /-- GANG_JOIN (R172): Two cycles after the fourth entry, the join checks the descriptors and starts or voids the gang. -/
  | gangJoin (qi : Nat)
  /-- GANG_ROW (R174): A stream row is read once its sectors arrive and accumulated into every non-idle slice. -/
  | gangRow (qi : Nat)
  /-- MDRAIN_ROW_WRITE (R184): A drain writes one converted row after the earlier gangs' accumulations. -/
  | mdrainRowWrite (ck : Nat)
  /-- MDRAIN_HANDLE_PUSH (R185): A port drain pushes a handle when the c28 read side has room. -/
  | mdrainHandlePush (ck : Nat)
  /-- C28_HANDLE_POP (R185): A read of c28 pops one drained-result handle. -/
  | c28HandlePop (ck : Nat)
  /-- SCALE_BLOCK_DELIVER (R164): A scale-block copy places its block in the core's queue when the buffer has room. -/
  | scaleBlockDeliver (ck id : Nat)
  /-- YOKE_HANDBACK (R188): A refused yoke read hands back the remainder to the submitting slots as ECAUSE 0x0F. -/
  | yokeHandback (ck id : Nat)
  /-- COPY_START (R338): The quad's copy engine starts the next copy of a core's FIFO. -/
  | copyStart (ck : Nat)
  /-- COPY_SECTOR_LAND (R340): A copy writes a destination sector and decrements a barrier's pending bytes. -/
  | copySectorLand (ck id n : Nat)
  /-- COPY_COMPLETE (R341): A copy ends with a status and performs its flag, barrier or c29 completion. -/
  | copyComplete (ck id : Nat)
  /-- COPY_HANDBACK (R342): A copy that fails translation writes a handback record and raises ECAUSE 0x0F. -/
  | copyHandback (ck id : Nat)
  /-- C29_RECORD_POP (R341): A read of c29 pops a copy-completion record. -/
  | c29RecordPop (ck : Nat)
  /-- MESSAGE_ACCEPT (R348): The destination core accepts a message into its receive queue, dropping basted duplicates, or refuses it when full. -/
  | messageAccept (id : Nat)
  /-- MESSAGE_ACKNOWLEDGE (R348): The acceptance reaches the sender and ends its STC count. -/
  | messageAcknowledge (id : Nat)
  /-- MESSAGE_RESEND (R348): A refused message is sent again after 256 cycles. -/
  | messageResend (id : Nat)
  /-- C30_MESSAGE_POP (R350): A read of c30 pops a message header and discards the payload. -/
  | c30MessagePop (ck : Nat)
  /-- C31_SEND_BLOCK (R349): A write to c31 pushes the address of a send block. -/
  | c31SendBlock (tk : Nat) (v : Word)
  /-- SEND_BLOCK_READ (R349): The core reads the next send block, checks it and sends it as msend.a. -/
  | sendBlockRead (ck : Nat)
  /-- CTRL_OPEN_STREAM (R337): Controller request 1 claims every slot of a stream's path at once. -/
  | ctrlOpenStream (id : Nat)
  /-- CTRL_CLOSE_STREAM (R337): Controller request 2 closes a stream. -/
  | ctrlCloseStream (id : Nat)
  /-- CTRL_READ_LINK (R337): Controller request 3 returns a link's width and slot table. -/
  | ctrlReadLink (id : Nat)
  /-- CTRL_READ_BANDED_LATENCY (R337): Controller request 4 returns a boundary's banded-latency block. -/
  | ctrlReadBandedLatency (id : Nat)
  /-- CTRL_READ_EDGE_UNIT (R337): Controller request 5 returns an edge-unit block. -/
  | ctrlReadEdgeUnit (id : Nat)
  /-- CTRL_ROUTE_PEER (R337): Controller request 6 routes a peer panel to an owned edge unit and wavelengths. -/
  | ctrlRoutePeer (id : Nat)
  /-- CTRL_RESERVED_CODE (R337): A controller request with a reserved code is answered with STATUS 1. -/
  | ctrlReservedCode (id : Nat)
  /-- BEST_EFFORT_FLIT_HOP (R327): A router moves a best-effort flit to its next input when it holds a credit and wins arbitration. -/
  | bestEffortFlitHop (pkt seq : Nat)
  /-- STREAM_FLIT_HOP (R329): A stream flit crosses a router in its reserved slot. -/
  | streamFlitHop (pkt seq : Nat)
  /-- CREDIT_RETURN (R327): A freed input buffer returns a credit for its lane. -/
  | creditReturn (n : Nat)
  /-- STITCH_CROSSING (R334): A flit leaves the asynchronous FIFO of a stitch boundary on the receiving clock. -/
  | stitchCrossing (pkt seq : Nat)
  /-- PACKET_BOUNCE (R332): A bounced packet returns to its source, is looked up again and resent. -/
  | packetBounce (pkt : Nat)
  /-- MAP_SWITCH (R332): At switch time T a router or interface adopts the new map, ring and alias entries. -/
  | mapSwitch (n : Nat)
  /-- LINK_RETRAIN (R333): Firmware retrains a link at reduced width and grades are recomputed. -/
  | linkRetrain (link width : Nat)
  /-- BURST_SEND (R353): An edge unit sends a burst after its header on the control wavelength. -/
  | burstSend (unit peer : Nat)
  /-- BURST_RECEIVE (R353): A receiving unit checks a burst's CRC and sequence, delivers and acknowledges it. -/
  | burstReceive (unit panel seq : Nat) (crcOk : Bool) (pkts : List PeerPkt)
  /-- BURST_ACK (R353): An acknowledgement reaches the sending unit. -/
  | burstAck (unit seq : Nat)
  /-- BURST_RESEND (R353): An unacknowledged burst is sent again after 8 µs. -/
  | burstResend (unit seq : Nat)
  /-- BURST_REFUSAL (R354): A refused burst is dropped and its packets end with ECAUSE 0x07. -/
  | burstRefusal (unit seq : Nat)
  /-- PANEL_RESET (R363): At boot the controller derives retired units and quad states, builds maps and measures blocks and offsets. -/
  | panelReset
  /-- PARTITION_CREATE (R357): The physical function creates a partition, zeroing its cores, yokes and shares. -/
  | partitionCreate (cfg : PartCfg)
  /-- SVCCORE_WRITE (R358): A write to SVCCORE moves reception of service messages at once. -/
  | svccoreWrite (pid : Nat) (v : Word)
  /-- HOST_LAUNCH (R298): A write to a virtual function's LAUNCH port submits a launch to the service core's quad. -/
  | hostLaunch (vf : Nat) (v : Word)
  /-- VF_DOORBELL (R361): A DOORBELL write acts as WAKE of a thread. -/
  | vfDoorbell (vf : Nat) (v : Word)
  /-- HOST_REGISTER_WRITE (R361): A host write to a BAR0 register without behaviour of its own, or an unsupported access. -/
  | hostRegisterWrite (vf off size : Nat) (v : Word)
  /-- DEBUG_HALT (R380): A DEBUG write with HALT 1 halts quad Q. -/
  | debugHalt (vf : Nat) (q : DebugQuad)
  /-- DEBUG_RESUME (R380): A DEBUG write with HALT 0 resumes quad Q. -/
  | debugResume (vf : Nat) (q : DebugQuad)
  /-- DEBUG_BRKARM (R380): A DEBUG write sets quad Q's breakpoint arm. -/
  | debugBrkarm (vf q : Nat) (arm : DebugBits)
  /-- DEBUG_SLOT_START (R398): The debugger writes a free slot's state and makes it ready without a launch record; `srs` and `regs`
  are the special and the other registers written, by their words of the slot's image (R99). -/
  | debugSlotStart (tk : Nat) (pc : Option Word) (srs regs : List (Nat × Word))
  /-- FUNCTION_RESET (R379): RESET.GO or the PF resets a virtual function, draining and discarding its partition. -/
  | functionReset (vf : Nat)
  /-- KEY_LOAD (R365): The physical function loads a key id's AES key. -/
  | keyLoad (id : Nat) (key : BitVec 512)
  /-- FRAME_REASSIGN (R366): Unmaps, zeroes and scrubs a frame before it is mapped for a new key id. -/
  | frameReassign (frame old new : Nat)
  /-- BASTECFG_ENABLE (R368): A write setting EN marks the basted range dirty and clears both commit words. -/
  | bastecfgEnable (tk : Nat) (v : Word)
  /-- BASTECFG_DISABLE (R370): Once STC.S and STC.P are zero, EN = 0 takes effect and free notices are sent. -/
  | bastecfgDisable (tk : Nat)
  /-- FREE_NOTICE_ARRIVAL (R370): A free notice frees the receiving core's entry for a basted sender. -/
  | freeNoticeArrival (id : Nat)
  /-- UNCORRECTABLE_ECC_ERROR (R372): Detector 0 finds an uncorrectable register-file error and containment starts. -/
  | uncorrectableEccError (qi core : Nat)
  /-- PIPELINE_PARITY_ERROR (R372): Detector 1 finds a pipeline parity error and containment starts. -/
  | pipelineParityError (qi core : Nat)
  /-- ROUTER_HEARTBEAT_LOSS (R372): Detector 3 finds a lost router heartbeat and containment starts. -/
  | routerHeartbeatLoss (qi : Nat)
  /-- CORRECTABLE_ECC_ERROR (R372): A correctable error is corrected in place and counted. -/
  | correctableEccError (qi : Nat)
  /-- SHARE_FILL_BLOCK (R374): One 64 KiB block of the failed quad's share moves to the substitute. -/
  | shareFillBlock (qi blk : Nat)
  /-- BASTED_SLOT_RESUME (R373): A basted slot is restored on the substitute from its last valid checkpoint and resumes. -/
  | bastedSlotResume (tk : Nat)
  /-- REDUCTION_HOLD_EXPIRY (R377): A router's combining hold of up to 64 cycles ends and the combined flit moves on. -/
  | reductionHoldExpiry (id : Nat)
  /-- REDUCTION_PAIR_EXPIRY (R377): An open (location, RSN) pair idle for 2^20 cycles is freed. -/
  | reductionPairExpiry (loc rsn : Nat)
  /-- PARTITION_RESIZE (R378): A partition contracts or grows, re-placing tasks, letting out rings and changing numbers at switch time. -/
  | partitionResize (pid x0 y0 w h : Nat)
  /-- WATCHDOG_EXPIRY (R381): A slot blocked 2^LOG cycles raises ECAUSE 0x13 by service delivery. -/
  | watchdogExpiry (tk : Nat)
  /-- DROOP_ALARM_RAISE (R382): A rail below threshold for 50 ns raises the alarm and throttles the region. -/
  | droopAlarmRaise (region : Nat)
  /-- DROOP_ALARM_CLEAR (R382): A rail above threshold for 200 ns clears the alarm. -/
  | droopAlarmClear (region : Nat)
  /-- FREEZE_INPUT (R383): FREEZE_L held low for 100 ns stops the clocks of the panel. -/
  | freezeInput
  /-- FREEZE_COMMAND (R383): A controller command stops the clocks of the regions named. -/
  | freezeCommand (regions : BitVec 16)
  /-- CONTEXT_SWAP (R384): The PF swaps the two contexts of a quad through shadow storage. -/
  | contextSwap (qi : Nat)
  /-- CHANNEL_SPILL_POP_RETURN (R289): An element that a pop takes from spill arrives from HBM and is written to the reader's destination. -/
  | channelSpillPopReturn (qi ch : Nat)
  /-- REINSTATE_ENTRY_APPEND (R363): A signed reinstate entry offered for the field retirement log is verified against the vendor key and appended or refused. -/
  | reinstateEntryAppend (qi unit : Nat) (time : Word) (sig : Nat)
  /-- STAGE2_MAPPING_CHANGE (R367): The hypervisor, through the panel controller, changes a stage-2 mapping and invalidates it. -/
  | stage2MappingChange (pid ipa size pa : Nat) (perm : BitVec 3)
  /-- WAVELENGTH_LOCK_CHANGE (R355): A data or control wavelength of an edge unit gains or loses lock, or goes in or out of service, changing LOCK, CLOCK and DEGR. -/
  | wavelengthLockChange (unit : Nat) (lock degr : BitVec 16) (clock : ControlReport)
  deriving DecidableEq, Repr

end Sys2Proof
end

