-- ==== Sys2Proof/WellFormed.lean ====
section
/-! DEFINITION. Which instructions the encoding admits: the reserved encodings that depend on more than one
field (R51, R52, R56, R61, R63, R65, R67 to R70), and the units an event may name (R15, R20). -/

namespace Sys2Proof

/-- A port register: c24–c31, field values 56–63 (R52, R89). -/
def Reg.isPort (r : Reg) : Bool := decide (56 ≤ r.toNat)

/-- No port register stands in two fields (R52). -/
def portsOnce : List Reg → Bool
  | [] => true
  | r :: rs => !(r.isPort && rs.contains r) && portsOnce rs

/-- The scalar register of a data field of a kind, none for a vector (R63). -/
def kindReg (k : ElemKind) (b : Reg) : List Reg :=
  match k with
  | .v => []
  | _ => [b]

/-- The scalar register fields of an instruction, in which a port may stand once (R52). -/
def Instr.fields : Instr → List Reg
  | .add d a b | .sub d a b | .addw d a b | .subw d a b | .mul d a b | .mulh d a b | .mulhu d a b
  | .mulw d a b | .div d a b | .divu d a b | .rem d a b | .remu d a b | .and_ d a b | .or_ d a b
  | .xor d a b | .andn d a b | .orn d a b | .shl d a b | .shr d a b | .sra d a b | .rotl d a b
  | .rotr d a b | .min d a b | .max d a b | .minu d a b | .maxu d a b | .seq d a b | .sne d a b
  | .slt d a b | .sltu d a b | .spill d a b | .restor d a b | .tbtest d a b | .launch d a b => [d, a, b]
  | .clz d a | .ctz d a | .popc d a | .brev d a | .bswap d a | .mov d a | .callr d a | .tbarr d a
  | .keyhome d a | .sbtake d a | .cpyres d a | .cpyresNb d a => [d, a]
  | .addi d a _ | .andi d a _ | .ori d a _ | .xori d a _ | .slti d a _ | .shli d a _ | .shri d a _
  | .srai d a _ | .lih d a _ | .salloc d a _ | .chlen d a _ => [d, a]
  | .sel d a b c | .cas d a b c _ _ _ | .cas2 d a b c _ _ => [d, a, b, c]
  | .ext d a _ _ | .exts d a _ _ | .ins d a _ _ => [d, a]
  | .li d _ | .addpc d _ | .call d _ _ | .callLong d _ _ | .ret d | .jr d | .loop d _ _ | .loopLong d _ _
  | .rdsr d _ | .getid _ d | .wid d _ | .timeLoc d | .timeGlob d | .qlen d _ | .placeGet d | .domain _ d _
  | .allow _ d | .geom _ d | .cpyst _ d | .msgst _ d | .mpopc d _ | .mfirst d _ | .mgetv d _ => [d]
  | .beq a b _ _ | .bne a b _ _ | .blt a b _ _ | .bge a b _ _ | .bltu a b _ _ | .bgeu a b _ _ => [a, b]
  | .bz a _ _ | .bzLong a _ _ | .bnz a _ _ | .bnzLong a _ _ | .wrsr _ a | .wake a | .sfree a | .pref a _ _
  | .cflushLine a | .cflushAll a | .cinvLine a | .cinvIline a | .cinvAll a | .touchRd a | .touchWr a
  | .placeClr a | .barset _ a | .dec a | .ltab a | .gang a | .msetv _ a | .vsplat _ a _ _ => [a]
  | .swsr d _ a => [d, a]
  | .waitaddr d a b _ _ | .ldg d a b _ _ _ _ | .stg d a b _ _ _ _ => [d, a, b]
  | .ld d a _ _ _ _ | .lds d a _ _ _ _ | .lda d a _ _ | .lde d a _ _ _ => [d, a]
  | .st a b _ _ _ _ | .stl a b _ _ | .stf a b _ _ _ | .feinitEmpty a b | .feinitFull a b | .tbinit a b
  | .tbexp a b | .tbwait a b | .spawn a b | .tset a b | .wload a b | .wloadSc a b => [a, b]
  | .amo d a b _ _ _ _ => [d, a, b]
  | .red a b _ _ _ _ => [a, b]
  | .vextr d _ b _ => [d, b]
  | .vinsr _ a b _ => [a, b]
  | .vld _ a _ _ _ _ | .vst _ a _ _ _ _ | .vgath _ a _ _ _ | .vscat _ a _ _ _ => [a]
  | .vlds _ a b _ _ | .vsts _ a b _ _ => [a, b]
  | .chpush k a b _ => a :: kindReg k b
  | .chpop k d a b _ | .choffer k d a b _ | .chtake k d a b _ | .chpeek k d a b _ => [d, a] ++ kindReg k b
  | .chclose a _ | .chinv a _ => [a]
  | .mdrain _ _ a b c => [a, b, c]
  | .mdrainPort _ _ b => [b]
  | .cpyq d a | .cpyqNb d a => [d, a, a + 1, a + 2, a + 3]
  | .msend k d a b c _ => [d, a, c] ++ kindReg k b
  | .mrecv k d b _ => d :: kindReg k b
  | _ => []

/-- The types a lane instruction may bear, by their codes (R68). -/
def VTy.isInt : VTy → Bool
  | .i32 | .n32 | .i64 | .n64 => true
  | _ => false

def VTy.isFloat : VTy → Bool
  | .f32 | .f64 => true
  | _ => false

/-- The lanes of a type (R66). -/
def VTy.lanes : VTy → Nat
  | .f32 | .i32 | .n32 => 64
  | .f64 | .i64 | .n64 => 32

/-- A rounding code other than .rsr (R67). -/
def Rnd.plain (r : Rnd) : Bool := r != .rsr

def AmoOp.isFloat : AmoOp → Bool
  | .fadd32 | .fmin32 | .fmax32 => true
  | _ => false

/-- The data field of a kind: a vector field has bit 5 zero (R50, R63). -/
def kindOk (k : ElemKind) (b : Reg) : Bool := k != .v || decide (b.toNat < 32)

/-- A message length (R65): 8–256, a multiple of 8, and 8 for kind .s. -/
def lenOk (k : ElemKind) (len : BitVec 10) : Bool :=
  decide (8 ≤ len.toNat ∧ len.toNat ≤ 256 ∧ len.toNat % 8 = 0) && (k != .s || decide (len.toNat = 8))

/-- A register pair: even, with no port in it (R52, R61). -/
def pairOk (r : Reg) : Bool := decide (r.toNat % 2 = 0 ∧ r.toNat < 56)

def quadOk (qi : Nat) : Bool := decide (qi < 2304)
def coreOk (ck : Nat) : Bool := decide (ck < 9216)
def slotOk (tk : Nat) : Bool := decide (tk < 73728)
def regionOk (r : Nat) : Bool := decide (r < 16)

/-- The limits of an instruction's own fields beyond its widths. -/
def Instr.wfOwn : Instr → Bool
  | .shli _ _ n | .shri _ _ n | .srai _ _ n => decide (n.toNat ≤ 63)
  | .ext _ _ pos len | .exts _ _ pos len | .ins _ _ pos len =>
    decide (1 ≤ len.toNat ∧ pos.toNat + len.toNat ≤ 64)
  | .wid _ n | .domain .ext _ n | .domain .org _ n | .domain .cnt _ n => decide (n.toNat ≤ 5)
  | .domain .nf _ n => decide (n = 0)
  | .qlen _ n => decide (n.toNat ≤ 3)
  | .vadd _ _ _ _ r | .vsub _ _ _ _ r | .vmul _ _ _ _ r | .vdiv _ _ _ _ r | .vdadd _ _ _ _ r
  | .vdmul _ _ _ _ r => r.plain
  | .vfma _ _ _ _ _ r | .vfms _ _ _ _ _ r | .vfnma _ _ _ _ _ r | .vdfma _ _ _ _ _ r => r.plain
  | .vmin _ _ _ _ ty | .vmax _ _ _ _ ty => [VTy.f32, .i32, .n32].contains ty
  | .vabs _ _ _ ty | .vneg _ _ _ ty => [VTy.f32, .i32].contains ty
  | .vcvt _ _ _ fmt fr r =>
    fmt != .int8 && fmt != .int4 && (r == .rne || (!fr && fmt != .fp64))
  | .vquant _ _ _ _ fmt _ => [NFmt.e4m3, .e5m2, .int8, .int4].contains fmt
  | .vscale _ _ _ _ ty r => ty.isFloat && r.plain
  | .vcmp d _ _ _ ty c => decide (d ≠ 0) && (c != .un || ty.isFloat)
  | .viadd _ _ _ _ ty _ | .visub _ _ _ _ ty _ => ty.isInt
  | .vimul _ _ _ _ ty sat hi => ty.isInt && !(sat && hi)
  | .vimad _ _ _ _ _ ty _ => ty.isInt
  | .vand _ _ _ _ ty | .vor _ _ _ _ ty | .vxor _ _ _ _ ty | .vshl _ _ _ _ ty | .vshr _ _ _ _ ty
  | .vsra _ _ _ _ ty => ty.isInt
  | .vredadd _ _ _ ty r => [VTy.f32, .f64, .i32, .n32].contains ty && r.plain && (ty.isFloat || r == .rne)
  | .vredmax _ _ _ ty | .vredmin _ _ _ ty => [VTy.f32, .f64, .i32, .n32].contains ty
  | .vscanadd _ _ _ ty r => [VTy.f32, .i32].contains ty && r.plain && (ty.isFloat || r == .rne)
  | .vbcast _ _ _ ty j => decide (j.toNat < ty.lanes)
  | .viota _ _ ty => ty.isInt
  | .mand d _ _ | .mor d _ _ | .mxor d _ _ => decide (d ≠ 0)
  | .mnot d _ => decide (d ≠ 0)
  | .msetv d _ => decide (d ≠ 0)
  | .vclass _ _ _ ty => ty.isFloat
  | .vround _ _ _ ty r => ty.isFloat && r.plain
  | .vfcvti _ _ _ ty r | .vicvtf _ _ _ ty r => ty.isInt && r.plain
  | .amo _ _ _ op wide _ _ => !(wide && op.isFloat)
  | .cas2 d _ b c _ _ => pairOk d && pairOk b && pairOk c
  | .red _ _ op wide mo _ => !(wide && op.isFloat) && op != .swap && (mo == .rlx || mo == .rel)
  | .chpush k _ b _ => kindOk k b
  | .chpop k _ _ b _ | .choffer k _ _ b _ | .chtake k _ _ b _ | .chpeek k _ _ b _ => kindOk k b
  | .mzero first count => decide (1 ≤ count.toNat ∧ first.toNat + count.toNat ≤ 64)
  | .mdrain _ r _ _ _ => r.plain
  | .mdrainPort fmt r _ => r.plain && fmt != .f64 && fmt != .i64
  | .mread _ g => decide (g.toNat ≤ 63)
  | .cpyq _ a | .cpyqNb _ a => decide (a.toNat % 4 = 0 ∧ 4 ≤ a.toNat ∧ a.toNat ≤ 52)
  | .msend k _ _ b _ len => kindOk k b && lenOk k len
  | .mrecv k _ b len => kindOk k b && lenOk k len
  | .wakeArrival tk | .heldPushRetry tk | .asyncTrapEntry tk | .lineFetch tk | .slotSpill tk
  | .spillComplete tk | .restoreComplete tk | .probeSend tk | .cycleAllowanceExhausted tk
  | .basteIntervalExpiry tk | .watchdogExpiry tk | .bastecfgDisable tk | .bastedSlotResume tk => slotOk tk
  | .c31SendBlock tk _ | .bastecfgEnable tk _ => slotOk tk
  | .debugSlotStart tk _ _ _ => slotOk tk
  | .vectorComplete ck _ | .scaleBlockDeliver ck _ | .yokeHandback ck _ | .copyComplete ck _
  | .copyHandback ck _ => coreOk ck
  | .wloadDone ck | .mdrainRowWrite ck | .mdrainHandlePush ck | .c28HandlePop ck | .copyStart ck
  | .c29RecordPop ck | .c30MessagePop ck | .sendBlockRead ck => coreOk ck
  | .copySectorLand ck _ _ => coreOk ck
  | .c28StreamCommand ck slot _ => coreOk ck && decide (slot < 8)
  | .vectorBeatStart qi g => quadOk qi && decide (g < 4)
  | .channelFill qi _ | .channelRefill qi _ | .channelEviction qi _ | .channelRoomReport qi _
  | .channelSpillPopReturn qi _ | .pieceEnqueue qi _ | .effectDrainRecord qi _ | .shareFillBlock qi _ => quadOk qi
  | .taskBind qi | .readyRingPush qi | .readyRecordPlace qi | .gangJoin qi | .gangRow qi
  | .routerHeartbeatLoss qi | .correctableEccError qi | .contextSwap qi => quadOk qi
  | .runListPromotion qi list _ => quadOk qi && decide (list < 3)
  | .uncorrectableEccError qi c | .pipelineParityError qi c => quadOk qi && decide (c < 4)
  | .reinstateEntryAppend qi unit _ _ => quadOk qi && decide (unit < 6)
  | .droopAlarmRaise r | .droopAlarmClear r => regionOk r
  | .burstSend unit _ | .burstReceive unit _ _ _ _ | .burstAck unit _ | .burstResend unit _ | .burstRefusal unit _ =>
    decide (unit < 32)
  | .wavelengthLockChange unit _ _ _ => decide (unit < 32)
  | .linkRetrain link width => decide (link < 9216 ∧ width < 4)
  | .partitionCreate cfg =>
    decide (1 ≤ cfg.pid ∧ cfg.pid < 4096 ∧ 1 ≤ cfg.key ∧ cfg.key < 4096 ∧ 1 ≤ cfg.vf ∧ cfg.vf < 4096
      ∧ 1 ≤ cfg.w ∧ cfg.x0 + cfg.w ≤ 64 ∧ 1 ≤ cfg.h ∧ cfg.y0 + cfg.h ≤ 32 ∧ 1 ≤ cfg.spMiB ∧ cfg.spMiB ≤ 16
      ∧ cfg.svcP < cfg.w * cfg.h ∧ cfg.svcC < 4)
  | _ => true

/-- An instruction the encoding admits. -/
def Instr.wf (i : Instr) : Bool := portsOnce i.fields && i.wfOwn

end Sys2Proof
end

