-- ==== Sys2Proof/Decode.lean ====
section
/-! DEFINITION. The decoder of heads and tails (R45 to R71), total on any bits and refusing by name, and the
encoder written from the same tables. Fields are read by division and remainder. -/

namespace Sys2Proof

/-- Why a head is no instruction (R53, R54): its major is unassigned or 0xFF (RSV 0), or its major is assigned
and another field is undefined (RSV 1). -/
inductive DecodeError where
  | unassigned
  | reserved
  deriving DecidableEq, Repr

/-- A head's fields (R45) and its tail as one number (R36). -/
structure Code where
  maj : Nat
  tl : Nat
  d : Nat
  tail : Nat
  deriving DecidableEq, Repr

/-- `n` bits of `t` from bit `lo`. -/
def bitsAt (t lo n : Nat) : Nat := (t >>> lo) % 2 ^ n

/-! ## Codes of the small fields -/

def VTy.code : VTy → Nat
  | .f32 => 0 | .f64 => 1 | .i32 => 2 | .n32 => 3 | .i64 => 4 | .n64 => 5

def VTy.ofCode : Nat → Option VTy
  | 0 => some .f32 | 1 => some .f64 | 2 => some .i32 | 3 => some .n32 | 4 => some .i64 | 5 => some .n64
  | _ => none

def Rnd.code : Rnd → Nat
  | .rne => 0 | .rtz => 1 | .rup => 2 | .rdn => 3 | .rsr => 4

def Rnd.ofCode : Nat → Option Rnd
  | 0 => some .rne | 1 => some .rtz | 2 => some .rup | 3 => some .rdn | 4 => some .rsr | _ => none

def Scope.code : Scope → Nat
  | .slot => 0 | .core => 1 | .quad => 2 | .part => 3 | .dom => 4 | .sys => 5

def Scope.ofCode : Nat → Option Scope
  | 0 => some .slot | 1 => some .core | 2 => some .quad | 3 => some .part | 4 => some .dom | 5 => some .sys
  | _ => none

def Size.code : Size → Nat
  | .b => 0 | .h => 1 | .l => 2 | .w => 3

def Size.ofCode : Nat → Option Size
  | 0 => some .b | 1 => some .h | 2 => some .l | 3 => some .w | _ => none

def Cp.code : Cp → Nat
  | .n => 0 | .s => 1 | .na => 2 | .k => 3

def Cp.ofCode : Nat → Option Cp
  | 0 => some .n | 1 => some .s | 2 => some .na | 3 => some .k | _ => none

def AmoOp.code : AmoOp → Nat
  | .add => 0 | .and_ => 1 | .or_ => 2 | .xor => 3 | .min => 4 | .max => 5 | .minu => 6 | .maxu => 7
  | .swap => 8 | .fadd32 => 9 | .fmin32 => 10 | .fmax32 => 11

def AmoOp.ofCode : Nat → Option AmoOp
  | 0 => some .add | 1 => some .and_ | 2 => some .or_ | 3 => some .xor | 4 => some .min | 5 => some .max
  | 6 => some .minu | 7 => some .maxu | 8 => some .swap | 9 => some .fadd32 | 10 => some .fmin32
  | 11 => some .fmax32 | _ => none

def MOrd.code : MOrd → Nat
  | .rlx => 0 | .acq => 1 | .rel => 2 | .ar => 3

def MOrd.ofCode : Nat → Option MOrd
  | 0 => some .rlx | 1 => some .acq | 2 => some .rel | 3 => some .ar | _ => none

def ElemKind.code : ElemKind → Nat
  | .s => 0 | .v => 1 | .a => 2

def ElemKind.ofCode : Nat → Option ElemKind
  | 0 => some .s | 1 => some .v | 2 => some .a | _ => none

def NFmt.code : NFmt → Nat
  | .bf16 => 0 | .fp16 => 1 | .e4m3 => 2 | .e5m2 => 3 | .fp64 => 4 | .int8 => 5 | .int4 => 6

def NFmt.ofCode : Nat → Option NFmt
  | 0 => some .bf16 | 1 => some .fp16 | 2 => some .e4m3 | 3 => some .e5m2 | 4 => some .fp64 | 5 => some .int8
  | 6 => some .int4 | _ => none

def OFmt.code : OFmt → Nat
  | .f32 => 0 | .bf16 => 1 | .fp16 => 2 | .e4m3 => 3 | .e5m2 => 4 | .int8 => 5 | .i32 => 6 | .f64 => 7 | .i64 => 8

def OFmt.ofCode : Nat → Option OFmt
  | 0 => some .f32 | 1 => some .bf16 | 2 => some .fp16 | 3 => some .e4m3 | 4 => some .e5m2 | 5 => some .int8
  | 6 => some .i32 | 7 => some .f64 | 8 => some .i64 | _ => none

def Cond.code : Cond → Nat
  | .eq => 0 | .ne => 1 | .lt => 2 | .le => 3 | .gt => 4 | .ge => 5 | .un => 6

def Cond.ofCode : Nat → Option Cond
  | 0 => some .eq | 1 => some .ne | 2 => some .lt | 3 => some .le | 4 => some .gt | 5 => some .ge | 6 => some .un
  | _ => none

def IdSel.code : IdSel → Nat
  | .thr => 0 | .pthr => 1 | .gca => 2 | .quad => 3 | .pquad => 4 | .part => 5 | .panel => 6 | .size => 7

def IdSel.ofCode : Nat → Option IdSel
  | 0 => some .thr | 1 => some .pthr | 2 => some .gca | 3 => some .quad | 4 => some .pquad | 5 => some .part
  | 6 => some .panel | 7 => some .size | _ => none

def GeomSel.code : GeomSel → Nat
  | .mlo => 0 | .mcnt => 1 | .nlo => 2 | .ncnt => 3 | .klo => 4 | .kcnt => 5 | .edge => 6

def GeomSel.ofCode : Nat → Option GeomSel
  | 0 => some .mlo | 1 => some .mcnt | 2 => some .nlo | 3 => some .ncnt | 4 => some .klo | 5 => some .kcnt
  | 6 => some .edge | _ => none

def DomSel.code : DomSel → Nat
  | .ext => 0 | .org => 1 | .cnt => 2 | .nf => 3

def DomSel.ofCode : Nat → Option DomSel
  | 0 => some .ext | 1 => some .org | 2 => some .cnt | 3 => some .nf | _ => none

def AllowSel.code : AllowSel → Nat
  | .cyc => 0 | .sp => 1 | .eff => 2 | .reg => 3

def AllowSel.ofCode : Nat → Option AllowSel
  | 0 => some .cyc | 1 => some .sp | 2 => some .eff | 3 => some .reg | _ => none

def CpySel.code : CpySel → Nat
  | .depth => 0 | .stat => 1

def CpySel.ofCode : Nat → Option CpySel
  | 0 => some .depth | 1 => some .stat | _ => none

def MsgSel.code : MsgSel → Nat
  | .rxq => 0 | .txc => 1

def MsgSel.ofCode : Nat → Option MsgSel
  | 0 => some .rxq | 1 => some .txc | _ => none

/-- A one-bit field. -/
def bit (b : Bool) : Nat := if b then 1 else 0

/-! ## Tails (R47, R48) -/

def tRR (a b m : Nat) : Nat := a * 2 ^ 10 + b * 2 ^ 4 + m
def tRI (a m imm : Nat) : Nat := a * 2 ^ 26 + m * 2 ^ 22 + imm
def tRRR (a b c x m : Nat) : Nat := a * 2 ^ 26 + b * 2 ^ 20 + c * 2 ^ 14 + x * 2 ^ 10 + m
def tM (a b w sz cp off : Nat) : Nat := a * 2 ^ 26 + b * 2 ^ 20 + w * 2 ^ 18 + sz * 2 ^ 16 + cp * 2 ^ 14 + off
def tV (va vb vc m ty mn : Nat) : Nat := va * 2 ^ 27 + vb * 2 ^ 22 + vc * 2 ^ 17 + m * 2 ^ 14 + ty * 2 ^ 10 + mn
def tL (a imm : Nat) : Nat := a * 2 ^ 42 + imm
def tB (a b off idx : Nat) : Nat := a * 2 ^ 26 + b * 2 ^ 20 + off * 2 ^ 5 + idx
def tBL (a off idx : Nat) : Nat := a * 2 ^ 42 + off * 2 ^ 5 + idx

def r6 (n : Nat) : BitVec 6 := BitVec.ofNat 6 n
def r5 (n : Nat) : BitVec 5 := BitVec.ofNat 5 n
def r3 (n : Nat) : BitVec 3 := BitVec.ofNat 3 n

/-! ## Readers of one format: each checks TL, and hands the fields to the instruction -/

/-- RR with three registers, minor 0. -/
def inRR3 (tl d t : Nat) (k : Reg → Reg → Reg → Instr) : Option Instr :=
  if tl = 1 ∧ bitsAt t 0 4 = 0 then some (k (r6 d) (r6 (bitsAt t 10 6)) (r6 (bitsAt t 4 6))) else none

/-- RR with D and A: B 0, minor 0. -/
def inRR2 (tl d t : Nat) (k : Reg → Reg → Instr) : Option Instr :=
  if tl = 1 ∧ bitsAt t 0 10 = 0 then some (k (r6 d) (r6 (bitsAt t 10 6))) else none

/-- RR with D 0: A and B, minor 0. -/
def inRRab (tl d t : Nat) (k : Reg → Reg → Instr) : Option Instr :=
  if d = 0 then inRR3 tl d t (fun _ a b => k a b) else none

/-- RR with A alone: D 0, B 0; the minor is handed on. -/
def inRRa (tl d t : Nat) (k : Nat → Reg → Option Instr) : Option Instr :=
  if tl = 1 ∧ d = 0 ∧ bitsAt t 4 6 = 0 then k (bitsAt t 0 4) (r6 (bitsAt t 10 6)) else none

/-- RI with D, A and imm22, minor 0. -/
def inRI (tl d t : Nat) (k : Reg → Reg → BitVec 22 → Instr) : Option Instr :=
  if tl = 2 ∧ bitsAt t 22 4 = 0 then some (k (r6 d) (r6 (bitsAt t 26 6)) (BitVec.ofNat 22 (bitsAt t 0 22))) else none

/-- RI with a selector in the minor and A 0; imm22 is handed on. -/
def inSel (tl d t : Nat) (k : Nat → Reg → Nat → Option Instr) : Option Instr :=
  if tl = 2 ∧ bitsAt t 26 6 = 0 then k (bitsAt t 22 4) (r6 d) (bitsAt t 0 22) else none

/-- RRR: D, A, B, C, aux, minor. -/
def inRRR (tl d t : Nat) (k : Reg → Reg → Reg → Reg → Nat → Nat → Option Instr) : Option Instr :=
  if tl = 2 then
    k (r6 d) (r6 (bitsAt t 26 6)) (r6 (bitsAt t 20 6)) (r6 (bitsAt t 14 6)) (bitsAt t 10 4) (bitsAt t 0 10)
  else none

/-- M: D, A, B, W, SZ, CP, offset. -/
def inM (tl d t : Nat) (k : Reg → Reg → Reg → BitVec 2 → Size → Cp → BitVec 14 → Option Instr) : Option Instr :=
  if tl = 2 then do
    let sz ← Size.ofCode (bitsAt t 16 2)
    let cp ← Cp.ofCode (bitsAt t 14 2)
    k (r6 d) (r6 (bitsAt t 26 6)) (r6 (bitsAt t 20 6)) (BitVec.ofNat 2 (bitsAt t 18 2)) sz cp
      (BitVec.ofNat 14 (bitsAt t 0 14))
  else none

/-- V with a vector destination (D[5] 0): VA, VB, VC, mask, type, minor. -/
def inV (tl d t : Nat) (k : VReg → VReg → VReg → VReg → MReg → VTy → Nat → Option Instr) : Option Instr :=
  if tl = 2 ∧ d < 32 then do
    let ty ← VTy.ofCode (bitsAt t 10 4)
    k (r5 d) (r5 (bitsAt t 27 5)) (r5 (bitsAt t 22 5)) (r5 (bitsAt t 17 5)) (r3 (bitsAt t 14 3)) ty (bitsAt t 0 10)
  else none

/-- V of FP32 or FP64 arithmetic: two sources and a rounding. -/
def inVarith2 (ty : VTy) (tl d t : Nat) (k : VReg → VReg → VReg → MReg → Rnd → Instr) : Option Instr :=
  inV tl d t fun vd a b c m ty' mn => do
    let r ← Rnd.ofCode mn
    if ty' = ty ∧ c = 0 then some (k vd a b m r) else none

/-- The same with three sources. -/
def inVarith3 (ty : VTy) (tl d t : Nat) (k : VReg → VReg → VReg → VReg → MReg → Rnd → Instr) : Option Instr :=
  inV tl d t fun vd a b c m ty' mn => do
    let r ← Rnd.ofCode mn
    if ty' = ty then some (k vd a b c m r) else none

/-- V with two sources and a type, minor 0. -/
def inVty2 (tl d t : Nat) (k : VReg → VReg → VReg → MReg → VTy → Instr) : Option Instr :=
  inV tl d t fun vd a b c m ty mn => if c = 0 ∧ mn = 0 then some (k vd a b m ty) else none

/-- V with one source and a type, minor 0. -/
def inVty1 (tl d t : Nat) (k : VReg → VReg → MReg → VTy → Instr) : Option Instr :=
  inV tl d t fun vd a b c m ty mn => if b = 0 ∧ c = 0 ∧ mn = 0 then some (k vd a m ty) else none

/-- V with one FP32 source, minor 0. -/
def inVfun (tl d t : Nat) (k : VReg → VReg → MReg → Instr) : Option Instr :=
  inV tl d t fun vd a b c m ty mn => if ty = .f32 ∧ b = 0 ∧ c = 0 ∧ mn = 0 then some (k vd a m) else none

/-- V with one source, a type and a rounding. -/
def inVrnd1 (tl d t : Nat) (k : VReg → VReg → MReg → VTy → Rnd → Instr) : Option Instr :=
  inV tl d t fun vd a b c m ty mn => do
    let r ← Rnd.ofCode mn
    if b = 0 ∧ c = 0 then some (k vd a m ty r) else none

/-- Mask instructions in V: sources VA[2:0] and VB[2:0], every other field zero (R68). -/
def inMask (tl d t : Nat) (k : Reg → MReg → MReg → Option Instr) : Option Instr :=
  if tl = 2 ∧ bitsAt t 30 2 = 0 ∧ bitsAt t 25 2 = 0 ∧ bitsAt t 0 22 = 0 then
    k (r6 d) (r3 (bitsAt t 27 3)) (r3 (bitsAt t 22 3))
  else none

/-- A head without a tail. -/
def in0 (tl d : Nat) (k : BitVec 6 → Option Instr) : Option Instr := if tl = 0 then k (r6 d) else none

/-- A head without a tail and with D 0. -/
def in00 (tl d : Nat) (i : Instr) : Option Instr := if tl = 0 ∧ d = 0 then some i else none

/-- Conditional branches: B form, D 0. -/
def inB (tl d t : Nat) (k : Reg → Reg → BitVec 15 → BitVec 5 → Instr) : Option Instr :=
  if tl = 2 ∧ d = 0 then
    some (k (r6 (bitsAt t 26 6)) (r6 (bitsAt t 20 6)) (BitVec.ofNat 15 (bitsAt t 5 15)) (r5 (bitsAt t 0 5)))
  else none

/-- Branches with a B and a BL form: D and A are handed on, B is 0. -/
def inBoth (tl d t : Nat) (k : Reg → Reg → BitVec 15 → BitVec 5 → Option Instr)
    (kl : Reg → Reg → BitVec 37 → BitVec 5 → Option Instr) : Option Instr :=
  if tl = 2 ∧ bitsAt t 20 6 = 0 then
    k (r6 d) (r6 (bitsAt t 26 6)) (BitVec.ofNat 15 (bitsAt t 5 15)) (r5 (bitsAt t 0 5))
  else if tl = 3 then
    kl (r6 d) (r6 (bitsAt t 42 6)) (BitVec.ofNat 37 (bitsAt t 5 37)) (r5 (bitsAt t 0 5))
  else none

/-- Channel instructions: C 0, kind in aux; d, a, b and imm10. -/
def inCh (tl d t : Nat) (k : ElemKind → Reg → Reg → Reg → BitVec 10 → Option Instr) : Option Instr :=
  inRRR tl d t fun d a b c x mn => do
    let kd ← ElemKind.ofCode x
    if c = 0 then k kd d a b (BitVec.ofNat 10 mn) else none

/-- An instruction that must have D 0. -/
def d0 (d : Reg) (i : Instr) : Option Instr := if d = 0 then some i else none

/-- The bits of a vector access whose mask stands in B: SZ 0, D[5] 0, B[5:3] 0. -/
def inVmem (tl d t : Nat) (k : VReg → Reg → BitVec 14 → MReg → BitVec 2 → Cp → Instr) : Option Instr :=
  inM tl d t fun _ a b w sz cp off =>
    if sz = .b ∧ d < 32 ∧ b.toNat < 8 then some (k (r5 d) a off (r3 b.toNat) w cp) else none

/-- The body of the decoder: the opcode map (R56 to R70), before the limits of WellFormed. -/
def rawDecode (maj tl d t : Nat) : Option Instr :=
  match maj with
  | 0x00 => in00 tl d .nop
  | 0x01 => inRR3 tl d t .add
  | 0x02 => inRR3 tl d t .sub
  | 0x03 => inRI tl d t .addi
  | 0x04 => inRR3 tl d t .addw
  | 0x05 => inRR3 tl d t .subw
  | 0x06 => inRR3 tl d t .mul
  | 0x07 => inRR3 tl d t .mulh
  | 0x08 => inRR3 tl d t .mulhu
  | 0x09 => inRR3 tl d t .mulw
  | 0x0A => inRR3 tl d t .div
  | 0x0B => inRR3 tl d t .divu
  | 0x0C => inRR3 tl d t .rem
  | 0x0D => inRR3 tl d t .remu
  | 0x0E => inRR3 tl d t .and_
  | 0x0F => inRR3 tl d t .or_
  | 0x10 => inRR3 tl d t .xor
  | 0x11 => inRR3 tl d t .andn
  | 0x12 => inRR3 tl d t .orn
  | 0x13 => inRI tl d t .andi
  | 0x14 => inRI tl d t .ori
  | 0x15 => inRI tl d t .xori
  | 0x16 => inRR3 tl d t .shl
  | 0x17 => inRR3 tl d t .shr
  | 0x18 => inRR3 tl d t .sra
  | 0x19 => inRI tl d t .shli
  | 0x1A => inRI tl d t .shri
  | 0x1B => inRI tl d t .srai
  | 0x1C => inRR3 tl d t .rotl
  | 0x1D => inRR3 tl d t .rotr
  | 0x1E => inRR2 tl d t .clz
  | 0x1F => inRR2 tl d t .ctz
  | 0x20 => inRR2 tl d t .popc
  | 0x21 => inRR2 tl d t .brev
  | 0x22 => inRR2 tl d t .bswap
  | 0x23 => inRR3 tl d t .min
  | 0x24 => inRR3 tl d t .max
  | 0x25 => inRR3 tl d t .minu
  | 0x26 => inRR3 tl d t .maxu
  | 0x27 => inRR3 tl d t .seq
  | 0x28 => inRR3 tl d t .sne
  | 0x29 => inRR3 tl d t .slt
  | 0x2A => inRR3 tl d t .sltu
  | 0x2B => inRI tl d t .slti
  | 0x2C => inRRR tl d t fun d a b c x mn => if x = 0 ∧ mn = 0 then some (.sel d a b c) else none
  | 0x2D => if bitsAt t 13 9 = 0 then inRI tl d t fun d a imm => .ext d a (r6 imm.toNat) (BitVec.ofNat 7 (imm.toNat / 64))
    else none
  | 0x2E => if bitsAt t 13 9 = 0 then inRI tl d t fun d a imm => .exts d a (r6 imm.toNat) (BitVec.ofNat 7 (imm.toNat / 64))
    else none
  | 0x2F => if bitsAt t 13 9 = 0 then inRI tl d t fun d a imm => .ins d a (r6 imm.toNat) (BitVec.ofNat 7 (imm.toNat / 64))
    else none
  | 0x30 => if tl = 3 then some (.li (r6 d) (BitVec.ofNat 48 t)) else none
  | 0x31 => if tl = 3 ∧ bitsAt t 16 26 = 0 then
      some (.lih (r6 d) (r6 (bitsAt t 42 6)) (BitVec.ofNat 16 (bitsAt t 0 16))) else none
  | 0x32 => inRR2 tl d t .mov
  | 0x33 => if bitsAt t 26 6 = 0 then inRI tl d t fun d _ imm => .addpc d imm else none
  | 0x38 => inBoth tl d t (fun d a off idx => if d = 0 ∧ a = 0 then some (.br off idx) else none)
      (fun d a off idx => if d = 0 ∧ a = 0 then some (.brLong off idx) else none)
  | 0x39 => inB tl d t .beq
  | 0x3A => inB tl d t .bne
  | 0x3B => inB tl d t .blt
  | 0x3C => inB tl d t .bge
  | 0x3D => inB tl d t .bltu
  | 0x3E => inB tl d t .bgeu
  | 0x3F => inBoth tl d t (fun d a off idx => d0 d (.bz a off idx)) (fun d a off idx => d0 d (.bzLong a off idx))
  | 0x40 => inBoth tl d t (fun d a off idx => d0 d (.bnz a off idx)) (fun d a off idx => d0 d (.bnzLong a off idx))
  | 0x41 => inBoth tl d t (fun d a off idx => d0 a (.call d off idx)) (fun d a off idx => d0 a (.callLong d off idx))
  | 0x42 => inRR2 tl d t .callr
  | 0x43 => in0 tl d fun d => some (.ret d)
  | 0x44 => in0 tl d fun d => some (.jr d)
  | 0x45 => inBoth tl d t (fun d a off idx => d0 a (.loop d off idx)) (fun d a off idx => d0 a (.loopLong d off idx))
  | 0x46 => in00 tl d .yield
  | 0x47 => in00 tl d .tend
  | 0x48 => in0 tl d fun n => some (.trap n)
  | 0x49 => in00 tl d .eret
  | 0x4A => if bitsAt t 12 10 = 0 then inSel tl d t (fun mn d imm => if mn = 0 then some (.rdsr d (BitVec.ofNat 12 imm)) else none) else none
  | 0x4B => if bitsAt t 12 10 = 0 ∧ d = 0 then inRI tl d t fun _ a imm => .wrsr (BitVec.ofNat 12 imm.toNat) a else none
  | 0x4C => if bitsAt t 12 10 = 0 then inRI tl d t fun d a imm => .swsr d (BitVec.ofNat 12 imm.toNat) a else none
  | 0x4D => inSel tl d t fun mn d imm => do
      let s ← IdSel.ofCode mn
      if imm = 0 then some (.getid s d) else none
  | 0x4E => inSel tl d t fun mn d imm => if mn = 0 then some (.wid d (BitVec.ofNat 22 imm)) else none
  | 0x4F => inSel tl d t fun mn d imm =>
      if imm = 0 ∧ mn = 0 then some (.timeLoc d) else if imm = 0 ∧ mn = 1 then some (.timeGlob d) else none
  | 0x50 => inM tl d t fun d a b w sz cp off => if sz = .w ∧ cp = .n then some (.waitaddr d a b off w) else none
  | 0x51 => inRRa tl d t fun mn a => if mn = 0 then some (.wake a) else none
  | 0x52 => inRR3 tl d t .spill
  | 0x53 => inRR3 tl d t .restor
  | 0x54 => in0 tl d fun n => some (.brk n)
  | 0x55 => in00 tl d .baste
  | 0x56 => inRI tl d t .salloc
  | 0x57 => inRRa tl d t fun mn a => if mn = 0 then some (.sfree a) else none
  | 0x58 => inM tl d t fun d a b w sz cp off => d0 b (.ld d a off sz w cp)
  | 0x59 => inM tl d t fun d a b w sz cp off => d0 b (.lds d a off sz w cp)
  | 0x5A => inM tl d t fun d a b w sz cp off => d0 d (.st a b off sz w cp)
  | 0x5B => inM tl d t fun d a b w sz cp off => some (.ldg d a b off sz w cp)
  | 0x5C => inM tl d t fun d a b w sz cp off => some (.stg d a b off sz w cp)
  | 0x5D => inRRR tl d t fun d a b c x mn => do
      let sc ← Scope.ofCode x
      let sz ← Size.ofCode mn
      if b = 0 ∧ c = 0 then some (.lda d a sz sc) else none
  | 0x5E => inRRR tl d t fun d a b c x mn => do
      let sc ← Scope.ofCode x
      let sz ← Size.ofCode mn
      if d = 0 ∧ c = 0 then some (.stl a b sz sc) else none
  | 0x5F => inM tl d t fun d a b w sz cp off =>
      if d = 0 ∧ b = 0 ∧ w = 0 ∧ sz = .w then some (.pref a off cp) else none
  | 0x60 => inRRa tl d t fun mn a => if mn = 0 then some (.cflushLine a) else if mn = 1 then some (.cflushAll a) else none
  | 0x61 => inRRa tl d t fun mn a =>
      if mn = 0 then some (.cinvLine a) else if mn = 1 then some (.cinvIline a)
      else if mn = 2 then some (.cinvAll a) else none
  | 0x62 => if tl = 0 then do
      let sc ← Scope.ofCode d
      some (.fence sc)
    else none
  | 0x63 => if d = 0 ∧ bitsAt t 16 6 = 0 then inSel tl d t fun mn _ imm =>
      if mn = 0 then some (.waitc (BitVec.ofNat 4 imm) (BitVec.ofNat 4 (imm / 16)) (BitVec.ofNat 4 (imm / 256))
        (BitVec.ofNat 4 (imm / 4096))) else none
    else none
  | 0x64 => inM tl d t fun d a b w sz cp off => if sz = .w ∧ b = 0 then some (.lde d a off w cp) else none
  | 0x65 => inM tl d t fun d a b w sz cp off => if sz = .w ∧ d = 0 then some (.stf a b off w cp) else none
  | 0x66 => inRRR tl d t fun d a b c x mn =>
      if d = 0 ∧ c = 0 ∧ mn = 0 ∧ x = 0 then some (.feinitEmpty a b)
      else if d = 0 ∧ c = 0 ∧ mn = 0 ∧ x = 1 then some (.feinitFull a b) else none
  | 0x67 => inRRa tl d t fun mn a => if mn = 0 then some (.touchRd a) else if mn = 1 then some (.touchWr a) else none
  | 0x68 => inRRR tl d t fun d a b c x mn => do
      let sc ← Scope.ofCode x
      let op ← AmoOp.ofCode (bitsAt mn 0 4)
      let mo ← MOrd.ofCode (bitsAt mn 6 2)
      if c = 0 ∧ bitsAt mn 5 1 = 1 ∧ bitsAt mn 8 2 = 0 then some (.amo d a b op (bitsAt mn 4 1 == 1) mo sc) else none
  | 0x69 => inRRR tl d t fun d a b c x mn => do
      let sc ← Scope.ofCode x
      let mo ← MOrd.ofCode (bitsAt mn 6 2)
      if bitsAt mn 0 4 = 0 ∧ bitsAt mn 5 1 = 1 ∧ bitsAt mn 8 2 = 0 then some (.cas d a b c (bitsAt mn 4 1 == 1) mo sc)
      else none
  | 0x6A => inRRR tl d t fun d a b c x mn => do
      let sc ← Scope.ofCode x
      let mo ← MOrd.ofCode (bitsAt mn 6 2)
      if bitsAt mn 0 6 = 0 ∧ bitsAt mn 8 2 = 0 then some (.cas2 d a b c mo sc) else none
  | 0x6B => inRRR tl d t fun d a b c x mn => do
      let sc ← Scope.ofCode x
      let op ← AmoOp.ofCode (bitsAt mn 0 4)
      let mo ← MOrd.ofCode (bitsAt mn 6 2)
      if d = 0 ∧ c = 0 ∧ bitsAt mn 5 1 = 1 ∧ bitsAt mn 8 2 = 0 then some (.red a b op (bitsAt mn 4 1 == 1) mo sc)
      else none
  | 0x6C => if tl = 2 then
      (if bitsAt t 22 4 = 0 ∧ d = 0 ∧ bitsAt t 26 6 = 0 then some (.placeSet (BitVec.ofNat 22 (bitsAt t 0 22)))
       else if bitsAt t 22 4 = 1 ∧ bitsAt t 26 6 = 0 ∧ bitsAt t 0 22 = 0 then some (.placeGet (r6 d))
       else if bitsAt t 22 4 = 2 ∧ d = 0 ∧ bitsAt t 0 22 = 0 then some (.placeClr (r6 (bitsAt t 26 6)))
       else none)
    else none
  | 0x70 => in0 tl d fun _ => if d < 32 then some (.arrive (r5 d)) else none
  | 0x71 => in0 tl d fun _ => if d < 32 then some (.waitb (r5 d)) else none
  | 0x72 => if d < 32 then inRR2 tl d t fun _ a => .barset (r5 d) a else none
  | 0x73 => inRRab tl d t .tbinit
  | 0x74 => inRRab tl d t .tbexp
  | 0x75 => inRR2 tl d t .tbarr
  | 0x76 => inRRab tl d t .tbwait
  | 0x77 => inRR3 tl d t .tbtest
  | 0x78 => inCh tl d t fun k d a b imm => d0 d (.chpush k a b imm)
  | 0x79 => inCh tl d t fun k d a b imm => some (.chpop k d a b imm)
  | 0x7A => inCh tl d t fun k d a b imm => some (.choffer k d a b imm)
  | 0x7B => inCh tl d t fun k d a b imm => some (.chtake k d a b imm)
  | 0x7C => inCh tl d t fun k d a b imm => some (.chpeek k d a b imm)
  | 0x7D => inRRR tl d t fun d a b c x mn => if b = 0 ∧ c = 0 ∧ x = 0 then some (.chlen d a (BitVec.ofNat 10 mn)) else none
  | 0x7E => inRRR tl d t fun d a b c x mn =>
      if d = 0 ∧ b = 0 ∧ c = 0 ∧ x = 0 then some (.chclose a (BitVec.ofNat 10 mn)) else none
  | 0x7F => inRRR tl d t fun d a b c x mn =>
      if d = 0 ∧ b = 0 ∧ c = 0 ∧ x = 0 then some (.chinv a (BitVec.ofNat 10 mn)) else none
  | 0x80 => if d < 4 ∧ bitsAt t 6 16 = 0 then inSel tl d t fun mn _ imm =>
      if mn = 0 then some (.qmap (BitVec.ofNat 2 d) (r3 imm) (r3 (imm / 8))) else none
    else none
  | 0x81 => if tl = 0 ∧ d < 4 then some (.qclear (BitVec.ofNat 2 d)) else none
  | 0x82 => inSel tl d t fun mn d imm => if mn = 0 then some (.qlen d (BitVec.ofNat 22 imm)) else none
  | 0x84 => inRRab tl d t .spawn
  | 0x85 => inRRa tl d t fun mn a => if mn = 0 then some (.dec a) else none
  | 0x86 => inRRab tl d t .tset
  | 0x87 => inSel tl d t fun mn d imm => do
      let s ← DomSel.ofCode mn
      some (.domain s d (BitVec.ofNat 22 imm))
  | 0x88 => inSel tl d t fun mn d imm => do
      let s ← AllowSel.ofCode mn
      if imm = 0 then some (.allow s d) else none
  | 0x89 => inRR2 tl d t .keyhome
  | 0x8A => in00 tl d .split
  | 0x8B => inRR3 tl d t .launch
  | 0x8C => inRR2 tl d (t - bitsAt t 0 1) fun d a => if bitsAt t 0 1 = 0 then .cpyq d a else .cpyqNb d a
  | 0x8D => inSel tl d t fun mn d imm => do
      let s ← CpySel.ofCode mn
      if imm = 0 then some (.cpyst s d) else none
  | 0x8E => inRR2 tl d (t - bitsAt t 0 1) fun d a => if bitsAt t 0 1 = 0 then .cpyres d a else .cpyresNb d a
  | 0x8F => inRRR tl d t fun d a b c x mn => do
      let k ← ElemKind.ofCode x
      some (.msend k d a b c (BitVec.ofNat 10 mn))
  | 0x90 => inRRR tl d t fun d a b c x mn => do
      let k ← ElemKind.ofCode x
      if a = 0 ∧ c = 0 then some (.mrecv k d b (BitVec.ofNat 10 mn)) else none
  | 0x91 => in00 tl d .mwait
  | 0x92 => inSel tl d t fun mn d imm => do
      let s ← MsgSel.ofCode mn
      if imm = 0 then some (.msgst s d) else none
  | 0xA0 => inVarith2 .f32 tl d t .vadd
  | 0xA1 => inVarith2 .f32 tl d t .vsub
  | 0xA2 => inVarith2 .f32 tl d t .vmul
  | 0xA3 => inVarith3 .f32 tl d t .vfma
  | 0xA4 => inVarith3 .f32 tl d t .vfms
  | 0xA5 => inVarith3 .f32 tl d t .vfnma
  | 0xA6 => inVty2 tl d t .vmin
  | 0xA7 => inVty2 tl d t .vmax
  | 0xA8 => inVty1 tl d t .vabs
  | 0xA9 => inVty1 tl d t .vneg
  | 0xAA => inVfun tl d t .vrcp
  | 0xAB => inVfun tl d t .vrsq
  | 0xAC => inVfun tl d t .vexp2
  | 0xAD => inVfun tl d t .vlog2
  | 0xAE => inVfun tl d t .vsqrt
  | 0xAF => inVarith2 .f32 tl d t .vdiv
  | 0xB0 => inV tl d t fun vd a b c m ty mn => do
      let fmt ← NFmt.ofCode (bitsAt mn 0 3)
      let r ← Rnd.ofCode (bitsAt mn 4 3)
      if ty = .f32 ∧ b = 0 ∧ c = 0 ∧ bitsAt mn 7 3 = 0 then some (.vcvt vd a m fmt (bitsAt mn 3 1 == 1) r) else none
  | 0xB1 => inV tl d t fun vd a b c m ty mn => do
      let fmt ← NFmt.ofCode (bitsAt mn 0 3)
      let r ← Rnd.ofCode (bitsAt mn 4 3)
      if ty = .f32 ∧ c = 0 ∧ bitsAt mn 3 1 = 0 ∧ bitsAt mn 7 3 = 0 then some (.vquant vd a b m fmt r) else none
  | 0xB2 => inV tl d t fun vd a b c m ty mn => do
      let r ← Rnd.ofCode mn
      if c = 0 then some (.vscale vd a b m ty r) else none
  | 0xB3 => if d < 8 then inV tl d t fun _ a b c m ty mn => do
      let cd ← Cond.ofCode mn
      if c = 0 then some (.vcmp (r3 d) a b m ty cd) else none
    else none
  | 0xB4 => inVty2 tl d t .vsel
  | 0xB5 => inV tl d t fun vd a b c m ty mn => if c = 0 ∧ mn < 2 then some (.viadd vd a b m ty (mn == 1)) else none
  | 0xB6 => inV tl d t fun vd a b c m ty mn => if c = 0 ∧ mn < 2 then some (.visub vd a b m ty (mn == 1)) else none
  | 0xB7 => inV tl d t fun vd a b c m ty mn =>
      if c = 0 ∧ mn < 4 then some (.vimul vd a b m ty (bitsAt mn 0 1 == 1) (bitsAt mn 1 1 == 1)) else none
  | 0xB8 => inV tl d t fun vd a b c m ty mn => if mn < 2 then some (.vimad vd a b c m ty (mn == 1)) else none
  | 0xB9 => inVty2 tl d t .vand
  | 0xBA => inVty2 tl d t .vor
  | 0xBB => inVty2 tl d t .vxor
  | 0xBC => inVty2 tl d t .vshl
  | 0xBD => inVty2 tl d t .vshr
  | 0xBE => inVty2 tl d t .vsra
  | 0xBF => inVrnd1 tl d t .vredadd
  | 0xC0 => inVty1 tl d t .vredmax
  | 0xC1 => inVty1 tl d t .vredmin
  | 0xC2 => inVrnd1 tl d t .vscanadd
  | 0xC3 => inVty2 tl d t .vperm
  | 0xC4 => inV tl d t fun vd a b c m ty mn => if b = 0 ∧ c = 0 ∧ mn < 64 then some (.vbcast vd a m ty (r6 mn)) else none
  | 0xC5 => if tl = 1 ∧ d < 32 ∧ bitsAt t 7 3 = 0 then do
      let ty ← VTy.ofCode (bitsAt t 0 4)
      some (.vsplat (r5 d) (r6 (bitsAt t 10 6)) (r3 (bitsAt t 4 3)) ty)
    else none
  | 0xC6 => inV tl d t fun vd a b c m ty mn => if a = 0 ∧ b = 0 ∧ c = 0 ∧ mn = 0 then some (.viota vd m ty) else none
  | 0xC7 => inVty1 tl d t .vmov
  | 0xC8 => if tl = 1 ∧ bitsAt t 15 1 = 0 ∧ bitsAt t 1 3 = 0 then
      some (.vextr (r6 d) (r5 (bitsAt t 10 5)) (r6 (bitsAt t 4 6)) (bitsAt t 0 1 == 1)) else none
  | 0xC9 => if tl = 1 ∧ d < 32 ∧ bitsAt t 1 3 = 0 then
      some (.vinsr (r5 d) (r6 (bitsAt t 10 6)) (r6 (bitsAt t 4 6)) (bitsAt t 0 1 == 1)) else none
  | 0xCA => inVmem tl d t .vld
  | 0xCB => inVmem tl d t .vst
  | 0xCC => inRRR tl d t fun _ a b c x mn =>
      if d < 32 ∧ c = 0 ∧ x < 8 then some (.vlds (r5 d) a b (r3 x) (BitVec.ofNat 10 mn)) else none
  | 0xCD => inRRR tl d t fun _ a b c x mn =>
      if d < 32 ∧ c = 0 ∧ x < 8 then some (.vsts (r5 d) a b (r3 x) (BitVec.ofNat 10 mn)) else none
  | 0xCE => inRRR tl d t fun _ a b c x mn =>
      if d < 32 ∧ b.toNat < 32 ∧ c = 0 ∧ x < 8 ∧ mn < 4 then
        some (.vgath (r5 d) a (r5 b.toNat) (r3 x) (BitVec.ofNat 2 mn)) else none
  | 0xCF => inRRR tl d t fun _ a b c x mn =>
      if d < 32 ∧ b.toNat < 32 ∧ c = 0 ∧ x < 8 ∧ mn < 4 then
        some (.vscat (r5 d) a (r5 b.toNat) (r3 x) (BitVec.ofNat 2 mn)) else none
  | 0xD0 => if d < 8 then inMask tl d t fun _ a b => some (.mand (r3 d) a b) else none
  | 0xD1 => if d < 8 then inMask tl d t fun _ a b => some (.mor (r3 d) a b) else none
  | 0xD2 => if d < 8 then inMask tl d t fun _ a b => some (.mxor (r3 d) a b) else none
  | 0xD3 => if d < 8 then inMask tl d t fun _ a b => if b = 0 then some (.mnot (r3 d) a) else none else none
  | 0xD4 => inMask tl d t fun d a b => if b = 0 then some (.mpopc d a) else none
  | 0xD5 => inMask tl d t fun d a b => if b = 0 then some (.mfirst d a) else none
  | 0xD6 => if d < 8 then inRR2 tl d t fun _ a => .msetv (r3 d) a else none
  | 0xD7 => if bitsAt t 13 3 = 0 then inRR2 tl d t fun d a => .mgetv d (r3 a.toNat) else none
  | 0xD8 => inVarith2 .f64 tl d t .vdadd
  | 0xD9 => inVarith2 .f64 tl d t .vdmul
  | 0xDA => inVarith3 .f64 tl d t .vdfma
  | 0xDB => inVty1 tl d t .vclass
  | 0xDC => inVrnd1 tl d t .vround
  | 0xDD => inVrnd1 tl d t .vfcvti
  | 0xDE => inVrnd1 tl d t .vicvtf
  | 0xDF => inVfun tl d t .vtanh
  | 0xE0 => inSel tl d t fun mn d imm => do
      let s ← GeomSel.ofCode mn
      if imm = 0 then some (.geom s d) else none
  | 0xE1 => inRRa tl d t fun mn a => if mn = 0 then some (.ltab a) else none
  | 0xE2 => inRRR tl d t fun d a b c x mn =>
      if d = 0 ∧ c = 0 ∧ x = 0 ∧ mn = 0 then some (.wload a b)
      else if d = 0 ∧ c = 0 ∧ x = 0 ∧ mn = 1 then some (.wloadSc a b) else none
  | 0xE3 => in00 tl d .wswap
  | 0xE4 => inRRa tl d t fun mn a => if mn = 0 then some (.gang a) else none
  | 0xE5 => if d = 0 ∧ bitsAt t 13 9 = 0 then inSel tl d t fun mn _ imm =>
      if mn = 0 then some (.mzero (r6 imm) (BitVec.ofNat 7 (imm / 64))) else none
    else none
  | 0xE6 => inRRR tl d t fun d a b c x mn => do
      let fmt ← OFmt.ofCode x
      let r ← Rnd.ofCode (bitsAt mn 0 3)
      if d = 0 ∧ bitsAt mn 3 7 = 0 then some (.mdrain fmt r a b c)
      else if d = 0 ∧ bitsAt mn 3 7 = 1 ∧ a = 0 ∧ c = 0 then some (.mdrainPort fmt r b) else none
  | 0xE7 => if d < 32 then inSel tl d t fun mn _ imm => if mn = 0 then some (.mread (r5 d) (BitVec.ofNat 22 imm)) else none
    else none
  | 0xE8 => inRR2 tl d t .sbtake
  | _ => none

/-- The unassigned majors and 0xFF (R71). -/
def unassigned (maj : Nat) : Bool :=
  decide ((0x34 ≤ maj ∧ maj ≤ 0x37) ∨ (0x6D ≤ maj ∧ maj ≤ 0x6F) ∨ maj = 0x83 ∨ (0x93 ≤ maj ∧ maj ≤ 0x9F)
    ∨ 0xE9 ≤ maj)

/-- The decoder: a head and its tail (zero above its TL halfwords) to an instruction, or the reason it is none. -/
def decode (head tail : Nat) : Except DecodeError Instr :=
  let maj := head / 256 % 256
  if unassigned maj then .error .unassigned
  else match rawDecode maj (head / 64 % 4) (head % 64) tail with
    | none => .error .reserved
    | some i => if i.wf then .ok i else .error .reserved

/-! ## The encoder -/

def cRR3 (maj : Nat) (d a b : Reg) : Code := ⟨maj, 1, d.toNat, tRR a.toNat b.toNat 0⟩
def cRR (maj : Nat) (d a : Reg) (m : Nat) : Code := ⟨maj, 1, d.toNat, tRR a.toNat 0 m⟩
def cRI (maj : Nat) (d a : Reg) (m imm : Nat) : Code := ⟨maj, 2, d.toNat, tRI a.toNat m imm⟩
def cRRR (maj : Nat) (d a b c : Reg) (x m : Nat) : Code := ⟨maj, 2, d.toNat, tRRR a.toNat b.toNat c.toNat x m⟩
def cM (maj : Nat) (d a b : Reg) (w : BitVec 2) (sz : Size) (cp : Cp) (off : BitVec 14) : Code :=
  ⟨maj, 2, d.toNat, tM a.toNat b.toNat w.toNat sz.code cp.code off.toNat⟩
def cV (maj d va vb vc m ty mn : Nat) : Code := ⟨maj, 2, d, tV va vb vc m ty mn⟩
def cV3 (maj : Nat) (d a b c : VReg) (m : MReg) (ty : VTy) (mn : Nat) : Code :=
  cV maj d.toNat a.toNat b.toNat c.toNat m.toNat ty.code mn
def cB (maj : Nat) (d a b : Reg) (off : BitVec 15) (idx : BitVec 5) : Code :=
  ⟨maj, 2, d.toNat, tB a.toNat b.toNat off.toNat idx.toNat⟩
def cBL (maj : Nat) (d a : Reg) (off : BitVec 37) (idx : BitVec 5) : Code :=
  ⟨maj, 3, d.toNat, tBL a.toNat off.toNat idx.toNat⟩
def c0 (maj d : Nat) : Code := ⟨maj, 0, d, 0⟩

/-- The minor of AMO, CAS and RED: op, size, ordering (R61). -/
def amoMinor (op : Nat) (wide : Bool) (mo : MOrd) : Nat := op + (if wide then 48 else 32) + 64 * mo.code

/-- The fields of an instruction's code (R56 to R70); events have none. -/
def Instr.code : Instr → Option Code
  | .nop => some (c0 0 0)
  | .illegalInstruction _ _ => none
  | .add d a b => some (cRR3 0x01 d a b)
  | .sub d a b => some (cRR3 0x02 d a b)
  | .addw d a b => some (cRR3 0x04 d a b)
  | .subw d a b => some (cRR3 0x05 d a b)
  | .mul d a b => some (cRR3 0x06 d a b)
  | .mulh d a b => some (cRR3 0x07 d a b)
  | .mulhu d a b => some (cRR3 0x08 d a b)
  | .mulw d a b => some (cRR3 0x09 d a b)
  | .div d a b => some (cRR3 0x0A d a b)
  | .divu d a b => some (cRR3 0x0B d a b)
  | .rem d a b => some (cRR3 0x0C d a b)
  | .remu d a b => some (cRR3 0x0D d a b)
  | .and_ d a b => some (cRR3 0x0E d a b)
  | .or_ d a b => some (cRR3 0x0F d a b)
  | .xor d a b => some (cRR3 0x10 d a b)
  | .andn d a b => some (cRR3 0x11 d a b)
  | .orn d a b => some (cRR3 0x12 d a b)
  | .shl d a b => some (cRR3 0x16 d a b)
  | .shr d a b => some (cRR3 0x17 d a b)
  | .sra d a b => some (cRR3 0x18 d a b)
  | .rotl d a b => some (cRR3 0x1C d a b)
  | .rotr d a b => some (cRR3 0x1D d a b)
  | .clz d a => some (cRR 0x1E d a 0)
  | .ctz d a => some (cRR 0x1F d a 0)
  | .popc d a => some (cRR 0x20 d a 0)
  | .brev d a => some (cRR 0x21 d a 0)
  | .bswap d a => some (cRR 0x22 d a 0)
  | .min d a b => some (cRR3 0x23 d a b)
  | .max d a b => some (cRR3 0x24 d a b)
  | .minu d a b => some (cRR3 0x25 d a b)
  | .maxu d a b => some (cRR3 0x26 d a b)
  | .seq d a b => some (cRR3 0x27 d a b)
  | .sne d a b => some (cRR3 0x28 d a b)
  | .slt d a b => some (cRR3 0x29 d a b)
  | .sltu d a b => some (cRR3 0x2A d a b)
  | .addi d a imm => some (cRI 0x03 d a 0 imm.toNat)
  | .andi d a imm => some (cRI 0x13 d a 0 imm.toNat)
  | .ori d a imm => some (cRI 0x14 d a 0 imm.toNat)
  | .xori d a imm => some (cRI 0x15 d a 0 imm.toNat)
  | .slti d a imm => some (cRI 0x2B d a 0 imm.toNat)
  | .shli d a imm => some (cRI 0x19 d a 0 imm.toNat)
  | .shri d a imm => some (cRI 0x1A d a 0 imm.toNat)
  | .srai d a imm => some (cRI 0x1B d a 0 imm.toNat)
  | .sel d a b c => some (cRRR 0x2C d a b c 0 0)
  | .ext d a pos len => some (cRI 0x2D d a 0 (len.toNat * 64 + pos.toNat))
  | .exts d a pos len => some (cRI 0x2E d a 0 (len.toNat * 64 + pos.toNat))
  | .ins d a pos len => some (cRI 0x2F d a 0 (len.toNat * 64 + pos.toNat))
  | .li d imm => some ⟨0x30, 3, d.toNat, imm.toNat⟩
  | .lih d a imm => some ⟨0x31, 3, d.toNat, tL a.toNat imm.toNat⟩
  | .mov d a => some (cRR 0x32 d a 0)
  | .addpc d imm => some (cRI 0x33 d 0 0 imm.toNat)
  | .br off idx => some (cB 0x38 0 0 0 off idx)
  | .brLong off idx => some (cBL 0x38 0 0 off idx)
  | .beq a b off idx => some (cB 0x39 0 a b off idx)
  | .bne a b off idx => some (cB 0x3A 0 a b off idx)
  | .blt a b off idx => some (cB 0x3B 0 a b off idx)
  | .bge a b off idx => some (cB 0x3C 0 a b off idx)
  | .bltu a b off idx => some (cB 0x3D 0 a b off idx)
  | .bgeu a b off idx => some (cB 0x3E 0 a b off idx)
  | .bz a off idx => some (cB 0x3F 0 a 0 off idx)
  | .bzLong a off idx => some (cBL 0x3F 0 a off idx)
  | .bnz a off idx => some (cB 0x40 0 a 0 off idx)
  | .bnzLong a off idx => some (cBL 0x40 0 a off idx)
  | .call d off idx => some (cB 0x41 d 0 0 off idx)
  | .callLong d off idx => some (cBL 0x41 d 0 off idx)
  | .callr d a => some (cRR 0x42 d a 0)
  | .ret d => some (c0 0x43 d.toNat)
  | .jr d => some (c0 0x44 d.toNat)
  | .loop d off idx => some (cB 0x45 d 0 0 off idx)
  | .loopLong d off idx => some (cBL 0x45 d 0 off idx)
  | .yield => some (c0 0x46 0)
  | .tend => some (c0 0x47 0)
  | .trap d => some (c0 0x48 d.toNat)
  | .eret => some (c0 0x49 0)
  | .rdsr d sr => some (cRI 0x4A d 0 0 sr.toNat)
  | .wrsr sr a => some (cRI 0x4B 0 a 0 sr.toNat)
  | .swsr d sr a => some (cRI 0x4C d a 0 sr.toNat)
  | .getid s d => some (cRI 0x4D d 0 s.code 0)
  | .wid d n => some (cRI 0x4E d 0 0 n.toNat)
  | .timeLoc d => some (cRI 0x4F d 0 0 0)
  | .timeGlob d => some (cRI 0x4F d 0 1 0)
  | .waitaddr d a b off w => some (cM 0x50 d a b w .w .n off)
  | .wake a => some (cRR 0x51 0 a 0)
  | .wakeArrival _ => none
  | .spill d a b => some (cRR3 0x52 d a b)
  | .restor d a b => some (cRR3 0x53 d a b)
  | .brk d => some (c0 0x54 d.toNat)
  | .baste => some (c0 0x55 0)
  | .salloc d a imm => some (cRI 0x56 d a 0 imm.toNat)
  | .sfree a => some (cRR 0x57 0 a 0)
  | .qmap q w r => some ⟨0x80, 2, q.toNat, tRI 0 0 (r.toNat * 8 + w.toNat)⟩
  | .qclear q => some (c0 0x81 q.toNat)
  | .qlen d n => some (cRI 0x82 d 0 0 n.toNat)
  | .heldPushRetry _ => none
  | .asyncTrapEntry _ => none
  | .lineFetch _ => none
  | .slotSpill _ => none
  | .spillComplete _ => none
  | .restoreComplete _ => none
  | .vadd d a b m r => some (cV3 0xA0 d a b 0 m .f32 r.code)
  | .vsub d a b m r => some (cV3 0xA1 d a b 0 m .f32 r.code)
  | .vmul d a b m r => some (cV3 0xA2 d a b 0 m .f32 r.code)
  | .vdiv d a b m r => some (cV3 0xAF d a b 0 m .f32 r.code)
  | .vfma d a b c m r => some (cV3 0xA3 d a b c m .f32 r.code)
  | .vfms d a b c m r => some (cV3 0xA4 d a b c m .f32 r.code)
  | .vfnma d a b c m r => some (cV3 0xA5 d a b c m .f32 r.code)
  | .vmin d a b m ty => some (cV3 0xA6 d a b 0 m ty 0)
  | .vmax d a b m ty => some (cV3 0xA7 d a b 0 m ty 0)
  | .vabs d a m ty => some (cV3 0xA8 d a 0 0 m ty 0)
  | .vneg d a m ty => some (cV3 0xA9 d a 0 0 m ty 0)
  | .vrcp d a m => some (cV3 0xAA d a 0 0 m .f32 0)
  | .vrsq d a m => some (cV3 0xAB d a 0 0 m .f32 0)
  | .vexp2 d a m => some (cV3 0xAC d a 0 0 m .f32 0)
  | .vlog2 d a m => some (cV3 0xAD d a 0 0 m .f32 0)
  | .vsqrt d a m => some (cV3 0xAE d a 0 0 m .f32 0)
  | .vtanh d a m => some (cV3 0xDF d a 0 0 m .f32 0)
  | .vcvt d a m fmt fr r => some (cV3 0xB0 d a 0 0 m .f32 (fmt.code + 8 * bit fr + 16 * r.code))
  | .vquant d a b m fmt r => some (cV3 0xB1 d a b 0 m .f32 (fmt.code + 16 * r.code))
  | .vscale d a b m ty r => some (cV3 0xB2 d a b 0 m ty r.code)
  | .vcmp d a b m ty c => some (cV 0xB3 d.toNat a.toNat b.toNat 0 m.toNat ty.code c.code)
  | .vsel d a b m ty => some (cV3 0xB4 d a b 0 m ty 0)
  | .viadd d a b m ty sat => some (cV3 0xB5 d a b 0 m ty (bit sat))
  | .visub d a b m ty sat => some (cV3 0xB6 d a b 0 m ty (bit sat))
  | .vimul d a b m ty sat hi => some (cV3 0xB7 d a b 0 m ty (bit sat + 2 * bit hi))
  | .vimad d a b c m ty sat => some (cV3 0xB8 d a b c m ty (bit sat))
  | .vand d a b m ty => some (cV3 0xB9 d a b 0 m ty 0)
  | .vor d a b m ty => some (cV3 0xBA d a b 0 m ty 0)
  | .vxor d a b m ty => some (cV3 0xBB d a b 0 m ty 0)
  | .vshl d a b m ty => some (cV3 0xBC d a b 0 m ty 0)
  | .vshr d a b m ty => some (cV3 0xBD d a b 0 m ty 0)
  | .vsra d a b m ty => some (cV3 0xBE d a b 0 m ty 0)
  | .vredadd d a m ty r => some (cV3 0xBF d a 0 0 m ty r.code)
  | .vredmax d a m ty => some (cV3 0xC0 d a 0 0 m ty 0)
  | .vredmin d a m ty => some (cV3 0xC1 d a 0 0 m ty 0)
  | .vscanadd d a m ty r => some (cV3 0xC2 d a 0 0 m ty r.code)
  | .vperm d a b m ty => some (cV3 0xC3 d a b 0 m ty 0)
  | .vbcast d a m ty j => some (cV3 0xC4 d a 0 0 m ty j.toNat)
  | .vsplat d a m ty => some ⟨0xC5, 1, d.toNat, tRR a.toNat m.toNat ty.code⟩
  | .viota d m ty => some (cV3 0xC6 d 0 0 0 m ty 0)
  | .vmov d a m ty => some (cV3 0xC7 d a 0 0 m ty 0)
  | .vextr d v b wide => some ⟨0xC8, 1, d.toNat, tRR v.toNat b.toNat (bit wide)⟩
  | .vinsr v a b wide => some ⟨0xC9, 1, v.toNat, tRR a.toNat b.toNat (bit wide)⟩
  | .vld v a off m w cp => some ⟨0xCA, 2, v.toNat, tM a.toNat m.toNat w.toNat 0 cp.code off.toNat⟩
  | .vst v a off m w cp => some ⟨0xCB, 2, v.toNat, tM a.toNat m.toNat w.toNat 0 cp.code off.toNat⟩
  | .vlds v a b m off => some ⟨0xCC, 2, v.toNat, tRRR a.toNat b.toNat 0 m.toNat off.toNat⟩
  | .vsts v a b m off => some ⟨0xCD, 2, v.toNat, tRRR a.toNat b.toNat 0 m.toNat off.toNat⟩
  | .vgath v a ix m sc => some ⟨0xCE, 2, v.toNat, tRRR a.toNat ix.toNat 0 m.toNat sc.toNat⟩
  | .vscat v a ix m sc => some ⟨0xCF, 2, v.toNat, tRRR a.toNat ix.toNat 0 m.toNat sc.toNat⟩
  | .mand d a b => some (cV 0xD0 d.toNat a.toNat b.toNat 0 0 0 0)
  | .mor d a b => some (cV 0xD1 d.toNat a.toNat b.toNat 0 0 0 0)
  | .mxor d a b => some (cV 0xD2 d.toNat a.toNat b.toNat 0 0 0 0)
  | .mnot d a => some (cV 0xD3 d.toNat a.toNat 0 0 0 0 0)
  | .mpopc d a => some (cV 0xD4 d.toNat a.toNat 0 0 0 0 0)
  | .mfirst d a => some (cV 0xD5 d.toNat a.toNat 0 0 0 0 0)
  | .msetv d a => some ⟨0xD6, 1, d.toNat, tRR a.toNat 0 0⟩
  | .mgetv d a => some ⟨0xD7, 1, d.toNat, tRR a.toNat 0 0⟩
  | .vdadd d a b m r => some (cV3 0xD8 d a b 0 m .f64 r.code)
  | .vdmul d a b m r => some (cV3 0xD9 d a b 0 m .f64 r.code)
  | .vdfma d a b c m r => some (cV3 0xDA d a b c m .f64 r.code)
  | .vclass d a m ty => some (cV3 0xDB d a 0 0 m ty 0)
  | .vround d a m ty r => some (cV3 0xDC d a 0 0 m ty r.code)
  | .vfcvti d a m ty r => some (cV3 0xDD d a 0 0 m ty r.code)
  | .vicvtf d a m ty r => some (cV3 0xDE d a 0 0 m ty r.code)
  | .vectorBeatStart _ _ => none
  | .vectorComplete _ _ => none
  | .ld d a off sz w cp => some (cM 0x58 d a 0 w sz cp off)
  | .lds d a off sz w cp => some (cM 0x59 d a 0 w sz cp off)
  | .st a b off sz w cp => some (cM 0x5A 0 a b w sz cp off)
  | .ldg d a b off sz w cp => some (cM 0x5B d a b w sz cp off)
  | .stg d a b off sz w cp => some (cM 0x5C d a b w sz cp off)
  | .lda d a sz sc => some (cRRR 0x5D d a 0 0 sc.code sz.code)
  | .stl a b sz sc => some (cRRR 0x5E 0 a b 0 sc.code sz.code)
  | .pref a off cp => some (cM 0x5F 0 a 0 0 .w cp off)
  | .cflushLine a => some (cRR 0x60 0 a 0)
  | .cflushAll a => some (cRR 0x60 0 a 1)
  | .cinvLine a => some (cRR 0x61 0 a 0)
  | .cinvIline a => some (cRR 0x61 0 a 1)
  | .cinvAll a => some (cRR 0x61 0 a 2)
  | .fence sc => some (c0 0x62 sc.code)
  | .waitc l s c t => some ⟨0x63, 2, 0, tRI 0 0 (l.toNat + 16 * s.toNat + 256 * c.toNat + 4096 * t.toNat)⟩
  | .lde d a off w cp => some (cM 0x64 d a 0 w .w cp off)
  | .stf a b off w cp => some (cM 0x65 0 a b w .w cp off)
  | .ldePerform _ => none
  | .stfPerform _ => none
  | .feinitEmpty a b => some (cRRR 0x66 0 a b 0 0 0)
  | .feinitFull a b => some (cRRR 0x66 0 a b 0 1 0)
  | .touchRd a => some (cRR 0x67 0 a 0)
  | .touchWr a => some (cRR 0x67 0 a 1)
  | .amo d a b op wide mo sc => some (cRRR 0x68 d a b 0 sc.code (amoMinor op.code wide mo))
  | .cas d a b c wide mo sc => some (cRRR 0x69 d a b c sc.code (amoMinor 0 wide mo))
  | .cas2 d a b c mo sc => some (cRRR 0x6A d a b c sc.code (64 * mo.code))
  | .red a b op wide mo sc => some (cRRR 0x6B 0 a b 0 sc.code (amoMinor op.code wide mo))
  | .placeSet imm => some (cRI 0x6C 0 0 0 imm.toNat)
  | .placeGet d => some (cRI 0x6C d 0 1 0)
  | .placeClr a => some (cRI 0x6C 0 a 2 0)
  | .loadResponse _ => none
  | .storeAck _ => none
  | .remoteAccessArrival _ => none
  | .remoteDenial _ => none
  | .homeStore _ => none
  | .homeAtomic _ => none
  | .pageMigration _ _ => none
  | .niAtomic _ => none
  | .translationRequest _ => none
  | .stage2FaultReply _ _ => none
  | .faultNotice _ => none
  | .atsReply _ _ => none
  | .freplyRetry _ _ _ => none
  | .freplyFail _ _ _ _ => none
  | .s1invPage _ _ _ => none
  | .s1invAll _ => none
  | .s1invComplete _ => none
  | .arrive g => some (c0 0x70 g.toNat)
  | .waitb g => some (c0 0x71 g.toNat)
  | .barset g a => some ⟨0x72, 1, g.toNat, tRR a.toNat 0 0⟩
  | .barsetInstall _ _ => none
  | .barrierRelease _ _ => none
  | .tbinit a b => some (cRR3 0x73 0 a b)
  | .tbexp a b => some (cRR3 0x74 0 a b)
  | .tbarr d a => some (cRR 0x75 d a 0)
  | .tbwait a b => some (cRR3 0x76 0 a b)
  | .tbtest d a b => some (cRR3 0x77 d a b)
  | .chpush k a b imm => some (cRRR 0x78 0 a b 0 k.code imm.toNat)
  | .chpop k d a b imm => some (cRRR 0x79 d a b 0 k.code imm.toNat)
  | .choffer k d a b imm => some (cRRR 0x7A d a b 0 k.code imm.toNat)
  | .chtake k d a b imm => some (cRRR 0x7B d a b 0 k.code imm.toNat)
  | .chpeek k d a b imm => some (cRRR 0x7C d a b 0 k.code imm.toNat)
  | .chlen d a imm => some (cRRR 0x7D d a 0 0 0 imm.toNat)
  | .chclose a imm => some (cRRR 0x7E 0 a 0 0 0 imm.toNat)
  | .chinv a imm => some (cRRR 0x7F 0 a 0 0 0 imm.toNat)
  | .channelFill _ _ => none
  | .channelPushAccept _ => none
  | .channelRefill _ _ => none
  | .channelEviction _ _ => none
  | .channelRoomReport _ _ => none
  | .channelCloseApply _ => none
  | .probeSend _ => none
  | .probeArrival _ => none
  | .probeExpiry _ => none
  | .letoutRequest _ => none
  | .spawn a b => some (cRR3 0x84 0 a b)
  | .spawnAccept _ => none
  | .dec a => some (cRR 0x85 0 a 0)
  | .depCellDecrement _ => none
  | .tset a b => some (cRR3 0x86 0 a b)
  | .domain s d n => some (cRI 0x87 d 0 s.code n.toNat)
  | .allow s d => some (cRI 0x88 d 0 s.code 0)
  | .keyhome d a => some (cRR 0x89 d a 0)
  | .split => some (c0 0x8A 0)
  | .launch d a b => some (cRR3 0x8B d a b)
  | .launchAccept _ => none
  | .pieceEnqueue _ _ => none
  | .taskBind _ => none
  | .runListPromotion _ _ _ => none
  | .readyRingPush _ => none
  | .readyRecordPlace _ => none
  | .cycleAllowanceExhausted _ => none
  | .effectDrainRecord _ _ => none
  | .geom s d => some (cRI 0xE0 d 0 s.code 0)
  | .ltab a => some (cRR 0xE1 0 a 0)
  | .ltabDone _ => none
  | .wload a b => some (cRRR 0xE2 0 a b 0 0 0)
  | .wloadSc a b => some (cRRR 0xE2 0 a b 0 0 1)
  | .wloadDone _ => none
  | .wswap => some (c0 0xE3 0)
  | .gang a => some (cRR 0xE4 0 a 0)
  | .c28StreamCommand _ _ _ => none
  | .gangJoin _ => none
  | .gangRow _ => none
  | .mzero first count => some ⟨0xE5, 2, 0, tRI 0 0 (count.toNat * 64 + first.toNat)⟩
  | .mdrain fmt r a b c => some (cRRR 0xE6 0 a b c fmt.code r.code)
  | .mdrainPort fmt r b => some (cRRR 0xE6 0 0 b 0 fmt.code (8 + r.code))
  | .mdrainRowWrite _ => none
  | .mdrainHandlePush _ => none
  | .c28HandlePop _ => none
  | .mread d g => some ⟨0xE7, 2, d.toNat, tRI 0 0 g.toNat⟩
  | .sbtake d a => some (cRR 0xE8 d a 0)
  | .scaleBlockDeliver _ _ => none
  | .yokeHandback _ _ => none
  | .cpyq d a => some (cRR 0x8C d a 0)
  | .cpyqNb d a => some (cRR 0x8C d a 1)
  | .cpyst s d => some (cRI 0x8D d 0 s.code 0)
  | .cpyres d a => some (cRR 0x8E d a 0)
  | .cpyresNb d a => some (cRR 0x8E d a 1)
  | .copyStart _ => none
  | .copySectorLand _ _ _ => none
  | .copyComplete _ _ => none
  | .copyHandback _ _ => none
  | .c29RecordPop _ => none
  | .msend k d a b c len => some (cRRR 0x8F d a b c k.code len.toNat)
  | .messageAccept _ => none
  | .messageAcknowledge _ => none
  | .messageResend _ => none
  | .mrecv k d b len => some (cRRR 0x90 d 0 b 0 k.code len.toNat)
  | .c30MessagePop _ => none
  | .c31SendBlock _ _ => none
  | .sendBlockRead _ => none
  | .mwait => some (c0 0x91 0)
  | .msgst s d => some (cRI 0x92 d 0 s.code 0)
  | .ctrlOpenStream _ => none
  | .ctrlCloseStream _ => none
  | .ctrlReadLink _ => none
  | .ctrlReadBandedLatency _ => none
  | .ctrlReadEdgeUnit _ => none
  | .ctrlRoutePeer _ => none
  | .ctrlReservedCode _ => none
  | .bestEffortFlitHop _ _ => none
  | .streamFlitHop _ _ => none
  | .creditReturn _ => none
  | .stitchCrossing _ _ => none
  | .packetBounce _ => none
  | .mapSwitch _ => none
  | .linkRetrain _ _ => none
  | .burstSend _ _ => none
  | .burstReceive _ _ _ _ _ => none
  | .burstAck _ _ => none
  | .burstResend _ _ => none
  | .burstRefusal _ _ => none
  | .panelReset => none
  | .partitionCreate _ => none
  | .svccoreWrite _ _ => none
  | .hostLaunch _ _ => none
  | .vfDoorbell _ _ => none
  | .hostRegisterWrite _ _ _ _ => none
  | .debugHalt _ _ => none
  | .debugResume _ _ => none
  | .debugBrkarm _ _ _ => none
  | .debugSlotStart _ _ _ _ => none
  | .functionReset _ => none
  | .keyLoad _ _ => none
  | .frameReassign _ _ _ => none
  | .bastecfgEnable _ _ => none
  | .bastecfgDisable _ => none
  | .basteIntervalExpiry _ => none
  | .freeNoticeArrival _ => none
  | .uncorrectableEccError _ _ => none
  | .pipelineParityError _ _ => none
  | .routerHeartbeatLoss _ => none
  | .correctableEccError _ => none
  | .shareFillBlock _ _ => none
  | .bastedSlotResume _ => none
  | .reductionHoldExpiry _ => none
  | .reductionPairExpiry _ _ => none
  | .partitionResize _ _ _ _ _ => none
  | .watchdogExpiry _ => none
  | .droopAlarmRaise _ => none
  | .droopAlarmClear _ => none
  | .freezeInput => none
  | .freezeCommand _ => none
  | .contextSwap _ => none
  | .channelSpillPopReturn _ _ => none
  | .reinstateEntryAppend _ _ _ _ => none
  | .stage2MappingChange _ _ _ _ _ => none
  | .wavelengthLockChange _ _ _ _ => none

/-- The head (R45) and the tail (R36) of an instruction. -/
def encode (i : Instr) : Option (Nat × Nat) :=
  i.code.map fun c => (c.maj * 256 + c.tl * 64 + c.d, c.tail)

/-- The instruction with an encoding: every constructor that is no event. -/
def Instr.encodable (i : Instr) : Bool := i.code.isSome

/-! ## Lines -/

/-- Halfword n of a line, the line read as one little-endian number of 512 bits (R35). -/
def lineHalf (l : Nat) (n : Nat) : Nat := bitsAt l (16 * n) 16

/-- H, the number of heads that the control word gives (R35). -/
def lineHeads (l : Nat) : Nat := lineHalf l 0 % 32

/-- TL of head i (R45). -/
def lineTl (l : Nat) (i : Nat) : Nat := lineHalf l i / 64 % 4

/-- S(i): the tail lengths of heads 1 to i (R36). -/
def lineTails (l : Nat) : Nat → Nat
  | 0 => 0
  | i + 1 => lineTails l i + lineTl l (i + 1)

/-- Why a line is not well formed, as EINFO gives it (R37, R54): 0 control word, 1 length. -/
def lineBad (l : Nat) : Option Nat :=
  if lineHeads l = 0 ∨ lineHalf l 0 / 32 ≠ 0 then some 0
  else if 31 < lineHeads l + lineTails l (lineHeads l) then some 1
  else none

/-- The tail of head i: the halfwords from 32 − S(i), little-endian (R36). -/
def lineTail (l : Nat) (i : Nat) : Nat :=
  bitsAt l (16 * (32 - lineTails l i)) (16 * lineTl l i)

/-- A line of one head and its tail (R35, R36): H is 1 and the gap is zero. -/
def oneHeadLine (head tail : Nat) : Nat :=
  let tl := head / 64 % 4
  1 + ((head % 2 ^ 16) <<< 16) + ((tail % 2 ^ (16 * tl)) <<< (16 * (32 - tl)))

/-- What the decoder reads from a row's bits, numbered as the opcode table numbers them: the head is the top
halfword and the tail's first halfword the low one; a tail without bits in the row is zero. -/
def decodeTableWord (nbits w : Nat) : Option Instr :=
  let head := w / 2 ^ (nbits - 16) % 2 ^ 16
  let l := oneHeadLine head (bitsAt w 0 (nbits - 16))
  match decode (lineHalf l 1) (lineTail l 1) with
  | .ok i => some i
  | .error _ => none

end Sys2Proof
end

