-- ==== Sys2Proof/Machine/Map.lean ====
section
/-! DEFINITION. Sparse tables keyed by natural numbers, kept in one canonical form: keys rising,
and no entry equal to what an unlisted key reads as. Memory is the table of bytes. -/

namespace Sys2Proof.Machine

/-- A sparse table from natural numbers: (key, value) pairs, keys strictly rising. -/
abbrev FMap (α : Type) := List (Nat × α)

/-- What key `k` holds; an unlisted key holds `d`. -/
def FMap.get {α : Type} (d : α) : FMap α → Nat → α
  | [], _ => d
  | (a, v) :: rest, k => if a = k then v else FMap.get d rest k

/-- The table without key `k`. -/
def FMap.erase {α : Type} : FMap α → Nat → FMap α
  | [], _ => []
  | (a, v) :: rest, k => if a = k then FMap.erase rest k else (a, v) :: FMap.erase rest k

/-- The table with `v` at key `k`, in its place in the rising order of keys. -/
def FMap.insert {α : Type} : FMap α → Nat → α → FMap α
  | [], k, v => [(k, v)]
  | (a, w) :: rest, k, v =>
    if k < a then (k, v) :: (a, w) :: rest
    else if k = a then (k, v) :: rest
    else (a, w) :: FMap.insert rest k v

/-- Writes `v` at key `k`; a value equal to the default removes the entry. -/
def FMap.set {α : Type} [DecidableEq α] (d : α) (m : FMap α) (k : Nat) (v : α) : FMap α :=
  if v = d then FMap.erase m k else FMap.insert m k v

/-- The canonical form: keys strictly rising from `lo`, no entry equal to the default. -/
def FMap.wfFrom {α : Type} [DecidableEq α] (d : α) : Nat → FMap α → Bool
  | _, [] => true
  | lo, (a, v) :: rest => decide (lo ≤ a) && !decide (v = d) && FMap.wfFrom d (a + 1) rest

/-- The canonical form of a whole table. -/
abbrev FMap.wf {α : Type} [DecidableEq α] (d : α) (m : FMap α) : Bool := FMap.wfFrom d 0 m

end Sys2Proof.Machine
end

