-- ==== Sys2Proof/Machine/State.lean ====
section
/-! DEFINITION. The state of the panel as plain data: slots, cores, quads, partitions, regions, virtual
functions, memory, and everything in flight between them. Each structure names the rules of spec/ that
give it. Sparse tables (FMap) hold only what differs from the reset value. -/

namespace Sys2Proof.Machine

/-! ## Reasons to stop -/

/-- Why the machine stops. -/
inductive Fault where
  /-- Raised by an event that names a unit the panel does not have (a quad at or above 2,304, a region at
  or above 16, R15): the spec gives no such unit. Safe: the hardware has no such event. -/
  | noSuchUnit (n : Nat)
  deriving DecidableEq, Repr

/-- Why the model gives no next state. -/
inductive Refusal where
  /-- Raised by the dispatch alone, for an instruction that has no meaning yet. Safe. -/
  | notModelled (mnemonic : String)
  deriving DecidableEq, Repr

/-! ## Exact values -/

/-- The exact value of a floating code (R124): a dyadic rational `m × 2^e` with its sign, an infinity, or a
NaN with its sign and its fraction left-aligned to 52 bits. -/
inductive FVal where
  | nan (neg : Bool) (frac : Nat)
  | inf (neg : Bool)
  | fin (neg : Bool) (m : Nat) (e : Int)
  deriving DecidableEq, Repr

/-- A weight of a plane: float planes hold exact values of unbounded exponent (R162), integer planes INT8. -/
inductive Elem where
  | flt (v : FVal)
  | int (v : Int)
  deriving DecidableEq, Repr

/-! ## Registers and slots (03_slots, 06_memory, 09_tasks, 11_tenancy) -/

/-- A cause waiting to be taken asynchronously (R97). -/
structure Cause where
  code : BitVec 8 := 0
  info : Word := 0
  deriving DecidableEq, Repr

/-- What a blocked slot waits for (R81). -/
inductive Wait where
  /-- Pending writes of the slot to registers the head names (R85). -/
  | busy (rs : List Nat)
  /-- An entry in a port to be read (R89). -/
  | port (r : Nat)
  /-- Room in the core's vector queue (R118). -/
  | vqRoom
  /-- The outstanding counts at or below limits, in the order LDC, all STC, CPC, TLC (R221). -/
  | limits (l s c t : Nat)
  /-- The W field's condition: 1 store class, 2 CPC, 3 TLC (R220); `cls` 1 to 4 a class, 0 all four. -/
  | wfield (w cls : Nat)
  /-- A fence's condition (R225): the scope's code. -/
  | fence (scope : Nat)
  /-- A count below its largest value (R219): 0 LDC, 1 STC.S, 2 STC.H, 3 STC.P, 4 STC.X, 5 CPC, 6 TLC. -/
  | room (ctr : Nat)
  /-- All counts zero (R100, R369). -/
  | drained
  /-- TEND's condition (R325). -/
  | tend
  /-- A local word different from b, or a wake (R110): memory key of the word. -/
  | wordNe (key : Nat) (b : Word)
  /-- A full, or an empty, local word (R252). -/
  | full (key : Nat)
  | empty (key : Nat)
  /-- The release of the slot's pending arrival on a group (R257, R258). -/
  | barrier (g : Nat)
  /-- The end of a BARSET in progress on a group (R256). -/
  | barset (g : Nat)
  /-- A transaction barrier whose phase differs (R264): key of the barrier. -/
  | tb (key : Nat) (phase : Nat)
  /-- Room in a full channel (R287); an element, a close or a poison on an empty one (R289). -/
  | chFull (id : Nat)
  | chEmpty (id : Nat)
  /-- A channel entry's fill (R271). -/
  | chFill (id : Nat)
  /-- The acknowledgement of a quad's pushes to a channel (R292). -/
  | chAcks (id : Nat)
  /-- A message in the receive queue (R350); a message or a wake (R351); room to transmit (R348). -/
  | rxMsg
  | mwait
  | txRoom
  /-- Room in the copy FIFO (R344). -/
  | fifoRoom
  /-- The join of the slot's gang (R171). -/
  | gang (id : Nat)
  /-- The answer to the slot's request in progress (R112, R228, R252, R317, R320). -/
  | reply
  /-- An acquire of the slot that has not returned its value (R224, R240). -/
  | acquire
  /-- An instruction line from memory (R81). -/
  | fetch
  /-- Replies to the slot's translation faults (R211). -/
  | fault
  /-- The owner of a destination that the head accesses (R241). -/
  | owned
  /-- The acknowledgements of the core's buffered stores, to a line or all of them (R227). -/
  | flushed (line : Option Word)
  deriving DecidableEq, Repr

/-- The state of a slot (R81). Halted by a double trap on the service core is `halted`; a debug halt, a freeze
or a containment stops the slot through its quad or region. -/
inductive SlotSt where
  | free
  | ready
  | blocked (w : Wait)
  | held
  | moving
  | halted
  deriving DecidableEq, Repr

/-- A request of a slot to an engine, from its issue to the issue that collects its answer. -/
inductive Op where
  | none
  | wait
  | done (v : Nat)
  /-- Denied, or failed: the head ends without its result. -/
  | denied
  deriving DecidableEq, Repr

/-- A domain piece: an origin and a count in every field (R295). -/
structure Piece where
  org : List Nat := []
  cnt : List Nat := []
  deriving DecidableEq, Repr

/-- A byte to write: its offset from the address, the byte, and the bits of it that are written (an INT4 element writes
half a byte, R132). -/
abbrev WByte := Nat × Byte × Byte

/-- What a held effect will do when the drain performs it (R310). -/
inductive Effect where
  /-- Bytes to write from an address. -/
  | store (acc : Word) (bytes : List WByte)
  | red (addr : Word) (op size : Nat) (b : Word)
  | push (id : Nat) (data : List Byte)
  | close (id : Nat)
  | msg (dest tag : Word) (data : List Byte)
  | dec (addr : Word)
  | spawn (hdr : Word) (tile : Option Word)
  deriving DecidableEq, Repr

/-- The logged value of a basted slot's atomic, with the quad whose scratchpad executed it (R370). -/
structure AtomLog where
  seq : Nat
  place : Nat
  old : BitVec 128
  deriving DecidableEq, Repr

/-- The outstanding counters of a slot (R218). -/
structure Counts where
  ldc : Nat := 0
  stcS : Nat := 0
  stcH : Nat := 0
  stcP : Nat := 0
  stcX : Nat := 0
  cpc : Nat := 0
  tlc : Nat := 0
  deriving DecidableEq, Repr

/-- The system registers of a slot (R92, R94, R194, R309, R368). -/
structure SysRegs where
  tvec : Word := 0
  epc : Word := 0
  ecause : Word := 0
  einfo : Word := 0
  status : Word := 0
  estatus : Word := 0
  /-- ALLOW: UNL [48], REM [47:0] (R309). -/
  allow : Word := 0x0001000000000000#64
  /-- REGALLOT: CSH [16], VN [12:8], TN [5:0]. -/
  regallot : Word := 0x11020#64
  spallot : Word := 0
  rngseed : BitVec 32 := 1
  guardBase : FMap Word := []
  guardLim : FMap Word := []
  bastecfg : Word := 0
  basteCount : BitVec 16 := 0
  basteSeq : BitVec 48 := 0
  deriving DecidableEq, Repr

/-- The state of a slot's task and of its basting (R298, R304, R309, R310, R368 to R370). -/
structure Task where
  /-- Handle of the launch record the task was bound from; none for a slot without one (R398). -/
  handle : Option Word := none
  /-- Pinned or optimistic piece, its priority list and the tile's packed work identifier. -/
  piece : Piece := {}
  wid : Word := 0
  prio : Nat := 0
  /-- The allotment: first unit and length, in 64-byte units (R303). -/
  allot : Option (Nat × Nat) := none
  /-- Effect-buffer bytes reserved, and the held records, oldest first (R310). -/
  effRes : Nat := 0
  held : List Effect := []
  /-- Channels the optimistic task has closed (R279). -/
  closed : List Nat := []
  /-- The cycle allowance has been raised (R309). -/
  cycRaised : Bool := false
  /-- Core cycles since the last checkpoint (R369). -/
  ckAge : Nat := 0
  /-- An implied BASTE is due before the next issue (R369); the one that ARRIVE asks for has been asked for (R257). -/
  basteDue : Bool := false
  arriveAsked : Bool := false
  /-- Channels written since the last checkpoint, logged atomics, and cores sent messages (R369, R370). -/
  wroteCh : List Nat := []
  /-- TAIL of each channel written, as the checkpoint that a replay starts from finds it; the name below which everything
  comes before that checkpoint (R376). -/
  tails : List (Nat × Nat) := []
  /-- TAIL of each channel written, after the last push; and of those that a replay writes before their entry is cached again, as the
  checkpoint has it (R369, R373). -/
  lastTail : List (Nat × Nat) := []
  replay : List (Nat × Nat) := []
  ckId : Nat := 0
  atomLog : List AtomLog := []
  /-- The group whose phase, arrived at since the last checkpoint, has been released; the group whose arrival a replay repeats,
  counted once (R376). -/
  passed : Option Nat := none
  repeats : Option Nat := none
  msgTo : List Nat := []
  /-- A BASTECFG written with EN 0, waiting for STC.S and STC.P to be zero (R370). -/
  disabling : Option Word := none
  deriving DecidableEq, Repr

/-- One thread slot (R81, R87, R99). -/
structure Slot where
  st : SlotSt := .free
  pc : Word := 0
  /-- H of the line that holds the head at PC, as the fetch unit last read it (R35, R42). -/
  lineH : Nat := 31
  t : FMap Word := []
  v : FMap Vec := []
  m : FMap Word := []
  sr : SysRegs := {}
  cnt : Counts := {}
  /-- next(s): the cycle from which the slot is eligible (R82). -/
  next : Nat := 0
  wake : Bool := false
  /-- Handback record: address, trap waiting, pending (R342). -/
  hbAddr : Word := 0
  hbWaiting : Bool := false
  hbPending : Bool := false
  /-- A held push: port field value and value (R89). -/
  push : Option (Nat × Word) := none
  /-- PC of the head whose push is held (R114). -/
  pushPc : Word := 0
  /-- Pushes of later results that met the full port behind the held one, oldest first: port, value, PC (R89). -/
  pushMore : List (Nat × Word × Word) := []
  /-- Registers with a pending write of the slot: 0–63 scalar, 64–95 vector, 96–103 mask, 104 RNGSEED. -/
  busy : List Nat := []
  /-- Asynchronous causes in order of arrival (R97). -/
  async : List Cause := []
  op : Op := .none
  task : Task := {}
  /-- Cycles of the present wait, whether its watchdog has fired (R381), and the count of channel waits (R284). -/
  waited : Nat := 0
  wdFired : Bool := false
  waitNo : Nat := 0
  /-- Cycles of the present channel wait, and the probes sent in it (R283, R284). -/
  chWaited : Nat := 0
  probes : Nat := 0
  /-- Tag that the slot's translation faults carry (R211, R213). -/
  faultTag : BitVec 8 := 0
  deriving DecidableEq, Repr

/-! ## Cores (03_slots, 04_lanes, 05_yoke, 10_links) -/

/-- A core queue q0–q3: entries oldest first, writer and reader slot (R89, R114). -/
structure Queue where
  ents : List Word := []
  bound : Option (Nat × Nat) := none
  deriving DecidableEq, Repr

/-- Where a vector-unit instruction writes (R119). -/
inductive VDest where
  | vec (r : Nat) (val keep : Vec)
  | mask (r : Nat) (val : Word)
  | scal (r : Nat) (val : Word)
  deriving DecidableEq, Repr

/-- What a head does in its write cycle (R84): a register or port by its number, the register of a load that hit L1, which
ends its count (R218, R223), a vector register, a vector-unit result in its completion cycle (R119), a system register with the
register that receives the old value (R93, R108), QMAP and QCLEAR (R114, R115), local bytes (R150, R223), a local word with
its full/empty state (R253). -/
inductive PendOp where
  | reg (r : Nat)
  | hit (r : Nat)
  | vec (r : Nat) (val keep : Vec)
  | unit (dest : VDest) (seed : Option (BitVec 32))
  | sys (sr : Nat) (d : Option Nat)
  | qmap (q w r : Nat)
  | qclear (q : Nat)
  | store (key : Nat) (bytes : List WByte)
  | feinit (key : Nat) (full : Bool)
  deriving DecidableEq, Repr

/-- A write on its way to its cycle (R84 to R86). -/
structure Pend where
  due : Nat
  slot : Nat
  /-- PC of the head that writes. -/
  pc : Word := 0
  op : PendOp
  val : Word := 0
  /-- The names given before it: a copy or a drain named later comes after it (R241). -/
  born : Nat := 0
  deriving DecidableEq, Repr

/-- An entry of a core's vector queue (R118 to R120): values are fixed at issue, `seed` is the RNGSEED
to store, `beat` and `lat` the lengths, `left` the lane groups not yet started and `ends` the last beat's end. -/
structure VEntry where
  id : Nat
  slot : Nat
  dest : VDest
  seed : Option (BitVec 32) := none
  /-- Its PC, and the cycle of its issue. -/
  pc : Word := 0
  issued : Nat := 0
  beat : Nat := 1
  lat : Nat := 4
  left : List Nat := [0, 1, 2, 3]
  ends : Nat := 0
  deriving DecidableEq, Repr

/-- Where a message stands (R348, R353): on its way, refused by a full queue, accepted with the acknowledgement on its way,
in a burst of the edge, at its peer panel. -/
inductive MsgSt where
  | going
  | refused
  | accepted
  | burst
  | atPeer
  deriving DecidableEq, Repr

/-- A message (R347): header, payload; `from` thread key of the sender for its count, destination core key. -/
structure Msg where
  id : Nat := 0
  hdr : Word := 0
  data : List Byte := []
  /-- Sender: thread key, none for the controller and service messages. -/
  src : Option Nat := none
  /-- SEQ of a basted sender (R370). -/
  seq : Option Nat := none
  /-- Destination operand (R347) and destination core key on this panel. -/
  dest : Word := 0
  dst : Nat := 0
  /-- A free notice for a basted sender (R370). -/
  notice : Bool := false
  st : MsgSt := .going
  /-- The sender's partition, the stream it travels on, and its packet while it travels. -/
  pid : Nat := 0
  sid : Option Nat := none
  pkt : Option Nat := none
  /-- It counts in the sender's STC.S or STC.P (a drained one does not, R310), and it goes to a peer panel. -/
  counted : Bool := false
  peer : Bool := false
  /-- PC of the head that sent it. -/
  pc : Word := 0
  /-- The cycle of its region from which a refused message is sent again (R348); 0 while it has not been refused. -/
  again : Nat := 0
  deriving DecidableEq, Repr

/-- A sector of a copy under way: the bytes read for it, none while a peer panel answers; its packet on the copy's stream; its
write at a peer panel, sent and performed (R338, R341). -/
structure SectorRun where
  n : Nat
  bytes : Option (List Byte) := none
  pkt : Option Nat := none
  sent : Bool := false
  wrote : Bool := false
  deriving DecidableEq, Repr

/-- A copy as snapshot at issue (R338, R340). -/
structure Copy where
  id : Nat
  /-- FIFO entry index, submitting slot, and its four words. -/
  idx : Nat
  slot : Nat
  w0 : Word
  w1 : Word
  w2 : Word
  w3 : Word
  /-- Shape: ROWLEN, NY, NZ, SSY, SSZ, DSY, DSZ, Y0, Z0; a one-dimensional copy is one row. -/
  rowLen : Nat
  ny : Nat
  nz : Nat
  ssy : Int
  ssz : Int
  dsy : Int
  dsz : Int
  y0 : Nat
  z0 : Nat
  started : Bool := false
  /-- Sectors landed, by number in element order (R340), and those under way. -/
  landed : List Nat := []
  going : List SectorRun := []
  /-- A status other than 0 found while running (R341). -/
  status : Nat := 0
  cancelled : Bool := false
  deriving DecidableEq, Repr

/-- A scale block (R163), with the codes already used by a handed-back gang (R188). -/
structure Scale where
  seq : BitVec 16
  codes : List Byte
  used : Nat := 0
  deriving DecidableEq, Repr

/-- A weight plane: format tag (window 1–7) and weights at k × 32 + n (R156, R157). -/
structure Plane where
  fmt : Nat := 1
  w : FMap Elem := []
  deriving DecidableEq, Repr

/-- An operation of a slice in slice order (R183). -/
inductive SliceOp where
  /-- A gang-sequence entry: GANG head (`head`) or c28 command, descriptor address, slot, and the PC that sent it (R171,
  R172). A pusher that has been ripped is named 8 higher (R189). -/
  | gang (id slot : Nat) (head : Bool) (addr pc : Word)
  | wload (id slot : Nat) (a : Word) (b : Word) (scale : Option Scale)
  | wswap
  | mzero (first count : Nat)
  | mread (slot g vd : Nat)
  | mdrain (id slot : Nat) (port : Bool) (fmt : OFmt) (rnd : Rnd) (a : Word) (first count stride row col : Nat)
  /-- A joined gang that has not finished (R174). -/
  | running (id : Nat)
  /-- A block that SBTAKE has removed from the queue, to be staged behind the gangs entered before it (R167, R178). -/
  | stage (b : Option Scale)
  deriving DecidableEq, Repr

/-- The name of an operation, 0 when it has none. -/
def SliceOp.id : SliceOp → Nat
  | .gang id _ _ _ _ | .wload id _ _ _ _ | .mdrain id _ _ _ _ _ _ _ _ _ _ | .running id => id
  | .wswap | .mzero _ _ | .mread _ _ _ | .stage _ => 0

/-- A line present in an L1, tagged with its key id; `pin` pins its way (R198, R199, R202). -/
structure CLine where
  line : Nat
  key : Nat := 0
  pin : Bool := false
  /-- Recalled: the data is gone but the way stays pinned (R199). -/
  gone : Bool := false
  low : Bool := false
  deriving DecidableEq, Repr

/-- The yoke slice of a core (R156). -/
structure Slice where
  active : Plane := {}
  shadow : Plane := {}
  acc : FMap Word := []
  staged : Option Scale := none
  scales : List Scale := []
  ops : List SliceOp := []
  deriving DecidableEq, Repr

/-- One core. -/
structure Core where
  c : FMap Word := []
  w : FMap Vec := []
  q : FMap Queue := []
  /-- c28 read side, c29 records, c31 send blocks with their slot and PC (R89, R185, R341, R349). -/
  c28r : List Word := []
  /-- c28 commands pushed and not yet joined, of a depth of 8 (R172), are the slice's gang entries. -/
  c29 : List Word := []
  c31 : List (Nat × Word × Word) := []
  rxq : List Msg := []
  txq : List Msg := []
  geom : FMap Word := []
  vweight : Word := 4
  /-- P and the cycle count k (R82). -/
  rot : Nat := 0
  cycle : Nat := 0
  pend : List Pend := []
  vq : List VEntry := []
  fifo : List Copy := []
  pred : FMap Nat := []
  l1 : List CLine := []
  slice : Slice := {}
  /-- Branch trace, newest last: target, and whether the transfer is a return (R103, R380). -/
  trace : List (Word × Bool) := []
  /-- Messages refused by denial (R352). -/
  denied : Nat := 0
  /-- Last SEQ accepted from basted senders, by partition-relative thread and panel (R370). -/
  senders : List (Nat × Nat) := []
  deriving DecidableEq, Repr

/-! ## Quads (01_panel, 06_memory, 07_ordering, 08_channels, 09_tasks) -/

/-- The health of a physical quad (R27). A healthy quad is serving when the map names it, else spare. -/
inductive QuadSt where
  | healthy
  | memoryOnly
  | routerOnly
  | dead
  deriving DecidableEq, Repr

/-- A context of a quad: partition, partition-logical quad, start of its share in the 16 MiB (R21, R192); a resizing that is being
prepared removes it: it binds nothing more (R378). -/
structure Ctx where
  pid : Nat
  p : Nat
  base : Nat := 0
  leaving : Bool := false
  deriving DecidableEq, Repr

/-- A channel-table entry cached at a quad (R269, R271). At the home: the ring's place in the scratchpad. At the writer's
quad: the writer's view of TAIL, KEEP and HEAD, and its close (R279, R287, R290). -/
structure ChanEnt where
  id : Nat
  pid : Nat := 0
  valid : Bool := false
  /-- Address of the entry in the table it was filled from. -/
  addr : Word := 0
  /-- 0 open, 1 closed, 2 poisoned. -/
  state : Nat := 0
  ringLog : Nat := 0
  esize : Nat := 0
  writer : Nat := 0
  reader : Nat := 0
  spillMax : Nat := 0
  letLim : Nat := 0
  spillBase : Nat := 0
  locnt : Nat := 0
  head : Nat := 0
  tail : Nat := 0
  sph : Nat := 0
  step : Nat := 0
  allowance : Nat := 0
  keep : Nat := 0
  letout : Bool := false
  /-- Ring: offset in the quad's scratchpad when allotted (home only). -/
  ring : Option Nat := none
  /-- Number of the fill (R281). -/
  filled : Nat := 0
  /-- Kept as poisoned by a failed eviction (R272): it leaves without a write-back. -/
  lost : Bool := false
  closed : Bool := false
  wtail : Nat := 0
  wkeep : Nat := 0
  whead : Nat := 0
  deriving DecidableEq, Repr

/-- A run-list entry (R302): launch record handle, piece, and for a pinned piece its next tile. -/
structure Entry where
  handle : Word
  piece : Piece
  nextTile : Nat := 0
  /-- The cycle of its region in which it entered its list (R305). -/
  since : Nat := 0
  deriving DecidableEq, Repr

/-- A launch record (R298): the header's eight words, unfinished and failed pieces; a piece not yet queued. -/
structure LaunchRec where
  hdr : List Word := []
  unfinished : Nat := 0
  failed : Nat := 0
  /-- The override of LAUNCH or the tile of SPAWN. -/
  override : Option Nat := none
  tile : Option Word := none
  pid : Nat := 0
  /-- Pieces waiting to enter their quad's list: (partition-logical quad, piece); and the name of their placing, which orders
  the pieces of an engine. -/
  waiting : List (Nat × Piece) := []
  seq : Nat := 0
  deriving DecidableEq, Repr

/-- The held records of an ended task in the quad's drain (R310, R397). -/
structure DrainTask where
  thr : Nat
  pid : Nat
  handle : Word
  recs : List Effect
  faulted : Bool := false
  /-- Its name at the controller when stage 2 faulted. -/
  s2 : Option Nat := none
  tag : BitVec 8 := 0
  failed : Bool := false
  /-- The address at which the access of its first record faulted. -/
  bad : Word := 0
  /-- The push, message or spawn under way of the first record: its name. -/
  sent : Option Nat := none
  deriving DecidableEq, Repr

/-- The arbiter of a lane group (R121): start pointer, current core, quotas, and the cycle its beat ends. -/
structure Arb where
  sp : Nat := 0
  cur : Nat := 0
  quota : FMap Nat := [(0, 4), (1, 4), (2, 4), (3, 4)]
  busyTo : Nat := 0
  deriving DecidableEq, Repr

/-- A joined gang (R174): rows, next row, mode, and per core its descriptor fields. -/
structure GangPart where
  idle : Bool := true
  edge : Bool := false
  zero : Bool := false
  asc : Bool := false
  acc : Nat := 0
  ncnt : Nat := 32
  mcnt : Nat := 64
  kcnt : Nat := 64
  scale : Option Scale := none
  slot : Nat := 0
  deriving DecidableEq, Repr

structure Gang where
  id : Nat
  asrc : Word := 0
  stride : Nat := 0
  rows : Nat := 0
  row : Nat := 0
  kd : Nat := 32
  /-- A row could not be read: the failing address, REASON and FINAL (R188). -/
  failed : Option (Word × Nat × Bool) := none
  parts : List GangPart := []
  deriving DecidableEq, Repr

/-- The fill of a substitute's scratchpad (R374): source quad, blocks of 64 KiB moved. -/
structure Fill where
  src : Nat
  moved : List Nat := []
  /-- Blocks accessed before they moved: they move next, in this order. -/
  next : List Nat := []
  deriving DecidableEq, Repr

/-- An arrival (R257): its group, slot number c × 8 + s, and the name below which every access of the slot comes before it. -/
structure Arrival where
  g : Nat
  slot : Nat
  after : Nat := 0
  deriving DecidableEq, Repr

/-- Core and quad state saved by a context swap (R384). -/
structure Saved where
  pid : Nat
  cores : List Core
  ltab : FMap (BitVec 32)
  slots : List Slot
  barmask : FMap Word := []
  arrived : List Arrival := []
  /-- The halt request and the breakpoint arm of its partition on the quad (R380). -/
  halted : Bool := false
  brkArm : Bool := false
  deriving DecidableEq, Repr

/-- One physical quad. -/
structure Quad where
  st : QuadSt := .healthy
  ctxs : List Ctx := []
  /-- Instruction cache: lines by fetch key, each as one little-endian number (R40). -/
  icache : FMap Nat := []
  barmask : FMap Word := []
  /-- Arrivals pending in the current phase (R257, R260). -/
  arrived : List Arrival := []
  chans : List ChanEnt := []
  lists : FMap (List Entry) := []
  /-- The ready ring (R302): partition and launch record handle. -/
  ready : List (Nat × Word) := []
  /-- Cells whose release waits for room in the ready ring (R308): memory keys. -/
  pendCells : List Nat := []
  recs : FMap LaunchRec := []
  /-- Live allotments: partition, first unit, units of 64 bytes (R303). -/
  allots : List (Nat × Nat × Nat) := []
  drain : List DrainTask := []
  ltab : FMap (BitVec 32) := []
  arbs : FMap Arb := []
  gangs : List Gang := []
  /-- The number of the cycle for which its cores have last tried to bind (R303). -/
  bindCycle : Nat := 0
  halted : Bool := false
  brkArm : Bool := false
  /-- A context swap has begun: its cores are halted (R384). -/
  swapping : Bool := false
  /-- A contained quad injects nothing (R373). -/
  contained : Bool := false
  shadow : List Saved := []
  fill : Option Fill := none
  /-- The failed quad whose place this substitute took (R373). -/
  replaces : Option Nat := none
  /-- The contexts whose shares a memory-only quad holds (R375). -/
  former : List Ctx := []
  deriving DecidableEq, Repr

/-! ## Partitions, regions, virtual functions, the panel -/

/-- A stage-2 mapping kept by the controller (R207). -/
structure S2Map where
  ipa : Nat
  size : Nat
  pa : Nat
  rd : Bool := true
  wr : Bool := true
  ex : Bool := true
  deriving DecidableEq, Repr

/-- A cached combined translation (R204, R207): where it is held (core key, 10,000 + die for a home slice's,
20,000 + die for a die's second level), the page, and its permissions. -/
structure TlbEntry where
  loc : Nat
  pid : Nat
  va : Nat
  size : Nat
  pa : Nat
  rd : Bool
  wr : Bool
  ex : Bool
  host : Bool := false
  deriving DecidableEq, Repr

/-- An open stream (R329): its ends as partition-logical quads, and the slots it holds as (link, entry) pairs. -/
structure Stream where
  sid : Nat
  src : Nat
  dst : Nat
  route : Bool
  mask : BitVec 16
  hops : List (Nat × Nat) := []
  deriving DecidableEq, Repr

/-- A BARSET in progress (R256): its group, its issuer, the descriptor's address, and once it has been read the new BARMASK
of each partition-logical quad and FORCE. -/
structure Barset where
  g : Nat
  thr : Nat
  addr : Word
  masks : List (Nat × Word) := []
  force : Bool := false
  deriving DecidableEq, Repr

/-- A partition (R357), its registers and its membership. -/
structure Part where
  live : Bool := false
  x0 : Nat := 0
  y0 : Nat := 0
  w : Nat := 0
  h : Nat := 0
  key : Nat := 0
  vf : Nat := 0
  spsize : Nat := 0
  svccore : Word := 0
  chbase : Word := 0x4000000000000000#64
  s1root : Word := 0
  s1issued : BitVec 32 := 0
  s1done : BitVec 32 := 0
  /-- Accepted invalidations, oldest first: page address and size, none for all (R210). -/
  s1inv : List (Option (Nat × Nat)) := []
  s2 : List S2Map := []
  /-- Members of the ring: partition-logical quad and tag (R29). -/
  ring : List (Nat × Nat) := []
  /-- Codes of R28 by partition-logical quad; unlisted is 0. -/
  defect : FMap Nat := []
  /-- Alias entries: physical quad of the memory-only quad of p, plus one (R375). -/
  aliases : FMap Nat := []
  threshold : Nat := 2097151
  streams : List Stream := []
  /-- Routes to peer panels: panel to (unit, wavelength mask) (R337). -/
  routes : List (Nat × Nat × BitVec 16) := []
  barsets : List Barset := []
  cls : Nat := 0
  deriving DecidableEq, Repr

/-- A region (R19, R336, R382). -/
structure Region where
  tcnt : Word := 0
  tofs : Word := 0
  cycle : Nat := 0
  steplim : BitVec 16 := 0
  droopst : Word := 0
  frozen : Bool := false
  /-- Binds made in the present 200 ns step, and the step's number (R306). -/
  binds : Nat := 0
  bindStep : Nat := 0
  grade : Nat := 0
  deriving DecidableEq, Repr

/-- A virtual function's host registers (R361). -/
structure Vf where
  pid : Nat := 0
  lstat : Word := 0
  wdt : BitVec 6 := 27
  evqBase : Word := 0
  evqHead : BitVec 6 := 0
  evqTail : BitVec 6 := 0
  evqOvf : Bool := false
  dbgQ : BitVec 11 := 0
  deriving DecidableEq, Repr

/-- A retirement-log entry (R363): quad, unit (0–3 core, 4 scratchpad, 5 router), retire or reinstate, time. -/
structure LogEnt where
  qi : Nat
  unit : Nat
  retire : Bool
  time : Word := 0
  deriving DecidableEq, Repr

/-- A burst sent and not acknowledged (R353): its sequence number, peer panel and partition, the names of the accesses and
messages it carries, and the time of its sending. -/
structure Burst where
  seq : Nat
  peer : Nat
  pid : Nat
  ids : List Nat
  time : Word
  deriving DecidableEq, Repr

/-- An optical edge unit (R353 to R355): wavelengths owned by partition, and the block's fields. -/
structure Edge where
  owned : FMap (BitVec 16) := []
  degr : BitVec 16 := 0
  lock : BitVec 16 := 0
  clock : Bool := false
  rxb : BitVec 32 := 0
  txb : BitVec 32 := 0
  resend : BitVec 32 := 0
  crcd : BitVec 32 := 0
  tune : BitVec 16 := 0
  /-- Bursts sent and not acknowledged. -/
  unacked : List Burst := []
  nextSeq : Nat := 0
  /-- Sequence numbers accepted, by source panel (R353). -/
  accepted : List (Nat × Nat) := []
  deriving DecidableEq, Repr

/-! ## Things in flight -/

/-- What an access does where it is performed. -/
inductive MemOp where
  | load
  /-- An instruction line (R38, R196). -/
  | fetch
  | store (bytes : List WByte)
  | amo (op : Nat) (b : Word)
  | cas (b c : BitVec 128)
  | lde
  | stf (b : Word)
  | feinit (b : Word) (full : Bool)
  | touch (wr : Bool)
  /-- The flushing read to the host of FENCE.sys (R225). -/
  | flush
  | dec
  | tset (b : Word)
  deriving DecidableEq, Repr

/-- Where the result of an access goes, and how it is widened. -/
inductive Ret where
  | none
  | scalar (r : Nat) (sx : Bool)
  | pair (r : Nat)
  /-- An element of a vector access; a sector of a VLD or VST: its first lane and its lowest active lane. -/
  | vec (group lane : Nat)
  | sector (group first low : Nat)
  /-- The fill of a channel entry, started by a slot or by an arriving push (R271). -/
  | fill (ch : Nat) (push : Bool)
  /-- A sector that a copy reads or writes at a peer panel (R341): the core, the copy and the sector. -/
  | copy (ck id n : Nat) (wr : Bool)
  | op
  deriving DecidableEq, Repr

/-- Where an access stands. `net`: on its way to a quad; `atNI`: accepted there and waiting (LDE, STF, atomics);
`xlate`: before the translating slice; `home`: at the home slice, by the memory key of its first byte (a host access: at the PCIe controller); `ats`: at the host IOMMU;
`s2`: a stage-2 fault at the controller; `fault`: a stage-1 fault awaiting its reply; each noticed by its slot or not (R211); `edge`: at the optical edge, `burst` in
one of its bursts, `peer` at the peer panel;
`resp`: performed, its result on the way; `ack`: performed, its acknowledgement on the way; `denied`. -/
inductive Stage where
  | net (qi : Nat)
  | atNI (qi : Nat)
  | xlate
  | home (key : Nat)
  | ats
  | s2 (noticed : Bool)
  | fault (noticed : Bool)
  | edge
  | burst
  | peer
  | resp (v : Nat)
  | ack
  | denied
  deriving DecidableEq, Repr

/-- An access outside local space from its issue to its end (R197, R204, R218). -/
structure Flight where
  id : Nat
  thr : Nat
  pid : Nat
  addr : Word
  n : Nat
  op : MemOp
  ret : Ret := .none
  /-- Counter to end: 0 LDC, 1–4 STC.S/H/P/X, 7 none. -/
  ctr : Nat := 7
  stage : Stage := .xlate
  acq : Bool := false
  rel : Bool := false
  scope : Nat := 0
  /-- SEQ of a basted slot's atomic (R370). -/
  seq : Option Nat := none
  tag : BitVec 8 := 0
  /-- Its packet, while it travels (R326). -/
  pkt : Option Nat := none
  /-- Cache policy (R199). -/
  cp : Nat := 0
  /-- PC of the head, for a result that is a push (R114). -/
  pc : Word := 0
  /-- An atomic that the contention predictor keeps at the issuing core (R244). -/
  own : Bool := false
  /-- The earliest cycle in which its result is written, k + 3 (R84). -/
  due : Nat := 0
  /-- The first address and the size of the TLB entry that translated it (R210). -/
  page : Nat × Nat := (0, 0)
  /-- A buffered store: the sibling threads that a load has been forwarded it (R237, R239). -/
  seen : List Nat := []
  /-- A contribution sent again after a router failed: no router combines it (R377). -/
  alone : Bool := false
  /-- The flit of combined contributions that it travels in, by a name (R377). -/
  comb : Option Nat := none
  /-- Records that its optimistic task held when it issued: a load sees those and no later one (R232, R310). -/
  held : Nat := 0
  deriving DecidableEq, Repr

/-- A vector access of several parts (R153): parts left, register, values gathered, lanes denied. -/
structure Group where
  id : Nat
  thr : Nat
  ctr : Nat
  left : Nat
  reg : Option Nat
  val : Vec := 0
  keep : Vec := 0
  denied : List (Nat × Word) := []
  failed : Bool := false
  /-- PC of its head, and the earliest cycle in which its result is written, k + 3 (R84). -/
  pc : Word := 0
  due : Nat := 0
  deriving DecidableEq, Repr

/-- A push, or a close mark, from its issue to its acknowledgement (R274, R279, R287): the writer's thread key, the home
quad and the reader's partition-relative thread; whether it counts in the writer's STC.S (a drained one does not, R310). -/
structure PushMsg where
  id : Nat
  pid : Nat
  ch : Nat
  seq : Nat
  data : List Byte
  close : Bool := false
  src : Nat
  home : Nat
  reader : Nat
  pc : Word := 0
  pkt : Option Nat := none
  counted : Bool := true
  /-- The home has answered, the answer being on its way to the writer's quad; it refused the push (R271, R287). -/
  acked : Bool := false
  refused : Bool := false
  deriving DecidableEq, Repr

/-- A fault of a channel access made for a reader thread (R276): its partition and number, the channel, the home quad, the
element accessed (none for the entry itself), and whether the access is an eviction's (R272). -/
structure ChanFault where
  pid : Nat
  thread : Nat
  ch : Nat
  qi : Nat
  elem : Option Nat := none
  evict : Bool := false
  /-- The tag it carries (R211), or its name at the controller when stage 2 faulted. -/
  tag : BitVec 8 := 0
  s2 : Option Nat := none
  deriving DecidableEq, Repr

/-- An element on its way from spill to its reader (R289): the destination register of the status, and the data. -/
structure SpillPop where
  qi : Nat
  ch : Nat
  thr : Nat
  d : Nat
  b : Nat
  /-- 0 scalar, 1 vector, 2 scratchpad, whose address stands in `addr`. -/
  kind : Nat
  addr : Word := 0
  data : List Byte
  pc : Word := 0
  /-- The earliest cycle in which its results are written, k + 3 (R84). -/
  due : Nat := 0
  deriving DecidableEq, Repr

/-- A let-out probe (R284). -/
structure Probe where
  id : Nat
  pid : Nat
  origin : Nat
  waitNo : Nat
  lowest : Nat
  cand : Option (Nat × Nat) := none
  allEmpty : Bool := true
  path : List (Nat × Nat) := []
  len : Nat := 0
  target : Nat
  /-- The origin's core cycle at its sending. -/
  sent : Nat := 0
  returned : Bool := false
  deriving DecidableEq, Repr

/-- A packet (R326): source and physical destination quad, logical destination (partition, p), epoch, lane, stream. -/
structure Packet where
  id : Nat
  src : Nat
  dst : Nat
  pid : Nat
  p : Nat
  epoch : Nat
  lane : Nat := 0
  sid : Option Nat := none
  flits : Nat := 1
  arrived : Nat := 0
  bounced : Bool := false
  deriving DecidableEq, Repr

/-- A flit in a router's input buffer (R326, R327): packet, number, router, input port (0 N, 1 E, 2 S, 3 W, 4 local),
detour buffer; `fifo` holds it in the FIFO of a stitch boundary until its cycle (R334). -/
structure Flit where
  pkt : Nat
  seq : Nat
  at_ : Nat
  port : Nat := 4
  detour : Bool := false
  /-- The row (or column) a detour returns to, plus one. -/
  back : Nat := 0
  fifo : Option Nat := none
  /-- Hops made on a stream's path, or on a detour. -/
  hop : Nat := 0
  /-- Bytes of it that have crossed its present link, of reduced width (R333). -/
  done : Nat := 0
  deriving DecidableEq, Repr

/-- A request to the panel controller (R337). -/
structure CtrlReq where
  id : Nat
  thr : Nat
  pid : Nat
  tag : Word
  /-- Bytes of its payload. -/
  len : Nat := 16
  w0 : Word
  w1 : Word
  deriving DecidableEq, Repr

/-- A tree reduction held for combining, or an open pair at its executing place (R377). -/
structure RedPair where
  loc : Nat
  rsn : Nat
  done : List Nat := []
  /-- The cycle of its last traffic. -/
  last : Nat := 0
  deriving DecidableEq, Repr

/-- Tree reductions of equal location, op and RSN held together in a router: the flights combined (R377). -/
structure RedHold where
  id : Nat
  router : Nat
  flights : List Nat
  deriving DecidableEq, Repr

/-- A request that waits at a full/empty word (R252): a slot at its own scratchpad's word, by its key, or an access of another
quad's, by its name, or a peer panel's under a name of its own, with the partition here, its address and an STF's value (R208); an
LDE waits for a full word, an STF for an empty one. -/
structure WordWait where
  slot : Option Nat := none
  flight : Nat := 0
  key : Nat := 0
  lde : Bool
  peer : Option (Nat × Word × Word) := none
  deriving DecidableEq, Repr

/-- A placement counter of a granule (R215): leader die and count; `used` orders the uses of a home slice's counters. -/
structure PlaceCtr where
  leader : Nat := 0
  count : Nat := 0
  used : Nat := 0
  deriving DecidableEq, Repr

/-- What a map change does: the logical quad (y × 64 + x) of a failed physical quad goes to a spare, or becomes absent
(R25, R373); a partition takes a new rectangle (R378). -/
inductive ChangeOp where
  | contain (quad logical : Nat) (spare : Option Nat)
  | resize (pid x0 y0 w h : Nat)
  deriving DecidableEq, Repr

/-- A map change installed for a switch time (R332). -/
structure MapChange where
  time : Word
  op : ChangeOp
  deriving DecidableEq, Repr

/-- A launch or spawn before its engine (R298, R317, R318): issuing thread or virtual function. -/
structure LaunchReq where
  id : Nat
  quad : Nat
  pid : Nat
  hdr : Word
  override : Option Word := none
  tile : Option Word := none
  /-- The thread key waiting (LAUNCH), spawning (SPAWN), or none for a host launch or a drained record. -/
  thr : Option Nat := none
  spawn : Bool := false
  host : Bool := false
  counted : Bool := false
  pc : Word := 0
  handle : Word := 0
  /-- Answered: its handback record waits to be written (R342): the failing address, REASON and FINAL. -/
  back : Option (Word × Nat × Bool) := none
  deriving DecidableEq, Repr

/-- A spill or a restore in progress (R100, R112): slot, image address, issuer waiting, cycles done. -/
structure Move where
  thr : Nat
  issuer : Option Nat
  addr : Word
  restore : Bool
  started : Bool := false
  /-- A double trap's spill, to the slot's save area (R98). -/
  dbl : Bool := false
  deriving DecidableEq, Repr

/-- An LTAB in progress (R160). -/
structure LtabOp where
  id : Nat
  thr : Nat
  addr : Word
  deriving DecidableEq, Repr

/-- The panel's records, fixed wiring and controller state (R13, R14, R23, R328, R331, R335, R363, R365). -/
structure Panel where
  number : Nat := 0
  serial : Nat := 0
  steppingLetter : Byte := 0x42
  steppingDigit : Byte := 0x30
  /-- Fuse map: (quad, unit) retired at final test. -/
  fuse : List (Nat × Nat) := []
  log : List LogEnt := []
  /-- Column-map entries that differ from the map of a row without retired quads (R23, R24). -/
  colmap : FMap (BitVec 12) := []
  epoch : Nat := 0
  /-- Slot-table entries by link × 16 + index (R328); link = router × 4 + direction. -/
  slotTab : FMap (BitVec 32) := []
  /-- Link widths by link: 0 full, 1 ¾, 2 ½, 3 ¼ (R333). -/
  width : FMap Nat := []
  /-- Flit buffers taken at an input, by (router × 5 + port) × 8 + lane (4–7 the detour buffers), whose
  credit has not come back (R327). -/
  credits : FMap Nat := []
  /-- Credits on their way back: the same numbers. -/
  returns : List Nat := []
  /-- Lane served last by an output, plus one, by link; input port served last in a lane, plus one, by link × 4 + lane (R327). -/
  lastLane : FMap Nat := []
  lastPort : FMap Nat := []
  /-- The cycle in which a link carried its last flit, plus one, by link (R326). -/
  linkUsed : FMap Nat := []
  /-- Banded-latency blocks by boundary × 16 + direction × 8 + band (R335). -/
  bands : FMap (BitVec 32) := []
  keys : FMap (BitVec 512) := []
  edges : FMap Edge := []
  frozen : Bool := false
  /-- Correctable errors counted, by quad (R372). -/
  eccCount : FMap Nat := []
  /-- Ranges of frames and the key id that each has been given: first address, size, key id, 0 the controller's (R366). -/
  frames : List (Nat × Nat × Nat) := []
  /-- Guarantee-shortfall events sent to the physical function: partition, SID, link, the two rates (R333). -/
  pfEvents : List (Nat × Nat × Nat × Nat × Nat) := []
  /-- Logical quads (y × 64 + x) that stand on a spare since boot (R28). -/
  moved : List Nat := []
  /-- Slot-table entries of closed streams that drain, with the cycle of their link's region in which they are free (R379). -/
  draining : List (Nat × Nat) := []
  deriving DecidableEq, Repr

/-- Who moves next: one listed event, one cycle of a core, one nanosecond of the common reference (R336), one cycle of a
region's clock; the physical function's setting of a region's STEPLIM (R382). -/
inductive Turn where
  | event (i : Instr)
  | core (ck : Nat)
  | tick
  | cycle (region : Nat)
  | stepLimit (region : Nat) (limit : BitVec 16)
  deriving DecidableEq, Repr

/-- The whole machine. -/
structure State where
  /-- The thread key of the slot that issues: ((py × 72 + px) × 4 + c) × 8 + s. -/
  cur : Nat := 0
  /-- Who moves next, in order; when it is empty the core of `cur` has its cycle. -/
  sched : List Turn := []
  /-- The model's own counters: free values drawn, and names given to things in flight. -/
  free : Nat := 0
  ids : Nat := 0
  /-- Scratchpads, HBM and host memory (R2): key to byte, in canonical form. -/
  mem : List Host.Cell := []
  /-- Full words, by memory key of the word (R250): unlisted is empty. -/
  fe : FMap Bool := []
  slots : FMap Slot := []
  cores : FMap Core := []
  quads : FMap Quad := []
  parts : FMap Part := []
  regions : FMap Region := []
  vfs : FMap Vf := []
  panel : Panel := {}
  tlb : List TlbEntry := []
  /-- Lines held by dies' L2 and RDC, the least recently used first: die × 2 (+ 1 for RDC) and line (R200, R202). -/
  dieLines : List (Nat × CLine) := []
  /-- Exclusive owners of lines for atomics: line to core key plus one (R244). -/
  owners : FMap Nat := []
  /-- Atomics that a home executed on a line within the last 256 cycles: requesting core and cycle (R244). -/
  homeLast : FMap (List (Nat × Nat)) := []
  place : FMap PlaceCtr := []
  flights : List Flight := []
  groups : List Group := []
  /-- Wakes posted and not yet arrived (R111): thread keys. -/
  wakes : List Nat := []
  pushes : List PushMsg := []
  probes : List Probe := []
  msgs : List Msg := []
  packets : List Packet := []
  flits : List Flit := []
  ctrl : List CtrlReq := []
  redPairs : List RedPair := []
  redHolds : List RedHold := []
  changes : List MapChange := []
  launches : List LaunchReq := []
  moves : List Move := []
  ltabs : List LtabOp := []
  /-- Images of slots that a double trap spilled (R98): thread key and slot. -/
  doubles : List (Nat × Slot) := []
  /-- The basting state of tasks spilled while basted, beside the thread number of their images: partition, thread (R369, R370). -/
  parked : List (Nat × Nat × Task) := []
  chanFaults : List ChanFault := []
  spillPops : List SpillPop := []
  /-- Requests at full/empty words, in their order of arrival (R252). -/
  wordQueue : List WordWait := []
  deriving DecidableEq, Repr

/-- The machine right after reset: the boot map of a panel with no retired quad, no partition, every slot free. -/
def State.reset : State := {}

end Sys2Proof.Machine
end

