-- ==== Sys2Proof/Machine/Base.lean ====
section
/-! DEFINITION. Reading and writing the parts of the state, names and places (R17 to R32), memory, and bit fields. -/

namespace Sys2Proof.Machine

/-- What a step answers. -/
abbrev Res := Host.Outcome State Fault Refusal

/-! ## Bit fields -/

/-- Bits [lo + n − 1 : lo] of a word. -/
def fld (w : Word) (lo n : Nat) : Nat := bitsAt w.toNat lo n

/-- A word with bits [lo + n − 1 : lo] replaced. -/
def setFld (w : Word) (lo n v : Nat) : Word :=
  let mask : Word := word ((2 ^ n - 1) * 2 ^ lo)
  (w &&& ~~~mask) ||| (word (v * 2 ^ lo) &&& mask)

/-- A signed field extended to a word (R49). -/
def sext {n : Nat} (b : BitVec n) : Word := b.signExtend 64

/-- An unsigned field extended to a word (R49). -/
def zext {n : Nat} (b : BitVec n) : Word := b.setWidth 64

/-- A condition as 1 or 0. -/
def flag (b : Bool) : Word := if b then 1#64 else 0#64

/-- The bytes of a number, lowest first (R3). -/
def leBytes : Nat → Nat → List Byte
  | 0, _ => []
  | n + 1, v => BitVec.ofNat 8 v :: leBytes n (v / 256)

/-- The number whose bytes, lowest first, are given. -/
def ofBytes : List Byte → Nat
  | [] => 0
  | b :: bs => b.toNat + 256 * ofBytes bs

/-! ## Keys -/

def coreOf (tk : Nat) : Nat := tk / 8
def slotNo (tk : Nat) : Nat := tk % 8
def coreNo (ck : Nat) : Nat := ck % 4
def quadOfCore (ck : Nat) : Nat := ck / 4
def quadOf (tk : Nat) : Nat := tk / 32
def pxOf (qi : Nat) : Nat := qi % 72
def pyOf (qi : Nat) : Nat := qi / 72
/-- The region of a quad (R19). -/
def regionOf (qi : Nat) : Nat := pyOf qi / 2
/-- The die of a quad (R17, R18). -/
def dieOf (qi : Nat) : Nat := pyOf qi / 2 * 18 + pxOf qi / 4

/-! ## Parts of the state -/

def State.slot (s : State) (tk : Nat) : Slot := FMap.get {} s.slots tk
def State.setSlot (s : State) (tk : Nat) (x : Slot) : State := { s with slots := FMap.set {} s.slots tk x }
def State.updSlot (s : State) (tk : Nat) (f : Slot → Slot) : State := s.setSlot tk (f (s.slot tk))
def State.core (s : State) (ck : Nat) : Core := FMap.get {} s.cores ck
def State.setCore (s : State) (ck : Nat) (x : Core) : State := { s with cores := FMap.set {} s.cores ck x }
def State.updCore (s : State) (ck : Nat) (f : Core → Core) : State := s.setCore ck (f (s.core ck))
def State.quad (s : State) (qi : Nat) : Quad := FMap.get {} s.quads qi
def State.setQuad (s : State) (qi : Nat) (x : Quad) : State := { s with quads := FMap.set {} s.quads qi x }
def State.updQuad (s : State) (qi : Nat) (f : Quad → Quad) : State := s.setQuad qi (f (s.quad qi))
def State.part (s : State) (pid : Nat) : Part := FMap.get {} s.parts pid
def State.setPart (s : State) (pid : Nat) (x : Part) : State := { s with parts := FMap.set {} s.parts pid x }
def State.updPart (s : State) (pid : Nat) (f : Part → Part) : State := s.setPart pid (f (s.part pid))
def State.region (s : State) (r : Nat) : Region := FMap.get {} s.regions r
def State.setRegion (s : State) (r : Nat) (x : Region) : State := { s with regions := FMap.set {} s.regions r x }
def State.updRegion (s : State) (r : Nat) (f : Region → Region) : State := s.setRegion r (f (s.region r))
def State.vf (s : State) (v : Nat) : Vf := FMap.get {} s.vfs v
def State.setVf (s : State) (v : Nat) (x : Vf) : State := { s with vfs := FMap.set {} s.vfs v x }
def State.updVf (s : State) (v : Nat) (f : Vf → Vf) : State := s.setVf v (f (s.vf v))
def State.updPanel (s : State) (f : Panel → Panel) : State := { s with panel := f s.panel }

/-- The slot that issues. -/
def State.me (s : State) : Slot := s.slot s.cur
def State.updMe (s : State) (f : Slot → Slot) : State := s.updSlot s.cur f
def State.myCore (s : State) : Core := s.core (coreOf s.cur)
def State.updMyCore (s : State) (f : Core → Core) : State := s.updCore (coreOf s.cur) f
def State.myQuad (s : State) : Quad := s.quad (quadOf s.cur)
def State.updMyQuad (s : State) (f : Quad → Quad) : State := s.updQuad (quadOf s.cur) f

/-- The name of the next thing put in flight. -/
def State.takeId (s : State) : State := { s with ids := s.ids + 1 }
/-- One free value is drawn: the next has the next number. -/
def State.draw (s : State) : State := { s with free := s.free + 1 }

/-! ## The status register (R94) -/

def Slot.exl (x : Slot) : Bool := x.sr.status.getLsbD 7
def Slot.bst (x : Slot) : Bool := x.sr.status.getLsbD 6
def Slot.kind (x : Slot) : Nat := fld x.sr.status 4 2
def Slot.pl (x : Slot) : Bool := x.sr.status.getLsbD 0
def Slot.optimistic (x : Slot) : Bool := decide (x.kind = 1)
def Slot.updSr (x : Slot) (f : SysRegs → SysRegs) : Slot := { x with sr := f x.sr }
def Slot.setStatus (x : Slot) (w : Word) : Slot := x.updSr fun r => { r with status := w }
def Slot.updTask (x : Slot) (f : Task → Task) : Slot := { x with task := f x.task }
def Slot.updCnt (x : Slot) (f : Counts → Counts) : Slot := { x with cnt := f x.cnt }

/-- The level at which the slot issues. -/
def State.super (s : State) : Bool := s.me.pl

/-- All STC counts together (R221). -/
def Counts.stc (c : Counts) : Nat := c.stcS + c.stcH + c.stcP + c.stcX
/-- Every count zero (R100). -/
def Counts.zero (c : Counts) : Bool := decide (c = {})

/-! ## Partitions, logical and physical quads (R20 to R25, R28) -/

/-- The column that the boot map of a row without retired quads gives (R24). -/
def bootPx (x : Nat) : Nat := x + ([6, 13, 20, 27, 34, 41, 48, 55].filter (fun a => decide (a < x))).length

/-- The boot map's entry for y × 64 + x (R23, R24). -/
def bootEntry (k : Nat) : BitVec 12 := BitVec.ofNat 12 (128 + bootPx (k % 64))

/-- The column map (R23). -/
def State.mapEntry (s : State) (y x : Nat) : BitVec 12 := FMap.get (bootEntry (y * 64 + x)) s.panel.colmap (y * 64 + x)

/-- The physical quad of a logical one, none when it is absent (R23). -/
def State.physLogical (s : State) (y x : Nat) : Option Nat :=
  let e := (s.mapEntry y x).toNat
  if 128 ≤ e % 256 then some (y * 72 + e % 128) else none

/-- Logical coordinates (x, y) of partition-logical quad p (R21). -/
def Part.coord (pt : Part) (p : Nat) : Nat × Nat := (pt.x0 + p % pt.w, pt.y0 + p / pt.w)

/-- The physical quad of partition-logical quad p: none at or above W × H, or when the quad is absent (R28, R197). -/
def State.physQuad (s : State) (pid p : Nat) : Option Nat :=
  let pt := s.part pid
  if pt.live && decide (p < pt.w * pt.h) && decide (FMap.get 0 pt.defect p ≠ 3) then
    s.physLogical (pt.coord p).2 (pt.coord p).1
  else none

/-- A live quad of the partition (R28). -/
def State.liveQuad (s : State) (pid p : Nat) : Bool := (s.physQuad pid p).isSome

/-- The context that a quad runs: the first of its contexts. -/
def State.ctx (s : State) (qi : Nat) : Ctx := ((s.quad qi).ctxs.head?).getD { pid := 0, p := 0 }

/-- The context of a partition on a quad (R21, R192). -/
def State.ctxOf (s : State) (qi pid : Nat) : Option Ctx := (s.quad qi).ctxs.find? fun c => decide (c.pid = pid)

def State.pidOf (s : State) (tk : Nat) : Nat := (s.ctx (quadOf tk)).pid
def State.pOf (s : State) (tk : Nat) : Nat := (s.ctx (quadOf tk)).p
def State.myPid (s : State) : Nat := s.pidOf s.cur
def State.myPart (s : State) : Part := s.part s.myPid

/-- The partition-relative thread of a slot (R21). -/
def State.relThread (s : State) (tk : Nat) : Nat := s.pOf tk * 32 + tk % 32

/-- The partition-relative thread of a slot for one of its quad's contexts, be it swapped out (R21, R384). -/
def State.threadIn (s : State) (pid tk : Nat) : Nat := ((s.ctxOf (quadOf tk) pid).map fun c => c.p).getD (s.pOf tk) * 32 + tk % 32

/-- The slot of a partition-relative thread: none at or above W × H × 32, or on an absent quad (R111, R112). -/
def State.threadKey (s : State) (pid n : Nat) : Option Nat :=
  (s.physQuad pid (n / 32)).map fun qi => qi * 32 + n % 32

/-- The quad of a thread runs the partition's context: it is not swapped out (R384). -/
def State.runs (s : State) (pid tk : Nat) : Bool := decide (s.pidOf tk = pid)

/-- What a context that is swapped out keeps changes (R384). -/
def State.updSaved (s : State) (qi pid : Nat) (f : Saved → Saved) : State :=
  s.updQuad qi fun q => { q with shadow := q.shadow.map fun v => if v.pid = pid then f v else v }

/-- The slot of a thread of a partition, be its context swapped out. -/
def State.slotIn (s : State) (pid tk : Nat) : Slot :=
  if s.runs pid tk then s.slot tk
  else (((s.quad (quadOf tk)).shadow.find? fun v => decide (v.pid = pid)).bind fun v => v.slots[tk % 32]?).getD {}

/-- A core of a partition, be its context swapped out (R384). -/
def State.coreIn (s : State) (pid ck : Nat) : Core :=
  if s.runs pid (ck * 8) then s.core ck
  else (((s.quad (quadOfCore ck)).shadow.find? fun v => decide (v.pid = pid)).bind fun v => v.cores[ck % 4]?).getD {}

def State.updCoreIn (s : State) (pid ck : Nat) (f : Core → Core) : State :=
  if s.runs pid (ck * 8) then s.updCore ck f
  else s.updSaved (quadOfCore ck) pid fun v => { v with cores := v.cores.modify (ck % 4) f }

/-- A partition's quad is debug-halted, and its breakpoint is armed (R380): of the running context, or of a swapped-out one. -/
def State.haltedIn (s : State) (pid qi : Nat) : Bool :=
  if s.runs pid (qi * 32) then (s.quad qi).halted else (s.quad qi).shadow.any fun v => decide (v.pid = pid) && v.halted
def State.armedIn (s : State) (pid qi : Nat) : Bool :=
  if s.runs pid (qi * 32) then (s.quad qi).brkArm else (s.quad qi).shadow.any fun v => decide (v.pid = pid) && v.brkArm
def State.setDebug (s : State) (pid qi : Nat) (halt arm : Bool) : State :=
  if s.runs pid (qi * 32) then s.updQuad qi fun q => { q with halted := halt, brkArm := arm }
  else s.updSaved qi pid fun v => { v with halted := halt, brkArm := arm }

/-- The logical quad number of a quad's context (R20). -/
def State.logicalQuad (s : State) (qi : Nat) : Nat :=
  let c := s.ctx qi
  let xy := (s.part c.pid).coord c.p
  xy.2 * 64 + xy.1

/-- The core that a global core address names within a partition of this panel (R20): none for another panel, a
core outside the partition or in an absent quad. -/
def State.coreOfGca (s : State) (pid : Nat) (gca : Nat) : Option Nat :=
  let pt := s.part pid
  let q := gca % 8192 / 4
  let x := q % 64
  let y := q / 64
  if pt.live && decide (gca / 8192 = s.panel.number ∧ pt.x0 ≤ x ∧ x < pt.x0 + pt.w ∧ pt.y0 ≤ y ∧ y < pt.y0 + pt.h) then
    (s.physQuad pid ((y - pt.y0) * pt.w + (x - pt.x0))).map fun qi => qi * 4 + gca % 4
  else none

/-- The core that SVCCORE names, none when it names no core of the partition (R358). -/
def State.svcCore (s : State) (pid : Nat) : Option Nat := s.coreOfGca pid (fld (s.part pid).svccore 0 24)

/-- Bytes of a share (R192). -/
def State.spSize (s : State) (pid : Nat) : Nat := (s.part pid).spsize

/-! ## Memory -/

/-- The keys of memory: scratchpads, HBM by physical address, and host memory by virtual function. -/
def scratchKey (qi off : Nat) : Nat := qi * 2 ^ 24 + off
def hbmKey (pa : Nat) : Nat := 2 ^ 44 + pa
def hostKey (vf a : Nat) : Nat := 2 ^ 64 + vf * 2 ^ 48 + a % 2 ^ 48

/-- The byte at a key; an unlisted byte reads as zero. -/
def memByte (m : List Host.Cell) (k : Nat) : Byte := FMap.get (0 : Byte) m k

def memRead (m : List Host.Cell) (k : Nat) : Nat → Nat
  | 0 => 0
  | n + 1 => (memByte m k).toNat + 256 * memRead m (k + 1) n

def memWrite (m : List Host.Cell) (k : Nat) : List Byte → List Host.Cell
  | [] => m
  | b :: bs => memWrite (FMap.set (0 : Byte) m k b) (k + 1) bs

/-- Bytes at keys of their own, in order. -/
def memScatter (m : List Host.Cell) : List (Nat × Byte) → List Host.Cell
  | [] => m
  | (k, b) :: rest => memScatter (FMap.set (0 : Byte) m k b) rest

/-- `n` bytes from a key, little-endian (R3). -/
def State.rd (s : State) (k n : Nat) : Nat := memRead s.mem k n
def State.rd8 (s : State) (k : Nat) : Word := word (s.rd k 8)
def State.wrBytes (s : State) (k : Nat) (bs : List Byte) : State := { s with mem := memWrite s.mem k bs }
def State.wr (s : State) (k n v : Nat) : State := s.wrBytes k (leBytes n v)
def State.wr8 (s : State) (k : Nat) (w : Word) : State := s.wr k 8 w.toNat

/-- A byte with some of its bits replaced. -/
def keptBits (old new mask : Byte) : Byte := (old &&& ~~~mask) ||| (new &&& mask)

/-- Writes bytes under their masks. -/
def State.writeW (s : State) (k : Nat) (bs : List WByte) : State :=
  { s with mem := bs.foldl (fun m b => FMap.set (0 : Byte) m (k + b.1) (keptBits (memByte m (k + b.1)) b.2.1 b.2.2)) s.mem }

/-- The bytes of a number, whole, from an offset. -/
def wholeBytes (n v : Nat) : List WByte := (leBytes n v).zipIdx.map fun b => (b.2, b.1, 0xFF#8)

def State.scatter (s : State) (bs : List (Nat × Byte)) : State := { s with mem := memScatter s.mem bs }

/-- The bytes of a key range. -/
def State.rdBytes (s : State) (k : Nat) : Nat → List Byte
  | 0 => []
  | n + 1 => memByte s.mem k :: s.rdBytes (k + 1) n

/-- Two footprints share a byte. -/
def overlap (a n b m : Nat) : Bool := decide (a < b + m ∧ b < a + n)

/-- Zeroes the bytes of a key range: every listed cell there goes. -/
def State.zeroRange (s : State) (k n : Nat) : State :=
  { s with mem := s.mem.filter fun c => !(decide (k ≤ c.1) && decide (c.1 < k + n))
           fe := s.fe.filter fun c => !(decide (k ≤ c.1) && decide (c.1 < k + n)) }

/-- The quad whose scratchpad holds an offset of a quad's own: a block that has not moved is served by the failed quad (R374). -/
def Quad.holder (q : Quad) (qi off : Nat) : Nat :=
  match q.fill with
  | some fl => if fl.moved.contains (off / 65536) then qi else fl.src
  | none => qi

/-- The key of a footprint in the share that a partition holds on a quad, none when the quad holds no such context or
the footprint passes SPSIZE (R197 step 3). A block that has not moved is served by the failed quad (R374). -/
def State.shareAt (s : State) (pid qi off n : Nat) : Option Nat :=
  let q := s.quad qi
  let ctx := match s.ctxOf qi pid with
    | some c => some c
    | none => q.former.find? fun c => decide (c.pid = pid)
  match ctx with
  | none => none
  | some c =>
    if s.spSize pid < off + n then none
    else
      some (scratchKey (q.holder qi (c.base + off)) (c.base + off))

/-- The key of a share offset of a partition's quad p, none when the quad is absent or holds no such context. -/
def State.shareKey (s : State) (pid p off : Nat) : Option Nat := (s.physQuad pid p).bind fun qi => s.shareAt pid qi off 1

/-- The key of a local offset of a slot's quad (R190, R192). -/
def State.localKey (s : State) (tk off : Nat) : Nat :=
  let o := (s.ctx (quadOf tk)).base + off
  scratchKey ((s.quad (quadOf tk)).holder (quadOf tk) o) o

/-- The key of a local offset of a partition's context on a quad, be it swapped out (R190, R384). -/
def State.localKeyIn (s : State) (pid qi off : Nat) : Nat :=
  let o := ((s.ctxOf qi pid).getD (s.ctx qi)).base + off
  scratchKey ((s.quad qi).holder qi o) o

/-- The ring pool of a quad with one context, in units of 64 KiB (R281). -/
def Part.poolUnits (p : Part) : Nat := Nat.min (fld p.chbase 53 7) (Nat.min 64 ((p.spsize / 2 - 264 * 1024) / 65536))

def isHbm (k : Nat) : Bool := decide (2 ^ 44 ≤ k ∧ k < 2 ^ 64)
def paOf (k : Nat) : Nat := k - 2 ^ 44
/-- The quad that holds a scratchpad key. -/
def keyQuad (k : Nat) : Nat := k / 2 ^ 24

/-- An access that arrives for a block that has not moved is forwarded, and the block is moved next (R374). -/
def State.noteBlock (s : State) (qi k : Nat) : State :=
  if keyQuad k = qi then s
  else s.updQuad qi fun q => { q with fill := q.fill.map fun f =>
    { f with next := if f.next.contains (k % 2 ^ 24 / 65536) then f.next else f.next ++ [k % 2 ^ 24 / 65536] } }

/-- Where the reserved top of a context's share begins (R302): the handback area is its lowest part (R342). -/
def State.reservedTop (s : State) (qi pid : Nat) : Nat :=
  let p := s.part pid
  p.spsize - 264 * 1024 - (if 2 ≤ (s.quad qi).ctxs.length then 0 else p.poolUnits * 65536)

/-! ## Basting areas (R368, R369) -/

def basteEn (w : Word) : Bool := w.getLsbD 63
def basteArea (w : Word) : Nat := fld w 48 8
def basteIvl (w : Word) : Nat := fld w 36 12
def basteLen (w : Word) : Nat := fld w 24 12
def basteBase (w : Word) : Nat := fld w 12 12

/-- The guarding quad of partition-logical quad p (R368), none in a one-quad partition. -/
def Part.guardQuad (pt : Part) (p : Nat) : Option Nat :=
  if pt.w * pt.h ≤ 1 then none
  else if pt.w = 1 then (if p + 1 < pt.h then some (p + 1) else some (p - 1))
  else if p % pt.w + 1 < pt.w then some (p + 1) else some (p - 1)

/-- The key of an offset in half h of a slot's basting area, none when the guarding quad is lost. -/
def State.halfKey (s : State) (tk h off : Nat) : Option Nat :=
  let cfg := (s.slot tk).sr.bastecfg
  ((s.part (s.pidOf tk)).guardQuad (s.pOf tk)).bind fun g =>
    s.shareKey (s.pidOf tk) g (basteArea cfg * 65536 + h * (8192 + basteLen cfg * 4096) + off)

/-- The half that holds the last valid checkpoint (R369): its commit word has bit 63 and the slot's COUNT. -/
def State.lastHalf (s : State) (tk : Nat) : Option Nat :=
  let count := (s.slot tk).sr.basteCount.toNat
  [0, 1].find? fun h => match s.halfKey tk h 0x1FF8 with
    | none => false
    | some k => decide (fld (s.rd8 k) 63 1 = 1 ∧ fld (s.rd8 k) 0 16 = count)

/-! ## Registers of a slot (R87, R88) -/

def State.tReg (s : State) (tk r : Nat) : Word := if r = 0 then 0 else FMap.get 0 (s.slot tk).t r
def State.cReg (s : State) (tk n : Nat) : Word := FMap.get 0 (s.core (coreOf tk)).c n
def State.setT (s : State) (tk r : Nat) (v : Word) : State :=
  if r = 0 then s else s.updSlot tk fun x => { x with t := FMap.set 0 x.t r v }
def State.setC (s : State) (ck n : Nat) (v : Word) : State := s.updCore ck fun c => { c with c := FMap.set 0 c.c n v }
def State.vReg (s : State) (tk r : Nat) : Vec :=
  if r < 16 then FMap.get 0 (s.slot tk).v r else FMap.get 0 (s.core (coreOf tk)).w (r - 16)
def State.setV (s : State) (tk r : Nat) (v : Vec) : State :=
  if r < 16 then s.updSlot tk fun x => { x with v := FMap.set 0 x.v r v }
  else s.updCore (coreOf tk) fun c => { c with w := FMap.set 0 c.w (r - 16) v }
/-- m0 reads as all ones (R88). -/
def State.mReg (s : State) (tk r : Nat) : Word := if r = 0 then BitVec.allOnes 64 else FMap.get 0 (s.slot tk).m r
def State.setM (s : State) (tk r : Nat) (v : Word) : State :=
  if r = 0 then s else s.updSlot tk fun x => { x with m := FMap.set 0 x.m r v }

/-! ## Sequence of heads (R41, R42) -/

/-- The base of the line that holds a PC. -/
def lineBase (pc : Word) : Word := pc &&& ~~~63#64
/-- The index of the head at a PC. -/
def headIndex (pc : Word) : Nat := fld pc 1 5

/-- The PC after a head that transfers no control: the next head of the line, else head 1 of the next line (R42). -/
def Slot.nextPc (x : Slot) : Word :=
  if headIndex x.pc < x.lineH then x.pc + 2#64 else lineBase x.pc + 66#64

/-- The target of a B or BL tail: line offset and head index (R43). -/
def branchTarget (pc : Word) (off : Word) (idx : BitVec 5) : Word := lineBase pc + (off <<< 6) + (zext idx <<< 1)

/-! ## Packets (R326) -/

/-- The flits of a packet with `n` bytes of data: 96 in the first, 128 in each later one. -/
def flitsFor (n : Nat) : Nat := 1 + (n + 31) / 128

/-- The logical number of a quad in a partition that it holds (R22). -/
def State.pAt (s : State) (qi pid : Nat) : Nat := ((s.ctxOf qi pid).map fun c => c.p).getD 0

/-- Puts a packet of `n` flits on a lane (R327) at a source quad's router for a partition's quad. -/
def State.inject (s : State) (src dst pid p n lane : Nat) (sid : Option Nat) : State :=
  let id := s.ids
  { s.takeId with
    packets := s.packets ++ [{ id, src, dst, pid, p, epoch := s.panel.epoch, lane, sid, flits := n }]
    flits := s.flits ++ (List.range n).map fun i => { pkt := id, seq := i, at_ := src } }

/-- A packet has arrived whole. -/
def State.arrived (s : State) (pkt : Option Nat) : Bool :=
  match pkt with
  | none => true
  | some id => s.packets.all fun p => decide (p.id ≠ id) || decide (p.flits ≤ p.arrived)

/-- The buffer of a flit, by its number in the table of credits; the local port's takes no credit (R327). -/
def Flit.buffer (f : Flit) (lane : Nat) : Option Nat :=
  if f.port = 4 then none else some ((f.at_ * 5 + f.port) * 8 + lane + if f.detour then 4 else 0)

/-- The credit of a flit's buffer starts on its way back. A stream's flit holds none (R329). -/
def State.freeBuffer (s : State) (p : Packet) (f : Flit) : State :=
  match p.sid, f.buffer p.lane with
  | none, some n => { s with panel := { s.panel with returns := s.panel.returns ++ [n] } }
  | _, _ => s

/-- Removes a packet that has been taken in, or that nobody waits for: what it has left in the mesh leaves its buffers. -/
def State.dropPacket (s : State) (pkt : Option Nat) : State :=
  match pkt with
  | none => s
  | some id =>
    let gone := s.packets.filter fun p => decide (p.id = id)
    let s1 := gone.foldl (fun t p => (s.flits.filter fun f => decide (f.pkt = id)).foldl (fun u f => u.freeBuffer p f) t) s
    { s1 with packets := s1.packets.filter fun p => decide (p.id ≠ id)
              flits := s1.flits.filter fun f => decide (f.pkt ≠ id) }

end Sys2Proof.Machine
end

