-- ==== Sys2Proof/Machine/Num.lean ====
section
/-! DEFINITION. Number formats, rounding, conversion and exact floating arithmetic (R123 to R130, R135), the LT2
lattice (R125), and the elements of format windows (R131, R132, R193). -/

namespace Sys2Proof.Machine

/-! ## Formats (R123, R124) -/

/-- A floating format: exponent bits, fraction bits, bias. -/
structure Fmt where
  eb : Nat
  fb : Nat
  bias : Nat
  deriving DecidableEq, Repr

def fp64 : Fmt := ⟨11, 52, 1023⟩
def fp32 : Fmt := ⟨8, 23, 127⟩
def fp16 : Fmt := ⟨5, 10, 15⟩
def bf16 : Fmt := ⟨8, 7, 127⟩
def e5m2 : Fmt := ⟨5, 2, 15⟩
def e4m3 : Fmt := ⟨4, 3, 7⟩

/-- The format without infinity (R123). -/
def Fmt.noInf (f : Fmt) : Bool := decide (f = e4m3)
/-- The sign bit of a code. -/
def Fmt.sign (f : Fmt) (code : Nat) : Bool := decide (code / 2 ^ (f.eb + f.fb) % 2 = 1)
/-- The code of the largest finite magnitude. -/
def Fmt.maxCode (f : Fmt) : Nat := if f.noInf then 0x7E else (2 ^ f.eb - 1) * 2 ^ f.fb - 1
def Fmt.infCode (f : Fmt) : Nat := (2 ^ f.eb - 1) * 2 ^ f.fb
/-- A magnitude code with a sign. -/
def Fmt.withSign (f : Fmt) (neg : Bool) (mag : Nat) : Nat := mag + bit neg * 2 ^ (f.eb + f.fb)

/-- The value of a code (R124); a NaN's fraction stands as FP64 would hold it (R128). -/
def Fmt.decode (f : Fmt) (code : Nat) : FVal :=
  let s := f.sign code
  let e := code / 2 ^ f.fb % 2 ^ f.eb
  let m := code % 2 ^ f.fb
  if f.noInf && decide (e = 15 ∧ m = 7) then .nan s (2 ^ 51)
  else if !f.noInf && decide (e = 2 ^ f.eb - 1) then
    if m = 0 then .inf s
    else .nan s (if f = e5m2 then 2 ^ 51 + m * 2 ^ 49 else m * 2 ^ (52 - f.fb))
  else if e = 0 then .fin s m (1 - (f.bias : Int) - f.fb)
  else .fin s (2 ^ f.fb + m) ((e : Int) - f.bias - f.fb)

/-- The code of a NaN (R128): the quiet bit is set; E5M2 keeps FP32's bits 21 and 20; E4M3 has one. -/
def Fmt.nanCode (f : Fmt) (neg : Bool) (frac : Nat) : Nat :=
  if f = e4m3 then f.withSign neg 0x7F
  else if f = e5m2 then
    let m := frac / 2 ^ 49 % 4
    f.withSign neg (0x7C + (if m = 0 then 2 else m))
  else
    let m := frac / 2 ^ (52 - f.fb)
    f.withSign neg (f.infCode + (if m / 2 ^ (f.fb - 1) % 2 = 1 then m else m + 2 ^ (f.fb - 1)))

/-- The canonical NaN of an invalid operation (R130). -/
def canonNan : FVal := .nan false (2 ^ 51)

/-! ## Rounding (R126, R127) -/

/-- Does a magnitude cut to `t` with remainder `rem` of `2^s` round away from zero? `draw` is the stochastic number. -/
def roundsUp (r : Rnd) (draw : Nat) (neg : Bool) (t rem s : Nat) : Bool :=
  match r with
  | .rne => decide (2 ^ s < 2 * rem ∨ (2 * rem = 2 ^ s ∧ t % 2 = 1))
  | .rtz => false
  | .rup => !neg && decide (rem ≠ 0)
  | .rdn => neg && decide (rem ≠ 0)
  | .rsr => decide (draw < rem * 2 ^ 32 / 2 ^ s)

/-- What overflow gives (R126). -/
def Fmt.overflow (f : Fmt) (r : Rnd) (neg : Bool) : Nat :=
  let toMax := f.noInf || (match r with
    | .rtz => true
    | .rup => neg
    | .rdn => !neg
    | _ => false)
  f.withSign neg (if toMax then f.maxCode else f.infCode)

/-- A finite value rounded to a format (R126, R127): on the subnormal grid below the smallest normal. -/
def Fmt.roundFin (f : Fmt) (r : Rnd) (draw : Nat) (neg : Bool) (m : Nat) (e : Int) : Nat :=
  if m = 0 then f.withSign neg 0 else
  let top : Int := (Nat.log2 m : Int) + e
  let emin : Int := 1 - f.bias
  let u : Int := (if top < emin then emin else top) - f.fb
  let s := (u - e).toNat
  let big := m * 2 ^ (e - u).toNat
  let t := big / 2 ^ s
  let rem := big % 2 ^ s
  let exact := t + bit (roundsUp r draw neg t rem s)
  let base := (u + f.fb + f.bias - 1).toNat * 2 ^ f.fb
  let code := base + exact
  let cut := base + t
  if f.maxCode < code ∧ r ≠ .rsr then f.overflow r neg
  else if r = .rsr ∧ (f.maxCode < cut ∨ (cut = f.maxCode ∧ rem ≠ 0)) then f.overflow r neg
  else f.withSign neg code

/-- A value in a format (R126, R128). -/
def Fmt.encode (f : Fmt) (r : Rnd) (draw : Nat) : FVal → Nat
  | .nan s fr => f.nanCode s fr
  | .inf s => if f.noInf then f.withSign s f.maxCode else f.withSign s f.infCode
  | .fin s m e => f.roundFin r draw s m e

/-- A conversion between formats (R128). -/
def convert (src dst : Fmt) (r : Rnd) (draw code : Nat) : Nat := dst.encode r draw (src.decode code)

/-- The stochastic generator (R127). -/
def nextSeed (x : BitVec 32) : BitVec 32 :=
  let a := x ^^^ (x <<< 13)
  let b := a ^^^ (a >>> 17)
  b ^^^ (b <<< 5)

/-! ## Integers -/

/-- The signed value of the low n bits. -/
def sval (n v : Nat) : Int := (BitVec.ofNat n v).toInt
/-- An integer in n bits, modulo 2^n. -/
def wrap (n : Nat) (v : Int) : Nat := (v % (2 ^ n : Nat)).toNat
/-- An integer saturated to n signed bits, and to n unsigned bits (R126). -/
def satS (n : Nat) (v : Int) : Nat :=
  wrap n (if v < -(2 ^ (n - 1) : Nat) then -(2 ^ (n - 1) : Nat) else if (2 ^ (n - 1) : Nat) - 1 < v then (2 ^ (n - 1) : Nat) - 1 else v)
def satU (n : Nat) (v : Int) : Nat :=
  if v < 0 then 0 else if (2 ^ n : Nat) - 1 < v then 2 ^ n - 1 else v.toNat

/-! ## Exact arithmetic (R130) -/

def FVal.isNan : FVal → Bool
  | .nan _ _ => true
  | _ => false
def FVal.isNeg : FVal → Bool
  | .nan s _ => s
  | .inf s => s
  | .fin s _ _ => s
def FVal.neg : FVal → FVal
  | .nan s f => .nan (!s) f
  | .inf s => .inf (!s)
  | .fin s m e => .fin (!s) m e
def FVal.isZero : FVal → Bool
  | .fin _ 0 _ => true
  | _ => false

/-- The first NaN among the sources, with its quiet bit set (R130); the code sets it. -/
def firstNan : List FVal → Option FVal
  | [] => none
  | v :: vs => if v.isNan then some v else firstNan vs

/-- A signed integer times a power of two; an exact zero sum is +0, or −0 under .rdn (R130). -/
def ofInt (v : Int) (e : Int) (r : Rnd) : FVal :=
  if v = 0 then .fin (r == .rdn) 0 0 else .fin (decide (v < 0)) v.natAbs e

def signed (s : Bool) (m : Nat) : Int := if s then -(m : Int) else m

/-- An exact sum. -/
def fadd (r : Rnd) (x y : FVal) : FVal :=
  match x, y with
  | .nan s f, _ => .nan s f
  | _, .nan s f => .nan s f
  | .inf s, .inf t => if s = t then .inf s else canonNan
  | .inf s, _ => .inf s
  | _, .inf t => .inf t
  | .fin s m e, .fin t n g =>
    if m = 0 ∧ n = 0 ∧ s = t then .fin s 0 0
    else
      let lo := if e < g then e else g
      ofInt (signed s (m * 2 ^ (e - lo).toNat) + signed t (n * 2 ^ (g - lo).toNat)) lo r

/-- An exact product. -/
def fmul (x y : FVal) : FVal :=
  match x, y with
  | .nan s f, _ => .nan s f
  | _, .nan s f => .nan s f
  | .inf s, .fin t n _ => if n = 0 then canonNan else .inf (s != t)
  | .fin s m _, .inf t => if m = 0 then canonNan else .inf (s != t)
  | .inf s, .inf t => .inf (s != t)
  | .fin s m e, .fin t n g => .fin (s != t) (m * n) (e + g)

/-- A fused a × b + c (R130): a NaN source comes first, in the order a, b, c. -/
def ffma (r : Rnd) (a b c : FVal) : FVal :=
  match firstNan [a, b, c] with
  | some v => v
  | none => fadd r (fmul a b) c

/-- A quotient with a sticky bit: enough bits for any rounding. -/
def fdiv (x y : FVal) : FVal :=
  match x, y with
  | .nan s f, _ => .nan s f
  | _, .nan s f => .nan s f
  | .inf _, .inf _ => canonNan
  | .inf s, .fin t _ _ => .inf (s != t)
  | .fin s _ _, .inf t => .fin (s != t) 0 0
  | .fin s m e, .fin t n g =>
    if n = 0 then (if m = 0 then canonNan else .inf (s != t))
    else
      let big := m * 2 ^ 192
      .fin (s != t) (2 * (big / n) + bit (decide (big % n ≠ 0))) (e - g - 193)

/-- The integer square root of x, its bits below n found from the top. -/
def isqrt (x : Nat) : Nat → Nat → Nat
  | 0, acc => acc
  | n + 1, acc =>
    let t := acc + 2 ^ n
    isqrt x n (if t * t ≤ x then t else acc)

/-- An even exponent at or below e, with the bit it leaves. -/
def evenExp (e : Int) : Int × Nat := if e % 2 = 0 then (e, 0) else (e - 1, 1)

/-- A square root with a sticky bit (R130). -/
def fsqrt (x : FVal) : FVal :=
  match x with
  | .nan s f => .nan s f
  | .inf s => if s then canonNan else .inf false
  | .fin s m e =>
    if m = 0 then .fin s 0 0
    else if s then canonNan
    else
      let p := evenExp e
      let big := m * 2 ^ (p.2 + 128)
      let q := isqrt big 100 0
      .fin false (2 * q + bit (decide (q * q ≠ big))) (p.1 / 2 - 65)

/-- A reciprocal square root with a sticky bit; of ±0 it is ±∞, of +∞ it is +0 (R136). -/
def frsqrt (x : FVal) : FVal :=
  match x with
  | .nan s f => .nan s f
  | .inf s => if s then canonNan else .fin false 0 0
  | .fin s m e =>
    if m = 0 then .inf s
    else if s then canonNan
    else
      let p := evenExp e
      let d := m * 2 ^ p.2
      let q := isqrt (2 ^ 192 / d) 100 0
      .fin false (2 * q + bit (decide (q * q * d ≠ 2 ^ 192))) (-(p.1 / 2) - 97)

/-- Comparison of values that are not NaN: a < b and a = b, with −0 = +0. -/
def flt (x y : FVal) : Bool :=
  match x, y with
  | .nan _ _, _ => false
  | _, .nan _ _ => false
  | .inf s, .inf t => s && !t
  | .inf s, _ => s
  | _, .inf t => !t
  | .fin s m e, .fin t n g =>
    let lo := if e < g then e else g
    decide (signed s (m * 2 ^ (e - lo).toNat) < signed t (n * 2 ^ (g - lo).toNat))

def feq (x y : FVal) : Bool := !x.isNan && !y.isNan && !flt x y && !flt y x

/-- One NaN gives the other source, two give the first, which its code quiets (R135). -/
def skipNan (x y : FVal) (k : FVal) : FVal :=
  if x.isNan then (if y.isNan then x else y) else if y.isNan then x else k

/-- Minimum and maximum by R135: −0 is below +0. -/
def fmin (x y : FVal) : FVal :=
  skipNan x y (if flt y x then y else if flt x y then x else if y.isNeg then y else x)
def fmax (x y : FVal) : FVal :=
  skipNan x y (if flt x y then y else if flt y x then x else if y.isNeg then x else y)

/-- A difference: a NaN source comes first with its own sign (R130). -/
def fsub (r : Rnd) (x y : FVal) : FVal :=
  match firstNan [x, y] with
  | some v => v
  | none => fadd r x y.neg

/-- a × b − c and −(a × b) + c, fused (R134). -/
def ffms (r : Rnd) (a b c : FVal) : FVal :=
  match firstNan [a, b, c] with
  | some v => v
  | none => fsub r (fmul a b) c
def ffnma (r : Rnd) (a b c : FVal) : FVal :=
  match firstNan [a, b, c] with
  | some v => v
  | none => let p := fmul a b; if p.isNan then p else fadd r p.neg c

/-- A value times a power of two (R137); beyond 2^±5000 every format has overflowed, or rounds as it does there. -/
def fscale (x : FVal) (n : Int) : FVal :=
  match x with
  | .fin s m e => .fin s m (e + (if 5000 < n then 5000 else if n < -5000 then -5000 else n))
  | v => v

/-! ## LT2 (R125) -/

/-- Coordinate i of the signed half-units of an index with a row. -/
def lt2Half (row : Nat) (neg : Bool) (i : Nat) : Int := signed neg (row / 2 ^ (4 * i) % 16)

/-- The eight weights of an index (R125); the scale is an E8M0 code. -/
def lt2 (index row scale : Nat) : List FVal :=
  let negAt (i : Nat) : Bool := decide (index / 2 ^ (i + 1) % 2 = 1)
  let total : Int := ((List.range 7).map fun i => lt2Half row (negAt i) i).sum
  let neg7 := decide ((total + (row / 2 ^ 28 % 16 : Nat)) % 4 ≠ 0)
  (List.range 8).map fun i =>
    if scale = 255 then canonNan else
    let v := lt2Half row (if i = 7 then neg7 else negAt i) i + (index % 2 : Nat)
    if v = 0 then .fin false 0 0 else .fin (decide (v < 0)) v.natAbs ((scale : Int) - 128)

/-! ## Format windows (R131, R132, R193) -/

/-- Bits of an element of a window; the LT2 index has 16 for 8 lanes. -/
def winBits (w : Nat) : Nat :=
  match w with
  | 0 => 32 | 1 => 16 | 2 => 16 | 3 => 8 | 4 => 8 | 5 => 8 | 6 => 4 | _ => 2

/-- The floating format of a window. -/
def winFmt (w : Nat) : Option Fmt :=
  match w with
  | 1 => some bf16 | 2 => some fp16 | 3 => some e4m3 | 4 => some e5m2 | _ => none

/-- The 32-bit lane that an element gives (R131). -/
def winDecode (w code : Nat) : Nat :=
  match winFmt w with
  | some f => convert f fp32 .rne 0 code
  | none => if w = 0 then code else wrap 32 (sval (winBits w) code)

/-- The element that a 32-bit lane gives (R132). -/
def winEncode (w lane : Nat) : Nat :=
  match winFmt w with
  | some f => convert fp32 f .rne 0 lane
  | none => if w = 0 then lane else satS (winBits w) (sval 32 lane)

end Sys2Proof.Machine
end

