-- ==== Sys2Proof/Machine/Service.lean ====
section
/-! DEFINITION. Service messages and events (R358, R359, R361), yield classes (R364), and the start of a
containment (R25, R372, R373). -/

namespace Sys2Proof.Machine

/-! ## Service messages -/

/-- The payload of a service message (R359). -/
structure Svc where
  kind : Nat
  nested : Bool := false
  tag : Nat := 0
  thread : Nat := 0
  info : Word := 0
  w2 : Word := 0
  w3 : Word := 0
  w4 : Word := 0
  w5 : Word := 0
  w6 : Word := 0
  w7 : Word := 0
  deriving DecidableEq, Repr

/-- Word 0 of a service message (R359). -/
def Svc.word0 (m : Svc) (pid : Nat) : Word :=
  word (m.kind + (if m.nested then 256 else 0) + m.tag % 256 * 2 ^ 16 + m.thread % 65536 * 2 ^ 24 + pid % 4096 * 2 ^ 40)

def Svc.bytes (m : Svc) (pid : Nat) : List Byte :=
  [m.word0 pid, m.info, m.w2, m.w3, m.w4, m.w5, m.w6, m.w7].flatMap fun w => leBytes 8 w.toNat

/-- A message header (R347). -/
def msgHeader (bst ctl : Bool) (len panel src : Nat) (tag : Word) : Word :=
  word ((if bst then 2 ^ 63 else 0) + (if ctl then 2 ^ 62 else 0) + (len / 8 - 1) % 32 * 2 ^ 57 + panel % 512 * 2 ^ 48
    + src % 65536 * 2 ^ 32 + fld tag 0 32)

/-- Appends an entry to a virtual function's event queue (R361): 64 bytes at EVQBASE + HEAD × 64 in host memory; an
event that finds no room is lost and sets OVF. The ring is full with 63 entries (the model's choice, log entry 158). -/
def State.evqPush (s : State) (v : Nat) (bytes : List Byte) : State :=
  let f := s.vf v
  if f.evqHead + 1 = f.evqTail then s.setVf v { f with evqOvf := true }
  else (s.wrBytes (hostKey v (f.evqBase.toNat + f.evqHead.toNat * 64)) bytes).setVf v { f with evqHead := f.evqHead + 1 }

/-- Sends a service message to the core that SVCCORE names, else to the event queue (R358, R359). The tag of its
header is a free value: R359 states none. -/
def State.service (s : State) (pid : Nat) (m : Svc) : State :=
  let pt := s.part pid
  match s.svcCore pid with
  | none => s.evqPush pt.vf (m.bytes pid)
  | some ck =>
    let hdr := msgHeader false true 64 s.panel.number 0xFFFE (Config.freeWord s.free)
    { s.takeId.draw with msgs := s.msgs ++ [{ id := s.ids, hdr, data := m.bytes pid, src := none,
                                              dest := word (fld pt.svccore 0 24), dst := ck, pid }] }

/-! ## The guarantee of a stream (R330, R333) -/

/-- Bits set in a mask. -/
def bitCount (m : BitVec 16) : Nat := ((List.range 16).filter fun i => m.getLsbD i).length

/-- The guaranteed rate of a stream and the rate that a link of `bytes` per slot can deliver, in bytes per 16 cycles. -/
def Stream.guarantee (t : Stream) : Nat := bitCount t.mask * 128
def Stream.deliverable (t : Stream) (bytes : Nat) : Nat := bitCount t.mask * bytes

/-- The guarantee-shortfall event (R333): to the service core, to the virtual function and to the physical function. -/
def State.shortfall (s : State) (pid : Nat) (t : Stream) (l bytes : Nat) : State :=
  let w (n : Nat) : Word := Config.shortfallWord n t.sid l t.guarantee (t.deliverable bytes)
  let m : Svc := { kind := 0x18, info := w 1, w2 := w 2, w3 := w 3 }
  ((s.service pid m).evqPush (s.part pid).vf (m.bytes pid)).updPanel fun p =>
    { p with pfEvents := p.pfEvents ++ [(pid, t.sid, l, t.guarantee, t.deliverable bytes)] }

/-! ## Spares, grades and classes (R25, R27, R364) -/

/-- The columns of a quad-row that hold a logical name (R27). -/
def State.named (s : State) (y : Nat) : List Nat :=
  (List.range 64).filterMap fun x => (s.physLogical y x).map pxOf

/-- The physical quad that a pending change has taken as a substitute. -/
def MapChange.takes (c : MapChange) : Option Nat :=
  match c.op with
  | .contain _ _ sp => sp
  | .resize .. => none

/-- The spare columns of a quad-row: healthy, free, without a logical name, and taken by no change. -/
def State.spares (s : State) (y : Nat) : List Nat :=
  let used := s.named y ++ (s.changes.filterMap MapChange.takes).filterMap fun q => if pyOf q = y then some (pxOf q) else none
  (List.range 72).filter fun px =>
    decide ((s.quad (y * 72 + px)).st = .healthy) && !(s.quad (y * 72 + px)).contained && !used.contains px

/-- The distance of two columns. -/
def colDist (a b : Nat) : Nat := (a - b) + (b - a)

/-- The spare nearest to a column, the western of two equally near (R25). -/
def nearest (px : Nat) : List Nat → Option Nat
  | [] => none
  | c :: cs =>
    match nearest px cs with
    | none => some c
    | some d => if colDist c px ≤ colDist d px then some c else some d

/-- Every link of a region at full width (R333, R364). -/
def State.fullWidth (s : State) (r : Nat) : Bool :=
  s.panel.width.all fun e => !decide (regionOf (e.1 / 4) = r) || decide (e.2 = 0)

/-- The grade of a region, 0 A to 3 D (R364); a region with an absent logical quad grades D (R24). -/
def State.grade (s : State) (r : Nat) : Nat :=
  let n := (s.spares (2 * r)).length + (s.spares (2 * r + 1)).length
  let absent := (List.range 64).any fun x =>
    (s.physLogical (2 * r) x).isNone || (s.physLogical (2 * r + 1) x).isNone
  if absent then 3
  else if 12 ≤ n && s.fullWidth r then 0
  else if 6 ≤ n && s.fullWidth r then 1
  else if 2 ≤ n then 2 else 3

/-- The regions that a partition's rectangle touches. -/
def Part.regions (pt : Part) : List Nat :=
  (List.range 16).filter fun r => decide (pt.y0 ≤ 2 * r + 1) && decide (2 * r < pt.y0 + pt.h)

/-- The worst of a list of grades. -/
def worst (gs : List Nat) : Nat := gs.foldl max 0

/-- A partition's class recomputed: a fall is reported to the service core and to the event queue (R364). -/
def State.reclass (s : State) (pid r : Nat) : State :=
  let pt := s.part pid
  let c := worst (pt.regions.map fun n => (s.region n).grade)
  let m : Svc := { kind := 0x43, w3 := word (c + 4 * pt.cls + 16 * r) }
  let s1 := s.setPart pid { pt with cls := c }
  if pt.live && decide (pt.cls < c) then (s1.service pid m).evqPush pt.vf (m.bytes pid) else s1

/-- The grade of a region computed anew, and with it the classes (R364). -/
def State.regrade (s : State) (r : Nat) : State :=
  let g := s.grade r
  let s1 := s.updRegion r fun x => { x with grade := g }
  s1.parts.foldl (fun t e => if e.2.regions.contains r then t.reclass e.1 r else t) s1

/-! ## The start of a containment (R373, steps 1 to 4) -/

/-- The slots of a quad that a containment loses: bound, pinned or of the service core, and not basted with a
checkpoint; optimistic tasks survive when the task area does (R316, R371). -/
def State.lostSlots (s : State) (qi : Nat) (survives : Bool) : List Nat :=
  (List.range 32).filter fun n =>
    let x := s.slot (qi * 32 + n)
    decide (x.st ≠ .free) && (if x.kind = 1 then !survives else !(x.bst && (s.lastHalf (qi * 32 + n)).isSome))

/-- A bitmap of slot numbers. -/
def bitmap (ns : List Nat) : Word := word (ns.foldl (fun a n => a + 2 ^ n) 0)

/-- What a quad holds of a wired barrier for a partition (R255): the running context's, or what a swapped-out one keeps. -/
def Quad.barmasks (q : Quad) (pid : Nat) : FMap Word :=
  match q.ctxs.head? with
  | some c => if c.pid = pid then q.barmask else ((q.shadow.find? fun v => decide (v.pid = pid)).map fun v => v.barmask).getD []
  | none => []

/-- A quad whose registers of barrier group g are disabled for a partition. -/
def Quad.disableGroup (q : Quad) (pid g : Nat) : Quad :=
  let keep (l : List Arrival) : List Arrival := l.filter fun a => decide (a.g ≠ g)
  let runs := match q.ctxs.head? with
    | some c => decide (c.pid = pid)
    | none => false
  { q with
    barmask := if runs then FMap.set 0 q.barmask g 0 else q.barmask
    arrived := if runs then keep q.arrived else q.arrived
    shadow := q.shadow.map fun v => if v.pid = pid then { v with barmask := FMap.set 0 v.barmask g 0, arrived := keep v.arrived } else v }

/-- The barrier groups of a partition that name slots of a removed quad are disabled, and their waiters take ECAUSE 0x10
with reason 0 (R378). -/
def State.dropBarriers (s : State) (pid qi : Nat) : State :=
  ((s.quad qi).barmasks pid).foldl (fun t e =>
    if e.2.getLsbD 32 ∧ fld e.2 0 32 ≠ 0 then
      { t with
        quads := t.quads.map fun q => (q.1, if q.2.ctxs.any (fun c => decide (c.pid = pid)) then q.2.disableGroup pid e.1 else q.2)
        slots := t.slots.map fun x =>
          let came := (t.quad (quadOf x.1)).arrived.any fun a => decide (a.g = e.1 ∧ a.slot = x.1 % 32)
          if decide (t.pidOf x.1 = pid) && (decide (x.2.st = .blocked (.barrier e.1)) || (decide (x.2.st = .blocked (.barset e.1)) && came)) then
            (x.1, { x.2 with async := x.2.async ++ [{ code := 0x10, info := word e.1 }] })
          else x }
    else t) s

/-- The logical quad (y × 64 + x) that a physical quad stands for (R23). -/
def State.logicalOf (s : State) (qi : Nat) : Option Nat :=
  ((List.range 64).find? fun x => decide (s.physLogical (pyOf qi) x = some qi)).map fun x => pyOf qi * 64 + x

/-- Region-0 time (R19, R336): that of a region whose counter runs. -/
def State.time0 (s : State) : Word :=
  let r := ((List.range 16).find? fun r => !(s.region r).frozen).getD 0
  (s.region r).tcnt + (s.region r).tofs

/-- The clock of a region is stopped (R383). -/
def State.clockStopped (s : State) (r : Nat) : Bool := s.panel.frozen || (s.region r).frozen

/-- The switch time of a map installed now (R373 asks for 2 µs at least): 2,000 ns on exactly, the model's choice (log entry 148). -/
def State.switchTime (s : State) : Word := s.time0 + 2000#64

/-- A spare that a pending change has taken fails: the change takes another, and its time is set anew (R25, R332). -/
def State.respare (s : State) (qt : Nat) : State :=
  { s with changes := s.changes.map fun c => match c.op with
      | .contain qf l sp =>
        if sp = some qt then
          { time := s.switchTime, op := .contain qf l ((nearest (pxOf qf) (s.spares (pyOf qf))).map fun px => pyOf qf * 72 + px) }
        else c
      | .resize .. => c }

/-- What a failed quad's slots have in flight is lost (R229, R293, R356), and its vector queues and pending writes (R155); a drain
goes on with what it has sent. -/
def State.loseFlights (s : State) (qi : Nat) : State :=
  let drained (f : Flight) : Bool := (s.quad qi).drain.any fun d => decide (d.sent = some f.id)
  let mine := s.flights.filter fun f => decide (quadOf f.thr = qi) && !drained f
  let ids := mine.map fun f => f.id
  let s1 := mine.foldl (fun t f => if s.flights.any (fun g => decide (g.pkt = f.pkt) && !ids.contains g.id) then t else t.dropPacket f.pkt) s
  let s2 : State := { s1 with
    flights := s1.flights.filter fun f => !ids.contains f.id
    groups := s1.groups.filter fun g => decide (quadOf g.thr ≠ qi)
    redHolds := s1.redHolds.map fun h => { h with flights := h.flights.filter fun i => !ids.contains i }
    wordQueue := s1.wordQueue.filter fun w => match w.slot with
      | some tk => decide (quadOf tk ≠ qi)
      | none => !ids.contains w.flight }
  (List.range 4).foldl (fun t c => t.updCore (qi * 4 + c) fun x => { x with vq := [], pend := [] }) s2

/-- A contribution is sent again by its leaf, uncombined, under the same RSN, as a bounced packet is: along the new map (R377). -/
def State.resendRed (s : State) (id : Nat) : State :=
  match s.flights.find? fun f => decide (f.id = id) with
  | none => s
  | some f => match f.stage with
    | .net q =>
      let s1 := (s.dropPacket f.pkt).takeId
      let p : Packet := { id := s.ids, src := quadOf f.thr, dst := q, pid := f.pid, p := s.pAt q f.pid, epoch := s.panel.epoch, bounced := true }
      { s1 with packets := s1.packets ++ [p]
                flights := s1.flights.map fun g => if g.id = id then { g with pkt := some s.ids, alone := true, comb := none } else g }
    | _ => { s with flights := s.flights.map fun g => if g.id = id then { g with alone := true, comb := none } else g }

/-- The partial values that a failing router holds are discarded (R377). -/
def State.failHolds (s : State) (qi : Nat) : State :=
  (s.redHolds.filter fun h => decide (h.router = qi)).foldl (fun t h => h.flights.foldl (fun u i => u.resendRed i) t)
    { s with redHolds := s.redHolds.filter fun h => decide (h.router ≠ qi) }

/-- Streams whose path passes a router that has died carry nothing beyond it (R331): the partition hears of it (R333). -/
def State.deadStreams (s : State) (qi : Nat) : State :=
  s.parts.foldl (fun t p => p.2.streams.foldl (fun u x =>
    if x.hops.any fun h => decide (h.1 / 4 = qi) then u.shortfall p.1 x (qi * 4) 0 else u) t) s

/-- A memory-only quad is retired further (R375): its alias entries go, the codes become 1 (R28), and what a substitute has not
yet taken from it is gone (R374). -/
def State.retireFurther (s : State) (qi : Nat) (st : QuadSt) : State :=
  let alias_ (p : Part) (e : Nat × Nat) : Bool := decide (e.2 = qi + 1 ∧ FMap.get 0 p.defect e.1 = 2)
  let part (p : Part) : Part := { p with
    defect := (p.aliases.filter (alias_ p)).foldl (fun m e => FMap.set 0 m e.1 1) p.defect
    aliases := p.aliases.filter fun e => decide (e.2 ≠ qi + 1) }
  { (s.updQuad qi fun q => { q with st, former := [] }) with
    parts := s.parts.map fun p => (p.1, part p.2)
    quads := (s.updQuad qi fun q => { q with st, former := [] }).quads.map fun q =>
      (q.1, match q.2.fill with
        | some f => if f.src = qi then { q.2 with fill := none } else q.2
        | none => q.2) }

/-- The launch records of a partition that a quad's tasks and entries name, when its task area is lost (R316). -/
def State.lostRecords (s : State) (qi pid : Nat) : List Word :=
  let bound := if s.runs pid (qi * 32) then (List.range 32).filterMap fun n =>
      let x := s.slot (qi * 32 + n)
      if decide (x.st ≠ .free) && x.optimistic then x.task.handle else none
    else []
  let queued := ((s.quad qi).lists.filter fun l => decide (l.1 / 4 = pid)).flatMap fun l => l.2.map fun e => e.handle
  (bound ++ queued).foldl (fun l h => if l.contains h then l else l ++ [h]) []

/-- The messages of KIND 0x12 and 0x42 of a containment, to each partition that the quad holds (R316, R359, R371, R373): the slots of
the running one that are lost, and the records that each loses. -/
def State.containMsgs (s : State) (qi det : Nat) (survives : Bool) : State :=
  (s.quad qi).ctxs.foldl (fun u c =>
    let lost := if s.runs c.pid (qi * 32) then s.lostSlots qi survives else []
    let m : Svc := { kind := 0x12, w3 := word (c.p + det * 2 ^ 11), w4 := bitmap lost }
    let u1 := match if survives then [] else s.lostRecords qi c.pid with
      | [] => u.service c.pid m
      | hs => hs.foldl (fun t h => t.service c.pid { m with w2 := h }) u
    if lost = [] then u1 else u1.service c.pid { kind := 0x42, w3 := word c.p, w4 := bitmap lost }) s

/-- Containment begins (R373): injection stops, what the quad has in flight is lost, a retire entry of the failed unit is
appended (R363), the event goes to the service core, a spare is taken (R25), and the new map is installed for its switch
time. The state that the failed quad takes follows from what failed (R27, R373 step 8): a core leaves the quad
memory-only; a router leaves it dead, also one contained before; one retired before stays what it is. -/
def State.contain (s : State) (qi det core : Nat) : State :=
  let q := s.quad qi
  let dead := decide (det = 3)
  let ent : LogEnt := { qi, unit := if dead then 5 else core, retire := true, time := s.time0 }
  let s0 := (if dead then s.failHolds qi else s).updPanel fun p => { p with log := p.log ++ [ent] }
  if q.contained then (if dead then ((s0.retireFurther qi .dead).deadStreams qi).regrade (regionOf qi) else s0)
  else
    let st : QuadSt := if dead then .dead else if q.st = .healthy then .memoryOnly else q.st
    let s1 := s0.updQuad qi fun q => { q with contained := true, st }
    let s2 := (s1.containMsgs qi det (!dead)).loseFlights qi
    let s2 := if dead then s2.deadStreams qi else s2
    let s3 : State := match s.logicalOf qi with
      | none => s2.respare qi
      | some l =>
        let spare := (nearest (pxOf qi) (s2.spares (pyOf qi))).map fun px => pyOf qi * 72 + px
        { s2 with changes := s2.changes ++ [{ time := s2.switchTime, op := .contain qi l spare }] }
    s3.regrade (regionOf qi)

end Sys2Proof.Machine
end

