-- ==== Sys2Proof/Machine/Ops.lean ====
section
/-! DEFINITION. The operations that the meanings share: register writes in their cycle (R84 to R86, R89), ports
(R90), allowances and the rip (R309 to R315), launch records (R296, R298, R299), transaction barriers (R261, R263),
spill images (R99), taking and returning from a trap (R96 to R98, R107), and the issue of a head. -/

namespace Sys2Proof.Machine

/-! ## Register writes in their cycle (R84, R85) -/

/-- A write on its way: performed `lat` cycles after the present one. A head later than the slot's next is kept
from the register meanwhile (R85). -/
def State.pendWrite (s : State) (tk r lat : Nat) (v : Word) : State :=
  let s1 := s.updCore (coreOf tk) fun c =>
    { c with pend := c.pend ++ [{ due := c.cycle + lat, slot := slotNo tk, pc := (s.slot tk).pc, op := .reg r, val := v }] }
  if 3 < lat then s1.updSlot tk fun x => { x with busy := x.busy ++ [r] } else s1

/-- The write of a head's scalar result: private registers at once when no later head of the slot can see the
difference, shared registers and ports in their cycle. -/
def State.writeReg (s : State) (tk : Nat) (r : Reg) (v : Word) (lat : Nat) : State :=
  if r.toNat = 0 then s
  else if r.toNat < 32 ∧ lat = 3 then s.setT tk r.toNat v
  else s.pendWrite tk r.toNat lat v

/-- A head's effect `lat` cycles after its issue. -/
def State.pendAt (s : State) (op : PendOp) (v : Word) (lat : Nat) : State :=
  s.updMyCore fun c => { c with pend := c.pend ++ [{ due := c.cycle + lat, slot := slotNo s.cur, pc := s.me.pc, op, val := v, born := s.ids }] }

/-- A head's effect in its write cycle, k + 3 (R84). -/
def State.pendOp (s : State) (op : PendOp) (v : Word) : State := s.pendAt op v 3

/-- A result from another unit arrives (R84): it is written in the present cycle of the slot's core, and not before a given
one. -/
def State.arrive (s : State) (tk : Nat) (op : PendOp) (v pc : Word) (due : Nat) : State :=
  s.updCore (coreOf tk) fun c => { c with pend := c.pend ++ [{ due := Nat.max c.cycle due, slot := slotNo tk, pc, op, val := v }] }

/-- A scalar result from another unit arrives; t0 takes none. -/
def State.arriveReg (s : State) (tk r : Nat) (v : Word) (pc : Word := 0) (due : Nat := 0) : State :=
  if r = 0 then s else s.arrive tk (.reg r) v pc due

/-- A register whose result comes later is kept busy until it arrives (R84, R85). -/
def State.markBusy (s : State) (tk r : Nat) : State :=
  if r = 0 then s else s.updSlot tk fun x => { x with busy := x.busy ++ [r] }

/-- The slot's write to a register is no longer pending: one entry goes. -/
def unbusy (r : Nat) : List Nat → List Nat
  | [] => []
  | a :: rest => if a = r then rest else a :: unbusy r rest

/-! ## Ports (R89, R90) -/

/-- A queue of a core (R89). -/
def Core.queue (c : Core) (n : Nat) : Queue := FMap.get {} c.q n
def Core.setQueue (c : Core) (n : Nat) (q : Queue) : Core := { c with q := FMap.set {} c.q n q }

/-- Port misuse (R90): EINFO for the port field value and the reason. -/
def misuse (r reason : Nat) : Word := word (r + reason * 256)

/-- Why a slot may not read a port: the wrong direction, the wrong slot, an unbound queue (R90). -/
def readMisuse (c : Core) (slot r : Nat) : Option Word :=
  if r < 56 then none
  else if r < 60 then
    match (c.queue (r - 56)).bound with
    | none => some (misuse r 2)
    | some (_, rd) => if rd = slot then none else some (misuse r 1)
  else if r = 63 then some (misuse r 0) else none

/-- Why a slot may not write a port (R90). -/
def writeMisuse (c : Core) (slot r : Nat) : Option Word :=
  if r < 56 then none
  else if r < 60 then
    match (c.queue (r - 56)).bound with
    | none => some (misuse r 2)
    | some (wr, _) => if wr = slot then none else some (misuse r 1)
  else if r = 61 ∨ r = 62 then some (misuse r 0) else none

/-- The entry a read of a port would pop, none when it is empty (R89). -/
def portHead (c : Core) (r : Nat) : Option Word :=
  if r < 60 then (c.queue (r - 56)).ents.head?
  else if r = 60 then c.c28r.head?
  else if r = 61 then c.c29.head?
  else (c.rxq.head?).map fun m => m.hdr

/-- The core without the entry that a read of a port pops. -/
def portPop (c : Core) (r : Nat) : Core :=
  if r < 60 then c.setQueue (r - 56) { c.queue (r - 56) with ents := (c.queue (r - 56)).ents.tail }
  else if r = 60 then { c with c28r := c.c28r.tail }
  else if r = 61 then { c with c29 := c.c29.tail }
  else { c with rxq := c.rxq.tail }

/-- Stream commands of a core that have not joined: the 8 entries of c28's write side (R172). -/
def Core.commands (c : Core) : Nat :=
  (c.slice.ops.filter fun o => match o with
    | .gang _ _ false _ _ => true
    | _ => false).length

/-- A push into a port, none when it is full (R89): c24–c27 of 8 entries, c28 of 8 stream commands (R172), c31
of 8 send blocks (R349). A push into c28 counts in TLC (R178). -/
def State.pushPort (s : State) (ck slot r : Nat) (v pc : Word) : Option State :=
  let c := s.core ck
  if r < 60 then
    let q := c.queue (r - 56)
    if q.ents.length < 8 then some (s.setCore ck (c.setQueue (r - 56) { q with ents := q.ents ++ [v] })) else none
  else if r = 60 then
    if c.commands < 8 ∧ (s.slot (ck * 8 + slot)).cnt.tlc < 15 then
      some ((s.takeId.setCore ck { c with slice := { c.slice with ops := c.slice.ops ++ [.gang s.ids slot false v pc] } }).updSlot
        (ck * 8 + slot) fun x => { x with cnt := { x.cnt with tlc := x.cnt.tlc + 1 } })
    else none
  else if c.c31.length < 8 then some (s.setCore ck { c with c31 := c.c31 ++ [(slot, v, pc)] })
  else none

/-- The pushes that a slot holds, oldest first: port, value, PC (R89). -/
def Slot.pushes (x : Slot) : List (Nat × Word × Word) :=
  match x.push with
  | none => []
  | some p => (p.1, p.2, x.pushPc) :: x.pushMore

/-- The slot with the pushes that it holds. -/
def Slot.withPushes (x : Slot) : List (Nat × Word × Word) → Slot
  | [] => { x with push := none, pushMore := [] }
  | (r, v, pc) :: rest => { x with push := some (r, v), pushPc := pc, pushMore := rest }

/-- The slot cannot push: it is held, or stays with the spill engine, with the push behind those it already holds (R89,
R100). -/
def Slot.hold (x : Slot) (r : Nat) (v pc : Word) : Slot :=
  let st := if x.st = .moving then .moving else .held
  match x.push with
  | none => { x with st, push := some (r, v), pushPc := pc }
  | some _ => { x with st, pushMore := x.pushMore ++ [(r, v, pc)] }

/-- A push in its write cycle: into a full port, or behind a held push to it, it makes the slot held (R89). -/
def State.pushOrHold (s : State) (ck slot r : Nat) (v pc : Word) : State :=
  let behind := (s.slot (ck * 8 + slot)).pushes.any fun p => decide (p.1 = r)
  match if behind then none else s.pushPort ck slot r v pc with
  | some s1 => s1
  | none => s.updSlot (ck * 8 + slot) fun x => x.hold r v pc

/-- The spill engine has begun to write the slot's image (R100). -/
def State.moveBegun (s : State) (tk : Nat) : Bool := s.moves.any fun m => decide (m.thr = tk) && m.started

/-- Held pushes of a slot have been performed, and others wait: with none left a held slot is ready (R89). -/
def Slot.pushed (x : Slot) (left : List (Nat × Word × Word)) : Slot :=
  { x.withPushes left with waited := 0, wdFired := false, st := if left.isEmpty && decide (x.st = .held) then .ready else x.st }

/-- The held pushes of a slot are tried, oldest first, each at its own port and behind those to the same port (R89): what is left,
with the state after those performed. -/
def State.tryPushes (s : State) (tk : Nat) : List (Nat × Word × Word) → List (Nat × Word × Word) → State × List (Nat × Word × Word)
  | [], kept => (s, kept)
  | p :: ps, kept =>
    match if kept.any (fun q => decide (q.1 = p.1)) then none else s.pushPort (coreOf tk) (slotNo tk) p.1 p.2.1 p.2.2 with
    | some t => t.tryPushes tk ps kept
    | none => s.tryPushes tk ps (kept ++ [p])

/-- A held slot retries its pushes (R89); a slot that waits for the spill engine does so too, until its image is begun (R100). -/
def State.retryPush (s : State) (tk : Nat) : State :=
  let x := s.slot tk
  if decide (x.st = .held) || (decide (x.st = .moving) && !s.moveBegun tk) then
    let r := s.tryPushes tk x.pushes []
    if r.2 = x.pushes then s else r.1.updSlot tk fun y => y.pushed r.2
  else s

/-- One register write in its cycle (R84 to R86). -/
def State.landReg (s : State) (tk r : Nat) (v pc : Word) : State :=
  let s1 := s.updSlot tk fun x => { x with busy := unbusy r x.busy }
  if r < 32 then s1.setT tk r v
  else if r < 56 then s1.setC (coreOf tk) (r - 32) v
  else s1.pushOrHold (coreOf tk) (slotNo tk) r v pc

/-! ## Launch headers and records (R295, R296, R298, R299) -/

def hdrWord (h : List Word) (n : Nat) : Word := h.getD n 0
def hdrNf (h : List Word) : Nat := fld (hdrWord h 3) 32 3
/-- The descriptor of field n (R296). -/
def hdrDesc (h : List Word) (n : Nat) : Nat :=
  if n < 4 then fld (hdrWord h 2) (16 * n) 16 else fld (hdrWord h 3) (16 * (n - 4)) 16
def hdrWidth (h : List Word) (n : Nat) : Nat := hdrDesc h n / 512
def hdrOrd (h : List Word) (n : Nat) : Nat := hdrDesc h n / 64 % 8
/-- The minimum grain G(n) (R296). -/
def hdrGrain (h : List Word) (n : Nat) : Nat := 2 ^ (hdrDesc h n % 64)
/-- L(n): the widths of the fields after n (R295). -/
def hdrLow (h : List Word) (n : Nat) : Nat :=
  ((List.range (hdrNf h)).map fun j => if n < j then hdrWidth h j else 0).sum
/-- ext(n) (R295, R296). -/
def hdrExt (h : List Word) (n : Nat) : Nat := bitsAt (hdrWord h 1).toNat (hdrLow h n) (hdrWidth h n) + 1
/-- A point of the domain packed as a work identifier (R295). -/
def hdrPack (h : List Word) (org : List Nat) : Word :=
  word ((List.range (hdrNf h)).map fun n => org.getD n 0 * 2 ^ hdrLow h n).sum
/-- Field n of a work identifier. -/
def hdrField (h : List Word) (w : Word) (n : Nat) : Nat := bitsAt w.toNat (hdrLow h n) (hdrWidth h n)
def hdrPin (h : List Word) : Bool := (hdrWord h 3).getLsbD 35

/-- The quad and the key of a launch record, by its handle (R298). -/
def State.recOf (s : State) (pid : Nat) (handle : Word) : Option (Nat × Nat) :=
  (s.physQuad pid (fld handle 16 11)).map fun qi => (qi, pid * 256 + fld handle 0 8)

def State.launchRec (s : State) (pid : Nat) (handle : Word) : LaunchRec :=
  match s.recOf pid handle with
  | none => {}
  | some (qi, k) => FMap.get {} (s.quad qi).recs k

/-- The header copy of a slot's task; without a record it has no fields (R398). -/
def State.taskHdr (s : State) (tk : Nat) : List Word :=
  match (s.slot tk).task.handle with
  | none => []
  | some h => (s.launchRec (s.pidOf tk) h).hdr

/-- The splittable field with the lowest ORD (R314). -/
def splitField (h : List Word) (p : Piece) : Option Nat :=
  let can := (List.range (hdrNf h)).filter fun n =>
    decide (hdrOrd h n ≠ 0) && decide (hdrGrain h n < p.cnt.getD n 0)
  can.foldl (fun b n => match b with
    | none => some n
    | some m => if hdrOrd h n < hdrOrd h m then some n else some m) none

/-- The cut of a piece in field n (R314). -/
def cutPiece (h : List Word) (p : Piece) (n : Nat) : Piece × Piece :=
  let k := p.cnt.getD n 0
  let g := hdrGrain h n
  let u := (k + g - 1) / g
  let klo := Nat.min k (g * ((u + 1) / 2))
  ({ p with cnt := p.cnt.set n klo }, { org := p.org.set n (p.org.getD n 0 + klo), cnt := p.cnt.set n (k - klo) })

/-! ## Transaction barriers (R261, R263) -/

/-- The fields of a transaction barrier; `rest` holds bits [127:94]. -/
structure Tb where
  phase : Nat
  parr : Nat
  exparr : Nat
  pbytes : Nat
  ovf : Bool
  init : Bool
  rest : Nat
  deriving DecidableEq, Repr

def Tb.ofNat (v : Nat) : Tb :=
  { phase := bitsAt v 0 4, parr := bitsAt v 4 20, exparr := bitsAt v 24 20, pbytes := bitsAt v 44 48
    ovf := decide (bitsAt v 92 1 = 1), init := decide (bitsAt v 93 1 = 1), rest := bitsAt v 94 34 }

def Tb.toNat (t : Tb) : Nat :=
  t.phase + t.parr * 2 ^ 4 + t.exparr * 2 ^ 24 + t.pbytes * 2 ^ 44 + bit t.ovf * 2 ^ 92 + bit t.init * 2 ^ 93
    + t.rest * 2 ^ 94

/-- advance (R263). -/
def Tb.advance (t : Tb) : Tb :=
  if t.parr = 0 ∧ t.pbytes = 0 then { t with phase := (t.phase + 1) % 16, parr := t.exparr } else t

def State.tb (s : State) (k : Nat) : Tb := Tb.ofNat (s.rd k 16)
def State.setTb (s : State) (k : Nat) (t : Tb) : State := s.wr k 16 t.toNat

/-- One arrival (TBARR, R263): none when PARR is 0, the overflow of R265. -/
def Tb.arrive (t : Tb) : Option Tb := if t.parr = 0 then none else some { t with parr := t.parr - 1 }.advance

/-- A launch's completion arrival on COMPL (R299); with PARR 0 it sets OVF and is reported (R265, case 4). -/
def State.complArrive (s : State) (pid : Nat) (compl handle : Word) : State :=
  if compl = 0 then s else
  match s.shareKey pid (fld compl 44 11) (fld compl 0 24) with
  | none => s
  | some k =>
    match (s.tb k).arrive with
    | some t => s.setTb k t
    | none => (s.setTb k { s.tb k with ovf := true }).service pid
        { kind := 0x0E, info := setFld compl 0 4 4, w2 := handle }

/-- The record at a handle changed. -/
def State.updRec (s : State) (pid : Nat) (handle : Word) (f : LaunchRec → LaunchRec) : State :=
  match s.recOf pid handle with
  | none => s
  | some (qi, k) => s.updQuad qi fun q => { q with recs := FMap.set {} q.recs k (f (FMap.get {} q.recs k)) }

/-- A piece has finished (R299): the last one arrives on COMPL and frees the record. -/
def State.pieceDone (s : State) (pid : Nat) (handle : Option Word) (failed : Bool) : State :=
  match handle with
  | none => s
  | some h =>
    let r := s.launchRec pid h
    if r.unfinished ≤ 1 then
      (s.complArrive pid (hdrWord r.hdr 7) h).updRec pid h fun _ => {}
    else s.updRec pid h fun r => { r with unfinished := r.unfinished - 1, failed := r.failed + bit failed }

/-! ## Slots becoming free -/

/-- R82: when every slot of the core is free, P is 0. -/
def State.resetRotation (s : State) (ck : Nat) : State :=
  if (List.range 8).all fun n => decide ((s.slot (ck * 8 + n)).st = .free) then
    s.updCore ck fun c => { c with rot := 0 }
  else s

/-- The slot becomes free: STATUS is 0, its task is gone, and later fault replies bear another tag (R213). -/
def State.freeSlot (s : State) (tk : Nat) : State :=
  (s.updSlot tk fun x => { x with
    st := .free, op := .none, push := none, pushMore := [], async := [], task := {}, waited := 0, wdFired := false
    faultTag := x.faultTag + 1, sr := { x.sr with status := 0 } }).resetRotation (coreOf tk)

/-- The allotment returns to the quad (R304). -/
def State.returnAllot (s : State) (tk : Nat) : State :=
  match (s.slot tk).task.allot with
  | none => s
  | some (b, n) => s.updQuad (quadOf tk) fun q => { q with allots := q.allots.filter fun a => decide (a ≠ (s.pidOf tk, b, n)) }

/-- A count of the slot ends (R218): 0 LDC, 1–4 STC.S, H, P, X, 5 CPC, 6 TLC. -/
def Counts.dec (c : Counts) (ctr : Nat) : Counts :=
  match ctr with
  | 0 => { c with ldc := c.ldc - 1 }
  | 1 => { c with stcS := c.stcS - 1 }
  | 2 => { c with stcH := c.stcH - 1 }
  | 3 => { c with stcP := c.stcP - 1 }
  | 4 => { c with stcX := c.stcX - 1 }
  | 5 => { c with cpc := c.cpc - 1 }
  | 6 => { c with tlc := c.tlc - 1 }
  | _ => c

def Counts.inc (c : Counts) (ctr : Nat) : Counts :=
  match ctr with
  | 0 => { c with ldc := c.ldc + 1 }
  | 1 => { c with stcS := c.stcS + 1 }
  | 2 => { c with stcH := c.stcH + 1 }
  | 3 => { c with stcP := c.stcP + 1 }
  | 4 => { c with stcX := c.stcX + 1 }
  | 5 => { c with cpc := c.cpc + 1 }
  | 6 => { c with tlc := c.tlc + 1 }
  | _ => c

/-- A counter's value and its largest value (R218). -/
def Counts.val (c : Counts) (ctr : Nat) : Nat :=
  match ctr with
  | 0 => c.ldc | 1 => c.stcS | 2 => c.stcH | 3 => c.stcP | 4 => c.stcX | 5 => c.cpc | 6 => c.tlc | _ => 0
def ctrMax (ctr : Nat) : Nat :=
  match ctr with
  | 0 => 63 | 1 => 255 | 2 => 255 | 3 => 255 | 4 => 255 | 5 => 63 | 6 => 15 | _ => 1

def State.endCount (s : State) (tk ctr : Nat) : State := s.updSlot tk fun x => x.updCnt fun c => c.dec ctr
def State.addCount (s : State) (tk ctr : Nat) : State := s.updSlot tk fun x => x.updCnt fun c => c.inc ctr

/-- An asynchronous cause waits at a slot (R97); a free slot takes none. -/
def State.postAsync (s : State) (tk cause : Nat) (info : Word) : State :=
  s.updSlot tk fun x => if x.st = .free then x else { x with async := x.async ++ [{ code := BitVec.ofNat 8 cause, info }] }

/-- A group has had a part end; its last part ends the access (R153). -/
def State.endGroup (s : State) (gid : Nat) : State :=
  match s.groups.find? fun g => decide (g.id = gid) with
  | none => s
  | some g =>
    if 1 < g.left then { s with groups := s.groups.map fun x => if x.id = gid then { x with left := x.left - 1 } else x }
    else
      let s1 : State := { s with groups := s.groups.filter fun x => decide (x.id ≠ gid) }
      let s2 := s1.endCount g.thr g.ctr
      let s3 := match g.denied with
        | [] => s2
        | d :: ds => s2.postAsync g.thr 0x07 (ds.foldl (fun b e => if e.1 < b.1 then e else b) d).2
      match g.reg with
      | none => s3
      | some r =>
        if g.denied = [] ∧ !g.failed then s3.arrive g.thr (.vec r g.val g.keep) 0 g.pc g.due
        else s3.updSlot g.thr fun x => { x with busy := unbusy (64 + r) x.busy }

/-- An access that has been performed (or has ended): only its response is still to come. -/
def Stage.performed : Stage → Bool
  | .resp _ | .ack | .denied => true
  | _ => false

def Stage.faulted : Stage → Bool
  | .fault _ | .s2 _ => true
  | _ => false

/-- The result of an access is dropped on its return; a part of a vector access still ends with its group (R313). -/
def Ret.dropped : Ret → Ret
  | .vec g l => .vec g l
  | .sector g a b => .sector g a b
  | .fill c p => .fill c p
  | .copy c i n w => .copy c i n w
  | _ => .none

/-- The accesses of a ripped slot (R213, R229, R313): pending faults are abandoned and their counts cleared; loads
in flight will be dropped on return. -/
def State.ripFlights (s : State) (tk : Nat) : State :=
  let gone := s.flights.filter fun f => decide (f.thr = tk) && f.stage.faulted
  let s1 : State := { s with
    flights := (s.flights.filter fun f => !(decide (f.thr = tk) && f.stage.faulted)).map fun f =>
      if f.thr = tk then { f with ret := f.ret.dropped } else f
    groups := s.groups.map fun g => if g.thr = tk then { g with reg := none, denied := [] } else g }
  gone.foldl (fun t f =>
    let u := t.endCount tk f.ctr
    match f.ret with
    | .vec g _ | .sector g _ _ => u.endGroup g
    | _ => u) s1

/-- Copies of a slot still in its core's FIFO are cancelled (R341). -/
def Core.cancelCopies (c : Core) (slot : Nat) : Core :=
  { c with fifo := c.fifo.map fun k => if k.slot = slot then { k with cancelled := true, status := 4 } else k }

/-- An unjoined GANG of a slot leaves the sequence (R189). -/
def withdrawHead (slot : Nat) (ops : List SliceOp) : List SliceOp :=
  ops.filter fun o => match o with
    | .gang _ sl true _ _ => decide (sl ≠ slot)
    | _ => true

/-- Unjoined stream commands that a slot pushed: they count in its TLC (R178). -/
def streamCommands (slot : Nat) (ops : List SliceOp) : Nat :=
  (ops.filter fun o => match o with
    | .gang _ sl false _ _ => decide (sl = slot)
    | _ => false).length

/-- A rip's effect on a slice's order (R313): an unjoined GANG, and an MREAD whose result would be dropped, are withdrawn;
stream commands stay and leave the slot's TLC (R189): their pusher is named 8 higher. -/
def withdrawGang (slot : Nat) (ops : List SliceOp) : List SliceOp :=
  ((withdrawHead slot ops).filter fun o => match o with
    | .mread sl _ _ => decide (sl ≠ slot)
    | _ => true).map fun o => match o with
    | .gang id sl false a pc => .gang id (if sl = slot then sl + 8 else sl) false a pc
    | x => x

/-- Inserts entries at the head of a priority list of a quad's context (R302, R313). -/
def State.pushEntries (s : State) (qi pid prio : Nat) (es : List Entry) : State :=
  let now := (s.region (regionOf qi)).cycle
  let new := es.map fun (e : Entry) => { e with since := now }
  s.updQuad qi fun q => { q with lists := FMap.set [] q.lists (pid * 4 + prio) (new ++ FMap.get [] q.lists (pid * 4 + prio)) }

/-- A local store on its way to its write cycle: a rip leaves it (R229, R313). -/
def PendOp.stores : PendOp → Bool
  | .store _ _ | .feinit _ _ => true
  | _ => false

/-- The write of a load that hit L1: it ends the load's count (R218). -/
def PendOp.hits : PendOp → Bool
  | .hit _ => true
  | _ => false

/-- The instruction's completion cycle has come, every beat having ended (R120). -/
def VEntry.completes (e : VEntry) (cycle : Nat) : Bool := e.left.isEmpty && decide (e.ends + e.lat ≤ cycle)

/-- A vector-unit result that no scalar register takes: a rip cancels the others with the pending scalar writes (R155, R313). -/
def VDest.wide : VDest → Bool
  | .scal _ _ => false
  | .vec _ _ _ | .mask _ _ => true

/-- A pending write that a rip leaves: a local store, or a vector-unit result whose completion cycle is the present one (R155). -/
def Pend.survivesRip (p : Pend) (cycle : Nat) : Bool :=
  p.op.stores || (match p.op with
    | .unit dest _ => dest.wide && decide (p.due ≤ cycle)
    | _ => false)

/-- The rip of a slot up to its becoming free, entries aside (R313). -/
def State.ripSlot (s : State) (tk : Nat) : State :=
  let sl := slotNo tk
  let s1 := (s.returnAllot tk).updCore (coreOf tk) fun c =>
    { c.cancelCopies sl with
      pend := c.pend.filter fun p => decide (p.slot ≠ sl) || p.survivesRip c.cycle
      vq := c.vq.filter fun e => decide (e.slot ≠ sl) || (e.dest.wide && e.completes c.cycle)
      slice := { c.slice with ops := withdrawGang sl c.slice.ops } }
  let lost := streamCommands sl (s.core (coreOf tk)).slice.ops
  let hits := ((s.core (coreOf tk)).pend.filter fun p => decide (p.slot = sl) && p.op.hits).length
  let s2 := s1.updSlot tk fun x => { x with busy := [], cnt := { x.cnt with tlc := x.cnt.tlc - lost, ldc := x.cnt.ldc - hits } }
  (s2.ripFlights tk).freeSlot tk

/-- The rip (R313); a slot without a launch record re-enters nothing (R398). -/
def State.rip (s : State) (tk : Nat) (split : Bool) : State :=
  let x := s.slot tk
  let pid := s.pidOf tk
  let h := s.taskHdr tk
  let s1 := s.ripSlot tk
  match x.task.handle with
  | none => s1
  | some hd =>
    match if split then splitField h x.task.piece else none with
    | some n =>
      let c := cutPiece h x.task.piece n
      (s1.pushEntries (quadOf tk) pid x.task.prio [{ handle := hd, piece := c.1 }, { handle := hd, piece := c.2 }]).updRec
        pid hd fun r => { r with unfinished := r.unfinished + 1 }
    | none => s1.pushEntries (quadOf tk) pid x.task.prio [{ handle := hd, piece := x.task.piece }]

/-- The smallest-grain fault (R315): allowance 0 registers, 1 scratchpad, 2 cycles, 3 effects. -/
def State.smallestGrain (s : State) (tk allowance : Nat) : State :=
  let x := s.slot tk
  let pid := s.pidOf tk
  let h := s.taskHdr tk
  let m : Svc := { kind := 0x09, thread := s.relThread tk, info := word allowance, w2 := x.task.handle.getD 0
                   w4 := hdrPack h x.task.piece.org, w5 := hdrPack h (x.task.piece.cnt.map fun k => k - 1) }
  ((s.ripSlot tk).service pid m).pieceDone pid x.task.handle true

/-- Can the slot's piece be split (R314). -/
def State.splittable (s : State) (tk : Nat) : Bool := (splitField (s.taskHdr tk) (s.slot tk).task.piece).isSome

/-! ## Spill images (R99) -/

/-- The task binding of an image: the launch record's handle with bit 63, 0 for a task without one (R99, R398). -/
def bindingWord (h : Option Word) : Word :=
  match h with
  | none => 0
  | some w => w ||| (1#64 <<< 63)
def bindingOf (w : Word) : Option Word := if w.getLsbD 63 then some (w &&& ~~~(1#64 <<< 63)) else none

def words (ws : List Word) : List Byte := ws.flatMap fun w => leBytes 8 w.toNat

/-- BASTESEQ (R368). -/
def SysRegs.basteseq (r : SysRegs) : Word := word (r.basteCount.toNat * 2 ^ 48 + r.basteSeq.toNat)

/-- The spill image of a slot, as a thread of a partition, with a given PC field (R99). -/
def Slot.image (x : Slot) (thread pid : Nat) (pc : Word) : List Byte :=
  let r := x.sr
  let guard (n : Nat) : Word := word (fld (FMap.get 0 r.guardBase n) 0 32 + fld (FMap.get 0 r.guardLim n) 0 32 * 2 ^ 32)
  let hb := setFld (setFld (setFld (setFld x.hbAddr 0 6 0) 2 1 (bit x.hbWaiting)) 1 1 (bit x.hbPending)) 0 1 (bit x.wake)
  let push := x.push.getD (0, 0)
  words ([pc] ++ (List.range 31).map (fun n => FMap.get 0 x.t (n + 1)) ++ [r.status]
    ++ (List.range 7).map (fun n => FMap.get 0 x.m (n + 1)) ++ (List.range 8).map guard
    ++ [r.tvec, r.epc, r.ecause, r.einfo, r.estatus, r.allow, r.regallot, r.spallot, hb,
        word (r.rngseed.toNat + push.1 * 2 ^ 32 + bit x.push.isSome * 2 ^ 38), r.bastecfg, r.basteseq, x.task.wid, push.2,
        bindingWord x.task.handle, word (thread + pid * 2 ^ 16)])
    ++ (List.range 16).flatMap (fun n => leBytes 256 (FMap.get 0 x.v n).toNat)

/-- The spill image of a slot where it runs. -/
def State.image (s : State) (tk : Nat) (pc : Word) : List Byte := (s.slot tk).image (s.relThread tk) (s.pidOf tk) pc

/-- Word n of an image at a key. -/
def State.imgWord (s : State) (k n : Nat) : Word := s.rd8 (k + 8 * n)

/-- BASTECFG without its reserved bits; in a partition without a guarding quad EN stays 0 (R368). -/
def basteWord (w : Word) (guarded : Bool) : Word := if guarded then w &&& 0x80FFFFFFFFFFF000#64 else w &&& 0x00FFFFFFFFFFF000#64

/-- The slot that an image gives (R99, R100, R391): ready at the image PC, or held with the push to retry first. The piece
of its task is the tile its work identifier names. Reserved bits of its registers stay zero (R7, R94, R194, R309, R368). An odd PC is
kept as it stands (R41; the model's choice, log entry 150). -/
def State.slotOfImage (s : State) (k : Nat) (old : Slot) (hdr : List Word) (guarded : Bool) : Slot :=
  let w := s.imgWord k
  let held := fld (w 57) 38 1 = 1
  let kind := fld (w 32) 4 2
  let cfg := basteWord (w 58) guarded
  let bst := decide (fld cfg 63 1 = 1) && (decide (kind = 2) || decide (kind = 3))
  let table (lo n : Nat) : FMap Word := (List.range n).foldl (fun m j => FMap.set 0 m (j + 1) (w (lo + j))) []
  let handle := bindingOf (w 62)
  let wid := w 60
  { old with
    st := if held then .held else .ready
    pc := w 0
    t := table 1 31
    m := table 33 7
    v := (List.range 16).foldl (fun m j => FMap.set 0 m j (BitVec.ofNat 2048 (s.rd (k + 0x200 + 256 * j) 256))) []
    sr := { tvec := w 48 &&& ~~~1#64, epc := w 49, ecause := w 50 &&& 0xFF#64, einfo := w 51, estatus := w 52
            status := setFld (w 32 &&& 0xF1#64) 6 1 (bit bst), allow := w 53 &&& 0x0001FFFFFFFFFFFF#64
            regallot := w 54 &&& 0x11F3F#64, spallot := w 55 &&& 0x01FFFFFFFFFFFFFF#64, rngseed := BitVec.ofNat 32 (fld (w 57) 0 32)
            guardBase := (List.range 8).foldl (fun m j => FMap.set 0 m j (word (fld (w (40 + j)) 0 32) &&& 0xF0FFFFE0#64)) []
            guardLim := (List.range 8).foldl (fun m j => FMap.set 0 m j (word (fld (w (40 + j)) 32 32) &&& 0x01FFFFE0#64)) []
            bastecfg := cfg, basteCount := BitVec.ofNat 16 (fld (w 59) 48 16), basteSeq := BitVec.ofNat 48 (fld (w 59) 0 48) }
    wake := decide (fld (w 56) 0 1 = 1)
    hbAddr := setFld (w 56) 0 6 0
    hbWaiting := decide (fld (w 56) 2 1 = 1)
    hbPending := decide (fld (w 56) 1 1 = 1)
    push := if held then some (fld (w 57) 32 6, w 61) else none
    pushPc := Config.freeWord s.free
    async := if fld (w 56) 2 1 = 1 then [{ code := 0x0F, info := setFld (w 56) 0 6 0 }] else []
    op := .none
    task := { handle, wid
              cycRaised := !(w 53).getLsbD 48 && decide (fld (w 53) 0 48 = 0)
              piece := { org := (List.range (hdrNf hdr)).map fun n => hdrField hdr wid n
                         cnt := List.replicate (hdrNf hdr) 1 }
              prio := fld (hdrWord hdr 3) 36 2
              allot := if handle = none then none else some (fld (w 55) 0 19, fld (w 55) 19 19 - fld (w 55) 0 19) } }

/-! ## Traps (R96 to R98, R107) -/

/-- A double trap (R98). A service-core slot halts and its core is contained (R372, detector 2); an optimistic task is
ripped without split; a pinned one is spilled to its save area. The service core hears of it. -/
def State.doubleTrap (s : State) (tk cause : Nat) (info epc : Word) : State :=
  let x := s.slot tk
  if x.kind = 3 then
    (s.updSlot tk fun y => { y with st := .halted }).contain (quadOf tk) 2 (tk / 8 % 4)
  else
    let m : Svc := { kind := cause, nested := true, thread := s.relThread tk, info, w2 := epc }
    let s1 := if x.optimistic then s.rip tk false
      else { s.updSlot tk fun y => { y with st := .moving, op := .none, pc := epc } with
             moves := s.moves ++ [{ thr := tk, issuer := none, addr := 0, restore := false, dbl := true }] }
    s1.service (s.pidOf tk) m

/-- STATUS with PL and EXL set (R96). -/
def enterStatus (w : Word) : Word := w ||| 0x81#64

/-- The slot is ready, unless the spill engine has it (R81). -/
def Slot.up (x : Slot) : SlotSt := if x.st = .moving then .moving else .ready

/-- Trap entry on a slot (R96). -/
def State.enterTrap (s : State) (tk cause : Nat) (info epc : Word) : State :=
  let x := s.slot tk
  if x.exl then s.doubleTrap tk cause info epc else
  s.setSlot tk { x with
    pc := x.sr.tvec, st := x.up, op := .none, waited := 0, wdFired := false
    sr := { x.sr with epc := epc, ecause := word cause, einfo := info, estatus := x.sr.status
                      status := enterStatus x.sr.status } }

/-- STATUS after ERET: PL and EXL of ESTATUS (R107). -/
def eretStatus (status estatus : Word) : Word := (status &&& ~~~0x81#64) ||| (estatus &&& 0x81#64)

/-- The return from a trap (R107): an odd EPC is for the caller to refuse. A handback whose trap was taken is no
longer pending once an ERET has left EXL at 0 (R342); a WRSR of STATUS and a nested trap leave it pending (the model's choice, log
entry 157). -/
def State.leaveTrap (s : State) (tk : Nat) : State :=
  s.updSlot tk fun x =>
    let st := eretStatus x.sr.status x.sr.estatus
    { x with pc := x.sr.epc, st := .ready, op := .none, waited := 0, wdFired := false
             hbPending := x.hbPending && (x.hbWaiting || st.getLsbD 7)
             sr := { x.sr with status := st } }

/-- A cause for a slot that goes by service message when the slot is free (R318, R349): KIND 0x41. -/
def State.postOrReport (s : State) (tk cause : Nat) (info pc : Word) : State :=
  if (s.slot tk).st = .free then
    s.service (s.pidOf tk) { kind := 0x41, thread := s.relThread tk, info, w2 := pc, w3 := word cause }
  else s.postAsync tk cause info

/-! ## Exhausted allowances (R91, R113, R309, R310, R312) -/

/-- An exhausted allowance: an optimistic task is ripped, or takes the smallest-grain fault; another takes 0x17. -/
def State.exhaust (s : State) (tk allowance : Nat) (info : Word) : State :=
  if (s.slot tk).optimistic then
    if s.splittable tk then s.rip tk true else s.smallestGrain tk allowance
  else s.enterTrap tk 0x17 info (s.slot tk).pc

/-- The data bytes of a held store: two elements of half a byte make one. -/
def dataBytes (bs : List WByte) : Nat := ((bs.map fun b => if b.2.2 = 0xFF#8 then 2 else 1).sum + 1) / 2

/-- Bytes of a held record (R310). -/
def Effect.bytes : Effect → Nat
  | .store _ bs => 16 + (dataBytes bs + 15) / 16 * 16
  | .red _ _ _ _ => 32
  | .push _ d => 16 + (d.length + 15) / 16 * 16
  | .close _ => 16
  | .msg _ _ d => 16 + (d.length + 15) / 16 * 16
  | .dec _ => 16
  | .spawn _ _ => 32

/-- EFFUSE.HELD (R309). -/
def Task.heldBytes (t : Task) : Nat := (t.held.map Effect.bytes).sum

/-! ## The issue of a head -/

/-- What a head does once it may issue. -/
inductive Act where
  /-- It raises a synchronous cause; nothing else changes. -/
  | trap (cause : Nat) (info : Word)
  /-- The same with an EINFO that the spec does not state: a free value. -/
  | trapFree (cause : Nat)
  /-- The same with EPC the next head (TRAP and BRK, R96). -/
  | trapNext (cause : Nat) (info : Word)
  /-- It does not issue. -/
  | block (w : Wait)
  /-- It is performed; the next head in sequence follows. -/
  | next (s : State)
  /-- It is performed; control goes to a PC. -/
  | goto (s : State) (pc : Word)
  /-- It has done its part, and the slot stands as given. -/
  | keep (s : State)
  /-- It exhausts an allowance (R312). -/
  | exhaust (allowance : Nat) (info : Word)

/-- The same with a change of the state that it leaves. -/
def Act.andThen (f : State → State) : Act → Act
  | .next s => .next (f s)
  | .goto s pc => .goto (f s) pc
  | .keep s => .keep (f s)
  | a => a

/-- The slot goes on at a PC. -/
def Slot.advance (x : Slot) (pc : Word) : Slot :=
  { x with pc := pc, st := x.up, op := .none, waited := 0, wdFired := false }

/-- The slot blocks at its head. -/
def State.blockMe (s : State) (w : Wait) : State := s.updMe fun x => { x with st := .blocked w }

/-- The state after a head, from the state before it. -/
def Act.run (s : State) : Act → State
  | .trap c info => s.enterTrap s.cur c info s.me.pc
  | .trapFree c => s.draw.enterTrap s.cur c (Config.freeWord s.free) s.me.pc
  | .trapNext c info => s.enterTrap s.cur c info s.me.nextPc
  | .block w => s.blockMe w
  | .next t => t.updMe fun x => x.advance x.nextPc
  | .goto t pc => t.updMe fun x => x.advance pc
  | .keep t => t
  | .exhaust k info => s.exhaust s.cur k info

/-- What a head names: the scalar registers it reads and writes, and every register by its number in `busy` (scalars
0–63, vectors 64–95, masks 96–103, RNGSEED 104); `sup` is the head of a supervisor-only major (R55). -/
structure Use where
  rd : List Reg := []
  wr : List Reg := []
  vs : List VReg := []
  ms : List MReg := []
  seed : Bool := false
  sup : Option Nat := none
  deriving DecidableEq, Repr

def Use.names (u : Use) : List Nat :=
  (u.rd ++ u.wr).map (fun r => r.toNat) ++ u.vs.map (fun v => v.toNat + 64) ++ u.ms.map (fun m => m.toNat + 96)
    ++ (if u.seed then [104] else [])

/-- TN, VN and CSH as they act (R94). -/
def SysRegs.tn (r : SysRegs) : Nat := let n := fld r.regallot 0 6; if n = 0 then 1 else if 32 < n then 32 else n
def SysRegs.vn (r : SysRegs) : Nat := let n := fld r.regallot 8 5; if 16 < n then 16 else n
def SysRegs.csh (r : SysRegs) : Bool := r.regallot.getLsbD 16

/-- A register outside the allotment, by its number (R91). -/
def SysRegs.outside (r : SysRegs) (n : Nat) : Bool :=
  if n < 32 then decide (r.tn ≤ n)
  else if n < 56 then !r.csh
  else if n < 64 then false
  else if n < 80 then decide (r.vn ≤ n - 64)
  else if n < 96 then !r.csh
  else false

/-- The first misuse of a port that the head reads or writes (R90). -/
def Use.misused (u : Use) (c : Core) (slot : Nat) : Option Word :=
  ((u.rd.filterMap fun r => readMisuse c slot r.toNat) ++ (u.wr.filterMap fun r => writeMisuse c slot r.toNat)).head?

/-- The first port that the head reads and finds empty (R89). -/
def Use.starved (u : Use) (c : Core) : Option Nat :=
  (u.rd.filter fun r => decide (56 ≤ r.toNat) && (portHead c r.toNat).isNone).head?.map fun r => r.toNat

/-- The value that a source field gives (R85, R88, R89). -/
def State.operand (s : State) (r : Reg) : Word :=
  if r.toNat < 32 then s.tReg s.cur r.toNat
  else if r.toNat < 56 then s.cReg s.cur (r.toNat - 32)
  else (portHead s.myCore r.toNat).getD 0

/-- A basted slot that pops a message takes an implied BASTE next (R369). -/
def State.basteAfterPop (s : State) : State :=
  s.updMe fun x => if x.bst then x.updTask fun t => { t with basteDue := true } else x

/-- The pops that the head commits (R89). -/
def State.popPorts (s : State) (rs : List Reg) : State :=
  rs.foldl (fun t r =>
    if 56 ≤ r.toNat then
      let t1 := t.updMyCore fun c => portPop c r.toNat
      if r.toNat = 62 then t1.basteAfterPop else t1
    else t) s

/-- The checks of a head in the order of R96, then the waits for its registers and ports, then its own effect: `k` is
given the operands and the state after its pops. -/
def Use.issue (u : Use) (s : State) (k : (Reg → Word) → State → Act) : Act :=
  match u.sup, s.super with
  | some head, false => .trap 0x03 (word head)
  | _, _ =>
    if u.names.any s.me.sr.outside then .exhaust 0 0
    else match u.misused s.myCore (slotNo s.cur) with
    | some info => .trap 0x16 info
    | none =>
      match u.names.filter s.me.busy.contains with
      | r :: rs => .block (.busy (r :: rs))
      | [] =>
        match u.starved s.myCore with
        | some r => .block (.port r)
        | none => k s.operand (s.popPorts u.rd)

/-- The meaning of a head. -/
def runHead (u : Use) (s : State) (k : (Reg → Word) → State → Act) : Res := .next ((u.issue s k).run s)

/-- The meaning of a head that asks an engine and waits for its answer (R112, R228, R317, R320): the first issue sends
the request and leaves the slot blocked; the answer completes the head. Each of the two takes an issue cycle (R82; the model's choice,
log entry 154). -/
def runReply (u : Use) (s : State) (k : (Reg → Word) → State → Act) (fin : Word → State → Act) : Res :=
  match s.me.op with
  | .none => runHead u s k
  | .wait => .next (s.updMe fun x => if x.st = .ready then { x with st := .blocked .reply } else x)
  | .done v => .next ((fin (word v) s).run s)
  | .denied => .next ((Act.next s).run s)

/-- The slot has sent its request and waits (R112). -/
def State.await (s : State) : State := s.updMe fun x => { x with st := .blocked .reply, op := .wait }

/-- The answer to a waiting slot. -/
def State.reply (s : State) (tk v : Nat) : State :=
  s.updSlot tk fun x => if x.op = .wait then { x with op := .done v } else x
/-- The wait of a blocked slot has ended: its head completes with a value (R110, R111, R272, R351). -/
def Slot.endWait (x : Slot) (v : Nat) : Slot := { x with st := .ready, op := .done v, waited := 0, wdFired := false }

/-- The request of a waiting slot has failed: its head ends without a result. -/
def State.failReply (s : State) (tk : Nat) : State :=
  s.updSlot tk fun x => if x.op = .wait then { x with op := .denied } else x
def State.answer (s : State) (tk : Nat) (v : Word) : State := s.reply tk v.toNat

/-- A scalar result in its cycle: a write to c31 is refused to an optimistic task (R349). -/
def put (s : State) (d : Reg) (v : Word) (lat : Nat) : Act :=
  if d.toNat = 63 && s.me.optimistic then .trap 0x02 v else .next (s.writeReg s.cur d v lat)

/-- A destination whose value is known only later: the same refusal, with a free value in EINFO. -/
def lateDest (s : State) (d : Reg) (a : Act) : Act :=
  if d.toNat = 63 && s.me.optimistic then .trapFree 0x02 else a

end Sys2Proof.Machine
end

