-- ==== Sys2Proof/Machine/Operands.lean ====
section
/-! DEFINITION. Operand addresses: their formation (R48, R222), the space checks (R190, R191), shares and guards (R192,
R194, R195), the local-write rule (R311), remote quads and aliases (R197, R375), windows (R193). A check answers
the trap it raises, or none. -/

namespace Sys2Proof.Machine

/-- A check's trap: cause and EINFO. -/
abbrev Check := Option (Nat × Word)

/-- The first failing check, in order. -/
def firstTrap : List Check → Check
  | [] => none
  | some t :: _ => some t
  | none :: cs => firstTrap cs

/-- Raise the check's trap, or go on. -/
def Check.orElse (c : Check) (k : Act) : Act :=
  match c with
  | some (cause, info) => .trap cause info
  | none => k

/-- A check that raises a cause with EINFO when its condition holds. -/
def failIf (c : Bool) (cause : Nat) (info : Word) : Check := if c then some (cause, info) else none

/-! ## Addresses -/

def space (a : Word) : Nat := fld a 60 4
/-- The window of an address; every space but 0x0, 0x1 and sub-space 0 of 0x3 is raw (R190). -/
def window (a : Word) : Nat :=
  match space a with
  | 0 => fld a 24 3
  | 1 => fld a 57 3
  | 3 => if fld a 50 1 = 0 then fld a 47 3 else 0
  | _ => 0
def offset (a : Word) : Nat := fld a 0 24
/-- The partition-logical quad of a space-0x1 address. -/
def pField (a : Word) : Nat := fld a 44 11
def aliasBit (a : Word) : Bool := decide (fld a 55 1 = 1)

/-- Bytes of an access size (R48). -/
def sizeBytes : Size → Nat
  | .b => 1 | .h => 2 | .l => 4 | .w => 8

/-- a + sext(off) × size (R222). -/
def addrOff (a : Word) (off : BitVec 14) (n : Nat) : Word := a + sext off * word n
/-- a + b × size + sext(off) × size (R222). -/
def addrIdx (a b : Word) (off : BitVec 14) (n : Nat) : Word := a + b * word n + sext off * word n

/-- The bits that a space requires to be zero (R190). -/
def mustBeZero (a : Word) : Bool :=
  match space a with
  | 0 => decide (fld a 27 33 = 0)
  | 1 => decide (fld a 56 1 = 0 ∧ fld a 24 20 = 0)
  | 2 => decide (fld a 48 12 = 0)
  | 3 => if fld a 50 1 = 0 then decide (fld a 46 1 = 0 ∧ fld a 24 11 = 0) else decide (fld a 48 2 = 0)
  | 4 => decide (fld a 48 12 = 0)
  | 15 => decide (fld a 12 44 = 0)
  | _ => false

/-- The space checks (R191); a system class other than 0 raises 0x0D once the level allows it (R209). -/
def spaceCheck (super : Bool) (a : Word) : Check :=
  firstTrap [failIf (!mustBeZero a) 0x0D a,
    failIf (decide (space a = 15) && !super) 0x03 a,
    failIf (decide (space a = 3 ∧ 384 ≤ fld a 51 9)) 0x07 a,
    failIf (decide (space a = 15 ∧ fld a 56 4 ≠ 0)) 0x0D a]

/-! ## Local guards (R194, R195) -/

/-- What an access needs. -/
structure Perm where
  rd : Bool := false
  wr : Bool := false
  ex : Bool := false
  deriving DecidableEq, Repr

def permR : Perm := { rd := true }
def permW : Perm := { wr := true }
def permRW : Perm := { rd := true, wr := true }
def permX : Perm := { ex := true }

/-- Region n of the guard, when it is enabled with the permissions: its first and its end offset. -/
def SysRegs.region (r : SysRegs) (p : Perm) (n : Nat) : Option (Nat × Nat) :=
  let b := FMap.get 0 r.guardBase n
  let l := FMap.get 0 r.guardLim n
  if b.getLsbD 31 && (!p.rd || b.getLsbD 30) && (!p.wr || b.getLsbD 29) && (!p.ex || b.getLsbD 28) then
    some (fld b 5 19 * 32, fld l 5 20 * 32)
  else none

def SysRegs.regions (r : SysRegs) (p : Perm) : List (Nat × Nat) := (List.range 8).filterMap (r.region p)

/-- Some region is enabled. -/
def SysRegs.guarded (r : SysRegs) : Bool := (List.range 8).any fun n => (FMap.get 0 r.guardBase n).getLsbD 31

/-- The first offset that the guard refuses to a footprint, none when it allows it (R195). -/
def SysRegs.refused (r : SysRegs) (p : Perm) (o n : Nat) : Option Nat :=
  if !r.guarded then none else
  let rs := r.regions p
  if rs.any fun g => decide (g.1 ≤ o ∧ o + n ≤ g.2) then none
  else
    match (List.range n).find? fun i => !(rs.any fun g => decide (g.1 ≤ o + i ∧ o + i < g.2)) with
    | some i => some (o + i)
    | none => some o

/-- An address moved to another offset of its share. -/
def atOffset (a : Word) (o : Nat) : Word := a + word o - word (offset a)

/-- The share, then the guard, for a local footprint of a slot (R192, R195). -/
def State.localCheck (s : State) (tk : Nat) (p : Perm) (a : Word) (n : Nat) : Check :=
  if s.spSize (s.pidOf tk) < offset a + n then some (0x0D, a)
  else match (s.slot tk).sr.refused p (offset a) n with
    | some o => some (0x05, atOffset a o)
    | none => none

/-- The local-write rule of an optimistic task (R311). -/
def State.localWrite (s : State) (tk : Nat) (a : Word) (n : Nat) : Check :=
  let x := s.slot tk
  let lo := fld x.sr.spallot 0 19 * 64
  let hi := fld x.sr.spallot 19 19 * 64
  if !x.optimistic || decide (n = 0) || decide (lo ≤ offset a ∧ offset a + n ≤ hi) then none
  else some (0x05, if offset a < lo then a else if hi ≤ offset a then a else atOffset a hi)

/-! ## Remote quads (R197, R375) -/

/-- The physical quad that a space-0x1 address reaches, none when it is refused at issue. -/
def State.remoteQuad (s : State) (pid : Nat) (a : Word) : Option Nat :=
  let pt := s.part pid
  let p := pField a
  if aliasBit a then
    if pt.w * pt.h ≤ p ∨ FMap.get 0 pt.defect p ≠ 2 then none
    else match FMap.get 0 pt.aliases p with
      | 0 => none
      | q + 1 => some q
  else s.physQuad pid p

/-- R197 step 1, R375 step 1. -/
def State.remoteCheck (s : State) (pid : Nat) (a : Word) : Check :=
  failIf (decide (space a = 1) && (s.remoteQuad pid a).isNone) 0x07 a

/-! ## The checks of an access, in the order of R222 -/

/-- R191; alignment; the window; the local share and guard, and the local-write rule after them; R197 step 1. Space 0xF is refused
with R191's checks, before alignment (R209, R222; log entry 137). -/
def State.accessCheck (s : State) (p : Perm) (a : Word) (n align : Nat) (winBad : Bool) : Check :=
  firstTrap [spaceCheck s.super a,
    failIf (decide (space a = 15)) 0x02 a,
    failIf (decide (a.toNat % align ≠ 0)) 0x04 a,
    failIf winBad 0x02 a,
    if space a = 0 then s.localCheck s.cur p a n else none,
    if space a = 0 ∧ p.wr then s.localWrite s.cur a n else none,
    s.remoteCheck s.myPid a]

/-! ## Scalar accesses through a window (R193) -/

/-- The size that a window requires of a scalar access: none for RAW; LT2 admits none (R193). -/
def winSizeBad (w n : Nat) : Bool :=
  match w with
  | 0 => false
  | 1 => n != 2
  | 2 => n != 2
  | 7 => true
  | _ => n != 1

/-- What LD, or LDS, returns from the bytes read (R193). -/
def scalarLoad (w n : Nat) (sx : Bool) (v : Nat) : Word :=
  if w = 0 then (if sx then word (wrap 64 (sval (8 * n) v)) else word v)
  else if w = 6 then word (wrap 32 (sval 4 v) + wrap 32 (sval 4 (v / 16)) * 2 ^ 32)
  else
    let x := winDecode w v
    word (if sx && decide (2 ^ 31 ≤ x % 2 ^ 32) then x % 2 ^ 32 + (2 ^ 32 - 1) * 2 ^ 32 else x % 2 ^ 32)

/-- The bytes that ST writes, as a number (R193). -/
def scalarStore (w n : Nat) (b : Word) : Nat :=
  if w = 0 then b.toNat % 2 ^ (8 * n)
  else if w = 6 then winEncode 6 (fld b 0 32) + 16 * winEncode 6 (fld b 32 32)
  else winEncode w (fld b 0 32)

end Sys2Proof.Machine
end

