-- ==== Sys2Proof/Machine/Plan.lean ====
section
/-! DEFINITION. The geometry of copies (R338, R340, R342) and of drains (R184): rows, and the destination sectors of a
copy in element order. -/

namespace Sys2Proof.Machine

/-! ## Copies -/

def Copy.shaped (c : Copy) : Bool := c.w2.getLsbD 63
/-- KIND: 0 data, 1 scale block. -/
def Copy.kind (c : Copy) : Nat := fld c.w2 61 2
def Copy.mode (c : Copy) : Nat := fld c.w3 62 2
def Copy.caddr (c : Copy) : Nat := fld c.w3 0 24

/-- Rows that the copy moves: from row Y0 of plane Z0 on. -/
def Copy.rows (c : Copy) : Nat := c.nz * c.ny - (c.z0 * c.ny + c.y0)
/-- Plane and row of row i. -/
def Copy.place (c : Copy) (i : Nat) : Nat × Nat := ((c.z0 * c.ny + c.y0 + i) / c.ny, (c.z0 * c.ny + c.y0 + i) % c.ny)

/-- A signed number as a word. -/
def wordInt (i : Int) : Word := BitVec.ofInt 64 i

/-- Where row i starts at the source, and at the destination. -/
def Copy.srcRow (c : Copy) (i : Nat) : Word :=
  c.w0 + wordInt (((c.place i).1 : Int) * c.ssz + ((c.place i).2 : Int) * c.ssy)
def Copy.dstRow (c : Copy) (i : Nat) : Word :=
  c.w1 + wordInt (((c.place i).1 : Int) * c.dsz + ((c.place i).2 : Int) * c.dsy)

/-- Sectors of 32 bytes that n bytes from an address touch. -/
def sectorCount (a : Word) (n : Nat) : Nat := if n = 0 then 0 else (a.toNat % 32 + n + 31) / 32

/-- The part of n bytes from an address that lies in its sector j: the offset of its first byte, and its length. -/
def sectorPart (a : Word) (n j : Nat) : Nat × Nat :=
  let lo := if j = 0 then 0 else 32 * j - a.toNat % 32
  (lo, Nat.min n (32 * (j + 1) - a.toNat % 32) - lo)

/-- Row and sector of the n-th destination sector in element order, among `fuel` rows from row i. -/
def Copy.find (c : Copy) : Nat → Nat → Nat → Option (Nat × Nat)
  | 0, _, _ => none
  | fuel + 1, i, n =>
    let k := sectorCount (c.dstRow i) c.rowLen
    if n < k then some (i, n) else c.find fuel (i + 1) (n - k)

/-- A sector of a copy: its row, source and destination addresses, and its bytes. -/
structure Sector where
  row : Nat
  src : Word
  dst : Word
  n : Nat
  deriving DecidableEq, Repr

def Copy.sector (c : Copy) (n : Nat) : Option Sector :=
  (c.find c.rows 0 n).map fun p =>
    let part := sectorPart (c.dstRow p.1) c.rowLen p.2
    { row := p.1, src := c.srcRow p.1 + word part.1, dst := c.dstRow p.1 + word part.1, n := part.2 }

/-- Sectors of the rows below row i. -/
def Copy.sectorsTo (c : Copy) (i : Nat) : Nat := ((List.range i).map fun j => sectorCount (c.dstRow j) c.rowLen).sum
/-- All the sectors: a scale block is delivered as one. -/
def Copy.sectors (c : Copy) : Nat := if c.kind = 1 then 1 else c.sectorsTo c.rows
/-- The sectors that have not landed. -/
def Copy.unlanded (c : Copy) : List Nat := (List.range c.sectors).filter fun n => !c.landed.contains n

/-- The copy goes on. -/
def Copy.runs (k : Copy) : Bool := k.started && !k.cancelled && decide (k.status = 0)
/-- Every sector of a row has landed, or the scale block has been delivered: its pages are needed no more. -/
def Copy.finished (k : Copy) (i : Nat) : Bool :=
  !k.landed.isEmpty && (decide (k.kind = 1)
    || (List.range (sectorCount (k.dstRow i) k.rowLen)).all fun j => k.landed.contains (k.sectorsTo i + j))
/-- The rows below n that have not finished. -/
def Copy.openRows (k : Copy) (n : Nat) : List Nat := (List.range n).filter fun i => !k.finished i
/-- The rows up to the last one in which a sector has landed. -/
def Copy.reached (k : Copy) : Nat :=
  if k.kind = 1 then 0 else (k.landed.filterMap fun n => (k.sector n).map fun x => x.row + 1).foldl Nat.max 0

/-! ## Drains -/

/-- Bytes of an element of an output format (R184). -/
def outBytes (fmt : OFmt) : Nat :=
  match fmt with
  | .f32 => 4 | .bf16 => 2 | .fp16 => 2 | .e4m3 => 1 | .e5m2 => 1 | .int8 => 1 | .i32 => 4 | .f64 => 8 | .i64 => 8

end Sys2Proof.Machine
end

