-- ==== Sys2Proof/Machine/Rings.lean ====
section
/-! DEFINITION. The channel table and its cache (R267 to R271), and the ring pool of a quad (R281). -/

namespace Sys2Proof.Machine

/-! ## The table (R268 to R270) -/

/-- Entries that a partition's table holds (R268). -/
def Part.chanCount (p : Part) : Nat := 2 ^ Nat.min 12 (fld p.chbase 48 5)
/-- The address of entry i (R268). -/
def Part.chanAddr (p : Part) (i : Nat) : Word := word (2 * 2 ^ 60 + (fld p.chbase 6 42 * 64 + 64 * i) % 2 ^ 48)
/-- WEIGHT as it acts (R268). -/
def Part.chanWeight (p : Part) : Nat := Nat.max 1 (fld p.chbase 60 4)

/-- CAP and E (R269). -/
def ChanEnt.cap (e : ChanEnt) : Nat := if e.ringLog = 0 then 0 else 2 ^ e.ringLog
def ChanEnt.esz (e : ChanEnt) : Nat := 8 * 2 ^ e.esize
def ChanEnt.limit (e : ChanEnt) : Nat := e.cap + e.letLim
/-- The channel is full at its home (R273). -/
def ChanEnt.full (e : ChanEnt) : Bool := decide (e.limit ≤ e.tail - e.keep)
/-- The sequence number after one (R273). -/
def seqNext (n : Nat) : Nat := (n + 1) % 2 ^ 48
/-- Ring bytes (R281). -/
def ChanEnt.ringBytes (e : ChanEnt) : Nat := (e.cap * e.esz + 63) / 64 * 64

/-- The fields of an entry, its eight words given (R269). -/
def chanParse (i pid : Nat) (addr : Word) (w : Nat → Word) : ChanEnt :=
  { id := i, pid, addr
    letout := decide (fld (w 0) 58 1 = 1), state := fld (w 0) 56 2, ringLog := fld (w 0) 51 5, esize := fld (w 0) 48 3
    reader := fld (w 0) 32 16, writer := fld (w 0) 16 16
    spillMax := fld (w 1) 32 32, letLim := fld (w 1) 0 32, spillBase := fld (w 2) 6 42
    locnt := fld (w 3) 48 16, head := fld (w 3) 0 48, tail := fld (w 4) 0 48, sph := fld (w 5) 0 48
    step := fld (w 6) 48 16, allowance := fld (w 6) 0 32, keep := fld (w 7) 0 48 }

/-- The reserved fields, V and ID of an entry (R270). -/
def chanFormat (i : Nat) (w : Nat → Word) : Bool :=
  decide (fld (w 0) 59 1 = 1 ∧ fld (w 0) 0 12 = i ∧ fld (w 0) 60 4 = 0 ∧ fld (w 0) 12 4 = 0 ∧ fld (w 2) 48 16 = 0
    ∧ fld (w 2) 0 6 = 0 ∧ fld (w 4) 48 16 = 0 ∧ fld (w 5) 48 16 = 0 ∧ fld (w 6) 32 16 = 0 ∧ fld (w 7) 48 16 = 0)

/-- The other conditions of R270. -/
def ChanEnt.sound (e : ChanEnt) (pt : Part) : Bool :=
  decide (e.esize ≤ 5 ∧ e.ringLog ≤ 15 ∧ e.state ≤ 2 ∧ e.writer < pt.w * pt.h * 32 ∧ e.reader < pt.w * pt.h * 32
    ∧ e.cap + e.letLim + e.allowance ≤ e.spillMax ∧ e.spillBase * 64 + e.spillMax * e.esz ≤ 2 ^ 48
    ∧ e.keep ≤ e.head ∧ e.head ≤ e.tail ∧ e.keep ≤ e.sph ∧ e.sph ≤ e.tail ∧ e.tail - e.keep ≤ e.cap + e.letLim)

/-! ## The cache (R271) -/

/-- The cached entry of a quad. -/
def State.chanAt (s : State) (qi pid ch : Nat) : Option ChanEnt :=
  (s.quad qi).chans.find? fun e => decide (e.pid = pid ∧ e.id = ch)

/-- The cached entries that an event at a quad may name: of the running context first. -/
def State.chansHere (s : State) (qi ch : Nat) : List ChanEnt :=
  let all := (s.quad qi).chans.filter fun e => decide (e.id = ch)
  all.filter (fun e => decide (e.pid = (s.ctx qi).pid)) ++ all.filter fun e => decide (e.pid ≠ (s.ctx qi).pid)

/-- The home of a channel is the quad of its reader (R267). -/
def State.chanHome (s : State) (e : ChanEnt) : Option Nat := (s.threadKey e.pid e.reader).map quadOf

def State.isHome (s : State) (qi : Nat) (e : ChanEnt) : Bool := decide (s.chanHome e = some qi)

/-- Replaces the cached entry. -/
def State.setChan (s : State) (qi : Nat) (e : ChanEnt) : State :=
  s.updQuad qi fun q => { q with chans := q.chans.map fun x => if x.pid = e.pid ∧ x.id = e.id then e else x }

/-- An entry used becomes the most recent, the last. Which acts are a use is the model's choice (R271; log entry 155). -/
def State.touchChan (s : State) (qi : Nat) (e : ChanEnt) : State :=
  s.updQuad qi fun q => { q with chans := (q.chans.filter fun x => !decide (x.pid = e.pid ∧ x.id = e.id)) ++ [e] }

def State.dropChan (s : State) (qi : Nat) (e : ChanEnt) : State :=
  s.updQuad qi fun q => { q with chans := q.chans.filter fun x => !decide (x.pid = e.pid ∧ x.id = e.id) }

/-! ## The ring pool (R281) -/

/-- The least of a list of numbers. -/
def leastOf (ns : List Nat) : Option Nat :=
  ns.foldl (fun b a => match b with
    | none => some a
    | some x => some (Nat.min x a)) none

/-- The parts of the 16 MiB of a scratchpad outside given ranges: their first and their end offsets. -/
def gapsOf (shares : List (Nat × Nat)) : List (Nat × Nat) :=
  ((0 :: shares.map fun u => u.2).map fun a => (a, (shares.filter fun u => decide (a ≤ u.1)).foldl (fun b u => Nat.min b u.1) (2 ^ 24))).filter
    fun i => decide (i.1 < i.2) && shares.all fun u => !decide (u.1 ≤ i.1 ∧ i.1 < u.2)

/-- The ring pool of a quad: the first and the end offsets of its parts (R281). -/
def State.ringPool (s : State) (qi : Nat) : List (Nat × Nat) :=
  match (s.quad qi).ctxs with
  | [] => []
  | [c] =>
    let n := s.spSize c.pid
    let k := (s.part c.pid).poolUnits
    [(c.base + n - 262144 - k * 65536, c.base + n - 262144)]
  | cs => gapsOf (cs.map fun c => (c.base, c.base + s.spSize c.pid))

/-- The bytes of a quad's ring pool (R281, R282). -/
def State.poolBytes (s : State) (qi : Nat) : Nat := ((s.ringPool qi).map fun i => i.2 - i.1).sum

/-- The rings of a quad: offset and length. -/
def Quad.rings (q : Quad) : List (Nat × Nat) := q.chans.filterMap fun e => e.ring.map fun r => (r, e.ringBytes)

/-- First fit of n bytes among intervals in use (R281). -/
def firstFit (lo hi n : Nat) (used : List (Nat × Nat)) : Option Nat :=
  let fits (a : Nat) : Bool := decide (lo ≤ a ∧ a + n ≤ hi) && used.all fun u => !overlap a n u.1 u.2
  leastOf ((lo :: used.map fun u => u.1 + u.2).filter fits)

/-- A ring for an entry, where n bytes are free. -/
def State.ringFit (s : State) (qi : Nat) (e : ChanEnt) : Option Nat :=
  if e.cap = 0 then none else leastOf ((s.ringPool qi).filterMap fun i => firstFit i.1 i.2 e.ringBytes (s.quad qi).rings)

/-- Entries in the order of their fills. -/
def insertFill (e : ChanEnt) : List ChanEnt → List ChanEnt
  | [] => [e]
  | x :: xs => if e.filled < x.filled then e :: x :: xs else x :: insertFill e xs

/-- Freed ring space goes to channels that run without a ring, in the order of their fills (R281). -/
def State.regrantRings (s : State) (qi : Nat) : State :=
  let wants := (s.quad qi).chans.filter fun e =>
    s.isHome qi e && e.valid && decide (e.ring = none ∧ e.cap ≠ 0 ∧ e.state ≠ 2)
  (wants.foldl (fun l e => insertFill e l) []).foldl (fun t e => match t.ringFit qi e with
    | none => t
    | some r => t.setChan qi { e with ring := some r }) s

end Sys2Proof.Machine
end

