-- ==== Sys2Proof/Machine/Access.lean ====
section
/-! DEFINITION. Accesses outside local space as things in flight: translation (R203 to R208), program order of one slot
(R232), the places where they are performed (R197, R200, R218), atomics (R243 to R247), and their ends. -/

namespace Sys2Proof.Machine

/-! ## Translation (R203 to R207) -/

/-- The home die of a physical address (R203). -/
def homeDie (pa : Nat) : Nat := pa / 4096 % 288
/-- The region of a memory key's place: its home die's, or its quad's. -/
def keyRegion (k : Nat) : List Nat := if 2 ^ 64 ≤ k then [] else if isHbm k then [homeDie (paOf k) / 18] else [regionOf (keyQuad k)]
/-- It is one whose clock is stopped (R383). -/
def State.frozenAt (s : State) (k : Nat) : Bool := (keyRegion k).any s.clockStopped
/-- The stack that holds a physical address, and the address within it (R203). -/
def stackOf (pa : Nat) : Nat := homeDie pa % 48
def stackAddr (pa : Nat) : Nat := (pa / 4096 / 288 * 6 + homeDie pa / 48) * 4096 + pa % 4096
/-- The translating slice's die (R204). -/
def xlateDie (va pid : Nat) : Nat := (va / 4096 + pid) % 288

/-- What an operation needs of a page (R195, R206). -/
def MemOp.perm : MemOp → Perm
  | .load | .flush => permR
  | .fetch => permX
  | .store _ | .feinit _ _ => permW
  | .touch wr => if wr then permW else permR
  | _ => permRW

/-- The access kind that a fault message carries (R359): 0 read, 1 write, 2 atomic, 3 execute. -/
def MemOp.faultKind : MemOp → Nat
  | .load | .flush => 0
  | .fetch => 3
  | .touch wr => bit wr
  | .store _ | .feinit _ _ => 1
  | _ => 2

/-- Permissions held include those needed. -/
def grants (need : Perm) (rd wr ex : Bool) : Bool := (!need.rd || rd) && (!need.wr || wr) && (!need.ex || ex)

/-- A TLB entry at a place that covers an address with the permissions (R204). -/
def State.tlbFind (s : State) (loc pid va : Nat) (need : Perm) (host : Bool) : Option TlbEntry :=
  s.tlb.find? fun e => decide (e.loc = loc ∧ e.pid = pid ∧ e.host = host ∧ e.va ≤ va ∧ va < e.va + e.size)
    && grants need e.rd e.wr e.ex

/-- Entries that a place holds: a core 384, a home slice 4,096, a die 32,768 (R204). -/
def tlbCap (loc : Nat) : Nat := if loc < 10000 then 384 else if loc < 20000 then 4096 else 32768

/-- A TLB keeps one entry more; a full one loses its oldest. -/
def State.tlbAdd (s : State) (e : TlbEntry) : State :=
  let rest := s.tlb.filter fun x => decide (x ≠ e)
  let full := decide (tlbCap e.loc ≤ (rest.filter fun x => decide (x.loc = e.loc)).length)
  { s with tlb := (if full then rest.eraseP fun x => decide (x.loc = e.loc) else rest) ++ [e] }

/-- A translation that the host IOMMU has given, as a core's TLB holds it (R208). -/
def hostEntry (ck pid va : Nat) : TlbEntry :=
  { loc := ck, pid, va := va - va % 4096, size := 4096, pa := va - va % 4096, rd := true, wr := true, ex := false, host := true }

/-- Outcomes of a walk: the mapping, a stage-1 fault (0 not valid, 1 malformed, 2 permission), a stage-2 fault. -/
inductive Walk where
  | ok (ipa size : Nat) (rd wr ex : Bool)
  | fault1 (why : Nat)
  | fault2
  deriving DecidableEq, Repr

/-- Stage 2 (R207): the mapping that covers an intermediate address, below 1,728 GiB (R203). -/
def State.stage2 (s : State) (pid ipa : Nat) (need : Perm) : Option S2Map :=
  (s.part pid).s2.find? fun m => decide (m.ipa ≤ ipa ∧ ipa < m.ipa + m.size)
    && decide (m.pa + (ipa - m.ipa) < 1728 * 2 ^ 30) && grants need m.rd m.wr m.ex

/-- A stage-1 entry (R205), read through stage 2 (R207). -/
def State.tableEntry (s : State) (pid ipa : Nat) : Option Word :=
  (s.stage2 pid ipa permR).map fun m => s.rd8 (hbmKey (m.pa + (ipa - m.ipa)))

/-- The entry of a table at an index: where it is a leaf of a CONT group, one of the group's sixteen (R206). -/
def State.groupEntry (s : State) (pid t idx pick : Nat) : Option Word :=
  match s.tableEntry pid (t + idx * 8) with
  | none => none
  | some e => if e.getLsbD 0 && e.getLsbD 1 && e.getLsbD 5 then s.tableEntry pid (t + (idx / 16 * 16 + pick % 16) * 8) else some e

/-- The stage-1 walk from a level (R206); `pick` chooses the entry of a CONT group. -/
def State.walkFrom (s : State) (pid va : Nat) (need : Perm) (pick : Nat) : List Nat → Nat → Walk
  | [], _ => .fault1 1
  | lvl :: rest, t =>
    let idx := bitsAt va (39 - 9 * lvl) 9
    match if lvl = 0 then s.tableEntry pid (t + idx * 8) else s.groupEntry pid t idx pick with
    | none => .fault2
    | some e =>
      if !e.getLsbD 0 then .fault1 0
      else if fld e 52 12 ≠ 0 ∨ fld e 6 6 ≠ 0 then .fault1 1
      else if e.getLsbD 1 || decide (lvl = 3) then
        if lvl = 0 ∨ !e.getLsbD 1 then .fault1 1
        else
          let size := 2 ^ (12 + 9 * (3 - lvl)) * (if e.getLsbD 5 then 16 else 1)
          if !grants need (e.getLsbD 2) (e.getLsbD 3) (e.getLsbD 4) then .fault1 2
          else
            let oa := fld e 12 40 * 4096
            .ok (oa - oa % size + va % size) size (e.getLsbD 2) (e.getLsbD 3) (e.getLsbD 4)
      else s.walkFrom pid va need pick rest (fld e 12 40 * 4096)

/-- The stage-1 walk (R206): the identity in pages of 16 GiB when S1ROOT.EN is 0. -/
def State.walk (s : State) (pid va : Nat) (need : Perm) : Walk :=
  let root := (s.part pid).s1root
  if !root.getLsbD 0 then .ok va (2 ^ 34) true true true
  else s.walkFrom pid va need (Config.freeNat s.free) [0, 1, 2, 3] (fld root 12 40 * 4096)

/-- The combined translation (R207): its entry covers the smaller of the two pages. -/
def State.translate (s : State) (pid va : Nat) (need : Perm) : Walk × Option TlbEntry :=
  match s.walk pid va need with
  | .ok ipa size rd wr ex =>
    match s.stage2 pid ipa need with
    | none => (.fault2, none)
    | some m =>
      let n := Nat.min size m.size
      let pa := m.pa + (ipa - m.ipa)
      (.ok ipa size rd wr ex,
        some { loc := 0, pid, va := va - va % n, size := n, pa := pa - va % n, rd := rd && m.rd, wr := wr && m.wr, ex := ex && m.ex })
  | w => (w, none)

/-- The translation of an address on the path of R204: the core's first level, the translating slice's TLB, its die's second level,
or a walk; none where the walk faults. -/
def State.tlbPath (s : State) (ck pid va : Nat) (need : Perm) : Option TlbEntry :=
  let die := xlateDie va pid
  (((s.tlbFind ck pid va need false).or (s.tlbFind (10000 + die) pid va need false)).or
    (s.tlbFind (20000 + die) pid va need false)).or (s.translate pid va need).2

/-- What the TLBs on that path keep of a translation (R204): each level that missed holds it afterwards. -/
def State.tlbFill (s : State) (ck pid va : Nat) (need : Perm) : State :=
  let die := xlateDie va pid
  if (s.tlbFind ck pid va need false).isSome then s
  else match s.tlbFind (10000 + die) pid va need false with
    | some e => s.tlbAdd { e with loc := ck }
    | none =>
      match s.tlbFind (20000 + die) pid va need false with
      | some e => (s.tlbAdd { e with loc := 10000 + die }).tlbAdd { e with loc := ck }
      | none =>
        match (s.translate pid va need).2 with
        | some e => ((s.draw.tlbAdd { e with loc := 10000 + die }).tlbAdd { e with loc := 20000 + die }).tlbAdd { e with loc := ck }
        | none => s

/-- A space-0x3 address that names this panel is carried as space 0x1 or 0x2 (R354). -/
def State.inner (s : State) (a : Word) : Word :=
  if space a = 3 ∧ fld a 51 9 = s.panel.number then
    if fld a 50 1 = 0 then word (2 ^ 60 + fld a 47 3 * 2 ^ 57 + fld a 35 11 * 2 ^ 44 + offset a)
    else word (2 * 2 ^ 60 + fld a 0 48)
  else a

/-- Where the byte at an address of a partition lies, for a slot: the key of its memory. Two addresses of one byte, through windows,
spaces or pages, have one place; what this panel does not hold has one by its address. -/
def State.placeOf (s : State) (tk pid : Nat) (a : Word) : Nat :=
  let b := s.inner a
  let elsewhere := 2 ^ 100 + (if space b = 3 ∧ fld b 50 1 = 0 then setFld b 47 3 0 else b).toNat
  match space b with
  | 0 => s.localKey tk (offset b)
  | 1 => (((s.remoteQuad pid b).bind fun qi => s.shareAt pid qi (offset b) 1)).getD elsewhere
  | 2 =>
    let va := fld b 0 48
    match s.tlbPath (coreOf tk) pid va {} with
    | some e => hbmKey (e.pa + (va - e.va))
    | none => elsewhere
  | 4 => hostKey (s.part pid).vf (fld b 0 48)
  | _ => elsewhere

/-! ## Engines and the ownership of destinations (R241) -/

/-- Why an engine's access is refused. -/
inductive EngErr where
  /-- The local share or guard: cause and EINFO. -/
  | trap (cause : Nat) (info : Word)
  /-- Translation: stage-1 reason 0 to 2 (R205), 3 stage 2. -/
  | xlate (why : Nat)
  /-- The destination denies it (R197). -/
  | denied
  /-- The host IOMMU refuses it (R208). -/
  | ats
  /-- A peer panel's memory, which this panel does not hold. -/
  | peer
  /-- A copy or a drain owns the sector (R241), or the quad is closed (R356): the access waits. -/
  | owned
  deriving DecidableEq, Repr

/-- The key of `n` bytes that do not cross a 4 KiB page, for an engine that acts for a slot under a partition. -/
def State.engineKey0 (s : State) (tk pid : Nat) (p : Perm) (a : Word) (n : Nat) : Except EngErr Nat :=
  let b := s.inner a
  match space b with
  | 0 =>
    match s.localCheck tk p b n with
    | some (c, info) => .error (.trap c info)
    | none => .ok (s.localKey tk (offset b))
  | 1 =>
    match (s.remoteQuad pid b).bind fun qi => s.shareAt pid qi (offset b) n with
    | some k => .ok k
    | none => .error .denied
  | 2 =>
    match s.tlbPath (coreOf tk) pid (fld b 0 48) p with
    | some e => .ok (hbmKey (e.pa + (fld b 0 48 - e.va)))
    | none =>
      match (s.translate pid (fld b 0 48) p).1 with
      | .fault1 why => .error (.xlate why)
      | _ => .error (.xlate 3)
  | 3 => .error .peer
  | 4 =>
    if (s.tlbFind (coreOf tk) pid (fld b 0 48) p true).isNone && Config.atsRefuses (s.part pid).vf (fld b 12 36) then .error .ats
    else .ok (hostKey (s.part pid).vf (fld b 0 48))
  | _ => .error (.trap 0x0D b)

/-- What an engine's access of `n` bytes leaves behind beside its effect: the translations of its pages in the TLBs (R204, R208), and
the order in which a substitute's blocks are moved (R374). -/
def State.engineFill (s : State) (tk pid : Nat) (p : Perm) (a : Word) (n : Nat) : State :=
  (List.range (n / 4096 + 2)).foldl (fun t i =>
    let b := t.inner (a + word (Nat.min (4096 * i) (n - 1)))
    let va := fld b 0 48
    match space b with
    | 0 => t.noteBlock (quadOf tk) (t.localKey tk (offset b))
    | 1 => (match (t.remoteQuad pid b).bind fun qi => (t.shareAt pid qi (offset b) 1).map fun k => (qi, k) with
      | some x => t.noteBlock x.1 x.2
      | none => t)
    | 2 => t.tlbFill (coreOf tk) pid va p
    | 4 =>
      if (t.tlbFind (coreOf tk) pid va p true).isSome || Config.atsRefuses (t.part pid).vf (va / 4096) then t
      else t.tlbAdd (hostEntry (coreOf tk) pid va)
    | _ => t) s

/-- The same for a destination that was checked when it was issued: local space without the guard. -/
def State.engineRaw (s : State) (tk pid : Nat) (p : Perm) (a : Word) (n : Nat) : Except EngErr Nat :=
  if space (s.inner a) = 0 then .ok (s.localKey tk (offset a)) else s.engineKey0 tk pid p a n

/-- A quad takes no access of another quad's: while it is debug-halted (R356), and once contained until the map leaves it
(R373); a memory-only quad then serves its aliases (R375). -/
def Quad.closed (q : Quad) : Bool := q.halted || (q.contained && !q.ctxs.isEmpty)

/-- An access names another quad that is closed: it is refused, and sent again until it is not. -/
def State.endClosed (s : State) (tk pid : Nat) (a : Word) : Bool :=
  let b := s.inner a
  match if space b = 1 then s.remoteQuad pid b else none with
  | some qi => decide (qi ≠ quadOf tk) && (s.quad qi).closed
  | none => false

/-- A queued data copy owns a byte of the footprint: a sector of its destination that has not landed. -/
def State.copyOwns (s : State) (ck : Nat) (c : Copy) (k n : Nat) : Bool :=
  decide (c.kind = 0 ∧ c.cancelled = false ∧ c.status = 0) && c.unlanded.any fun i => match c.sector i with
    | none => false
    | some x => match s.engineRaw (ck * 8 + c.slot) (s.pidOf (ck * 8)) permW x.dst x.n with
      | .ok j => overlap (j / 32 * 32) 32 k n
      | .error _ => false

/-- A drain owns a byte of the footprint: a row that it has not written. -/
def State.drainOwns (s : State) (ck : Nat) (o : SliceOp) (k n : Nat) : Bool :=
  match o with
  | .mdrain _ _ false fmt _ a _ count stride row _ =>
    (List.range count).any fun j => decide (row ≤ j) &&
      overlap (s.localKey (ck * 8) (offset (a + word (j * stride)))) (32 * outBytes fmt) k n
  | _ => false

/-- A footprint lies in a destination that a copy or a drain named before `upto` still owns. -/
def State.ownedBy (s : State) (upto k n : Nat) : Bool :=
  s.cores.any fun c => (c.2.fifo.any fun x => decide (x.id < upto) && s.copyOwns c.1 x k n)
    || c.2.slice.ops.any fun o => decide (o.id < upto) && s.drainOwns c.1 o k n

/-- An access to the footprint waits for the owner's write (R241). -/
def State.owned (s : State) (k n : Nat) : Bool := s.ownedBy s.ids k n

/-- A drain submitted by one of the slots after an access that was born under a name. -/
def SliceOp.later (o : SliceOp) (ck born : Nat) (thrs : List Nat) : Bool :=
  match o with
  | .mdrain id slot _ _ _ _ _ _ _ _ _ => thrs.contains (ck * 8 + slot % 8) && decide (born ≤ id)
  | _ => false

/-- The same for an access that the slots named issued before a copy or a drain of theirs: it happens before every access of the
engine (R232, R241), so it does not wait for that owner. -/
def State.ownedFor (s : State) (thrs : List Nat) (born k n : Nat) : Bool :=
  s.cores.any fun c =>
    (c.2.fifo.any fun x => decide (x.id < s.ids) && !(thrs.contains (c.1 * 8 + x.slot) && decide (born ≤ x.id)) && s.copyOwns c.1 x k n)
    || c.2.slice.ops.any fun o => decide (o.id < s.ids) && !o.later c.1 born thrs && s.drainOwns c.1 o k n

/-- An access in flight to the footprint waits for an owner's write: its slot's own later engines wait for it, and those of a slot that
has seen its value (R237). -/
def State.flightOwned (s : State) (f : Flight) (k : Nat) : Bool := s.ownedFor (f.thr :: f.seen) f.id k f.n

/-! ## Caches as tags (R198 to R202) -/

def lineOf (pa : Nat) : Nat := pa / 32
/-- The set of a line in L1 (R198), by the bits of its physical address (log entry 137). -/
def l1Set (line : Nat) : Nat := line % 256

/-- A line enters L1 by its policy (R199): .n most recently used, .s least, .na not, .k pinned while the set holds
fewer than 3 pinned ways; a set of 4 ways loses its least recently used line that is not pinned. -/
def l1Load (l1 : List CLine) (line key : Nat) (cp : Nat) : List CLine :=
  let inSet (c : CLine) : Bool := decide (l1Set c.line = l1Set line)
  let pins := (l1.filter fun c => inSet c && c.pin).length
  match l1.find? fun c => decide (c.line = line ∧ c.key = key) with
  | some c => { c with gone := false, pin := c.pin || (decide (cp = 3) && decide (pins < 3)) } :: l1.filter fun x => decide (x ≠ c)
  | none =>
    if cp = 2 then l1 else
    let pin := decide (cp = 3) && decide (pins < 3)
    let full := decide (4 ≤ (l1.filter inSet).length)
    let kept := if full then (l1.reverse.eraseP fun c => inSet c && !c.pin).reverse else l1
    let e : CLine := { line, key, pin, low := decide (cp = 1) }
    if cp = 1 then kept ++ [e] else e :: kept

/-- Evicts or recalls a line from L1: a pinned way stays pinned without its data (R199). -/
def l1Recall (l1 : List CLine) (line : Nat) : List CLine :=
  (l1.filter fun c => decide (c.line ≠ line) || c.pin).map fun c => if c.line = line then { c with gone := true } else c

/-- Lines that a die's L2, and its RDC, hold: 16 MiB and 4 MiB of 32-byte lines (R200). -/
def dieCap (place : Nat) : Nat := if place % 2 = 0 then 2 ^ 19 else 2 ^ 17

/-- A die evicts a line: the L1 copies there go with it (R198). -/
def State.dieEvict (s : State) (place line : Nat) : State :=
  { s with
    dieLines := s.dieLines.filter fun e => !(decide (e.1 = place) && decide (e.2.line = line))
    cores := s.cores.map fun c => if dieOf (quadOfCore c.1) = place / 2 then (c.1, { c.2 with l1 := l1Recall c.2.l1 line }) else c }

/-- A line enters a die's L2 or RDC, most recently used; a full one evicts a line of low priority, else any, the least
recently used first (R199, R200). -/
def State.dieLoad (s : State) (place : Nat) (e : CLine) : State :=
  let rest := s.dieLines.filter fun x => !decide (x.1 = place ∧ x.2.line = e.line ∧ x.2.key = e.key)
  let here := rest.filter fun x => decide (x.1 = place)
  let victim := if here.length < dieCap place then none else (here.find? fun x => x.2.low).or here.head?
  let s1 := match victim with
    | none => { s with dieLines := rest }
    | some v => ({ s with dieLines := rest } : State).dieEvict place v.2.line
  { s1 with dieLines := s1.dieLines ++ [(place, e)] }

/-- The RDC copies of a line at other dies, with the L1 copies there, are invalidated (R200). -/
def State.invalidateOthers (s : State) (die line : Nat) : State :=
  { s with
    dieLines := s.dieLines.filter fun e => !(decide (e.2.line = line) && decide (e.1 % 2 = 1) && decide (e.1 / 2 ≠ die))
    cores := s.cores.map fun c => if dieOf (quadOfCore c.1) = die then c else (c.1, { c.2 with l1 := l1Recall c.2.l1 line }) }

/-- Every copy of a line but those of its home's L2 and of a core is invalidated: the core takes it exclusively (R244). -/
def State.invalidateBut (s : State) (ck line : Nat) : State :=
  let keeps := dieOf (quadOfCore ck) * 2 + 1
  { s with
    dieLines := s.dieLines.filter fun e => !(decide (e.2.line = line) && decide (e.1 % 2 = 1) && decide (e.1 ≠ keeps))
    cores := s.cores.map fun c => if c.1 = ck then c else (c.1, { c.2 with l1 := l1Recall c.2.l1 line }) }

/-- A load of an HBM line by a core: the home's L2 and the RDC of another die (R200). -/
def State.dieFill (s : State) (ck pa key cp : Nat) : State :=
  let die := dieOf (quadOfCore ck)
  let e : CLine := { line := lineOf pa, key, low := decide (cp = 1 ∨ cp = 2) }
  let s1 := s.dieLoad (homeDie pa * 2) e
  if homeDie pa = die then s1 else s1.dieLoad (die * 2 + 1) e

/-- The same for an access of space 0x2, which enters L1 by its policy too (R198, R199). -/
def State.cacheLoad (s : State) (ck pa key cp : Nat) : State :=
  (s.dieFill ck pa key cp).updCore ck fun c => { c with l1 := l1Load c.l1 (lineOf pa) key cp }

/-- A core's L1 holds the data of a line under a key (R198, R202). -/
def Core.l1Hit (c : Core) (line key : Nat) : Bool := c.l1.any fun e => decide (e.line = line ∧ e.key = key) && !e.gone

/-- A keep store allocates its line and pins it, while its set holds fewer than 3 pinned ways; otherwise, as under every other
policy, it only updates a present line (R198, R199). The line is included in the die's L2 or RDC (log entry 137). -/
def State.cacheStore (s : State) (ck pa key cp : Nat) : State :=
  let pins := ((s.core ck).l1.filter fun c => decide (l1Set c.line = l1Set (lineOf pa)) && c.pin).length
  if cp = 3 ∧ pins < 3 then s.cacheLoad ck pa key cp else s

/-- An engine takes the HBM lines of a footprint through their home directory (R200, R241): no other cache and no core keeps them. -/
def State.recallLines (s : State) (k n : Nat) : State :=
  if !isHbm k then s else
  (List.range ((paOf k % 32 + n + 31) / 32)).foldl (fun t i =>
    let u := t.invalidateOthers 288 (lineOf (paOf k) + i)
    { u with owners := FMap.set 0 u.owners (lineOf (paOf k) + i) 0 }) s

/-! ## Atomic functions (R246) -/

/-- op(old, b) on n bytes (R246). -/
def amoFun (op n old b : Nat) : Nat :=
  let w := 8 * n
  let x := old % 2 ^ w
  let y := b % 2 ^ w
  match op with
  | 0 => (x + y) % 2 ^ w
  | 1 => Nat.land x y
  | 2 => Nat.lor x y
  | 3 => Nat.xor x y
  | 4 => if sval w y < sval w x then y else x
  | 5 => if sval w x < sval w y then y else x
  | 6 => if y < x then y else x
  | 7 => if x < y then y else x
  | 8 => y
  | 9 => fp32.encode .rne 0 (fadd .rne (fp32.decode x) (fp32.decode y))
  | 10 => fp32.encode .rne 0 (fmin (fp32.decode x) (fp32.decode y))
  | _ => fp32.encode .rne 0 (fmax (fp32.decode x) (fp32.decode y))

/-! ## Dependence cells (R308, R319, R320) -/

/-- The partition whose share of a quad holds a key. -/
def State.sharePid (s : State) (k : Nat) : Nat :=
  let q := s.quad (keyQuad k)
  let inside (c : Ctx) : Bool := decide (c.base ≤ k % 2 ^ 24 ∧ k % 2 ^ 24 < c.base + s.spSize c.pid)
  (((q.ctxs ++ q.former).find? inside).map fun c => c.pid).getD 0

/-- The quad whose ready ring takes the releases of a key: the substitute while the failed quad serves the block (R374). -/
def State.ringQuad (s : State) (k : Nat) : Nat :=
  ((s.quads.find? fun q => match q.2.fill with
    | some f => decide (f.src = keyQuad k)
    | none => false).map fun q => q.1).getD (keyQuad k)

/-- The ready ring of a partition's context on a quad has room for one more (R302). -/
def Quad.readyRoom (q : Quad) (pid : Nat) : Bool := decide ((q.ready.filter fun r => decide (r.1 = pid)).length < 512)

/-- A cell whose count is zero pushes its record onto the ready ring of its context; a full ring makes the push wait (R308). -/
def State.releaseCell (s : State) (k : Nat) : State :=
  let w := (s.rd8 k) &&& ~~~(1#64 <<< 63)
  let q := s.quad (s.ringQuad k)
  let pid := s.sharePid k
  if q.readyRoom pid && q.pendCells.all fun c => decide (s.sharePid c ≠ pid) then
    (s.wr8 k w).setQuad (s.ringQuad k) { q with ready := q.ready ++ [(pid, s.rd8 (k + 8))] }
  else (s.wr8 k (w ||| (1#64 <<< 62))).updQuad (s.ringQuad k) fun q => { q with pendCells := q.pendCells ++ [k] }

/-- DEC at its cell (R319). -/
def State.decCell (s : State) (k : Nat) : State :=
  let w := s.rd8 k
  if w.getLsbD 63 && decide (0 < fld w 0 32) then
    let s1 := s.wr8 k (setFld w 0 32 (fld w 0 32 - 1))
    if fld w 0 32 = 1 then s1.releaseCell k else s1
  else s

/-- TSET at its cell (R320), none when it is not armed. -/
def State.tsetCell (s : State) (k : Nat) (b : Word) : Option State :=
  let w := s.rd8 k
  if !w.getLsbD 63 then none
  else
    let s1 := s.wr8 k (setFld w 0 32 (fld b 0 32))
    some (if fld b 0 32 = 0 then s1.releaseCell k else s1)

/-! ## Performing -/

/-- The value that an atomic returns, from a basted slot's log when it is replayed (R370). -/
def Task.logged (t : Task) (seq : Option Nat) : Option (BitVec 128) :=
  match seq with
  | none => none
  | some q => (t.atomLog.find? fun l => decide (l.seq = q)).map fun l => l.old

/-- A basted slot's atomic is logged (R370). -/
def State.logAtomic (s : State) (thr k : Nat) (seq : Option Nat) (old : Nat) : State :=
  match seq with
  | none => s
  | some q => s.updSlot thr fun x => x.updTask fun t =>
      { t with atomLog := t.atomLog ++ [{ seq := q, place := keyQuad k, old := BitVec.ofNat 128 old }] }

/-- An atomic at its place, in one step, on an old value: that is answered and, for a basted slot, logged (R246, R247, R370). -/
def State.atomicOn (s : State) (thr k n : Nat) (op : MemOp) (seq : Option Nat) (old : Nat) : BitVec 128 × State :=
  match (s.slot thr).task.logged seq with
  | some was => (was, s)
  | none =>
    let s1 := match op with
      | .amo o b => s.wr k n (amoFun o n old b.toNat)
      | .cas b c => if old = b.toNat % 2 ^ (8 * n) then s.wr k n (c.toNat % 2 ^ (8 * n)) else s
      | _ => s
    (BitVec.ofNat 128 old, s1.logAtomic thr k seq old)

/-- The same on what its place holds. -/
def State.atomicAt (s : State) (thr k n : Nat) (op : MemOp) (seq : Option Nat) : BitVec 128 × State :=
  s.atomicOn thr k n op seq (s.rd k n)

/-- Where an access in flight lies: at its home, the place that its translation gave it. -/
def State.flightPlace (s : State) (f : Flight) : Nat :=
  match f.stage with
  | .home k => k
  | _ => s.placeOf f.thr f.pid f.addr

/-- Two accesses touch a common byte, whatever their spaces and windows (R232): their footprints, with the holes of a store. -/
def State.touches (s : State) (f g : Flight) : Bool :=
  overlap f.addr.toNat f.n g.addr.toNat g.n || overlap (s.flightPlace f) f.n (s.flightPlace g) g.n

/-- A local store on its way to its write cycle writes a byte of a footprint. -/
def PendOp.writes (p : PendOp) (k n : Nat) : Bool :=
  match p with
  | .store a bs => bs.any fun b => decide (k ≤ a + b.1 ∧ a + b.1 < k + n)
  | .feinit a _ => overlap a 8 k n
  | _ => false

/-- Local stores of a slot that are not in their write cycle yet (R223). -/
def State.storesPending (s : State) (tk : Nat) : List Pend :=
  (s.core (coreOf tk)).pend.filter fun p => decide (p.slot = slotNo tk) && p.op.stores

/-- A local store of a slot that has not landed, of those before a name, writes a byte of a footprint: an engine's access for the slot
comes after it (R186, R241). -/
def State.storeDue (s : State) (tk upto k n : Nat) : Bool := (s.storesPending tk).any fun p => decide (p.born ≤ upto) && p.op.writes k n

/-- An access of a slot issued before a name, to the bytes at a key, is still to be performed, a local store among them: an engine
comes after it (R241). -/
def State.behind (s : State) (tk upto k n : Nat) : Bool :=
  s.storeDue tk upto k n || s.flights.any fun f => decide (f.thr = tk ∧ f.id < upto) && !f.stage.performed &&
    (match s.engineRaw f.thr f.pid {} f.addr f.n with
    | .ok i => overlap i f.n k n
    | .error _ => false)

/-- An access that neither reads and writes in one step nor waits for a state: a load, a store, a fetch, a translation. -/
def MemOp.plain : MemOp → Bool
  | .load | .fetch | .store _ | .feinit _ _ | .touch _ | .flush => true
  | _ => false

/-- A sibling's buffered store that a load of the slot has returned is still to be performed: no later read of its bytes may go
behind it (R237). -/
def State.behindSeen (s : State) (f : Flight) : Bool :=
  s.flights.any fun g => g.seen.contains f.thr && !g.stage.performed && s.touches f g

/-- R232, R237: no access that must come first is still to be performed. -/
def State.mayPerform (s : State) (f : Flight) : Bool :=
  (s.flights.all fun g => decide (g.thr ≠ f.thr) || decide (f.id ≤ g.id) || g.stage.performed
    || !(g.acq || f.rel || s.touches f g))
  && ((s.storesPending f.thr).all fun p => !f.rel && !p.op.writes (s.flightPlace f) f.n) && (f.op.plain || !s.behindSeen f)

/-- Nothing but loads and stores of its slot comes before a buffered store (log entry 9). -/
def State.plainBefore (s : State) (g : Flight) : Bool :=
  s.flights.all fun h => decide (h.thr ≠ g.thr ∨ g.id ≤ h.id) || h.stage.performed || h.op.plain

/-- The buffered plain stores of sibling slots that a load is forwarded (R239): where the hardware forwards, and those that it has
forwarded to the slot before, so that no later read goes behind them (R237). -/
def State.forwards (s : State) (f : Flight) : List Flight :=
  s.flights.filter fun g => decide (coreOf g.thr = coreOf f.thr ∧ g.thr ≠ f.thr ∧ g.pid = f.pid)
    && !g.stage.performed && !g.rel && ((Config.forwarded s.free && s.plainBefore g) || g.seen.contains f.thr) && s.touches f g

/-- The bytes that they forward, by their offset in the load's footprint at a place. -/
def State.siblingBytes (s : State) (f : Flight) (k : Nat) : List (Nat × Byte) :=
  (s.forwards f).flatMap fun g => match g.op with
    | .store bs => bs.filterMap fun b =>
        let j := s.flightPlace g + b.1
        if b.2.2 = 0xFF#8 ∧ k ≤ j ∧ j < k + f.n then some (j - k, b.2.1) else none
    | _ => []

/-- The stores forwarded to a load are noted. -/
def State.noteForwards (s : State) (f : Flight) : State :=
  let ids := (s.forwards f).map fun g => g.id
  if ids.isEmpty then s else
  { s with flights := s.flights.map fun g => if ids.contains g.id then { g with seen := f.thr :: g.seen } else g }

/-- A byte of memory; one that this panel does not hold is free. -/
def State.byteAt (s : State) (k : Nat) : Byte :=
  if k < 2 ^ 100 then memByte s.mem k else BitVec.ofNat 8 (Config.freeNat (s.free + k))

/-- The bytes that held records leave at their places, the later last: one record's more (R242, R310). -/
def State.overlay (s : State) (tk pid : Nat) (o : List (Nat × Byte × Byte)) (e : Effect) : List (Nat × Byte × Byte) :=
  match e with
  | .store acc bs => o ++ bs.map fun b => (s.placeOf tk pid (acc + word b.1), b.2.1, b.2.2)
  | .red a op n b =>
    let k := s.placeOf tk pid a
    let old := ofBytes ((List.range n).map fun i =>
      o.foldl (fun v x => if x.1 = k + i then keptBits v x.2.1 x.2.2 else v) (s.byteAt (k + i)))
    o ++ (leBytes n (amoFun op n old b.toNat)).mapIdx fun i v => (k + i, v, 0xFF#8)
  | _ => o

/-- The bytes that the first records of an optimistic task's slot hold within a footprint, by their offset there: its own later loads
see them, whatever address they use (R232, R242). -/
def State.heldBytes (s : State) (tk pid cnt k n : Nat) : List WByte :=
  (((s.slot tk).task.held.take cnt).foldl (s.overlay tk pid) []).filterMap fun x =>
    if k ≤ x.1 ∧ x.1 < k + n then some (x.1 - k, x.2.1, x.2.2) else none

/-- A number with one byte replaced under a mask. -/
def patchByte (v : Nat) (i : Nat) (b mask : Byte) : Nat :=
  let old := BitVec.ofNat 8 (v / 256 ^ i)
  v - old.toNat * 256 ^ i + (keptBits old b mask).toNat * 256 ^ i

/-- A value read from a place, under the bytes that the first records of the slot hold there. -/
def State.underHeld (s : State) (tk pid cnt k n v : Nat) : Nat :=
  (s.heldBytes tk pid cnt k n).foldl (fun a b => patchByte a b.1 b.2.1 b.2.2) v

/-- The same for a head that issues now: it comes after every record. -/
def State.withHeld (s : State) (tk pid k n v : Nat) : Nat := s.underHeld tk pid (s.slot tk).task.held.length k n v

/-- What the issuing slot reads of its scratchpad: its bytes, under those that its task holds (R242). -/
def State.ownRead (s : State) (k n : Nat) : Nat := s.withHeld s.cur s.myPid k n (s.rd k n)

/-- The value that a load takes at the instant it is performed: memory, or a sibling's buffered store where the
hardware forwards it (R236, R238, R239), under the slot's own held bytes. -/
def State.loadAt (s : State) (f : Flight) (k : Nat) : Nat :=
  s.underHeld f.thr f.pid f.held k f.n ((s.siblingBytes f k).foldl (fun a b => patchByte a b.1 b.2 0xFF#8) (s.rd k f.n))

/-- The lane that an element of a vector access gives at a quad (R131, R193): through LT2 by that quad's table. -/
def State.laneValue (s : State) (qi w lane v : Nat) : Nat :=
  if w = 7 then
    fp32.encode .rne 0 ((lt2 v (FMap.get 0 (s.quad qi).ltab (v / 256)).toNat 127).getD (lane % 8) canonNan)
  else winDecode w v

/-- Numbers of `w` bits packed, the first lowest (R116). -/
def packLanes (w : Nat) : List Nat → Nat
  | [] => 0
  | x :: xs => x % 2 ^ w + 2 ^ w * packLanes w xs

/-- The 32-bit lanes that `n` bytes of a window give at a quad (R131). -/
def State.lanesValue (s : State) (qi w n v : Nat) : Nat :=
  packLanes 32 ((List.range (n * 8 / winBits w)).map fun i =>
    s.laneValue qi w i (if w = 7 then bitsAt v (16 * (i / 8)) 16 else bitsAt v (winBits w * i) (winBits w)))

/-- The result of an access through its window (R193). -/
def State.niValue (s : State) (qi : Nat) (f : Flight) (v : Nat) : Nat :=
  match f.ret with
  | .scalar _ sx => (scalarLoad (window f.addr) f.n sx v).toNat
  | .vec _ lane => s.laneValue qi (window f.addr) lane v
  | .sector _ _ _ => s.lanesValue qi (window f.addr) f.n v
  | _ => v

def State.setStage (s : State) (id : Nat) (st : Stage) : State :=
  { s with flights := s.flights.map fun f => if f.id = id then { f with stage := st } else f }

/-- An access reaches its home, under a translation (R204). -/
def State.setHome (s : State) (id k : Nat) (page : Nat × Nat) : State :=
  { s with flights := s.flights.map fun f => if f.id = id then { f with stage := .home k, page } else f }

def State.flight (s : State) (id : Nat) : Option Flight := s.flights.find? fun f => decide (f.id = id)

/-- An access that a quad has performed, or denied: its response leaves on the response lane (R326, R327). -/
def State.respond (s : State) (id qi : Nat) : State :=
  match s.flight id with
  | none => s
  | some f =>
    if !f.stage.performed then s
    else
      let q := quadOf f.thr
      let s1 := s.inject qi q f.pid (s.pAt q f.pid) 1 1 none
      { s1 with flights := s1.flights.map fun g => if g.id = id then { g with pkt := some s.ids } else g }

/-- The request still waits at its word (R252). -/
def State.stillWaits (s : State) (w : WordWait) : Bool :=
  match w.slot with
  | some tk => decide ((s.slot tk).st = .blocked (if w.lde then .full w.key else .empty w.key))
  | none => w.peer.isSome || s.flights.any fun f => decide (f.id = w.flight) && (match f.stage with
    | .atNI _ => true
    | _ => false)

/-- The key of the word that a request waits at. -/
def State.wordKey (s : State) (w : WordWait) : Option Nat :=
  match w.slot, w.peer with
  | some _, _ => some w.key
  | none, some (pid, a, _) => (s.engineKey0 0 pid {} a 8).toOption
  | none, none => match s.flight w.flight with
    | some f => match f.stage with
      | .atNI qi => s.shareAt f.pid qi (offset f.addr) 8
      | _ => none
    | none => none

/-- The first request for a word, of those for its full or for its empty state (R252). -/
def State.wordFirst (s : State) (k : Nat) (lde : Bool) : Option WordWait :=
  s.wordQueue.find? fun w => decide (w.lde = lde) && s.stillWaits w && decide (s.wordKey w = some k)

/-- A request comes to its word, behind those that wait there. -/
def State.wordJoin (s : State) (w : WordWait) : State :=
  { s with wordQueue := (s.wordQueue.filter fun x => s.stillWaits x && decide (x.slot = none ∨ x.slot ≠ w.slot)) ++ [w] }

/-- A plain access performed at a scratchpad or a home, in one step (R197, R200, R218). -/
def State.performAt (s : State) (f : Flight) (qi k : Nat) : State :=
  match f.op with
  | .load => (((s.noteForwards f).draw).setStage f.id (.resp (s.niValue qi f (s.loadAt f k))))
  | .store bs => (s.writeW k bs).setStage f.id .ack
  | .feinit b full => { (s.wr8 k b).setStage f.id .ack with fe := FMap.set false s.fe k full }
  | .touch _ => s.setStage f.id .ack
  | .tset b =>
    match s.tsetCell k b with
    | some t => t.setStage f.id (.resp 0)
    | none => s.setStage f.id (.resp (f.addr.toNat + 1))
  | .lde => (s.setStage f.id (.atNI qi)).wordJoin { flight := f.id, lde := true }
  | .stf _ => (s.setStage f.id (.atNI qi)).wordJoin { flight := f.id, lde := false }
  | _ => s.setStage f.id (.atNI qi)

/-- The STC counter of an address (R218): 1 S, 2 H, 3 P, 4 X; an address in a space that R218 does not list, which its checks will
refuse, takes that of STC.X in a W wait (log entry 137). -/
def storeCtr (a : Word) : Nat :=
  match space a with
  | 1 => 1 | 2 => 2 | 3 => 3 | _ => 4

/-- Where an access stands when it leaves the slot (R197, R204, R208). -/
def State.firstStage (s : State) (tk pid : Nat) (a : Word) (need : Perm) : Stage :=
  let b := s.inner a
  match space b with
  | 1 => match s.remoteQuad pid b with
    | some qi => .net qi
    | none => .denied
  | 2 => match s.tlbFind (coreOf tk) pid (fld b 0 48) need false with
    | some e => .home (hbmKey (e.pa + (fld b 0 48 - e.va)))
    | none => .xlate
  | 3 => if (s.part pid).routes.any fun r => decide (r.1 = fld b 51 9) then .edge else .denied
  | _ => match s.tlbFind (coreOf tk) pid (fld b 0 48) need true with
    | some _ => .home (hostKey (s.part pid).vf (fld b 0 48))
    | none => .ats

/-- The flits of a request: a store carries its data (R326). -/
def MemOp.flits : MemOp → Nat
  | .store bs => flitsFor bs.length
  | _ => 1

/-- Puts an access in flight under a partition. -/
def State.launchFlight (s : State) (f : Flight) : State :=
  let st := s.firstStage f.thr f.pid f.addr f.op.perm
  let hit := match st with
    | .home _ => (s.tlbFind (coreOf f.thr) f.pid (fld (s.inner f.addr) 0 48) f.op.perm false).map fun (e : TlbEntry) => (e.va, e.size)
    | _ => none
  let g : Flight := { f with page := hit.getD (0, 0), id := s.ids, pc := (s.slot f.thr).pc, stage := st, due := (s.core (coreOf f.thr)).cycle + 3,
                               held := (s.slot f.thr).task.held.length }
  match st with
  | .net qi =>
    let s1 := s.takeId.inject (quadOf f.thr) qi f.pid (pField (s.inner f.addr)) f.op.flits 0 none
    { s1 with flights := s1.flights ++ [{ g with pkt := some (s.ids + 1) }] }
  | _ => { s.takeId with flights := s.flights ++ [g] }

/-! ## Ends -/

/-- The answer to the slot that an access belongs to; after a rip nobody waits for it (R313). -/
def State.answerFlight (s : State) (f : Flight) : State := if f.ret = .op then s.answer f.thr 0 else s

/-- A part of a group brought its lanes, the first of them numbered. -/
def State.groupLane (s : State) (gid lane : Nat) (v : Nat) : State :=
  { s with groups := s.groups.map fun g =>
      if g.id = gid then { g with val := g.val ||| (BitVec.ofNat 2048 v <<< (32 * lane)) } else g }

/-- The destination of an access that ends without a result is no longer busy (R212). -/
def State.dropRet (s : State) (f : Flight) : State :=
  match f.ret with
  | .scalar r _ => s.updSlot f.thr fun x => { x with busy := unbusy r x.busy }
  | .pair r => s.updSlot f.thr fun x => { x with busy := unbusy (r + 1) (unbusy r x.busy) }
  | _ => s

def State.removeFlight (s : State) (f : Flight) : State :=
  { s.dropPacket f.pkt with flights := s.flights.filter fun g => decide (g.id ≠ f.id) }

/-- A sector of a copy under way. -/
def State.updRun (s : State) (ck id n : Nat) (g : SectorRun → SectorRun) : State :=
  s.updCore ck fun c => { c with fifo := c.fifo.map fun x =>
    if x.id = id then { x with going := x.going.map fun r => if r.n = n then g r else r } else x }

/-- An access ends: its count, its part of a group, a sector that a copy wrote. -/
def State.finishFlight (s : State) (f : Flight) : State :=
  let s1 := (s.removeFlight f).endCount f.thr f.ctr
  match f.ret with
  | .vec gid _ | .sector gid _ _ => s1.endGroup gid
  | .copy ck id n true => s1.updRun ck id n fun r => { r with wrote := true }
  | _ => s1

/-- The task that issued the access still runs at its thread: a rip, a spill or an end of the task changes the tag (R213, R313). -/
def State.sameTask (s : State) (f : Flight) : Bool := decide (f.tag = (s.slot f.thr).faultTag)

/-- A cause of an access waits at its slot, unless its task has left it: a task bound later takes nothing of it (R213, R313). -/
def State.postOwn (s : State) (f : Flight) (cause : Nat) (info : Word) : State :=
  if s.sameTask f then s.postAsync f.thr cause info else s

/-- A part of a group is denied, with its lowest active lane and its address. -/
def State.denyLane (s : State) (f : Flight) (gid lane : Nat) (a : Word) : State :=
  if s.sameTask f then
    { s with groups := s.groups.map fun (g : Group) => if g.id = gid then { g with denied := g.denied ++ [(lane, a)] } else g }
  else s

/-- A denied access (R197): it is not performed, its count ends, and the slot takes 0x07 asynchronously; the parts of a
vector access answer together (R153). A TSET or TOUCH that is denied ends its head. -/
def State.denyFlight (s : State) (f : Flight) : State :=
  match f.ret with
  | .sector gid first low =>
    let w := window f.addr
    let a := f.addr + word (if w = 7 then 2 * (low / 8 - first / 8) else (low - first) * winBits w / 8)
    (s.denyLane f gid low a).finishFlight f
  | .vec gid lane => (s.denyLane f gid lane f.addr).finishFlight f
  | .copy ck id _ wr => (s.updCore ck fun c =>
      { c with fifo := c.fifo.map fun x => if x.id = id ∧ x.status = 0 then { x with status := if wr then 2 else 1 } else x }).finishFlight f
  | .op => (((s.removeFlight f).endCount f.thr f.ctr).failReply f.thr).postOwn f 0x07 f.addr
  | _ => ((s.dropRet f).finishFlight f).postOwn f 0x07 f.addr

/-- Accesses that failed translation end unperformed (R208, R212): one ECAUSE 0x06 for them all, with the oldest's address. A
fill that a push started waits for the home to refuse the pushes (R271). -/
def State.failFlights (s : State) (thr : Nat) (fs : List Flight) (reason : Nat) : State :=
  let isPush (f : Flight) : Bool := match f.ret with
    | .fill _ push => push
    | _ => false
  let s0 := (fs.filter isPush).foldl (fun t f => t.setStage f.id .denied) s
  match fs.filter fun f => !isPush f with
  | [] => s0
  | f0 :: fs1 =>
    let s1 := (f0 :: fs1).foldl (fun t f =>
      let t1 : State := match f.ret with
        | .vec gid _ | .sector gid _ _ => { t with groups := t.groups.map fun (y : Group) => if y.id = gid then { y with failed := true } else y }
        | _ => t
      let t2 := if f.ret = .op then t1.failReply f.thr else t1
      (t2.dropRet f).finishFlight f) s0
    s1.postOwn { f0 with thr } 0x06 (word (reason * 2 ^ 52 + space f0.addr * 2 ^ 48 + fld f0.addr 0 48))

/-- A result arrives at its register (R223). -/
def State.deliver (s : State) (f : Flight) (v : Nat) : State :=
  match f.ret with
  | .none => s
  | .scalar r _ => s.arriveReg f.thr r (word v) f.pc f.due
  | .pair r => (s.arriveReg f.thr r (word v) f.pc f.due).arriveReg f.thr (r + 1) (word (v / 2 ^ 64)) f.pc f.due
  | .vec gid lane => s.groupLane gid lane (v % 2 ^ 32)
  | .sector gid first _ => s.groupLane gid first v
  | .op => s.reply f.thr v
  | .copy ck id n false => s.updRun ck id n fun r => { r with bytes := some (leBytes f.n v) }
  | .fill _ _ | .copy _ _ _ true => s

end Sys2Proof.Machine
end

