-- ==== Sys2Proof/Machine/Memory.lean ====
section
/-! DEFINITION. The memory heads (R110, R222 to R228), full/empty words (R250 to R254), and the system space (R209). -/

namespace Sys2Proof.Machine

/-! ## Waits (R220, R221, R224, R225, R240) -/

/-- An acquire of the slot has not returned its value (R224, R240); a pop is one (R278). -/
def State.acquiring (s : State) : Bool :=
  (s.flights.any fun f => decide (f.thr = s.cur) && f.acq) || s.spillPops.any fun p => decide (p.thr = s.cur)

/-- Every earlier access of the slot has been performed (R232, R240). -/
def State.allPerformed (s : State) : Bool :=
  (s.flights.all fun f => decide (f.thr ≠ s.cur) || f.stage.performed) && (s.storesPending s.cur).isEmpty

/-- The slot's posted writes have left the core's store buffer, its REDs among them, and its local stores have had their write
cycle (R225, R239, R240; log entry 138). -/
def State.storesLeft (s : State) : Bool :=
  (s.flights.all fun f => decide (f.thr ≠ s.cur) || f.stage.performed || (match f.op with
    | .store _ | .feinit _ _ | .dec => false
    | .amo _ _ => decide (f.ctr = 0)
    | _ => true)) && (s.storesPending s.cur).isEmpty

/-- The condition of FENCE (R225). -/
def State.fenceOk (s : State) (sc : Scope) : Bool :=
  let c := s.me.cnt
  match sc with
  | .slot | .core => true
  | .quad | .part => decide (c.ldc = 0 ∧ c.stcS = 0 ∧ c.stcH = 0) && s.storesLeft
  | .dom => decide (c.ldc = 0 ∧ c.stcS = 0 ∧ c.stcH = 0 ∧ c.stcP = 0) && s.storesLeft
  | .sys => decide (c.ldc = 0 ∧ c.stcS = 0 ∧ c.stcH = 0 ∧ c.stcP = 0 ∧ c.stcX = 0) && s.storesLeft

/-- The flushing read of FENCE.sys leaves the slot, which waits for it (R225). -/
def State.sendFlush (s : State) : State :=
  let f : Flight := { id := s.ids, thr := s.cur, pid := s.myPid, addr := word (4 * 2 ^ 60), n := 8, op := .flush, ret := .op
                      stage := .home (hostKey s.myPart.vf 0), tag := s.me.faultTag }
  ({ s.takeId with flights := s.flights ++ [f] } : State).updMe fun x => { x with st := .blocked .reply, op := .wait }

/-- A head that waits as FENCE of a scope does, from the state before its pops: at system scope a flushing read goes to the host once
the rest of the condition holds, and the head goes on when it has completed (R225). -/
def fenceWait (s0 s : State) (sc : Scope) (k : Act) : Act :=
  if !s.fenceOk sc then .block (.fence sc.code)
  else match sc, s.me.op with
    | .sys, .none => .keep s0.sendFlush
    | .sys, .wait => .block (.fence sc.code)
    | _, _ => k

/-- The condition of a W field for an address (R220). -/
def State.wOk (s : State) (w : BitVec 2) (a : Word) : Bool :=
  let c := s.me.cnt
  match w.toNat with
  | 0 => true
  | 1 => if space a = 0 then decide (c.stc = 0) else decide (c.val (storeCtr a) = 0)
  | 2 => decide (c.cpc = 0)
  | _ => decide (c.tlc = 0)

/-- The waits of an access before its checks: its W field, and an acquire that has not returned. -/
def memWait (s : State) (w : BitVec 2) (a : Word) (k : Act) : Act :=
  if !s.wOk w a then .block (.wfield w.toNat (storeCtr a))
  else if s.acquiring then .block .acquire
  else k

/-- A local footprint still has an unperformed access of the slot through another space, or a sibling's buffered store that the slot
has seen, or the slot a local store before its write cycle (R223, R232, R237). -/
def State.localConflict (s : State) (k n : Nat) : Bool :=
  (s.flights.any fun f => (decide (f.thr = s.cur) || f.seen.contains s.cur) && !f.stage.performed && overlap (s.flightPlace f) f.n k n)
    || !(s.storesPending s.cur).isEmpty

/-- A local access that is forwarded to the failed quad makes its block the next to be moved (R374). -/
def noted (s : State) (k : Nat) (a : Act) : Act :=
  if keyQuad k = quadOf s.cur then a else a.andThen fun t => t.noteBlock (quadOf s.cur) k

/-- A local access: it waits for an earlier access to a common byte, and for the owner of its sector (R241). -/
def localWait (s : State) (k n : Nat) (a : Act) : Act :=
  if s.localConflict k n then .block .acquire else if s.owned k n then .block .owned else noted s k a

/-- The local bytes of an element or a payload of kind .a wait for their owner (R241). -/
def kindWait (s : State) (k : ElemKind) (v : Word) (n : Nat) (a : Act) : Act :=
  match k with
  | .a => localWait s (s.localKey s.cur (offset v)) n a
  | _ => a

/-- Room in a counter (R219). -/
def roomFor (s : State) (ctr : Nat) (k : Act) : Act := if ctrMax ctr ≤ s.me.cnt.val ctr then .block (.room ctr) else k

/-- A held effect (R310): it joins the task's records, or exhausts the effect allowance. -/
def holdEffect (s : State) (e : Effect) : Act :=
  let t := s.me.task
  if t.effRes < t.heldBytes + e.bytes then .exhaust 3 3
  else .next (s.updMe fun x => x.updTask fun k => { k with held := k.held ++ [e] })

/-- The next number of a basted slot's atomic or message (R370). -/
def State.nextSeq (s : State) : Option Nat := if s.me.bst then some s.me.sr.basteSeq.toNat else none
def State.bumpSeq (s : State) : State :=
  if s.me.bst then s.updMe fun x => x.updSr fun r => { r with basteSeq := r.basteSeq + 1 } else s

/-! ## The system space (R209, R210, R212) -/

/-- Answers to faults (R212): the flights of a thread of a partition that bear a tag and wait for a reply. -/
def State.faultedFlights (s : State) (pid tk : Nat) (tag : BitVec 8) : List Flight :=
  s.flights.filter fun f => decide (f.pid = pid ∧ f.thr = tk ∧ f.tag = tag) && (match f.stage with
    | .fault _ => true
    | _ => false)

/-- A drained record that ends unperformed is reported (R397). -/
def State.drainReport (s : State) (d : DrainTask) (cause : Nat) (info : Word) : State :=
  s.service d.pid { kind := 0x41, thread := s.threadIn d.pid d.thr, info, w2 := d.handle, w3 := word cause }

/-- A record of a drain that was sent is refused at its destination (R397): it ends unperformed. -/
def State.drainDeny (s : State) (id cause : Nat) (info : Word) : State :=
  let mine (d : DrainTask) : Bool := decide (d.sent = some id)
  let next (d : DrainTask) : DrainTask := if mine d then { d with sent := none, failed := true, recs := d.recs.tail } else d
  let hit := s.quads.flatMap fun q => q.2.drain.filter mine
  let s1 : State := { s with quads := s.quads.map fun q => (q.1, { q.2 with drain := q.2.drain.map next }) }
  hit.foldl (fun t d => t.drainReport d cause info) s1

/-- EINFO of a failed translation (R212). -/
def xlateInfo (reason : Nat) (a : Word) : Word := word (reason * 2 ^ 52 + space a * 2 ^ 48 + fld a 0 48)

/-- The reply to a drain that waits (R397): the record is performed again, or ends unperformed. -/
def State.drainAnswer (s : State) (qi : Nat) (match_ : DrainTask → Bool) (fail : Bool) (reason : Nat) : State :=
  let hit := (s.quad qi).drain.filter fun d => match_ d && d.faulted
  let next (d : DrainTask) : DrainTask :=
    { d with faulted := false, s2 := none, failed := d.failed || fail, recs := if fail then d.recs.tail else d.recs }
  let s1 := s.updQuad qi fun q => { q with drain := q.drain.map fun d => if match_ d && d.faulted then next d else d }
  if fail then
    hit.foldl (fun t d => t.drainReport d 0x06 (xlateInfo reason d.bad)) s1
  else s1

/-- Drains of a partition that wait for a reply of its service core (R11, R397). -/
def State.drainReply (s : State) (pid tk : Nat) (tag : BitVec 8) (fail : Bool) (reason : Nat) : State :=
  s.drainAnswer (quadOf tk) (fun d => decide (d.pid = pid ∧ d.thr = tk ∧ d.tag = tag ∧ d.s2 = none)) fail reason

/-- Pushes of a channel in flight are dropped, and their counts end (R280). -/
def State.dropPushes (s : State) (pid ch : Nat) : State :=
  let gone := s.pushes.filter fun p => decide (p.pid = pid ∧ p.ch = ch) && !p.acked
  let s1 : State := { s with pushes := s.pushes.filter fun p => !decide (p.pid = pid ∧ p.ch = ch) || p.acked }
  gone.foldl (fun t p => (if p.counted then t.endCount p.src 1 else t).dropPacket p.pkt) s1

/-- An entry of a poisoned channel: STATE 2; an eviction that failed frees the ring (R272, R280). -/
def ChanEnt.poisoned (e : ChanEnt) (evict : Bool) : ChanEnt :=
  { e with state := 2, ring := if evict then none else e.ring, lost := e.lost || evict }

/-- A channel becomes poisoned wherever it is cached (R280). An eviction that failed frees the ring at the home, which keeps the entry, and
ends a CHINV whose writes had begun (R272); the ring's space goes to channels without one (R281). -/
def State.poison (s : State) (pid ch : Nat) (evict : Bool) : State :=
  let isIt (e : ChanEnt) : Bool := decide (e.pid = pid ∧ e.id = ch)
  let s1 := s.dropPushes pid ch
  let home (qi : Nat) (e : ChanEnt) : Bool := evict && s.isHome qi e
  let hit (qi : Nat) (q : Quad) : Quad := { q with chans := q.chans.map fun e => if isIt e then e.poisoned (home qi e) else e }
  let ends (tk : Nat) (x : Slot) : Bool := decide (x.st = .blocked (.chAcks ch) ∧ x.op = .wait)
    && (s.quad (quadOf tk)).chans.any fun e => isIt e && home (quadOf tk) e
  let s2 : State := { s1 with quads := s1.quads.map fun q => (q.1, hit q.1 q.2)
                              slots := s1.slots.map fun x => (x.1, if ends x.1 x.2 then x.2.endWait 0 else x.2) }
  let freed := (s1.quads.filter fun q => evict && q.2.chans.any fun e => isIt e && e.ring.isSome).map fun q => q.1
  freed.foldl (fun t qi => t.regrantRings qi) s2

/-- Channel faults of a reader thread are answered (R272, R276): a retry lets the access be made again, a failure
poisons the channel. -/
def State.chanReply (s : State) (pid thread : Nat) (tag : BitVec 8) (fail : Bool) : State :=
  let mine (f : ChanFault) : Bool := decide (f.pid = pid ∧ f.thread = thread ∧ f.tag = tag ∧ f.s2 = none)
  let s1 : State := { s with chanFaults := s.chanFaults.filter fun f => !mine f }
  if fail then (s.chanFaults.filter mine).foldl (fun t f => t.poison f.pid f.ch f.evict) s1 else s1

/-- FREPLY with FAIL 0 (R212): each faulted access is sent again. -/
def State.freplyRetry (s : State) (pid thread : Nat) (tag : BitVec 8) : State :=
  match s.threadKey pid thread with
  | none => s
  | some tk =>
    let ids := (s.faultedFlights pid tk tag).map fun f => f.id
    (({ s with flights := s.flights.map fun (f : Flight) => if ids.contains f.id then { f with stage := .xlate } else f }).drainReply
      pid tk tag false 0).chanReply pid thread tag false

/-- FREPLY with FAIL 1 (R212). -/
def State.freplyFail (s : State) (pid thread : Nat) (tag : BitVec 8) (reason : BitVec 12) : State :=
  match s.threadKey pid thread with
  | none => s
  | some tk => ((s.failFlights tk (s.faultedFlights pid tk tag) reason.toNat).drainReply pid tk tag true reason.toNat).chanReply pid thread tag true

/-- The bytes of a page size code; none for ALL (R209). -/
def invSize (code : Nat) : Option Nat :=
  match code with
  | 0 => some (2 ^ 12) | 1 => some (2 ^ 16) | 2 => some (2 ^ 21) | 3 => some (2 ^ 25) | 4 => some (2 ^ 30)
  | 5 => some (2 ^ 34) | _ => none

/-- S1INV accepted (R210). -/
def State.s1inv (s : State) (pid : Nat) (what : Option (Nat × Nat)) : State :=
  s.updPart pid fun p => { p with s1issued := p.s1issued + 1, s1inv := p.s1inv ++ [what] }

/-- A read of a system register (R209): write-only registers read as zero (R5). -/
def sysRead (p : Part) (off : Nat) : Option Word :=
  match off with
  | 0x000 => some p.s1root
  | 0x008 => some 0
  | 0x010 => some (word (p.s1issued.toNat * 2 ^ 32 + p.s1done.toNat))
  | 0x018 => some 0
  | 0x020 => some (word p.spsize)
  | _ => none

/-- A write of a system register (R209). -/
def State.sysWrite (s : State) (off : Nat) (v : Word) : Option State :=
  let pid := s.myPid
  match off with
  | 0x000 => some (s.updPart pid fun p => { p with s1root := v &&& 0x000FFFFFFFFFF001#64 })
  | 0x008 =>
    if v.getLsbD 3 then some (s.s1inv pid none)
    else some (s.s1inv pid ((invSize (fld v 0 3)).map fun n => (fld v 12 36 * 4096, n)))
  | 0x010 => some s
  | 0x018 =>
    if v.getLsbD 16 then some (s.freplyFail pid (fld v 0 16) (BitVec.ofNat 8 (fld v 24 8)) (BitVec.ofNat 12 (fld v 32 12)))
    else some (s.freplyRetry pid (fld v 0 16) (BitVec.ofNat 8 (fld v 24 8)))
  | 0x020 => some s
  | _ => none

/-! ## Loads -/

/-- The place of a load that hits the core's L1: its translation is at hand, its line is there, and nothing that comes before it is
still to be performed (R198, R204, R232). -/
def State.l1Place (s : State) (f : Flight) : Option Nat :=
  if space f.addr ≠ 2 then none else
  match s.tlbFind (coreOf f.thr) f.pid (fld f.addr 0 48) permR false with
  | none => none
  | some e =>
    let k := hbmKey (e.pa + (fld f.addr 0 48 - e.va))
    let g := { f with stage := .home k }
    if (s.core (coreOf f.thr)).l1Hit (lineOf (e.pa + (fld f.addr 0 48 - e.va))) (s.part f.pid).key && s.mayPerform g && !s.owned k f.n
    then some k else none

/-- A load that hits L1: it is performed, and its register is written in cycle k + 6, when its count ends (R218, R223). -/
def State.hitLoad (s : State) (f : Flight) (r k : Nat) : State :=
  let g := { f with stage := .home k, held := (s.slot f.thr).task.held.length }
  let v := word (s.niValue (quadOf f.thr) g (s.loadAt g k))
  (((((s.addCount f.thr 0).markBusy f.thr r).noteForwards g).draw.updCore (coreOf f.thr) fun c =>
    { c with l1 := l1Load c.l1 (lineOf (k - 2 ^ 44)) (s.part f.pid).key f.cp }).pendAt (.hit r) v 6)

/-- A remote load leaves the slot, or hits L1 (R218, R223). -/
def sendLoad (s : State) (d : Reg) (a : Word) (n : Nat) (sx : Bool) (cp : Nat) (acq : Bool) (scope : Nat) : Act :=
  let f : Flight := { id := s.ids, thr := s.cur, pid := s.myPid, addr := a, n, op := .load, ret := .scalar d.toNat sx, ctr := 0
                      acq, scope, tag := s.me.faultTag, cp }
  roomFor s 0 (lateDest s d (.next (match s.l1Place f with
    | some k => s.hitLoad f d.toNat k
    | none => ((s.addCount s.cur 0).markBusy s.cur d.toNat).launchFlight f)))

/-- A scalar load from an address that has passed its checks (R193, R223). -/
def doLoad (s : State) (d : Reg) (a : Word) (n : Nat) (sx : Bool) (cp : Nat) (acq : Bool) (scope : Nat) : Act :=
  if space a = 0 then
    let k := s.localKey s.cur (offset a)
    localWait s k n (put s d (scalarLoad (window a) n sx (s.ownRead k n)) (if window a = 0 then 6 else 8))
  else sendLoad s d a n sx cp acq scope

/-- LD and LDS, LDG (R222, R223): `sys` is LD, which alone reaches the system space (R209). -/
def loadAct (s : State) (d : Reg) (a : Word) (sz : Size) (sx sys : Bool) (w : BitVec 2) (cp : Cp) : Act :=
  memWait s w a
    (if sys && decide (space a = 15) then
      (firstTrap [spaceCheck s.super a, failIf (sz != .w) 0x02 a]).orElse
        (match sysRead s.myPart (fld a 0 12) with
        | none => .trap 0x02 a
        | some v => put s d v 3)
    else
      (s.accessCheck permR a (sizeBytes sz) (sizeBytes sz) (winSizeBad (window a) (sizeBytes sz))).orElse
        (doLoad s d a (sizeBytes sz) sx cp.code false 0))

/-- LD (R223). -/
def execLd (d a : Reg) (off : BitVec 14) (sz : Size) (w : BitVec 2) (cp : Cp) (s : State) : Res :=
  runHead { rd := [a], wr := [d] } s fun v t => loadAct t d (addrOff (v a) off (sizeBytes sz)) sz false true w cp
/-- LDS (R223). -/
def execLds (d a : Reg) (off : BitVec 14) (sz : Size) (w : BitVec 2) (cp : Cp) (s : State) : Res :=
  runHead { rd := [a], wr := [d] } s fun v t => loadAct t d (addrOff (v a) off (sizeBytes sz)) sz true false w cp
/-- LDG (R223). -/
def execLdg (d a b : Reg) (off : BitVec 14) (sz : Size) (w : BitVec 2) (cp : Cp) (s : State) : Res :=
  runHead { rd := [a, b], wr := [d] } s fun v t =>
    loadAct t d (addrIdx (v a) (v b) off (sizeBytes sz)) sz false false w cp

/-- LDA (R224): an acquire; only the RAW window. -/
def execLda (d a : Reg) (sz : Size) (sc : Scope) (s : State) : Res :=
  runHead { rd := [a], wr := [d] } s fun v t =>
    memWait t 0 (v a) ((t.accessCheck permR (v a) (sizeBytes sz) (sizeBytes sz) (decide (window (v a) ≠ 0))).orElse
      (doLoad t d (v a) (sizeBytes sz) false 0 true sc.code))

/-! ## Stores -/

/-- A posted store leaves the slot, or is held (R218, R223, R310). -/
def sendStore (s : State) (a : Word) (n : Nat) (bs : List WByte) (cp : Nat) (rel : Bool) (scope : Nat) : Act :=
  if s.me.optimistic then holdEffect s (.store a bs)
  else roomFor s (storeCtr a) (.next ((s.addCount s.cur (storeCtr a)).launchFlight
    { id := 0, thr := s.cur, pid := s.myPid, addr := a, n, op := .store bs, ctr := storeCtr a, rel, scope
      tag := s.me.faultTag, cp }))

/-- A scalar store to an address that has passed its checks (R193, R223): a local one is performed in cycle k + 3. -/
def doStore (s : State) (a : Word) (n v cp : Nat) (rel : Bool) (scope : Nat) : Act :=
  if space a = 0 then
    let k := s.localKey s.cur (offset a)
    localWait s k n (.next (s.pendOp (.store k (wholeBytes n v)) 0))
  else sendStore s a n (wholeBytes n v) cp rel scope

/-- ST and STG (R222, R223): `sys` is ST, which alone reaches the system space (R209). -/
def storeAct (s : State) (a b : Word) (sz : Size) (sys : Bool) (w : BitVec 2) (cp : Cp) : Act :=
  memWait s w a
    (if sys && decide (space a = 15) then
      (firstTrap [spaceCheck s.super a, failIf (sz != .w) 0x02 a]).orElse
        (match s.sysWrite (fld a 0 12) b with
        | none => .trap 0x02 a
        | some t => .next t)
    else
      (s.accessCheck permW a (sizeBytes sz) (sizeBytes sz) (winSizeBad (window a) (sizeBytes sz))).orElse
        (doStore s a (sizeBytes sz) (scalarStore (window a) (sizeBytes sz) b) cp.code false 0))

/-- ST (R223). -/
def execSt (a b : Reg) (off : BitVec 14) (sz : Size) (w : BitVec 2) (cp : Cp) (s : State) : Res :=
  runHead { rd := [a, b] } s fun v t => storeAct t (addrOff (v a) off (sizeBytes sz)) (v b) sz true w cp
/-- STG (R223): D is the data. -/
def execStg (d a b : Reg) (off : BitVec 14) (sz : Size) (w : BitVec 2) (cp : Cp) (s : State) : Res :=
  runHead { rd := [d, a, b] } s fun v t => storeAct t (addrIdx (v a) (v b) off (sizeBytes sz)) (v d) sz false w cp

/-- STL (R224): a release; a local one, and one at system scope, waits as FENCE of its scope does; each is performed after every
earlier access of the slot (R232, R240). -/
def execStl (a b : Reg) (sz : Size) (sc : Scope) (s : State) : Res :=
  runHead { rd := [a, b] } s fun v t =>
    memWait t 0 (v a) ((t.accessCheck permW (v a) (sizeBytes sz) (sizeBytes sz) (decide (window (v a) ≠ 0))).orElse
      (let store := doStore t (v a) (sizeBytes sz) (scalarStore 0 (sizeBytes sz) (v b)) 0 true sc.code
      if space (v a) = 0 ∧ t.allPerformed = false then .block (.fence sc.code)
      else if space (v a) = 0 ∨ sc = .sys then fenceWait s t sc store else store))

/-! ## Caches (R226, R227) -/

/-- PREF (R226): an HBM line whose translation hits enters L1 and the die's L2 or RDC; nothing else happens, and it raises no trap of
its register field. -/
def execPref (a : Reg) (off : BitVec 14) (cp : Cp) (s : State) : Res :=
  let u : Use := { rd := [a] }
  if (u.names.any s.me.sr.outside || (u.misused s.myCore (slotNo s.cur)).isSome) = true then .next ((Act.next s).run s)
  else runHead u s fun v t =>
    let x := addrOff (v a) off 8
    if space x = 2 ∧ mustBeZero x then
      match t.tlbFind (coreOf t.cur) t.myPid (fld x 0 48) permR false with
      | some e => .next (t.cacheLoad (coreOf t.cur) (e.pa + (fld x 0 48 - e.va)) t.myPart.key cp.code)
      | none => .next t
    else .next t

/-- The core's buffered stores (R227): those to a line, whatever address they use, or all. -/
def State.buffered (s : State) (line : Option Word) : Bool :=
  s.flights.any fun f => decide (coreOf f.thr = coreOf s.cur) && (match f.op with
    | .store _ => (match line with
      | none => true
      | some a => let l := word (a.toNat / 32 * 32)
        overlap f.addr.toNat f.n l.toNat 32 || overlap (s.flightPlace f) f.n (s.placeOf s.cur s.myPid l) 32)
    | _ => false)

/-- The physical line that an address of this panel's HBM names; none where the address has no translation. -/
def State.cachedLine (s : State) (a : Word) : Option Nat :=
  let b := s.inner a
  let va := fld b 0 48
  if space b = 2 then (s.tlbPath (coreOf s.cur) s.myPid va {}).map fun e => lineOf (e.pa + (va - e.va)) else none

/-- The checks of CFLUSH.line and CINV (R227): R191 and alignment. -/
def State.lineCheck (s : State) (a : Word) (n : Nat) : Check :=
  firstTrap [spaceCheck s.super a, failIf (decide (space a = 15)) 0x02 a, failIf (decide (a.toNat % n ≠ 0)) 0x04 a]

/-- A line leaves the RDC of a die, and with it its copies in the L1s there (R198, R227). -/
def State.rdcDrop (s : State) (die line : Nat) : State :=
  if s.dieLines.any fun e => decide (e.1 = die * 2 + 1 ∧ e.2.line = line) then s.dieEvict (die * 2 + 1) line else s

/-- CFLUSH.line (R227): it waits until the buffered stores to its line are acknowledged, and the line leaves L1 and the RDC. -/
def execCflushLine (a : Reg) (s : State) : Res :=
  runHead { rd := [a] } s fun v t =>
    (t.lineCheck (v a) 32).orElse
      (if t.buffered (some (v a)) then .block (.flushed (some (v a)))
      else match t.cachedLine (v a) with
        | none => .next t
        | some l =>
          .next ((t.updMyCore fun c => { c with l1 := c.l1.filter fun x => decide (x.line ≠ l) }).rdcDrop (dieOf (quadOf t.cur)) l))

/-- CFLUSH.all (R227). -/
def execCflushAll (_a : Reg) (s : State) : Res :=
  runHead {} s fun _ t =>
    if t.buffered none then .block (.flushed none) else .next (t.updMyCore fun c => { c with l1 := [] })

/-- CINV.line (R227). -/
def execCinvLine (a : Reg) (s : State) : Res :=
  runHead { rd := [a] } s fun v t =>
    (t.lineCheck (v a) 32).orElse
      (match t.cachedLine (v a) with
      | none => .next t
      | some l => .next (t.updMyCore fun c => { c with l1 := c.l1.filter fun x => decide (x.line ≠ l) }))

/-- The key of an instruction line in the quad's cache: partition and address. -/
def fetchKey (pid : Nat) (pc : Word) : Nat := pid * 2 ^ 64 + (lineBase pc).toNat

/-- A line enters a quad's instruction cache of 1,024 lines (R15); a full one loses a line, and the spec does not say which. -/
def State.cacheLine (s : State) (qi key l : Nat) : State :=
  let old := (s.quad qi).icache
  if old.length < 1024 ∨ (old.any fun e => decide (e.1 = key)) = true then
    s.updQuad qi fun q => { q with icache := FMap.insert q.icache key l }
  else s.draw.updQuad qi fun q => { q with icache := FMap.insert (q.icache.eraseIdx (Config.freeNat s.free % 1024)) key l }

/-- CINV.iline (R227): the next fetch of the line reads memory. -/
def execCinvIline (a : Reg) (s : State) : Res :=
  runHead { rd := [a] } s fun v t =>
    (t.lineCheck (v a) 64).orElse
      (.next (t.updMyQuad fun q => { q with icache := FMap.erase q.icache (fetchKey t.myPid (v a)) }))

/-- CINV.all (R227). -/
def execCinvAll (_a : Reg) (s : State) : Res :=
  runHead {} s fun _ t => .next (t.updMyCore fun c => { c with l1 := [] })

/-! ## FENCE, WAITC (R221, R225) -/

/-- FENCE (R225). -/
def execFence (sc : Scope) (s : State) : Res :=
  runHead {} s fun _ t => fenceWait s t sc (.next t)

/-- WAITC (R221). -/
def execWaitc (l st c tl : BitVec 4) (s : State) : Res :=
  runHead {} s fun _ t =>
    let k := t.me.cnt
    if k.ldc ≤ l.toNat ∧ k.stc ≤ st.toNat ∧ k.cpc ≤ c.toNat ∧ k.tlc ≤ tl.toNat then .next t
    else .block (.limits l.toNat st.toNat c.toNat tl.toNat)

/-! ## Full/empty words (R250 to R253) -/

/-- The checks of R251, with the permissions that the guard asks for (R195); an LDE writes no byte (R311). -/
def State.feCheck (s : State) (p : Perm) (writes : Bool) (a : Word) : Check :=
  let scratch := decide (space a = 0 ∨ space a = 1) || (decide (space a = 3) && decide (fld a 50 1 = 0))
  firstTrap [spaceCheck s.super a,
    failIf (!scratch || decide (window a ≠ 0)) 0x02 a,
    failIf (decide (a.toNat % 8 ≠ 0)) 0x04 a,
    if space a = 0 then s.localCheck s.cur p a 8 else none,
    if space a = 0 && writes then s.localWrite s.cur a 8 else none,
    s.remoteCheck s.myPid a,
    failIf (s.me.optimistic && decide (space a ≠ 0)) 0x02 a]

/-- Another request that waits at the word came before (R252). -/
def State.queued (s : State) (k : Nat) (lde : Bool) : Bool :=
  match s.wordFirst k lde with
  | some w => decide (w.slot ≠ some s.cur)
  | none => false

/-- The issuing slot waits at a word of its own scratchpad, in its order of arrival (R252). -/
def State.awaitWord (s : State) (k : Nat) (lde : Bool) : State :=
  let w : Wait := if lde then .full k else .empty k
  let s1 := if s.me.st = .blocked w ∧ s.wordQueue.any (fun x => decide (x.slot = some s.cur)) then s
    else s.wordJoin { slot := some s.cur, key := k, lde }
  s1.blockMe w

/-- A remote LDE or STF leaves the slot, which waits for it (R252). -/
def sendWaiting (s : State) (a : Word) (op : MemOp) (ctr : Nat) (acq rel : Bool) : Act :=
  roomFor s ctr (.keep (((s.addCount s.cur ctr).launchFlight
    { id := 0, thr := s.cur, pid := s.myPid, addr := a, n := 8, op, ret := .op, ctr, acq, rel, scope := 3
      tag := s.me.faultTag }).await))

/-- LDE (R251, R252). -/
def execLde (d a : Reg) (off : BitVec 14) (w : BitVec 2) (_cp : Cp) (s : State) : Res :=
  runReply { rd := [a], wr := [d] } s (fun v t =>
    let x := addrOff (v a) off 8
    memWait t w x ((t.feCheck permRW false x).orElse
      (if space x = 0 then
        let k := t.localKey t.cur (offset x)
        if t.localConflict k 8 then .block .acquire
        else if FMap.get false t.fe k && !t.queued k true && !t.owned k 8 then
          noted t k (put { t with fe := FMap.set false t.fe k false } d (word (t.ownRead k 8)) 6)
        else .keep (s.awaitWord k true)
      else lateDest t d (sendWaiting t x .lde 0 true false))))
    (fun v t => put t d v 3)

/-- STF (R251, R252). -/
def execStf (a b : Reg) (off : BitVec 14) (w : BitVec 2) (_cp : Cp) (s : State) : Res :=
  runReply { rd := [a, b] } s (fun v t =>
    let x := addrOff (v a) off 8
    memWait t w x ((t.feCheck permRW true x).orElse
      (if space x = 0 then
        let k := t.localKey t.cur (offset x)
        if !t.fenceOk .part then .block (.fence 3)
        else if t.localConflict k 8 then .block .acquire
        else if !FMap.get false t.fe k && !t.queued k false && !t.owned k 8 then
          noted t k (.next { t.wr8 k (v b) with fe := FMap.set false t.fe k true })
        else .keep (s.awaitWord k false)
      else sendWaiting t x (.stf (v b)) (storeCtr x) false true)))
    (fun _ t => .next t)

/-- FEINIT (R253): the word and its state in one step, a local one in its write cycle; the guard gives WR alone, by R195 (log entry
137). -/
def feinit (full : Bool) (a b : Reg) (s : State) : Res :=
  runHead { rd := [a, b] } s fun v t =>
    let x := v a
    memWait t 0 x ((t.feCheck permW true x).orElse
      (if space x = 0 then
        let k := t.localKey t.cur (offset x)
        localWait t k 8 (.next (t.pendOp (.feinit k full) (v b)))
      else roomFor t (storeCtr x) (.next ((t.addCount t.cur (storeCtr x)).launchFlight
        { id := 0, thr := t.cur, pid := t.myPid, addr := x, n := 8, op := .feinit (v b) full, ctr := storeCtr x
          tag := t.me.faultTag }))))
/-- FEINIT.empty (R253). -/
def execFeinitEmpty (a b : Reg) (s : State) : Res := feinit false a b s
/-- FEINIT.full (R253). -/
def execFeinitFull (a b : Reg) (s : State) : Res := feinit true a b s

/-! ## TOUCH (R228), WAITADDR (R110) -/

/-- TOUCH (R228): the slot waits for the translation; a local address is only checked. -/
def touch (wr : Bool) (a : Reg) (s : State) : Res :=
  runReply { rd := [a] } s (fun v t =>
    let x := v a
    let need := if wr then permW else permR
    (firstTrap [spaceCheck t.super x, failIf (decide (space x = 15)) 0x02 x,
      if space x = 0 then t.localCheck t.cur need x 1 else none, t.remoteCheck t.myPid x]).orElse
      (if space x = 0 then .next t
      else match t.firstStage t.cur t.myPid x need with
        | .home _ => .next t
        | _ => .keep ((t.launchFlight { id := 0, thr := t.cur, pid := t.myPid, addr := x, n := 1, op := .touch wr
                                        ret := .op, tag := t.me.faultTag }).await)))
    (fun _ t => .next t)
/-- TOUCH.rd (R228). -/
def execTouchRd (a : Reg) (s : State) : Res := touch false a s
/-- TOUCH.wr (R228). -/
def execTouchWr (a : Reg) (s : State) : Res := touch true a s

/-- What a slot reads of a word of its own scratchpad. -/
def State.wordFor (s : State) (tk k : Nat) : Nat := s.withHeld tk (s.pidOf tk) k 8 (s.rd k 8)

/-- A slot blocked in WAITADDR tests its word again (R110), once no owner stands before it (R241). -/
def State.retestSlot (s : State) (tk : Nat) : State :=
  match (s.slot tk).st with
  | .blocked (.wordNe k b) =>
    if decide (word (s.wordFor tk k) = b) || s.owned k 8 then s else s.updSlot tk fun x => x.endWait (s.wordFor tk k)
  | _ => s

/-- Every slot blocked in WAITADDR tests its word again: after every write (R110). -/
def State.retest (s : State) : State := (s.slots.map fun e => e.1).foldl State.retestSlot s

/-- A WAKE reaches its slot (R111): it ends the WAITADDR or MWAIT in which the slot is blocked; otherwise, and while an owner stands before
the word (R241), it sets the bit. -/
def State.takeWake (s : State) (tk : Nat) : State :=
  match (s.slot tk).st with
  | .blocked .mwait => s.updSlot tk fun x => x.endWait 0
  | .blocked (.wordNe k _) =>
    if s.owned k 8 then s.updSlot tk fun x => { x with wake := true } else s.updSlot tk fun x => x.endWait (s.wordFor tk k)
  | _ => s.updSlot tk fun x => { x with wake := true }

/-- WAITADDR (R110): an acquire at partition scope of a local word. -/
def execWaitaddr (d a b : Reg) (off : BitVec 14) (w : BitVec 2) (s : State) : Res :=
  runReply { rd := [a, b], wr := [d] } s (fun v t =>
    let x := addrOff (v a) off 8
    (firstTrap [spaceCheck t.super x,
      failIf (decide (space x ≠ 0 ∨ window x ≠ 0)) 0x02 x,
      failIf (decide (x.toNat % 8 ≠ 0)) 0x04 x,
      failIf (decide (t.spSize t.myPid < offset x + 8)) 0x0D x,
      if space x = 0 then t.localCheck t.cur permR x 8 else none]).orElse
      (memWait t w x
        (let k := t.localKey t.cur (offset x)
        let now := word (t.ownRead k 8)
        localWait t k 8 (if t.me.wake then put (t.updMe fun y => { y with wake := false }) d now 6
        else if now ≠ v b then put t d now 6
        else .block (.wordNe k (v b))))))
    fun v t => put (t.popPorts [a, b]) d v 6

/-! ## PLACE (R217) -/

/-- PLACE.set (R217). -/
def execPlaceSet (imm : BitVec 22) (s : State) : Res :=
  runHead { sup := some 0x6C80 } s fun _ t =>
    if imm.toNat = 0 ∨ 2 ^ 21 - 1 < imm.toNat then .trap 0x02 (zext imm)
    else .next (t.updPart t.myPid fun p => { p with threshold := imm.toNat })
/-- PLACE.get (R217). -/
def execPlaceGet (d : Reg) (s : State) : Res :=
  runHead { wr := [d], sup := some (0x6C80 + d.toNat) } s fun _ t => put t d (word t.myPart.threshold) 3

/-- The granules that a partition's stage 2 maps. -/
def State.ownsGranule (s : State) (pid g : Nat) : Bool :=
  (s.part pid).s2.any fun m => decide (m.pa ≤ g * 4096 ∧ g * 4096 < m.pa + m.size)

/-- PLACE.clr (R217): of an HBM address, bits [47:0] name the granule (log entry 137). -/
def execPlaceClr (a : Reg) (s : State) : Res :=
  runHead { rd := [a], sup := some 0x6C80 } s fun v t =>
    if a.toNat = 0 then .next { t with place := t.place.filter fun e => !t.ownsGranule t.myPid e.1 }
    else if space (v a) ≠ 2 then .trap 0x0D (v a)
    else match (t.translate t.myPid (fld (v a) 0 48) {}).2 with
      | none => .next t
      | some e => .next { t with place := FMap.erase t.place ((e.pa + (fld (v a) 0 48 - e.va)) / 4096) }

end Sys2Proof.Machine
end

