-- ==== Sys2Proof/Machine/Atomics.lean ====
section
/-! DEFINITION. AMO, CAS, CAS2 and RED (R243 to R249), the contention predictor (R244), tree reductions (R377). -/

namespace Sys2Proof.Machine

/-- The checks of an atomic, in the order of R245. -/
def State.atomicCheck (s : State) (a : Word) (n : Nat) (red : Bool) : Check :=
  firstTrap [spaceCheck s.super a,
    failIf (decide (space a = 4)) 0x0C a,
    failIf (decide (space a = 15)) 0x02 a,
    failIf (decide (a.toNat % n ≠ 0)) 0x04 a,
    failIf (decide (window a ≠ 0)) 0x02 a,
    if space a = 0 then s.localCheck s.cur permRW a n else none,
    if space a = 0 then s.localWrite s.cur a n else none,
    s.remoteCheck s.myPid a,
    failIf (s.me.optimistic && decide (space a ≠ 0) && !red) 0x02 a]

def ordAcquires (o : MOrd) : Bool :=
  match o with
  | .acq | .ar => true
  | _ => false
def ordReleases (o : MOrd) : Bool :=
  match o with
  | .rel | .ar => true
  | _ => false

/-- The predictor's counter for an address (R244). -/
def predIndex (a : Word) : Nat := fld a 5 8
def State.predicts (s : State) (ck : Nat) (a : Word) : Nat := FMap.get 0 (s.core ck).pred (predIndex a)

/-- A space-0x2 atomic whose counter is below 8 executes at the issuing core (R244). -/
def State.keepsLocal (s : State) (a : Word) : Bool := decide (space a = 2) && decide (s.predicts (coreOf s.cur) a < 8)

/-- The counter moves, between 0 and 15 (R244). -/
def State.predict (s : State) (ck : Nat) (a : Word) (up : Bool) (n : Nat) : State :=
  s.updCore ck fun c =>
    let v := FMap.get 0 c.pred (predIndex a)
    { c with pred := FMap.set 0 c.pred (predIndex a) (if up then Nat.min 15 (v + n) else v - n) }

/-- Atomics that the slot's log holds, or that are on their way to their places (R370). -/
def State.logUse (s : State) : Nat :=
  s.me.task.atomLog.length
    + (s.flights.filter fun f => decide (f.thr = s.cur) && f.seq.isSome && !f.stage.performed).length

/-- A basted slot's 256th logged atomic takes an implied BASTE before it issues (R370). -/
def logRoom (s : State) (k : Act) : Act :=
  if s.me.bst && decide (255 ≤ s.logUse) then
    .keep (s.updMe fun x => { x.updTask fun t => { t with basteDue := true } with st := .blocked .drained })
  else k

/-- An atomic with a result: `write` puts the old value into the destination of a local one. -/
def atomicAct (s0 s : State) (a : Word) (n : Nat) (op : MemOp) (ret : Ret) (mo : MOrd) (sc : Scope)
    (write : State → Nat → Act) (mark : State → State) : Act :=
  memWait s 0 a ((s.atomicCheck a n false).orElse (logRoom s0
    (if space a = 0 then
      let k := s.localKey s.cur (offset a)
      if (ordReleases mo) && !s.allPerformed then .block (.fence sc.code)
      else localWait s k n
        (let r := s.atomicOn s.cur k n op s.nextSeq (s.ownRead k n)
        write r.2.bumpSeq r.1.toNat)
    else roomFor s 0 (.next ((mark (s.addCount s.cur 0)).launchFlight
      { id := 0, thr := s.cur, pid := s.myPid, addr := a, n, op, ret, ctr := 0, acq := ordAcquires mo
        rel := (ordReleases mo), scope := sc.code, seq := s.nextSeq, tag := s.me.faultTag, own := s.keepsLocal a }).bumpSeq))))

def amoBytes (wide : Bool) : Nat := if wide then 8 else 4

/-- AMO (R245, R246). -/
def execAmo (d a b : Reg) (op : AmoOp) (wide : Bool) (mo : MOrd) (sc : Scope) (s : State) : Res :=
  runHead { rd := [a, b], wr := [d] } s fun v t =>
    atomicAct s t (v a) (amoBytes wide) (.amo op.code (v b)) (.scalar d.toNat false) mo sc
      (fun u old => put u d (word old) 6) (fun u => u.markBusy s.cur d.toNat)

/-- CAS (R247). -/
def execCas (d a b c : Reg) (wide : Bool) (mo : MOrd) (sc : Scope) (s : State) : Res :=
  runHead { rd := [a, b, c], wr := [d] } s fun v t =>
    atomicAct s t (v a) (amoBytes wide) (.cas ((v b).setWidth 128) ((v c).setWidth 128))
      (.scalar d.toNat false) mo sc (fun u old => put u d (word old) 6) (fun u => u.markBusy s.cur d.toNat)

/-- A register pair's 128 bits: the even register holds the low half (R61). -/
def pairValue (v : Reg → Word) (r : Reg) : BitVec 128 := (v (r + 1)).setWidth 128 <<< 64 ||| (v r).setWidth 128

/-- CAS2 (R247): 16 bytes on register pairs; with D = t0 the low half is discarded. -/
def execCas2 (d a b c : Reg) (mo : MOrd) (sc : Scope) (s : State) : Res :=
  runHead { rd := [a, b, b + 1, c, c + 1], wr := [d, d + 1] } s fun v t =>
    atomicAct s t (v a) 16 (.cas (pairValue v b) (pairValue v c)) (.pair d.toNat) mo sc
      (fun u old => .next ((u.writeReg u.cur d (word old) 6).writeReg u.cur (d + 1) (word (old / 2 ^ 64)) 6))
      (fun u => (u.markBusy s.cur d.toNat).markBusy s.cur (d + 1).toNat)

/-- RSN of a 4-byte RED (R248, R377), 0 when it is no tree reduction. -/
def redRsn (n : Nat) (b : Word) : Nat := if n = 4 then fld b 48 16 else 0

/-- Two tree reductions of equal location, op and RSN (R377). -/
def Flight.sameRed (f g : Flight) : Bool :=
  decide (g.addr = f.addr ∧ g.pid = f.pid) && (match g.op, f.op with
    | .amo o b, .amo p c => decide (o = p ∧ redRsn 4 b = redRsn 4 c)
    | _, _ => false)

/-- The contributions that travel in one flit, in the order in which they were combined (R377). -/
def State.combined (s : State) (f : Flight) : List Flight :=
  match f.comb with
  | none => [f]
  | some c => s.flights.filter fun g => decide (g.comb = some c)

/-- A tree reduction, with those already combined with it, enters a router: it is combined into the flit of equal ones that the
router holds, up to 64 contributors, or it is held (R377). -/
def State.redJoin (s : State) (router id : Nat) : State :=
  match s.flight id with
  | none => s
  | some f =>
    let mine := (s.combined f).map fun g => g.id
    let same (h : RedHold) : Bool := decide (h.router = router ∧ h.flights.length + mine.length ≤ 64)
      && h.flights.any fun i => (s.flight i).any fun g => g.sameRed f
    match s.redHolds.find? same with
    | some h =>
      let pkt := (h.flights.head?.bind s.flight).bind fun g => g.pkt
      let s1 := if pkt = f.pkt then s else s.dropPacket f.pkt
      { s1 with flights := (s1.flights.filter fun g => !mine.contains g.id).map (fun g =>
                  if h.flights.contains g.id then { g with comb := some h.id } else g)
                  ++ (s1.flights.filter fun g => mine.contains g.id).map fun g => { g with pkt, comb := some h.id }
                redHolds := s1.redHolds.map fun x => if x.id = h.id then { x with flights := x.flights ++ mine } else x }
    | none => { s.takeId with redHolds := s.redHolds ++ [{ id := s.ids, router, flights := mine }] }

/-- A RED that has left its slot: a tree reduction enters its router (R377). -/
def State.holdRed (s : State) (id rsn : Nat) : State :=
  if rsn = 0 then s else match s.flight id with
  | none => s
  | some f => s.redJoin (quadOf f.thr) id

/-- The RSN of an access in flight: that of a RED, which has no result. -/
def Flight.rsn (f : Flight) : Nat :=
  match f.op, f.ret with
  | .amo _ b, .none => if f.ctr = 0 then 0 else redRsn f.n b
  | _, _ => 0


/-- The place that executes the reductions of a location: a quad's interface, or a home slice (R377). -/
def redPlace (k : Nat) : Nat := if isHbm k then 100000 + homeDie (paOf k) else keyQuad k

/-- The contributions whose combined value reaches the place with one of them: those of its flit that may be performed, when each is of
another thread, no one of their bits is set and no log holds one (R377); else it alone. -/
def State.redMates (s : State) (f : Flight) (done : List Nat) : List Flight :=
  let ms := (s.combined f).filter fun g => decide (g.id = f.id) || (!g.stage.performed && s.mayPerform g && g.sameRed f)
  let once := decide ((ms.map fun g => g.thr).eraseDups.length = ms.length)
  if once && ms.all fun g => !done.contains g.thr && ((s.slot g.thr).task.logged g.seq).isNone then ms else [f]

/-- The value of combined contributions: the operation folded over their data, in the order in which they were combined (R377). -/
def redValue (n : Nat) : List Flight → MemOp
  | [] => .amo 0 0
  | g :: gs => gs.foldl (fun a h => match a, h.op with
    | .amo o b, .amo _ c => .amo o (word (amoFun o n b.toNat c.toNat))
    | _, _ => a) g.op

/-- Contributions performed at once at their place: each is logged for its own slot (R370, R377). -/
def State.performRed (s : State) (f : Flight) (k : Nat) : List Flight → State
  | [] | [_] => (s.atomicAt f.thr k f.n f.op f.seq).2
  | ms => ms.foldl (fun t g => t.logAtomic g.thr k g.seq (s.rd k f.n)) (s.atomicAt f.thr k f.n (redValue f.n ms) none).2

/-- A tree reduction's contribution (R377): performed, with those combined with it, when the contributor's bit is clear; a place with 8
open pairs takes no ninth. -/
def State.contribute (s : State) (f : Flight) (k : Nat) : Option State :=
  let now := (s.region 0).cycle
  match s.redPairs.find? fun p => decide (p.loc = k ∧ p.rsn = f.rsn) with
  | some p =>
    let ms := s.redMates f p.done
    let note (t : State) (ds : List Nat) : State := { t with redPairs := t.redPairs.map fun q =>
      if q.loc = k ∧ q.rsn = f.rsn then { q with done := q.done ++ ds, last := now } else q }
    some (if p.done.contains f.thr then note s [] else note (s.performRed f k ms) (ms.map fun g => g.thr))
  | none =>
    if 8 ≤ (s.redPairs.filter fun p => decide (redPlace p.loc = redPlace k)).length then none
    else
      let ms := s.redMates f []
      let t := s.performRed f k ms
      some { t with redPairs := t.redPairs ++ [{ loc := k, rsn := f.rsn, done := ms.map fun g => g.thr, last := now }] }

/-- An atomic in flight performed at a key: its old value, with the state after it. -/
def State.runAtomic (s : State) (f : Flight) (k : Nat) : Option (BitVec 128 × State) :=
  if f.rsn = 0 then some (s.atomicAt f.thr k f.n f.op f.seq)
  else (s.contribute f k).map fun t => (0, t)

/-- A RED at the issuing slot's own scratchpad (R243, R248); a tree reduction is a contribution like any other (R377). -/
def State.localRed (s : State) (a : Word) (k n : Nat) (op : Nat) (b : Word) : Option State :=
  if redRsn n b = 0 then some (s.atomicOn s.cur k n (.amo op b) s.nextSeq (s.ownRead k n)).2
  else s.contribute { id := 0, thr := s.cur, pid := s.myPid, addr := a, n, op := .amo op b, seq := s.nextSeq } k

/-- RED (R248): posted; a local one is performed at once; in an optimistic task a non-local one is held. -/
def execRed (a b : Reg) (op : AmoOp) (wide : Bool) (mo : MOrd) (sc : Scope) (s : State) : Res :=
  runHead { rd := [a, b] } s fun v t =>
    let x := v a
    let n := amoBytes wide
    memWait t 0 x ((t.atomicCheck x n true).orElse
      (if space x = 0 then
        logRoom s (let k := t.localKey t.cur (offset x)
        if (ordReleases mo) && !t.allPerformed then .block (.fence sc.code)
        else localWait t k n (match t.localRed x k n op.code (v b) with
          | some u => .next u.bumpSeq
          | none => .block .reply))
      else if t.me.optimistic then holdEffect t (.red x op.code n (v b))
      else logRoom s (roomFor t (storeCtr x)
        (let f : Flight := { id := 0, thr := t.cur, pid := t.myPid, addr := x, n, op := .amo op.code (v b)
                             ctr := storeCtr x, rel := (ordReleases mo), scope := sc.code, seq := t.nextSeq
                             tag := t.me.faultTag, own := t.keepsLocal x && decide (redRsn n (v b) = 0) }
        .next (((t.addCount t.cur (storeCtr x)).launchFlight f).holdRed t.ids (redRsn n (v b))).bumpSeq))))

end Sys2Proof.Machine
end

