-- ==== Sys2Proof/Machine/Alu.lean ====
section
/-! DEFINITION. The integer functions of the scalar heads (R101). -/

namespace Sys2Proof.Machine

/-- The low 32 bits, sign-extended. -/
def sext32 (x : Word) : Word := (x.setWidth 32).signExtend 64

def aluMulh (a b : Word) : Word := ((a.signExtend 128 * b.signExtend 128) >>> 64).setWidth 64
def aluMulhu (a b : Word) : Word := ((a.setWidth 128 * b.setWidth 128) >>> 64).setWidth 64

/-- DIV: all ones for a divisor of 0; −2^63 by −1 gives a (R101). -/
def aluDiv (a b : Word) : Word := if b = 0 then BitVec.allOnes 64 else a.sdiv b
def aluDivu (a b : Word) : Word := if b = 0 then BitVec.allOnes 64 else a / b
/-- REM: a for a divisor of 0; −2^63 by −1 gives 0 (R101). -/
def aluRem (a b : Word) : Word := if b = 0 then a else a.srem b
def aluRemu (a b : Word) : Word := if b = 0 then a else a % b

/-- The shift amount b[5:0]. -/
def amount (b : Word) : Nat := b.toNat % 64

def aluShl (a b : Word) : Word := a <<< amount b
def aluShr (a b : Word) : Word := a >>> amount b
def aluSra (a b : Word) : Word := a.sshiftRight (amount b)
def aluRotl (a b : Word) : Word := (a <<< amount b) ||| (a >>> (64 - amount b))
def aluRotr (a b : Word) : Word := (a >>> amount b) ||| (a <<< (64 - amount b))

/-- Leading zeros among the low n bits. -/
def clzFrom (a : Word) : Nat → Nat
  | 0 => 0
  | n + 1 => if a.getLsbD n then 0 else clzFrom a n + 1

/-- Trailing zeros, from bit lo over n bits. -/
def ctzFrom (a : Word) (lo : Nat) : Nat → Nat
  | 0 => 0
  | n + 1 => if a.getLsbD lo then 0 else ctzFrom a (lo + 1) n + 1

/-- One bits among the low n bits. -/
def popFrom (a : Word) : Nat → Nat
  | 0 => 0
  | n + 1 => (if a.getLsbD n then 1 else 0) + popFrom a n

def aluClz (a : Word) : Word := word (clzFrom a 64)
def aluCtz (a : Word) : Word := word (ctzFrom a 0 64)
def aluPopc (a : Word) : Word := word (popFrom a 64)
/-- Bit i moves to bit 63 − i. -/
def aluBrev (a : Word) : Word := a.reverse

/-- The bytes of a word, reversed. -/
def bswapFrom (a : Nat) : Nat → Nat → Nat
  | 0, acc => acc
  | n + 1, acc => bswapFrom (a / 256) n (acc * 256 + a % 256)

def aluBswap (a : Word) : Word := word (bswapFrom a.toNat 8 0)
def aluMin (a b : Word) : Word := if b.slt a then b else a
def aluMax (a b : Word) : Word := if a.slt b then b else a
def aluMinu (a b : Word) : Word := if b.ult a then b else a
def aluMaxu (a b : Word) : Word := if a.ult b then b else a

/-- A mask of len ones from bit pos. -/
def fieldMask (pos len : Nat) : Word := word ((2 ^ len - 1) * 2 ^ pos)

def aluExt (a : Word) (pos len : Nat) : Word := (a >>> pos) &&& fieldMask 0 len
def aluExts (a : Word) (pos len : Nat) : Word :=
  let x := aluExt a pos len
  if x.getLsbD (len - 1) then x ||| ~~~fieldMask 0 len else x
def aluIns (d a : Word) (pos len : Nat) : Word := (d &&& ~~~fieldMask pos len) ||| ((a <<< pos) &&& fieldMask pos len)
def aluLih (a : Word) (imm : BitVec 16) : Word := (imm.setWidth 64 <<< 48) ||| (a &&& 0x0000FFFFFFFFFFFF#64)

end Sys2Proof.Machine
end

