-- ==== Sys2Proof/Machine/Flags.lean ====
section
/-! DEFINITION. The conditions. The panel has no flag register: comparisons answer 0 or 1 in a register (R101),
decide a branch (R102), or set mask bits (R138); a condition of a signed or unsigned integer pair stands here. -/

namespace Sys2Proof.Machine

def condEq (a b : Word) : Bool := decide (a = b)
def condNe (a b : Word) : Bool := !decide (a = b)
/-- Signed and unsigned order (R101, R102). -/
def condLt (a b : Word) : Bool := a.slt b
def condLtu (a b : Word) : Bool := a.ult b
def condGe (a b : Word) : Bool := !a.slt b
def condGeu (a b : Word) : Bool := !a.ult b
def condZero (a : Word) : Bool := decide (a = 0)
def condNonzero (a : Word) : Bool := !decide (a = 0)

/-- The condition of VCMP on an ordered pair, by whether it is less, equal or greater (R138). -/
def ordCond (c : Cond) (lt eq : Bool) : Bool :=
  match c with
  | .eq => eq
  | .ne => !eq
  | .lt => lt
  | .le => lt || eq
  | .gt => !(lt || eq)
  | .ge => !lt
  | .un => false

end Sys2Proof.Machine
end

