-- ==== Sys2Proof/Machine/MemEvents.lean ====
section
/-! DEFINITION. The events of memory: arrival and performance of remote accesses (R197, R200, R243, R244, R252), responses
(R218, R223), translation and its faults (R204 to R212), placement by atomic traffic (R215, R216). An event whose
guard does not hold changes nothing. -/

namespace Sys2Proof.Machine

/-- An event: its next state, or the same state when its guard fails. -/
def event (s : State) (o : Option State) : Res := .next (o.getD s)

/-- An event at a unit that the panel must have (R15). -/
def unitEvent (ok : Bool) (n : Nat) (s : State) (o : Option State) : Res :=
  if ok then event s o else .fault (.noSuchUnit n)

/-- A tree reduction still held in a router (R377). -/
def State.heldInRouter (s : State) (id : Nat) : Bool := s.redHolds.any fun h => h.flights.contains id

/-- The access may be performed now. -/
def State.ready (s : State) (f : Flight) : Bool := s.mayPerform f && s.arrived f.pkt && !s.heldInRouter f.id

/-- The fill of a channel entry, which its own event ends (R271). -/
def Flight.fills (f : Flight) : Bool :=
  match f.ret with
  | .fill _ _ => true
  | _ => false

/-- A copy's reading or writing of a sector, no access of its slot's own (R341). -/
def Flight.copies (f : Flight) : Bool :=
  match f.ret with
  | .copy _ _ _ _ => true
  | _ => false

/-- The access answers a value: a load, an atomic with a result, a part of a vector load. -/
def Flight.loads (f : Flight) : Bool :=
  match f.op with
  | .load | .flush | .fetch | .lde | .cas _ _ | .tset _ | .touch _ => true
  | .amo _ _ => decide (f.ctr = 0)
  | _ => false

/-- An atomic performed: a result returns, or an acknowledgement. -/
def State.atomicDone (s : State) (f : Flight) (old : BitVec 128) : State :=
  s.setStage f.id (if f.loads then .resp old.toNat else .ack)

/-- REMOTE_ACCESS_ARRIVAL (R197): the destination interface checks the access and performs it, keeps an LDE, STF or
atomic for its turn, or sends a denial. -/
def execRemoteAccessArrival (id : Nat) (s : State) : Res :=
  event s (do
    let f ← s.flight id
    match f.stage with
    | .net qi =>
      if s.ready f && (decide (qi = quadOf f.thr) || !(s.quad qi).closed) then
        match s.shareAt f.pid qi (offset f.addr) f.n with
        | none => pure (((s.dropPacket f.pkt).setStage id .denied).respond id qi)
        | some k => if s.flightOwned f k then none else pure ((((s.noteBlock qi k).dropPacket f.pkt).performAt f qi k).respond id qi)
      else none
    | _ => none)

/-- A denial reaches the issuer: the slot takes 0x07, and a drained record ends (R197, R397). -/
def State.denialArrives (s : State) (f : Flight) : State :=
  if s.quads.any fun q => q.2.drain.any fun d => decide (d.sent = some f.id) then (s.removeFlight f).drainDeny f.id 0x07 f.addr
  else s.denyFlight f

/-- REMOTE_DENIAL (R197, R208): of a quad of this panel, or of a peer panel. -/
def execRemoteDenial (id : Nat) (s : State) : Res :=
  event s (do
    let f ← s.flight id
    match f.stage with
    | .denied | .peer => if f.fills || !s.arrived f.pkt then none else pure (s.denialArrives f)
    | _ => none)

/-- NI_ATOMIC (R243, R370). -/
def execNiAtomic (id : Nat) (s : State) : Res :=
  event s (do
    let f ← s.flight id
    match f.stage with
    | .atNI qi =>
      let k ← s.shareAt f.pid qi (offset f.addr) f.n
      match f.op with
      | .amo _ _ | .cas _ _ =>
        if s.flightOwned f k then none
        else
          let r ← s.runAtomic f k
          pure ((r.2.atomicDone f r.1).respond id qi)
      | _ => none
    | _ => none)

/-- The access is the first LDE, or the first STF, of those that wait at its word in their order of arrival (R252). -/
def State.firstAt (s : State) (f : Flight) (k : Nat) (lde : Bool) : Bool :=
  match s.wordFirst k lde with
  | some w => decide (w.slot = none ∧ w.flight = f.id)
  | none => false

/-- A peer panel's LDE, or STF, performed at its word when its turn has come (R208, R252); its answer leaves the panel. -/
def State.peerWord (s : State) (id : Nat) (lde : Bool) : Option State := do
  let w ← s.wordQueue.find? fun w => decide (w.flight = id ∧ w.lde = lde) && w.peer.isSome
  let k ← s.wordKey w
  if FMap.get false s.fe k ≠ lde ∨ s.wordFirst k lde ≠ some w ∨ s.owned k 8 = true then none
  else
    let s1 := if lde then s else s.wr8 k ((w.peer.map fun p => p.2.2).getD 0)
    pure { s1 with fe := FMap.set false s1.fe k (!lde), wordQueue := s1.wordQueue.erase w }

/-- LDE_PERFORM (R252): a full word is read and becomes empty, for the first in order of arrival. -/
def execLdePerform (id : Nat) (s : State) : Res :=
  event s (if (s.flight id).isNone then s.peerWord id true else do
    let f ← s.flight id
    match f.stage, f.op with
    | .atNI qi, .lde =>
      let k ← s.shareAt f.pid qi (offset f.addr) 8
      if FMap.get false s.fe k && s.firstAt f k true && !s.flightOwned f k then
        pure ((({ s with fe := FMap.set false s.fe k false }).setStage id (.resp (s.rd k 8))).respond id qi)
      else none
    | _, _ => none)

/-- STF_PERFORM (R252): an empty word is written and becomes full. -/
def execStfPerform (id : Nat) (s : State) : Res :=
  event s (if (s.flight id).isNone then s.peerWord id false else do
    let f ← s.flight id
    match f.stage, f.op with
    | .atNI qi, .stf b =>
      let k ← s.shareAt f.pid qi (offset f.addr) 8
      if !FMap.get false s.fe k && s.firstAt f k false && !s.flightOwned f k then
        pure ((({ s.wr8 k b with fe := FMap.set false s.fe k true }).setStage id .ack).respond id qi)
      else none
    | _, _ => none)

/-! ## Homes (R200, R203, R215, R244) -/

/-- The counter after a request from a die (R215). -/
def PlaceCtr.step (p : PlaceCtr) (die : Nat) : PlaceCtr :=
  if p.count = 0 then { p with leader := die, count := 1 }
  else if die = p.leader then { p with count := Nat.min (p.count + 1) (2 ^ 21 - 1) }
  else { p with count := p.count - 1 }

/-- The counters of the home slice of a granule make room for one more: of 4,096 the least recently used is lost (R215). -/
def placeRoom (place : FMap PlaceCtr) (g : Nat) : FMap PlaceCtr :=
  let mine := place.filter fun e => decide (e.1 % 288 = g % 288)
  if mine.length < 4096 then place else
  match mine with
  | [] => place
  | e :: es => FMap.erase place (es.foldl (fun b x => if x.2.used < b.2.used then x else b) e).1

/-- The placement counter of a granule on a request from a die (R215). -/
def State.placeCount (s : State) (pa die : Nat) : State :=
  let g := pa / 4096
  let listed := s.place.any fun e => decide (e.1 = g)
  let p := FMap.get {} s.place g
  let place := if listed then s.place else placeRoom s.place g
  { s.takeId with place := FMap.set {} place g { p.step die with used := s.ids + 1 } }

/-- HOME_STORE (R198, R200): the copies at other dies are invalidated, and the store is performed; one of space 0x3 enters no L1. -/
def execHomeStore (id : Nat) (s : State) : Res :=
  event s (do
    let f ← s.flight id
    match f.stage, f.op with
    | .home k, .store bs =>
      if isHbm k && s.mayPerform f && !s.flightOwned f k then
        pure ((((s.writeW k bs).invalidateOthers (dieOf (quadOf f.thr)) (lineOf (paOf k))).cacheStore (coreOf f.thr) (paOf k)
          (s.part f.pid).key (if space f.addr = 2 then f.cp else 0)).setStage id .ack)
      else none
    | _, _ => none)

/-- The home executed another requester's atomic to the line within the previous 256 cycles (R244): a requester is a core (log
entry 137). -/
def State.homeBusy (s : State) (line ck : Nat) : Bool :=
  (FMap.get [] s.homeLast line).any fun e => decide (e.1 ≠ ck) && decide ((s.region 0).cycle ≤ e.2 + 256)

/-- The home notes the atomic that it executes, and forgets those before the last 256 cycles. -/
def State.homeNote (s : State) (line ck : Nat) : State :=
  let now := (s.region 0).cycle
  let old := (FMap.get [] s.homeLast line).filter fun e => decide (now ≤ e.2 + 256)
  { s with homeLast := FMap.set [] s.homeLast line (old ++ [(ck, now)]) }

/-- What an atomic that the home executes does beside its effect (R215, R244): an exclusive owner is recalled, the other copies
go, and the request counts for the placement of the granule. -/
def State.homeExecutes (s : State) (k ck die : Nat) : State :=
  let line := lineOf (paOf k)
  let s1 := (s.placeCount (paOf k) die).invalidateOthers 288 line
  ({ s1 with owners := FMap.set 0 s1.owners line 0 } : State).homeNote line ck

/-- An atomic executed at the home: its old value, with the state after it and after the predictor's update (R244). -/
def State.homeRuns (s : State) (f : Flight) (k : Nat) : Option (BitVec 128 × State) := do
  let r ← s.runAtomic f k
  let ck := coreOf f.thr
  let busy := s.homeBusy (lineOf (paOf k)) ck
  pure (r.1, (r.2.predict ck f.addr busy (if busy then 1 else 2)).homeExecutes k ck (dieOf (quadOf f.thr)))

/-- HOME_ATOMIC (R244): the home recalls an exclusive owner and executes the atomic. -/
def execHomeAtomic (id : Nat) (s : State) : Res :=
  event s (do
    let f ← s.flight id
    match f.stage, f.op with
    | .home k, .amo _ _ | .home k, .cas _ _ =>
      if isHbm k && !f.own && s.mayPerform f && !s.heldInRouter id && !s.flightOwned f k then
        let r ← s.homeRuns f k
        pure (r.2.atomicDone f r.1)
      else none
    | _, _ => none)

/-- An atomic at the issuing core (R244): it takes the line exclusively and keeps it until a recall. A line without an owner leaves
the predictor as it is (log entry 137). -/
def State.ownAtomic (s : State) (f : Flight) (k : Nat) : Option (BitVec 128 × State) := do
  let r ← s.runAtomic f k
  let line := lineOf (paOf k)
  let ck := coreOf f.thr
  let owner := FMap.get 0 s.owners line
  let s1 := if owner = ck + 1 then r.2.predict ck f.addr false 1
    else if owner = 0 then r.2 else r.2.predict ck f.addr true 4
  let s2 := if owner = ck + 1 then s1 else (s1.placeCount (paOf k) (dieOf (quadOf f.thr))).invalidateBut ck line
  pure (r.1, { s2 with owners := FMap.set 0 s2.owners line (ck + 1) })

/-! ## Responses (R218, R223) -/

/-- An instruction line reaches the quad's cache (R40, R196), and the slot that waits for it goes on. -/
def State.lineArrives (s : State) (f : Flight) (l : Nat) : State :=
  ((s.removeFlight f).cacheLine (quadOf f.thr) (fetchKey f.pid f.addr) l).updSlot
    f.thr fun x => if x.st = .blocked .fetch ∧ s.runs f.pid f.thr then { x with st := .ready } else x

/-- LOAD_RESPONSE (R223): the result of a load or an atomic arrives, and its count ends. A load from HBM or the host is
performed at this instant; a peer panel answers a value this panel does not determine. -/
def execLoadResponse (id : Nat) (s : State) : Res :=
  event s (do
    let f ← s.flight id
    match f.stage, f.op with
    | .resp v, _ => if s.arrived f.pkt then pure ((s.deliver f v).finishFlight f) else none
    | .home k, .fetch => if s.owned k 64 then none else pure (s.lineArrives f (s.rd k 64))
    | .home k, .load =>
      if s.mayPerform f && !f.fills && !s.flightOwned f k then
        let v := s.niValue (quadOf f.thr) f (s.loadAt f k)
        let s0 := (s.noteForwards f).draw
        let key := (s.part f.pid).key
        let s1 := if !isHbm k then s0 else if space f.addr = 2 then s0.cacheLoad (coreOf f.thr) (paOf k) key f.cp
          else s0.dieFill (coreOf f.thr) (paOf k) key f.cp
        pure ((s1.deliver f v).finishFlight f)
      else none
    | .home _, .flush => if s.mayPerform f then pure ((s.deliver f 0).finishFlight f) else none
    | .home k, .amo _ _ | .home k, .cas _ _ =>
      if f.own && f.loads && s.mayPerform f && !s.flightOwned f k then
        let r ← s.ownAtomic f k
        pure ((r.2.deliver f r.1.toNat).finishFlight f)
      else none
    | .peer, .load | .peer, .amo _ _ | .peer, .cas _ _ | .peer, .lde | .peer, .touch _ | .peer, .tset _ =>
      if (f.loads || decide (f.ret = .op)) && s.mayPerform f then
        let raw := Config.freeNat s.free % 256 ^ f.n
        let v := s.niValue (quadOf f.thr) f (if f.op = .load ∧ f.copies = false then
          s.underHeld f.thr f.pid f.held (s.flightPlace f) f.n raw else raw)
        pure ((s.draw.deliver f v).finishFlight f)
      else none
    | _, _ => none)

/-- A push ends: its count in the writer's STC.S. -/
def State.ackPush (s : State) (p : PushMsg) : State :=
  let s1 : State := { s.dropPacket p.pkt with pushes := s.pushes.filter fun x => decide (x.id ≠ p.id) }
  if p.counted then s1.endCount p.src 1 else s1

/-- The home's answer to a push is at the writer's quad (R218, R271): its count ends; after a refusal the writer takes 0x0A with reason
6, and its quad drops its entry. -/
def State.endPush (s : State) (p : PushMsg) : State :=
  let s1 := s.ackPush p
  if p.refused then
    let info : Word := word (p.ch + 6 * 4096)
    (if p.counted then s1.postOrReport p.src 0x0A info p.pc else s1.drainDeny p.id 0x0A info).updQuad (quadOf p.src) fun q =>
      { q with chans := q.chans.filter fun x => !decide (x.pid = p.pid ∧ x.id = p.ch) }
  else s1

/-- STORE_ACK (R218): the acknowledgement ends the count. The PCIe controller's sending of a host store, an owning core's
RED and a peer's performance of a store are the acknowledgements of those; a push's comes from its home (R274, R287). -/
def execStoreAck (id : Nat) (s : State) : Res :=
  event s (match s.flight id with
  | none => (s.pushes.find? fun p => decide (p.id = id) && p.acked && s.arrived p.pkt).map s.endPush
  | some f => do
    match f.stage, f.op with
    | .ack, .stf _ | .ack, .touch _ => if s.arrived f.pkt then pure ((s.answerFlight f).finishFlight f) else none
    | .ack, _ => if s.arrived f.pkt then pure (s.finishFlight f) else none
    | .home k, .store bs =>
      if !isHbm k && s.mayPerform f && !s.flightOwned f k then pure ((s.writeW k bs).finishFlight f) else none
    | .home k, .amo _ _ =>
      if f.own && !f.loads && s.mayPerform f && !s.flightOwned f k then
        let r ← s.ownAtomic f k
        pure (r.2.finishFlight f)
      else none
    | .peer, .store _ | .peer, .feinit _ _ | .peer, .amo _ _ | .peer, .dec =>
      if !f.loads && s.mayPerform f then pure (s.finishFlight f) else none
    | .peer, .stf _ => if s.mayPerform f then pure ((s.answerFlight f).finishFlight f) else none
    | _, _ => none)

/-! ## Translation (R204 to R212) -/

/-- The fault message of an access (R211, R359). -/
def State.faultMessage (s : State) (f : Flight) (why : Nat) : State :=
  s.service f.pid { kind := 0x40, tag := f.tag.toNat, thread := s.threadIn f.pid f.thr, w2 := f.addr
                    w3 := word (f.op.faultKind + 4 * why + 16 * space f.addr) }

/-- TRANSLATION_REQUEST (R204): the translating slice looks the page up or walks, and forwards the access; its entries
stay in the TLBs on the way. A stage-1 fault is reported to the service core, a stage-2 fault to the controller. -/
def execTranslationRequest (id : Nat) (s : State) : Res :=
  event s (do
    let f ← s.flight id
    match f.stage with
    | .xlate =>
      let va := fld (s.inner f.addr) 0 48
      let die := xlateDie va f.pid
      let need := f.op.perm
      let go (t : State) (e : TlbEntry) : State :=
        let t1 := t.tlbAdd { e with loc := coreOf f.thr }
        match f.op with
        | .touch _ => (t1.answerFlight f).removeFlight f
        | _ => t1.setHome id (hbmKey (e.pa + (va - e.va))) (e.va, e.size)
      match s.tlbFind (10000 + die) f.pid va need false with
      | some e => pure (go s e)
      | none =>
        match s.tlbFind (20000 + die) f.pid va need false with
        | some e => pure (go (s.tlbAdd { e with loc := 10000 + die }) e)
        | none =>
          match s.translate f.pid va need with
          | (_, some e) => pure (go ((s.draw.tlbAdd { e with loc := 10000 + die }).tlbAdd { e with loc := 20000 + die }) e)
          | (.fault1 why, none) => pure ((s.draw.setStage id (.fault false)).faultMessage f why)
          | (_, none) => pure (s.draw.setStage id (.s2 false))
    | _ => none)

/-- STAGE2_FAULT_REPLY (R211): the controller answers retry, or fail with REASON 0xFFF; a channel's access and a drained record likewise (R276, R397). -/
def execStage2FaultReply (id : Nat) (retry : Bool) (s : State) : Res :=
  event s (match s.flight id, s.chanFaults.find? fun c => decide (c.s2 = some id) with
    | some f, _ => (match f.stage with
      | .s2 _ => some (if retry then s.setStage id .xlate else s.failFlights f.thr [f] 0xFFF)
      | _ => none)
    | none, some c =>
      let t : State := { s with chanFaults := s.chanFaults.filter fun x => decide (x.s2 ≠ some id) }
      some (if retry then t else t.poison c.pid c.ch c.evict)
    | none, none => (s.quads.find? fun q => q.2.drain.any fun d => decide (d.s2 = some id)).map fun q =>
        s.drainAnswer q.1 (fun d => decide (d.s2 = some id)) (!retry) 0xFFF)

/-- FAULT_NOTICE (R211): the notice reaches the slot. -/
def execFaultNotice (id : Nat) (s : State) : Res :=
  event s (do
    let f ← s.flight id
    match f.stage with
    | .fault false => pure (s.setStage id (.fault true))
    | .s2 false => pure (s.setStage id (.s2 true))
    | _ => none)

/-- A slot blocks before its next issue while a noticed fault of its own waits for a reply (R211). -/
def State.faultBlocked (s : State) (tk : Nat) : Bool :=
  s.flights.any fun f => decide (f.thr = tk ∧ (f.stage = .fault true ∨ f.stage = .s2 true) ∧ f.tag = (s.slot tk).faultTag) && (match f.ret with
    | .fill _ push => !push
    | _ => true)

/-- ATS_REPLY (R208): the host IOMMU translates, or refuses, which ends the access with ECAUSE 0x06. -/
def execAtsReply (id : Nat) (ok : Bool) (s : State) : Res :=
  event s (do
    let f ← s.flight id
    match f.stage with
    | .ats =>
      let va := fld f.addr 0 48
      if ok then
        let t := s.tlbAdd (hostEntry (coreOf f.thr) f.pid va)
        match f.op with
        | .touch _ => pure ((t.answerFlight f).removeFlight f)
        | _ => pure (t.setStage id (.home (hostKey (s.part f.pid).vf va)))
      else pure (s.failFlights f.thr [f] 0xFFE)
    | _ => none)

/-- FREPLY_RETRY (R212). -/
def execFreplyRetry (pid thread : Nat) (tag : BitVec 8) (s : State) : Res := .next (s.freplyRetry pid thread tag)
/-- FREPLY_FAIL (R212). -/
def execFreplyFail (pid thread : Nat) (tag : BitVec 8) (reason : BitVec 12) (s : State) : Res :=
  .next (s.freplyFail pid thread tag reason)

/-- S1INV_PAGE (R210). -/
def execS1invPage (pid vpn size : Nat) (s : State) : Res :=
  .next (s.s1inv pid ((invSize size).map fun n => (vpn * 4096, n)))
/-- S1INV_ALL (R210). -/
def execS1invAll (pid : Nat) (s : State) : Res := .next (s.s1inv pid none)

/-- A translation that an invalidation covers (R210). -/
def TlbEntry.covered (e : TlbEntry) (pid : Nat) (what : Option (Nat × Nat)) : Bool :=
  decide (e.pid = pid) && !e.host && (match what with
    | none => true
    | some (a, n) => overlap e.va e.size (a - a % n) n)

/-- An access that is not performed was translated under an entry that an invalidation covers (R210). -/
def Flight.underCovered (f : Flight) (pid : Nat) (what : Option (Nat × Nat)) : Bool :=
  decide (f.pid = pid) && !f.stage.performed && (match f.stage, what with
    | .home k, none => isHbm k
    | .home k, some (a, n) => isHbm k && overlap f.page.1 f.page.2 (a - a % n) n
    | _, _ => false)

/-- A row of a running copy, open below one in which a sector has landed, lies in a page that an invalidation covers: the copy has
translated it, and its sectors are still to be performed (R210, R342). -/
def State.copyUnder (s : State) (pid : Nat) (what : Option (Nat × Nat)) : Bool :=
  let covers (a : Word) (n : Nat) : Bool := decide (space a = 2) && (match what with
    | none => true
    | some (v, m) => overlap (fld a 0 48) n (v - v % m) m)
  s.cores.any fun c => decide (s.pidOf (c.1 * 8) = pid) && c.2.fifo.any fun k =>
    k.runs && (k.openRows k.reached).any fun i => covers (s.inner (k.srcRow i)) k.rowLen || covers (s.inner (k.dstRow i)) k.rowLen

/-- S1INV_COMPLETE (R210): no TLB holds a covered translation, and no access translated under one is unperformed; the
oldest accepted write completes. -/
def execS1invComplete (pid : Nat) (s : State) : Res :=
  event s (do
    let what ← (s.part pid).s1inv.head?
    if (s.flights.any fun f => f.underCovered pid what) || s.copyUnder pid what then none
    else pure (({ s with tlb := s.tlb.filter fun e => !e.covered pid what }).updPart pid fun p =>
      { p with s1inv := p.s1inv.tail, s1done := p.s1done + 1 }))

/-! ## Frames (R365, R366) -/

/-- What is left of a range of frames outside another. -/
def cutFrames (pa n : Nat) (e : Nat × Nat × Nat) : List (Nat × Nat × Nat) :=
  if !overlap e.1 e.2.1 pa n then [e]
  else
    let below := if e.1 < pa then [(e.1, pa - e.1, e.2.2)] else []
    if pa + n < e.1 + e.2.1 then below ++ [(pa + n, e.1 + e.2.1 - (pa + n), e.2.2)] else below

/-- A range of frames is given to a key id. -/
def Panel.giveFrames (p : Panel) (pa n key : Nat) : Panel :=
  { p with frames := p.frames.flatMap (cutFrames pa n) ++ [(pa, n, key)] }

/-- Every frame of a range that has been given to a key id was given to this one: only a reassignment changes it (R366). -/
def Panel.mappable (p : Panel) (key pa n : Nat) : Bool :=
  p.frames.all fun e => !overlap e.1 e.2.1 pa n || decide (e.2.2 = key)

/-- An access already translated to a range of frames has still to be performed (R210, R366). -/
def State.usesFrames (s : State) (pa n : Nat) : Bool :=
  s.flights.any fun f => match f.stage with
    | .home k => isHbm k && overlap k f.n (hbmKey pa) n
    | _ => false

/-- Translations that lead to a range of frames leave every TLB. -/
def State.dropFrames (s : State) (pa n : Nat) : State :=
  { s with tlb := s.tlb.filter fun e => e.host || !overlap e.pa e.size pa n }

/-- A range of frames leaves a key id for another (R366): unmapped, zeroed, and the lines tagged with the old key invalidated. -/
def State.reassign (s : State) (pa n old new : Nat) : State :=
  let inRange (c : CLine) : Bool := decide (pa ≤ c.line * 32 ∧ c.line * 32 < pa + n) && decide (c.key = old)
  let s1 := (s.dropFrames pa n).zeroRange (hbmKey pa) n
  { s1 with
    parts := s1.parts.map fun p => (p.1, { p.2 with s2 := p.2.s2.filter fun m => !overlap m.pa m.size pa n })
    cores := s1.cores.map fun c => (c.1, { c.2 with l1 := c.2.l1.filter fun x => !inRange x })
    dieLines := s1.dieLines.filter fun e => !inRange e.2
    owners := s1.owners.filter fun e => !decide (pa ≤ e.1 * 32 ∧ e.1 * 32 < pa + n)
    panel := s1.panel.giveFrames pa n new }

/-! ## Migration (R216) -/

/-- PAGE_MIGRATION (R216): a granule whose counter reached the threshold of its partition moves to a free frame homed at
its leader: copied, remapped at stage 2, shot down and invalidated; the old frame goes to the reassign path. Without
a stage-2 page of 4 KiB or such a frame, only C := 0. -/
def execPageMigration (granule frame : Nat) (s : State) : Res :=
  event s (do
    let c := FMap.get {} s.place granule
    let owner ← s.parts.find? fun p => p.2.live && (p.2.s2.any fun m => decide (m.pa ≤ granule * 4096 ∧ granule * 4096 < m.pa + m.size))
    let pid := owner.1
    if c.count < owner.2.threshold ∨ c.leader = granule % 288 then none
    else
      let clear : State := { s with place := FMap.erase s.place granule }
      let small := owner.2.s2.any fun m => decide (m.pa = granule * 4096 ∧ m.size = 4096)
      let free := decide (frame % 288 = c.leader ∧ frame < 1728 * 2 ^ 18)
        && s.panel.mappable owner.2.key (frame * 4096) 4096
        && s.parts.all fun p => !(p.2.s2.any fun m => decide (m.pa ≤ frame * 4096 ∧ frame * 4096 < m.pa + m.size))
      if !small || !free then pure clear
      else
        let old := hbmKey (granule * 4096)
        let s1 := clear.wrBytes (hbmKey (frame * 4096)) (clear.rdBytes old 4096)
        let s2 := s1.updPart pid fun p => { p with s2 := p.s2.map fun m =>
          if m.pa = granule * 4096 ∧ m.size = 4096 then { m with pa := frame * 4096 } else m }
        let key := owner.2.key
        let s3 := (s2.reassign (granule * 4096) 4096 key 0).updPanel fun p => p.giveFrames (frame * 4096) 4096 key
        let moveKey (k : Nat) : Nat := if old ≤ k ∧ k < old + 4096 then k - old + hbmKey (frame * 4096) else k
        pure { s3 with flights := s3.flights.map fun f => match f.stage with
          | .home k => { f with stage := .home (moveKey k) }
          | _ => f })

end Sys2Proof.Machine
end

