-- ==== Sys2Proof/Machine/Engine.lean ====
section
/-! DEFINITION. What an engine reads or writes for a slot (R99, R112, R184, R195, R197, R208, R214, R317, R339): one
place for the addresses of spill images, launch headers, streams, planes, drains, channel entries and copies. -/

namespace Sys2Proof.Machine

/-- The key of `n` bytes that do not cross a 4 KiB page, for an engine that acts for a slot under a partition; a sector that
a copy or a drain owns is waited for (R241), and so is a closed quad (R356, R373), or one in a frozen region (R383). -/
def State.engineKey (s : State) (tk pid : Nat) (p : Perm) (a : Word) (n : Nat) : Except EngErr Nat :=
  match s.engineKey0 tk pid p a n with
  | .error e => .error e
  | .ok k => if s.owned k n || s.endClosed tk pid a || s.frozenAt k then .error .owned else .ok k

/-- The first chunk of 8 bytes that an engine may not access, with the reason. -/
def State.engineFault (s : State) (tk pid : Nat) (p : Perm) (a : Word) (n : Nat) : Word × EngErr :=
  ((List.range (n / 8)).findSome? fun i => match s.engineKey tk pid p (a + word (8 * i)) 8 with
    | .error e => some (a + word (8 * i), e)
    | .ok _ => none).getD (a, .denied)

/-- `n` bytes read in chunks of 8. -/
def State.engineRead (s : State) (tk pid : Nat) (a : Word) : Nat → Except EngErr (List Byte)
  | 0 => .ok []
  | n + 1 =>
    match s.engineKey tk pid permR a 8 with
    | .error e => .error e
    | .ok k =>
      match s.engineRead tk pid (a + 8#64) n with
      | .error e => .error e
      | .ok bs => .ok (s.rdBytes k 8 ++ bs)

/-- `n` words read. -/
def State.engineWords (s : State) (tk pid : Nat) (a : Word) (n : Nat) : Except EngErr (List Word) :=
  match s.engineRead tk pid a n with
  | .error e => .error e
  | .ok bs => .ok ((List.range n).map fun i => word (ofBytes ((bs.drop (8 * i)).take 8)))

/-- The keys of `n` chunks of 8 bytes that an engine may write. -/
def State.engineKeys (s : State) (tk pid : Nat) (p : Perm) (a : Word) : Nat → Except EngErr (List Nat)
  | 0 => .ok []
  | n + 1 =>
    match s.engineKey tk pid p a 8 with
    | .error e => .error e
    | .ok k =>
      match s.engineKeys tk pid p (a + 8#64) n with
      | .error e => .error e
      | .ok ks => .ok (k :: ks)

/-- Bytes written at chunks of 8 whose keys are given: an HBM line goes through its home directory (R200). -/
def State.writeChunks (s : State) : List Nat → List Byte → State
  | [], _ => s
  | k :: ks, bs => ((s.recallLines k 8).wrBytes k (bs.take 8)).writeChunks ks (bs.drop 8)

/-- Bytes, a multiple of 8 of them, written by an engine, whose translations the TLBs keep (R204). -/
def State.engineWrite (s : State) (tk pid : Nat) (a : Word) (bs : List Byte) : Except EngErr State :=
  match s.engineKeys tk pid permW a (bs.length / 8) with
  | .error e => .error e
  | .ok ks => .ok ((s.engineFill tk pid permW a bs.length).writeChunks ks bs)

/-! ## Handback (R214, R342, R343) -/

/-- The local address of a slot's handback record (R342). -/
def State.handbackAddr (s : State) (tk : Nat) : Word :=
  word (s.reservedTop (quadOf tk) (s.pidOf tk) + 2048 * (coreOf tk % 4) + 128 * slotNo tk)

/-- An engine hands a request back to a slot: the record is written, and 0x0F waits; none while another handback of the
slot is pending. -/
def State.handback (s : State) (tk kind : Nat) (ws : List Word) (fault : Word) (write final : Bool) (reason : Nat) : Option State :=
  if (s.slot tk).hbPending then none
  else
    let a := s.handbackAddr tk
    let w9 := word (kind + bit final * 16 + bit write * 32 + reason * 2 ^ 20)
    let s1 := s.draw.wrBytes (s.localKey tk (offset a)) (words ((ws ++ List.replicate 8 0).take 8 ++ [fault, w9] ++ List.replicate 6 0))
    some ((s1.updSlot tk fun x => { x with hbAddr := a, hbWaiting := true, hbPending := true }).postAsync tk 0x0F a)

/-- REASON and FINAL of a refusal (R343): a stage-2 fault is not yet answered, or the controller has failed it. -/
def State.reasonOf (s : State) : EngErr → Nat × Bool
  | .xlate 3 => if Config.stage2Pending s.free then (0, false) else (0xFFF, true)
  | .xlate _ => (0, false)
  | .ats => (0xFFE, true)
  | _ => (0xFFD, true)

end Sys2Proof.Machine
end

