-- ==== Sys2Proof/Machine/System.lean ====
section
/-! DEFINITION. System registers and their accesses (R92 to R94, R108), writes in their cycle (R84 to R86, R114), identities
and time (R109), traps and returns (R106, R107), the allotment (R113), core queues (R114, R115), the basting registers
(R368, R370), majors 0x47 to 0x4F, 0x54, 0x56, 0x57, 0x80 to 0x82. -/

namespace Sys2Proof.Machine

/-! ## Basting registers (R368, R370) -/

/-- The commit word of half h. -/
def State.clearCommit (s : State) (tk h : Nat) : State :=
  match s.halfKey tk h 0x1FF8 with
  | none => s
  | some k => s.wr8 k 0

/-- Free notices to the cores that the slot has sent messages to (R370): they travel behind its messages. -/
def State.freeNotices (s : State) (tk : Nat) : State :=
  (s.slot tk).task.msgTo.foldl (fun t gca =>
    let m : Msg := { id := t.ids, hdr := msgHeader true true 8 t.panel.number (t.relThread tk) 0, dest := word gca
                     notice := true, pid := t.pidOf tk }
    if gca / 8192 ≠ t.panel.number then { t.takeId with msgs := t.msgs ++ [{ m with peer := true }] }
    else match t.coreOfGca (t.pidOf tk) gca with
      | none => t
      | some ck => { t.takeId with msgs := t.msgs ++ [{ m with dst := ck }] }) s

/-- BASTECFG with EN 1 (R368): both halves become invalid; STATUS.BST mirrors EN. In a one-quad partition EN stays 0; for a slot
whose KIND is neither 2 nor 3 it is kept and does not apply. -/
def State.basteEnable (s : State) (tk : Nat) (v : Word) : State :=
  let x := s.slot tk
  let guarded := ((s.part (s.pidOf tk)).guardQuad (s.pOf tk)).isSome
  if (decide (x.kind = 2) || decide (x.kind = 3)) && guarded then
    let s1 := s.updSlot tk fun y =>
      { (y.updSr fun r => { r with bastecfg := v, status := r.status ||| 0x40#64 }).updTask fun t =>
          { t with
            ckAge := 0, disabling := none, wroteCh := [], tails := [], atomLog := [], passed := none, repeats := none } with st := y.st }
    (s1.clearCommit tk 0).clearCommit tk 1
  else s.updSlot tk fun y => y.updSr fun r => { r with bastecfg := basteWord v guarded }

/-- BASTECFG with EN 0 takes effect (R370): free notices go out. -/
def State.basteDisable (s : State) (tk : Nat) (v : Word) : State :=
  (s.freeNotices tk).updSlot tk fun y =>
    (y.updSr fun r => { r with bastecfg := v, status := r.status &&& ~~~0x40#64 }).updTask fun t =>
      { t with disabling := none, msgTo := [], wroteCh := [], tails := [], atomLog := [], basteDue := false }

/-- A write of BASTECFG (R368, R370). -/
def State.writeBastecfg (s : State) (tk : Nat) (w : Word) : State :=
  let x := s.slot tk
  let v := basteWord w true
  if basteEn v then s.basteEnable tk v
  else if x.bst && !decide (x.cnt.stcS = 0 ∧ x.cnt.stcP = 0) then
    s.updSlot tk fun y => y.updTask fun t => { t with disabling := some v }
  else s.basteDisable tk v

/-! ## The registers (R92, R94) -/

/-- Who may touch a system register: it exists; a task may read it; a task may write it; a supervisor may write it. -/
structure SrAccess where
  taskRead : Bool
  taskWrite : Bool := false
  superWrite : Bool := true
  /-- A register of the core, quad, partition or region. -/
  shared : Bool := false
  deriving DecidableEq, Repr

/-- The registers and their access (R92). -/
def srAccess (n : Nat) : Option SrAccess :=
  if 0x010 ≤ n ∧ n ≤ 0x014 then some { taskRead := false }
  else if n = 0x015 then some { taskRead := true }
  else if 0x020 ≤ n ∧ n ≤ 0x022 then some { taskRead := true }
  else if n = 0x023 then some { taskRead := true, superWrite := false }
  else if 0x030 ≤ n ∧ n ≤ 0x033 then some { taskRead := true, taskWrite := true, shared := true }
  else if n = 0x040 then some { taskRead := true, shared := true }
  else if n = 0x041 then some { taskRead := true, taskWrite := true }
  else if 0x050 ≤ n ∧ n ≤ 0x05F then some { taskRead := true }
  else if 0x060 ≤ n ∧ n ≤ 0x07F then some { taskRead := true, superWrite := false, shared := true }
  else if n = 0x080 ∨ n = 0x081 then some { taskRead := true, superWrite := false, shared := true }
  else if n = 0x090 then some { taskRead := true }
  else if n = 0x091 then some { taskRead := true, superWrite := false }
  else if n = 0x0A0 then some { taskRead := true, shared := true }
  else if n = 0x0C0 then some { taskRead := true, superWrite := false, shared := true }
  else if n = 0x0C1 then some { taskRead := true, shared := true }
  else if n = 0x0D0 then some { taskRead := true, shared := true }
  else none

/-- TCNT of a slot's region. -/
def State.tcnt (s : State) (tk : Nat) : Word := (s.region (regionOf (quadOf tk))).tcnt
def State.tofs (s : State) (tk : Nat) : Word := (s.region (regionOf (quadOf tk))).tofs

/-- The value of a system register for a slot (R92). -/
def State.srValue (s : State) (tk n : Nat) : Word :=
  let x := s.slot tk
  let r := x.sr
  if n = 0x010 then r.tvec
  else if n = 0x011 then r.epc
  else if n = 0x012 then r.ecause
  else if n = 0x013 then r.einfo
  else if n = 0x014 then r.estatus
  else if n = 0x015 then r.status
  else if n = 0x020 then r.allow
  else if n = 0x021 then r.regallot
  else if n = 0x022 then r.spallot
  else if n = 0x023 then word x.task.heldBytes
  else if 0x030 ≤ n ∧ n ≤ 0x033 then FMap.get 0 (s.core (coreOf tk)).geom (n - 0x030)
  else if n = 0x040 then (s.core (coreOf tk)).vweight
  else if n = 0x041 then r.rngseed.setWidth 64
  else if 0x050 ≤ n ∧ n ≤ 0x057 then FMap.get 0 r.guardBase (n - 0x050)
  else if 0x058 ≤ n ∧ n ≤ 0x05F then FMap.get 0 r.guardLim (n - 0x058)
  else if 0x060 ≤ n ∧ n ≤ 0x07F then FMap.get 0 (s.quad (quadOf tk)).barmask (n - 0x060)
  else if n = 0x080 then s.tcnt tk
  else if n = 0x081 then s.tofs tk
  else if n = 0x090 then r.bastecfg
  else if n = 0x091 then r.basteseq
  else if n = 0x0A0 then (s.part (s.pidOf tk)).chbase
  else if n = 0x0C0 then ((s.region (regionOf (quadOf tk))).steplim.setWidth 64)
  else if n = 0x0C1 then (s.region (regionOf (quadOf tk))).droopst
  else if n = 0x0D0 then (s.part (s.pidOf tk)).svccore
  else 0

/-- The bits of GEOMn that are not reserved (R168). -/
def geomMask (n : Nat) : Word :=
  if n = 0 then 0x000000010FFF0FFF#64
  else if n = 1 then 0x000000000FFF0FFF#64
  else 0x7FFFFFFFFFFFFFFF#64

/-- A write of a system register that the level permits: reserved fields read as zero, RO fields keep their value (R5,
R94, R122, R168, R194, R268, R309, R358, R382). -/
def State.srSet (s : State) (tk n : Nat) (v : Word) : State :=
  let upd (f : SysRegs → SysRegs) : State := s.updSlot tk fun x => x.updSr f
  if n = 0x010 then upd fun r => { r with tvec := v &&& ~~~1#64 }
  else if n = 0x011 then upd fun r => { r with epc := v }
  else if n = 0x012 then upd fun r => { r with ecause := v &&& 0xFF#64 }
  else if n = 0x013 then upd fun r => { r with einfo := v }
  else if n = 0x014 then upd fun r => { r with estatus := v }
  else if n = 0x015 then upd fun r => { r with status := (r.status &&& ~~~0x80#64) ||| (v &&& 0x80#64) }
  else if n = 0x020 then
    s.updSlot tk fun x => (x.updSr fun r => { r with allow := v &&& 0x0001FFFFFFFFFFFF#64 }).updTask fun t => { t with cycRaised := false }
  else if n = 0x021 then upd fun r => { r with regallot := v &&& 0x11F3F#64 }
  else if n = 0x022 then upd fun r => { r with spallot := v &&& 0x01FFFFFFFFFFFFFF#64 }
  else if 0x030 ≤ n ∧ n ≤ 0x033 then
    s.updCore (coreOf tk) fun c => { c with geom := FMap.set 0 c.geom (n - 0x030) (v &&& geomMask (n - 0x030)) }
  else if n = 0x040 then s.updCore (coreOf tk) fun c => { c with vweight := v &&& 0xF#64 }
  else if n = 0x041 then upd fun r => { r with rngseed := if v.setWidth 32 = 0#32 then 1#32 else v.setWidth 32 }
  else if 0x050 ≤ n ∧ n ≤ 0x057 then
    upd fun r => { r with guardBase := FMap.set 0 r.guardBase (n - 0x050) (v &&& 0xF0FFFFE0#64) }
  else if 0x058 ≤ n ∧ n ≤ 0x05F then
    upd fun r => { r with guardLim := FMap.set 0 r.guardLim (n - 0x058) (v &&& 0x01FFFFE0#64) }
  else if n = 0x090 then s.writeBastecfg tk v
  else if n = 0x0A0 then s.updPart (s.pidOf tk) fun p => { p with chbase := v &&& ~~~0x3F#64 }
  else if n = 0x0C1 then
    s.updRegion (regionOf (quadOf tk)) fun g => { g with droopst := g.droopst &&& ~~~(v &&& 2#64) }
  else if n = 0x0D0 then s.updPart (s.pidOf tk) fun p => { p with svccore := v &&& 0xFFFFFF#64 }
  else s

/-! ## Writes in their cycle (R84 to R86, R114, R115) -/

/-- A slot's held pushes into a queue that it no longer writes are abandoned, and the head of the oldest traps (R114). -/
def State.abandonPushes (s : State) (tk q : Nat) (pc : Word) : State :=
  let left := (s.slot tk).pushes.filter fun p => decide (p.1 ≠ 56 + q)
  let s1 := (s.updSlot tk fun x => { x.withPushes left with st := x.up }).enterTrap tk 0x16 (misuse (56 + q) 1) pc
  if left.isEmpty then s1 else s1.updSlot tk fun x => if x.st = .ready then { x with st := .held } else x

/-- QMAP in its write cycle (R114): entries, pushes of the cycle and held pushes into the queue go; a held writer that
is no longer the writer, and a blocked reader that is no longer the reader, trap. -/
def State.bindQueue (s : State) (ck q w r : Nat) : State :=
  let s1 := s.updCore ck fun c => c.setQueue q { ents := [], bound := some (w, r) }
  (List.range 8).foldl (fun t n =>
    let tk := ck * 8 + n
    let x := t.slot tk
    match if n = w then none else x.pushes.find? fun p => decide (p.1 = 56 + q) with
    | some p => t.abandonPushes tk q p.2.2
    | none =>
      if x.st = .blocked (.port (56 + q)) ∧ n ≠ r then t.enterTrap tk 0x16 (misuse (56 + q) 1) x.pc else t) s1

/-! ## Vector-unit results (R119, R120) -/

/-- The registers that an entry will write, by their number in `busy`. -/
def VDest.names : VDest → List Nat
  | .vec r _ _ => [64 + r]
  | .mask r _ => [96 + r]
  | .scal r _ => if r = 0 then [] else [r]

/-- What a completing instruction writes (R119). -/
def State.vectorWrite (s : State) (tk : Nat) (dest : VDest) (seed : Option (BitVec 32)) (pc : Word) : State :=
  let s1 := s.updSlot tk fun x =>
    let y := { x with busy := (dest.names ++ (if seed.isSome then [104] else [])).foldl (fun b r => unbusy r b) x.busy }
    match seed with
    | some v => y.updSr fun r => { r with rngseed := v }
    | none => y
  match dest with
  | .vec r val keep => s1.setV tk r ((s1.vReg tk r &&& keep) ||| (val &&& ~~~keep))
  | .mask r val => s1.setM tk r val
  | .scal r val => if r = 0 then s1 else s1.landReg tk r val pc

/-- The instruction leaves the queue, and its destination is written with the writes of the cycle (R86, R119). -/
def Core.complete (c : Core) (e : VEntry) : Core :=
  { c with vq := c.vq.filter fun y => decide (y.id ≠ e.id)
           pend := c.pend ++ [{ due := c.cycle, slot := e.slot, pc := e.pc, op := .unit e.dest e.seed }] }

/-- Every instruction whose completion cycle has come does so, in queue order. -/
def Core.completeAll (c : Core) : Core := (c.vq.filter fun e => e.completes c.cycle).foldl Core.complete c

/-- A local store in its write cycle: it waits for an earlier owner of a sector that it writes (R241). -/
def State.landStore (s : State) (ck : Nat) (p : Pend) (keys : List Nat) (write : State → State) : State :=
  if keys.any fun k => s.ownedFor [ck * 8 + p.slot] p.born k 1 then s.updCore ck fun c => { c with pend := c.pend ++ [{ p with due := c.cycle + 1 }] }
  else write s

/-- One write in its cycle. -/
def State.applyPend (s : State) (ck : Nat) (p : Pend) : State :=
  match p.op with
  | .reg r => s.landReg (ck * 8 + p.slot) r p.val p.pc
  | .hit r =>
    let s1 := s.endCount (ck * 8 + p.slot) 0
    if r = 0 then s1 else s1.landReg (ck * 8 + p.slot) r p.val p.pc
  | .unit dest seed => s.vectorWrite (ck * 8 + p.slot) dest seed p.pc
  | .vec r val keep =>
    let tk := ck * 8 + p.slot
    let s1 := s.updSlot tk fun x => { x with busy := unbusy (64 + r) x.busy }
    s1.setV tk r ((s1.vReg tk r &&& keep) ||| (val &&& ~~~keep))
  | .sys n d =>
    let old := s.srValue (ck * 8 + p.slot) n
    let s1 := s.srSet (ck * 8 + p.slot) n p.val
    match d with
    | none => s1
    | some r => if r = 0 then s1 else s1.landReg (ck * 8 + p.slot) r old p.pc
  | .qmap q w r => s.bindQueue ck q w r
  | .qclear q => s.updCore ck fun c => c.setQueue q { c.queue q with ents := [] }
  | .store k bs => s.landStore ck p (bs.map fun b => k + b.1) fun t => (t.writeW k bs).retest
  | .feinit k full => s.landStore ck p ((List.range 8).map fun i => k + i) fun t => State.retest { t.wr8 k p.val with fe := FMap.set false t.fe k full }

/-- A queue operation discards what the same cycle pushed, so it comes after the pushes. -/
def PendOp.late : PendOp → Bool
  | .qmap _ _ _ | .qclear _ => true
  | _ => false

/-- The writes due in the present cycle, in slot order, so that the higher slot's value is kept (R86); a slot's own
writes in issue order. -/
def State.performDue (s : State) (ck : Nat) : State :=
  let c := (s.core ck).completeAll
  let due := c.pend.filter fun p => decide (p.due ≤ c.cycle)
  let s1 := s.setCore ck { c with pend := c.pend.filter fun p => !decide (p.due ≤ c.cycle) }
  let s2 := (List.range 8).foldl (fun t n =>
    (due.filter fun p => decide (p.slot = n) && !p.op.late).foldl (fun u p => u.applyPend ck p) t) s1
  (due.filter fun p => p.op.late).foldl (fun u p => u.applyPend ck p) s2

/-! ## RDSR, WRSR, SWSR (R108) -/

/-- The privilege check of R92: it precedes the other checks (R96). -/
def srPriv (n : Nat) : Option Nat :=
  match srAccess n with
  | some a => if a.taskRead then none else some n
  | none => none

/-- RNGSEED waits for a vector instruction that writes it (R119). -/
def srSeed (n : Nat) : Bool := decide (n = 0x041)

/-- An access to an undefined number traps (R93). -/
def srDefined (n : Nat) (k : SrAccess → Act) : Act :=
  match srAccess n with
  | none => .trap 0x02 (word n)
  | some a => k a

/-- RDSR (R108). -/
def execRdsr (d : Reg) (sr : BitVec 12) (s : State) : Res :=
  runHead { wr := [d], seed := srSeed sr.toNat, sup := srPriv sr.toNat } s fun _ t =>
    srDefined sr.toNat fun _ => put t d (t.srValue t.cur sr.toNat) 3

/-- Whether a write at the issuing level has an effect (R93). -/
def State.srWritable (s : State) (a : SrAccess) : Bool := if s.super then a.superWrite else a.taskWrite

/-- WRSR (R108). -/
def execWrsr (sr : BitVec 12) (a : Reg) (s : State) : Res :=
  runHead { rd := [a], seed := srSeed sr.toNat, sup := srPriv sr.toNat } s fun v t =>
    srDefined sr.toNat fun acc =>
      if t.srWritable acc then .next (t.pendOp (.sys sr.toNat none) (v a)) else .next t

/-- SWSR (R108): the register is read and written in one step, in the write cycle (R93). -/
def execSwsr (d : Reg) (sr : BitVec 12) (a : Reg) (s : State) : Res :=
  runHead { rd := [a], wr := [d], seed := srSeed sr.toNat, sup := srPriv sr.toNat } s fun v t =>
    srDefined sr.toNat fun acc =>
      if !t.srWritable acc then put t d (t.srValue t.cur sr.toNat) 3
      else if acc.shared then lateDest t d (.next (t.pendOp (.sys sr.toNat (some d.toNat)) (v a)))
      else if d.toNat = 63 && t.me.optimistic then .trap 0x02 (t.srValue t.cur sr.toNat)
      else .next (t.pendOp (.sys sr.toNat (some d.toNat)) (v a))

/-! ## GETID, WID, TIME (R109) -/

/-- The identifier a selector names (R58, R109). -/
def State.identity (s : State) (sel : IdSel) : Word :=
  let q := s.logicalQuad (quadOf s.cur)
  match sel with
  | .thr => word (q * 32 + s.cur % 32)
  | .pthr => word (s.relThread s.cur)
  | .gca => word (s.panel.number * 8192 + q * 4 + coreOf s.cur % 4)
  | .quad => word q
  | .pquad => word (s.pOf s.cur)
  | .part => word s.myPid
  | .panel => word s.panel.number
  | .size => word (s.myPart.w + s.myPart.h * 128)

/-- GETID (R109). -/
def execGetid (sel : IdSel) (d : Reg) (s : State) : Res :=
  runHead { wr := [d] } s fun _ t => put t d (t.identity sel) 3

/-- Field n of the slot's work identifier, 0 at or beyond NF (R109). -/
def State.widField (s : State) (n : Nat) : Word :=
  let h := s.taskHdr s.cur
  if n < hdrNf h then word (hdrField h s.me.task.wid n) else 0

/-- WID (R109). -/
def execWid (d : Reg) (n : BitVec 22) (s : State) : Res :=
  runHead { wr := [d] } s fun _ t => put t d (t.widField n.toNat) 3
/-- TIME.loc (R109): TCNT of the issue cycle. -/
def execTimeLoc (d : Reg) (s : State) : Res := runHead { wr := [d] } s fun _ t => put t d (t.tcnt t.cur) 3
/-- TIME.glob (R109). -/
def execTimeGlob (d : Reg) (s : State) : Res := runHead { wr := [d] } s fun _ t => put t d (t.tcnt t.cur + t.tofs t.cur) 3

/-! ## Traps (R53, R106, R107) -/

/-- ILLEGAL_INSTRUCTION (R53, R54): before any operand is read. -/
def execIllegalInstruction (head : BitVec 16) (rsv : Bool) (s : State) : Res :=
  .next (s.enterTrap s.cur 0x01 (word (head.toNat + bit rsv * 65536)) s.me.pc)

/-- TRAP (R106). -/
def execTrap (n : BitVec 6) (s : State) : Res := runHead {} s fun _ _ => .trapNext 0x15 (zext n)

/-- BRK (R106, R380): on an armed quad the quad halts with the PC at the BRK. -/
def execBrk (n : BitVec 6) (s : State) : Res :=
  runHead {} s fun _ t =>
    if t.myQuad.brkArm then .keep (t.updMyQuad fun q => { q with halted := true }) else .trapNext 0x14 (zext n)

/-- ERET (R107): an odd EPC traps at the head. -/
def execEret (s : State) : Res :=
  runHead { sup := some 0x4900 } s fun _ t =>
    if t.me.sr.epc.getLsbD 0 then .trap 0x04 t.me.sr.epc else .keep (t.leaveTrap t.cur)

/-! ## SALLOC, SFREE (R113) -/

def saTop (w : Word) : Nat := fld w 38 19
def saLimit (w : Word) : Nat := fld w 19 19
def saBase (w : Word) : Nat := fld w 0 19

/-- The allotment invariant (R94). -/
def saOk (w : Word) : Bool := decide (saBase w ≤ saTop w ∧ saTop w ≤ saLimit w ∧ saLimit w ≤ 0x40000)

/-- SALLOC (R113). -/
def execSalloc (d a : Reg) (imm : BitVec 22) (s : State) : Res :=
  runHead { rd := [a], wr := [d] } s fun v t =>
    let w := t.me.sr.spallot
    let units := ((v a).toNat + imm.toNat + 63) / 64
    if !saOk w || decide (saLimit w < saTop w + units) then .exhaust 1 (word (1 + 4 * units))
    else
      put (t.updMe fun x => x.updSr fun r => { r with spallot := setFld w 38 19 (saTop w + units) }) d
        (word (saTop w * 64)) 3

/-- SFREE (R113). -/
def execSfree (a : Reg) (s : State) : Res :=
  runHead { rd := [a] } s fun v t =>
    let w := t.me.sr.spallot
    let n := (v a).toNat
    if n % 64 ≠ 0 ∨ 2 ^ 24 ≤ n ∨ n < saBase w * 64 ∨ saTop w * 64 < n then .trap 0x02 (v a)
    else .next (t.updMe fun x => x.updSr fun r => { r with spallot := setFld w 38 19 (n / 64) })

/-! ## Core queues (R114, R115) -/

/-- QMAP (R114). -/
def execQmap (q : BitVec 2) (w r : BitVec 3) (s : State) : Res :=
  runHead {} s fun _ t => .next (t.pendOp (.qmap q.toNat w.toNat r.toNat) 0)
/-- QCLEAR (R115). -/
def execQclear (q : BitVec 2) (s : State) : Res := runHead {} s fun _ t => .next (t.pendOp (.qclear q.toNat) 0)

/-- The count of a queue, 0 when it is unbound (R115). -/
def Core.qlen (c : Core) (n : Nat) : Nat :=
  if (c.queue n).bound.isSome then (c.queue n).ents.length else 0

/-- QLEN (R115): the count at the start of the issue cycle. -/
def execQlen (d : Reg) (n : BitVec 22) (s : State) : Res :=
  runHead { wr := [d] } s fun _ t => put t d (word (s.myCore.qlen n.toNat)) 3

end Sys2Proof.Machine
end

