-- ==== Sys2Proof/Machine/Slots.lean ====
section
/-! DEFINITION. The life of a slot: instruction fetch (R35 to R44, R196), wakes (R111), asynchronous traps (R97, R254), spill
and restore (R98 to R100, R112), the cycle allowance (R309), held pushes (R89), TEND (R325), watchdogs (R381). -/

namespace Sys2Proof.Machine

/-! ## Instruction fetch -/

/-- The space and guard checks of a fetch (R191, R195, R196). -/
def State.fetchCheck (s : State) (tk : Nat) : Check :=
  let pc := (s.slot tk).pc
  let l := lineBase pc
  firstTrap [failIf (!mustBeZero pc) 0x0D pc,
    failIf (!(decide (space pc = 0 ∧ window pc = 0) || decide (space pc = 2))) 0x0D pc,
    if space pc = 0 then s.localCheck tk permX l 64 else none]

/-- The line at a slot's PC, when the quad's cache or the local scratchpad has it. -/
def State.fetchLine (s : State) (tk : Nat) : Option Nat :=
  let pc := (s.slot tk).pc
  let q := s.quad (quadOf tk)
  match q.icache.find? fun e => decide (e.1 = fetchKey (s.pidOf tk) pc) with
  | some e => some e.2
  | none =>
    let k := s.localKey tk (offset (lineBase pc))
    if space pc = 0 && !s.owned k 64 then some (s.rd k 64) else none

/-- The line enters the quad's cache (R40), and the slot's H is the line's (R42). -/
def State.withLine (s : State) (tk l : Nat) : State :=
  (s.cacheLine (quadOf tk) (fetchKey (s.pidOf tk) (s.slot tk).pc) l).updSlot tk
    fun x => { x with lineH := lineHeads l }

/-- The illegal-line trap of a head (R38, R44, R54), none when the head exists. -/
def illegalLine (pc : Word) (l : Nat) : Check :=
  let info (reason : Nat) : Word := word (reason * 2 ^ 20 + lineHalf l 0)
  match lineBad l with
  | some r => some (0x11, info r)
  | none => if headIndex pc = 0 ∨ lineHeads l < headIndex pc then some (0x11, info 2) else none

/-- A fetch of a slot's line from HBM is on its way. -/
def State.fetching (s : State) (tk : Nat) : Bool :=
  s.flights.any fun f => decide (f.thr = tk ∧ f.op = .fetch ∧ f.addr = lineBase (s.slot tk).pc)

/-- The slot waits for its line (R81); one that waits at its head already goes on waiting there. -/
def Slot.awaitLine (x : Slot) : Slot := if x.st = .ready then { x with st := .blocked .fetch } else x

/-- The line has come: a slot that waited for it is ready (R81). -/
def Slot.lineHere (x : Slot) : Slot := if x.st = .blocked .fetch then { x with st := .ready } else x

/-- The answer that the slot's head waited for has come: the head has been performed, and completes (R97, R100). -/
def Slot.answered (x : Slot) : Bool :=
  match x.op with
  | .done _ | .denied => true
  | _ => false

/-- LINE_FETCH (R38, R196): the checks, the line from the cache or from memory; a line of HBM is asked for and the slot
waits. -/
def execLineFetch (tk : Nat) (s : State) : Res :=
  unitEvent (slotOk tk) tk s (
    let x := s.slot tk
    let runs := match x.st with
      | .ready | .blocked _ => true
      | .moving => x.answered
      | _ => false
    if !runs then none else
    match s.fetchCheck tk with
    | some (c, info) => some (s.enterTrap tk c info x.pc)
    | none =>
      match s.fetchLine tk with
      | some l =>
        match illegalLine x.pc l with
        | some (c, info) => some ((s.withLine tk l).enterTrap tk c info x.pc)
        | none => some ((s.withLine tk l).updSlot tk Slot.lineHere)
      | none =>
        if s.fetching tk then some (s.updSlot tk Slot.awaitLine)
        else if space x.pc = 0 then some (s.updSlot tk Slot.awaitLine)
        else some ((s.launchFlight { id := 0, thr := tk, pid := s.pidOf tk, addr := lineBase x.pc, n := 64, op := .fetch
                                     tag := x.faultTag }).updSlot tk Slot.awaitLine))

/-! ## WAKE (R111) -/

/-- A wake is posted to a slot (R111); a context that is swapped out keeps it in its saved slot (R384). -/
def State.wakeUp (s : State) (pid tk : Nat) : State :=
  if s.runs pid tk then { s with wakes := s.wakes ++ [tk] }
  else s.updSaved (quadOf tk) pid fun v => { v with slots := v.slots.modify (tk % 32) fun x => { x with wake := true } }

/-- WAKE (R111): posted. -/
def execWake (a : Reg) (s : State) : Res :=
  runHead { rd := [a] } s fun v t =>
    match t.threadKey t.myPid (v a).toNat with
    | none => .trap 0x07 (v a)
    | some tk => .next (t.wakeUp t.myPid tk)

/-- WAKE_ARRIVAL (R111): it ends the WAITADDR or MWAIT in which the slot is blocked, or sets the bit that ends the next. -/
def execWakeArrival (tk : Nat) (s : State) : Res :=
  unitEvent (slotOk tk) tk s (
    if s.wakes.contains tk then
      some (({ s with wakes := s.wakes.erase tk } : State).takeWake tk)
    else none)

/-! ## Withdrawing a wait (R97, R100, R254) -/

/-- BARSETs of a slot that are not installed end (R256). -/
def State.dropBarsets (s : State) (tk : Nat) : State :=
  { s with parts := s.parts.map fun p => (p.1, { p.2 with barsets := p.2.barsets.filter fun b => decide (b.thr ≠ tk) }) }

/-- The slot goes on where it stopped (R112): with a push that it holds first (R89). -/
def Slot.resume (x : Slot) : Slot := { x with st := if x.push.isSome then .held else .ready }

/-- The engines of a request that its slot waits for have not begun it: it is withdrawn. One with a pending fault is not, until its
reply (R211, R213). -/
def State.withdrawn (s : State) (tk : Nat) : Option State :=
  let flights := s.flights.filter fun f => decide (f.thr = tk ∧ f.ret = .op)
  let launches := s.launches.filter fun l => decide (l.thr = some tk) && !l.spawn
  let moves := s.moves.filter fun m => decide (m.issuer = some tk)
  match flights, launches, moves with
  | f :: _, _, _ => if f.stage.performed || f.stage.faulted then none else some (((s.removeFlight f).endCount tk f.ctr).dropBarsets tk)
  | [], l :: _, _ => some { s with launches := s.launches.filter fun x => decide (x.id ≠ l.id) }
  | [], [], m :: _ =>
    if m.started then none
    else some (({ s with moves := s.moves.filter fun x => decide (x ≠ m) }.updSlot m.thr fun y =>
      if m.restore then { y with st := .free } else y.resume).resetRotation (coreOf m.thr))
  | [], [], [] =>
    let c := s.core (coreOf tk)
    let left := withdrawHead (slotNo tk) c.slice.ops
    if left ≠ c.slice.ops then some (s.setCore (coreOf tk) { c with slice := { c.slice with ops := left } })
    else if s.parts.any fun p => p.2.barsets.any fun b => decide (b.thr = tk) then some (s.dropBarsets tk) else none

/-- The slot is blocked in a CHINV: issued again, it makes its writes again (R272, R293). -/
def SlotSt.chinv (st : SlotSt) : Bool :=
  match st with
  | .blocked (.chAcks _) => true
  | _ => false

/-- A slot's blocked head is abandoned (R97, R100, R254): what it asked for and has not been performed is withdrawn; what
has been performed completes first, and then there is no state yet. An unjoined GANG leaves the sequence (R189). -/
def State.abandonWait (s : State) (tk : Nat) : Option State :=
  let x := s.slot tk
  match x.op with
  | .none => some s
  | .done _ | .denied => none
  | .wait => (if x.st.chinv then some s else s.withdrawn tk).map fun t => t.updSlot tk fun y => { y with op := .none }

/-- The slot is halted: of itself, or with its quad or region (R81). For a context swap (R384) a head that has been performed completes
first, as for a spill (R100). -/
def State.stopped (s : State) (tk : Nat) : Bool :=
  let q := s.quad (quadOf tk)
  decide ((s.slot tk).st = .halted) || q.halted || (q.swapping && !(s.slot tk).answered) || q.contained || (s.region (regionOf (quadOf tk))).frozen || s.panel.frozen

/-- ASYNC_TRAP_ENTRY (R97): the oldest waiting cause is taken with EXL 0; the head that would have issued next is the
EPC. A handback whose trap is taken stays pending until the handler leaves (R342). -/
def execAsyncTrapEntry (tk : Nat) (s : State) : Res :=
  unitEvent (slotOk tk) tk s (do
    let x := s.slot tk
    let c ← x.async.head?
    let open_ := match x.st with
      | .ready | .blocked _ => !x.exl
      | _ => false
    if open_ && !s.stopped tk then
      let t ← s.abandonWait tk
      pure ((t.updSlot tk fun y => { y with async := y.async.tail, hbWaiting := y.hbWaiting && decide (c.code ≠ 0x0F#8) }).enterTrap
        tk c.code.toNat c.info x.pc)
    else none)

/-- HELD_PUSH_RETRY (R89). -/
def execHeldPushRetry (tk : Nat) (s : State) : Res := unitEvent (slotOk tk) tk s (some (s.retryPush tk))

/-! ## Spill and restore (R98 to R100, R112) -/

/-- The slot has no pending register write but a held push, and no store of its own on its way to the scratchpad (R100, R325). -/
def State.noPending (s : State) (tk : Nat) : Bool :=
  let c := s.core (coreOf tk)
  (s.slot tk).busy.isEmpty && c.pend.all (fun p => decide (p.slot ≠ slotNo tk)) && (c.vq.all fun e => decide (e.slot ≠ slotNo tk))
    && (s.spillPops.all fun p => decide (p.thr ≠ tk)) && (s.slot tk).pushMore.isEmpty

/-- The spill engine takes a slot (R81, R100): the head that it is blocked at is abandoned, unless it has been performed. -/
def State.beginMove (s : State) (m : Move) : State :=
  let t := (s.abandonWait m.thr).getD s
  { t.updSlot m.thr fun x => { x with st := .moving } with moves := t.moves ++ [m] }

/-- The status that SPILL returns at once (R112). -/
def State.spillStatus (s : State) (tk : Nat) : Option Nat :=
  let x := s.slot tk
  if tk = s.cur then some 1
  else if !s.runs s.myPid tk then some 4
  else if x.st = .free then some 2
  else if s.stopped tk ∨ x.st = .moving then some 4
  else if x.optimistic then some 3
  else none

/-- SPILL (R112): the slot waits until the image is written. -/
def execSpill (d a b : Reg) (s : State) : Res :=
  runReply { rd := [a, b], wr := [d], sup := some (0x5240 + d.toNat) } s (fun v t =>
    match t.threadKey t.myPid (v a).toNat with
    | none => .trap 0x07 (v a)
    | some tk =>
      if (v b).toNat % 64 ≠ 0 then .trap 0x04 (v b) else
      match t.spillStatus tk with
      | some 3 => put (t.rip tk false) d 3 3
      | some n => put t d (word n) 3
      | none =>
        .keep (t.beginMove { thr := tk, issuer := some t.cur, addr := v b, restore := false }).await)
    (fun v t => put t d v 3)

/-- The status that RESTOR returns at once (R112). -/
def State.restorStatus (s : State) (tk : Nat) : Option Nat :=
  let x := s.slot tk
  if s.stopped tk ∨ x.st = .moving ∨ s.runs s.myPid tk = false then some 4
  else if x.st ≠ .free then some 1
  else none

/-- RESTOR (R112). -/
def execRestor (d a b : Reg) (s : State) : Res :=
  runReply { rd := [a, b], wr := [d], sup := some (0x5340 + d.toNat) } s (fun v t =>
    match t.threadKey t.myPid (v a).toNat with
    | none => .trap 0x07 (v a)
    | some tk =>
      if (v b).toNat % 64 ≠ 0 then .trap 0x04 (v b) else
      match t.restorStatus tk with
      | some n => put t d (word n) 3
      | none =>
        .keep (t.beginMove { thr := tk, issuer := some t.cur, addr := v b, restore := true }).await)
    (fun v t => put t d v 3)

def State.move (s : State) (tk : Nat) (restore : Bool) : Option Move :=
  s.moves.find? fun m => decide (m.thr = tk ∧ m.restore = restore)

def State.dropMove (s : State) (m : Move) : State := { s with moves := s.moves.filter fun x => decide (x ≠ m) }

/-- A move's issuer hears its status. -/
def State.answerMove (s : State) (m : Move) (v : Nat) : State :=
  match m.issuer with
  | none => s
  | some tk => s.answer tk (word v)

/-- The partition and the slot under which an image is accessed: the issuer's. -/
def Move.agent (m : Move) : Nat := m.issuer.getD m.thr

/-- A translation fault of the slot waits for its reply: the spill waits (R213). -/
def State.faulted (s : State) (tk : Nat) : Bool := s.flights.any fun f => decide (f.thr = tk) && f.stage.faulted

/-- SLOT_SPILL (R100): once the wait ends the engine begins; an image that may not be written ends it with status 5, and
the slot goes on where it stopped. -/
def execSlotSpill (tk : Nat) (s : State) : Res :=
  unitEvent (slotOk tk) tk s (do
    let m ← s.move tk false
    let t ← s.abandonWait tk
    let x := t.slot tk
    if m.started || !x.cnt.zero || !t.noPending tk || t.faulted tk then none
    else
      let begin_ : State := { t with moves := t.moves.map fun y => if y = m then { y with started := true } else y }
      if m.dbl then pure begin_
      else match t.engineWrite m.agent (t.pidOf m.agent) m.addr (t.image tk x.pc) with
        | .ok _ => pure begin_
        | .error .owned => none
        | .error _ =>
          pure (((t.dropMove m).updSlot tk Slot.resume).answerMove m 5))

/-- The basting state of a task whose image is written stands beside the thread number of that image (R369, R370; log entry 139). -/
def State.park (s : State) (pid n : Nat) (x : Slot) : State :=
  if x.bst then { s with parked := (s.parked.filter fun p => !decide (p.1 = pid ∧ p.2.1 = n)) ++ [(pid, n, x.task)] } else s

/-- What a task spilled while basted takes up again beside its image: the checkpoint that is due, the cycles since the last, what it
has written, logged and sent (R369, R370). -/
def Task.unpark (t old : Task) : Task :=
  { t with basteDue := old.basteDue, arriveAsked := old.arriveAsked, ckAge := old.ckAge, wroteCh := old.wroteCh, tails := old.tails
           lastTail := old.lastTail, replay := old.replay, ckId := old.ckId, atomLog := old.atomLog, passed := old.passed, repeats := old.repeats, msgTo := old.msgTo
           disabling := old.disabling }

/-- A restored slot takes up the basting state that stands beside the thread number of its image. -/
def State.unpark (s : State) (tk pid n : Nat) : State :=
  match s.parked.find? fun p => decide (p.1 = pid ∧ p.2.1 = n) with
  | none => s
  | some p =>
    if (s.slot tk).bst then ({ s with parked := s.parked.erase p } : State).updSlot tk fun x => x.updTask fun k => k.unpark p.2.2 else s

/-- Where the save area of a partition's thread lies: 64-byte aligned, in HBM (R98, R384). -/
def saveAddr (pid n : Nat) : Word := setFld (setFld (Config.saveArea pid n) 48 16 0x2000) 0 6 0

/-- The image of a slot, as thread n of a partition, is written where its save area lies in the partition's memory, when it may be. -/
def State.writeImage (s : State) (tk pid n : Nat) (x : Slot) : State :=
  match s.engineWrite tk pid (saveAddr pid n) (x.image n pid x.pc) with
  | .ok u => u
  | .error _ => s

/-- The image of a slot goes to its save area (R98, R378; log entry 13), and the slot as it stands is kept. -/
def State.saveImage (s : State) (tk pid n : Nat) (x : Slot) : State :=
  (({ s with doubles := s.doubles ++ [(tk, x)] } : State).park pid n x).writeImage tk pid n x

/-- SPILL_COMPLETE (R100): the image stands, and the slot is free; a pending handback leaves with the image (R342). One that may not
be written any more ends with status 5 (R112). -/
def execSpillComplete (tk : Nat) (s : State) : Res :=
  unitEvent (slotOk tk) tk s (do
    let m ← s.move tk false
    if !m.started then none
    else
      let x := s.slot tk
      let leave (t : State) : State :=
        (((t.dropMove m).updSlot tk fun y => { y with hbWaiting := false, hbPending := false }).freeSlot tk).answerMove m 0
      if m.dbl then pure (leave (s.saveImage tk (s.pidOf tk) (s.relThread tk) x))
      else match s.engineWrite m.agent (s.pidOf m.agent) m.addr (s.image tk x.pc) with
        | .ok t => pure (leave (t.park (s.pidOf tk) (s.relThread tk) x))
        | .error .owned => none
        | .error _ => pure (((s.dropMove m).updSlot tk Slot.resume).answerMove m 5))

/-- RESTORE_COMPLETE (R100, R112): the slot is ready at the image PC, or stays free with a status. -/
def execRestoreComplete (tk : Nat) (s : State) : Res :=
  unitEvent (slotOk tk) tk s (do
    let m ← s.move tk true
    let fail (n : Nat) : State :=
      (((s.dropMove m).updSlot tk fun y => { y with st := .free }).resetRotation (coreOf tk)).answerMove m n
    let pid := s.pidOf m.agent
    match s.engineRead m.agent pid (m.addr + 504#64) 1, s.engineRead m.agent pid m.addr 576 with
    | .error .owned, _ => none
    | .error _, _ => pure (fail 3)
    | .ok id, whole =>
      if fld (word (ofBytes id)) 16 12 ≠ pid then pure (fail 2)
      else match whole with
      | .error .owned => none
      | .error _ => pure (fail 3)
      | .ok bs =>
        let scratch : State := { s with mem := memWrite [] 0 bs }
        let hdr := match bindingOf (scratch.imgWord 0 62) with
          | none => []
          | some h => (s.launchRec pid h).hdr
        pure ((((((s.engineFill m.agent pid permR m.addr 576).draw).dropMove m).setSlot tk
          (scratch.slotOfImage 0 (s.slot tk) hdr ((s.part pid).guardQuad (s.pOf tk)).isSome)).unpark tk pid
            (fld (word (ofBytes id)) 0 16)).answerMove m 0))

/-! ## The cycle allowance (R309) -/

/-- CYCLE_ALLOWANCE_EXHAUSTED (R309, R312): an optimistic task is ripped or faults in the cycle, whatever it waits for; a
pinned task takes ECAUSE 0x17 once. -/
def execCycleAllowanceExhausted (tk : Nat) (s : State) : Res :=
  unitEvent (slotOk tk) tk s (
    let x := s.slot tk
    if x.st = .free ∨ x.sr.allow.getLsbD 48 = true ∨ fld x.sr.allow 0 48 ≠ 0 ∨ x.task.cycRaised = true then none
    else if x.optimistic then some (s.exhaust tk 2 2)
    else some ((s.updSlot tk fun y => y.updTask fun t => { t with cycRaised := true }).postAsync tk 0x17 2))

/-! ## TEND (R325) -/

/-- What TEND does once its waits are over: notices, the drain, the allotment, and the end of the piece. -/
def State.endTask (s : State) (tk : Nat) : State :=
  let x := s.slot tk
  let pid := s.pidOf tk
  let s1 := if x.bst then s.freeNotices tk else s
  let s2 := s1.returnAllot tk
  let s3 := s2.freeSlot tk
  if x.optimistic && !x.task.held.isEmpty then
    s3.updQuad (quadOf tk) fun q => { q with drain := q.drain ++
      [{ thr := tk, pid, handle := x.task.handle.getD 0, recs := x.task.held, tag := x.faultTag }] }
  else s3.pieceDone pid x.task.handle false

/-- TEND (R325). -/
def execTend (s : State) : Res :=
  runHead {} s fun _ t =>
    let c := t.me.cnt
    if t.me.kind = 3 then .trap 0x02 0
    else if !(decide (c.ldc = 0 ∧ c.cpc = 0 ∧ c.tlc = 0) && t.noPending t.cur) then .block .tend
    else if t.me.kind = 2 && !(t.fenceOk .dom && decide (c.stcX = 0)) then .block .tend
    else .keep (t.endTask t.cur)

/-! ## Watchdogs (R381) -/

/-- Some quad of the partition is debug-halted: its watchdogs are paused. -/
def State.paused (s : State) (pid : Nat) : Bool :=
  s.quads.any fun q => q.2.ctxs.any fun c => decide (c.pid = pid) && s.haltedIn pid q.1

/-- LOG as it acts (R361): 0 disables, else between 20 and 40. -/
def watchLog (n : Nat) : Nat := if n = 0 then 0 else Nat.min 40 (Nat.max 20 n)

/-- The watchdog of a slot fires once in a wait, at 2^LOG cycles (R381); LOG is its virtual function's. A service-core
slot's starts containment (R372, detector 2). -/
def State.watchdog (s : State) (tk : Nat) : State :=
  let x := s.slot tk
  let pid := s.pidOf tk
  let log := watchLog (s.vf (s.part pid).vf).wdt.toNat
  let waits := match x.st with
    | .blocked _ | .held => true
    | _ => false
  if (waits || s.faultBlocked tk) && !x.wdFired && decide (log ≠ 0 ∧ 2 ^ log ≤ x.waited) then
    let s1 := s.updSlot tk fun y => { y with wdFired := true }
    if x.kind = 3 then s1.contain (quadOf tk) 2 (tk / 8 % 4)
    else s1.service pid { kind := 0x13, thread := s.relThread tk, info := x.pc, w2 := x.pc }
  else s

/-- WATCHDOG_EXPIRY (R381). -/
def execWatchdogExpiry (tk : Nat) (s : State) : Res := unitEvent (slotOk tk) tk s (some (s.watchdog tk))

end Sys2Proof.Machine
end

