-- ==== Sys2Proof/Machine/Transcend.lean ====
section
/-! DEFINITION. The functions of R136 whose values are transcendental: the exact value is enclosed between two fixed-point
bounds of 256 fraction bits, and the result is their common rounding. Should the bounds round apart, the value is
free: the spec's value is the correctly rounded one, which the enclosure then does not decide. -/

namespace Sys2Proof.Machine

/-- The fixed point: 2^256. -/
def fxOne : Nat := 2 ^ 256
/-- The natural logarithm of 2, cut to 256 fraction bits. -/
def fxLn2 : Nat := 0xb17217f7d1cf79abc9e3b39803f2f6af40f343267298b62d8a0d175b8baafa2b
/-- The slack of a series: every term is cut once. -/
def fxSlack : Nat := 4096

/-- Σ x^k / k! by terms: `t` the present term, `k` its index, below the true sum. -/
def expSeries (x : Nat) : Nat → Nat → Nat → Nat
  | 0, _, _ => 0
  | n + 1, t, k => t + expSeries x n (t * x / fxOne / (k + 1)) (k + 1)

/-- Bounds of e^x for x in [0, 1), in fixed point. -/
def fxExp (x : Nat) : Nat × Nat :=
  let v := expSeries x 80 fxOne 0
  (v, v + fxSlack)

/-- 2 Σ z^(2j+1) / (2j+1) by terms: `t` is z^(2j+1). -/
def atanhSeries (z2 : Nat) : Nat → Nat → Nat → Nat
  | 0, _, _ => 0
  | n + 1, t, j => 2 * t / (2 * j + 1) + atanhSeries z2 n (t * z2 / fxOne) (j + 1)

/-- Bounds of ln y for y in [1, 2), in fixed point. -/
def fxLn (y : Nat) : Nat × Nat :=
  let z := (y - fxOne) * fxOne / (y + fxOne)
  let v := atanhSeries (z * z / fxOne) 100 z 0
  (v, v + fxSlack)

/-- The FP32 code on which two bounds agree; a free value where they do not. -/
def agree (op lane : Nat) (lo hi : FVal) : Nat :=
  let a := fp32.encode .rne 0 lo
  if a = fp32.encode .rne 0 hi then a else (Config.freeLane op lane).toNat

/-- A fixed-point magnitude scaled by 2^k. -/
def fxVal (neg : Bool) (m : Nat) (k : Int) : FVal := .fin neg m (k - 256)

/-- A dyadic m × 2^e as a floor and a fraction in fixed point, signed. -/
def splitFixed (s : Bool) (m : Nat) (e : Int) : Int × Nat :=
  let v : Int := signed s (m * 2 ^ (e + 256).toNat / 2 ^ (-(e + 256)).toNat)
  (v / (2 ^ 256 : Nat), (v % (2 ^ 256 : Nat)).toNat)

/-- VEXP2 (R136). -/
def vexp2 (code : Nat) : Nat :=
  match fp32.decode code with
  | .nan s f => fp32.nanCode s f
  | .inf s => if s then 0 else fp32.infCode
  | .fin s m e =>
    if m = 0 then 0x3F800000
    else
      let top : Int := (Nat.log2 m : Int) + e
      if 8 ≤ top then (if s then 0 else fp32.infCode)
      else
        let p := splitFixed s m e
        if p.2 = 0 then fp32.encode .rne 0 (.fin false 1 p.1)
        else
          let b := fxExp (p.2 * fxLn2 / fxOne)
          agree 0 code (fxVal false b.1 p.1) (fxVal false b.2 p.1)

/-- VLOG2 (R136). -/
def vlog2 (code : Nat) : Nat :=
  match fp32.decode code with
  | .nan s f => fp32.nanCode s f
  | .inf s => if s then 0x7FC00000 else fp32.infCode
  | .fin s m e =>
    if m = 0 then fp32.withSign true fp32.infCode
    else if s then 0x7FC00000
    else
      let k : Int := (Nat.log2 m : Int) + e
      let y := m * fxOne / 2 ^ Nat.log2 m
      if y = fxOne then fp32.encode .rne 0 (if k = 0 then .fin false 0 0 else ofInt k 0 .rne)
      else
        let b := fxLn y
        let lo : Int := k * (fxOne : Nat) + (b.1 * fxOne / (fxLn2 + 1) : Nat)
        let hi : Int := k * (fxOne : Nat) + (b.2 * fxOne / fxLn2 + 1 : Nat)
        agree 1 code (ofInt lo (-256) .rne) (ofInt hi (-256) .rne)

/-- VTANH (R136): of a small a it rounds to a, of a large one to ±1. -/
def vtanh (code : Nat) : Nat :=
  match fp32.decode code with
  | .nan s f => fp32.nanCode s f
  | .inf s => fp32.withSign s 0x3F800000
  | .fin s m e =>
    let top : Int := (Nat.log2 m : Int) + e
    if m = 0 ∨ top < -20 then code
    else if 4 ≤ top then fp32.withSign s 0x3F800000
    else
      let x := m * 2 ^ (e + 257).toNat / 2 ^ (-(e + 257)).toNat
      let n := x / fxLn2
      let b := fxExp (x - n * fxLn2)
      let lo := (b.1 - fxSlack) * 2 ^ n
      let hi := b.2 * 2 ^ n
      let t (v : Nat) : Nat := (v - fxOne) * fxOne / (v + fxOne)
      agree 2 code (fxVal s (t lo) 0) (fxVal s (t hi + 1) 0)

end Sys2Proof.Machine
end

