-- ==== Sys2Proof/Machine/Vector.lean ====
section
/-! DEFINITION. The vector unit: its queue, beats and completion (R116 to R122), the lane instructions of majors 0xA0 to 0xC9
and 0xD8 to 0xDF (R133 to R149), and the mask instructions (R154). -/

namespace Sys2Proof.Machine

/-! ## Lanes (R116, R117) -/

/-- Lane i of width w. -/
def laneAt (v : Vec) (w i : Nat) : Nat := bitsAt v.toNat (w * i) w

/-- The value and the kept bits of n lanes of width w: inactive lanes, and bits above them, keep their value. -/
def lanesOut (w n : Nat) (m : Word) (f : Nat → Nat) : Vec × Vec :=
  let on (i : Nat) : Bool := m.getLsbD i
  (BitVec.ofNat 2048 (packLanes w ((List.range n).map fun i => if on i then f i else 0)),
   ~~~BitVec.ofNat 2048 (packLanes w ((List.range n).map fun i => if on i then 2 ^ w - 1 else 0)))

/-- The width of a lane. -/
def tyBits (ty : VTy) : Nat := 2048 / ty.lanes
/-- Beat and latency of the simple and the wide class (R120). -/
def simpleTime (ty : VTy) : Nat × Nat := if ty.lanes = 64 then (1, 4) else (2, 6)
/-- Beat and latency of the cross-lane class. -/
def crossTime (ty : VTy) : Nat × Nat := if ty.lanes = 64 then (1, 10) else (2, 10)
/-- A type whose integers are signed. -/
def tySigned (ty : VTy) : Bool :=
  match ty with
  | .i32 | .i64 => true
  | _ => false
/-- The floating format of a type's lanes. -/
def tyFmt (ty : VTy) : Fmt := if ty.lanes = 64 then fp32 else fp64

/-! ## The queue (R118 to R120) -/

/-- Entries that still hold a place: one is free in the cycle after its last beat ends (R118). -/
def Core.vqUsed (c : Core) : Nat := (c.vq.filter fun e => !e.left.isEmpty || decide (c.cycle ≤ e.ends)).length

/-- An instruction enters the core's queue. -/
def State.pushVector (s : State) (dest : VDest) (seed : Option (BitVec 32)) (time : Nat × Nat) : State :=
  (s.takeId.updMyCore fun c => { c with vq := c.vq ++
    [{ id := s.ids, slot := slotNo s.cur, dest, seed, issued := c.cycle, pc := s.me.pc, beat := time.1, lat := time.2 }] }).updMe
    fun x => { x with busy := x.busy ++ dest.names ++ (if seed.isSome then [104] else []) }

/-- A vector-unit head (R118, R119): it waits for room in the queue, reads its sources, and enters. -/
def vecUnit (u : Use) (s : State) (time : Nat × Nat) (k : (Reg → Word) → State → Act ⊕ (VDest × Option (BitVec 32))) : Res :=
  runHead u s fun v t =>
    if 8 ≤ s.myCore.vqUsed then .block .vqRoom
    else match k v t with
      | .inl a => a
      | .inr (dest, seed) => .next (t.pushVector dest seed time)

/-- A vector destination. -/
def vdest (d : VReg) (o : Vec × Vec) : Act ⊕ (VDest × Option (BitVec 32)) := .inr (.vec d.toNat o.1 o.2, none)

/-- An elementwise head (R133): n lanes of width w, each from the same lane of the sources. -/
def lanewise (d : VReg) (srcs : List VReg) (m : MReg) (w n : Nat) (time : Nat × Nat) (f : (VReg → Nat) → Nat) (s : State) : Res :=
  vecUnit { vs := d :: srcs, ms := [m] } s time fun _ t =>
    vdest d (lanesOut w n (t.mReg t.cur m.toNat) fun i => f fun r => laneAt (t.vReg t.cur r.toNat) w i)

/-- An elementwise head on lanes of a type, of the simple or the wide class. -/
def typed (d : VReg) (srcs : List VReg) (m : MReg) (ty : VTy) (f : (VReg → Nat) → Nat) (s : State) : Res :=
  lanewise d srcs m (tyBits ty) ty.lanes (simpleTime ty) f s

/-- Floating lanes: the sources decoded, the exact result rounded once (R130). -/
def floating (d : VReg) (srcs : List VReg) (m : MReg) (ty : VTy) (time : Nat × Nat) (r : Rnd) (f : (VReg → FVal) → FVal) (s : State) : Res :=
  lanewise d srcs m (tyBits ty) ty.lanes time (fun g => (tyFmt ty).encode r 0 (f fun x => (tyFmt ty).decode (g x))) s

/-- Integer lanes: the exact result of signed or unsigned sources, wrapped or saturated (R140). -/
def laneInt (ty : VTy) (v : Nat) : Int := if tySigned ty then sval (tyBits ty) v else v
def narrowInt (ty : VTy) (sat : Bool) (v : Int) : Nat :=
  if !sat then wrap (tyBits ty) v else if tySigned ty then satS (tyBits ty) v else satU (tyBits ty) v
def integral (d : VReg) (srcs : List VReg) (m : MReg) (ty : VTy) (sat : Bool) (f : (VReg → Int) → Int) (s : State) : Res :=
  typed d srcs m ty (fun g => narrowInt ty sat (f fun x => laneInt ty (g x))) s

/-! ## Floating arithmetic (R134 to R137) -/

/-- VADD (R134). -/
def execVadd (d a b : VReg) (m : MReg) (r : Rnd) (s : State) : Res :=
  floating d [a, b] m .f32 (1, 4) r (fun g => fadd r (g a) (g b)) s
/-- VSUB (R134). -/
def execVsub (d a b : VReg) (m : MReg) (r : Rnd) (s : State) : Res :=
  floating d [a, b] m .f32 (1, 4) r (fun g => fsub r (g a) (g b)) s
/-- VMUL (R134). -/
def execVmul (d a b : VReg) (m : MReg) (r : Rnd) (s : State) : Res :=
  floating d [a, b] m .f32 (1, 4) r (fun g => fmul (g a) (g b)) s
/-- VDIV (R134): the divide class. -/
def execVdiv (d a b : VReg) (m : MReg) (r : Rnd) (s : State) : Res :=
  floating d [a, b] m .f32 (4, 12) r (fun g => fdiv (g a) (g b)) s
/-- VFMA (R134). -/
def execVfma (d a b c : VReg) (m : MReg) (r : Rnd) (s : State) : Res :=
  floating d [a, b, c] m .f32 (1, 4) r (fun g => ffma r (g a) (g b) (g c)) s
/-- VFMS (R134). -/
def execVfms (d a b c : VReg) (m : MReg) (r : Rnd) (s : State) : Res :=
  floating d [a, b, c] m .f32 (1, 4) r (fun g => ffms r (g a) (g b) (g c)) s
/-- VFNMA (R134). -/
def execVfnma (d a b c : VReg) (m : MReg) (r : Rnd) (s : State) : Res :=
  floating d [a, b, c] m .f32 (1, 4) r (fun g => ffnma r (g a) (g b) (g c)) s
/-- VDADD (R134). -/
def execVdadd (d a b : VReg) (m : MReg) (r : Rnd) (s : State) : Res :=
  floating d [a, b] m .f64 (2, 6) r (fun g => fadd r (g a) (g b)) s
/-- VDMUL (R134). -/
def execVdmul (d a b : VReg) (m : MReg) (r : Rnd) (s : State) : Res :=
  floating d [a, b] m .f64 (2, 6) r (fun g => fmul (g a) (g b)) s
/-- VDFMA (R134). -/
def execVdfma (d a b c : VReg) (m : MReg) (r : Rnd) (s : State) : Res :=
  floating d [a, b, c] m .f64 (2, 6) r (fun g => ffma r (g a) (g b) (g c)) s

/-- The smaller, or the larger, of two lanes (R135). -/
def laneMin (ty : VTy) (a b : Nat) : Nat :=
  if ty.isFloat then (tyFmt ty).encode .rne 0 (fmin ((tyFmt ty).decode a) ((tyFmt ty).decode b))
  else if laneInt ty b < laneInt ty a then b else a
def laneMax (ty : VTy) (a b : Nat) : Nat :=
  if ty.isFloat then (tyFmt ty).encode .rne 0 (fmax ((tyFmt ty).decode a) ((tyFmt ty).decode b))
  else if laneInt ty a < laneInt ty b then b else a

/-- VMIN (R135). -/
def execVmin (d a b : VReg) (m : MReg) (ty : VTy) (s : State) : Res := typed d [a, b] m ty (fun g => laneMin ty (g a) (g b)) s
/-- VMAX (R135). -/
def execVmax (d a b : VReg) (m : MReg) (ty : VTy) (s : State) : Res := typed d [a, b] m ty (fun g => laneMax ty (g a) (g b)) s
/-- VABS (R135). -/
def execVabs (d a : VReg) (m : MReg) (ty : VTy) (s : State) : Res :=
  typed d [a] m ty (fun g => if ty.isFloat then g a % 2 ^ 31 else (laneInt ty (g a)).natAbs % 2 ^ 32) s
/-- VNEG (R135). -/
def execVneg (d a : VReg) (m : MReg) (ty : VTy) (s : State) : Res :=
  typed d [a] m ty (fun g => if ty.isFloat then Nat.xor (g a) (2 ^ 31) else wrap 32 (-laneInt ty (g a))) s

/-- A function of one FP32 lane. -/
def function32 (d a : VReg) (m : MReg) (time : Nat × Nat) (f : Nat → Nat) (s : State) : Res :=
  lanewise d [a] m 32 64 time (fun g => f (g a)) s

/-- VRCP (R136): ±0 gives ±∞, ±∞ gives ±0. -/
def execVrcp (d a : VReg) (m : MReg) (s : State) : Res :=
  function32 d a m (2, 8) (fun x => fp32.encode .rne 0 (fdiv (.fin false 1 0) (fp32.decode x))) s
/-- VRSQ (R136). -/
def execVrsq (d a : VReg) (m : MReg) (s : State) : Res :=
  function32 d a m (2, 8) (fun x => fp32.encode .rne 0 (frsqrt (fp32.decode x))) s
/-- VSQRT (R136): the divide class. -/
def execVsqrt (d a : VReg) (m : MReg) (s : State) : Res :=
  function32 d a m (4, 12) (fun x => fp32.encode .rne 0 (fsqrt (fp32.decode x))) s
/-- VEXP2 (R136). -/
def execVexp2 (d a : VReg) (m : MReg) (s : State) : Res := function32 d a m (2, 8) vexp2 s
/-- VLOG2 (R136). -/
def execVlog2 (d a : VReg) (m : MReg) (s : State) : Res := function32 d a m (2, 8) vlog2 s
/-- VTANH (R136). -/
def execVtanh (d a : VReg) (m : MReg) (s : State) : Res := function32 d a m (2, 8) vtanh s

/-- VSCALE (R137): lane i of VB is a signed power of two. -/
def execVscale (d a b : VReg) (m : MReg) (ty : VTy) (r : Rnd) (s : State) : Res :=
  typed d [a, b] m ty (fun g =>
    (tyFmt ty).encode r 0 (fscale ((tyFmt ty).decode (g a)) (sval (tyBits ty) (g b)))) s

/-! ## Comparison and selection (R138, R139) -/

/-- A condition on a lane (R138). -/
def laneCond (ty : VTy) (c : Cond) (a b : Nat) : Bool :=
  if ty.isFloat then
    let x := (tyFmt ty).decode a
    let y := (tyFmt ty).decode b
    if x.isNan || y.isNan then (match c with
      | .ne | .un => true
      | _ => false)
    else ordCond c (flt x y) (feq x y)
  else ordCond c (decide (laneInt ty a < laneInt ty b)) (decide (a = b))

/-- VCMP (R138): inactive lanes keep their bit; of a 64-bit type bits [63:32] become 0. -/
def execVcmp (d : MReg) (a b : VReg) (m : MReg) (ty : VTy) (c : Cond) (s : State) : Res :=
  vecUnit { vs := [a, b], ms := [d, m] } s (simpleTime ty) fun _ t =>
    let mk := t.mReg t.cur m.toNat
    let old := t.mReg t.cur d.toNat
    let bits := (List.range ty.lanes).map fun i =>
      bit (if mk.getLsbD i then
        laneCond ty c (laneAt (t.vReg t.cur a.toNat) (tyBits ty) i) (laneAt (t.vReg t.cur b.toNat) (tyBits ty) i)
      else old.getLsbD i)
    .inr (.mask d.toNat (word (packLanes 1 bits)), none)

/-- VSEL (R139): every lane is written. -/
def execVsel (d a b : VReg) (m : MReg) (ty : VTy) (s : State) : Res :=
  vecUnit { vs := [d, a, b], ms := [m] } s (simpleTime ty) fun _ t =>
    let mk := t.mReg t.cur m.toNat
    vdest d (lanesOut (tyBits ty) ty.lanes (BitVec.allOnes 64) fun i =>
      laneAt (t.vReg t.cur (if mk.getLsbD i then a else b).toNat) (tyBits ty) i)

/-! ## Integers (R140, R141) -/

/-- VIADD (R140). -/
def execViadd (d a b : VReg) (m : MReg) (ty : VTy) (sat : Bool) (s : State) : Res :=
  integral d [a, b] m ty sat (fun g => g a + g b) s
/-- VISUB (R140). -/
def execVisub (d a b : VReg) (m : MReg) (ty : VTy) (sat : Bool) (s : State) : Res :=
  integral d [a, b] m ty sat (fun g => g a - g b) s
/-- VIMUL (R140): with .hi the high half of the exact product. -/
def execVimul (d a b : VReg) (m : MReg) (ty : VTy) (sat hi : Bool) (s : State) : Res :=
  integral d [a, b] m ty sat (fun g => if hi then g a * g b / (2 ^ tyBits ty : Nat) else g a * g b) s
/-- VIMAD (R140). -/
def execVimad (d a b c : VReg) (m : MReg) (ty : VTy) (sat : Bool) (s : State) : Res :=
  integral d [a, b, c] m ty sat (fun g => g a * g b + g c) s
/-- VAND (R141). -/
def execVand (d a b : VReg) (m : MReg) (ty : VTy) (s : State) : Res := typed d [a, b] m ty (fun g => Nat.land (g a) (g b)) s
/-- VOR (R141). -/
def execVor (d a b : VReg) (m : MReg) (ty : VTy) (s : State) : Res := typed d [a, b] m ty (fun g => Nat.lor (g a) (g b)) s
/-- VXOR (R141). -/
def execVxor (d a b : VReg) (m : MReg) (ty : VTy) (s : State) : Res := typed d [a, b] m ty (fun g => Nat.xor (g a) (g b)) s
/-- VSHL (R141): by the low 5 or 6 bits. -/
def execVshl (d a b : VReg) (m : MReg) (ty : VTy) (s : State) : Res :=
  typed d [a, b] m ty (fun g => g a * 2 ^ (g b % tyBits ty)) s
/-- VSHR (R141). -/
def execVshr (d a b : VReg) (m : MReg) (ty : VTy) (s : State) : Res :=
  typed d [a, b] m ty (fun g => g a / 2 ^ (g b % tyBits ty)) s
/-- VSRA (R141): copies of the top bit, whatever the type. -/
def execVsra (d a b : VReg) (m : MReg) (ty : VTy) (s : State) : Res :=
  typed d [a, b] m ty (fun g => wrap (tyBits ty) (sval (tyBits ty) (g a) / (2 ^ (g b % tyBits ty) : Nat))) s

/-! ## Conversion (R127, R142 to R145) -/

/-- The stochastic numbers of the active elements, in ascending order, and the seed after them (R127). -/
def draws (m : Word) : List Nat → BitVec 32 → List Nat × BitVec 32
  | [], x => ([], x)
  | i :: is, x =>
    if m.getLsbD i then
      let y := nextSeed x
      let r := draws m is y
      (y.toNat :: r.1, r.2)
    else
      let r := draws m is x
      (0 :: r.1, r.2)

/-- The seed that an .rsr head writes: 0 is stored as 1 (R94, R127). -/
def storedSeed (x : BitVec 32) : BitVec 32 := if x = 0 then 1 else x

/-- A head that rounds n elements of width w, with a draw for each active one under .rsr. -/
def rounded (d : VReg) (srcs : List VReg) (m : MReg) (r : Rnd) (w n : Nat) (time : Nat × Nat)
    (f : (VReg → Vec) → Nat → Nat → Nat) (s : State) : Res :=
  let sr := r == .rsr
  vecUnit { vs := d :: srcs, ms := [m], seed := sr } s time fun _ t =>
    let mk := t.mReg t.cur m.toNat
    let dr := draws mk (List.range n) t.me.sr.rngseed
    let o := lanesOut w n mk fun i => f (fun x => t.vReg t.cur x.toNat) i (if sr then dr.1.getD i 0 else 0)
    .inr (.vec d.toNat o.1 o.2, if sr then some (storedSeed dr.2) else none)

/-- The floating format of a conversion code, none for an integer (R69). -/
def nfmtFloat (f : NFmt) : Option Fmt :=
  match f with
  | .bf16 => some bf16 | .fp16 => some fp16 | .e4m3 => some e4m3 | .e5m2 => some e5m2 | .fp64 => some fp64
  | _ => none
/-- Bits of an element of a format. -/
def nfmtBits (f : NFmt) : Nat :=
  match f with
  | .bf16 | .fp16 => 16 | .e4m3 | .e5m2 | .int8 => 8 | .fp64 => 64 | .int4 => 4

/-- VCVT (R142). -/
def execVcvt (d a : VReg) (m : MReg) (fmt : NFmt) (toF32 : Bool) (r : Rnd) (s : State) : Res :=
  let f := (nfmtFloat fmt).getD fp32
  let n := if fmt = .fp64 then 32 else 64
  let time := if fmt = .fp64 then (2, 6) else (1, 4)
  if toF32 then
    rounded d [a] m r 32 n time (fun g i dr => convert f fp32 r dr (laneAt (g a) (nfmtBits fmt) i)) s
  else
    rounded d [a] m r (nfmtBits fmt) n time (fun g i dr => convert fp32 f r dr (laneAt (g a) 32 i)) s

/-- A finite value rounded to an integer (R126, R127): to the integer grid. -/
def roundInt (r : Rnd) (draw : Nat) (neg : Bool) (m : Nat) (e : Int) : Int :=
  let big := m * 2 ^ e.toNat
  let sh := (-e).toNat
  let t := big / 2 ^ sh
  signed neg (t + bit (roundsUp r draw neg t (big % 2 ^ sh) sh))

/-- A value rounded and saturated to w bits: NaN gives 0 (R126, R145). -/
def toIntLane (sgn : Bool) (w : Nat) (r : Rnd) (draw : Nat) (v : FVal) : Nat :=
  match v with
  | .nan _ _ => 0
  | .inf s => if sgn then satS w (if s then -(2 ^ w : Nat) else (2 ^ w : Nat)) else satU w (if s then -1 else (2 ^ w : Nat))
  | .fin s m e => if sgn then satS w (roundInt r draw s m e) else satU w (roundInt r draw s m e)

/-- An element of VQUANT (R143): the lane scaled by 2^(127 − e). -/
def quantElem (fmt : NFmt) (r : Rnd) (draw lane e : Nat) : Nat :=
  let x := fp32.decode lane
  match nfmtFloat fmt with
  | some f =>
    if e = 255 then (if fmt = .e4m3 then 0x7F else 0x7E)
    else if x.isNan then f.withSign x.isNeg (if fmt = .e4m3 then 0x7F else 0x7E)
    else f.encode r draw (fscale x (127 - (e : Int)))
  | none => if x.isNan ∨ e = 255 then 0 else toIntLane true (nfmtBits fmt) r draw (fscale x (127 - (e : Int)))

/-- VQUANT (R143). -/
def execVquant (d a b : VReg) (m : MReg) (fmt : NFmt) (r : Rnd) (s : State) : Res :=
  rounded d [a, b] m r (nfmtBits fmt) 64 (1, 4)
    (fun g i dr => quantElem fmt r dr (laneAt (g a) 32 i) (laneAt (g b) 8 (i / 32))) s

/-- The class bit of a code (R144). -/
def classBit (f : Fmt) (code : Nat) : Nat :=
  let neg := f.sign code
  let mag := code % 2 ^ (f.eb + f.fb)
  if f.infCode < mag then (if mag / 2 ^ (f.fb - 1) % 2 = 1 then 9 else 8)
  else if mag = f.infCode then (if neg then 0 else 7)
  else if mag = 0 then (if neg then 3 else 4)
  else if mag < 2 ^ f.fb then (if neg then 2 else 5)
  else (if neg then 1 else 6)

/-- VCLASS (R144). -/
def execVclass (d a : VReg) (m : MReg) (ty : VTy) (s : State) : Res :=
  typed d [a] m ty (fun g => 2 ^ classBit (tyFmt ty) (g a)) s

/-- VROUND (R144): to an integral value, keeping zeros, infinities and the sign of a zero result. -/
def execVround (d a : VReg) (m : MReg) (ty : VTy) (r : Rnd) (s : State) : Res :=
  typed d [a] m ty (fun g =>
    match (tyFmt ty).decode (g a) with
    | .fin n mant e =>
      (tyFmt ty).encode .rne 0 (if 0 ≤ e then .fin n mant e else .fin n (roundInt r 0 n mant e).natAbs 0)
    | v => (tyFmt ty).encode r 0 v) s

/-- VFCVTI (R145). -/
def execVfcvti (d a : VReg) (m : MReg) (ty : VTy) (r : Rnd) (s : State) : Res :=
  typed d [a] m ty (fun g => toIntLane (tySigned ty) (tyBits ty) r 0 ((tyFmt ty).decode (g a))) s
/-- VICVTF (R145). -/
def execVicvtf (d a : VReg) (m : MReg) (ty : VTy) (r : Rnd) (s : State) : Res :=
  typed d [a] m ty (fun g =>
    let v := laneInt ty (g a)
    (tyFmt ty).encode r 0 (.fin (decide (v < 0)) v.natAbs 0)) s

/-! ## Across lanes (R146 to R149) -/

/-- The tree of R146 on a list of 2^k lanes: the low half combined with the high half, down to one. -/
def tree (op : Nat → Nat → Nat) : Nat → List (Option Nat) → Option Nat
  | 0, xs => (xs.head?).join
  | k + 1, xs =>
    let h := xs.length / 2
    tree op k ((xs.take h).zipWith (fun x y => match x, y with
      | some a, some b => some (op a b)
      | none, y => y
      | x, none => x) (xs.drop h))

/-- The identity of a reduction: 0 addition, 1 maximum, 2 minimum (R146). -/
def redIdentity (ty : VTy) (kind : Nat) : Nat :=
  let w := tyBits ty
  match kind with
  | 0 => 0
  | 1 => if ty.isFloat then (tyFmt ty).withSign true (tyFmt ty).infCode else if tySigned ty then 2 ^ (w - 1) else 0
  | _ => if ty.isFloat then (tyFmt ty).infCode else if tySigned ty then 2 ^ (w - 1) - 1 else 2 ^ w - 1

/-- A lane sum: rounded, or wrapped (R146, R147). -/
def laneAdd (ty : VTy) (r : Rnd) (a b : Nat) : Nat :=
  if ty.isFloat then (tyFmt ty).encode r 0 (fadd r ((tyFmt ty).decode a) ((tyFmt ty).decode b)) else (a + b) % 2 ^ tyBits ty

/-- A reduction (R146): every lane of the destination is written. -/
def reduce (d a : VReg) (m : MReg) (ty : VTy) (kind : Nat) (op : Nat → Nat → Nat) (s : State) : Res :=
  vecUnit { vs := [d, a], ms := [m] } s (crossTime ty) fun _ t =>
    let mk := t.mReg t.cur m.toNat
    let xs := (List.range ty.lanes).map fun i =>
      if mk.getLsbD i then some (laneAt (t.vReg t.cur a.toNat) (tyBits ty) i) else none
    let v := (tree op (Nat.log2 ty.lanes) xs).getD (redIdentity ty kind)
    vdest d (lanesOut (tyBits ty) ty.lanes (BitVec.allOnes 64) fun _ => v)

/-- VREDADD (R146). -/
def execVredadd (d a : VReg) (m : MReg) (ty : VTy) (r : Rnd) (s : State) : Res := reduce d a m ty 0 (laneAdd ty r) s
/-- VREDMAX (R146). -/
def execVredmax (d a : VReg) (m : MReg) (ty : VTy) (s : State) : Res := reduce d a m ty 1 (laneMax ty) s
/-- VREDMIN (R146). -/
def execVredmin (d a : VReg) (m : MReg) (ty : VTy) (s : State) : Res := reduce d a m ty 2 (laneMin ty) s

/-- Inclusive prefix sums of the active lanes (R147). -/
def prefixes (op : Nat → Nat → Nat) : Option Nat → List (Option Nat) → List Nat
  | _, [] => []
  | acc, none :: xs => 0 :: prefixes op acc xs
  | none, some x :: xs => x :: prefixes op (some x) xs
  | some a, some x :: xs => op a x :: prefixes op (some (op a x)) xs

/-- VSCANADD (R147). -/
def execVscanadd (d a : VReg) (m : MReg) (ty : VTy) (r : Rnd) (s : State) : Res :=
  vecUnit { vs := [d, a], ms := [m] } s (crossTime ty) fun _ t =>
    let mk := t.mReg t.cur m.toNat
    let ys := prefixes (laneAdd ty r) none ((List.range 64).map fun i =>
      if mk.getLsbD i then some (laneAt (t.vReg t.cur a.toNat) 32 i) else none)
    vdest d (lanesOut 32 64 mk fun i => ys.getD i 0)

/-- VPERM (R148): the index stands in a 32-bit lane of VB. -/
def execVperm (d a b : VReg) (m : MReg) (ty : VTy) (s : State) : Res :=
  vecUnit { vs := [d, a, b], ms := [m] } s (crossTime ty) fun _ t =>
    vdest d (lanesOut (tyBits ty) ty.lanes (t.mReg t.cur m.toNat) fun i =>
      laneAt (t.vReg t.cur a.toNat) (tyBits ty) (laneAt (t.vReg t.cur b.toNat) 32 i % ty.lanes))
/-- VBCAST (R148). -/
def execVbcast (d a : VReg) (m : MReg) (ty : VTy) (j : BitVec 6) (s : State) : Res :=
  vecUnit { vs := [d, a], ms := [m] } s (crossTime ty) fun _ t =>
    vdest d (lanesOut (tyBits ty) ty.lanes (t.mReg t.cur m.toNat) fun _ => laneAt (t.vReg t.cur a.toNat) (tyBits ty) j.toNat)
/-- VSPLAT (R148). -/
def execVsplat (d : VReg) (a : Reg) (m : MReg) (ty : VTy) (s : State) : Res :=
  vecUnit { rd := [a], vs := [d], ms := [m] } s (simpleTime ty) fun v t =>
    vdest d (lanesOut (tyBits ty) ty.lanes (t.mReg t.cur m.toNat) fun _ => (v a).toNat)
/-- VIOTA (R148). -/
def execViota (d : VReg) (m : MReg) (ty : VTy) (s : State) : Res :=
  vecUnit { vs := [d], ms := [m] } s (simpleTime ty) fun _ t =>
    vdest d (lanesOut (tyBits ty) ty.lanes (t.mReg t.cur m.toNat) fun i => i)
/-- VMOV (R148). -/
def execVmov (d a : VReg) (m : MReg) (ty : VTy) (s : State) : Res := typed d [a] m ty (fun g => g a) s

/-- The width of a lane of VEXTR and VINSR. -/
def extrBits (wide : Bool) : Nat := if wide then 64 else 32

/-- VEXTR (R149): its result into c31 is refused to an optimistic task (R349). -/
def execVextr (d : Reg) (v : VReg) (b : Reg) (wide : Bool) (s : State) : Res :=
  vecUnit { rd := [b], wr := [d], vs := [v] } s (if wide then (2, 10) else (1, 10)) fun g t =>
    if 2048 / extrBits wide ≤ (g b).toNat then .inl (.trap 0x02 (g b))
    else
      let x := word (laneAt (t.vReg t.cur v.toNat) (extrBits wide) (g b).toNat)
      if d.toNat = 63 && t.me.optimistic then .inl (.trap 0x02 x) else .inr (.scal d.toNat x, none)
/-- VINSR (R149). -/
def execVinsr (v : VReg) (a b : Reg) (wide : Bool) (s : State) : Res :=
  vecUnit { rd := [a, b], vs := [v] } s (if wide then (2, 6) else (1, 4)) fun g _ =>
    if 2048 / extrBits wide ≤ (g b).toNat then .inl (.trap 0x02 (g b))
    else vdest v (lanesOut (extrBits wide) (2048 / extrBits wide) (1#64 <<< (g b).toNat) fun _ => (g a).toNat)

/-! ## Masks (R154) -/

/-- A mask result: private, written at once. -/
def maskTo (d : MReg) (srcs : List MReg) (f : (MReg → Word) → Word) (s : State) : Res :=
  runHead { ms := d :: srcs } s fun _ t => .next (t.setM t.cur d.toNat (f fun r => t.mReg t.cur r.toNat))

/-- MAND (R154). -/
def execMand (d a b : MReg) (s : State) : Res := maskTo d [a, b] (fun g => g a &&& g b) s
/-- MOR (R154). -/
def execMor (d a b : MReg) (s : State) : Res := maskTo d [a, b] (fun g => g a ||| g b) s
/-- MXOR (R154). -/
def execMxor (d a b : MReg) (s : State) : Res := maskTo d [a, b] (fun g => g a ^^^ g b) s
/-- MNOT (R154). -/
def execMnot (d a : MReg) (s : State) : Res := maskTo d [a] (fun g => ~~~g a) s
/-- MPOPC (R154). -/
def execMpopc (d : Reg) (a : MReg) (s : State) : Res :=
  runHead { wr := [d], ms := [a] } s fun _ t => put t d (aluPopc (t.mReg t.cur a.toNat)) 3
/-- MFIRST (R154). -/
def execMfirst (d : Reg) (a : MReg) (s : State) : Res :=
  runHead { wr := [d], ms := [a] } s fun _ t => put t d (aluCtz (t.mReg t.cur a.toNat)) 3
/-- MSETV (R154). -/
def execMsetv (d : MReg) (a : Reg) (s : State) : Res :=
  runHead { rd := [a], ms := [d] } s fun v t => .next (t.setM t.cur d.toNat (v a))
/-- MGETV (R154). -/
def execMgetv (d : Reg) (a : MReg) (s : State) : Res :=
  runHead { wr := [d], ms := [a] } s fun _ t => put t d (t.mReg t.cur a.toNat) 3

/-! ## Beats (R120, R121) -/

/-- A core's oldest entry with a beat to start for a lane group. -/
def Core.startable (c : Core) (g : Nat) : Option VEntry :=
  match c.vq.find? fun e => e.left.contains g with
  | some e => if e.issued < c.cycle then some e else none
  | none => none

/-- The weight of a core (R122). -/
def Core.weight (c : Core) : Nat := Nat.max 1 (fld c.vweight 0 4)

/-- A new round (R121). -/
def State.startRound (s : State) (qi sp : Nat) (a : Arb) : Arb :=
  { a with sp, cur := sp, quota := (List.range 4).foldl (fun q c => FMap.set 0 q c (s.core (qi * 4 + c)).weight) [] }

/-- The first core with a startable beat and quota, scanning from `cur`. -/
def State.served (s : State) (qi g : Nat) (a : Arb) : Option Nat :=
  ((List.range 4).map fun i => (a.cur + i) % 4).find? fun c =>
    ((s.core (qi * 4 + c)).startable g).isSome && decide (0 < FMap.get 0 a.quota c)

/-- VECTOR_BEAT_START (R121): when no ready core has quota a round ends, and in the new one every core has some. -/
def execVectorBeatStart (qi g : Nat) (s : State) : Res :=
  unitEvent (quadOk qi && decide (g < 4)) qi s (do
    let a := FMap.get {} (s.quad qi).arbs g
    let ready := (List.range 4).filter fun c => ((s.core (qi * 4 + c)).startable g).isSome
    let c0 ← ready.head?
    if (s.core (qi * 4 + c0)).cycle ≤ a.busyTo ∧ a.busyTo ≠ 0 then none
    else
      let a1 := if (s.served qi g a).isSome then a else s.startRound qi ((a.sp + 1) % 4) a
      let c ← s.served qi g a1
      let ck := qi * 4 + c
      let e ← (s.core ck).startable g
      let last := (s.core ck).cycle + e.beat - 1
      let s1 := s.updCore ck fun x => { x with vq := x.vq.map fun y =>
        if y.id = e.id then { y with left := y.left.filter fun z => decide (z ≠ g), ends := Nat.max y.ends last } else y }
      let a2 : Arb := { a1 with cur := c, quota := FMap.set 0 a1.quota c (FMap.get 0 a1.quota c - e.beat), busyTo := last }
      pure (s1.updQuad qi fun q => { q with arbs := FMap.set {} q.arbs g a2 }))

/-- VECTOR_COMPLETE (R120): in its completion cycle, every beat having ended, the instruction leaves the queue, and its
destination is written with the writes of that cycle. One whose completion cycle ends does so by itself (R119). -/
def execVectorComplete (ck id : Nat) (s : State) : Res :=
  unitEvent (coreOk ck) ck s (do
    let e ← (s.core ck).vq.find? fun e => decide (e.id = id)
    if e.completes (s.core ck).cycle then pure (s.updCore ck fun c => c.complete e) else none)

end Sys2Proof.Machine
end

