-- ==== Sys2Proof/Machine/VecMem.lean ====
section
/-! DEFINITION. Vector loads and stores (R131, R132, R150 to R153), majors 0xCA to 0xCF. -/

namespace Sys2Proof.Machine

/-- Bytes and alignment of a VLD or VST footprint (R131). -/
def footprint (w : Nat) : Nat := if w = 7 then 16 else 8 * winBits w
def footAlign (w : Nat) : Nat := if w = 7 then 16 else 32

/-- Two addresses lie in one space and window, be it at several quads (R153). -/
def sameWindow (a b : Word) : Bool := decide (space a = space b ∧ window a = window b)

/-- An element of a vector access: its lane, address, bytes, and for half a byte its nibble. -/
structure VElem where
  lane : Nat
  addr : Word
  n : Nat
  nib : Nat := 0
  deriving DecidableEq, Repr

/-- The bytes that a lane stores at its element (R132): half a byte of an INT4. -/
def VElem.bytes (e : VElem) (w lane : Nat) : List WByte :=
  if w = 6 then
    let v := winEncode 6 lane
    [(0, BitVec.ofNat 8 (if e.nib = 1 then v * 16 else v), if e.nib = 1 then 0xF0#8 else 0x0F#8)]
  else wholeBytes e.n (winEncode w lane)

/-- The elements of a footprint that active lanes use. -/
def footElems (a : Word) (w : Nat) (m : Word) : List VElem :=
  ((List.range 64).filter fun i => m.getLsbD i).map fun i =>
    if w = 7 then { lane := i, addr := a + word (2 * (i / 8)), n := 2 }
    else { lane := i, addr := a + word (i * winBits w / 8), n := (winBits w + 7) / 8, nib := if w = 6 then i % 2 else 0 }

/-- The checks of the elements of a footprint in ascending lane order (R150, R153, R191, R192, R195): EINFO is the address of the
first element that fails. What only the whole footprint fails, its start's alignment or its end, its first element fails. The alignment
of a store comes before its LT2 window (R132; log entry 89). -/
def State.footCheck (s : State) (p : Perm) (a : Word) (es : List VElem) : Check :=
  let w := window a
  let e0 := ((es.head?).map VElem.addr).getD a
  firstTrap [firstTrap (es.map fun e => firstTrap [spaceCheck s.super e.addr, failIf (!sameWindow a e.addr) 0x0D e.addr,
      failIf (decide (a.toNat % footAlign w ≠ 0)) 0x04 e.addr, failIf (p.wr && decide (w = 7)) 0x02 e.addr,
      s.accessCheck p e.addr e.n 1 false]),
    failIf (!sameWindow a (a + word (footprint w - 1))) 0x0D e0]

/-- The check of single elements in ascending lane order (R153). -/
def State.elemChecks (s : State) (p : Perm) (base : Word) (es : List VElem) : Check :=
  let w := window base
  firstTrap (es.map fun e =>
    firstTrap [spaceCheck s.super e.addr, failIf (!sameWindow base e.addr) 0x0D e.addr,
      s.accessCheck p e.addr e.n e.n (decide (6 ≤ w))])

/-- The bytes of a store, from the lowest element's address: the highest-numbered lane is written last (R151). -/
def storeBytes (base : Word) (w : Nat) (es : List VElem) (v : Vec) : List WByte :=
  es.flatMap fun e => (e.bytes w (laneAt v 32 e.lane)).map fun b => ((e.addr - base).toNat + b.1, b.2.1, b.2.2)

/-- The lowest address of elements. -/
def lowest (a : Word) (es : List VElem) : Word := es.foldl (fun b e => if e.addr.ult b then e.addr else b) a

/-- The keys of elements in local space are free of earlier accesses of the slot through another space. -/
def localWaits (s : State) (es : List VElem) (k : Act) : Act :=
  if es.any fun e => s.localConflict (s.localKey s.cur (offset e.addr)) e.n then .block .acquire
  else if es.any fun e => s.owned (s.localKey s.cur (offset e.addr)) e.n then .block .owned
  else if es.all fun e => decide (keyQuad (s.localKey s.cur (offset e.addr)) = quadOf s.cur) then k
  else k.andThen fun t => es.foldl (fun u e => u.noteBlock (quadOf s.cur) (s.localKey s.cur (offset e.addr))) t

/-- Elements grouped into the 32-byte sectors that hold them, for a footprint. -/
def sectorsOf (a : Word) (w : Nat) (es : List VElem) : List (Nat × Word × List VElem) :=
  let n := footprint w
  let size := Nat.min n 32
  (List.range (n / size)).filterMap fun i =>
    let b := a + word (i * size)
    let inside := es.filter fun e => decide ((e.addr - a).toNat / size = i)
    if inside.isEmpty then none else some (i * (size * 64 / n), b, inside)

/-- A group of parts enters, with its count (R153). -/
def State.openGroup (s : State) (ctr n : Nat) (reg : Option VReg) (keep : Vec) : State :=
  let s1 : State := { s.takeId with groups := s.groups ++ [{ id := s.ids, thr := s.cur, ctr, left := n, reg := reg.map fun r => r.toNat, keep
                                                             pc := s.me.pc, due := s.myCore.cycle + 3 }] }
  match reg with
  | none => s1.addCount s.cur ctr
  | some r => (s1.addCount s.cur ctr).updMe fun x => { x with busy := x.busy ++ [64 + r.toNat] }

/-- The bits that a load leaves: inactive lanes. -/
def keepOf (m : Word) : Vec := (lanesOut 32 64 m fun _ => 0).2

/-- A part of a vector access. -/
def State.part_ (s : State) (a : Word) (n : Nat) (op : MemOp) (ret : Ret) (cp : Nat) : State :=
  s.launchFlight { id := 0, thr := s.cur, pid := s.myPid, addr := a, n, op, ret, tag := s.me.faultTag, cp }

/-- The value that local elements give: all read at once. -/
def State.localLanes (s : State) (w : Nat) (es : List VElem) : Nat → Nat := fun i =>
  match es.find? fun e => decide (e.lane = i) with
  | none => 0
  | some e =>
    let k := s.localKey s.cur (offset e.addr)
    let v := s.withHeld s.cur s.myPid k e.n (s.rd k e.n)
    s.laneValue (quadOf s.cur) w i (if w = 6 then v / 16 ^ e.nib % 16 else v)

/-- A local vector load: the destination is written later, by the window (R150). -/
def loadLocal (s : State) (d : VReg) (m : Word) (w : Nat) (es : List VElem) : Act :=
  localWaits s es
    (let o := lanesOut 32 64 m (s.localLanes w es)
    let lat := if w = 0 then 8 else 10
    .next ((s.pendAt (.vec d.toNat o.1 o.2) 0 lat).updMe fun x => { x with busy := x.busy ++ [64 + d.toNat] }))

/-- The bytes of local elements by their keys: of two lanes at one element the higher is written last (R151). -/
def State.localBytes (s : State) (v : Vec) (w : Nat) (es : List VElem) : List WByte :=
  es.flatMap fun e => (e.bytes w (laneAt v 32 e.lane)).map fun b => (s.localKey s.cur (offset e.addr) + b.1, b.2.1, b.2.2)

/-- A local vector store: all its elements in one step, in cycle k + 3, or k + 5 through a format window (R150). -/
def storeLocal (s : State) (v : Vec) (w : Nat) (es : List VElem) : Act :=
  localWaits s es (.next (s.pendAt (.store 0 (s.localBytes v w es)) 0 (if w = 0 then 3 else 5)))

/-- VLD (R150). -/
def execVld (v : VReg) (a : Reg) (off : BitVec 14) (m : MReg) (w : BitVec 2) (cp : Cp) (s : State) : Res :=
  runHead { rd := [a], vs := [v], ms := [m] } s fun g t =>
    let x := addrOff (g a) off 32
    let mk := t.mReg t.cur m.toNat
    let es := footElems x (window x) mk
    memWait t w x
      (if es.isEmpty then .next t else
      (t.footCheck permR x es).orElse
        (if space x = 0 then loadLocal t v mk (window x) es
        else roomFor t 0
          (let parts := sectorsOf x (window x) es
          .next (parts.foldl (fun u p =>
            u.part_ p.2.1 (Nat.min (footprint (window x)) 32) .load (.sector t.ids p.1 ((p.2.2.map fun e => e.lane).headD 0)) cp.code)
            (t.openGroup 0 parts.length (some v) (keepOf mk))))))

/-- A remote vector store leaves, or is held as one record (R153, R310). -/
def sendParts (s : State) (v : Vec) (base : Word) (cp : Nat) (parts : List (Nat × Word × List VElem)) (es : List VElem) (foot : Bool) : Act :=
  let w := window base
  if s.me.optimistic then
    let lo := lowest ((es.head?.map fun e => e.addr).getD base) es
    holdEffect s (.store lo (storeBytes lo w es v))
  else roomFor s (storeCtr base)
    (.next (parts.foldl (fun u p =>
      let low := (p.2.2.map fun e => e.lane).headD 0
      let n := if foot then Nat.min (footprint w) 32 else (p.2.2.map fun e => e.n).headD 1
      u.part_ p.2.1 n (.store (storeBytes p.2.1 w p.2.2 v)) (if foot then .sector s.ids p.1 low else .vec s.ids low) cp)
      (s.openGroup (storeCtr base) parts.length none 0)))

/-- VST (R150): the source is read in the issue cycle. -/
def execVst (v : VReg) (a : Reg) (off : BitVec 14) (m : MReg) (w : BitVec 2) (cp : Cp) (s : State) : Res :=
  runHead { rd := [a], vs := [v], ms := [m] } s fun g t =>
    let x := addrOff (g a) off 32
    let es := footElems x (window x) (t.mReg t.cur m.toNat)
    let val := t.vReg t.cur v.toNat
    memWait t w x
      (if es.isEmpty then .next t else
      (t.footCheck permW x es).orElse
        (if space x = 0 then storeLocal t val (window x) es
        else sendParts t val x cp.code (sectorsOf x (window x) es) es true))

/-- The elements of a strided or indexed access: the lanes that are active, by their addresses (R151, R152). -/
def laneElems (m : Word) (w : Nat) (addr : Nat → Word) : List VElem :=
  ((List.range 64).filter fun i => m.getLsbD i).map fun i =>
    { lane := i, addr := addr i, n := (winBits w + 7) / 8 }

/-- A load of single elements. -/
def loadElems (t : State) (v : VReg) (base : Word) (mk : Word) (es : List VElem) : Act :=
  memWait t 0 base
    (if es.isEmpty then .next t else
    (t.elemChecks permR base es).orElse
      (if space base = 0 then loadLocal t v mk (window base) es
      else roomFor t 0
        (.next (es.foldl (fun u e => u.part_ e.addr e.n .load (.vec t.ids e.lane) 0)
          (t.openGroup 0 es.length (some v) (keepOf mk))))))

/-- A store of single elements. -/
def storeElems (t : State) (val : Vec) (base : Word) (es : List VElem) : Act :=
  memWait t 0 base
    (if es.isEmpty then .next t else
    (t.elemChecks permW base es).orElse
      (if space base = 0 then storeLocal t val (window base) es
      else sendParts t val base 0 (es.map fun e => (e.lane, e.addr, [e])) es false))

/-- Element i of a strided access (R151). -/
def strided (base b : Word) (i : Nat) : Word := base + word i * b
/-- Element i of an indexed access (R152). -/
def indexed (a : Word) (ix : Vec) (sc : BitVec 2) (i : Nat) : Word := a + word (laneAt ix 32 i * 2 ^ sc.toNat)

/-- VLDS (R151). -/
def execVlds (v : VReg) (a b : Reg) (m : MReg) (off : BitVec 10) (s : State) : Res :=
  runHead { rd := [a, b], vs := [v], ms := [m] } s fun g t =>
    let mk := t.mReg t.cur m.toNat
    let x := g a + sext off * 32#64
    loadElems t v x mk (laneElems mk (window x) (strided x (g b)))
/-- VSTS (R151). -/
def execVsts (v : VReg) (a b : Reg) (m : MReg) (off : BitVec 10) (s : State) : Res :=
  runHead { rd := [a, b], vs := [v], ms := [m] } s fun g t =>
    let x := g a + sext off * 32#64
    storeElems t (t.vReg t.cur v.toNat) x (laneElems (t.mReg t.cur m.toNat) (window x) (strided x (g b)))
/-- VGATH (R152). -/
def execVgath (v : VReg) (a : Reg) (ix : VReg) (m : MReg) (sc : BitVec 2) (s : State) : Res :=
  runHead { rd := [a], vs := [v, ix], ms := [m] } s fun g t =>
    let mk := t.mReg t.cur m.toNat
    loadElems t v (g a) mk (laneElems mk (window (g a)) (indexed (g a) (t.vReg t.cur ix.toNat) sc))
/-- VSCAT (R152). -/
def execVscat (v : VReg) (a : Reg) (ix : VReg) (m : MReg) (sc : BitVec 2) (s : State) : Res :=
  runHead { rd := [a], vs := [v, ix], ms := [m] } s fun g t =>
    storeElems t (t.vReg t.cur v.toNat) (g a)
      (laneElems (t.mReg t.cur m.toNat) (window (g a)) (indexed (g a) (t.vReg t.cur ix.toNat) sc))

end Sys2Proof.Machine
end

