-- ==== Sys2Proof/Machine/Barriers.lean ====
section
/-! DEFINITION. Wired barriers (R255 to R260) and transaction barriers (R261 to R266), majors 0x70 to 0x77. -/

namespace Sys2Proof.Machine

/-! ## Wired barriers -/

/-- Barrier misuse (R259): EINFO for a group and a reason. -/
def barMisuse (g reason : Nat) : Word := word (g + reason * 256)

/-- A BARSET is in progress on the group: ARRIVE and WAITB wait (R256). -/
def State.barsetting (s : State) (pid g : Nat) : Bool := (s.part pid).barsets.any fun b => decide (b.g = g)

/-- The checks of ARRIVE and WAITB (R259). -/
def State.barCheck (s : State) (g : Nat) : Check :=
  let m := FMap.get 0 s.myQuad.barmask g
  firstTrap [failIf (!m.getLsbD 32) 0x10 (barMisuse g 0),
    failIf (!m.getLsbD (s.cur % 32)) 0x10 (barMisuse g 1),
    failIf s.me.optimistic 0x10 (barMisuse g 3)]

/-- The slot has an arrival pending on the group. -/
def State.pendingArrival (s : State) (tk g : Nat) : Bool :=
  (s.quad (quadOf tk)).arrived.any fun a => decide (a.g = g ∧ a.slot = tk % 32)

/-- ARRIVE (R257): a basted slot first takes a checkpoint (R369); an arrival that a replay repeats is counted once (R376). -/
def execArrive (g : BitVec 5) (s : State) : Res :=
  runHead {} s fun _ t =>
    if t.barsetting t.myPid g.toNat then .block (.barset g.toNat)
    else (t.barCheck g.toNat).orElse
      (if t.pendingArrival t.cur g.toNat then .block (.barrier g.toNat)
      else if !(t.storesPending t.cur).isEmpty then .block (.fence 3)
      else if t.me.bst && !t.me.task.arriveAsked then
        .keep (t.updMe fun x => { x.updTask fun k => { k with basteDue := true, arriveAsked := true } with st := .blocked .drained })
      else if t.me.task.repeats = some g.toNat then
        .next (t.updMe fun x => x.updTask fun k => { k with arriveAsked := false, repeats := none })
      else
        .next ((t.updMe fun x => x.updTask fun k => { k with arriveAsked := false }).updMyQuad fun q =>
          { q with arrived := q.arrived ++ [{ g := g.toNat, slot := t.cur % 32, after := t.ids }] }))

/-- WAITB (R258). -/
def execWaitb (g : BitVec 5) (s : State) : Res :=
  runHead {} s fun _ t =>
    if t.barsetting t.myPid g.toNat then .block (.barset g.toNat)
    else (t.barCheck g.toNat).orElse
      (if t.pendingArrival t.cur g.toNat then .block (.barrier g.toNat) else .next t)

/-- The quads of a partition that it runs on. -/
def State.quadsOf (s : State) (pid : Nat) : List Nat :=
  let pt := s.part pid
  (List.range (pt.w * pt.h)).filterMap fun p => s.physQuad pid p

/-- What a quad keeps of a partition's barriers: the membership words and the arrivals, of its running context or of one that is
swapped out (R384). -/
def State.bars (s : State) (pid qi : Nat) : FMap Word × List Arrival :=
  let q := s.quad qi
  if s.runs pid (qi * 32) then (q.barmask, q.arrived)
  else match q.shadow.find? fun v => decide (v.pid = pid) with
    | some v => (v.barmask, v.arrived)
    | none => ([], [])

/-- The membership words and the arrivals that a quad keeps of a partition change. -/
def State.updBars (s : State) (pid qi : Nat) (f : FMap Word → FMap Word) (g : List Arrival → List Arrival) : State :=
  if s.runs pid (qi * 32) then s.updQuad qi fun q => { q with barmask := f q.barmask, arrived := g q.arrived }
  else s.updSaved qi pid fun v => { v with barmask := f v.barmask, arrived := g v.arrived }

/-- BARMASK g of a partition-logical quad, on the physical quad that stands for it now (R255, R256). -/
def State.setBarmask (s : State) (pid p g : Nat) (m : Word) : State :=
  match s.physQuad pid p with
  | some qi => s.updBars pid qi (fun q => FMap.set 0 q g m) id
  | none => s

/-- The members of a group that a quad holds have arrived, and what comes before their arrivals is performed (R257). -/
def State.quadArrived (s : State) (pid qi g : Nat) : Bool :=
  let m := FMap.get 0 (s.bars pid qi).1 g
  (List.range 32).all fun n => !m.getLsbD n ||
    (s.bars pid qi).2.any fun a => decide (a.g = g ∧ a.slot = n) &&
      s.flights.all fun f => decide (f.thr ≠ qi * 32 + n) || decide (f.pid ≠ pid) || decide (a.after ≤ f.id) || f.stage.performed

/-- Arrivals on a group end everywhere in a partition. -/
def State.clearArrivals (s : State) (pid g : Nat) : State :=
  (s.quadsOf pid).foldl (fun t qi => t.updBars pid qi id fun as => as.filter fun a => decide (a.g ≠ g)) s

/-- Basted members keep that the phase they arrived at since their checkpoint has been released (R376). -/
def State.notePassed (s : State) (pid g : Nat) : State :=
  { s with slots := s.slots.map fun x =>
      let came := (s.quad (quadOf x.1)).arrived.any fun a => decide (a.g = g ∧ a.slot = x.1 % 32 ∧ x.2.task.ckId < a.after)
      if x.2.bst && decide (s.pidOf x.1 = pid) && came then (x.1, x.2.updTask fun t => { t with passed := some g }) else x }

/-- BARRIER_RELEASE (R257): every member of every member quad has arrived; while a BARSET is in progress no further arrival comes, and
a phase that is complete is released under the membership it has (R256). -/
def execBarrierRelease (pid g : Nat) (s : State) : Res :=
  event s (
    let qs := (s.quadsOf pid).filter fun qi => (FMap.get 0 (s.bars pid qi).1 g).getLsbD 32
    let members := qs.any fun qi => decide (fld (FMap.get 0 (s.bars pid qi).1 g) 0 32 ≠ 0)
    if members && qs.all fun qi => s.quadArrived pid qi g then
      some ((s.notePassed pid g).clearArrivals pid g) else none)

/-- The fields of a BARSET descriptor, its two words as one number (R256). -/
def bsBad (pt : Part) (v : Nat) : Bool :=
  let x := bitsAt v 0 7
  let y := bitsAt v 7 7
  let wd := bitsAt v 14 7
  let ht := bitsAt v 21 7
  decide (bitsAt v 96 1 = 1) && (decide (bitsAt v 28 36 ≠ 0) || decide (bitsAt v 98 30 ≠ 0) || decide (wd = 0) || decide (ht = 0)
    || decide (pt.w < x + wd) || decide (pt.h < y + ht) || decide (bitsAt v 64 32 = 0))

/-- The new BARMASK of each live quad of a partition, by its number (R255, R256). -/
def State.bsMasks (s : State) (pid v : Nat) : List (Nat × Word) :=
  let pt := s.part pid
  let x := bitsAt v 0 7
  let y := bitsAt v 7 7
  let wd := bitsAt v 14 7
  let ht := bitsAt v 21 7
  ((List.range (pt.w * pt.h)).filter fun p => s.liveQuad pid p).map fun p =>
    let inside := decide (x ≤ p % pt.w ∧ p % pt.w < x + wd ∧ y ≤ p / pt.w ∧ p / pt.w < y + ht)
    if bitsAt v 96 1 = 0 then (p, 0)
    else (p, word ((if inside then bitsAt v 64 32 else 0) + 2 ^ 32 + bit (inside && decide (wd = 1 ∧ ht = 1)) * 2 ^ 33))

/-- The reply that says a BARSET is installed: no descriptor has this value. -/
def bsDone : Nat := 2 ^ 128

/-- A descriptor that has been read: it traps, or its installation begins. -/
def State.bsBegin (s : State) (g v : Nat) (a : Word) : Act :=
  let pid := s.myPid
  if bsBad s.myPart v then .keep ((s.dropBarsets s.cur).enterTrap s.cur 0x02 a s.me.pc)
  else .keep (((s.dropBarsets s.cur).updPart pid fun p => { p with barsets := p.barsets ++
    [{ g, thr := s.cur, addr := a, masks := s.bsMasks pid v, force := decide (bitsAt v 96 2 = 3) }] }).await)

/-- BARSET (R256): the descriptor is read, and the slot waits for the installation. -/
def execBarset (g : BitVec 5) (a : Reg) (s : State) : Res :=
  match s.me.op with
  | .none => runHead { rd := [a], sup := some (0x7240 + g.toNat) } s fun v t =>
      let x := v a
      memWait t 0 x ((t.accessCheck permR x 16 16 (decide (space x ≠ 0 ∧ space x ≠ 2) || decide (window x ≠ 0))).orElse
        (if space x = 0 then
          let k := t.localKey t.cur (offset x)
          localWait t k 16 (if bsBad t.myPart (t.rd k 16) then .trap 0x02 x else t.bsBegin g.toNat (t.rd k 16) x)
        else roomFor t 0 (.keep (((t.addCount t.cur 0).updPart t.myPid fun p =>
            { p with barsets := p.barsets ++ [{ g := g.toNat, thr := t.cur, addr := x }] }).launchFlight
          { id := 0, thr := t.cur, pid := t.myPid, addr := x, n := 16, op := .load, ret := .op, ctr := 0, tag := t.me.faultTag }).await)))
  | .wait => .next (s.updMe fun x => if x.st = .ready then { x with st := .blocked .reply } else x)
  | .denied => .next ((Act.next (s.dropBarsets s.cur)).run s)
  | .done v =>
    if v = bsDone then .next ((Act.next s).run s)
    else
      let addr := (s.myPart.barsets.find? fun (b : Barset) => decide (b.thr = s.cur)).map fun (b : Barset) => b.addr
      .next ((s.bsBegin g.toNat v (addr.getD 0)).run s)

/-- BARSET_INSTALL (R256): no arrival is pending, or FORCE discards those that are, and each slot that waits on the
phase takes ECAUSE 0x10. -/
def execBarsetInstall (pid g : Nat) (s : State) : Res :=
  event s (do
    let b ← (s.part pid).barsets.find? fun b => decide (b.g = g) && !b.masks.isEmpty
    let pending := (s.quadsOf pid).any fun qi => (s.bars pid qi).2.any fun a => decide (a.g = g)
    if pending && !b.force then none
    else
      let waiters := ((s.quadsOf pid).filter fun qi => s.runs pid (qi * 32)).flatMap fun qi =>
        ((List.range 32).map fun n => qi * 32 + n).filter fun tk =>
          (decide ((s.slot tk).st = .blocked (.barrier g)) || decide ((s.slot tk).st = .blocked (.barset g))) && s.pendingArrival tk g
      let s1 := if pending then waiters.foldl (fun t tk => t.postAsync tk 0x10 (barMisuse g 2)) s else s
      let s2 := b.masks.foldl (fun t m => t.setBarmask pid m.1 g m.2) (s1.clearArrivals pid g)
      pure ((s2.updPart pid fun p => { p with barsets := p.barsets.filter fun x => decide (x ≠ b) }).reply b.thr bsDone))

/-! ## Transaction barriers -/

/-- The checks of R191, and then those of R262. -/
def State.tbCheck (s : State) (p : Perm) (a : Word) (init : Bool) : Check :=
  firstTrap [spaceCheck s.super a,
    failIf (decide (space a ≠ 0) || decide (window a ≠ 0)) 0x02 a,
    failIf (decide (a.toNat % 16 ≠ 0)) 0x04 a,
    s.localCheck s.cur p a 16,
    if p.wr then s.localWrite s.cur a 16 else none,
    failIf (init && !(s.tb (s.localKey s.cur (offset a))).init) 0x02 a]

/-- An overflow (R265): only OVF is set, and the slot traps; the head has popped nothing. -/
def tbOverflow (s : State) (k : Nat) (a : Word) (case : Nat) : Act :=
  .keep ((s.setTb k { s.tb k with ovf := true }).enterTrap s.cur 0x0E (setFld a 0 4 case) s.me.pc)

/-- TBINIT (R263). -/
def execTbinit (a b : Reg) (s : State) : Res :=
  runHead { rd := [a, b] } s fun v t =>
    memWait t 0 (v a) ((t.tbCheck permRW (v a) false).orElse
      (if (v b).toNat = 0 ∨ 2 ^ 20 - 1 < (v b).toNat then .trap 0x02 (v b)
      else
        let k := t.localKey t.cur (offset (v a))
        localWait t k 16 (.next (t.setTb k { phase := 0, parr := (v b).toNat, exparr := (v b).toNat, pbytes := 0, ovf := false, init := true, rest := 0 }))))

/-- TBEXP (R263, R265). -/
def execTbexp (a b : Reg) (s : State) : Res :=
  runHead { rd := [a, b] } s fun v t =>
    memWait t 0 (v a) ((t.tbCheck permRW (v a) true).orElse
      (let k := t.localKey t.cur (offset (v a))
      let x := t.tb k
      localWait t k 16
        (if 2 ^ 48 - 1 < x.pbytes + (v b).toNat then tbOverflow s k (v a) 3
        else .next (t.setTb k { x with pbytes := x.pbytes + (v b).toNat }.advance))))

/-- TBARR (R263, R266): a release at partition scope. -/
def execTbarr (d a : Reg) (s : State) : Res :=
  runHead { rd := [a], wr := [d] } s fun v t =>
    memWait t 0 (v a) ((t.tbCheck permRW (v a) true).orElse
      (let k := t.localKey t.cur (offset (v a))
      let x := t.tb k
      if !t.fenceOk .part then .block (.fence 3)
      else localWait t k 16
        (match x.arrive with
        | none => tbOverflow s k (v a) 1
        | some y => put (t.setTb k y) d (word x.phase) 6)))

/-- TBWAIT (R264). -/
def execTbwait (a b : Reg) (s : State) : Res :=
  runHead { rd := [a, b] } s fun v t =>
    memWait t 0 (v a) ((t.tbCheck permR (v a) true).orElse
      (let k := t.localKey t.cur (offset (v a))
      localWait t k 16 (if (t.tb k).phase = fld (v b) 0 4 then .block (.tb k (fld (v b) 0 4)) else .next t)))

/-- TBTEST (R264). -/
def execTbtest (d a b : Reg) (s : State) : Res :=
  runHead { rd := [a, b], wr := [d] } s fun v t =>
    memWait t 0 (v a) ((t.tbCheck permR (v a) true).orElse
      (let k := t.localKey t.cur (offset (v a))
      localWait t k 16 (put t d (flag (decide ((t.tb k).phase ≠ fld (v b) 0 4))) 6)))

end Sys2Proof.Machine
end

