-- ==== Sys2Proof/Machine/Channels.lean ====
section
/-! DEFINITION. Channels (R267 to R293): the table and its cache, ring and spill, ordering, closing and poison, the
let-out detector, majors 0x78 to 0x7F. -/

namespace Sys2Proof.Machine

/-- A push of a quad to a channel has not been acknowledged (R292). -/
def State.unacked (s : State) (qi pid ch : Nat) : Bool :=
  s.pushes.any fun p => decide (p.pid = pid ∧ p.ch = ch ∧ quadOf p.src = qi)

/-- A fill of the entry is on its way to a quad. -/
def State.filling (s : State) (qi pid ch : Nat) : Bool :=
  s.flights.any fun f => decide (f.pid = pid ∧ quadOf f.thr = qi) && (match f.ret with
    | .fill c _ => decide (c = ch)
    | _ => false)

/-- Sends the read of an entry for a thread (R271). -/
def State.startFill (s : State) (tk pid ch : Nat) (push : Bool) : State :=
  s.launchFlight { id := 0, thr := tk, pid, addr := (s.part pid).chanAddr ch, n := 64, op := .load, ret := .fill ch push
                   ctr := 7, tag := (s.slot tk).faultTag }

/-- A slot of the partition on the quad is blocked on the channel. -/
def State.blockedOn (s : State) (qi pid ch : Nat) : Bool :=
  (List.range 32).any fun n => match (s.slotIn pid (qi * 32 + n)).st with
    | .blocked (.chFull c) | .blocked (.chEmpty c) | .blocked (.chFill c) | .blocked (.chAcks c) => decide (c = ch)
    | _ => false

/-! ## Accesses made for the reader (R276) -/

/-- The address of an element's spill slot (R273). -/
def ChanEnt.spillAddr (e : ChanEnt) (seq : Nat) : Word :=
  word (2 * 2 ^ 60 + e.spillBase * 64 + seq % e.spillMax * e.esz)

/-- A fault of such an access is pending: of any, or of one to an element. -/
def State.chanWaits (s : State) (qi : Nat) (e : ChanEnt) : Bool :=
  s.chanFaults.any fun f => decide (f.pid = e.pid ∧ f.ch = e.id ∧ f.qi = qi)
def State.elemWaits (s : State) (qi : Nat) (e : ChanEnt) (seq : Nat) : Bool :=
  s.chanFaults.any fun f => decide (f.pid = e.pid ∧ f.ch = e.id ∧ f.qi = qi ∧ f.elem = some seq)

/-- A faulted access for the reader is reported (R211, R276): stage 1 to the service core, stage 2 to the controller. -/
def State.chanFault (s : State) (qi : Nat) (e : ChanEnt) (elem : Option Nat) (wr evict : Bool) (a : Word) (n : Nat) : State :=
  match s.threadKey e.pid e.reader with
  | none => s
  | some tk =>
    let at_ := s.engineFault tk e.pid (if wr then permW else permR) a n
    let why := match at_.2 with
      | .xlate w => w
      | _ => 3
    let tag := (s.slot tk).faultTag
    let c : ChanFault := { pid := e.pid, thread := e.reader, ch := e.id, qi, elem, evict, tag }
    if why = 3 then { s.takeId with chanFaults := s.chanFaults ++ [{ c with s2 := some s.ids }] }
    else
      let t : State := { s with chanFaults := s.chanFaults ++ [c] }
      t.service e.pid { kind := 0x40, tag := tag.toNat, thread := e.reader, w2 := at_.1, w3 := word (bit wr + 4 * why + 16 * 2) }

/-- The bytes of an element in spill; else the state with the fault reported. -/
def State.spillRead (s : State) (qi : Nat) (e : ChanEnt) (seq : Nat) : Except State (List Byte) :=
  match s.engineRead ((s.threadKey e.pid e.reader).getD 0) e.pid (e.spillAddr seq) (e.esz / 8) with
  | .ok bs => .ok bs
  | .error .owned => .error s
  | .error _ => .error (s.chanFault qi e (some seq) false false (e.spillAddr seq) e.esz)

/-- What the reading of an element in spill leaves in the TLBs (R204, R276). -/
def State.spillFill (s : State) (e : ChanEnt) (seq : Nat) : State :=
  s.engineFill ((s.threadKey e.pid e.reader).getD 0) e.pid permR (e.spillAddr seq) e.esz

/-- An element written to spill. -/
def State.spillWrite (s : State) (qi : Nat) (e : ChanEnt) (evict : Bool) (seq : Nat) (bs : List Byte) : Except State State :=
  match s.engineWrite ((s.threadKey e.pid e.reader).getD 0) e.pid (e.spillAddr seq) bs with
  | .ok t => .ok t
  | .error .owned => .error s
  | .error _ => .error (s.chanFault qi e (some seq) true evict (e.spillAddr seq) e.esz)

/-! ## Rings (R273, R274, R281, R282) -/

/-- The key of a ring slot: the ring follows the blocks of the quad's scratchpad (R374). -/
def State.ringKey (s : State) (qi : Nat) (e : ChanEnt) (ring seq : Nat) : Nat :=
  let off := ring + seq % e.cap * e.esz
  scratchKey ((s.quad qi).holder qi off) off

/-- The ring of a cached entry let out, elements from KEEP (R274): the entry without its ring. A poisoned one holds none. -/
def State.letOut (s : State) (qi : Nat) (e : ChanEnt) (evict : Bool) : Except State State :=
  match e.ring with
  | none => .ok s
  | some r =>
    if e.state = 2 then .ok (s.setChan qi { e with ring := none }) else
    let moved := (List.range (e.sph - e.keep)).foldl (fun acc i => match acc with
      | .error t => .error t
      | .ok t => t.spillWrite qi e evict (e.keep + i) (t.rdBytes (s.ringKey qi e r (e.keep + i)) e.esz)) (Except.ok s)
    match moved with
    | .error t => .error t
    | .ok t => .ok (t.setChan qi { e with sph := e.keep, ring := none, letout := e.letout || decide (e.keep < e.tail) })

/-- Ring bytes of a context (R282). -/
def State.ringUse (s : State) (qi pid : Nat) : Nat :=
  (((s.quad qi).chans.filter fun e => decide (e.pid = pid ∧ e.ring ≠ none)).map fun e => e.ringBytes).sum

/-- The context that loses a ring to a request of context r (R282), none when it is r itself. -/
def State.ringLoser (s : State) (qi r n : Nat) : Option Nat :=
  let cs := (s.quad qi).ctxs.map fun c => c.pid
  let total := (cs.map fun c => (s.part c).chanWeight).sum
  let excess (c : Nat) : Int :=
    ((s.ringUse qi c + (if c = r then n else 0)) * total : Nat) - (s.poolBytes qi * (s.part c).chanWeight : Nat)
  (cs.filter fun c => decide (c ≠ r)).find? fun c => decide (excess r ≤ excess c)

/-- The loop of R282: rings of the context furthest over its share are let out until the request fits, or the requester is
that context; so it does where that context holds no ring to let out, since the free space is in pieces (log entry 140). A let-out that
faults stops the loop there with the fault reported, and the request waits for the reply (R276). -/
def State.makeRoom (s : State) (qi : Nat) (e : ChanEnt) : Nat → Except (Option State) State
  | 0 => .ok s
  | fuel + 1 =>
    match s.ringFit qi e, s.ringLoser qi e.pid e.ringBytes with
    | none, some c =>
      (match (s.quad qi).chans.find? fun x => decide (x.pid = c ∧ x.ring ≠ none) with
      | none => .ok s
      | some v => if s.chanWaits qi v then .error none
        else match s.letOut qi v false with
          | .error t => .error (some t)
          | .ok t => t.makeRoom qi e fuel)
    | _, _ => .ok s

/-- The home asks for a ring when it fills an entry (R281): on a quad with two contexts room is made for it (R282). -/
def State.ringRoom (s : State) (qi : Nat) (e : ChanEnt) : Except (Option State) State :=
  if 2 ≤ (s.quad qi).ctxs.length ∧ e.cap ≠ 0 ∧ e.state ≠ 2 then s.makeRoom qi e 65 else .ok s

/-- The ring that a filled entry takes where it fits; what the loop of R282 freed beyond it goes to channels without one (R281). -/
def State.allotRing (s : State) (qi : Nat) (e : ChanEnt) : State :=
  let t := match if e.state = 2 then none else s.ringFit qi e with
    | none => s
    | some r => s.setChan qi { e with ring := some r }
  if 2 ≤ (s.quad qi).ctxs.length then t.regrantRings qi else t

/-! ## Leaving the cache (R272, R292) -/

/-- The words of the table's entry with the hardware fields, LETLIM, ALLOWANCE and STATE replaced. -/
def ChanEnt.writeBack (e : ChanEnt) (w : Nat → Word) : List Word :=
  [setFld (setFld (w 0) 58 1 (bit e.letout)) 56 2 e.state, setFld (w 1) 0 32 e.letLim, w 2,
    word (e.locnt * 2 ^ 48 + e.head % 2 ^ 48), setFld (w 4) 0 48 e.tail, setFld (w 5) 0 48 e.sph,
    setFld (w 6) 0 32 e.allowance, setFld (w 7) 0 48 e.keep]

/-- An entry leaves a quad's cache: the home lets the ring out, writes the fields back, and then frees the ring. A fault
on the way is reported, and the entry stays. -/
def State.evictChan (s : State) (qi : Nat) (e : ChanEnt) : Except State State :=
  if !s.isHome qi e || !e.valid || e.lost then .ok (s.dropChan qi e)
  else
    match s.letOut qi e true with
    | .error t => .error t
    | .ok t =>
      let x := (t.chanAt qi e.pid e.id).getD e
      match t.engineKeys ((t.threadKey e.pid e.reader).getD 0) e.pid permW e.addr 8 with
      | .error .owned => .error s
      | .error _ => .error (s.chanFault qi e none true true e.addr 64)
      | .ok ks =>
        let w (n : Nat) : Word := t.rd8 (ks.getD n 0)
        .ok ((((t.engineFill ((t.threadKey e.pid e.reader).getD 0) e.pid permW e.addr 64).writeChunks ks (words (x.writeBack w))).dropChan qi e).regrantRings qi)

/-- The entry that a full cache evicts (R271): the least recently used on which no slot is blocked; a poisoned entry kept
by a failed eviction only when there is no other (R272). -/
def State.victim (s : State) (qi : Nat) : Option ChanEnt :=
  let free := (s.quad qi).chans.filter fun e => !s.blockedOn qi e.pid e.id
  match free.find? fun e => !e.lost with
  | some e => some e
  | none => free.head?

/-- CHANNEL_EVICTION (R271, R272): the victim of a full cache leaves it for a fill that waits, as CHINV lets it go (R292):
its pushes are acknowledged, and no reply is awaited for it. -/
def execChannelEviction (qi ch : Nat) (s : State) : Res :=
  unitEvent (quadOk qi) qi s (do
    let e ← s.victim qi
    let waits := s.flights.any fun f => decide (quadOf f.thr = qi) && f.fills
    if e.id = ch ∧ 64 ≤ (s.quad qi).chans.length ∧ waits = true ∧ s.unacked qi e.pid e.id = false ∧ s.chanWaits qi e = false then
      match s.evictChan qi e with
      | .ok t => pure t
      | .error t => pure t
    else none)

/-! ## Fills (R271) -/

/-- The number that a table of channels gives one of them. -/
def tailOf (tails : List (Nat × Nat)) (ch : Nat) : Option Nat := (tails.find? fun e => decide (e.1 = ch)).map fun e => e.2

/-- TAIL for the entry of a channel that a slot of the quad writes again from its checkpoint (R373). -/
def State.replayTail (s : State) (qi : Nat) (e : ChanEnt) : Option Nat := do
  let tk ← s.threadKey e.pid e.writer
  let r ← tailOf (s.slot tk).task.replay e.id
  if quadOf tk = qi ∧ s.runs e.pid tk = true ∧ r ≤ e.tail then some r else none

/-- The entry has been filled: its TAIL stands in the cache now. -/
def State.endReplay (s : State) (qi : Nat) (e : ChanEnt) : State :=
  match s.replayTail qi e, s.threadKey e.pid e.writer with
  | some _, some tk => s.updSlot tk fun x => x.updTask fun k => { k with replay := k.replay.filter fun y => decide (y.1 ≠ e.id) }
  | _, _ => s

/-- The entry that a fill puts into a quad's cache: a quad that is not the home takes what the home keeps from it. -/
def State.fillEntry (s : State) (qi i pid : Nat) (addr : Word) (w : Nat → Word) : ChanEnt :=
  let e := chanParse i pid addr w
  let e1 : ChanEnt := match s.chanHome e with
    | some h =>
      if h = qi then e else
      match s.chanAt h pid i with
      | some x => { e with letout := x.letout, state := x.state, locnt := x.locnt, head := x.head, tail := x.tail, sph := x.sph,
                           keep := x.keep, letLim := x.letLim, allowance := x.allowance }
      | none => e
    | none => e
  { e1 with valid := chanFormat i w && e1.sound (s.part pid)
            wtail := (s.replayTail qi e1).getD e1.tail, wkeep := e1.keep, whead := e1.head, filled := s.ids }

/-- The home answers a push (R271, R274, R387): the answer leaves on the response lane for the writer's quad. -/
def State.answerPush (s : State) (p : PushMsg) (refused : Bool) : State :=
  let s1 := (s.dropPacket p.pkt).inject p.home (quadOf p.src) p.pid (s.pAt (quadOf p.src) p.pid) 1 1 none
  { s1 with pushes := s1.pushes.map fun x => if x.id = p.id then { x with acked := true, refused, pkt := some s.ids } else x }

/-- Every push that waits at the home for the entry is refused (R271). -/
def State.refusePushes (s : State) (qi pid ch : Nat) : State :=
  (s.pushes.filter fun p => decide (p.pid = pid ∧ p.ch = ch ∧ (s.threadKey p.pid p.reader).map quadOf = some qi) && !p.acked
    && s.arrived p.pkt).foldl (fun t p => t.answerPush p true) s

/-- CHANNEL_FILL (R271): the read of an entry is performed, behind what its slot has stored there (R232). An entry already cached stands as it is. -/
def execChannelFill (qi ch : Nat) (s : State) : Res :=
  unitEvent (quadOk qi) qi s (do
    let f ← s.flights.find? fun f => decide (quadOf f.thr = qi) && (match f.ret, f.stage with
      | .fill c _, .home _ | .fill c _, .denied => decide (c = ch)
      | _, _ => false)
    let push := decide (f.ret = .fill ch true)
    match f.stage with
    | .home k =>
      if (s.chanAt qi f.pid ch).isSome then pure (s.removeFlight f)
      else if 64 ≤ (s.quad qi).chans.length || s.ownedFor [f.thr] f.id k 64 || !s.mayPerform f then none
      else
        let e := s.fillEntry qi ch f.pid f.addr fun n => s.rd8 (k + 8 * n)
        if push && !e.valid then pure ((s.removeFlight f).refusePushes qi f.pid ch)
        else if !(e.valid && s.isHome qi e) then pure (((s.endReplay qi e).takeId.removeFlight f).touchChan qi e)
        else match s.ringRoom qi e with
          | .error t => t
          | .ok t => pure ((((t.endReplay qi e).takeId.removeFlight f).touchChan qi e).allotRing qi e)
    | .denied => pure ((s.removeFlight f).refusePushes qi f.pid ch)
    | _ => none)

/-! ## Pushes at the home (R274, R275, R279) -/

/-- An eviction of an entry has begun, and waits for the reply to a fault (R272). -/
def State.evicting (s : State) (qi : Nat) (e : ChanEnt) : Bool :=
  s.chanFaults.any fun f => decide (f.pid = e.pid ∧ f.ch = e.id ∧ f.qi = qi) && f.evict

/-- A CHINV of the channel is in progress at its home (R292), or an eviction (R271): pushes that arrive there meanwhile wait for the new
fill. A CHINV waits itself for the acknowledgements of its own quad's pushes, which go on until its writes have begun. -/
def State.invalidating (s : State) (qi : Nat) (p : PushMsg) (e : ChanEnt) : Bool :=
  s.evicting qi e || (decide (quadOf p.src ≠ qi)
    && (List.range 32).any fun n => decide ((s.slotIn p.pid (qi * 32 + n)).st = .blocked (.chAcks p.ch)))

/-- A push that has arrived at its home meets the entry there: it waits for a fill, is refused or dropped, or goes on. -/
def State.atHome (s : State) (p : PushMsg) (k : Nat → ChanEnt → Option State) : Option State :=
  match s.threadKey p.pid p.reader with
  | none => none
  | some tk =>
    let qi := quadOf tk
    if p.acked || !s.arrived p.pkt || (s.quad qi).contained then none else
    match s.chanAt qi p.pid p.ch with
    | none => if s.filling qi p.pid p.ch then none else some (s.startFill tk p.pid p.ch true)
    | some e =>
      if s.invalidating qi p e then none
      else if !e.valid then some (s.refusePushes qi p.pid p.ch)
      else if e.state = 2 ∨ p.seq < e.tail then some (s.answerPush p false)
      else if p.seq = e.tail then k qi e else none

/-- The acceptance of element TAIL (R274); for a basted reader it is written through to spill (R370). -/
def State.acceptPush (s : State) (qi : Nat) (e : ChanEnt) (data : List Byte) : Except State State :=
  let basted := match s.threadKey e.pid e.reader with
    | some tk => (s.slotIn e.pid tk).bst
    | none => false
  let spilled := s.spillWrite qi e false e.tail data
  match e.ring with
  | some r =>
    if e.sph = e.tail ∧ e.tail - e.keep < e.cap then
      (if basted then spilled else .ok s).map fun t =>
        ((t.noteBlock qi (t.ringKey qi e r e.tail)).wrBytes (t.ringKey qi e r e.tail) data).touchChan qi { e with tail := seqNext e.tail, sph := seqNext e.tail }
    else spilled.map fun t => t.touchChan qi { e with tail := seqNext e.tail, letout := true }
  | none => spilled.map fun t => t.touchChan qi { e with tail := seqNext e.tail, letout := true }

/-- CHANNEL_PUSH_ACCEPT (R274, R275): in sequence order; the element is visible at once when its write is performed. -/
def execChannelPushAccept (id : Nat) (s : State) : Res :=
  event s (do
    let p ← s.pushes.find? fun p => decide (p.id = id) && !p.close
    s.atHome p fun qi e =>
      if s.elemWaits qi e e.tail then none
      else match s.acceptPush qi e p.data with
        | .ok t => some (t.answerPush p false)
        | .error t => some t)

/-- CHANNEL_CLOSE_APPLY (R279): TAIL has reached the writer's count. -/
def execChannelCloseApply (id : Nat) (s : State) : Res :=
  event s (do
    let p ← s.pushes.find? fun p => decide (p.id = id) && p.close
    s.atHome p fun qi e => some ((s.setChan qi { e with state := 1 }).answerPush p false))

/-- CHANNEL_REFILL (R274). -/
def execChannelRefill (qi ch : Nat) (s : State) : Res :=
  unitEvent (quadOk qi) qi s ((s.chansHere qi ch).findSome? fun e => do
    let r ← e.ring
    if s.isHome qi e && e.valid && decide (e.state ≠ 2 ∧ e.sph < e.tail ∧ e.sph - e.keep < e.cap) && !s.elemWaits qi e e.sph then
      match s.spillRead qi e e.sph with
      | .error t => pure t
      | .ok bs => pure ((((s.spillFill e e.sph).noteBlock qi (s.ringKey qi e r e.sph)).wrBytes (s.ringKey qi e r e.sph) bs).setChan qi
          { e with sph := seqNext e.sph, letout := e.letout && decide (seqNext e.sph ≠ e.tail) })
    else none)

/-- CHANNEL_ROOM_REPORT (R287, R290): the home's KEEP, HEAD and LETLIM reach the writer's quad. -/
def execChannelRoomReport (qi ch : Nat) (s : State) : Res :=
  unitEvent (quadOk qi) qi s ((s.chansHere qi ch).findSome? fun e => do
    let wk ← s.threadKey e.pid e.writer
    let w ← s.chanAt (quadOf wk) e.pid ch
    if s.isHome qi e && e.valid && w.valid then
      pure (s.setChan (quadOf wk) { w with wkeep := e.keep, whead := e.head, letLim := e.letLim })
    else none)

/-- CHANNEL_SPILL_POP_RETURN (R289): HBM returns the element that a pop has taken. -/
def execChannelSpillPopReturn (qi ch : Nat) (s : State) : Res :=
  unitEvent (quadOk qi) qi s (do
    let p ← s.spillPops.find? fun p => decide (p.qi = qi ∧ p.ch = ch)
    let s1 : State := { s with spillPops := s.spillPops.erase p }
    let waits := decide (p.kind = 2) && s.owned (s.localKey p.thr (offset p.addr)) p.data.length
    let s2 := s1.arriveReg p.thr p.d 0 p.pc p.due
    if waits then none else pure (match p.kind with
      | 0 => s2.arriveReg p.thr p.b (word (ofBytes p.data)) p.pc p.due
      | 1 => s2.arrive p.thr (.vec p.b (BitVec.ofNat 2048 (ofBytes p.data)) 0) 0 p.pc p.due
      | _ => s2.wrBytes (s2.localKey p.thr (offset p.addr)) p.data))

/-! ## The checks of a channel head (R286) -/

/-- ECAUSE 0x0A (R286). -/
def chanMisuse (id reason : Nat) : Act := .trap 0x0A (word (id + reason * 4096))

/-- (a + imm10) mod 4,096 (R286). -/
def chanId (v : Word) (imm : BitVec 10) : Nat := (v + zext imm).toNat % 4096

/-- The vector register that a B field names (R63). -/
def vregOf (b : Reg) : VReg := b.setWidth 5

/-- What a channel head names: its data register is read by a push, and by a pop when it is an address. -/
def chanUse (k : ElemKind) (a b : Reg) (d : Option Reg) : Use :=
  match k, d with
  | .s, none => { rd := [a, b] }
  | .a, none => { rd := [a, b] }
  | .v, none => { rd := [a], vs := [vregOf b] }
  | .s, some d => { rd := [a], wr := [d, b] }
  | .a, some d => { rd := [a, b], wr := [d] }
  | .v, some d => { rd := [a], wr := [d], vs := [vregOf b] }

/-- The entry of a channel at the issuing quad, filled first when it is not cached (R271); `s0` is the state before the
head's pops. -/
def withChan (s0 s : State) (id : Nat) (k : ChanEnt → Act) : Act :=
  let pid := s.myPid
  if s.myPart.chanCount ≤ id then chanMisuse id 6
  else match s.chanAt (quadOf s.cur) pid id with
    | none =>
      if s.filling (quadOf s.cur) pid id then .block (.chFill id)
      else .keep ((s0.startFill s.cur pid id false).blockMe (.chFill id))
    | some e => if !e.valid then chanMisuse id 6 else k e

/-- The kind against E, and the address of kind .a (R286). -/
def State.kindCheck (s : State) (k : ElemKind) (e : ChanEnt) (push : Bool) (a : Word) (act : Act) : Act :=
  match k with
  | .s => if e.esize ≠ 0 then chanMisuse e.id 3 else act
  | .v => act
  | .a =>
    (firstTrap [spaceCheck s.super a, failIf (decide (space a ≠ 0 ∨ window a ≠ 0)) 0x02 a,
      failIf (decide (a.toNat % Nat.min e.esz 32 ≠ 0)) 0x04 a,
      s.localCheck s.cur (if push then permR else permW) a e.esz]).orElse act

/-! ## Writer heads (R279, R287, R288, R291) -/

/-- The bytes of an element by kind (R286). -/
def State.element (s : State) (k : ElemKind) (n : Nat) (b : Reg) (v : Word) : List Byte :=
  match k with
  | .s => leBytes 8 v.toNat
  | .v => leBytes n (s.vReg s.cur (vregOf b).toNat).toNat
  | .a => s.rdBytes (s.localKey s.cur (offset v)) n

/-- Room by the writer's view (R287). -/
def ChanEnt.writerRoom (e : ChanEnt) : Bool := decide (e.wtail - e.wkeep < e.limit)

/-- A push or a close mark leaves for the home (R287, R291). Where the reader's quad is absent it goes to the writer's own quad, where
it is never accepted (log entry 142). -/
def State.sendPush (s : State) (tk : Nat) (e : ChanEnt) (data : List Byte) (close counted : Bool) (pc : Word) : State :=
  let qi := quadOf tk
  let home := (s.chanHome e).getD qi
  let id := s.ids
  let s1 := s.takeId.inject qi home e.pid (e.reader / 32) (flitsFor data.length) 2 none
  let s2 : State := { s1 with pushes := s1.pushes ++
    [{ id, pid := e.pid, ch := e.id, seq := e.wtail, data, close, src := tk, home, reader := e.reader, pc, pkt := some (id + 1), counted }] }
  let s3 := if counted then s2.addCount tk 1 else s2
  s3.touchChan qi (if close then { e with closed := true } else { e with wtail := seqNext e.wtail })

/-- A basted writer's 33rd channel since its checkpoint takes an implied BASTE first (R369). -/
def chanLogRoom (s0 : State) (id : Nat) (k : Act) : Act :=
  let t := s0.me.task
  if s0.me.bst && !t.wroteCh.contains id && decide (32 ≤ t.wroteCh.length) then
    .keep (s0.updMe fun x => { x.updTask fun t => { t with basteDue := true } with st := .blocked .drained })
  else k

/-- A channel written by a basted slot is noted (R369): its TAIL before the push and after it. -/
def State.noteChan (s : State) (id tail : Nat) : State :=
  if s.me.bst then s.updMe fun x => x.updTask fun t =>
    { t with lastTail := (t.lastTail.filter fun e => decide (e.1 ≠ id)) ++ [(id, seqNext tail)]
             wroteCh := if t.wroteCh.contains id then t.wroteCh else t.wroteCh ++ [id]
             tails := if t.tails.any fun e => decide (e.1 = id) then t.tails else t.tails ++ [(id, tail)] }
  else s

/-- The checks of a writer's head: role, kind, state. -/
def writerCheck (s : State) (e : ChanEnt) (k : Option ElemKind) (v : Word) (poisoned act : Act) : Act :=
  if e.writer ≠ s.relThread s.cur then chanMisuse e.id 0
  else
    let state : Act := if e.state = 2 then poisoned
      else if e.closed ∨ e.state = 1 ∨ s.me.task.closed.contains e.id = true then chanMisuse e.id 4 else act
    match k with
    | none => state
    | some k => s.kindCheck k e true v state

/-- The sending of one element: the release wait, then the count (R278, R287). -/
def pushAct (s0 s : State) (e : ChanEnt) (k : ElemKind) (b : Reg) (v : Word) (fin : State → Act) : Act :=
  if s.acquiring then .block .acquire
  else if !s.fenceOk .part then .block (.fence 3)
  else kindWait s k v e.esz <| chanLogRoom s0 e.id (roomFor s 1 (fin ((s.sendPush s.cur e (s.element k e.esz b v) false true s0.me.pc).noteChan e.id e.wtail)))

/-- CHPUSH (R287). -/
def execChpush (k : ElemKind) (a b : Reg) (imm : BitVec 10) (s : State) : Res :=
  runHead (chanUse k a b none) s fun g t =>
    withChan s t (chanId (g a) imm) fun e =>
      writerCheck t e (some k) (g b) (chanMisuse e.id 5)
        (if t.me.optimistic then kindWait t k (g b) e.esz (holdEffect t (.push e.id (t.element k e.esz b (g b))))
        else if t.acquiring then .block .acquire
        else if !t.fenceOk .part then .block (.fence 3)
        else if !e.writerRoom then .block (.chFull e.id)
        else pushAct s t e k b (g b) fun u => .next u)

/-- CHOFFER (R288). -/
def execChoffer (k : ElemKind) (d a b : Reg) (imm : BitVec 10) (s : State) : Res :=
  let use := chanUse k a b none
  runHead { use with wr := [d] } s fun g t =>
    let id := chanId (g a) imm
    if t.me.optimistic then chanMisuse id 7
    else withChan s t id fun e =>
      writerCheck t e (some k) (g b) (put t d 3 6)
        (if !e.writerRoom then put t d 1 6
        else pushAct s t e k b (g b) fun u => put u d 0 6)

/-- CHCLOSE (R279, R291). -/
def execChclose (a : Reg) (imm : BitVec 10) (s : State) : Res :=
  runHead { rd := [a] } s fun g t =>
    withChan s t (chanId (g a) imm) fun e =>
      writerCheck t e none 0 (chanMisuse e.id 5)
        (if t.me.optimistic then
          (match holdEffect t (.close e.id) with
          | .next u => .next (u.updMe fun x => x.updTask fun k => { k with closed := k.closed ++ [e.id] })
          | x => x)
        else if t.acquiring then .block .acquire
        else if !t.fenceOk .part then .block (.fence 3)
        else roomFor t 1 (.next (t.sendPush t.cur e [] true true s.me.pc)))

/-! ## Reader heads (R289) -/

/-- HEAD advances (R274). -/
def ChanEnt.popped (e : ChanEnt) (basted : Bool) : ChanEnt :=
  let next := seqNext e.head
  if basted then { e with head := next }
  else
    let sph := Nat.max e.sph next
    { e with head := next, keep := next, sph, letout := e.letout && decide (sph ≠ e.tail) }

/-- The element at HEAD, and whether it comes from spill; a fault on the way is reported. -/
def State.headElement (s : State) (qi : Nat) (e : ChanEnt) : Except State (List Byte × Bool) :=
  match e.ring with
  | some r =>
    if e.head < e.sph then .ok (s.rdBytes (s.ringKey qi e r e.head) e.esz, false)
    else (s.spillRead qi e e.head).map fun bs => (bs, true)
  | none => (s.spillRead qi e e.head).map fun bs => (bs, true)

/-- What the reading of the element at HEAD leaves: from spill in the TLBs (R204), from the ring in the order of a fill (R374). -/
def State.headRead (s : State) (qi : Nat) (e : ChanEnt) (spilled : Bool) : State :=
  if spilled then s.spillFill e e.head
  else match e.ring with
    | some r => s.noteBlock qi (s.ringKey qi e r e.head)
    | none => s

/-- An element written by kind with status 0 (R286, R289). -/
def State.deliverElement (s : State) (k : ElemKind) (d b : Reg) (v : Word) (bs : List Byte) : State :=
  let s1 := s.writeReg s.cur d 0 6
  match k with
  | .s => s1.writeReg s.cur b (word (ofBytes bs)) 6
  | .v => (s1.updMyCore fun c => { c with pend := c.pend ++
      [{ due := c.cycle + 10, slot := slotNo s.cur, pc := s.me.pc, op := .vec (vregOf b).toNat (BitVec.ofNat 2048 (ofBytes bs)) 0 }] }).updMe
        fun x => { x with busy := x.busy ++ [64 + (vregOf b).toNat] }
  | .a => s1.wrBytes (s1.localKey s1.cur (offset v)) bs

/-- An element from spill is on its way (R289). -/
def State.awaitElement (s : State) (qi : Nat) (e : ChanEnt) (k : ElemKind) (d b : Reg) (v : Word) (bs : List Byte) : State :=
  let s1 : State := { s with spillPops := s.spillPops ++
    [{ qi, ch := e.id, thr := s.cur, d := d.toNat, b := b.toNat
       kind := match k with
         | .s => 0
         | .v => 1
         | .a => 2
       addr := v, data := bs, pc := s.me.pc, due := s.myCore.cycle + 3 }] }
  let s2 := s1.markBusy s.cur d.toNat
  match k with
  | .s => s2.markBusy s.cur b.toNat
  | .v => s2.updMe fun x => { x with busy := x.busy ++ [64 + (vregOf b).toNat] }
  | .a => s2

/-- CHPOP, CHTAKE and CHPEEK (R289). -/
def popHead (wait remove : Bool) (k : ElemKind) (d a b : Reg) (imm : BitVec 10) (s : State) : Res :=
  runHead (chanUse k a b (some d)) s fun g t =>
    let id := chanId (g a) imm
    let qi := quadOf t.cur
    if t.me.optimistic then chanMisuse id 7
    else withChan s t id fun e =>
      if e.reader ≠ t.relThread t.cur then chanMisuse id 1
      else t.kindCheck k e false (g b)
        (if t.acquiring then .block .acquire
        else if e.state = 2 then put t d 3 6
        else if e.head = e.tail then
          (if e.state = 1 then put t d 2 6 else if wait then .block (.chEmpty id) else put t d 1 6)
        else if t.elemWaits qi e e.head && !decide (e.head < e.sph ∧ e.ring ≠ none) then .block (.chEmpty id)
        else match t.headElement qi e with
          | .error _ =>
            (match s.headElement qi e with
            | .error u => .keep (u.blockMe (.chEmpty id))
            | .ok _ => .block (.chEmpty id))
          | .ok (bs, spilled) =>
            let t1 := (t.headRead qi e spilled).touchChan qi (if remove then e.popped t.me.bst else e)
            kindWait t k (g b) e.esz <| .next (if spilled then t1.awaitElement qi e k d b (g b) bs else t1.deliverElement k d b (g b) bs))

/-- CHPOP (R289). -/
def execChpop (k : ElemKind) (d a b : Reg) (imm : BitVec 10) (s : State) : Res := popHead true true k d a b imm s
/-- CHTAKE (R289). -/
def execChtake (k : ElemKind) (d a b : Reg) (imm : BitVec 10) (s : State) : Res := popHead false true k d a b imm s
/-- CHPEEK (R289). -/
def execChpeek (k : ElemKind) (d a b : Reg) (imm : BitVec 10) (s : State) : Res := popHead false false k d a b imm s

/-- CHLEN (R290). -/
def execChlen (d a : Reg) (imm : BitVec 10) (s : State) : Res :=
  runHead { rd := [a], wr := [d] } s fun g t =>
    withChan s t (chanId (g a) imm) fun e =>
      if e.reader = t.relThread t.cur then put (t.touchChan (quadOf t.cur) e) d (word (e.tail - e.head)) 6
      else if e.writer = t.relThread t.cur then
        put (t.touchChan (quadOf t.cur) e) d
          (word (if t.isHome (quadOf t.cur) e then e.tail - e.head else e.wtail - e.whead)) 6
      else chanMisuse e.id 2

/-- CHINV (R292): it writes back at the home only (log entry 147). One whose writes fail ends, and leaves the entry cached as poisoned
(R272); a later one drops that entry. -/
def execChinv (a : Reg) (imm : BitVec 10) (s : State) : Res :=
  if s.me.answered then .next ((Act.next (s.popPorts [a])).run s) else
  runHead { rd := [a] } s fun g t =>
    let id := chanId (g a) imm
    let qi := quadOf t.cur
    match t.chanAt qi t.myPid id with
    | none => .next t
    | some e =>
      if t.unacked qi t.myPid id || t.chanWaits qi e then .block (.chAcks id)
      else match t.evictChan qi e with
        | .ok u => .next u
        | .error _ => (match s.evictChan qi e with
          | .error u => .keep ((u.blockMe (.chAcks id)).updMe fun x => { x with op := .wait })
          | .ok _ => .block (.chAcks id))

/-! ## The let-out detector (R283 to R285) -/

/-- The edge of a slot in a channel wait (R283): full or empty, the channel, the thread it leads to, and for a full one
the home's ALLOWANCE, or where the home does not hold the entry cached the writer's own copy's (log entry 141). -/
structure Edge1 where
  full : Bool
  ch : Nat
  target : Nat
  allowance : Nat := 0
  deriving DecidableEq, Repr

/-- The edge of a thread of a partition, when its slot is in a channel wait. -/
def State.edgeOf (s : State) (pid tk : Nat) : Option Edge1 :=
  if s.stopped tk || !s.runs pid tk then none else
  match (s.slot tk).st with
  | .blocked (.chFull id) => do
    let e ← s.chanAt (quadOf tk) pid id
    let home := ((s.chanHome e).bind fun h => s.chanAt h e.pid id).getD e
    if e.writerRoom then none else some { full := true, ch := id, target := e.reader, allowance := home.allowance }
  | .blocked (.chEmpty id) => do
    let e ← s.chanAt (quadOf tk) pid id
    if e.head = e.tail ∧ e.state = 0 then some { full := false, ch := id, target := e.writer } else none
  | _ => none

/-- The better candidate: the larger ALLOWANCE, the lower id on a tie (R284). -/
def betterCand (c : Option (Nat × Nat)) (x : Edge1) : Option (Nat × Nat) :=
  if !x.full || decide (x.allowance = 0) then c
  else match c with
    | none => some (x.ch, x.allowance)
    | some (i, a) => if a < x.allowance ∨ (a = x.allowance ∧ x.ch < i) then some (x.ch, x.allowance) else some (i, a)

/-- An edge joins a probe's path (R284). -/
def Probe.add (p : Probe) (thread : Nat) (x : Edge1) : Probe :=
  { p with lowest := Nat.min p.lowest thread, cand := betterCand p.cand x, allEmpty := p.allEmpty && !x.full
           path := if p.path.length < 8 then p.path ++ [(x.ch, thread)] else p.path, len := p.len + 1, target := x.target }

/-- PROBE_SEND (R284): after 2,048 cycles of one channel wait, and every 4,096 after. -/
def execProbeSend (tk : Nat) (s : State) : Res :=
  unitEvent (slotOk tk) tk s (do
    let x := s.slot tk
    let e ← s.edgeOf (s.pidOf tk) tk
    if 2048 + 4096 * x.probes ≤ x.chWaited then
      let n := s.relThread tk
      let p : Probe := { id := s.ids, pid := s.pidOf tk, origin := n, waitNo := x.waitNo, lowest := n, target := 0, sent := (s.core (coreOf tk)).cycle }
      pure ({ s.takeId with probes := s.probes ++ [p.add n e] }.updSlot tk fun y => { y with probes := y.probes + 1 })
    else none)

/-- Pairs of a path in the words of a service message (R359). -/
def pairWord (path : List (Nat × Nat)) (i : Nat) : Word :=
  let half (j : Nat) : Nat := match path[j]? with
    | some (ch, thr) => ch * 65536 + thr % 65536
    | none => 0
  word (half (2 * i) + half (2 * i + 1) * 2 ^ 32)

/-- A true deadlock is reported (R285). -/
def State.deadlock (s : State) (p : Probe) (tk : Nat) : State :=
  s.service p.pid { kind := 0x0B, thread := p.origin, info := if p.allEmpty then 0 else 1, w2 := (s.slot tk).pc
                    w3 := word (p.len % 256), w4 := pairWord p.path 0, w5 := pairWord p.path 1, w6 := pairWord p.path 2
                    w7 := pairWord p.path 3 }

def State.dropProbe (s : State) (id : Nat) : State := { s with probes := s.probes.filter fun p => decide (p.id ≠ id) }

/-- A probe that was sent 4,096 cycles ago or more ends (R284). -/
def State.probeOld (s : State) (p : Probe) : Bool :=
  match s.threadKey p.pid p.origin with
  | some tk => decide (p.sent + 4096 ≤ (s.core (coreOf tk)).cycle)
  | none => true

/-- PROBE_ARRIVAL (R284): at the interface of its target thread. -/
def execProbeArrival (id : Nat) (s : State) : Res :=
  event s (do
    let p ← s.probes.find? fun p => decide (p.id = id) && !p.returned
    match s.threadKey p.pid p.target with
    | none => pure (s.dropProbe id)
    | some tk =>
      match s.edgeOf p.pid tk with
      | none => pure (s.dropProbe id)
      | some e =>
        if s.probeOld p then pure (s.dropProbe id)
        else if p.target = p.origin ∧ (s.slot tk).waitNo = p.waitNo then
          if p.lowest ≠ p.origin then pure (s.dropProbe id)
          else if p.cand = none then pure ((s.dropProbe id).deadlock p tk)
          else pure { s with probes := s.probes.map fun x => if x.id = id then { x with returned := true } else x }
        else pure { s with probes := s.probes.map fun x => if x.id = id then p.add p.target e else x })

/-- PROBE_EXPIRY (R284). -/
def execProbeExpiry (id : Nat) (s : State) : Res :=
  event s (do
    let p ← s.probes.find? fun p => decide (p.id = id) && !p.returned
    if s.probeOld p then pure (s.dropProbe id) else none)

/-- A channel's entry at its home, when it is cached there. -/
def State.homeEntry (s : State) (pid ch : Nat) : Option (Nat × ChanEnt) :=
  s.quads.findSome? fun q => (s.chanAt q.1 pid ch).bind fun e => if s.isHome q.1 e then some (q.1, e) else none

/-- LETOUT_REQUEST (R285): at the candidate's home, while the channel is still full. A home that does not hold the entry cached drops
it (log entry 141). -/
def execLetoutRequest (id : Nat) (s : State) : Res :=
  event s (do
    let p ← s.probes.find? fun p => decide (p.id = id) && p.returned
    let c ← p.cand
    let s1 := s.dropProbe id
    match s.homeEntry p.pid c.1 with
    | none => pure s1
    | some (qi, e) =>
      if e.valid && e.full && decide (e.state = 0) then
        let g := Nat.min (Nat.max e.step 1) e.allowance
        pure (s1.setChan qi { e with letLim := e.letLim + g, allowance := e.allowance - g, locnt := Nat.min 0xFFFF (e.locnt + 1) })
      else pure s1)

end Sys2Proof.Machine
end

