-- ==== Sys2Proof/Machine/Basting.lean ====
section
/-! DEFINITION. Basting (R368 to R371): BASTE, the implied checkpoints, the enabling and disabling of basted mode, free
notices, and the resumption of a basted slot on a substitute (R373, step 7). -/

namespace Sys2Proof.Machine

/-- The basted range of a slot lies in its share: its start and its length (R368). -/
def State.basteRange (s : State) (tk : Nat) : Nat × Nat :=
  let cfg := (s.slot tk).sr.bastecfg
  let lo := basteBase cfg * 4096
  (lo, Nat.min (basteLen cfg * 4096) (s.spSize (s.pidOf tk) - lo))

/-- The bytes of the range, through the share's blocks. -/
def State.rangeBytes (s : State) (tk lo : Nat) : Nat → List Byte
  | 0 => []
  | n + 1 => s.rdBytes (s.localKey tk lo) 4096 ++ s.rangeBytes tk (lo + 4096) n

/-- The physical quad that guards a slot (R368). -/
def State.guardOf (s : State) (tk : Nat) : Option Nat :=
  ((s.part (s.pidOf tk)).guardQuad (s.pOf tk)).bind fun g => s.physQuad (s.pidOf tk) g

/-- A write into the guarding quad's share, while that is filled, has its block moved next (R374). -/
def State.noteGuard (s : State) (tk k : Nat) : State :=
  match s.guardOf tk with
  | none => s
  | some g => s.noteBlock g k

/-- Bytes written into half h of a slot's basting area, in the guarding quad's share, 4 KiB at a time. -/
def State.halfWrite (s : State) (tk h off : Nat) : Nat → List Byte → State
  | 0, _ => s
  | n + 1, bs =>
    match s.halfKey tk h off with
    | none => s
    | some k => ((s.noteGuard tk k).wrBytes k (bs.take 4096)).halfWrite tk h (off + 4096) n (bs.drop 4096)

/-- TAIL of a channel that the slot writes (R369): by its quad's view, or where its entry has left the cache after its last push. -/
def State.writerTail (s : State) (tk ch tail : Nat) : Nat :=
  match s.chanAt (quadOf tk) (s.pidOf tk) ch with
  | some e => e.wtail
  | none => (tailOf (s.slot tk).task.lastTail ch).getD tail

/-- A basted reader lets go what it popped: KEEP := HEAD (R293, R369). -/
def ChanEnt.release (e : ChanEnt) : ChanEnt :=
  let sph := Nat.max e.sph e.head
  { e with keep := e.head, sph, letout := e.letout && decide (sph ≠ e.tail) }

/-- The channels that a slot reads, at their home. -/
def State.releaseReads (s : State) (tk : Nat) : State :=
  let mine (e : ChanEnt) : Bool := decide (e.pid = s.pidOf tk ∧ e.reader = s.relThread tk) && e.valid
  s.updQuad (quadOf tk) fun q => { q with chans := q.chans.map fun e => if mine e then e.release else e }

/-- A checkpoint with a PC (R369): the half that does not hold the last valid one becomes invalid, is written, and is
committed. Without a guarding quad nothing can be kept. -/
def State.checkpoint (s : State) (tk : Nat) (pc : Word) : State :=
  let h := match s.lastHalf tk with
    | none => 0
    | some g => 1 - g
  let done (t : State) : State := (t.takeId.releaseReads tk).updSlot tk fun x =>
    { (x.updTask fun k => { k with
        basteDue := false, ckAge := 0, wroteCh := [], atomLog := [], ckId := s.ids, passed := k.repeats
        tails := k.tails.map fun e => (e.1, s.writerTail tk e.1 e.2) }) with st := .ready }
  match s.halfKey tk h 0x1FF8 with
  | none => (s.updSlot tk fun x => { x.updTask fun k => { k with basteDue := false, ckAge := 0 } with st := .ready })
  | some k =>
    let x := s.slot tk
    let range := s.basteRange tk
    let tails := x.task.wroteCh.map fun ch => word (s.writerTail tk ch 0)
    let s1 := (s.noteGuard tk k).wr8 k 0
    let s2 := s1.halfWrite tk h 0 2 (s.image tk pc)
    let s3 := match s2.halfKey tk h 0x1200 with
      | none => s2
      | some j => s2.wrBytes j (words (word x.sr.basteSeq.toNat :: tails))
    let s4 := s3.halfWrite tk h 0x2000 (range.2 / 4096) (s.rangeBytes tk range.1 (range.2 / 4096))
    let n := x.sr.basteCount + 1#16
    let s5 := s4.wr8 k (word (2 ^ 63 + n.toNat))
    done (s5.updSlot tk fun y => y.updSr fun r => { r with basteCount := n })

/-- The waits of a checkpoint are over: every count zero, no register write pending, and the guarding quad's clock running (R383). -/
def State.mayBaste (s : State) (tk : Nat) : Bool :=
  let range := s.basteRange tk
  (s.slot tk).cnt.zero && s.noPending tk && (s.guardOf tk).all (fun g => !s.clockStopped (regionOf g))
    && (List.range (range.2 / 4096)).all fun i => !s.owned (s.localKey tk (range.1 + 4096 * i)) 4096

/-- BASTE (R369). -/
def execBaste (s : State) : Res :=
  runHead {} s fun _ t =>
    if t.me.optimistic then .trap 0x02 0
    else if !basteEn t.me.sr.bastecfg then .next t
    else if !t.mayBaste t.cur then .block .drained
    else .next (t.checkpoint t.cur t.me.nextPc)

/-- A checkpoint is due in place of the next issue (R369): asked for, or its interval has passed. -/
def Slot.basteNow (x : Slot) : Bool :=
  let ivl := basteIvl x.sr.bastecfg
  x.bst && decide (x.op = .none) && (x.task.basteDue || (decide (ivl ≠ 0) && decide (ivl * 1024 ≤ x.task.ckAge)))

/-- BASTE_INTERVAL_EXPIRY (R369): the implied BASTE, once its wait ends; its PC is the head that would have issued. -/
def execBasteIntervalExpiry (tk : Nat) (s : State) : Res :=
  unitEvent (slotOk tk) tk s (
    let x := s.slot tk
    let up := match x.st with
      | .ready | .blocked _ => true
      | _ => false
    if !(up && x.basteNow) || s.stopped tk then none
    else if s.mayBaste tk then some (s.checkpoint tk x.pc)
    else some (s.updSlot tk fun y => { y with st := .blocked .drained }))

/-- BASTECFG_ENABLE (R368): what a write that sets EN does. -/
def execBastecfgEnable (tk : Nat) (v : Word) (s : State) : Res :=
  unitEvent (slotOk tk) tk s (
    if basteEn v && decide ((s.slot tk).st ≠ .free) then some (s.basteEnable tk (basteWord v true)) else none)

/-- BASTECFG_DISABLE (R370). -/
def execBastecfgDisable (tk : Nat) (s : State) : Res :=
  unitEvent (slotOk tk) tk s (do
    let x := s.slot tk
    let v ← x.task.disabling
    if x.cnt.stcS = 0 ∧ x.cnt.stcP = 0 then pure (s.basteDisable tk v) else none)

/-- A sender by its panel and partition-relative thread, from the header (R347, R370). -/
def Msg.sender (m : Msg) : Nat := fld m.hdr 48 9 * 65536 + fld m.hdr 32 16

/-- An earlier message of the same sender to the same core is still on its way (R347). -/
def State.msgBefore (s : State) (m : Msg) : Bool :=
  s.msgs.any fun x => decide (x.id < m.id ∧ x.dst = m.dst ∧ x.sender = m.sender ∧ x.peer = m.peer ∧ x.st ≠ .accepted)

/-- FREE_NOTICE_ARRIVAL (R370): the receiving core forgets the sender, be its context swapped out (R384). -/
def execFreeNoticeArrival (id : Nat) (s : State) : Res :=
  event s (do
    let m ← s.msgs.find? fun m => decide (m.id = id ∧ m.peer = false) && m.notice
    if s.msgBefore m then none
    else
      let t : State := { s with msgs := s.msgs.filter fun x => decide (x.id ≠ id) }
      pure (t.updCoreIn m.pid m.dst fun c => { c with senders := c.senders.filter fun e => decide (e.1 ≠ m.sender) }))

/-! ## Resumption on a substitute (R373, step 7) -/

/-- The channels that the resumed slot writes, cached at the substitute with the checkpoint's TAILs (R370). -/
def State.resumeTails (s : State) (tk old : Nat) (tails : List (Nat × Nat)) : State :=
  tails.foldl (fun t e =>
    let pid := t.pidOf tk
    let qi := quadOf tk
    match t.chanAt qi pid e.1 with
    | some c => t.setChan qi { c with wtail := e.2, closed := false }
    | none => match t.chanAt (quadOf old) pid e.1 with
      | some c => t.touchChan qi { c with wtail := e.2, ring := none, closed := false }
      | none => t) s

/-- HEAD of the channels that the resumed slot reads goes back to KEEP (R293). -/
def State.resumeHeads (s : State) (tk : Nat) : State :=
  let pid := s.pidOf tk
  let n := s.relThread tk
  s.updQuad (quadOf tk) fun q =>
    { q with chans := q.chans.map fun (e : ChanEnt) => if e.pid = pid ∧ e.reader = n then { e with head := e.keep } else e }

/-- BASTED_SLOT_RESUME (R373): the slot of the failed quad comes back at the same core and slot of the substitute, from
its last valid checkpoint, with its basted range where its share did not survive. -/
def execBastedSlotResume (tk : Nat) (s : State) : Res :=
  unitEvent (slotOk tk) tk s (do
    let from_ ← (s.quad (quadOf tk)).replaces
    let old := from_ * 32 + tk % 32
    let x := s.slot old
    if (s.slot tk).st ≠ .free ∨ x.bst = false ∨ x.st = .free then none
    else
      -- the area is found through the slot's new place, whose configuration is the old slot's
      let t := s.updSlot tk fun y => { y with sr := { y.sr with bastecfg := x.sr.bastecfg, basteCount := x.sr.basteCount } }
      let h ← t.lastHalf tk
      let k ← t.halfKey tk h 0
      let range := t.basteRange tk
      let hdr := match x.task.handle with
        | none => []
        | some hd => (t.launchRec (t.pidOf tk) hd).hdr
      let y := t.slotOfImage k (t.slot tk) hdr ((t.part (t.pidOf tk)).guardQuad (t.pOf tk)).isSome
      let n := range.2 / 4096
      -- a share that survives keeps its bytes; else the range comes from the checkpoint (R373 step 6, R374)
      let t1 := if (s.quad from_).st = .memoryOnly then t else (List.range n).foldl (fun u i => match u.halfKey tk h (0x2000 + 4096 * i) with
        | none => u
        | some j => u.wrBytes (u.localKey tk (range.1 + 4096 * i)) (u.rdBytes j 4096)) t
      let cached (ch : Nat) : Bool := (t1.chanAt (quadOf tk) (t1.pidOf tk) ch).isSome || (t1.chanAt from_ (t1.pidOf tk) ch).isSome
      let t2 := t1.draw.setSlot tk { y with task := { y.task with tails := x.task.tails, lastTail := x.task.tails
                                                                  replay := x.task.tails.filter fun e => !cached e.1
                                                                  msgTo := x.task.msgTo, atomLog := x.task.atomLog
                                                                  passed := x.task.passed, repeats := x.task.passed
                                                                  piece := x.task.piece, prio := x.task.prio, allot := x.task.allot } }
      pure (((t2.resumeTails tk old x.task.tails).resumeHeads tk).setSlot old { faultTag := x.faultTag + 1 }))

end Sys2Proof.Machine
end

