-- ==== Sys2Proof/Machine/Control.lean ====
section
/-! DEFINITION. Control transfer, majors 0x38 to 0x46 (R43, R44, R57, R102 to R105). -/

namespace Sys2Proof.Machine

/-- The 256-entry branch trace of a core: taken transfers, the newest last (R103, R380). -/
def State.traced (s : State) (target : Word) (isRet : Bool) : State :=
  s.updMyCore fun c =>
    let tr := c.trace ++ [(target, isRet)]
    { c with trace := tr.drop (tr.length - 256) }

/-- A transfer of control to a target. -/
def jumpTo (s : State) (target : Word) (isRet : Bool) : Act := .goto (s.traced target isRet) target

/-- The target of the head at the PC (R43). -/
def State.target {n : Nat} (s : State) (off : BitVec n) (idx : BitVec 5) : Word := branchTarget s.me.pc (sext off) idx

/-- A branch: taken to the target, else the next head (R102). -/
def branch (rs : List Reg) (cond : (Reg → Word) → Bool) (target : Word) (s : State) : Res :=
  runHead { rd := rs } s fun v t => if cond v then jumpTo t target false else .next t

/-- CALL: the link is the PC of the next head in sequence (R57, R103). -/
def callTo (d : Reg) (target : Word) (s : State) : Res :=
  runHead { wr := [d] } s fun _ t =>
    match put t d s.me.nextPc 3 with
    | .next u => jumpTo u target false
    | a => a

/-- LOOP: n := d − 1, and a branch while it is not 0 (R104). -/
def loopTo (d : Reg) (target : Word) (s : State) : Res :=
  runHead { rd := [d], wr := [d] } s fun v t =>
    let n := v d - 1#64
    match put t d n 3 with
    | .next u => if condNonzero n then jumpTo u target false else .next u
    | a => a

/-- A register jump: an odd address traps at the jump (R44). -/
def jumpReg (d : Reg) (isRet : Bool) (s : State) : Res :=
  runHead { rd := [d] } s fun v t =>
    if (v d).getLsbD 0 then .trap 0x04 (v d) else jumpTo t (v d) isRet

/-- BR (R102). -/
def execBr (off : BitVec 15) (idx : BitVec 5) (s : State) : Res :=
  branch [] (fun _ => true) (s.target off idx) s
/-- BR (R102). -/
def execBrLong (off : BitVec 37) (idx : BitVec 5) (s : State) : Res :=
  branch [] (fun _ => true) (s.target off idx) s
/-- BEQ (R102). -/
def execBeq (a b : Reg) (off : BitVec 15) (idx : BitVec 5) (s : State) : Res :=
  branch [a, b] (fun v => condEq (v a) (v b)) (s.target off idx) s
/-- BNE (R102). -/
def execBne (a b : Reg) (off : BitVec 15) (idx : BitVec 5) (s : State) : Res :=
  branch [a, b] (fun v => condNe (v a) (v b)) (s.target off idx) s
/-- BLT (R102). -/
def execBlt (a b : Reg) (off : BitVec 15) (idx : BitVec 5) (s : State) : Res :=
  branch [a, b] (fun v => condLt (v a) (v b)) (s.target off idx) s
/-- BGE (R102). -/
def execBge (a b : Reg) (off : BitVec 15) (idx : BitVec 5) (s : State) : Res :=
  branch [a, b] (fun v => condGe (v a) (v b)) (s.target off idx) s
/-- BLTU (R102). -/
def execBltu (a b : Reg) (off : BitVec 15) (idx : BitVec 5) (s : State) : Res :=
  branch [a, b] (fun v => condLtu (v a) (v b)) (s.target off idx) s
/-- BGEU (R102). -/
def execBgeu (a b : Reg) (off : BitVec 15) (idx : BitVec 5) (s : State) : Res :=
  branch [a, b] (fun v => condGeu (v a) (v b)) (s.target off idx) s
/-- BZ (R102). -/
def execBz (a : Reg) (off : BitVec 15) (idx : BitVec 5) (s : State) : Res :=
  branch [a] (fun v => condZero (v a)) (s.target off idx) s
/-- BZ (R102). -/
def execBzLong (a : Reg) (off : BitVec 37) (idx : BitVec 5) (s : State) : Res :=
  branch [a] (fun v => condZero (v a)) (s.target off idx) s
/-- BNZ (R102). -/
def execBnz (a : Reg) (off : BitVec 15) (idx : BitVec 5) (s : State) : Res :=
  branch [a] (fun v => condNonzero (v a)) (s.target off idx) s
/-- BNZ (R102). -/
def execBnzLong (a : Reg) (off : BitVec 37) (idx : BitVec 5) (s : State) : Res :=
  branch [a] (fun v => condNonzero (v a)) (s.target off idx) s
/-- CALL (R103). -/
def execCall (d : Reg) (off : BitVec 15) (idx : BitVec 5) (s : State) : Res :=
  callTo d (s.target off idx) s
/-- CALL (R103). -/
def execCallLong (d : Reg) (off : BitVec 37) (idx : BitVec 5) (s : State) : Res :=
  callTo d (s.target off idx) s
/-- CALLR (R103): an odd target traps and the link is not written (R44). -/
def execCallr (d a : Reg) (s : State) : Res :=
  runHead { rd := [a], wr := [d] } s fun v t =>
    if (v a).getLsbD 0 then .trap 0x04 (v a) else
    match put t d s.me.nextPc 3 with
    | .next u => jumpTo u (v a) false
    | x => x
/-- RET (R103): marked as a return in the branch trace. -/
def execRet (d : Reg) (s : State) : Res := jumpReg d true s
/-- JR (R103). -/
def execJr (d : Reg) (s : State) : Res := jumpReg d false s
/-- LOOP (R104). -/
def execLoop (d : Reg) (off : BitVec 15) (idx : BitVec 5) (s : State) : Res :=
  loopTo d (s.target off idx) s
/-- LOOP (R104). -/
def execLoopLong (d : Reg) (off : BitVec 37) (idx : BitVec 5) (s : State) : Res :=
  loopTo d (s.target off idx) s
/-- YIELD (R105): only its spacing of 8. -/
def execYield (s : State) : Res := runHead {} s fun _ t => .next t

end Sys2Proof.Machine
end

