-- ==== Sys2Proof/Machine/Tasks.lean ====
section
/-! DEFINITION. Tasks and launches (R294 to R308, R317 to R324): headers and records, placement, run lists and binding,
dependence cells, majors 0x84 to 0x8B. -/

namespace Sys2Proof.Machine

/-! ## The key ring (R29, R30, R301) -/

/-- hash(key) (R301). -/
def ringHash (key : Word) : Nat :=
  let x1 := (key ^^^ (key >>> 31)) * 0x9E3779B97F4A7C15#64
  let x2 := (x1 ^^^ (x1 >>> 29)) * 0xD6E8FEB86659FD93#64
  fld (x2 ^^^ (x2 >>> 32)) 0 32

/-- The points of a ring: position, tag, partition-logical quad (R301). -/
def ringPoints (ring : List (Nat × Nat)) : List (Nat × Nat × Nat) :=
  ring.flatMap fun m => (List.range 16).map fun i => (ringHash (word (0x5A5A000000000000 + m.2 * 16 + i)), m.2, m.1)

/-- The home of a key (R30): the first point at or after its hash, clockwise; the lower tag owns a shared position. -/
def keyHome (ring : List (Nat × Nat)) (key : Word) : Nat :=
  let h := ringHash key
  let dist (p : Nat) : Nat := (p + 2 ^ 32 - h) % 2 ^ 32
  match ringPoints ring with
  | [] => 0
  | p :: ps => (ps.foldl (fun b x => if dist x.1 < dist b.1 ∨ (dist x.1 = dist b.1 ∧ x.2.1 < b.2.1) then x else b) p).2.2

/-! ## Launch headers (R296, R297) -/

def hdrPlace (h : List Word) : Nat := fld (hdrWord h 3) 38 2
def hdrPlaceArg (h : List Word) : Nat := fld (hdrWord h 3) 40 24
def hdrPrio (h : List Word) : Nat := fld (hdrWord h 3) 36 2
def hdrSpa (h : List Word) : Nat := fld (hdrWord h 4) 16 19
/-- Bytes of effect allowance: none for a pinned launch. -/
def hdrEff (h : List Word) : Nat := if hdrPin h then 0 else fld (hdrWord h 4) 35 13 * 16

/-- The rectangle of placement 0, as columns and rows of the partition. -/
def hdrRect (pt : Part) (arg : Nat) : Nat × Nat × Nat × Nat :=
  if bitsAt arg 11 7 = 0 then (0, 0, pt.w, pt.h) else (bitsAt arg 0 6, bitsAt arg 6 5, bitsAt arg 11 7, bitsAt arg 18 6)

/-- The live quads of a rectangle, in partition-logical order (R300). -/
def State.rectQuads (s : State) (pid arg : Nat) : List Nat :=
  let pt := s.part pid
  let r := hdrRect pt arg
  (List.range (pt.w * pt.h)).filter fun p =>
    decide (r.1 ≤ p % pt.w ∧ p % pt.w < r.1 + r.2.2.1 ∧ r.2.1 ≤ p / pt.w ∧ p / pt.w < r.2.1 + r.2.2.2) && s.liveQuad pid p

/-- The arena of a header, in bytes of the share (R296). -/
def State.arena (s : State) (qi pid : Nat) (h : List Word) : Nat × Nat :=
  (fld (hdrWord h 4) 48 8 * 65536,
    if fld (hdrWord h 4) 56 8 = 0 then s.reservedTop qi pid else fld (hdrWord h 4) 56 8 * 65536)

/-- Divisible fields' places are 1 to d, each once (R297, reason 4). -/
def ordsOk (h : List Word) : Bool :=
  let os := ((List.range (hdrNf h)).map fun n => hdrOrd h n).filter fun o => decide (o ≠ 0)
  (List.range os.length).all fun i => decide ((os.filter fun o => decide (o = i + 1)).length = 1)

/-- The first failing check of R297, 0 when all pass. Reason 10 for the other fields that R296 wants zero, and no reason 6 for the ignored
EFA of a pinned header, are the model's choices (log entry 156). -/
def State.hdrReason (s : State) (qi pid : Nat) (h : List Word) (override tile : Option Word) : Nat :=
  let pt := s.part pid
  let nf := hdrNf h
  let fs := List.range nf
  let total := (fs.map fun n => hdrWidth h n).sum
  let entry := hdrWord h 0
  let ar := s.arena qi pid h
  let place := hdrPlace h
  let arg := hdrPlaceArg h
  let r := hdrRect pt arg
  let w6 := hdrWord h 6
  let c := hdrWord h 7
  let dep := fld w6 0 32
  if nf = 0 ∨ 6 < nf then 1
  else if !(fs.all fun n => decide (1 ≤ hdrWidth h n ∧ hdrWidth h n ≤ 64)) || decide (64 < total)
      || !((List.range 6).all fun n => decide (n < nf) || decide (hdrDesc h n = 0)) then 2
  else if 2 ^ total ≤ (hdrWord h 1).toNat then 3
  else if !ordsOk h || !(fs.all fun n => decide (hdrDesc h n % 64 ≤ hdrWidth h n)) then 4
  else if entry.getLsbD 0 || !mustBeZero entry || !(decide (space entry = 2) || decide (space entry = 0 ∧ window entry = 0)) then 5
  else if fld (hdrWord h 4) 0 6 = 0 ∨ 32 < fld (hdrWord h 4) 0 6 ∨ 16 < fld (hdrWord h 4) 6 5 ∨ 0x40000 < hdrSpa h
      ∨ 65536 < hdrEff h ∨ ar.2 ≤ ar.1 ∨ s.reservedTop qi pid < ar.2 ∨ ar.2 - ar.1 < hdrSpa h * 64 then 6
  else if place = 3 ∨ (place = 0 ∧ (pt.w < r.1 + r.2.2.1 ∨ pt.h < r.2.1 + r.2.2.2 ∨ s.rectQuads pid arg = []))
      ∨ (place = 2 ∧ s.liveQuad pid (arg % 2048) = false) then 7
  else if dep ≠ 0 ∧ (s.liveQuad pid (fld w6 32 11) = false ∨ pt.spsize < fld w6 44 20 * 16 + 16) then 8
  else if c ≠ 0 ∧ (space c ≠ 1 ∨ window c ≠ 0 ∨ mustBeZero c = false ∨ aliasBit c = true ∨ c.toNat % 16 ≠ 0
      ∨ s.liveQuad pid (pField c) = false ∨ pt.spsize < offset c + 16) then 9
  else if fld (hdrWord h 4) 12 4 ≠ 0 ∨ fld (hdrWord h 5) 48 16 ≠ 0 ∨ fld w6 43 1 ≠ 0
      ∨ (place = 0 ∧ bitsAt arg 11 7 = 0 ∧ arg ≠ 0) ∨ (place = 1 ∧ arg ≠ 0) ∨ (place = 2 ∧ 2048 ≤ arg)
      ∨ (dep = 0 ∧ fld w6 32 32 ≠ 0) then 10
  else match override, tile with
    | some o, _ => if 2048 ≤ o.toNat ∨ s.liveQuad pid o.toNat = false then 11 else 0
    | none, some t =>
      if 2 ^ total ≤ t.toNat ∨ (fs.all fun n => decide (hdrField h t n < hdrExt h n)) = false then 12 else 0
    | none, none => 0

/-! ## Placement (R300, R318) -/

/-- The whole domain of a header, a piece. -/
def hdrWhole (h : List Word) : Piece :=
  { org := List.replicate (hdrNf h) 0, cnt := (List.range (hdrNf h)).map fun n => hdrExt h n }

/-- The field whose ORD is 1. -/
def hdrFirst (h : List Word) : Option Nat := (List.range (hdrNf h)).find? fun n => decide (hdrOrd h n = 1)

/-- A piece of the domain that covers field f from a to b. -/
def hdrSpan (h : List Word) (f a b : Nat) : Piece :=
  { org := (List.replicate (hdrNf h) 0).set f a, cnt := (hdrWhole h).cnt.set f (b - a) }

/-- The pieces of a launch and their partition-logical quads (R300). -/
def State.pieces (s : State) (pid : Nat) (h : List Word) (override : Option Nat) : List (Nat × Piece) :=
  match override, hdrPlace h, hdrFirst h with
  | some p, _, _ => [(p, hdrWhole h)]
  | none, 0, none => [((s.rectQuads pid (hdrPlaceArg h)).headD 0, hdrWhole h)]
  | none, 0, some f =>
    let qs := s.rectQuads pid (hdrPlaceArg h)
    let g := hdrGrain h f
    let u := (hdrExt h f + g - 1) / g
    (qs.zipIdx.map fun q =>
      (q.1, hdrSpan h f (g * (u * q.2 / qs.length)) (Nat.min (hdrExt h f) (g * (u * (q.2 + 1) / qs.length))))).filter fun x =>
        decide (0 < x.2.cnt.getD f 0)
  | none, 1, none => [(keyHome (s.part pid).ring 0, hdrWhole h)]
  | none, 1, some f =>
    let g := hdrGrain h f
    (List.range ((hdrExt h f + g - 1) / g)).map fun i =>
      let x := hdrSpan h f (g * i) (Nat.min (hdrExt h f) (g * (i + 1)))
      (keyHome (s.part pid).ring (hdrPack h x.org), x)
  | none, _, _ => [(hdrPlaceArg h % 2048, hdrWhole h)]

/-- The one tile of a spawn at the quad that the placement gives it within the full domain (R318). -/
def State.tilePiece (s : State) (pid : Nat) (h : List Word) (t : Word) : List (Nat × Piece) :=
  let org := (List.range (hdrNf h)).map fun n => hdrField h t n
  let one : Piece := { org, cnt := List.replicate (hdrNf h) 1 }
  match hdrPlace h, hdrFirst h with
  | 1, some f =>
    let g := hdrGrain h f
    [(keyHome (s.part pid).ring (hdrPack h ((List.replicate (hdrNf h) 0).set f (org.getD f 0 / g * g))), one)]
  | 0, some f =>
    ((s.pieces pid h none).filter fun x =>
      decide (x.2.org.getD f 0 ≤ org.getD f 0 ∧ org.getD f 0 < x.2.org.getD f 0 + x.2.cnt.getD f 0)).map fun x => (x.1, one)
  | _, _ => (s.pieces pid h none).map fun x => (x.1, one)

/-- Tiles of a piece. -/
def Piece.tiles (p : Piece) : Nat := p.cnt.foldl (· * ·) 1

/-- Places the pieces of a record, which counts them as unfinished: every tile of a pinned launch (R299, R300). -/
def State.placeRec (s : State) (pid : Nat) (handle : Word) : State :=
  let r := s.launchRec pid handle
  let ps := match r.tile with
    | some t => s.tilePiece pid r.hdr t
    | none => s.pieces pid r.hdr r.override
  let n := if hdrPin r.hdr then (ps.map fun x => x.2.tiles).sum else ps.length
  s.takeId.updRec pid handle fun r => { r with waiting := ps, unfinished := n, seq := s.ids }

/-! ## Acceptance (R298, R317, R318) -/

/-- A free launch record of a quad's engine for a context (R298). -/
def State.freeRec (s : State) (qi pid : Nat) : Option Nat :=
  let recs := (s.quad qi).recs
  if 256 ≤ recs.length then none else (List.range 256).find? fun i => !(recs.any fun e => decide (e.1 = pid * 256 + i))

/-- The key of the dependence cell that a header names (R296, R308). -/
def State.hdrCell (s : State) (pid : Nat) (hdr : List Word) : Option Nat :=
  if fld (hdrWord hdr 6) 0 32 = 0 then none else s.shareKey pid (fld (hdrWord hdr 6) 32 11) (fld (hdrWord hdr 6) 44 20 * 16)

/-- The engine's answer to a header: a status of R317, with the state after it. -/
def State.submit (s : State) (r : LaunchReq) (hdr : List Word) : Word × State :=
  let why := s.hdrReason r.quad r.pid hdr r.override r.tile
  if why ≠ 0 then (word (2 + why * 256), s)
  else match s.freeRec r.quad r.pid with
    | none => (1, s)
    | some i =>
      let p := s.pAt r.quad r.pid
      let handle := word (p * 65536 + i)
      let lr : LaunchRec := { hdr, override := r.override.map fun o => o.toNat % 2048, tile := r.tile, pid := r.pid, unfinished := 1 }
      let s1 := s.updQuad r.quad fun q => { q with recs := FMap.set {} q.recs (r.pid * 256 + i) lr }
      match s.hdrCell r.pid hdr with
      | none => (word (handle.toNat * 65536), s1.placeRec r.pid handle)
      | some k =>
        if (s.rd8 k).getLsbD 63 then (4, s)
        else (word (handle.toNat * 65536),
          (s1.wr8 k (word (2 ^ 63 + fld (hdrWord hdr 6) 0 32))).wr8 (k + 8) handle)

/-- The header's words: a local one lies in the share that the engine's own quad gives the partition. -/
def State.readHeader (s : State) (r : LaunchReq) : Except EngErr (List Word) :=
  if space r.hdr = 0 then
    .ok ((List.range 8).map fun i => s.rd8 (s.localKeyIn r.pid r.quad (offset r.hdr) + 8 * i))
  else s.engineWords (r.thr.getD (r.quad * 32)) r.pid r.hdr 8

/-- What the reading of a header leaves in the TLBs (R204). -/
def State.headerFill (s : State) (r : LaunchReq) : State :=
  if space r.hdr = 0 then s else s.engineFill (r.thr.getD (r.quad * 32)) r.pid permR r.hdr 64

def State.dropLaunch (s : State) (id : Nat) : State := { s with launches := s.launches.filter fun x => decide (x.id ≠ id) }

/-- A launch of a slot or of the host is answered (R298, R317). -/
def State.answerLaunch (s : State) (r : LaunchReq) (d : Word) : State :=
  match r.thr with
  | some tk => s.answer tk d
  | none => s.updVf (s.part r.pid).vf fun v => { v with lstat := d }

/-- LAUNCH_ACCEPT (R298, R317): a header read that fails translation is handed back: to a slot by its record, to a
virtual function by its event queue. -/
def execLaunchAccept (id : Nat) (s : State) : Res :=
  event s (do
    let r ← s.launches.find? fun r => decide (r.id = id) && !r.spawn
    match r.back, r.thr with
    | some fault, some tk =>
      if !s.runs r.pid tk then none
      else if (s.slot tk).st = .free then pure (s.dropLaunch id)
      else (s.handback tk 4 [r.hdr] fault.1 false fault.2.2 fault.2.1).map fun t => t.dropLaunch id
    | some fault, none =>
      let m : Svc := { kind := 0x0F, info := r.hdr, w2 := fault.1 }
      pure ((s.dropLaunch id).evqPush (s.part r.pid).vf (m.bytes r.pid))
    | none, _ =>
      match s.readHeader r with
      | .ok hdr =>
        let a := (s.headerFill r).submit r hdr
        pure ((a.2.dropLaunch id).answerLaunch r a.1)
      | .error .owned => none
      | .error (.xlate _) =>
        let e := s.engineFault (r.thr.getD (r.quad * 32)) r.pid permR r.hdr 64
        let fault := (e.1, s.reasonOf e.2)
        let t : State := { s with launches := s.launches.map fun x => if x.id = id then { x with back := some fault } else x }
        pure (t.answerLaunch r 3)
      | .error _ => pure ((s.dropLaunch id).answerLaunch r 5))

/-- EINFO of a spawn's refusal, none when it was accepted (R318). -/
def spawnRefusal (d : Word) : Option Word :=
  match fld d 0 8 with
  | 0 => none
  | 1 => some 0xFF
  | 2 => some (word (fld d 8 8))
  | 3 => some 0xFE
  | 4 => some 0xFC
  | _ => some 0xFD

/-- SPAWN_ACCEPT (R318). -/
def execSpawnAccept (id : Nat) (s : State) : Res :=
  event s (do
    let r ← s.launches.find? fun r => decide (r.id = id) && r.spawn
    let tk ← r.thr
    let a ← match s.readHeader r with
      | .ok hdr => some ((s.headerFill r).submit r hdr)
      | .error .owned => none
      | .error (.xlate _) => some (3, s)
      | .error _ => some (5, s)
    let s1 := a.2.dropLaunch id
    let s2 := if r.counted then s1.endCount tk 1 else s1
    match spawnRefusal a.1 with
    | none => pure s2
    | some info =>
      pure (if r.counted then s2.postOrReport tk 0x02 info r.pc
        else s2.drainDeny id 0x02 info))

/-! ## Run lists and binding (R302 to R306) -/

def Quad.list (q : Quad) (pid prio : Nat) : List Entry := FMap.get [] q.lists (pid * 4 + prio)
def Quad.setList (q : Quad) (pid prio : Nat) (es : List Entry) : Quad := { q with lists := FMap.set [] q.lists (pid * 4 + prio) es }
/-- List entries that a context uses (R302). -/
def Quad.entries (q : Quad) (pid : Nat) : Nat := ((List.range 4).map fun n => (q.list pid n).length).sum

/-- PIECE_ENQUEUE (R302): the first waiting piece of a record whose quad has an entry free, and for whose quad no earlier
piece of the engine waits, enters the tail of its list. Of 4,096 entries, 64 are kept for rips. -/
def execPieceEnqueue (qi rec : Nat) (s : State) : Res :=
  unitEvent (quadOk qi) qi s (
    let r := FMap.get {} (s.quad qi).recs rec
    let earlier (p : Nat) : Bool := (s.quad qi).recs.any fun e =>
      decide (e.2.pid = r.pid ∧ e.2.seq < r.seq) && e.2.waiting.any fun w => decide (w.1 = p)
    let fits (w : Nat × Piece) : Bool := !earlier w.1 && (match s.physQuad r.pid w.1 with
      | none => false
      | some d => decide ((s.quad d).entries r.pid < 4032))
    match r.waiting.find? fits with
    | none => none
    | some w =>
      (s.physQuad r.pid w.1).map fun d =>
        let p := s.pAt qi r.pid
        let e : Entry := { handle := word (p * 65536 + rec % 256), piece := w.2, since := (s.region (regionOf d)).cycle }
        let prio := hdrPrio r.hdr
        (s.updQuad d fun q => q.setList r.pid prio (q.list r.pid prio ++ [e])).updQuad qi fun q =>
          { q with recs := FMap.set {} q.recs rec { r with waiting := r.waiting.erase w } })

/-- The slot may be bound (R303). -/
def State.bindable (s : State) (tk : Nat) : Bool :=
  decide ((s.slot tk).st = .free) && (s.slot tk).cnt.zero && s.noPending tk && !s.stopped tk

/-- Slots of a core that are bound. -/
def State.boundSlots (s : State) (ck : Nat) : Nat :=
  ((List.range 8).filter fun n => decide ((s.slot (ck * 8 + n)).st ≠ .free)).length

/-- The slot that a bind takes (R303): on the core with the fewest bound slots, the service core left out. -/
def State.bindSlot (s : State) (qi : Nat) : Option Nat :=
  let svc := s.svcCore (s.ctx qi).pid
  let cores := (List.range 4).filter fun c => decide (svc ≠ some (qi * 4 + c))
    && (List.range 8).any fun n => s.bindable ((qi * 4 + c) * 8 + n)
  let best := cores.foldl (fun b c => match b with
    | none => some c
    | some d => if s.boundSlots (qi * 4 + c) < s.boundSlots (qi * 4 + d) then some c else some d) none
  best.bind fun c => ((List.range 8).map fun n => (qi * 4 + c) * 8 + n).find? fun tk => s.bindable tk

/-- Bytes of a quad's effect buffer in use (R303, R304). -/
def State.effectUse (s : State) (qi : Nat) : Nat :=
  ((List.range 32).map fun n => (s.slot (qi * 32 + n)).task.effRes).sum
    + ((s.quad qi).drain.map fun d => (d.recs.map Effect.bytes).sum).sum

/-- An allotment for a header, first-fit in its arena: its first unit (R303). -/
def State.allotFor (s : State) (qi pid : Nat) (h : List Word) : Option Nat :=
  let ar := s.arena qi pid h
  let used := ((s.quad qi).allots.filter fun a => decide (a.1 = pid ∧ a.2.2 ≠ 0)).map fun a => (a.2.1, a.2.2)
  if hdrSpa h = 0 then some (ar.1 / 64) else firstFit (ar.1 / 64) (ar.2 / 64) (hdrSpa h) used

/-- The stagger budget of a region (R306): binds of the present step, against STEPLIM. -/
def Region.mayBind (r : Region) : Bool :=
  decide (r.steplim = 0#16) || decide (r.tcnt.toNat / 200 ≠ r.bindStep) || decide (r.binds < r.steplim.toNat)
def Region.bound (r : Region) : Region :=
  if r.tcnt.toNat / 200 = r.bindStep then { r with binds := r.binds + 1 } else { r with bindStep := r.tcnt.toNat / 200, binds := 1 }

/-- Tile i of a piece, in ascending order of packed work identifier (R300). -/
def tileOf (org cnt : List Nat) (i : Nat) : List Nat :=
  (((org.zip cnt).reverse.foldl (fun (acc : List Nat × Nat) oc => ((oc.1 + acc.2 % oc.2) :: acc.1, acc.2 / oc.2)) ([], i))).1

/-- The piece that an entry binds next: the whole of an optimistic one, one tile of a pinned one. -/
def Entry.next (e : Entry) (pin : Bool) : Piece :=
  if pin then { org := tileOf e.piece.org e.piece.cnt e.nextTile, cnt := List.replicate e.piece.org.length 1 } else e.piece

/-- A slot bound to a piece (R304). -/
def boundSlot (x : Slot) (h : List Word) (handle : Word) (piece : Piece) (prio unit : Nat) : Slot :=
  let cyc := fld (hdrWord h 5) 0 48
  { x with
    st := .ready, pc := hdrWord h 0, t := [], v := [], m := [], wake := false, hbWaiting := false, hbPending := false
    push := none, busy := [], async := [], op := .none, waited := 0, wdFired := false, chWaited := 0
    sr := { x.sr with
      regallot := word (fld (hdrWord h 4) 0 6 + fld (hdrWord h 4) 6 5 * 256 + fld (hdrWord h 4) 11 1 * 65536)
      spallot := word (unit + (unit + hdrSpa h) * 2 ^ 19 + unit * 2 ^ 38)
      allow := word (cyc + bit (decide (cyc = 0)) * 2 ^ 48)
      status := if hdrPin h then 0x20#64 else 0x10#64
      rngseed := 1 }
    task := { handle := some handle, piece, wid := hdrPack h piece.org, prio, allot := some (unit, hdrSpa h), effRes := hdrEff h } }

/-- The head of a list binds to a slot. -/
def State.bindEntry (s : State) (qi tk pid prio unit : Nat) (e : Entry) (h : List Word) : State :=
  let pin := hdrPin h
  let piece := e.next pin
  let rest := (s.quad qi).list pid prio |>.tail
  let left := if pin && decide (e.nextTile + 1 < e.piece.tiles) then { e with nextTile := e.nextTile + 1 } :: rest else rest
  ((s.updQuad qi fun q => { q.setList pid prio left with allots := q.allots ++ [(pid, unit, hdrSpa h)] }).updSlot tk fun x =>
    boundSlot x h e.handle piece prio unit).updRegion (regionOf qi) Region.bound

/-- TASK_BIND (R303): the cores of a quad try it in every cycle, before any of them issues in the next. -/
def execTaskBind (qi : Nat) (s : State) : Res :=
  unitEvent (quadOk qi) qi s (do
    let q := s.quad qi
    let pid := (s.ctx qi).pid
    let tk ← s.bindSlot qi
    let free := 65536 - s.effectUse qi
    let ready := [3, 2, 1, 0].findSome? fun prio => (q.list pid prio).head?.bind fun e =>
      let h := (s.launchRec pid e.handle).hdr
      if hdrEff h ≤ free then (s.allotFor qi pid h).map fun u => (prio, u, e, h) else none
    let b ← ready
    if (s.region (regionOf qi)).mayBind && !q.halted && !q.swapping && !q.contained && !(s.ctx qi).leaving then
      pure (s.bindEntry qi tk pid b.1 b.2.1 b.2.2.1 b.2.2.2)
    else none)

/-- RUN_LIST_PROMOTION (R305): after 2^20 cycles in its list an entry moves to the tail of the next higher one, in the lists of
the running context first. -/
def execRunListPromotion (qi list idx : Nat) (s : State) : Res :=
  unitEvent (quadOk qi) qi s ((s.quad qi).ctxs.findSome? fun c => do
    let q := s.quad qi
    let pid := c.pid
    let now := (s.region (regionOf qi)).cycle
    let e ← (q.list pid list)[idx]?
    if list < 3 ∧ e.since + 2 ^ 20 ≤ now then
      let q1 := q.setList pid list ((q.list pid list).eraseIdx idx)
      pure (s.setQuad qi (q1.setList pid (list + 1) (q1.list pid (list + 1) ++ [{ e with since := now }])))
    else none)

/-! ## Dependence cells (R308, R319, R320) -/

/-- READY_RING_PUSH (R308): room in a context's ring takes its oldest waiting record. -/
def execReadyRingPush (qi : Nat) (s : State) : Res :=
  unitEvent (quadOk qi) qi s (do
    let q := s.quad qi
    let k ← q.pendCells.find? fun k => q.readyRoom (s.sharePid k)
    pure ((s.wr8 k (setFld (s.rd8 k) 62 1 0)).setQuad qi { q with pendCells := q.pendCells.erase k, ready := q.ready ++ [(s.sharePid k, s.rd8 (k + 8))] }))

/-- READY_RECORD_PLACE (R308): the record is placed as if it had just been accepted. -/
def execReadyRecordPlace (qi : Nat) (s : State) : Res :=
  unitEvent (quadOk qi) qi s (do
    let r ← (s.quad qi).ready.head?
    let s1 := s.updQuad qi fun q => { q with ready := q.ready.tail }
    pure (if (s.launchRec r.1 r.2).hdr = [] then s1 else s1.placeRec r.1 r.2))

/-- DEP_CELL_DECREMENT (R319): a DEC that has arrived is performed at its cell. -/
def execDepCellDecrement (id : Nat) (s : State) : Res :=
  event s (do
    let f ← s.flight id
    match f.stage, f.op with
    | .atNI qi, .dec =>
      let k ← s.shareAt f.pid qi (offset f.addr) 16
      if s.flightOwned f k then none else pure (((s.decCell k).setStage id .ack).respond id qi)
    | _, _ => none)

/-- The address checks of DEC and TSET (R319, R320). -/
def State.cellCheck (s : State) (a : Word) : Check :=
  firstTrap [spaceCheck s.super a,
    failIf (!(decide (space a = 0) || decide (space a = 1)) || decide (window a ≠ 0)) 0x02 a,
    failIf (decide (a.toNat % 16 ≠ 0)) 0x04 a,
    if space a = 0 then s.localCheck s.cur permRW a 16 else none,
    s.remoteCheck s.myPid a]

/-- DEC (R319): a release at partition scope; held by an optimistic task. -/
def execDec (a : Reg) (s : State) : Res :=
  runHead { rd := [a] } s fun v t =>
    let x := v a
    memWait t 0 x ((t.cellCheck x).orElse
      (if t.me.optimistic then holdEffect t (.dec x)
      else if space x = 0 then
        let k := t.localKey t.cur (offset x)
        if !t.fenceOk .part then .block (.fence 3) else localWait t k 16 (.next (t.decCell k))
      else roomFor t 1 (.next ((t.addCount t.cur 1).launchFlight
        { id := 0, thr := t.cur, pid := t.myPid, addr := x, n := 16, op := .dec, ctr := 1, rel := true, scope := 3
          tag := t.me.faultTag }))))

/-- TSET (R320): the slot waits for the step; a cell that is not armed traps. -/
def execTset (a b : Reg) (s : State) : Res :=
  runReply { rd := [a, b] } s (fun v t =>
    let x := v a
    if t.me.optimistic then .trap 0x02 0
    else memWait t 0 x ((t.cellCheck x).orElse
      (if fld (v b) 32 32 ≠ 0 then .trap 0x02 (v b)
      else if !t.fenceOk .part then .block (.fence 3)
      else if space x = 0 then
        let k := t.localKey t.cur (offset x)
        localWait t k 16 (match t.tsetCell k (v b) with
          | none => .trap 0x02 x
          | some u => .next u)
      else .keep ((t.launchFlight { id := 0, thr := t.cur, pid := t.myPid, addr := x, n := 16, op := .tset (v b), ret := .op
                                    rel := true, scope := 3, tag := t.me.faultTag }).await))))
    (fun r t => if r = 0 then .next t else .trap 0x02 (r - 1))

/-! ## LAUNCH, SPAWN (R317, R318) -/

/-- The checks of a header's address (R317). -/
def State.headerCheck (s : State) (a : Word) : Check :=
  firstTrap ((List.range 8).map (fun i =>
      s.accessCheck permR (a + word (8 * i)) 8 8 (winSizeBad (window (a + word (8 * i))) 8))
    ++ [failIf (decide (2 < space a) || decide (window a ≠ 0)) 0x02 a, failIf (decide (a.toNat % 64 ≠ 0)) 0x04 a])

/-- LAUNCH (R317): a release; the slot waits for the engine's answer. -/
def execLaunch (d a b : Reg) (s : State) : Res :=
  runReply { rd := [a, b], wr := [d] } s (fun v t =>
    let x := v a
    if t.me.optimistic then .trap 0x02 0
    else memWait t 0 x ((t.headerCheck x).orElse
      (if !t.fenceOk .part then .block (.fence 3)
      else
        let r : LaunchReq := { id := t.ids, quad := quadOf t.cur, pid := t.myPid, hdr := x
                               override := if b.toNat = 0 then none else some (v b), thr := some t.cur, pc := t.me.pc }
        .keep ({ t.takeId with launches := t.launches ++ [r] }.await))))
    (fun v t => put t d v 3)

/-- SPAWN (R318): a release, posted; held by an optimistic task. -/
def execSpawn (a b : Reg) (s : State) : Res :=
  runHead { rd := [a, b] } s fun v t =>
    let x := v a
    let tile := if b.toNat = 0 then none else some (v b)
    memWait t 0 x ((t.headerCheck x).orElse
      (if t.me.optimistic then holdEffect t (.spawn x tile)
      else if !t.fenceOk .part then .block (.fence 3)
      else roomFor t 1
        (let r : LaunchReq := { id := t.ids, quad := quadOf t.cur, pid := t.myPid, hdr := x, tile, thr := some t.cur, spawn := true
                                counted := true, pc := s.me.pc }
        .next { (t.addCount t.cur 1).takeId with launches := t.launches ++ [r] })))

/-! ## DOMAIN, ALLOW, KEYHOME, SPLIT (R321 to R324) -/

/-- DOMAIN (R321). -/
def execDomain (sel : DomSel) (d : Reg) (n : BitVec 22) (s : State) : Res :=
  runHead { wr := [d] } s fun _ t =>
    let h := t.taskHdr t.cur
    let x := match sel with
      | .ext => if n.toNat < hdrNf h then word (hdrExt h n.toNat) else 0
      | .org => t.widField n.toNat
      | .cnt => if n.toNat < hdrNf h then word (t.me.task.piece.cnt.getD n.toNat 0) else 0
      | .nf => word (hdrNf h)
    put t d x 3

/-- ALLOW (R322). -/
def execAllow (sel : AllowSel) (d : Reg) (s : State) : Res :=
  runHead { wr := [d] } s fun _ t =>
    let r := t.me.sr
    let x := match sel with
      | .cyc => if r.allow.getLsbD 48 then BitVec.allOnes 64 else word (fld r.allow 0 48)
      | .sp => word (saLimit r.spallot * 64) - word (saTop r.spallot * 64)
      | .eff => if t.me.optimistic then word (t.me.task.effRes - t.me.task.heldBytes) else 0
      | .reg => r.regallot
    put t d x 3

/-- KEYHOME (R323). -/
def execKeyhome (d a : Reg) (s : State) : Res :=
  runHead { rd := [a], wr := [d] } s fun v t => put t d (word (keyHome t.myPart.ring (v a))) 8

/-- SPLIT (R324). -/
def execSplit (s : State) : Res :=
  runHead {} s fun _ t =>
    if !t.me.optimistic then .trap 0x02 0
    else if t.splittable t.cur then .keep (t.rip t.cur true) else .next t

end Sys2Proof.Machine
end

