-- ==== Sys2Proof/Machine/Messages.lean ====
section
/-! DEFINITION. Messages (R347 to R352): majors 0x8F to 0x92, the transmit and receive queues, c30 and c31. -/

namespace Sys2Proof.Machine

/-! ## Destinations (R337, R347, R348) -/

/-- Where a destination operand leads: the panel controller, a core of this panel by its key, a peer panel. -/
inductive Place where
  | ctl
  | core (ck : Nat)
  | peer (panel : Nat)
  deriving DecidableEq, Repr

def msgCtl (a : Word) : Bool := a.getLsbD 63
def msgStrm (a : Word) : Bool := a.getLsbD 36
def msgSid (a : Word) : Nat := fld a 24 12
def msgGca (a : Word) : Nat := fld a 0 24

/-- Reserved bits of a destination operand that are not zero (R347). -/
def msgBad (a : Word) : Bool :=
  decide (fld a 37 26 ≠ 0) || (msgCtl a && decide (fld a 0 37 ≠ 0)) || (!msgStrm a && decide (msgSid a ≠ 0)) || decide (fld a 22 2 ≠ 0)

/-- The route of a partition to a peer panel (R337, request 6). -/
def Part.hasRoute (p : Part) (panel : Nat) : Bool := p.routes.any fun r => decide (r.1 = panel)

/-- The place of a destination operand, none when it is refused (R348, check 3). -/
def State.msgPlace (s : State) (pid : Nat) (a : Word) : Option Place :=
  let panel := msgGca a / 8192
  if msgCtl a then some .ctl
  else if panel = s.panel.number then (s.coreOfGca pid (msgGca a)).map Place.core
  else if panel < 384 ∧ (s.part pid).hasRoute panel = true then some (.peer panel)
  else none

/-- A stream of a partition runs from a quad to another (R329). -/
def State.streamRuns (s : State) (pid sid src dst : Nat) : Bool :=
  (s.part pid).streams.any fun t =>
    decide (t.sid = sid ∧ s.physQuad pid t.src = some src ∧ s.physQuad pid t.dst = some dst)

/-- The stream that a destination operand names runs from the sending quad to the destination's. -/
def State.streamOk (s : State) (tk : Nat) (a : Word) (p : Place) : Bool :=
  match p with
  | .core ck => s.streamRuns (s.pidOf tk) (msgSid a) (quadOf tk) (quadOfCore ck)
  | _ => false

/-- Requests that only a supervisor may make (R337). -/
def ctlPrivileged (code : Nat) : Bool := decide (code = 1 ∨ code = 2 ∨ code = 6)

/-- Checks 1 to 4 of R348; `first` is word 0 of the payload. -/
def State.msgCheck (s : State) (a first : Word) : Check :=
  let p := s.msgPlace s.myPid a
  firstTrap [failIf (msgBad a) 0x02 a,
    failIf (msgCtl a && ctlPrivileged (fld first 0 8) && !s.super) 0x03 (word (fld first 0 8)),
    failIf p.isNone 0x07 a,
    failIf (msgStrm a && !s.streamOk s.cur a (p.getD .ctl)) 0x02 a]

/-- Check 5 of R348: `n` bytes of payload at a local address. -/
def State.payloadCheck (s : State) (p : Perm) (x : Word) (n : Nat) : Check :=
  firstTrap [spaceCheck s.super x, failIf (decide (space x ≠ 0 ∨ window x ≠ 0)) 0x02 x, failIf (decide (x.toNat % 8 ≠ 0)) 0x04 x,
    s.localCheck s.cur p x n, if p.wr then s.localWrite s.cur x n else none]

/-! ## The transmit queue (R348) -/

/-- The STC counter of a message: STC.S to a core of this panel, STC.P to a peer; a request to the controller has none. -/
def Place.ctr : Place → Nat
  | .ctl => 7
  | .core _ => 1
  | .peer _ => 3

/-- A message enters the transmit queue of its sender's core, with its count and a basted sender's number (R348, R370). -/
def State.post (s : State) (tk : Nat) (p : Place) (a tag : Word) (data : List Byte) (counted : Bool) (pc : Word) : State :=
  let x := s.slot tk
  let basted := x.bst && counted
  let numbered := basted && decide (p ≠ .ctl)
  let m : Msg :=
    { id := s.ids, hdr := msgHeader basted false data.length s.panel.number (s.relThread tk) tag, data, src := some tk
      seq := if numbered then some x.sr.basteSeq.toNat else none, dest := a
      dst := match p with
        | .core ck => ck
        | _ => 0
      pid := s.pidOf tk, sid := if msgStrm a then some (msgSid a) else none, counted := counted && decide (p ≠ .ctl)
      peer := match p with
        | .peer _ => true
        | _ => false
      pc }
  let s1 := s.takeId.updCore (coreOf tk) fun c => { c with txq := c.txq ++ [m] }
  let s2 := if m.counted then s1.addCount tk p.ctr else s1
  if numbered then s2.updSlot tk fun y => (y.updSr fun r => { r with basteSeq := r.basteSeq + 1 }).updTask fun t =>
    { t with msgTo := if t.msgTo.contains (msgGca a) then t.msgTo else t.msgTo ++ [msgGca a] }
  else s2

/-- Messages that a core's transmit queue holds. -/
def Core.txRoom (c : Core) : Bool := decide (c.txq.length < 8)

/-- A message leaves its core for its destination. -/
def State.depart (s : State) (ck : Nat) (m : Msg) : State :=
  if msgCtl m.dest then
    let w (n : Nat) : Word := word (ofBytes ((m.data.drop (8 * n)).take 8))
    { s with ctrl := s.ctrl ++ [{ id := m.id, thr := m.src.getD 0, pid := m.pid, tag := word (fld m.hdr 0 32), len := m.data.length, w0 := w 0, w1 := w 1 }] }
  else if m.peer then { s with msgs := s.msgs ++ [m] }
  else
    let s1 := s.takeId.inject (quadOfCore ck) (quadOfCore m.dst) m.pid (s.pAt (quadOfCore m.dst) m.pid) (flitsFor m.data.length) 0 m.sid
    { s1 with msgs := s1.msgs ++ [{ m with pkt := some (s.ids + 1) }] }

/-- A message stays in the transmit queue behind one that its destination has refused to its quad (R348). -/
def State.heldBack (s : State) (ck : Nat) (m : Msg) : Bool :=
  !msgCtl m.dest && !m.peer && s.msgs.any fun x =>
    decide (x.again ≠ 0 ∧ x.st ≠ .accepted ∧ x.dst = m.dst ∧ x.peer = false ∧ x.src.map quadOf = some (quadOfCore ck))

/-- The oldest entry of a core's transmit queue that may go leaves, one in a cycle; a contained quad sends nothing (R373). -/
def State.transmit (s : State) (ck : Nat) : State :=
  if (s.quad (quadOfCore ck)).contained then s
  else match (s.core ck).txq.find? fun m => !s.heldBack ck m with
    | none => s
    | some m => (s.updCore ck fun c => { c with txq := c.txq.erase m }).depart ck m

/-! ## MSEND (R348) -/

/-- What MSEND and MRECV name: the payload's register by kind. -/
def msgUse (k : ElemKind) (rd : List Reg) (b : Reg) (d : Reg) (recv : Bool) : Use :=
  match k with
  | .s => if recv then { rd, wr := [d, b] } else { rd := rd ++ [b], wr := [d] }
  | .v => { rd, wr := [d], vs := [vregOf b] }
  | .a => { rd := rd ++ [b], wr := [d] }

/-- Word 0 of a payload, for the level check: zero where the payload's own check will refuse it. -/
def State.firstWord (s : State) (k : ElemKind) (b : Reg) (v : Word) (n : Nat) : Word :=
  match k with
  | .s => v
  | .v => word ((s.vReg s.cur (vregOf b).toNat).toNat)
  | .a => if (s.payloadCheck permR v n).isNone then s.rd8 (s.localKey s.cur (offset v)) else 0

/-- MSEND (R348). -/
def execMsend (k : ElemKind) (d a b c : Reg) (len : BitVec 10) (s : State) : Res :=
  runHead (msgUse k [a, c] b d false) s fun g t =>
    let n := len.toNat
    (t.msgCheck (g a) (t.firstWord k b (g b) n)).orElse
      (Check.orElse (match k with
        | .a => t.payloadCheck permR (g b) n
        | _ => none)
        (if t.acquiring then .block .acquire
        else kindWait t k (g b) n <|
          let data := t.element k n b (g b)
          let p := (t.msgPlace t.myPid (g a)).getD .ctl
          if t.me.optimistic then
            (match holdEffect t (.msg (g a) (g c) data) with
            | .next u => put u d 0 3
            | x => x)
          else roomFor t p.ctr
            (if !t.myCore.txRoom then .block .txRoom
            else
              let u := t.post t.cur p (g a) (g c) data true s.me.pc
              put u d (word u.myCore.txq.length) 3)))

/-! ## Delivery (R347, R348, R370) -/

def State.dropMsg (s : State) (id : Nat) : State := { s with msgs := s.msgs.filter fun x => decide (x.id ≠ id) }
def State.setMsg (s : State) (m : Msg) : State := { s with msgs := s.msgs.map fun x => if x.id = m.id then m else x }

/-- The count of a message ends. -/
def State.endMsgCount (s : State) (m : Msg) : State :=
  match m.src with
  | some tk => if m.counted then s.endCount tk (if m.peer then 3 else 1) else s
  | none => s

/-- A full queue refuses a message: it is sent again after 256 cycles (R348). -/
def State.refuseMsg (s : State) (m : Msg) : State :=
  (s.dropPacket m.pkt).setMsg { m with st := .refused, pkt := none, again := (s.region (regionOf (quadOf (m.src.getD (m.dst * 8))))).cycle + 256 }

/-- A destination that refuses the sender's partition (R348, R354): the count ends, and the sender takes 0x07. -/
def State.denyMsg (s : State) (m : Msg) : State :=
  let s1 := ((s.dropPacket m.pkt).dropMsg m.id).endMsgCount m
  match m.src with
  | none => s1
  | some tk =>
    let s2 := s1.updCore (coreOf tk) fun c => { c with denied := Nat.min (2 ^ 32 - 1) (c.denied + 1) }
    if m.counted then s2.postOrReport tk 0x07 m.dest m.pc else s2.drainDeny m.id 0x07 m.dest

/-- The entry of a basted sender at a core (R370). -/
def Core.lastSeq (c : Core) (sender : Nat) : Option Nat := (c.senders.find? fun e => decide (e.1 = sender)).map fun e => e.2

/-- The core that has accepted a message: in its receive queue, with a basted sender's entry (R347, R370). -/
def Core.take (c : Core) (m : Msg) : Core :=
  { c with
    rxq := c.rxq ++ [{ m with pkt := none, st := .accepted }]
    senders := match m.seq with
      | none => c.senders
      | some q => (c.senders.filter fun e => decide (e.1 ≠ m.sender)) ++ [(m.sender, q)] }

/-- An accepted message: its acknowledgement is on its way when it has a sender that waits for it, on the response lane (R327) of
this panel's mesh. -/
def State.acceptedMsg (s : State) (m : Msg) : State :=
  match m.src with
  | none => (s.dropPacket m.pkt).dropMsg m.id
  | some tk =>
    if m.peer then s.setMsg { m with st := .accepted }
    else ((s.dropPacket m.pkt).inject (quadOfCore m.dst) (quadOf tk) m.pid (s.pAt (quadOf tk) m.pid) 1 1 none).setMsg
      { m with st := .accepted, pkt := some s.ids }

/-- Everything that a release of the sender comes after has been performed (R232, R348). -/
def State.msgReleased (s : State) (m : Msg) : Bool :=
  match m.src with
  | none => true
  | some tk => s.flights.all (fun f => decide (f.thr ≠ tk) || decide (m.id ≤ f.id) || f.stage.performed)
      && s.pushes.all fun p => decide (p.src ≠ tk) || decide (m.id ≤ p.id) || p.acked

/-- An earlier message of the same slot to the same core comes first; so does an earlier one to that core which the sending
quad has had refused (R347, R348). -/
def State.msgHeld (s : State) (m : Msg) : Bool :=
  s.msgs.any fun x => decide (x.id < m.id ∧ x.dst = m.dst ∧ x.peer = m.peer ∧ x.src.isSome = true ∧ m.src.isSome = true)
    && ((decide (x.src = m.src) && decide (x.st ≠ .accepted))
      || (decide (x.src.map quadOf = m.src.map quadOf) && decide (x.again ≠ 0 ∧ x.st ≠ .accepted)))

/-- A message has arrived at a core: every slot of it that waits in MWAIT goes on (R351). -/
def State.messageHere (s : State) (pid ck : Nat) : State :=
  if s.runs pid (ck * 8) then
    (List.range 8).foldl (fun t n => t.updSlot (ck * 8 + n) fun x => if x.st = .blocked .mwait then x.endWait 0 else x) s
  else s

/-- MESSAGE_ACCEPT (R348): the destination core takes the message, drops a basted duplicate, refuses it when its queue or
its table of basted senders is full or its quad is debug-halted (R356), or denies it. A peer accepts what reached it. -/
def execMessageAccept (id : Nat) (s : State) : Res :=
  event s (do
    let m ← s.msgs.find? fun m => decide (m.id = id) && !m.notice
    if s.msgHeld m || !s.msgReleased m then none
    else if m.peer then (if m.st = .atPeer then some (s.acceptedMsg m) else none)
    else
      let qi := quadOfCore m.dst
      let c := s.coreIn m.pid m.dst
      let taken := ((s.updCoreIn m.pid m.dst fun c => c.take m).messageHere m.pid m.dst).acceptedMsg m
      if m.st ≠ .going ∨ s.arrived m.pkt = false ∨ (s.quad qi).contained = true then none
      else if (s.ctxOf qi m.pid).isNone then some (s.denyMsg m)
      else if s.haltedIn m.pid qi || decide (32 ≤ c.rxq.length) then some (s.refuseMsg m)
      else match m.seq, c.lastSeq m.sender with
        | some n, some last => some (if n ≤ last then s.acceptedMsg m else taken)
        | some _, none => some (if 256 ≤ c.senders.length then s.refuseMsg m else taken)
        | none, _ => some taken)

/-- MESSAGE_ACKNOWLEDGE (R348): the sender's count ends. -/
def execMessageAcknowledge (id : Nat) (s : State) : Res :=
  event s (do
    let m ← s.msgs.find? fun m => decide (m.id = id ∧ m.st = .accepted) && s.arrived m.pkt
    pure (((s.dropPacket m.pkt).dropMsg id).endMsgCount m))

/-- MESSAGE_RESEND (R348): after 256 cycles of the sender's region. -/
def execMessageResend (id : Nat) (s : State) : Res :=
  event s (do
    let m ← s.msgs.find? fun m => decide (m.id = id ∧ m.st = .refused)
    let from_ := quadOf (m.src.getD (m.dst * 8))
    if (s.region (regionOf from_)).cycle < m.again then none
    else match m.src with
      | none => pure (s.setMsg { m with st := .going })
      | some _ =>
        let s1 := s.inject from_ (quadOfCore m.dst) m.pid (s.pAt (quadOfCore m.dst) m.pid) (flitsFor m.data.length) 0 m.sid
        pure (s1.setMsg { m with st := .going, pkt := some s.ids }))

/-! ## MRECV, MWAIT, MSGST (R350 to R352) -/

/-- The payload goes to its register or its place (R350): the bytes of a vector above it are zeroed. -/
def State.putPayload (s : State) (k : ElemKind) (b : Reg) (v : Word) (bs : List Byte) : State :=
  match k with
  | .s => s.writeReg s.cur b (word (ofBytes bs)) 6
  | .v => (s.updMyCore fun c => { c with pend := c.pend ++
      [{ due := c.cycle + 10, slot := slotNo s.cur, pc := s.me.pc, op := .vec (vregOf b).toNat (BitVec.ofNat 2048 (ofBytes bs)) 0 }] }).updMe
        fun x => { x with busy := x.busy ++ [64 + (vregOf b).toNat] }
  | .a => s.wrBytes (s.localKey s.cur (offset v)) bs

/-- MRECV (R350). -/
def execMrecv (k : ElemKind) (d b : Reg) (len : BitVec 10) (s : State) : Res :=
  runHead (msgUse k [] b d true) s fun g t =>
    let n := len.toNat
    Check.orElse (match k with
      | .a => t.payloadCheck permW (g b) n
      | _ => none)
      (if t.acquiring then .block .acquire
      else kindWait t k (g b) n <| match t.myCore.rxq with
        | [] => .block .rxMsg
        | m :: rest =>
          let t1 := (t.updMyCore fun c => { c with rxq := rest }).basteAfterPop
          let late : Bool := match k with
            | .s => decide (b.toNat = 63)
            | _ => false
          if late && t.me.optimistic then .trap 0x02 (word (ofBytes (m.data.take n)))
          else match put t1 d m.hdr 6 with
            | .next t2 => .next (t2.putPayload k b (g b) (m.data.take n))
            | x => x)

/-- MWAIT (R351): a wake ends it and is used up; a message ends it and stays. -/
def execMwait (s : State) : Res :=
  runReply {} s (fun _ t =>
    if t.me.wake then .next (t.updMe fun x => { x with wake := false })
    else if !t.myCore.rxq.isEmpty then .next t
    else .block .mwait)
    fun _ t => .next t

/-- MSGST (R352). -/
def execMsgst (sel : MsgSel) (d : Reg) (s : State) : Res :=
  runHead { wr := [d] } s fun _ t =>
    put t d (match sel with
      | .rxq => word t.myCore.rxq.length
      | .txc => word (t.myCore.txq.length + t.myCore.denied * 65536)) 3

/-! ## c30, c31 (R349, R350) -/

/-- C30_MESSAGE_POP (R350): what a head that reads c30 does to the receive queue. -/
def execC30MessagePop (ck : Nat) (s : State) : Res := unitEvent (coreOk ck) ck s (some (s.updCore ck fun c => portPop c 62))

/-- C31_SEND_BLOCK (R349): what a head that writes c31 does in its write cycle. -/
def execC31SendBlock (tk : Nat) (v : Word) (s : State) : Res :=
  unitEvent (slotOk tk) tk s (some (s.pushOrHold (coreOf tk) (slotNo tk) 63 v (s.slot tk).pc))

/-- A send block of a slot: the checks that it fails, or what it sends: destination, tag, payload (R349). The reserved bits of
word 3 are ignored (R8). -/
def State.sendBlock (s : State) (v : Word) : Check × Word × Word × List Byte :=
  let w (n : Nat) : Word := s.rd8 (s.localKey s.cur (offset v) + 8 * n)
  let n := fld (w 3) 0 9
  let first := s.firstWord .a 0 (w 2) n
  let c := firstTrap [s.payloadCheck permR v 32, failIf (decide (v.toNat % 32 ≠ 0)) 0x04 v,
    failIf (decide (n < 8 ∨ 256 < n ∨ n % 8 ≠ 0)) 0x02 v,
    s.msgCheck (w 0) first, s.payloadCheck permR (w 2) n]
  (c, w 0, w 1, if c.isNone then s.rdBytes (s.localKey s.cur (offset (w 2))) n else [])

/-- SEND_BLOCK_READ (R349): the oldest send block of a core is checked and sent as its slot's msend.a. -/
def execSendBlockRead (ck : Nat) (s : State) : Res :=
  unitEvent (coreOk ck) ck s (do
    let e ← (s.core ck).c31.head?
    let tk := ck * 8 + e.1
    let t : State := { s with cur := tk }
    let b := t.sendBlock e.2.1
    let s1 := s.updCore ck fun c => { c with c31 := c.c31.tail }
    match b.1 with
    | some (cause, info) => pure (s1.postOrReport tk cause info e.2.2)
    | none =>
      let p := (t.msgPlace t.myPid b.2.1).getD .ctl
      let at_ (x : Word) (n : Nat) : Bool := s.owned (s.localKey tk (offset x)) n
      if at_ e.2.1 32 || at_ (t.rd8 (t.localKey tk (offset e.2.1) + 16)) b.2.2.2.length || !(s.core ck).txRoom || decide (ctrMax p.ctr ≤ (s.slot tk).cnt.val p.ctr) then none
      else pure (s1.post tk p b.2.1 b.2.2.1 b.2.2.2 true e.2.2))

end Sys2Proof.Machine
end

