-- ==== Sys2Proof/Machine/Drain.lean ====
section
/-! DEFINITION. The drain of held effects (R310, R397): each record of an ended task is performed as its slot would have
performed it, one after the other, and no slot waits for it. -/

namespace Sys2Proof.Machine

/-- How a record ends. -/
inductive DrainEnd where
  /-- It is performed. -/
  | done (s : State)
  /-- It has been sent, under a name, and ends when that is gone. -/
  | sent (s : State) (id : Nat)
  /-- It cannot go on yet. -/
  | wait
  /-- It goes on after another part of the machine has acted. -/
  | later (s : State)
  /-- It is refused: the access kind of a fault, the address, and why. -/
  | bad (kind : Nat) (a : Word) (e : EngErr)
  /-- It ends unperformed with a cause and its EINFO. -/
  | fail (cause : Nat) (info : Word)

/-- The key of a record's footprint: a local one passed its checks when it was held. -/
def State.drainKey (s : State) (d : DrainTask) (p : Perm) (a : Word) (n : Nat) : Except EngErr Nat :=
  match s.engineRaw d.thr d.pid p a n with
  | .error e => .error e
  | .ok k => if s.owned k n || s.endClosed d.thr d.pid a || s.frozenAt k then .error .owned else .ok k

/-- The bytes of a held store, each at its key. -/
def State.drainBytes (s : State) (d : DrainTask) (a : Word) : List WByte → Except (Word × EngErr) (List (Nat × Byte × Byte))
  | [] => .ok []
  | b :: bs =>
    match s.drainKey d permW (a + word b.1) 1 with
    | .error e => .error (a + word b.1, e)
    | .ok k =>
      match s.drainBytes d a bs with
      | .error e => .error e
      | .ok ks => .ok ((k, b.2.1, b.2.2) :: ks)

/-- An access to a peer panel that the drain sends. -/
def State.drainPeer (s : State) (d : DrainTask) (a : Word) (n : Nat) (op : MemOp) : DrainEnd :=
  .sent (s.launchFlight { id := 0, thr := d.thr, pid := d.pid, addr := a, n, op }) s.ids

/-- A held push or close mark (R287, R291): the entry is filled first, and a full channel is waited for. -/
def State.drainPush (s : State) (qi : Nat) (d : DrainTask) (ch : Nat) (data : List Byte) (close : Bool) : DrainEnd :=
  let fail (reason : Nat) : DrainEnd := .fail 0x0A (word (ch + reason * 4096))
  match s.chanAt qi d.pid ch with
  | none =>
    if s.filling qi d.pid ch then .wait
    else match s.engineWords d.thr d.pid ((s.part d.pid).chanAddr ch) 8 with
      | .error e => .bad 0 ((s.part d.pid).chanAddr ch) e
      | .ok _ => .later (s.startFill d.thr d.pid ch false)
  | some e =>
    if !e.valid then fail 6
    else if e.state = 2 then fail 5
    else if e.closed ∨ e.state = 1 then fail 4
    else if !close && !e.writerRoom then .wait
    else .sent (s.sendPush d.thr e data close false d.handle) s.ids

/-- A held store performed: the copies of HBM lines at other dies go (R200). -/
def State.drainWrite (s : State) (d : DrainTask) (ks : List (Nat × Byte × Byte)) : State :=
  let lines := (ks.filter fun b => isHbm b.1).map fun b => lineOf (paOf b.1)
  lines.eraseDups.foldl (fun t l => t.invalidateOthers (dieOf (quadOf d.thr)) l)
    { s with mem := ks.foldl (fun m b => FMap.set (0 : Byte) m b.1 (keptBits (memByte m b.1) b.2.1 b.2.2)) s.mem }

/-- A held RED performed where the predictor of its core sends it (R244): one of space 0x3 at its home. -/
def State.drainRed (s : State) (f : Flight) (k : Nat) : Option State :=
  let r := if !isHbm k then s.runAtomic f k
    else if space f.addr = 2 ∧ s.predicts (coreOf f.thr) f.addr < 8 ∧ f.rsn = 0 then s.ownAtomic f k
    else s.homeRuns f k
  r.map fun x => x.2

/-- One record performed, or begun. -/
def State.drainOne (s : State) (qi : Nat) (d : DrainTask) (e : Effect) : DrainEnd :=
  match e with
  | .store a bs =>
    (match s.drainBytes d a bs with
    | .ok ks => .done (s.drainWrite d ks)
    | .error (_, .peer) => s.drainPeer d a (bs.foldl (fun n b => Nat.max n (b.1 + 1)) 0) (.store bs)
    | .error (x, r) => .bad 1 x r)
  | .red a op n b =>
    (match s.drainKey d permRW a n with
    | .ok k =>
      (match s.drainRed { id := 0, thr := d.thr, pid := d.pid, addr := a, n, op := .amo op b } k with
      | some t => .done t
      | none => .wait)
    | .error .peer => s.drainPeer d a n (.amo op b)
    | .error r => .bad 2 a r)
  | .push ch data => s.drainPush qi d ch data false
  | .close ch => s.drainPush qi d ch [] true
  | .msg a tag data =>
    (match s.msgPlace d.pid a with
    | none => .fail 0x07 a
    | some p =>
      if !(s.core (coreOf d.thr)).txRoom then .wait
      else .sent (s.post d.thr p a tag data false d.handle) s.ids)
  | .dec a =>
    (match s.drainKey d permRW a 16 with
    | .ok k => .done (s.decCell k)
    | .error r => .bad 2 a r)
  | .spawn hdr tile =>
    let r : LaunchReq := { id := s.ids, quad := qi, pid := d.pid, hdr, tile, thr := some d.thr, spawn := true, handle := d.handle }
    .sent { s.takeId with launches := s.launches ++ [r] } s.ids

/-- What a record sent is still on its way. -/
def State.sentPending (s : State) (id : Nat) : Bool :=
  (s.flights.any fun f => decide (f.id = id)) || (s.pushes.any fun p => decide (p.id = id)) || (s.msgs.any fun m => decide (m.id = id))
    || (s.launches.any fun l => decide (l.id = id)) || (s.cores.any fun c => c.2.txq.any fun m => decide (m.id = id))
    || s.quads.any fun q => q.2.shadow.any fun v => v.cores.any fun c => c.txq.any fun m => decide (m.id = id)

/-- Entry idx of a quad's drain becomes d; a drain without records ends, and its piece with it. -/
def State.setDrain (s : State) (qi idx : Nat) (d : DrainTask) : State :=
  if d.recs = [] then (s.updQuad qi fun q => { q with drain := q.drain.eraseIdx idx }).pieceDone d.pid (some d.handle) d.failed
  else s.updQuad qi fun q => { q with drain := q.drain.set idx d }

/-- What one record's access leaves in the TLBs (R204, R208). -/
def State.drainFill (s : State) (d : DrainTask) : Effect → State
  | .store a bs => s.engineFill d.thr d.pid permW a (bs.foldl (fun n b => Nat.max n (b.1 + 1)) 0)
  | .red a _ n _ => s.engineFill d.thr d.pid permRW a n
  | .dec a => s.engineFill d.thr d.pid permRW a 16
  | _ => s

/-- EFFECT_DRAIN_RECORD (R397): no record of a context that is swapped out begins (R384; log entry 78). -/
def execEffectDrainRecord (qi idx : Nat) (s : State) : Res :=
  unitEvent (quadOk qi) qi s (do
    let d ← (s.quad qi).drain[idx]?
    if d.faulted || (s.quad qi).contained then none
    else match d.sent with
      | some id => if s.sentPending id then none else pure (s.setDrain qi idx { d with sent := none, recs := d.recs.tail })
      | none =>
        match d.recs with
        | [] => pure (s.setDrain qi idx d)
        | e :: rest =>
          let lost (t : State) (cause : Nat) (info : Word) : State :=
            (t.drainReport d cause info).setDrain qi idx { d with failed := true, recs := rest }
          if !s.runs d.pid d.thr then none else
          match (s.drainFill d e).drainOne qi d e with
          | .done t => pure (t.setDrain qi idx { d with recs := rest })
          | .sent t id => pure (t.setDrain qi idx { d with sent := some id })
          | .later t => pure t
          | .wait => none
          | .fail cause info => pure (lost s cause info)
          | .bad _ _ .owned => none
          | .bad kind a (.xlate why) =>
            if why = 3 then pure (s.takeId.setDrain qi idx { d with faulted := true, bad := a, s2 := some s.ids })
            else pure ((s.setDrain qi idx { d with faulted := true, bad := a }).service d.pid
              { kind := 0x40, tag := d.tag.toNat, thread := s.threadIn d.pid d.thr, w2 := a, w3 := word (kind + 4 * why + 16 * space a) })
          | .bad _ a .ats => pure (lost s 0x06 (xlateInfo 0xFFE a))
          | .bad _ a _ => pure (lost s 0x07 a))

end Sys2Proof.Machine
end

