-- ==== Sys2Proof/Machine/Links.lean ====
section
/-! DEFINITION. The mesh of links (R326 to R335): routes and detours, credits, slot tables, streams, stitch boundaries,
bounces, and links of reduced width. -/

namespace Sys2Proof.Machine

/-! ## Links (R326, R334, R335) -/

/-- The router that a link leads to, none at the edge of the mesh: 0 north, 1 east, 2 south, 3 west. -/
def linkTo (l : Nat) : Option Nat :=
  let r := l / 4
  match l % 4 with
  | 0 => if pyOf r + 1 < 32 then some (r + 72) else none
  | 1 => if pxOf r + 1 < 72 then some (r + 1) else none
  | 2 => if 0 < pyOf r then some (r - 72) else none
  | _ => if 0 < pxOf r then some (r - 1) else none

/-- The input port at which a link arrives. -/
def linkPort (l : Nat) : Nat := (l + 2) % 4

/-- The stitch boundary that a link crosses, with 0 northward and 1 southward (R334). -/
def stitchOf (l : Nat) : Option (Nat × Nat) :=
  let y := pyOf (l / 4)
  match l % 4 with
  | 0 => if y % 2 = 1 then some (y / 2, 0) else none
  | 2 => if y % 2 = 0 then some (y / 2 - 1, 1) else none
  | _ => none

/-- A band before the controller has measured it: OCC 32, MAX 4, TYP 3, MIN 2. -/
def bandDefault : BitVec 32 := 0x20040302#32

/-- A band of a boundary's direction (R335). -/
def State.band (s : State) (b dir j : Nat) : BitVec 32 := FMap.get bandDefault s.panel.bands (b * 16 + dir * 8 + j)

/-- The crossing offset of a boundary's direction, and the least latency (R334). -/
def State.crossMax (s : State) (b dir : Nat) : Nat :=
  ((List.range 8).map fun j => bitsAt (s.band b dir j).toNat 16 8).foldl Nat.max 0
def State.crossMin (s : State) (b dir : Nat) : Nat :=
  ((List.range 8).map fun j => bitsAt (s.band b dir j).toNat 0 8).foldl Nat.min 255

/-- The cycle of a router's region. -/
def State.cycleAt (s : State) (r : Nat) : Nat := (s.region (regionOf r)).cycle

/-- Bytes that a slot of a link carries (R333). -/
def State.linkBytes (s : State) (l : Nat) : Nat := 32 * (4 - FMap.get 0 s.panel.width l)

def State.deadRouter (s : State) (r : Nat) : Bool := decide ((s.quad r).st = .dead)

/-! ## Streams' paths (R329) -/

/-- Links in the X direction from a router to a column, with the router reached. -/
def pathX (dx : Nat) : Nat → Nat → List Nat × Nat
  | 0, r => ([], r)
  | n + 1, r =>
    if pxOf r = dx then ([], r)
    else
      let e := decide (pxOf r < dx)
      let rest := pathX dx n (if e then r + 1 else r - 1)
      ((r * 4 + if e then 1 else 3) :: rest.1, rest.2)

/-- Links in the Y direction from a router to a row, with the router reached. -/
def pathY (dy : Nat) : Nat → Nat → List Nat × Nat
  | 0, r => ([], r)
  | n + 1, r =>
    if pyOf r = dy then ([], r)
    else
      let u := decide (pyOf r < dy)
      let rest := pathY dy n (if u then r + 72 else r - 72)
      ((r * 4 + if u then 0 else 2) :: rest.1, rest.2)

/-- The dimension-order path between two routers: X first, or Y first. -/
def streamPath (yFirst : Bool) (src dst : Nat) : List Nat :=
  if yFirst then
    let a := pathY (pyOf dst) 32 src
    a.1 ++ (pathX (pxOf dst) 72 a.2).1
  else
    let a := pathX (pxOf dst) 72 src
    a.1 ++ (pathY (pyOf dst) 32 a.2).1

/-- The slots of a path: (s + h + X(h)) mod 16 on hop h for each s of the mask (R329). -/
def State.pathSlots (s : State) (mask : BitVec 16) : List Nat → Nat → Nat → List (Nat × Nat)
  | [], _, _ => []
  | l :: ls, h, x =>
    let x1 := match stitchOf l with
      | some b => x + s.crossMax b.1 b.2
      | none => x
    (((List.range 16).filter fun i => mask.getLsbD i).map fun i => (l, (i + h + x) % 16)) ++ s.pathSlots mask ls (h + 1) x1

/-- A slot-table entry (R328). -/
def State.slotEntry (s : State) (l i : Nat) : BitVec 32 := FMap.get 0 s.panel.slotTab (l * 16 + i)
def slotOwner (pid sid : Nat) : BitVec 32 := BitVec.ofNat 32 (2 ^ 31 + pid * 2 ^ 16 + sid)

/-- The path of an open stream between the quads that its ends now are. -/
def State.linksOf (s : State) (pid : Nat) (t : Stream) : List Nat :=
  match s.physQuad pid t.src, s.physQuad pid t.dst with
  | some a, some b => streamPath t.route a b
  | _, _ => []

def State.streamOf (s : State) (p : Packet) : Option Stream :=
  p.sid.bind fun n => (s.part p.pid).streams.find? fun t => decide (t.sid = n)

/-- The link that a stream's flit takes next. -/
def State.streamNext (s : State) (p : Packet) (f : Flit) : Option Nat :=
  (s.streamOf p).bind fun t => (s.linksOf p.pid t)[f.hop]?

/-! ## Flits -/

def State.packet (s : State) (pkt : Nat) : Option Packet := s.packets.find? fun p => decide (p.id = pkt)
def State.flitAt (s : State) (pkt seq : Nat) : Option Flit := s.flits.find? fun f => decide (f.pkt = pkt ∧ f.seq = seq)
def State.setFlit (s : State) (f : Flit) : State := { s with flits := s.flits.map fun x => if x.pkt = f.pkt ∧ x.seq = f.seq then f else x }

/-- No earlier flit of the packet is at the same router (R326). -/
def State.flitFirst (s : State) (f : Flit) : Bool :=
  s.flits.all fun g => !decide (g.pkt = f.pkt ∧ g.seq < f.seq ∧ g.at_ = f.at_)

/-- Buffers of a kind: 16, or 2 for detours (R327). -/
def bufferCap (n : Nat) : Nat := if n % 8 < 4 then 16 else 2

/-- CREDIT_RETURN (R327). -/
def execCreditReturn (n : Nat) (s : State) : Res :=
  event s (
    if s.panel.returns.contains n then
      some { s with panel := { s.panel with
        returns := s.panel.returns.erase n, credits := FMap.set 0 s.panel.credits n (FMap.get 0 s.panel.credits n - 1) } }
    else none)

/-- A quad holds the logical destination of a packet (R332), under the packet's epoch: the numbers that a resizing changes are those
of packets on their way too (R378), and what a failed quad held is sent back when its substitute takes over. -/
def State.holds (s : State) (p : Packet) (qi : Nat) : Bool :=
  ((s.quad qi).ctxs ++ (s.quad qi).former).any fun c => decide (c.pid = p.pid ∧ c.p = p.p)

/-- The packet becomes a bounce: its flits leave their buffers (R331, R332). -/
def State.bounce (s : State) (p : Packet) : State :=
  let mine := s.flits.filter fun f => decide (f.pkt = p.id)
  let s1 := mine.foldl (fun t f => t.freeBuffer p f) s
  { s1 with flits := s1.flits.filter fun f => decide (f.pkt ≠ p.id)
            packets := s1.packets.map fun x => if x.id = p.id then { x with bounced := true } else x }

/-- A flit leaves the mesh at its destination's local port. -/
def State.deliverFlit (s : State) (p : Packet) (f : Flit) : State :=
  if !s.holds p f.at_ then s.bounce p
  else
    let s1 := s.freeBuffer p f
    { s1 with flits := s1.flits.filter fun g => !decide (g.pkt = f.pkt ∧ g.seq = f.seq)
              packets := s1.packets.map fun x => if x.id = p.id then { x with arrived := x.arrived + 1 } else x }

/-- Where a best-effort flit wants to go (R331): the local port, a link with the flit as it then stands, or back as a bounce. -/
inductive Out where
  | home
  | link (l : Nat) (f : Flit)
  | bounce
  deriving DecidableEq, Repr

/-- Dimension order, with the start of a detour round a dead router (R331). -/
def State.plainOut (s : State) (dst : Nat) (f : Flit) : Out :=
  let r := f.at_
  let go (dir : Nat) (g : Flit) : Out := .link (r * 4 + dir) g
  let on : Flit := { f with detour := false, back := 0, hop := 0 }
  if r = dst then .home
  else
    let dir := if pxOf r < pxOf dst then 1 else if pxOf dst < pxOf r then 3 else if pyOf r < pyOf dst then 0 else 2
    let n := (linkTo (r * 4 + dir)).getD r
    if !s.deadRouter n then go dir on
    else if n = dst then .bounce
    else if dir % 2 = 1 then
      go (if pyOf r = 31 ∨ s.deadRouter (r + 72) = true then 2 else 0) { f with detour := true, back := pyOf r + 1, hop := 1 }
    else go (if pxOf r = 71 then 3 else 1) { f with detour := true, back := 100 + pxOf r, hop := 1 }

/-- The next hop of a best-effort flit, on a detour or not. -/
def State.nextOut (s : State) (dst : Nat) (f : Flit) : Out :=
  let r := f.at_
  if f.back = 0 then s.plainOut dst f
  else if f.back < 100 then
    let row := f.back - 1
    if pxOf r = pxOf dst then s.plainOut dst f
    else if 2 ≤ f.hop ∧ s.deadRouter (row * 72 + pxOf r) = false then
      .link (r * 4 + if row < pyOf r then 2 else 0) { f with detour := true, back := 0, hop := 0 }
    else .link (r * 4 + if pxOf r < pxOf dst then 1 else 3) { f with detour := true, hop := f.hop + 1 }
  else
    let col := f.back - 100
    if pyOf r = pyOf dst then s.plainOut dst f
    else if 2 ≤ f.hop ∧ s.deadRouter (pyOf r * 72 + col) = false then
      .link (r * 4 + if col < pxOf r then 3 else 1) { f with detour := true, back := 0, hop := 0 }
    else .link (r * 4 + if pyOf r < pyOf dst then 0 else 2) { f with detour := true, hop := f.hop + 1 }

/-- The link has carried nothing in the present cycle of its region (R326). -/
def State.linkFree (s : State) (l : Nat) : Bool := decide (FMap.get 0 s.panel.linkUsed l ≠ s.cycleAt (l / 4) + 1)

/-- The entry that a link serves now (R328). -/
def State.servedSlot (s : State) (l : Nat) : BitVec 32 := s.slotEntry l (s.cycleAt (l / 4) % 16)

/-- A flit enters the next router: through the FIFO of a stitch boundary (R334). -/
def State.enterRouter (s : State) (l : Nat) (f : Flit) : State :=
  let r := (linkTo l).getD (l / 4)
  s.setFlit { f with at_ := r, port := linkPort l, done := 0, fifo := (stitchOf l).map fun b => s.cycleAt r + s.crossMin b.1 b.2 }

/-- What is left of a slot of reduced width begins, or goes on with, the owner's next flit, which crosses with its last byte and may leave
some again (R333): `next` finds that flit, `go` takes a flit across. -/
def State.passOn (next : State → Option (Packet × Flit)) (go : State → Packet → Flit → State) : Nat → State → Nat → State
  | 0, s, _ => s
  | fuel + 1, s, left =>
    if left = 0 then s else match next s with
    | none => s
    | some (p, g) =>
      if g.done + left < 128 then s.setFlit { g with done := g.done + left }
      else State.passOn next go fuel (go (s.freeBuffer p g) p g) (g.done + left - 128)

/-- One slot of a link given to a flit (R333). -/
def State.useLink (s : State) (l : Nat) (p : Packet) (f : Flit) (next : State → Option (Packet × Flit))
    (go : State → Packet → Flit → State) : State :=
  let s1 : State := { s with panel := { s.panel with linkUsed := FMap.set 0 s.panel.linkUsed l (s.cycleAt (l / 4) + 1) } }
  let got := f.done + s.linkBytes l
  if got < 128 then s1.setFlit { f with done := got }
  else State.passOn next go s.flits.length (go (s1.freeBuffer p f) p f) (got - 128)

/-! ## Stream flits (R329, R330) -/

/-- Buffers of a stream in use at its destination: flits past its source, and flits that have arrived. -/
def State.streamBuffers (s : State) (pid sid : Nat) : Nat :=
  let ps := s.packets.filter fun p => decide (p.pid = pid ∧ p.sid = some sid)
  (ps.map fun p => p.arrived).sum + (s.flits.filter fun f => decide (0 < f.hop) && ps.any fun p => decide (p.id = f.pkt)).length

/-- A stream's flit is ready at a link; a stream never passes a dead router (R331). -/
def State.streamReady (s : State) (p : Packet) (f : Flit) (l : Nat) : Bool :=
  decide (s.streamNext p f = some l ∧ f.fifo = none) && (linkTo l).isSome && s.flitFirst f && !s.deadRouter ((linkTo l).getD 0)
    && (decide (0 < f.hop) || decide (s.streamBuffers p.pid (p.sid.getD 0) < 16))

/-- The stream's flit that takes what is left of a slot (R333). -/
def State.streamFollower (s : State) (pid : Nat) (sid : Option Nat) (l : Nat) : Option (Packet × Flit) :=
  s.flits.findSome? fun g => match s.packet g.pkt with
    | some q => if decide (g.at_ = l / 4 ∧ q.pid = pid ∧ q.sid = sid) && s.streamReady q g l then some (q, g) else none
    | none => none

/-- Some flit of the stream that owns the served slot is ready at the link. -/
def State.ownerReady (s : State) (l : Nat) : Bool :=
  let e := s.servedSlot l
  s.flits.any fun f => match s.packet f.pkt with
    | some p => decide (f.at_ = l / 4) && (match p.sid with
      | some n => decide (e = slotOwner p.pid n) && s.streamReady p f l
      | none => false)
    | none => false

/-- STREAM_FLIT_HOP (R329): in a slot of the stream; at the end of the path the flit is delivered. -/
def execStreamFlitHop (pkt seq : Nat) (s : State) : Res :=
  event s (do
    let p ← s.packet pkt
    let f ← s.flitAt pkt seq
    let sid ← p.sid
    if f.at_ = p.dst ∧ f.fifo = none ∧ s.flitFirst f = true ∧ (f.hop ≠ 0 ∨ s.streamNext p f = none) then pure (s.deliverFlit p f)
    else
      let l ← s.streamNext p f
      if decide (l / 4 = f.at_ ∧ s.servedSlot l = slotOwner p.pid sid) && s.streamReady p f l && s.linkFree l then
        pure (s.useLink l p f (fun t => t.streamFollower p.pid p.sid l) fun t _ g => t.enterRouter l { g with hop := g.hop + 1 })
      else none)

/-! ## Best-effort flits (R327, R330, R331) -/

/-- A router holds a packet's reductions (R377). -/
def State.heldPacket (s : State) (pkt : Nat) : Bool :=
  s.redHolds.any fun h => h.flights.any fun i => (s.flight i).any fun f => decide (f.pkt = some pkt)

/-- A flit is in its input port's buffers: the local port takes 16 flits of a lane, the first ones (R327). -/
def State.inPort (s : State) (p : Packet) (f : Flit) : Bool :=
  decide (f.port ≠ 4) || decide (((s.flits.takeWhile fun g => decide (g ≠ f)).filter fun g =>
    decide (g.at_ = f.at_ ∧ g.port = 4) && (match s.packet g.pkt with
      | some q => q.sid.isNone && decide (q.lane = p.lane)
      | none => false)).length < 16)

/-- A best-effort flit that wants a link and holds a credit for it: its lane and port, and the flit as it then stands. -/
def State.wants (s : State) (f : Flit) (l : Nat) : Option (Nat × Nat × Flit) :=
  match s.packet f.pkt with
  | none => none
  | some p =>
    if p.sid.isSome || f.fifo.isSome || !s.flitFirst f || !s.inPort p f || s.heldPacket p.id then none
    else match s.nextOut p.dst f with
      | .link l1 g =>
        let n := ((linkTo l).getD 0 * 5 + linkPort l) * 8 + p.lane + if g.detour then 4 else 0
        if l1 = l ∧ (linkTo l).isSome = true ∧ FMap.get 0 s.panel.credits n < bufferCap n then some (p.lane, f.port, g) else none
      | _ => none

/-- What is served next in rotation, of `n` with the last one served noted one higher, zero before any. -/
def turnsFrom (n last : Nat) : List Nat := (List.range n).map fun i => (last + i) % n

/-- A best-effort flit may have the slot that a link serves now: any one a slot without a stream, one of its partition an idle slot of a
stream (R330). -/
def State.mayUse (s : State) (l pid : Nat) : Bool :=
  let e := s.servedSlot l
  !e.getLsbD 31 || (decide (bitsAt e.toNat 16 12 = pid) && !s.ownerReady l)

/-- The best-effort flits that compete for a link's present slot, with their packets and what they want. -/
def State.rivals (s : State) (l : Nat) : List (Packet × Flit × Nat × Nat × Flit) :=
  s.flits.filterMap fun f => if f.at_ ≠ l / 4 then none else (s.packet f.pkt).bind fun p =>
    if s.mayUse l p.pid then (s.wants f l).map fun w => (p, f, w) else none

/-- The lane that an output serves, in rotation after the last one, among the lanes that want it; then the input port, in rotation
after the last one served within the lane (R327). -/
def State.winner (s : State) (l : Nat) : Option (Nat × Nat) :=
  let reqs := (s.rivals l).map fun x => (x.2.2.1, x.2.2.2.1)
  ((turnsFrom 4 (FMap.get 0 s.panel.lastLane l)).find? fun n => reqs.any fun r => decide (r.1 = n)).bind fun n =>
    ((turnsFrom 5 (FMap.get 0 s.panel.lastPort (l * 4 + n))).find? fun q => reqs.any fun r => decide (r = (n, q))).map fun q => (n, q)

/-- The best-effort flit that takes what is left of a slot (R330, R333): the packet's next, else one that competes for the slot. -/
def State.bestFollower (s : State) (pkt l : Nat) : Option (Packet × Flit) :=
  let rs := s.rivals l
  ((rs.find? fun x => decide (x.2.1.pkt = pkt)).or rs.head?).map fun x => (x.1, x.2.1)

/-- A best-effort flit takes a credit of its next buffer, and its lane and port are the last that the output has served. -/
def Panel.served (p : Panel) (l n lane port : Nat) : Panel :=
  { p with credits := FMap.set 0 p.credits n (FMap.get 0 p.credits n + 1)
           lastLane := FMap.set 0 p.lastLane l (lane + 1), lastPort := FMap.set 0 p.lastPort (l * 4 + lane) (port + 1) }

/-- A packet that enters a router: a tree reduction is held there and combined (R377). -/
def State.redArrive (s : State) (pkt r : Nat) : State :=
  match s.flights.find? fun f => decide (f.pkt = some pkt ∧ f.alone = false ∧ f.stage.performed = false ∧ f.rsn ≠ 0) with
  | none => s
  | some f => s.redJoin r f.id

/-- A best-effort flit crosses a link into the next router, for whose buffer it takes a credit (R327). -/
def State.cross (s : State) (l : Nat) (p : Packet) (f : Flit) : State :=
  match s.nextOut p.dst f with
  | .link _ g =>
    let n := ((linkTo l).getD 0 * 5 + linkPort l) * 8 + p.lane + if g.detour then 4 else 0
    ((s.updPanel fun x => x.served l n p.lane f.port).enterRouter l g).redArrive p.id ((linkTo l).getD 0)
  | _ => s

/-- BEST_EFFORT_FLIT_HOP (R327): the winner of an output moves in a slot that a best-effort flit may use; at its
destination the flit is delivered. -/
def execBestEffortFlitHop (pkt seq : Nat) (s : State) : Res :=
  event s (do
    let p ← s.packet pkt
    let f ← s.flitAt pkt seq
    if p.sid.isSome || f.fifo.isSome || !s.flitFirst f || s.heldPacket pkt then none
    else match s.nextOut p.dst f with
      | .home => pure (s.deliverFlit p f)
      | .bounce => pure (s.bounce p)
      | .link l _ =>
        let w ← s.wants f l
        if decide (s.winner l = some (w.1, w.2.1)) && s.mayUse l p.pid && s.linkFree l then
          pure (s.useLink l p f (fun t => t.bestFollower pkt l) fun t q g => t.cross l q g)
        else none)

/-- STITCH_CROSSING (R334): a flit leaves the FIFO of a boundary, in order, no sooner than its latency. -/
def execStitchCrossing (pkt seq : Nat) (s : State) : Res :=
  event s (do
    let f ← s.flitAt pkt seq
    let c ← f.fifo
    if c ≤ s.cycleAt f.at_ ∧ s.flitFirst f = true then pure (s.setFlit { f with fifo := none }) else none)

/-! ## Bounces (R332) -/

/-- What a bounced packet carried, when its logical destination has no quad any more: it is denied; a response is dropped with the
access that no slot waits for. -/
def State.packetLost (s : State) (pkt : Nat) : State :=
  let s1 : State := { s with
    flights := (s.flights.filter fun f => !(decide (f.pkt = some pkt) && f.stage.performed)).map fun f =>
      if f.pkt = some pkt then { f with stage := .denied, pkt := none } else f
    packets := s.packets.filter fun p => decide (p.id ≠ pkt) }
  let s2 : State := match s1.msgs.find? fun m => decide (m.pkt = some pkt) with
    | some m => if m.st = MsgSt.accepted then s1.dropMsg m.id else s1.denyMsg m
    | none => s1
  match s2.pushes.find? fun p => decide (p.pkt = some pkt) with
  | some p => s2.ackPush p
  | none => s2

/-- What a packet carries now goes to a quad. -/
def State.packetTo (s : State) (pkt qi : Nat) : State :=
  { s with
    flights := s.flights.map fun f => if f.pkt = some pkt ∧ f.stage.performed = false then { f with stage := .net qi } else f
    msgs := s.msgs.map fun m => if m.pkt = some pkt ∧ m.st ≠ .accepted then { m with dst := qi * 4 + m.dst % 4 } else m
    pushes := s.pushes.map fun p => if p.pkt = some pkt ∧ p.acked = false then { p with home := qi } else p }

/-- The quad that a bounced packet's access names, under the number that its destination bears now (R378): through the alias when its
address has one (R375); a response goes to the quad of its slot. -/
def State.lookup (s : State) (p : Packet) : Option Nat :=
  match s.flights.find? fun f => decide (f.pkt = some p.id), s.msgs.find? fun m => decide (m.pkt = some p.id ∧ m.st = .accepted) with
  | some f, _ =>
    if p.lane ≠ 1 then (if 2048 ≤ p.p then none else s.remoteQuad f.pid (setFld (s.inner f.addr) 44 11 p.p))
    else if (s.ctxOf (quadOf f.thr) f.pid).isSome then some (quadOf f.thr) else none
  | none, some m => m.src.bind fun tk => if (s.ctxOf (quadOf tk) m.pid).isSome then some (quadOf tk) else none
  | none, none => match s.pushes.find? fun x => decide (x.pkt = some p.id) && x.acked with
    | some x => if (s.ctxOf (quadOf x.src) x.pid).isSome then some (quadOf x.src) else none
    | none => s.physQuad p.pid p.p

/-- A contribution that its leaf sends again waits for the map without the failed router (R377). -/
def State.awaitsMap (s : State) (pkt : Nat) : Bool :=
  s.flights.any (fun f => decide (f.pkt = some pkt) && f.alone) && s.changes.any fun c => match c.op with
    | .contain qf _ _ => s.deadRouter qf
    | .resize .. => false

/-- PACKET_BOUNCE (R332): the packet is looked up again at its source and sent again. -/
def execPacketBounce (pkt : Nat) (s : State) : Res :=
  event s (do
    let p ← s.packet pkt
    if !p.bounced || s.awaitsMap pkt then none
    else match s.lookup p with
      | none => pure (s.packetLost pkt)
      | some qi =>
        let q : Packet := { p with dst := qi, p := if p.lane = 1 then s.pAt qi p.pid else p.p, epoch := s.panel.epoch, arrived := 0, bounced := false }
        let again : List Flit := (List.range p.flits).map fun i => { pkt, seq := i, at_ := p.src }
        let s1 : State := { s with packets := s.packets.map fun (x : Packet) => if x.id = pkt then q else x, flits := s.flits ++ again }
        pure (s1.packetTo pkt qi))

/-! ## Links of reduced width (R333) -/

/-- LINK_RETRAIN (R333): a link's width changes, the streams that cross it may fall short, and its regions are graded again
(R364). -/
def execLinkRetrain (link width : Nat) (s : State) : Res :=
  unitEvent (decide (link < 9216)) link s (
    if 4 ≤ width then none
    else
      let s1 : State := { s with panel := { s.panel with width := FMap.set 0 s.panel.width link width } }
      let bytes := s1.linkBytes link
      let s2 := s1.parts.foldl (fun t p => p.2.streams.foldl (fun u x =>
        if decide (bytes < 128) && x.hops.any (fun h => decide (h.1 = link)) then u.shortfall p.1 x link bytes else u) t) s1
      some (s2.regrade (regionOf (link / 4))))

end Sys2Proof.Machine
end

