-- ==== Sys2Proof/Machine/Controller.lean ====
section
/-! DEFINITION. Requests to the panel controller (R337), the optical edge (R353 to R355), and the times of in-router
reductions (R377). -/

namespace Sys2Proof.Machine

/-! ## Requests (R337) -/

/-- The reply to a request: a message to the issuing core, STATUS in word 0. -/
def State.ctrlReply (s : State) (r : CtrlReq) (w0 : Word) (data : List Byte) : State :=
  let bs := leBytes 8 w0.toNat ++ data
  let hdr := msgHeader false true bs.length s.panel.number 0xFFFF r.tag
  let s1 : State := { s with ctrl := s.ctrl.filter fun x => decide (x.id ≠ r.id) }
  { s1.takeId with msgs := s1.msgs ++ [{ id := s1.ids, hdr, data := bs, dst := coreOf r.thr, pid := r.pid }] }

def State.ctrlStatus (s : State) (r : CtrlReq) (n : Nat) : State := s.ctrlReply r (word n) []

/-- A request of a code, the oldest of its slot, answered. -/
def ctrlEvent (id : Nat) (code : Nat → Bool) (s : State) (k : CtrlReq → State) : Res :=
  event s (do
    let r ← s.ctrl.find? fun r => decide (r.id = id)
    let older := s.ctrl.any fun x => decide (x.thr = r.thr ∧ x.id < id)
    if code (fld r.w0 0 8) && !older then pure (k r) else none)

/-- The bits of a word outside the fields given as first bit and width. -/
def otherBits (w : Word) (fs : List (Nat × Nat)) : Bool := fs.foldl (fun v f => setFld v f.1 f.2 0) w != 0

/-- The fields of an open: SID, ROUTE, mask, source and destination. -/
def CtrlReq.stream (r : CtrlReq) : Stream :=
  { sid := fld r.w0 8 12, src := fld r.w1 0 11, dst := fld r.w1 32 11, route := r.w0.getLsbD 20, mask := BitVec.ofNat 16 (fld r.w0 32 16) }

/-- The slots of a stream that would be opened, with its path; the routers of a path are the ends of its links. -/
def State.openPlan (s : State) (pid : Nat) (t : Stream) : List Nat × List (Nat × Nat) :=
  let links := s.linksOf pid t
  (links, s.pathSlots t.mask links 0 0)

/-- Status of an open that is refused, 0 for one that finds its slots and its ends (R337). -/
def State.openRefusal (s : State) (r : CtrlReq) : Nat :=
  let t := r.stream
  let plan := s.openPlan r.pid t
  if r.len < 16 ∨ otherBits r.w0 [(0, 8), (8, 12), (20, 1), (32, 16)] = true ∨ otherBits r.w1 [(0, 11), (32, 11)] = true then 1
  else if s.liveQuad r.pid t.src = false ∨ s.liveQuad r.pid t.dst = false then 5
  else if ((s.part r.pid).streams.any fun x => decide (x.sid = t.sid)) = true then 4
  else if (plan.1.any fun l => s.deadRouter ((linkTo l).getD 0)) || !(plan.2.all fun e => Config.streamPermitted r.pid e.1 e.2) then 2
  else if (plan.2.any fun e => (s.slotEntry e.1 e.2).getLsbD 31) = true then 3
  else 0

/-- Status of an open (R337). When a destination has no stream buffers left the spec does not say: a free value. -/
def State.openStatus (s : State) (r : CtrlReq) : Nat :=
  let n := s.openRefusal r
  if n = 0 then (if Config.streamBuffersGone s.free then 6 else 0) else n

/-- Slot-table entries written. -/
def State.setSlots (s : State) (hops : List (Nat × Nat)) (v : BitVec 32) : State :=
  { s with panel := { s.panel with slotTab := hops.foldl (fun m e => FMap.set 0 m (e.1 * 16 + e.2) v) s.panel.slotTab } }

/-- All the slots of a stream claimed at once. -/
def State.openStream (s : State) (pid : Nat) (t : Stream) : State :=
  let plan := s.openPlan pid t
  (s.setSlots plan.2 (slotOwner pid t.sid)).updPart pid fun p => { p with streams := p.streams ++ [{ t with hops := plan.2 }] }

/-- CTRL_OPEN_STREAM (R337). -/
def execCtrlOpenStream (id : Nat) (s : State) : Res :=
  ctrlEvent id (fun c => decide (c = 1)) s fun r =>
    let n := s.openStatus r
    (if n = 0 then s.draw.openStream r.pid r.stream else s.draw).ctrlStatus r n

/-- A stream ends: its slots are free, and its flits in the mesh go on as best effort. -/
def State.closeStream (s : State) (pid : Nat) (t : Stream) : State :=
  let mine (p : Packet) : Bool := decide (p.pid = pid ∧ p.sid = some t.sid)
  let ids := (s.packets.filter mine).map fun p => p.id
  let s1 : State := { s with
    packets := s.packets.map fun p => if mine p then { p with sid := none } else p
    flits := s.flits.map fun f => if ids.contains f.pkt then { f with port := 4, hop := 0 } else f }
  (s1.setSlots t.hops 0).updPart pid fun p => { p with streams := p.streams.filter fun x => decide (x.sid ≠ t.sid) }

/-- CTRL_CLOSE_STREAM (R337). -/
def execCtrlCloseStream (id : Nat) (s : State) : Res :=
  ctrlEvent id (fun c => decide (c = 2)) s fun r =>
    if otherBits r.w0 [(0, 8), (8, 12)] then s.ctrlStatus r 1
    else match (s.part r.pid).streams.find? fun t => decide (t.sid = fld r.w0 8 12) with
      | none => s.ctrlStatus r 4
      | some t => (s.closeStream r.pid t).ctrlStatus r 0

/-- CTRL_READ_LINK (R337): the width and the slot table of a link that leaves a quad of the partition. The field p and CODE
share bits [7:0] of word 0 as R337 places them. -/
def execCtrlReadLink (id : Nat) (s : State) : Res :=
  ctrlEvent id (fun c => decide (c = 3)) s fun r =>
    if otherBits r.w0 [(0, 11), (12, 2)] then s.ctrlStatus r 1
    else match s.physQuad r.pid (fld r.w0 0 11) with
      | none => s.ctrlStatus r 5
      | some qi =>
        let l := qi * 4 + fld r.w0 12 2
        s.ctrlReply r (word (FMap.get 0 s.panel.width l * 256))
          (leBytes 8 0 ++ (List.range 16).flatMap fun i => leBytes 4 (s.slotEntry l i).toNat)

/-- CTRL_READ_BANDED_LATENCY (R337, R335). -/
def execCtrlReadBandedLatency (id : Nat) (s : State) : Res :=
  ctrlEvent id (fun c => decide (c = 4)) s fun r =>
    let b := fld r.w0 8 4
    if otherBits r.w0 [(0, 8), (8, 4)] || decide (14 < b) then s.ctrlStatus r 1
    else s.ctrlReply r 0 ((List.range 2).flatMap fun d => (List.range 8).flatMap fun j => leBytes 4 (s.band b d j).toNat)

def State.edge (s : State) (unit : Nat) : Edge := FMap.get {} s.panel.edges unit
def State.updEdge (s : State) (unit : Nat) (f : Edge → Edge) : State :=
  { s with panel := { s.panel with edges := FMap.set {} s.panel.edges unit (f (s.edge unit)) } }

/-- The block of an edge unit for a partition (R355). -/
def Edge.block (e : Edge) (pid : Nat) : List Byte :=
  words [word ((FMap.get 0 e.owned pid).toNat * 2 ^ 48 + e.degr.toNat * 2 ^ 32 + bit e.clock * 2 ^ 16 + e.lock.toNat),
    word (e.rxb.toNat * 2 ^ 32 + e.txb.toNat), word (e.resend.toNat * 2 ^ 32 + e.crcd.toNat), word e.tune.toNat]

/-- CTRL_READ_EDGE_UNIT (R337, R355): a unit of which the partition owns no wavelength is outside it. -/
def execCtrlReadEdgeUnit (id : Nat) (s : State) : Res :=
  ctrlEvent id (fun c => decide (c = 5)) s fun r =>
    let u := fld r.w0 8 5
    if otherBits r.w0 [(0, 8), (8, 5)] then s.ctrlStatus r 1
    else if FMap.get 0 (s.edge u).owned r.pid = 0 then s.ctrlStatus r 5
    else s.ctrlReply r 0 ((s.edge u).block r.pid)

/-- CTRL_ROUTE_PEER (R337): a peer panel on owned wavelengths of an owned unit. -/
def execCtrlRoutePeer (id : Nat) (s : State) : Res :=
  ctrlEvent id (fun c => decide (c = 6)) s fun r =>
    let panel := fld r.w0 8 9
    let u := fld r.w0 17 5
    let m := BitVec.ofNat 16 (fld r.w0 32 16)
    let owned := FMap.get 0 (s.edge u).owned r.pid
    if otherBits r.w0 [(0, 8), (8, 9), (17, 5), (32, 16)] || decide (384 ≤ panel) then s.ctrlStatus r 1
    else if owned = 0 ∨ m &&& ~~~owned ≠ 0 then s.ctrlStatus r 5
    else (s.updPart r.pid fun p => { p with routes := (p.routes.filter fun x => decide (x.1 ≠ panel)) ++ [(panel, u, m)] }).ctrlStatus r 0

/-- CTRL_RESERVED_CODE (R337). -/
def execCtrlReservedCode (id : Nat) (s : State) : Res :=
  ctrlEvent id (fun c => decide (c = 0 ∨ 7 ≤ c)) s fun r => s.ctrlStatus r 1

/-! ## Bursts sent (R353, R354) -/

/-- The most bytes a burst carries. -/
def burstBytes : Nat := 65536

/-- Names of a list whose sizes, whole flits, fit a burst. -/
def fitBurst : List (Nat × Nat) → Nat → List Nat
  | [], _ => []
  | (id, n) :: rest, room => if n ≤ room then id :: fitBurst rest (room - n) else []

/-- What waits at the edge for a peer on a partition's route, oldest first: name and bytes. -/
def State.atEdge (s : State) (pid peer : Nat) : List (Nat × Nat) :=
  (s.flights.filterMap fun f => if f.stage = .edge ∧ f.pid = pid ∧ fld f.addr 51 9 = peer ∧ s.mayPerform f = true then
      some (f.id, f.op.flits * 128) else none)
    ++ s.msgs.filterMap fun m =>
      if m.peer = true ∧ m.st = .going ∧ m.pid = pid ∧ msgGca m.dest / 8192 = peer ∧ s.msgReleased m = true ∧ s.msgHeld m = false then
        some (m.id, flitsFor m.data.length * 128) else none

/-- Accesses and messages of a burst go to a place. -/
def State.burstTo (s : State) (ids : List Nat) (st : Stage) (ms : MsgSt) : State :=
  { s with flights := s.flights.map fun f => if ids.contains f.id then { f with stage := st } else f
           msgs := s.msgs.map fun m => if ids.contains m.id then { m with st := ms } else m }

/-- A wavelength of a mask is locked and in service. -/
def Edge.usable (e : Edge) (m : BitVec 16) : Bool := e.clock && decide (m &&& e.lock &&& ~~~e.degr ≠ 0)

/-- BURST_SEND (R353): packets for one peer on one route, after the route's earlier burst has been acknowledged, so that the
packets of the route are delivered in order. -/
def execBurstSend (unit peer : Nat) (s : State) : Res :=
  unitEvent (decide (unit < 32)) unit s (do
    let e := s.edge unit
    let ready := s.parts.filter fun p => p.2.routes.any fun r => decide (r.1 = peer ∧ r.2.1 = unit) && e.usable r.2.2
      && !(s.atEdge p.1 peer).isEmpty && e.unacked.all fun b => decide (b.peer ≠ peer ∨ b.pid ≠ p.1)
    let p ← ready.head?
    let ids := fitBurst (s.atEdge p.1 peer) burstBytes
    let b : Burst := { seq := e.nextSeq, peer, pid := p.1, ids, time := (s.region 0).tcnt }
    pure ((s.burstTo ids .burst .burst).updEdge unit fun e =>
      { e with unacked := e.unacked ++ [b], nextSeq := e.nextSeq + 1, txb := e.txb + 1 }))

def Edge.burst (e : Edge) (seq : Nat) : Option Burst := e.unacked.find? fun b => decide (b.seq = seq)
def State.dropBurst (s : State) (unit seq : Nat) : State :=
  s.updEdge unit fun e => { e with unacked := e.unacked.filter fun b => decide (b.seq ≠ seq) }

/-- BURST_ACK (R353): what the burst carried is at its peer. -/
def execBurstAck (unit seq : Nat) (s : State) : Res :=
  unitEvent (decide (unit < 32)) unit s (do
    let b ← (s.edge unit).burst seq
    pure ((s.burstTo b.ids .peer .atPeer).dropBurst unit seq))

/-- BURST_RESEND (R353): 8 µs after its sending. -/
def execBurstResend (unit seq : Nat) (s : State) : Res :=
  unitEvent (decide (unit < 32)) unit s (do
    let b ← (s.edge unit).burst seq
    if (s.region 0).tcnt.toNat < b.time.toNat + 8000 then none
    else pure (s.updEdge unit fun e =>
      { e with resend := e.resend + 1, unacked := e.unacked.map fun x => if x.seq = seq then { x with time := (s.region 0).tcnt } else x }))

/-- BURST_REFUSAL (R354): the packets of the burst end, and each issuer takes 0x07. -/
def execBurstRefusal (unit seq : Nat) (s : State) : Res :=
  unitEvent (decide (unit < 32)) unit s (do
    let b ← (s.edge unit).burst seq
    let fs := s.flights.filter fun f => b.ids.contains f.id
    let ms := s.msgs.filter fun m => b.ids.contains m.id
    pure (ms.foldl (fun t m => t.denyMsg m) (fs.foldl (fun t f => t.denialArrives f) (s.dropBurst unit seq))))

/-! ## Bursts received (R208, R353) -/

/-- The keys of single bytes that a peer may access in a partition of this panel, none when one is refused. -/
def State.peerKeys (s : State) (pid : Nat) (p : Perm) (a : Word) (n : Nat) : Option (List Nat) :=
  (List.range n).foldr (fun i acc => acc.bind fun ks => match s.engineKey0 0 pid p (a + word i) 1 with
    | .ok k => some (k :: ks)
    | .error _ => none) (some [])

/-- A peer's message goes on to its core. -/
def State.receiveMsg (s : State) (panel pid : Nat) (m : Msg) : State :=
  match (Config.peerPartition panel pid).bind fun q => (s.coreOfGca q (msgGca m.dest)).map fun ck => (q, ck) with
  | none => s
  | some (q, ck) => { s.takeId with msgs := s.msgs ++ [{ m with id := s.ids, dst := ck, pid := q }] }

/-- The access of a packet: the sender's partition, what it needs, its address, bytes, and alignment. -/
def peerAccess : PeerPkt → Option (Nat × Perm × Word × Nat × Nat)
  | .msg .. | .notice .. => none
  | .load pid a n => some (pid, permR, a, n, 1)
  | .store pid a data => some (pid, permW, a, data.length, 1)
  | .amo pid a n _ _ | .cas pid a n _ _ => some (pid, permRW, a, n, n)
  | .lde pid a => some (pid, permRW, a, 8, 8)
  | .stf pid a _ | .feinit pid a _ _ => some (pid, permW, a, 8, 8)

/-- The partition that a packet's own maps to, and the keys of its bytes there; none for a denied one (R208). -/
def State.peerFoot (s : State) (panel : Nat) (x : PeerPkt) : Option (Nat × List Nat) := do
  let (pid, p, a, n, align) ← peerAccess x
  let q ← Config.peerPartition panel pid
  let ks ← if space a = 3 ∧ a.toNat % align = 0 then s.peerKeys q p a n else none
  pure (q, ks)

/-- A packet's access waits: a copy or a drain owns a byte (R241), or its quad is closed (R356). -/
def State.peerWaits (s : State) (panel : Nat) (x : PeerPkt) : Bool :=
  match s.peerFoot panel x with
  | none => false
  | some (_, ks) => ks.any fun k => s.owned k 1 || (!isHbm k && (s.quad (keyQuad k)).closed)

/-- A peer's write to a home: an exclusive owner is recalled, and the copies of the line go (R200, R244). -/
def State.peerWrites (s : State) (k : Nat) : State :=
  if !isHbm k then s else
  let s1 := s.invalidateOthers 288 (lineOf (paOf k))
  { s1 with owners := FMap.set 0 s1.owners (lineOf (paOf k)) 0 }

/-- A peer's access performed: its first byte's key, and all of them. Full/empty words are a scratchpad's (R249). Its atomic on HBM
comes from no die of this panel, and the placement counters do not count it (R215; log entry 137). -/
def State.peerAct (s : State) (q k : Nat) (ks : List Nat) : PeerPkt → State
  | .msg .. | .notice .. => s
  | .load .. => if isHbm k then s.dieLoad (homeDie (paOf k) * 2) { line := lineOf (paOf k), key := (s.part q).key } else s
  | .store _ _ data => (ks.foldl (fun t j => t.peerWrites j) s).scatter (ks.zip data)
  | .amo _ _ n op b => (s.peerWrites k).wr k n (amoFun op n (s.rd k n) b.toNat)
  | .cas _ _ n b c =>
    if s.rd k n = b.toNat % 2 ^ (8 * n) then (s.peerWrites k).wr k n (c.toNat % 2 ^ (8 * n)) else s.peerWrites k
  | .lde _ a => if isHbm k then s else s.takeId.wordJoin { flight := s.ids, lde := true, peer := some (q, a, 0) }
  | .stf _ a b => if isHbm k then s else s.takeId.wordJoin { flight := s.ids, lde := false, peer := some (q, a, b) }
  | .feinit _ _ b full => if isHbm k then s else { s.wr8 k b with fe := FMap.set false s.fe k full }

/-- A packet of a burst is performed here, in the partition that its own maps to; a refused one has no effect. What a load or an
atomic answers leaves the panel. -/
def State.receive (s : State) (panel : Nat) (x : PeerPkt) : State :=
  match x with
  | .msg pid dest hdr seq data => s.receiveMsg panel pid { hdr, data, dest, seq }
  | .notice pid dest hdr => s.receiveMsg panel pid { hdr, dest, notice := true }
  | _ => match s.peerFoot panel x with
    | some (q, k :: ks) => s.peerAct q k (k :: ks) x
    | _ => s

/-- BURST_RECEIVE (R353): a burst with a bad CRC is discarded, a copy of one accepted is dropped, a good one is delivered, when
its accesses need not wait. -/
def execBurstReceive (unit panel seq : Nat) (crcOk : Bool) (pkts : List PeerPkt) (s : State) : Res :=
  unitEvent (decide (unit < 32)) unit s (
    if !crcOk then some (s.updEdge unit fun e => { e with crcd := e.crcd + 1 })
    else
      let s1 := s.updEdge unit fun e => { e with rxb := e.rxb + 1 }
      if (s.edge unit).accepted.contains (panel, seq) then some s1
      else if pkts.any fun x => s.peerWaits panel x then none
      else some (pkts.foldl (fun t x => t.receive panel x) (s1.updEdge unit fun e => { e with accepted := e.accepted ++ [(panel, seq)] })))

/-- WAVELENGTH_LOCK_CHANGE (R355), after the heater retunes that the firmware made for it: their count saturates. -/
def execWavelengthLockChange (unit : Nat) (lock degr : BitVec 16) (clock : ControlReport) (s : State) : Res :=
  unitEvent (decide (unit < 32)) unit s (some (s.updEdge unit fun e =>
    { e with lock, degr, clock := clock.locked, tune := BitVec.ofNat 16 (Nat.min 65535 (e.tune.toNat + clock.retunes)) }))

/-! ## In-router reduction (R377) -/

/-- The next router in dimension order from a router to a die, none within it (R331, R377). -/
def nextToDie (r die : Nat) : Option Nat :=
  if pxOf r / 4 < die % 18 then some (r + 1)
  else if die % 18 < pxOf r / 4 then some (r - 1)
  else if pyOf r / 2 < die / 18 then some (r + 72)
  else if die / 18 < pyOf r / 2 then some (r - 72)
  else none

/-- The next router of a tree whose location is in HBM (R377; log entry 153). -/
def State.redNext (s : State) (h : RedHold) : Option Nat :=
  ((h.flights.head?.bind s.flight).bind fun f => match f.stage with
    | .home k => if isHbm k then nextToDie h.router (homeDie (paOf k)) else none
    | _ => none).bind fun r => if s.deadRouter r then none else some r

/-- REDUCTION_HOLD_EXPIRY (R377): a router holds a reduction no longer; on its way to an HBM home it enters the next one. -/
def execReductionHoldExpiry (id : Nat) (s : State) : Res :=
  event s ((s.redHolds.find? fun h => decide (h.id = id)).map fun h =>
    let t : State := { s with redHolds := s.redHolds.filter fun x => decide (x.id ≠ id) }
    match s.redNext h, h.flights with
    | some r, i :: _ => t.redJoin r i
    | _, _ => t)

/-- REDUCTION_PAIR_EXPIRY (R377): the least recently used pair of its place, after 2^20 cycles without traffic. -/
def execReductionPairExpiry (loc rsn : Nat) (s : State) : Res :=
  event s (do
    let p ← s.redPairs.find? fun p => decide (p.loc = loc ∧ p.rsn = rsn)
    let oldest := s.redPairs.all fun q => decide (redPlace q.loc ≠ redPlace loc) || decide (p.last ≤ q.last)
    if oldest && decide (p.last + 2 ^ 20 ≤ (s.region 0).cycle) then
      pure { s with redPairs := s.redPairs.filter fun q => !decide (q.loc = loc ∧ q.rsn = rsn) }
    else none)

end Sys2Proof.Machine
end

