-- ==== Sys2Proof/Machine/Yoke.lean ====
section
/-! DEFINITION. The yoke (R156 to R188): geometry (R168, R169), the pattern table (R160 to R162), scale blocks (R163 to
R167), gangs and their sums (R170 to R178), planes (R179, R180), accumulators (R181 to R185), handback (R188). -/

namespace Sys2Proof.Machine

/-! ## The order of a slice (R183) -/

/-- The operation works on the accumulators; the operation works on the planes. -/
def SliceOp.onAcc : SliceOp → Bool
  | .gang _ _ _ _ _ | .running _ | .mzero _ _ | .mread _ _ _ | .mdrain _ _ _ _ _ _ _ _ _ _ _ => true
  | _ => false
def SliceOp.isGang : SliceOp → Bool
  | .gang _ _ _ _ _ | .running _ => true
  | _ => false
def SliceOp.onPlane : SliceOp → Bool
  | .wload _ _ _ _ _ | .wswap => true
  | o => o.isGang

/-- A gang entry that has not joined; a block to be staged (R178). -/
def SliceOp.unjoined : SliceOp → Bool
  | .gang _ _ _ _ _ => true
  | _ => false
def SliceOp.stages : SliceOp → Bool
  | .stage _ => true
  | _ => false

/-- Two operations of a slice may not change places: a gang reads the active plane, a load writes the other one; a block is staged
when the gangs before it have joined. -/
def SliceOp.ordered (x y : SliceOp) : Bool :=
  (x.unjoined && y.stages) || (x.onAcc && y.onAcc) || (x.onPlane && y.onPlane && !((x.isGang && !y.isGang && y != .wswap) || (y.isGang && !x.isGang && x != .wswap)))

/-- The operations that may act now: none before them must come first. -/
def readyOps (seen : List SliceOp) : List SliceOp → List SliceOp
  | [] => []
  | o :: os => if seen.any (fun x => x.ordered o) then readyOps (o :: seen) os else o :: readyOps (o :: seen) os

def Core.readyOps (c : Core) : List SliceOp := Sys2Proof.Machine.readyOps [] c.slice.ops

def State.updSlice (s : State) (ck : Nat) (f : Slice → Slice) : State := s.updCore ck fun c => { c with slice := f c.slice }

/-- An operation leaves the order. -/
def State.dropOp (s : State) (ck : Nat) (o : SliceOp) : State := s.updSlice ck fun l => { l with ops := l.ops.erase o }
def State.dropOpId (s : State) (ck id : Nat) : State := s.updSlice ck fun l => { l with ops := l.ops.filter fun o => decide (o.id ≠ id) }

/-! ## Accumulators -/

/-- The 64 bits of column n of row r (R156). -/
def Slice.accAt (l : Slice) (r n : Nat) : Word := FMap.get 0 l.acc (r * 32 + n)
def Slice.setAcc (l : Slice) (r n : Nat) (v : Word) : Slice := { l with acc := FMap.set 0 l.acc (r * 32 + n) v }

/-- Rows set to zero (R181). -/
def Slice.zero (l : Slice) (first count : Nat) : Slice :=
  { l with acc := l.acc.filter fun e => !decide (first ≤ e.1 / 32 ∧ e.1 / 32 < first + count) }

/-- The 64-bit view of a row, as a vector (R182). -/
def Slice.row (l : Slice) (g : Nat) : Vec := BitVec.ofNat 2048 (packLanes 64 ((List.range 32).map fun i => (l.accAt g i).toNat))

/-- One operation that takes no time of its own: MZERO, WSWAP, MREAD, the staging of a block (R178, R180 to R182). -/
def State.instantOp (s : State) (ck : Nat) (o : SliceOp) : Option State :=
  match o with
  | .mzero first count => some ((s.dropOp ck o).updSlice ck fun l => l.zero first count)
  | .wswap => some ((s.dropOp ck o).updSlice ck fun l => { l with active := l.shadow, shadow := l.active })
  | .stage b => some ((s.dropOp ck o).updSlice ck fun l => { l with staged := b })
  | .mread slot g vd => some ((s.dropOp ck o).updCore ck fun c =>
      { c with pend := c.pend ++ [{ due := c.cycle + 6, slot, op := .vec vd (c.slice.row g) 0 }] })
  | _ => none

/-- The operations of a slice that may act and need no time are performed, in order. -/
def State.advanceFuel (s : State) (ck : Nat) : Nat → State
  | 0 => s
  | n + 1 =>
    match (s.core ck).readyOps.findSome? (s.instantOp ck) with
    | none => s
    | some t => t.advanceFuel ck n

def State.advanceSlice (s : State) (ck : Nat) : State := s.advanceFuel ck (s.core ck).slice.ops.length

/-- A head puts an operation into its core's order. -/
def State.enterOp (s : State) (o : SliceOp) : State :=
  (s.updSlice (coreOf s.cur) fun l => { l with ops := l.ops ++ [o] }).advanceSlice (coreOf s.cur)

/-- WSWAP (R180). -/
def execWswap (s : State) : Res := runHead {} s fun _ t => .next (t.enterOp .wswap)

/-- MZERO (R181). -/
def execMzero (first : BitVec 6) (count : BitVec 7) (s : State) : Res :=
  runHead {} s fun _ t => .next (t.enterOp (.mzero first.toNat count.toNat))

/-- MREAD (R182): the register is busy until the row arrives. -/
def execMread (d : VReg) (g : BitVec 22) (s : State) : Res :=
  runHead { vs := [d] } s fun _ t =>
    .next ((t.updMe fun x => { x with busy := x.busy ++ [64 + d.toNat] }).enterOp (.mread (slotNo t.cur) g.toNat d.toNat))

/-! ## Geometry (R168, R169) -/

def clampTo (x : Int) (h : Nat) : Nat := if x < 0 then 0 else Nat.min x.toNat h

/-- The seven values of GEOM. -/
structure GeomVals where
  mlo : Nat
  mcnt : Nat
  nlo : Nat
  ncnt : Nat
  klo : Nat
  kcnt : Nat
  deriving DecidableEq, Repr

/-- The values of a core's tile, by the registers and the core's number (R169). -/
def geomVals (r : Nat → Word) (c : Nat) : GeomVals :=
  let gx := Nat.max (fld (r 0) 0 12) 1
  let gy := Nat.max (fld (r 0) 16 12) 1
  let kd := if fld (r 0) 32 1 = 0 then 32 else 64
  let gxi := fld (r 1) 0 12
  let gyi := fld (r 1) 16 12
  let m := fld (r 2) 0 21
  let n := fld (r 2) 21 21
  let k := fld (r 2) 42 21
  let out := decide (gx ≤ gxi ∨ gy ≤ gyi)
  let nb := (n + 31) / 32
  let mqLo := if out then 0 else m * gyi / gy
  let mqHi := if out then 0 else m * (gyi + 1) / gy
  let nqLo := if out then 0 else 32 * (nb * gxi / gx)
  let nqHi := if out then 0 else Nat.min n (32 * (nb * (gxi + 1) / gx))
  let mlo := mqLo + fld (r 3) 0 21
  let nlo := nqLo + fld (r 3) 21 21 + 32 * c
  let ko := fld (r 3) 42 21
  { mlo, mcnt := clampTo ((mqHi : Int) - mlo) 64, nlo, ncnt := clampTo ((nqHi : Int) - nlo) 32, klo := ko
    kcnt := clampTo ((k : Int) - ko) kd }

def State.geomOf (s : State) (ck : Nat) : GeomVals := geomVals (fun n => FMap.get 0 (s.core ck).geom n) (coreNo ck)

/-- GEOM (R169). -/
def execGeom (sel : GeomSel) (d : Reg) (s : State) : Res :=
  runHead { wr := [d] } s fun _ t =>
    let g := t.geomOf (coreOf t.cur)
    put t d (word (match sel with
      | .mlo => g.mlo
      | .mcnt => g.mcnt
      | .nlo => g.nlo
      | .ncnt => g.ncnt
      | .klo => g.klo
      | .kcnt => g.kcnt
      | .edge => (2 ^ g.ncnt - 1) + g.kcnt * 2 ^ 32 + g.mcnt * 2 ^ 40)) 3

/-! ## Reads of the yoke (R186, R188) -/

/-- What a read of whole sectors answers. -/
inductive YokeRead where
  | ok (v : Nat)
  | wait
  | fail (a : Word) (reason : Nat) (final : Bool)
  deriving DecidableEq, Repr

/-- One sector or table chunk, of n bytes, read for a slot, behind the slot's own local stores (R186). -/
def State.yokeSector (s : State) (tk : Nat) (a : Word) (n : Nat) : YokeRead :=
  match s.engineRaw tk (s.pidOf tk) permR a n with
  | .error e => .fail a (s.reasonOf e).1 (s.reasonOf e).2
  | .ok k => if s.owned k n || s.storeDue tk s.ids k n || s.endClosed tk (s.pidOf tk) a then .wait else .ok (s.rd k n)

/-- `n` sectors of 32 bytes from an address, as one number, lowest first. -/
def State.yokeRead (s : State) (tk : Nat) (a : Word) : Nat → YokeRead
  | 0 => .ok 0
  | n + 1 =>
    match s.yokeSector tk a 32 with
    | .wait => .wait
    | .fail x r f => .fail x r f
    | .ok v =>
      -- a read of another quad's share that passes the end of its offsets is denied (R192, R197)
      match if n ≠ 0 ∧ space a = 1 ∧ 2 ^ 24 ≤ offset a + 32 then
          .fail (a + 32#64) (s.reasonOf .denied).1 (s.reasonOf .denied).2 else s.yokeRead tk (a + 32#64) n with
      | .ok w => .ok (v + w * 2 ^ 256)
      | x => x

/-- The slot that pushed or issued an operation. -/
def agentOf (ck slot : Nat) : Nat := ck * 8 + slot % 8

/-- A count of TLC ends at a slot, when the operation still counts there (R178, R189). -/
def State.endTile (s : State) (ck slot : Nat) : State := if slot < 8 then s.endCount (ck * 8 + slot) 6 else s

/-- A handback of the yoke (R188): a slot that has become free, or has been ripped, receives none; none while another
handback of the slot is pending. -/
def State.yokeBack (s : State) (ck slot kind : Nat) (ws : List Word) (a : Word) (reason : Nat) (final : Bool) : Option State :=
  if 8 ≤ slot ∨ (s.slot (ck * 8 + slot)).st = .free then some s
  else s.handback (ck * 8 + slot) kind ws a false final reason

/-! ## The pattern table (R160, R161) -/

/-- LTAB (R160). -/
def execLtab (a : Reg) (s : State) : Res :=
  runHead { rd := [a] } s fun v t =>
    let x := v a
    memWait t 0 x ((firstTrap [spaceCheck t.super x,
      failIf (!(decide (space x = 0 ∧ window x = 0) || decide (space x = 1 ∧ window x = 0) || decide (space x = 2))) 0x02 x,
      failIf (decide (x.toNat % 64 ≠ 0)) 0x04 x,
      if space x = 0 then t.localCheck t.cur permR x 1024 else none]).orElse
      (roomFor t 6
        (let t1 : State := { t.takeId with ltabs := t.ltabs ++ [{ id := t.ids, thr := t.cur, addr := x }] }
        .next (t1.addCount t.cur 6))))

/-- LTAB_DONE (R160, R161): the whole table is replaced at once. -/
def execLtabDone (id : Nat) (s : State) : Res :=
  event s (do
    let o ← s.ltabs.find? fun o => decide (o.id = id)
    if (s.quad (quadOf o.thr)).contained then none
    else match s.yokeRead o.thr o.addr 32 with
      | .ok v =>
        let tab : FMap (BitVec 32) := (List.range 256).foldl (fun m i => FMap.set 0 m i (BitVec.ofNat 32 (bitsAt v (32 * i) 32))) []
        let t : State := { s with ltabs := s.ltabs.filter fun x => decide (x.id ≠ id) }
        pure (((t.engineFill o.thr (t.pidOf o.thr) permR o.addr 1024).updQuad (quadOf o.thr) fun q => { q with ltab := tab }).endCount o.thr 6)
      | _ => none)

/-! ## Scale blocks (R163 to R167) -/

/-- Bytes of a block's image (R163). -/
def Scale.bytes (b : Scale) : Nat := 8 + (b.codes.length + 7) / 8 * 8

/-- Bytes of the quad's scale buffer in use (R164). -/
def State.scaleUse (s : State) (pid qi : Nat) : Nat :=
  ((List.range 4).map fun c => ((s.coreIn pid (qi * 4 + c)).slice.scales.map Scale.bytes).sum).sum

/-- EINFO of a failed pairing (R165), none when it succeeds; `need` is the count that a plane requires. -/
def pairCheck (queue : List Scale) (e : Nat) (need : Option Nat) : Option Word :=
  match queue.head? with
  | none => some (word (e + 2 ^ 32))
  | some b =>
    let n := b.codes.length
    if b.seq.toNat ≠ e then some (word (e + b.seq.toNat * 2 ^ 16 + n * 2 ^ 34))
    else match need with
      | none => none
      | some k => if n = k then none else some (word (e + b.seq.toNat * 2 ^ 16 + 2 ^ 33 + n * 2 ^ 34))

/-- SBTAKE (R167, R178): behind a gang of the core that has not joined, the block is staged when it has; D says what stands staged, or
waits to be, at issue (log entry 160). -/
def execSbtake (d a : Reg) (s : State) : Res :=
  runHead { rd := [a], wr := [d] } s fun v t =>
    let x := v a
    let ck := coreOf t.cur
    let l := (t.core ck).slice
    if fld x 17 47 ≠ 0 then .trap 0x02 x
    else if x.getLsbD 16 then
      match l.scales with
      | [] => put t d (BitVec.allOnes 64) 3
      | b :: rest => put (t.updSlice ck fun l => { l with scales := rest }) d (zext b.seq) 3
    else match pairCheck l.scales (fld x 0 16) none with
      | some info => .trap 0x08 info
      | none =>
        if l.ops.any fun o => o.unjoined || o.stages then
          put ((t.updSlice ck fun l => { l with scales := l.scales.tail }).enterOp (.stage l.scales.head?)) d
            (flag (l.staged.isSome || l.ops.any SliceOp.stages)) 3
        else put (t.updSlice ck fun l => { l with scales := l.scales.tail, staged := l.scales.head? }) d (flag l.staged.isSome) 3

/-! ## Planes (R157, R162, R166, R179) -/

/-- KD of a plane format, by its window (R157). -/
def depthOf (w : Nat) : Nat := if w = 1 ∨ w = 2 then 32 else 64
/-- Image bytes (R157). -/
def imageBytes (w : Nat) : Nat := if w = 6 then 1024 else if w = 7 then 512 else 2048
/-- The window's weights are integers (R158). -/
def intWindow (w : Nat) : Bool := decide (w = 5 ∨ w = 6)

/-- A value times 2^(code − 127); the code 255 is a NaN (R166, R174). -/
def scaleBy (v : FVal) (code : Nat) : FVal := if code = 255 then canonNan else fscale v ((code : Int) - 127)

/-- Weight (k, n) of an image (R157, R162, R166). -/
def weightOf (w : Nat) (tab : FMap (BitVec 32)) (scale : Option Scale) (img k n : Nat) : Elem :=
  let code : Nat := match scale with
    | none => 127
    | some b => (b.codes.getD (if w = 1 ∨ w = 2 then n else n * 2 + k / 32) 0).toNat
  match w with
  | 5 => .int (sval 8 (bitsAt img (8 * (k * 32 + n)) 8))
  | 6 => .int (sval 4 (bitsAt img (4 * (k * 32 + n)) 4))
  | 7 =>
    let i := bitsAt img (16 * (n * 8 + k / 8)) 16
    .flt ((lt2 i (FMap.get 0 tab (i / 256)).toNat code).getD (k % 8) canonNan)
  | _ => match winFmt w with
    | some f => .flt (scaleBy (f.decode (bitsAt img (winBits w * (k * 32 + n)) (winBits w))) code)
    | none => .flt (.fin false 0 0)

/-- What an unlisted weight of a plane is. -/
def zeroElem : Elem := .flt (.fin false 0 0)

/-- A plane from its image. -/
def planeOf (w : Nat) (tab : FMap (BitVec 32)) (scale : Option Scale) (img : Nat) : Plane :=
  { fmt := w
    w := ((List.range (depthOf w * 32)).foldl (fun (acc : FMap Elem) i =>
      let e := weightOf w tab scale img (i / 32) (i % 32)
      if e = zeroElem then acc else (i, e) :: acc) []).reverse }

/-- The footprint of a yoke read leaves its window, its share or its space. -/
def State.leaves (s : State) (tk : Nat) (a : Word) (n : Nat) : Bool :=
  !mustBeZero a || decide ((if space a = 0 then s.spSize (s.pidOf tk) else 2 ^ 24) < offset a + n)

/-- The first byte that the local guard refuses (R195). -/
def State.guardRefuses (s : State) (tk : Nat) (p : Perm) (a : Word) (n : Nat) : Option Word :=
  if space a = 0 then ((s.slot tk).sr.refused p (offset a) n).map fun o => atOffset a o else none

/-- The guard's refusal as a check. -/
def State.guardTrap (s : State) (tk : Nat) (p : Perm) (a : Word) (n : Nat) : Check := (s.guardRefuses tk p a n).map fun x => (0x05, x)

/-- WLOAD and WLOAD.sc (R179): the checks, and the image's reading in its place in the order. -/
def wload (sc : Bool) (a b : Reg) (s : State) : Res :=
  runHead { rd := [a, b] } s fun v t =>
    let x := v a
    let w := window x
    let ck := coreOf t.cur
    let l := (t.core ck).slice
    memWait t 0 x ((firstTrap [spaceCheck t.super x,
      failIf (!(decide (space x = 0) || decide (space x = 1))) 0x02 x,
      failIf (decide (w = 0) || (sc && intWindow w)) 0x02 x,
      failIf (decide (x.toNat % 64 ≠ 0)) 0x04 x,
      failIf (t.leaves t.cur x (imageBytes w)) 0x0D x,
      t.guardTrap t.cur permR x (imageBytes w),
      if sc then (pairCheck l.scales (fld (v b) 0 16) (some (depthOf w))).map fun info => (0x08, info) else none]).orElse
      (roomFor t 6
        (let t1 := if sc then t.updSlice ck fun l => { l with scales := l.scales.tail } else t
        .next ((t1.takeId.enterOp (.wload t.ids (slotNo t.cur) x (v b) (if sc then l.scales.head? else none))).addCount t.cur 6))))
/-- WLOAD (R179). -/
def execWload (a b : Reg) (s : State) : Res := wload false a b s
/-- WLOAD.sc (R179). -/
def execWloadSc (a b : Reg) (s : State) : Res := wload true a b s

/-- WLOAD_DONE (R161, R162, R179): the whole image has been read, and the shadow plane changes at once. -/
def execWloadDone (ck : Nat) (s : State) : Res :=
  unitEvent (coreOk ck) ck s (do
    let o ← (s.core ck).readyOps.find? fun o => match o with
      | .wload _ _ _ _ _ => true
      | _ => false
    match o with
    | .wload id slot a _ scale =>
      if (s.quad (quadOfCore ck)).contained then none
      else match s.yokeRead (agentOf ck slot) a (imageBytes (window a) / 32) with
        | .ok img =>
          let p := planeOf (window a) (s.quad (quadOfCore ck)).ltab scale img
          pure (((((s.engineFill (agentOf ck slot) (s.pidOf (agentOf ck slot)) permR a (imageBytes (window a))).dropOpId ck id).updSlice ck fun l => { l with shadow := p }).endTile ck slot).advanceSlice ck)
        | _ => none
    | _ => none)

/-! ## Gangs (R170 to R177) -/

/-- GANG (R171): the slot blocks at the head until the join. -/
def execGang (a : Reg) (s : State) : Res :=
  runReply { rd := [a] } s (fun v t =>
    let x := v a
    (firstTrap [spaceCheck t.super x, failIf (!decide (space x = 0 ∧ window x = 0)) 0x02 x,
      failIf (decide (x.toNat % 32 ≠ 0)) 0x04 x,
      t.localCheck t.cur permR x 32]).orElse
      (memWait t 0 x
        (.keep (((t.takeId.enterOp (.gang t.ids (slotNo t.cur) true x t.me.pc)).await).blockMe (.gang t.ids)))))
    (fun _ t => .next t)

/-- C28_STREAM_COMMAND (R172): what a head that writes c28 does in its write cycle. -/
def execC28StreamCommand (ck slot : Nat) (v : Word) (s : State) : Res :=
  unitEvent (coreOk ck && decide (slot < 8)) ck s (s.pushPort ck slot 60 v (s.slot (ck * 8 + slot)).pc)

/-- An entry of a join: its name, slot, kind, address and PC. -/
structure JoinEnt where
  ck : Nat
  id : Nat
  slot : Nat
  head : Bool
  addr : Word
  pc : Word
  /-- The operations before it in its core's order. -/
  before : List SliceOp
  deriving DecidableEq, Repr

/-- The oldest entry of a core's gang sequence. -/
def firstGang (ck : Nat) (seen : List SliceOp) : List SliceOp → Option JoinEnt
  | [] => none
  | .gang id slot head addr pc :: _ => some { ck, id, slot, head, addr, pc, before := seen }
  | o :: os => firstGang ck (seen ++ [o]) os

/-- The window of the plane that will be active when the operations before an entry are done, and the shadow's. -/
def planeAfter (ops : List SliceOp) (act sha : Nat) : Nat × Nat :=
  match ops with
  | [] => (act, sha)
  | .wload _ _ a _ _ :: os => planeAfter os act (window a)
  | .wswap :: os => planeAfter os sha act
  | _ :: os => planeAfter os act sha

/-- A load that has still to be read decides the plane of a later gang. -/
def loadThenSwap : List SliceOp → Bool
  | [] => false
  | .wload _ _ _ _ _ :: os => os.contains .wswap || loadThenSwap os
  | _ :: os => loadThenSwap os

/-- A gang descriptor (R170). -/
structure GangDesc where
  w0 : Word
  w1 : Word
  w2 : Word
  w3 : Word
  deriving DecidableEq, Repr

def GangDesc.stride (g : GangDesc) : Nat := fld g.w1 0 24
def GangDesc.m (g : GangDesc) : Nat := fld g.w2 0 7
def GangDesc.acc (g : GangDesc) : Nat := fld g.w2 8 6
def GangDesc.idle (g : GangDesc) : Bool := g.w2.getLsbD 16
def GangDesc.zero (g : GangDesc) : Bool := g.w2.getLsbD 17
def GangDesc.edge (g : GangDesc) : Bool := g.w2.getLsbD 18
def GangDesc.asc (g : GangDesc) : Bool := g.w2.getLsbD 19
def GangDesc.reserved (g : GangDesc) : Bool :=
  !decide (fld g.w1 24 40 = 0 ∧ fld g.w2 20 44 = 0 ∧ fld g.w2 14 2 = 0 ∧ fld g.w2 7 1 = 0 ∧ g.w3 = 0#64)

def State.gangDesc (s : State) (e : JoinEnt) : GangDesc :=
  let k := s.localKey (e.ck * 8) (offset e.addr)
  { w0 := s.rd8 k, w1 := s.rd8 (k + 8), w2 := s.rd8 (k + 16), w3 := s.rd8 (k + 24) }

/-- The bytes of an activation row (R170). -/
def rowBytes (w : Nat) : Nat := if w = 6 then 32 else 64

/-- The mode admits an activation window with a plane of another (R158). -/
def pairs (plane act : Nat) : Bool :=
  match plane with
  | 1 | 2 => decide (act = 1 ∨ act = 2)
  | 3 | 4 | 7 => decide (act = 3 ∨ act = 4)
  | _ => decide (act = 5 ∨ act = 6)

/-- The part of a core in a gang (R174). -/
def State.gangPart (s : State) (e : JoinEnt) (d : GangDesc) : GangPart :=
  let g := s.geomOf e.ck
  { idle := d.idle, edge := d.edge, zero := d.zero, asc := d.asc, acc := d.acc, ncnt := g.ncnt, mcnt := g.mcnt, kcnt := g.kcnt
    scale := if d.asc then (s.core e.ck).slice.staged else none, slot := e.slot }

/-- Element k of row m is excluded for a part (R174). -/
def GangPart.skips (p : GangPart) (m k : Nat) : Bool :=
  p.idle || (p.edge && decide (p.ncnt = 0 ∨ p.mcnt ≤ m ∨ p.kcnt ≤ k))

/-- The sectors of row m that are read: some element in them is used by some part. -/
def sectorsRead (ps : List GangPart) (w m : Nat) : List Nat :=
  let per := depthOf w * 32 / rowBytes w
  (List.range (rowBytes w / 32)).filter fun j => (List.range per).any fun i => ps.any fun p => !p.skips m (j * per + i)

/-- A failed check of a join: cause, EINFO or REASON, and the core of the descriptor. -/
structure JoinFail where
  core : Nat
  cause : Nat
  info : Word
  deriving DecidableEq, Repr

/-- The first core, in order, that fails a step. -/
def joinStep {α : Type} (es : List α) (f : α → Option JoinFail) : Option JoinFail := es.findSome? f

def joinBad (c : Bool) (core reason : Nat) : Option JoinFail := if c then some { core, cause := 0x02, info := word reason } else none
def joinAt (c : Bool) (core cause : Nat) (a : Word) : Option JoinFail := if c then some { core, cause, info := a } else none

/-- Steps 1 to 3 (R173): the addresses of c28 entries. -/
def State.joinAddr (s : State) (es : List JoinEnt) : Option JoinFail :=
  let cs := es.filter fun e => !e.head
  (joinStep cs fun e => joinBad (!decide (space e.addr = 0 ∧ window e.addr = 0)) (coreNo e.ck) 1).or
    ((joinStep cs fun e => joinAt (decide (e.addr.toNat % 32 ≠ 0)) (coreNo e.ck) 0x04 e.addr).or
      (joinStep cs fun e =>
        if !mustBeZero e.addr then some { core := coreNo e.ck, cause := 0x0D, info := e.addr }
        else (s.localCheck (agentOf e.ck e.slot) permR e.addr 32).map fun c => { core := coreNo e.ck, cause := c.1, info := c.2 }))

/-- The address of row m's sector j. -/
def sectorAddr (asrc : Word) (stride m j : Nat) : Word := asrc + word (m * stride + 32 * j)

/-- Steps 4 to 14 (R173), for the descriptors of the cores that take part; the first of them is the leader's. -/
def State.joinCheck (s : State) (act : List (JoinEnt × GangDesc)) (ps : List GangPart) (fmt : JoinEnt → Nat) : Option JoinFail :=
  match act with
  | [] => none
  | (le, ld) :: _ =>
    let w := window ld.w0
    let a := ld.w0
    let rows := List.range ld.m
    let c0 := coreNo le.ck
    let each (f : JoinEnt → GangDesc → Option JoinFail) : Option JoinFail := joinStep act fun x => f x.1 x.2
    let tk := agentOf le.ck le.slot
    let secs := rows.flatMap fun m => (sectorsRead ps w m).map fun j => sectorAddr a ld.stride m j
    ([each fun e d => joinBad d.reserved (coreNo e.ck) 2,
      each fun e d => joinBad (decide (d.m = 0 ∨ 64 < d.m ∨ 64 < d.acc + d.m)) (coreNo e.ck) 3,
      each fun e d => joinBad (decide (d.w0 ≠ a ∨ d.stride ≠ ld.stride ∨ d.m ≠ ld.m)) (coreNo e.ck) 4,
      joinBad (!decide (space a = 0 ∨ space a = 1)) c0 5,
      (joinAt (decide (a.toNat % 32 ≠ 0)) c0 0x04 a).or (joinAt (decide (ld.stride % 32 ≠ 0)) c0 0x04 (a + word ld.stride)),
      each fun e _ => joinBad (!pairs (fmt e) w) (coreNo e.ck) 6,
      each fun e d => joinBad (d.asc && intWindow (fmt e)) (coreNo e.ck) 7,
      each fun e d => joinBad (d.asc && (s.core e.ck).slice.staged.isNone) (coreNo e.ck) 8,
      each fun e d => joinBad (d.asc && (match (s.core e.ck).slice.staged with
        | none => false
        | some b => decide (b.codes.length - b.used ≠ d.m * depthOf (fmt e) / 32))) (coreNo e.ck) 9,
      (secs.findSome? fun x => s.guardRefuses tk permR x 32).map fun x => { core := c0, cause := 0x05, info := x },
      (rows.findSome? fun m =>
        let x := sectorAddr a ld.stride m 0
        if !mustBeZero a || decide ((if space a = 0 then s.spSize (s.pidOf tk) else 2 ^ 24) < offset a + m * ld.stride + rowBytes w)
        then some x else none).map fun x => { core := c0, cause := 0x0D, info := x }] : List (Option JoinFail)).findSome? id

/-- EINFO for a core (R173). -/
def JoinFail.einfo (f : JoinFail) (c : Nat) : Word :=
  if f.cause = 0x02 then word (f.info.toNat + f.core * 256 + bit (decide (c ≠ f.core)) * 1024) else f.info

/-- The gang is void (R173): every entry leaves the sequence, and each core takes the trap at its own. -/
def State.voidGang (s : State) (es : List JoinEnt) (f : JoinFail) : State :=
  es.foldl (fun t e =>
    let info := f.einfo (coreNo e.ck)
    let tk := agentOf e.ck e.slot
    let t1 := t.dropOpId e.ck e.id
    let t2 := if e.head then t1.enterTrap tk f.cause info e.pc
      else if 8 ≤ e.slot then
        t1.service (t1.pidOf tk) { kind := 0x41, thread := t1.relThread tk, info, w2 := e.pc, w3 := word f.cause }
      else (t1.endTile e.ck e.slot).postOrReport tk f.cause info e.pc
    t2.advanceSlice e.ck) s

/-- A head is performed at the join (R171). -/
def State.headDone (s : State) (e : JoinEnt) : State := if e.head then s.reply (agentOf e.ck e.slot) 0 else s

/-- An entry joins (R173, R178): a slice that takes part has the gang in its order, consumes its staged block, and counts. -/
def State.joinOne (s : State) (gid : Nat) (e : JoinEnt) (d : GangDesc) : State :=
  let run (o : SliceOp) : SliceOp := if o.id = e.id then .running gid else o
  if d.idle then
    let t := ((s.dropOpId e.ck e.id).headDone e)
    ((if e.head then t else t.endTile e.ck e.slot).advanceSlice e.ck)
  else
    let t := ((s.updSlice e.ck fun l => { l with ops := l.ops.map run, staged := if d.asc then none else l.staged }).advanceSlice e.ck).headDone e
    if e.head then t.addCount (agentOf e.ck e.slot) 6 else t

/-- GANG_JOIN (R172, R173): the four oldest entries join. -/
def execGangJoin (qi : Nat) (s : State) : Res :=
  unitEvent (quadOk qi) qi s (do
    let q := s.quad qi
    let cks := (List.range 4).map fun c => qi * 4 + c
    let es := cks.filterMap fun ck => firstGang ck [] (s.core ck).slice.ops
    if es.length ≠ 4 ∨ q.halted = true ∨ q.contained = true then none
    else if es.any fun e => loadThenSwap e.before || e.before.any SliceOp.stages then none
    else match s.joinAddr es with
      | some f => pure (s.voidGang es f)
      | none =>
        if es.any fun e => let k := s.localKey (e.ck * 8) (offset e.addr); s.owned k 32 || s.storeDue (agentOf e.ck e.slot) s.ids k 32 then none
        else
          let ds := es.map fun e => (e, s.gangDesc e)
          let act := ds.filter fun x => !x.2.idle
          let ps := ds.map fun x => s.gangPart x.1 x.2
          let fmt (e : JoinEnt) : Nat :=
            (planeAfter e.before (s.core e.ck).slice.active.fmt (s.core e.ck).slice.shadow.fmt).1
          match s.joinCheck act ps fmt with
          | some f => pure (s.voidGang es f)
          | none =>
            if act.any fun x => x.1.head && decide (15 ≤ (s.slot (agentOf x.1.ck x.1.slot)).cnt.tlc) then none
            else
              let gid := s.ids
              let t := ds.foldl (fun u x => u.joinOne gid x.1 x.2) s.takeId
              match act with
              | [] => pure t
              | (le, ld) :: _ =>
                let g : Gang := { id := gid, asrc := ld.w0, stride := ld.stride, rows := ld.m, kd := depthOf (fmt le), parts := ps }
                pure (t.updQuad qi fun q => { q with gangs := q.gangs ++ [g] }))

/-! ## Sums (R174, R175) -/

def Elem.val : Elem → FVal
  | .flt v => v
  | .int v => ofInt v 0 .rne
def Elem.num : Elem → Int
  | .int v => v
  | .flt _ => 0

/-- The exact sum of terms (R175): −0 when every term is −0 and there is one, else +0 for a zero sum. -/
def exactSum : List FVal → FVal
  | [] => .fin false 0 0
  | v :: vs => vs.foldl (fadd .rne) v

/-- A sum rounded once; a NaN is the canonical one. -/
def rnd64 (v : FVal) : Word := if v.isNan then 0x7FF8000000000000#64 else word (fp64.encode .rne 0 v)

/-- combine in float mode (R175). -/
def combineF (acc : Word) (terms : List FVal) (zero : Bool) : Word :=
  let sum := exactSum terms
  if sum.isNan then rnd64 sum
  else if zero then rnd64 sum
  else rnd64 (fadd .rne (fp64.decode acc.toNat) sum)

/-- combine in integer mode (R175). -/
def combineI (acc : Word) (terms : List Int) (zero : Bool) : Word :=
  let sum := BitVec.ofInt 64 terms.sum
  if zero then sum else acc + sum

/-- Element k of an activation row, in float mode and in integer mode. -/
def actVal (w row k : Nat) : FVal :=
  match winFmt w with
  | some f => f.decode (bitsAt row (winBits w * k) (winBits w))
  | none => .fin false 0 0
def actInt (w row k : Nat) : Int := sval (winBits w) (bitsAt row (winBits w * k) (winBits w))

/-- The stream term's scale of a part (R174): code m × KD / 32 + k div 32 of its block, past the codes already used. -/
def GangPart.code (p : GangPart) (kd m k : Nat) : Nat :=
  match p.scale with
  | none => 127
  | some b => (b.codes.getD (b.used + m * (kd / 32) + k / 32) 0).toNat

/-- Row m accumulated in one slice (R174). -/
def Slice.accumulate (l : Slice) (p : GangPart) (w kd m row : Nat) : Slice :=
  let ks := (List.range kd).filter fun k => !p.edge || decide (k < p.kcnt)
  let ns := (List.range 32).filter fun n => !p.edge || decide (n < p.ncnt ∧ m < p.mcnt)
  let weight (k n : Nat) : Elem := FMap.get zeroElem l.active.w (k * 32 + n)
  let stream : List (Nat × FVal) := ks.map fun k => (k, if p.asc then scaleBy (actVal w row k) (p.code kd m k) else actVal w row k)
  ns.foldl (fun x n =>
    let old := l.accAt (p.acc + m) n
    x.setAcc (p.acc + m) n (if intWindow w then combineI old (ks.map fun k => actInt w row k * (weight k n).num) p.zero
      else combineF old (stream.map fun e => fmul e.2 (weight e.1 n).val) p.zero)) l

/-- Sectors of a row, as one number in their places; the ones that are not read are zero. -/
def State.rowRead (s : State) (tk : Nat) (a : Word) : List Nat → YokeRead
  | [] => .ok 0
  | j :: js =>
    match s.yokeSector tk (a + word (32 * j)) 32 with
    | .wait => .wait
    | .fail x r f => .fail x r f
    | .ok v =>
      match s.rowRead tk a js with
      | .ok w => .ok (v * 2 ^ (256 * j) + w)
      | x => x

/-- The parts of a gang that take part, with their cores. -/
def Gang.active (g : Gang) (qi : Nat) : List (Nat × GangPart) :=
  ((g.parts.zipIdx.map fun p => (qi * 4 + p.2, p.1)).filter fun p => !p.2.idle)

/-- The gang's place has come in every slice that takes part. -/
def State.gangReady (s : State) (qi : Nat) (g : Gang) : Bool :=
  (g.active qi).all fun p => (s.core p.1).readyOps.contains (.running g.id)

/-- A gang has accumulated its last row: its counts end (R178). -/
def State.gangEnd (s : State) (qi : Nat) (g : Gang) : State :=
  (g.active qi).foldl (fun t p => ((t.dropOpId p.1 g.id).endTile p.1 p.2.slot).advanceSlice p.1)
    (s.updQuad qi fun q => { q with gangs := q.gangs.tail })

/-- GANG_ROW (R174 to R177, R188): the next row of the quad's oldest gang is read once and accumulated in every slice; a
row that cannot be read ends the gang there. -/
def execGangRow (qi : Nat) (s : State) : Res :=
  unitEvent (quadOk qi) qi s (do
    let g ← (s.quad qi).gangs.head?
    let lead ← (g.active qi).head?
    if (s.quad qi).contained || g.failed.isSome || !s.gangReady qi g then none
    else
      let w := window g.asrc
      let tk := agentOf lead.1 lead.2.slot
      match s.rowRead tk (sectorAddr g.asrc g.stride g.row 0) (sectorsRead g.parts w g.row) with
      | .wait => none
      | .fail a r f => pure (s.updQuad qi fun q => { q with gangs := { g with failed := some (a, r, f) } :: q.gangs.tail })
      | .ok row =>
        let t := (g.active qi).foldl (fun t p => t.updSlice p.1 fun l => l.accumulate p.2 w g.kd g.row row)
          (s.engineFill tk (s.pidOf tk) permR (sectorAddr g.asrc g.stride g.row 0) (rowBytes w))
        if g.row + 1 < g.rows then pure (t.updQuad qi fun q => { q with gangs := { g with row := g.row + 1 } :: q.gangs.tail })
        else pure (t.gangEnd qi g))

/-! ## Draining (R184, R185) -/

/-- An accumulator in an output format (R184). -/
def drainElem (fmt : OFmt) (r : Rnd) (acc : Word) : Nat :=
  let v := fp64.decode acc.toNat
  let narrow (f : Fmt) : Nat := if v.isNan then convert fp32 f r 0 (convert fp64 fp32 r 0 acc.toNat) else f.encode r 0 v
  match fmt with
  | .f32 => narrow fp32
  | .bf16 => narrow bf16
  | .fp16 => narrow fp16
  | .e4m3 => narrow e4m3
  | .e5m2 => narrow e5m2
  | .int8 => satS 8 acc.toInt
  | .i32 => satS 32 acc.toInt
  | .f64 | .i64 => acc.toNat

/-- first and count of MDRAIN's b (R184). -/
def drainRows (b : Word) : Nat × Nat := (fld b 0 6, fld b 6 7)
def drainBad (b : Word) : Bool := decide (fld b 13 51 ≠ 0 ∨ fld b 6 7 = 0 ∨ 64 < fld b 0 6 + fld b 6 7)

/-- The rows of a drain to scratchpad: the first check that fails. -/
def State.drainTrap (s : State) (tk : Nat) (a c : Word) (count n : Nat) : Check :=
  let row (j : Nat) : Word := a + word j * c
  let js := List.range count
  firstTrap [js.findSome? fun j => failIf (!decide (space (row j) = 0 ∧ window (row j) = 0) || s.leaves tk (row j) n) 0x0D (row j),
    js.findSome? fun j => s.guardTrap tk permW (row j) n,
    js.findSome? fun j => s.localWrite tk (row j) n]

/-- MDRAIN to local scratchpad (R184). -/
def execMdrain (fmt : OFmt) (r : Rnd) (a b c : Reg) (s : State) : Res :=
  runHead { rd := [a, b, c] } s fun v t =>
    let x := v a
    let rc := drainRows (v b)
    memWait t 0 x ((firstTrap [
      failIf (drainBad (v b)) 0x02 (v b),
      spaceCheck t.super x,
      failIf (!decide (space x = 0 ∧ window x = 0)) 0x02 x,
      failIf (decide (x.toNat % 32 ≠ 0)) 0x04 x]).orElse
      (if (v c).toNat % 32 ≠ 0 then .trapFree 0x04 else (t.drainTrap t.cur x (v c) rc.2 (32 * outBytes fmt)).orElse (roomFor t 6 (.next ((t.takeId.enterOp
        (.mdrain t.ids (slotNo t.cur) false fmt r x rc.1 rc.2 (v c).toNat 0 0)).addCount t.cur 6)))))

/-- MDRAIN.port (R184, R185). -/
def execMdrainPort (fmt : OFmt) (r : Rnd) (b : Reg) (s : State) : Res :=
  runHead { rd := [b] } s fun v t =>
    let rc := drainRows (v b)
    if drainBad (v b) then .trap 0x02 (v b)
    else if t.acquiring then .block .acquire
    else roomFor t 6 (.next ((t.takeId.enterOp
      (.mdrain t.ids (slotNo t.cur) true fmt r 0 rc.1 rc.2 0 0 0)).addCount t.cur 6))

/-- The oldest drain of a core that may act. -/
def Core.drain (c : Core) (port : Bool) : Option SliceOp :=
  c.readyOps.find? fun o => match o with
    | .mdrain _ _ p _ _ _ _ _ _ _ _ => p == port
    | _ => false

/-- A drain of a core goes on as another, or ends. -/
def State.stepDrain (s : State) (ck : Nat) (o next : SliceOp) (last : Bool) (slot : Nat) : State :=
  if last then ((s.dropOp ck o).endTile ck slot).advanceSlice ck
  else s.updSlice ck fun l => { l with ops := l.ops.map fun x => if x = o then next else x }

/-- MDRAIN_ROW_WRITE (R184): one row is converted and written. -/
def execMdrainRowWrite (ck : Nat) (s : State) : Res :=
  unitEvent (coreOk ck) ck s (do
    let o ← (s.core ck).drain false
    match o with
    | .mdrain id slot false fmt r a first count stride row col =>
      let n := 32 * outBytes fmt
      let k := s.localKey (agentOf ck slot) (offset (a + word (row * stride)))
      if (s.quad (quadOfCore ck)).contained || s.ownedBy id k n || s.behind (agentOf ck slot) id k n then none
      else
        let bs := (List.range 32).flatMap fun i => leBytes (outBytes fmt) (drainElem fmt r ((s.core ck).slice.accAt (first + row) i))
        pure (((s.noteBlock (quadOfCore ck) k).wrBytes k bs).stepDrain ck o (.mdrain id slot false fmt r a first count stride (row + 1) col)
          (decide (count ≤ row + 1)) slot)
    | _ => none)

/-- A handle (R185). -/
def drainHandle (fmt : OFmt) (row col : Nat) (v : Nat) (last : Bool) : Word :=
  word (v % 2 ^ 32 + col * 2 ^ 32 + row * 2 ^ 37 + fmt.code * 2 ^ 43 + bit last * 2 ^ 63)

/-- MDRAIN_HANDLE_PUSH (R185): one handle, when the read side has room. -/
def execMdrainHandlePush (ck : Nat) (s : State) : Res :=
  unitEvent (coreOk ck) ck s (do
    let o ← (s.core ck).drain true
    match o with
    | .mdrain id slot true fmt r a first count stride row col =>
      if (s.quad (quadOfCore ck)).contained || decide (8 ≤ (s.core ck).c28r.length) then none
      else
        let last := decide (count ≤ row + 1 ∧ col = 31)
        let h := drainHandle fmt (first + row) col (drainElem fmt r ((s.core ck).slice.accAt (first + row) col)) last
        let t := s.updCore ck fun c => { c with c28r := c.c28r ++ [h] }
        pure (t.stepDrain ck o (.mdrain id slot true fmt r a first count stride (if col = 31 then row + 1 else row) ((col + 1) % 32))
          last slot)
    | _ => none)

/-- C28_HANDLE_POP (R185): what a head that reads c28 does. -/
def execC28HandlePop (ck : Nat) (s : State) : Res :=
  unitEvent (coreOk ck) ck s (if (s.core ck).c28r = [] then none else some (s.updCore ck fun c => portPop c 60))

/-! ## Handback (R188) -/

/-- The remainder of a gang for a part (R188): the descriptor's four words. -/
def Gang.remainder (g : Gang) (p : GangPart) : List Word :=
  [g.asrc + word (g.row * g.stride), word g.stride,
    word (g.rows - g.row + (p.acc + g.row) * 256 + bit p.zero * 2 ^ 17 + bit p.edge * 2 ^ 18 + bit p.asc * 2 ^ 19), 0]

/-- A core's part of a failed gang is handed back: its staged block returns with the used codes marked. -/
def State.gangBack (s : State) (qi ck : Nat) (g : Gang) (p : GangPart) (f : Word × Nat × Bool) : Option State :=
  (s.yokeBack ck p.slot 1 (g.remainder p) f.1 f.2.1 f.2.2).map fun t =>
    let scale := p.scale.map fun b => { b with used := b.used + g.row * g.kd / 32 }
    let t1 := ((t.dropOpId ck g.id).endTile ck p.slot).updSlice ck fun l => { l with staged := l.staged.or scale }
    let parts := g.parts.set (coreNo ck) { p with idle := true }
    let rest := (s.quad qi).gangs.tail
    let gangs := if parts.all (fun x => x.idle) then rest else { g with parts } :: rest
    (t1.updQuad qi fun q => { q with gangs }).advanceSlice ck

/-- YOKE_HANDBACK (R188): a gang's part, a WLOAD or an LTAB whose read is refused goes back to the slot that submitted it. -/
def execYokeHandback (ck id : Nat) (s : State) : Res :=
  unitEvent (coreOk ck) ck s (do
    let qi := quadOfCore ck
    if (s.quad qi).contained then none
    else match (s.quad qi).gangs.head?, (s.core ck).readyOps.find? (fun o => decide (o.id = id ∧ id ≠ 0)), s.ltabs.find? (fun o => decide (o.id = id ∧ coreOf o.thr = ck)) with
      | some g, some (.running _), _ =>
        let p ← g.parts[coreNo ck]?
        let f ← g.failed
        if g.id = id then s.gangBack qi ck g p f else none
      | _, some (.wload _ slot a b scale), _ =>
        (match s.yokeRead (agentOf ck slot) a (imageBytes (window a) / 32) with
        | .fail x r f =>
          (s.yokeBack ck slot 2 [a, b] x r f).map fun t =>
            (((t.dropOpId ck id).endTile ck slot).updSlice ck fun l => { l with scales := scale.toList ++ l.scales }).advanceSlice ck
        | _ => none)
      | _, _, some o =>
        (match s.yokeRead o.thr o.addr 32 with
        | .fail x r f =>
          let back := if (s.slot o.thr).st = .free then some s else s.handback o.thr 3 [o.addr] x false f r
          back.map fun t => { t with ltabs := t.ltabs.filter fun y => decide (y.id ≠ id) }.endCount o.thr 6
        | _ => none)
      | _, _, _ => none)

end Sys2Proof.Machine
end

