-- ==== Sys2Proof/Machine/Copies.lean ====
section
/-! DEFINITION. Copies (R338 to R346): CPYQ, CPYRES, CPYST, the copy engine, completion, handback, and the delivery of
scale blocks (R164, R339). -/

namespace Sys2Proof.Machine

/-! ## The checks (R344) -/

/-- The four words of a copy, and where its shape block would lie (R338). -/
structure CopyWords where
  w0 : Word
  w1 : Word
  w2 : Word
  w3 : Word
  deriving DecidableEq, Repr

def CopyWords.shp (c : CopyWords) : Bool := c.w2.getLsbD 63
def CopyWords.kind (c : CopyWords) : Nat := fld c.w2 61 2
def CopyWords.strm (c : CopyWords) : Bool := c.w2.getLsbD 60
def CopyWords.sid (c : CopyWords) : Nat := fld c.w2 48 12
def CopyWords.mode (c : CopyWords) : Nat := fld c.w3 62 2
/-- The local address of the shape block. -/
def CopyWords.shape (c : CopyWords) : Word := word (fld c.w2 0 27)
/-- The flag's or the barrier's local offset. -/
def CopyWords.caddr (c : CopyWords) : Word := word (fld c.w3 0 24)

/-- A shape block's word n of a copy, zero for a copy of one dimension. -/
def State.shapeWord (s : State) (tk : Nat) (c : CopyWords) (n : Nat) : Word :=
  if c.shp then s.rd8 (s.localKey tk (offset c.shape) + 8 * n) else 0

/-- The copy that the words and the shape block describe (R338, R340). -/
def State.copyOf (s : State) (tk : Nat) (c : CopyWords) : Copy :=
  let w := s.shapeWord tk c
  let base : Copy := { id := 0, idx := 0, slot := slotNo tk, w0 := c.w0, w1 := c.w1, w2 := c.w2, w3 := c.w3
                       rowLen := fld c.w2 0 48, ny := 1, nz := 1, ssy := 0, ssz := 0, dsy := 0, dsz := 0, y0 := 0, z0 := 0 }
  if c.shp then
    { base with rowLen := fld (w 0) 0 24, ny := fld (w 0) 24 16, nz := fld (w 0) 40 16, ssy := sval 32 (fld (w 1) 0 32)
                ssz := sval 32 (fld (w 1) 32 32), dsy := sval 32 (fld (w 2) 0 32), dsz := sval 32 (fld (w 2) 32 32)
                y0 := fld (w 3) 0 16, z0 := fld (w 3) 16 16 }
  else base

/-- The target of a scale block (R339) is not well formed. -/
def scaleTargetBad (a : Word) : Bool :=
  match space a with
  | 0 => decide (fld a 2 62 ≠ 0)
  | 1 => decide (fld a 2 22 ≠ 0 ∨ window a ≠ 0)
  | _ => true

/-- Reserved fields of the words or of the shape block that are not zero. -/
def copyReserved (c : CopyWords) (w : Nat → Word) : Bool :=
  decide (2 ≤ c.kind) || (!c.strm && decide (c.sid ≠ 0)) || (c.shp && decide (fld c.w2 27 21 ≠ 0))
    || (match c.mode with
      | 0 => decide (fld c.w3 0 62 ≠ 0)
      | 1 => false
      | 2 => decide (fld c.w3 24 38 ≠ 0)
      | _ => decide (fld c.w3 16 46 ≠ 0))
    || (c.shp && decide (fld (w 0) 56 8 ≠ 0 ∨ fld (w 3) 32 32 ≠ 0))

/-- Step 2. -/
def copyBad (c : CopyWords) (w : Nat → Word) (k : Copy) : Bool :=
  copyReserved c w || decide (k.rowLen = 0 ∨ k.ny = 0 ∨ k.nz = 0 ∨ k.nz ≤ k.z0 ∨ k.ny ≤ k.y0)
    || (decide (c.kind = 1) && (c.strm || scaleTargetBad c.w1))

/-- Step 1: the shape block's address. -/
def State.shapeCheck (s : State) (c : CopyWords) : Check :=
  if c.shp then
    firstTrap [failIf (decide (window c.shape ≠ 0)) 0x02 c.shape, failIf (decide (c.shape.toNat % 32 ≠ 0)) 0x04 c.shape,
      s.localCheck s.cur permR c.shape 32]
  else none

/-- A row at an end in local space leaves it, or is refused: the trap names the first refused byte. -/
def State.rowCheck (s : State) (p : Perm) (base a : Word) (n : Nat) : Check :=
  let sp := s.spSize s.myPid
  if space a ≠ 0 ∨ window a ≠ window base ∨ mustBeZero a = false then some (0x0D, a)
  else if sp < offset a + n then some (0x0D, if offset a < sp then atOffset a sp else a)
  else s.localCheck s.cur p a n

/-- The footprint of an end in local space, row by row. -/
def State.rowsCheck (s : State) (p : Perm) (k : Copy) (base : Word) (row : Nat → Word) : Check :=
  if space base ≠ 0 then none else (List.range k.rows).findSome? fun i => s.rowCheck p base (row i) k.rowLen

/-- Bytes of a copy's flag, or of its barrier. -/
def Copy.targetBytes (k : Copy) : Nat := match k.mode with
  | 1 => 8
  | 2 => 16
  | _ => 0

/-- Steps 3 and 4. -/
def State.copyCheck (s : State) (c : CopyWords) (k : Copy) : Check :=
  let n := k.targetBytes
  firstTrap [spaceCheck s.super c.w0, spaceCheck s.super c.w1,
    failIf (decide (space c.w0 = 15)) 0x02 c.w0, failIf (decide (space c.w1 = 15)) 0x02 c.w1,
    failIf (decide (n ≠ 0 ∧ c.caddr.toNat % n ≠ 0)) 0x04 c.caddr,
    s.rowsCheck permR k c.w0 k.srcRow,
    if c.kind = 0 then s.rowsCheck permW k c.w1 k.dstRow else none,
    if n ≠ 0 then s.localCheck s.cur permRW c.caddr n else none,
    s.remoteCheck s.myPid c.w0, s.remoteCheck s.myPid c.w1]

/-- The quad that an end lies in, for a stream. -/
def State.endQuad (s : State) (a : Word) : Option Nat :=
  match space a with
  | 0 => some (quadOf s.cur)
  | 1 => s.remoteQuad s.myPid a
  | _ => none

/-- Step 5: the stream is open from this quad to the destination's. -/
def State.copyStream (s : State) (c : CopyWords) : Bool :=
  !c.strm || (match s.endQuad c.w1 with
    | none => false
    | some d => s.streamRuns s.myPid c.sid (quadOf s.cur) d)

/-- Step 6: an optimistic task's destination is outside local space, or its target is another core. -/
def State.copyOutside (s : State) (c : CopyWords) : Bool :=
  s.me.optimistic && (decide (space c.w1 ≠ 0) || (decide (c.kind = 1) && decide (c.w1.toNat % 4 ≠ coreNo (coreOf s.cur))))

/-- Step 6: local writes follow R311. -/
def State.copyLocal (s : State) (c : CopyWords) (k : Copy) : Check :=
  if !s.me.optimistic then none else
  firstTrap [if c.kind = 0 then (List.range k.rows).findSome? fun i => s.localWrite s.cur (k.dstRow i) k.rowLen else none,
    if k.targetBytes ≠ 0 then s.localWrite s.cur c.caddr k.targetBytes else none]

/-! ## CPYQ, CPYRES, CPYST -/

/-- The lowest FIFO index that no entry has. -/
def Core.freeIndex (c : Core) : Nat := ((List.range 16).find? fun i => c.fifo.all fun x => decide (x.idx ≠ i)).getD 0

/-- The copy is queued (R338, R344). -/
def State.queueCopy (s : State) (k : Copy) : State :=
  let i := s.myCore.freeIndex
  (s.takeId.updMyCore fun c => { c with fifo := c.fifo ++ [{ k with id := s.ids, idx := i }] }).addCount s.cur 5

/-- The submission of four words (R344); `wait` is the stall form. -/
def submitCopy (wait : Bool) (d : Reg) (c : CopyWords) (t : State) : Act :=
  Check.orElse (t.shapeCheck c)
    (let w := t.shapeWord t.cur c
    let k := t.copyOf t.cur c
    if c.shp && t.owned (t.localKey t.cur (offset c.shape)) 32 then .block .owned
    else if copyBad c w k then .trap 0x02 c.w2
    else (t.copyCheck c k).orElse
      (if !t.copyStream c then .trap 0x02 c.w2
      else if t.copyOutside c then .trapFree 0x02
      else (t.copyLocal c k).orElse
        (if t.acquiring then .block .acquire
        else if 16 ≤ t.myCore.fifo.length then (if wait then .block .fifoRoom else put t d 1 3)
        else roomFor t 5 (put (t.queueCopy k) d (word (t.myCore.freeIndex * 256)) 3))))

/-- The operands of CPYQ: registers a to a + 3. -/
def cpyqHead (wait : Bool) (d a : Reg) (s : State) : Res :=
  runHead { rd := [a, a + 1, a + 2, a + 3], wr := [d] } s fun v t =>
    submitCopy wait d { w0 := v a, w1 := v (a + 1), w2 := v (a + 2), w3 := v (a + 3) } t
/-- CPYQ (R344). -/
def execCpyq (d a : Reg) (s : State) : Res := cpyqHead true d a s
/-- CPYQ.nb (R344). -/
def execCpyqNb (d a : Reg) (s : State) : Res := cpyqHead false d a s

/-- CPYRES: the words of a record (R345). -/
def cpyresHead (wait : Bool) (d a : Reg) (s : State) : Res :=
  runHead { rd := [a], wr := [d] } s fun v t =>
    let x := v a
    let k := t.localKey t.cur (offset x)
    (firstTrap [spaceCheck t.super x, failIf (decide (space x ≠ 0 ∨ window x ≠ 0 ∨ x.toNat % 128 ≠ 0)) 0x02 x,
      t.localCheck t.cur permR x 128]).orElse
      (if t.owned k 128 then .block .owned
      else if fld (t.rd8 (k + 72)) 0 5 ≠ 0 then .trap 0x02 x
      else submitCopy wait d { w0 := t.rd8 k, w1 := t.rd8 (k + 8), w2 := t.rd8 (k + 16), w3 := t.rd8 (k + 24) } t)
/-- CPYRES (R345). -/
def execCpyres (d a : Reg) (s : State) : Res := cpyresHead true d a s
/-- CPYRES.nb (R345). -/
def execCpyresNb (d a : Reg) (s : State) : Res := cpyresHead false d a s

/-! ## The engine (R338, R340) -/

/-- The slot that submitted a copy. -/
def Copy.thr (k : Copy) (ck : Nat) : Nat := ck * 8 + k.slot

/-- The pieces of `n` bytes from an address that do not cross a 4 KiB page: address and length. -/
def pagePieces (a : Word) : Nat → Nat → List (Word × Nat)
  | 0, _ => []
  | fuel + 1, n =>
    if n = 0 then [] else
    let m := Nat.min n (4096 - a.toNat % 4096)
    (a, m) :: pagePieces (a + word m) fuel (n - m)

/-- Why an end's bytes may not be accessed: the first failing address and the reason; a peer panel needs a route (R337). -/
def State.endBad (s : State) (tk : Nat) (p : Perm) (a : Word) (n : Nat) : Option (Word × EngErr) :=
  (pagePieces a (n / 4096 + 2) n).findSome? fun x => match s.engineRaw tk (s.pidOf tk) p x.1 x.2 with
    | .ok _ => none
    | .error .peer => if (s.part (s.pidOf tk)).hasRoute (fld x.1 51 9) then none else some (x.1, .denied)
    | .error e => some (x.1, e)

/-- What a row meets: nothing, a refusal with its status, or a translation fault with its address and side. -/
inductive RowEnd where
  | ok
  | refused (status : Nat)
  | fault (a : Word) (write : Bool) (why : Nat)
  deriving DecidableEq, Repr

def State.rowEnd (s : State) (ck : Nat) (k : Copy) (i : Nat) : RowEnd :=
  match s.endBad (k.thr ck) permR (k.srcRow i) k.rowLen with
  | some (a, .xlate why) => .fault a false why
  | some _ => .refused 1
  | none =>
    if k.kind = 1 then .ok
    else match s.endBad (k.thr ck) permW (k.dstRow i) k.rowLen with
      | some (a, .xlate why) => .fault a true why
      | some _ => .refused 2
      | none => .ok

/-- The first row, below n, that meets something: a row that has finished asks for its pages no more (R342). -/
def State.firstEnd (s : State) (ck : Nat) (k : Copy) (n : Nat) : Option (Nat × RowEnd) :=
  (k.openRows n).findSome? fun i => match s.rowEnd ck k i with
    | .ok => none
    | e => some (i, e)

/-- The translations of the open rows below n stay in the TLBs until their sectors have landed (R204, R342). -/
def State.rowsFill (s : State) (ck : Nat) (k : Copy) (n : Nat) : State :=
  let page (t : State) (p : Perm) (a : Word) : State :=
    if space (t.inner a) = 2 then t.engineFill (k.thr ck) (t.pidOf (ck * 8)) p a k.rowLen else t
  (k.openRows n).foldl (fun t i => page (page t permR (k.srcRow i)) permW (k.dstRow i)) s

def Core.copy (c : Core) (id : Nat) : Option Copy := c.fifo.find? fun x => decide (x.id = id)
def State.setCopy (s : State) (ck : Nat) (k : Copy) : State :=
  s.updCore ck fun c => { c with fifo := c.fifo.map fun x => if x.id = k.id then k else x }

/-- COPY_START (R338): copies of a core start in order, at most 4 run. -/
def execCopyStart (ck : Nat) (s : State) : Res :=
  unitEvent (coreOk ck) ck s (do
    let c := s.core ck
    let k ← c.fifo.find? fun x => !x.started
    if (s.quad (quadOfCore ck)).contained || decide (4 ≤ (c.fifo.filter fun x => x.started).length) then none
    else pure (s.setCopy ck { k with started := true }))

/-- Bytes that a copy lands are subtracted from its barrier (R263, R265, R341). -/
def State.copyBarrier (s : State) (ck : Nat) (k : Copy) (n : Nat) : State :=
  if k.mode ≠ 2 then s else
  let j := s.localKey (ck * 8) k.caddr
  let b := s.tb j
  if n ≤ b.pbytes then s.setTb j { b with pbytes := b.pbytes - n }.advance
  else (s.setTb j { b with ovf := true }).postAsync (k.thr ck) 0x0E (word (k.caddr + 2))

/-- The flag or the barrier lies in a destination that an earlier owner has still to write (R241). -/
def State.targetOwned (s : State) (ck : Nat) (k : Copy) : Bool :=
  decide (k.targetBytes ≠ 0) && s.ownedBy k.id (s.localKey (ck * 8) k.caddr) k.targetBytes

/-- An earlier access of the submitting slot to the bytes at a key is still to be performed (R241). -/
def State.copyBehind (s : State) (ck : Nat) (k : Copy) (j n : Nat) : Bool := s.behind (k.thr ck) k.id j n

/-- A source byte: its key, none in a peer panel. -/
def State.sourceKey (s : State) (ck : Nat) (k : Copy) (a : Word) : Option Nat :=
  match s.engineRaw (k.thr ck) (s.pidOf (ck * 8)) permR a 1 with
  | .ok j => some j
  | .error _ => none

/-- A byte at a key must still wait: for an earlier owner, or an earlier access of the slot. -/
def State.copyWaits (s : State) (ck : Nat) (k : Copy) (j n : Nat) : Bool := s.ownedBy k.id j n || s.copyBehind ck k j n

/-- The bytes that a copy reads; a peer panel's are free values. -/
def State.sourceBytes (s : State) (ck : Nat) (k : Copy) (a : Word) : Nat → List Byte
  | 0 => []
  | n + 1 => (match s.sourceKey ck k a with
    | some j => memByte s.mem j
    | none => BitVec.ofNat 8 (Config.freeNat (s.free + n))) :: s.sourceBytes ck k (a + 1#64) n

/-- A source byte must still wait. -/
def State.sourceWaits (s : State) (ck : Nat) (k : Copy) (a : Word) (n : Nat) : Bool :=
  (List.range n).any fun i => match s.sourceKey ck k (a + word i) with
    | some j => s.copyWaits ck k j 1
    | none => false

/-- n free values are drawn. -/
def State.drawMany (s : State) (n : Nat) : State := { s with free := s.free + n }

/-- A sector of the copy is under way. -/
def Copy.run (k : Copy) (n : Nat) : Option SectorRun := k.going.find? fun r => decide (r.n = n)
/-- The copy with a sector under way. -/
def Copy.setRun (k : Copy) (r : SectorRun) : Copy := { k with going := (k.going.filter fun x => decide (x.n ≠ r.n)) ++ [r] }

/-- Sector n has landed: its bytes leave the barrier (R263, R341). -/
def State.sectorLanded (s : State) (ck : Nat) (k : Copy) (n m : Nat) : State :=
  (s.setCopy ck { k with landed := k.landed ++ [n], going := k.going.filter fun r => decide (r.n ≠ n) }).copyBarrier ck k m

/-- The bytes of a sector written at its destination: in a peer panel by an access of its own, and the sector lands when that
has been performed. -/
def State.landSector (s : State) (ck : Nat) (k : Copy) (n : Nat) (x : Sector) (bs : List Byte) : Option State :=
  match s.engineRaw (k.thr ck) (s.pidOf (ck * 8)) permW x.dst x.n with
  | .ok j => if s.copyWaits ck k j x.n then none else
    some (((((s.engineFill (k.thr ck) (s.pidOf (ck * 8)) permW x.dst x.n).recallLines j x.n).wrBytes j bs)).sectorLanded ck k n x.n)
  | .error .peer =>
    some ((s.launchFlight { id := 0, thr := k.thr ck, pid := s.pidOf (ck * 8), addr := x.dst, n := x.n
                            op := .store (bs.zipIdx.map fun b => (b.2, b.1, 0xFF#8)), ret := .copy ck k.id n true }).setCopy ck
      (k.setRun { n, bytes := some bs, sent := true }))
  | .error _ => none

/-- A source that lies in a peer panel, read by an access of its own. -/
def State.readPeer (s : State) (ck : Nat) (k : Copy) (n : Nat) (a : Word) (m : Nat) : State :=
  (s.launchFlight { id := 0, thr := k.thr ck, pid := s.pidOf (ck * 8), addr := a, n := m, op := .load
                    ret := .copy ck k.id n false }).setCopy ck (k.setRun { n })

/-- A source lies in a peer panel. -/
def State.peerSource (s : State) (ck : Nat) (k : Copy) (a : Word) : Bool :=
  match s.engineRaw (k.thr ck) (s.pidOf (ck * 8)) permR a 1 with
  | .error .peer => true
  | _ => false

/-- The quad that a destination lies in. -/
def State.copyQuad (s : State) (ck : Nat) (a : Word) : Option Nat :=
  match space a with
  | 0 => some (quadOfCore ck)
  | 1 => s.remoteQuad (s.pidOf (ck * 8)) a
  | _ => none

/-- A sector that has been read: on the copy's stream it travels first, while that is open (R338). -/
def State.sectorRead (s : State) (ck : Nat) (k : Copy) (n : Nat) (x : Sector) (bs : List Byte) : Option State :=
  let pid := s.pidOf (ck * 8)
  let sid := fld k.w2 48 12
  match s.copyQuad ck k.w1 with
  | some d =>
    if k.w2.getLsbD 60 && s.streamRuns pid sid (quadOfCore ck) d then
      some ((s.inject (quadOfCore ck) d pid (s.pAt d pid) (flitsFor x.n) 0 (some sid)).setCopy ck
        (k.setRun { n, bytes := some bs, pkt := some s.ids }))
    else s.landSector ck k n x bs
  | none => s.landSector ck k n x bs

/-- A sector under way goes on: once its bytes are there, have travelled, and are written. -/
def State.sectorGoes (s : State) (ck : Nat) (k : Copy) (x : Sector) (r : SectorRun) : Option State :=
  match r.bytes with
  | none => none
  | some bs =>
    if r.sent then (if r.wrote then some (s.sectorLanded ck k r.n x.n) else none)
    else if s.arrived r.pkt then
      (if r.pkt.isNone then s.sectorRead ck k r.n x bs else (s.dropPacket r.pkt).landSector ck k r.n x bs)
    else none

/-- An end of the copy lies in a closed quad. -/
def State.copyClosed (s : State) (ck : Nat) (k : Copy) : Bool :=
  s.endClosed (k.thr ck) (s.pidOf (ck * 8)) k.w0 || s.endClosed (k.thr ck) (s.pidOf (ck * 8)) k.w1

/-- COPY_SECTOR_LAND (R338, R340 to R342): a sector is read once and written whole; a refused end gives the copy its status. On a
stream, and at a peer panel, it takes several of these events. -/
def execCopySectorLand (ck id n : Nat) (s : State) : Res :=
  unitEvent (coreOk ck) ck s (do
    let k ← (s.core ck).copy id
    let x ← k.sector n
    if !k.runs || decide (k.kind = 1) || !k.unlanded.contains n || (s.quad (quadOfCore ck)).contained || s.targetOwned ck k || s.copyClosed ck k then none
    else match s.firstEnd ck k (x.row + 1) with
      | some (_, .refused st) => pure (s.setCopy ck { k with status := st })
      | some _ => none
      | none =>
        match k.run n with
        | some r => s.sectorGoes ck k x r
        | none =>
          if s.peerSource ck k x.src then pure ((s.rowsFill ck k (x.row + 1)).readPeer ck k n x.src x.n)
          else if s.sourceWaits ck k x.src x.n then none
          else (((s.rowsFill ck k (x.row + 1)).engineFill (k.thr ck) (s.pidOf (ck * 8)) permR x.src x.n).drawMany x.n).sectorRead ck k n x (s.sourceBytes ck k x.src x.n))

/-- The quad and core that a scale block goes to (R339). -/
def State.scaleTarget (s : State) (ck : Nat) (k : Copy) : Option Nat :=
  (if space k.w1 = 0 then some (quadOfCore ck) else s.remoteQuad (s.pidOf (ck * 8)) k.w1).map fun qi => qi * 4 + k.w1.toNat % 4

/-- A block enters the queue of a partition's core, be its context swapped out (R11, R164, R384). -/
def State.takeScale (s : State) (pid tc : Nat) (b : Scale) : State :=
  s.updCoreIn pid tc fun c => { c with slice := { c.slice with scales := c.slice.scales ++ [b] } }

/-- SCALE_BLOCK_DELIVER (R164, R339): the block enters its core's queue when the buffer has room; a block that is not one
ends the copy with status 3. -/
def execScaleBlockDeliver (ck id : Nat) (s : State) : Res :=
  unitEvent (coreOk ck) ck s (do
    let k ← (s.core ck).copy id
    if !k.runs || decide (k.kind ≠ 1) || decide (k.landed ≠ []) || (s.quad (quadOfCore ck)).contained || s.targetOwned ck k || s.copyClosed ck k then none
    else match s.firstEnd ck k k.rows with
      | some (_, .refused st) => pure (s.setCopy ck { k with status := st })
      | some _ => none
      | none =>
        let a := k.srcRow 0
        let peer := s.peerSource ck k a
        let block (m : Nat) : List Byte := match (k.run 0).bind fun r => r.bytes with
          | some bs => bs.take m
          | none => s.sourceBytes ck k a m
        let hdr := ofBytes (block 8)
        let n := bitsAt hdr 16 8
        let len := 8 + (n + 7) / 8 * 8
        if peer && (k.run 0).isNone then pure (s.readPeer ck k 0 a (Nat.min 136 (k.rowLen * k.rows)))
        else if peer && ((k.run 0).bind fun r => r.bytes).isNone then none
        else if s.sourceWaits ck k a 8 then none
        else if n = 0 ∨ 128 < n ∨ k.rowLen * k.rows ≠ len then pure (s.setCopy ck { k with status := 3 })
        else match s.scaleTarget ck k with
          | none => pure (s.setCopy ck { k with status := 2 })
          | some tc =>
            if s.sourceWaits ck k a len ∨ 4096 < s.scaleUse (s.pidOf (ck * 8)) (quadOfCore tc) + len then none
            else
              let bs := block len
              let b : Scale := { seq := BitVec.ofNat 16 hdr, codes := (bs.drop 8).take n }
              let t := ((s.engineFill (k.thr ck) (s.pidOf (ck * 8)) permR a len).drawMany len).takeScale (s.pidOf (ck * 8)) tc b
              pure ((t.setCopy ck { k with landed := [0] }).copyBarrier ck k len))

/-! ## Completion (R341) -/

/-- A copy leaves the FIFO, and its count ends. -/
def State.endCopy (s : State) (ck : Nat) (k : Copy) : State :=
  ((k.going.foldl (fun t r => t.dropPacket r.pkt) s).updCore ck fun c =>
    { c with fifo := c.fifo.filter fun x => decide (x.id ≠ k.id) }).endCount (k.thr ck) 5

/-- A record of c29 (R341). -/
def Copy.record (k : Copy) (st : Nat) : Word :=
  word (bit (decide (st ≠ 0)) * 2 ^ 63 + st * 2 ^ 56 + k.idx * 2 ^ 16 + fld k.w3 0 16)

/-- What a status raises at the submitting slot. -/
def Copy.raises (k : Copy) (st : Nat) : Option (Nat × Word) :=
  match st with
  | 1 => some (0x07, k.w0)
  | 2 => some (0x07, k.w1)
  | 3 => some (0x02, k.w0)
  | _ => none

/-- An access of the copy's to a peer panel is still on its way. -/
def State.copyFlying (s : State) (ck : Nat) (k : Copy) : Bool :=
  s.flights.any fun f => match f.ret with
    | .copy c id _ _ => decide (c = ck ∧ id = k.id)
    | _ => false

/-- COPY_COMPLETE (R341): the completion write or push, then the end of the count; a cancelled copy has no completion (R356). -/
def execCopyComplete (ck id : Nat) (s : State) : Res :=
  unitEvent (coreOk ck) ck s (do
    let k ← (s.core ck).copy id
    let st := if k.cancelled then 4 else k.status
    if (st = 0 ∧ (k.started = false ∨ k.unlanded ≠ [])) ∨ s.copyFlying ck k = true then none
    else if (s.quad (quadOfCore ck)).contained then none
    else if k.mode = 3 ∧ k.cancelled = false then
      if 16 ≤ (s.core ck).c29.length then none
      else pure ((s.updCore ck fun c => { c with c29 := c.c29 ++ [k.record st] }).endCopy ck k)
    else if st = 0 ∧ k.mode = 1 then
      if s.targetOwned ck k then none
      else pure ((s.wr8 (s.localKey (ck * 8) k.caddr) (word (fld k.w3 24 38))).endCopy ck k)
    else
      let t := s.endCopy ck k
      pure (match k.raises st with
        | some (cause, info) => t.postAsync (k.thr ck) cause info
        | none => t))

/-- C29_RECORD_POP (R341): what a head that reads c29 does. -/
def execC29RecordPop (ck : Nat) (s : State) : Res :=
  unitEvent (coreOk ck) ck s (if (s.core ck).c29 = [] then none else some (s.updCore ck fun c => portPop c 61))

/-! ## Handback (R342, R343) -/

/-- The faulting row of a copy, its address and side, when every sector before it has landed; a scale block is not landed before
it is whole (R339). -/
def State.copyFault (s : State) (ck : Nat) (k : Copy) : Option (Nat × Word × Bool × Nat) :=
  if !k.runs then none
  else match s.firstEnd ck k k.rows with
    | some (i, .fault a w e) =>
      if k.kind = 1 ∨ ((List.range (k.sectorsTo i)).all fun n => k.landed.contains n) = true then some (i, a, w, e) else none
    | _ => none

/-- The first eight words of a copy's record. -/
def Copy.backWords (k : Copy) (rec : Word) (i : Nat) : List Word :=
  if k.shaped then
    [k.w0, k.w1, word (fld k.w2 27 37 * 2 ^ 27 + offset rec + 32), k.w3,
      word (k.nz * 2 ^ 40 + k.ny * 2 ^ 24 + k.rowLen), word (wrap 32 k.ssz * 2 ^ 32 + wrap 32 k.ssy),
      word (wrap 32 k.dsz * 2 ^ 32 + wrap 32 k.dsy), word ((k.place i).1 * 2 ^ 16 + (k.place i).2)]
  else [k.w0, k.w1, k.w2, k.w3]

/-- COPY_HANDBACK (R342): the record of a copy whose next row fails translation. -/
def execCopyHandback (ck id : Nat) (s : State) : Res :=
  unitEvent (coreOk ck) ck s (do
    let k ← (s.core ck).copy id
    let f ← s.copyFault ck k
    if (s.quad (quadOfCore ck)).contained then none
    else
      let r := s.reasonOf (.xlate f.2.2.2)
      let t ← s.handback (k.thr ck) 0 (k.backWords (s.handbackAddr (k.thr ck)) f.1) f.2.1 f.2.2.1 r.2 r.1
      pure (t.endCopy ck k))

/-- A handback waits for a slot behind its pending one (R342): a copy's, a gang's, a WLOAD's, an LTAB's or
a LAUNCH's. -/
def State.backWaits (s : State) (tk : Nat) : Bool :=
  let ck := coreOf tk
  let c := s.core ck
  let failing (r : YokeRead) : Bool := match r with
    | .fail _ _ _ => true
    | _ => false
  (s.slot tk).hbPending && (
    (c.fifo.any fun k => decide (k.slot = slotNo tk) && (s.copyFault ck k).isSome)
    || ((s.quad (quadOf tk)).gangs.any fun g => g.failed.isSome && (match g.parts[coreNo ck]? with
        | some p => !p.idle && decide (p.slot = slotNo tk)
        | none => false))
    || (c.slice.ops.any fun o => match o with
        | .wload _ slot a _ _ => decide (slot = slotNo tk) && failing (s.yokeRead tk a (imageBytes (window a) / 32))
        | _ => false)
    || (s.ltabs.any fun o => decide (o.thr = tk) && failing (s.yokeRead tk o.addr 32))
    || s.launches.any fun r => decide (r.thr = some tk) && r.back.isSome)

/-- CPYST (R346). -/
def execCpyst (sel : CpySel) (d : Reg) (s : State) : Res :=
  runHead { wr := [d] } s fun _ t =>
    let f := t.myCore.fifo
    put t d (word (match sel with
      | .depth => f.length
      | .stat => (f.map fun k => 2 ^ k.idx).sum + (f.filter fun k => k.started).length * 2 ^ 16 + bit (t.backWaits t.cur) * 2 ^ 20)) 3

end Sys2Proof.Machine
end

