-- ==== Sys2Proof/Machine/Aes.lean ====
section
/-! DEFINITION. AES-256-XTS (R365), which the spec names and which FIPS 197 and IEEE 1619 define: the cipher that the memory controllers
use. Blocks and keys are lists of bytes, the first byte first; bytes are numbers below 256. -/

namespace Sys2Proof.Machine

/-! ## The field of 256 elements -/

def gfDouble (a : Nat) : Nat := if a < 128 then 2 * a else (2 * a) % 256 ^^^ 0x1B

/-- The product by the lowest n bits of b. -/
def gfMulBits : Nat → Nat → Nat → Nat
  | 0, _, _ => 0
  | n + 1, a, b => (if b % 2 = 1 then a else 0) ^^^ gfMulBits n (gfDouble a) (b / 2)

def gfMul (a b : Nat) : Nat := gfMulBits 8 a b

/-- The product of x^2, x^4 and so on, n of them. -/
def gfPowers : Nat → Nat → Nat
  | 0, _ => 1
  | n + 1, x => gfMul (gfMul x x) (gfPowers n (gfMul x x))

/-- The inverse, x^254; that of 0 is 0. -/
def gfInv (x : Nat) : Nat := gfPowers 7 x

/-- A byte rotated left. -/
def rotByte (b n : Nat) : Nat := (b * 2 ^ n) % 256 + b / 2 ^ (8 - n)

def subByte (a : Nat) : Nat :=
  let b := gfInv a
  b ^^^ rotByte b 1 ^^^ rotByte b 2 ^^^ rotByte b 3 ^^^ rotByte b 4 ^^^ 0x63

def invSubByte (b : Nat) : Nat := gfInv (rotByte b 1 ^^^ rotByte b 3 ^^^ rotByte b 6 ^^^ 0x05)

/-! ## Blocks: byte r + 4 c is row r of column c -/

def xorBytes (a b : List Nat) : List Nat := List.zipWith (fun x y => x ^^^ y) a b

def shiftRows (st : List Nat) : List Nat := (List.range 16).map fun i => st.getD ((i + 4 * (i % 4)) % 16) 0
def invShiftRows (st : List Nat) : List Nat := (List.range 16).map fun i => st.getD ((i + 12 * (i % 4)) % 16) 0

/-- Every column by a circulant matrix, whose first row is given. -/
def mixColumns (row st : List Nat) : List Nat :=
  (List.range 16).map fun i => (List.range 4).foldl (fun x j => x ^^^ gfMul (st.getD (i / 4 * 4 + (i % 4 + j) % 4) 0) (row.getD j 0)) 0

/-! ## The key schedule -/

/-- Words of 4 bytes, each added to the one before it. -/
def chainWords : Nat → List Nat → List Nat → List Nat
  | 0, _, _ => []
  | n + 1, prev, ws =>
    let w := xorBytes prev (ws.take 4)
    w ++ chainWords n w (ws.drop 4)

/-- Eight words of the schedule from the eight before them. -/
def nextKeyWords (rcon : Nat) (k : List Nat) : List Nat :=
  let last := (k.drop 28).map subByte
  let low := chainWords 4 (xorBytes (last.drop 1 ++ last.take 1) [rcon, 0, 0, 0]) (k.take 16)
  low ++ chainWords 4 ((low.drop 12).map subByte) (k.drop 16)

/-- n times eight words of the schedule. -/
def keyWords : Nat → Nat → List Nat → List Nat
  | 0, _, _ => []
  | n + 1, rcon, k => k ++ keyWords n (gfDouble rcon) (nextKeyWords rcon k)

/-- The 15 round keys of a key of 32 bytes. -/
def roundKeys (key : List Nat) : List (List Nat) :=
  let ks := keyWords 8 1 key
  (List.range 15).map fun i => (ks.drop (16 * i)).take 16

/-! ## The cipher -/

def encRound (mix : Bool) (st rk : List Nat) : List Nat :=
  let x := shiftRows (st.map subByte)
  xorBytes (if mix then mixColumns [2, 3, 1, 1] x else x) rk

def decRound (mix : Bool) (st rk : List Nat) : List Nat :=
  let x := xorBytes st rk
  (invShiftRows (if mix then mixColumns [14, 11, 13, 9] x else x)).map invSubByte

def aesEncrypt (key blk : List Nat) : List Nat :=
  let rk := roundKeys key
  encRound false (((rk.drop 1).take 13).foldl (encRound true) (xorBytes blk (rk.getD 0 []))) (rk.getD 14 [])

def aesDecrypt (key blk : List Nat) : List Nat :=
  let rk := roundKeys key
  xorBytes (((rk.drop 1).take 13).reverse.foldl (decRound true) (decRound false blk (rk.getD 14 []))) (rk.getD 0 [])

/-! ## XTS: a data unit of 4 KiB, its number the tweak PA[40:12] -/

/-- The n lowest bytes of a number, lowest first, and the number of such bytes. -/
def natBytes : Nat → Nat → List Nat
  | 0, _ => []
  | n + 1, v => v % 256 :: natBytes n (v / 256)
def bytesNat : List Nat → Nat
  | [] => 0
  | b :: bs => b + 256 * bytesNat bs

/-- A tweak multiplied by the primitive element, n times. -/
def xtsStep : Nat → Nat → Nat
  | 0, t => t
  | n + 1, t => xtsStep n (if t < 2 ^ 127 then 2 * t else (2 * t) % 2 ^ 128 ^^^ 0x87)

/-- The first key, bytes 0 to 31, encrypts the data; the second, bytes 32 to 63, the tweak (log entry 145). -/
def xtsTweak (key : BitVec 512) (pa : Nat) : List Nat :=
  natBytes 16 (xtsStep (pa / 16 % 256) (bytesNat (aesEncrypt (natBytes 32 (key.toNat / 2 ^ 256)) (natBytes 16 (pa / 4096 % 2 ^ 29)))))

def xtsEncrypt (key : BitVec 512) (pa : Nat) (blk : List Nat) : List Nat :=
  let t := xtsTweak key pa
  xorBytes (aesEncrypt (natBytes 32 key.toNat) (xorBytes blk t)) t

def xtsDecrypt (key : BitVec 512) (pa : Nat) (blk : List Nat) : List Nat :=
  let t := xtsTweak key pa
  xorBytes (aesDecrypt (natBytes 32 key.toNat) (xorBytes blk t)) t

/-- What the 16 bytes at a physical address, written under one key, read as under another (R365). -/
def rekeyed (old new : BitVec 512) (pa data : Nat) : Nat :=
  bytesNat (xtsDecrypt new pa (xtsEncrypt old pa (natBytes 16 data)))

end Sys2Proof.Machine
end

