-- ==== Sys2Proof/Machine/Tenancy.lean ====
section
/-! DEFINITION. Panel reset (R23, R24, R27, R363), partitions (R357, R358), the host's registers (R360 to R362), keys and
frames (R365 to R367), error detectors (R372), function reset (R379), debug (R380, R398), droop and freeze (R382, R383). -/

namespace Sys2Proof.Machine

/-! ## Panel reset -/

/-- A unit of a quad is retired at boot (R363): by the fuse map, or by its latest log entry. -/
def Panel.retired (p : Panel) (qi unit : Nat) : Bool :=
  p.fuse.contains (qi, unit) || (match (p.log.filter fun e => decide (e.qi = qi ∧ e.unit = unit)).getLast? with
    | some e => e.retire
    | none => false)

/-- The state of a quad at boot (R27): units 0 to 3 its cores, 4 its scratchpad, 5 its router. -/
def Panel.bootState (p : Panel) (qi : Nat) : QuadSt :=
  if p.retired qi 5 then .dead
  else if (List.range 5).any fun u => p.retired qi u then .routerOnly
  else .healthy

/-- The physical column of logical column x in a row, none when it is absent (R24). -/
def bootColumn (healthy : List Nat) (x : Nat) : Option Nat :=
  let f := healthy.length - 64
  if healthy.length ≤ x then none
  else
    let k := ((List.range f).filter fun j => decide ((j + 1) * 64 / (f + 1) - 1 < x)).length
    healthy[x + k]?

/-- The boot map of a row (R23, R24). -/
def Panel.bootRow (p : Panel) (y : Nat) : List (BitVec 12) :=
  let healthy := (List.range 72).filter fun px => p.bootState (y * 72 + px) = .healthy
  (List.range 64).map fun x => match bootColumn healthy x with
    | some px => BitVec.ofNat 12 (128 + px)
    | none => 0

/-- The rows in which some quad is retired: the others have the map that `bootEntry` gives. -/
def Panel.worn (p : Panel) (y : Nat) : Bool := (List.range 72).any fun px => p.bootState (y * 72 + px) ≠ .healthy

/-- The column map at boot. -/
def Panel.bootMap (p : Panel) : FMap (BitVec 12) :=
  (List.range 32).foldl (fun m y =>
    if p.worn y then (p.bootRow y).zipIdx.foldl (fun m e => FMap.set (bootEntry (y * 64 + e.2)) m (y * 64 + e.2) e.1) m else m) []

/-- The counter of a region after boot, with its measured offset (R336): region 0's counts from zero. -/
def Region.started (g : Region) (r : Nat) : Region :=
  if r = 0 then g else { g with tcnt := word (Config.counterLead r), tofs := 0#64 - word (Config.counterLead r) }

/-- PANEL_RESET (R24, R336, R363, R383): every part of the machine as after reset, on the boot map of the panel's records. What is
not of the panel stays: its records, host memory, and the model's own counters. -/
def execPanelReset (s : State) : Res :=
  let p := s.panel
  let panel : Panel :=
    { number := p.number, serial := p.serial, steppingLetter := p.steppingLetter, steppingDigit := p.steppingDigit, fuse := p.fuse
      log := p.log, colmap := p.bootMap }
  let quads : FMap Quad := (List.range 2304).foldl (fun m qi => FMap.set {} m qi { st := p.bootState qi }) []
  let t : State := { State.reset with panel, quads, cur := s.cur, sched := s.sched, free := s.free, ids := s.ids
                                      mem := s.mem.filter fun c => decide (2 ^ 64 ≤ c.1) }
  let u := (List.range 16).foldl (fun v r => v.updRegion r fun g => g.started r) t
  .next ((List.range 16).foldl (fun t r => t.regrade r) u)

/-! ## Partitions (R357, R358) -/

/-- The physical quads of a rectangle, with their partition-logical numbers. -/
def State.rectPhys (s : State) (pt : Part) : List (Nat × Nat) :=
  (List.range (pt.w * pt.h)).filterMap fun p => (s.physLogical (pt.coord p).2 (pt.coord p).1).map fun qi => (p, qi)

/-- A core as it is given to a partition (R159): its clock goes on. -/
def Core.fresh (c : Core) : Core := { cycle := c.cycle, l1 := c.l1 }

/-- The scratchpad bytes and full/empty states of a share are zeroed (R366). -/
def State.zeroShare (s : State) (qi base n : Nat) : State := s.zeroRange (scratchKey qi base) n

/-- Where a share of a size begins on a quad, outside the share of its other context (R192): none when no place holds it. -/
def State.freeBase (s : State) (qi size : Nat) : Option Nat :=
  let taken := (s.quad qi).ctxs.map fun c => (c.base, s.spSize c.pid)
  ((0 :: taken.map fun u => u.1 + u.2).find? fun b => decide (b + size ≤ 2 ^ 24) && taken.all fun u => !overlap b size u.1 u.2)

/-- A quad is given to a partition (R21, R159, R192, R366, R380): its first context finds the cores and the yoke clear; a
second one finds them so in its shadow storage. The quad's state and its containment stand. -/
def State.giveQuad (s : State) (qi pid p size : Nat) (slots : List Slot) : State :=
  let q := s.quad qi
  match q.ctxs with
  | [] =>
    let s1 := (s.zeroShare qi 0 size).setQuad qi
      { st := q.st, contained := q.contained, former := q.former, ctxs := [{ pid, p }], icache := q.icache, arbs := q.arbs }
    let s2 := (List.range 4).foldl (fun t c => t.updCore (qi * 4 + c) Core.fresh) s1
    slots.zipIdx.foldl (fun t e => t.updSlot (qi * 32 + e.2) fun x => { e.1 with faultTag := x.faultTag }) s2
  | _ :: _ =>
    let base := (s.freeBase qi size).getD 0
    let saved : Saved := { pid, cores := List.replicate 4 {}, ltab := [], slots }
    (s.zeroShare qi base size).updQuad qi fun q => { q with ctxs := q.ctxs ++ [{ pid, p, base }], shadow := q.shadow ++ [saved] }

/-- The slots of a quad at partition start: those of the service core run at its entry (R358). -/
def startSlots (svc : Option Nat) (pc : Word) : List Slot :=
  (List.range 32).map fun n =>
    if svc = some (n / 8) then { st := .ready, pc, sr := { status := 0x31#64 } } else {}

/-- A pending resizing will take a logical quad of a rectangle. -/
def State.claimed (s : State) (pid x0 y0 w h : Nat) : Bool :=
  s.changes.any fun c => match c.op with
    | .resize p a b m n => decide (p ≠ pid) && overlap a m x0 w && overlap b n y0 h
    | .contain .. => false

/-- The code of a logical quad (x, y) for a context that begins on it (R24, R28): absent, on a spare, or in service. -/
def State.newCode (s : State) (xy : Nat × Nat) : Nat :=
  if (s.physLogical xy.2 xy.1).isNone then 3 else if s.panel.moved.contains (xy.2 * 64 + xy.1) then 1 else 0

/-- The attributes fit the panel, no live partition holds them (R357), and 2,048 partitions are not resident (R15). -/
def State.createOk (s : State) (c : PartCfg) : Bool :=
  let pt : Part := { x0 := c.x0, y0 := c.y0, w := c.w, h := c.h }
  decide (1 ≤ c.pid ∧ c.pid < 4096 ∧ 1 ≤ c.key ∧ c.key < 4096 ∧ 1 ≤ c.vf ∧ c.vf < 4096 ∧ 1 ≤ c.w ∧ c.x0 + c.w ≤ 64
      ∧ 1 ≤ c.h ∧ c.y0 + c.h ≤ 32 ∧ 1 ≤ c.spMiB ∧ c.spMiB ≤ 16 ∧ c.svcP < c.w * c.h ∧ c.svcC < 4)
    && !(s.part c.pid).live && decide ((s.parts.filter fun e => e.2.live).length < 2048) && !s.claimed c.pid c.x0 c.y0 c.w c.h
    && (s.parts.all fun e => !e.2.live || decide (e.2.key ≠ c.key ∧ e.2.vf ≠ c.vf))
    && (s.rectPhys pt).all fun e => match (s.quad e.2).ctxs with
      | [] | [_] => (s.freeBase e.2 (c.spMiB * 2 ^ 20)).isSome
      | _ => false

/-- PARTITION_CREATE (R357): the attributes, the ring with each live quad's number as its tag (R29), the quads, and the
service core's slots. -/
def execPartitionCreate (c : PartCfg) (s : State) : Res :=
  event s (
    if !s.createOk c then none
    else
      let base : Part := { live := true, x0 := c.x0, y0 := c.y0, w := c.w, h := c.h, key := c.key, vf := c.vf, spsize := c.spMiB * 2 ^ 20 }
      let qs := s.rectPhys base
      let here : List Nat := qs.map fun e => e.1
      let xy := base.coord c.svcP
      let pt : Part := { base with
        svccore := word (s.panel.number * 8192 + (xy.2 * 64 + xy.1) * 4 + c.svcC)
        ring := here.map fun p => (p, p)
        defect := (List.range (c.w * c.h)).foldl (fun m p => FMap.set 0 m p (s.newCode (base.coord p))) []
        cls := worst (base.regions.map fun r => (s.region r).grade) }
      let s1 := (s.setPart c.pid pt).setVf c.vf { pid := c.pid }
      let s2 := c.edges.foldl (fun t e => t.updPanel fun p =>
        let x := FMap.get {} p.edges e.1
        { p with edges := FMap.set {} p.edges e.1 { x with owned := FMap.set 0 x.owned c.pid e.2 } }) s1
      some (qs.foldl (fun t e => t.giveQuad e.2 c.pid e.1 pt.spsize
        (startSlots (if e.1 = c.svcP then some c.svcC else none) c.svcPc)) s2))

/-- SVCCORE_WRITE (R358): what a write of SVCCORE does. -/
def execSvccoreWrite (pid : Nat) (v : Word) (s : State) : Res :=
  event s (if (s.part pid).live then some (s.updPart pid fun p => { p with svccore := v &&& 0xFFFFFF#64 }) else none)

/-! ## The host (R298, R361, R362) -/

/-- The partition of a virtual function, when it has one. -/
def State.vfPid (s : State) (v : Nat) : Option Nat :=
  let pid := (s.vf v).pid
  if (s.part pid).live ∧ (s.part pid).vf = v ∧ pid ≠ 0 then some pid else none

/-- HOST_LAUNCH (R298, R361): a launch at the service core's quad, without an override. -/
def execHostLaunch (v : Nat) (hdr : Word) (s : State) : Res :=
  event s (do
    let pid ← s.vfPid v
    match s.svcCore pid with
    | some ck =>
      if space hdr = 1 ∨ space hdr = 2 then
        let r : LaunchReq := { id := s.ids, quad := quadOfCore ck, pid, hdr, host := true }
        pure { s.takeId with launches := s.launches ++ [r] }
      else pure (s.updVf v fun f => { f with lstat := 5 })
    | none => pure (s.updVf v fun f => { f with lstat := 5 }))

/-- VF_DOORBELL (R111, R361): a WAKE of a thread of the partition. -/
def execVfDoorbell (v : Nat) (w : Word) (s : State) : Res :=
  event s (do
    let pid ← s.vfPid v
    let tk ← s.threadKey pid (fld w 0 16)
    pure (s.wakeUp pid tk))

/-- HOST_REGISTER_WRITE (R361): WDT, EVQBASE, EVQPTR; any other access of a register without behaviour of its own changes
nothing. -/
def execHostRegisterWrite (v off size : Nat) (w : Word) (s : State) : Res :=
  event s (
    if size ≠ 8 then none
    else match off with
      | 0x0028 => some (s.updVf v fun f => { f with wdt := BitVec.ofNat 6 (fld w 0 6) })
      | 0x0030 => some (s.updVf v fun f => { f with evqBase := w })
      | 0x0038 => some (s.updVf v fun f => { f with evqTail := BitVec.ofNat 6 (fld w 32 6), evqOvf := f.evqOvf && !w.getLsbD 31 })
      | _ => none)

/-- Quad Q of a virtual function's partition. -/
def State.debugQuad (s : State) (v q : Nat) : Option Nat := (s.vfPid v).bind fun pid => s.physQuad pid q

/-- A DEBUG write (R380): it names quad Q, and sets the halt request and the breakpoint arm there. -/
def debugWrite (v q : Nat) (halt arm : Bool) (s : State) : Res :=
  event s (
    let s1 := s.updVf v fun x => { x with dbgQ := BitVec.ofNat 11 q }
    match s.debugQuad v q with
    | some qi => some (s1.setDebug (s.vf v).pid qi halt arm)
    | none => some s1)

/-- DEBUG_HALT (R380): a write with HALT 1. -/
def execDebugHalt (v : Nat) (q : DebugQuad) (s : State) : Res := debugWrite v q.quad true q.brkArm s
/-- DEBUG_RESUME (R380): a write with HALT 0. -/
def execDebugResume (v : Nat) (q : DebugQuad) (s : State) : Res := debugWrite v q.quad false q.brkArm s
/-- DEBUG_BRKARM (R380): a write as it sets the breakpoint arm. -/
def execDebugBrkarm (v q : Nat) (arm : DebugBits) (s : State) : Res := debugWrite v q arm.halt arm.brkArm s

/-- The DEFECT byte of a quad (R362). -/
def State.defectByte (s : State) (pid p : Nat) : Nat :=
  let pt := s.part pid
  if pt.w * pt.h ≤ p then 0
  else
    let qi := s.physQuad pid p
    let halted := match qi with
      | some q => s.haltedIn pid q
      | none => false
    let throttled := (s.region ((pt.coord p).2 / 2)).droopst.getLsbD 0
    FMap.get 0 pt.defect p + bit halted * 4 + bit throttled * 8

/-- A host read of BAR0 (R361): none is an Unsupported Request. -/
def State.hostRead (s : State) (v off size : Nat) : Option Word :=
  let f := s.vf v
  let pt := s.part f.pid
  let q := s.debugQuad v f.dbgQ.toNat
  let quadBit (g : Nat → Bool) : Nat := match q with
    | some qi => bit (g qi)
    | none => 0
  if size ≠ 8 ∨ off % 8 ≠ 0 then none
  else if 0x1000 ≤ off ∧ off < 0x1800 then
    some (word (packLanes 8 ((List.range 8).map fun i => s.defectByte f.pid (off - 0x1000 + i))))
  else match off with
    | 0x0000 => some (word (s.panel.serial % 2 ^ 34 + s.panel.steppingDigit.toNat * 2 ^ 48 + s.panel.steppingLetter.toNat * 2 ^ 56))
    | 0x0008 => some (word (f.pid + pt.w * 2 ^ 12 + pt.h * 2 ^ 19 + pt.cls * 2 ^ 26))
    | 0x0010 => some 0
    | 0x0018 => some f.lstat
    | 0x0020 => some 0
    | 0x0028 => some (zext f.wdt)
    | 0x0030 => some f.evqBase
    | 0x0038 => some (word (f.evqHead.toNat + bit f.evqOvf * 2 ^ 31 + f.evqTail.toNat * 2 ^ 32))
    | 0x0040 => some (word (f.dbgQ.toNat + quadBit (s.haltedIn f.pid) * 2 ^ 16 + quadBit (s.armedIn f.pid) * 2 ^ 18))
    | 0x0048 => some 0
    | _ => none

/-- A special register of a slot written by the debugger, by its word of the image (R99), its reserved bits zero. -/
def SysRegs.poke (r : SysRegs) (guarded : Bool) (n : Nat) (v : Word) : SysRegs :=
  match n with
  | 32 => { r with status := setFld (v &&& 0xF1#64) 6 1 (fld r.status 6 1) }
  | 48 => { r with tvec := v &&& ~~~1#64 }
  | 49 => { r with epc := v }
  | 50 => { r with ecause := v &&& 0xFF#64 }
  | 51 => { r with einfo := v }
  | 52 => { r with estatus := v }
  | 53 => { r with allow := v &&& 0x0001FFFFFFFFFFFF#64 }
  | 54 => { r with regallot := v &&& 0x11F3F#64 }
  | 55 => { r with spallot := v &&& 0x01FFFFFFFFFFFFFF#64 }
  | 57 => { r with rngseed := BitVec.ofNat 32 (if fld v 0 32 = 0 then 1 else fld v 0 32) }
  | 58 => { r with bastecfg := basteWord v guarded, status := setFld r.status 6 1 (bit (basteEn (basteWord v guarded))) }
  | 59 => { r with basteCount := BitVec.ofNat 16 (fld v 48 16), basteSeq := BitVec.ofNat 48 (fld v 0 48) }
  | _ =>
    if 40 ≤ n ∧ n < 48 then
      { r with guardBase := FMap.set 0 r.guardBase (n - 40) (word (fld v 0 32) &&& 0xF0FFFFE0#64)
               guardLim := FMap.set 0 r.guardLim (n - 40) (word (fld v 32 32) &&& 0x01FFFFE0#64) }
    else r

/-- A word of a slot's other state written by the debugger (R380), numbered as in the slot's image (R99): t1 to t31, m1 to
m7, the wake and the handback, the held push, the work identifier, and the vectors. -/
def Slot.poke (x : Slot) (n : Nat) (v : Word) : Slot :=
  if 1 ≤ n ∧ n < 32 then { x with t := FMap.set 0 x.t n v }
  else if 33 ≤ n ∧ n < 40 then { x with m := FMap.set 0 x.m (n - 32) v }
  else if n = 56 then
    { x with wake := v.getLsbD 0, hbPending := v.getLsbD 1, hbWaiting := v.getLsbD 2, hbAddr := setFld v 0 6 0 }
  else if n = 57 then
    { x with push := if v.getLsbD 38 then some (fld v 32 6, (x.push.map fun p => p.2).getD 0) else none }
  else if n = 60 then x.updTask fun t => { t with wid := v }
  else if n = 61 then { x with push := x.push.map fun p => (p.1, v) }
  else if 64 ≤ n ∧ n < 576 then
    let r := (n - 64) / 32
    let at_ := (n - 64) % 32 * 64
    let old := FMap.get 0 x.v r
    { x with v := FMap.set 0 x.v r ((old &&& ~~~(BitVec.ofNat 2048 (2 ^ 64 - 1) <<< at_)) ||| (v.setWidth 2048 <<< at_)) }
  else x

/-- DEBUG_SLOT_START (R380, R398): the debugger writes words of the state of a slot of a halted quad; a free slot it makes
ready, without a launch record. -/
def execDebugSlotStart (tk : Nat) (pc : Option Word) (srs regs : List (Nat × Word)) (s : State) : Res :=
  unitEvent (slotOk tk) tk s (
    let x := s.slot tk
    let guarded := ((s.part (s.pidOf tk)).guardQuad (s.pOf tk)).isSome
    let value (e : Nat × Word) : Bool := decide (e.1 = 61)
    let y : Slot := ((regs.filter fun e => !value e) ++ regs.filter value).foldl (fun y e => y.poke e.1 e.2)
      { x with pc := pc.getD x.pc, sr := srs.foldl (fun r e => r.poke guarded e.1 e.2) x.sr }
    let up (st : SlotSt) : SlotSt := if y.push.isSome then .held else if st = .held then .ready else st
    if !(s.quad (quadOf tk)).halted then none
    else if x.st ≠ .free then some (s.setSlot tk { y with st := if y.push = x.push then x.st else up x.st })
    else some (s.setSlot tk { y with st := up .ready, op := .none, pushMore := [], task := {}, waited := 0, wdFired := false }))

/-! ## Function reset (R379) -/

/-- A thread of a partition. -/
def State.threadOf (s : State) (pid tk : Nat) : Bool := decide (s.pidOf tk = pid)

/-- What a context keeps that has begun anew. -/
def Saved.fresh (pid : Nat) : Saved := { pid, cores := List.replicate 4 {}, ltab := [], slots := List.replicate 32 {} }

/-- A quad without the state of a partition (R379): its run lists, records, channels and arrivals; `runs` when it is the running
context's, whose barriers, gangs and pattern table the quad holds; the cells of its share given by `mine`. -/
def Quad.forget (q : Quad) (pid : Nat) (runs : Bool) (mine : Nat → Bool) : Quad :=
  { q with barmask := if runs then [] else q.barmask, arrived := if runs then [] else q.arrived
           chans := q.chans.filter fun e => decide (e.pid ≠ pid)
           lists := q.lists.filter fun e => decide (e.1 / 4 ≠ pid), ready := q.ready.filter fun e => decide (e.1 ≠ pid)
           pendCells := q.pendCells.filter fun k => !mine k
           recs := q.recs.filter fun e => decide (e.2.pid ≠ pid), allots := q.allots.filter fun a => decide (a.1 ≠ pid)
           drain := q.drain.filter fun d => decide (d.pid ≠ pid), gangs := if runs then [] else q.gangs, ltab := if runs then [] else q.ltab
           shadow := q.shadow.map fun v => if v.pid = pid then Saved.fresh pid else v }

/-- A quad forgets a partition; the rings freed go to channels of its other context that run without one (R281). -/
def State.forgetQuad (s : State) (qi pid : Nat) : State :=
  (s.updQuad qi fun q => q.forget pid (decide ((s.ctx qi).pid = pid)) fun k => decide (s.sharePid k = pid)).regrantRings qi

/-- What a quad's context loses: its slots become free and its cores clear, its share is zeroed. -/
def State.resetQuad (s : State) (pid qi : Nat) : State :=
  let s1 := match s.ctxOf qi pid with
    | some c => s.zeroShare qi c.base (s.spSize pid)
    | none => s
  let s2 := s1.forgetQuad qi pid
  if (s.ctx qi).pid = pid then
    let s3 := (List.range 32).foldl (fun t n => t.setSlot (qi * 32 + n) { faultTag := (t.slot (qi * 32 + n)).faultTag + 1#8 }) s2
    (List.range 4).foldl (fun t c => t.updCore (qi * 4 + c) Core.fresh) s3
  else s2

/-- The shares that memory-only quads still hold for a partition are zeroed (R366, R375, R379). -/
def State.zeroFormer (s : State) (pid : Nat) : State :=
  s.quads.foldl (fun t q => (q.2.former.filter fun c => decide (c.pid = pid)).foldl (fun u c => u.zeroShare q.1 c.base (s.spSize pid)) t) s

/-- What a partition has in flight ends at its issuers and is discarded. -/
def State.discard (s : State) (pid : Nat) : State :=
  let mine (tk : Nat) : Bool := s.threadOf pid tk
  { s with
    flights := s.flights.filter fun f => decide (f.pid ≠ pid)
    groups := s.groups.filter fun g => !mine g.thr
    wakes := s.wakes.filter fun tk => !mine tk
    pushes := s.pushes.filter fun p => decide (p.pid ≠ pid)
    probes := s.probes.filter fun p => decide (p.pid ≠ pid)
    msgs := s.msgs.filter fun m => decide (m.pid ≠ pid)
    packets := s.packets.filter fun p => decide (p.pid ≠ pid)
    flits := s.flits.filter fun f => !(s.packets.any fun p => decide (p.id = f.pkt ∧ p.pid = pid))
    ctrl := s.ctrl.filter fun c => decide (c.pid ≠ pid)
    launches := s.launches.filter fun l => decide (l.pid ≠ pid)
    moves := s.moves.filter fun m => !mine m.thr
    ltabs := s.ltabs.filter fun l => !mine l.thr
    doubles := s.doubles.filter fun d => !mine d.1
    parked := s.parked.filter fun p => decide (p.1 ≠ pid)
    chanFaults := s.chanFaults.filter fun f => decide (f.pid ≠ pid)
    spillPops := s.spillPops.filter fun p => !mine p.thr }

/-- The flits of a partition leave their buffers. -/
def State.flushFlits (s : State) (pid : Nat) : State :=
  (s.packets.filter fun p => decide (p.pid = pid)).foldl (fun t p =>
    (t.flits.filter fun f => decide (f.pkt = p.id)).foldl (fun u f => u.freeBuffer p f) t) s

/-- The quads that hold a context of a partition. -/
def State.ctxQuads (s : State) (pid : Nat) : List Nat :=
  (s.quads.filter fun q => q.2.ctxs.any fun c => decide (c.pid = pid)).map fun q => q.1

/-- A stream of a reset function: it carries no new flits, and its slots are free after 16 cycles of each link (R356, R379). -/
def State.drainStream (s : State) (pid : Nat) (t : Stream) : State :=
  (s.closeStream pid t).setSlots t.hops (slotOwner pid t.sid) |>.updPanel fun p =>
    { p with draining := p.draining ++ t.hops.map fun h => (h.1 * 16 + h.2, s.cycleAt (h.1 / 4) + 16) }

/-- Slots whose drain has ended are free. -/
def State.freeDrained (s : State) (r : Nat) : State :=
  let done (e : Nat × Nat) : Bool := decide (regionOf (e.1 / 64) = r ∧ e.2 ≤ (s.region r).cycle)
  s.updPanel fun p => { p with
    slotTab := (p.draining.filter done).foldl (fun m e => FMap.set 0 m e.1 0) p.slotTab
    draining := p.draining.filter fun e => !done e }

/-- FUNCTION_RESET (R379): bursts already committed stay with their edge units; all else of the partition ends. -/
def execFunctionReset (v : Nat) (s : State) : Res :=
  event s (do
    let pid ← s.vfPid v
    let s1 := (s.part pid).streams.foldl (fun t x => t.drainStream pid x) s
    let s2 := ((s1.flushFlits pid).discard pid)
    let s3 := ((s.ctxQuads pid).foldl (fun t qi => t.resetQuad pid qi) s2).zeroFormer pid
    let owned (g : Nat) : Bool := s.ownsGranule pid g
    let s4 := (s.part pid).s2.foldl (fun t m => t.reassign m.pa m.size (s.part pid).key 0) s3
    pure ({ s4 with tlb := s4.tlb.filter (fun e => decide (e.pid ≠ pid)), place := s4.place.filter fun e => !owned e.1 }.updPart pid
      fun p => { p with s2 := [], s1inv := [], s1done := p.s1issued, barsets := [], streams := [], routes := [] }))

/-! ## Keys and frames (R365 to R367) -/

/-- Bytes written under one key read under another (R365): each block of 16 of a range of frames. -/
def State.rekey (s : State) (old new : BitVec 512) (pa n : Nat) : State :=
  (List.range (n / 16)).foldl (fun t i =>
    let k := hbmKey (pa + 16 * i)
    t.wr k 16 (rekeyed old new (pa + 16 * i) (t.rd k 16))) s

/-- KEY_LOAD (R365): no register returns a key; key id 0 is the controller's. What the frames of the key id hold was encrypted
under the key it had. -/
def execKeyLoad (id : Nat) (key : BitVec 512) (s : State) : Res :=
  event s (
    if 1 ≤ id ∧ id < 4096 then
      let old := FMap.get 0 s.panel.keys id
      let s1 := if old = key then s
        else (s.panel.frames.filter fun e => decide (e.2.2 = id)).foldl (fun t e => t.rekey old key e.1 e.2.1) s
      some (s1.updPanel fun p => { p with keys := FMap.set 0 p.keys id key })
    else none)

/-- FRAME_REASSIGN (R366): unmapped, zeroed under the new key, and its lines of the old key invalidated. -/
def execFrameReassign (frame old new : Nat) (s : State) : Res :=
  event s (
    let pa := frame * 4096
    if s.usesFrames pa 4096 then none else some (s.reassign pa 4096 old new))

/-- Page sizes of stage 2 (R207). -/
def s2Size (n : Nat) : Bool := [2 ^ 12, 2 ^ 16, 2 ^ 21, 2 ^ 25, 2 ^ 30, 2 ^ 34].contains n

/-- STAGE2_MAPPING_CHANGE (R207, R366, R367): the old mappings of the range go, with what was translated by them, once every
access so translated has been performed (R210); permissions of none leave it unmapped. -/
def execStage2MappingChange (pid ipa size pa : Nat) (perm : BitVec 3) (s : State) : Res :=
  event s (
    let pt := s.part pid
    if !pt.live || !s2Size size || decide (ipa % size ≠ 0 ∨ pa % size ≠ 0 ∨ 1728 * 2 ^ 30 < pa + size) || !s.panel.mappable pt.key pa size then none
    else
      let gone := pt.s2.filter fun m => overlap m.ipa m.size ipa size
      if gone.any fun m => s.usesFrames m.pa m.size then none else
      let s1 : State := { s with tlb := s.tlb.filter fun e => decide (e.pid ≠ pid) || e.host || !(gone.any fun m => overlap e.pa e.size m.pa m.size) }
      let new : List S2Map := if perm = 0 then [] else
        [{ ipa, size, pa, rd := perm.getLsbD 0, wr := perm.getLsbD 1, ex := perm.getLsbD 2 }]
      let s2 := if perm = 0 then s1 else s1.updPanel fun p => p.giveFrames pa size pt.key
      some (s2.updPart pid fun p => { p with s2 := (p.s2.filter fun m => !overlap m.ipa m.size ipa size) ++ new }))

/-! ## Detectors and records (R363, R372) -/

/-- UNCORRECTABLE_ECC_ERROR (R372, detector 0). -/
def execUncorrectableEccError (qi core : Nat) (s : State) : Res := unitEvent (quadOk qi && decide (core < 4)) qi s (some (s.contain qi 0 core))
/-- PIPELINE_PARITY_ERROR (R372, detector 1). -/
def execPipelineParityError (qi core : Nat) (s : State) : Res := unitEvent (quadOk qi && decide (core < 4)) qi s (some (s.contain qi 1 core))
/-- ROUTER_HEARTBEAT_LOSS (R372, detector 3). -/
def execRouterHeartbeatLoss (qi : Nat) (s : State) : Res := unitEvent (quadOk qi) qi s (some (s.contain qi 3 0))
/-- CORRECTABLE_ECC_ERROR (R372): counted. -/
def execCorrectableEccError (qi : Nat) (s : State) : Res :=
  unitEvent (quadOk qi) qi s (some (s.updPanel fun p => { p with eccCount := FMap.set 0 p.eccCount qi (FMap.get 0 p.eccCount qi + 1) }))

/-- REINSTATE_ENTRY_APPEND (R363): an entry whose signature fails is not appended. -/
def execReinstateEntryAppend (qi unit : Nat) (time : Word) (sig : Nat) (s : State) : Res :=
  unitEvent (quadOk qi) qi s (
    if Config.signatureOk qi unit time sig then some (s.updPanel fun p => { p with log := p.log ++ [{ qi, unit, retire := false, time }] })
    else none)

/-! ## Droop and freeze (R382, R383) -/

/-- DROOP_ALARM_RAISE (R382): ACT and SEEN are set, and COUNT grows to its largest value. -/
def execDroopAlarmRaise (r : Nat) (s : State) : Res :=
  unitEvent (regionOk r) r s (
    if (s.region r).droopst.getLsbD 0 then none
    else some (s.updRegion r fun g => { g with droopst := setFld (g.droopst ||| 3#64) 48 16 (Nat.min 65535 (fld g.droopst 48 16 + 1)) }))

/-- DROOP_ALARM_CLEAR (R382). -/
def execDroopAlarmClear (r : Nat) (s : State) : Res :=
  unitEvent (regionOk r) r s (some (s.updRegion r fun g => { g with droopst := g.droopst &&& ~~~1#64 }))

/-- FREEZE_INPUT (R383): the clocks of the panel stop. -/
def execFreezeInput (s : State) : Res := .next (s.updPanel fun p => { p with frozen := true })

/-- FREEZE_COMMAND (R383): the clocks of the regions named stop. -/
def execFreezeCommand (regions : BitVec 16) (s : State) : Res :=
  .next ((List.range 16).foldl (fun t r => if regions.getLsbD r then t.updRegion r fun g => { g with frozen := true } else t) s)

end Sys2Proof.Machine
end

