-- ==== Sys2Proof/Machine/Recovery.lean ====
section
/-! DEFINITION. Map changes (R26, R32, R332): substitution (R373 to R376), the fill of a substitute (R374), the loss of a
quad and the resizing of a partition (R378), and the context swap (R384). -/

namespace Sys2Proof.Machine

/-! ## The fill (R374) -/

/-- The bytes and full/empty states of a range, copied to another that then holds nothing else. -/
def State.copyRange (s : State) (src dst n : Nat) : State :=
  let inside (k : Nat) : Bool := decide (src ≤ k ∧ k < src + n)
  let t := s.zeroRange dst n
  { t with
    mem := (s.mem.filter fun c => inside c.1).foldl (fun m c => FMap.set (0 : Byte) m (c.1 - src + dst) c.2) t.mem
    fe := (s.fe.filter fun c => inside c.1).foldl (fun m c => FMap.set false m (c.1 - src + dst) c.2) t.fe }

/-- A local write on its way, with its keys changed. -/
def PendOp.atKeys (f : Nat → Nat) : PendOp → PendOp
  | .store k bs => .store 0 (bs.map fun b => (f (k + b.1), b.2.1, b.2.2))
  | .feinit k full => .feinit (f k) full
  | p => p

/-- A wait at a word, with its key changed. -/
def Wait.atKeys (f : Nat → Nat) : Wait → Wait
  | .full k => .full (f k)
  | .empty k => .empty (f k)
  | w => w

/-- What names keys of a quad's scratchpad beside its bytes takes their new ones: its slots' stores on their way, the requests at its
words, and the tree reductions open there. -/
def State.moveKeys (s : State) (qi : Nat) (f : Nat → Nat) : State :=
  { s with
    cores := s.cores.map fun c => if quadOfCore c.1 = qi then (c.1, { c.2 with pend := c.2.pend.map fun p => { p with op := p.op.atKeys f } }) else c
    slots := s.slots.map fun x => if quadOf x.1 = qi then (x.1, { x.2 with st := match x.2.st with
      | .blocked w => .blocked (w.atKeys f)
      | st => st }) else x
    wordQueue := s.wordQueue.map fun w => if w.slot.any fun tk => decide (quadOf tk = qi) then { w with key := f w.key } else w
    redPairs := s.redPairs.map fun r => { r with loc := f r.loc } }

/-- One block moves: cells that wait for the ready ring move with it. -/
def State.moveBlock (s : State) (qi src blk : Nat) : State :=
  let a := scratchKey src (blk * 65536)
  let b := scratchKey qi (blk * 65536)
  let new (k : Nat) : Nat := if a ≤ k ∧ k < a + 65536 then k - a + b else k
  ((s.copyRange a b 65536).moveKeys qi new).updQuad qi fun q =>
    { q with
      pendCells := q.pendCells.map new
      fill := q.fill.bind fun f => if f.moved.length < 255 then some { f with moved := f.moved ++ [blk], next := f.next.filter fun b => b != blk } else none }

/-- SHARE_FILL_BLOCK (R374): one block of 64 KiB; one that has been accessed since is moved next. -/
def execShareFillBlock (qi blk : Nat) (s : State) : Res :=
  unitEvent (quadOk qi) qi s (do
    let f ← (s.quad qi).fill
    if f.moved.contains blk || decide (256 ≤ blk) || !(f.next.head?.all fun b => b == blk) then none else pure (s.moveBlock qi f.src blk))

/-- The rest of a fill at once: its quad has failed in turn. -/
def State.finishFill (s : State) (qi : Nat) : State :=
  match (s.quad qi).fill with
  | none => s
  | some f => ((List.range 256).filter fun b => !f.moved.contains b).foldl (fun t b => t.moveBlock qi f.src b) s

/-! ## What a slot leaves behind -/

/-- The slot is as one that has never run; late replies to its faults bear another tag (R213). -/
def State.clearSlot (s : State) (tk : Nat) : State := s.setSlot tk { faultTag := (s.slot tk).faultTag + 1#8 }

/-- The entry that a bound optimistic task becomes again (R316). -/
def Task.entry (t : Task) : Option Entry := t.handle.map fun h => { handle := h, piece := t.piece }

/-- A basted slot with a checkpoint to resume from (R369, R373). -/
def State.resumable (s : State) (tk : Nat) : Bool := (s.slot tk).bst && (s.lastHalf tk).isSome

/-- One slot of a failed quad: an optimistic task goes to the head of its list on the substitute when the task area
survives, else its piece counts as finished; a basted slot waits to be resumed; every other slot is lost. -/
def State.leaveSlot (s : State) (tk pid qt : Nat) (survives : Bool) : State :=
  let x := s.slot tk
  if x.st = .free then s
  else if x.optimistic then
    let t := match survives, x.task.entry with
      | true, some e => s.pushEntries qt pid x.task.prio [e]
      | _, _ => s.pieceDone pid x.task.handle false
    (t.ripFlights tk).clearSlot tk
  else if s.resumable tk then s.ripFlights tk
  else (s.ripFlights tk).clearSlot tk

/-- Unfinished pieces of an entry: the tiles a pinned one has left. -/
def Entry.left (e : Entry) (pin : Bool) : Nat := if pin then e.piece.tiles - e.nextTile else 1

/-- Entries whose task area is lost count as finished (R316). -/
def State.loseEntries (s : State) (lists : FMap (List Entry)) : State :=
  lists.foldl (fun t l => l.2.foldl (fun u e =>
    (List.range (e.left (hdrPin (u.launchRec (l.1 / 4) e.handle).hdr))).foldl (fun v _ => v.pieceDone (l.1 / 4) (some e.handle) false) u) t) s

/-! ## Substitution (R373) -/

/-- A channel entry of the failed home, at the substitute (R293, R374): with the share its ring survives; else the ring of a
basted reader is found in spill, and another is lost. -/
def ChanEnt.rebuilt (e : ChanEnt) (survives basted : Bool) : ChanEnt :=
  if survives || decide (e.ring = none) then e
  else if basted then { e with ring := none, sph := e.keep, letout := e.letout || decide (e.keep < e.tail) }
  else { e with ring := none }

/-- Threads of the failed quad, at the substitute. -/
def moveThread (qf qt tk : Nat) : Nat := if quadOf tk = qf then qt * 32 + tk % 32 else tk

/-- A spill of a lost slot ends with status 4 (R112). -/
def State.failMoves (s : State) (qf : Nat) : State :=
  let gone := s.moves.filter fun m => decide (quadOf m.thr = qf)
  gone.foldl (fun t m => t.answerMove m 4) { s with moves := s.moves.filter fun m => decide (quadOf m.thr ≠ qf) }

/-- What is on its way to the failed quad goes to the substitute: packets bounce (R332), the rest is sent again. -/
def State.redirect (s : State) (qf qt : Nat) : State :=
  let s1 := (s.packets.filter fun p => decide (p.dst = qf) && !p.bounced).foldl (fun t p => t.bounce p) s
  { s1 with
    flights := s1.flights.map fun f => match f.stage with
      | .net q => if q = qf ∧ f.pkt = none then { f with stage := .net qt } else f
      | .atNI q => if q = qf then { f with stage := .net qt, pkt := none } else f
      | _ => f
    msgs := s1.msgs.map fun m => if quadOfCore m.dst = qf ∧ m.pkt = none ∧ m.peer = false then { m with dst := qt * 4 + m.dst % 4 } else m
    pushes := s1.pushes.map fun p => { p with home := if p.home = qf ∧ p.pkt = none then qt else p.home }
    launches := (s1.launches.filter fun r => !(decide (r.quad = qf) && !r.spawn && !r.host)).map fun r => if r.quad = qf then { r with quad := qt } else r
    wakes := s1.wakes.map (moveThread qf qt)
    ctrl := s1.ctrl.filter fun c => decide (quadOf c.thr ≠ qf)
    ltabs := s1.ltabs.filter fun l => decide (quadOf l.thr ≠ qf)
    chanFaults := s1.chanFaults.filter fun f => decide (f.qi ≠ qf)
    wordQueue := s1.wordQueue.filter fun w => w.slot.all fun tk => decide (quadOf tk ≠ qf)
    spillPops := s1.spillPops.filter fun p => decide (p.qi ≠ qf)
    tlb := s1.tlb.filter fun e => !decide (e.loc < 9216 ∧ quadOfCore e.loc = qf)
    owners := s1.owners.filter fun e => decide (quadOfCore (e.2 - 1) ≠ qf) }

/-- A stream that ends at a quad is opened again (R356): with the same slots, or the partition hears of it. -/
def State.reopen (s : State) (pid : Nat) (t : Stream) : State :=
  let s1 := s.closeStream pid t
  let plan := s1.openPlan pid t
  let ok := !(plan.1.any fun l => s1.deadRouter ((linkTo l).getD 0)) && (plan.2.all fun e => Config.streamPermitted pid e.1 e.2)
    && !plan.2.any fun e => (s1.slotEntry e.1 e.2).getLsbD 31
  if ok then s1.openStream pid t else s1.shortfall pid t 0 0

/-- The cores of a quad begin anew (R159). -/
def State.freshCores (s : State) (qi : Nat) : State := (List.range 4).foldl (fun t c => t.updCore (qi * 4 + c) Core.fresh) s

/-- The guarding quad's basting area was lost (R369): an implied BASTE is due. -/
def State.guardLost (s : State) (pid p : Nat) : State :=
  { s with slots := s.slots.map fun x =>
      if decide (s.pidOf x.1 = pid) && x.2.bst && decide ((s.part pid).guardQuad (s.pOf x.1) = some p) then
        (x.1, x.2.updTask fun t => { t with basteDue := true })
      else x }

/-- The atomic logs of a failed quad's place: they move with its share, or are lost with it (R370, R374). -/
def State.moveLogs (s : State) (qf : Nat) (new : Option Nat) : State :=
  let at_ (l : AtomLog) : Option AtomLog := if l.place = qf then new.map fun q => { l with place := q } else some l
  { s with slots := s.slots.map fun x => (x.1, x.2.updTask fun t => { t with atomLog := t.atomLog.filterMap at_ }) }

/-- A substitute takes the place of a failed quad at the switch time. The slots of a context that is swapped out are in its save area
(R384), and stay; what its shadow storage held of the cores, the yoke state among it (R189), stays where the failed quad's scratchpad
survives, and is lost with it otherwise (log entry 151). -/
def State.substitute (s : State) (qf qt : Nat) : State :=
  let s0 := if (s.quad qf).st = .memoryOnly then s.finishFill qf else s
  let q := s0.quad qf
  let survives := decide (q.st = .memoryOnly)
  let pid := (s0.ctx qf).pid
  let kept := q.arrived.filter fun a => s0.resumable (qf * 32 + a.slot) && decide (a.after ≤ (s0.slot (qf * 32 + a.slot)).task.ckId)
  let basted (e : ChanEnt) : Bool := match s0.threadKey e.pid e.reader with
    | some tk => (s0.slotIn e.pid (qf * 32 + tk % 32)).bst
    | none => false
  let held := (List.range 32).filterMap fun n =>
    if s0.resumable (qf * 32 + n) then (s0.slot (qf * 32 + n)).task.allot.map fun a => (pid, a.1, a.2) else none
  let home := (q.chans.filter fun e => s0.isHome qt e).map fun e => e.rebuilt survives (basted e)
  let lost := if survives then [] else q.chans.filter fun e => s0.isHome qt e && e.ring.isSome && !basted e
  let sub : Quad := { st := .healthy, ctxs := q.ctxs, barmask := q.barmask, arrived := kept, chans := home
                      lists := if survives then q.lists else [], ready := if survives then q.ready else []
                      pendCells := if survives then q.pendCells else [], recs := q.recs
                      allots := held ++ q.allots.filter fun a => decide (a.1 ≠ pid)
                      drain := if survives then q.drain else [], arbs := (s0.quad qt).arbs, halted := q.halted, brkArm := q.brkArm
                      shadow := q.shadow.map fun v => if survives then v else { v with cores := List.replicate 4 {}, ltab := [] }, fill := if survives then some { src := qf } else none
                      replaces := some qf }
  let s1 := (s0.zeroRange (scratchKey qt 0) (2 ^ 24)).setQuad qt sub
  let s2 := ((List.range 32).reverse).foldl (fun t n => t.leaveSlot (qf * 32 + n) pid qt survives) s1
  let s3 := if survives then s2
    else (q.drain.foldl (fun t d => t.pieceDone d.pid (some d.handle) true) (s2.loseEntries q.lists))
  let s4 := (s3.setQuad qf { st := q.st, contained := true, former := if survives then q.ctxs else [], chans := q.chans }).freshCores qt
  let s5 := (List.range 4).foldl (fun t c => t.updCore (qf * 4 + c) Core.fresh) s4
  let s6 := (((s5.failMoves qf).redirect qf qt).moveLogs qf (if survives then some qt else none))
  let s7 := q.ctxs.foldl (fun t c =>
    let u := if survives then t else t.guardLost c.pid c.p
    ((u.part c.pid).streams.filter fun x => decide (x.src = c.p ∨ x.dst = c.p)).foldl (fun v x => v.reopen c.pid x) u) s6
  lost.foldl (fun t e => t.poison e.pid e.id false) (s7.regrantRings qt)

/-! ## Places of entries and handles after a change of numbers (R316, R378) -/

/-- A quad that joins a partition at a resizing: the number that names it until the numbers change, above all others, its logical
coordinates, its tag (R29) and its physical quad. -/
structure Joiner where
  num : Nat
  xy : Nat × Nat
  tag : Nat
  phys : Nat
  deriving DecidableEq, Repr

/-- How quads leave a partition: the quads that join with the same change, and the values of handles after it. -/
structure Leave where
  joined : List Joiner := []
  handle : Word → Word := id

/-- The physical quad of a number, in the numbering before the change. -/
def State.physOf (s : State) (pid : Nat) (l : Leave) (p : Nat) : Option Nat :=
  match l.joined.find? fun j => decide (j.num = p) with
  | some j => some j.phys
  | none => s.physQuad pid p

/-- The launch record of a handle of that numbering. -/
def State.recAt (s : State) (pid : Nat) (l : Leave) (h : Word) : LaunchRec :=
  match s.physOf pid l (fld h 16 11) with
  | none => {}
  | some qi => FMap.get {} (s.quad qi).recs (pid * 256 + fld h 0 8)

/-- Row-major order of logical quads: that of partition-logical numbers (R21). -/
def rowMajor (xy : Nat × Nat) : Nat := xy.2 * 64 + xy.1

/-- The pair with the least first number. -/
def leastKey (l : List (Nat × Nat)) : Option (Nat × Nat) :=
  l.foldl (fun b e => match b with
    | none => some e
    | some x => if e.1 < x.1 then some e else some x) none

/-- The next live quad after a place in the order, wrapping, among those given with their places. -/
def nextLive (live : List (Nat × Nat)) (at_ : Nat) : Option Nat :=
  match leastKey (live.filter fun e => decide (at_ < e.1)) with
  | some e => some e.2
  | none => (leastKey live).map fun e => e.2

/-- Where a piece of a record goes from a removed quad (R316): a place that LAUNCH's override gave is one quad, as placement 2's is. -/
def State.newPlace (s : State) (pid p : Nat) (l : Leave) (r : LaunchRec) (x : Piece) : Option Nat :=
  let h := r.hdr
  let pt := s.part pid
  let ring := pt.ring ++ l.joined.map fun j => (j.num, j.tag)
  let placed (ps : List Nat) : List (Nat × Nat) := ps.map fun p => (rowMajor (pt.coord p), p)
  let new := l.joined.map fun j => (rowMajor j.xy, j.num)
  match if r.override.isSome then 2 else hdrPlace h with
  | 1 => match hdrFirst h with
    | some f =>
      let g := hdrGrain h f
      some (keyHome ring (hdrPack h ((List.replicate (hdrNf h) 0).set f (x.org.getD f 0 / g * g))))
    | none => some (keyHome ring 0)
  | 0 => nextLive (placed (s.rectQuads pid (hdrPlaceArg h)) ++ if bitsAt (hdrPlaceArg h) 11 7 = 0 then new else []) (rowMajor (pt.coord p))
  | _ => nextLive (placed ((List.range (pt.w * pt.h)).filter fun q => s.liveQuad pid q) ++ new) (rowMajor (pt.coord p))

/-- An entry enters the tail of its list at its new quad, where its wait begins (R305); without one its pieces count as finished. -/
def State.replaceEntry (s : State) (pid p : Nat) (l : Leave) (prio : Nat) (e : Entry) : State :=
  match (s.newPlace pid p l (s.recAt pid l e.handle) e.piece).bind fun d => s.physOf pid l d with
  | some qi => s.updQuad qi fun q => q.setList pid prio (q.list pid prio ++ [{ e with since := s.cycleAt qi }])
  | none => (List.range (e.left (hdrPin (s.recAt pid l e.handle).hdr))).foldl (fun t _ => t.pieceDone pid (some e.handle) false) s

/-- Pieces that wait in the engines for a removed quad are placed again (R302, R316). -/
def State.replaceWaiting (s : State) (pid p : Nat) (l : Leave) : State :=
  let place (r : LaunchRec) (w : Nat × Piece) : Nat × Piece := if w.1 = p then ((s.newPlace pid p l r w.2).getD p, w.2) else w
  { s with quads := s.quads.map fun q => (q.1, { q.2 with recs := q.2.recs.map fun r =>
      if r.2.pid = pid then (r.1, { r.2 with waiting := r.2.waiting.map (place r.2) }) else r }) }

/-! ## Handles (R298) -/

def Task.rehandle (h : Word → Word) (t : Task) : Task := { t with handle := t.handle.map h }

/-- The handles that a quad keeps for a partition, under their new values. -/
def Quad.rehandle (q : Quad) (pid : Nat) (h : Word → Word) : Quad :=
  { q with
    lists := q.lists.map fun l => if l.1 / 4 = pid then (l.1, l.2.map fun e => { e with handle := h e.handle }) else l
    ready := q.ready.map fun r => if r.1 = pid then (r.1, h r.2) else r
    drain := q.drain.map fun d => if d.pid = pid then { d with handle := h d.handle } else d
    shadow := q.shadow.map fun v => if v.pid = pid then { v with slots := v.slots.map fun x => x.updTask fun t => t.rehandle h } else v }

/-- A dependence cell that holds the handle of its record takes the new one (R308). -/
def State.recell (s : State) (pid : Nat) (h : Word → Word) : State :=
  s.quads.foldl (fun t q => q.2.recs.foldl (fun u r =>
    match if r.2.pid = pid then s.hdrCell pid r.2.hdr else none with
    | none => u
    | some k =>
      let own := decide (s.rd8 (k + 8) = word (s.pAt q.1 pid * 65536 + r.1 % 256))
      if (fld (s.rd8 k) 62 2 ≠ 0) && own then u.wr8 (k + 8) (h (s.rd8 (k + 8))) else u) t) s

/-- Every handle of a partition takes its new value: in lists, rings, drains, slots, launches under way, and cells. -/
def State.rehandle (s : State) (pid : Nat) (h : Word → Word) : State :=
  { s.recell pid h with
    quads := s.quads.map fun q => (q.1, q.2.rehandle pid h)
    slots := s.slots.map fun x => if s.pidOf x.1 = pid then (x.1, x.2.updTask fun t => t.rehandle h) else x
    doubles := s.doubles.map fun x => if s.pidOf x.1 = pid then (x.1, x.2.updTask fun t => t.rehandle h) else x
    launches := s.launches.map fun r => if r.pid = pid then { r with handle := h r.handle } else r }

/-- A launch record of a removed quad goes to the next live quad whose engine has one free, under a handle there (R316; log entry 143). -/
def State.moveRec (s : State) (qi : Nat) (c : Ctx) (l : Leave) (idx : Nat) : State :=
  let n := (s.part c.pid).w * (s.part c.pid).h
  let place := ((((List.range n).map fun i => (c.p + 1 + i) % n).filter fun p => decide (p ≠ c.p)) ++ l.joined.map fun j => j.num).findSome? fun p =>
    (s.physOf c.pid l p).bind fun qt => (s.freeRec qt c.pid).map fun i => (p, qt, i)
  match place with
  | none => s
  | some (p, qt, i) =>
    let old := word (c.p * 65536 + idx % 256)
    let r := FMap.get {} (s.quad qi).recs idx
    let t := s.rehandle c.pid fun h => if h = old then word (p * 65536 + i) else h
    (t.updQuad qi fun q => { q with recs := FMap.set {} q.recs idx {} }).updQuad qt fun q =>
      { q with recs := FMap.set {} q.recs (c.pid * 256 + i) r }

/-- The held records of a removed quad's ended tasks are drained where their launch record now is (R316, R397; log entry 143); those of
a record that is lost count as performed. -/
def State.moveDrain (s : State) (qi : Nat) (c : Ctx) (l : Leave) : State :=
  ((s.quad qi).drain.filter fun d => decide (d.pid = c.pid)).foldl (fun t d =>
    match (s.physOf c.pid l (fld d.handle 16 11)).bind fun r => if r = qi then none else some r with
    | some qt => t.updQuad qt fun q => { q with drain := q.drain ++ [{ d with thr := qt * 32 + d.thr % 32 }] }
    | none => t.pieceDone d.pid (some d.handle) true) s

/-- A basted slot as its last valid checkpoint has it (R369). -/
def State.checkpointed (s : State) (tk : Nat) : Option Slot := do
  let h ← s.lastHalf tk
  let k ← s.halfKey tk h 0
  let x := s.slot tk
  let y := s.slotOfImage k x (s.taskHdr tk) true
  if x.bst then pure { y with task := { y.task with tails := x.task.tails, lastTail := x.task.tails, replay := x.task.tails, msgTo := x.task.msgTo
                                                    atomLog := x.task.atomLog, passed := x.task.passed, repeats := x.task.passed
                                                    piece := x.task.piece, prio := x.task.prio, allot := x.task.allot } }
  else none

/-- A slot of a removed quad (R378): an optimistic task is ripped without split and placed again; a pinned one of a quad
whose cores work is spilled to its save area, from where the service core may restore it; of a failed quad a basted one is, as its last
checkpoint has it (R371, log entry 152), and another is lost. -/
def State.removeSlot (s : State) (tk pid p : Nat) (failed : Bool) (l : Leave) : State :=
  let x := s.slot tk
  if x.st = .free then s
  else
    let t := (s.ripFlights tk).clearSlot tk
    if x.optimistic then
      match x.task.entry with
      | some e => t.replaceEntry pid p l x.task.prio e
      | none => t
    else match if failed then s.checkpointed tk else some { x with st := if x.push.isSome then .held else .ready } with
      | some y => t.saveImage tk pid (p * 32 + tk % 32) (y.updTask fun k => k.rehandle l.handle)
      | none => t

/-- The pinned slots of a context that is swapped out go to its save area when its quad is removed (R378, R384). -/
def State.removeSaved (s : State) (qi : Nat) (c : Ctx) (l : Leave) : State :=
  match (s.quad qi).shadow.find? fun v => decide (v.pid = c.pid) with
  | none => s
  | some v => v.slots.zipIdx.foldl (fun t e => if e.1.st = .free then t
      else t.saveImage (qi * 32 + e.2) c.pid (c.p * 32 + e.2) (e.1.updTask fun t => t.rehandle l.handle)) s

/-- The entries of a partition leave a quad's cache (R384, R378): rings are let out and fields written back. A fault on the
way is reported and the rest waits for the reply; none while a reply is awaited. -/
def State.letChans (s : State) (qi pid : Nat) : Except (Option State) State :=
  ((s.quad qi).chans.filter fun e => decide (e.pid = pid)).foldl (fun t e => match t with
    | .error u => .error u
    | .ok u => if u.chanWaits qi e then .error none
      else match u.evictChan qi e with
        | .ok v => .ok v
        | .error v => .error (some v)) (.ok s)

/-- The entries of a partition leave a quad's cache at a switch time, which waits for no reply (R332, R378): one whose writes fault, or
wait for a reply, is poisoned as by a failed eviction (R272; log entry 144). -/
def State.leaveChans (s : State) (qi pid : Nat) : State :=
  ((s.quad qi).chans.filter fun e => decide (e.pid = pid)).foldl (fun t e =>
    if t.chanWaits qi e then t.poison e.pid e.id true
    else match t.evictChan qi e with
      | .ok v => v
      | .error _ => t.poison e.pid e.id true) s

/-- The entries of a lost quad whose share is gone: rings of unbasted readers are poisoned (R280), the others are in spill. -/
def State.loseChans (s : State) (qi pid : Nat) : State :=
  let basted (e : ChanEnt) : Bool := match s.threadKey e.pid e.reader with
    | some tk => (s.slotIn e.pid tk).bst
    | none => false
  ((s.quad qi).chans.filter fun e => decide (e.pid = pid) && s.isHome qi e && e.ring.isSome && !basted e).foldl (fun t e => t.poison pid e.id true) s

/-- The state that a context keeps comes into its quad (R384). -/
def State.enterContext (s : State) (qi pid : Nat) : State :=
  let enter := ((s.quad qi).shadow.find? fun v => decide (v.pid = pid)).getD (Saved.fresh pid)
  let s1 := s.updQuad qi fun q => { q with ltab := enter.ltab, barmask := enter.barmask, arrived := enter.arrived
                                           halted := enter.halted, brkArm := enter.brkArm
                                           shadow := q.shadow.filter fun v => decide (v.pid ≠ pid) }
  let s2 := enter.cores.zipIdx.foldl (fun t e => t.updCore (qi * 4 + e.2) fun now => { e.1 with cycle := now.cycle, l1 := now.l1 }) s1
  enter.slots.zipIdx.foldl (fun t e => t.updSlot (qi * 32 + e.2) fun now => { e.1 with faultTag := now.faultTag + 1, next := now.next }) s2

/-- What the running context of a removed quad has under way no longer counts at its slots (R218), and its requests to other units end: a
context or a partition that comes after it finds none of it. -/
def State.orphan (s : State) (qi : Nat) : State :=
  let mine (tk : Nat) : Bool := decide (quadOf tk = qi)
  let t := s.failMoves qi
  { t with
    flights := t.flights.map fun f => if mine f.thr then { f with ret := f.ret.dropped, ctr := 7 } else f
    groups := t.groups.map fun g => if mine g.thr then { g with reg := none, denied := [], ctr := 7 } else g
    pushes := t.pushes.map fun p => if mine p.src then { p with counted := false } else p
    msgs := t.msgs.map fun m => if m.src.any mine then { m with counted := false } else m
    launches := (t.launches.filter fun r => r.spawn || !r.thr.any mine).map fun r => if r.thr.any mine then { r with thr := none, counted := false } else r
    ltabs := t.ltabs.filter fun o => !mine o.thr
    spillPops := t.spillPops.filter fun p => !mine p.thr
    wakes := t.wakes.filter fun tk => !mine tk
    wordQueue := t.wordQueue.filter fun w => !w.slot.any mine }

/-- A quad leaves a partition as its number p (R378): of a lost one the streams raise 0x18 (R356). Its channels
have left before. Its launch records, the pieces that wait for it and its drain go to other quads. -/
def State.removeQuad (s : State) (qi : Nat) (c : Ctx) (l : Leave) : State :=
  let survives := decide ((s.quad qi).st = .healthy ∨ (s.quad qi).st = .memoryOnly)
  let recs := ((s.quad qi).recs.filter fun r => decide (r.2.pid = c.pid)).map fun r => r.1
  let s0 := (if survives then recs.foldl (fun t i => t.moveRec qi c l i) s else s).replaceWaiting c.pid c.p l
  let q := s0.quad qi
  let s2 := if (s.ctx qi).pid = c.pid then (List.range 32).foldl (fun t n => t.removeSlot (qi * 32 + n) c.pid c.p q.contained l) (s0.orphan qi)
    else s0.removeSaved qi c l
  let lists := q.lists.filter fun l => decide (l.1 / 4 = c.pid)
  let s3 := if survives then
      ([0, 1, 2, 3].foldl (fun t prio => (q.list c.pid prio).foldl (fun u e => u.replaceEntry c.pid c.p l prio e) t) s2).moveDrain qi c l
    else (q.drain.filter fun d => decide (d.pid = c.pid)).foldl (fun t d => t.pieceDone d.pid (some d.handle) true) (s2.loseEntries lists)
  let s4 := s3.dropBarriers c.pid qi
  let s5 := ((s4.part c.pid).streams.filter fun x => decide (x.src = c.p ∨ x.dst = c.p)).foldl (fun t x =>
    if q.contained then (t.closeStream c.pid x).shortfall c.pid x (qi * 4) 0 else t.closeStream c.pid x) s4
  let s6 := ((if survives then s5 else s5.moveLogs qi none).forgetQuad qi c.pid).updQuad qi fun q =>
    { q with swapping := false, ctxs := q.ctxs.filter fun x => decide (x.pid ≠ c.pid), shadow := q.shadow.filter fun v => decide (v.pid ≠ c.pid) }
  let s6 : State := { s6 with chanFaults := s6.chanFaults.filter fun x => decide (x.qi ≠ qi ∨ x.pid ≠ c.pid) }
  if (s.ctx qi).pid ≠ c.pid then s6
  else match (s6.quad qi).ctxs with
    | [] => s6.freshCores qi
    | x :: _ => s6.enterContext qi x.pid

/-! ## Resizing (R378) -/

/-- Logical coordinates lie in a partition's rectangle (R21). -/
def Part.covers (pt : Part) (xy : Nat × Nat) : Bool :=
  decide (pt.x0 ≤ xy.1 ∧ xy.1 < pt.x0 + pt.w ∧ pt.y0 ≤ xy.2 ∧ xy.2 < pt.y0 + pt.h)

/-- The new number of partition-logical quad p, none when it is removed. -/
def renumber (old new : Part) (p : Nat) : Option Nat :=
  let xy := old.coord p
  if p < old.w * old.h ∧ new.covers xy = true then
    some ((xy.2 - new.y0) * new.w + (xy.1 - new.x0))
  else none

/-- The lowest tag that no member holds (R29). -/
def lowestTag (ring : List (Nat × Nat)) : Nat := ((List.range (ring.length + 1)).find? fun t => ring.all fun m => decide (m.2 ≠ t)).getD 0

/-- A handle with the new number of its quad; one of a removed quad stays as it is. -/
def renumberHandle (f : Nat → Option Nat) (h : Word) : Word :=
  match f (fld h 16 11) with
  | some p => setFld h 16 11 p
  | none => h

/-- Partition-logical numbers that a quad holds for a partition take their new values. -/
def Quad.renumber (q : Quad) (pid : Nat) (f : Nat → Option Nat) : Quad :=
  { q with
    ctxs := q.ctxs.map fun c => if c.pid = pid then { c with p := (f c.p).getD c.p } else c
    former := q.former.filterMap fun c => if c.pid = pid then (f c.p).map fun p => { c with p } else some c
    recs := q.recs.map fun r => if r.2.pid = pid then (r.1, { r.2 with waiting := r.2.waiting.map fun w => ((f w.1).getD w.1, w.2)
                                                                       override := r.2.override.map fun p => (f p).getD p }) else r }

/-- A table by partition-logical quad, with the new numbers. -/
def renumberMap (f : Nat → Option Nat) (m : FMap Nat) : FMap Nat :=
  m.foldl (fun t e => match f e.1 with
    | some p => FMap.set 0 t p e.2
    | none => t) []

/-- Every partition-logical number of a partition changes at once (R22, R378). Several quads that join at once take the lowest free tags in
the order of their new numbers, the model's choice (R29, log entry 149). -/
def State.renumberAll (s : State) (pid : Nat) (new : Part) (f : Nat → Option Nat) : State :=
  let old := s.part pid
  let ring := old.ring.filterMap fun m => (f m.1).map fun p => (p, m.2)
  let grown := ((List.range (new.w * new.h)).filter fun p => decide (ring.all fun m => m.1 ≠ p) &&
    (s.physLogical (new.coord p).2 (new.coord p).1).isSome).foldl (fun r p => r ++ [(p, lowestTag r)]) ring
  let joined := (List.range (new.w * new.h)).filter fun p => (List.range (old.w * old.h)).all fun q => decide (f q ≠ some p)
  let fresh := joined.foldl (fun m p => FMap.set 0 m p (s.newCode (new.coord p))) (renumberMap f old.defect)
  let pt : Part := { new with
    ring := grown, defect := fresh, aliases := renumberMap f old.aliases
    barsets := old.barsets.map fun b => { b with masks := b.masks.filterMap fun m => (f m.1).map fun p => (p, m.2) }
    streams := old.streams.filterMap fun t => do
      let a ← f t.src
      let b ← f t.dst
      pure { t with src := a, dst := b } }
  let t := s.rehandle pid (renumberHandle f)
  { t.setPart pid pt with
    quads := t.quads.map fun q => (q.1, q.2.renumber pid f)
    packets := t.packets.map fun p => if p.pid = pid then { p with p := (f p.p).getD 2048 } else p }

/-- The new rectangle fits, and its new quads are free. -/
def State.resizeOk (s : State) (pid x0 y0 w h : Nat) : Bool :=
  let pt := s.part pid
  let new : Part := { pt with x0, y0, w, h }
  pt.live && decide (1 ≤ w ∧ x0 + w ≤ 64 ∧ 1 ≤ h ∧ y0 + h ≤ 32) && !s.claimed pid x0 y0 w h
    && (s.rectPhys new).all fun e => (s.ctxOf e.2 pid).isSome || (decide ((s.quad e.2).ctxs.length < 2) && (s.freeBase e.2 pt.spsize).isSome)

/-- Basted slots whose guarding quad is another after a resizing lose their area (R369). -/
def State.reguard (s : State) (pid : Nat) (guard : Nat → Option Nat) : State :=
  { s with slots := s.slots.map fun x =>
      let now := ((s.part pid).guardQuad (s.pOf x.1)).bind fun g => s.physQuad pid g
      if decide (s.pidOf x.1 = pid) && x.2.bst && decide (now ≠ guard (quadOf x.1)) then
        (x.1, x.2.updTask fun t => { t with basteDue := true })
      else x }

/-- The quads that a new rectangle removes from a partition, with their contexts. -/
def State.removedQuads (s : State) (pid x0 y0 w h : Nat) : List (Nat × Ctx) :=
  let old := s.part pid
  ((List.range (old.w * old.h)).filter fun p => (renumber old { old with x0, y0, w, h } p).isNone).filterMap fun p =>
    (s.physQuad pid p).bind fun qi => (s.ctxOf qi pid).map fun c => (qi, c)

/-- The quads that join a partition with a new rectangle, with their tags: they follow those that stay (R29). -/
def State.joiners (s : State) (old new : Part) : List Joiner :=
  let f := renumber old new
  let stay := old.ring.filter fun m => (f m.1).isSome
  let ps := (List.range (new.w * new.h)).filter fun p => !old.covers (new.coord p)
  (ps.foldl (fun (r : List (Nat × Nat) × List Joiner) p =>
    match s.physLogical (new.coord p).2 (new.coord p).1 with
    | none => r
    | some qi => (r.1 ++ [(p, lowestTag r.1)], r.2 ++ [{ num := old.w * old.h + r.2.length, xy := new.coord p, tag := lowestTag r.1, phys := qi }]))
    (stay, [])).2

/-- The resizing of a partition at its switch time (R378): the rings of the removed quads are let out, new quads join, the removed ones
leave, their entries going to the quads that the new ring and the new map give (R316), and every number changes. A quad whose clock is
stopped neither leaves nor joins (R383). -/
def State.resized (s : State) (pid x0 y0 w h : Nat) : State :=
  let old := s.part pid
  let new : Part := { old with x0, y0, w, h }
  let joined := s.joiners old new
  let f (p : Nat) : Option Nat := match joined.find? fun j => decide (j.num = p) with
    | some j => some ((j.xy.2 - new.y0) * new.w + (j.xy.1 - new.x0))
    | none => renumber old new p
  let gone := (List.range (old.w * old.h)).filter fun p => (f p).isNone
  let guard (qi : Nat) : Option Nat := (old.guardQuad (s.ctx qi).p).bind fun g => s.physQuad pid g
  let runs (qi : Nat) : Bool := !s.clockStopped (regionOf qi)
  let quads := (s.removedQuads pid x0 y0 w h).filter fun e => runs e.1
  let s0 := quads.foldl (fun t e => t.leaveChans e.1 pid) s
  let s1 := s0.updPart pid fun p => { p with
    ring := p.ring.filter fun m => (f m.1).isSome
    defect := gone.foldl (fun m p => FMap.set 0 m p 3) p.defect }
  let s2 := joined.foldl (fun t j =>
    if (t.ctxOf j.phys pid).isSome || !runs j.phys then t else t.giveQuad j.phys pid j.num new.spsize (List.replicate 32 {})) s1
  let s3 := quads.foldl (fun t e => t.removeQuad e.1 e.2 { joined, handle := renumberHandle f }) s2
  let s4 := s3.renumberAll pid { s3.part pid with x0, y0, w, h } f
  new.regions.foldl (fun t r => t.regrade r) ((s4.reguard pid guard).reclass pid (y0 / 2))

/-- The slots of quads that will leave a partition that are still to be spilled (R378). -/
def State.pinnedOn (s : State) (pid : Nat) (quads : List (Nat × Ctx)) : List Nat :=
  (quads.filter fun e => s.runs pid (e.1 * 32)).flatMap fun e => ((List.range 32).map fun n => e.1 * 32 + n).filter fun tk =>
    let x := s.slot tk
    decide (x.st ≠ .free ∧ x.st ≠ .halted) && !x.optimistic

/-- Contexts that will leave, or that stay after all. -/
def State.setLeaving (s : State) (pid : Nat) (quads : List Nat) (b : Bool) : State :=
  quads.foldl (fun t qi => t.updQuad qi fun q => { q with ctxs := q.ctxs.map fun c => if c.pid = pid then { c with leaving := b } else c }) s

/-- PARTITION_RESIZE (R332, R378): the quads that will leave bind nothing more, their pinned slots are spilled (R100), and their rings
are let out; then the new map is installed for its switch time. A fault on the way is reported (R272, R276), and the installation
waits for the reply (log entry 144). -/
def execPartitionResize (pid x0 y0 w h : Nat) (s : State) : Res :=
  event s (
    let quads := s.removedQuads pid x0 y0 w h
    let pinned := s.pinnedOn pid quads
    let rest := pinned.filter fun tk => decide ((s.slot tk).st ≠ .moving)
    if !s.resizeOk pid x0 y0 w h then
      (if quads.any fun e => e.2.leaving then some (s.setLeaving pid (s.ctxQuads pid) false) else none)
    else if !rest.isEmpty || quads.any fun e => !e.2.leaving then
      some (rest.foldl (fun t tk => t.beginMove { thr := tk, issuer := none, addr := 0, restore := false, dbl := true })
        (s.setLeaving pid (quads.map fun e => e.1) true))
    else if !pinned.isEmpty then none
    else
      let out := quads.foldl (fun t e => match t with
        | .ok u => u.letChans e.1 pid
        | x => x) (Except.ok s)
      match out with
      | .ok t => some { t with changes := t.changes ++ [{ time := t.switchTime, op := .resize pid x0 y0 w h }] }
      | .error t => t)

/-! ## The switch (R26, R32, R332) -/

/-- Combining buffers of routers whose clocks run still hold a reduction of the partition (R377). -/
def State.combining (s : State) (pid : Nat) : Bool :=
  s.redHolds.any fun h => !s.clockStopped (regionOf h.router) && s.flights.any fun f => h.flights.contains f.id && decide (f.pid = pid)

/-- The next map epoch (R331). -/
def State.nextEpoch (s : State) : State := s.updPanel fun p => { p with epoch := (p.epoch + 1) % 16 }

/-- What a partition's interfaces adopt for its quad p (R28, R31, R375): on a spare the code and the alias entry of the quad that
failed, else the quad is absent and leaves the ring. -/
def Part.adopt (pt : Part) (p qf : Nat) (st : QuadSt) (spare : Bool) : Part :=
  let back := spare && decide (st = .memoryOnly)
  { pt with
    aliases := FMap.set 0 pt.aliases p (if back then qf + 1 else 0)
    defect := FMap.set 0 pt.defect p (if back then 2 else if spare then 1 else 3)
    ring := if spare then pt.ring else pt.ring.filter fun m => decide (m.1 ≠ p) }

/-- The map after the failure of a quad: its logical quad stands on a spare, or is absent (R23, R25). -/
def State.remapped (s : State) (qf logical : Nat) (spare : Option Nat) : State :=
  let entry : BitVec 12 := match spare with
    | some qt => BitVec.ofNat 12 (128 + pxOf qt)
    | none => 0
  let s1 := s.nextEpoch.updPanel fun p => { p with
    colmap := FMap.set (bootEntry logical) p.colmap logical entry
    moved := if spare.isSome ∧ p.moved.contains logical = false then p.moved ++ [logical] else p.moved }
  (s.quad qf).ctxs.foldl (fun t c => t.updPart c.pid fun p => p.adopt c.p qf (s.quad qf).st spare.isSome) s1

/-- A failed quad without a substitute leaves its partitions (R280, R378): its channels are let out where its share survives. -/
def State.leavePanel (s : State) (qf logical : Nat) : State :=
  let out := (s.quad qf).ctxs.foldl (fun t c =>
    if (s.quad qf).st = .memoryOnly then t.leaveChans qf c.pid else t.loseChans qf c.pid) s
  (s.quad qf).ctxs.foldl (fun u x => u.removeQuad qf x {}) (out.remapped qf logical none)

/-- A table as it was at the keys of stopped clocks, and as it is elsewhere. -/
def FMap.keep {α : Type} [DecidableEq α] (d : α) (stopped : Nat → Bool) (old new : FMap α) : FMap α :=
  (old.filter fun e => stopped e.1).foldl (fun m e => FMap.set d m e.1 e.2) (new.filter fun e => !stopped e.1)

/-- The slots, cores, quads and scratchpads of the regions whose clocks are stopped stay as they were (R383). -/
def State.keepStopped (s t : State) : State :=
  if (List.range 16).all fun r => !s.clockStopped r then t
  else
    let off (qi : Nat) : Bool := s.clockStopped (regionOf qi)
    let here (k : Nat) : Bool := decide (k < 2304 * 2 ^ 24) && off (keyQuad k)
    { t with
      slots := FMap.keep {} (fun tk => off (quadOf tk)) s.slots t.slots
      cores := FMap.keep {} (fun ck => off (quadOfCore ck)) s.cores t.cores
      quads := FMap.keep {} off s.quads t.quads
      mem := FMap.keep (0 : Byte) here s.mem t.mem
      fe := FMap.keep false here s.fe t.fe }

/-- A map change adopted by the routers and interfaces whose clocks run (R332, R383): ring, alias entries, codes and column map together,
with the substitution or the removal of the failed quad, where its own clock runs. -/
def State.adopt (s : State) (c : MapChange) : State :=
  match c.op with
  | .resize pid x0 y0 w h => if s.resizeOk pid x0 y0 w h then (s.resized pid x0 y0 w h).nextEpoch
    else s.setLeaving pid (s.ctxQuads pid) false
  | .contain qf logical sp =>
    let spare := sp.filter fun qt => decide ((s.quad qt).st = .healthy) && !(s.quad qt).contained
    (if s.clockStopped (regionOf qf) then s.remapped qf logical spare
    else match spare with
      | some qt => (s.remapped qf logical spare).substitute qf qt
      | none => s.leavePanel qf logical).regrade (regionOf qf)

/-- A change that no time brings about yet: after a router's failure every combining buffer of its partitions drains first (R377). -/
def State.changeWaits (s : State) (c : MapChange) : Bool :=
  match c.op with
  | .contain qf _ _ => s.deadRouter qf && (s.quad qf).ctxs.any fun x => s.combining x.pid
  | .resize .. => false

/-- A change whose time has come in the regions whose clocks run is adopted there and leaves the list; a stopped region adopts nothing until
panel reset (R383). -/
def State.adoptOne (s : State) (c : MapChange) : Option State :=
  if s.time0.toNat < c.time.toNat || s.changeWaits c then none
  else some (s.keepStopped (({ s with changes := s.changes.erase c } : State).adopt c))

/-- Every change that is due (R332), in the order of installation. -/
def State.adoptDue (s : State) : State :=
  s.changes.foldl (fun t c => if t.changes.contains c then (t.adoptOne c).getD t else t) s

/-- MAP_SWITCH (R332, R373): the n-th installed change is adopted, when its time has come. -/
def execMapSwitch (n : Nat) (s : State) : Res := event s (s.changes[n]?.bind s.adoptOne)

/-! ## Context swap (R384) -/

/-- The slots of the leaving context may be spilled (R100): the counts of every slot of the quad are zero, those of slots that a rip has freed
among them, nothing is pending, and no engine works for one of them. -/
def State.swapReady (s : State) (qi : Nat) : Bool :=
  let here (tk : Nat) : Bool := decide (quadOf tk = qi)
  ((List.range 32).all fun n =>
    let x := s.slot (qi * 32 + n)
    x.cnt.zero && s.noPending (qi * 32 + n) && (decide (x.st = .free) || (!x.optimistic && decide (x.op = .none ∧ x.st ≠ .moving))))
  && (s.moves.all fun m => !here m.thr && !m.issuer.any here) && (s.ltabs.all fun o => !here o.thr)
  && (s.flights.all fun f => !here f.thr || decide (f.pid ≠ (s.ctx qi).pid ∨ f.ctr = 7))
  && (s.launches.all fun r => !r.thr.any here || r.back.isSome)

/-- Wakes on their way to a quad arrive (R111). -/
def State.wakesLand (s : State) (qi : Nat) : State :=
  (s.wakes.filter fun tk => decide (quadOf tk = qi)).foldl (fun t tk => t.takeWake tk)
    { s with wakes := s.wakes.filter fun tk => decide (quadOf tk ≠ qi) }

/-- The slots of a quad abandon the heads that they are blocked at, where these may be (R100). -/
def State.abandonAll (s : State) (qi : Nat) : State :=
  (List.range 32).foldl (fun t n => match (t.slot (qi * 32 + n)).st with
    | .blocked _ => (t.abandonWait (qi * 32 + n)).getD t
    | _ => t) s

/-- The optimistic tasks of a quad's running context are ripped without split (R316, R384). -/
def State.ripAll (s : State) (qi : Nat) : State :=
  (List.range 32).foldl (fun t n => if (t.slot (qi * 32 + n)).optimistic && decide ((t.slot (qi * 32 + n)).st ≠ .free) then
    t.rip (qi * 32 + n) false else t) s

/-- The images of the leaving context's slots are written to its save area (R384), where they may be. -/
def State.saveSlots (s : State) (qi : Nat) (c : Ctx) : State :=
  (List.range 32).foldl (fun t n =>
    let x := t.slot (qi * 32 + n)
    if x.st = .free then t else t.writeImage (qi * 32 + n) c.pid (c.p * 32 + n) x) s

/-- The leaving context's slots and its state as they are kept (R384; log entry 78). -/
def State.saved (s : State) (qi pid : Nat) : Saved :=
  let q := s.quad qi
  { pid, cores := (List.range 4).map fun c => s.core (qi * 4 + c), ltab := q.ltab, slots := (List.range 32).map fun n => s.slot (qi * 32 + n)
    barmask := q.barmask, arrived := q.arrived, halted := q.halted, brkArm := q.brkArm }

/-- CONTEXT_SWAP (R384): it halts the quad's cores and rips the optimistic tasks; once the leaving context's slots may be spilled, their
images go to its save area and its state to its half of shadow storage, and the entering context's come back. -/
def execContextSwap (qi : Nat) (s : State) : Res :=
  unitEvent (quadOk qi) qi s (
    match (s.quad qi).ctxs with
    | [c0, c1] =>
      if (s.quad qi).contained then none
      else if !(s.quad qi).swapping then some ((s.updQuad qi fun q => { q with swapping := true }).ripAll qi) else
      let s := s.abandonAll qi
      let quiet := (List.range 4).all fun c => (s.core (qi * 4 + c)).fifo.isEmpty && (s.core (qi * 4 + c)).slice.ops.isEmpty
      if !s.swapReady qi || !quiet || !(s.quad qi).gangs.isEmpty then none
      else match (s.wakesLand qi).letChans qi c0.pid with
      | .error t => t
      | .ok u =>
        let out := u.saveSlots qi c0
        let q := out.quad qi
        let shadow := (q.shadow.filter fun v => decide (v.pid ≠ c0.pid)) ++ [out.saved qi c0.pid]
        some ((out.setQuad qi { q with ctxs := [c1, c0], swapping := false, shadow }).enterContext qi c1.pid)
    | _ => none)

end Sys2Proof.Machine
end

