-- ==== Sys2Proof/Machine/Scalar.lean ====
section
/-! DEFINITION. NOP and the integer and address heads, majors 0x00 to 0x33 (R46, R56, R101). -/

namespace Sys2Proof.Machine

/-- d := f(a, b) (R101). -/
def binary (d a b : Reg) (lat : Nat) (f : Word → Word → Word) (s : State) : Res :=
  runHead { rd := [a, b], wr := [d] } s fun v t => put t d (f (v a) (v b)) lat

/-- d := f(a) (R101). -/
def unary (d a : Reg) (f : Word → Word) (s : State) : Res :=
  runHead { rd := [a], wr := [d] } s fun v t => put t d (f (v a)) 3

/-- NOP (R46): only the PC advances. -/
def execNop (s : State) : Res := runHead {} s fun _ t => .next t

/-- ADD (R101). -/
def execAdd (d a b : Reg) (s : State) : Res := binary d a b 3 (fun a b => a + b) s
/-- SUB (R101). -/
def execSub (d a b : Reg) (s : State) : Res := binary d a b 3 (fun a b => a - b) s
/-- ADDW (R101). -/
def execAddw (d a b : Reg) (s : State) : Res := binary d a b 3 (fun a b => sext32 (a + b)) s
/-- SUBW (R101). -/
def execSubw (d a b : Reg) (s : State) : Res := binary d a b 3 (fun a b => sext32 (a - b)) s
/-- MUL (R101). -/
def execMul (d a b : Reg) (s : State) : Res := binary d a b 3 (fun a b => a * b) s
/-- MULH (R101). -/
def execMulh (d a b : Reg) (s : State) : Res := binary d a b 3 aluMulh s
/-- MULHU (R101). -/
def execMulhu (d a b : Reg) (s : State) : Res := binary d a b 3 aluMulhu s
/-- MULW (R101). -/
def execMulw (d a b : Reg) (s : State) : Res := binary d a b 3 (fun a b => sext32 (a * b)) s
/-- DIV (R101). -/
def execDiv (d a b : Reg) (s : State) : Res := binary d a b 23 aluDiv s
/-- DIVU (R101). -/
def execDivu (d a b : Reg) (s : State) : Res := binary d a b 23 aluDivu s
/-- REM (R101). -/
def execRem (d a b : Reg) (s : State) : Res := binary d a b 23 aluRem s
/-- REMU (R101). -/
def execRemu (d a b : Reg) (s : State) : Res := binary d a b 23 aluRemu s
/-- AND (R101). -/
def execAnd (d a b : Reg) (s : State) : Res := binary d a b 3 (fun a b => a &&& b) s
/-- OR (R101). -/
def execOr (d a b : Reg) (s : State) : Res := binary d a b 3 (fun a b => a ||| b) s
/-- XOR (R101). -/
def execXor (d a b : Reg) (s : State) : Res := binary d a b 3 (fun a b => a ^^^ b) s
/-- ANDN (R101). -/
def execAndn (d a b : Reg) (s : State) : Res := binary d a b 3 (fun a b => a &&& ~~~b) s
/-- ORN (R101). -/
def execOrn (d a b : Reg) (s : State) : Res := binary d a b 3 (fun a b => a ||| ~~~b) s
/-- SHL (R101). -/
def execShl (d a b : Reg) (s : State) : Res := binary d a b 3 aluShl s
/-- SHR (R101). -/
def execShr (d a b : Reg) (s : State) : Res := binary d a b 3 aluShr s
/-- SRA (R101). -/
def execSra (d a b : Reg) (s : State) : Res := binary d a b 3 aluSra s
/-- ROTL (R101). -/
def execRotl (d a b : Reg) (s : State) : Res := binary d a b 3 aluRotl s
/-- ROTR (R101). -/
def execRotr (d a b : Reg) (s : State) : Res := binary d a b 3 aluRotr s
/-- MIN (R101). -/
def execMin (d a b : Reg) (s : State) : Res := binary d a b 3 aluMin s
/-- MAX (R101). -/
def execMax (d a b : Reg) (s : State) : Res := binary d a b 3 aluMax s
/-- MINU (R101). -/
def execMinu (d a b : Reg) (s : State) : Res := binary d a b 3 aluMinu s
/-- MAXU (R101). -/
def execMaxu (d a b : Reg) (s : State) : Res := binary d a b 3 aluMaxu s
/-- SEQ (R101). -/
def execSeq (d a b : Reg) (s : State) : Res := binary d a b 3 (fun a b => flag (condEq a b)) s
/-- SNE (R101). -/
def execSne (d a b : Reg) (s : State) : Res := binary d a b 3 (fun a b => flag (condNe a b)) s
/-- SLT (R101). -/
def execSlt (d a b : Reg) (s : State) : Res := binary d a b 3 (fun a b => flag (condLt a b)) s
/-- SLTU (R101). -/
def execSltu (d a b : Reg) (s : State) : Res := binary d a b 3 (fun a b => flag (condLtu a b)) s
/-- CLZ (R101). -/
def execClz (d a : Reg) (s : State) : Res := unary d a aluClz s
/-- CTZ (R101). -/
def execCtz (d a : Reg) (s : State) : Res := unary d a aluCtz s
/-- POPC (R101). -/
def execPopc (d a : Reg) (s : State) : Res := unary d a aluPopc s
/-- BREV (R101). -/
def execBrev (d a : Reg) (s : State) : Res := unary d a aluBrev s
/-- BSWAP (R101). -/
def execBswap (d a : Reg) (s : State) : Res := unary d a aluBswap s
/-- ADDI (R101). -/
def execAddi (d a : Reg) (imm : BitVec 22) (s : State) : Res := unary d a (fun x => x + sext imm) s
/-- ANDI (R101). -/
def execAndi (d a : Reg) (imm : BitVec 22) (s : State) : Res := unary d a (fun x => x &&& sext imm) s
/-- ORI (R101). -/
def execOri (d a : Reg) (imm : BitVec 22) (s : State) : Res := unary d a (fun x => x ||| sext imm) s
/-- XORI (R101). -/
def execXori (d a : Reg) (imm : BitVec 22) (s : State) : Res := unary d a (fun x => x ^^^ sext imm) s
/-- SLTI (R101). -/
def execSlti (d a : Reg) (imm : BitVec 22) (s : State) : Res := unary d a (fun x => flag (condLt x (sext imm))) s
/-- SHLI (R101). -/
def execShli (d a : Reg) (imm : BitVec 22) (s : State) : Res := unary d a (fun x => x <<< imm.toNat) s
/-- SHRI (R101). -/
def execShri (d a : Reg) (imm : BitVec 22) (s : State) : Res := unary d a (fun x => x >>> imm.toNat) s
/-- SRAI (R101). -/
def execSrai (d a : Reg) (imm : BitVec 22) (s : State) : Res := unary d a (fun x => x.sshiftRight imm.toNat) s
/-- SEL (R101). -/
def execSel (d a b c : Reg) (s : State) : Res :=
  runHead { rd := [a, b, c], wr := [d] } s fun v t => put t d (if condNonzero (v a) then v b else v c) 3
/-- EXT (R101). -/
def execExt (d a : Reg) (pos : BitVec 6) (len : BitVec 7) (s : State) : Res :=
  unary d a (fun x => aluExt x pos.toNat len.toNat) s
/-- EXTS (R101). -/
def execExts (d a : Reg) (pos : BitVec 6) (len : BitVec 7) (s : State) : Res :=
  unary d a (fun x => aluExts x pos.toNat len.toNat) s
/-- INS (R101): D is read and written; a port there is read and then written. -/
def execIns (d a : Reg) (pos : BitVec 6) (len : BitVec 7) (s : State) : Res :=
  runHead { rd := [d, a], wr := [d] } s fun v t => put t d (aluIns (v d) (v a) pos.toNat len.toNat) 3
/-- LI (R101). -/
def execLi (d : Reg) (imm : BitVec 48) (s : State) : Res := runHead { wr := [d] } s fun _ t => put t d (sext imm) 3
/-- LIH (R101). -/
def execLih (d a : Reg) (imm : BitVec 16) (s : State) : Res := unary d a (fun x => aluLih x imm) s
/-- MOV (R101). -/
def execMov (d a : Reg) (s : State) : Res := unary d a (fun x => x) s
/-- ADDPC (R101): from the PC of this head. -/
def execAddpc (d : Reg) (imm : BitVec 22) (s : State) : Res :=
  runHead { wr := [d] } s fun _ t => put t d (s.me.pc + sext imm) 3

end Sys2Proof.Machine
end

