-- ==== Sys2Proof/Machine/Dispatch.lean ====
section
/-! DEFINITION. One arm per instruction and event, each a call of its meaning. -/

namespace Sys2Proof.Machine

/-- The meaning of each instruction and event. -/
def exec (i : Instr) (s : State) : Host.Outcome State Fault Refusal :=
  match i with
  | .nop => Sys2Proof.Machine.execNop s
  | .add d a b => Sys2Proof.Machine.execAdd d a b s
  | .sub d a b => Sys2Proof.Machine.execSub d a b s
  | .addw d a b => Sys2Proof.Machine.execAddw d a b s
  | .subw d a b => Sys2Proof.Machine.execSubw d a b s
  | .mul d a b => Sys2Proof.Machine.execMul d a b s
  | .mulh d a b => Sys2Proof.Machine.execMulh d a b s
  | .mulhu d a b => Sys2Proof.Machine.execMulhu d a b s
  | .mulw d a b => Sys2Proof.Machine.execMulw d a b s
  | .div d a b => Sys2Proof.Machine.execDiv d a b s
  | .divu d a b => Sys2Proof.Machine.execDivu d a b s
  | .rem d a b => Sys2Proof.Machine.execRem d a b s
  | .remu d a b => Sys2Proof.Machine.execRemu d a b s
  | .and_ d a b => Sys2Proof.Machine.execAnd d a b s
  | .or_ d a b => Sys2Proof.Machine.execOr d a b s
  | .xor d a b => Sys2Proof.Machine.execXor d a b s
  | .andn d a b => Sys2Proof.Machine.execAndn d a b s
  | .orn d a b => Sys2Proof.Machine.execOrn d a b s
  | .shl d a b => Sys2Proof.Machine.execShl d a b s
  | .shr d a b => Sys2Proof.Machine.execShr d a b s
  | .sra d a b => Sys2Proof.Machine.execSra d a b s
  | .rotl d a b => Sys2Proof.Machine.execRotl d a b s
  | .rotr d a b => Sys2Proof.Machine.execRotr d a b s
  | .clz d a => Sys2Proof.Machine.execClz d a s
  | .ctz d a => Sys2Proof.Machine.execCtz d a s
  | .popc d a => Sys2Proof.Machine.execPopc d a s
  | .brev d a => Sys2Proof.Machine.execBrev d a s
  | .bswap d a => Sys2Proof.Machine.execBswap d a s
  | .min d a b => Sys2Proof.Machine.execMin d a b s
  | .max d a b => Sys2Proof.Machine.execMax d a b s
  | .minu d a b => Sys2Proof.Machine.execMinu d a b s
  | .maxu d a b => Sys2Proof.Machine.execMaxu d a b s
  | .seq d a b => Sys2Proof.Machine.execSeq d a b s
  | .sne d a b => Sys2Proof.Machine.execSne d a b s
  | .slt d a b => Sys2Proof.Machine.execSlt d a b s
  | .sltu d a b => Sys2Proof.Machine.execSltu d a b s
  | .addi d a imm => Sys2Proof.Machine.execAddi d a imm s
  | .andi d a imm => Sys2Proof.Machine.execAndi d a imm s
  | .ori d a imm => Sys2Proof.Machine.execOri d a imm s
  | .xori d a imm => Sys2Proof.Machine.execXori d a imm s
  | .slti d a imm => Sys2Proof.Machine.execSlti d a imm s
  | .shli d a imm => Sys2Proof.Machine.execShli d a imm s
  | .shri d a imm => Sys2Proof.Machine.execShri d a imm s
  | .srai d a imm => Sys2Proof.Machine.execSrai d a imm s
  | .sel d a b c => Sys2Proof.Machine.execSel d a b c s
  | .ext d a pos len => Sys2Proof.Machine.execExt d a pos len s
  | .exts d a pos len => Sys2Proof.Machine.execExts d a pos len s
  | .ins d a pos len => Sys2Proof.Machine.execIns d a pos len s
  | .li d imm => Sys2Proof.Machine.execLi d imm s
  | .lih d a imm => Sys2Proof.Machine.execLih d a imm s
  | .mov d a => Sys2Proof.Machine.execMov d a s
  | .addpc d imm => Sys2Proof.Machine.execAddpc d imm s
  | .br off idx => Sys2Proof.Machine.execBr off idx s
  | .brLong off idx => Sys2Proof.Machine.execBrLong off idx s
  | .beq a b off idx => Sys2Proof.Machine.execBeq a b off idx s
  | .bne a b off idx => Sys2Proof.Machine.execBne a b off idx s
  | .blt a b off idx => Sys2Proof.Machine.execBlt a b off idx s
  | .bge a b off idx => Sys2Proof.Machine.execBge a b off idx s
  | .bltu a b off idx => Sys2Proof.Machine.execBltu a b off idx s
  | .bgeu a b off idx => Sys2Proof.Machine.execBgeu a b off idx s
  | .bz a off idx => Sys2Proof.Machine.execBz a off idx s
  | .bzLong a off idx => Sys2Proof.Machine.execBzLong a off idx s
  | .bnz a off idx => Sys2Proof.Machine.execBnz a off idx s
  | .bnzLong a off idx => Sys2Proof.Machine.execBnzLong a off idx s
  | .call d off idx => Sys2Proof.Machine.execCall d off idx s
  | .callLong d off idx => Sys2Proof.Machine.execCallLong d off idx s
  | .callr d a => Sys2Proof.Machine.execCallr d a s
  | .ret d => Sys2Proof.Machine.execRet d s
  | .jr d => Sys2Proof.Machine.execJr d s
  | .loop d off idx => Sys2Proof.Machine.execLoop d off idx s
  | .loopLong d off idx => Sys2Proof.Machine.execLoopLong d off idx s
  | .yield => Sys2Proof.Machine.execYield s
  | .tend => Sys2Proof.Machine.execTend s
  | .trap n => Sys2Proof.Machine.execTrap n s
  | .eret => Sys2Proof.Machine.execEret s
  | .rdsr d sr => Sys2Proof.Machine.execRdsr d sr s
  | .wrsr sr a => Sys2Proof.Machine.execWrsr sr a s
  | .swsr d sr a => Sys2Proof.Machine.execSwsr d sr a s
  | .getid sel d => Sys2Proof.Machine.execGetid sel d s
  | .wid d n => Sys2Proof.Machine.execWid d n s
  | .timeLoc d => Sys2Proof.Machine.execTimeLoc d s
  | .timeGlob d => Sys2Proof.Machine.execTimeGlob d s
  | .waitaddr d a b off w => Sys2Proof.Machine.execWaitaddr d a b off w s
  | .wake a => Sys2Proof.Machine.execWake a s
  | .spill d a b => Sys2Proof.Machine.execSpill d a b s
  | .restor d a b => Sys2Proof.Machine.execRestor d a b s
  | .brk n => Sys2Proof.Machine.execBrk n s
  | .baste => Sys2Proof.Machine.execBaste s
  | .salloc d a imm => Sys2Proof.Machine.execSalloc d a imm s
  | .sfree a => Sys2Proof.Machine.execSfree a s
  | .qmap q w r => Sys2Proof.Machine.execQmap q w r s
  | .qclear q => Sys2Proof.Machine.execQclear q s
  | .qlen d n => Sys2Proof.Machine.execQlen d n s
  | .vadd d a b m r => Sys2Proof.Machine.execVadd d a b m r s
  | .vsub d a b m r => Sys2Proof.Machine.execVsub d a b m r s
  | .vmul d a b m r => Sys2Proof.Machine.execVmul d a b m r s
  | .vdiv d a b m r => Sys2Proof.Machine.execVdiv d a b m r s
  | .vfma d a b c m r => Sys2Proof.Machine.execVfma d a b c m r s
  | .vfms d a b c m r => Sys2Proof.Machine.execVfms d a b c m r s
  | .vfnma d a b c m r => Sys2Proof.Machine.execVfnma d a b c m r s
  | .vmin d a b m ty => Sys2Proof.Machine.execVmin d a b m ty s
  | .vmax d a b m ty => Sys2Proof.Machine.execVmax d a b m ty s
  | .vabs d a m ty => Sys2Proof.Machine.execVabs d a m ty s
  | .vneg d a m ty => Sys2Proof.Machine.execVneg d a m ty s
  | .vrcp d a m => Sys2Proof.Machine.execVrcp d a m s
  | .vrsq d a m => Sys2Proof.Machine.execVrsq d a m s
  | .vexp2 d a m => Sys2Proof.Machine.execVexp2 d a m s
  | .vlog2 d a m => Sys2Proof.Machine.execVlog2 d a m s
  | .vsqrt d a m => Sys2Proof.Machine.execVsqrt d a m s
  | .vtanh d a m => Sys2Proof.Machine.execVtanh d a m s
  | .vcvt d a m fmt toF32 r => Sys2Proof.Machine.execVcvt d a m fmt toF32 r s
  | .vquant d a b m fmt r => Sys2Proof.Machine.execVquant d a b m fmt r s
  | .vscale d a b m ty r => Sys2Proof.Machine.execVscale d a b m ty r s
  | .vcmp d a b m ty c => Sys2Proof.Machine.execVcmp d a b m ty c s
  | .vsel d a b m ty => Sys2Proof.Machine.execVsel d a b m ty s
  | .viadd d a b m ty sat => Sys2Proof.Machine.execViadd d a b m ty sat s
  | .visub d a b m ty sat => Sys2Proof.Machine.execVisub d a b m ty sat s
  | .vimul d a b m ty sat hi => Sys2Proof.Machine.execVimul d a b m ty sat hi s
  | .vimad d a b c m ty sat => Sys2Proof.Machine.execVimad d a b c m ty sat s
  | .vand d a b m ty => Sys2Proof.Machine.execVand d a b m ty s
  | .vor d a b m ty => Sys2Proof.Machine.execVor d a b m ty s
  | .vxor d a b m ty => Sys2Proof.Machine.execVxor d a b m ty s
  | .vshl d a b m ty => Sys2Proof.Machine.execVshl d a b m ty s
  | .vshr d a b m ty => Sys2Proof.Machine.execVshr d a b m ty s
  | .vsra d a b m ty => Sys2Proof.Machine.execVsra d a b m ty s
  | .vredadd d a m ty r => Sys2Proof.Machine.execVredadd d a m ty r s
  | .vredmax d a m ty => Sys2Proof.Machine.execVredmax d a m ty s
  | .vredmin d a m ty => Sys2Proof.Machine.execVredmin d a m ty s
  | .vscanadd d a m ty r => Sys2Proof.Machine.execVscanadd d a m ty r s
  | .vperm d a b m ty => Sys2Proof.Machine.execVperm d a b m ty s
  | .vbcast d a m ty j => Sys2Proof.Machine.execVbcast d a m ty j s
  | .vsplat d a m ty => Sys2Proof.Machine.execVsplat d a m ty s
  | .viota d m ty => Sys2Proof.Machine.execViota d m ty s
  | .vmov d a m ty => Sys2Proof.Machine.execVmov d a m ty s
  | .vextr d v b wide => Sys2Proof.Machine.execVextr d v b wide s
  | .vinsr v a b wide => Sys2Proof.Machine.execVinsr v a b wide s
  | .vld v a off m w cp => Sys2Proof.Machine.execVld v a off m w cp s
  | .vst v a off m w cp => Sys2Proof.Machine.execVst v a off m w cp s
  | .vlds v a b m off => Sys2Proof.Machine.execVlds v a b m off s
  | .vsts v a b m off => Sys2Proof.Machine.execVsts v a b m off s
  | .vgath v a ix m sc => Sys2Proof.Machine.execVgath v a ix m sc s
  | .vscat v a ix m sc => Sys2Proof.Machine.execVscat v a ix m sc s
  | .mand d a b => Sys2Proof.Machine.execMand d a b s
  | .mor d a b => Sys2Proof.Machine.execMor d a b s
  | .mxor d a b => Sys2Proof.Machine.execMxor d a b s
  | .mnot d a => Sys2Proof.Machine.execMnot d a s
  | .mpopc d a => Sys2Proof.Machine.execMpopc d a s
  | .mfirst d a => Sys2Proof.Machine.execMfirst d a s
  | .msetv d a => Sys2Proof.Machine.execMsetv d a s
  | .mgetv d a => Sys2Proof.Machine.execMgetv d a s
  | .vdadd d a b m r => Sys2Proof.Machine.execVdadd d a b m r s
  | .vdmul d a b m r => Sys2Proof.Machine.execVdmul d a b m r s
  | .vdfma d a b c m r => Sys2Proof.Machine.execVdfma d a b c m r s
  | .vclass d a m ty => Sys2Proof.Machine.execVclass d a m ty s
  | .vround d a m ty r => Sys2Proof.Machine.execVround d a m ty r s
  | .vfcvti d a m ty r => Sys2Proof.Machine.execVfcvti d a m ty r s
  | .vicvtf d a m ty r => Sys2Proof.Machine.execVicvtf d a m ty r s
  | .ld d a off sz w cp => Sys2Proof.Machine.execLd d a off sz w cp s
  | .lds d a off sz w cp => Sys2Proof.Machine.execLds d a off sz w cp s
  | .st a b off sz w cp => Sys2Proof.Machine.execSt a b off sz w cp s
  | .ldg d a b off sz w cp => Sys2Proof.Machine.execLdg d a b off sz w cp s
  | .stg d a b off sz w cp => Sys2Proof.Machine.execStg d a b off sz w cp s
  | .lda d a sz sc => Sys2Proof.Machine.execLda d a sz sc s
  | .stl a b sz sc => Sys2Proof.Machine.execStl a b sz sc s
  | .pref a off cp => Sys2Proof.Machine.execPref a off cp s
  | .cflushLine a => Sys2Proof.Machine.execCflushLine a s
  | .cflushAll a => Sys2Proof.Machine.execCflushAll a s
  | .cinvLine a => Sys2Proof.Machine.execCinvLine a s
  | .cinvIline a => Sys2Proof.Machine.execCinvIline a s
  | .cinvAll a => Sys2Proof.Machine.execCinvAll a s
  | .fence sc => Sys2Proof.Machine.execFence sc s
  | .waitc l s1 c t => Sys2Proof.Machine.execWaitc l s1 c t s
  | .lde d a off w cp => Sys2Proof.Machine.execLde d a off w cp s
  | .stf a b off w cp => Sys2Proof.Machine.execStf a b off w cp s
  | .feinitEmpty a b => Sys2Proof.Machine.execFeinitEmpty a b s
  | .feinitFull a b => Sys2Proof.Machine.execFeinitFull a b s
  | .touchRd a => Sys2Proof.Machine.execTouchRd a s
  | .touchWr a => Sys2Proof.Machine.execTouchWr a s
  | .amo d a b op wide mo sc => Sys2Proof.Machine.execAmo d a b op wide mo sc s
  | .cas d a b c wide mo sc => Sys2Proof.Machine.execCas d a b c wide mo sc s
  | .cas2 d a b c mo sc => Sys2Proof.Machine.execCas2 d a b c mo sc s
  | .red a b op wide mo sc => Sys2Proof.Machine.execRed a b op wide mo sc s
  | .placeSet imm => Sys2Proof.Machine.execPlaceSet imm s
  | .placeGet d => Sys2Proof.Machine.execPlaceGet d s
  | .placeClr a => Sys2Proof.Machine.execPlaceClr a s
  | .arrive g => Sys2Proof.Machine.execArrive g s
  | .waitb g => Sys2Proof.Machine.execWaitb g s
  | .barset g a => Sys2Proof.Machine.execBarset g a s
  | .tbinit a b => Sys2Proof.Machine.execTbinit a b s
  | .tbexp a b => Sys2Proof.Machine.execTbexp a b s
  | .tbarr d a => Sys2Proof.Machine.execTbarr d a s
  | .tbwait a b => Sys2Proof.Machine.execTbwait a b s
  | .tbtest d a b => Sys2Proof.Machine.execTbtest d a b s
  | .chpush k a b imm => Sys2Proof.Machine.execChpush k a b imm s
  | .chpop k d a b imm => Sys2Proof.Machine.execChpop k d a b imm s
  | .choffer k d a b imm => Sys2Proof.Machine.execChoffer k d a b imm s
  | .chtake k d a b imm => Sys2Proof.Machine.execChtake k d a b imm s
  | .chpeek k d a b imm => Sys2Proof.Machine.execChpeek k d a b imm s
  | .chlen d a imm => Sys2Proof.Machine.execChlen d a imm s
  | .chclose a imm => Sys2Proof.Machine.execChclose a imm s
  | .chinv a imm => Sys2Proof.Machine.execChinv a imm s
  | .spawn a b => Sys2Proof.Machine.execSpawn a b s
  | .dec a => Sys2Proof.Machine.execDec a s
  | .tset a b => Sys2Proof.Machine.execTset a b s
  | .domain sel d n => Sys2Proof.Machine.execDomain sel d n s
  | .allow sel d => Sys2Proof.Machine.execAllow sel d s
  | .keyhome d a => Sys2Proof.Machine.execKeyhome d a s
  | .split => Sys2Proof.Machine.execSplit s
  | .launch d a b => Sys2Proof.Machine.execLaunch d a b s
  | .geom sel d => Sys2Proof.Machine.execGeom sel d s
  | .ltab a => Sys2Proof.Machine.execLtab a s
  | .wload a b => Sys2Proof.Machine.execWload a b s
  | .wloadSc a b => Sys2Proof.Machine.execWloadSc a b s
  | .wswap => Sys2Proof.Machine.execWswap s
  | .gang a => Sys2Proof.Machine.execGang a s
  | .mzero first count => Sys2Proof.Machine.execMzero first count s
  | .mdrain fmt r a b c => Sys2Proof.Machine.execMdrain fmt r a b c s
  | .mdrainPort fmt r b => Sys2Proof.Machine.execMdrainPort fmt r b s
  | .mread d g => Sys2Proof.Machine.execMread d g s
  | .sbtake d a => Sys2Proof.Machine.execSbtake d a s
  | .cpyq d a => Sys2Proof.Machine.execCpyq d a s
  | .cpyqNb d a => Sys2Proof.Machine.execCpyqNb d a s
  | .cpyst sel d => Sys2Proof.Machine.execCpyst sel d s
  | .cpyres d a => Sys2Proof.Machine.execCpyres d a s
  | .cpyresNb d a => Sys2Proof.Machine.execCpyresNb d a s
  | .msend k d a b c len => Sys2Proof.Machine.execMsend k d a b c len s
  | .mrecv k d b len => Sys2Proof.Machine.execMrecv k d b len s
  | .mwait => Sys2Proof.Machine.execMwait s
  | .msgst sel d => Sys2Proof.Machine.execMsgst sel d s
  | .illegalInstruction head rsv => Sys2Proof.Machine.execIllegalInstruction head rsv s
  | .heldPushRetry tk => Sys2Proof.Machine.execHeldPushRetry tk s
  | .asyncTrapEntry tk => Sys2Proof.Machine.execAsyncTrapEntry tk s
  | .lineFetch tk => Sys2Proof.Machine.execLineFetch tk s
  | .cycleAllowanceExhausted tk => Sys2Proof.Machine.execCycleAllowanceExhausted tk s
  | .basteIntervalExpiry tk => Sys2Proof.Machine.execBasteIntervalExpiry tk s
  | .wakeArrival tk => Sys2Proof.Machine.execWakeArrival tk s
  | .slotSpill tk => Sys2Proof.Machine.execSlotSpill tk s
  | .spillComplete tk => Sys2Proof.Machine.execSpillComplete tk s
  | .restoreComplete tk => Sys2Proof.Machine.execRestoreComplete tk s
  | .vectorBeatStart qi g => Sys2Proof.Machine.execVectorBeatStart qi g s
  | .vectorComplete ck id => Sys2Proof.Machine.execVectorComplete ck id s
  | .ldePerform id => Sys2Proof.Machine.execLdePerform id s
  | .stfPerform id => Sys2Proof.Machine.execStfPerform id s
  | .loadResponse id => Sys2Proof.Machine.execLoadResponse id s
  | .storeAck id => Sys2Proof.Machine.execStoreAck id s
  | .remoteAccessArrival id => Sys2Proof.Machine.execRemoteAccessArrival id s
  | .remoteDenial id => Sys2Proof.Machine.execRemoteDenial id s
  | .homeStore id => Sys2Proof.Machine.execHomeStore id s
  | .homeAtomic id => Sys2Proof.Machine.execHomeAtomic id s
  | .pageMigration granule frame => Sys2Proof.Machine.execPageMigration granule frame s
  | .niAtomic id => Sys2Proof.Machine.execNiAtomic id s
  | .translationRequest id => Sys2Proof.Machine.execTranslationRequest id s
  | .stage2FaultReply id retry => Sys2Proof.Machine.execStage2FaultReply id retry s
  | .faultNotice id => Sys2Proof.Machine.execFaultNotice id s
  | .atsReply id ok => Sys2Proof.Machine.execAtsReply id ok s
  | .freplyRetry pid thread tag => Sys2Proof.Machine.execFreplyRetry pid thread tag s
  | .freplyFail pid thread tag reason => Sys2Proof.Machine.execFreplyFail pid thread tag reason s
  | .s1invPage pid vpn size => Sys2Proof.Machine.execS1invPage pid vpn size s
  | .s1invAll pid => Sys2Proof.Machine.execS1invAll pid s
  | .s1invComplete pid => Sys2Proof.Machine.execS1invComplete pid s
  | .barsetInstall pid g => Sys2Proof.Machine.execBarsetInstall pid g s
  | .barrierRelease pid g => Sys2Proof.Machine.execBarrierRelease pid g s
  | .channelFill qi ch => Sys2Proof.Machine.execChannelFill qi ch s
  | .channelPushAccept id => Sys2Proof.Machine.execChannelPushAccept id s
  | .channelRefill qi ch => Sys2Proof.Machine.execChannelRefill qi ch s
  | .channelEviction qi ch => Sys2Proof.Machine.execChannelEviction qi ch s
  | .channelRoomReport qi ch => Sys2Proof.Machine.execChannelRoomReport qi ch s
  | .channelCloseApply id => Sys2Proof.Machine.execChannelCloseApply id s
  | .probeSend tk => Sys2Proof.Machine.execProbeSend tk s
  | .probeArrival id => Sys2Proof.Machine.execProbeArrival id s
  | .probeExpiry id => Sys2Proof.Machine.execProbeExpiry id s
  | .letoutRequest id => Sys2Proof.Machine.execLetoutRequest id s
  | .spawnAccept id => Sys2Proof.Machine.execSpawnAccept id s
  | .depCellDecrement id => Sys2Proof.Machine.execDepCellDecrement id s
  | .launchAccept id => Sys2Proof.Machine.execLaunchAccept id s
  | .pieceEnqueue qi rec => Sys2Proof.Machine.execPieceEnqueue qi rec s
  | .taskBind qi => Sys2Proof.Machine.execTaskBind qi s
  | .runListPromotion qi list idx => Sys2Proof.Machine.execRunListPromotion qi list idx s
  | .readyRingPush qi => Sys2Proof.Machine.execReadyRingPush qi s
  | .readyRecordPlace qi => Sys2Proof.Machine.execReadyRecordPlace qi s
  | .effectDrainRecord qi idx => Sys2Proof.Machine.execEffectDrainRecord qi idx s
  | .ltabDone id => Sys2Proof.Machine.execLtabDone id s
  | .wloadDone ck => Sys2Proof.Machine.execWloadDone ck s
  | .c28StreamCommand ck slot v => Sys2Proof.Machine.execC28StreamCommand ck slot v s
  | .gangJoin qi => Sys2Proof.Machine.execGangJoin qi s
  | .gangRow qi => Sys2Proof.Machine.execGangRow qi s
  | .mdrainRowWrite ck => Sys2Proof.Machine.execMdrainRowWrite ck s
  | .mdrainHandlePush ck => Sys2Proof.Machine.execMdrainHandlePush ck s
  | .c28HandlePop ck => Sys2Proof.Machine.execC28HandlePop ck s
  | .scaleBlockDeliver ck id => Sys2Proof.Machine.execScaleBlockDeliver ck id s
  | .yokeHandback ck id => Sys2Proof.Machine.execYokeHandback ck id s
  | .copyStart ck => Sys2Proof.Machine.execCopyStart ck s
  | .copySectorLand ck id n => Sys2Proof.Machine.execCopySectorLand ck id n s
  | .copyComplete ck id => Sys2Proof.Machine.execCopyComplete ck id s
  | .copyHandback ck id => Sys2Proof.Machine.execCopyHandback ck id s
  | .c29RecordPop ck => Sys2Proof.Machine.execC29RecordPop ck s
  | .messageAccept id => Sys2Proof.Machine.execMessageAccept id s
  | .messageAcknowledge id => Sys2Proof.Machine.execMessageAcknowledge id s
  | .messageResend id => Sys2Proof.Machine.execMessageResend id s
  | .c30MessagePop ck => Sys2Proof.Machine.execC30MessagePop ck s
  | .c31SendBlock tk v => Sys2Proof.Machine.execC31SendBlock tk v s
  | .sendBlockRead ck => Sys2Proof.Machine.execSendBlockRead ck s
  | .ctrlOpenStream id => Sys2Proof.Machine.execCtrlOpenStream id s
  | .ctrlCloseStream id => Sys2Proof.Machine.execCtrlCloseStream id s
  | .ctrlReadLink id => Sys2Proof.Machine.execCtrlReadLink id s
  | .ctrlReadBandedLatency id => Sys2Proof.Machine.execCtrlReadBandedLatency id s
  | .ctrlReadEdgeUnit id => Sys2Proof.Machine.execCtrlReadEdgeUnit id s
  | .ctrlRoutePeer id => Sys2Proof.Machine.execCtrlRoutePeer id s
  | .ctrlReservedCode id => Sys2Proof.Machine.execCtrlReservedCode id s
  | .bestEffortFlitHop pkt seq => Sys2Proof.Machine.execBestEffortFlitHop pkt seq s
  | .streamFlitHop pkt seq => Sys2Proof.Machine.execStreamFlitHop pkt seq s
  | .creditReturn n => Sys2Proof.Machine.execCreditReturn n s
  | .stitchCrossing pkt seq => Sys2Proof.Machine.execStitchCrossing pkt seq s
  | .packetBounce pkt => Sys2Proof.Machine.execPacketBounce pkt s
  | .mapSwitch n => Sys2Proof.Machine.execMapSwitch n s
  | .linkRetrain link width => Sys2Proof.Machine.execLinkRetrain link width s
  | .burstSend unit peer => Sys2Proof.Machine.execBurstSend unit peer s
  | .burstReceive unit panel seq crcOk pkts => Sys2Proof.Machine.execBurstReceive unit panel seq crcOk pkts s
  | .burstAck unit seq => Sys2Proof.Machine.execBurstAck unit seq s
  | .burstResend unit seq => Sys2Proof.Machine.execBurstResend unit seq s
  | .burstRefusal unit seq => Sys2Proof.Machine.execBurstRefusal unit seq s
  | .panelReset => Sys2Proof.Machine.execPanelReset s
  | .partitionCreate cfg => Sys2Proof.Machine.execPartitionCreate cfg s
  | .svccoreWrite pid v => Sys2Proof.Machine.execSvccoreWrite pid v s
  | .hostLaunch vf v => Sys2Proof.Machine.execHostLaunch vf v s
  | .vfDoorbell vf v => Sys2Proof.Machine.execVfDoorbell vf v s
  | .hostRegisterWrite vf off size v => Sys2Proof.Machine.execHostRegisterWrite vf off size v s
  | .debugHalt vf q => Sys2Proof.Machine.execDebugHalt vf q s
  | .debugResume vf q => Sys2Proof.Machine.execDebugResume vf q s
  | .debugBrkarm vf q arm => Sys2Proof.Machine.execDebugBrkarm vf q arm s
  | .debugSlotStart tk pc srs regs => Sys2Proof.Machine.execDebugSlotStart tk pc srs regs s
  | .functionReset vf => Sys2Proof.Machine.execFunctionReset vf s
  | .keyLoad id key => Sys2Proof.Machine.execKeyLoad id key s
  | .frameReassign frame old new => Sys2Proof.Machine.execFrameReassign frame old new s
  | .bastecfgEnable tk v => Sys2Proof.Machine.execBastecfgEnable tk v s
  | .bastecfgDisable tk => Sys2Proof.Machine.execBastecfgDisable tk s
  | .freeNoticeArrival id => Sys2Proof.Machine.execFreeNoticeArrival id s
  | .uncorrectableEccError qi core => Sys2Proof.Machine.execUncorrectableEccError qi core s
  | .pipelineParityError qi core => Sys2Proof.Machine.execPipelineParityError qi core s
  | .routerHeartbeatLoss qi => Sys2Proof.Machine.execRouterHeartbeatLoss qi s
  | .correctableEccError qi => Sys2Proof.Machine.execCorrectableEccError qi s
  | .shareFillBlock qi blk => Sys2Proof.Machine.execShareFillBlock qi blk s
  | .bastedSlotResume tk => Sys2Proof.Machine.execBastedSlotResume tk s
  | .reductionHoldExpiry id => Sys2Proof.Machine.execReductionHoldExpiry id s
  | .reductionPairExpiry loc rsn => Sys2Proof.Machine.execReductionPairExpiry loc rsn s
  | .partitionResize pid x0 y0 w h => Sys2Proof.Machine.execPartitionResize pid x0 y0 w h s
  | .watchdogExpiry tk => Sys2Proof.Machine.execWatchdogExpiry tk s
  | .droopAlarmRaise region => Sys2Proof.Machine.execDroopAlarmRaise region s
  | .droopAlarmClear region => Sys2Proof.Machine.execDroopAlarmClear region s
  | .freezeInput => Sys2Proof.Machine.execFreezeInput s
  | .freezeCommand regions => Sys2Proof.Machine.execFreezeCommand regions s
  | .contextSwap qi => Sys2Proof.Machine.execContextSwap qi s
  | .channelSpillPopReturn qi ch => Sys2Proof.Machine.execChannelSpillPopReturn qi ch s
  | .reinstateEntryAppend qi unit time sig => Sys2Proof.Machine.execReinstateEntryAppend qi unit time sig s
  | .stage2MappingChange pid ipa size pa perm => Sys2Proof.Machine.execStage2MappingChange pid ipa size pa perm s
  | .wavelengthLockChange unit lock degr clock => Sys2Proof.Machine.execWavelengthLockChange unit lock degr clock s

end Sys2Proof.Machine
end

