-- ==== Sys2Proof/Machine/Turn.lean ====
section
/-! DEFINITION. One cycle of a core: the rotation and its issue (R82 to R84), what a slot does next (R38, R39, R89, R97,
R369), and the end of the cycle (R85, R89, R309, R381); time and the regions' clocks (R19, R383). -/

namespace Sys2Proof.Machine

/-! ## What a slot does next -/

/-- The head at a PC of a line, decoded: an encoding that is no instruction traps when it issues (R39, R53). -/
def headOf (pc : Word) (l : Nat) : Instr :=
  let i := headIndex pc
  match decode (lineHalf l i) (lineTail l i) with
  | .ok x => x
  | .error .unassigned => .illegalInstruction (BitVec.ofNat 16 (lineHalf l i)) false
  | .error .reserved => .illegalInstruction (BitVec.ofNat 16 (lineHalf l i)) true

/-- The next action of a slot, with the state after the fetch of its line. -/
def State.nextAction (s : State) (tk : Nat) : Instr × State :=
  let x := s.slot tk
  if !x.answered && !x.exl && !x.async.isEmpty then (.asyncTrapEntry tk, s)
  else if x.basteNow && decide (x.st ≠ .moving) then (.basteIntervalExpiry tk, s)
  else match s.fetchCheck tk, s.fetchLine tk with
    | none, some l =>
      if (illegalLine x.pc l).isSome then (.lineFetch tk, s) else (headOf x.pc l, s.withLine tk l)
    | _, _ => (.lineFetch tk, s)

/-- Cycles from the issue of a head to the slot's next (R84). -/
def spacing (i : Instr) : Nat :=
  match i with
  | .div _ _ _ | .divu _ _ _ | .rem _ _ _ | .remu _ _ _ => 24
  | .yield => 8
  | _ => 4

/-! ## Issue -/

/-- A droop alarm throttles the region (R382). -/
def State.throttled (s : State) (ck : Nat) : Bool :=
  (s.region (regionOf (quadOfCore ck))).droopst.getLsbD 0 && decide ((s.core ck).cycle % 4 ≠ 0)

/-- A slot may issue in the present cycle (R82): ready, or blocked at a head that may go on now. -/
def State.eligible (s : State) (tk : Nat) : Bool :=
  let x := s.slot tk
  let up := match x.st with
    | .ready | .blocked _ => true
    | .moving => x.answered
    | _ => false
  up && decide (x.next ≤ (s.core (coreOf tk)).cycle) && !s.faultBlocked tk && !s.stopped tk && !s.throttled (coreOf tk)

/-- The head did not issue: its slot is blocked, or waits for the spill engine behind an answered head, and no request of it has gone
out. -/
def stayed (before after : Slot) : Bool :=
  match after.st with
  | .blocked _ | .moving => decide (after.op = before.op)
  | _ => false

/-- The issue is charged (R82). -/
def State.charge (s : State) (tk n : Nat) : State :=
  let ck := coreOf tk
  let k := (s.core ck).cycle
  ((s.updCore ck fun c => { c with rot := (slotNo tk + 1) % 8 }).updSlot tk fun x => { x with next := k + n }).resetRotation ck

/-- The slots of a core in the order of the rotation: the first that can issue does. -/
def issueFrom (ck : Nat) : List Nat → State → Res
  | [], s => .next s
  | n :: ns, s =>
    let tk := ck * 8 + n
    if s.eligible tk then
      let a := ({ s with cur := tk } : State).nextAction tk
      match exec a.1 a.2 with
      | .next t => if stayed (s.slot tk) (t.slot tk) then issueFrom ck ns t else .next (t.charge tk (spacing a.1))
      | .fault f => .fault f
      | .refused r => .refused r
    else issueFrom ck ns s

/-- The rotation from P (R82). -/
def rotation (p : Nat) : List Nat := (List.range 8).map fun i => (p + i) % 8

/-! ## The end of a cycle -/

/-- REM falls (R309), waits grow, a block by a translation fault among them (R211, R381), and the age of the last checkpoint grows (R369). -/
def Slot.age (x : Slot) (halted paused faulted : Bool) : Slot :=
  let waits := faulted || (match x.st with
    | .blocked _ | .held => true
    | _ => false)
  let rem := fld x.sr.allow 0 48
  let x1 := if halted || decide (rem = 0) then x
    else x.updSr fun r => { r with allow := setFld r.allow 0 48 (rem - 1) }
  let x2 := if x.bst then x1.updTask fun t => { t with ckAge := t.ckAge + 1 } else x1
  let x3 := match x.st with
    | .blocked (.chFull _) | .blocked (.chEmpty _) =>
      if x.chWaited = 0 then { x2 with chWaited := 1, probes := 0, waitNo := x2.waitNo + 1 } else { x2 with chWaited := x2.chWaited + 1 }
    | _ => { x2 with chWaited := 0 }
  if waits && !paused then { x3 with waited := x3.waited + 1 } else x3

/-- What one cycle does to a bound slot. -/
def State.ageSlot (s : State) (tk : Nat) : State :=
  if (s.slot tk).st = .free then s else
  let s1 := s.updSlot tk fun x => x.age (s.stopped tk) (s.paused (s.pidOf tk)) (s.faultBlocked tk)
  let s2 := match execCycleAllowanceExhausted tk s1 with
    | .next t => t
    | _ => s1
  s2.watchdog tk

/-- A core of the same quad has not ended the cycle that a core ends. -/
def State.siblingBehind (s : State) (ck : Nat) : Bool :=
  (List.range 4).any fun c => let j := quadOfCore ck * 4 + c; decide (j ≠ ck ∧ (s.core j).cycle ≤ (s.core ck).cycle)

/-- A quad tries to bind once in each cycle of its cores (R303): with the last of them that ends it. -/
def State.tryBind (s : State) (ck : Nat) : State :=
  let qi := quadOfCore ck
  if (s.quad qi).lists = [] ∨ (s.core ck).cycle < (s.quad qi).bindCycle ∨ s.siblingBehind ck = true then s
  else
    let s1 := s.updQuad qi fun q => { q with bindCycle := (s.core ck).cycle + 1 }
    match execTaskBind qi s1 with
    | .next t => t
    | _ => s1

/-- The end of a core's cycle: the writes due, the held pushes, the slots' ages, a message of the transmit queue, the quad's bind,
and the next cycle. A held push is retried in the cycle in which QCLEAR or QMAP changes its queue, too (R115; log entry 106). -/
def State.endCycle (s : State) (ck : Nat) : State :=
  let tks := (List.range 8).map fun n => ck * 8 + n
  let s1 := tks.foldl (fun t tk => t.retryPush tk) (s.retest.performDue ck)
  ((((tks.foldl (fun t tk => t.ageSlot tk) s1).transmit ck).advanceSlice ck).tryBind ck).updCore ck fun c => { c with cycle := c.cycle + 1 }

/-- The core that has the next cycle of a core's quad: its four cores have one clock (R4, R19), so that one whose cycle lies behind
comes first (log entry 3). -/
def State.inStep (s : State) (ck : Nat) : Nat :=
  (List.range 4).foldl (fun b c =>
    let j := quadOfCore ck * 4 + c
    if (s.core j).cycle < (s.core b).cycle then j else b) ck

/-- One cycle of one core (R82). -/
def cycleOf (s : State) (ck : Nat) : Res :=
  match issueFrom ck (rotation (s.core ck).rot) s with
  | .next t => .next (t.endCycle ck)
  | .fault f => .fault f
  | .refused r => .refused r

/-- The next cycle of a core's quad (R82): a core whose clock is stopped has none (R383). -/
def coreTurn (s : State) (ck : Nat) : Res :=
  if !coreOk ck then .fault (.noSuchUnit ck)
  else if s.clockStopped (regionOf (quadOfCore ck)) then .next s
  else cycleOf s (s.inStep ck)

/-! ## The other turns -/

/-- A step that only a core's own turn takes: a head, what stands in place of one, the part of a head that reads or
writes a port (R89), and a bind (R303). -/
def Instr.ofCore (i : Instr) : Bool :=
  i.encodable || (match i with
    | .illegalInstruction _ _ | .c28StreamCommand _ _ _ | .c28HandlePop _ | .c29RecordPop _ | .c30MessagePop _
    | .c31SendBlock _ _ | .taskBind _ => true
    | _ => false)

/-- One nanosecond of the common reference (R336): it counts in every region that a freeze has not stopped (R383), and the maps
whose time has come are adopted (R332). -/
def tickTurn (s : State) : Res :=
  .next ((List.range 16).foldl (fun t r =>
    if s.clockStopped r then t else t.updRegion r fun g => { g with tcnt := g.tcnt + 1#64 }) s).adoptDue

/-- One cycle of a region's clock; slots of closed streams whose drain has ended become free (R379). -/
def cycleTurn (s : State) (r : Nat) : Res :=
  if !regionOk r then .fault (.noSuchUnit r)
  else if s.clockStopped r then .next s
  else .next ((s.updRegion r fun g => { g with cycle := g.cycle + 1 }).freeDrained r)

/-- The physical function sets a region's STEPLIM (R382). -/
def stepLimitTurn (s : State) (r : Nat) (limit : BitVec 16) : Res :=
  if !regionOk r then .fault (.noSuchUnit r) else .next (s.updRegion r fun g => { g with steplim := limit })

/-- The region of a slot, of a core, of a quad. -/
def slotRegion (tk : Nat) : List Nat := [regionOf (quadOf tk)]
def coreRegion (ck : Nat) : List Nat := [regionOf (quadOfCore ck)]

/-- The regions in which an access stands: that of the place it has reached, else its thread's; a push that has been answered, its
writer's. -/
def State.flightRegion (s : State) (id : Nat) : List Nat :=
  match s.flight id with
  | none => ((s.pushes.find? fun p => decide (p.id = id)).map fun p => regionOf (quadOf p.src)).toList
  | some f =>
    match f.stage with
    | .net qi | .atNI qi => [regionOf qi]
    | .home k => keyRegion k
    | _ => slotRegion f.thr

/-- The region whose router holds a flit. -/
def State.flitRegion (s : State) (pkt seq : Nat) : List Nat :=
  ((s.flitAt pkt seq).map fun f => regionOf f.at_).toList

/-- The regions in which a message stands: its destination's once it is there or refused, else its sender's. -/
def State.msgRegion (s : State) (id : Nat) : List Nat :=
  ((s.msgs.find? fun m => decide (m.id = id)).map fun m => match m.st, m.src with
    | .refused, some tk => regionOf (quadOf tk)
    | _, _ => regionOf (quadOfCore m.dst)).toList

/-- The region of a partition's thread. -/
def State.threadRegion (s : State) (pid n : Nat) : List Nat := ((s.threadKey pid n).map fun tk => regionOf (quadOf tk)).toList

/-- The region of a probe: its target's, or once it has returned its origin's. -/
def State.probeRegion (s : State) (id : Nat) : List Nat :=
  match s.probes.find? fun p => decide (p.id = id) with
  | some p => s.threadRegion p.pid (if p.returned then p.origin else p.target)
  | none => []

/-- The regions of a copy's sector: its core's, and those of its ends. -/
def State.sectorRegions (s : State) (ck id n : Nat) : List Nat :=
  coreRegion ck ++ match ((s.core ck).copy id).bind fun k => (k.sector n).map fun x => (k, x) with
    | none => []
    | some (k, x) => [x.src, x.dst].flatMap fun a => match s.engineKey0 (k.thr ck) (s.pidOf (ck * 8)) {} a 1 with
      | .ok j => keyRegion j
      | .error _ => []

/-- The regions that a peer's packet reaches. -/
def State.peerRegions (s : State) (panel : Nat) : PeerPkt → List Nat
  | .msg pid dest _ _ _ | .notice pid dest _ =>
    (((Config.peerPartition panel pid).bind fun q => s.coreOfGca q (msgGca dest)).map coreRegion).getD []
  | x => ((s.peerFoot panel x).map fun p => p.2.flatMap keyRegion).getD []

/-- The regions that a partition's quads lie in. -/
def State.partRegions (s : State) (pid : Nat) : List Nat := (s.ctxQuads pid).map regionOf

/-- The regions of the writers of a channel cached at a quad. -/
def State.writerRegions (s : State) (qi ch : Nat) : List Nat :=
  (s.chansHere qi ch).flatMap fun e => s.threadRegion e.pid e.writer

/-- The regions with the clocks that a turn's event needs (R383); none for what the panel controller or the host does to its own
records, and for an edge unit's own traffic. -/
def State.clocksOf (s : State) (i : Instr) : List Nat :=
  match i with
  | .heldPushRetry tk | .asyncTrapEntry tk | .lineFetch tk | .cycleAllowanceExhausted tk | .basteIntervalExpiry tk
  | .wakeArrival tk | .slotSpill tk | .spillComplete tk | .restoreComplete tk | .probeSend tk | .watchdogExpiry tk
  | .bastedSlotResume tk | .bastecfgEnable tk _ | .bastecfgDisable tk => slotRegion tk
  | .channelRoomReport qi ch => regionOf qi :: s.writerRegions qi ch
  | .vectorBeatStart qi _ | .channelFill qi _ | .channelRefill qi _ | .channelEviction qi _
  | .pieceEnqueue qi _ | .taskBind qi | .runListPromotion qi _ _ | .readyRingPush qi | .readyRecordPlace qi
  | .effectDrainRecord qi _ | .gangJoin qi | .gangRow qi | .channelSpillPopReturn qi _ | .shareFillBlock qi _ | .contextSwap qi => [regionOf qi]
  | .vectorComplete ck _ | .wloadDone ck | .mdrainRowWrite ck | .mdrainHandlePush ck
  | .yokeHandback ck _ | .copyStart ck | .copyComplete ck _ | .copyHandback ck _ | .sendBlockRead ck => coreRegion ck
  | .copySectorLand ck id n => s.sectorRegions ck id n
  | .scaleBlockDeliver ck id => s.sectorRegions ck id 0 ++ ((((s.core ck).copy id).bind fun k => s.scaleTarget ck k).map coreRegion).getD []
  | .burstReceive _ panel _ _ pkts => pkts.flatMap (s.peerRegions panel)
  | .vfDoorbell v w => ((s.vfPid v).map fun pid => s.threadRegion pid (fld w 0 16)).getD []
  | .functionReset v => ((s.vfPid v).map s.partRegions).getD []
  | .partitionCreate c => (s.rectPhys { x0 := c.x0, y0 := c.y0, w := c.w, h := c.h }).map fun e => regionOf e.2
  | .partitionResize pid x0 y0 w h => (s.removedQuads pid x0 y0 w h).map fun e => regionOf e.1
  | .stage2MappingChange pid _ _ _ _ => s.partRegions pid
  | .debugHalt v q | .debugResume v q => ((s.debugQuad v q.quad).map regionOf).toList
  | .debugBrkarm v q _ => ((s.debugQuad v q).map regionOf).toList
  | .debugSlotStart tk _ _ _ => slotRegion tk
  | .frameReassign frame _ _ => keyRegion (hbmKey (frame * 4096))
  | .uncorrectableEccError qi _ | .pipelineParityError qi _ | .routerHeartbeatLoss qi | .correctableEccError qi => [regionOf qi]
  | .droopAlarmRaise r | .droopAlarmClear r => [r]
  | .linkRetrain l _ => [regionOf (l / 4)]
  | .ldePerform id | .stfPerform id | .loadResponse id | .storeAck id | .remoteAccessArrival id | .remoteDenial id
  | .homeStore id | .homeAtomic id | .niAtomic id | .translationRequest id | .depCellDecrement id => s.flightRegion id
  | .faultNotice id => ((s.flight id).map fun f => regionOf (quadOf f.thr)).toList
  | .pageMigration g _ => keyRegion (hbmKey (g * 4096))
  | .reductionPairExpiry loc _ => keyRegion loc
  | .reductionHoldExpiry id => ((s.redHolds.find? fun h => decide (h.id = id)).map fun h => regionOf h.router).toList
  | .freplyRetry pid n _ | .freplyFail pid n _ _ => s.threadRegion pid n
  | .barsetInstall pid _ | .barrierRelease pid _ | .s1invComplete pid => (s.part pid).regions
  | .probeArrival id | .probeExpiry id | .letoutRequest id => s.probeRegion id
  | .messageAccept id | .messageAcknowledge id | .messageResend id | .freeNoticeArrival id => s.msgRegion id
  | .channelPushAccept id | .channelCloseApply id =>
    ((s.pushes.find? fun p => decide (p.id = id)).map fun p => regionOf p.home).toList
  | .ltabDone id => ((s.ltabs.find? fun o => decide (o.id = id)).map fun o => regionOf (quadOf o.thr)).toList
  | .spawnAccept id | .launchAccept id =>
    ((s.launches.find? fun r => decide (r.id = id)).map fun r => regionOf r.quad).toList
  | .bestEffortFlitHop pkt seq | .streamFlitHop pkt seq | .stitchCrossing pkt seq => s.flitRegion pkt seq
  | .packetBounce pkt => ((s.packet pkt).map fun p => regionOf p.dst).toList
  | .creditReturn n => [regionOf (n / 40)]
  | _ => []

/-- The waits for words end that what an event wrote ends (R110). -/
def settled (r : Res) : Res :=
  match r with
  | .next t => .next t.retest
  | .fault f => .fault f
  | .refused r => .refused r

/-- One turn of the machine: an event in a region whose clock is stopped does not come. -/
def takeTurn (t : Turn) (s : State) : Res :=
  match t with
  | .event i => if Instr.ofCore i || (s.clocksOf i).any s.clockStopped then .next s else settled (exec i s)
  | .core ck => coreTurn s ck
  | .tick => tickTurn s
  | .cycle r => cycleTurn s r
  | .stepLimit r n => stepLimitTurn s r n

end Sys2Proof.Machine
end

