-- ==== Sys2Proof/Machine/Step.lean ====
section
/-! DEFINITION. One step of the machine, and the placing of an instruction where the next step fetches it. -/

namespace Sys2Proof.Machine

/-- One step: the next listed turn, or a cycle of the core of `cur`. -/
def step (s : State) : Host.Outcome State Fault Refusal :=
  match s.sched with
  | [] => coreTurn s (coreOf s.cur)
  | t :: rest => takeTurn t { s with sched := rest }

/-- The line that `withFetchWord` writes, at local offset 0x1000. -/
def bootLine : Nat := 0x1000

/-- The state with an instruction of the opcode table where the next step fetches it: partition 1 holds logical quad 0,
slot 0 of its service core is ready at head 1 of a line of its scratchpad, and no other turn is listed. -/
def State.withFetchWord (s : State) (nbits w : Nat) : State :=
  let qi := (s.physLogical 0 0).getD 0
  let head := w / 2 ^ (nbits - 16) % 2 ^ 16
  let pt : Part := { live := true, w := 1, h := 1, key := 1, vf := 1, spsize := 2 ^ 24
                     svccore := word (s.panel.number * 8192), ring := [(0, 0)] }
  let s1 := { (s.setPart 1 pt).updQuad qi fun q =>
    { q with ctxs := [{ pid := 1, p := 0 }], icache := FMap.erase q.icache (fetchKey 1 (word bootLine)) } with
    sched := [], cur := qi * 32 }
  (s1.wr (scratchKey qi bootLine) 64 (oneHeadLine head (bitsAt w 0 (nbits - 16)))).setSlot (qi * 32)
    { st := .ready, pc := word (bootLine + 2), sr := { status := 0x31#64 } }

end Sys2Proof.Machine
end

