-- ==== Sys2Proof/Safety.lean ====
section
/-! DEFINITION. What counts as a safe state and a safe step, and when a head may issue and what it leaves, in the terms that
the statements use. -/

namespace Sys2Proof.Machine

/-- The canonical form of memory: addresses strictly rising, no listed byte equal to what an unlisted one reads as. -/
abbrev Memory.wf (m : List Host.Cell) : Bool := FMap.wf (0 : Byte) m

/-- Memory and the full/empty states in their canonical form. -/
def State.Wf (s : State) : Prop := Memory.wf s.mem = true ∧ FMap.wf false s.fe = true

/-- A step answers a next state. -/
def Steps (s : State) : Prop := ∃ t, step s = .next t

/-- A run of n steps that neither faults nor refuses. -/
def RunSafe : Nat → State → Prop
  | 0, _ => True
  | n + 1, s => ∃ t, step s = .next t ∧ RunSafe n t

/-! ## When a head may issue -/

/-- The head of slot `cur` that names `u` may issue: its level (R55), the allotment (R91), its ports (R89, R90) and the
pending writes of its registers (R85) allow it. -/
def mayIssue (u : Use) (s : State) : Bool :=
  (u.sup.isNone || s.super) && !u.names.any s.me.sr.outside && !u.names.any s.me.busy.contains
    && (u.misused s.myCore (slotNo s.cur)).isNone && (u.starved s.myCore).isNone

/-- A destination that the slot may write: c31 is refused to an optimistic task (R349). -/
def State.mayPut (s : State) (d : Reg) : Bool := !(d.toNat = 63 && s.me.optimistic)

/-- The waits of an access are over: its W field allows it, and no acquire is outstanding (R220, R224). -/
def State.mayGo (s : State) (w : BitVec 2) (a : Word) : Bool := s.wOk w a && !s.acquiring

/-- Local bytes that no earlier access of the slot and no engine has still to write (R232, R241), and that a substitute holds itself
(R374). -/
def State.bytesFree (s : State) (k n : Nat) : Bool := !s.localConflict k n && !s.owned k n && decide (keyQuad k = quadOf s.cur)

/-! ## What a head leaves -/

/-- The head is behind the slot: the next head in sequence follows. -/
def State.passed (s : State) : State := s.updMe fun x => x.advance x.nextPc

/-- The head has transferred control. -/
def State.went (s : State) (pc : Word) : State := s.updMe fun x => x.advance pc

/-- A head that popped the ports among `rd` and writes `v` to `d`, `lat` cycles on. -/
def State.wrote (s : State) (rd : List Reg) (d : Reg) (v : Word) (lat : Nat) : State :=
  ((s.popPorts rd).writeReg s.cur d v lat).passed

/-- A vector-unit head that popped the ports among `rd` and entered the queue. -/
def State.entered (s : State) (rd : List Reg) (dest : VDest) (seed : Option (BitVec 32)) (time : Nat × Nat) : State :=
  ((s.popPorts rd).pushVector dest seed time).passed

/-- The vector destination of a lanewise head: lane i of the active ones is `f i` (R117). -/
def State.lanesTo (s : State) (d : VReg) (m : MReg) (w n : Nat) (f : Nat → Nat) : VDest :=
  let o := lanesOut w n (s.mReg s.cur m.toNat) f
  .vec d.toNat o.1 o.2

/-- The slot has put an access in flight under its partition. -/
def State.sent (s : State) (f : Flight) : State := s.launchFlight { f with thr := s.cur, pid := s.myPid, tag := s.me.faultTag }

/-- An optimistic task has held an effect (R310). -/
def State.held (s : State) (e : Effect) : State := s.updMe fun x => x.updTask fun k => { k with held := k.held ++ [e] }

/-- An optimistic task has room to hold an effect (R310). -/
def State.mayHold (s : State) (e : Effect) : Bool := s.me.optimistic && decide (s.me.task.heldBytes + e.bytes ≤ s.me.task.effRes)

/-- Memory bytes from a key on, of a number, lowest first; every other byte stands (R3). -/
def State.bytesAre (s t : State) (k n v : Nat) : Prop :=
  ∀ j, memByte t.mem j = if k ≤ j ∧ j < k + n then BitVec.ofNat 8 (v / 256 ^ (j - k)) else memByte s.mem j

/-- What a scalar head leaves as it was, from the state after its pops: everything but its own slot and core; of the slot all but
the place of the next head, the private register `d` and the registers that are busy; of the core all but writes of `d` that are
pending. -/
def State.keepsBut (s t : State) (d : Reg) : Prop :=
  let x := s.me
  ({ t with slots := s.slots, cores := s.cores } : State) = s
    ∧ (∀ k, k ≠ s.cur → t.slot k = s.slot k) ∧ (∀ c, c ≠ coreOf s.cur → t.core c = s.core c)
    ∧ ({ t.me with t := x.t, busy := x.busy, pc := x.pc, st := x.st, op := x.op, waited := x.waited, wdFired := x.wdFired } : Slot) = x
    ∧ (∀ r, r ≠ d.toNat → t.tReg s.cur r = s.tReg s.cur r)
    ∧ ({ t.myCore with pend := s.myCore.pend } : Core) = s.myCore
    ∧ ∃ new, t.myCore.pend = s.myCore.pend ++ new ∧ ∀ p ∈ new, p.op = .reg d.toNat ∧ p.slot = slotNo s.cur

/-- What a prefetch or a cache head leaves as it was, from the state after its pops: everything but the caches and the place of the
next head. -/
def State.keepsButCaches (s t : State) : Prop :=
  let x := s.me
  ({ t with slots := s.slots, cores := s.cores, quads := s.quads, dieLines := s.dieLines } : State) = s
    ∧ (∀ k, k ≠ s.cur → t.slot k = s.slot k)
    ∧ ({ t.me with pc := x.pc, st := x.st, op := x.op, waited := x.waited, wdFired := x.wdFired } : Slot) = x
    ∧ (∀ c, ({ t.core c with l1 := (s.core c).l1 } : Core) = s.core c)
    ∧ ∀ q, ({ t.quad q with icache := (s.quad q).icache } : Quad) = s.quad q

/-- What a head that only transfers control leaves as it was, from the state after its pops and its link write: everything but its own
slot's place and the core's branch trace. -/
def State.keepsButPlace (s t : State) : Prop :=
  let x := s.me
  ({ t with slots := s.slots, cores := s.cores } : State) = s ∧ (∀ k, k ≠ s.cur → t.slot k = s.slot k)
    ∧ (∀ c, ({ t.core c with trace := (s.core c).trace } : Core) = s.core c)
    ∧ ({ t.me with pc := x.pc, st := x.st, op := x.op, waited := x.waited, wdFired := x.wdFired } : Slot) = x

/-- What a head that writes mask `d` leaves as it was, from the state after its pops: everything but the place of its own slot and
that mask. -/
def State.keepsButMask (s t : State) (d : MReg) : Prop :=
  let x := s.me
  ({ t with slots := s.slots } : State) = s ∧ (∀ k, k ≠ s.cur → t.slot k = s.slot k)
    ∧ ({ t.me with m := x.m, pc := x.pc, st := x.st, op := x.op, waited := x.waited, wdFired := x.wdFired } : Slot) = x
    ∧ ∀ r, r ≠ d.toNat → t.mReg s.cur r = s.mReg s.cur r

/-- What a vector-unit head leaves as it was at its issue: everything but its own slot and core, and the counter of names; of the
slot all but the place of the next head and the registers that are busy; of the core all but the queue, which `dest` has entered. -/
def State.queuesOnly (s t : State) (dest : VDest) : Prop :=
  let x := s.me
  ({ t with slots := s.slots, cores := s.cores, ids := s.ids } : State) = s
    ∧ (∀ k, k ≠ s.cur → t.slot k = s.slot k) ∧ (∀ c, c ≠ coreOf s.cur → t.core c = s.core c)
    ∧ ({ t.me with busy := x.busy, pc := x.pc, st := x.st, op := x.op, waited := x.waited, wdFired := x.wdFired } : Slot) = x
    ∧ ({ t.myCore with vq := s.myCore.vq } : Core) = s.myCore
    ∧ ∃ e, t.myCore.vq = s.myCore.vq ++ [e] ∧ e.dest = dest ∧ e.slot = slotNo s.cur

end Sys2Proof.Machine
end

