-- ==== Sys2Proof/Certificates/Slice0/Obligations.lean ====
section
/-! DEFINITION. The statements for the provers. Each docstring names the rules of spec/ that it rests on; where it rests on a
choice of the model it names the log entry. -/

open Sys2Proof Sys2Proof.Machine

/-! ## Scalar heads -/

/-- R101: each head of three registers writes its function of A and B to D in cycle k + 3, a division in cycle k + 23. -/
def Obligations.ScalarThreeRegisterResults : Prop :=
  ∀ (s : State) (d a b : Reg), mayIssue { rd := [a, b], wr := [d] } s = true → s.mayPut d = true →
    ∀ row ∈ ([(.add d a b, 3, fun x y => x + y), (.sub d a b, 3, fun x y => x - y),
      (.addw d a b, 3, fun x y => ((x + y).setWidth 32).signExtend 64),
      (.subw d a b, 3, fun x y => ((x - y).setWidth 32).signExtend 64),
      (.mul d a b, 3, fun x y => x * y), (.mulw d a b, 3, fun x y => ((x * y).setWidth 32).signExtend 64),
      (.mulh d a b, 3, fun x y => BitVec.ofInt 64 (x.toInt * y.toInt / 2 ^ 64)),
      (.mulhu d a b, 3, fun x y => word (x.toNat * y.toNat / 2 ^ 64)),
      (.div d a b, 23, fun x y => if y = 0 then BitVec.allOnes 64 else BitVec.ofInt 64 (x.toInt.tdiv y.toInt)),
      (.divu d a b, 23, fun x y => if y = 0 then BitVec.allOnes 64 else word (x.toNat / y.toNat)),
      (.rem d a b, 23, fun x y => if y = 0 then x else BitVec.ofInt 64 (x.toInt.tmod y.toInt)),
      (.remu d a b, 23, fun x y => if y = 0 then x else word (x.toNat % y.toNat)),
      (.and_ d a b, 3, fun x y => x &&& y), (.or_ d a b, 3, fun x y => x ||| y), (.xor d a b, 3, fun x y => x ^^^ y),
      (.andn d a b, 3, fun x y => x &&& ~~~y), (.orn d a b, 3, fun x y => x ||| ~~~y),
      (.shl d a b, 3, fun x y => x <<< (y.toNat % 64)), (.shr d a b, 3, fun x y => x >>> (y.toNat % 64)),
      (.sra d a b, 3, fun x y => BitVec.ofInt 64 (x.toInt / 2 ^ (y.toNat % 64))),
      (.rotl d a b, 3, fun x y => x.rotateLeft (y.toNat % 64)), (.rotr d a b, 3, fun x y => x.rotateRight (y.toNat % 64)),
      (.min d a b, 3, fun x y => if y.toInt < x.toInt then y else x),
      (.max d a b, 3, fun x y => if x.toInt < y.toInt then y else x),
      (.minu d a b, 3, fun x y => if y.toNat < x.toNat then y else x),
      (.maxu d a b, 3, fun x y => if x.toNat < y.toNat then y else x),
      (.seq d a b, 3, fun x y => if x = y then 1 else 0), (.sne d a b, 3, fun x y => if x = y then 0 else 1),
      (.slt d a b, 3, fun x y => if x.toInt < y.toInt then 1 else 0),
      (.sltu d a b, 3, fun x y => if x.toNat < y.toNat then 1 else 0)]
      : List (Instr × Nat × (Word → Word → Word))),
    exec row.1 s = .next (s.wrote [a, b] d (row.2.2 (s.operand a) (s.operand b)) row.2.1)

/-- R101: each head of one register and constants writes its function of A to D in cycle k + 3.
R101: what CLZ, CTZ, POPC, BREV and BSWAP count and move, bit by bit. -/
def Obligations.ScalarOneRegisterResults : Prop :=
  (∀ (s : State) (d a : Reg) (imm : BitVec 22) (imm16 : BitVec 16) (pos : BitVec 6) (len : BitVec 7),
    mayIssue { rd := [a], wr := [d] } s = true → s.mayPut d = true → 1 ≤ len.toNat → pos.toNat + len.toNat ≤ 64 →
    ∀ row ∈ ([(.addi d a imm, fun x => x + imm.signExtend 64), (.andi d a imm, fun x => x &&& imm.signExtend 64),
      (.ori d a imm, fun x => x ||| imm.signExtend 64), (.xori d a imm, fun x => x ^^^ imm.signExtend 64),
      (.slti d a imm, fun x => if x.toInt < imm.toInt then 1 else 0),
      (.shli d a imm, fun x => x <<< imm.toNat), (.shri d a imm, fun x => x >>> imm.toNat),
      (.srai d a imm, fun x => BitVec.ofInt 64 (x.toInt / 2 ^ imm.toNat)),
      (.clz d a, aluClz), (.ctz d a, aluCtz), (.popc d a, aluPopc), (.brev d a, aluBrev), (.bswap d a, aluBswap),
      (.mov d a, fun x => x),
      (.lih d a imm16, fun x => (imm16.setWidth 64 <<< 48) ||| (x &&& 0x0000FFFFFFFFFFFF#64)),
      (.ext d a pos len, fun x => word (x.toNat / 2 ^ pos.toNat % 2 ^ len.toNat)),
      (.exts d a pos len, fun x => BitVec.ofInt 64 (sval len.toNat (x.toNat / 2 ^ pos.toNat % 2 ^ len.toNat)))]
      : List (Instr × (Word → Word))),
    exec row.1 s = .next (s.wrote [a] d (row.2 (s.operand a)) 3))
  ∧ (∀ x : Word,
    ((aluClz x).toNat ≤ 64 ∧ (∀ i < (aluClz x).toNat, x.getLsbD (63 - i) = false)
      ∧ ((aluClz x).toNat < 64 → x.getLsbD (63 - (aluClz x).toNat) = true))
    ∧ ((aluCtz x).toNat ≤ 64 ∧ (∀ i < (aluCtz x).toNat, x.getLsbD i = false)
      ∧ ((aluCtz x).toNat < 64 → x.getLsbD (aluCtz x).toNat = true))
    ∧ (aluPopc x).toNat = ((List.range 64).filter fun i => x.getLsbD i).length
    ∧ (∀ i < 64, (aluBrev x).getLsbD (63 - i) = x.getLsbD i)
    ∧ (∀ i < 64, (aluBswap x).getLsbD ((7 - i / 8) * 8 + i % 8) = x.getLsbD i))

/-- R46, R101, R105: NOP and YIELD pass; SEL, INS, LI and ADDPC write their results; INS reads D before it writes it. -/
def Obligations.ScalarOtherResults : Prop :=
  ∀ (s : State) (d a b c : Reg) (imm : BitVec 22) (imm48 : BitVec 48) (pos : BitVec 6) (len : BitVec 7),
    1 ≤ len.toNat → pos.toNat + len.toNat ≤ 64 → s.mayPut d = true →
    exec .nop s = .next s.passed ∧ exec .yield s = .next s.passed
    ∧ (mayIssue { rd := [a, b, c], wr := [d] } s = true → exec (.sel d a b c) s =
        .next (s.wrote [a, b, c] d (if s.operand a = 0 then s.operand c else s.operand b) 3))
    ∧ (mayIssue { rd := [d, a], wr := [d] } s = true → ∃ v : Word, exec (.ins d a pos len) s = .next (s.wrote [d, a] d v 3)
        ∧ ∀ i < 64, v.getLsbD i =
          if pos.toNat ≤ i ∧ i < pos.toNat + len.toNat then (s.operand a).getLsbD (i - pos.toNat) else (s.operand d).getLsbD i)
    ∧ (mayIssue { wr := [d] } s = true → exec (.li d imm48) s = .next (s.wrote [] d (imm48.signExtend 64) 3)
        ∧ exec (.addpc d imm) s = .next (s.wrote [] d (s.me.pc + imm.signExtend 64) 3))

/-- R43, R102: a branch goes to its target when its condition holds, else to the next head; a taken one is traced. -/
def Obligations.BranchesGoToTheirTargets : Prop :=
  ∀ (s : State) (a b : Reg) (off : BitVec 15) (far : BitVec 37) (idx : BitVec 5),
    let x := s.operand a
    let y := s.operand b
    let near : Word := word (s.me.pc.toNat / 64 * 64) + off.signExtend 64 * 64#64 + word (2 * idx.toNat)
    let long : Word := word (s.me.pc.toNat / 64 * 64) + far.signExtend 64 * 64#64 + word (2 * idx.toNat)
    ∀ row ∈ ([(.br off idx, [], true, near), (.brLong far idx, [], true, long),
      (.beq a b off idx, [a, b], decide (x = y), near), (.bne a b off idx, [a, b], decide (x ≠ y), near),
      (.blt a b off idx, [a, b], decide (x.toInt < y.toInt), near), (.bge a b off idx, [a, b], decide (y.toInt ≤ x.toInt), near),
      (.bltu a b off idx, [a, b], decide (x.toNat < y.toNat), near), (.bgeu a b off idx, [a, b], decide (y.toNat ≤ x.toNat), near),
      (.bz a off idx, [a], decide (x = 0), near), (.bzLong a far idx, [a], decide (x = 0), long),
      (.bnz a off idx, [a], decide (x ≠ 0), near), (.bnzLong a far idx, [a], decide (x ≠ 0), long)]
      : List (Instr × List Reg × Bool × Word)),
    mayIssue { rd := row.2.1 } s = true →
    exec row.1 s = .next (if row.2.2.1 then ((s.popPorts row.2.1).traced row.2.2.2 false).went row.2.2.2
      else (s.popPorts row.2.1).passed)

/-- R44, R103, R104: calls write the link and go, jumps go, a loop counts down and goes while its count is not zero.
R44: a jump through a register that holds an odd address raises ECAUSE 0x04 at the jump, and writes no link; EINFO is the odd address
(log entry 30). -/
def Obligations.CallsJumpsAndLoops : Prop :=
  (∀ (s : State) (d a : Reg) (off : BitVec 15) (far : BitVec 37) (idx : BitVec 5), s.mayPut d = true →
    let near : Word := word (s.me.pc.toNat / 64 * 64) + off.signExtend 64 * 64#64 + word (2 * idx.toNat)
    let long : Word := word (s.me.pc.toNat / 64 * 64) + far.signExtend 64 * 64#64 + word (2 * idx.toNat)
    let link (rd : List Reg) (t : Word) : State := (((s.popPorts rd).writeReg s.cur d s.me.nextPc 3).traced t false).went t
    let count : State := (s.popPorts [d]).writeReg s.cur d (s.operand d - 1) 3
    let turn (t : Word) : State := if s.operand d = 1 then count.passed else (count.traced t false).went t
    (mayIssue { wr := [d] } s = true →
      exec (.call d off idx) s = .next (link [] near) ∧ exec (.callLong d far idx) s = .next (link [] long))
    ∧ (mayIssue { rd := [a], wr := [d] } s = true → (s.operand a).getLsbD 0 = false →
      exec (.callr d a) s = .next (link [a] (s.operand a)))
    ∧ (mayIssue { rd := [d] } s = true → (s.operand d).getLsbD 0 = false →
      exec (.ret d) s = .next (((s.popPorts [d]).traced (s.operand d) true).went (s.operand d))
      ∧ exec (.jr d) s = .next (((s.popPorts [d]).traced (s.operand d) false).went (s.operand d)))
    ∧ (mayIssue { rd := [d], wr := [d] } s = true →
      exec (.loop d off idx) s = .next (turn near) ∧ exec (.loopLong d far idx) s = .next (turn long)))
  ∧ (∀ (s : State) (d a : Reg),
    (mayIssue { rd := [a], wr := [d] } s = true → (s.operand a).getLsbD 0 = true →
      exec (.callr d a) s = .next (s.enterTrap s.cur 0x04 (s.operand a) s.me.pc))
    ∧ (mayIssue { rd := [d] } s = true → (s.operand d).getLsbD 0 = true →
      exec (.ret d) s = .next (s.enterTrap s.cur 0x04 (s.operand d) s.me.pc)
      ∧ exec (.jr d) s = .next (s.enterTrap s.cur 0x04 (s.operand d) s.me.pc)))

/-! ## Registers, traps and system registers -/

/-- R51, R84: a write to t0 is discarded; a private register of a result of latency 3 is written before the slot's next head: in the
issue step itself, which is log entry 146 (DEDUCED; R84 and R88 give cycle k + 3; the clause is the model's); every other result is pending
for its cycle, and a slower one keeps the register busy.
R84, R86: at the end of a core's cycle, each pending write to a scalar register whose cycle has come is performed, and of
two slots that write one shared register in a cycle the higher slot's value stays.
R51, R87, R88: t0 reads as zero and m0 as all ones, whatever was written; another register reads what was last written to it. -/
def Obligations.ResultsReachTheirRegisters : Prop :=
  (∀ (s : State) (tk lat : Nat) (r : Reg) (v : Word),
    (r.toNat = 0 → s.writeReg tk r v lat = s)
    ∧ (0 < r.toNat → r.toNat < 32 → (s.writeReg tk r v 3).tReg tk r.toNat = v
        ∧ ∀ tk' n, (tk' ≠ tk ∨ n ≠ r.toNat) → (s.writeReg tk r v 3).tReg tk' n = s.tReg tk' n)
    ∧ (0 < r.toNat → (32 ≤ r.toNat ∨ lat ≠ 3) →
        ((s.writeReg tk r v lat).core (coreOf tk)).pend = (s.core (coreOf tk)).pend ++
          [{ due := (s.core (coreOf tk)).cycle + lat, slot := slotNo tk, pc := (s.slot tk).pc, op := .reg r.toNat, val := v }]
        ∧ ((s.writeReg tk r v lat).slot tk).busy = (s.slot tk).busy ++ (if 3 < lat then [r.toNat] else [])
        ∧ ∀ tk' n, (s.writeReg tk r v lat).tReg tk' n = s.tReg tk' n))
  ∧ (∀ (s : State) (ck n : Nat) (p q : Pend) (i j : Nat), n < 24 → i < j → j < 8 →
    (∀ e ∈ (s.core ck).vq, e.completes (s.core ck).cycle = false) →
    p = { due := (s.core ck).cycle, slot := i, pc := p.pc, op := .reg (32 + n), val := p.val } →
    q = { due := (s.core ck).cycle, slot := j, pc := q.pc, op := .reg (32 + n), val := q.val } →
    ((s.core ck).pend = [p] → FMap.get 0 ((s.performDue ck).core ck).c n = p.val)
    ∧ ((s.core ck).pend = [p, q] ∨ (s.core ck).pend = [q, p] → FMap.get 0 ((s.performDue ck).core ck).c n = q.val))
  ∧ (∀ (s : State) (tk r n : Nat) (v : Word) (x : Vec),
    s.tReg tk 0 = 0 ∧ (s.setT tk 0 v).tReg tk 0 = 0
    ∧ (r ≠ 0 → (s.setT tk r v).tReg tk r = v) ∧ (n ≠ r → (s.setT tk r v).tReg tk n = s.tReg tk n)
    ∧ s.mReg tk 0 = BitVec.allOnes 64 ∧ (s.setM tk 0 v).mReg tk 0 = BitVec.allOnes 64
    ∧ (r ≠ 0 → (s.setM tk r v).mReg tk r = v) ∧ (n ≠ r → (s.setM tk r v).mReg tk n = s.mReg tk n)
    ∧ (s.setV tk r x).vReg tk r = x ∧ (n ≠ r → (s.setV tk r x).vReg tk n = s.vReg tk n)
    ∧ (s.setC (coreOf tk) r v).cReg tk r = v ∧ (n ≠ r → (s.setC (coreOf tk) r v).cReg tk n = s.cReg tk n))

/-- R96: with EXL 0, trap entry saves EPC, ECAUSE, EINFO and ESTATUS, sets PL and EXL and no other bit of STATUS, and goes to
TVEC; nothing else of the slot's registers, no other slot and no memory changes.
R97, R98, R316, R372: a synchronous cause with EXL 1 is a double trap: an optimistic slot is ripped without split, its piece at the head
of its list again, and a pinned slot leaves for its save area, and of both the service core hears with the nested flag; a service-core slot
halts and its core is contained, with its entry in the retirement log. The save area, and the move with `dbl` that fills it, are
the model's (log entry 13).
R97: with EXL 0 the oldest waiting cause of a ready or blocked slot that is not halted is taken, its EPC the head that would have
issued. -/
def Obligations.TrapEntrySavesAndVectors : Prop :=
  (∀ (s : State) (tk cause : Nat) (info epc : Word), (s.slot tk).exl = false →
    let x := s.slot tk
    let t := s.enterTrap tk cause info epc
    let y := t.slot tk
    y.sr.epc = epc ∧ y.sr.ecause = word cause ∧ y.sr.einfo = info ∧ y.sr.estatus = x.sr.status
      ∧ y.sr.status.getLsbD 0 = true ∧ y.sr.status.getLsbD 7 = true
      ∧ (∀ i, i ≠ 0 → i ≠ 7 → y.sr.status.getLsbD i = x.sr.status.getLsbD i)
      ∧ y.pc = x.sr.tvec
      ∧ ({ y.sr with epc := x.sr.epc, ecause := x.sr.ecause, einfo := x.sr.einfo, estatus := x.sr.estatus,
                         status := x.sr.status } : SysRegs) = x.sr
      ∧ y.t = x.t ∧ y.v = x.v ∧ y.m = x.m
      ∧ (∀ k, k ≠ tk → t.slot k = s.slot k) ∧ ({ t with slots := s.slots } : State) = s)
  ∧ (∀ (s : State) (tk cause : Nat) (info epc : Word), (s.slot tk).exl = true →
    let x := s.slot tk
    let t := s.enterTrap tk cause info epc
    let told (u : State) : State := u.service (s.pidOf tk) { kind := cause, nested := true, thread := s.relThread tk, info, w2 := epc }
    (x.kind = 3 → (t.slot tk).st = .halted ∧ (t.quad (quadOf tk)).contained = true
      ∧ t.panel.log = s.panel.log ++ [{ qi := quadOf tk, unit := tk / 8 % 4, retire := true, time := s.time0 }])
    ∧ (x.kind = 2 → t = told { s.updSlot tk fun y => { y with st := .moving, op := .none, pc := epc } with
         moves := s.moves ++ [{ thr := tk, issuer := none, addr := 0, restore := false, dbl := true }] })
    ∧ (x.kind = 1 → t = told (s.rip tk false) ∧ ((s.rip tk false).slot tk).st = .free
      ∧ ∀ hd, x.task.handle = some hd → (((s.rip tk false).quad (quadOf tk)).list (s.pidOf tk) x.task.prio).head? =
        some { handle := hd, piece := x.task.piece, since := (s.region (regionOf (quadOf tk))).cycle }))
  ∧ (∀ (s : State) (tk : Nat) (c : Cause) (rest : List Cause), tk < 73728 → (s.slot tk).exl = false → s.stopped tk = false →
    ((s.slot tk).st = .ready ∨ ∃ w, (s.slot tk).st = .blocked w) → (s.slot tk).op = .none → (s.slot tk).async = c :: rest →
    ∃ t, exec (.asyncTrapEntry tk) s = .next t ∧ (t.slot tk).async = rest ∧ (t.slot tk).pc = (s.slot tk).sr.tvec
      ∧ (t.slot tk).st = .ready ∧ (t.slot tk).sr.ecause = word c.code.toNat ∧ (t.slot tk).sr.einfo = c.info
      ∧ (t.slot tk).sr.epc = (s.slot tk).pc ∧ (t.slot tk).exl = true)

/-- R53, R106, R107, R380: TRAP and BRK take their causes with EPC the next head, an armed BRK halts its quad and leaves its slot at
the BRK (log entry 86), an illegal instruction takes 0x01 at its own PC, and ERET restores PC, PL and EXL; an odd EPC raises 0x04 with
EINFO the EPC (log entry 30). -/
def Obligations.TrapHeadsAndReturn : Prop :=
  ∀ (s : State) (n : BitVec 6) (head : BitVec 16) (rsv : Bool),
    exec (.trap n) s = .next (s.enterTrap s.cur 0x15 (n.setWidth 64) s.me.nextPc)
    ∧ (s.myQuad.brkArm = false → exec (.brk n) s = .next (s.enterTrap s.cur 0x14 (n.setWidth 64) s.me.nextPc))
    ∧ (s.myQuad.brkArm = true → exec (.brk n) s = .next (s.updMyQuad fun q => { q with halted := true }))
    ∧ exec (.illegalInstruction head rsv) s =
        .next (s.enterTrap s.cur 0x01 (word (head.toNat + if rsv then 2 ^ 16 else 0)) s.me.pc)
    ∧ (s.super = true → s.me.sr.epc.getLsbD 0 = false → ∃ t, exec .eret s = .next t ∧ t.me.pc = s.me.sr.epc
        ∧ t.me.sr.status.getLsbD 0 = s.me.sr.estatus.getLsbD 0 ∧ t.me.sr.status.getLsbD 7 = s.me.sr.estatus.getLsbD 7
        ∧ (∀ i, i ≠ 0 → i ≠ 7 → t.me.sr.status.getLsbD i = s.me.sr.status.getLsbD i)
        ∧ ({ t.me.sr with status := s.me.sr.status } : SysRegs) = s.me.sr ∧ t.me.t = s.me.t ∧ ({ t with slots := s.slots } : State) = s)
    ∧ (s.super = true → s.me.sr.epc.getLsbD 0 = true → exec .eret s = .next (s.enterTrap s.cur 0x04 s.me.sr.epc s.me.pc))
    ∧ (s.super = false → exec .eret s = .next (s.enterTrap s.cur 0x03 0x4900 s.me.pc))

/-- R55, R92, R96: a head of a supervisor-only major, and an access to a register that tasks may not read, raise 0x03 at task
level, before any other check of the head.
R91, R96, R312: with the level right, a head that names a register outside the allotment raises 0x17 in a pinned task before any port
is looked at, and rips an optimistic task, or ends it with the smallest-grain fault where it cannot be split.
R191, R209, R222: at task level each head that tasks may issue and that accesses memory raises 0x03 at an address of the system space:
of a copy an end, of a channel or message head of kind .a its element, of an indexed access an element. BARSET, SPILL and RESTOR are
supervisor-only, and PREF raises nothing (another statement).
The model's choices: a head's own list for 0x02 comes after that 0x03 (log entry 90 for barriers, records, full/empty words and WAITADDR,
log entry 108 for LTAB, WLOAD and GANG), and the allotment is looked at before any value of an operand (log entry 107).
R96, R107: STATUS.PL rises in no slot but where a trap is entered, a task is bound, a partition starts its service core, a slot's image
or another context's slot comes in its place, or the debugger writes it. -/
def Obligations.PrivilegedHeadsTrapAtTaskLevel : Prop :=
  (∀ (s : State) (d a b : Reg) (g : BitVec 5) (sr : BitVec 12) (imm : BitVec 22), s.super = false →
    let denied (i : Instr) (w : Nat) : Prop := exec i s = .next (s.enterTrap s.cur 0x03 (word w) s.me.pc)
    denied .eret 0x4900 ∧ (s.me.op = .none → denied (.spill d a b) (0x5240 + d.toNat) ∧ denied (.restor d a b) (0x5340 + d.toNat)
      ∧ denied (.barset g a) (0x7240 + g.toNat))
    ∧ denied (.placeSet imm) 0x6C80 ∧ denied (.placeGet d) (0x6C80 + d.toNat) ∧ denied (.placeClr a) 0x6C80
    ∧ (0x010 ≤ sr.toNat ∧ sr.toNat ≤ 0x014 →
        denied (.rdsr d sr) sr.toNat ∧ denied (.wrsr sr a) sr.toNat ∧ denied (.swsr d sr a) sr.toNat))
  ∧ (∀ (s : State) (d a b c : Reg) (u v x y : VReg) (m k : MReg) (imm : BitVec 22) (imm16 : BitVec 16) (imm48 : BitVec 48)
    (pos : BitVec 6) (len : BitVec 7) (o15 : BitVec 15) (far : BitVec 37) (idx g5 : BitVec 5) (off : BitVec 14) (o10 : BitVec 10)
    (o2 w : BitVec 2) (ch : BitVec 10) (len10 : BitVec 10) (g : BitVec 22) (sr : BitVec 12) (sz : Size) (cp : Cp) (sc : Scope) (op : AmoOp)
    (mo : MOrd) (wide hi : Bool) (r : Rnd) (ty : VTy) (nf : NFmt) (cc : Cond) (ofm : OFmt) (sel : IdSel) (dom : DomSel) (al : AllowSel)
    (gm : GeomSel) (ms : MsgSel) (cs : CpySel), s.me.op = .none →
    let out : State := if s.me.optimistic then (if s.splittable s.cur then s.rip s.cur true else s.smallestGrain s.cur 0)
      else s.enterTrap s.cur 0x17 0 s.me.pc
    let named (rows : List (Instr × List Reg × List VReg)) : Prop := ∀ row ∈ rows,
      ((row.2.1.any fun r => s.me.sr.outside r.toNat) || row.2.2.any fun v => s.me.sr.outside (v.toNat + 64)) = true →
      exec row.1 s = .next out
    named [
      (.add d a b, [d, a, b], []), (.sub d a b, [d, a, b], []), (.addw d a b, [d, a, b], []), (.subw d a b, [d, a, b], []),
      (.mul d a b, [d, a, b], []), (.mulw d a b, [d, a, b], []), (.mulh d a b, [d, a, b], []), (.mulhu d a b, [d, a, b], []),
      (.div d a b, [d, a, b], []), (.divu d a b, [d, a, b], []), (.rem d a b, [d, a, b], []), (.remu d a b, [d, a, b], []),
      (.and_ d a b, [d, a, b], []), (.or_ d a b, [d, a, b], []), (.xor d a b, [d, a, b], []), (.andn d a b, [d, a, b], []),
      (.orn d a b, [d, a, b], []), (.shl d a b, [d, a, b], []), (.shr d a b, [d, a, b], []), (.sra d a b, [d, a, b], []),
      (.rotl d a b, [d, a, b], []), (.rotr d a b, [d, a, b], []), (.min d a b, [d, a, b], []), (.max d a b, [d, a, b], []),
      (.minu d a b, [d, a, b], []), (.maxu d a b, [d, a, b], []), (.seq d a b, [d, a, b], []), (.sne d a b, [d, a, b], []),
      (.slt d a b, [d, a, b], []), (.sltu d a b, [d, a, b], []), (.addi d a imm, [d, a], []), (.andi d a imm, [d, a], []),
      (.ori d a imm, [d, a], []), (.xori d a imm, [d, a], []), (.slti d a imm, [d, a], []), (.shli d a imm, [d, a], []),
      (.shri d a imm, [d, a], []), (.srai d a imm, [d, a], []), (.clz d a, [d, a], []), (.ctz d a, [d, a], []),
      (.popc d a, [d, a], []), (.brev d a, [d, a], []), (.bswap d a, [d, a], []), (.mov d a, [d, a], []),
      (.sel d a b c, [d, a, b, c], []), (.ext d a pos len, [d, a], []), (.exts d a pos len, [d, a], []),
      (.ins d a pos len, [d, a], []), (.li d imm48, [d], []), (.lih d a imm16, [d, a], []), (.addpc d imm, [d], [])]
    ∧ named [
      (.beq a b o15 idx, [a, b], []), (.bne a b o15 idx, [a, b], []), (.blt a b o15 idx, [a, b], []),
      (.bge a b o15 idx, [a, b], []), (.bltu a b o15 idx, [a, b], []), (.bgeu a b o15 idx, [a, b], []),
      (.bz a o15 idx, [a], []), (.bzLong a far idx, [a], []), (.bnz a o15 idx, [a], []), (.bnzLong a far idx, [a], []),
      (.call d o15 idx, [d], []), (.callLong d far idx, [d], []), (.callr d a, [d, a], []), (.ret d, [d], []),
      (.jr d, [d], []), (.loop d o15 idx, [d], []), (.loopLong d far idx, [d], []), (.getid sel d, [d], []),
      (.wid d imm, [d], []), (.timeLoc d, [d], []), (.timeGlob d, [d], []), (.wake a, [a], []), (.salloc d a imm, [d, a], []),
      (.sfree a, [a], []), (.qlen d imm, [d], []), (.mpopc d m, [d], []), (.mfirst d m, [d], []), (.msetv m a, [a], []),
      (.mgetv d m, [d], []), (.domain dom d imm, [d], []), (.allow al d, [d], []), (.keyhome d a, [d, a], []),
      (.launch d a b, [d, a, b], []), (.spawn a b, [a, b], []), (.dec a, [a], []), (.tset a b, [a, b], []),
      (.geom gm d, [d], []), (.ltab a, [a], []), (.wload a b, [a, b], []), (.wloadSc a b, [a, b], []), (.gang a, [a], []),
      (.mdrain ofm r a b c, [a, b, c], []), (.mdrainPort ofm r b, [b], []), (.mread u g, [], [u]), (.sbtake d a, [d, a], [])]
    ∧ named [
      (.ld d a off sz w cp, [d, a], []), (.lds d a off sz w cp, [d, a], []), (.st a b off sz w cp, [a, b], []),
      (.ldg d a b off sz w cp, [d, a, b], []), (.stg d a b off sz w cp, [d, a, b], []), (.lda d a sz sc, [d, a], []),
      (.stl a b sz sc, [a, b], []), (.cflushLine a, [a], []), (.cinvLine a, [a], []), (.cinvIline a, [a], []),
      (.lde d a off w cp, [d, a], []), (.stf a b off w cp, [a, b], []), (.feinitEmpty a b, [a, b], []),
      (.feinitFull a b, [a, b], []), (.touchRd a, [a], []), (.touchWr a, [a], []), (.waitaddr d a b off w, [d, a, b], []),
      (.amo d a b op wide mo sc, [d, a, b], []), (.cas d a b c wide mo sc, [d, a, b, c], []),
      (.cas2 d a b c mo sc, [d, d + 1, a, b, b + 1, c, c + 1], []), (.red a b op wide mo sc, [a, b], []),
      (.tbinit a b, [a, b], []), (.tbexp a b, [a, b], []), (.tbwait a b, [a, b], []), (.tbarr d a, [d, a], []),
      (.tbtest d a b, [d, a, b], []), (.chlen d a ch, [d, a], []), (.chclose a ch, [a], []), (.chinv a ch, [a], []),
      (.chpush .s a b ch, [a, b], []), (.chpush .v a b ch, [a], [b.setWidth 5]), (.chpush .a a b ch, [a, b], []),
      (.chpop .s d a b ch, [d, a, b], []), (.chpop .v d a b ch, [d, a], [b.setWidth 5]), (.chpop .a d a b ch, [d, a, b], []),
      (.choffer .s d a b ch, [d, a, b], []), (.choffer .v d a b ch, [d, a], [b.setWidth 5]),
      (.choffer .a d a b ch, [d, a, b], []), (.chtake .s d a b ch, [d, a, b], []),
      (.chtake .v d a b ch, [d, a], [b.setWidth 5]), (.chtake .a d a b ch, [d, a, b], []),
      (.chpeek .s d a b ch, [d, a, b], []), (.chpeek .v d a b ch, [d, a], [b.setWidth 5]),
      (.chpeek .a d a b ch, [d, a, b], []), (.msend .s d a b c len10, [d, a, c, b], []), (.mrecv .s d b len10, [d, b], []),
      (.msend .v d a b c len10, [d, a, c], [b.setWidth 5]), (.mrecv .v d b len10, [d], [b.setWidth 5]),
      (.msend .a d a b c len10, [d, a, c, b], []), (.mrecv .a d b len10, [d, b], []), (.msgst ms d, [d], []),
      (.cpyst cs d, [d], []), (.cpyq d a, [d, a, a + 1, a + 2, a + 3], []), (.cpyqNb d a, [d, a, a + 1, a + 2, a + 3], []),
      (.cpyres d a, [d, a], []), (.cpyresNb d a, [d, a], [])]
    ∧ named [
      (.vadd u v x m r, [], [u, v, x]), (.vsub u v x m r, [], [u, v, x]), (.vmul u v x m r, [], [u, v, x]),
      (.vdiv u v x m r, [], [u, v, x]), (.vdadd u v x m r, [], [u, v, x]), (.vdmul u v x m r, [], [u, v, x]),
      (.vfma u v x y m r, [], [u, v, x, y]), (.vfms u v x y m r, [], [u, v, x, y]), (.vfnma u v x y m r, [], [u, v, x, y]),
      (.vdfma u v x y m r, [], [u, v, x, y]), (.vrcp u v m, [], [u, v]), (.vrsq u v m, [], [u, v]), (.vsqrt u v m, [], [u, v]),
      (.vexp2 u v m, [], [u, v]), (.vlog2 u v m, [], [u, v]), (.vtanh u v m, [], [u, v]), (.vmin u v x m ty, [], [u, v, x]),
      (.vmax u v x m ty, [], [u, v, x]), (.vand u v x m ty, [], [u, v, x]), (.vor u v x m ty, [], [u, v, x]),
      (.vxor u v x m ty, [], [u, v, x]), (.vshl u v x m ty, [], [u, v, x]), (.vshr u v x m ty, [], [u, v, x]),
      (.vsra u v x m ty, [], [u, v, x]), (.vsel u v x m ty, [], [u, v, x]), (.vperm u v x m ty, [], [u, v, x]),
      (.vabs u v m ty, [], [u, v]), (.vneg u v m ty, [], [u, v]), (.vclass u v m ty, [], [u, v]),
      (.vredmax u v m ty, [], [u, v]), (.vredmin u v m ty, [], [u, v]), (.vmov u v m ty, [], [u, v]),
      (.vround u v m ty r, [], [u, v]), (.vfcvti u v m ty r, [], [u, v]), (.vicvtf u v m ty r, [], [u, v]),
      (.vredadd u v m ty r, [], [u, v]), (.vscanadd u v m ty r, [], [u, v]), (.vscale u v x m ty r, [], [u, v, x]),
      (.viadd u v x m ty wide, [], [u, v, x]), (.visub u v x m ty wide, [], [u, v, x]),
      (.vimul u v x m ty wide hi, [], [u, v, x]), (.vimad u v x y m ty wide, [], [u, v, x, y]),
      (.vbcast u v m ty pos, [], [u, v]), (.vcvt u v m nf wide r, [], [u, v]), (.vquant u v x m nf r, [], [u, v, x]),
      (.vcmp k v x m ty cc, [], [v, x]), (.vsplat u a m ty, [a], [u]), (.viota u m ty, [], [u]),
      (.vextr d v b wide, [d, b], [v]), (.vinsr v a b wide, [a, b], [v]), (.vld v a off m w cp, [a], [v]),
      (.vst v a off m w cp, [a], [v]), (.vlds v a b m o10, [a, b], [v]), (.vsts v a b m o10, [a, b], [v]),
      (.vgath v a x m o2, [a], [v, x]), (.vscat v a x m o2, [a], [v, x])]
    ∧ (s.super = true → named [
      (.rdsr d sr, [d], []), (.wrsr sr a, [a], []), (.swsr d sr a, [d, a], []), (.spill d a b, [d, a, b], []),
      (.restor d a b, [d, a, b], []), (.barset g5 a, [a], []), (.placeGet d, [d], []), (.placeClr a, [a], [])]))
  ∧ (∀ (s : State) (d a b c : Reg) (v ix : VReg) (off : BitVec 14) (o : BitVec 10) (o2 w : BitVec 2) (sz : Size) (cp : Cp) (sc : Scope)
    (op : AmoOp) (mo : MOrd) (wide : Bool) (ofm : OFmt) (r : Rnd), s.super = false → s.me.op = .none → s.me.optimistic = false →
    let n := sizeBytes sz
    let x := s.operand a
    let at_ (n : Nat) : Word := addrOff x off n
    let step := x + sext o * 32#64
    let denied (rows : List (Instr × Use × Word × BitVec 2)) : Prop := ∀ row ∈ rows, mayIssue row.2.1 s = true →
      (s.popPorts row.2.1.rd).mayGo row.2.2.2 row.2.2.1 = true → space row.2.2.1 = 15 → mustBeZero row.2.2.1 = true →
      exec row.1 s = .next (s.enterTrap s.cur 0x03 row.2.2.1 s.me.pc)
    denied [(.ld d a off sz w cp, { rd := [a], wr := [d] }, at_ n, w), (.lds d a off sz w cp, { rd := [a], wr := [d] }, at_ n, w),
      (.ldg d a b off sz w cp, { rd := [a, b], wr := [d] }, addrIdx x (s.operand b) off n, w), (.lda d a sz sc, { rd := [a], wr := [d] }, x, 0),
      (.st a b off sz w cp, { rd := [a, b] }, at_ n, w), (.stg d a b off sz w cp, { rd := [d, a, b] }, addrIdx x (s.operand b) off n, w),
      (.stl a b sz sc, { rd := [a, b] }, x, 0), (.lde d a off w cp, { rd := [a], wr := [d] }, at_ 8, w),
      (.stf a b off w cp, { rd := [a, b] }, at_ 8, w), (.feinitEmpty a b, { rd := [a, b] }, x, 0), (.feinitFull a b, { rd := [a, b] }, x, 0),
      (.touchRd a, { rd := [a] }, x, 0), (.touchWr a, { rd := [a] }, x, 0), (.waitaddr d a b off w, { rd := [a, b], wr := [d] }, at_ 8, w),
      (.cflushLine a, { rd := [a] }, x, 0), (.cinvLine a, { rd := [a] }, x, 0), (.cinvIline a, { rd := [a] }, x, 0)]
    ∧ denied [(.amo d a b op wide mo sc, { rd := [a, b], wr := [d] }, x, 0), (.cas d a b c wide mo sc, { rd := [a, b, c], wr := [d] }, x, 0),
      (.cas2 d a b c mo sc, { rd := [a, b, b + 1, c, c + 1], wr := [d, d + 1] }, x, 0), (.red a b op wide mo sc, { rd := [a, b] }, x, 0),
      (.tbinit a b, { rd := [a, b] }, x, 0), (.tbexp a b, { rd := [a, b] }, x, 0), (.tbarr d a, { rd := [a], wr := [d] }, x, 0),
      (.tbwait a b, { rd := [a, b] }, x, 0), (.tbtest d a b, { rd := [a, b], wr := [d] }, x, 0), (.dec a, { rd := [a] }, x, 0),
      (.tset a b, { rd := [a, b] }, x, 0), (.launch d a b, { rd := [a, b], wr := [d] }, x, 0), (.spawn a b, { rd := [a, b] }, x, 0),
      (.ltab a, { rd := [a] }, x, 0), (.wload a b, { rd := [a, b] }, x, 0), (.wloadSc a b, { rd := [a, b] }, x, 0), (.gang a, { rd := [a] }, x, 0),
      (.vld v a off 0 w cp, { rd := [a], vs := [v], ms := [0] }, at_ 32, w), (.vst v a off 0 w cp, { rd := [a], vs := [v], ms := [0] }, at_ 32, w),
      (.vlds v a b 0 o, { rd := [a, b], vs := [v], ms := [0] }, step, 0), (.vsts v a b 0 o, { rd := [a, b], vs := [v], ms := [0] }, step, 0)]
    ∧ (drainBad (s.operand b) = false → denied [(.mdrain ofm r a b c, { rd := [a, b, c] }, x, 0)]))
  ∧ (∀ (s : State) (d a b c : Reg) (v ix : VReg) (o2 : BitVec 2) (ch len10 : BitVec 10), s.super = false → s.me.optimistic = false →
    let x := s.operand a
    let y := s.operand b
    let denied (use : Use) (info : Word) (rows : List Instr) : Prop := mayIssue use s = true → space info = 15 → mustBeZero info = true →
      ∀ i ∈ rows, exec i s = .next (s.enterTrap s.cur 0x03 info s.me.pc)
    let four : Use := { rd := [a, a + 1, a + 2, a + 3], wr := [d] }
    let cw : CopyWords := { w0 := x, w1 := s.operand (a + 1), w2 := s.operand (a + 2), w3 := s.operand (a + 3) }
    let t := s.popPorts four.rd
    let cached (e : ChanEnt) : Prop := chanId x ch < s.myPart.chanCount ∧ s.chanAt (quadOf s.cur) s.myPid (chanId x ch) = some e ∧ e.valid = true
    denied { rd := [a], wr := [d] } x [.cpyres d a, .cpyresNb d a]
    ∧ (t.shapeCheck cw = none → (cw.shp && t.owned (t.localKey t.cur (offset cw.shape)) 32) = false → copyBad cw (t.shapeWord t.cur cw) (t.copyOf t.cur cw) = false → denied four cw.w0 [.cpyq d a, .cpyqNb d a]
      ∧ (spaceCheck false cw.w0 = none → denied four cw.w1 [.cpyq d a, .cpyqNb d a]))
    ∧ ((s.popPorts [a]).mayGo 0 x = true → denied { rd := [a], vs := [v, ix], ms := [0] } (indexed x (s.vReg s.cur ix.toNat) o2 0)
      [.vgath v a ix 0 o2, .vscat v a ix 0 o2])
    ∧ (∀ e, cached e → e.writer = s.relThread s.cur → denied { rd := [a, b] } y [.chpush .a a b ch]
      ∧ denied { rd := [a, b], wr := [d] } y [.choffer .a d a b ch])
    ∧ (∀ e, cached e → e.reader = s.relThread s.cur → denied { rd := [a, b], wr := [d] } y [.chpop .a d a b ch, .chtake .a d a b ch,
      .chpeek .a d a b ch])
    ∧ ((s.popPorts [a, c, b]).msgCheck x 0 = none → denied { rd := [a, c, b], wr := [d] } y [.msend .a d a b c len10])
    ∧ denied { rd := [b], wr := [d] } y [.mrecv .a d b len10])
  ∧ (∀ (i : Instr) (s t : State) (tk : Nat), exec i s = .next t →
    (s.slot tk).sr.status.getLsbD 0 = false → (t.slot tk).sr.status.getLsbD 0 = true →
    ((s.slot tk).exl = false ∧ (t.slot tk).exl = true ∧ (t.slot tk).pc = (s.slot tk).sr.tvec)
    ∨ (∃ n, i = .taskBind n ∨ i = .contextSwap n ∨ i = .mapSwitch n) ∨ (∃ c, i = .partitionCreate c) ∨ i = .restoreComplete tk ∨ i = .bastedSlotResume tk
    ∨ ∃ v ws rs, i = .debugSlotStart tk v ws rs)

/-- R93, R108: RDSR gives the register's value; WRSR writes in its write cycle, k + 3, and has no effect where the level may only
read; SWSR does both; an undefined number raises 0x02; at task level so far as tasks may read the register, and may write it.
R84, R93: in that cycle the register takes the value, and SWSR's destination what the register held until then.
R94, R122, R168, R194, R268, R309, R358, R368, R382: the registers read back what was written, with reserved bits zero; of STATUS a
write changes EXL alone; RNGSEED keeps 1 for 0; a bit of DROOPST is cleared by writing 1; EN of BASTECFG stays 0 in a one-quad partition,
and a write of EN 0 takes effect only once the slot's STC.S and STC.P are zero (R370). -/
def Obligations.SystemRegisterAccess : Prop :=
  (∀ (s : State) (d a : Reg) (sr : BitVec 12), s.mayPut d = true →
    mayIssue { rd := [a], wr := [d], seed := srSeed sr.toNat } s = true →
    let t := s.popPorts [a]
    let writes (acc : SrAccess) : Bool := if s.super then acc.superWrite else acc.taskWrite
    (srAccess sr.toNat = none → exec (.rdsr d sr) s = .next (s.enterTrap s.cur 0x02 (word sr.toNat) s.me.pc)
        ∧ exec (.wrsr sr a) s = .next (s.enterTrap s.cur 0x02 (word sr.toNat) s.me.pc)
        ∧ exec (.swsr d sr a) s = .next (s.enterTrap s.cur 0x02 (word sr.toNat) s.me.pc))
    ∧ (∀ acc, srAccess sr.toNat = some acc → s.super = true ∨ acc.taskRead = true →
        exec (.rdsr d sr) s = .next (s.wrote [] d (s.srValue s.cur sr.toNat) 3)
        ∧ (writes acc = false → exec (.wrsr sr a) s = .next t.passed
            ∧ exec (.swsr d sr a) s = .next (s.wrote [a] d (t.srValue s.cur sr.toNat) 3))
        ∧ (writes acc = true →
            exec (.wrsr sr a) s = .next (t.pendOp (.sys sr.toNat none) (s.operand a)).passed
            ∧ exec (.swsr d sr a) s = .next (t.pendOp (.sys sr.toNat (some d.toNat)) (s.operand a)).passed)))
  ∧ (∀ (s : State) (ck n i r : Nat) (v : Word) (p q : Pend), i < 8 → 0 < r → r < 32 → (s.core ck).vq = [] →
    p = { due := (s.core ck).cycle, slot := i, pc := p.pc, op := .sys n none, val := v } →
    q = { due := (s.core ck).cycle, slot := i, pc := q.pc, op := .sys n (some r), val := v } →
    let u := s.updCore ck fun c => { c with pend := [] }
    ((s.core ck).pend = [p] → s.performDue ck = u.srSet (ck * 8 + i) n v)
    ∧ ((s.core ck).pend = [q] → s.performDue ck = (u.srSet (ck * 8 + i) n v).landReg (ck * 8 + i) r (u.srValue (ck * 8 + i) n) q.pc))
  ∧ (∀ (s : State) (tk : Nat) (v : Word),
    (s.srSet tk 0x010 v).srValue tk 0x010 = v &&& ~~~1#64
    ∧ (s.srSet tk 0x011 v).srValue tk 0x011 = v ∧ (s.srSet tk 0x012 v).srValue tk 0x012 = v &&& 0xFF#64
    ∧ (s.srSet tk 0x013 v).srValue tk 0x013 = v ∧ (s.srSet tk 0x014 v).srValue tk 0x014 = v
    ∧ (∀ i, ((s.srSet tk 0x015 v).srValue tk 0x015).getLsbD i = if i = 7 then v.getLsbD 7 else (s.srValue tk 0x015).getLsbD i)
    ∧ (s.srSet tk 0x020 v).srValue tk 0x020 = v &&& 0x0001FFFFFFFFFFFF#64
    ∧ (s.srSet tk 0x021 v).srValue tk 0x021 = v &&& 0x11F3F#64
    ∧ (s.srSet tk 0x022 v).srValue tk 0x022 = v &&& 0x01FFFFFFFFFFFFFF#64
    ∧ (s.srSet tk 0x030 v).srValue tk 0x030 = v &&& 0x000000010FFF0FFF#64
    ∧ (s.srSet tk 0x031 v).srValue tk 0x031 = v &&& 0x000000000FFF0FFF#64
    ∧ (s.srSet tk 0x032 v).srValue tk 0x032 = v &&& 0x7FFFFFFFFFFFFFFF#64
    ∧ (s.srSet tk 0x033 v).srValue tk 0x033 = v &&& 0x7FFFFFFFFFFFFFFF#64
    ∧ (s.srSet tk 0x040 v).srValue tk 0x040 = v &&& 0xF#64
    ∧ (s.srSet tk 0x0A0 v).srValue tk 0x0A0 = v &&& ~~~0x3F#64
    ∧ (s.srSet tk 0x0C1 v).srValue tk 0x0C1 = s.srValue tk 0x0C1 &&& ~~~(v &&& 2#64)
    ∧ (s.srSet tk 0x0D0 v).srValue tk 0x0D0 = v &&& 0xFFFFFF#64
    ∧ (v.getLsbD 63 = true → (s.srSet tk 0x090 v).srValue tk 0x090 =
        if ((s.part (s.pidOf tk)).guardQuad (s.pOf tk)).isSome then v &&& 0x80FFFFFFFFFFF000#64 else v &&& 0x00FFFFFFFFFFF000#64)
    ∧ (v.getLsbD 63 = false → (s.srSet tk 0x090 v).srValue tk 0x090 =
        if (s.slot tk).bst = true ∧ ((s.slot tk).cnt.stcS ≠ 0 ∨ (s.slot tk).cnt.stcP ≠ 0) then s.srValue tk 0x090 else v &&& 0x00FFFFFFFFFFF000#64)
    ∧ (s.srSet tk 0x041 v).srValue tk 0x041 = (if v.setWidth 32 = 0#32 then 1#64 else (v.setWidth 32).setWidth 64)
    ∧ (∀ n < 8, (s.srSet tk (0x050 + n) v).srValue tk (0x050 + n) = v &&& 0xF0FFFFE0#64
        ∧ (s.srSet tk (0x058 + n) v).srValue tk (0x058 + n) = v &&& 0x01FFFFE0#64))

/-- R21, R109: GETID, WID and TIME give the slot's names, a field of its work identifier, and the region's time.
R113 to R115: SALLOC takes from the allotment and SFREE gives back; QMAP and QCLEAR act in their write cycle; QLEN counts. -/
def Obligations.IdentitiesAndTime : Prop :=
  (∀ (s : State) (d : Reg) (n : BitVec 22), mayIssue { wr := [d] } s = true → s.mayPut d = true →
    let q := s.logicalQuad (quadOf s.cur)
    exec (.getid .thr d) s = .next (s.wrote [] d (word (q * 32 + s.cur % 32)) 3)
    ∧ exec (.getid .pthr d) s = .next (s.wrote [] d (word (s.pOf s.cur * 32 + s.cur % 32)) 3)
    ∧ exec (.getid .gca d) s = .next (s.wrote [] d (word (s.panel.number * 8192 + q * 4 + s.cur / 8 % 4)) 3)
    ∧ exec (.getid .quad d) s = .next (s.wrote [] d (word q) 3)
    ∧ exec (.getid .pquad d) s = .next (s.wrote [] d (word (s.pOf s.cur)) 3)
    ∧ exec (.getid .part d) s = .next (s.wrote [] d (word s.myPid) 3)
    ∧ exec (.getid .panel d) s = .next (s.wrote [] d (word s.panel.number) 3)
    ∧ exec (.getid .size d) s = .next (s.wrote [] d (word (s.myPart.w + s.myPart.h * 128)) 3)
    ∧ exec (.wid d n) s = .next (s.wrote [] d (if n.toNat < hdrNf (s.taskHdr s.cur) then
        word (hdrField (s.taskHdr s.cur) s.me.task.wid n.toNat) else 0) 3)
    ∧ exec (.timeLoc d) s = .next (s.wrote [] d (s.region (s.cur / 32 / 72 / 2)).tcnt 3)
    ∧ exec (.timeGlob d) s = .next (s.wrote [] d ((s.region (s.cur / 32 / 72 / 2)).tcnt + (s.region (s.cur / 32 / 72 / 2)).tofs) 3))
  ∧ (∀ (s : State) (d a : Reg) (imm : BitVec 22) (q : BitVec 2) (w r : BitVec 3), s.mayPut d = true →
    let sp := s.me.sr.spallot
    let units := ((s.operand a).toNat + imm.toNat + 63) / 64
    let n := (s.operand a).toNat
    let top (t : State) (k : Nat) : State := t.updMe fun x => x.updSr fun r => { r with spallot := setFld sp 38 19 k }
    (mayIssue { rd := [a], wr := [d] } s = true → saOk sp = true → saTop sp + units ≤ saLimit sp →
      exec (.salloc d a imm) s =
        .next ((top (s.popPorts [a]) (saTop sp + units)).writeReg s.cur d (word (saTop sp * 64)) 3).passed)
    ∧ (mayIssue { rd := [a] } s = true → n % 64 = 0 → n < 2 ^ 24 → saBase sp * 64 ≤ n → n ≤ saTop sp * 64 →
      exec (.sfree a) s = .next (top (s.popPorts [a]) (n / 64)).passed)
    ∧ exec (.qmap q w r) s = .next (s.pendOp (.qmap q.toNat w.toNat r.toNat) 0).passed
    ∧ exec (.qclear q) s = .next (s.pendOp (.qclear q.toNat) 0).passed
    ∧ (mayIssue { wr := [d] } s = true → exec (.qlen d imm) s = .next (s.wrote [] d
        (word (if (s.myCore.queue imm.toNat).bound.isSome then (s.myCore.queue imm.toNat).ents.length else 0)) 3)))

/-! ## Vector heads -/

/-- R118 to R120, R134 to R137: each floating head, once the core's queue has room, enters it with its lanes, each the exact
result of the same lanes of the sources rounded once, and its beats and latency; the lanes of VEXP2, VLOG2 and VTANH are the model's
enclosure of the exact value, a free value where the enclosure does not decide the rounding (log entry 33, the model's choice).
R136: the special values of the six functions. -/
def Obligations.FloatingVectorResults : Prop :=
  (∀ (s : State) (d a b c : VReg) (m : MReg) (r : Rnd),
    ∀ row ∈ ([(.vadd d a b m r, [a, b], 32, (1, 4), fun g => fp32.encode r 0 (fadd r (fp32.decode (g a)) (fp32.decode (g b)))),
      (.vsub d a b m r, [a, b], 32, (1, 4), fun g => fp32.encode r 0 (fsub r (fp32.decode (g a)) (fp32.decode (g b)))),
      (.vmul d a b m r, [a, b], 32, (1, 4), fun g => fp32.encode r 0 (fmul (fp32.decode (g a)) (fp32.decode (g b)))),
      (.vdiv d a b m r, [a, b], 32, (4, 12), fun g => fp32.encode r 0 (fdiv (fp32.decode (g a)) (fp32.decode (g b)))),
      (.vfma d a b c m r, [a, b, c], 32, (1, 4), fun g =>
        fp32.encode r 0 (ffma r (fp32.decode (g a)) (fp32.decode (g b)) (fp32.decode (g c)))),
      (.vfms d a b c m r, [a, b, c], 32, (1, 4), fun g =>
        fp32.encode r 0 (ffms r (fp32.decode (g a)) (fp32.decode (g b)) (fp32.decode (g c)))),
      (.vfnma d a b c m r, [a, b, c], 32, (1, 4), fun g =>
        fp32.encode r 0 (ffnma r (fp32.decode (g a)) (fp32.decode (g b)) (fp32.decode (g c)))),
      (.vdadd d a b m r, [a, b], 64, (2, 6), fun g => fp64.encode r 0 (fadd r (fp64.decode (g a)) (fp64.decode (g b)))),
      (.vdmul d a b m r, [a, b], 64, (2, 6), fun g => fp64.encode r 0 (fmul (fp64.decode (g a)) (fp64.decode (g b)))),
      (.vdfma d a b c m r, [a, b, c], 64, (2, 6), fun g =>
        fp64.encode r 0 (ffma r (fp64.decode (g a)) (fp64.decode (g b)) (fp64.decode (g c)))),
      (.vrcp d a m, [a], 32, (2, 8), fun g => fp32.encode .rne 0 (fdiv (.fin false 1 0) (fp32.decode (g a)))),
      (.vrsq d a m, [a], 32, (2, 8), fun g => fp32.encode .rne 0 (frsqrt (fp32.decode (g a)))),
      (.vexp2 d a m, [a], 32, (2, 8), fun g => vexp2 (g a)), (.vlog2 d a m, [a], 32, (2, 8), fun g => vlog2 (g a)),
      (.vtanh d a m, [a], 32, (2, 8), fun g => vtanh (g a)), (.vsqrt d a m, [a], 32, (4, 12), fun g => fp32.encode .rne 0 (fsqrt (fp32.decode (g a)))),
      (.vscale d a b m .f32 r, [a, b], 32, (1, 4), fun g => fp32.encode r 0 (fscale (fp32.decode (g a)) (sval 32 (g b)))),
      (.vscale d a b m .f64 r, [a, b], 64, (2, 6), fun g => fp64.encode r 0 (fscale (fp64.decode (g a)) (sval 64 (g b))))]
      : List (Instr × List VReg × Nat × (Nat × Nat) × ((VReg → Nat) → Nat))),
    mayIssue { vs := d :: row.2.1, ms := [m] } s = true → s.myCore.vqUsed < 8 →
    exec row.1 s = .next (s.entered [] (s.lanesTo d m row.2.2.1 (2048 / row.2.2.1) fun i =>
      row.2.2.2.2 fun x => laneAt (s.vReg s.cur x.toNat) row.2.2.1 i) none row.2.2.2.1))
  ∧ (let rcp (c : Nat) : Nat := fp32.encode .rne 0 (fdiv (.fin false 1 0) (fp32.decode c))
    let rsq (c : Nat) : Nat := fp32.encode .rne 0 (frsqrt (fp32.decode c))
    let sqrt (c : Nat) : Nat := fp32.encode .rne 0 (fsqrt (fp32.decode c))
    (∀ c < 2 ^ 32, 0x7F800000 < c % 2 ^ 31 → ∀ f ∈ [rcp, rsq, sqrt, vexp2, vlog2, vtanh], f c = c ||| 0x400000)
    ∧ (∀ e ∈ ([(rcp, 0, 0x7F800000), (rcp, 0x80000000, 0xFF800000), (rcp, 0x7F800000, 0), (rcp, 0xFF800000, 0x80000000),
        (rsq, 0, 0x7F800000), (rsq, 0x80000000, 0xFF800000), (rsq, 0x7F800000, 0), (sqrt, 0, 0), (sqrt, 0x80000000, 0x80000000),
        (sqrt, 0x7F800000, 0x7F800000), (vexp2, 0xFF800000, 0), (vexp2, 0x7F800000, 0x7F800000), (vexp2, 0, 0x3F800000),
        (vexp2, 0x80000000, 0x3F800000), (vexp2, 0x43000000, 0x7F800000), (vlog2, 0, 0xFF800000), (vlog2, 0x80000000, 0xFF800000),
        (vlog2, 0x3F800000, 0), (vlog2, 0x7F800000, 0x7F800000), (vtanh, 0, 0), (vtanh, 0x80000000, 0x80000000),
        (vtanh, 0x7F800000, 0x3F800000), (vtanh, 0xFF800000, 0xBF800000)] : List ((Nat → Nat) × Nat × Nat)), e.1 e.2.1 = e.2.2)
    ∧ (∀ c, 0x80000001 ≤ c → c ≤ 0xFF800000 → rsq c = 0x7FC00000 ∧ sqrt c = 0x7FC00000 ∧ vlog2 c = 0x7FC00000)
    ∧ ∀ c, 0x43800000 ≤ c → c ≤ 0x7F800000 → vexp2 c = 0x7F800000)

/-- R129: a code of a narrow format, converted to FP32 and back with .rne, is the same code, but that a signalling BF16 or FP16
NaN comes back quiet; and the same of FP32 through FP64. -/
def Obligations.ConversionRoundTrips : Prop :=
  (∀ c < 2 ^ 8, convert fp32 e4m3 .rne 0 (convert e4m3 fp32 .rne 0 c) = c)
  ∧ (∀ c < 2 ^ 8, convert fp32 e5m2 .rne 0 (convert e5m2 fp32 .rne 0 c) = c)
  ∧ (∀ c < 2 ^ 16, convert fp32 bf16 .rne 0 (convert bf16 fp32 .rne 0 c) =
      if 0x7F80 < c % 2 ^ 15 ∧ c / 2 ^ 6 % 2 = 0 then c + 2 ^ 6 else c)
  ∧ (∀ c < 2 ^ 16, convert fp32 fp16 .rne 0 (convert fp16 fp32 .rne 0 c) =
      if 0x7C00 < c % 2 ^ 15 ∧ c / 2 ^ 9 % 2 = 0 then c + 2 ^ 9 else c)
  ∧ (∀ c < 2 ^ 32, convert fp64 fp32 .rne 0 (convert fp32 fp64 .rne 0 c) =
      if 0x7F800000 < c % 2 ^ 31 ∧ c / 2 ^ 22 % 2 = 0 then c + 2 ^ 22 else c)

/-- R66, R118 to R120, R135, R137, R140, R141, R144, R145, R148: each typed lanewise head enters the queue with its lanes. -/
def Obligations.TypedVectorResults : Prop :=
  ∀ (s : State) (d a b c : VReg) (m : MReg) (r : Rnd) (ty : VTy) (sat : Bool),
    let n := ty.lanes
    let w := 2048 / n
    let z (v : Nat) : Int := if ty = .i32 ∨ ty = .i64 then sval w v else v
    let fmt : Fmt := if n = 64 then fp32 else fp64
    let out (v : Int) : Nat := if sat then (if ty = .i32 ∨ ty = .i64 then satS w v else satU w v) else wrap w v
    ∀ row ∈ ([(.vmin d a b m ty, [a, b], fun g => laneMin ty (g a) (g b)), (.vmax d a b m ty, [a, b], fun g => laneMax ty (g a) (g b)),
      (.vabs d a m ty, [a], fun g => if ty = .f32 ∨ ty = .f64 then g a % 2 ^ 31 else (z (g a)).natAbs % 2 ^ 32),
      (.vneg d a m ty, [a], fun g => if ty = .f32 ∨ ty = .f64 then (g a) ^^^ 2 ^ 31 else wrap 32 (-z (g a))),
      (.viadd d a b m ty sat, [a, b], fun g => out (z (g a) + z (g b))),
      (.visub d a b m ty sat, [a, b], fun g => out (z (g a) - z (g b))),
      (.vimul d a b m ty sat false, [a, b], fun g => out (z (g a) * z (g b))),
      (.vimul d a b m ty sat true, [a, b], fun g => out (z (g a) * z (g b) / (2 ^ w : Nat))),
      (.vimad d a b c m ty sat, [a, b, c], fun g => out (z (g a) * z (g b) + z (g c))),
      (.vand d a b m ty, [a, b], fun g => g a &&& g b), (.vor d a b m ty, [a, b], fun g => g a ||| g b),
      (.vxor d a b m ty, [a, b], fun g => g a ^^^ g b), (.vshl d a b m ty, [a, b], fun g => g a * 2 ^ (g b % w)),
      (.vshr d a b m ty, [a, b], fun g => g a / 2 ^ (g b % w)),
      (.vsra d a b m ty, [a, b], fun g => wrap w (sval w (g a) / (2 ^ (g b % w) : Nat))),
      (.vclass d a m ty, [a], fun g => 2 ^ classBit fmt (g a)),
      (.vround d a m ty r, [a], fun g => match fmt.decode (g a) with
        | .fin s m e => fmt.encode .rne 0 (if 0 ≤ e then .fin s m e else .fin s (roundInt r 0 s m e).natAbs 0)
        | v => fmt.encode r 0 v),
      (.vfcvti d a m ty r, [a], fun g => toIntLane (ty = .i32 ∨ ty = .i64) w r 0 (fmt.decode (g a))),
      (.vicvtf d a m ty r, [a], fun g => fmt.encode r 0 (.fin (z (g a) < 0) (z (g a)).natAbs 0)),
      (.vmov d a m ty, [a], fun g => g a)]
      : List (Instr × List VReg × ((VReg → Nat) → Nat))),
    mayIssue { vs := d :: row.2.1, ms := [m] } s = true → s.myCore.vqUsed < 8 →
    exec row.1 s = .next (s.entered [] (s.lanesTo d m w n fun i =>
      row.2.2 fun x => laneAt (s.vReg s.cur x.toNat) w i) none (if n = 64 then (1, 4) else (2, 6)))

/-- R127, R142, R143: VCVT and VQUANT enter the queue with each active element converted; under .rsr each takes the next draw
of RNGSEED, in ascending order, and the seed after the last is stored with the result. -/
def Obligations.ConversionResults : Prop :=
  ∀ (s : State) (d a b : VReg) (m : MReg) (r : Rnd) (fmt : NFmt),
    let mk := s.mReg s.cur m.toNat
    let n := if fmt = .fp64 then 32 else 64
    let f := (nfmtFloat fmt).getD fp32
    let dr := draws mk (List.range n) s.me.sr.rngseed
    let at_ (i : Nat) : Nat := if r = .rsr then dr.1.getD i 0 else 0
    let seed := if r = .rsr then some (if dr.2 = 0 then 1 else dr.2) else none
    let time := if fmt = .fp64 then (2, 6) else (1, 4)
    s.myCore.vqUsed < 8 →
    (mayIssue { vs := [d, a], ms := [m], seed := r == .rsr } s = true →
      exec (.vcvt d a m fmt true r) s = .next (s.entered [] (s.lanesTo d m 32 n fun i =>
        convert f fp32 r (at_ i) (laneAt (s.vReg s.cur a.toNat) (nfmtBits fmt) i)) seed time)
      ∧ exec (.vcvt d a m fmt false r) s = .next (s.entered [] (s.lanesTo d m (nfmtBits fmt) n fun i =>
        convert fp32 f r (at_ i) (laneAt (s.vReg s.cur a.toNat) 32 i)) seed time))
    ∧ (fmt ≠ .fp64 → mayIssue { vs := [d, a, b], ms := [m], seed := r == .rsr } s = true →
      exec (.vquant d a b m fmt r) s = .next (s.entered [] (s.lanesTo d m (nfmtBits fmt) 64 fun i =>
        quantElem fmt r (at_ i) (laneAt (s.vReg s.cur a.toNat) 32 i) (laneAt (s.vReg s.cur b.toNat) 8 (i / 32))) seed (1, 4)))

/-- R138, R139, R146 to R149: comparisons, selections, reductions, scans, permutations and scalar moves enter the queue with
their results; a reduction and a selection write every lane.
R149: a lane number outside the register raises ECAUSE 0x02 with EINFO the number. -/
def Obligations.CrossLaneResults : Prop :=
  (∀ (s : State) (d a b : VReg) (e m : MReg) (x y : Reg) (ty : VTy) (r : Rnd) (cc : Cond) (j : BitVec 6) (wide : Bool),
    let n := ty.lanes
    let w := 2048 / n
    let lane (v : VReg) (i : Nat) : Nat := laneAt (s.vReg s.cur v.toNat) w i
    let mk := s.mReg s.cur m.toNat
    let simple := if n = 64 then (1, 4) else (2, 6)
    let cross := if n = 64 then (1, 10) else (2, 10)
    let active : List (Option Nat) := (List.range n).map fun i => if mk.getLsbD i then some (lane a i) else none
    let red (kind : Nat) (op : Nat → Nat → Nat) : State :=
      s.entered [] (s.lanesTo d 0 w n fun _ => (tree op (Nat.log2 n) active).getD (redIdentity ty kind)) none cross
    let k := if wide then 64 else 32
    let ins := lanesOut k (2048 / k) (1#64 <<< (s.operand y).toNat) fun _ => (s.operand x).toNat
    s.myCore.vqUsed < 8 →
    (mayIssue { vs := [a, b], ms := [e, m] } s = true → exec (.vcmp e a b m ty cc) s =
      .next (s.entered [] (.mask e.toNat (word (packLanes 1 ((List.range n).map fun i => bit
        (if mk.getLsbD i then laneCond ty cc (lane a i) (lane b i) else (s.mReg s.cur e.toNat).getLsbD i))))) none simple))
    ∧ (mayIssue { vs := [d, a, b], ms := [m] } s = true →
      exec (.vsel d a b m ty) s = .next (s.entered [] (s.lanesTo d 0 w n fun i => lane (if mk.getLsbD i then a else b) i) none simple)
      ∧ exec (.vperm d a b m ty) s =
        .next (s.entered [] (s.lanesTo d m w n fun i => lane a (laneAt (s.vReg s.cur b.toNat) 32 i % n)) none cross))
    ∧ (mayIssue { vs := [d, a], ms := [m] } s = true →
      exec (.vredadd d a m ty r) s = .next (red 0 (laneAdd ty r)) ∧ exec (.vredmax d a m ty) s = .next (red 1 (laneMax ty))
      ∧ exec (.vredmin d a m ty) s = .next (red 2 (laneMin ty))
      ∧ (n = 64 → exec (.vscanadd d a m ty r) s =
        .next (s.entered [] (s.lanesTo d m 32 64 fun i => (prefixes (laneAdd ty r) none active).getD i 0) none (1, 10)))
      ∧ exec (.vbcast d a m ty j) s = .next (s.entered [] (s.lanesTo d m w n fun _ => lane a j.toNat) none cross))
    ∧ (mayIssue { rd := [x], vs := [d], ms := [m] } s = true →
      exec (.vsplat d x m ty) s = .next (s.entered [x] (s.lanesTo d m w n fun _ => (s.operand x).toNat) none simple))
    ∧ (mayIssue { vs := [d], ms := [m] } s = true →
      exec (.viota d m ty) s = .next (s.entered [] (s.lanesTo d m w n fun i => i) none simple))
    ∧ (mayIssue { rd := [y], wr := [x], vs := [a] } s = true → s.mayPut x = true → (s.operand y).toNat < 2048 / k →
      exec (.vextr x a y wide) s = .next (s.entered [y] (.scal x.toNat
        (word (laneAt (s.vReg s.cur a.toNat) k (s.operand y).toNat))) none (if wide then (2, 10) else (1, 10))))
    ∧ (mayIssue { rd := [x, y], vs := [d] } s = true → (s.operand y).toNat < 2048 / k →
      exec (.vinsr d x y wide) s = .next (s.entered [x, y] (.vec d.toNat ins.1 ins.2) none (if wide then (2, 6) else (1, 4)))))
  ∧ (∀ (s : State) (d : VReg) (x y : Reg) (wide : Bool), s.myCore.vqUsed < 8 → 2048 / (if wide then 64 else 32) ≤ (s.operand y).toNat →
    (mayIssue { rd := [y], wr := [x], vs := [d] } s = true →
      exec (.vextr x d y wide) s = .next (s.enterTrap s.cur 0x02 (s.operand y) s.me.pc))
    ∧ (mayIssue { rd := [x, y], vs := [d] } s = true →
      exec (.vinsr d x y wide) s = .next (s.enterTrap s.cur 0x02 (s.operand y) s.me.pc)))

/-- R84, R88, R118, R154: mask heads write the private mask, or a scalar in cycle k + 3; that a private mask is written at once, in
the step of the issue, is the model's (log entry 146). -/
def Obligations.MaskResults : Prop :=
  ∀ (s : State) (d a b : MReg) (x : Reg),
    let g (r : MReg) : Word := s.mReg s.cur r.toNat
    let done (v : Word) : State := (s.setM s.cur d.toNat v).passed
    (mayIssue { ms := [d, a, b] } s = true → exec (.mand d a b) s = .next (done (g a &&& g b))
      ∧ exec (.mor d a b) s = .next (done (g a ||| g b)) ∧ exec (.mxor d a b) s = .next (done (g a ^^^ g b)))
    ∧ (mayIssue { ms := [d, a] } s = true → exec (.mnot d a) s = .next (done (~~~g a)))
    ∧ (mayIssue { rd := [x], ms := [d] } s = true →
      exec (.msetv d x) s = .next ((s.popPorts [x]).setM s.cur d.toNat (s.operand x)).passed)
    ∧ (mayIssue { wr := [x], ms := [a] } s = true → s.mayPut x = true →
      exec (.mpopc x a) s = .next (s.wrote [] x (aluPopc (g a)) 3) ∧ exec (.mfirst x a) s = .next (s.wrote [] x (aluCtz (g a)) 3)
      ∧ exec (.mgetv x a) s = .next (s.wrote [] x (g a) 3))
    ∧ (∀ i ∈ [Instr.mand 0 a b, .mor 0 a b, .mxor 0 a b, .mnot 0 a, .msetv 0 x], i.wf = false)

/-- R119 to R121: a lane group's arbiter starts a beat of the oldest entry, and once its beats have ended and its latency is
over a vector-unit head leaves the queue with its result due in that cycle.
R86, R119: at the end of its completion cycle the destination holds the result, under its mask.
R117, R119: the value and the kept bits of a lanewise result: an active lane holds its function, whatever stands in every
other lane of the register is kept. -/
def Obligations.VectorUnitCompletes : Prop :=
  (∀ (s : State) (ck : Nat) (e : VEntry) (rest : List VEntry), ck < 9216 → (s.core ck).vq = e :: rest → (∀ y ∈ rest, y.id ≠ e.id) →
    (e.left = [] → e.ends + e.lat ≤ (s.core ck).cycle → ∃ t, exec (.vectorComplete ck e.id) s = .next t ∧ (t.core ck).vq = rest
      ∧ (t.core ck).pend = (s.core ck).pend ++
        [{ due := (s.core ck).cycle, slot := e.slot, pc := e.pc, op := .unit e.dest e.seed }])
    ∧ (e.left = [] → e.ends + e.lat ≤ (s.core ck).cycle → rest = [] → (s.core ck).pend = [] → e.slot < 8 →
      let t := s.performDue ck
      (t.core ck).vq = []
      ∧ (∀ r val keep, e.dest = .vec r val keep →
        t.vReg (ck * 8 + e.slot) r = (s.vReg (ck * 8 + e.slot) r &&& keep) ||| (val &&& ~~~keep))
      ∧ (∀ r val, e.dest = .mask r val → r ≠ 0 → t.mReg (ck * 8 + e.slot) r = val)
      ∧ (∀ r val, e.dest = .scal r val → 0 < r → r < 32 → t.tReg (ck * 8 + e.slot) r = val))
    ∧ (∀ g < 4, e.left = [g] → e.issued < (s.core ck).cycle → (FMap.get {} (s.quad (ck / 4)).arbs g).busyTo < (s.core ck).cycle →
        (∀ c < 4, c ≠ ck % 4 → (s.core (ck / 4 * 4 + c)).vq = []) →
        ∃ t, exec (.vectorBeatStart (ck / 4) g) s = .next t ∧ ∃ e', (t.core ck).vq = e' :: rest ∧ e'.left = [] ∧ e'.dest = e.dest
          ∧ e'.ends = Nat.max e.ends ((s.core ck).cycle + e.beat - 1)))
  ∧ (∀ (w n : Nat) (m : Word) (f : Nat → Nat) (old : Vec) (i : Nat), 0 < w → w * n ≤ 2048 → n ≤ 64 → (∀ j, f j < 2 ^ w) →
    let o := lanesOut w n m f
    laneAt ((old &&& o.2) ||| (o.1 &&& ~~~o.2)) w i =
      if i < n then (if m.getLsbD i then f i else laneAt old w i) else laneAt old w i)

/-! ## Memory -/

/-- R222 to R224: a load whose checks pass reads local bytes at once, for its register, or leaves as an access that its response
will complete; LDA leaves as an acquire. R218, R223: one that hits the core's L1 is performed, its register due in cycle k + 6. That a
local load takes its value in the step of its issue is log entry 10, and that one which hits L1 does so, and the exact cycle of either
register, log entry 114 (both DEDUCED). -/
def Obligations.LoadsReadOrLeave : Prop :=
  ∀ (s : State) (d a b : Reg) (off : BitVec 14) (sz : Size) (w : BitVec 2) (cp : Cp) (sc : Scope), s.mayPut d = true →
    let n := sizeBytes sz
    ∀ row ∈ ([(.ld d a off sz w cp, [a], addrOff (s.operand a) off n, false, w, cp.code, false, 0),
      (.lds d a off sz w cp, [a], addrOff (s.operand a) off n, true, w, cp.code, false, 0),
      (.ldg d a b off sz w cp, [a, b], addrIdx (s.operand a) (s.operand b) off n, false, w, cp.code, false, 0),
      (.lda d a sz sc, [a], s.operand a, false, 0, 0, true, sc.code)]
      : List (Instr × List Reg × Word × Bool × BitVec 2 × Nat × Bool × Nat)),
    let rd := row.2.1
    let x := row.2.2.1
    let sx := row.2.2.2.1
    let acq := row.2.2.2.2.2.2.1
    let t := s.popPorts rd
    let k := t.localKey s.cur (offset x)
    mayIssue { rd, wr := [d] } s = true → t.mayGo row.2.2.2.2.1 x = true →
    t.accessCheck permR x n n (if acq then decide (window x ≠ 0) else winSizeBad (window x) n) = none →
    let f : Flight := { id := t.ids, thr := t.cur, pid := t.myPid, addr := x, n, op := .load, ret := .scalar d.toNat sx, ctr := 0, acq
                        scope := row.2.2.2.2.2.2.2, tag := t.me.faultTag, cp := row.2.2.2.2.2.1 }
    (space x = 0 → t.bytesFree k n = true → exec row.1 s =
      .next (s.wrote rd d (scalarLoad (window x) n sx (t.withHeld t.cur t.myPid k n (t.rd k n))) (if window x = 0 then 6 else 8)))
    ∧ (space x ≠ 0 → t.me.cnt.ldc < 63 →
        (t.l1Place f = none → exec row.1 s = .next (((t.addCount s.cur 0).markBusy s.cur d.toNat).launchFlight f).passed)
        ∧ (∀ place, t.l1Place f = some place → exec row.1 s = .next (t.hitLoad f d.toNat place).passed))

/-- R222 to R224, R310: a store whose checks pass has its local bytes due in cycle k + 3, or leaves as an access that counts in its
class; an optimistic task holds it instead; STL first waits as FENCE does, a local one of any scope and a remote one of system scope, and a
local one until every earlier access of its slot has been performed (R232, R240; that it waits at its issue is log entry 162, DEDUCED).
R84, R223: in that cycle, its bytes owned by no engine but a later one of its own slot (R241; log entry 163, DEDUCED), it writes them and
nothing else of memory.
R110: that write ends the wait of a slot blocked in WAITADDR on a word that now differs from its comparand.
R3: little-endian memory: bytes that were written read back, every other byte stands, and no full/empty state changes. -/
def Obligations.StoresWriteOrLeave : Prop :=
  (∀ (s : State) (d a b : Reg) (off : BitVec 14) (sz : Size) (w : BitVec 2) (cp : Cp) (sc : Scope),
    let n := sizeBytes sz
    ∀ row ∈ ([(.st a b off sz w cp, [a, b], addrOff (s.operand a) off n, s.operand b, w, false, cp.code),
      (.stg d a b off sz w cp, [d, a, b], addrIdx (s.operand a) (s.operand b) off n, s.operand d, w, false, cp.code),
      (.stl a b sz sc, [a, b], s.operand a, s.operand b, 0, true, 0)]
      : List (Instr × List Reg × Word × Word × BitVec 2 × Bool × Nat)),
    let rd := row.2.1
    let x := row.2.2.1
    let rel := row.2.2.2.2.2.1
    let t := s.popPorts rd
    let k := t.localKey s.cur (offset x)
    let v := scalarStore (if rel then 0 else window x) n row.2.2.2.1
    let waited : Prop := rel = true → (space x = 0 → t.allPerformed = true)
      ∧ (space x = 0 ∨ sc = .sys → t.fenceOk sc = true ∧ (sc = .sys → ∃ y, t.me.op = .done y))
    mayIssue { rd } s = true → t.mayGo row.2.2.2.2.1 x = true →
    t.accessCheck permW x n n (if rel then decide (window x ≠ 0) else winSizeBad (window x) n) = none →
    waited → (space x = 0 → t.bytesFree k n = true →
      exec row.1 s = .next (t.pendOp (.store k (wholeBytes n v)) 0).passed)
    ∧ (space x ≠ 0 → s.me.optimistic = false → t.me.cnt.val (storeCtr x) < 255 → exec row.1 s = .next ((t.addCount s.cur (storeCtr x)).sent
        { id := 0, thr := 0, pid := 0, addr := x, n, op := .store (wholeBytes n v), ctr := storeCtr x, rel
          scope := if rel then sc.code else 0, cp := row.2.2.2.2.2.2 }).passed)
    ∧ (space x ≠ 0 → t.mayHold (.store x (wholeBytes n v)) = true →
        exec row.1 s = .next (t.held (.store x (wholeBytes n v))).passed))
  ∧ (∀ (s : State) (ck i k n v : Nat) (p : Pend), i < 8 → (s.core ck).vq = [] → (s.core ck).pend = [p] →
    p = { due := (s.core ck).cycle, slot := i, pc := p.pc, op := .store k (wholeBytes n v), val := p.val, born := p.born } →
    (∀ j < n, (s.updCore ck fun c => { c with pend := [] }).ownedFor [ck * 8 + i] p.born (k + j) 1 = false) →
    let t := s.performDue ck
    s.bytesAre t k n v ∧ t.fe = s.fe ∧ (t.core ck).pend = []
      ∧ ({ t with mem := s.mem, cores := s.cores, slots := s.slots } : State) = s
      ∧ (∀ tk, (∀ j b, (s.slot tk).st ≠ .blocked (.wordNe j b)) → t.slot tk = s.slot tk)
      ∧ (∀ tk j b, (s.slot tk).st = .blocked (.wordNe j b) →
        t.slot tk = if word (t.wordFor tk j) = b ∨ t.owned j 8 = true then s.slot tk else (s.slot tk).endWait (t.wordFor tk j)))
  ∧ (∀ (s : State) (k n v : Nat),
    (s.wr k n v).rd k n = v % 256 ^ n ∧ s.bytesAre (s.wr k n v) k n v ∧ ({ s.wr k n v with mem := s.mem } : State) = s
    ∧ (∀ m j : Nat, (j + m ≤ k ∨ k + n ≤ j) → (s.wr k n v).rd j m = s.rd j m)
    ∧ (∀ j : Nat, memByte (s.zeroRange k n).mem j = if k ≤ j ∧ j < k + n then 0 else memByte s.mem j)
    ∧ (FMap.wf (0 : Byte) s.mem = true → FMap.wf (0 : Byte) (s.wr k n v).mem = true))

/-- R191, R192, R195, R222: the checks of a scalar access in their order: must-be-zero bits raise 0x0D, the system space at task
level 0x03, a panel number above 383 0x07, a misaligned address 0x04, a size that the window does not admit 0x02, a footprint that
leaves the share 0x0D, a refused guard 0x05, an absent quad 0x07.
That an address in space 0xF at supervisor level takes 0x02, or 0x0D, before its alignment is looked at is log entry 137 (DESIGN
CHOICE): the clause is the model's. -/
def Obligations.AccessChecksInOrder : Prop :=
  ∀ (s : State) (p : Perm) (a : Word) (n align : Nat) (winBad : Bool),
    s.accessCheck p a n align winBad =
      if mustBeZero a = false then some (0x0D, a)
      else if space a = 15 then (if s.super = false then some (0x03, a) else if fld a 56 4 ≠ 0 then some (0x0D, a) else some (0x02, a))
      else if space a = 3 ∧ 384 ≤ fld a 51 9 then some (0x07, a)
      else if a.toNat % align ≠ 0 then some (0x04, a)
      else if winBad = true then some (0x02, a)
      else if space a = 0 ∧ s.spSize s.myPid < offset a + n then some (0x0D, a)
      else if space a = 0 ∧ (s.me.sr.refused p (offset a) n).isSome then
        some (0x05, atOffset a ((s.me.sr.refused p (offset a) n).getD 0))
      else if space a = 0 ∧ p.wr = true then s.localWrite s.cur a n
      else if space a = 1 ∧ s.remoteQuad s.myPid a = none then some (0x07, a)
      else none

/-- R209, R210, R212, R217: LD and ST reach the partition's system registers at supervisor level; PLACE sets, reads and clears; the
events of a write of S1INV and FREPLY act as the write does. That PLACE.clr takes any space-2 address, its bits [59:48] ignored, is log
entry 137 (DESIGN CHOICE): the clause is the model's.
R210, R212: S1INV of a page or of all is accepted, counted and kept in order; FREPLY sends every faulted access of the thread
with its tag again, or ends them all with one ECAUSE 0x06. S1INV is complete once no access translated under what it covers is still to be
performed; that an open row of a running copy counts among them is log entry 161 (DEDUCED). -/
def Obligations.SystemSpaceAndPlacement : Prop :=
  (∀ (s : State) (d a b : Reg) (cp : Cp) (imm : BitVec 22) (x : Word), s.super = true → s.mayPut d = true →
    s.operand a = x → space x = 15 → mustBeZero x = true → fld x 56 4 = 0 → s.acquiring = false →
    a.toNat < 56 → b.toNat < 56 →
    let at_ (n : Nat) : Prop := fld x 0 12 = n
    let pt := s.myPart
    let put (v : Word) : State := s.wrote [] d v 3
    let upd (f : Part → Part) : State := (s.updPart s.myPid f).passed
    (mayIssue { rd := [a], wr := [d] } s = true →
      (at_ 0x000 → exec (.ld d a 0 .w 0 cp) s = .next (put pt.s1root)) ∧ (at_ 0x008 → exec (.ld d a 0 .w 0 cp) s = .next (put 0))
      ∧ (at_ 0x010 → exec (.ld d a 0 .w 0 cp) s = .next (put (word (pt.s1issued.toNat * 2 ^ 32 + pt.s1done.toNat))))
      ∧ (at_ 0x018 → exec (.ld d a 0 .w 0 cp) s = .next (put 0)) ∧ (at_ 0x020 → exec (.ld d a 0 .w 0 cp) s = .next (put (word pt.spsize))))
    ∧ (mayIssue { rd := [a, b] } s = true → let v := s.operand b
      (at_ 0x000 → exec (.st a b 0 .w 0 cp) s = .next (upd fun p => { p with s1root := v &&& 0x000FFFFFFFFFF001#64 }))
      ∧ (at_ 0x008 → exec (.st a b 0 .w 0 cp) s = .next (s.s1inv s.myPid
          (if v.getLsbD 3 then none else (invSize (fld v 0 3)).map fun n => (fld v 12 36 * 4096, n))).passed)
      ∧ (at_ 0x018 → v.getLsbD 16 = false → exec (.st a b 0 .w 0 cp) s =
          .next (s.freplyRetry s.myPid (fld v 0 16) (BitVec.ofNat 8 (fld v 24 8))).passed)
      ∧ (at_ 0x018 → v.getLsbD 16 = true → exec (.st a b 0 .w 0 cp) s =
          .next (s.freplyFail s.myPid (fld v 0 16) (BitVec.ofNat 8 (fld v 24 8)) (BitVec.ofNat 12 (fld v 32 12))).passed)
      ∧ (at_ 0x010 ∨ at_ 0x020 → exec (.st a b 0 .w 0 cp) s = .next s.passed))
    ∧ (1 ≤ imm.toNat → imm.toNat ≤ 2 ^ 21 - 1 → exec (.placeSet imm) s = .next (upd fun p => { p with threshold := imm.toNat }))
    ∧ (mayIssue { wr := [d], sup := some (0x6C80 + d.toNat) } s = true → exec (.placeGet d) s = .next (put (word pt.threshold)))
    ∧ exec (.placeClr 0) s = .next ({ s with place := s.place.filter fun e => !s.ownsGranule s.myPid e.1 } : State).passed
    ∧ (∀ e, (s.translate s.myPid (fld (s.operand b) 0 48) {}).2 = some e → b.toNat ≠ 0 →
      mayIssue { rd := [b], sup := some 0x6C80 } s = true → space (s.operand b) = 2 →
      let va := fld (s.operand b) 0 48
      exec (.placeClr b) s = .next ({ s with place := FMap.erase s.place ((e.pa + (va - e.va)) / 4096) } : State).passed))
  ∧ (∀ (s : State) (pid vpn size thread tk : Nat) (tag : BitVec 8) (reason : BitVec 12),
    let took (i : Option (Nat × Nat)) : State := s.updPart pid fun p => { p with s1issued := p.s1issued + 1, s1inv := p.s1inv ++ [i] }
    exec (.s1invAll pid) s = .next (took none)
    ∧ (∀ code bytes, (code, bytes) ∈ [(0, 2 ^ 12), (1, 2 ^ 16), (2, 2 ^ 21), (3, 2 ^ 25), (4, 2 ^ 30), (5, 2 ^ 34)] → size = code →
        exec (.s1invPage pid vpn size) s = .next (took (some (vpn * 4096, bytes))))
    ∧ (s.threadKey pid thread = some tk → (s.quad (quadOf tk)).drain = [] → s.chanFaults = [] →
        (∃ t, exec (.freplyRetry pid thread tag) s = .next t ∧ t.flights = s.flights.map fun f =>
            if (s.faultedFlights pid tk tag).any (fun g => g.id == f.id) then { f with stage := .xlate } else f)
        ∧ exec (.freplyFail pid thread tag reason) s = .next (((s.failFlights tk (s.faultedFlights pid tk tag) reason.toNat).drainReply
            pid tk tag true reason.toNat).chanReply pid thread tag true))
    ∧ (s.threadKey pid thread = none → exec (.freplyRetry pid thread tag) s = .next s ∧ exec (.freplyFail pid thread tag reason) s = .next s)
    ∧ (∀ what rest, (s.part pid).s1inv = what :: rest →
        (∀ f ∈ s.flights, f.underCovered pid what = false) → s.copyUnder pid what = false →
        ∃ t, exec (.s1invComplete pid) s = .next t ∧ (t.part pid).s1inv = rest ∧ (t.part pid).s1done = (s.part pid).s1done + 1
          ∧ t.tlb = s.tlb.filter fun e => !e.covered pid what))

/-- R110, R111, R221, R225 to R227: prefetch, cache heads, fences and waits end as soon as their conditions hold; none of them
changes memory. A WAITADDR that waits tests its word again after each write, a WAKE ends it, and its head then gives the value that ended
the wait. R225: FENCE.sys sends a flushing read to the host once the rest of its condition holds, and ends when that read
has completed; that it is one read of host address 0, sent last and counted nowhere, is the model's (log entry 129).
R226: PREF raises nothing of its register field: one outside the allotment, or a port that may not be read, is passed over.
What a prefetch and the cache heads leave as it was: every register and special register, every other slot, and of the caches what they
do not name. -/
def Obligations.CachesFencesAndWaits : Prop :=
  ∀ (s : State) (d a b : Reg) (off : BitVec 14) (cp : Cp) (sc : Scope) (l st c tl : BitVec 4) (w : BitVec 2) (tk : Nat),
    let t := s.popPorts [a]
    let x := s.operand a
    let y := addrOff x off 8
    let u := s.popPorts [a, b]
    let k := u.localKey s.cur (offset y)
    let noL1 : State := (s.updMyCore fun c => { c with l1 := [] }).passed
    (s.buffered none = false → exec (.cflushAll a) s = .next noL1) ∧ exec (.cinvAll a) s = .next noL1
    ∧ (mayIssue { rd := [a] } s = true →
      (∃ z, exec (.pref a off cp) s = .next z ∧ z.me.pc = s.me.nextPc ∧ t.keepsButCaches z)
      ∧ (t.lineCheck x 32 = none → t.buffered (some x) = false →
          ∃ z, exec (.cflushLine a) s = .next z ∧ z.me.pc = s.me.nextPc ∧ t.keepsButCaches z
            ∧ (t.cachedLine x = none → z = t.passed)
            ∧ ∀ l, t.cachedLine x = some l → z.myCore.l1 = t.myCore.l1.filter fun e => decide (e.line ≠ l))
      ∧ (t.lineCheck x 32 = none →
          ∃ z, exec (.cinvLine a) s = .next z ∧ z.me.pc = s.me.nextPc ∧ t.keepsButCaches z
            ∧ (t.cachedLine x = none → z = t.passed)
            ∧ ∀ l, t.cachedLine x = some l → z = (t.updMyCore fun c => { c with l1 := c.l1.filter fun e => decide (e.line ≠ l) }).passed)
      ∧ (t.lineCheck x 64 = none → exec (.cinvIline a) s =
          .next (t.updMyQuad fun q => { q with icache := FMap.erase q.icache (fetchKey s.myPid x) }).passed
          ∧ t.keepsButCaches (t.updMyQuad fun q => { q with icache := FMap.erase q.icache (fetchKey s.myPid x) }).passed)
      ∧ (s.threadKey s.myPid x.toNat = some tk → exec (.wake a) s = .next (t.wakeUp s.myPid tk).passed
        ∧ (s.runs s.myPid tk = true → (t.wakeUp s.myPid tk).wakes = s.wakes ++ [tk])))
    ∧ ((s.me.sr.outside a.toNat || ((Use.misused { rd := [a] } s.myCore (slotNo s.cur)).isSome)) = true →
      exec (.pref a off cp) s = .next s.passed)
    ∧ (s.fenceOk sc = true → (sc = .sys → ∃ v, s.me.op = .done v) → exec (.fence sc) s = .next s.passed)
    ∧ (s.fenceOk .sys = true → s.me.op = .none → exec (.fence .sys) s = .next s.sendFlush)
    ∧ (s.me.cnt.ldc ≤ l.toNat → s.me.cnt.stc ≤ st.toNat → s.me.cnt.cpc ≤ c.toNat → s.me.cnt.tlc ≤ tl.toNat →
      exec (.waitc l st c tl) s = .next s.passed)
    ∧ (mayIssue { rd := [a, b], wr := [d] } s = true → s.mayPut d = true → u.mayGo w y = true → u.accessCheck permR y 8 8 false = none →
      space y = 0 → window y = 0 → u.bytesFree k 8 = true → s.me.op = .none →
      (s.me.wake = true → exec (.waitaddr d a b off w) s =
        .next ((u.updMe fun z => { z with wake := false }).writeReg s.cur d (word (u.ownRead k 8)) 6).passed)
      ∧ (s.me.wake = false → word (u.ownRead k 8) ≠ s.operand b →
        exec (.waitaddr d a b off w) s = .next (s.wrote [a, b] d (word (u.ownRead k 8)) 6)))
    ∧ (∀ v, s.me.op = .done v → s.mayPut d = true → exec (.waitaddr d a b off w) s = .next (s.wrote [a, b] d (word v) 6))
    ∧ (∀ j v, (s.slot tk).st = .blocked (.wordNe j v) → s.owned j 8 = false →
      let ended := s.updSlot tk fun z => z.endWait (s.wordFor tk j)
      s.retestSlot tk = (if word (s.wordFor tk j) = v then s else ended) ∧ s.takeWake tk = ended)

/-- R250 to R253: LDE takes a full local word, under what its task holds of it, and leaves it empty, STF fills an empty one, FEINIT sets word and state together, in
its write cycle; a remote LDE or STF is performed at the word in its turn, and FEINIT leaves as a store does.
R252: a remote LDE or STF that is first at its word is performed when the word is full, or empty.
That FEINIT is checked for WR alone is log entry 137 (DESIGN CHOICE): the clause is the model's. -/
def Obligations.FullEmptyWords : Prop :=
  (∀ (s : State) (d a b : Reg) (off : BitVec 14) (w : BitVec 2) (cp : Cp),
    let x := addrOff (s.operand a) off 8
    let t := s.popPorts [a]
    let u := s.popPorts [a, b]
    let k := s.localKey s.cur (offset x)
    let k0 := s.localKey s.cur (offset (s.operand a))
    (s.me.op = .none → mayIssue { rd := [a], wr := [d] } s = true → s.mayPut d = true → t.mayGo w x = true → t.feCheck permRW false x = none →
      space x = 0 → FMap.get false s.fe k = true → t.queued k true = false → t.bytesFree k 8 = true →
      exec (.lde d a off w cp) s = .next (({ t with fe := FMap.set false s.fe k false } : State).writeReg s.cur d (word (t.ownRead k 8)) 6).passed)
    ∧ (s.me.op = .none → mayIssue { rd := [a, b] } s = true → u.mayGo w x = true → u.feCheck permRW true x = none → space x = 0 →
      u.fenceOk .part = true → FMap.get false s.fe k = false → u.queued k false = false → u.bytesFree k 8 = true →
      exec (.stf a b off w cp) s = .next ({ u.wr8 k (s.operand b) with fe := FMap.set false s.fe k true } : State).passed)
    ∧ (mayIssue { rd := [a, b] } s = true → u.mayGo 0 (s.operand a) = true → u.feCheck permW true (s.operand a) = none →
      (space (s.operand a) = 0 → u.bytesFree k0 8 = true →
        exec (.feinitEmpty a b) s = .next (u.pendOp (.feinit k0 false) (s.operand b)).passed
        ∧ exec (.feinitFull a b) s = .next (u.pendOp (.feinit k0 true) (s.operand b)).passed)
      ∧ (space (s.operand a) ≠ 0 → u.me.cnt.val (storeCtr (s.operand a)) < 255 → ∀ full,
        exec (if full then .feinitFull a b else .feinitEmpty a b) s = .next ((u.addCount s.cur (storeCtr (s.operand a))).sent
          { id := 0, thr := 0, pid := 0, addr := s.operand a, n := 8, op := .feinit (s.operand b) full
            ctr := storeCtr (s.operand a) }).passed)))
  ∧ (∀ (s : State) (f : Flight) (qi k : Nat) (b : Word), s.flight f.id = some f → f.stage = .atNI qi →
    s.shareAt f.pid qi (offset f.addr) 8 = some k → s.flightOwned f k = false →
    (f.op = .lde → FMap.get false s.fe k = true → s.firstAt f k true = true → exec (.ldePerform f.id) s =
      .next ((({ s with fe := FMap.set false s.fe k false } : State).setStage f.id (.resp (s.rd k 8))).respond f.id qi))
    ∧ (f.op = .stf b → FMap.get false s.fe k = false → s.firstAt f k false = true → exec (.stfPerform f.id) s =
      .next ((({ s.wr8 k b with fe := FMap.set false s.fe k true } : State).setStage f.id .ack).respond f.id qi)))
  ∧ (∀ (s : State) (ck i k : Nat) (full : Bool) (v : Word) (p : Pend), i < 8 → (s.core ck).vq = [] → (s.core ck).pend = [p] →
    p = { due := (s.core ck).cycle, slot := i, pc := p.pc, op := .feinit k full, val := v, born := p.born } →
    let u := s.updCore ck fun c => { c with pend := [] }
    (∀ j < 8, u.ownedFor [ck * 8 + i] p.born (k + j) 1 = false) →
      s.performDue ck = State.retest { u.wr8 k v with fe := FMap.set false s.fe k full })

/-- R245 to R248: an atomic on local bytes writes its function of the old value and the operand in one step and gives the old
value; CAS and CAS2 write only where the compare value stands; one that releases waits until every earlier access of its slot is performed.
The old value is that of memory under what an optimistic task holds there (R242).
R243, R248: one elsewhere leaves as an access, with its count, and gives its value later; an optimistic task's RED is held (R310).
R370: a basted slot's atomic bears the number BASTESEQ, which goes up by one; its place answers a number that the slot's log holds from the
log, and performs and logs another.
R377: a local RED of 4 bytes with a sequence number opens the pair of its location, and is performed once for it.
R246: the functions of AMO and RED on 4 and on 8 bytes. -/
def Obligations.AtomicsActInOneStep : Prop :=
  (∀ (s : State) (d a b c : Reg) (op : AmoOp) (wide : Bool) (mo : MOrd) (sc : Scope), (s.me.bst = true → s.logUse < 255) →
    let n := if wide then 8 else 4
    let x := s.operand a
    let k := s.localKey s.cur (offset x)
    let two := s.popPorts [a, b]
    let three := s.popPorts [a, b, c]
    let five := s.popPorts [a, b, b + 1, c, c + 1]
    let old := two.ownRead k n
    let old3 := three.ownRead k n
    let low (v : Nat) : Nat := v % 2 ^ (8 * n)
    let swap := if old3 = low (s.operand b).toNat then three.wr k n (low (s.operand c).toNat) else three
    let old2 := five.ownRead k 16
    let pair (r : Reg) : Nat := (s.operand r).toNat + 2 ^ 64 * (s.operand (r + 1)).toNat
    let swap2 := if old2 = pair b then five.wr k 16 (pair c) else five
    let seq : Option Nat := if s.me.bst then some s.me.sr.basteSeq.toNat else none
    let num (t : State) : State := if s.me.bst then t.updMe fun z => z.updSr fun r => { r with basteSeq := r.basteSeq + 1 } else t
    let done (t : State) (old : Nat) (new : State) : Nat × State := match s.me.task.logged seq with
      | some was => (was.toNat, num t)
      | none => (old, num (new.logAtomic s.cur k seq old))
    let amo := done two old (two.wr k n (amoFun op.code n old (s.operand b).toNat))
    let cas := done three old3 swap
    let cas2 := done five old2 swap2
    let red := done two (s.rd k n) (two.wr k n (amoFun op.code n (s.rd k n) (s.operand b).toNat))
    let drained (t : State) : Prop := ordReleases mo = true → t.allPerformed = true
    s.mayPut d = true →
    (space x = 0 → mayIssue { rd := [a, b], wr := [d] } s = true → two.mayGo 0 x = true → two.atomicCheck x n false = none →
      two.bytesFree k n = true → drained two → exec (.amo d a b op wide mo sc) s = .next (amo.2.writeReg s.cur d (word amo.1) 6).passed)
    ∧ (space x = 0 → mayIssue { rd := [a, b, c], wr := [d] } s = true → three.mayGo 0 x = true → three.atomicCheck x n false = none →
      three.bytesFree k n = true → drained three → exec (.cas d a b c wide mo sc) s = .next (cas.2.writeReg s.cur d (word cas.1) 6).passed)
    ∧ (space x = 0 → mayIssue { rd := [a, b, b + 1, c, c + 1], wr := [d, d + 1] } s = true → five.mayGo 0 x = true →
      five.atomicCheck x 16 false = none → five.bytesFree k 16 = true → drained five → exec (.cas2 d a b c mo sc) s =
        .next ((cas2.2.writeReg s.cur d (word cas2.1) 6).writeReg s.cur (d + 1) (word (cas2.1 / 2 ^ 64)) 6).passed)
    ∧ (space x = 0 → mayIssue { rd := [a, b] } s = true → two.mayGo 0 x = true → two.atomicCheck x n true = none →
      two.bytesFree k n = true → drained two →
      (wide = true ∨ fld (s.operand b) 48 16 = 0 → exec (.red a b op wide mo sc) s = .next amo.2.passed)
      ∧ (wide = false → fld (s.operand b) 48 16 ≠ 0 → s.redPairs = [] → exec (.red a b op wide mo sc) s =
        .next ({ red.2 with
          redPairs := [{ loc := k, rsn := fld (s.operand b) 48 16, done := [s.cur], last := (s.region 0).cycle }] } : State).passed))
    ∧ (space x ≠ 0 →
      let away (t : State) (n : Nat) (m : MemOp) (ret : Ret) (ctr : Nat) (own : Bool) : Flight :=
        { id := 0, thr := s.cur, pid := s.myPid, addr := x, n, op := m, ret, ctr, acq := decide (ret ≠ .none) && ordAcquires mo, rel := ordReleases mo
          scope := sc.code, seq, tag := t.me.faultTag, own }
      let near : Bool := decide (space x = 2) && decide (s.predicts (coreOf s.cur) x < 8)
      let rsn := if wide then 0 else fld (s.operand b) 48 16
      let ctr := storeCtr x
      (mayIssue { rd := [a, b], wr := [d] } s = true → two.mayGo 0 x = true → two.atomicCheck x n false = none → two.me.cnt.ldc < 63 →
        exec (.amo d a b op wide mo sc) s = .next (num (((two.addCount s.cur 0).markBusy s.cur d.toNat).launchFlight
          (away two n (.amo op.code (s.operand b)) (.scalar d.toNat false) 0 near))).passed)
      ∧ (mayIssue { rd := [a, b, c], wr := [d] } s = true → three.mayGo 0 x = true → three.atomicCheck x n false = none → three.me.cnt.ldc < 63 →
        exec (.cas d a b c wide mo sc) s = .next (num (((three.addCount s.cur 0).markBusy s.cur d.toNat).launchFlight
          (away three n (.cas ((s.operand b).setWidth 128) ((s.operand c).setWidth 128)) (.scalar d.toNat false) 0 near))).passed)
      ∧ (mayIssue { rd := [a, b, b + 1, c, c + 1], wr := [d, d + 1] } s = true → five.mayGo 0 x = true → five.atomicCheck x 16 false = none →
        five.me.cnt.ldc < 63 → exec (.cas2 d a b c mo sc) s =
          .next (num ((((five.addCount s.cur 0).markBusy s.cur d.toNat).markBusy s.cur (d + 1).toNat).launchFlight
            (away five 16 (.cas (BitVec.ofNat 128 (pair b)) (BitVec.ofNat 128 (pair c))) (.pair d.toNat) 0 near))).passed)
      ∧ (mayIssue { rd := [a, b] } s = true → two.mayGo 0 x = true → two.atomicCheck x n true = none →
        (s.me.optimistic = false → two.me.cnt.val ctr < ctrMax ctr → exec (.red a b op wide mo sc) s =
          .next (num (((two.addCount s.cur ctr).launchFlight
            (away two n (.amo op.code (s.operand b)) .none ctr (near && decide (rsn = 0)))).holdRed s.ids rsn)).passed)
        ∧ (two.mayHold (.red x op.code n (s.operand b)) = true →
          exec (.red a b op wide mo sc) s = .next (two.held (.red x op.code n (s.operand b))).passed))))
  ∧ (∀ (n old b : Nat), n = 4 ∨ n = 8 → old < 2 ^ (8 * n) → b < 2 ^ (8 * n) →
    let s (v : Nat) : Int := sval (8 * n) v
    amoFun 0 n old b = (old + b) % 2 ^ (8 * n) ∧ amoFun 1 n old b = old &&& b ∧ amoFun 2 n old b = old ||| b
    ∧ amoFun 3 n old b = old ^^^ b ∧ s (amoFun 4 n old b) = min (s old) (s b) ∧ s (amoFun 5 n old b) = max (s old) (s b)
    ∧ amoFun 6 n old b = min old b ∧ amoFun 7 n old b = max old b ∧ amoFun 8 n old b = b)

/-- R197: an access that has arrived at its quad and may be performed is performed on the share's bytes, or denied when the
footprint lies in no share, and its response leaves; its denial, or a peer panel's (R208), ends its count and raises 0x07
asynchronously in the task that sent it. R374: an arrival makes a block of a failed quad's share the next to be moved.
R197, R243, R244: an atomic that has reached its place, or its home, is executed there in one step, and its old value, or an
acknowledgement, is on its way, and a basted slot's is logged (R370); at the home no core keeps the line. An access does not wait for an
engine's bytes that its own slot submitted after it (R241; log entry 163, DEDUCED). -/
def Obligations.RemoteAccessesArrive : Prop :=
  (∀ (s : State) (f : Flight) (qi k v r : Nat) (sx : Bool) (bs : List WByte), s.flight f.id = some f →
    let dropped := s.dropPacket f.pkt
    let here := (s.noteBlock qi k).dropPacket f.pkt
    (f.stage = .net qi → s.ready f = true → qi = quadOf f.thr ∨ (s.quad qi).closed = false →
      (s.shareAt f.pid qi (offset f.addr) f.n = none → exec (.remoteAccessArrival f.id) s =
          .next ((dropped.setStage f.id .denied).respond f.id qi))
      ∧ (s.shareAt f.pid qi (offset f.addr) f.n = some k → s.flightOwned f k = false →
        (f.op = .load → f.ret = .scalar r sx → exec (.remoteAccessArrival f.id) s = .next ((((here.noteForwards f).draw).setStage f.id
          (.resp (scalarLoad (window f.addr) f.n sx (here.loadAt f k)).toNat)).respond f.id qi))
        ∧ (f.op = .store bs → exec (.remoteAccessArrival f.id) s = .next (((here.writeW k bs).setStage f.id .ack).respond f.id qi))))
    ∧ (f.stage = .denied ∨ f.stage = .peer → s.arrived f.pkt = true → (∀ q ∈ s.quads, ∀ d ∈ q.2.drain, d.sent ≠ some f.id) →
        f.ret = .scalar r sx → f.tag = (s.slot f.thr).faultTag →
        exec (.remoteDenial f.id) s = .next (((s.dropRet f).finishFlight f).postAsync f.thr 0x07 f.addr))
    ∧ (f.stage = .resp v → s.arrived f.pkt = true → f.ret = .scalar r sx → exec (.loadResponse f.id) s =
        .next ((s.arriveReg f.thr r (word v) f.pc f.due).finishFlight f))
    ∧ (f.stage = .ack → s.arrived f.pkt = true → f.op = .store bs → exec (.storeAck f.id) s = .next (s.finishFlight f))
    ∧ (f.stage = .home k → f.op = .store bs → isHbm k = true → s.mayPerform f = true → s.flightOwned f k = false →
        exec (.homeStore f.id) s =
          .next ((((s.writeW k bs).invalidateOthers (dieOf (quadOf f.thr)) (lineOf (paOf k))).cacheStore (coreOf f.thr) (paOf k)
            (s.part f.pid).key (if space f.addr = 2 then f.cp else 0)).setStage f.id .ack)))
  ∧ (∀ (s wrote : State) (f : Flight) (qi k o : Nat) (b : Word) (c e : BitVec 128), s.flight f.id = some f →
    (f.op = .amo o b ∧ wrote = s.wr k f.n (amoFun o f.n (s.rd k f.n) b.toNat)
      ∨ f.op = .cas c e ∧ wrote = (if s.rd k f.n = c.toNat % 2 ^ (8 * f.n) then s.wr k f.n (e.toNat % 2 ^ (8 * f.n)) else s)) →
    (s.slot f.thr).task.logged f.seq = none → f.rsn = 0 → s.flightOwned f k = false →
    let new : State := wrote.logAtomic f.thr k f.seq (s.rd k f.n)
    (f.stage = .atNI qi → s.shareAt f.pid qi (offset f.addr) f.n = some k → exec (.niAtomic f.id) s = .next ((new.setStage f.id
        (if f.loads then .resp (s.rd k f.n % 2 ^ 128) else .ack)).respond f.id qi))
    ∧ (f.stage = .home k → isHbm k = true → f.own = false → s.mayPerform f = true → s.heldInRouter f.id = false →
      ∃ t, exec (.homeAtomic f.id) s = .next t ∧ t.mem = new.mem ∧ FMap.get 0 t.owners (lineOf (paOf k)) = 0
        ∧ t.flights = (s.setStage f.id (if f.loads then .resp (s.rd k f.n % 2 ^ 128) else .ack)).flights))

/-- R112, R171, R212, R228, R252, R256, R317, R320: a head that waited for an engine's answer ends with it, and its result is in
its register in cycle k + 3 of the head that takes the answer; that it is no later is log entry 12 (DESIGN CHOICE): the cycle is the model's.
R112, R228, R320: what completes at once: TOUCH of a checked local address, SPILL and RESTOR of a slot that they may not
take, and TSET on an armed local cell. -/
def Obligations.RepliesCompleteHeads : Prop :=
  (∀ (s : State) (d a b : Reg) (off : BitVec 14) (w : BitVec 2) (cp : Cp) (g : BitVec 5) (v : Nat), s.mayPut d = true →
    (s.me.op = .done v →
      (∀ i ∈ [Instr.lde d a off w cp, .launch d a b, .spill d a b, .restor d a b], exec i s = .next (s.wrote [] d (word v) 3))
      ∧ (∀ i ∈ [Instr.stf a b off w cp, .touchRd a, .touchWr a, .gang a], exec i s = .next s.passed)
      ∧ (v % 2 ^ 64 = 0 → exec (.tset a b) s = .next s.passed) ∧ (v = bsDone → exec (.barset g a) s = .next s.passed))
    ∧ (s.me.op = .denied → ∀ i ∈ [Instr.lde d a off w cp, .stf a b off w cp, .touchRd a, .touchWr a], exec i s = .next s.passed))
  ∧ (∀ (s : State) (d a b : Reg) (tk : Nat), s.me.op = .none → s.mayPut d = true →
    let x := s.operand a
    let t := s.popPorts [a]
    let u := s.popPorts [a, b]
    (mayIssue { rd := [a] } s = true → spaceCheck s.super x = none → space x = 0 →
      (s.localCheck s.cur permR x 1 = none → exec (.touchRd a) s = .next t.passed)
      ∧ (s.localCheck s.cur permW x 1 = none → exec (.touchWr a) s = .next t.passed))
    ∧ (mayIssue { rd := [a, b], wr := [d], sup := some (0x5240 + d.toNat) } s = true → s.threadKey s.myPid x.toNat = some tk →
      (s.operand b).toNat % 64 = 0 →
      (tk = s.cur → exec (.spill d a b) s = .next (s.wrote [a, b] d 1 3))
      ∧ (tk ≠ s.cur → s.runs s.myPid tk = true → (s.slot tk).st = .free → exec (.spill d a b) s = .next (s.wrote [a, b] d 2 3)))
    ∧ (mayIssue { rd := [a, b], wr := [d], sup := some (0x5340 + d.toNat) } s = true → s.threadKey s.myPid x.toNat = some tk →
      (s.operand b).toNat % 64 = 0 → u.stopped tk = false → s.runs s.myPid tk = true → (s.slot tk).st = .ready →
      exec (.restor d a b) s = .next (s.wrote [a, b] d 1 3))
    ∧ (mayIssue { rd := [a, b] } s = true → s.me.optimistic = false → u.mayGo 0 x = true → u.cellCheck x = none →
      fld (s.operand b) 32 32 = 0 → u.fenceOk .part = true → space x = 0 → u.bytesFree (s.localKey s.cur (offset x)) 16 = true →
      (s.rd8 (s.localKey s.cur (offset x))).getLsbD 63 = true →
      ∃ z, u.tsetCell (s.localKey s.cur (offset x)) (s.operand b) = some z ∧ exec (.tset a b) s = .next z.passed))

/-- R150 to R153: a vector load of local elements whose checks pass writes its active lanes, 8 cycles on, or 10 through a window
that converts; one of remote elements leaves in parts of a group, a VLD by 32-byte sectors that hold an active lane, the others by
element; without an active lane nothing is accessed.
R150 to R153: a vector store of local elements whose checks pass has the bytes of its active lanes due in cycle k + 3, or k + 5
through a window that converts, the highest lane last; one to remote elements leaves in such parts too, or is held as one record;
without an active lane nothing is accessed. The exact cycles, the earliest that R150 allows, are the model's (log entries 12 and 114).
R150: in that cycle it writes them, its bytes owned by no engine, and no other byte of memory. -/
def Obligations.VectorLoads : Prop :=
  (∀ (s : State) (v ix : VReg) (a b : Reg) (off : BitVec 14) (o : BitVec 10) (m : MReg) (w : BitVec 2) (cp : Cp) (sc : BitVec 2),
    let mk := s.mReg s.cur m.toNat
    let line := addrOff (s.operand a) off 32
    let step := s.operand a + sext o * 32#64
    let base := s.operand a
    ∀ row ∈ ([(.vld v a off m w cp, [a], [v], line, footElems line (window line) mk, w),
      (.vlds v a b m o, [a, b], [v], step, laneElems mk (window step) (strided step (s.operand b)), 0),
      (.vgath v a ix m sc, [a], [v, ix], base, laneElems mk (window base) (indexed base (s.vReg s.cur ix.toNat) sc), 0)]
      : List (Instr × List Reg × List VReg × Word × List VElem × BitVec 2)),
    let x := row.2.2.2.1
    let es := row.2.2.2.2.1
    let t := s.popPorts row.2.1
    let win := window x
    let out := lanesOut 32 64 mk (t.localLanes win es)
    mayIssue { rd := row.2.1, vs := row.2.2.1, ms := [m] } s = true → t.mayGo row.2.2.2.2.2 x = true →
    (es = [] → exec row.1 s = .next t.passed)
    ∧ (es ≠ [] → row.1 = .vld v a off m w cp ∧ t.footCheck permR x es = none ∨ row.1 ≠ .vld v a off m w cp ∧ t.elemChecks permR x es = none →
      space x = 0 → (∀ e ∈ es, t.bytesFree (t.localKey s.cur (offset e.addr)) e.n = true) →
      exec row.1 s = .next (((t.updMyCore fun c => { c with pend := c.pend ++
          [{ due := c.cycle + (if win = 0 then 8 else 10), slot := slotNo s.cur, pc := s.me.pc, op := .vec v.toNat out.1 out.2 }] }).updMe fun z =>
            { z with busy := z.busy ++ [64 + v.toNat] }).passed))
    ∧ (es ≠ [] → row.1 ≠ .vld v a off m w cp → t.elemChecks permR x es = none → space x ≠ 0 → t.me.cnt.ldc < 63 →
      exec row.1 s = .next (es.foldl (fun u e => u.part_ e.addr e.n .load (.vec s.ids e.lane) 0)
        (t.openGroup 0 es.length (some v) (keepOf mk))).passed)
    ∧ (es ≠ [] → row.1 = .vld v a off m w cp → t.footCheck permR x es = none → space x ≠ 0 → t.me.cnt.ldc < 63 →
      let parts := sectorsOf x win es
      exec row.1 s = .next (parts.foldl (fun u p => u.part_ p.2.1 (Nat.min (footprint win) 32) .load
          (.sector s.ids p.1 ((p.2.2.map fun e => e.lane).headD 0)) cp.code)
        (t.openGroup 0 parts.length (some v) (keepOf mk))).passed))
  ∧ (∀ (s : State) (v ix : VReg) (a b : Reg) (off : BitVec 14) (o : BitVec 10) (m : MReg) (w : BitVec 2) (cp : Cp) (sc : BitVec 2),
    let mk := s.mReg s.cur m.toNat
    let line := addrOff (s.operand a) off 32
    let step := s.operand a + sext o * 32#64
    let base := s.operand a
    ∀ row ∈ ([(.vst v a off m w cp, [a], [v], line, footElems line (window line) mk, w, true),
      (.vsts v a b m o, [a, b], [v], step, laneElems mk (window step) (strided step (s.operand b)), 0, false),
      (.vscat v a ix m sc, [a], [v, ix], base, laneElems mk (window base) (indexed base (s.vReg s.cur ix.toNat) sc), 0, false)]
      : List (Instr × List Reg × List VReg × Word × List VElem × BitVec 2 × Bool)),
    let x := row.2.2.2.1
    let es := row.2.2.2.2.1
    let foot := row.2.2.2.2.2.2
    let t := s.popPorts row.2.1
    let key (e : VElem) : Nat := s.localKey s.cur (offset e.addr)
    let bytes (e : VElem) : List WByte := e.bytes (window x) (laneAt (s.vReg s.cur v.toNat) 32 e.lane)
    let from_ (b : Word) (es : List VElem) : List WByte :=
      es.flatMap fun e => (bytes e).map fun y => ((e.addr - b).toNat + y.1, y.2.1, y.2.2)
    let parts := if foot then sectorsOf x (window x) es else es.map fun e => (e.lane, e.addr, [e])
    let low := lowest ((es.head?.map fun e => e.addr).getD x) es
    mayIssue { rd := row.2.1, vs := row.2.2.1, ms := [m] } s = true → t.mayGo row.2.2.2.2.2.1 x = true →
    (es = [] → exec row.1 s = .next t.passed)
    ∧ (es ≠ [] → (if foot then t.footCheck permW x es else t.elemChecks permW x es) = none →
      (space x = 0 → (∀ e ∈ es, t.bytesFree (key e) e.n = true) →
        exec row.1 s = .next (t.pendAt (.store 0 (es.flatMap fun e => (bytes e).map fun y => (key e + y.1, y.2.1, y.2.2))) 0
          (if window x = 0 then 3 else 5)).passed)
      ∧ (space x ≠ 0 → s.me.optimistic = false → t.me.cnt.val (storeCtr x) < 255 →
        exec row.1 s = .next (parts.foldl (fun u p => u.part_ p.2.1
            (if foot then Nat.min (footprint (window x)) 32 else (p.2.2.map fun e => e.n).headD 1) (.store (from_ p.2.1 p.2.2))
            (if foot then .sector s.ids p.1 ((p.2.2.map fun e => e.lane).headD 0) else .vec s.ids ((p.2.2.map fun e => e.lane).headD 0))
            (if foot then cp.code else 0))
          (t.openGroup (storeCtr x) parts.length none 0)).passed)
      ∧ (space x ≠ 0 → t.mayHold (.store low (from_ low es)) = true → exec row.1 s = .next (t.held (.store low (from_ low es))).passed)))
  ∧ (∀ (s : State) (ck i : Nat) (bs : List WByte) (p : Pend), i < 8 → (s.core ck).vq = [] → (s.core ck).pend = [p] →
    p = { due := (s.core ck).cycle, slot := i, pc := p.pc, op := .store 0 bs, val := p.val, born := p.born } →
    let u := s.updCore ck fun c => { c with pend := [] }
    (∀ y ∈ bs, u.ownedFor [ck * 8 + i] p.born y.1 1 = false) →
    let t := s.performDue ck
    t = (u.writeW 0 bs).retest ∧ t.fe = s.fe ∧ (∀ j, (∀ y ∈ bs, j ≠ y.1) → memByte t.mem j = memByte s.mem j)
      ∧ ∀ pre y post, bs = pre ++ y :: post → (∀ z ∈ post, z.1 ≠ y.1) → y.2.2 = 0xFF#8 → memByte t.mem y.1 = y.2.1)

/-- R204, R206 to R208, R211, R216: a translating slice that holds the page, or whose walk ends in one, forwards the access to its
home; a stage-1 fault is reported to the service core, a stage-2 fault waits for the controller; the host's IOMMU answers; a
granule whose counter has reached the threshold moves to a free frame of its leader.
R216: a granule mapped by one page of 4 KiB, whose counter has reached its partition's threshold under another die than its
home, moves with its contents to a free frame homed at that die, and stage 2 maps it there. -/
def Obligations.TranslationsEnd : Prop :=
  (∀ (s : State) (f : Flight) (e : TlbEntry) (why : Nat), s.flight f.id = some f →
    let va := fld (s.inner f.addr) 0 48
    let at_ (n : Nat) : Option TlbEntry := s.tlbFind (n + xlateDie va f.pid) f.pid va f.op.perm false
    (f.stage = .xlate → (∀ w, f.op ≠ .touch w) → at_ 10000 = some e → exec (.translationRequest f.id) s =
      .next ((s.tlbAdd { e with loc := coreOf f.thr }).setHome f.id (hbmKey (e.pa + (va - e.va))) (e.va, e.size)))
    ∧ (f.stage = .xlate → at_ 10000 = none → at_ 20000 = none → s.translate f.pid va f.op.perm = (.fault1 why, none) →
      exec (.translationRequest f.id) s = .next ((s.draw.setStage f.id (.fault false)).service f.pid
        { kind := 0x40, tag := f.tag.toNat, thread := s.threadIn f.pid f.thr, w2 := f.addr
          w3 := word (f.op.faultKind + 4 * why + 16 * space f.addr) }))
    ∧ (f.stage = .xlate → at_ 10000 = none → at_ 20000 = none → s.translate f.pid va f.op.perm = (.fault2, none) →
      exec (.translationRequest f.id) s = .next (s.draw.setStage f.id (.s2 false)))
    ∧ (f.stage = .fault false → exec (.faultNotice f.id) s = .next (s.setStage f.id (.fault true)))
    ∧ (f.stage = .s2 false → exec (.faultNotice f.id) s = .next (s.setStage f.id (.s2 true)))
    ∧ (∀ noticed, f.stage = .s2 noticed → exec (.stage2FaultReply f.id true) s = .next (s.setStage f.id .xlate)
        ∧ exec (.stage2FaultReply f.id false) s = .next (s.failFlights f.thr [f] 0xFFF))
    ∧ (f.stage = .ats → exec (.atsReply f.id false) s = .next (s.failFlights f.thr [f] 0xFFE)
        ∧ ((∀ w, f.op ≠ .touch w) → ∃ t, exec (.atsReply f.id true) s = .next t
          ∧ t.flights = (s.setStage f.id (.home (hostKey (s.part f.pid).vf (fld f.addr 0 48)))).flights ∧ t.mem = s.mem)))
  ∧ (∀ (s : State) (pid g frame : Nat) (pt : Part) (m : S2Map),
    s.parts = [(pid, pt)] → pt.live = true → pt.s2 = [m] → m.pa = g * 4096 → m.size = 4096 →
    let c := FMap.get {} s.place g
    pt.threshold ≤ c.count → c.leader ≠ g % 288 → frame % 288 = c.leader → frame < 1728 * 2 ^ 18 → frame ≠ g →
    s.panel.mappable pt.key (frame * 4096) 4096 = true →
    ∃ t, exec (.pageMigration g frame) s = .next t ∧ (t.part pid).s2 = [{ m with pa := frame * 4096 }]
      ∧ (∀ i < 4096, memByte t.mem (hbmKey (frame * 4096) + i) = memByte s.mem (hbmKey (g * 4096) + i)
        ∧ memByte t.mem (hbmKey (g * 4096) + i) = 0)
      ∧ FMap.get {} t.place g = {})

/-! ## Barriers and channels -/

/-- R256 to R259: an arrival of a member stands until its phase is released; WAITB passes a slot without one; a phase is released
when every member of every quad has arrived and what came before is performed; an installed BARSET gives each quad its mask; a
head on a disabled group, or of no member, raises 0x10.
R256, R257: the release of a phase ends every arrival of it in the partition, be a BARSET in progress or not, and BARSET gives each
quad, by its number, its new mask. -/
def Obligations.WiredBarriers : Prop :=
  (∀ (s : State) (g : BitVec 5), s.barsetting s.myPid g.toNat = false →
    let m := FMap.get 0 s.myQuad.barmask g.toNat
    let trap (reason : Nat) : State := s.enterTrap s.cur 0x10 (word (g.toNat + reason * 256)) s.me.pc
    (m.getLsbD 32 = true → m.getLsbD (s.cur % 32) = true → s.me.optimistic = false → s.pendingArrival s.cur g.toNat = false →
      exec (.waitb g) s = .next s.passed
      ∧ (s.storesPending s.cur = [] → s.me.bst = false → s.me.task.repeats = none → ∃ t, exec (.arrive g) s = .next t ∧ t.me.pc = s.me.nextPc
        ∧ t.myQuad.arrived = s.myQuad.arrived ++ [{ g := g.toNat, slot := s.cur % 32, after := s.ids }]))
    ∧ (m.getLsbD 32 = false → exec (.arrive g) s = .next (trap 0) ∧ exec (.waitb g) s = .next (trap 0))
    ∧ (m.getLsbD 32 = true → m.getLsbD (s.cur % 32) = false →
      exec (.arrive g) s = .next (trap 1) ∧ exec (.waitb g) s = .next (trap 1))
    ∧ (m.getLsbD 32 = true → m.getLsbD (s.cur % 32) = true → s.me.optimistic = true →
      exec (.arrive g) s = .next (trap 3) ∧ exec (.waitb g) s = .next (trap 3)))
  ∧ (∀ (s : State) (pid g : Nat) (b : Barset),
    let qs := (s.quadsOf pid).filter fun qi => (FMap.get 0 (s.bars pid qi).1 g).getLsbD 32
    ((∃ qi ∈ qs, fld (FMap.get 0 (s.bars pid qi).1 g) 0 32 ≠ 0) → (∀ qi ∈ qs, s.quadArrived pid qi g = true) →
      exec (.barrierRelease pid g) s = .next ((s.notePassed pid g).clearArrivals pid g))
    ∧ ((s.part pid).barsets = [b] → b.g = g → b.masks ≠ [] → (∀ qi ∈ s.quadsOf pid, ∀ a ∈ (s.bars pid qi).2, a.g ≠ g) →
      exec (.barsetInstall pid g) s = .next (((b.masks.foldl (fun t m => t.setBarmask pid m.1 g m.2)
        (s.clearArrivals pid g)).updPart pid fun p =>
          { p with barsets := p.barsets.filter fun x => decide (x ≠ b) }).reply b.thr bsDone)))

/-- R261 to R265: TBINIT starts phase 0 with B arrivals expected; TBEXP adds bytes; TBARR arrives, and gives the phase it arrived
in; the phase after the last arrival and the last byte is the next one, modulo 16; TBTEST and TBWAIT compare the phase; an arrival
too many only sets OVF and raises 0x0E. That D of TBARR and TBTEST is written in cycle k + 6 is log entry 159 (DESIGN CHOICE): the cycle is
the model's. -/
def Obligations.TransactionBarriers : Prop :=
  ∀ (s : State) (d a b : Reg), s.mayPut d = true →
    let x := s.operand a
    let y := s.operand b
    let one := s.popPorts [a]
    let two := s.popPorts [a, b]
    let k := s.localKey s.cur (offset x)
    let z := s.tb k
    let go (t : State) (p : Perm) (init : Bool) : Prop := t.mayGo 0 x = true ∧ t.tbCheck p x init = none ∧ t.bytesFree k 16 = true
    (mayIssue { rd := [a, b] } s = true → go two permRW false → 1 ≤ y.toNat → y.toNat < 2 ^ 20 → exec (.tbinit a b) s =
      .next (two.setTb k { phase := 0, parr := y.toNat, exparr := y.toNat, pbytes := 0, ovf := false, init := true, rest := 0 }).passed)
    ∧ (mayIssue { rd := [a, b] } s = true → go two permRW true → z.pbytes + y.toNat < 2 ^ 48 →
      exec (.tbexp a b) s = .next (two.setTb k { z with pbytes := z.pbytes + y.toNat }.advance).passed)
    ∧ (mayIssue { rd := [a], wr := [d] } s = true → go one permRW true → one.fenceOk .part = true →
      (1 ≤ z.parr → exec (.tbarr d a) s =
        .next ((one.setTb k { z with parr := z.parr - 1 }.advance).writeReg s.cur d (word z.phase) 6).passed)
      ∧ (z.parr = 0 → exec (.tbarr d a) s =
        .next ((s.setTb k { z with ovf := true }).enterTrap s.cur 0x0E (setFld x 0 4 1) s.me.pc)))
    ∧ (mayIssue { rd := [a, b] } s = true → go two permR true → z.phase ≠ fld y 0 4 → exec (.tbwait a b) s = .next two.passed)
    ∧ (mayIssue { rd := [a, b], wr := [d] } s = true → go two permR true →
      exec (.tbtest d a b) s = .next (s.wrote [a, b] d (if z.phase = fld y 0 4 then 0 else 1) 6))
    ∧ (∀ t : Tb, t.advance = if t.parr = 0 ∧ t.pbytes = 0 then { t with phase := (t.phase + 1) % 16, parr := t.exparr } else t)
    ∧ (∀ v < 2 ^ 128, (Tb.ofNat v).toNat = v)

/-- R278 to R280, R286 to R290: a writer's push leaves for the home once there is room, in its order, and counts in STC.S; CHOFFER
gives 1 instead of waiting, and 3 on a poisoned channel; a reader takes the element at HEAD from the ring, or learns that there is none;
elements of all three kinds and of every size; CHLEN counts. R272, R292: CHINV waits for its quad's pushes, and then drops the entry, at the
home after its writes (log entry 147, DEDUCED: only there), and one kept as poisoned without them; one whose writes fail ends. R374: a
read from the ring makes its block the next to be moved. CHOFFER's 3 at state 2, whatever the entry says of a close, is log entry 39
(DEDUCED; the clause is the model's). That the status is in
D from cycle k + 6 on is log entry 40, and that B stands where D and B are one register log entry 35 (both DEDUCED); that these acts make the entry
the most recently used is log entry 155 (DESIGN CHOICE; the clause is the model's). -/
def Obligations.ChannelHeads : Prop :=
  ∀ (s : State) (d a b : Reg) (imm : BitVec 10) (e : ChanEnt) (r : Nat) (k : ElemKind), s.me.optimistic = false → s.me.bst = false →
    d.toNat < 32 → a.toNat < 32 → b.toNat < 32 →
    e.id = chanId (s.operand a) imm → e.id < s.myPart.chanCount → s.chanAt (quadOf s.cur) s.myPid e.id = some e → e.valid = true →
    let put (v : Nat) : State := s.wrote [] d (word v) 6
    let y := s.operand b
    let at_ := s.localKey s.cur (offset y)
    let kindOk (p : Perm) : Prop := (k = .s → e.esize = 0)
      ∧ (k = .a → space y = 0 ∧ window y = 0 ∧ mustBeZero y = true ∧ y.toNat % Nat.min e.esz 32 = 0 ∧ s.localCheck s.cur p y e.esz = none
        ∧ s.bytesFree at_ e.esz = true)
    let data : List Byte := match k with
      | .s => leBytes 8 y.toNat
      | .v => leBytes e.esz (s.vReg s.cur (b.setWidth 5).toNat).toNat
      | .a => s.rdBytes at_ e.esz
    let elem := s.rdBytes (s.ringKey (quadOf s.cur) e r e.head) e.esz
    let noted := s.noteBlock (quadOf s.cur) (s.ringKey (quadOf s.cur) e r e.head)
    let taken (t : State) : State :=
      let u := t.writeReg s.cur d 0 6
      (match k with
      | .s => u.writeReg s.cur b (word (ofBytes elem)) 6
      | .v => (u.updMyCore fun c => { c with pend := c.pend ++ [({
            due := c.cycle + 10, slot := slotNo s.cur, pc := s.me.pc
            op := .vec (b.setWidth 5).toNat (BitVec.ofNat 2048 (ofBytes elem)) 0 } : Pend)] }).updMe
          fun x => { x with busy := x.busy ++ [64 + (b.setWidth 5).toNat] }
      | .a => u.wrBytes at_ elem).passed
    let push : Use := match k with
      | .v => { rd := [a], vs := [b.setWidth 5] }
      | _ => { rd := [a, b] }
    let pop : Use := match k with
      | .s => { rd := [a], wr := [d, b] }
      | .v => { rd := [a], wr := [d], vs := [b.setWidth 5] }
      | .a => { rd := [a, b], wr := [d] }
    (e.writer = s.relThread s.cur → kindOk permR →
      (e.state = 2 → mayIssue { push with wr := [d] } s = true → exec (.choffer k d a b imm) s = .next (put 3))
      ∧ (e.state = 0 → e.closed = false → s.me.task.closed = [] → s.acquiring = false → s.fenceOk .part = true → s.me.cnt.stcS < 255 →
        let gone := s.sendPush s.cur e data false true s.me.pc
        (e.writerRoom = true → mayIssue push s = true → exec (.chpush k a b imm) s = .next gone.passed)
        ∧ (mayIssue { push with wr := [d] } s = true →
          (e.writerRoom = true → exec (.choffer k d a b imm) s = .next (gone.writeReg s.cur d 0 6).passed)
          ∧ (e.writerRoom = false → exec (.choffer k d a b imm) s = .next (put 1)))
        ∧ (mayIssue { rd := [a] } s = true → exec (.chclose a imm) s = .next (s.sendPush s.cur e [] true true s.me.pc).passed)))
    ∧ (e.reader = s.relThread s.cur → kindOk permW → s.acquiring = false → mayIssue pop s = true →
      (e.state = 2 → exec (.chpop k d a b imm) s = .next (put 3) ∧ exec (.chtake k d a b imm) s = .next (put 3)
        ∧ exec (.chpeek k d a b imm) s = .next (put 3))
      ∧ (e.state = 1 → e.head = e.tail → exec (.chpop k d a b imm) s = .next (put 2) ∧ exec (.chtake k d a b imm) s = .next (put 2)
        ∧ exec (.chpeek k d a b imm) s = .next (put 2))
      ∧ (e.state = 0 → e.head = e.tail → exec (.chtake k d a b imm) s = .next (put 1) ∧ exec (.chpeek k d a b imm) s = .next (put 1)
        ∧ exec (.chpop k d a b imm) s = .next (s.blockMe (.chEmpty e.id)))
      ∧ (e.state ≠ 2 → e.head < e.tail → e.head < e.sph → e.ring = some r →
        exec (.chpop k d a b imm) s = .next (taken (noted.touchChan (quadOf s.cur) (e.popped false)))
        ∧ exec (.chtake k d a b imm) s = .next (taken (noted.touchChan (quadOf s.cur) (e.popped false)))
        ∧ exec (.chpeek k d a b imm) s = .next (taken (noted.touchChan (quadOf s.cur) e))))
    ∧ (e.reader = s.relThread s.cur → mayIssue { rd := [a], wr := [d] } s = true → exec (.chlen d a imm) s =
      .next ((s.touchChan (quadOf s.cur) e).writeReg s.cur d (word (e.tail - e.head)) 6).passed)
    ∧ (mayIssue { rd := [a] } s = true → s.me.answered = false →
      (s.unacked (quadOf s.cur) s.myPid e.id = false → s.chanWaits (quadOf s.cur) e = false →
        (s.isHome (quadOf s.cur) e = false ∨ e.lost = true → exec (.chinv a imm) s = .next (s.dropChan (quadOf s.cur) e).passed)
        ∧ (∀ t, s.evictChan (quadOf s.cur) e = .ok t → exec (.chinv a imm) s = .next t.passed))
      ∧ (s.unacked (quadOf s.cur) s.myPid e.id = true ∨ s.chanWaits (quadOf s.cur) e = true →
        exec (.chinv a imm) s = .next (s.blockMe (.chAcks e.id))))
    ∧ (s.me.answered = true → exec (.chinv a imm) s = .next s.passed)

/-- R271 to R275, R279, R280: at its home a push in its order is accepted, into the ring when its place is there and nothing has
been let out; a close mark closes; a push to a poisoned channel only ends; a pop's element from spill reaches its register.
R218, R271: the home's answer to a push travels back, and ends its count at the writer, which takes 0x0A with reason 6 on a refusal.
R271, R272, R274, R281, R287, R289: a fill that has been read enters the quad's cache, at the home with a ring where one fits; a refill
moves the next spilled element into the ring; the victim of a full cache leaves it for a fill that waits; the writer's quad learns what
the home has freed; an element from spill arrives at its registers, B after D (log entry 35). That an accepted push makes its entry the most recently used is log entry 155 (DESIGN CHOICE; the
clause is the model's). -/
def Obligations.ChannelHomeEvents : Prop :=
  (∀ (s : State) (p : PushMsg) (e : ChanEnt) (tk r : Nat), s.pushes = [p] → s.threadKey p.pid p.reader = some tk →
    s.arrived p.pkt = true → p.acked = false → (s.quad (quadOf tk)).contained = false → s.chanAt (quadOf tk) p.pid p.ch = some e →
    s.invalidating (quadOf tk) p e = false → e.valid = true →
    let qi := quadOf tk
    let k := s.ringKey qi e r e.tail
    (e.state = 2 ∨ p.seq < e.tail → exec (if p.close then .channelCloseApply p.id else .channelPushAccept p.id) s = .next (s.answerPush p false))
    ∧ (p.close = false → e.state ≠ 2 → p.seq = e.tail → s.elemWaits qi e e.tail = false → e.ring = some r → e.sph = e.tail →
      e.tail - e.keep < e.cap → s.threadKey e.pid e.reader = some tk → (s.slotIn e.pid tk).bst = false →
      exec (.channelPushAccept p.id) s = .next ((((s.noteBlock qi k).wrBytes k p.data).touchChan qi
        { e with tail := seqNext e.tail, sph := seqNext e.tail }).answerPush p false))
    ∧ (p.close = true → e.state ≠ 2 → p.seq = e.tail →
      exec (.channelCloseApply p.id) s = .next ((s.setChan qi { e with state := 1 }).answerPush p false)))
  ∧ (∀ (s : State) (p : PushMsg), s.pushes = [p] → s.flight p.id = none → p.acked = true → p.counted = true → s.arrived p.pkt = true →
    let ended := ({ s.dropPacket p.pkt with pushes := [] } : State).endCount p.src 1
    (p.refused = false → exec (.storeAck p.id) s = .next ended)
    ∧ (p.refused = true → exec (.storeAck p.id) s = .next ((ended.postOrReport p.src 0x0A (word (p.ch + 6 * 4096)) p.pc).updQuad (quadOf p.src)
      fun q => { q with chans := q.chans.filter fun x => !decide (x.pid = p.pid ∧ x.id = p.ch) })))
  ∧ (∀ (s : State) (qi ch k wk r : Nat) (f : Flight) (e w : ChanEnt) (l : List ChanEnt) (bs : List Byte) (p : SpillPop), qi < 2304 →
    (s.flights = [f] → quadOf f.thr = qi → f.ret = .fill ch false → f.stage = .home k → s.chanAt qi f.pid ch = none →
      (s.quad qi).chans.length < 64 → s.ownedFor [f.thr] f.id k 64 = false → s.mayPerform f = true →
      let x := s.fillEntry qi ch f.pid f.addr fun n => s.rd8 (k + 8 * n)
      let t := ((s.endReplay qi x).takeId.removeFlight f).touchChan qi x
      (x.valid = false ∨ s.isHome qi x = false → exec (.channelFill qi ch) s = .next t)
      ∧ (x.valid = true → s.isHome qi x = true → (s.quad qi).ctxs.length < 2 →
        (x.state ≠ 2 → t.ringFit qi x = some r → exec (.channelFill qi ch) s = .next (t.setChan qi { x with ring := some r }))
        ∧ (x.state = 2 ∨ t.ringFit qi x = none → exec (.channelFill qi ch) s = .next t)))
    ∧ (s.chansHere qi ch = e :: l → e.ring = some r → s.isHome qi e = true → e.valid = true → e.state ≠ 2 → e.sph < e.tail →
      e.sph - e.keep < e.cap → s.elemWaits qi e e.sph = false → s.spillRead qi e e.sph = .ok bs →
      exec (.channelRefill qi ch) s = .next ((((s.spillFill e e.sph).noteBlock qi (s.ringKey qi e r e.sph)).wrBytes (s.ringKey qi e r e.sph) bs).setChan qi
        { e with sph := seqNext e.sph, letout := e.letout && decide (seqNext e.sph ≠ e.tail) }))
    ∧ (s.victim qi = some e → e.id = ch → 64 ≤ (s.quad qi).chans.length → (∃ g ∈ s.flights, quadOf g.thr = qi ∧ g.fills = true) →
      s.unacked qi e.pid e.id = false → s.chanWaits qi e = false → s.isHome qi e = false → exec (.channelEviction qi ch) s = .next (s.dropChan qi e))
    ∧ (s.chansHere qi ch = e :: l → s.threadKey e.pid e.writer = some wk → s.chanAt (quadOf wk) e.pid ch = some w →
      s.isHome qi e = true → e.valid = true → w.valid = true → exec (.channelRoomReport qi ch) s =
        .next (s.setChan (quadOf wk) { w with wkeep := e.keep, whead := e.head, letLim := e.letLim }))
    ∧ (s.spillPops = [p] → p.qi = qi → p.ch = ch → p.kind = 0 → exec (.channelSpillPopReturn qi ch) s =
        .next ((({ s with spillPops := [] } : State).arriveReg p.thr p.d 0 p.pc p.due).arriveReg p.thr p.b (word (ofBytes p.data)) p.pc p.due)))

/-- R283 to R285: a slot in a channel wait of 2,048 cycles sends a probe along its wait; the probe follows each edge, is lost
where a thread no longer waits or when it is older than 4,096 cycles, reports a deadlock when it comes back without a candidate,
and else lets the candidate grow by its STEP. -/
def Obligations.LetOutDetector : Prop :=
  ∀ (s : State) (tk qi : Nat) (p : Probe) (e : Edge1) (x : ChanEnt) (c : Nat × Nat), tk < 73728 → s.probes = [p] →
    (s.edgeOf (s.pidOf tk) tk = some e → 2048 + 4096 * (s.slot tk).probes ≤ (s.slot tk).chWaited →
      ∃ t, exec (.probeSend tk) s = .next t ∧ t.probes.length = 2 ∧ (t.slot tk).probes = (s.slot tk).probes + 1)
    ∧ (p.returned = false → s.threadKey p.pid p.target = some tk →
      (s.edgeOf p.pid tk = none ∨ s.probeOld p = true → exec (.probeArrival p.id) s = .next { s with probes := [] })
      ∧ (s.edgeOf p.pid tk = some e → s.probeOld p = false → p.target ≠ p.origin → exec (.probeArrival p.id) s = .next { s with probes := [p.add p.target e] })
      ∧ (s.edgeOf p.pid tk = some e → s.probeOld p = false → p.target = p.origin → (s.slot tk).waitNo = p.waitNo → p.lowest = p.origin → p.cand = none →
        exec (.probeArrival p.id) s = .next (({ s with probes := [] } : State).deadlock p tk)))
    ∧ (p.returned = false → s.threadKey p.pid p.origin = some tk → p.sent + 4096 ≤ (s.core (coreOf tk)).cycle →
      exec (.probeExpiry p.id) s = .next { s with probes := [] })
    ∧ (p.returned = true → p.cand = some c → s.homeEntry p.pid c.1 = some (qi, x) → x.valid = true → x.full = true → x.state = 0 →
      let g := Nat.min (Nat.max x.step 1) x.allowance
      exec (.letoutRequest p.id) s = .next (({ s with probes := [] } : State).setChan qi
        { x with letLim := x.letLim + g, allowance := x.allowance - g, locnt := Nat.min 0xFFFF (x.locnt + 1) }))

/-! ## Tasks -/

/-- R30, R169, R319 to R324: the heads that read a task's piece, its allowances, the key ring and the tile geometry; DEC counts an
armed cell down; SPLIT rips a task that can be split and passes one that cannot.
R308, R319: an armed cell above 1 counts down; from 1 it goes to 0, is disarmed, and its launch record enters its context's ready
ring; a cell that is not armed, or is at 0, stands. -/
def Obligations.TaskHeads : Prop :=
  (∀ (s : State) (d a : Reg) (n : BitVec 22), s.mayPut d = true →
    let h := s.taskHdr s.cur
    let r := s.me.sr
    let put (v : Word) : State := s.wrote [] d v 3
    let x := s.operand a
    let t := s.popPorts [a]
    let k := s.localKey s.cur (offset x)
    let g := s.geomOf (coreOf s.cur)
    (mayIssue { wr := [d] } s = true →
      exec (.domain .ext d n) s = .next (put (if n.toNat < hdrNf h then word (hdrExt h n.toNat) else 0))
      ∧ exec (.domain .org d n) s = .next (put (if n.toNat < hdrNf h then word (hdrField h s.me.task.wid n.toNat) else 0))
      ∧ exec (.domain .cnt d n) s = .next (put (if n.toNat < hdrNf h then word (s.me.task.piece.cnt.getD n.toNat 0) else 0))
      ∧ exec (.domain .nf d n) s = .next (put (word (hdrNf h)))
      ∧ exec (.allow .cyc d) s = .next (put (if r.allow.getLsbD 48 then BitVec.allOnes 64 else word (fld r.allow 0 48)))
      ∧ exec (.allow .sp d) s = .next (put (word (saLimit r.spallot * 64) - word (saTop r.spallot * 64)))
      ∧ exec (.allow .eff d) s = .next (put (if s.me.optimistic then word (s.me.task.effRes - s.me.task.heldBytes) else 0))
      ∧ exec (.allow .reg d) s = .next (put r.regallot)
      ∧ (∀ sel v, (sel, v) ∈ [(GeomSel.mlo, g.mlo), (.mcnt, g.mcnt), (.nlo, g.nlo), (.ncnt, g.ncnt), (.klo, g.klo), (.kcnt, g.kcnt),
          (.edge, (2 ^ g.ncnt - 1) + g.kcnt * 2 ^ 32 + g.mcnt * 2 ^ 40)] → exec (.geom sel d) s = .next (put (word v))))
    ∧ (mayIssue { rd := [a], wr := [d] } s = true → exec (.keyhome d a) s = .next (s.wrote [a] d (word (keyHome s.myPart.ring x)) 8))
    ∧ (mayIssue { rd := [a] } s = true → t.mayGo 0 x = true → t.cellCheck x = none →
      (s.me.optimistic = false → t.fenceOk .part = true → space x = 0 → t.bytesFree k 16 = true →
        exec (.dec a) s = .next (t.decCell k).passed)
      ∧ (t.mayHold (.dec x) = true → exec (.dec a) s = .next (t.held (.dec x)).passed))
    ∧ (s.me.optimistic = true → exec .split s = .next (if s.splittable s.cur then s.rip s.cur true else s.passed))
    ∧ (s.me.optimistic = false → exec .split s = .next (s.enterTrap s.cur 0x02 0 s.me.pc)))
  ∧ (∀ (s : State) (k : Nat),
    let w := s.rd8 k
    let q := s.quad (s.ringQuad k)
    (w.getLsbD 63 = false ∨ fld w 0 32 = 0 → s.decCell k = s)
    ∧ (w.getLsbD 63 = true → 1 < fld w 0 32 → s.decCell k = s.wr8 k (w - 1))
    ∧ (w.getLsbD 63 = true → fld w 0 32 = 1 → q.readyRoom (s.sharePid k) = true →
      (∀ c ∈ q.pendCells, s.sharePid c ≠ s.sharePid k) → ∃ v, (s.decCell k).rd8 k = v
      ∧ v.getLsbD 63 = false ∧ fld v 0 32 = 0 ∧ ((s.decCell k).quad (s.ringQuad k)).ready = q.ready ++ [(s.sharePid k, s.rd8 (k + 8))]))

/-- R298, R310, R317, R318: LAUNCH and SPAWN, checked and released, send their header's address to the quad's engine, LAUNCH waiting
for the answer; an optimistic task holds a spawn.
R298, R308, R317 to R319: the engine answers a launch with the status of its header's checks, or with its record's handle; a
refused spawn raises 0x02 with its reason; a DEC that has arrived counts its cell down; the ready ring is filled and emptied.
That a header's checks come before the room of the engine and of the cell is log entry 44 (DEDUCED). -/
def Obligations.LaunchAndSpawn : Prop :=
  (∀ (s : State) (d a b : Reg), s.me.op = .none →
    let x := s.operand a
    let t := s.popPorts [a, b]
    let r : LaunchReq := { id := s.ids, quad := quadOf s.cur, pid := s.myPid, hdr := x, thr := some s.cur, pc := s.me.pc }
    t.mayGo 0 x = true → t.headerCheck x = none →
    (s.me.optimistic = false → t.fenceOk .part = true →
      (mayIssue { rd := [a, b], wr := [d] } s = true → exec (.launch d a b) s =
        .next ({ t.takeId with launches := s.launches ++
          [{ r with override := if b.toNat = 0 then none else some (s.operand b) }] } : State).await)
      ∧ (mayIssue { rd := [a, b] } s = true → t.me.cnt.stcS < 255 → exec (.spawn a b) s =
        .next ({ (t.addCount s.cur 1).takeId with launches := s.launches ++
          [{ r with tile := if b.toNat = 0 then none else some (s.operand b), spawn := true, counted := true }] } : State).passed))
    ∧ (mayIssue { rd := [a, b] } s = true → t.mayHold (.spawn x (if b.toNat = 0 then none else some (s.operand b))) = true →
      exec (.spawn a b) s = .next (t.held (.spawn x (if b.toNat = 0 then none else some (s.operand b)))).passed))
  ∧ (∀ (s : State) (r : LaunchReq) (hdr : List Word) (qi tk k : Nat) (f : Flight) (rec : Nat × Word) (cells : List Nat)
    (recs : List (Nat × Word)), s.readHeader r = .ok hdr → r.back = none → qi < 2304 →
    let ans := (s.headerFill r).submit r hdr
    let left := ans.2.dropLaunch r.id
    (s.launches = [r] → r.spawn = false → exec (.launchAccept r.id) s = .next (left.answerLaunch r ans.1))
    ∧ (s.launches = [r] → r.spawn = true → r.counted = true → r.thr = some tk →
      (fld ans.1 0 8 = 0 → exec (.spawnAccept r.id) s = .next (left.endCount tk 1))
      ∧ (fld ans.1 0 8 = 2 → exec (.spawnAccept r.id) s =
        .next ((left.endCount tk 1).postOrReport tk 0x02 (word (fld ans.1 8 8)) r.pc)))
    ∧ (s.hdrReason r.quad r.pid hdr r.override r.tile ≠ 0 →
      s.submit r hdr = (word (2 + s.hdrReason r.quad r.pid hdr r.override r.tile * 256), s))
    ∧ (s.flight f.id = some f → f.stage = .atNI qi → f.op = .dec → s.shareAt f.pid qi (offset f.addr) 16 = some k → s.flightOwned f k = false →
      exec (.depCellDecrement f.id) s = .next (((s.decCell k).setStage f.id .ack).respond f.id qi))
    ∧ ((s.quad qi).pendCells = k :: cells → (s.quad qi).readyRoom (s.sharePid k) = true → exec (.readyRingPush qi) s =
      .next ((s.wr8 k (setFld (s.rd8 k) 62 1 0)).setQuad qi
        { s.quad qi with pendCells := cells, ready := (s.quad qi).ready ++ [(s.sharePid k, s.rd8 (k + 8))] }))
    ∧ ((s.quad qi).ready = rec :: recs →
      let t := s.updQuad qi fun q => { q with ready := recs }
      (t.launchRec rec.1 rec.2).hdr ≠ [] → exec (.readyRecordPlace qi) s = .next (t.placeRec rec.1 rec.2)))

/-- R302 to R306: a waiting piece enters the tail of its list, its record's own quad's among them; the head of the highest list
whose head fits binds to a free slot, its registers zero and its allotments its header's, an optimistic entry with its whole piece and
a pinned one with its next tile; an entry of 2^20 cycles moves up. -/
def Obligations.RunListsAndBinding : Prop :=
  ∀ (s : State) (qi rec d idx prio : Nat) (w : Nat × Piece) (e : Entry) (rest : List Entry) (tk u : Nat), qi < 2304 → prio ≤ 3 →
    let q := s.quad qi
    let r := FMap.get {} q.recs rec
    let pid := (s.ctx qi).pid
    let now := (s.region (regionOf qi)).cycle
    let hdr (x : Entry) : List Word := (s.launchRec pid x.handle).hdr
    let h := hdr e
    let free := 65536 - s.effectUse qi
    let piece := e.next (hdrPin h)
    (r.waiting = [w] → s.physQuad r.pid w.1 = some d → (s.quad d).entries r.pid < 4032 →
      (∀ x ∈ q.recs, x.2.seq < r.seq → x.2.waiting = []) →
      ∃ t, exec (.pieceEnqueue qi rec) s = .next t ∧ ∃ x, x.piece = w.2 ∧ x.since = (s.region (regionOf d)).cycle
        ∧ (t.quad d).list r.pid (hdrPrio r.hdr) = (s.quad d).list r.pid (hdrPrio r.hdr) ++ [x]
        ∧ (FMap.get {} (t.quad qi).recs rec).waiting = [])
    ∧ ((∀ n ≤ 3, prio < n → ∀ x, (q.list pid n).head? = some x → free < hdrEff (hdr x) ∨ s.allotFor qi pid (hdr x) = none) →
      q.list pid prio = e :: rest → s.bindSlot qi = some tk → hdrEff h ≤ free → s.allotFor qi pid h = some u →
      (s.region (regionOf qi)).mayBind = true → q.halted = false → q.swapping = false → q.contained = false → (s.ctx qi).leaving = false →
      ∃ t, exec (.taskBind qi) s = .next t ∧ (t.slot tk).st = .ready ∧ (t.slot tk).pc = hdrWord h 0
        ∧ (t.slot tk).sr.status = (if hdrPin h then 0x20#64 else 0x10#64) ∧ (t.slot tk).t = [] ∧ (t.slot tk).v = [] ∧ (t.slot tk).m = []
        ∧ (t.slot tk).task.piece = piece ∧ (t.slot tk).task.wid = hdrPack h piece.org
        ∧ (t.slot tk).sr.spallot = word (u + (u + hdrSpa h) * 2 ^ 19 + u * 2 ^ 38)
        ∧ (t.quad qi).list pid prio =
          if hdrPin h = true ∧ e.nextTile + 1 < e.piece.tiles then { e with nextTile := e.nextTile + 1 } :: rest else rest)
    ∧ e.next false = e.piece
    ∧ e.next true = { org := tileOf e.piece.org e.piece.cnt e.nextTile, cnt := List.replicate e.piece.org.length 1 }
    ∧ (∀ list < 3, q.ctxs ≠ [] → (q.list pid list)[idx]? = some e → e.since + 2 ^ 20 ≤ now → ∃ t, exec (.runListPromotion qi list idx) s = .next t
      ∧ (t.quad qi).list pid (list + 1) = q.list pid (list + 1) ++ [{ e with since := now }]
      ∧ (t.quad qi).list pid list = (q.list pid list).eraseIdx idx)

/-- R310, R325, R397: TEND ends a drained task and frees its slot; an optimistic task's held records are then performed in order,
the first of them first: a store writes its bytes, a RED and a DEC act at their address, a spawn, a message and a push are sent and
end when they have arrived, one that is refused is reported; the last of them ends the piece; the cycle allowance's end raises 0x17
once in a pinned task. That a push refused at an invalid or a poisoned channel is reported with KIND 0x41, cause 0x0A and reason 6 or 5 is
log entry 60 (DEDUCED; the clause is the model's). -/
def Obligations.TasksEndAndDrain : Prop :=
  ∀ (s : State) (qi tk : Nat) (d : DrainTask) (e : Effect) (rest : List Effect) (a b tag : Word) (k n op sent : Nat) (p : Place)
    (ch : ChanEnt) (data : List Byte) (tile : Option Word) (bs : List WByte) (ks : List (Nat × Byte × Byte)), qi < 2304 → tk < 73728 →
    let drained (t : State) (x : DrainTask) : State :=
      if x.recs = [] then (t.updQuad qi fun q => { q with drain := q.drain.eraseIdx 0 }).pieceDone x.pid (some x.handle) x.failed
      else t.updQuad qi fun q => { q with drain := q.drain.set 0 x }
    let past (t : State) : Res := .next (drained t { d with recs := rest })
    let gone (t : State) : Res := .next (drained t { d with sent := some s.ids })
    let lost (cause : Nat) (info : Word) : Res := .next (drained (s.service d.pid
      { kind := 0x41, thread := s.threadIn d.pid d.thr, info, w2 := d.handle, w3 := word cause }) { d with failed := true, recs := rest })
    let filled := s.drainFill d e
    (s.me.kind ≠ 3 → s.me.cnt = {} → s.noPending s.cur = true → (s.me.kind = 2 → s.fenceOk .dom = true) →
      exec .tend s = .next (s.endTask s.cur))
    ∧ (s.me.kind = 3 → exec .tend s = .next (s.enterTrap s.cur 0x02 0 s.me.pc))
    ∧ ((s.quad qi).drain = [d] → d.faulted = false → (s.quad qi).contained = false →
      (d.sent = some sent →
        (s.sentPending sent = true → exec (.effectDrainRecord qi 0) s = .next s)
        ∧ (s.sentPending sent = false → exec (.effectDrainRecord qi 0) s = .next (drained s { d with sent := none, recs := d.recs.tail })))
      ∧ (d.sent = none → d.recs = [] → exec (.effectDrainRecord qi 0) s =
        .next ((s.updQuad qi fun q => { q with drain := [] }).pieceDone d.pid (some d.handle) d.failed))
      ∧ (d.sent = none → d.recs = e :: rest → s.runs d.pid d.thr = true →
        (e = .store a bs → filled.drainBytes d a bs = .ok ks → exec (.effectDrainRecord qi 0) s = past (filled.drainWrite d ks)
          ∧ (filled.drainWrite d ks).mem =
            ks.foldl (fun m x => FMap.set 0 m x.1 (keptBits (memByte m x.1) x.2.1 x.2.2)) s.mem)
        ∧ (e = .red a op n b → redRsn n b = 0 → filled.drainKey d permRW a n = .ok k → isHbm k = false →
          exec (.effectDrainRecord qi 0) s = past (filled.atomicAt d.thr k n (.amo op b) none).2)
        ∧ (e = .dec a → filled.drainKey d permRW a 16 = .ok k → exec (.effectDrainRecord qi 0) s = past (filled.decCell k))
        ∧ (e = .spawn a tile → exec (.effectDrainRecord qi 0) s = gone { s.takeId with launches := s.launches ++
          [{ id := s.ids, quad := qi, pid := d.pid, hdr := a, tile, thr := some d.thr, spawn := true, handle := d.handle }] })
        ∧ (e = .msg a tag data →
          (s.msgPlace d.pid a = none → exec (.effectDrainRecord qi 0) s = lost 0x07 a)
          ∧ (s.msgPlace d.pid a = some p → (s.core (coreOf d.thr)).txRoom = true →
            exec (.effectDrainRecord qi 0) s = gone (s.post d.thr p a tag data false d.handle)))
        ∧ (e = .push k data → s.chanAt qi d.pid k = some ch →
          (ch.valid = false → exec (.effectDrainRecord qi 0) s = lost 0x0A (word (k + 6 * 4096)))
          ∧ (ch.valid = true → ch.state = 2 → exec (.effectDrainRecord qi 0) s = lost 0x0A (word (k + 5 * 4096)))
          ∧ (ch.valid = true → ch.state = 0 → ch.closed = false →
            (ch.writerRoom = false → exec (.effectDrainRecord qi 0) s = .next s)
            ∧ (ch.writerRoom = true → exec (.effectDrainRecord qi 0) s = gone (s.sendPush d.thr ch data false false d.handle))))))
    ∧ ((s.slot tk).st ≠ .free → (s.slot tk).sr.allow.getLsbD 48 = false → fld (s.slot tk).sr.allow 0 48 = 0 →
      (s.slot tk).task.cycRaised = false → (s.slot tk).optimistic = false → exec (.cycleAllowanceExhausted tk) s =
        .next ((s.updSlot tk fun y => y.updTask fun t => { t with cycRaised := true }).postAsync tk 0x17 2))

/-! ## The yoke and copies -/

/-- R160, R163 to R167, R179 to R185: the heads of the yoke enter their core's order, or their engine, with a count in TLC where
they have one; a scale block is taken when its sequence number is the one asked for. R178: it is staged at once where no gang of the core
waits for its join, and else when the gangs before it have joined; that D says what stands staged, or waits to be, at the issue is log
entry 160 (DEDUCED). -/
def Obligations.YokeHeads : Prop :=
  ∀ (s : State) (d a b c : Reg) (v : VReg) (g : BitVec 22) (first : BitVec 6) (count : BitVec 7) (fmt : OFmt) (r : Rnd)
    (blk : Scale) (blks : List Scale), s.mayPut d = true →
    let x := s.operand a
    let y := s.operand b
    let w := window x
    let ck := coreOf s.cur
    let one := s.popPorts [a]
    let two := s.popPorts [a, b]
    let three := s.popPorts [a, b, c]
    let port := s.popPorts [b]
    let named (t : State) (o : SliceOp) : State := ((t.takeId.enterOp o).addCount s.cur 6).passed
    exec .wswap s = .next (s.enterOp .wswap).passed
    ∧ exec (.mzero first count) s = .next (s.enterOp (.mzero first.toNat count.toNat)).passed
    ∧ (mayIssue { vs := [v] } s = true → exec (.mread v g) s = .next ((s.updMe fun z =>
        { z with busy := z.busy ++ [64 + v.toNat] }).enterOp (.mread (slotNo s.cur) g.toNat v.toNat)).passed)
    ∧ (mayIssue { rd := [a] } s = true → one.mayGo 0 x = true → space x = 2 → mustBeZero x = true → x.toNat % 64 = 0 → one.me.cnt.tlc < 15 →
      exec (.ltab a) s = .next (({ one.takeId with ltabs := s.ltabs ++ [{ id := s.ids, thr := s.cur, addr := x }] } : State).addCount s.cur 6).passed)
    ∧ (mayIssue { rd := [a, b] } s = true → two.mayGo 0 x = true → space x = 0 ∨ space x = 1 → w ≠ 0 → x.toNat % 64 = 0 →
      two.leaves s.cur x (imageBytes w) = false → two.guardTrap s.cur permR x (imageBytes w) = none → two.me.cnt.tlc < 15 →
      exec (.wload a b) s = .next (named two (.wload s.ids (slotNo s.cur) x y none))
      ∧ ((two.core ck).slice.scales = blk :: blks → intWindow w = false → blk.seq.toNat = fld y 0 16 → blk.codes.length = depthOf w →
        exec (.wloadSc a b) s = .next (named (two.updSlice ck fun l => { l with scales := blks }) (.wload s.ids (slotNo s.cur) x y (some blk)))))
    ∧ (mayIssue { rd := [a, b, c] } s = true → three.mayGo 0 x = true → drainBad y = false → space x = 0 → w = 0 → x.toNat % 32 = 0 →
      (s.operand c).toNat % 32 = 0 → three.drainTrap s.cur x (s.operand c) (drainRows y).2 (32 * outBytes fmt) = none → three.me.cnt.tlc < 15 →
      exec (.mdrain fmt r a b c) s = .next (named three
        (.mdrain s.ids (slotNo s.cur) false fmt r x (drainRows y).1 (drainRows y).2 (s.operand c).toNat 0 0)))
    ∧ (mayIssue { rd := [b] } s = true → drainBad y = false → port.acquiring = false → port.me.cnt.tlc < 15 →
      exec (.mdrainPort fmt r b) s = .next (named port (.mdrain s.ids (slotNo s.cur) true fmt r 0 (drainRows y).1 (drainRows y).2 0 0 0)))
    ∧ (mayIssue { rd := [a], wr := [d] } s = true → fld x 17 47 = 0 →
      ((one.core ck).slice.scales = blk :: blks → x.getLsbD 16 = false → blk.seq.toNat = fld x 0 16 →
        let l := (one.core ck).slice
        ((∀ o ∈ l.ops, o.unjoined = false ∧ o.stages = false) → exec (.sbtake d a) s =
          .next ((one.updSlice ck fun l => { l with scales := blks, staged := some blk }).writeReg s.cur d (if l.staged.isSome then 1 else 0) 3).passed)
        ∧ ((∃ o ∈ l.ops, o.unjoined = true ∨ o.stages = true) → exec (.sbtake d a) s =
          .next (((one.updSlice ck fun l => { l with scales := blks }).enterOp (.stage (some blk))).writeReg s.cur d
            (if l.staged.isSome || l.ops.any SliceOp.stages then 1 else 0) 3).passed))
      ∧ ((one.core ck).slice.scales = [] → x.getLsbD 16 = true → exec (.sbtake d a) s = .next (s.wrote [a] d (BitVec.ofNat 64 (2 ^ 64 - 1)) 3)))

/-- R160, R162, R172, R174, R178, R179, R183 to R185, R188: the yoke's engines: a table, an image and a row that have been read act
at once and end their counts; a drained row is written whole, and the last one ends the drain; a handle enters c28, the last one
marked; a failed read hands back. That a table or an image is read whole in one event is log entry 63 (DEDUCED).
R174 to R177: a part of a gang adds to each accumulator of its row that EDGE leaves in the exact sum of the products of the row's
elements, scaled where the part has a staged block, and the active plane's column, and ZERO replaces the accumulator; the integer
modes wrap, and the float modes round the sum once, with the rules of R175 for NaNs, infinities and zeros. -/
def Obligations.YokeEvents : Prop :=
  (∀ (s : State) (ck qi slot id v : Nat) (a b val : Word) (o : LtabOp) (scale : Option Scale) (g : Gang)
    (p : Nat × GangPart) (fmt : OFmt) (r : Rnd) (first count stride row col why : Nat) (fin : Bool), ck < 9216 → qi < 2304 → slot < 8 → id ≠ 0 →
    let q := s.quad (ck / 4)
    let cells (i : Nat) : Word := (s.core ck).slice.accAt (first + row) i
    (s.ltabs = [o] → (s.quad (quadOf o.thr)).contained = false → s.yokeRead o.thr o.addr 32 = .ok v → ∃ t, exec (.ltabDone o.id) s = .next t
      ∧ t.ltabs = [] ∧ (∀ i < 256, FMap.get 0 (t.quad (quadOf o.thr)).ltab i = BitVec.ofNat 32 (bitsAt v (32 * i) 32))
      ∧ (t.slot o.thr).cnt.tlc = (s.slot o.thr).cnt.tlc - 1)
    ∧ (q.contained = false → (s.core ck).slice.ops = [.wload id slot a b scale] → s.yokeRead (ck * 8 + slot) a (imageBytes (window a) / 32) = .ok v →
      ∃ t, exec (.wloadDone ck) s = .next t ∧ (t.core ck).slice.shadow = planeOf (window a) q.ltab scale v
        ∧ (t.core ck).slice.active = (s.core ck).slice.active ∧ (t.core ck).slice.ops = []
        ∧ (t.slot (ck * 8 + slot)).cnt.tlc = (s.slot (ck * 8 + slot)).cnt.tlc - 1)
    ∧ ((s.core ck).commands < 8 → (s.slot (ck * 8 + slot)).cnt.tlc < 15 → ∃ t, exec (.c28StreamCommand ck slot val) s = .next t
      ∧ (t.core ck).slice.ops = (s.core ck).slice.ops ++ [.gang s.ids slot false val (s.slot (ck * 8 + slot)).pc]
      ∧ (t.slot (ck * 8 + slot)).cnt.tlc = (s.slot (ck * 8 + slot)).cnt.tlc + 1)
    ∧ ((s.quad qi).gangs = [g] → g.active qi = [p] → (s.quad qi).contained = false → g.failed = none → s.gangReady qi g = true →
      s.rowRead (agentOf p.1 p.2.slot) (sectorAddr g.asrc g.stride g.row 0) (sectorsRead g.parts (window g.asrc) g.row) = .ok v →
      let tk := agentOf p.1 p.2.slot
      let t := (s.engineFill tk (s.pidOf tk) permR (sectorAddr g.asrc g.stride g.row 0) (rowBytes (window g.asrc))).updSlice p.1
        fun l => l.accumulate p.2 (window g.asrc) g.kd g.row v
      (g.row + 1 < g.rows → exec (.gangRow qi) s = .next (t.updQuad qi fun q => { q with gangs := [{ g with row := g.row + 1 }] }))
      ∧ (g.rows ≤ g.row + 1 → exec (.gangRow qi) s = .next (t.gangEnd qi g)))
    ∧ (q.contained = false → (s.core ck).slice.ops = [.mdrain id slot false fmt r a first count stride row col] →
      let n := 32 * outBytes fmt
      let k := s.localKey (ck * 8 + slot) (offset (a + word (row * stride)))
      let t := (s.noteBlock (ck / 4) k).wrBytes k ((List.range 32).flatMap fun i => leBytes (outBytes fmt) (drainElem fmt r (cells i)))
      s.ownedBy id k n = false → s.behind (ck * 8 + slot) id k n = false →
      (row + 1 < count → exec (.mdrainRowWrite ck) s = .next (t.updSlice ck fun l =>
        { l with ops := [.mdrain id slot false fmt r a first count stride (row + 1) col] }))
      ∧ (count ≤ row + 1 → ∃ u, exec (.mdrainRowWrite ck) s = .next u ∧ u.mem = t.mem ∧ (u.core ck).slice.ops = []
        ∧ (u.slot (ck * 8 + slot)).cnt.tlc = (s.slot (ck * 8 + slot)).cnt.tlc - 1))
    ∧ (q.contained = false → (s.core ck).slice.ops = [.mdrain id slot true fmt r a first count stride row col] →
      (s.core ck).c28r.length < 8 → col < 32 → ∃ t, exec (.mdrainHandlePush ck) s = .next t
        ∧ (t.core ck).c28r =
          (s.core ck).c28r ++ [drainHandle fmt (first + row) col (drainElem fmt r (cells col)) (decide (count ≤ row + 1 ∧ col = 31))]
        ∧ (col < 31 → (t.core ck).slice.ops = [.mdrain id slot true fmt r a first count stride row (col + 1)])
        ∧ (col = 31 → row + 1 < count → (t.core ck).slice.ops = [.mdrain id slot true fmt r a first count stride (row + 1) 0])
        ∧ (col = 31 → count ≤ row + 1 → (t.core ck).slice.ops = []
          ∧ (t.slot (ck * 8 + slot)).cnt.tlc = (s.slot (ck * 8 + slot)).cnt.tlc - 1))
    ∧ ((s.core ck).c28r = a :: [b] → ∃ t, exec (.c28HandlePop ck) s = .next t ∧ (t.core ck).c28r = [b])
    ∧ (q.contained = false → q.gangs = [] → (s.core ck).slice.ops = [.wload id slot a b none] → (s.slot (ck * 8 + slot)).st ≠ .free →
      (s.slot (ck * 8 + slot)).hbPending = false → s.yokeRead (ck * 8 + slot) a (imageBytes (window a) / 32) = .fail val why fin →
      ∃ t, exec (.yokeHandback ck id) s = .next t ∧ (t.slot (ck * 8 + slot)).hbPending = true ∧ (t.core ck).slice.ops = []
        ∧ (t.slot (ck * 8 + slot)).cnt.tlc = (s.slot (ck * 8 + slot)).cnt.tlc - 1))
  ∧ (∀ (l : Slice) (p : GangPart) (w kd m row n : Nat) (f : Fmt), n < 32 →
    let ks := (List.range kd).filter fun k => !p.edge || decide (k < p.kcnt)
    let weight (k : Nat) : Elem := FMap.get zeroElem l.active.w (k * 32 + n)
    let old := l.accAt (p.acc + m) n
    let new := (l.accumulate p w kd m row).accAt (p.acc + m) n
    (p.edge = true → p.ncnt ≤ n ∨ p.mcnt ≤ m → new = old)
    ∧ (∀ r j, r ≠ p.acc + m → j < 32 → (l.accumulate p w kd m row).accAt r j = l.accAt r j)
    ∧ (p.edge = false ∨ (n < p.ncnt ∧ m < p.mcnt) →
      (w = 5 ∨ w = 6 →
        let sum := BitVec.ofInt 64 (ks.map fun k => sval (winBits w) (bitsAt row (winBits w * k) (winBits w)) * (weight k).num).sum
        new = if p.zero then sum else old + sum)
      ∧ ((w, f) ∈ [(1, bf16), (2, fp16), (3, e4m3), (4, e5m2)] →
        let act (k : Nat) : FVal := f.decode (bitsAt row (winBits w * k) (winBits w))
        let code (k : Nat) : Nat := match p.scale with
          | none => 127
          | some b => (b.codes.getD (b.used + m * (kd / 32) + k / 32) 0).toNat
        let scaled (k : Nat) : FVal :=
          if p.asc then (if code k = 255 then canonNan else fscale (act k) ((code k : Int) - 127)) else act k
        let sum := exactSum (ks.map fun k => fmul (scaled k) (weight k).val)
        let v := if p.zero then sum else fadd .rne (fp64.decode old.toNat) sum
        new = if sum.isNan ∨ v.isNan then 0x7FF8000000000000#64 else word (fp64.encode .rne 0 v))))
  ∧ (∀ vs : List FVal,
    ((∃ v ∈ vs, v.isNan) ∨ (.inf true ∈ vs ∧ .inf false ∈ vs) → (exactSum vs).isNan)
    ∧ (∀ t, .inf t ∈ vs → .inf (!t) ∉ vs → (∀ v ∈ vs, v.isNan = false) → exactSum vs = .inf t)
    ∧ (vs ≠ [] → (∀ v ∈ vs, v.isZero ∧ v.isNeg) → (exactSum vs).isZero ∧ (exactSum vs).isNeg))
  ∧ (∀ (vs : List (Bool × Nat × Int)) (lo : Int), lo ≤ 0 → (∀ v ∈ vs, lo ≤ v.2.2) →
    let units (t : Bool) (m : Nat) (e : Int) : Int := (if t then -(m : Int) else m) * 2 ^ (e - lo).toNat
    ∃ t m e, exactSum (vs.map fun v => .fin v.1 v.2.1 v.2.2) = .fin t m e ∧ lo ≤ e
      ∧ units t m e = (vs.map fun v => units v.1 v.2.1 v.2.2).sum)

/-- R171 to R173, R178: GANG enters its core's order and waits for the join; at the join of the quad's four oldest entries, when
every one is idle, each leaves the order and counts nothing; a bad address of a c28 entry voids the gang. -/
def Obligations.GangsJoin : Prop :=
  ∀ (s : State) (a : Reg) (qi : Nat) (es : List JoinEnt) (f : JoinFail), qi < 2304 →
    let x := s.operand a
    let t := s.popPorts [a]
    (s.me.op = .none → mayIssue { rd := [a] } s = true → space x = 0 → window x = 0 → x.toNat % 32 = 0 → mustBeZero x = true →
      t.localCheck s.cur permR x 32 = none → t.mayGo 0 x = true → exec (.gang a) s =
        .next (((t.takeId.enterOp (.gang s.ids (slotNo s.cur) true x s.me.pc)).await).blockMe (.gang s.ids)))
    ∧ ([0, 1, 2, 3].filterMap (fun c => firstGang (qi * 4 + c) [] (s.core (qi * 4 + c)).slice.ops) = es → es.length = 4 →
      (s.quad qi).halted = false → (s.quad qi).contained = false → (∀ e ∈ es, e.before = []) →
      (s.joinAddr es = some f → exec (.gangJoin qi) s = .next (s.voidGang es f))
      ∧ (s.joinAddr es = none → (∀ e ∈ es, s.owned (s.localKey (e.ck * 8) (offset e.addr)) 32 = false
        ∧ s.storeDue (agentOf e.ck e.slot) s.ids (s.localKey (e.ck * 8) (offset e.addr)) 32 = false ∧ (s.gangDesc e).idle = true) →
        exec (.gangJoin qi) s = .next (es.foldl (fun u e => u.joinOne s.ids e (s.gangDesc e)) s.takeId)))

/-- R338, R344 to R346: a checked copy enters its core's FIFO under the lowest free index, which D receives, and counts in CPC; on a
full FIFO the .nb forms give 1; a record is submitted again from its words; CPYST reads the FIFO. That the free index is the lowest is
log entry 61, and bit 20 of CPYST.stat log entry 74 (both DEDUCED). -/
def Obligations.CopyHeads : Prop :=
  ∀ (s : State) (d a : Reg), s.mayPut d = true → a.toNat + 3 < 56 →
    let c : CopyWords := { w0 := s.operand a, w1 := s.operand (a + 1), w2 := s.operand (a + 2), w3 := s.operand (a + 3) }
    let x := s.operand a
    let k := s.localKey s.cur (offset x)
    let rec_ : CopyWords := { w0 := s.rd8 k, w1 := s.rd8 (k + 8), w2 := s.rd8 (k + 16), w3 := s.rd8 (k + 24) }
    let ok (c : CopyWords) : Prop := s.shapeCheck c = none ∧ (c.shp = true → s.owned (s.localKey s.cur (offset c.shape)) 32 = false)
      ∧ copyBad c (s.shapeWord s.cur c) (s.copyOf s.cur c) = false ∧ s.copyCheck c (s.copyOf s.cur c) = none ∧ s.copyStream c = true
      ∧ s.copyOutside c = false ∧ s.copyLocal c (s.copyOf s.cur c) = none ∧ s.acquiring = false
    let queued (c : CopyWords) : State := ((s.queueCopy (s.copyOf s.cur c)).writeReg s.cur d (word (s.myCore.freeIndex * 256)) 3).passed
    let room : Prop := s.myCore.fifo.length < 16 ∧ s.me.cnt.cpc < 63
    (mayIssue { rd := [a, a + 1, a + 2, a + 3], wr := [d] } s = true → ok c →
      (room → exec (.cpyq d a) s = .next (queued c) ∧ exec (.cpyqNb d a) s = .next (queued c))
      ∧ (16 ≤ s.myCore.fifo.length → exec (.cpyqNb d a) s = .next (s.wrote [] d 1 3)))
    ∧ (mayIssue { rd := [a], wr := [d] } s = true → space x = 0 → window x = 0 → x.toNat % 128 = 0 → mustBeZero x = true →
      s.localCheck s.cur permR x 128 = none → s.owned k 128 = false → fld (s.rd8 (k + 72)) 0 5 = 0 → ok rec_ →
      (room → exec (.cpyres d a) s = .next (queued rec_) ∧ exec (.cpyresNb d a) s = .next (queued rec_))
      ∧ (16 ≤ s.myCore.fifo.length → exec (.cpyresNb d a) s = .next (s.wrote [] d 1 3)))
    ∧ (mayIssue { wr := [d] } s = true → exec (.cpyst .depth d) s = .next (s.wrote [] d (word s.myCore.fifo.length) 3)
      ∧ exec (.cpyst .stat d) s = .next (s.wrote [] d (word ((s.myCore.fifo.map fun k => 2 ^ k.idx).sum
        + (s.myCore.fifo.filter fun k => k.started).length * 2 ^ 16 + bit (s.backWaits s.cur) * 2 ^ 20)) 3))

/-- R164, R338 to R343: a core's copies start in their order while fewer than 4 run; a sector that is on this panel and takes no
stream lands whole; a copy whose sectors have landed writes its flag, or its record, and its count ends; an end that is refused gives
the copy its status, which its record bears or its slot takes as a trap; one whose next row fails translation is handed back; a scale
block enters its core's queue when the buffer has room, and one that is not a block ends its copy with status 3. That a block's length is
compared with rowLen times rows is log entry 70, and that a scale block with a shape is read as one run of bytes log entry 111; that a
cancelled copy in MODE 3 pushes no record is log entry 127, that the source's refusal comes before the block's test and status 3 before a
refused target log entry 110, and that a sector lands only when every open row up to its own translates log entry 71 (all DEDUCED: these
clauses are the model's). -/
def Obligations.CopyEvents : Prop :=
  ∀ (s : State) (ck tc n j i st cause : Nat) (info : Word) (k : Copy) (run rest : List Copy) (x : Sector) (a b : Word)
    (fault : Nat × Word × Bool × Nat), ck < 9216 → k.slot < 8 → (s.quad (ck / 4)).contained = false →
    let thr := k.thr ck
    let mine : Prop := (s.core ck).copy k.id = some k
    let read (a : Word) (n : Nat) : State := (s.engineFill thr (s.pidOf (ck * 8)) permR a n).drawMany n
    let drawn := ((s.rowsFill ck k (x.row + 1)).engineFill thr (s.pidOf (ck * 8)) permR x.src x.n).drawMany x.n
    let src := k.srcRow 0
    let hdr := ofBytes (s.sourceBytes ck k src 8)
    let codes := bitsAt hdr 16 8
    let len := 8 + (codes + 7) / 8 * 8
    let block : Scale := { seq := BitVec.ofNat 16 hdr, codes := ((s.sourceBytes ck k src len).drop 8).take codes }
    let got := (read src len).takeScale (s.pidOf (ck * 8)) tc block
    let record (y : Word) : State := (s.updCore ck fun c => { c with c29 := c.c29 ++ [y] }).endCopy ck k
    let landing : Prop := mine ∧ k.sector n = some x ∧ k.runs = true ∧ k.kind = 0 ∧ k.unlanded.contains n = true
      ∧ s.targetOwned ck k = false ∧ s.copyClosed ck k = false
    let delivering : Prop := mine ∧ k.runs = true ∧ k.kind = 1 ∧ k.landed = [] ∧ s.targetOwned ck k = false ∧ s.copyClosed ck k = false
    ((s.core ck).fifo = run ++ k :: rest → (∀ y ∈ run, y.started = true) → k.started = false → ((s.core ck).fifo.map fun y => y.id).Nodup →
      (((s.core ck).fifo.filter fun y => y.started).length < 4 → ∃ t, exec (.copyStart ck) s = .next t
        ∧ (t.core ck).fifo = run ++ { k with started := true } :: rest)
      ∧ (4 ≤ ((s.core ck).fifo.filter fun y => y.started).length → exec (.copyStart ck) s = .next s))
    ∧ (landing → s.firstEnd ck k (x.row + 1) = some (i, .refused st) →
      exec (.copySectorLand ck k.id n) s = .next (s.setCopy ck { k with status := st }))
    ∧ (landing → s.firstEnd ck k (x.row + 1) = none → k.run n = none → k.w2.getLsbD 60 = false →
      s.peerSource ck k x.src = false → s.sourceWaits ck k x.src x.n = false →
      drawn.engineRaw thr (drawn.pidOf (ck * 8)) permW x.dst x.n = .ok j → drawn.copyWaits ck k j x.n = false →
      exec (.copySectorLand ck k.id n) s = .next ((((((drawn.engineFill thr (drawn.pidOf (ck * 8)) permW x.dst x.n).recallLines j
        x.n).wrBytes j (s.sourceBytes ck k x.src x.n))).setCopy ck
          { k with landed := k.landed ++ [n], going := k.going.filter fun r => decide (r.n ≠ n) }).copyBarrier ck k x.n))
    ∧ (mine → k.started = true → k.cancelled = false → k.status = 0 → k.unlanded = [] → s.copyFlying ck k = false →
      (k.mode = 0 ∨ k.mode = 2 → exec (.copyComplete ck k.id) s = .next (s.endCopy ck k))
      ∧ (k.mode = 1 → s.targetOwned ck k = false → exec (.copyComplete ck k.id) s =
        .next ((s.wr8 (s.localKey (ck * 8) k.caddr) (word (fld k.w3 24 38))).endCopy ck k))
      ∧ (k.mode = 3 → (s.core ck).c29.length < 16 → exec (.copyComplete ck k.id) s =
        .next (record (word (k.idx * 2 ^ 16 + fld k.w3 0 16)))))
    ∧ (mine → k.cancelled = false → k.status = st → (st, cause, info) ∈ [(1, 0x07, k.w0), (2, 0x07, k.w1), (3, 0x02, k.w0)] →
      s.copyFlying ck k = false →
      (k.mode ≠ 3 → exec (.copyComplete ck k.id) s = .next ((s.endCopy ck k).postAsync thr cause info))
      ∧ (k.mode = 3 → (s.core ck).c29.length < 16 → exec (.copyComplete ck k.id) s =
        .next (record (word (2 ^ 63 + st * 2 ^ 56 + k.idx * 2 ^ 16 + fld k.w3 0 16)))))
    ∧ (mine → k.cancelled = true → s.copyFlying ck k = false → exec (.copyComplete ck k.id) s = .next (s.endCopy ck k))
    ∧ (mine → s.copyFault ck k = some fault → (s.slot thr).hbPending = false →
      ∃ t, exec (.copyHandback ck k.id) s = .next t ∧ (t.slot thr).hbPending = true
        ∧ (t.core ck).fifo = ((s.core ck).fifo.filter fun y => decide (y.id ≠ k.id)) ∧ (t.slot thr).cnt.cpc = (s.slot thr).cnt.cpc - 1)
    ∧ (delivering → s.firstEnd ck k k.rows = some (i, .refused st) →
      exec (.scaleBlockDeliver ck k.id) s = .next (s.setCopy ck { k with status := st }))
    ∧ (delivering → s.firstEnd ck k k.rows = none → k.run 0 = none → s.peerSource ck k src = false → s.sourceWaits ck k src 8 = false →
      (codes = 0 ∨ 128 < codes ∨ k.rowLen * k.rows ≠ len →
        exec (.scaleBlockDeliver ck k.id) s = .next (s.setCopy ck { k with status := 3 }))
      ∧ (1 ≤ codes → codes ≤ 128 → k.rowLen * k.rows = len →
        (s.scaleTarget ck k = none → exec (.scaleBlockDeliver ck k.id) s = .next (s.setCopy ck { k with status := 2 }))
        ∧ (s.scaleTarget ck k = some tc → s.sourceWaits ck k src len = false →
          (s.scaleUse (s.pidOf (ck * 8)) (quadOfCore tc) + len ≤ 4096 →
            exec (.scaleBlockDeliver ck k.id) s = .next ((got.setCopy ck { k with landed := [0] }).copyBarrier ck k len))
          ∧ (4096 < s.scaleUse (s.pidOf (ck * 8)) (quadOfCore tc) + len → exec (.scaleBlockDeliver ck k.id) s = .next s))))
    ∧ ((s.core ck).c29 = a :: [b] → ∃ t, exec (.c29RecordPop ck) s = .next t ∧ (t.core ck).c29 = [b])

/-! ## Messages, links and the edge -/

/-- R348, R350 to R352: a checked MSEND enters the transmit queue under its count, and D receives the queue's length; an optimistic
task holds it; MRECV takes the oldest message, its header to D and its payload to the register or place; MWAIT ends with a wake or a
message, which end the wait of a slot that is blocked there; MSGST reads the queues. That B stands where MRECV's D and B are one register is log entry 35, and the entries that MSGST.txc
counts log entry 48 (both DEDUCED). -/
def Obligations.MessageHeads : Prop :=
  ∀ (s : State) (k : ElemKind) (d a b c : Reg) (len : BitVec 10) (p : Place) (m : Msg) (rest : List Msg), s.mayPut d = true →
    let x := s.operand a
    let y := s.operand b
    let n := len.toNat
    let su := msgUse k [a, c] b d false
    let t := s.popPorts su.rd
    let z := t.post s.cur p x (s.operand c) (t.element k n b y) true s.me.pc
    let ru := msgUse k [] b d true
    let r := s.popPorts ru.rd
    let at_ (u : State) (q : Perm) : Prop :=
      u.acquiring = false ∧ (k = .a → u.payloadCheck q y n = none ∧ u.bytesFree (s.localKey s.cur (offset y)) n = true)
    (mayIssue su s = true → t.msgCheck x (t.firstWord k b y n) = none → at_ t permR →
      (s.me.optimistic = false → t.msgPlace s.myPid x = some p → t.me.cnt.val p.ctr < ctrMax p.ctr → t.myCore.txq.length < 8 →
        exec (.msend k d a b c len) s = .next (z.writeReg s.cur d (word (t.myCore.txq.length + 1)) 3).passed)
      ∧ (t.mayHold (.msg x (s.operand c) (t.element k n b y)) = true →
        exec (.msend k d a b c len) s = .next ((t.held (.msg x (s.operand c) (t.element k n b y))).writeReg s.cur d 0 3).passed))
    ∧ (mayIssue ru s = true → at_ r permW → (k = .s → s.mayPut b = true) → r.myCore.rxq = m :: rest →
      exec (.mrecv k d b len) s = .next ((((r.updMyCore fun q => { q with rxq := rest }).basteAfterPop.writeReg s.cur d m.hdr 6).putPayload
        k b y (m.data.take n)).passed))
    ∧ (s.me.op = .none → (s.me.wake = true → exec .mwait s = .next (s.updMe fun q => { q with wake := false }).passed)
      ∧ (s.me.wake = false → s.myCore.rxq ≠ [] → exec .mwait s = .next s.passed)
      ∧ (s.me.wake = false → s.myCore.rxq = [] → exec .mwait s = .next (s.blockMe .mwait)))
    ∧ (∀ v, s.me.op = .done v → exec .mwait s = .next s.passed)
    ∧ (mayIssue { wr := [d] } s = true → exec (.msgst .rxq d) s = .next (s.wrote [] d (word s.myCore.rxq.length) 3)
      ∧ exec (.msgst .txc d) s = .next (s.wrote [] d (word (s.myCore.txq.length + s.myCore.denied * 65536)) 3))

/-- R348 to R350, R370: a message that has arrived enters its core's receive queue; a full queue refuses it until it is sent again, a
core without the sender's partition denies it, and a copy of a basted sender's message is dropped; its acknowledgement, once it has arrived,
ends the count; c30 and c31 are the queues' ports; a free notice forgets its sender. R351: a message ends the wait of every slot of its core
that is blocked in MWAIT. That a context that is swapped out takes its messages and notices into the queues and tables that it keeps, and
the running one's stand, is log entry 78 (DESIGN CHOICE; the clauses are the model's). -/
def Obligations.MessageEvents : Prop :=
  ∀ (s : State) (m : Msg) (ck tk n last : Nat) (v a tag : Word) (e : Nat × Word × Word) (rest : List (Nat × Word × Word))
    (data : List Byte) (old : Saved), ck < 9216 → tk < 73728 →
    let q := s.quad (quadOfCore m.dst)
    let accept := exec (.messageAccept m.id) s
    let taken (u : State) : Prop := accept = .next u ∧ (u.core m.dst).rxq = (s.core m.dst).rxq ++ [{ m with pkt := none, st := .accepted }]
    (s.msgs = [m] → m.notice = false → m.peer = false →
      (m.st = .going → m.src = some tk → s.arrived m.pkt = true → s.msgReleased m = true → q.contained = false →
        (s.ctxOf (quadOfCore m.dst) m.pid = none → accept = .next (s.denyMsg m))
        ∧ (s.ctxOf (quadOfCore m.dst) m.pid ≠ none → s.runs m.pid (m.dst * 8) = false → q.shadow = [old] → old.pid = m.pid →
          old.cores.length = 4 → old.halted = false → (s.coreIn m.pid m.dst).rxq.length < 32 → m.seq = none → ∃ u, accept = .next u
            ∧ u.core m.dst = s.core m.dst
            ∧ (u.coreIn m.pid m.dst).rxq = (s.coreIn m.pid m.dst).rxq ++ [{ m with pkt := none, st := .accepted }])
        ∧ (s.ctxOf (quadOfCore m.dst) m.pid ≠ none → s.runs m.pid (m.dst * 8) = true →
          (q.halted = true ∨ 32 ≤ (s.core m.dst).rxq.length → accept = .next (s.refuseMsg m))
          ∧ (q.halted = false → (s.core m.dst).rxq.length < 32 →
            (m.seq = none → ∃ u, taken u ∧ u.msgs.length = 1 ∧ (u.core m.dst).senders = (s.core m.dst).senders
              ∧ ∀ i < 8, (s.slot (m.dst * 8 + i)).st = .blocked .mwait → (u.slot (m.dst * 8 + i)).st = .ready ∧ (u.slot (m.dst * 8 + i)).op = .done 0)
            ∧ (m.seq = some n → (s.core m.dst).lastSeq m.sender = some last → (n ≤ last → accept = .next (s.acceptedMsg m))
              ∧ (last < n → ∃ u, taken u ∧ (u.core m.dst).lastSeq m.sender = some n)))))
      ∧ (m.st = .accepted → m.src = some tk → m.counted = true → s.arrived m.pkt = true →
        exec (.messageAcknowledge m.id) s = .next (((s.dropPacket m.pkt).dropMsg m.id).endCount tk 1))
      ∧ (m.st = .refused → m.src = some tk → m.again ≤ (s.region (regionOf (quadOf tk))).cycle → ∃ u, exec (.messageResend m.id) s = .next u
        ∧ u.msgs = [{ m with st := .going, pkt := some s.ids }]))
    ∧ (s.msgs = [m] → m.notice = true → m.peer = false → ∃ u, exec (.freeNoticeArrival m.id) s = .next u ∧ u.msgs = []
      ∧ (u.coreIn m.pid m.dst).lastSeq m.sender = none ∧ (s.runs m.pid (m.dst * 8) = false → u.core m.dst = s.core m.dst))
    ∧ exec (.c30MessagePop ck) s = .next (s.updCore ck fun c => { c with rxq := c.rxq.tail })
    ∧ ((∀ p ∈ (s.slot tk).pushes, p.1 ≠ 63) → (s.core (coreOf tk)).c31.length < 8 → exec (.c31SendBlock tk v) s = .next (s.setCore (coreOf tk)
        { s.core (coreOf tk) with c31 := (s.core (coreOf tk)).c31 ++ [(slotNo tk, v, (s.slot tk).pc)] }))
    ∧ ((s.core ck).c31 = e :: rest →
      let k := ck * 8 + e.1
      let t : State := { s with cur := k }
      let left := s.updCore ck fun c => { c with c31 := rest }
      let p := (t.msgPlace t.myPid a).getD .ctl
      (∀ cause info, (t.sendBlock e.2.1).1 = some (cause, info) →
        exec (.sendBlockRead ck) s = .next (left.postOrReport k cause info e.2.2))
      ∧ (t.sendBlock e.2.1 = (none, a, tag, data) → (∀ j i, s.owned j i = false) → (s.core ck).txq.length < 8 →
        (s.slot k).cnt.val p.ctr < ctrMax p.ctr → exec (.sendBlockRead ck) s = .next (left.post k p a tag data true e.2.2)))

/-- R337: every request that is the oldest of its slot is answered by one message to the core that asked, whose payload begins with
STATUS: an open claims the stream's slots when STATUS is 0 (6 is a free value, log entry 119), a close frees them, a read returns
the block asked for, a route is entered, and a reserved code gets 1. That CODE 3 reads its quad in bits 10:0 of word 0, over CODE, is log entry 50,
and the order of the statuses, with 5 for a unit of which nothing is owned, log entry 51 (both DEDUCED). -/
def Obligations.ControllerRequests : Prop :=
  ∀ (s : State) (r : CtrlReq) (x : Stream), s.ctrl = [r] →
    let answers (i : Instr) (w0 : Word) (data : List Byte) (u : State) : Prop := exec i s = .next u ∧ u.ctrl = [] ∧ u.mem = s.mem
      ∧ ∃ m, u.msgs = s.msgs ++ [m] ∧ m.dst = coreOf r.thr ∧ m.data = leBytes 8 w0.toNat ++ data
    let st (i : Instr) (n : Nat) : Prop := ∃ u, answers i (word n) [] u ∧ u.parts = s.parts ∧ u.panel = s.panel
    let code := fld r.w0 0 8
    let unit := fld r.w0 8 5
    let peer := fld r.w0 8 9
    let pe := fld r.w0 17 5
    let mask := BitVec.ofNat 16 (fld r.w0 32 16)
    (code = 1 →
      (s.openRefusal r ≠ 0 → st (.ctrlOpenStream r.id) (s.openRefusal r))
      ∧ (s.openRefusal r = 0 → if Config.streamBuffersGone s.free then st (.ctrlOpenStream r.id) 6
        else ∃ u, answers (.ctrlOpenStream r.id) 0 [] u
          ∧ (u.part r.pid).streams = (s.part r.pid).streams ++ [{ r.stream with hops := (s.openPlan r.pid r.stream).2 }]
          ∧ ∀ h ∈ (s.openPlan r.pid r.stream).2, h.2 < 16 → u.slotEntry h.1 h.2 = slotOwner r.pid r.stream.sid))
    ∧ (code = 2 → otherBits r.w0 [(0, 8), (8, 12)] = false →
      ((∀ t ∈ (s.part r.pid).streams, t.sid ≠ fld r.w0 8 12) → st (.ctrlCloseStream r.id) 4)
      ∧ ((s.part r.pid).streams = [x] → x.sid = fld r.w0 8 12 → ∃ u, answers (.ctrlCloseStream r.id) 0 [] u
        ∧ (u.part r.pid).streams = [] ∧ ∀ h ∈ x.hops, h.2 < 16 → u.slotEntry h.1 h.2 = 0))
    ∧ (code = 3 → otherBits r.w0 [(0, 11), (12, 2)] = false →
      (s.physQuad r.pid (fld r.w0 0 11) = none → st (.ctrlReadLink r.id) 5)
      ∧ (∀ qi, s.physQuad r.pid (fld r.w0 0 11) = some qi → let l := qi * 4 + fld r.w0 12 2
        ∃ u, answers (.ctrlReadLink r.id) (word (FMap.get 0 s.panel.width l * 256))
          (leBytes 8 0 ++ (List.range 16).flatMap fun i => leBytes 4 (s.slotEntry l i).toNat) u))
    ∧ (code = 4 → otherBits r.w0 [(0, 8), (8, 4)] = false → fld r.w0 8 4 ≤ 14 →
      ∃ u, answers (.ctrlReadBandedLatency r.id) 0 ((List.range 2).flatMap fun dir => (List.range 8).flatMap fun j =>
        leBytes 4 (s.band (fld r.w0 8 4) dir j).toNat) u)
    ∧ (code = 5 → otherBits r.w0 [(0, 8), (8, 5)] = false →
      (FMap.get 0 (s.edge unit).owned r.pid = 0 → st (.ctrlReadEdgeUnit r.id) 5)
      ∧ (FMap.get 0 (s.edge unit).owned r.pid ≠ 0 → ∃ u, answers (.ctrlReadEdgeUnit r.id) 0 ((s.edge unit).block r.pid) u))
    ∧ (code = 6 → otherBits r.w0 [(0, 8), (8, 9), (17, 5), (32, 16)] = false → peer < 384 →
      (mask &&& ~~~FMap.get 0 (s.edge pe).owned r.pid ≠ 0 → st (.ctrlRoutePeer r.id) 5)
      ∧ (FMap.get 0 (s.edge pe).owned r.pid ≠ 0 → mask &&& ~~~FMap.get 0 (s.edge pe).owned r.pid = 0 →
        ∃ u, answers (.ctrlRoutePeer r.id) 0 [] u ∧ (peer, pe, mask) ∈ (u.part r.pid).routes ∧ (u.part r.pid).hasRoute peer = true))
    ∧ (code = 0 ∨ 7 ≤ code → st (.ctrlReservedCode r.id) 1)

/-- R326 to R334: a flit at its destination leaves the mesh; elsewhere the winner of its output, or the owner of the slot, moves to
the next router, once the slots of a link of reduced width have carried its 128 bytes; a credit returns; a boundary lets a flit go after
its latency; a bounced packet is looked up and sent again; a link takes its new width; a map that is due is adopted. R383: a region whose
clock is stopped adopts nothing. That the running regions adopt it in one event, when region 0's time reaches the switch time, is log entry
80 (DEDUCED), and that a boundary lets a flit go once its least latency is over log entry 12 (DESIGN CHOICE); these clauses are the
model's. -/
def Obligations.MeshEvents : Prop :=
  ∀ (s : State) (p : Packet) (f g : Flit) (n l width sid qi qf qt logical pid x0 y0 w h late : Nat) (c : MapChange),
    let alone : Prop := s.packets = [p] ∧ s.flits = [f] ∧ f.pkt = p.id
    let goes (i : Instr) (h : Flit) : Prop := ∃ u, exec i s = .next u ∧ u.packets = [p] ∧ u.flits = [{ h with
      at_ := (linkTo l).getD (l / 4), port := linkPort l, done := 0
      fifo := (stitchOf l).map fun b => s.cycleAt ((linkTo l).getD (l / 4)) + s.crossMin b.1 b.2 }]
    let beat (i : Instr) : Prop := ∃ u, exec i s = .next u ∧ u.packets = [p] ∧ u.flits = [{ f with done := f.done + s.linkBytes l }]
    let leaves (i : Instr) : Prop := ∃ u, exec i s = .next u ∧ u.packets = [{ p with arrived := p.arrived + 1 }] ∧ u.flits = []
    (alone → f.fifo = none → s.heldPacket p.id = false →
      (∀ x ∈ s.flights, x.pkt = some p.id → x.alone = true ∨ x.stage.performed = true ∨ x.rsn = 0) →
      (p.sid = none →
        (f.at_ = p.dst → f.back = 0 → s.holds p p.dst = true → leaves (.bestEffortFlitHop p.id f.seq))
        ∧ (s.nextOut p.dst f = .link l g → g.pkt = f.pkt → g.seq = f.seq → s.wants f l = some (p.lane, f.port, g) →
          s.winner l = some (p.lane, f.port) → s.mayUse l p.pid = true → s.linkFree l = true →
          (128 ≤ f.done + s.linkBytes l → goes (.bestEffortFlitHop p.id f.seq) g)
          ∧ (f.done + s.linkBytes l < 128 → beat (.bestEffortFlitHop p.id f.seq))))
      ∧ (p.sid = some sid →
        (f.at_ = p.dst → f.hop ≠ 0 → s.holds p p.dst = true → leaves (.streamFlitHop p.id f.seq))
        ∧ (f.at_ ≠ p.dst → s.streamNext p f = some l → l / 4 = f.at_ → s.servedSlot l = slotOwner p.pid sid →
          s.streamReady p f l = true → s.linkFree l = true →
          (128 ≤ f.done + s.linkBytes l → goes (.streamFlitHop p.id f.seq) { f with hop := f.hop + 1 })
          ∧ (f.done + s.linkBytes l < 128 → beat (.streamFlitHop p.id f.seq)))))
    ∧ (alone → f.fifo = some late → late ≤ s.cycleAt f.at_ →
      exec (.stitchCrossing p.id f.seq) s = .next { s with flits := [{ f with fifo := none }] })
    ∧ (n ∈ s.panel.returns → ∃ u, exec (.creditReturn n) s = .next u
      ∧ u.panel.returns.length + 1 = s.panel.returns.length
      ∧ FMap.get 0 u.panel.credits n = FMap.get 0 s.panel.credits n - 1)
    ∧ (s.packets = [p] → p.bounced = true → s.awaitsMap p.id = false →
      (s.lookup p = some qi → ∃ u, exec (.packetBounce p.id) s = .next u
        ∧ u.packets = [{ p with dst := qi, p := if p.lane = 1 then s.pAt qi p.pid else p.p, epoch := s.panel.epoch, arrived := 0,
                                bounced := false }]
        ∧ u.flits = s.flits ++ (List.range p.flits).map fun i => { pkt := p.id, seq := i, at_ := p.src })
      ∧ (s.lookup p = none → exec (.packetBounce p.id) s = .next (s.packetLost p.id)))
    ∧ (l < 9216 → width < 4 → ∃ u, exec (.linkRetrain l width) s = .next u ∧ u.linkBytes l = 32 * (4 - width)
      ∧ u.flits = s.flits ∧ u.packets = s.packets)
    ∧ (s.changes = [c] → c.time.toNat ≤ s.time0.toNat → s.changeWaits c = false → FMap.wf {} s.slots = true →
      ∃ u, exec (.mapSwitch 0) s = .next u
        ∧ ∀ tk < 73728, s.clockStopped (regionOf (quadOf tk)) = true → u.slot tk = s.slot tk)
    ∧ (s.changes = [c] → c.time.toNat ≤ s.time0.toNat → s.changeWaits c = false → (∀ r < 16, s.clockStopped r = false) →
      let due : State := { s with changes := [] }
      (c.op = .contain qf logical (some qt) → (s.quad qt).st = .healthy → (s.quad qt).contained = false →
        exec (.mapSwitch 0) s = .next (((due.remapped qf logical (some qt)).substitute qf qt).regrade (regionOf qf)))
      ∧ (c.op = .contain qf logical none → (s.quad qf).ctxs = [] →
        exec (.mapSwitch 0) s = .next ((due.remapped qf logical none).regrade (regionOf qf)))
      ∧ (c.op = .resize pid x0 y0 w h → due.resizeOk pid x0 y0 w h = true →
        exec (.mapSwitch 0) s = .next (due.resized pid x0 y0 w h).nextEpoch)
      ∧ (c.op = .resize pid x0 y0 w h → due.resizeOk pid x0 y0 w h = false →
        exec (.mapSwitch 0) s = .next (due.setLeaving pid (due.ctxQuads pid) false)))

/-- R353 to R355, R377: what waits at the edge on a usable route leaves in a burst, after the route's last one is acknowledged;
its acknowledgement puts its packets at their peer, its refusal denies them, and after 8 µs it is sent again; a received burst
with a bad CRC is only counted, a copy is counted and dropped; an expired hold or pair of an in-router reduction is let go, the hold to the next router of its tree where
it has one. That a tree to an HBM home goes router by router to the home's die is log entry 153 (DEDUCED), that RXB
counts copies, TXB first sends only and TUNE by a report is log entry 57, and that a route has one unacknowledged burst log entry 125
(both DEDUCED). -/
def Obligations.EdgeEvents : Prop :=
  ∀ (s : State) (unit peer seq pid panel retunes : Nat) (pt : Part) (m lock degr : BitVec 16) (clock : Bool) (b : Burst) (f : Flight)
    (pkts : List PeerPkt) (h : RedHold) (pr : RedPair), unit < 32 →
    let e := s.edge unit
    let now := (s.region 0).tcnt
    let sent : Burst := { seq := e.nextSeq, peer := peer, pid := pid, ids := fitBurst (s.atEdge pid peer) burstBytes, time := now }
    (s.parts = [(pid, pt)] → pt.routes = [(peer, unit, m)] → e.usable m = true → s.atEdge pid peer ≠ [] →
      (∀ x ∈ e.unacked, x.peer ≠ peer ∨ x.pid ≠ pid) →
      ∃ u, exec (.burstSend unit peer) s = .next u ∧ (u.edge unit).unacked = e.unacked ++ [sent]
        ∧ (u.edge unit).nextSeq = e.nextSeq + 1 ∧ (u.edge unit).txb = e.txb + 1)
    ∧ (e.unacked = [b] → b.seq = seq →
      (∃ u, exec (.burstAck unit seq) s = .next u ∧ (u.edge unit).unacked = []
        ∧ (∀ x ∈ u.flights, b.ids.contains x.id = true → x.stage = .peer) ∧ ∀ x ∈ u.msgs, b.ids.contains x.id = true → x.st = .atPeer)
      ∧ (b.time.toNat + 8000 ≤ (s.region 0).tcnt.toNat → ∃ u, exec (.burstResend unit seq) s = .next u
        ∧ (u.edge unit).unacked = [{ b with time := (s.region 0).tcnt }] ∧ (u.edge unit).resend = e.resend + 1)
      ∧ (s.flights = [f] → s.msgs = [] → b.ids = [f.id] →
        exec (.burstRefusal unit seq) s = .next ((s.dropBurst unit seq).denialArrives f)))
    ∧ exec (.burstReceive unit panel seq false pkts) s = .next (s.updEdge unit fun e => { e with crcd := e.crcd + 1 })
    ∧ (e.accepted.contains (panel, seq) = true →
      exec (.burstReceive unit panel seq true pkts) s = .next (s.updEdge unit fun e => { e with rxb := e.rxb + 1 }))
    ∧ (e.accepted.contains (panel, seq) = false → (∀ x ∈ pkts, s.peerWaits panel x = false) →
      exec (.burstReceive unit panel seq true pkts) s =
      .next (pkts.foldl (fun t x => t.receive panel x) ((s.updEdge unit fun e => { e with rxb := e.rxb + 1 }).updEdge unit fun e =>
        { e with accepted := e.accepted ++ [(panel, seq)] })))
    ∧ exec (.wavelengthLockChange unit lock degr { locked := clock, retunes }) s = .next (s.updEdge unit fun e =>
        { e with lock, degr, clock, tune := BitVec.ofNat 16 (Nat.min 65535 (e.tune.toNat + retunes)) })
    ∧ (s.redHolds = [h] → let left : State := { s with redHolds := [] }
      (s.redNext h = none ∨ h.flights = [] → exec (.reductionHoldExpiry h.id) s = .next left)
      ∧ (∀ r i l, s.redNext h = some r → h.flights = i :: l → exec (.reductionHoldExpiry h.id) s = .next (left.redJoin r i)))
    ∧ (s.redPairs = [pr] → pr.last + 2 ^ 20 ≤ (s.region 0).cycle →
      exec (.reductionPairExpiry pr.loc pr.rsn) s = .next { s with redPairs := [] })

/-! ## Tenancy, recovery and the life of a slot -/

/-- R298, R357, R358, R361, R365 to R367, R379, R380, R398: what the controller and the host do: a partition is created as its
attributes say; SVCCORE, the launch and wake registers, the watchdog and queue registers, and DEBUG act on the partition of the
virtual function; a key that changes changes what its frames read as, by AES-256-XTS; a reassigned frame is zero under its new key; a
stage-2 mapping replaces what it overlaps; a function reset ends what the partition has in flight. That a function reset is one event
which leaves the partition live is log entry 77, the words and the readiness of a slot that the debugger starts log entry 132, the place
of the bytes of a key log entry 145 (all DEDUCED), and that permissions of none unmap log entry 83, and that a PC that the
debugger writes stands with its bit 0 log entry 150 (both DESIGN CHOICE). -/
def Obligations.HostAndTenancy : Prop :=
  ∀ (s : State) (c : PartCfg) (pid vf ck tk qi q id r n frame old new ipa size pa : Nat) (v hdr w : Word) (key : BitVec 512) (perm : BitVec 3)
    (arm halt : Bool), tk < 73728 →
    let f := s.vf vf
    let pt := s.part pid
    (s.createOk c = true → ∃ t, exec (.partitionCreate c) s = .next t ∧
      let p := t.part c.pid
      p.live = true ∧ p.x0 = c.x0 ∧ p.y0 = c.y0 ∧ p.w = c.w ∧ p.h = c.h ∧ p.key = c.key ∧ p.vf = c.vf ∧ p.spsize = c.spMiB * 2 ^ 20
        ∧ (∀ m ∈ p.ring, m.1 = m.2 ∧ m.1 < c.w * c.h) ∧ p.s2 = [] ∧ p.streams = [] ∧ p.routes = [] ∧ (t.vf c.vf).pid = c.pid)
    ∧ (pt.live = true → exec (.svccoreWrite pid v) s = .next (s.updPart pid fun p => { p with svccore := v &&& 0xFFFFFF#64 }))
    ∧ (s.vfPid vf = some pid →
      (s.svcCore pid = some ck → space hdr = 1 ∨ space hdr = 2 → exec (.hostLaunch vf hdr) s = .next { s.takeId with
        launches := s.launches ++ [{ id := s.ids, quad := quadOfCore ck, pid, hdr, host := true }] })
      ∧ (s.threadKey pid (fld w 0 16) = some tk → s.runs pid tk = true → exec (.vfDoorbell vf w) s = .next { s with wakes := s.wakes ++ [tk] })
      ∧ (s.physQuad pid q = some qi → s.runs pid (qi * 32) = true →
        let named := s.updVf vf fun x => { x with dbgQ := BitVec.ofNat 11 q }
        exec (.debugHalt vf { quad := q, brkArm := arm }) s = .next (named.updQuad qi fun x => { x with halted := true, brkArm := arm })
        ∧ exec (.debugResume vf { quad := q, brkArm := arm }) s = .next (named.updQuad qi fun x => { x with halted := false, brkArm := arm })
        ∧ exec (.debugBrkarm vf q { halt, brkArm := arm }) s = .next (named.updQuad qi fun x => { x with halted := halt, brkArm := arm }))
      ∧ ∃ t, exec (.functionReset vf) s = .next t ∧ (t.part pid).s2 = [] ∧ (t.part pid).streams = [] ∧ (t.part pid).routes = []
        ∧ (t.part pid).live = pt.live ∧ (t.part pid).key = pt.key
        ∧ (∀ x ∈ t.flights, x.pid ≠ pid) ∧ (∀ x ∈ t.packets, x.pid ≠ pid) ∧ (∀ x ∈ t.pushes, x.pid ≠ pid) ∧ (∀ x ∈ t.launches, x.pid ≠ pid)
        ∧ (∀ m ∈ pt.s2, ∀ i < m.size, memByte t.mem (hbmKey m.pa + i) = 0))
    ∧ exec (.hostRegisterWrite vf 0x28 8 w) s = .next (s.updVf vf fun x => { x with wdt := BitVec.ofNat 6 (fld w 0 6) })
    ∧ exec (.hostRegisterWrite vf 0x30 8 w) s = .next (s.updVf vf fun x => { x with evqBase := w })
    ∧ exec (.hostRegisterWrite vf 0x38 8 w) s = .next (s.updVf vf fun x =>
        { x with evqTail := BitVec.ofNat 6 (fld w 32 6), evqOvf := f.evqOvf && !w.getLsbD 31 })
    ∧ ((s.quad (quadOf tk)).halted = true → ∃ t, exec (.debugSlotStart tk (some v) [(n, w)] [(r, w)]) s = .next t
      ∧ (r ≠ 57 → (s.slot tk).push = none → (t.slot tk).st = (if (s.slot tk).st = .free then .ready else (s.slot tk).st))
      ∧ (r = 57 → w.getLsbD 38 = true → (s.slot tk).push = none → (t.slot tk).st = .held ∧ (t.slot tk).push = some (fld w 32 6, 0))
      ∧ (r = 60 → (s.slot tk).st ≠ .free → (t.slot tk).task.wid = w)
      ∧ (r = 56 → (t.slot tk).wake = w.getLsbD 0 ∧ (t.slot tk).hbPending = w.getLsbD 1)
      ∧ (t.slot tk).pc = v
      ∧ (1 ≤ r → r < 32 → t.tReg tk r = w)
      ∧ (n = 32 → (t.slot tk).sr.status = setFld (w &&& 0xF1#64) 6 1 (fld (s.slot tk).sr.status 6 1))
      ∧ (n = 54 → (t.slot tk).sr.regallot = w &&& 0x11F3F#64))
    ∧ (1 ≤ id → id < 4096 → ∃ t, exec (.keyLoad id key) s = .next t ∧ t.panel = { s.panel with keys := FMap.set 0 s.panel.keys id key }
      ∧ ((∀ e ∈ s.panel.frames, e.2.2 ≠ id) ∨ FMap.get 0 s.panel.keys id = key → t.mem = s.mem)
      ∧ (s.panel.frames = [(pa, size, id)] → FMap.get 0 s.panel.keys id ≠ key → ∀ i < size / 16,
        let at_ := pa + 16 * i
        t.rd (hbmKey at_) 16 = bytesNat (xtsDecrypt key at_ (xtsEncrypt (FMap.get 0 s.panel.keys id) at_
          (natBytes 16 (s.rd (hbmKey at_) 16)))) % 2 ^ 128))
    ∧ (s.usesFrames (frame * 4096) 4096 = false → ∃ t, exec (.frameReassign frame old new) s = .next t
      ∧ (frame * 4096, 4096, new) ∈ t.panel.frames ∧ (∀ e ∈ t.parts, ∀ m ∈ e.2.s2, overlap m.pa m.size (frame * 4096) 4096 = false)
      ∧ ∀ j, memByte t.mem j = if hbmKey (frame * 4096) ≤ j ∧ j < hbmKey (frame * 4096) + 4096 then 0 else memByte s.mem j)
    ∧ (pt.live = true → s2Size size = true → ipa % size = 0 → pa % size = 0 → pa + size ≤ 1728 * 2 ^ 30 →
      s.panel.mappable pt.key pa size = true → (∀ m ∈ pt.s2, overlap m.ipa m.size ipa size = true → s.usesFrames m.pa m.size = false) →
      ∃ t, exec (.stage2MappingChange pid ipa size pa perm) s = .next t
      ∧ (t.part pid).s2 = (pt.s2.filter fun m => !overlap m.ipa m.size ipa size) ++ (if perm = 0 then [] else
        [{ ipa, size, pa, rd := perm.getLsbD 0, wr := perm.getLsbD 1, ex := perm.getLsbD 2 }]))

/-- R23, R24, R363, R372 to R374, R377, R378, R382 to R384: a detector contains its quad and logs the retirement; a block of a
failed quad's share is copied, one accessed before its time next, and the spare that takes the quad's place is the nearest of its row
(R25); a partition's new rectangle is installed for its switch time once the quads that leave it have spilled their pinned slots; a
quad's two contexts change places once its cores have stopped; alarms, freezes and the reinstatement log; STEPLIM takes what the physical
function sets; PANEL_RESET empties the machine and keeps the panel's records. That PANEL_RESET clears memory is log entry 76, what a
swap waits for and keeps, with its save area, log entries 13 and 78, that a change is for 2,000 ns on log entry 148, that a signature's verdict is a free value log entry 92 (all DESIGN CHOICE); that STEPLIM is set
by a turn is log entry 135, and the order of accessed blocks log entry 136 (both DEDUCED); the order of a resizing is log entry 144, and
the spares without those that pending changes name log entry 131 (both DEDUCED): these clauses are the model's. -/
def Obligations.RecoveryAndPower : Prop :=
  ∀ (s : State) (qi core r pid x0 y0 w h blk k unit sig : Nat) (regions limit : BitVec 16) (time : Word) (f : Fill) (c0 c1 : Ctx)
    (v1 : Saved) (rest : List Turn),
    qi < 2304 → core < 4 → r < 16 →
    let q := s.quad qi
    let spare : Option Nat := (nearest (pxOf qi) (s.spares (pyOf qi))).map fun px => pyOf qi * 72 + px
    let contains (i : Instr) (st : QuadSt) (n : Nat) : Prop := ∃ t, exec i s = .next t ∧ (t.quad qi).contained = true
      ∧ (t.quad qi).st = st ∧ t.slots = s.slots ∧ (∃ e, t.panel.log = s.panel.log ++ [e] ∧ e.qi = qi ∧ e.unit = n ∧ e.retire = true)
      ∧ ∀ l, s.logicalOf qi = some l → t.changes = s.changes ++ [{ time := s.switchTime, op := .contain qi l spare }]
    let gone := s.removedQuads pid x0 y0 w h
    let installed : Res := .next { s with changes := s.changes ++ [{ time := s.switchTime, op := .resize pid x0 y0 w h }] }
    (q.contained = false → let left := if q.st = .healthy then QuadSt.memoryOnly else q.st
      contains (.uncorrectableEccError qi core) left core ∧ contains (.pipelineParityError qi core) left core
      ∧ contains (.routerHeartbeatLoss qi) .dead 5)
    ∧ (∀ px l c, nearest px l = some c → c ∈ l ∧ ∀ d ∈ l, colDist c px ≤ colDist d px)
    ∧ exec (.correctableEccError qi) s = .next (s.updPanel fun p => { p with eccCount := FMap.set 0 p.eccCount qi (FMap.get 0 p.eccCount qi + 1) })
    ∧ (s.Wf → q.fill = some f → f.moved.contains blk = false → blk < 256 → (f.next.head?.all fun b => b == blk) = true →
      ∃ t, exec (.shareFillBlock qi blk) s = .next t
      ∧ ∀ i < 65536, memByte t.mem (scratchKey qi (blk * 65536) + i) = memByte s.mem (scratchKey f.src (blk * 65536) + i))
    ∧ (q.fill = some f → keyQuad k ≠ qi → f.next.contains (k % 2 ^ 24 / 65536) = false →
      ((s.noteBlock qi k).quad qi).fill = some { f with next := f.next ++ [k % 2 ^ 24 / 65536] })
    ∧ (s.resizeOk pid x0 y0 w h = true →
      (gone = [] → exec (.partitionResize pid x0 y0 w h) s = installed)
      ∧ ((∃ e ∈ gone, e.2.leaving = false) → ∃ t, exec (.partitionResize pid x0 y0 w h) s = .next t ∧ t.changes = s.changes
        ∧ ∀ e ∈ gone, ∀ c ∈ (t.quad e.1).ctxs, c.pid = pid → c.leaving = true)
      ∧ ((∀ e ∈ gone, e.2.leaving = true) →
        (s.pinnedOn pid gone ≠ [] → (∀ tk ∈ s.pinnedOn pid gone, (s.slot tk).st = .moving) → exec (.partitionResize pid x0 y0 w h) s = .next s)
        ∧ (s.pinnedOn pid gone = [] → (∀ e ∈ gone, ∀ x ∈ (s.quad e.1).chans, x.pid ≠ pid) →
          exec (.partitionResize pid x0 y0 w h) s = installed)))
    ∧ (s.resizeOk pid x0 y0 w h = false → (∀ e ∈ gone, e.2.leaving = false) → exec (.partitionResize pid x0 y0 w h) s = .next s)
    ∧ (s.sched = .stepLimit r limit :: rest → step s = .next (({ s with sched := rest } : State).updRegion r fun g => { g with steplim := limit }))
    ∧ (q.ctxs = [c0, c1] → c0.pid ≠ c1.pid → q.contained = false →
      (q.swapping = false → exec (.contextSwap qi) s = .next ((s.updQuad qi fun q => { q with swapping := true }).ripAll qi))
      ∧ ((∀ n < 32, (s.slot (qi * 32 + n)).optimistic = false) → s.ripAll qi = s)
      ∧ (q.swapping = true → s.swapReady qi = true → q.gangs = [] →
        (∀ n < 32, ∀ z, (s.slot (qi * 32 + n)).st ≠ .blocked z) → (∀ tk ∈ s.wakes, quadOf tk ≠ qi) →
        (∀ e ∈ q.chans, e.pid ≠ c0.pid) → (∀ c < 4, (s.core (qi * 4 + c)).fifo = [] ∧ (s.core (qi * 4 + c)).slice.ops = []) →
        ∃ t, exec (.contextSwap qi) s = .next t ∧ (t.quad qi).ctxs = [c1, c0] ∧ (t.quad qi).swapping = false ∧ t.mem = (s.saveSlots qi c0).mem
        ∧ (∃ v ∈ (t.quad qi).shadow, v.pid = c0.pid ∧ v.slots = (List.range 32).map fun n => s.slot (qi * 32 + n))
        ∧ (q.shadow = [v1] → v1.pid = c1.pid → v1.slots.length = 32 → ∀ n < 32, ∃ x, v1.slots[n]? = some x
          ∧ (t.slot (qi * 32 + n)).pc = x.pc ∧ (t.slot (qi * 32 + n)).st = x.st ∧ (t.slot (qi * 32 + n)).t = x.t)))
    ∧ exec (.reinstateEntryAppend qi unit time sig) s = .next (if Config.signatureOk qi unit time sig then
        s.updPanel fun p => { p with log := p.log ++ [{ qi, unit, retire := false, time }] } else s)
    ∧ ((s.region r).droopst.getLsbD 0 = false → exec (.droopAlarmRaise r) s = .next (s.updRegion r fun g =>
        { g with droopst := setFld (g.droopst ||| 3#64) 48 16 (Nat.min 65535 (fld g.droopst 48 16 + 1)) }))
    ∧ exec (.droopAlarmClear r) s = .next (s.updRegion r fun g => { g with droopst := g.droopst &&& ~~~1#64 })
    ∧ exec .freezeInput s = .next (s.updPanel fun p => { p with frozen := true })
    ∧ (∃ t, exec (.freezeCommand regions) s = .next t ∧ (∀ n < 16, (t.region n).frozen = (regions.getLsbD n || (s.region n).frozen))
      ∧ t.slots = s.slots ∧ t.mem = s.mem)
    ∧ (∃ t, exec .panelReset s = .next t ∧ t.slots = [] ∧ t.parts = [] ∧ t.flights = [] ∧ t.msgs = [] ∧ t.panel.frozen = false
      ∧ t.panel.log = s.panel.log ∧ t.panel.colmap = s.panel.bootMap ∧ (t.quad qi).st = s.panel.bootState qi
      ∧ ∀ j < 2 ^ 64, memByte t.mem j = 0)

/-- R38, R40, R81, R89, R97, R98, R100, R111, R381: a fetched line makes its slot ready, a line of HBM is asked for, once, an illegal one
traps; the oldest waiting cause of a slot that is ready or blocked is taken; held pushes are retried, each at its own port; a wake ends the
WAITADDR or MWAIT in which its slot is blocked, and else sets the bit; a spill begins, writes its image and frees the slot, or ends with
status 5; a restored slot is its image; a watchdog tells the service core. The save area of a double trap, and the slot kept beside its
image there, are log entry 13 (DESIGN CHOICE), word 2 of the watchdog's message log entry 45, and the second held push log entry 116
(both DEDUCED); that what basting keeps of a spilled task stands beside its image's thread number is log entry 139, and that
an image's PC stands with its bit 0 log entry 150 (both DESIGN CHOICE). -/
def Obligations.SlotEvents : Prop :=
  ∀ (s : State) (tk l : Nat) (p p2 : Nat × Word × Word) (ps : List (Nat × Word × Word)) (y : Slot) (old : Task) (why : EngErr) (m : Move)
    (bs id : List Byte) (u : State) (cause : Nat) (info : Word), tk < 73728 →
    let x := s.slot tk
    let push (p : Nat × Word × Word) : Option State := s.pushPort (coreOf tk) (slotNo tk) p.1 p.2.1 p.2.2
    let retry := exec (.heldPushRetry tk) s
    let watch := watchLog (s.vf (s.part (s.pidOf tk)).vf).wdt.toNat
    (x.st = .ready ∨ (∃ w, x.st = .blocked w) →
      (s.fetchCheck tk = some (cause, info) → exec (.lineFetch tk) s = .next (s.enterTrap tk cause info x.pc))
      ∧ (s.fetchCheck tk = none → s.fetchLine tk = some l →
        (illegalLine x.pc l = none → exec (.lineFetch tk) s = .next ((s.withLine tk l).updSlot tk fun y => if y.st = .blocked .fetch then { y with st := .ready } else y))
        ∧ (illegalLine x.pc l = some (cause, info) → exec (.lineFetch tk) s = .next ((s.withLine tk l).enterTrap tk cause info x.pc)))
      ∧ (s.fetchCheck tk = none → s.fetchLine tk = none → s.fetching tk = false → space x.pc = 2 →
        ∃ t, exec (.lineFetch tk) s = .next t ∧ (t.slot tk).st = (if x.st = .ready then .blocked .fetch else x.st) ∧ t.fetching tk = true)
      ∧ (s.fetchCheck tk = none → s.fetchLine tk = none → s.fetching tk = true →
        exec (.lineFetch tk) s = .next (s.updSlot tk fun y => if y.st = .ready then { y with st := .blocked .fetch } else y)))
    ∧ (∀ c rest, x.exl = false → s.stopped tk = false → (x.st = .ready ∨ ∃ w, x.st = .blocked w) → x.op = .none → x.async = c :: rest →
      ∃ t, exec (.asyncTrapEntry tk) s = .next t ∧ (t.slot tk).async = rest ∧ (t.slot tk).st = .ready ∧ (t.slot tk).pc = x.sr.tvec
        ∧ (t.slot tk).sr.epc = x.pc ∧ (t.slot tk).sr.ecause = word c.code.toNat ∧ (t.slot tk).sr.einfo = c.info
        ∧ (t.slot tk).exl = true ∧ (t.slot tk).t = x.t ∧ t.mem = s.mem ∧ ∀ k, k ≠ tk → t.slot k = s.slot k)
    ∧ (x.st = .held →
      (x.pushes = [p] → (push p = some u → retry = .next (u.updSlot tk fun y => y.pushed [])) ∧ (push p = none → retry = .next s))
      ∧ (x.pushes = [p, p2] → push p = none → (p.1 = p2.1 → retry = .next s)
        ∧ (p.1 ≠ p2.1 → push p2 = some u → retry = .next (u.updSlot tk fun y => y.pushed [p]))))
    ∧ (y.pushed []).push = none ∧ (y.st = .held → (y.pushed []).st = .ready)
    ∧ (y.pushed (p :: ps)).push = some (p.1, p.2.1) ∧ (y.pushed (p :: ps)).pushMore = ps ∧ (y.pushed (p :: ps)).st = y.st
    ∧ (s.wakes = [tk] → let left : State := { s with wakes := [] }
      (x.st = .blocked .mwait → exec (.wakeArrival tk) s = .next (left.updSlot tk fun y => y.endWait 0))
      ∧ (∀ k b, x.st = .blocked (.wordNe k b) → s.owned k 8 = false →
        exec (.wakeArrival tk) s = .next (left.updSlot tk fun y => y.endWait (s.wordFor tk k)))
      ∧ (x.st ≠ .blocked .mwait → (∀ k b, x.st ≠ .blocked (.wordNe k b)) →
        exec (.wakeArrival tk) s = .next (left.updSlot tk fun y => { y with wake := true })))
    ∧ (s.moves = [m] → m.thr = tk → m.restore = false →
      (m.started = false → x.op = .none → x.cnt.zero = true → s.noPending tk = true → s.faulted tk = false → m.dbl = true
          ∨ s.engineWrite m.agent (s.pidOf m.agent) m.addr (s.image tk x.pc) = .ok u →
        exec (.slotSpill tk) s = .next { s with moves := [{ m with started := true }] })
      ∧ (m.started = true →
        (m.dbl = false → s.engineWrite m.agent (s.pidOf m.agent) m.addr (s.image tk x.pc) = .ok u → ∃ t, exec (.spillComplete tk) s = .next t
          ∧ t.mem = u.mem ∧ t.moves = [] ∧ (m.issuer ≠ some tk → (t.slot tk).st = .free)
          ∧ (x.bst = true → (s.pidOf tk, s.relThread tk, x.task) ∈ t.parked))
        ∧ (m.dbl = false → s.engineWrite m.agent (s.pidOf m.agent) m.addr (s.image tk x.pc) = .error why → why ≠ .owned →
          exec (.spillComplete tk) s = .next ((({ s with moves := [] } : State).updSlot tk fun y =>
            { y with st := if y.push.isSome then .held else .ready }).answerMove m 5))
        ∧ (m.dbl = true → m.issuer = none → ∃ t, exec (.spillComplete tk) s = .next t ∧ t.doubles = s.doubles ++ [(tk, x)]
          ∧ (t.slot tk).st = .free)))
    ∧ (s.moves = [m] → m.thr = tk → m.restore = true → s.engineRead m.agent (s.pidOf m.agent) (m.addr + 504#64) 1 = .ok id →
      let img : State := { s with mem := memWrite [] 0 bs }
      let owner := fld (word (ofBytes id)) 16 12
      (owner ≠ s.pidOf m.agent → ∃ t, exec (.restoreComplete tk) s = .next t ∧ t.moves = []
        ∧ (m.issuer ≠ some tk → (t.slot tk).st = .free))
      ∧ (owner = s.pidOf m.agent → s.engineRead m.agent (s.pidOf m.agent) m.addr 576 = .ok bs → m.issuer ≠ some tk →
        ∃ t, exec (.restoreComplete tk) s = .next t ∧ t.moves = []
        ∧ (t.slot tk).pc = img.imgWord 0 0 ∧ (∀ n < 32, 1 ≤ n → t.tReg tk n = img.imgWord 0 n)
        ∧ (t.slot tk).sr.tvec = img.imgWord 0 48 &&& ~~~1#64 ∧ (t.slot tk).sr.epc = img.imgWord 0 49
        ∧ (s.parked = [(s.pidOf m.agent, fld (word (ofBytes id)) 0 16, old)] → (t.slot tk).bst = true → t.parked = []
          ∧ (t.slot tk).task.atomLog = old.atomLog ∧ (t.slot tk).task.msgTo = old.msgTo ∧ (t.slot tk).task.ckAge = old.ckAge)))
    ∧ (x.st = .held → x.wdFired = false → watch ≠ 0 → 2 ^ watch ≤ x.waited → x.kind ≠ 3 → exec (.watchdogExpiry tk) s =
      .next ((s.updSlot tk fun y => { y with wdFired := true }).service (s.pidOf tk)
        { kind := 0x13, thread := s.relThread tk, info := x.pc, w2 := x.pc }))

/-- R368 to R370, R373: a checkpoint is taken by BASTE, or in place of the next issue once it is due, and waits until the slot is
drained; EN of BASTECFG enables and disables; a basted slot of a failed quad comes back at its substitute at the checkpoint's PC. That
its range of memory is copied back only where the share did not survive is log entry 25, and that a slot without a guarding quad takes
no checkpoint and goes on log entry 29 (both DEDUCED). -/
def Obligations.Basting : Prop :=
  ∀ (s : State) (tk old h k : Nat) (v : Word), tk < 73728 →
    let x := s.slot tk
    (s.me.optimistic = false →
      (basteEn s.me.sr.bastecfg = false → exec .baste s = .next s.passed)
      ∧ (basteEn s.me.sr.bastecfg = true → s.mayBaste s.cur = true → exec .baste s = .next (s.checkpoint s.cur s.me.nextPc).passed)
      ∧ (basteEn s.me.sr.bastecfg = true → s.mayBaste s.cur = false → exec .baste s = .next (s.blockMe .drained)))
    ∧ (s.me.optimistic = true → exec .baste s = .next (s.enterTrap s.cur 0x02 0 s.me.pc))
    ∧ (x.st = .ready → x.basteNow = true → s.stopped tk = false →
      (s.mayBaste tk = true → exec (.basteIntervalExpiry tk) s = .next (s.checkpoint tk x.pc))
      ∧ (s.mayBaste tk = false → exec (.basteIntervalExpiry tk) s = .next (s.updSlot tk fun y => { y with st := .blocked .drained })))
    ∧ (basteEn v = true → x.st ≠ .free → (x.kind = 2 ∨ x.kind = 3) → ((s.part (s.pidOf tk)).guardQuad (s.pOf tk)).isSome = true →
      ∃ t, exec (.bastecfgEnable tk v) s = .next t ∧ (t.slot tk).sr.bastecfg = v &&& 0x80FFFFFFFFFFF000#64
        ∧ (t.slot tk).bst = true ∧ (t.slot tk).sr.basteCount = x.sr.basteCount)
    ∧ (x.task.disabling = some v → x.cnt.stcS = 0 → x.cnt.stcP = 0 → ∃ t, exec (.bastecfgDisable tk) s = .next t
        ∧ (t.slot tk).sr.bastecfg = v ∧ (t.slot tk).bst = false ∧ (t.slot tk).task.disabling = none)
    ∧ ((s.quad (quadOf tk)).replaces = some (quadOf old) → old % 32 = tk % 32 → old ≠ tk → x.st = .free → (s.slot old).bst = true →
      (s.slot old).st ≠ .free →
      let t := s.updSlot tk fun y => { y with sr := { y.sr with bastecfg := (s.slot old).sr.bastecfg, basteCount := (s.slot old).sr.basteCount } }
      t.lastHalf tk = some h → t.halfKey tk h 0 = some k → ∃ z, exec (.bastedSlotResume tk) s = .next z ∧ (z.slot tk).pc = s.imgWord k 0
        ∧ (z.slot tk).st ≠ .free ∧ (z.slot old).st = .free ∧ ((s.quad (quadOf old)).st = .memoryOnly → z.mem = s.mem))

/-! ## Frames, encodings, steps and invariants -/

/-- R84, R85, R101, R105, R109, R154: a scalar head that may issue answers a next state in which, after its pops, no memory, no
special register, no other slot and no other core has changed, and no register but its destination.
R43, R44, R102 to R104: a branch, a jump, a call and a loop change beside their link or count nothing but the slot's place and the branch
trace; NOP, YIELD, WAITC and the fences but FENCE.sys nothing but the slot's place, whether they wait or go on; a mask head nothing but
its mask and the slot's place. -/
def Obligations.ScalarHeadsKeepTheRest : Prop :=
  (∀ (s : State) (d a b c : Reg) (imm : BitVec 22) (imm16 : BitVec 16) (imm48 : BitVec 48) (pos : BitVec 6) (len : BitVec 7) (k : MReg),
    s.mayPut d = true → 1 ≤ len.toNat → pos.toNat + len.toNat ≤ 64 →
    ∀ row ∈ ([(.add d a b, [a, b], []), (.sub d a b, [a, b], []), (.addw d a b, [a, b], []), (.subw d a b, [a, b], []),
      (.mul d a b, [a, b], []), (.mulw d a b, [a, b], []), (.mulh d a b, [a, b], []), (.mulhu d a b, [a, b], []),
      (.div d a b, [a, b], []), (.divu d a b, [a, b], []), (.rem d a b, [a, b], []), (.remu d a b, [a, b], []),
      (.and_ d a b, [a, b], []), (.or_ d a b, [a, b], []), (.xor d a b, [a, b], []), (.andn d a b, [a, b], []), (.orn d a b, [a, b], []),
      (.shl d a b, [a, b], []), (.shr d a b, [a, b], []), (.sra d a b, [a, b], []), (.rotl d a b, [a, b], []), (.rotr d a b, [a, b], []),
      (.min d a b, [a, b], []), (.max d a b, [a, b], []), (.minu d a b, [a, b], []), (.maxu d a b, [a, b], []),
      (.seq d a b, [a, b], []), (.sne d a b, [a, b], []), (.slt d a b, [a, b], []), (.sltu d a b, [a, b], []),
      (.addi d a imm, [a], []), (.andi d a imm, [a], []), (.ori d a imm, [a], []), (.xori d a imm, [a], []), (.slti d a imm, [a], []),
      (.shli d a imm, [a], []), (.shri d a imm, [a], []), (.srai d a imm, [a], []), (.clz d a, [a], []), (.ctz d a, [a], []),
      (.popc d a, [a], []), (.brev d a, [a], []), (.bswap d a, [a], []), (.mov d a, [a], []), (.lih d a imm16, [a], []),
      (.ext d a pos len, [a], []), (.exts d a pos len, [a], []), (.ins d a pos len, [d, a], []), (.sel d a b c, [a, b, c], []),
      (.li d imm48, [], []), (.addpc d imm, [], []), (.wid d imm, [], []), (.timeLoc d, [], []), (.timeGlob d, [], []), (.qlen d imm, [], []),
      (.getid .thr d, [], []), (.mpopc d k, [], [k]), (.mfirst d k, [], [k]), (.mgetv d k, [], [k])]
      : List (Instr × List Reg × List MReg)),
    mayIssue { rd := row.2.1, wr := [d], ms := row.2.2 } s = true →
    ∃ t, exec row.1 s = .next t ∧ (s.popPorts row.2.1).keepsBut t d)
  ∧ (∀ (s : State) (d a b : Reg) (off : BitVec 15) (far : BitVec 37) (idx : BitVec 5),
    (∀ row ∈ ([(.br off idx, []), (.brLong far idx, []), (.beq a b off idx, [a, b]), (.bne a b off idx, [a, b]), (.blt a b off idx, [a, b]),
        (.bge a b off idx, [a, b]), (.bltu a b off idx, [a, b]), (.bgeu a b off idx, [a, b]), (.bz a off idx, [a]), (.bzLong a far idx, [a]),
        (.bnz a off idx, [a]), (.bnzLong a far idx, [a]), (.nop, []), (.yield, [])] : List (Instr × List Reg)),
      mayIssue { rd := row.2 } s = true → ∃ t, exec row.1 s = .next t ∧ (s.popPorts row.2).keepsButPlace t)
    ∧ (mayIssue { rd := [d] } s = true → (s.operand d).getLsbD 0 = false → ∀ i ∈ [Instr.jr d, .ret d],
      ∃ t, exec i s = .next t ∧ (s.popPorts [d]).keepsButPlace t)
    ∧ (s.mayPut d = true →
      (mayIssue { wr := [d] } s = true → ∀ i ∈ [Instr.call d off idx, .callLong d far idx],
        ∃ t, exec i s = .next t ∧ (s.writeReg s.cur d s.me.nextPc 3).keepsButPlace t)
      ∧ (mayIssue { rd := [a], wr := [d] } s = true → (s.operand a).getLsbD 0 = false →
        ∃ t, exec (.callr d a) s = .next t ∧ ((s.popPorts [a]).writeReg s.cur d s.me.nextPc 3).keepsButPlace t)
      ∧ (mayIssue { rd := [d], wr := [d] } s = true → ∀ i ∈ [Instr.loop d off idx, .loopLong d far idx],
        ∃ t, exec i s = .next t ∧ ((s.popPorts [d]).writeReg s.cur d (s.operand d - 1) 3).keepsButPlace t)))
  ∧ (∀ (s : State) (sc : Scope) (l st c tl : BitVec 4),
    (∃ t, exec (.waitc l st c tl) s = .next t ∧ s.keepsButPlace t)
    ∧ (sc ≠ .sys → ∃ t, exec (.fence sc) s = .next t ∧ s.keepsButPlace t))
  ∧ (∀ (s : State) (d a b : MReg) (x : Reg),
    (mayIssue { ms := [d, a, b] } s = true → ∀ i ∈ [Instr.mand d a b, .mor d a b, .mxor d a b],
      ∃ t, exec i s = .next t ∧ s.keepsButMask t d)
    ∧ (mayIssue { ms := [d, a] } s = true → ∃ t, exec (.mnot d a) s = .next t ∧ s.keepsButMask t d)
    ∧ (mayIssue { rd := [x], ms := [d] } s = true → ∃ t, exec (.msetv d x) s = .next t ∧ (s.popPorts [x]).keepsButMask t d))

/-- R118 to R121: a vector-unit head that may issue, lanewise, converting or across lanes, answers a next state in which only its queue
entry is new; no register has changed yet, and when the entry ends nothing but its destination does. -/
def Obligations.VectorHeadsKeepTheRest : Prop :=
  (∀ (s : State) (d a b c : VReg) (m : MReg) (r : Rnd) (ty : VTy) (sat hi : Bool), s.myCore.vqUsed < 8 →
    ∀ row ∈ ([(.vadd d a b m r, [a, b]), (.vsub d a b m r, [a, b]), (.vmul d a b m r, [a, b]), (.vdiv d a b m r, [a, b]),
      (.vfma d a b c m r, [a, b, c]), (.vfms d a b c m r, [a, b, c]), (.vfnma d a b c m r, [a, b, c]), (.vdadd d a b m r, [a, b]),
      (.vdmul d a b m r, [a, b]), (.vdfma d a b c m r, [a, b, c]), (.vrcp d a m, [a]), (.vrsq d a m, [a]), (.vexp2 d a m, [a]),
      (.vlog2 d a m, [a]), (.vtanh d a m, [a]), (.vsqrt d a m, [a]), (.vmin d a b m ty, [a, b]), (.vmax d a b m ty, [a, b]),
      (.viadd d a b m ty sat, [a, b]), (.visub d a b m ty sat, [a, b]), (.vimul d a b m ty sat hi, [a, b]),
      (.vimad d a b c m ty sat, [a, b, c]), (.vand d a b m ty, [a, b]), (.vor d a b m ty, [a, b]), (.vxor d a b m ty, [a, b]),
      (.vshl d a b m ty, [a, b]), (.vshr d a b m ty, [a, b]), (.vsra d a b m ty, [a, b]), (.vmov d a m ty, [a]),
      (.vabs d a m ty, [a]), (.vneg d a m ty, [a]), (.vclass d a m ty, [a]), (.vround d a m ty r, [a]), (.vfcvti d a m ty r, [a]),
      (.vicvtf d a m ty r, [a]), (.vsel d a b m ty, [a, b]), (.vperm d a b m ty, [a, b]), (.vredadd d a m ty r, [a]),
      (.vredmax d a m ty, [a]), (.vredmin d a m ty, [a]), (.viota d m ty, [])]
      : List (Instr × List VReg)),
    mayIssue { vs := d :: row.2, ms := [m] } s = true →
    ∃ t val keep, exec row.1 s = .next t ∧ s.queuesOnly t (.vec d.toNat val keep))
  ∧ (∀ (s : State) (d a b : VReg) (e m : MReg) (x y : Reg) (r : Rnd) (ty : VTy) (fmt : NFmt) (cc : Cond) (up wide : Bool) (j : BitVec 6),
    s.myCore.vqUsed < 8 →
    let enters (i : Instr) (rd : List Reg) (dest : VDest → Prop) : Prop :=
      ∃ t v, exec i s = .next t ∧ dest v ∧ (s.popPorts rd).queuesOnly t v
    let toVec (v : VDest) : Prop := ∃ val keep, v = .vec d.toNat val keep
    (mayIssue { vs := [d, a], ms := [m], seed := r == .rsr } s = true → enters (.vcvt d a m fmt up r) [] toVec)
    ∧ (fmt ≠ .fp64 → mayIssue { vs := [d, a, b], ms := [m], seed := r == .rsr } s = true → enters (.vquant d a b m fmt r) [] toVec)
    ∧ (mayIssue { vs := [a, b], ms := [e, m] } s = true → enters (.vcmp e a b m ty cc) [] fun v => ∃ val, v = .mask e.toNat val)
    ∧ (mayIssue { vs := [d, a], ms := [m] } s = true →
      enters (.vbcast d a m ty j) [] toVec ∧ (ty.lanes = 64 → enters (.vscanadd d a m ty r) [] toVec))
    ∧ (mayIssue { rd := [x], vs := [d], ms := [m] } s = true → enters (.vsplat d x m ty) [x] toVec)
    ∧ ((s.operand y).toNat < 2048 / (if wide then 64 else 32) →
      (mayIssue { rd := [y], wr := [x], vs := [a] } s = true → s.mayPut x = true →
        enters (.vextr x a y wide) [y] fun v => ∃ val, v = .scal x.toNat val)
      ∧ (mayIssue { rd := [x, y], vs := [d] } s = true → enters (.vinsr d x y wide) [x, y] toVec)))
  ∧ (∀ (s : State) (ck : Nat) (e : VEntry) (r : Nat) (val : Word), ck < 9216 → (s.core ck).vq = [e] → e.left = [] →
    e.ends + e.lat ≤ (s.core ck).cycle → e.dest = .mask r val → e.seed = none → e.slot < 8 → (s.core ck).pend = [] →
    let t := s.performDue ck
    ({ t with slots := s.slots, cores := s.cores } : State) = s
      ∧ (∀ tk n, (n ≠ r ∨ tk ≠ ck * 8 + e.slot) → t.mReg tk n = s.mReg tk n)
      ∧ (∀ tk n, t.tReg tk n = s.tReg tk n ∧ t.cReg tk n = s.cReg tk n ∧ t.vReg tk n = s.vReg tk n)
      ∧ (∀ tk, (t.slot tk).sr = (s.slot tk).sr))
  ∧ ∀ (s : State) (ck : Nat) (e : VEntry) (r : Nat) (val keep : Vec), ck < 9216 → (s.core ck).vq = [e] → e.left = [] →
    e.ends + e.lat ≤ (s.core ck).cycle → e.dest = .vec r val keep → e.seed = none → e.slot < 8 → (s.core ck).pend = [] →
    ∃ u, exec (.vectorComplete ck e.id) s = .next u ∧ let t := u.performDue ck
      ({ t with slots := s.slots, cores := s.cores } : State) = s
      ∧ (∀ tk n, (n ≠ r ∨ (n < 16 ∧ tk ≠ ck * 8 + e.slot) ∨ coreOf tk ≠ ck) → t.vReg tk n = s.vReg tk n)
      ∧ (∀ tk n, t.tReg tk n = s.tReg tk n ∧ t.cReg tk n = s.cReg tk n ∧ t.mReg tk n = s.mReg tk n)
      ∧ (∀ tk, (t.slot tk).sr = (s.slot tk).sr)

/-- R4, R19, R35 to R39, R82 to R84: with no other turn listed, a step is the next cycle of the quad of `cur`, whose cores keep step: the
first slot of the rotation that may issue runs the instruction that the bytes at its PC decode to; then its issue is charged, or the rotation goes on when
it blocked, and the cycle ends. A listed event is taken first, and the waits for words that it ends end with it (R110). The order of the
turns is the model's (log entry 3), and so is that a blocked head charges nothing and the rotation goes on to the next slot of the cycle
(log entry 97, DEDUCED). -/
def Obligations.StepRunsDecodedInstruction : Prop :=
  ∀ (s : State) (i : Instr) (l n : Nat), n < 8 →
    let ck := s.inStep (coreOf s.cur)
    let slotAt (j : Nat) : Nat := ck * 8 + ((s.core ck).rot + j) % 8
    let tk := slotAt n
    let x := s.slot tk
    let u : State := { s with cur := tk }
    let run := exec i (u.withLine tk l)
    (s.sched = [] → coreOf s.cur < 9216 → s.clockStopped (regionOf (quadOfCore (coreOf s.cur))) = false → (∀ j < n, s.eligible (slotAt j) = false) →
      s.eligible tk = true → x.op = .none → x.exl = true ∨ x.async = [] → x.basteNow = false →
      u.fetchCheck tk = none → u.fetchLine tk = some l → illegalLine x.pc l = none →
      decode (lineHalf l (headIndex x.pc)) (lineTail l (headIndex x.pc)) = .ok i →
      (∀ t, run = .next t → stayed x (t.slot tk) = false → step s = .next ((t.charge tk (spacing i)).endCycle ck))
      ∧ (∀ t, run = .next t → stayed x (t.slot tk) = true → (∀ j, n < j → j < 8 → t.eligible (slotAt j) = false) →
        step s = .next (t.endCycle ck))
      ∧ (∀ f, run = .fault f → step s = .fault f) ∧ (∀ r, run = .refused r → step s = .refused r))
    ∧ (∀ e rest, s.sched = .event e :: rest → Instr.ofCore e = false →
      (({ s with sched := rest } : State).clocksOf e).any ({ s with sched := rest } : State).clockStopped = false →
      step s = settled (exec e { s with sched := rest }))

/-- R36, R45 to R49, R57: the words of the spec's own encoded lines and of its branch example decode to the instructions that they
stand for; a NOP with a destination, an unassigned major and a non-zero reserved field are refused. -/
def Obligations.EncodingWords : Prop :=
  decode 0x0000 0 = .ok .nop ∧ decode 0x30C3 0 = .ok (.li 3 0) ∧ decode 0x30C4 0x10 = .ok (.li 4 16)
    ∧ decode 0x5885 0x18030000 = .ok (.ld 5 6 0 .w 0 .n) ∧ decode 0x0143 0x0C50 = .ok (.add 3 3 5)
    ∧ decode 0x0386 0x18000008 = .ok (.addi 6 6 8) ∧ decode 0x4584 0x3 = .ok (.loop 4 0 3)
    ∧ decode 0x5A80 0x1C330000 = .ok (.st 7 3 0 .w 0 .n) ∧ decode 0x4700 0 = .ok .tend
    ∧ decode 0x3A80 0x0C0FFFC5 = .ok (.bne 3 0 0x7FFE 5)
    ∧ decode 0x0001 0 = .error .reserved ∧ decode 0xFF00 0 = .error .unassigned ∧ decode 0x3400 0 = .error .unassigned
    ∧ decode 0x0143 0x0C51 = .error .reserved

/-- R36, R45 to R52: every well-formed instruction that has an encoding has a head of 16 bits and a tail of as many halfwords as the
head's TL says, and they decode to it. -/
def Obligations.DecodeOfEncode : Prop :=
  ∀ i : Instr, i.wf = true → i.encodable = true →
    ∃ head tail, encode i = some (head, tail) ∧ head < 2 ^ 16 ∧ tail < 2 ^ (16 * (head / 64 % 4)) ∧ decode head tail = .ok i

/-- R3, R23, R94, R194, R309, R361, R368, R382: what reset leaves: no partition, every slot free, every register of a slot, a
virtual function and a region at the value that its table gives, every full/empty state empty and every byte zero (log entries 1
and 2 name the values that the spec does not give). -/
def Obligations.ResetLeaves : Prop :=
  let s := State.reset
  (∀ pid, (s.part pid).live = false) ∧ (∀ tk, (s.slot tk).st = .free)
    ∧ (∀ tk, s.srValue tk 0x010 = 0 ∧ s.srValue tk 0x012 = 0 ∧ s.srValue tk 0x013 = 0 ∧ s.srValue tk 0x014 = 0 ∧ s.srValue tk 0x015 = 0
      ∧ s.srValue tk 0x020 = 2 ^ 48 ∧ s.srValue tk 0x021 = word (2 ^ 16 + 16 * 2 ^ 8 + 32) ∧ s.srValue tk 0x022 = 0 ∧ s.srValue tk 0x041 = 1
      ∧ s.srValue tk 0x090 = 0 ∧ ∀ n < 16, s.srValue tk (0x050 + n) = 0)
    ∧ (∀ v, (s.vf v).lstat = 0 ∧ (s.vf v).wdt = 27 ∧ (s.vf v).evqBase = 0 ∧ (s.vf v).evqHead = 0 ∧ (s.vf v).evqTail = 0)
    ∧ (∀ r, (s.region r).steplim = 0 ∧ (s.region r).droopst = 0) ∧ (∀ k, memByte s.mem k = 0) ∧ (∀ k, FMap.get false s.fe k = false)
    ∧ (∀ qi, (s.quad qi).halted = false ∧ (s.quad qi).brkArm = false) ∧ s.flights = [] ∧ s.msgs = []

/-- The state after reset is canonical. -/
def Obligations.ResetIsCanonical : Prop := State.reset.Wf

/-- R3, R250: memory and the full/empty states keep their canonical form in every step, whatever turn it takes. -/
def Obligations.StepsKeepMemoryCanonical : Prop := ∀ s t : State, s.Wf → step s = .next t → t.Wf
end

