-- ==== Sys2Proof/Laws/Issue.lean ====
section
/-! SUPPORT. What the issue of a head can do (R81, R85, R89 to R91, R96): one lemma for a head that may issue, one for each way
in which it may not. -/

namespace Sys2Proof.Machine

/-- A head that may issue is given its operands and the state after its pops. -/
theorem Use.issue_of_mayIssue {u : Use} {s : State} (h : mayIssue u s = true) (k : (Reg → Word) → State → Act) :
    u.issue s k = k s.operand (s.popPorts u.rd) := by
  simp only [mayIssue, Bool.and_eq_true, Bool.or_eq_true, Option.isNone_iff_eq_none, Bool.not_eq_true'] at h
  obtain ⟨⟨⟨⟨hsup, hout⟩, hbusy⟩, hmis⟩, hst⟩ := h
  have hb : u.names.filter s.me.busy.contains = [] := by
    rw [List.filter_eq_nil_iff]
    intro a ha
    have := List.any_eq_false.mp hbusy a ha
    simpa using this
  unfold Use.issue
  rcases hsup with hsup | hsup <;> simp [hsup, hout, hmis, hb, hst]

/-- What a head that may issue answers. -/
theorem runHead_of_mayIssue {u : Use} {s : State} (h : mayIssue u s = true) (k : (Reg → Word) → State → Act) :
    runHead u s k = .next ((k s.operand (s.popPorts u.rd)).run s) := by
  rw [runHead, Use.issue_of_mayIssue h]

/-- A head that names nothing may issue. -/
theorem mayIssue_nothing (s : State) : mayIssue {} s = true := by
  simp [mayIssue, Use.names, Use.misused, Use.starved]

/-- A supervisor-only head raises 0x03 at task level (R55). -/
theorem runHead_of_task {u : Use} {s : State} {w : Nat} (h : u.sup = some w) (hs : s.super = false)
    (k : (Reg → Word) → State → Act) : runHead u s k = .next (s.enterTrap s.cur 0x03 (word w) s.me.pc) := by
  simp [runHead, Use.issue, h, hs, Act.run]

end Sys2Proof.Machine
end

