-- ==== Sys2Proof/Laws/Map.lean ====
section
/-! SUPPORT. Sparse tables: reading after a write, and that every operation keeps the canonical form. -/

namespace Sys2Proof.Machine

variable {α : Type}

theorem FMap.get_insert_same (d : α) (m : FMap α) (k : Nat) (v : α) : FMap.get d (FMap.insert m k v) k = v := by
  induction m with
  | nil => simp [FMap.insert, FMap.get]
  | cons e rest ih =>
    obtain ⟨a, w⟩ := e
    simp only [FMap.insert]
    split
    · simp [FMap.get]
    · split
      · simp [FMap.get]
      · rename_i h1 h2; simp [FMap.get, Ne.symm h2, ih]

theorem FMap.get_insert_ne (d : α) (m : FMap α) {k n : Nat} (v : α) (h : n ≠ k) :
    FMap.get d (FMap.insert m k v) n = FMap.get d m n := by
  induction m with
  | nil => simp [FMap.insert, FMap.get, Ne.symm h]
  | cons e rest ih =>
    obtain ⟨a, w⟩ := e
    simp only [FMap.insert]
    split
    · simp [FMap.get, Ne.symm h]
    · split
      · rename_i h2; simp [FMap.get, ← h2, Ne.symm h]
      · simp [FMap.get, ih]

theorem FMap.get_erase_same (d : α) (m : FMap α) (k : Nat) : FMap.get d (FMap.erase m k) k = d := by
  induction m with
  | nil => rfl
  | cons e rest ih =>
    obtain ⟨a, w⟩ := e
    by_cases h : a = k <;> simp [FMap.erase, FMap.get, h, ih]

theorem FMap.get_erase_ne (d : α) (m : FMap α) {k n : Nat} (h : n ≠ k) : FMap.get d (FMap.erase m k) n = FMap.get d m n := by
  induction m with
  | nil => rfl
  | cons e rest ih =>
    obtain ⟨a, w⟩ := e
    by_cases ha : a = k
    · subst ha; simp [FMap.erase, FMap.get, Ne.symm h, ih]
    · simp [FMap.erase, FMap.get, ha, ih]

variable [DecidableEq α]

@[simp] theorem FMap.get_set_same (d : α) (m : FMap α) (k : Nat) (v : α) : FMap.get d (FMap.set d m k v) k = v := by
  unfold FMap.set
  split
  · rename_i h; rw [FMap.get_erase_same, h]
  · exact FMap.get_insert_same d m k v

theorem FMap.get_set_ne (d : α) (m : FMap α) {k n : Nat} (v : α) (h : n ≠ k) :
    FMap.get d (FMap.set d m k v) n = FMap.get d m n := by
  unfold FMap.set
  split
  · exact FMap.get_erase_ne d m h
  · exact FMap.get_insert_ne d m v h

/-- What a written table reads as, anywhere. -/
theorem FMap.get_set (d : α) (m : FMap α) (k n : Nat) (v : α) :
    FMap.get d (FMap.set d m k v) n = if n = k then v else FMap.get d m n := by
  split
  · rename_i h; rw [h, FMap.get_set_same]
  · rename_i h; exact FMap.get_set_ne d m v h

/-! ## The canonical form -/

theorem FMap.wfFrom_mono {d : α} {m : FMap α} {lo lo' : Nat} (hl : lo' ≤ lo) (h : FMap.wfFrom d lo m = true) :
    FMap.wfFrom d lo' m = true := by
  cases m with
  | nil => rfl
  | cons e rest =>
    obtain ⟨a, w⟩ := e
    simp only [FMap.wfFrom, Bool.and_eq_true, decide_eq_true_eq] at h ⊢
    exact ⟨⟨by omega, h.1.2⟩, h.2⟩

theorem FMap.wfFrom_filter {d : α} (p : Nat × α → Bool) (m : FMap α) :
    ∀ {lo : Nat}, FMap.wfFrom d lo m = true → FMap.wfFrom d lo (m.filter p) = true := by
  induction m with
  | nil => intro lo _; rfl
  | cons e rest ih =>
    obtain ⟨a, w⟩ := e
    intro lo h
    simp only [FMap.wfFrom, Bool.and_eq_true, decide_eq_true_eq] at h
    rw [List.filter_cons]
    split
    · simp only [FMap.wfFrom, Bool.and_eq_true, decide_eq_true_eq]
      exact ⟨h.1, ih h.2⟩
    · exact FMap.wfFrom_mono (by omega) (ih h.2)

theorem FMap.wfFrom_erase {d : α} (k : Nat) (m : FMap α) :
    ∀ {lo : Nat}, FMap.wfFrom d lo m = true → FMap.wfFrom d lo (FMap.erase m k) = true := by
  induction m with
  | nil => intro lo _; rfl
  | cons e rest ih =>
    obtain ⟨a, w⟩ := e
    intro lo h
    simp only [FMap.wfFrom, Bool.and_eq_true, decide_eq_true_eq] at h
    simp only [FMap.erase]
    split
    · exact FMap.wfFrom_mono (by omega) (ih h.2)
    · simp only [FMap.wfFrom, Bool.and_eq_true, decide_eq_true_eq]
      exact ⟨h.1, ih h.2⟩

theorem FMap.wfFrom_insert {d : α} (k : Nat) {v : α} (hv : v ≠ d) (m : FMap α) :
    ∀ {lo : Nat}, lo ≤ k → FMap.wfFrom d lo m = true → FMap.wfFrom d lo (FMap.insert m k v) = true := by
  induction m with
  | nil => intro lo hk _; simp [FMap.insert, FMap.wfFrom, hk, hv]
  | cons e rest ih =>
    obtain ⟨a, w⟩ := e
    intro lo hk h
    simp only [FMap.wfFrom, Bool.and_eq_true, decide_eq_true_eq] at h
    simp only [FMap.insert]
    split
    · simp only [FMap.wfFrom, Bool.and_eq_true, decide_eq_true_eq]
      exact ⟨⟨hk, by simpa using hv⟩, ⟨⟨by omega, h.1.2⟩, h.2⟩⟩
    · split
      · rename_i h2
        subst h2
        simp only [FMap.wfFrom, Bool.and_eq_true, decide_eq_true_eq]
        exact ⟨⟨hk, by simpa using hv⟩, h.2⟩
      · simp only [FMap.wfFrom, Bool.and_eq_true, decide_eq_true_eq]
        exact ⟨h.1, ih (by omega) h.2⟩

/-- A write keeps the canonical form. -/
theorem FMap.wf_set {d : α} {m : FMap α} (k : Nat) (v : α) (h : FMap.wf d m = true) : FMap.wf d (FMap.set d m k v) = true := by
  unfold FMap.set
  split
  · exact FMap.wfFrom_erase k m h
  · rename_i hv; exact FMap.wfFrom_insert k hv m (Nat.zero_le k) h

theorem FMap.wf_filter {d : α} {m : FMap α} (p : Nat × α → Bool) (h : FMap.wf d m = true) : FMap.wf d (m.filter p) = true :=
  FMap.wfFrom_filter p m h

/-- Writes one after another keep the canonical form. -/
theorem FMap.wf_foldl_set {β : Type} {d : α} (f : β → Nat) (g : FMap α → β → α) (bs : List β) :
    ∀ {m : FMap α}, FMap.wf d m = true → FMap.wf d (bs.foldl (fun m b => FMap.set d m (f b) (g m b)) m) = true := by
  induction bs with
  | nil => intro m h; exact h
  | cons b rest ih => intro m h; exact ih (FMap.wf_set _ _ h)

end Sys2Proof.Machine
end

