-- ==== Sys2Proof/Laws/Memory.lean ====
section
/-! SUPPORT. Memory: what a write leaves everywhere, that every memory operation keeps the canonical form, and the waits of an
access that are over (R3, R220, R224, R232, R241). -/

namespace Sys2Proof.Machine

/-! ## Reads after writes -/

theorem memByte_set (m : List Host.Cell) (k : Nat) (b : Byte) (j : Nat) :
    memByte (FMap.set (0 : Byte) m k b) j = if j = k then b else memByte m j := FMap.get_set 0 m k j b

/-- What a written run of bytes reads as, anywhere. -/
theorem memByte_memWrite (bs : List Byte) :
    ∀ (m : List Host.Cell) (k j : Nat),
      memByte (memWrite m k bs) j = if k ≤ j ∧ j < k + bs.length then bs.getD (j - k) 0 else memByte m j := by
  induction bs with
  | nil => intro m k j; simp only [memWrite, List.length_nil]; split <;> [omega; rfl]
  | cons b rest ih =>
    intro m k j
    rw [memWrite, ih, memByte_set]
    by_cases h : j = k
    · subst h; simp
    · by_cases h2 : k + 1 ≤ j ∧ j < k + 1 + rest.length
      · have e : j - k = (j - (k + 1)) + 1 := by omega
        have : k ≤ j ∧ j < k + (b :: rest).length := by simp only [List.length_cons]; omega
        rw [if_pos h2, if_pos this, e, List.getD_cons_succ]
      · have : ¬(k ≤ j ∧ j < k + (b :: rest).length) := by simp only [List.length_cons]; omega
        rw [if_neg h2, if_neg h, if_neg this]

theorem length_leBytes (n : Nat) : ∀ v : Nat, (leBytes n v).length = n := by
  induction n with
  | zero => intro v; rfl
  | succ n ih => intro v; simp [leBytes, ih]

theorem getD_leBytes (n : Nat) : ∀ v i : Nat, i < n → (leBytes n v).getD i 0 = BitVec.ofNat 8 (v / 256 ^ i) := by
  induction n with
  | zero => intro v i h; omega
  | succ n ih =>
    intro v i h
    cases i with
    | zero => simp [leBytes]
    | succ i =>
      rw [leBytes, List.getD_cons_succ, ih _ _ (by omega), Nat.div_div_eq_div_mul, Nat.pow_succ, Nat.mul_comm]

/-- A number written little-endian, byte by byte (R3). -/
theorem memByte_wr (s : State) (k n v j : Nat) :
    memByte (s.wr k n v).mem j = if k ≤ j ∧ j < k + n then BitVec.ofNat 8 (v / 256 ^ (j - k)) else memByte s.mem j := by
  show memByte (memWrite s.mem k (leBytes n v)) j = _
  rw [memByte_memWrite, length_leBytes]
  split
  · rename_i h; rw [getD_leBytes n v _ (by omega)]
  · rfl

/-- A read depends on its own bytes only. -/
theorem memRead_congr {m m' : List Host.Cell} (n : Nat) :
    ∀ k : Nat, (∀ j, k ≤ j → j < k + n → memByte m j = memByte m' j) → memRead m k n = memRead m' k n := by
  induction n with
  | zero => intro k _; rfl
  | succ n ih =>
    intro k h
    rw [memRead, memRead, h k (by omega) (by omega), ih (k + 1) fun j h1 h2 => h j (by omega) (by omega)]

/-! ## The canonical form -/

theorem wf_memWrite (bs : List Byte) :
    ∀ {m : List Host.Cell} (k : Nat), Memory.wf m = true → Memory.wf (memWrite m k bs) = true := by
  induction bs with
  | nil => intro m k h; exact h
  | cons b rest ih => intro m k h; exact ih _ (FMap.wf_set _ _ h)

theorem wf_memScatter (bs : List (Nat × Byte)) :
    ∀ {m : List Host.Cell}, Memory.wf m = true → Memory.wf (memScatter m bs) = true := by
  induction bs with
  | nil => intro m h; exact h
  | cons b rest ih => intro m h; exact ih (FMap.wf_set _ _ h)

/-- The memory of reset lists nothing. -/
theorem reset_wf : Memory.wf State.reset.mem = true := rfl

theorem State.Wf.wrBytes {s : State} (h : s.Wf) (k : Nat) (bs : List Byte) : (s.wrBytes k bs).Wf := ⟨wf_memWrite bs k h.1, h.2⟩
theorem State.Wf.wr {s : State} (h : s.Wf) (k n v : Nat) : (s.wr k n v).Wf := h.wrBytes k _
theorem State.Wf.wr8 {s : State} (h : s.Wf) (k : Nat) (v : Word) : (s.wr8 k v).Wf := h.wr k 8 _
theorem State.Wf.scatter {s : State} (h : s.Wf) (bs : List (Nat × Byte)) : (s.scatter bs).Wf := ⟨wf_memScatter bs h.1, h.2⟩
theorem State.Wf.zeroRange {s : State} (h : s.Wf) (k n : Nat) : (s.zeroRange k n).Wf := ⟨FMap.wf_filter _ h.1, FMap.wf_filter _ h.2⟩
theorem State.Wf.writeW {s : State} (h : s.Wf) (k : Nat) (bs : List WByte) : (s.writeW k bs).Wf :=
  ⟨FMap.wf_foldl_set (fun b : WByte => k + b.1) (fun m b => keptBits (memByte m (k + b.1)) b.2.1 b.2.2) bs h.1, h.2⟩
theorem State.Wf.copyRange {s : State} (h : s.Wf) (a b n : Nat) : (s.copyRange a b n).Wf :=
  ⟨FMap.wf_foldl_set (fun c : Host.Cell => c.1 - a + b) (fun _ c => c.2) _ (h.zeroRange b n).1,
   FMap.wf_foldl_set (fun c : Nat × Bool => c.1 - a + b) (fun _ c => c.2) _ (h.zeroRange b n).2⟩
/-- A change of a full/empty state keeps the form. -/
theorem State.Wf.setFe {s : State} (h : s.Wf) (k : Nat) (b : Bool) : ({ s with fe := FMap.set false s.fe k b } : State).Wf :=
  ⟨h.1, FMap.wf_set _ _ h.2⟩

/-- A fold of steps that keep the canonical form keeps it. -/
theorem State.Wf.foldl {α : Type} {f : State → α → State} (hf : ∀ s a, s.Wf → (f s a).Wf) :
    ∀ (l : List α) {s : State}, s.Wf → (l.foldl f s).Wf
  | [], _, h => h
  | a :: l, _, h => State.Wf.foldl hf l (hf _ a h)

theorem State.Wf.invalidateOthers {s : State} (h : s.Wf) (die line : Nat) : (s.invalidateOthers die line).Wf := h

/-- The drain's write keeps the form. -/
theorem State.Wf.drainWrite {s : State} (h : s.Wf) (d : DrainTask) (ks : List (Nat × Byte × Byte)) : (s.drainWrite d ks).Wf :=
  State.Wf.foldl (fun _ _ h => h.invalidateOthers _ _) _
    ⟨FMap.wf_foldl_set (fun b : Nat × Byte × Byte => b.1) (fun m b => keptBits (memByte m b.1) b.2.1 b.2.2) ks h.1, h.2⟩

/-- Bytes read under another key are written as they then are (R365). -/
theorem State.Wf.rekey {s : State} (h : s.Wf) (old new : BitVec 512) (pa n : Nat) : (s.rekey old new pa n).Wf :=
  State.Wf.foldl (fun _ _ h => h.wr _ _ _) _ h
/-! ## Waits that are over -/

theorem memWait_of_mayGo {t : State} {w : BitVec 2} {a : Word} {k : Act} (h : t.mayGo w a = true) : memWait t w a k = k := by
  simp only [State.mayGo, Bool.and_eq_true, Bool.not_eq_true'] at h
  simp [memWait, h.1, h.2]

theorem localWait_of_bytesFree {t : State} {k n : Nat} {a : Act} (h : t.bytesFree k n = true) : localWait t k n a = a := by
  simp only [State.bytesFree, Bool.and_eq_true, Bool.not_eq_true', decide_eq_true_eq] at h
  simp [localWait, noted, h.1.1, h.1.2, h.2]

/-- Checks that raise nothing, one by one. -/
theorem firstTrap_none {cs : List Check} (h : firstTrap cs = none) : ∀ c ∈ cs, c = none := by
  induction cs with
  | nil => simp
  | cons c cs ih =>
    cases c with
    | none => simp only [firstTrap] at h; simpa using ih h
    | some x => simp [firstTrap] at h

theorem Check.orElse_none (k : Act) : Check.orElse none k = k := rfl

end Sys2Proof.Machine
end

