-- ==== Sys2Proof/Laws/PerInstr.lean ====
section
/-! SUPPORT. One lemma per instruction: the fields of its code have the widths of the head and of the tail that TL gives (R36, R45,
R47). An event has no code. -/

namespace Sys2Proof

/-- A code's fields have their widths: MAJ, TL and D of the head (R45), and a tail of TL halfwords (R36). -/
def Code.Fits (c : Code) : Prop := c.maj < 2 ^ 8 ∧ c.tl < 4 ∧ c.d < 2 ^ 6 ∧ c.tail < 2 ^ (16 * c.tl)

end Sys2Proof

namespace Sys2Proof.Laws.Enc

/-- What an instruction's code is: of the widths of its head and tail. -/
def Statement (i : Instr) : Prop := ∀ c, i.code = some c → c.Fits

theorem of_none {i : Instr} (h : i.code = none) : Statement i := fun c hc => by rw [h] at hc; cases hc
theorem of_some {i : Instr} {c : Code} (h : i.code = some c) (hf : c.Fits) : Statement i := fun d hd => by
  rw [h] at hd; cases hd; exact hf

theorem fits_cRR3 {maj : Nat} (hm : maj < 2 ^ 8) (d a b : Reg) : (cRR3 maj d a b).Fits := by
  have := d.isLt; have := a.isLt; have := b.isLt
  simp only [Code.Fits, cRR3, tRR]; omega
theorem fits_cRR {maj m : Nat} (hm : maj < 2 ^ 8) (d a : Reg) (h : m < 2 ^ 4) : (cRR maj d a m).Fits := by
  have := d.isLt; have := a.isLt
  simp only [Code.Fits, cRR, tRR]; omega
theorem fits_cRI {maj m imm : Nat} (hm : maj < 2 ^ 8) (d a : Reg) (h : m < 2 ^ 4) (hi : imm < 2 ^ 22) : (cRI maj d a m imm).Fits := by
  have := d.isLt; have := a.isLt
  simp only [Code.Fits, cRI, tRI]; omega
theorem fits_cRRR {maj x m : Nat} (hm : maj < 2 ^ 8) (d a b c : Reg) (h : x < 2 ^ 4) (hi : m < 2 ^ 10) : (cRRR maj d a b c x m).Fits := by
  have := d.isLt; have := a.isLt; have := b.isLt; have := c.isLt
  simp only [Code.Fits, cRRR, tRRR]; omega
theorem vTy_code_lt (x : VTy) : x.code < 16 := by cases x <;> decide
theorem rnd_code_lt (x : Rnd) : x.code < 8 := by cases x <;> decide
theorem scope_code_lt (x : Scope) : x.code < 8 := by cases x <;> decide
theorem size_code_lt (x : Size) : x.code < 4 := by cases x <;> decide
theorem cp_code_lt (x : Cp) : x.code < 4 := by cases x <;> decide
theorem amoOp_code_lt (x : AmoOp) : x.code < 16 := by cases x <;> decide
theorem mOrd_code_lt (x : MOrd) : x.code < 4 := by cases x <;> decide
theorem elemKind_code_lt (x : ElemKind) : x.code < 4 := by cases x <;> decide
theorem nFmt_code_lt (x : NFmt) : x.code < 8 := by cases x <;> decide
theorem oFmt_code_lt (x : OFmt) : x.code < 16 := by cases x <;> decide
theorem cond_code_lt (x : Cond) : x.code < 8 := by cases x <;> decide
theorem idSel_code_lt (x : IdSel) : x.code < 16 := by cases x <;> decide
theorem geomSel_code_lt (x : GeomSel) : x.code < 8 := by cases x <;> decide
theorem domSel_code_lt (x : DomSel) : x.code < 4 := by cases x <;> decide
theorem allowSel_code_lt (x : AllowSel) : x.code < 4 := by cases x <;> decide
theorem cpySel_code_lt (x : CpySel) : x.code < 2 := by cases x <;> decide
theorem msgSel_code_lt (x : MsgSel) : x.code < 2 := by cases x <;> decide
theorem bit_lt (b : Bool) : bit b < 2 := by cases b <;> decide
theorem fits_cM {maj : Nat} (hm : maj < 2 ^ 8) (d a b : Reg) (w : BitVec 2) (sz : Size) (cp : Cp) (off : BitVec 14) :
    (cM maj d a b w sz cp off).Fits := by
  have := d.isLt; have := a.isLt; have := b.isLt; have := w.isLt; have := size_code_lt sz; have := cp_code_lt cp; have := off.isLt
  simp only [Code.Fits, cM, tM]; omega
theorem fits_cV {maj d va vb vc m ty mn : Nat} (hm : maj < 2 ^ 8) (hd : d < 2 ^ 6) (ha : va < 2 ^ 5) (hb : vb < 2 ^ 5) (hc : vc < 2 ^ 5)
    (hk : m < 2 ^ 3) (ht : ty < 2 ^ 4) (hn : mn < 2 ^ 10) : (cV maj d va vb vc m ty mn).Fits := by
  simp only [Code.Fits, cV, tV]; omega
theorem fits_cV3 {maj mn : Nat} (hm : maj < 2 ^ 8) (d a b c : VReg) (m : MReg) (ty : VTy) (hn : mn < 2 ^ 10) :
    (cV3 maj d a b c m ty mn).Fits :=
  fits_cV hm (by have := d.isLt; omega) a.isLt b.isLt c.isLt m.isLt (vTy_code_lt ty) hn
theorem fits_cB {maj : Nat} (hm : maj < 2 ^ 8) (d a b : Reg) (off : BitVec 15) (idx : BitVec 5) : (cB maj d a b off idx).Fits := by
  have := d.isLt; have := a.isLt; have := b.isLt; have := off.isLt; have := idx.isLt
  simp only [Code.Fits, cB, tB]; omega
theorem fits_cBL {maj : Nat} (hm : maj < 2 ^ 8) (d a : Reg) (off : BitVec 37) (idx : BitVec 5) : (cBL maj d a off idx).Fits := by
  have := d.isLt; have := a.isLt; have := off.isLt; have := idx.isLt
  simp only [Code.Fits, cBL, tBL]; omega
theorem fits_c0 {maj d : Nat} (hm : maj < 2 ^ 8) (hd : d < 2 ^ 6) : (c0 maj d).Fits := by
  simp only [Code.Fits, c0]; omega

theorem nop : Statement (.nop) := of_some rfl (fits_c0 (by decide) (by decide))
theorem add (d : Reg) (a : Reg) (b : Reg) : Statement (.add d a b) := of_some rfl (fits_cRR3 (by decide) d a b)
theorem sub (d : Reg) (a : Reg) (b : Reg) : Statement (.sub d a b) := of_some rfl (fits_cRR3 (by decide) d a b)
theorem addw (d : Reg) (a : Reg) (b : Reg) : Statement (.addw d a b) := of_some rfl (fits_cRR3 (by decide) d a b)
theorem subw (d : Reg) (a : Reg) (b : Reg) : Statement (.subw d a b) := of_some rfl (fits_cRR3 (by decide) d a b)
theorem mul (d : Reg) (a : Reg) (b : Reg) : Statement (.mul d a b) := of_some rfl (fits_cRR3 (by decide) d a b)
theorem mulh (d : Reg) (a : Reg) (b : Reg) : Statement (.mulh d a b) := of_some rfl (fits_cRR3 (by decide) d a b)
theorem mulhu (d : Reg) (a : Reg) (b : Reg) : Statement (.mulhu d a b) := of_some rfl (fits_cRR3 (by decide) d a b)
theorem mulw (d : Reg) (a : Reg) (b : Reg) : Statement (.mulw d a b) := of_some rfl (fits_cRR3 (by decide) d a b)
theorem div (d : Reg) (a : Reg) (b : Reg) : Statement (.div d a b) := of_some rfl (fits_cRR3 (by decide) d a b)
theorem divu (d : Reg) (a : Reg) (b : Reg) : Statement (.divu d a b) := of_some rfl (fits_cRR3 (by decide) d a b)
theorem rem (d : Reg) (a : Reg) (b : Reg) : Statement (.rem d a b) := of_some rfl (fits_cRR3 (by decide) d a b)
theorem remu (d : Reg) (a : Reg) (b : Reg) : Statement (.remu d a b) := of_some rfl (fits_cRR3 (by decide) d a b)
theorem and_ (d : Reg) (a : Reg) (b : Reg) : Statement (.and_ d a b) := of_some rfl (fits_cRR3 (by decide) d a b)
theorem or_ (d : Reg) (a : Reg) (b : Reg) : Statement (.or_ d a b) := of_some rfl (fits_cRR3 (by decide) d a b)
theorem xor (d : Reg) (a : Reg) (b : Reg) : Statement (.xor d a b) := of_some rfl (fits_cRR3 (by decide) d a b)
theorem andn (d : Reg) (a : Reg) (b : Reg) : Statement (.andn d a b) := of_some rfl (fits_cRR3 (by decide) d a b)
theorem orn (d : Reg) (a : Reg) (b : Reg) : Statement (.orn d a b) := of_some rfl (fits_cRR3 (by decide) d a b)
theorem shl (d : Reg) (a : Reg) (b : Reg) : Statement (.shl d a b) := of_some rfl (fits_cRR3 (by decide) d a b)
theorem shr (d : Reg) (a : Reg) (b : Reg) : Statement (.shr d a b) := of_some rfl (fits_cRR3 (by decide) d a b)
theorem sra (d : Reg) (a : Reg) (b : Reg) : Statement (.sra d a b) := of_some rfl (fits_cRR3 (by decide) d a b)
theorem rotl (d : Reg) (a : Reg) (b : Reg) : Statement (.rotl d a b) := of_some rfl (fits_cRR3 (by decide) d a b)
theorem rotr (d : Reg) (a : Reg) (b : Reg) : Statement (.rotr d a b) := of_some rfl (fits_cRR3 (by decide) d a b)
theorem clz (d : Reg) (a : Reg) : Statement (.clz d a) := of_some rfl (fits_cRR (by decide) d a (by decide))
theorem ctz (d : Reg) (a : Reg) : Statement (.ctz d a) := of_some rfl (fits_cRR (by decide) d a (by decide))
theorem popc (d : Reg) (a : Reg) : Statement (.popc d a) := of_some rfl (fits_cRR (by decide) d a (by decide))
theorem brev (d : Reg) (a : Reg) : Statement (.brev d a) := of_some rfl (fits_cRR (by decide) d a (by decide))
theorem bswap (d : Reg) (a : Reg) : Statement (.bswap d a) := of_some rfl (fits_cRR (by decide) d a (by decide))
theorem min (d : Reg) (a : Reg) (b : Reg) : Statement (.min d a b) := of_some rfl (fits_cRR3 (by decide) d a b)
theorem max (d : Reg) (a : Reg) (b : Reg) : Statement (.max d a b) := of_some rfl (fits_cRR3 (by decide) d a b)
theorem minu (d : Reg) (a : Reg) (b : Reg) : Statement (.minu d a b) := of_some rfl (fits_cRR3 (by decide) d a b)
theorem maxu (d : Reg) (a : Reg) (b : Reg) : Statement (.maxu d a b) := of_some rfl (fits_cRR3 (by decide) d a b)
theorem seq (d : Reg) (a : Reg) (b : Reg) : Statement (.seq d a b) := of_some rfl (fits_cRR3 (by decide) d a b)
theorem sne (d : Reg) (a : Reg) (b : Reg) : Statement (.sne d a b) := of_some rfl (fits_cRR3 (by decide) d a b)
theorem slt (d : Reg) (a : Reg) (b : Reg) : Statement (.slt d a b) := of_some rfl (fits_cRR3 (by decide) d a b)
theorem sltu (d : Reg) (a : Reg) (b : Reg) : Statement (.sltu d a b) := of_some rfl (fits_cRR3 (by decide) d a b)
theorem addi (d : Reg) (a : Reg) (imm : BitVec 22) : Statement (.addi d a imm) :=
  of_some rfl (fits_cRI (by decide) d a (by decide) (by have := imm.isLt; omega))
theorem andi (d : Reg) (a : Reg) (imm : BitVec 22) : Statement (.andi d a imm) :=
  of_some rfl (fits_cRI (by decide) d a (by decide) (by have := imm.isLt; omega))
theorem ori (d : Reg) (a : Reg) (imm : BitVec 22) : Statement (.ori d a imm) :=
  of_some rfl (fits_cRI (by decide) d a (by decide) (by have := imm.isLt; omega))
theorem xori (d : Reg) (a : Reg) (imm : BitVec 22) : Statement (.xori d a imm) :=
  of_some rfl (fits_cRI (by decide) d a (by decide) (by have := imm.isLt; omega))
theorem slti (d : Reg) (a : Reg) (imm : BitVec 22) : Statement (.slti d a imm) :=
  of_some rfl (fits_cRI (by decide) d a (by decide) (by have := imm.isLt; omega))
theorem shli (d : Reg) (a : Reg) (imm : BitVec 22) : Statement (.shli d a imm) :=
  of_some rfl (fits_cRI (by decide) d a (by decide) (by have := imm.isLt; omega))
theorem shri (d : Reg) (a : Reg) (imm : BitVec 22) : Statement (.shri d a imm) :=
  of_some rfl (fits_cRI (by decide) d a (by decide) (by have := imm.isLt; omega))
theorem srai (d : Reg) (a : Reg) (imm : BitVec 22) : Statement (.srai d a imm) :=
  of_some rfl (fits_cRI (by decide) d a (by decide) (by have := imm.isLt; omega))
theorem sel (d : Reg) (a : Reg) (b : Reg) (c : Reg) : Statement (.sel d a b c) :=
  of_some rfl (fits_cRRR (by decide) d a b c (by decide) (by decide))
theorem ext (d : Reg) (a : Reg) (pos : BitVec 6) (len : BitVec 7) : Statement (.ext d a pos len) :=
  of_some rfl (fits_cRI (by decide) d a (by decide) (by have := len.isLt; have := pos.isLt; omega))
theorem exts (d : Reg) (a : Reg) (pos : BitVec 6) (len : BitVec 7) : Statement (.exts d a pos len) :=
  of_some rfl (fits_cRI (by decide) d a (by decide) (by have := len.isLt; have := pos.isLt; omega))
theorem ins (d : Reg) (a : Reg) (pos : BitVec 6) (len : BitVec 7) : Statement (.ins d a pos len) :=
  of_some rfl (fits_cRI (by decide) d a (by decide) (by have := len.isLt; have := pos.isLt; omega))
theorem li (d : Reg) (imm : BitVec 48) : Statement (.li d imm) :=
  of_some rfl (by have := d.isLt; have := imm.isLt; simp only [Code.Fits]; omega)
theorem lih (d : Reg) (a : Reg) (imm : BitVec 16) : Statement (.lih d a imm) :=
  of_some rfl (by have := d.isLt; have := a.isLt; have := imm.isLt; simp only [Code.Fits, tL]; omega)
theorem mov (d : Reg) (a : Reg) : Statement (.mov d a) := of_some rfl (fits_cRR (by decide) d a (by decide))
theorem addpc (d : Reg) (imm : BitVec 22) : Statement (.addpc d imm) :=
  of_some rfl (fits_cRI (by decide) d 0 (by decide) (by have := imm.isLt; omega))
theorem br (off : BitVec 15) (idx : BitVec 5) : Statement (.br off idx) := of_some rfl (fits_cB (by decide) 0 0 0 off idx)
theorem brLong (off : BitVec 37) (idx : BitVec 5) : Statement (.brLong off idx) := of_some rfl (fits_cBL (by decide) 0 0 off idx)
theorem beq (a : Reg) (b : Reg) (off : BitVec 15) (idx : BitVec 5) : Statement (.beq a b off idx) :=
  of_some rfl (fits_cB (by decide) 0 a b off idx)
theorem bne (a : Reg) (b : Reg) (off : BitVec 15) (idx : BitVec 5) : Statement (.bne a b off idx) :=
  of_some rfl (fits_cB (by decide) 0 a b off idx)
theorem blt (a : Reg) (b : Reg) (off : BitVec 15) (idx : BitVec 5) : Statement (.blt a b off idx) :=
  of_some rfl (fits_cB (by decide) 0 a b off idx)
theorem bge (a : Reg) (b : Reg) (off : BitVec 15) (idx : BitVec 5) : Statement (.bge a b off idx) :=
  of_some rfl (fits_cB (by decide) 0 a b off idx)
theorem bltu (a : Reg) (b : Reg) (off : BitVec 15) (idx : BitVec 5) : Statement (.bltu a b off idx) :=
  of_some rfl (fits_cB (by decide) 0 a b off idx)
theorem bgeu (a : Reg) (b : Reg) (off : BitVec 15) (idx : BitVec 5) : Statement (.bgeu a b off idx) :=
  of_some rfl (fits_cB (by decide) 0 a b off idx)
theorem bz (a : Reg) (off : BitVec 15) (idx : BitVec 5) : Statement (.bz a off idx) := of_some rfl (fits_cB (by decide) 0 a 0 off idx)
theorem bzLong (a : Reg) (off : BitVec 37) (idx : BitVec 5) : Statement (.bzLong a off idx) :=
  of_some rfl (fits_cBL (by decide) 0 a off idx)
theorem bnz (a : Reg) (off : BitVec 15) (idx : BitVec 5) : Statement (.bnz a off idx) := of_some rfl (fits_cB (by decide) 0 a 0 off idx)
theorem bnzLong (a : Reg) (off : BitVec 37) (idx : BitVec 5) : Statement (.bnzLong a off idx) :=
  of_some rfl (fits_cBL (by decide) 0 a off idx)
theorem call (d : Reg) (off : BitVec 15) (idx : BitVec 5) : Statement (.call d off idx) :=
  of_some rfl (fits_cB (by decide) d 0 0 off idx)
theorem callLong (d : Reg) (off : BitVec 37) (idx : BitVec 5) : Statement (.callLong d off idx) :=
  of_some rfl (fits_cBL (by decide) d 0 off idx)
theorem callr (d : Reg) (a : Reg) : Statement (.callr d a) := of_some rfl (fits_cRR (by decide) d a (by decide))
theorem ret (d : Reg) : Statement (.ret d) := of_some rfl (fits_c0 (by decide) (by have := d.isLt; omega))
theorem jr (d : Reg) : Statement (.jr d) := of_some rfl (fits_c0 (by decide) (by have := d.isLt; omega))
theorem loop (d : Reg) (off : BitVec 15) (idx : BitVec 5) : Statement (.loop d off idx) :=
  of_some rfl (fits_cB (by decide) d 0 0 off idx)
theorem loopLong (d : Reg) (off : BitVec 37) (idx : BitVec 5) : Statement (.loopLong d off idx) :=
  of_some rfl (fits_cBL (by decide) d 0 off idx)
theorem yield : Statement (.yield) := of_some rfl (fits_c0 (by decide) (by decide))
theorem tend : Statement (.tend) := of_some rfl (fits_c0 (by decide) (by decide))
theorem trap (d : BitVec 6) : Statement (.trap d) := of_some rfl (fits_c0 (by decide) (by have := d.isLt; omega))
theorem eret : Statement (.eret) := of_some rfl (fits_c0 (by decide) (by decide))
theorem rdsr (d : Reg) (sr : BitVec 12) : Statement (.rdsr d sr) :=
  of_some rfl (fits_cRI (by decide) d 0 (by decide) (by have := sr.isLt; omega))
theorem wrsr (sr : BitVec 12) (a : Reg) : Statement (.wrsr sr a) :=
  of_some rfl (fits_cRI (by decide) 0 a (by decide) (by have := sr.isLt; omega))
theorem swsr (d : Reg) (sr : BitVec 12) (a : Reg) : Statement (.swsr d sr a) :=
  of_some rfl (fits_cRI (by decide) d a (by decide) (by have := sr.isLt; omega))
theorem getid (s : IdSel) (d : Reg) : Statement (.getid s d) :=
  of_some rfl (fits_cRI (by decide) d 0 (by have := idSel_code_lt s; omega) (by decide))
theorem wid (d : Reg) (n : BitVec 22) : Statement (.wid d n) :=
  of_some rfl (fits_cRI (by decide) d 0 (by decide) (by have := n.isLt; omega))
theorem timeLoc (d : Reg) : Statement (.timeLoc d) := of_some rfl (fits_cRI (by decide) d 0 (by decide) (by decide))
theorem timeGlob (d : Reg) : Statement (.timeGlob d) := of_some rfl (fits_cRI (by decide) d 0 (by decide) (by decide))
theorem waitaddr (d : Reg) (a : Reg) (b : Reg) (off : BitVec 14) (w : BitVec 2) : Statement (.waitaddr d a b off w) :=
  of_some rfl (fits_cM (by decide) d a b w .w .n off)
theorem wake (a : Reg) : Statement (.wake a) := of_some rfl (fits_cRR (by decide) 0 a (by decide))
theorem spill (d : Reg) (a : Reg) (b : Reg) : Statement (.spill d a b) := of_some rfl (fits_cRR3 (by decide) d a b)
theorem restor (d : Reg) (a : Reg) (b : Reg) : Statement (.restor d a b) := of_some rfl (fits_cRR3 (by decide) d a b)
theorem brk (d : BitVec 6) : Statement (.brk d) := of_some rfl (fits_c0 (by decide) (by have := d.isLt; omega))
theorem baste : Statement (.baste) := of_some rfl (fits_c0 (by decide) (by decide))
theorem salloc (d : Reg) (a : Reg) (imm : BitVec 22) : Statement (.salloc d a imm) :=
  of_some rfl (fits_cRI (by decide) d a (by decide) (by have := imm.isLt; omega))
theorem sfree (a : Reg) : Statement (.sfree a) := of_some rfl (fits_cRR (by decide) 0 a (by decide))
theorem qmap (q : BitVec 2) (w : BitVec 3) (r : BitVec 3) : Statement (.qmap q w r) :=
  of_some rfl (by have := q.isLt; have := r.isLt; have := w.isLt; simp only [Code.Fits, tRI]; omega)
theorem qclear (q : BitVec 2) : Statement (.qclear q) := of_some rfl (fits_c0 (by decide) (by have := q.isLt; omega))
theorem qlen (d : Reg) (n : BitVec 22) : Statement (.qlen d n) :=
  of_some rfl (fits_cRI (by decide) d 0 (by decide) (by have := n.isLt; omega))
theorem vadd (d : VReg) (a : VReg) (b : VReg) (m : MReg) (r : Rnd) : Statement (.vadd d a b m r) :=
  of_some rfl (fits_cV3 (by decide) d a b 0 m .f32 (by have := rnd_code_lt r; omega))
theorem vsub (d : VReg) (a : VReg) (b : VReg) (m : MReg) (r : Rnd) : Statement (.vsub d a b m r) :=
  of_some rfl (fits_cV3 (by decide) d a b 0 m .f32 (by have := rnd_code_lt r; omega))
theorem vmul (d : VReg) (a : VReg) (b : VReg) (m : MReg) (r : Rnd) : Statement (.vmul d a b m r) :=
  of_some rfl (fits_cV3 (by decide) d a b 0 m .f32 (by have := rnd_code_lt r; omega))
theorem vdiv (d : VReg) (a : VReg) (b : VReg) (m : MReg) (r : Rnd) : Statement (.vdiv d a b m r) :=
  of_some rfl (fits_cV3 (by decide) d a b 0 m .f32 (by have := rnd_code_lt r; omega))
theorem vfma (d : VReg) (a : VReg) (b : VReg) (c : VReg) (m : MReg) (r : Rnd) : Statement (.vfma d a b c m r) :=
  of_some rfl (fits_cV3 (by decide) d a b c m .f32 (by have := rnd_code_lt r; omega))
theorem vfms (d : VReg) (a : VReg) (b : VReg) (c : VReg) (m : MReg) (r : Rnd) : Statement (.vfms d a b c m r) :=
  of_some rfl (fits_cV3 (by decide) d a b c m .f32 (by have := rnd_code_lt r; omega))
theorem vfnma (d : VReg) (a : VReg) (b : VReg) (c : VReg) (m : MReg) (r : Rnd) : Statement (.vfnma d a b c m r) :=
  of_some rfl (fits_cV3 (by decide) d a b c m .f32 (by have := rnd_code_lt r; omega))
theorem vmin (d : VReg) (a : VReg) (b : VReg) (m : MReg) (ty : VTy) : Statement (.vmin d a b m ty) :=
  of_some rfl (fits_cV3 (by decide) d a b 0 m ty (by decide))
theorem vmax (d : VReg) (a : VReg) (b : VReg) (m : MReg) (ty : VTy) : Statement (.vmax d a b m ty) :=
  of_some rfl (fits_cV3 (by decide) d a b 0 m ty (by decide))
theorem vabs (d : VReg) (a : VReg) (m : MReg) (ty : VTy) : Statement (.vabs d a m ty) :=
  of_some rfl (fits_cV3 (by decide) d a 0 0 m ty (by decide))
theorem vneg (d : VReg) (a : VReg) (m : MReg) (ty : VTy) : Statement (.vneg d a m ty) :=
  of_some rfl (fits_cV3 (by decide) d a 0 0 m ty (by decide))
theorem vrcp (d : VReg) (a : VReg) (m : MReg) : Statement (.vrcp d a m) := of_some rfl (fits_cV3 (by decide) d a 0 0 m .f32 (by decide))
theorem vrsq (d : VReg) (a : VReg) (m : MReg) : Statement (.vrsq d a m) := of_some rfl (fits_cV3 (by decide) d a 0 0 m .f32 (by decide))
theorem vexp2 (d : VReg) (a : VReg) (m : MReg) : Statement (.vexp2 d a m) :=
  of_some rfl (fits_cV3 (by decide) d a 0 0 m .f32 (by decide))
theorem vlog2 (d : VReg) (a : VReg) (m : MReg) : Statement (.vlog2 d a m) :=
  of_some rfl (fits_cV3 (by decide) d a 0 0 m .f32 (by decide))
theorem vsqrt (d : VReg) (a : VReg) (m : MReg) : Statement (.vsqrt d a m) :=
  of_some rfl (fits_cV3 (by decide) d a 0 0 m .f32 (by decide))
theorem vtanh (d : VReg) (a : VReg) (m : MReg) : Statement (.vtanh d a m) :=
  of_some rfl (fits_cV3 (by decide) d a 0 0 m .f32 (by decide))
theorem vcvt (d : VReg) (a : VReg) (m : MReg) (fmt : NFmt) (fr : Bool) (r : Rnd) : Statement (.vcvt d a m fmt fr r) :=
  of_some rfl (fits_cV3 (by decide) d a 0 0 m .f32 (by have := nFmt_code_lt fmt; have := rnd_code_lt r; have := bit_lt fr; omega))
theorem vquant (d : VReg) (a : VReg) (b : VReg) (m : MReg) (fmt : NFmt) (r : Rnd) : Statement (.vquant d a b m fmt r) :=
  of_some rfl (fits_cV3 (by decide) d a b 0 m .f32 (by have := nFmt_code_lt fmt; have := rnd_code_lt r; omega))
theorem vscale (d : VReg) (a : VReg) (b : VReg) (m : MReg) (ty : VTy) (r : Rnd) : Statement (.vscale d a b m ty r) :=
  of_some rfl (fits_cV3 (by decide) d a b 0 m ty (by have := rnd_code_lt r; omega))
theorem vcmp (d : MReg) (a : VReg) (b : VReg) (m : MReg) (ty : VTy) (c : Cond) : Statement (.vcmp d a b m ty c) :=
  of_some rfl (fits_cV (by decide) (by have := d.isLt; omega) (by have := a.isLt; omega) (by have := b.isLt; omega) (by decide) (by have := m.isLt; omega) (by have := vTy_code_lt ty; omega) (by have := cond_code_lt c; omega))
theorem vsel (d : VReg) (a : VReg) (b : VReg) (m : MReg) (ty : VTy) : Statement (.vsel d a b m ty) :=
  of_some rfl (fits_cV3 (by decide) d a b 0 m ty (by decide))
theorem viadd (d : VReg) (a : VReg) (b : VReg) (m : MReg) (ty : VTy) (sat : Bool) : Statement (.viadd d a b m ty sat) :=
  of_some rfl (fits_cV3 (by decide) d a b 0 m ty (by have := bit_lt sat; omega))
theorem visub (d : VReg) (a : VReg) (b : VReg) (m : MReg) (ty : VTy) (sat : Bool) : Statement (.visub d a b m ty sat) :=
  of_some rfl (fits_cV3 (by decide) d a b 0 m ty (by have := bit_lt sat; omega))
theorem vimul (d : VReg) (a : VReg) (b : VReg) (m : MReg) (ty : VTy) (sat : Bool) (hi : Bool) : Statement (.vimul d a b m ty sat hi) :=
  of_some rfl (fits_cV3 (by decide) d a b 0 m ty (by have := bit_lt sat; have := bit_lt hi; omega))
theorem vimad (d : VReg) (a : VReg) (b : VReg) (c : VReg) (m : MReg) (ty : VTy) (sat : Bool) : Statement (.vimad d a b c m ty sat) :=
  of_some rfl (fits_cV3 (by decide) d a b c m ty (by have := bit_lt sat; omega))
theorem vand (d : VReg) (a : VReg) (b : VReg) (m : MReg) (ty : VTy) : Statement (.vand d a b m ty) :=
  of_some rfl (fits_cV3 (by decide) d a b 0 m ty (by decide))
theorem vor (d : VReg) (a : VReg) (b : VReg) (m : MReg) (ty : VTy) : Statement (.vor d a b m ty) :=
  of_some rfl (fits_cV3 (by decide) d a b 0 m ty (by decide))
theorem vxor (d : VReg) (a : VReg) (b : VReg) (m : MReg) (ty : VTy) : Statement (.vxor d a b m ty) :=
  of_some rfl (fits_cV3 (by decide) d a b 0 m ty (by decide))
theorem vshl (d : VReg) (a : VReg) (b : VReg) (m : MReg) (ty : VTy) : Statement (.vshl d a b m ty) :=
  of_some rfl (fits_cV3 (by decide) d a b 0 m ty (by decide))
theorem vshr (d : VReg) (a : VReg) (b : VReg) (m : MReg) (ty : VTy) : Statement (.vshr d a b m ty) :=
  of_some rfl (fits_cV3 (by decide) d a b 0 m ty (by decide))
theorem vsra (d : VReg) (a : VReg) (b : VReg) (m : MReg) (ty : VTy) : Statement (.vsra d a b m ty) :=
  of_some rfl (fits_cV3 (by decide) d a b 0 m ty (by decide))
theorem vredadd (d : VReg) (a : VReg) (m : MReg) (ty : VTy) (r : Rnd) : Statement (.vredadd d a m ty r) :=
  of_some rfl (fits_cV3 (by decide) d a 0 0 m ty (by have := rnd_code_lt r; omega))
theorem vredmax (d : VReg) (a : VReg) (m : MReg) (ty : VTy) : Statement (.vredmax d a m ty) :=
  of_some rfl (fits_cV3 (by decide) d a 0 0 m ty (by decide))
theorem vredmin (d : VReg) (a : VReg) (m : MReg) (ty : VTy) : Statement (.vredmin d a m ty) :=
  of_some rfl (fits_cV3 (by decide) d a 0 0 m ty (by decide))
theorem vscanadd (d : VReg) (a : VReg) (m : MReg) (ty : VTy) (r : Rnd) : Statement (.vscanadd d a m ty r) :=
  of_some rfl (fits_cV3 (by decide) d a 0 0 m ty (by have := rnd_code_lt r; omega))
theorem vperm (d : VReg) (a : VReg) (b : VReg) (m : MReg) (ty : VTy) : Statement (.vperm d a b m ty) :=
  of_some rfl (fits_cV3 (by decide) d a b 0 m ty (by decide))
theorem vbcast (d : VReg) (a : VReg) (m : MReg) (ty : VTy) (j : BitVec 6) : Statement (.vbcast d a m ty j) :=
  of_some rfl (fits_cV3 (by decide) d a 0 0 m ty (by have := j.isLt; omega))
theorem vsplat (d : VReg) (a : Reg) (m : MReg) (ty : VTy) : Statement (.vsplat d a m ty) :=
  of_some rfl (by have := d.isLt; have := a.isLt; have := m.isLt; have := vTy_code_lt ty; simp only [Code.Fits, tRR]; omega)
theorem viota (d : VReg) (m : MReg) (ty : VTy) : Statement (.viota d m ty) :=
  of_some rfl (fits_cV3 (by decide) d 0 0 0 m ty (by decide))
theorem vmov (d : VReg) (a : VReg) (m : MReg) (ty : VTy) : Statement (.vmov d a m ty) :=
  of_some rfl (fits_cV3 (by decide) d a 0 0 m ty (by decide))
theorem vextr (d : Reg) (v : VReg) (b : Reg) (wide : Bool) : Statement (.vextr d v b wide) :=
  of_some rfl (by have := d.isLt; have := v.isLt; have := b.isLt; have := bit_lt wide; simp only [Code.Fits, tRR]; omega)
theorem vinsr (v : VReg) (a : Reg) (b : Reg) (wide : Bool) : Statement (.vinsr v a b wide) :=
  of_some rfl (by have := v.isLt; have := a.isLt; have := b.isLt; have := bit_lt wide; simp only [Code.Fits, tRR]; omega)
theorem vld (v : VReg) (a : Reg) (off : BitVec 14) (m : MReg) (w : BitVec 2) (cp : Cp) : Statement (.vld v a off m w cp) :=
  of_some rfl (by have := v.isLt; have := a.isLt; have := m.isLt; have := w.isLt; have := off.isLt; have := cp_code_lt cp; simp only [Code.Fits, tM]; omega)
theorem vst (v : VReg) (a : Reg) (off : BitVec 14) (m : MReg) (w : BitVec 2) (cp : Cp) : Statement (.vst v a off m w cp) :=
  of_some rfl (by have := v.isLt; have := a.isLt; have := m.isLt; have := w.isLt; have := off.isLt; have := cp_code_lt cp; simp only [Code.Fits, tM]; omega)
theorem vlds (v : VReg) (a : Reg) (b : Reg) (m : MReg) (off : BitVec 10) : Statement (.vlds v a b m off) :=
  of_some rfl (by have := v.isLt; have := a.isLt; have := b.isLt; have := m.isLt; have := off.isLt; simp only [Code.Fits, tRRR]; omega)
theorem vsts (v : VReg) (a : Reg) (b : Reg) (m : MReg) (off : BitVec 10) : Statement (.vsts v a b m off) :=
  of_some rfl (by have := v.isLt; have := a.isLt; have := b.isLt; have := m.isLt; have := off.isLt; simp only [Code.Fits, tRRR]; omega)
theorem vgath (v : VReg) (a : Reg) (ix : VReg) (m : MReg) (sc : BitVec 2) : Statement (.vgath v a ix m sc) :=
  of_some rfl (by have := v.isLt; have := a.isLt; have := ix.isLt; have := m.isLt; have := sc.isLt; simp only [Code.Fits, tRRR]; omega)
theorem vscat (v : VReg) (a : Reg) (ix : VReg) (m : MReg) (sc : BitVec 2) : Statement (.vscat v a ix m sc) :=
  of_some rfl (by have := v.isLt; have := a.isLt; have := ix.isLt; have := m.isLt; have := sc.isLt; simp only [Code.Fits, tRRR]; omega)
theorem mand (d : MReg) (a : MReg) (b : MReg) : Statement (.mand d a b) :=
  of_some rfl (fits_cV (by decide) (by have := d.isLt; omega) (by have := a.isLt; omega) (by have := b.isLt; omega) (by decide) (by decide) (by decide) (by decide))
theorem mor (d : MReg) (a : MReg) (b : MReg) : Statement (.mor d a b) :=
  of_some rfl (fits_cV (by decide) (by have := d.isLt; omega) (by have := a.isLt; omega) (by have := b.isLt; omega) (by decide) (by decide) (by decide) (by decide))
theorem mxor (d : MReg) (a : MReg) (b : MReg) : Statement (.mxor d a b) :=
  of_some rfl (fits_cV (by decide) (by have := d.isLt; omega) (by have := a.isLt; omega) (by have := b.isLt; omega) (by decide) (by decide) (by decide) (by decide))
theorem mnot (d : MReg) (a : MReg) : Statement (.mnot d a) :=
  of_some rfl (fits_cV (by decide) (by have := d.isLt; omega) (by have := a.isLt; omega) (by decide) (by decide) (by decide) (by decide) (by decide))
theorem mpopc (d : Reg) (a : MReg) : Statement (.mpopc d a) :=
  of_some rfl (fits_cV (by decide) (by have := d.isLt; omega) (by have := a.isLt; omega) (by decide) (by decide) (by decide) (by decide) (by decide))
theorem mfirst (d : Reg) (a : MReg) : Statement (.mfirst d a) :=
  of_some rfl (fits_cV (by decide) (by have := d.isLt; omega) (by have := a.isLt; omega) (by decide) (by decide) (by decide) (by decide) (by decide))
theorem msetv (d : MReg) (a : Reg) : Statement (.msetv d a) :=
  of_some rfl (by have := d.isLt; have := a.isLt; simp only [Code.Fits, tRR]; omega)
theorem mgetv (d : Reg) (a : MReg) : Statement (.mgetv d a) :=
  of_some rfl (by have := d.isLt; have := a.isLt; simp only [Code.Fits, tRR]; omega)
theorem vdadd (d : VReg) (a : VReg) (b : VReg) (m : MReg) (r : Rnd) : Statement (.vdadd d a b m r) :=
  of_some rfl (fits_cV3 (by decide) d a b 0 m .f64 (by have := rnd_code_lt r; omega))
theorem vdmul (d : VReg) (a : VReg) (b : VReg) (m : MReg) (r : Rnd) : Statement (.vdmul d a b m r) :=
  of_some rfl (fits_cV3 (by decide) d a b 0 m .f64 (by have := rnd_code_lt r; omega))
theorem vdfma (d : VReg) (a : VReg) (b : VReg) (c : VReg) (m : MReg) (r : Rnd) : Statement (.vdfma d a b c m r) :=
  of_some rfl (fits_cV3 (by decide) d a b c m .f64 (by have := rnd_code_lt r; omega))
theorem vclass (d : VReg) (a : VReg) (m : MReg) (ty : VTy) : Statement (.vclass d a m ty) :=
  of_some rfl (fits_cV3 (by decide) d a 0 0 m ty (by decide))
theorem vround (d : VReg) (a : VReg) (m : MReg) (ty : VTy) (r : Rnd) : Statement (.vround d a m ty r) :=
  of_some rfl (fits_cV3 (by decide) d a 0 0 m ty (by have := rnd_code_lt r; omega))
theorem vfcvti (d : VReg) (a : VReg) (m : MReg) (ty : VTy) (r : Rnd) : Statement (.vfcvti d a m ty r) :=
  of_some rfl (fits_cV3 (by decide) d a 0 0 m ty (by have := rnd_code_lt r; omega))
theorem vicvtf (d : VReg) (a : VReg) (m : MReg) (ty : VTy) (r : Rnd) : Statement (.vicvtf d a m ty r) :=
  of_some rfl (fits_cV3 (by decide) d a 0 0 m ty (by have := rnd_code_lt r; omega))
theorem ld (d : Reg) (a : Reg) (off : BitVec 14) (sz : Size) (w : BitVec 2) (cp : Cp) : Statement (.ld d a off sz w cp) :=
  of_some rfl (fits_cM (by decide) d a 0 w sz cp off)
theorem lds (d : Reg) (a : Reg) (off : BitVec 14) (sz : Size) (w : BitVec 2) (cp : Cp) : Statement (.lds d a off sz w cp) :=
  of_some rfl (fits_cM (by decide) d a 0 w sz cp off)
theorem st (a : Reg) (b : Reg) (off : BitVec 14) (sz : Size) (w : BitVec 2) (cp : Cp) : Statement (.st a b off sz w cp) :=
  of_some rfl (fits_cM (by decide) 0 a b w sz cp off)
theorem ldg (d : Reg) (a : Reg) (b : Reg) (off : BitVec 14) (sz : Size) (w : BitVec 2) (cp : Cp) : Statement (.ldg d a b off sz w cp) :=
  of_some rfl (fits_cM (by decide) d a b w sz cp off)
theorem stg (d : Reg) (a : Reg) (b : Reg) (off : BitVec 14) (sz : Size) (w : BitVec 2) (cp : Cp) : Statement (.stg d a b off sz w cp) :=
  of_some rfl (fits_cM (by decide) d a b w sz cp off)
theorem lda (d : Reg) (a : Reg) (sz : Size) (sc : Scope) : Statement (.lda d a sz sc) :=
  of_some rfl (fits_cRRR (by decide) d a 0 0 (by have := scope_code_lt sc; omega) (by have := size_code_lt sz; omega))
theorem stl (a : Reg) (b : Reg) (sz : Size) (sc : Scope) : Statement (.stl a b sz sc) :=
  of_some rfl (fits_cRRR (by decide) 0 a b 0 (by have := scope_code_lt sc; omega) (by have := size_code_lt sz; omega))
theorem pref (a : Reg) (off : BitVec 14) (cp : Cp) : Statement (.pref a off cp) := of_some rfl (fits_cM (by decide) 0 a 0 0 .w cp off)
theorem cflushLine (a : Reg) : Statement (.cflushLine a) := of_some rfl (fits_cRR (by decide) 0 a (by decide))
theorem cflushAll (a : Reg) : Statement (.cflushAll a) := of_some rfl (fits_cRR (by decide) 0 a (by decide))
theorem cinvLine (a : Reg) : Statement (.cinvLine a) := of_some rfl (fits_cRR (by decide) 0 a (by decide))
theorem cinvIline (a : Reg) : Statement (.cinvIline a) := of_some rfl (fits_cRR (by decide) 0 a (by decide))
theorem cinvAll (a : Reg) : Statement (.cinvAll a) := of_some rfl (fits_cRR (by decide) 0 a (by decide))
theorem fence (sc : Scope) : Statement (.fence sc) := of_some rfl (fits_c0 (by decide) (by have := scope_code_lt sc; omega))
theorem waitc (l : BitVec 4) (s : BitVec 4) (c : BitVec 4) (t : BitVec 4) : Statement (.waitc l s c t) :=
  of_some rfl (by have := l.isLt; have := s.isLt; have := c.isLt; have := t.isLt; simp only [Code.Fits, tRI]; omega)
theorem lde (d : Reg) (a : Reg) (off : BitVec 14) (w : BitVec 2) (cp : Cp) : Statement (.lde d a off w cp) :=
  of_some rfl (fits_cM (by decide) d a 0 w .w cp off)
theorem stf (a : Reg) (b : Reg) (off : BitVec 14) (w : BitVec 2) (cp : Cp) : Statement (.stf a b off w cp) :=
  of_some rfl (fits_cM (by decide) 0 a b w .w cp off)
theorem feinitEmpty (a : Reg) (b : Reg) : Statement (.feinitEmpty a b) :=
  of_some rfl (fits_cRRR (by decide) 0 a b 0 (by decide) (by decide))
theorem feinitFull (a : Reg) (b : Reg) : Statement (.feinitFull a b) :=
  of_some rfl (fits_cRRR (by decide) 0 a b 0 (by decide) (by decide))
theorem touchRd (a : Reg) : Statement (.touchRd a) := of_some rfl (fits_cRR (by decide) 0 a (by decide))
theorem touchWr (a : Reg) : Statement (.touchWr a) := of_some rfl (fits_cRR (by decide) 0 a (by decide))
theorem amo (d : Reg) (a : Reg) (b : Reg) (op : AmoOp) (wide : Bool) (mo : MOrd) (sc : Scope) : Statement (.amo d a b op wide mo sc) :=
  of_some rfl (fits_cRRR (by decide) d a b 0 (by have := scope_code_lt sc; omega) (by have := mOrd_code_lt mo; have := amoOp_code_lt op; unfold amoMinor; split <;> omega))
theorem cas (d : Reg) (a : Reg) (b : Reg) (c : Reg) (wide : Bool) (mo : MOrd) (sc : Scope) : Statement (.cas d a b c wide mo sc) :=
  of_some rfl (fits_cRRR (by decide) d a b c (by have := scope_code_lt sc; omega) (by have := mOrd_code_lt mo; unfold amoMinor; split <;> omega))
theorem cas2 (d : Reg) (a : Reg) (b : Reg) (c : Reg) (mo : MOrd) (sc : Scope) : Statement (.cas2 d a b c mo sc) :=
  of_some rfl (fits_cRRR (by decide) d a b c (by have := scope_code_lt sc; omega) (by have := mOrd_code_lt mo; omega))
theorem red (a : Reg) (b : Reg) (op : AmoOp) (wide : Bool) (mo : MOrd) (sc : Scope) : Statement (.red a b op wide mo sc) :=
  of_some rfl (fits_cRRR (by decide) 0 a b 0 (by have := scope_code_lt sc; omega) (by have := mOrd_code_lt mo; have := amoOp_code_lt op; unfold amoMinor; split <;> omega))
theorem placeSet (imm : BitVec 22) : Statement (.placeSet imm) :=
  of_some rfl (fits_cRI (by decide) 0 0 (by decide) (by have := imm.isLt; omega))
theorem placeGet (d : Reg) : Statement (.placeGet d) := of_some rfl (fits_cRI (by decide) d 0 (by decide) (by decide))
theorem placeClr (a : Reg) : Statement (.placeClr a) := of_some rfl (fits_cRI (by decide) 0 a (by decide) (by decide))
theorem arrive (g : BitVec 5) : Statement (.arrive g) := of_some rfl (fits_c0 (by decide) (by have := g.isLt; omega))
theorem waitb (g : BitVec 5) : Statement (.waitb g) := of_some rfl (fits_c0 (by decide) (by have := g.isLt; omega))
theorem barset (g : BitVec 5) (a : Reg) : Statement (.barset g a) :=
  of_some rfl (by have := g.isLt; have := a.isLt; simp only [Code.Fits, tRR]; omega)
theorem tbinit (a : Reg) (b : Reg) : Statement (.tbinit a b) := of_some rfl (fits_cRR3 (by decide) 0 a b)
theorem tbexp (a : Reg) (b : Reg) : Statement (.tbexp a b) := of_some rfl (fits_cRR3 (by decide) 0 a b)
theorem tbarr (d : Reg) (a : Reg) : Statement (.tbarr d a) := of_some rfl (fits_cRR (by decide) d a (by decide))
theorem tbwait (a : Reg) (b : Reg) : Statement (.tbwait a b) := of_some rfl (fits_cRR3 (by decide) 0 a b)
theorem tbtest (d : Reg) (a : Reg) (b : Reg) : Statement (.tbtest d a b) := of_some rfl (fits_cRR3 (by decide) d a b)
theorem chpush (k : ElemKind) (a : Reg) (b : Reg) (imm : BitVec 10) : Statement (.chpush k a b imm) :=
  of_some rfl (fits_cRRR (by decide) 0 a b 0 (by have := elemKind_code_lt k; omega) (by have := imm.isLt; omega))
theorem chpop (k : ElemKind) (d : Reg) (a : Reg) (b : Reg) (imm : BitVec 10) : Statement (.chpop k d a b imm) :=
  of_some rfl (fits_cRRR (by decide) d a b 0 (by have := elemKind_code_lt k; omega) (by have := imm.isLt; omega))
theorem choffer (k : ElemKind) (d : Reg) (a : Reg) (b : Reg) (imm : BitVec 10) : Statement (.choffer k d a b imm) :=
  of_some rfl (fits_cRRR (by decide) d a b 0 (by have := elemKind_code_lt k; omega) (by have := imm.isLt; omega))
theorem chtake (k : ElemKind) (d : Reg) (a : Reg) (b : Reg) (imm : BitVec 10) : Statement (.chtake k d a b imm) :=
  of_some rfl (fits_cRRR (by decide) d a b 0 (by have := elemKind_code_lt k; omega) (by have := imm.isLt; omega))
theorem chpeek (k : ElemKind) (d : Reg) (a : Reg) (b : Reg) (imm : BitVec 10) : Statement (.chpeek k d a b imm) :=
  of_some rfl (fits_cRRR (by decide) d a b 0 (by have := elemKind_code_lt k; omega) (by have := imm.isLt; omega))
theorem chlen (d : Reg) (a : Reg) (imm : BitVec 10) : Statement (.chlen d a imm) :=
  of_some rfl (fits_cRRR (by decide) d a 0 0 (by decide) (by have := imm.isLt; omega))
theorem chclose (a : Reg) (imm : BitVec 10) : Statement (.chclose a imm) :=
  of_some rfl (fits_cRRR (by decide) 0 a 0 0 (by decide) (by have := imm.isLt; omega))
theorem chinv (a : Reg) (imm : BitVec 10) : Statement (.chinv a imm) :=
  of_some rfl (fits_cRRR (by decide) 0 a 0 0 (by decide) (by have := imm.isLt; omega))
theorem spawn (a : Reg) (b : Reg) : Statement (.spawn a b) := of_some rfl (fits_cRR3 (by decide) 0 a b)
theorem dec (a : Reg) : Statement (.dec a) := of_some rfl (fits_cRR (by decide) 0 a (by decide))
theorem tset (a : Reg) (b : Reg) : Statement (.tset a b) := of_some rfl (fits_cRR3 (by decide) 0 a b)
theorem domain (s : DomSel) (d : Reg) (n : BitVec 22) : Statement (.domain s d n) :=
  of_some rfl (fits_cRI (by decide) d 0 (by have := domSel_code_lt s; omega) (by have := n.isLt; omega))
theorem allow (s : AllowSel) (d : Reg) : Statement (.allow s d) :=
  of_some rfl (fits_cRI (by decide) d 0 (by have := allowSel_code_lt s; omega) (by decide))
theorem keyhome (d : Reg) (a : Reg) : Statement (.keyhome d a) := of_some rfl (fits_cRR (by decide) d a (by decide))
theorem split : Statement (.split) := of_some rfl (fits_c0 (by decide) (by decide))
theorem launch (d : Reg) (a : Reg) (b : Reg) : Statement (.launch d a b) := of_some rfl (fits_cRR3 (by decide) d a b)
theorem geom (s : GeomSel) (d : Reg) : Statement (.geom s d) :=
  of_some rfl (fits_cRI (by decide) d 0 (by have := geomSel_code_lt s; omega) (by decide))
theorem ltab (a : Reg) : Statement (.ltab a) := of_some rfl (fits_cRR (by decide) 0 a (by decide))
theorem wload (a : Reg) (b : Reg) : Statement (.wload a b) := of_some rfl (fits_cRRR (by decide) 0 a b 0 (by decide) (by decide))
theorem wloadSc (a : Reg) (b : Reg) : Statement (.wloadSc a b) := of_some rfl (fits_cRRR (by decide) 0 a b 0 (by decide) (by decide))
theorem wswap : Statement (.wswap) := of_some rfl (fits_c0 (by decide) (by decide))
theorem gang (a : Reg) : Statement (.gang a) := of_some rfl (fits_cRR (by decide) 0 a (by decide))
theorem mzero (first : BitVec 6) (count : BitVec 7) : Statement (.mzero first count) :=
  of_some rfl (by have := count.isLt; have := first.isLt; simp only [Code.Fits, tRI]; omega)
theorem mdrain (fmt : OFmt) (r : Rnd) (a : Reg) (b : Reg) (c : Reg) : Statement (.mdrain fmt r a b c) :=
  of_some rfl (fits_cRRR (by decide) 0 a b c (by have := oFmt_code_lt fmt; omega) (by have := rnd_code_lt r; omega))
theorem mdrainPort (fmt : OFmt) (r : Rnd) (b : Reg) : Statement (.mdrainPort fmt r b) :=
  of_some rfl (fits_cRRR (by decide) 0 0 b 0 (by have := oFmt_code_lt fmt; omega) (by have := rnd_code_lt r; omega))
theorem mread (d : VReg) (g : BitVec 22) : Statement (.mread d g) :=
  of_some rfl (by have := d.isLt; have := g.isLt; simp only [Code.Fits, tRI]; omega)
theorem sbtake (d : Reg) (a : Reg) : Statement (.sbtake d a) := of_some rfl (fits_cRR (by decide) d a (by decide))
theorem cpyq (d : Reg) (a : Reg) : Statement (.cpyq d a) := of_some rfl (fits_cRR (by decide) d a (by decide))
theorem cpyqNb (d : Reg) (a : Reg) : Statement (.cpyqNb d a) := of_some rfl (fits_cRR (by decide) d a (by decide))
theorem cpyst (s : CpySel) (d : Reg) : Statement (.cpyst s d) :=
  of_some rfl (fits_cRI (by decide) d 0 (by have := cpySel_code_lt s; omega) (by decide))
theorem cpyres (d : Reg) (a : Reg) : Statement (.cpyres d a) := of_some rfl (fits_cRR (by decide) d a (by decide))
theorem cpyresNb (d : Reg) (a : Reg) : Statement (.cpyresNb d a) := of_some rfl (fits_cRR (by decide) d a (by decide))
theorem msend (k : ElemKind) (d : Reg) (a : Reg) (b : Reg) (c : Reg) (len : BitVec 10) : Statement (.msend k d a b c len) :=
  of_some rfl (fits_cRRR (by decide) d a b c (by have := elemKind_code_lt k; omega) (by have := len.isLt; omega))
theorem mrecv (k : ElemKind) (d : Reg) (b : Reg) (len : BitVec 10) : Statement (.mrecv k d b len) :=
  of_some rfl (fits_cRRR (by decide) d 0 b 0 (by have := elemKind_code_lt k; omega) (by have := len.isLt; omega))
theorem mwait : Statement (.mwait) := of_some rfl (fits_c0 (by decide) (by decide))
theorem msgst (s : MsgSel) (d : Reg) : Statement (.msgst s d) :=
  of_some rfl (fits_cRI (by decide) d 0 (by have := msgSel_code_lt s; omega) (by decide))
theorem illegalInstruction (head : BitVec 16) (rsv : Bool) : Statement (.illegalInstruction head rsv) := of_none rfl
theorem heldPushRetry (tk : Nat) : Statement (.heldPushRetry tk) := of_none rfl
theorem asyncTrapEntry (tk : Nat) : Statement (.asyncTrapEntry tk) := of_none rfl
theorem lineFetch (tk : Nat) : Statement (.lineFetch tk) := of_none rfl
theorem cycleAllowanceExhausted (tk : Nat) : Statement (.cycleAllowanceExhausted tk) := of_none rfl
theorem basteIntervalExpiry (tk : Nat) : Statement (.basteIntervalExpiry tk) := of_none rfl
theorem wakeArrival (tk : Nat) : Statement (.wakeArrival tk) := of_none rfl
theorem slotSpill (tk : Nat) : Statement (.slotSpill tk) := of_none rfl
theorem spillComplete (tk : Nat) : Statement (.spillComplete tk) := of_none rfl
theorem restoreComplete (tk : Nat) : Statement (.restoreComplete tk) := of_none rfl
theorem vectorBeatStart (qi : Nat) (g : Nat) : Statement (.vectorBeatStart qi g) := of_none rfl
theorem vectorComplete (ck : Nat) (id : Nat) : Statement (.vectorComplete ck id) := of_none rfl
theorem ldePerform (id : Nat) : Statement (.ldePerform id) := of_none rfl
theorem stfPerform (id : Nat) : Statement (.stfPerform id) := of_none rfl
theorem loadResponse (id : Nat) : Statement (.loadResponse id) := of_none rfl
theorem storeAck (id : Nat) : Statement (.storeAck id) := of_none rfl
theorem remoteAccessArrival (id : Nat) : Statement (.remoteAccessArrival id) := of_none rfl
theorem remoteDenial (id : Nat) : Statement (.remoteDenial id) := of_none rfl
theorem homeStore (id : Nat) : Statement (.homeStore id) := of_none rfl
theorem homeAtomic (id : Nat) : Statement (.homeAtomic id) := of_none rfl
theorem pageMigration (granule : Nat) (frame : Nat) : Statement (.pageMigration granule frame) := of_none rfl
theorem niAtomic (id : Nat) : Statement (.niAtomic id) := of_none rfl
theorem translationRequest (id : Nat) : Statement (.translationRequest id) := of_none rfl
theorem stage2FaultReply (id : Nat) (retry : Bool) : Statement (.stage2FaultReply id retry) := of_none rfl
theorem faultNotice (id : Nat) : Statement (.faultNotice id) := of_none rfl
theorem atsReply (id : Nat) (ok : Bool) : Statement (.atsReply id ok) := of_none rfl
theorem freplyRetry (pid : Nat) (thread : Nat) (tag : BitVec 8) : Statement (.freplyRetry pid thread tag) := of_none rfl
theorem freplyFail (pid : Nat) (thread : Nat) (tag : BitVec 8) (reason : BitVec 12) : Statement (.freplyFail pid thread tag reason) :=
  of_none rfl
theorem s1invPage (pid : Nat) (vpn : Nat) (size : Nat) : Statement (.s1invPage pid vpn size) := of_none rfl
theorem s1invAll (pid : Nat) : Statement (.s1invAll pid) := of_none rfl
theorem s1invComplete (pid : Nat) : Statement (.s1invComplete pid) := of_none rfl
theorem barsetInstall (pid : Nat) (g : Nat) : Statement (.barsetInstall pid g) := of_none rfl
theorem barrierRelease (pid : Nat) (g : Nat) : Statement (.barrierRelease pid g) := of_none rfl
theorem channelFill (qi : Nat) (ch : Nat) : Statement (.channelFill qi ch) := of_none rfl
theorem channelPushAccept (id : Nat) : Statement (.channelPushAccept id) := of_none rfl
theorem channelRefill (qi : Nat) (ch : Nat) : Statement (.channelRefill qi ch) := of_none rfl
theorem channelEviction (qi : Nat) (ch : Nat) : Statement (.channelEviction qi ch) := of_none rfl
theorem channelRoomReport (qi : Nat) (ch : Nat) : Statement (.channelRoomReport qi ch) := of_none rfl
theorem channelCloseApply (id : Nat) : Statement (.channelCloseApply id) := of_none rfl
theorem probeSend (tk : Nat) : Statement (.probeSend tk) := of_none rfl
theorem probeArrival (id : Nat) : Statement (.probeArrival id) := of_none rfl
theorem probeExpiry (id : Nat) : Statement (.probeExpiry id) := of_none rfl
theorem letoutRequest (id : Nat) : Statement (.letoutRequest id) := of_none rfl
theorem spawnAccept (id : Nat) : Statement (.spawnAccept id) := of_none rfl
theorem depCellDecrement (id : Nat) : Statement (.depCellDecrement id) := of_none rfl
theorem launchAccept (id : Nat) : Statement (.launchAccept id) := of_none rfl
theorem pieceEnqueue (qi : Nat) (rec : Nat) : Statement (.pieceEnqueue qi rec) := of_none rfl
theorem taskBind (qi : Nat) : Statement (.taskBind qi) := of_none rfl
theorem runListPromotion (qi : Nat) (list : Nat) (idx : Nat) : Statement (.runListPromotion qi list idx) := of_none rfl
theorem readyRingPush (qi : Nat) : Statement (.readyRingPush qi) := of_none rfl
theorem readyRecordPlace (qi : Nat) : Statement (.readyRecordPlace qi) := of_none rfl
theorem effectDrainRecord (qi : Nat) (idx : Nat) : Statement (.effectDrainRecord qi idx) := of_none rfl
theorem ltabDone (id : Nat) : Statement (.ltabDone id) := of_none rfl
theorem wloadDone (ck : Nat) : Statement (.wloadDone ck) := of_none rfl
theorem c28StreamCommand (ck : Nat) (slot : Nat) (v : Word) : Statement (.c28StreamCommand ck slot v) := of_none rfl
theorem gangJoin (qi : Nat) : Statement (.gangJoin qi) := of_none rfl
theorem gangRow (qi : Nat) : Statement (.gangRow qi) := of_none rfl
theorem mdrainRowWrite (ck : Nat) : Statement (.mdrainRowWrite ck) := of_none rfl
theorem mdrainHandlePush (ck : Nat) : Statement (.mdrainHandlePush ck) := of_none rfl
theorem c28HandlePop (ck : Nat) : Statement (.c28HandlePop ck) := of_none rfl
theorem scaleBlockDeliver (ck : Nat) (id : Nat) : Statement (.scaleBlockDeliver ck id) := of_none rfl
theorem yokeHandback (ck : Nat) (id : Nat) : Statement (.yokeHandback ck id) := of_none rfl
theorem copyStart (ck : Nat) : Statement (.copyStart ck) := of_none rfl
theorem copySectorLand (ck : Nat) (id : Nat) (n : Nat) : Statement (.copySectorLand ck id n) := of_none rfl
theorem copyComplete (ck : Nat) (id : Nat) : Statement (.copyComplete ck id) := of_none rfl
theorem copyHandback (ck : Nat) (id : Nat) : Statement (.copyHandback ck id) := of_none rfl
theorem c29RecordPop (ck : Nat) : Statement (.c29RecordPop ck) := of_none rfl
theorem messageAccept (id : Nat) : Statement (.messageAccept id) := of_none rfl
theorem messageAcknowledge (id : Nat) : Statement (.messageAcknowledge id) := of_none rfl
theorem messageResend (id : Nat) : Statement (.messageResend id) := of_none rfl
theorem c30MessagePop (ck : Nat) : Statement (.c30MessagePop ck) := of_none rfl
theorem c31SendBlock (tk : Nat) (v : Word) : Statement (.c31SendBlock tk v) := of_none rfl
theorem sendBlockRead (ck : Nat) : Statement (.sendBlockRead ck) := of_none rfl
theorem ctrlOpenStream (id : Nat) : Statement (.ctrlOpenStream id) := of_none rfl
theorem ctrlCloseStream (id : Nat) : Statement (.ctrlCloseStream id) := of_none rfl
theorem ctrlReadLink (id : Nat) : Statement (.ctrlReadLink id) := of_none rfl
theorem ctrlReadBandedLatency (id : Nat) : Statement (.ctrlReadBandedLatency id) := of_none rfl
theorem ctrlReadEdgeUnit (id : Nat) : Statement (.ctrlReadEdgeUnit id) := of_none rfl
theorem ctrlRoutePeer (id : Nat) : Statement (.ctrlRoutePeer id) := of_none rfl
theorem ctrlReservedCode (id : Nat) : Statement (.ctrlReservedCode id) := of_none rfl
theorem bestEffortFlitHop (pkt : Nat) (seq : Nat) : Statement (.bestEffortFlitHop pkt seq) := of_none rfl
theorem streamFlitHop (pkt : Nat) (seq : Nat) : Statement (.streamFlitHop pkt seq) := of_none rfl
theorem creditReturn (n : Nat) : Statement (.creditReturn n) := of_none rfl
theorem stitchCrossing (pkt : Nat) (seq : Nat) : Statement (.stitchCrossing pkt seq) := of_none rfl
theorem packetBounce (pkt : Nat) : Statement (.packetBounce pkt) := of_none rfl
theorem mapSwitch (n : Nat) : Statement (.mapSwitch n) := of_none rfl
theorem linkRetrain (link : Nat) (width : Nat) : Statement (.linkRetrain link width) := of_none rfl
theorem burstSend (unit : Nat) (peer : Nat) : Statement (.burstSend unit peer) := of_none rfl
theorem burstReceive (unit : Nat) (panel : Nat) (seq : Nat) (crcOk : Bool) (pkts : List PeerPkt) : Statement (.burstReceive unit panel seq crcOk pkts) :=
  of_none rfl
theorem burstAck (unit : Nat) (seq : Nat) : Statement (.burstAck unit seq) := of_none rfl
theorem burstResend (unit : Nat) (seq : Nat) : Statement (.burstResend unit seq) := of_none rfl
theorem burstRefusal (unit : Nat) (seq : Nat) : Statement (.burstRefusal unit seq) := of_none rfl
theorem panelReset : Statement (.panelReset) := of_none rfl
theorem partitionCreate (cfg : PartCfg) : Statement (.partitionCreate cfg) := of_none rfl
theorem svccoreWrite (pid : Nat) (v : Word) : Statement (.svccoreWrite pid v) := of_none rfl
theorem hostLaunch (vf : Nat) (v : Word) : Statement (.hostLaunch vf v) := of_none rfl
theorem vfDoorbell (vf : Nat) (v : Word) : Statement (.vfDoorbell vf v) := of_none rfl
theorem hostRegisterWrite (vf : Nat) (off : Nat) (size : Nat) (v : Word) : Statement (.hostRegisterWrite vf off size v) := of_none rfl
theorem debugHalt (vf : Nat) (q : DebugQuad) : Statement (.debugHalt vf q) := of_none rfl
theorem debugResume (vf : Nat) (q : DebugQuad) : Statement (.debugResume vf q) := of_none rfl
theorem debugBrkarm (vf : Nat) (q : Nat) (arm : DebugBits) : Statement (.debugBrkarm vf q arm) := of_none rfl
theorem debugSlotStart (tk : Nat) (pc : Option Word) (srs regs : List (Nat × Word)) : Statement (.debugSlotStart tk pc srs regs) :=
  of_none rfl
theorem functionReset (vf : Nat) : Statement (.functionReset vf) := of_none rfl
theorem keyLoad (id : Nat) (key : BitVec 512) : Statement (.keyLoad id key) := of_none rfl
theorem frameReassign (frame : Nat) (old : Nat) (new : Nat) : Statement (.frameReassign frame old new) := of_none rfl
theorem bastecfgEnable (tk : Nat) (v : Word) : Statement (.bastecfgEnable tk v) := of_none rfl
theorem bastecfgDisable (tk : Nat) : Statement (.bastecfgDisable tk) := of_none rfl
theorem freeNoticeArrival (id : Nat) : Statement (.freeNoticeArrival id) := of_none rfl
theorem uncorrectableEccError (qi : Nat) (core : Nat) : Statement (.uncorrectableEccError qi core) := of_none rfl
theorem pipelineParityError (qi : Nat) (core : Nat) : Statement (.pipelineParityError qi core) := of_none rfl
theorem routerHeartbeatLoss (qi : Nat) : Statement (.routerHeartbeatLoss qi) := of_none rfl
theorem correctableEccError (qi : Nat) : Statement (.correctableEccError qi) := of_none rfl
theorem shareFillBlock (qi : Nat) (blk : Nat) : Statement (.shareFillBlock qi blk) := of_none rfl
theorem bastedSlotResume (tk : Nat) : Statement (.bastedSlotResume tk) := of_none rfl
theorem reductionHoldExpiry (id : Nat) : Statement (.reductionHoldExpiry id) := of_none rfl
theorem reductionPairExpiry (loc : Nat) (rsn : Nat) : Statement (.reductionPairExpiry loc rsn) := of_none rfl
theorem partitionResize (pid : Nat) (x0 : Nat) (y0 : Nat) (w : Nat) (h : Nat) : Statement (.partitionResize pid x0 y0 w h) :=
  of_none rfl
theorem watchdogExpiry (tk : Nat) : Statement (.watchdogExpiry tk) := of_none rfl
theorem droopAlarmRaise (region : Nat) : Statement (.droopAlarmRaise region) := of_none rfl
theorem droopAlarmClear (region : Nat) : Statement (.droopAlarmClear region) := of_none rfl
theorem freezeInput : Statement (.freezeInput) := of_none rfl
theorem freezeCommand (regions : BitVec 16) : Statement (.freezeCommand regions) := of_none rfl
theorem contextSwap (qi : Nat) : Statement (.contextSwap qi) := of_none rfl
theorem channelSpillPopReturn (qi : Nat) (ch : Nat) : Statement (.channelSpillPopReturn qi ch) := of_none rfl
theorem reinstateEntryAppend (qi : Nat) (unit : Nat) (time : Word) (sig : Nat) : Statement (.reinstateEntryAppend qi unit time sig) :=
  of_none rfl
theorem stage2MappingChange (pid : Nat) (ipa : Nat) (size : Nat) (pa : Nat) (perm : BitVec 3) : Statement (.stage2MappingChange pid ipa size pa perm) :=
  of_none rfl
theorem wavelengthLockChange (unit : Nat) (lock : BitVec 16) (degr : BitVec 16) (clock : ControlReport) : Statement (.wavelengthLockChange unit lock degr clock) :=
  of_none rfl

end Sys2Proof.Laws.Enc
end

