-- ==== Sys2Proof/Laws/State.lean ====
section
/-! SUPPORT. What the updates of the state change and leave: one lemma for each field under each update, true by rfl, and what a
table reads as after an update of it. -/

namespace Sys2Proof.Machine

/-! ## slots -/

theorem State.slot_setSlot (s : State) (k n : Nat) (x : Slot) : (s.setSlot k x).slot n = if n = k then x else s.slot n := by
  simp [State.slot, State.setSlot, FMap.get_set]
@[simp] theorem State.slot_setSlot_same (s : State) (k : Nat) (x : Slot) : (s.setSlot k x).slot k = x := by simp [State.slot_setSlot]
theorem State.slot_updSlot (s : State) (k n : Nat) (f : Slot → Slot) :
    (s.updSlot k f).slot n = if n = k then f (s.slot k) else s.slot n := by simp [State.updSlot, State.slot_setSlot]
@[simp] theorem State.slot_updSlot_same (s : State) (k : Nat) (f : Slot → Slot) : (s.updSlot k f).slot k = f (s.slot k) := by
  simp [State.updSlot]
theorem State.slot_updSlot_ne (s : State) (k n : Nat) (f : Slot → Slot) (h : n ≠ k) : (s.updSlot k f).slot n = s.slot n := by
  simp [State.slot_updSlot, h]

@[simp] theorem State.setSlot_cur (s : State) (k : Nat) (x : Slot) : (s.setSlot k x).cur = s.cur := rfl
@[simp] theorem State.updSlot_cur (s : State) (k : Nat) (f : Slot → Slot) : (s.updSlot k f).cur = s.cur := rfl
@[simp] theorem State.setSlot_sched (s : State) (k : Nat) (x : Slot) : (s.setSlot k x).sched = s.sched := rfl
@[simp] theorem State.updSlot_sched (s : State) (k : Nat) (f : Slot → Slot) : (s.updSlot k f).sched = s.sched := rfl
@[simp] theorem State.setSlot_free (s : State) (k : Nat) (x : Slot) : (s.setSlot k x).free = s.free := rfl
@[simp] theorem State.updSlot_free (s : State) (k : Nat) (f : Slot → Slot) : (s.updSlot k f).free = s.free := rfl
@[simp] theorem State.setSlot_ids (s : State) (k : Nat) (x : Slot) : (s.setSlot k x).ids = s.ids := rfl
@[simp] theorem State.updSlot_ids (s : State) (k : Nat) (f : Slot → Slot) : (s.updSlot k f).ids = s.ids := rfl
@[simp] theorem State.setSlot_mem (s : State) (k : Nat) (x : Slot) : (s.setSlot k x).mem = s.mem := rfl
@[simp] theorem State.updSlot_mem (s : State) (k : Nat) (f : Slot → Slot) : (s.updSlot k f).mem = s.mem := rfl
@[simp] theorem State.setSlot_fe (s : State) (k : Nat) (x : Slot) : (s.setSlot k x).fe = s.fe := rfl
@[simp] theorem State.updSlot_fe (s : State) (k : Nat) (f : Slot → Slot) : (s.updSlot k f).fe = s.fe := rfl
@[simp] theorem State.setSlot_cores (s : State) (k : Nat) (x : Slot) : (s.setSlot k x).cores = s.cores := rfl
@[simp] theorem State.updSlot_cores (s : State) (k : Nat) (f : Slot → Slot) : (s.updSlot k f).cores = s.cores := rfl
@[simp] theorem State.setSlot_quads (s : State) (k : Nat) (x : Slot) : (s.setSlot k x).quads = s.quads := rfl
@[simp] theorem State.updSlot_quads (s : State) (k : Nat) (f : Slot → Slot) : (s.updSlot k f).quads = s.quads := rfl
@[simp] theorem State.setSlot_parts (s : State) (k : Nat) (x : Slot) : (s.setSlot k x).parts = s.parts := rfl
@[simp] theorem State.updSlot_parts (s : State) (k : Nat) (f : Slot → Slot) : (s.updSlot k f).parts = s.parts := rfl
@[simp] theorem State.setSlot_regions (s : State) (k : Nat) (x : Slot) : (s.setSlot k x).regions = s.regions := rfl
@[simp] theorem State.updSlot_regions (s : State) (k : Nat) (f : Slot → Slot) : (s.updSlot k f).regions = s.regions := rfl
@[simp] theorem State.setSlot_vfs (s : State) (k : Nat) (x : Slot) : (s.setSlot k x).vfs = s.vfs := rfl
@[simp] theorem State.updSlot_vfs (s : State) (k : Nat) (f : Slot → Slot) : (s.updSlot k f).vfs = s.vfs := rfl
@[simp] theorem State.setSlot_panel (s : State) (k : Nat) (x : Slot) : (s.setSlot k x).panel = s.panel := rfl
@[simp] theorem State.updSlot_panel (s : State) (k : Nat) (f : Slot → Slot) : (s.updSlot k f).panel = s.panel := rfl
@[simp] theorem State.setSlot_tlb (s : State) (k : Nat) (x : Slot) : (s.setSlot k x).tlb = s.tlb := rfl
@[simp] theorem State.updSlot_tlb (s : State) (k : Nat) (f : Slot → Slot) : (s.updSlot k f).tlb = s.tlb := rfl
@[simp] theorem State.setSlot_dieLines (s : State) (k : Nat) (x : Slot) : (s.setSlot k x).dieLines = s.dieLines := rfl
@[simp] theorem State.updSlot_dieLines (s : State) (k : Nat) (f : Slot → Slot) : (s.updSlot k f).dieLines = s.dieLines := rfl
@[simp] theorem State.setSlot_owners (s : State) (k : Nat) (x : Slot) : (s.setSlot k x).owners = s.owners := rfl
@[simp] theorem State.updSlot_owners (s : State) (k : Nat) (f : Slot → Slot) : (s.updSlot k f).owners = s.owners := rfl
@[simp] theorem State.setSlot_homeLast (s : State) (k : Nat) (x : Slot) : (s.setSlot k x).homeLast = s.homeLast := rfl
@[simp] theorem State.updSlot_homeLast (s : State) (k : Nat) (f : Slot → Slot) : (s.updSlot k f).homeLast = s.homeLast := rfl
@[simp] theorem State.setSlot_place (s : State) (k : Nat) (x : Slot) : (s.setSlot k x).place = s.place := rfl
@[simp] theorem State.updSlot_place (s : State) (k : Nat) (f : Slot → Slot) : (s.updSlot k f).place = s.place := rfl
@[simp] theorem State.setSlot_flights (s : State) (k : Nat) (x : Slot) : (s.setSlot k x).flights = s.flights := rfl
@[simp] theorem State.updSlot_flights (s : State) (k : Nat) (f : Slot → Slot) : (s.updSlot k f).flights = s.flights := rfl
@[simp] theorem State.setSlot_groups (s : State) (k : Nat) (x : Slot) : (s.setSlot k x).groups = s.groups := rfl
@[simp] theorem State.updSlot_groups (s : State) (k : Nat) (f : Slot → Slot) : (s.updSlot k f).groups = s.groups := rfl
@[simp] theorem State.setSlot_wakes (s : State) (k : Nat) (x : Slot) : (s.setSlot k x).wakes = s.wakes := rfl
@[simp] theorem State.updSlot_wakes (s : State) (k : Nat) (f : Slot → Slot) : (s.updSlot k f).wakes = s.wakes := rfl
@[simp] theorem State.setSlot_pushes (s : State) (k : Nat) (x : Slot) : (s.setSlot k x).pushes = s.pushes := rfl
@[simp] theorem State.updSlot_pushes (s : State) (k : Nat) (f : Slot → Slot) : (s.updSlot k f).pushes = s.pushes := rfl
@[simp] theorem State.setSlot_probes (s : State) (k : Nat) (x : Slot) : (s.setSlot k x).probes = s.probes := rfl
@[simp] theorem State.updSlot_probes (s : State) (k : Nat) (f : Slot → Slot) : (s.updSlot k f).probes = s.probes := rfl
@[simp] theorem State.setSlot_msgs (s : State) (k : Nat) (x : Slot) : (s.setSlot k x).msgs = s.msgs := rfl
@[simp] theorem State.updSlot_msgs (s : State) (k : Nat) (f : Slot → Slot) : (s.updSlot k f).msgs = s.msgs := rfl
@[simp] theorem State.setSlot_packets (s : State) (k : Nat) (x : Slot) : (s.setSlot k x).packets = s.packets := rfl
@[simp] theorem State.updSlot_packets (s : State) (k : Nat) (f : Slot → Slot) : (s.updSlot k f).packets = s.packets := rfl
@[simp] theorem State.setSlot_flits (s : State) (k : Nat) (x : Slot) : (s.setSlot k x).flits = s.flits := rfl
@[simp] theorem State.updSlot_flits (s : State) (k : Nat) (f : Slot → Slot) : (s.updSlot k f).flits = s.flits := rfl
@[simp] theorem State.setSlot_ctrl (s : State) (k : Nat) (x : Slot) : (s.setSlot k x).ctrl = s.ctrl := rfl
@[simp] theorem State.updSlot_ctrl (s : State) (k : Nat) (f : Slot → Slot) : (s.updSlot k f).ctrl = s.ctrl := rfl
@[simp] theorem State.setSlot_redPairs (s : State) (k : Nat) (x : Slot) : (s.setSlot k x).redPairs = s.redPairs := rfl
@[simp] theorem State.updSlot_redPairs (s : State) (k : Nat) (f : Slot → Slot) : (s.updSlot k f).redPairs = s.redPairs := rfl
@[simp] theorem State.setSlot_redHolds (s : State) (k : Nat) (x : Slot) : (s.setSlot k x).redHolds = s.redHolds := rfl
@[simp] theorem State.updSlot_redHolds (s : State) (k : Nat) (f : Slot → Slot) : (s.updSlot k f).redHolds = s.redHolds := rfl
@[simp] theorem State.setSlot_changes (s : State) (k : Nat) (x : Slot) : (s.setSlot k x).changes = s.changes := rfl
@[simp] theorem State.updSlot_changes (s : State) (k : Nat) (f : Slot → Slot) : (s.updSlot k f).changes = s.changes := rfl
@[simp] theorem State.setSlot_launches (s : State) (k : Nat) (x : Slot) : (s.setSlot k x).launches = s.launches := rfl
@[simp] theorem State.updSlot_launches (s : State) (k : Nat) (f : Slot → Slot) : (s.updSlot k f).launches = s.launches := rfl
@[simp] theorem State.setSlot_moves (s : State) (k : Nat) (x : Slot) : (s.setSlot k x).moves = s.moves := rfl
@[simp] theorem State.updSlot_moves (s : State) (k : Nat) (f : Slot → Slot) : (s.updSlot k f).moves = s.moves := rfl
@[simp] theorem State.setSlot_ltabs (s : State) (k : Nat) (x : Slot) : (s.setSlot k x).ltabs = s.ltabs := rfl
@[simp] theorem State.updSlot_ltabs (s : State) (k : Nat) (f : Slot → Slot) : (s.updSlot k f).ltabs = s.ltabs := rfl
@[simp] theorem State.setSlot_doubles (s : State) (k : Nat) (x : Slot) : (s.setSlot k x).doubles = s.doubles := rfl
@[simp] theorem State.setSlot_parked (s : State) (k : Nat) (x : Slot) : (s.setSlot k x).parked = s.parked := rfl
@[simp] theorem State.updSlot_doubles (s : State) (k : Nat) (f : Slot → Slot) : (s.updSlot k f).doubles = s.doubles := rfl
@[simp] theorem State.updSlot_parked (s : State) (k : Nat) (f : Slot → Slot) : (s.updSlot k f).parked = s.parked := rfl
@[simp] theorem State.setSlot_chanFaults (s : State) (k : Nat) (x : Slot) : (s.setSlot k x).chanFaults = s.chanFaults := rfl
@[simp] theorem State.updSlot_chanFaults (s : State) (k : Nat) (f : Slot → Slot) : (s.updSlot k f).chanFaults = s.chanFaults := rfl
@[simp] theorem State.setSlot_spillPops (s : State) (k : Nat) (x : Slot) : (s.setSlot k x).spillPops = s.spillPops := rfl
@[simp] theorem State.setSlot_wordQueue (s : State) (k : Nat) (x : Slot) : (s.setSlot k x).wordQueue = s.wordQueue := rfl
@[simp] theorem State.updSlot_spillPops (s : State) (k : Nat) (f : Slot → Slot) : (s.updSlot k f).spillPops = s.spillPops := rfl
@[simp] theorem State.updSlot_wordQueue (s : State) (k : Nat) (f : Slot → Slot) : (s.updSlot k f).wordQueue = s.wordQueue := rfl
@[simp] theorem State.core_setSlot (s : State) (k n : Nat) (x : Slot) : (s.setSlot k x).core n = s.core n := rfl
@[simp] theorem State.core_updSlot (s : State) (k n : Nat) (f : Slot → Slot) : (s.updSlot k f).core n = s.core n := rfl
@[simp] theorem State.quad_setSlot (s : State) (k n : Nat) (x : Slot) : (s.setSlot k x).quad n = s.quad n := rfl
@[simp] theorem State.quad_updSlot (s : State) (k n : Nat) (f : Slot → Slot) : (s.updSlot k f).quad n = s.quad n := rfl
@[simp] theorem State.part_setSlot (s : State) (k n : Nat) (x : Slot) : (s.setSlot k x).part n = s.part n := rfl
@[simp] theorem State.part_updSlot (s : State) (k n : Nat) (f : Slot → Slot) : (s.updSlot k f).part n = s.part n := rfl
@[simp] theorem State.region_setSlot (s : State) (k n : Nat) (x : Slot) : (s.setSlot k x).region n = s.region n := rfl
@[simp] theorem State.region_updSlot (s : State) (k n : Nat) (f : Slot → Slot) : (s.updSlot k f).region n = s.region n := rfl
@[simp] theorem State.vf_setSlot (s : State) (k n : Nat) (x : Slot) : (s.setSlot k x).vf n = s.vf n := rfl
@[simp] theorem State.vf_updSlot (s : State) (k n : Nat) (f : Slot → Slot) : (s.updSlot k f).vf n = s.vf n := rfl

/-! ## cores -/

theorem State.core_setCore (s : State) (k n : Nat) (x : Core) : (s.setCore k x).core n = if n = k then x else s.core n := by
  simp [State.core, State.setCore, FMap.get_set]
@[simp] theorem State.core_setCore_same (s : State) (k : Nat) (x : Core) : (s.setCore k x).core k = x := by simp [State.core_setCore]
theorem State.core_updCore (s : State) (k n : Nat) (f : Core → Core) :
    (s.updCore k f).core n = if n = k then f (s.core k) else s.core n := by simp [State.updCore, State.core_setCore]
@[simp] theorem State.core_updCore_same (s : State) (k : Nat) (f : Core → Core) : (s.updCore k f).core k = f (s.core k) := by
  simp [State.updCore]
theorem State.core_updCore_ne (s : State) (k n : Nat) (f : Core → Core) (h : n ≠ k) : (s.updCore k f).core n = s.core n := by
  simp [State.core_updCore, h]

@[simp] theorem State.setCore_cur (s : State) (k : Nat) (x : Core) : (s.setCore k x).cur = s.cur := rfl
@[simp] theorem State.updCore_cur (s : State) (k : Nat) (f : Core → Core) : (s.updCore k f).cur = s.cur := rfl
@[simp] theorem State.setCore_sched (s : State) (k : Nat) (x : Core) : (s.setCore k x).sched = s.sched := rfl
@[simp] theorem State.updCore_sched (s : State) (k : Nat) (f : Core → Core) : (s.updCore k f).sched = s.sched := rfl
@[simp] theorem State.setCore_free (s : State) (k : Nat) (x : Core) : (s.setCore k x).free = s.free := rfl
@[simp] theorem State.updCore_free (s : State) (k : Nat) (f : Core → Core) : (s.updCore k f).free = s.free := rfl
@[simp] theorem State.setCore_ids (s : State) (k : Nat) (x : Core) : (s.setCore k x).ids = s.ids := rfl
@[simp] theorem State.updCore_ids (s : State) (k : Nat) (f : Core → Core) : (s.updCore k f).ids = s.ids := rfl
@[simp] theorem State.setCore_mem (s : State) (k : Nat) (x : Core) : (s.setCore k x).mem = s.mem := rfl
@[simp] theorem State.updCore_mem (s : State) (k : Nat) (f : Core → Core) : (s.updCore k f).mem = s.mem := rfl
@[simp] theorem State.setCore_fe (s : State) (k : Nat) (x : Core) : (s.setCore k x).fe = s.fe := rfl
@[simp] theorem State.updCore_fe (s : State) (k : Nat) (f : Core → Core) : (s.updCore k f).fe = s.fe := rfl
@[simp] theorem State.setCore_slots (s : State) (k : Nat) (x : Core) : (s.setCore k x).slots = s.slots := rfl
@[simp] theorem State.updCore_slots (s : State) (k : Nat) (f : Core → Core) : (s.updCore k f).slots = s.slots := rfl
@[simp] theorem State.setCore_quads (s : State) (k : Nat) (x : Core) : (s.setCore k x).quads = s.quads := rfl
@[simp] theorem State.updCore_quads (s : State) (k : Nat) (f : Core → Core) : (s.updCore k f).quads = s.quads := rfl
@[simp] theorem State.setCore_parts (s : State) (k : Nat) (x : Core) : (s.setCore k x).parts = s.parts := rfl
@[simp] theorem State.updCore_parts (s : State) (k : Nat) (f : Core → Core) : (s.updCore k f).parts = s.parts := rfl
@[simp] theorem State.setCore_regions (s : State) (k : Nat) (x : Core) : (s.setCore k x).regions = s.regions := rfl
@[simp] theorem State.updCore_regions (s : State) (k : Nat) (f : Core → Core) : (s.updCore k f).regions = s.regions := rfl
@[simp] theorem State.setCore_vfs (s : State) (k : Nat) (x : Core) : (s.setCore k x).vfs = s.vfs := rfl
@[simp] theorem State.updCore_vfs (s : State) (k : Nat) (f : Core → Core) : (s.updCore k f).vfs = s.vfs := rfl
@[simp] theorem State.setCore_panel (s : State) (k : Nat) (x : Core) : (s.setCore k x).panel = s.panel := rfl
@[simp] theorem State.updCore_panel (s : State) (k : Nat) (f : Core → Core) : (s.updCore k f).panel = s.panel := rfl
@[simp] theorem State.setCore_tlb (s : State) (k : Nat) (x : Core) : (s.setCore k x).tlb = s.tlb := rfl
@[simp] theorem State.updCore_tlb (s : State) (k : Nat) (f : Core → Core) : (s.updCore k f).tlb = s.tlb := rfl
@[simp] theorem State.setCore_dieLines (s : State) (k : Nat) (x : Core) : (s.setCore k x).dieLines = s.dieLines := rfl
@[simp] theorem State.updCore_dieLines (s : State) (k : Nat) (f : Core → Core) : (s.updCore k f).dieLines = s.dieLines := rfl
@[simp] theorem State.setCore_owners (s : State) (k : Nat) (x : Core) : (s.setCore k x).owners = s.owners := rfl
@[simp] theorem State.updCore_owners (s : State) (k : Nat) (f : Core → Core) : (s.updCore k f).owners = s.owners := rfl
@[simp] theorem State.setCore_homeLast (s : State) (k : Nat) (x : Core) : (s.setCore k x).homeLast = s.homeLast := rfl
@[simp] theorem State.updCore_homeLast (s : State) (k : Nat) (f : Core → Core) : (s.updCore k f).homeLast = s.homeLast := rfl
@[simp] theorem State.setCore_place (s : State) (k : Nat) (x : Core) : (s.setCore k x).place = s.place := rfl
@[simp] theorem State.updCore_place (s : State) (k : Nat) (f : Core → Core) : (s.updCore k f).place = s.place := rfl
@[simp] theorem State.setCore_flights (s : State) (k : Nat) (x : Core) : (s.setCore k x).flights = s.flights := rfl
@[simp] theorem State.updCore_flights (s : State) (k : Nat) (f : Core → Core) : (s.updCore k f).flights = s.flights := rfl
@[simp] theorem State.setCore_groups (s : State) (k : Nat) (x : Core) : (s.setCore k x).groups = s.groups := rfl
@[simp] theorem State.updCore_groups (s : State) (k : Nat) (f : Core → Core) : (s.updCore k f).groups = s.groups := rfl
@[simp] theorem State.setCore_wakes (s : State) (k : Nat) (x : Core) : (s.setCore k x).wakes = s.wakes := rfl
@[simp] theorem State.updCore_wakes (s : State) (k : Nat) (f : Core → Core) : (s.updCore k f).wakes = s.wakes := rfl
@[simp] theorem State.setCore_pushes (s : State) (k : Nat) (x : Core) : (s.setCore k x).pushes = s.pushes := rfl
@[simp] theorem State.updCore_pushes (s : State) (k : Nat) (f : Core → Core) : (s.updCore k f).pushes = s.pushes := rfl
@[simp] theorem State.setCore_probes (s : State) (k : Nat) (x : Core) : (s.setCore k x).probes = s.probes := rfl
@[simp] theorem State.updCore_probes (s : State) (k : Nat) (f : Core → Core) : (s.updCore k f).probes = s.probes := rfl
@[simp] theorem State.setCore_msgs (s : State) (k : Nat) (x : Core) : (s.setCore k x).msgs = s.msgs := rfl
@[simp] theorem State.updCore_msgs (s : State) (k : Nat) (f : Core → Core) : (s.updCore k f).msgs = s.msgs := rfl
@[simp] theorem State.setCore_packets (s : State) (k : Nat) (x : Core) : (s.setCore k x).packets = s.packets := rfl
@[simp] theorem State.updCore_packets (s : State) (k : Nat) (f : Core → Core) : (s.updCore k f).packets = s.packets := rfl
@[simp] theorem State.setCore_flits (s : State) (k : Nat) (x : Core) : (s.setCore k x).flits = s.flits := rfl
@[simp] theorem State.updCore_flits (s : State) (k : Nat) (f : Core → Core) : (s.updCore k f).flits = s.flits := rfl
@[simp] theorem State.setCore_ctrl (s : State) (k : Nat) (x : Core) : (s.setCore k x).ctrl = s.ctrl := rfl
@[simp] theorem State.updCore_ctrl (s : State) (k : Nat) (f : Core → Core) : (s.updCore k f).ctrl = s.ctrl := rfl
@[simp] theorem State.setCore_redPairs (s : State) (k : Nat) (x : Core) : (s.setCore k x).redPairs = s.redPairs := rfl
@[simp] theorem State.updCore_redPairs (s : State) (k : Nat) (f : Core → Core) : (s.updCore k f).redPairs = s.redPairs := rfl
@[simp] theorem State.setCore_redHolds (s : State) (k : Nat) (x : Core) : (s.setCore k x).redHolds = s.redHolds := rfl
@[simp] theorem State.updCore_redHolds (s : State) (k : Nat) (f : Core → Core) : (s.updCore k f).redHolds = s.redHolds := rfl
@[simp] theorem State.setCore_changes (s : State) (k : Nat) (x : Core) : (s.setCore k x).changes = s.changes := rfl
@[simp] theorem State.updCore_changes (s : State) (k : Nat) (f : Core → Core) : (s.updCore k f).changes = s.changes := rfl
@[simp] theorem State.setCore_launches (s : State) (k : Nat) (x : Core) : (s.setCore k x).launches = s.launches := rfl
@[simp] theorem State.updCore_launches (s : State) (k : Nat) (f : Core → Core) : (s.updCore k f).launches = s.launches := rfl
@[simp] theorem State.setCore_moves (s : State) (k : Nat) (x : Core) : (s.setCore k x).moves = s.moves := rfl
@[simp] theorem State.updCore_moves (s : State) (k : Nat) (f : Core → Core) : (s.updCore k f).moves = s.moves := rfl
@[simp] theorem State.setCore_ltabs (s : State) (k : Nat) (x : Core) : (s.setCore k x).ltabs = s.ltabs := rfl
@[simp] theorem State.updCore_ltabs (s : State) (k : Nat) (f : Core → Core) : (s.updCore k f).ltabs = s.ltabs := rfl
@[simp] theorem State.setCore_doubles (s : State) (k : Nat) (x : Core) : (s.setCore k x).doubles = s.doubles := rfl
@[simp] theorem State.setCore_parked (s : State) (k : Nat) (x : Core) : (s.setCore k x).parked = s.parked := rfl
@[simp] theorem State.updCore_doubles (s : State) (k : Nat) (f : Core → Core) : (s.updCore k f).doubles = s.doubles := rfl
@[simp] theorem State.updCore_parked (s : State) (k : Nat) (f : Core → Core) : (s.updCore k f).parked = s.parked := rfl
@[simp] theorem State.setCore_chanFaults (s : State) (k : Nat) (x : Core) : (s.setCore k x).chanFaults = s.chanFaults := rfl
@[simp] theorem State.updCore_chanFaults (s : State) (k : Nat) (f : Core → Core) : (s.updCore k f).chanFaults = s.chanFaults := rfl
@[simp] theorem State.setCore_spillPops (s : State) (k : Nat) (x : Core) : (s.setCore k x).spillPops = s.spillPops := rfl
@[simp] theorem State.setCore_wordQueue (s : State) (k : Nat) (x : Core) : (s.setCore k x).wordQueue = s.wordQueue := rfl
@[simp] theorem State.updCore_spillPops (s : State) (k : Nat) (f : Core → Core) : (s.updCore k f).spillPops = s.spillPops := rfl
@[simp] theorem State.updCore_wordQueue (s : State) (k : Nat) (f : Core → Core) : (s.updCore k f).wordQueue = s.wordQueue := rfl
@[simp] theorem State.slot_setCore (s : State) (k n : Nat) (x : Core) : (s.setCore k x).slot n = s.slot n := rfl
@[simp] theorem State.slot_updCore (s : State) (k n : Nat) (f : Core → Core) : (s.updCore k f).slot n = s.slot n := rfl
@[simp] theorem State.quad_setCore (s : State) (k n : Nat) (x : Core) : (s.setCore k x).quad n = s.quad n := rfl
@[simp] theorem State.quad_updCore (s : State) (k n : Nat) (f : Core → Core) : (s.updCore k f).quad n = s.quad n := rfl
@[simp] theorem State.part_setCore (s : State) (k n : Nat) (x : Core) : (s.setCore k x).part n = s.part n := rfl
@[simp] theorem State.part_updCore (s : State) (k n : Nat) (f : Core → Core) : (s.updCore k f).part n = s.part n := rfl
@[simp] theorem State.region_setCore (s : State) (k n : Nat) (x : Core) : (s.setCore k x).region n = s.region n := rfl
@[simp] theorem State.region_updCore (s : State) (k n : Nat) (f : Core → Core) : (s.updCore k f).region n = s.region n := rfl
@[simp] theorem State.vf_setCore (s : State) (k n : Nat) (x : Core) : (s.setCore k x).vf n = s.vf n := rfl
@[simp] theorem State.vf_updCore (s : State) (k n : Nat) (f : Core → Core) : (s.updCore k f).vf n = s.vf n := rfl

/-! ## quads -/

theorem State.quad_setQuad (s : State) (k n : Nat) (x : Quad) : (s.setQuad k x).quad n = if n = k then x else s.quad n := by
  simp [State.quad, State.setQuad, FMap.get_set]
@[simp] theorem State.quad_setQuad_same (s : State) (k : Nat) (x : Quad) : (s.setQuad k x).quad k = x := by simp [State.quad_setQuad]
theorem State.quad_updQuad (s : State) (k n : Nat) (f : Quad → Quad) :
    (s.updQuad k f).quad n = if n = k then f (s.quad k) else s.quad n := by simp [State.updQuad, State.quad_setQuad]
@[simp] theorem State.quad_updQuad_same (s : State) (k : Nat) (f : Quad → Quad) : (s.updQuad k f).quad k = f (s.quad k) := by
  simp [State.updQuad]
theorem State.quad_updQuad_ne (s : State) (k n : Nat) (f : Quad → Quad) (h : n ≠ k) : (s.updQuad k f).quad n = s.quad n := by
  simp [State.quad_updQuad, h]

@[simp] theorem State.setQuad_cur (s : State) (k : Nat) (x : Quad) : (s.setQuad k x).cur = s.cur := rfl
@[simp] theorem State.updQuad_cur (s : State) (k : Nat) (f : Quad → Quad) : (s.updQuad k f).cur = s.cur := rfl
@[simp] theorem State.setQuad_sched (s : State) (k : Nat) (x : Quad) : (s.setQuad k x).sched = s.sched := rfl
@[simp] theorem State.updQuad_sched (s : State) (k : Nat) (f : Quad → Quad) : (s.updQuad k f).sched = s.sched := rfl
@[simp] theorem State.setQuad_free (s : State) (k : Nat) (x : Quad) : (s.setQuad k x).free = s.free := rfl
@[simp] theorem State.updQuad_free (s : State) (k : Nat) (f : Quad → Quad) : (s.updQuad k f).free = s.free := rfl
@[simp] theorem State.setQuad_ids (s : State) (k : Nat) (x : Quad) : (s.setQuad k x).ids = s.ids := rfl
@[simp] theorem State.updQuad_ids (s : State) (k : Nat) (f : Quad → Quad) : (s.updQuad k f).ids = s.ids := rfl
@[simp] theorem State.setQuad_mem (s : State) (k : Nat) (x : Quad) : (s.setQuad k x).mem = s.mem := rfl
@[simp] theorem State.updQuad_mem (s : State) (k : Nat) (f : Quad → Quad) : (s.updQuad k f).mem = s.mem := rfl
@[simp] theorem State.setQuad_fe (s : State) (k : Nat) (x : Quad) : (s.setQuad k x).fe = s.fe := rfl
@[simp] theorem State.updQuad_fe (s : State) (k : Nat) (f : Quad → Quad) : (s.updQuad k f).fe = s.fe := rfl
@[simp] theorem State.setQuad_slots (s : State) (k : Nat) (x : Quad) : (s.setQuad k x).slots = s.slots := rfl
@[simp] theorem State.updQuad_slots (s : State) (k : Nat) (f : Quad → Quad) : (s.updQuad k f).slots = s.slots := rfl
@[simp] theorem State.setQuad_cores (s : State) (k : Nat) (x : Quad) : (s.setQuad k x).cores = s.cores := rfl
@[simp] theorem State.updQuad_cores (s : State) (k : Nat) (f : Quad → Quad) : (s.updQuad k f).cores = s.cores := rfl
@[simp] theorem State.setQuad_parts (s : State) (k : Nat) (x : Quad) : (s.setQuad k x).parts = s.parts := rfl
@[simp] theorem State.updQuad_parts (s : State) (k : Nat) (f : Quad → Quad) : (s.updQuad k f).parts = s.parts := rfl
@[simp] theorem State.setQuad_regions (s : State) (k : Nat) (x : Quad) : (s.setQuad k x).regions = s.regions := rfl
@[simp] theorem State.updQuad_regions (s : State) (k : Nat) (f : Quad → Quad) : (s.updQuad k f).regions = s.regions := rfl
@[simp] theorem State.setQuad_vfs (s : State) (k : Nat) (x : Quad) : (s.setQuad k x).vfs = s.vfs := rfl
@[simp] theorem State.updQuad_vfs (s : State) (k : Nat) (f : Quad → Quad) : (s.updQuad k f).vfs = s.vfs := rfl
@[simp] theorem State.setQuad_panel (s : State) (k : Nat) (x : Quad) : (s.setQuad k x).panel = s.panel := rfl
@[simp] theorem State.updQuad_panel (s : State) (k : Nat) (f : Quad → Quad) : (s.updQuad k f).panel = s.panel := rfl
@[simp] theorem State.setQuad_tlb (s : State) (k : Nat) (x : Quad) : (s.setQuad k x).tlb = s.tlb := rfl
@[simp] theorem State.updQuad_tlb (s : State) (k : Nat) (f : Quad → Quad) : (s.updQuad k f).tlb = s.tlb := rfl
@[simp] theorem State.setQuad_dieLines (s : State) (k : Nat) (x : Quad) : (s.setQuad k x).dieLines = s.dieLines := rfl
@[simp] theorem State.updQuad_dieLines (s : State) (k : Nat) (f : Quad → Quad) : (s.updQuad k f).dieLines = s.dieLines := rfl
@[simp] theorem State.setQuad_owners (s : State) (k : Nat) (x : Quad) : (s.setQuad k x).owners = s.owners := rfl
@[simp] theorem State.updQuad_owners (s : State) (k : Nat) (f : Quad → Quad) : (s.updQuad k f).owners = s.owners := rfl
@[simp] theorem State.setQuad_homeLast (s : State) (k : Nat) (x : Quad) : (s.setQuad k x).homeLast = s.homeLast := rfl
@[simp] theorem State.updQuad_homeLast (s : State) (k : Nat) (f : Quad → Quad) : (s.updQuad k f).homeLast = s.homeLast := rfl
@[simp] theorem State.setQuad_place (s : State) (k : Nat) (x : Quad) : (s.setQuad k x).place = s.place := rfl
@[simp] theorem State.updQuad_place (s : State) (k : Nat) (f : Quad → Quad) : (s.updQuad k f).place = s.place := rfl
@[simp] theorem State.setQuad_flights (s : State) (k : Nat) (x : Quad) : (s.setQuad k x).flights = s.flights := rfl
@[simp] theorem State.updQuad_flights (s : State) (k : Nat) (f : Quad → Quad) : (s.updQuad k f).flights = s.flights := rfl
@[simp] theorem State.setQuad_groups (s : State) (k : Nat) (x : Quad) : (s.setQuad k x).groups = s.groups := rfl
@[simp] theorem State.updQuad_groups (s : State) (k : Nat) (f : Quad → Quad) : (s.updQuad k f).groups = s.groups := rfl
@[simp] theorem State.setQuad_wakes (s : State) (k : Nat) (x : Quad) : (s.setQuad k x).wakes = s.wakes := rfl
@[simp] theorem State.updQuad_wakes (s : State) (k : Nat) (f : Quad → Quad) : (s.updQuad k f).wakes = s.wakes := rfl
@[simp] theorem State.setQuad_pushes (s : State) (k : Nat) (x : Quad) : (s.setQuad k x).pushes = s.pushes := rfl
@[simp] theorem State.updQuad_pushes (s : State) (k : Nat) (f : Quad → Quad) : (s.updQuad k f).pushes = s.pushes := rfl
@[simp] theorem State.setQuad_probes (s : State) (k : Nat) (x : Quad) : (s.setQuad k x).probes = s.probes := rfl
@[simp] theorem State.updQuad_probes (s : State) (k : Nat) (f : Quad → Quad) : (s.updQuad k f).probes = s.probes := rfl
@[simp] theorem State.setQuad_msgs (s : State) (k : Nat) (x : Quad) : (s.setQuad k x).msgs = s.msgs := rfl
@[simp] theorem State.updQuad_msgs (s : State) (k : Nat) (f : Quad → Quad) : (s.updQuad k f).msgs = s.msgs := rfl
@[simp] theorem State.setQuad_packets (s : State) (k : Nat) (x : Quad) : (s.setQuad k x).packets = s.packets := rfl
@[simp] theorem State.updQuad_packets (s : State) (k : Nat) (f : Quad → Quad) : (s.updQuad k f).packets = s.packets := rfl
@[simp] theorem State.setQuad_flits (s : State) (k : Nat) (x : Quad) : (s.setQuad k x).flits = s.flits := rfl
@[simp] theorem State.updQuad_flits (s : State) (k : Nat) (f : Quad → Quad) : (s.updQuad k f).flits = s.flits := rfl
@[simp] theorem State.setQuad_ctrl (s : State) (k : Nat) (x : Quad) : (s.setQuad k x).ctrl = s.ctrl := rfl
@[simp] theorem State.updQuad_ctrl (s : State) (k : Nat) (f : Quad → Quad) : (s.updQuad k f).ctrl = s.ctrl := rfl
@[simp] theorem State.setQuad_redPairs (s : State) (k : Nat) (x : Quad) : (s.setQuad k x).redPairs = s.redPairs := rfl
@[simp] theorem State.updQuad_redPairs (s : State) (k : Nat) (f : Quad → Quad) : (s.updQuad k f).redPairs = s.redPairs := rfl
@[simp] theorem State.setQuad_redHolds (s : State) (k : Nat) (x : Quad) : (s.setQuad k x).redHolds = s.redHolds := rfl
@[simp] theorem State.updQuad_redHolds (s : State) (k : Nat) (f : Quad → Quad) : (s.updQuad k f).redHolds = s.redHolds := rfl
@[simp] theorem State.setQuad_changes (s : State) (k : Nat) (x : Quad) : (s.setQuad k x).changes = s.changes := rfl
@[simp] theorem State.updQuad_changes (s : State) (k : Nat) (f : Quad → Quad) : (s.updQuad k f).changes = s.changes := rfl
@[simp] theorem State.setQuad_launches (s : State) (k : Nat) (x : Quad) : (s.setQuad k x).launches = s.launches := rfl
@[simp] theorem State.updQuad_launches (s : State) (k : Nat) (f : Quad → Quad) : (s.updQuad k f).launches = s.launches := rfl
@[simp] theorem State.setQuad_moves (s : State) (k : Nat) (x : Quad) : (s.setQuad k x).moves = s.moves := rfl
@[simp] theorem State.updQuad_moves (s : State) (k : Nat) (f : Quad → Quad) : (s.updQuad k f).moves = s.moves := rfl
@[simp] theorem State.setQuad_ltabs (s : State) (k : Nat) (x : Quad) : (s.setQuad k x).ltabs = s.ltabs := rfl
@[simp] theorem State.updQuad_ltabs (s : State) (k : Nat) (f : Quad → Quad) : (s.updQuad k f).ltabs = s.ltabs := rfl
@[simp] theorem State.setQuad_doubles (s : State) (k : Nat) (x : Quad) : (s.setQuad k x).doubles = s.doubles := rfl
@[simp] theorem State.setQuad_parked (s : State) (k : Nat) (x : Quad) : (s.setQuad k x).parked = s.parked := rfl
@[simp] theorem State.updQuad_doubles (s : State) (k : Nat) (f : Quad → Quad) : (s.updQuad k f).doubles = s.doubles := rfl
@[simp] theorem State.updQuad_parked (s : State) (k : Nat) (f : Quad → Quad) : (s.updQuad k f).parked = s.parked := rfl
@[simp] theorem State.setQuad_chanFaults (s : State) (k : Nat) (x : Quad) : (s.setQuad k x).chanFaults = s.chanFaults := rfl
@[simp] theorem State.updQuad_chanFaults (s : State) (k : Nat) (f : Quad → Quad) : (s.updQuad k f).chanFaults = s.chanFaults := rfl
@[simp] theorem State.setQuad_spillPops (s : State) (k : Nat) (x : Quad) : (s.setQuad k x).spillPops = s.spillPops := rfl
@[simp] theorem State.setQuad_wordQueue (s : State) (k : Nat) (x : Quad) : (s.setQuad k x).wordQueue = s.wordQueue := rfl
@[simp] theorem State.updQuad_spillPops (s : State) (k : Nat) (f : Quad → Quad) : (s.updQuad k f).spillPops = s.spillPops := rfl
@[simp] theorem State.updQuad_wordQueue (s : State) (k : Nat) (f : Quad → Quad) : (s.updQuad k f).wordQueue = s.wordQueue := rfl
@[simp] theorem State.slot_setQuad (s : State) (k n : Nat) (x : Quad) : (s.setQuad k x).slot n = s.slot n := rfl
@[simp] theorem State.slot_updQuad (s : State) (k n : Nat) (f : Quad → Quad) : (s.updQuad k f).slot n = s.slot n := rfl
@[simp] theorem State.core_setQuad (s : State) (k n : Nat) (x : Quad) : (s.setQuad k x).core n = s.core n := rfl
@[simp] theorem State.core_updQuad (s : State) (k n : Nat) (f : Quad → Quad) : (s.updQuad k f).core n = s.core n := rfl
@[simp] theorem State.part_setQuad (s : State) (k n : Nat) (x : Quad) : (s.setQuad k x).part n = s.part n := rfl
@[simp] theorem State.part_updQuad (s : State) (k n : Nat) (f : Quad → Quad) : (s.updQuad k f).part n = s.part n := rfl
@[simp] theorem State.region_setQuad (s : State) (k n : Nat) (x : Quad) : (s.setQuad k x).region n = s.region n := rfl
@[simp] theorem State.region_updQuad (s : State) (k n : Nat) (f : Quad → Quad) : (s.updQuad k f).region n = s.region n := rfl
@[simp] theorem State.vf_setQuad (s : State) (k n : Nat) (x : Quad) : (s.setQuad k x).vf n = s.vf n := rfl
@[simp] theorem State.vf_updQuad (s : State) (k n : Nat) (f : Quad → Quad) : (s.updQuad k f).vf n = s.vf n := rfl

/-! ## parts -/

theorem State.part_setPart (s : State) (k n : Nat) (x : Part) : (s.setPart k x).part n = if n = k then x else s.part n := by
  simp [State.part, State.setPart, FMap.get_set]
@[simp] theorem State.part_setPart_same (s : State) (k : Nat) (x : Part) : (s.setPart k x).part k = x := by simp [State.part_setPart]
theorem State.part_updPart (s : State) (k n : Nat) (f : Part → Part) :
    (s.updPart k f).part n = if n = k then f (s.part k) else s.part n := by simp [State.updPart, State.part_setPart]
@[simp] theorem State.part_updPart_same (s : State) (k : Nat) (f : Part → Part) : (s.updPart k f).part k = f (s.part k) := by
  simp [State.updPart]
theorem State.part_updPart_ne (s : State) (k n : Nat) (f : Part → Part) (h : n ≠ k) : (s.updPart k f).part n = s.part n := by
  simp [State.part_updPart, h]

@[simp] theorem State.setPart_cur (s : State) (k : Nat) (x : Part) : (s.setPart k x).cur = s.cur := rfl
@[simp] theorem State.updPart_cur (s : State) (k : Nat) (f : Part → Part) : (s.updPart k f).cur = s.cur := rfl
@[simp] theorem State.setPart_sched (s : State) (k : Nat) (x : Part) : (s.setPart k x).sched = s.sched := rfl
@[simp] theorem State.updPart_sched (s : State) (k : Nat) (f : Part → Part) : (s.updPart k f).sched = s.sched := rfl
@[simp] theorem State.setPart_free (s : State) (k : Nat) (x : Part) : (s.setPart k x).free = s.free := rfl
@[simp] theorem State.updPart_free (s : State) (k : Nat) (f : Part → Part) : (s.updPart k f).free = s.free := rfl
@[simp] theorem State.setPart_ids (s : State) (k : Nat) (x : Part) : (s.setPart k x).ids = s.ids := rfl
@[simp] theorem State.updPart_ids (s : State) (k : Nat) (f : Part → Part) : (s.updPart k f).ids = s.ids := rfl
@[simp] theorem State.setPart_mem (s : State) (k : Nat) (x : Part) : (s.setPart k x).mem = s.mem := rfl
@[simp] theorem State.updPart_mem (s : State) (k : Nat) (f : Part → Part) : (s.updPart k f).mem = s.mem := rfl
@[simp] theorem State.setPart_fe (s : State) (k : Nat) (x : Part) : (s.setPart k x).fe = s.fe := rfl
@[simp] theorem State.updPart_fe (s : State) (k : Nat) (f : Part → Part) : (s.updPart k f).fe = s.fe := rfl
@[simp] theorem State.setPart_slots (s : State) (k : Nat) (x : Part) : (s.setPart k x).slots = s.slots := rfl
@[simp] theorem State.updPart_slots (s : State) (k : Nat) (f : Part → Part) : (s.updPart k f).slots = s.slots := rfl
@[simp] theorem State.setPart_cores (s : State) (k : Nat) (x : Part) : (s.setPart k x).cores = s.cores := rfl
@[simp] theorem State.updPart_cores (s : State) (k : Nat) (f : Part → Part) : (s.updPart k f).cores = s.cores := rfl
@[simp] theorem State.setPart_quads (s : State) (k : Nat) (x : Part) : (s.setPart k x).quads = s.quads := rfl
@[simp] theorem State.updPart_quads (s : State) (k : Nat) (f : Part → Part) : (s.updPart k f).quads = s.quads := rfl
@[simp] theorem State.setPart_regions (s : State) (k : Nat) (x : Part) : (s.setPart k x).regions = s.regions := rfl
@[simp] theorem State.updPart_regions (s : State) (k : Nat) (f : Part → Part) : (s.updPart k f).regions = s.regions := rfl
@[simp] theorem State.setPart_vfs (s : State) (k : Nat) (x : Part) : (s.setPart k x).vfs = s.vfs := rfl
@[simp] theorem State.updPart_vfs (s : State) (k : Nat) (f : Part → Part) : (s.updPart k f).vfs = s.vfs := rfl
@[simp] theorem State.setPart_panel (s : State) (k : Nat) (x : Part) : (s.setPart k x).panel = s.panel := rfl
@[simp] theorem State.updPart_panel (s : State) (k : Nat) (f : Part → Part) : (s.updPart k f).panel = s.panel := rfl
@[simp] theorem State.setPart_tlb (s : State) (k : Nat) (x : Part) : (s.setPart k x).tlb = s.tlb := rfl
@[simp] theorem State.updPart_tlb (s : State) (k : Nat) (f : Part → Part) : (s.updPart k f).tlb = s.tlb := rfl
@[simp] theorem State.setPart_dieLines (s : State) (k : Nat) (x : Part) : (s.setPart k x).dieLines = s.dieLines := rfl
@[simp] theorem State.updPart_dieLines (s : State) (k : Nat) (f : Part → Part) : (s.updPart k f).dieLines = s.dieLines := rfl
@[simp] theorem State.setPart_owners (s : State) (k : Nat) (x : Part) : (s.setPart k x).owners = s.owners := rfl
@[simp] theorem State.updPart_owners (s : State) (k : Nat) (f : Part → Part) : (s.updPart k f).owners = s.owners := rfl
@[simp] theorem State.setPart_homeLast (s : State) (k : Nat) (x : Part) : (s.setPart k x).homeLast = s.homeLast := rfl
@[simp] theorem State.updPart_homeLast (s : State) (k : Nat) (f : Part → Part) : (s.updPart k f).homeLast = s.homeLast := rfl
@[simp] theorem State.setPart_place (s : State) (k : Nat) (x : Part) : (s.setPart k x).place = s.place := rfl
@[simp] theorem State.updPart_place (s : State) (k : Nat) (f : Part → Part) : (s.updPart k f).place = s.place := rfl
@[simp] theorem State.setPart_flights (s : State) (k : Nat) (x : Part) : (s.setPart k x).flights = s.flights := rfl
@[simp] theorem State.updPart_flights (s : State) (k : Nat) (f : Part → Part) : (s.updPart k f).flights = s.flights := rfl
@[simp] theorem State.setPart_groups (s : State) (k : Nat) (x : Part) : (s.setPart k x).groups = s.groups := rfl
@[simp] theorem State.updPart_groups (s : State) (k : Nat) (f : Part → Part) : (s.updPart k f).groups = s.groups := rfl
@[simp] theorem State.setPart_wakes (s : State) (k : Nat) (x : Part) : (s.setPart k x).wakes = s.wakes := rfl
@[simp] theorem State.updPart_wakes (s : State) (k : Nat) (f : Part → Part) : (s.updPart k f).wakes = s.wakes := rfl
@[simp] theorem State.setPart_pushes (s : State) (k : Nat) (x : Part) : (s.setPart k x).pushes = s.pushes := rfl
@[simp] theorem State.updPart_pushes (s : State) (k : Nat) (f : Part → Part) : (s.updPart k f).pushes = s.pushes := rfl
@[simp] theorem State.setPart_probes (s : State) (k : Nat) (x : Part) : (s.setPart k x).probes = s.probes := rfl
@[simp] theorem State.updPart_probes (s : State) (k : Nat) (f : Part → Part) : (s.updPart k f).probes = s.probes := rfl
@[simp] theorem State.setPart_msgs (s : State) (k : Nat) (x : Part) : (s.setPart k x).msgs = s.msgs := rfl
@[simp] theorem State.updPart_msgs (s : State) (k : Nat) (f : Part → Part) : (s.updPart k f).msgs = s.msgs := rfl
@[simp] theorem State.setPart_packets (s : State) (k : Nat) (x : Part) : (s.setPart k x).packets = s.packets := rfl
@[simp] theorem State.updPart_packets (s : State) (k : Nat) (f : Part → Part) : (s.updPart k f).packets = s.packets := rfl
@[simp] theorem State.setPart_flits (s : State) (k : Nat) (x : Part) : (s.setPart k x).flits = s.flits := rfl
@[simp] theorem State.updPart_flits (s : State) (k : Nat) (f : Part → Part) : (s.updPart k f).flits = s.flits := rfl
@[simp] theorem State.setPart_ctrl (s : State) (k : Nat) (x : Part) : (s.setPart k x).ctrl = s.ctrl := rfl
@[simp] theorem State.updPart_ctrl (s : State) (k : Nat) (f : Part → Part) : (s.updPart k f).ctrl = s.ctrl := rfl
@[simp] theorem State.setPart_redPairs (s : State) (k : Nat) (x : Part) : (s.setPart k x).redPairs = s.redPairs := rfl
@[simp] theorem State.updPart_redPairs (s : State) (k : Nat) (f : Part → Part) : (s.updPart k f).redPairs = s.redPairs := rfl
@[simp] theorem State.setPart_redHolds (s : State) (k : Nat) (x : Part) : (s.setPart k x).redHolds = s.redHolds := rfl
@[simp] theorem State.updPart_redHolds (s : State) (k : Nat) (f : Part → Part) : (s.updPart k f).redHolds = s.redHolds := rfl
@[simp] theorem State.setPart_changes (s : State) (k : Nat) (x : Part) : (s.setPart k x).changes = s.changes := rfl
@[simp] theorem State.updPart_changes (s : State) (k : Nat) (f : Part → Part) : (s.updPart k f).changes = s.changes := rfl
@[simp] theorem State.setPart_launches (s : State) (k : Nat) (x : Part) : (s.setPart k x).launches = s.launches := rfl
@[simp] theorem State.updPart_launches (s : State) (k : Nat) (f : Part → Part) : (s.updPart k f).launches = s.launches := rfl
@[simp] theorem State.setPart_moves (s : State) (k : Nat) (x : Part) : (s.setPart k x).moves = s.moves := rfl
@[simp] theorem State.updPart_moves (s : State) (k : Nat) (f : Part → Part) : (s.updPart k f).moves = s.moves := rfl
@[simp] theorem State.setPart_ltabs (s : State) (k : Nat) (x : Part) : (s.setPart k x).ltabs = s.ltabs := rfl
@[simp] theorem State.updPart_ltabs (s : State) (k : Nat) (f : Part → Part) : (s.updPart k f).ltabs = s.ltabs := rfl
@[simp] theorem State.setPart_doubles (s : State) (k : Nat) (x : Part) : (s.setPart k x).doubles = s.doubles := rfl
@[simp] theorem State.setPart_parked (s : State) (k : Nat) (x : Part) : (s.setPart k x).parked = s.parked := rfl
@[simp] theorem State.updPart_doubles (s : State) (k : Nat) (f : Part → Part) : (s.updPart k f).doubles = s.doubles := rfl
@[simp] theorem State.updPart_parked (s : State) (k : Nat) (f : Part → Part) : (s.updPart k f).parked = s.parked := rfl
@[simp] theorem State.setPart_chanFaults (s : State) (k : Nat) (x : Part) : (s.setPart k x).chanFaults = s.chanFaults := rfl
@[simp] theorem State.updPart_chanFaults (s : State) (k : Nat) (f : Part → Part) : (s.updPart k f).chanFaults = s.chanFaults := rfl
@[simp] theorem State.setPart_spillPops (s : State) (k : Nat) (x : Part) : (s.setPart k x).spillPops = s.spillPops := rfl
@[simp] theorem State.setPart_wordQueue (s : State) (k : Nat) (x : Part) : (s.setPart k x).wordQueue = s.wordQueue := rfl
@[simp] theorem State.updPart_spillPops (s : State) (k : Nat) (f : Part → Part) : (s.updPart k f).spillPops = s.spillPops := rfl
@[simp] theorem State.updPart_wordQueue (s : State) (k : Nat) (f : Part → Part) : (s.updPart k f).wordQueue = s.wordQueue := rfl
@[simp] theorem State.slot_setPart (s : State) (k n : Nat) (x : Part) : (s.setPart k x).slot n = s.slot n := rfl
@[simp] theorem State.slot_updPart (s : State) (k n : Nat) (f : Part → Part) : (s.updPart k f).slot n = s.slot n := rfl
@[simp] theorem State.core_setPart (s : State) (k n : Nat) (x : Part) : (s.setPart k x).core n = s.core n := rfl
@[simp] theorem State.core_updPart (s : State) (k n : Nat) (f : Part → Part) : (s.updPart k f).core n = s.core n := rfl
@[simp] theorem State.quad_setPart (s : State) (k n : Nat) (x : Part) : (s.setPart k x).quad n = s.quad n := rfl
@[simp] theorem State.quad_updPart (s : State) (k n : Nat) (f : Part → Part) : (s.updPart k f).quad n = s.quad n := rfl
@[simp] theorem State.region_setPart (s : State) (k n : Nat) (x : Part) : (s.setPart k x).region n = s.region n := rfl
@[simp] theorem State.region_updPart (s : State) (k n : Nat) (f : Part → Part) : (s.updPart k f).region n = s.region n := rfl
@[simp] theorem State.vf_setPart (s : State) (k n : Nat) (x : Part) : (s.setPart k x).vf n = s.vf n := rfl
@[simp] theorem State.vf_updPart (s : State) (k n : Nat) (f : Part → Part) : (s.updPart k f).vf n = s.vf n := rfl

/-! ## regions -/

theorem State.region_setRegion (s : State) (k n : Nat) (x : Region) : (s.setRegion k x).region n = if n = k then x else s.region n := by
  simp [State.region, State.setRegion, FMap.get_set]
@[simp] theorem State.region_setRegion_same (s : State) (k : Nat) (x : Region) : (s.setRegion k x).region k = x := by simp [State.region_setRegion]
theorem State.region_updRegion (s : State) (k n : Nat) (f : Region → Region) :
    (s.updRegion k f).region n = if n = k then f (s.region k) else s.region n := by simp [State.updRegion, State.region_setRegion]
@[simp] theorem State.region_updRegion_same (s : State) (k : Nat) (f : Region → Region) : (s.updRegion k f).region k = f (s.region k) := by
  simp [State.updRegion]
theorem State.region_updRegion_ne (s : State) (k n : Nat) (f : Region → Region) (h : n ≠ k) : (s.updRegion k f).region n = s.region n := by
  simp [State.region_updRegion, h]

@[simp] theorem State.setRegion_cur (s : State) (k : Nat) (x : Region) : (s.setRegion k x).cur = s.cur := rfl
@[simp] theorem State.updRegion_cur (s : State) (k : Nat) (f : Region → Region) : (s.updRegion k f).cur = s.cur := rfl
@[simp] theorem State.setRegion_sched (s : State) (k : Nat) (x : Region) : (s.setRegion k x).sched = s.sched := rfl
@[simp] theorem State.updRegion_sched (s : State) (k : Nat) (f : Region → Region) : (s.updRegion k f).sched = s.sched := rfl
@[simp] theorem State.setRegion_free (s : State) (k : Nat) (x : Region) : (s.setRegion k x).free = s.free := rfl
@[simp] theorem State.updRegion_free (s : State) (k : Nat) (f : Region → Region) : (s.updRegion k f).free = s.free := rfl
@[simp] theorem State.setRegion_ids (s : State) (k : Nat) (x : Region) : (s.setRegion k x).ids = s.ids := rfl
@[simp] theorem State.updRegion_ids (s : State) (k : Nat) (f : Region → Region) : (s.updRegion k f).ids = s.ids := rfl
@[simp] theorem State.setRegion_mem (s : State) (k : Nat) (x : Region) : (s.setRegion k x).mem = s.mem := rfl
@[simp] theorem State.updRegion_mem (s : State) (k : Nat) (f : Region → Region) : (s.updRegion k f).mem = s.mem := rfl
@[simp] theorem State.setRegion_fe (s : State) (k : Nat) (x : Region) : (s.setRegion k x).fe = s.fe := rfl
@[simp] theorem State.updRegion_fe (s : State) (k : Nat) (f : Region → Region) : (s.updRegion k f).fe = s.fe := rfl
@[simp] theorem State.setRegion_slots (s : State) (k : Nat) (x : Region) : (s.setRegion k x).slots = s.slots := rfl
@[simp] theorem State.updRegion_slots (s : State) (k : Nat) (f : Region → Region) : (s.updRegion k f).slots = s.slots := rfl
@[simp] theorem State.setRegion_cores (s : State) (k : Nat) (x : Region) : (s.setRegion k x).cores = s.cores := rfl
@[simp] theorem State.updRegion_cores (s : State) (k : Nat) (f : Region → Region) : (s.updRegion k f).cores = s.cores := rfl
@[simp] theorem State.setRegion_quads (s : State) (k : Nat) (x : Region) : (s.setRegion k x).quads = s.quads := rfl
@[simp] theorem State.updRegion_quads (s : State) (k : Nat) (f : Region → Region) : (s.updRegion k f).quads = s.quads := rfl
@[simp] theorem State.setRegion_parts (s : State) (k : Nat) (x : Region) : (s.setRegion k x).parts = s.parts := rfl
@[simp] theorem State.updRegion_parts (s : State) (k : Nat) (f : Region → Region) : (s.updRegion k f).parts = s.parts := rfl
@[simp] theorem State.setRegion_vfs (s : State) (k : Nat) (x : Region) : (s.setRegion k x).vfs = s.vfs := rfl
@[simp] theorem State.updRegion_vfs (s : State) (k : Nat) (f : Region → Region) : (s.updRegion k f).vfs = s.vfs := rfl
@[simp] theorem State.setRegion_panel (s : State) (k : Nat) (x : Region) : (s.setRegion k x).panel = s.panel := rfl
@[simp] theorem State.updRegion_panel (s : State) (k : Nat) (f : Region → Region) : (s.updRegion k f).panel = s.panel := rfl
@[simp] theorem State.setRegion_tlb (s : State) (k : Nat) (x : Region) : (s.setRegion k x).tlb = s.tlb := rfl
@[simp] theorem State.updRegion_tlb (s : State) (k : Nat) (f : Region → Region) : (s.updRegion k f).tlb = s.tlb := rfl
@[simp] theorem State.setRegion_dieLines (s : State) (k : Nat) (x : Region) : (s.setRegion k x).dieLines = s.dieLines := rfl
@[simp] theorem State.updRegion_dieLines (s : State) (k : Nat) (f : Region → Region) : (s.updRegion k f).dieLines = s.dieLines := rfl
@[simp] theorem State.setRegion_owners (s : State) (k : Nat) (x : Region) : (s.setRegion k x).owners = s.owners := rfl
@[simp] theorem State.updRegion_owners (s : State) (k : Nat) (f : Region → Region) : (s.updRegion k f).owners = s.owners := rfl
@[simp] theorem State.setRegion_homeLast (s : State) (k : Nat) (x : Region) : (s.setRegion k x).homeLast = s.homeLast := rfl
@[simp] theorem State.updRegion_homeLast (s : State) (k : Nat) (f : Region → Region) : (s.updRegion k f).homeLast = s.homeLast := rfl
@[simp] theorem State.setRegion_place (s : State) (k : Nat) (x : Region) : (s.setRegion k x).place = s.place := rfl
@[simp] theorem State.updRegion_place (s : State) (k : Nat) (f : Region → Region) : (s.updRegion k f).place = s.place := rfl
@[simp] theorem State.setRegion_flights (s : State) (k : Nat) (x : Region) : (s.setRegion k x).flights = s.flights := rfl
@[simp] theorem State.updRegion_flights (s : State) (k : Nat) (f : Region → Region) : (s.updRegion k f).flights = s.flights := rfl
@[simp] theorem State.setRegion_groups (s : State) (k : Nat) (x : Region) : (s.setRegion k x).groups = s.groups := rfl
@[simp] theorem State.updRegion_groups (s : State) (k : Nat) (f : Region → Region) : (s.updRegion k f).groups = s.groups := rfl
@[simp] theorem State.setRegion_wakes (s : State) (k : Nat) (x : Region) : (s.setRegion k x).wakes = s.wakes := rfl
@[simp] theorem State.updRegion_wakes (s : State) (k : Nat) (f : Region → Region) : (s.updRegion k f).wakes = s.wakes := rfl
@[simp] theorem State.setRegion_pushes (s : State) (k : Nat) (x : Region) : (s.setRegion k x).pushes = s.pushes := rfl
@[simp] theorem State.updRegion_pushes (s : State) (k : Nat) (f : Region → Region) : (s.updRegion k f).pushes = s.pushes := rfl
@[simp] theorem State.setRegion_probes (s : State) (k : Nat) (x : Region) : (s.setRegion k x).probes = s.probes := rfl
@[simp] theorem State.updRegion_probes (s : State) (k : Nat) (f : Region → Region) : (s.updRegion k f).probes = s.probes := rfl
@[simp] theorem State.setRegion_msgs (s : State) (k : Nat) (x : Region) : (s.setRegion k x).msgs = s.msgs := rfl
@[simp] theorem State.updRegion_msgs (s : State) (k : Nat) (f : Region → Region) : (s.updRegion k f).msgs = s.msgs := rfl
@[simp] theorem State.setRegion_packets (s : State) (k : Nat) (x : Region) : (s.setRegion k x).packets = s.packets := rfl
@[simp] theorem State.updRegion_packets (s : State) (k : Nat) (f : Region → Region) : (s.updRegion k f).packets = s.packets := rfl
@[simp] theorem State.setRegion_flits (s : State) (k : Nat) (x : Region) : (s.setRegion k x).flits = s.flits := rfl
@[simp] theorem State.updRegion_flits (s : State) (k : Nat) (f : Region → Region) : (s.updRegion k f).flits = s.flits := rfl
@[simp] theorem State.setRegion_ctrl (s : State) (k : Nat) (x : Region) : (s.setRegion k x).ctrl = s.ctrl := rfl
@[simp] theorem State.updRegion_ctrl (s : State) (k : Nat) (f : Region → Region) : (s.updRegion k f).ctrl = s.ctrl := rfl
@[simp] theorem State.setRegion_redPairs (s : State) (k : Nat) (x : Region) : (s.setRegion k x).redPairs = s.redPairs := rfl
@[simp] theorem State.updRegion_redPairs (s : State) (k : Nat) (f : Region → Region) : (s.updRegion k f).redPairs = s.redPairs := rfl
@[simp] theorem State.setRegion_redHolds (s : State) (k : Nat) (x : Region) : (s.setRegion k x).redHolds = s.redHolds := rfl
@[simp] theorem State.updRegion_redHolds (s : State) (k : Nat) (f : Region → Region) : (s.updRegion k f).redHolds = s.redHolds := rfl
@[simp] theorem State.setRegion_changes (s : State) (k : Nat) (x : Region) : (s.setRegion k x).changes = s.changes := rfl
@[simp] theorem State.updRegion_changes (s : State) (k : Nat) (f : Region → Region) : (s.updRegion k f).changes = s.changes := rfl
@[simp] theorem State.setRegion_launches (s : State) (k : Nat) (x : Region) : (s.setRegion k x).launches = s.launches := rfl
@[simp] theorem State.updRegion_launches (s : State) (k : Nat) (f : Region → Region) : (s.updRegion k f).launches = s.launches := rfl
@[simp] theorem State.setRegion_moves (s : State) (k : Nat) (x : Region) : (s.setRegion k x).moves = s.moves := rfl
@[simp] theorem State.updRegion_moves (s : State) (k : Nat) (f : Region → Region) : (s.updRegion k f).moves = s.moves := rfl
@[simp] theorem State.setRegion_ltabs (s : State) (k : Nat) (x : Region) : (s.setRegion k x).ltabs = s.ltabs := rfl
@[simp] theorem State.updRegion_ltabs (s : State) (k : Nat) (f : Region → Region) : (s.updRegion k f).ltabs = s.ltabs := rfl
@[simp] theorem State.setRegion_doubles (s : State) (k : Nat) (x : Region) : (s.setRegion k x).doubles = s.doubles := rfl
@[simp] theorem State.setRegion_parked (s : State) (k : Nat) (x : Region) : (s.setRegion k x).parked = s.parked := rfl
@[simp] theorem State.updRegion_doubles (s : State) (k : Nat) (f : Region → Region) : (s.updRegion k f).doubles = s.doubles := rfl
@[simp] theorem State.updRegion_parked (s : State) (k : Nat) (f : Region → Region) : (s.updRegion k f).parked = s.parked := rfl
@[simp] theorem State.setRegion_chanFaults (s : State) (k : Nat) (x : Region) : (s.setRegion k x).chanFaults = s.chanFaults := rfl
@[simp] theorem State.updRegion_chanFaults (s : State) (k : Nat) (f : Region → Region) : (s.updRegion k f).chanFaults = s.chanFaults := rfl
@[simp] theorem State.setRegion_spillPops (s : State) (k : Nat) (x : Region) : (s.setRegion k x).spillPops = s.spillPops := rfl
@[simp] theorem State.setRegion_wordQueue (s : State) (k : Nat) (x : Region) : (s.setRegion k x).wordQueue = s.wordQueue := rfl
@[simp] theorem State.updRegion_spillPops (s : State) (k : Nat) (f : Region → Region) : (s.updRegion k f).spillPops = s.spillPops := rfl
@[simp] theorem State.updRegion_wordQueue (s : State) (k : Nat) (f : Region → Region) : (s.updRegion k f).wordQueue = s.wordQueue := rfl
@[simp] theorem State.slot_setRegion (s : State) (k n : Nat) (x : Region) : (s.setRegion k x).slot n = s.slot n := rfl
@[simp] theorem State.slot_updRegion (s : State) (k n : Nat) (f : Region → Region) : (s.updRegion k f).slot n = s.slot n := rfl
@[simp] theorem State.core_setRegion (s : State) (k n : Nat) (x : Region) : (s.setRegion k x).core n = s.core n := rfl
@[simp] theorem State.core_updRegion (s : State) (k n : Nat) (f : Region → Region) : (s.updRegion k f).core n = s.core n := rfl
@[simp] theorem State.quad_setRegion (s : State) (k n : Nat) (x : Region) : (s.setRegion k x).quad n = s.quad n := rfl
@[simp] theorem State.quad_updRegion (s : State) (k n : Nat) (f : Region → Region) : (s.updRegion k f).quad n = s.quad n := rfl
@[simp] theorem State.part_setRegion (s : State) (k n : Nat) (x : Region) : (s.setRegion k x).part n = s.part n := rfl
@[simp] theorem State.part_updRegion (s : State) (k n : Nat) (f : Region → Region) : (s.updRegion k f).part n = s.part n := rfl
@[simp] theorem State.vf_setRegion (s : State) (k n : Nat) (x : Region) : (s.setRegion k x).vf n = s.vf n := rfl
@[simp] theorem State.vf_updRegion (s : State) (k n : Nat) (f : Region → Region) : (s.updRegion k f).vf n = s.vf n := rfl

/-! ## vfs -/

theorem State.vf_setVf (s : State) (k n : Nat) (x : Vf) : (s.setVf k x).vf n = if n = k then x else s.vf n := by
  simp [State.vf, State.setVf, FMap.get_set]
@[simp] theorem State.vf_setVf_same (s : State) (k : Nat) (x : Vf) : (s.setVf k x).vf k = x := by simp [State.vf_setVf]
theorem State.vf_updVf (s : State) (k n : Nat) (f : Vf → Vf) :
    (s.updVf k f).vf n = if n = k then f (s.vf k) else s.vf n := by simp [State.updVf, State.vf_setVf]
@[simp] theorem State.vf_updVf_same (s : State) (k : Nat) (f : Vf → Vf) : (s.updVf k f).vf k = f (s.vf k) := by
  simp [State.updVf]
theorem State.vf_updVf_ne (s : State) (k n : Nat) (f : Vf → Vf) (h : n ≠ k) : (s.updVf k f).vf n = s.vf n := by
  simp [State.vf_updVf, h]

@[simp] theorem State.setVf_cur (s : State) (k : Nat) (x : Vf) : (s.setVf k x).cur = s.cur := rfl
@[simp] theorem State.updVf_cur (s : State) (k : Nat) (f : Vf → Vf) : (s.updVf k f).cur = s.cur := rfl
@[simp] theorem State.setVf_sched (s : State) (k : Nat) (x : Vf) : (s.setVf k x).sched = s.sched := rfl
@[simp] theorem State.updVf_sched (s : State) (k : Nat) (f : Vf → Vf) : (s.updVf k f).sched = s.sched := rfl
@[simp] theorem State.setVf_free (s : State) (k : Nat) (x : Vf) : (s.setVf k x).free = s.free := rfl
@[simp] theorem State.updVf_free (s : State) (k : Nat) (f : Vf → Vf) : (s.updVf k f).free = s.free := rfl
@[simp] theorem State.setVf_ids (s : State) (k : Nat) (x : Vf) : (s.setVf k x).ids = s.ids := rfl
@[simp] theorem State.updVf_ids (s : State) (k : Nat) (f : Vf → Vf) : (s.updVf k f).ids = s.ids := rfl
@[simp] theorem State.setVf_mem (s : State) (k : Nat) (x : Vf) : (s.setVf k x).mem = s.mem := rfl
@[simp] theorem State.updVf_mem (s : State) (k : Nat) (f : Vf → Vf) : (s.updVf k f).mem = s.mem := rfl
@[simp] theorem State.setVf_fe (s : State) (k : Nat) (x : Vf) : (s.setVf k x).fe = s.fe := rfl
@[simp] theorem State.updVf_fe (s : State) (k : Nat) (f : Vf → Vf) : (s.updVf k f).fe = s.fe := rfl
@[simp] theorem State.setVf_slots (s : State) (k : Nat) (x : Vf) : (s.setVf k x).slots = s.slots := rfl
@[simp] theorem State.updVf_slots (s : State) (k : Nat) (f : Vf → Vf) : (s.updVf k f).slots = s.slots := rfl
@[simp] theorem State.setVf_cores (s : State) (k : Nat) (x : Vf) : (s.setVf k x).cores = s.cores := rfl
@[simp] theorem State.updVf_cores (s : State) (k : Nat) (f : Vf → Vf) : (s.updVf k f).cores = s.cores := rfl
@[simp] theorem State.setVf_quads (s : State) (k : Nat) (x : Vf) : (s.setVf k x).quads = s.quads := rfl
@[simp] theorem State.updVf_quads (s : State) (k : Nat) (f : Vf → Vf) : (s.updVf k f).quads = s.quads := rfl
@[simp] theorem State.setVf_parts (s : State) (k : Nat) (x : Vf) : (s.setVf k x).parts = s.parts := rfl
@[simp] theorem State.updVf_parts (s : State) (k : Nat) (f : Vf → Vf) : (s.updVf k f).parts = s.parts := rfl
@[simp] theorem State.setVf_regions (s : State) (k : Nat) (x : Vf) : (s.setVf k x).regions = s.regions := rfl
@[simp] theorem State.updVf_regions (s : State) (k : Nat) (f : Vf → Vf) : (s.updVf k f).regions = s.regions := rfl
@[simp] theorem State.setVf_panel (s : State) (k : Nat) (x : Vf) : (s.setVf k x).panel = s.panel := rfl
@[simp] theorem State.updVf_panel (s : State) (k : Nat) (f : Vf → Vf) : (s.updVf k f).panel = s.panel := rfl
@[simp] theorem State.setVf_tlb (s : State) (k : Nat) (x : Vf) : (s.setVf k x).tlb = s.tlb := rfl
@[simp] theorem State.updVf_tlb (s : State) (k : Nat) (f : Vf → Vf) : (s.updVf k f).tlb = s.tlb := rfl
@[simp] theorem State.setVf_dieLines (s : State) (k : Nat) (x : Vf) : (s.setVf k x).dieLines = s.dieLines := rfl
@[simp] theorem State.updVf_dieLines (s : State) (k : Nat) (f : Vf → Vf) : (s.updVf k f).dieLines = s.dieLines := rfl
@[simp] theorem State.setVf_owners (s : State) (k : Nat) (x : Vf) : (s.setVf k x).owners = s.owners := rfl
@[simp] theorem State.updVf_owners (s : State) (k : Nat) (f : Vf → Vf) : (s.updVf k f).owners = s.owners := rfl
@[simp] theorem State.setVf_homeLast (s : State) (k : Nat) (x : Vf) : (s.setVf k x).homeLast = s.homeLast := rfl
@[simp] theorem State.updVf_homeLast (s : State) (k : Nat) (f : Vf → Vf) : (s.updVf k f).homeLast = s.homeLast := rfl
@[simp] theorem State.setVf_place (s : State) (k : Nat) (x : Vf) : (s.setVf k x).place = s.place := rfl
@[simp] theorem State.updVf_place (s : State) (k : Nat) (f : Vf → Vf) : (s.updVf k f).place = s.place := rfl
@[simp] theorem State.setVf_flights (s : State) (k : Nat) (x : Vf) : (s.setVf k x).flights = s.flights := rfl
@[simp] theorem State.updVf_flights (s : State) (k : Nat) (f : Vf → Vf) : (s.updVf k f).flights = s.flights := rfl
@[simp] theorem State.setVf_groups (s : State) (k : Nat) (x : Vf) : (s.setVf k x).groups = s.groups := rfl
@[simp] theorem State.updVf_groups (s : State) (k : Nat) (f : Vf → Vf) : (s.updVf k f).groups = s.groups := rfl
@[simp] theorem State.setVf_wakes (s : State) (k : Nat) (x : Vf) : (s.setVf k x).wakes = s.wakes := rfl
@[simp] theorem State.updVf_wakes (s : State) (k : Nat) (f : Vf → Vf) : (s.updVf k f).wakes = s.wakes := rfl
@[simp] theorem State.setVf_pushes (s : State) (k : Nat) (x : Vf) : (s.setVf k x).pushes = s.pushes := rfl
@[simp] theorem State.updVf_pushes (s : State) (k : Nat) (f : Vf → Vf) : (s.updVf k f).pushes = s.pushes := rfl
@[simp] theorem State.setVf_probes (s : State) (k : Nat) (x : Vf) : (s.setVf k x).probes = s.probes := rfl
@[simp] theorem State.updVf_probes (s : State) (k : Nat) (f : Vf → Vf) : (s.updVf k f).probes = s.probes := rfl
@[simp] theorem State.setVf_msgs (s : State) (k : Nat) (x : Vf) : (s.setVf k x).msgs = s.msgs := rfl
@[simp] theorem State.updVf_msgs (s : State) (k : Nat) (f : Vf → Vf) : (s.updVf k f).msgs = s.msgs := rfl
@[simp] theorem State.setVf_packets (s : State) (k : Nat) (x : Vf) : (s.setVf k x).packets = s.packets := rfl
@[simp] theorem State.updVf_packets (s : State) (k : Nat) (f : Vf → Vf) : (s.updVf k f).packets = s.packets := rfl
@[simp] theorem State.setVf_flits (s : State) (k : Nat) (x : Vf) : (s.setVf k x).flits = s.flits := rfl
@[simp] theorem State.updVf_flits (s : State) (k : Nat) (f : Vf → Vf) : (s.updVf k f).flits = s.flits := rfl
@[simp] theorem State.setVf_ctrl (s : State) (k : Nat) (x : Vf) : (s.setVf k x).ctrl = s.ctrl := rfl
@[simp] theorem State.updVf_ctrl (s : State) (k : Nat) (f : Vf → Vf) : (s.updVf k f).ctrl = s.ctrl := rfl
@[simp] theorem State.setVf_redPairs (s : State) (k : Nat) (x : Vf) : (s.setVf k x).redPairs = s.redPairs := rfl
@[simp] theorem State.updVf_redPairs (s : State) (k : Nat) (f : Vf → Vf) : (s.updVf k f).redPairs = s.redPairs := rfl
@[simp] theorem State.setVf_redHolds (s : State) (k : Nat) (x : Vf) : (s.setVf k x).redHolds = s.redHolds := rfl
@[simp] theorem State.updVf_redHolds (s : State) (k : Nat) (f : Vf → Vf) : (s.updVf k f).redHolds = s.redHolds := rfl
@[simp] theorem State.setVf_changes (s : State) (k : Nat) (x : Vf) : (s.setVf k x).changes = s.changes := rfl
@[simp] theorem State.updVf_changes (s : State) (k : Nat) (f : Vf → Vf) : (s.updVf k f).changes = s.changes := rfl
@[simp] theorem State.setVf_launches (s : State) (k : Nat) (x : Vf) : (s.setVf k x).launches = s.launches := rfl
@[simp] theorem State.updVf_launches (s : State) (k : Nat) (f : Vf → Vf) : (s.updVf k f).launches = s.launches := rfl
@[simp] theorem State.setVf_moves (s : State) (k : Nat) (x : Vf) : (s.setVf k x).moves = s.moves := rfl
@[simp] theorem State.updVf_moves (s : State) (k : Nat) (f : Vf → Vf) : (s.updVf k f).moves = s.moves := rfl
@[simp] theorem State.setVf_ltabs (s : State) (k : Nat) (x : Vf) : (s.setVf k x).ltabs = s.ltabs := rfl
@[simp] theorem State.updVf_ltabs (s : State) (k : Nat) (f : Vf → Vf) : (s.updVf k f).ltabs = s.ltabs := rfl
@[simp] theorem State.setVf_doubles (s : State) (k : Nat) (x : Vf) : (s.setVf k x).doubles = s.doubles := rfl
@[simp] theorem State.setVf_parked (s : State) (k : Nat) (x : Vf) : (s.setVf k x).parked = s.parked := rfl
@[simp] theorem State.updVf_doubles (s : State) (k : Nat) (f : Vf → Vf) : (s.updVf k f).doubles = s.doubles := rfl
@[simp] theorem State.updVf_parked (s : State) (k : Nat) (f : Vf → Vf) : (s.updVf k f).parked = s.parked := rfl
@[simp] theorem State.setVf_chanFaults (s : State) (k : Nat) (x : Vf) : (s.setVf k x).chanFaults = s.chanFaults := rfl
@[simp] theorem State.updVf_chanFaults (s : State) (k : Nat) (f : Vf → Vf) : (s.updVf k f).chanFaults = s.chanFaults := rfl
@[simp] theorem State.setVf_spillPops (s : State) (k : Nat) (x : Vf) : (s.setVf k x).spillPops = s.spillPops := rfl
@[simp] theorem State.setVf_wordQueue (s : State) (k : Nat) (x : Vf) : (s.setVf k x).wordQueue = s.wordQueue := rfl
@[simp] theorem State.updVf_spillPops (s : State) (k : Nat) (f : Vf → Vf) : (s.updVf k f).spillPops = s.spillPops := rfl
@[simp] theorem State.updVf_wordQueue (s : State) (k : Nat) (f : Vf → Vf) : (s.updVf k f).wordQueue = s.wordQueue := rfl
@[simp] theorem State.slot_setVf (s : State) (k n : Nat) (x : Vf) : (s.setVf k x).slot n = s.slot n := rfl
@[simp] theorem State.slot_updVf (s : State) (k n : Nat) (f : Vf → Vf) : (s.updVf k f).slot n = s.slot n := rfl
@[simp] theorem State.core_setVf (s : State) (k n : Nat) (x : Vf) : (s.setVf k x).core n = s.core n := rfl
@[simp] theorem State.core_updVf (s : State) (k n : Nat) (f : Vf → Vf) : (s.updVf k f).core n = s.core n := rfl
@[simp] theorem State.quad_setVf (s : State) (k n : Nat) (x : Vf) : (s.setVf k x).quad n = s.quad n := rfl
@[simp] theorem State.quad_updVf (s : State) (k n : Nat) (f : Vf → Vf) : (s.updVf k f).quad n = s.quad n := rfl
@[simp] theorem State.part_setVf (s : State) (k n : Nat) (x : Vf) : (s.setVf k x).part n = s.part n := rfl
@[simp] theorem State.part_updVf (s : State) (k n : Nat) (f : Vf → Vf) : (s.updVf k f).part n = s.part n := rfl
@[simp] theorem State.region_setVf (s : State) (k n : Nat) (x : Vf) : (s.setVf k x).region n = s.region n := rfl
@[simp] theorem State.region_updVf (s : State) (k n : Nat) (f : Vf → Vf) : (s.updVf k f).region n = s.region n := rfl

/-! ## Names and free values -/

@[simp] theorem State.takeId_cur (s : State) : s.takeId.cur = s.cur := rfl
@[simp] theorem State.takeId_sched (s : State) : s.takeId.sched = s.sched := rfl
@[simp] theorem State.takeId_free (s : State) : s.takeId.free = s.free := rfl
@[simp] theorem State.takeId_ids (s : State) : s.takeId.ids = s.ids + 1 := rfl
@[simp] theorem State.takeId_mem (s : State) : s.takeId.mem = s.mem := rfl
@[simp] theorem State.takeId_fe (s : State) : s.takeId.fe = s.fe := rfl
@[simp] theorem State.takeId_slots (s : State) : s.takeId.slots = s.slots := rfl
@[simp] theorem State.takeId_cores (s : State) : s.takeId.cores = s.cores := rfl
@[simp] theorem State.takeId_quads (s : State) : s.takeId.quads = s.quads := rfl
@[simp] theorem State.takeId_parts (s : State) : s.takeId.parts = s.parts := rfl
@[simp] theorem State.takeId_regions (s : State) : s.takeId.regions = s.regions := rfl
@[simp] theorem State.takeId_vfs (s : State) : s.takeId.vfs = s.vfs := rfl
@[simp] theorem State.takeId_panel (s : State) : s.takeId.panel = s.panel := rfl
@[simp] theorem State.takeId_tlb (s : State) : s.takeId.tlb = s.tlb := rfl
@[simp] theorem State.takeId_dieLines (s : State) : s.takeId.dieLines = s.dieLines := rfl
@[simp] theorem State.takeId_owners (s : State) : s.takeId.owners = s.owners := rfl
@[simp] theorem State.takeId_homeLast (s : State) : s.takeId.homeLast = s.homeLast := rfl
@[simp] theorem State.takeId_place (s : State) : s.takeId.place = s.place := rfl
@[simp] theorem State.takeId_flights (s : State) : s.takeId.flights = s.flights := rfl
@[simp] theorem State.takeId_groups (s : State) : s.takeId.groups = s.groups := rfl
@[simp] theorem State.takeId_wakes (s : State) : s.takeId.wakes = s.wakes := rfl
@[simp] theorem State.takeId_pushes (s : State) : s.takeId.pushes = s.pushes := rfl
@[simp] theorem State.takeId_probes (s : State) : s.takeId.probes = s.probes := rfl
@[simp] theorem State.takeId_msgs (s : State) : s.takeId.msgs = s.msgs := rfl
@[simp] theorem State.takeId_packets (s : State) : s.takeId.packets = s.packets := rfl
@[simp] theorem State.takeId_flits (s : State) : s.takeId.flits = s.flits := rfl
@[simp] theorem State.takeId_ctrl (s : State) : s.takeId.ctrl = s.ctrl := rfl
@[simp] theorem State.takeId_redPairs (s : State) : s.takeId.redPairs = s.redPairs := rfl
@[simp] theorem State.takeId_redHolds (s : State) : s.takeId.redHolds = s.redHolds := rfl
@[simp] theorem State.takeId_changes (s : State) : s.takeId.changes = s.changes := rfl
@[simp] theorem State.takeId_launches (s : State) : s.takeId.launches = s.launches := rfl
@[simp] theorem State.takeId_moves (s : State) : s.takeId.moves = s.moves := rfl
@[simp] theorem State.takeId_ltabs (s : State) : s.takeId.ltabs = s.ltabs := rfl
@[simp] theorem State.takeId_doubles (s : State) : s.takeId.doubles = s.doubles := rfl
@[simp] theorem State.takeId_parked (s : State) : s.takeId.parked = s.parked := rfl
@[simp] theorem State.takeId_chanFaults (s : State) : s.takeId.chanFaults = s.chanFaults := rfl
@[simp] theorem State.takeId_spillPops (s : State) : s.takeId.spillPops = s.spillPops := rfl
@[simp] theorem State.takeId_wordQueue (s : State) : s.takeId.wordQueue = s.wordQueue := rfl
@[simp] theorem State.slot_takeId (s : State) (n : Nat) : s.takeId.slot n = s.slot n := rfl
@[simp] theorem State.core_takeId (s : State) (n : Nat) : s.takeId.core n = s.core n := rfl
@[simp] theorem State.quad_takeId (s : State) (n : Nat) : s.takeId.quad n = s.quad n := rfl
@[simp] theorem State.part_takeId (s : State) (n : Nat) : s.takeId.part n = s.part n := rfl
@[simp] theorem State.region_takeId (s : State) (n : Nat) : s.takeId.region n = s.region n := rfl
@[simp] theorem State.vf_takeId (s : State) (n : Nat) : s.takeId.vf n = s.vf n := rfl
@[simp] theorem State.draw_cur (s : State) : s.draw.cur = s.cur := rfl
@[simp] theorem State.draw_sched (s : State) : s.draw.sched = s.sched := rfl
@[simp] theorem State.draw_free (s : State) : s.draw.free = s.free + 1 := rfl
@[simp] theorem State.draw_ids (s : State) : s.draw.ids = s.ids := rfl
@[simp] theorem State.draw_mem (s : State) : s.draw.mem = s.mem := rfl
@[simp] theorem State.draw_fe (s : State) : s.draw.fe = s.fe := rfl
@[simp] theorem State.draw_slots (s : State) : s.draw.slots = s.slots := rfl
@[simp] theorem State.draw_cores (s : State) : s.draw.cores = s.cores := rfl
@[simp] theorem State.draw_quads (s : State) : s.draw.quads = s.quads := rfl
@[simp] theorem State.draw_parts (s : State) : s.draw.parts = s.parts := rfl
@[simp] theorem State.draw_regions (s : State) : s.draw.regions = s.regions := rfl
@[simp] theorem State.draw_vfs (s : State) : s.draw.vfs = s.vfs := rfl
@[simp] theorem State.draw_panel (s : State) : s.draw.panel = s.panel := rfl
@[simp] theorem State.draw_tlb (s : State) : s.draw.tlb = s.tlb := rfl
@[simp] theorem State.draw_dieLines (s : State) : s.draw.dieLines = s.dieLines := rfl
@[simp] theorem State.draw_owners (s : State) : s.draw.owners = s.owners := rfl
@[simp] theorem State.draw_homeLast (s : State) : s.draw.homeLast = s.homeLast := rfl
@[simp] theorem State.draw_place (s : State) : s.draw.place = s.place := rfl
@[simp] theorem State.draw_flights (s : State) : s.draw.flights = s.flights := rfl
@[simp] theorem State.draw_groups (s : State) : s.draw.groups = s.groups := rfl
@[simp] theorem State.draw_wakes (s : State) : s.draw.wakes = s.wakes := rfl
@[simp] theorem State.draw_pushes (s : State) : s.draw.pushes = s.pushes := rfl
@[simp] theorem State.draw_probes (s : State) : s.draw.probes = s.probes := rfl
@[simp] theorem State.draw_msgs (s : State) : s.draw.msgs = s.msgs := rfl
@[simp] theorem State.draw_packets (s : State) : s.draw.packets = s.packets := rfl
@[simp] theorem State.draw_flits (s : State) : s.draw.flits = s.flits := rfl
@[simp] theorem State.draw_ctrl (s : State) : s.draw.ctrl = s.ctrl := rfl
@[simp] theorem State.draw_redPairs (s : State) : s.draw.redPairs = s.redPairs := rfl
@[simp] theorem State.draw_redHolds (s : State) : s.draw.redHolds = s.redHolds := rfl
@[simp] theorem State.draw_changes (s : State) : s.draw.changes = s.changes := rfl
@[simp] theorem State.draw_launches (s : State) : s.draw.launches = s.launches := rfl
@[simp] theorem State.draw_moves (s : State) : s.draw.moves = s.moves := rfl
@[simp] theorem State.draw_ltabs (s : State) : s.draw.ltabs = s.ltabs := rfl
@[simp] theorem State.draw_doubles (s : State) : s.draw.doubles = s.doubles := rfl
@[simp] theorem State.draw_parked (s : State) : s.draw.parked = s.parked := rfl
@[simp] theorem State.draw_chanFaults (s : State) : s.draw.chanFaults = s.chanFaults := rfl
@[simp] theorem State.draw_spillPops (s : State) : s.draw.spillPops = s.spillPops := rfl
@[simp] theorem State.draw_wordQueue (s : State) : s.draw.wordQueue = s.wordQueue := rfl
@[simp] theorem State.slot_draw (s : State) (n : Nat) : s.draw.slot n = s.slot n := rfl
@[simp] theorem State.core_draw (s : State) (n : Nat) : s.draw.core n = s.core n := rfl
@[simp] theorem State.quad_draw (s : State) (n : Nat) : s.draw.quad n = s.quad n := rfl
@[simp] theorem State.part_draw (s : State) (n : Nat) : s.draw.part n = s.part n := rfl
@[simp] theorem State.region_draw (s : State) (n : Nat) : s.draw.region n = s.region n := rfl
@[simp] theorem State.vf_draw (s : State) (n : Nat) : s.draw.vf n = s.vf n := rfl

/-! ## Memory -/

@[simp] theorem State.wrBytes_cur (s : State) (k : Nat) (bs : List Byte) : (s.wrBytes k bs).cur = s.cur := rfl
@[simp] theorem State.wrBytes_sched (s : State) (k : Nat) (bs : List Byte) : (s.wrBytes k bs).sched = s.sched := rfl
@[simp] theorem State.wrBytes_free (s : State) (k : Nat) (bs : List Byte) : (s.wrBytes k bs).free = s.free := rfl
@[simp] theorem State.wrBytes_ids (s : State) (k : Nat) (bs : List Byte) : (s.wrBytes k bs).ids = s.ids := rfl
@[simp] theorem State.wrBytes_fe (s : State) (k : Nat) (bs : List Byte) : (s.wrBytes k bs).fe = s.fe := rfl
@[simp] theorem State.wrBytes_slots (s : State) (k : Nat) (bs : List Byte) : (s.wrBytes k bs).slots = s.slots := rfl
@[simp] theorem State.wrBytes_cores (s : State) (k : Nat) (bs : List Byte) : (s.wrBytes k bs).cores = s.cores := rfl
@[simp] theorem State.wrBytes_quads (s : State) (k : Nat) (bs : List Byte) : (s.wrBytes k bs).quads = s.quads := rfl
@[simp] theorem State.wrBytes_parts (s : State) (k : Nat) (bs : List Byte) : (s.wrBytes k bs).parts = s.parts := rfl
@[simp] theorem State.wrBytes_regions (s : State) (k : Nat) (bs : List Byte) : (s.wrBytes k bs).regions = s.regions := rfl
@[simp] theorem State.wrBytes_vfs (s : State) (k : Nat) (bs : List Byte) : (s.wrBytes k bs).vfs = s.vfs := rfl
@[simp] theorem State.wrBytes_panel (s : State) (k : Nat) (bs : List Byte) : (s.wrBytes k bs).panel = s.panel := rfl
@[simp] theorem State.wrBytes_tlb (s : State) (k : Nat) (bs : List Byte) : (s.wrBytes k bs).tlb = s.tlb := rfl
@[simp] theorem State.wrBytes_dieLines (s : State) (k : Nat) (bs : List Byte) : (s.wrBytes k bs).dieLines = s.dieLines := rfl
@[simp] theorem State.wrBytes_owners (s : State) (k : Nat) (bs : List Byte) : (s.wrBytes k bs).owners = s.owners := rfl
@[simp] theorem State.wrBytes_homeLast (s : State) (k : Nat) (bs : List Byte) : (s.wrBytes k bs).homeLast = s.homeLast := rfl
@[simp] theorem State.wrBytes_place (s : State) (k : Nat) (bs : List Byte) : (s.wrBytes k bs).place = s.place := rfl
@[simp] theorem State.wrBytes_flights (s : State) (k : Nat) (bs : List Byte) : (s.wrBytes k bs).flights = s.flights := rfl
@[simp] theorem State.wrBytes_groups (s : State) (k : Nat) (bs : List Byte) : (s.wrBytes k bs).groups = s.groups := rfl
@[simp] theorem State.wrBytes_wakes (s : State) (k : Nat) (bs : List Byte) : (s.wrBytes k bs).wakes = s.wakes := rfl
@[simp] theorem State.wrBytes_pushes (s : State) (k : Nat) (bs : List Byte) : (s.wrBytes k bs).pushes = s.pushes := rfl
@[simp] theorem State.wrBytes_probes (s : State) (k : Nat) (bs : List Byte) : (s.wrBytes k bs).probes = s.probes := rfl
@[simp] theorem State.wrBytes_msgs (s : State) (k : Nat) (bs : List Byte) : (s.wrBytes k bs).msgs = s.msgs := rfl
@[simp] theorem State.wrBytes_packets (s : State) (k : Nat) (bs : List Byte) : (s.wrBytes k bs).packets = s.packets := rfl
@[simp] theorem State.wrBytes_flits (s : State) (k : Nat) (bs : List Byte) : (s.wrBytes k bs).flits = s.flits := rfl
@[simp] theorem State.wrBytes_ctrl (s : State) (k : Nat) (bs : List Byte) : (s.wrBytes k bs).ctrl = s.ctrl := rfl
@[simp] theorem State.wrBytes_redPairs (s : State) (k : Nat) (bs : List Byte) : (s.wrBytes k bs).redPairs = s.redPairs := rfl
@[simp] theorem State.wrBytes_redHolds (s : State) (k : Nat) (bs : List Byte) : (s.wrBytes k bs).redHolds = s.redHolds := rfl
@[simp] theorem State.wrBytes_changes (s : State) (k : Nat) (bs : List Byte) : (s.wrBytes k bs).changes = s.changes := rfl
@[simp] theorem State.wrBytes_launches (s : State) (k : Nat) (bs : List Byte) : (s.wrBytes k bs).launches = s.launches := rfl
@[simp] theorem State.wrBytes_moves (s : State) (k : Nat) (bs : List Byte) : (s.wrBytes k bs).moves = s.moves := rfl
@[simp] theorem State.wrBytes_ltabs (s : State) (k : Nat) (bs : List Byte) : (s.wrBytes k bs).ltabs = s.ltabs := rfl
@[simp] theorem State.wrBytes_doubles (s : State) (k : Nat) (bs : List Byte) : (s.wrBytes k bs).doubles = s.doubles := rfl
@[simp] theorem State.wrBytes_parked (s : State) (k : Nat) (bs : List Byte) : (s.wrBytes k bs).parked = s.parked := rfl
@[simp] theorem State.wrBytes_chanFaults (s : State) (k : Nat) (bs : List Byte) : (s.wrBytes k bs).chanFaults = s.chanFaults := rfl
@[simp] theorem State.wrBytes_spillPops (s : State) (k : Nat) (bs : List Byte) : (s.wrBytes k bs).spillPops = s.spillPops := rfl
@[simp] theorem State.wrBytes_wordQueue (s : State) (k : Nat) (bs : List Byte) : (s.wrBytes k bs).wordQueue = s.wordQueue := rfl
@[simp] theorem State.slot_wrBytes (s : State) (k n : Nat) (bs : List Byte) : (s.wrBytes k bs).slot n = s.slot n := rfl
@[simp] theorem State.core_wrBytes (s : State) (k n : Nat) (bs : List Byte) : (s.wrBytes k bs).core n = s.core n := rfl
@[simp] theorem State.quad_wrBytes (s : State) (k n : Nat) (bs : List Byte) : (s.wrBytes k bs).quad n = s.quad n := rfl
@[simp] theorem State.part_wrBytes (s : State) (k n : Nat) (bs : List Byte) : (s.wrBytes k bs).part n = s.part n := rfl
@[simp] theorem State.region_wrBytes (s : State) (k n : Nat) (bs : List Byte) : (s.wrBytes k bs).region n = s.region n := rfl
@[simp] theorem State.vf_wrBytes (s : State) (k n : Nat) (bs : List Byte) : (s.wrBytes k bs).vf n = s.vf n := rfl

/-! ## The issuing slot -/

@[simp] theorem State.me_updMe (s : State) (f : Slot → Slot) : (s.updMe f).me = f s.me := by simp [State.updMe, State.me]
@[simp] theorem State.myCore_updMyCore (s : State) (f : Core → Core) : (s.updMyCore f).myCore = f s.myCore := by
  simp [State.updMyCore, State.myCore]
@[simp] theorem State.me_updMyCore (s : State) (f : Core → Core) : (s.updMyCore f).me = s.me := rfl
@[simp] theorem State.myCore_updMe (s : State) (f : Slot → Slot) : (s.updMe f).myCore = s.myCore := rfl
@[simp] theorem State.cur_updMe (s : State) (f : Slot → Slot) : (s.updMe f).cur = s.cur := rfl
@[simp] theorem State.cur_updMyCore (s : State) (f : Core → Core) : (s.updMyCore f).cur = s.cur := rfl
@[simp] theorem State.mem_updMe (s : State) (f : Slot → Slot) : (s.updMe f).mem = s.mem := rfl
@[simp] theorem State.mem_updMyCore (s : State) (f : Core → Core) : (s.updMyCore f).mem = s.mem := rfl

end Sys2Proof.Machine
end

