-- ==== Sys2Proof/Laws/Registers.lean ====
section
/-! SUPPORT. What pops, register writes and the end of a head change and leave (R42, R84, R87 to R89). -/

namespace Sys2Proof.Machine

/-- Anything that one pop keeps, the pops of a head keep. -/
theorem State.popPorts_induct {P : State → Prop} (rs : List Reg)
    (hq : ∀ (s : State) (r : Reg), P s → P (s.updMyCore fun c => portPop c r.toNat))
    (hb : ∀ s : State, P s → P s.basteAfterPop) : ∀ s : State, P s → P (s.popPorts rs) := by
  induction rs with
  | nil => intro s h; exact h
  | cons r rest ih =>
    intro s h
    simp only [State.popPorts, List.foldl_cons]
    refine ih _ ?_
    split
    · split
      · exact hb _ (hq _ _ h)
      · exact hq _ _ h
    · exact h

@[simp] theorem State.popPorts_nil (s : State) : s.popPorts [] = s := rfl

@[simp] theorem State.cur_popPorts (s : State) (rs : List Reg) : (s.popPorts rs).cur = s.cur :=
  State.popPorts_induct (P := fun t => t.cur = s.cur) rs (fun _ _ h => h) (fun _ h => h) s rfl
@[simp] theorem State.mem_popPorts (s : State) (rs : List Reg) : (s.popPorts rs).mem = s.mem :=
  State.popPorts_induct (P := fun t => t.mem = s.mem) rs (fun _ _ h => h) (fun _ h => h) s rfl
@[simp] theorem State.quads_popPorts (s : State) (rs : List Reg) : (s.popPorts rs).quads = s.quads :=
  State.popPorts_induct (P := fun t => t.quads = s.quads) rs (fun _ _ h => h) (fun _ h => h) s rfl
@[simp] theorem State.parts_popPorts (s : State) (rs : List Reg) : (s.popPorts rs).parts = s.parts :=
  State.popPorts_induct (P := fun t => t.parts = s.parts) rs (fun _ _ h => h) (fun _ h => h) s rfl
@[simp] theorem State.regions_popPorts (s : State) (rs : List Reg) : (s.popPorts rs).regions = s.regions :=
  State.popPorts_induct (P := fun t => t.regions = s.regions) rs (fun _ _ h => h) (fun _ h => h) s rfl

theorem State.me_basteAfterPop (s : State) : s.basteAfterPop.me = { s.me with task := s.basteAfterPop.me.task } := by
  simp only [State.basteAfterPop, State.me_updMe]
  split <;> simp [Slot.updTask]

/-- The pops of a head change nothing of its slot but that a checkpoint may be due (R369). -/
theorem State.me_popPorts (s : State) (rs : List Reg) : (s.popPorts rs).me = { s.me with task := (s.popPorts rs).me.task } :=
  State.popPorts_induct (P := fun t => t.me = { s.me with task := t.me.task }) rs
    (fun t r h => by simpa using h) (fun t h => by rw [State.me_basteAfterPop]; rw [h]) s rfl

@[simp] theorem State.sr_popPorts (s : State) (rs : List Reg) : (s.popPorts rs).me.sr = s.me.sr := by rw [State.me_popPorts]
@[simp] theorem State.pc_popPorts (s : State) (rs : List Reg) : (s.popPorts rs).me.pc = s.me.pc := by rw [State.me_popPorts]
@[simp] theorem State.nextPc_popPorts (s : State) (rs : List Reg) : (s.popPorts rs).me.nextPc = s.me.nextPc := by
  rw [State.me_popPorts]; rfl
@[simp] theorem State.optimistic_popPorts (s : State) (rs : List Reg) : (s.popPorts rs).me.optimistic = s.me.optimistic := by
  rw [State.me_popPorts]; rfl
@[simp] theorem State.mayPut_popPorts (s : State) (rs : List Reg) (d : Reg) : (s.popPorts rs).mayPut d = s.mayPut d := by
  simp [State.mayPut]

/-- A result that the slot may write, in its cycle. -/
theorem put_of_mayPut {s : State} {d : Reg} (h : s.mayPut d = true) (v : Word) (lat : Nat) :
    put s d v lat = .next (s.writeReg s.cur d v lat) := by
  simp only [State.mayPut, Bool.not_eq_true', Bool.and_eq_false_iff] at h
  unfold put
  rcases h with h | h <;> simp_all

/-- A head that reads registers and writes one result. -/
theorem runHead_put {u : Use} {s : State} {d : Reg} (h : mayIssue u s = true) (hp : s.mayPut d = true)
    (f : (Reg → Word) → State → Word) (lat : Nat) :
    runHead u s (fun v t => put t d (f v t) lat) = .next (s.wrote u.rd d (f s.operand (s.popPorts u.rd)) lat) := by
  rw [runHead_of_mayIssue h, put_of_mayPut (by simpa using hp)]
  simp [Act.run, State.wrote, State.passed]

end Sys2Proof.Machine
end

