-- ==== Sys2Proof/Laws/Waits.lean ====
section
/-! SUPPORT. Waits that an event ends, owners that an access waits for, and regions whose clock is stopped: what a test of a waiting
slot can do, and what it leaves (R110, R111, R241, R383). -/

namespace Sys2Proof.Machine

/-! ## Waits for a word (R110, R111) -/

/-- A test leaves everything as it is, or ends the wait of its slot and nothing else. -/
theorem State.retestSlot_cases (s : State) (tk : Nat) :
    s.retestSlot tk = s ∨ ∃ k b, (s.slot tk).st = .blocked (.wordNe k b) ∧ s.owned k 8 = false ∧ word (s.wordFor tk k) ≠ b
      ∧ s.retestSlot tk = s.updSlot tk fun x => x.endWait (s.wordFor tk k) := by
  unfold State.retestSlot
  split
  · rename_i k b h
    split
    · exact .inl rfl
    · rename_i hc
      simp only [Bool.or_eq_true, decide_eq_true_eq, not_or, Bool.not_eq_true] at hc
      exact .inr ⟨k, b, h, hc.2, hc.1, rfl⟩
  · exact .inl rfl

/-- Tests change no state but the slots. -/
theorem State.retests_slots (l : List Nat) : ∀ s : State, ∃ m, l.foldl State.retestSlot s = { s with slots := m } := by
  induction l with
  | nil => exact fun s => ⟨s.slots, rfl⟩
  | cons a l ih =>
    intro s
    obtain ⟨m, hm⟩ := ih (s.retestSlot a)
    rw [List.foldl_cons, hm]
    obtain h | ⟨_, _, _, _, _, h⟩ := s.retestSlot_cases a
    · exact ⟨m, by rw [h]⟩
    · exact ⟨m, by rw [h]; rfl⟩

/-- The tests after a write change no state but the slots. -/
theorem State.retest_slots (s : State) : ∃ m, s.retest = { s with slots := m } := State.retests_slots _ s

@[simp] theorem State.retest_mem (s : State) : s.retest.mem = s.mem := by obtain ⟨_, h⟩ := s.retest_slots; rw [h]
@[simp] theorem State.retest_fe (s : State) : s.retest.fe = s.fe := by obtain ⟨_, h⟩ := s.retest_slots; rw [h]
@[simp] theorem State.retest_cores (s : State) : s.retest.cores = s.cores := by obtain ⟨_, h⟩ := s.retest_slots; rw [h]
@[simp] theorem State.retest_quads (s : State) : s.retest.quads = s.quads := by obtain ⟨_, h⟩ := s.retest_slots; rw [h]
@[simp] theorem State.retest_sched (s : State) : s.retest.sched = s.sched := by obtain ⟨_, h⟩ := s.retest_slots; rw [h]

/-- The tests keep the canonical form of memory. -/
theorem State.Wf.retest {s : State} (h : s.Wf) : s.retest.Wf := by simpa [State.Wf] using h

/-! ## Owners (R241) -/

/-- What an access waits for beside its slot's own later engines, every access waits for. -/
theorem State.owned_of_ownedFor {s : State} {thrs : List Nat} {born k n : Nat} (h : s.ownedFor thrs born k n = true) : s.owned k n = true := by
  unfold State.ownedFor at h
  unfold State.owned State.ownedBy
  rw [List.any_eq_true] at h ⊢
  obtain ⟨c, hc, h⟩ := h
  refine ⟨c, hc, ?_⟩
  rw [Bool.or_eq_true, List.any_eq_true, List.any_eq_true] at h ⊢
  obtain ⟨x, hx, h⟩ | ⟨o, ho, h⟩ := h
  · exact .inl ⟨x, hx, by simp only [Bool.and_eq_true] at h ⊢; exact ⟨h.1.1, h.2⟩⟩
  · exact .inr ⟨o, ho, by simp only [Bool.and_eq_true] at h ⊢; exact ⟨h.1.1, h.2⟩⟩

/-! ## Stopped clocks (R383) -/

/-- Keeping a table's entries at some keys keeps the canonical form. -/
theorem FMap.wf_keep {α : Type} [DecidableEq α] {d : α} (stopped : Nat → Bool) (old : FMap α) {new : FMap α} (h : FMap.wf d new = true) :
    FMap.wf d (FMap.keep d stopped old new) = true :=
  FMap.wf_foldl_set (fun e : Nat × α => e.1) (fun _ e => e.2) _ (FMap.wf_filter _ h)

/-- A map change that leaves stopped regions as they were keeps the canonical form of memory. -/
theorem State.Wf.keepStopped {s t : State} (h : t.Wf) : (s.keepStopped t).Wf := by
  unfold State.keepStopped
  split
  · exact h
  · let here (k : Nat) : Bool := decide (k < 2304 * 2 ^ 24) && s.clockStopped (regionOf (keyQuad k))
    exact ⟨FMap.wf_keep here s.mem h.1, FMap.wf_keep here s.fe h.2⟩

end Sys2Proof.Machine
end

