-- ==== Sys2Proof/Tests/Slice0.lean ====
section
/-! SUPPORT. Tests: ill-formed terms that WellFormed refuses, words written out from the encoding tables (R45 to R71), single steps, and
for each statement with hypotheses a state and operands that meet them. -/

-- One theorem at a time: each is a kernel evaluation with a stack of its own.
set_option Elab.async false

open Sys2Proof Sys2Proof.Machine

namespace Sys2Proof.Tests

/-! ## Ill-formed terms -/

/-- R52: a port stands in one field only. -/
theorem test_wf_port_twice : (Instr.add 57 57 1).wf = false ∧ (Instr.add 57 1 2).wf = true := by decide +kernel
/-- R56: a shift by a constant of 64. -/
theorem test_wf_shift_64 : (Instr.shli 1 2 64).wf = false ∧ (Instr.shri 1 2 64).wf = false ∧ (Instr.srai 1 2 63).wf = true := by
  decide +kernel
/-- R56: a length of 0, and pos + len above 64. -/
theorem test_wf_bit_field : (Instr.ext 1 2 0 0).wf = false ∧ (Instr.exts 1 2 1 64).wf = false ∧ (Instr.ins 1 2 0 64).wf = true := by
  decide +kernel
/-- R58, R64: a field number above 5; an operand of .nf. -/
theorem test_wf_field_6 : (Instr.wid 1 6).wf = false ∧ (Instr.domain .ext 1 6).wf = false ∧ (Instr.domain .nf 1 1).wf = false
  ∧ (Instr.wid 1 5).wf = true := by decide +kernel
/-- R63: a queue number above 3. -/
theorem test_wf_queue_4 : (Instr.qlen 1 4).wf = false ∧ (Instr.qlen 1 3).wf = true := by decide +kernel
/-- R67: stochastic rounding outside VCVT and VQUANT. -/
theorem test_wf_stochastic : (Instr.vadd 1 2 3 0 .rsr).wf = false ∧ (Instr.vfma 1 2 3 4 0 .rsr).wf = false
  ∧ (Instr.vcvt 1 2 0 .bf16 false .rsr).wf = true := by decide +kernel
/-- R68: element types that a row does not admit. -/
theorem test_wf_types : (Instr.vmin 1 2 3 0 .f64).wf = false ∧ (Instr.vabs 1 2 0 .n32).wf = false ∧ (Instr.viadd 1 2 3 0 .f32 false).wf = false
  ∧ (Instr.vscanadd 1 2 0 .n32 .rne).wf = false ∧ (Instr.viota 1 0 .f32).wf = false ∧ (Instr.vclass 1 2 0 .i32).wf = false
  ∧ (Instr.vfcvti 1 2 0 .f32 .rne).wf = false ∧ (Instr.vredadd 1 2 0 .i32 .rup).wf = false := by decide +kernel
/-- R69: formats and roundings of the conversions. -/
theorem test_wf_conversions : (Instr.vcvt 1 2 0 .int8 false .rne).wf = false ∧ (Instr.vcvt 1 2 0 .bf16 true .rup).wf = false
  ∧ (Instr.vquant 1 2 3 0 .bf16 .rne).wf = false ∧ (Instr.vquant 1 2 3 0 .int4 .rne).wf = true := by decide +kernel
/-- R51, R68: a destination mask of 0; .un of an integer type; VIMUL with .sat and .hi. -/
theorem test_wf_masks : (Instr.vcmp 0 1 2 0 .f32 .eq).wf = false ∧ (Instr.vcmp 1 1 2 0 .i32 .un).wf = false ∧ (Instr.mand 0 1 2).wf = false
  ∧ (Instr.mnot 0 1).wf = false ∧ (Instr.msetv 0 1).wf = false ∧ (Instr.vimul 1 2 3 0 .i32 true true).wf = false := by decide +kernel
/-- R68: a lane index at the lane count. -/
theorem test_wf_lane_index : (Instr.vbcast 1 2 0 .f64 32).wf = false ∧ (Instr.vbcast 1 2 0 .f64 31).wf = true := by decide +kernel
/-- R52, R61: an odd pair, a pair with a port, a floating operation of 8 bytes, RED of .swap and of an acquire. -/
theorem test_wf_atomics : (Instr.cas2 1 2 4 6 .rlx .slot).wf = false ∧ (Instr.cas2 56 2 4 6 .rlx .slot).wf = false
  ∧ (Instr.amo 1 2 3 .fadd32 true .rlx .slot).wf = false ∧ (Instr.red 1 2 .swap false .rlx .slot).wf = false
  ∧ (Instr.red 1 2 .add false .acq .slot).wf = false := by decide +kernel
/-- R50, R63, R65: a vector field with bit 5 set; message lengths. -/
theorem test_wf_elements : (Instr.chpush .v 1 32 0).wf = false ∧ (Instr.msend .a 1 2 3 4 12).wf = false ∧ (Instr.msend .a 1 2 3 4 264).wf = false
  ∧ (Instr.msend .s 1 2 3 4 16).wf = false ∧ (Instr.mrecv .v 1 2 256).wf = true := by decide +kernel
/-- R65: the first of the four registers of CPYQ. -/
theorem test_wf_cpyq : (Instr.cpyq 1 6).wf = false ∧ (Instr.cpyq 1 0).wf = false ∧ (Instr.cpyqNb 1 56).wf = false ∧ (Instr.cpyq 1 52).wf = true := by
  decide +kernel
/-- R70: rows of MZERO, formats of MDRAIN.port, groups of MREAD. -/
theorem test_wf_matrix : (Instr.mzero 0 0).wf = false ∧ (Instr.mzero 1 64).wf = false ∧ (Instr.mdrainPort .f64 .rne 1).wf = false
  ∧ (Instr.mdrain .f32 .rsr 1 2 3).wf = false ∧ (Instr.mread 1 64).wf = false ∧ (Instr.mzero 0 64).wf = true := by decide +kernel
/-- R15, R20: units that the panel does not have, in events. -/
theorem test_wf_units : (Instr.wakeArrival 73728).wf = false ∧ (Instr.copyStart 9216).wf = false ∧ (Instr.taskBind 2304).wf = false
  ∧ (Instr.droopAlarmRaise 16).wf = false ∧ (Instr.burstAck 32 0).wf = false ∧ (Instr.linkRetrain 9216 0).wf = false
  ∧ (Instr.vectorBeatStart 0 4).wf = false ∧ (Instr.runListPromotion 0 3 0).wf = false
  ∧ (Instr.partitionCreate { pid := 0, x0 := 0, y0 := 0, w := 1, h := 1, key := 1, vf := 1, spMiB := 1, svcP := 0, svcC := 0, svcPc := 0 }).wf = false := by
  decide +kernel

/-! ## Words, written out from R45, R47 and the tables of R56 to R70 -/

/-- R45: a head's fields. -/
def hd (maj tl d : Nat) : Nat := maj * 2 ^ 8 + tl * 2 ^ 6 + d
/-- R47: the fields of each tail format at their places. -/
def rr (a b minor : Nat) : Nat := a * 2 ^ 10 + b * 2 ^ 4 + minor
def ri (a minor imm : Nat) : Nat := a * 2 ^ 26 + minor * 2 ^ 22 + imm
def rrr (a b c aux minor : Nat) : Nat := a * 2 ^ 26 + b * 2 ^ 20 + c * 2 ^ 14 + aux * 2 ^ 10 + minor
def mm (a b w sz cp off : Nat) : Nat := a * 2 ^ 26 + b * 2 ^ 20 + w * 2 ^ 18 + sz * 2 ^ 16 + cp * 2 ^ 14 + off
def vv (va vb vc mask type minor : Nat) : Nat := va * 2 ^ 27 + vb * 2 ^ 22 + vc * 2 ^ 17 + mask * 2 ^ 14 + type * 2 ^ 10 + minor
def bb (a b off idx : Nat) : Nat := a * 2 ^ 26 + b * 2 ^ 20 + off * 2 ^ 5 + idx
def bl (a off idx : Nat) : Nat := a * 2 ^ 42 + off * 2 ^ 5 + idx

/-- R56: integer words. -/
theorem test_decode_integer : decode (hd 0x02 1 3) (rr 1 2 0) = .ok (.sub 3 1 2) ∧ decode (hd 0x25 1 63) (rr 57 2 0) = .ok (.minu 63 57 2)
  ∧ decode (hd 0x03 2 3) (ri 1 0 0x3FFFFF) = .ok (.addi 3 1 0x3FFFFF) ∧ decode (hd 0x1E 1 3) (rr 1 0 0) = .ok (.clz 3 1)
  ∧ decode (hd 0x2C 2 3) (rrr 1 2 4 0 0) = .ok (.sel 3 1 2 4) ∧ decode (hd 0x2D 2 3) (ri 1 0 (5 + 59 * 2 ^ 6)) = .ok (.ext 3 1 5 59)
  ∧ decode (hd 0x30 3 3) (2 ^ 48 - 1) = .ok (.li 3 (BitVec.ofNat 48 (2 ^ 48 - 1))) ∧ decode (hd 0x31 3 3) (1 * 2 ^ 42 + 0xFFFF) = .ok (.lih 3 1 0xFFFF)
  ∧ decode (hd 0x33 2 3) (ri 0 0 66) = .ok (.addpc 3 66) ∧ decode (hd 0x01 1 3) (rr 1 2 1) = .error .reserved
  ∧ decode (hd 0x2D 2 3) (ri 1 0 (5 + 60 * 2 ^ 6)) = .error .reserved ∧ decode (hd 0x01 2 3) (rr 1 2 0) = .error .reserved := by
  decide +kernel
/-- R57: control words, short and long. -/
theorem test_decode_control : decode (hd 0x38 2 0) (bb 0 0 0x7FFF 3) = .ok (.br 0x7FFF 3) ∧ decode (hd 0x38 3 0) (bl 0 5 3) = .ok (.brLong 5 3)
  ∧ decode (hd 0x3C 2 0) (bb 1 2 4 30) = .ok (.bge 1 2 4 30) ∧ decode (hd 0x40 3 0) (bl 1 5 3) = .ok (.bnzLong 1 5 3)
  ∧ decode (hd 0x41 2 1) (bb 0 0 4 1) = .ok (.call 1 4 1) ∧ decode (hd 0x42 1 1) (rr 9 0 0) = .ok (.callr 1 9)
  ∧ decode (hd 0x43 0 1) 0 = .ok (.ret 1) ∧ decode (hd 0x45 3 4) (bl 0 1 1) = .ok (.loopLong 4 1 1) ∧ decode (hd 0x46 0 0) 0 = .ok .yield
  ∧ decode (hd 0x46 0 1) 0 = .error .reserved ∧ decode (hd 0x39 3 0) (bl 1 5 3) = .error .reserved := by decide +kernel
/-- R58: system words. -/
theorem test_decode_system : decode (hd 0x48 0 63) 0 = .ok (.trap 63) ∧ decode (hd 0x4A 2 3) (ri 0 0 0x015) = .ok (.rdsr 3 0x015)
  ∧ decode (hd 0x4C 2 3) (ri 9 0 0x010) = .ok (.swsr 3 0x010 9) ∧ decode (hd 0x4D 2 3) (ri 0 7 0) = .ok (.getid .size 3)
  ∧ decode (hd 0x4F 2 3) (ri 0 1 0) = .ok (.timeGlob 3) ∧ decode (hd 0x50 2 3) (mm 1 2 1 3 0 4) = .ok (.waitaddr 3 1 2 4 1)
  ∧ decode (hd 0x52 1 3) (rr 1 2 0) = .ok (.spill 3 1 2) ∧ decode (hd 0x56 2 3) (ri 1 0 128) = .ok (.salloc 3 1 128)
  ∧ decode (hd 0x4D 2 3) (ri 0 8 0) = .error .reserved ∧ decode (hd 0x4A 2 3) (ri 0 0 0x1015) = .error .reserved := by decide +kernel
/-- R59: memory words. -/
theorem test_decode_memory : decode (hd 0x59 2 3) (mm 1 0 2 1 3 0x3FFF) = .ok (.lds 3 1 0x3FFF .h 2 .k)
  ∧ decode (hd 0x5C 2 3) (mm 1 2 0 0 1 1) = .ok (.stg 3 1 2 1 .b 0 .s) ∧ decode (hd 0x5E 2 0) (rrr 1 2 0 5 3) = .ok (.stl 1 2 .w .sys)
  ∧ decode (hd 0x61 1 0) (rr 1 0 1) = .ok (.cinvIline 1) ∧ decode (hd 0x62 0 4) 0 = .ok (.fence .dom)
  ∧ decode (hd 0x63 2 0) (ri 0 0 0x4321) = .ok (.waitc 1 2 3 4) ∧ decode (hd 0x65 2 0) (mm 1 2 0 3 0 0) = .ok (.stf 1 2 0 0 .n)
  ∧ decode (hd 0x66 2 0) (rrr 1 2 0 1 0) = .ok (.feinitFull 1 2) ∧ decode (hd 0x67 1 0) (rr 1 0 1) = .ok (.touchWr 1)
  ∧ decode (hd 0x62 0 6) 0 = .error .reserved ∧ decode (hd 0x64 2 3) (mm 1 0 0 2 0 0) = .error .reserved := by decide +kernel
/-- R61: atomic words. -/
theorem test_decode_atomics : decode (hd 0x68 2 3) (rrr 1 2 0 3 (8 + 3 * 16 + 3 * 64)) = .ok (.amo 3 1 2 .swap true .ar .part)
  ∧ decode (hd 0x69 2 3) (rrr 1 2 4 0 (2 * 16)) = .ok (.cas 3 1 2 4 false .rlx .slot)
  ∧ decode (hd 0x6A 2 2) (rrr 1 4 6 2 64) = .ok (.cas2 2 1 4 6 .acq .quad) ∧ decode (hd 0x6B 2 0) (rrr 1 2 0 0 (9 + 2 * 16)) = .ok (.red 1 2 .fadd32 false .rlx .slot)
  ∧ decode (hd 0x6C 2 0) (ri 0 0 77) = .ok (.placeSet 77) ∧ decode (hd 0x6C 2 3) (ri 0 1 0) = .ok (.placeGet 3)
  ∧ decode (hd 0x68 2 3) (rrr 1 2 0 0 (1 * 16)) = .error .reserved := by decide +kernel
/-- R62: barrier words. -/
theorem test_decode_barriers : decode (hd 0x70 0 31) 0 = .ok (.arrive 31) ∧ decode (hd 0x72 1 31) (rr 1 0 0) = .ok (.barset 31 1)
  ∧ decode (hd 0x75 1 3) (rr 1 0 0) = .ok (.tbarr 3 1) ∧ decode (hd 0x77 1 3) (rr 1 2 0) = .ok (.tbtest 3 1 2)
  ∧ decode (hd 0x70 0 32) 0 = .error .reserved := by decide +kernel
/-- R63: channel and queue words. -/
theorem test_decode_channels : decode (hd 0x78 2 0) (rrr 1 2 0 2 1023) = .ok (.chpush .a 1 2 1023)
  ∧ decode (hd 0x79 2 3) (rrr 1 31 0 1 7) = .ok (.chpop .v 3 1 31 7) ∧ decode (hd 0x7D 2 3) (rrr 1 0 0 0 7) = .ok (.chlen 3 1 7)
  ∧ decode (hd 0x80 2 2) (ri 0 0 (5 + 6 * 8)) = .ok (.qmap 2 5 6) ∧ decode (hd 0x81 0 3) 0 = .ok (.qclear 3)
  ∧ decode (hd 0x82 2 3) (ri 0 0 3) = .ok (.qlen 3 3) ∧ decode (hd 0x78 2 0) (rrr 1 32 0 1 0) = .error .reserved := by decide +kernel
/-- R64: task words. -/
theorem test_decode_tasks : decode (hd 0x84 1 0) (rr 1 2 0) = .ok (.spawn 1 2) ∧ decode (hd 0x87 2 3) (ri 0 2 5) = .ok (.domain .cnt 3 5)
  ∧ decode (hd 0x88 2 3) (ri 0 3 0) = .ok (.allow .reg 3) ∧ decode (hd 0x8A 0 0) 0 = .ok .split ∧ decode (hd 0x8B 1 3) (rr 1 2 0) = .ok (.launch 3 1 2)
  ∧ decode (hd 0x87 2 3) (ri 0 2 6) = .error .reserved := by decide +kernel
/-- R65: copy and message words. -/
theorem test_decode_copies : decode (hd 0x8C 1 3) (rr 52 0 1) = .ok (.cpyqNb 3 52) ∧ decode (hd 0x8D 2 3) (ri 0 1 0) = .ok (.cpyst .stat 3)
  ∧ decode (hd 0x8F 2 3) (rrr 1 2 4 2 256) = .ok (.msend .a 3 1 2 4 256) ∧ decode (hd 0x90 2 3) (rrr 0 5 0 0 8) = .ok (.mrecv .s 3 5 8)
  ∧ decode (hd 0x92 2 3) (ri 0 1 0) = .ok (.msgst .txc 3) ∧ decode (hd 0x8C 1 3) (rr 6 0 0) = .error .reserved := by decide +kernel
/-- R66 to R69: vector and mask words. -/
theorem test_decode_vector : decode (hd 0xA0 2 31) (vv 1 2 0 7 0 3) = .ok (.vadd 31 1 2 7 .rdn)
  ∧ decode (hd 0xA5 2 3) (vv 1 2 4 0 0 0) = .ok (.vfnma 3 1 2 4 0 .rne) ∧ decode (hd 0xB0 2 3) (vv 1 0 0 1 0 (3 + 4 * 16)) = .ok (.vcvt 3 1 1 .e5m2 false .rsr)
  ∧ decode (hd 0xB3 2 7) (vv 1 2 0 0 1 6) = .ok (.vcmp 7 1 2 0 .f64 .un) ∧ decode (hd 0xB7 2 3) (vv 1 2 0 0 4 2) = .ok (.vimul 3 1 2 0 .i64 false true)
  ∧ decode (hd 0xC4 2 3) (vv 1 0 0 0 5 31) = .ok (.vbcast 3 1 0 .n64 31) ∧ decode (hd 0xC5 1 3) (rr 9 7 2) = .ok (.vsplat 3 9 7 .i32)
  ∧ decode (hd 0xCA 2 3) (mm 1 7 1 0 2 0x2000) = .ok (.vld 3 1 0x2000 7 1 .na) ∧ decode (hd 0xCD 2 3) (rrr 1 2 0 7 1023) = .ok (.vsts 3 1 2 7 1023)
  ∧ decode (hd 0xCE 2 3) (rrr 1 31 0 7 3) = .ok (.vgath 3 1 31 7 3) ∧ decode (hd 0xD0 2 1) (vv 2 3 0 0 0 0) = .ok (.mand 1 2 3)
  ∧ decode (hd 0xD7 1 3) (rr 7 0 0) = .ok (.mgetv 3 7) ∧ decode (hd 0xDF 2 3) (vv 1 0 0 0 0 0) = .ok (.vtanh 3 1 0)
  ∧ decode (hd 0xA0 2 31) (vv 1 2 0 7 0 4) = .error .reserved ∧ decode (hd 0xB3 2 0) (vv 1 2 0 0 0 0) = .error .reserved := by decide +kernel
/-- R70: matrix words. -/
theorem test_decode_matrix : decode (hd 0xE0 2 3) (ri 0 6 0) = .ok (.geom .edge 3) ∧ decode (hd 0xE2 2 0) (rrr 1 2 0 0 1) = .ok (.wloadSc 1 2)
  ∧ decode (hd 0xE5 2 0) (ri 0 0 (1 + 63 * 2 ^ 6)) = .ok (.mzero 1 63) ∧ decode (hd 0xE6 2 0) (rrr 1 2 4 8 3) = .ok (.mdrain .i64 .rdn 1 2 4)
  ∧ decode (hd 0xE6 2 0) (rrr 0 2 0 6 8) = .ok (.mdrainPort .i32 .rne 2) ∧ decode (hd 0xE7 2 31) (ri 0 0 63) = .ok (.mread 31 63)
  ∧ decode (hd 0xE8 1 3) (rr 1 0 0) = .ok (.sbtake 3 1) ∧ decode (hd 0xE6 2 0) (rrr 1 2 4 9 0) = .error .reserved := by decide +kernel
/-- R71: unassigned majors, whatever their other fields. -/
theorem test_decode_unassigned : ∀ m ∈ [0x34, 0x37, 0x6D, 0x6F, 0x83, 0x93, 0x9F, 0xE9, 0xFE, 0xFF], decode (hd m 1 63) 0xFFFF = .error .unassigned := by
  decide +kernel

/-! ## States of the tests -/

/-- The outcome is this next state. -/
def isNext (o : Host.Outcome State Fault Refusal) (t : State) : Bool :=
  match o with
  | .next u => decide (u = t)
  | _ => false

/-- The outcome is a next state of which `p` holds. -/
def nextIs (o : Host.Outcome State Fault Refusal) (p : State → Bool) : Bool :=
  match o with
  | .next u => p u
  | _ => false

def part1 : Part := { live := true, w := 2, h := 1, key := 1, vf := 1, spsize := 2 ^ 20, svccore := 7, ring := [(0, 0), (1, 1)] }
def slotAt (status : Word) : Slot := { st := .ready, pc := 0x1002, lineH := 5, sr := { tvec := 0x2002, status := status } }
/-- Two quads of partition 1; slot 0 runs at supervisor level. -/
def base : State :=
  { parts := [(1, part1)], quads := [(0, { ctxs := [{ pid := 1, p := 0 }] }), (1, { ctxs := [{ pid := 1, p := 1 }] })],
    vfs := [(1, { pid := 1 })], slots := [(0, slotAt 0x21)], cur := 0 }
/-- The same at task level. -/
def task : State := base.setSlot 0 (slotAt 0x20)
/-- An optimistic task with a reservation of 4,096 bytes. -/
def opti : State := base.setSlot 0 { slotAt 0x10 with task := { effRes := 4096 } }
/-- A state with registers t1 and up. -/
def regs (s : State) (vs : List Word) : State := vs.zipIdx.foldl (fun t e => t.setT 0 (e.2 + 1) e.1) s
/-- A state with one entry of core 0 changed, and so on for a slot, a quad and the partition. -/
def core0 (s : State) (f : Core → Core) : State := s.updCore 0 f
def slot0 (s : State) (f : Slot → Slot) : State := s.updSlot 0 f
def quad0 (s : State) (f : Quad → Quad) : State := s.updQuad 0 f
/-- What slot 0 of core 0 has due in the present cycle, with a value. -/
def due0 (s : State) (op : PendOp) (v : Word) : State := core0 s fun c => { c with pend := [{ due := 0, slot := 0, op := op, val := v }] }

/-! ## What the statements' hypotheses admit

Each theorem below meets the hypotheses of the statement it names, clause by clause, on a small state; where the conclusion is an
equation of states it is checked there too. -/

/-- ScalarThreeRegisterResults: the last private register, t0 as a source, a divisor of 0. -/
theorem test_met_ScalarThreeRegisterResults :
    let s := regs base [7, 0xFFFFFFFFFFFFFFFD, 0]
    mayIssue { rd := [1, 2], wr := [31] } s = true ∧ s.mayPut 31 = true ∧ isNext (exec (.sub 31 1 2) s) (s.wrote [1, 2] 31 10 3) = true
    ∧ mayIssue { rd := [2, 3], wr := [0] } s = true ∧ s.mayPut 0 = true
    ∧ isNext (exec (.div 0 2 3) s) s.passed = true ∧ isNext (exec (.rem 31 2 1) s) (s.wrote [2, 1] 31 0xFFFFFFFFFFFFFFFD 23) = true := by
  decide +kernel

/-- ScalarOneRegisterResults: fields that end at bit 63. -/
theorem test_met_ScalarOneRegisterResults :
    let s := regs base [0x8000000000000001]
    mayIssue { rd := [1], wr := [2] } s = true ∧ s.mayPut 2 = true ∧ isNext (exec (.ext 2 1 63 1) s) (s.wrote [1] 2 1 3) = true
    ∧ isNext (exec (.exts 2 1 0 64) s) (s.wrote [1] 2 0x8000000000000001 3) = true
    ∧ isNext (exec (.popc 2 1) s) (s.wrote [1] 2 2 3) = true ∧ isNext (exec (.brev 2 1) s) (s.wrote [1] 2 0x8000000000000001 3) = true := by
  decide +kernel

/-- ScalarOtherResults: SEL with a zero and a non-zero A, INS at bit 63. -/
theorem test_met_ScalarOtherResults :
    let s := regs base [0, 5, 6]
    s.mayPut 4 = true ∧ mayIssue { rd := [1, 2, 3], wr := [4] } s = true ∧ isNext (exec (.sel 4 1 2 3) s) (s.wrote [1, 2, 3] 4 6 3) = true
    ∧ isNext (exec (.sel 4 2 1 3) s) (s.wrote [2, 1, 3] 4 0 3) = true
    ∧ mayIssue { rd := [2, 2], wr := [2] } s = true ∧ isNext (exec (.ins 2 2 63 1) s) (s.wrote [2, 2] 2 0x8000000000000005 3) = true
    ∧ mayIssue { wr := [4] } s = true ∧ isNext (exec (.addpc 4 0x3FFFFE) s) (s.wrote [] 4 0x1000 3) = true := by decide +kernel

/-- BranchesGoToTheirTargets: taken and not taken, forwards and backwards. -/
theorem test_met_BranchesGoToTheirTargets :
    let s := regs base [1, 0xFFFFFFFFFFFFFFFF]
    mayIssue { rd := [1, 2] } s = true ∧ isNext (exec (.blt 2 1 0x7FFF 3) s) ((s.traced 0xFC6 false).went 0xFC6) = true
    ∧ isNext (exec (.bltu 2 1 0x7FFF 3) s) s.passed = true ∧ isNext (exec (.bz 1 1 1) s) s.passed = true
    ∧ mayIssue {} s = true ∧ isNext (exec (.brLong 1 2) s) ((s.traced 0x1044 false).went 0x1044) = true := by decide +kernel

/-- CallsJumpsAndLoops: even and odd targets, a count of 1 and of 2. -/
theorem test_met_CallsJumpsAndLoops :
    let s := regs base [0x1001, 0x1002, 1, 2]
    s.mayPut 5 = true ∧ mayIssue { wr := [5] } s = true ∧ mayIssue { rd := [2], wr := [5] } s = true ∧ (s.operand 2).getLsbD 0 = false
    ∧ isNext (exec (.callr 5 2) s) (((s.writeReg 0 5 0x1004 3).traced 0x1002 false).went 0x1002) = true
    ∧ mayIssue { rd := [1], wr := [5] } s = true ∧ (s.operand 1).getLsbD 0 = true
    ∧ isNext (exec (.callr 5 1) s) (s.enterTrap 0 0x04 0x1001 0x1002) = true
    ∧ mayIssue { rd := [1] } s = true ∧ isNext (exec (.ret 1) s) (s.enterTrap 0 0x04 0x1001 0x1002) = true
    ∧ mayIssue { rd := [2] } s = true ∧ isNext (exec (.ret 2) s) ((s.traced 0x1002 true).went 0x1002) = true
    ∧ s.mayPut 3 = true ∧ mayIssue { rd := [3], wr := [3] } s = true ∧ isNext (exec (.loop 3 0 1) s) (s.writeReg 0 3 0 3).passed = true
    ∧ s.mayPut 4 = true ∧ mayIssue { rd := [4], wr := [4] } s = true
    ∧ isNext (exec (.loop 4 0 1) s) (((s.writeReg 0 4 1 3).traced 0x1002 false).went 0x1002) = true := by decide +kernel

/-- ResultsReachTheirRegisters: t0, t1, t31, a shared register, a slow result, and two slots that write one register. -/
theorem test_met_ResultsReachTheirRegisters :
    let p : Pend := { due := 0, slot := 0, op := .reg 55, val := 1 }
    let q : Pend := { due := 0, slot := 7, op := .reg 55, val := 2 }
    let s := core0 base fun c => { c with pend := [q, p] }
    base.writeReg 0 0 9 3 = base ∧ (base.writeReg 0 1 9 3).tReg 0 1 = 9 ∧ (base.writeReg 0 31 9 3).tReg 0 31 = 9
    ∧ ((base.writeReg 0 32 9 3).core 0).pend.length = 1 ∧ ((base.writeReg 0 31 9 23).slot 0).busy = [31]
    ∧ (s.core 0).pend = [q, p] ∧ p = { due := (s.core 0).cycle, slot := 0, pc := p.pc, op := .reg (32 + 23), val := p.val }
    ∧ FMap.get 0 ((s.performDue 0).core 0).c 23 = 2 := by decide +kernel

/-- TrapEntrySavesAndVectors: EXL 0; EXL 1 in a service-core slot, in a pinned one and in an optimistic one; a waiting cause. -/
theorem test_met_TrapEntrySavesAndVectors :
    let dbl := slot0 base fun x => { x with sr := { x.sr with status := 0xA1 } }
    let svc := slot0 base fun x => { x with sr := { x.sr with status := 0xB1 } }
    let s := slot0 task fun x => { x with async := [{ code := 7, info := 5 }] }
    let rip := slot0 opti fun x => { x with sr := { x.sr with status := 0x91 }, task := { x.task with handle := some 0 } }
    (base.slot 0).exl = false ∧ ((base.enterTrap 0 1 2 4).slot 0).pc = 0x2002
    ∧ (dbl.slot 0).exl = true ∧ (dbl.slot 0).kind = 2 ∧ ((dbl.enterTrap 0 1 2 4).slot 0).st = .moving
    ∧ (svc.slot 0).exl = true ∧ (svc.slot 0).kind = 3 ∧ ((svc.enterTrap 0 1 2 4).slot 0).st = .halted
    ∧ ((svc.enterTrap 0 1 2 4).quad 0).contained = true
    ∧ (svc.enterTrap 0 1 2 4).panel.log = [{ qi := 0, unit := 0, retire := true, time := svc.time0 }]
    ∧ (rip.slot 0).exl = true ∧ (rip.slot 0).kind = 1 ∧ (rip.slot 0).task.handle = some 0 ∧ ((rip.enterTrap 0 1 2 4).slot 0).st = .free
    ∧ (((rip.enterTrap 0 1 2 4).quad 0).list 1 (rip.slot 0).task.prio).length = 1
    ∧ (s.slot 0).exl = false ∧ (s.slot 0).st = .ready ∧ (s.slot 0).op = .none ∧ (s.slot 0).async = [{ code := 7, info := 5 }]
    ∧ nextIs (exec (.asyncTrapEntry 0) s) (fun t => (t.slot 0).async = [] && (t.slot 0).sr.ecause = 7 && (t.slot 0).sr.einfo = 5
      && (t.slot 0).sr.epc = 0x1002 && (t.slot 0).exl) = true := by decide +kernel

/-- TrapHeadsAndReturn: BRK armed and not, ERET to an even and an odd PC, and at task level. -/
theorem test_met_TrapHeadsAndReturn :
    let armed := quad0 base fun q => { q with brkArm := true }
    let odd := slot0 base fun x => { x with sr := { x.sr with epc := 0x1001 } }
    let s := slot0 base fun x => { x with sr := { x.sr with epc := 0x1006, estatus := 0x20, status := 0xA1 } }
    base.myQuad.brkArm = false ∧ armed.myQuad.brkArm = true ∧ isNext (exec (.brk 63) armed) (armed.updMyQuad fun q => { q with halted := true }) = true
    ∧ s.super = true ∧ s.me.sr.epc.getLsbD 0 = false ∧ nextIs (exec .eret s) (fun t => t.me.pc = 0x1006 && t.me.sr.status = 0x20) = true
    ∧ odd.super = true ∧ odd.me.sr.epc.getLsbD 0 = true ∧ isNext (exec .eret odd) (odd.enterTrap 0 0x04 0x1001 0x1002) = true
    ∧ task.super = false ∧ isNext (exec .eret task) (task.enterTrap 0 0x03 0x4900 0x1002) = true := by decide +kernel

/-- PrivilegedHeadsTrapAtTaskLevel: the first and the last register that tasks may not read; a register above the allotment. -/
theorem test_met_PrivilegedHeadsTrapAtTaskLevel :
    let s := slot0 task fun x => { x with sr := { x.sr with regallot := 0x11010 } }
    task.super = false ∧ task.me.op = .none ∧ isNext (exec (.spill 63 1 2) task) (task.enterTrap 0 0x03 0x527F 0x1002) = true
    ∧ isNext (exec (.rdsr 1 0x010) task) (task.enterTrap 0 0x03 0x010 0x1002) = true
    ∧ isNext (exec (.wrsr 0x014 1) task) (task.enterTrap 0 0x03 0x014 0x1002) = true
    ∧ s.me.optimistic = false ∧ ([(1 : Reg), 2, 16].any fun r => s.me.sr.outside r.toNat) = true
    ∧ isNext (exec (.add 1 2 16) s) (s.enterTrap 0 0x17 0 0x1002) = true := by decide +kernel

/-- SystemRegisterAccess: no register, one that is only read, one of the slot, one of a wider scope. -/
theorem test_met_SystemRegisterAccess :
    let s := regs base [0xFFFF]
    s.super = true ∧ s.mayPut 2 = true ∧ mayIssue { rd := [1], wr := [2], seed := srSeed 0x010 } s = true
    ∧ srAccess 0x000 = none ∧ isNext (exec (.rdsr 2 0x000) s) (s.enterTrap 0 0x02 0x000 0x1002) = true
    ∧ (srAccess 0x023).map (fun a => a.superWrite) = some false ∧ isNext (exec (.wrsr 0x023 1) s) s.passed = true
    ∧ (srAccess 0x010).map (fun a => (a.superWrite, a.shared)) = some (true, false)
    ∧ isNext (exec (.wrsr 0x010 1) s) (s.pendOp (.sys 0x010 none) 0xFFFF).passed = true
    ∧ (due0 s (.sys 0x010 none) 0xFFFF).performDue 0 = s.srSet 0 0x010 0xFFFF
    ∧ (due0 s (.sys 0x010 (some 31)) 0xFFFF).performDue 0 = (s.srSet 0 0x010 0xFFFF).landReg 0 31 0x2002 0 ∧ (s.srSet 0 0x010 0xFFFF).srValue 0 0x010 = 0xFFFE
    ∧ (srAccess 0x040).map (fun a => (a.superWrite, a.shared)) = some (true, true)
    ∧ isNext (exec (.wrsr 0x040 1) s) (s.pendOp (.sys 0x040 none) 0xFFFF).passed = true
    ∧ (s.srSet 0 0x030 0xFFFFFFFFFFFFFFFF).srValue 0 0x030 = 0x10FFF0FFF ∧ (s.srSet 0 0x040 0xFF).srValue 0 0x040 = 0xF
    ∧ ((s.updRegion 0 fun g => { g with droopst := 3 }).srSet 0 0x0C1 2).srValue 0 0x0C1 = 1
    ∧ (s.srSet 0 0x090 0xFFFFFFFFFFFFFFFF).srValue 0 0x090 = 0x80FFFFFFFFFFF000 ∧ (s.srSet 0 0x090 0xFFF).srValue 0 0x090 = 0
    ∧ ((s.updSlot 0 fun x => { x with sr := { x.sr with bastecfg := 0x8000000000000000, status := 0x61 }, cnt := { stcS := 1 } }).srSet 0 0x090 0).srValue
      0 0x090 = 0x8000000000000000
    ∧ (s.srSet 0 0x041 0).srValue 0 0x041 = 1 ∧ (s.srSet 0 0x057 0xFFFFFFFF).srValue 0 0x057 = 0xF0FFFFE0 := by decide +kernel

/-- IdentitiesAndTime: an allotment that is taken to its last unit and given back to its first; queues 0 and 3. -/
theorem test_met_IdentitiesAndTime :
    let s := slot0 (regs base [0, 64]) fun x => { x with sr := { x.sr with spallot := BitVec.ofNat 64 (1 + 3 * 2 ^ 19 + 2 * 2 ^ 38) } }
    s.mayPut 3 = true ∧ mayIssue { wr := [3] } s = true ∧ isNext (exec (.getid .size 3) s) (s.wrote [] 3 130 3) = true
    ∧ mayIssue { rd := [1], wr := [3] } s = true ∧ saOk s.me.sr.spallot = true ∧ saTop s.me.sr.spallot + (0 + 64 + 63) / 64 ≤ saLimit s.me.sr.spallot
    ∧ nextIs (exec (.salloc 3 1 64) s) (fun t => saTop t.me.sr.spallot = 3 && t.tReg 0 3 = 128) = true
    ∧ mayIssue { rd := [2] } s = true ∧ saBase s.me.sr.spallot * 64 ≤ (s.operand 2).toNat ∧ (s.operand 2).toNat ≤ saTop s.me.sr.spallot * 64
    ∧ nextIs (exec (.sfree 2) s) (fun t => saTop t.me.sr.spallot = 1) = true
    ∧ isNext (exec (.qlen 3 0) s) (s.wrote [] 3 0 3) = true ∧ isNext (exec (.qmap 3 7 0) s) (s.pendOp (.qmap 3 7 0) 0).passed = true := by
  decide +kernel

/-- FloatingVectorResults: 1 + 2 in lane 0, under a mask of that lane. -/
theorem test_met_FloatingVectorResults :
    let s := ((base.setV 0 1 0x3F800000#2048).setV 0 2 0x40000000#2048).setM 0 1 1
    mayIssue { vs := [3, 1, 2], ms := [1] } s = true ∧ s.myCore.vqUsed < 8 ∧ mayIssue { vs := [31, 1, 2], ms := [0] } s = true
    ∧ nextIs (exec (.vadd 3 1 2 1 .rne) s) (fun t => t.myCore.vq.map (fun e => e.dest) = [.vec 3 0x40400000#2048 (~~~0xFFFFFFFF#2048)]) = true := by
  decide +kernel

/-- TypedVectorResults: the largest signed lane plus one, saturated and not. -/
theorem test_met_TypedVectorResults :
    let s := ((base.setV 0 1 0x7FFFFFFF#2048).setV 0 2 1#2048).setM 0 1 1
    mayIssue { vs := [3, 1, 2], ms := [1] } s = true ∧ s.myCore.vqUsed < 8
    ∧ nextIs (exec (.viadd 3 1 2 1 .i32 true) s) (fun t => t.myCore.vq.map (fun e => e.dest) = [.vec 3 0x7FFFFFFF#2048 (~~~0xFFFFFFFF#2048)]) = true
    ∧ nextIs (exec (.viadd 3 1 2 1 .i32 false) s) (fun t => t.myCore.vq.map (fun e => e.dest) = [.vec 3 0x80000000#2048 (~~~0xFFFFFFFF#2048)]) = true := by
  decide +kernel

/-- ConversionResults: 1.0 to BF16 and back, and a draw of the seed. -/
theorem test_met_ConversionResults :
    let s := (base.setV 0 1 0x3F800000#2048).setM 0 1 1
    mayIssue { vs := [3, 1], ms := [1], seed := false } s = true ∧ mayIssue { vs := [3, 1], ms := [1], seed := true } s = true
    ∧ mayIssue { vs := [3, 1, 2], ms := [1], seed := false } s = true ∧ s.myCore.vqUsed < 8
    ∧ nextIs (exec (.vcvt 3 1 1 .bf16 false .rne) s) (fun t => t.myCore.vq.map (fun e => e.dest) = [.vec 3 0x3F80#2048 (~~~0xFFFF#2048)]) = true
    ∧ nextIs (exec (.vcvt 3 1 1 .bf16 false .rsr) s) (fun t => (t.myCore.vq.map (fun e => e.seed)).all fun x => x ≠ none) = true := by
  decide +kernel

/-- ConversionRoundTrips: zero, the largest code and a signalling NaN of each format. -/
theorem test_met_ConversionRoundTrips :
    convert fp32 e4m3 .rne 0 (convert e4m3 fp32 .rne 0 0xFF) = 0xFF ∧ convert fp32 e5m2 .rne 0 (convert e5m2 fp32 .rne 0 0xFF) = 0xFF
    ∧ convert fp32 bf16 .rne 0 (convert bf16 fp32 .rne 0 0x7F81) = 0x7FC1 ∧ convert fp32 fp16 .rne 0 (convert fp16 fp32 .rne 0 0x7C01) = 0x7E01
    ∧ convert fp64 fp32 .rne 0 (convert fp32 fp64 .rne 0 0x7F800001) = 0x7FC00001 ∧ convert fp32 fp16 .rne 0 (convert fp16 fp32 .rne 0 0x8000) = 0x8000
    ∧ convert fp64 fp32 .rne 0 (convert fp32 fp64 .rne 0 1) = 1 := by decide +kernel

/-- CrossLaneResults: a reduction of two lanes, and the first and the last lane number that VEXTR and VINSR take or refuse. -/
theorem test_met_CrossLaneResults :
    let s := (regs (base.setV 0 1 0x300000005#2048) [63, 64, 31, 32]).setM 0 1 3
    s.myCore.vqUsed < 8 ∧ mayIssue { vs := [2, 1], ms := [1] } s = true ∧ mayIssue { vs := [2, 1, 3], ms := [1] } s = true
    ∧ mayIssue { vs := [1, 2], ms := [2, 1] } s = true ∧ mayIssue { rd := [1], vs := [2], ms := [1] } s = true ∧ mayIssue { vs := [2], ms := [1] } s = true
    ∧ nextIs (exec (.vredmax 2 1 1 .n32) s) (fun t => (t.myCore.vq.map fun e => match e.dest with | .vec _ v _ => laneAt v 32 63 | _ => 0) = [5]) = true
    ∧ mayIssue { rd := [1], wr := [5], vs := [1] } s = true ∧ s.mayPut 5 = true ∧ (s.operand 1).toNat < 2048 / 32 ∧ (s.operand 3).toNat < 2048 / 64
    ∧ mayIssue { rd := [1, 3], vs := [1] } s = true
    ∧ nextIs (exec (.vextr 5 1 1 false) s) (fun t => t.myCore.vq.length = 1) = true
    ∧ 2048 / 32 ≤ (s.operand 2).toNat ∧ 2048 / 64 ≤ (s.operand 4).toNat
    ∧ isNext (exec (.vextr 5 1 2 false) s) (s.enterTrap 0 0x02 64 0x1002) = true
    ∧ isNext (exec (.vinsr 1 1 4 true) s) (s.enterTrap 0 0x02 32 0x1002) = true := by decide +kernel

/-- MaskResults. -/
theorem test_met_MaskResults :
    let s := (regs base [6]).setM 0 1 5
    mayIssue { ms := [7, 1, 0] } s = true ∧ isNext (exec (.mand 7 1 0) s) (s.setM 0 7 5).passed = true
    ∧ mayIssue { ms := [2, 1] } s = true ∧ mayIssue { rd := [1], ms := [2] } s = true ∧ isNext (exec (.msetv 2 1) s) (s.setM 0 2 6).passed = true
    ∧ mayIssue { wr := [3], ms := [1] } s = true ∧ s.mayPut 3 = true ∧ isNext (exec (.mfirst 3 1) s) (s.wrote [] 3 0 3) = true
    ∧ isNext (exec (.mpopc 3 1) s) (s.wrote [] 3 2 3) = true := by decide +kernel

/-- VectorUnitCompletes: an entry whose beats have ended, and one with a beat to start in lane group 3. -/
theorem test_met_VectorUnitCompletes :
    let e : VEntry := { id := 1, slot := 0, dest := .vec 2 5 0, left := [], ends := 3 }
    let s := core0 base fun c => { c with vq := [e], cycle := 8 }
    let u := core0 base fun c => { c with vq := [{ e with left := [3] }], cycle := 8 }
    let with_ (d : VDest) : State := core0 base fun c => { c with vq := [{ e with dest := d }], cycle := 8 }
    (s.core 0).vq = [e] ∧ e.ends + e.lat ≤ (s.core 0).cycle ∧ nextIs (exec (.vectorComplete 0 1) s) (fun t => (t.core 0).vq = []
      && (t.core 0).pend = [{ due := 8, slot := 0, pc := e.pc, op := .unit e.dest none }]) = true
    ∧ (s.core 0).pend = [] ∧ (s.performDue 0).vReg 0 2 = 5 ∧ ((with_ (.mask 7 6)).performDue 0).mReg 0 7 = 6
    ∧ ((with_ (.scal 31 6)).performDue 0).tReg 0 31 = 6
    ∧ e.issued < (u.core 0).cycle ∧ (FMap.get {} (u.quad 0).arbs 3).busyTo < (u.core 0).cycle ∧ (∀ c < 4, c ≠ 0 → (u.core (0 / 4 * 4 + c)).vq = [])
    ∧ nextIs (exec (.vectorBeatStart 0 3) u) (fun t => (t.core 0).vq = [{ e with left := [], ends := 8 }]) = true
    ∧ laneAt ((7#2048 &&& (lanesOut 32 64 1 fun _ => 9).2) ||| ((lanesOut 32 64 1 fun _ => 9).1 &&& ~~~(lanesOut 32 64 1 fun _ => 9).2)) 32 0 = 9 := by
  decide +kernel

/-- Share offsets of local and of remote memory: t1 local, t2 in quad 1's share, t3 the last local word, t4 in HBM, t5 data. -/
def memRegs (s : State) : State :=
  regs (s.wr 0x1000 8 0x8000000000000055) [0x1000, 0x1000100000001000, 0xFFFF8, 0x2000000000003000, 0x1122334455667788, 0x1001]

/-- LoadsReadOrLeave: a local word, the last one of the share, a signed byte, and a word of another quad. -/
theorem test_met_LoadsReadOrLeave :
    let s := memRegs base
    s.mayPut 9 = true ∧ mayIssue { rd := [1], wr := [9] } s = true ∧ s.mayGo 0 0x1000 = true ∧ s.accessCheck permR 0x1000 8 8 false = none
    ∧ s.bytesFree 0x1000 8 = true ∧ isNext (exec (.ld 9 1 0 .w 0 .n) s) (s.wrote [1] 9 0x8000000000000055 6) = true
    ∧ isNext (exec (.lds 9 1 7 .b 0 .n) s) (s.wrote [1] 9 0xFFFFFFFFFFFFFF80 6) = true
    ∧ s.accessCheck permR 0xFFFF8 8 8 false = none ∧ isNext (exec (.ld 9 3 0 .w 0 .n) s) (s.wrote [3] 9 0 6) = true
    ∧ mayIssue { rd := [2], wr := [9] } s = true ∧ s.mayGo 0 0x1000100000001000 = true ∧ s.accessCheck permR 0x1000100000001000 8 8 false = none
    ∧ s.me.cnt.ldc < 63 ∧ isNext (exec (.ld 9 2 0 .w 0 .n) s) (((s.addCount 0 0).markBusy 0 9).sent
        { id := 0, thr := 0, pid := 0, addr := 0x1000100000001000, n := 8, op := .load, ret := .scalar 9 false, ctr := 0 }).passed = true
    ∧ isNext (exec (.lda 9 2 .w .part) s) (((s.addCount 0 0).markBusy 0 9).sent
        { id := 0, thr := 0, pid := 0, addr := 0x1000100000001000, n := 8, op := .load, ret := .scalar 9 false, ctr := 0, acq := true
          scope := 3 }).passed = true := by decide +kernel

/-- StoresWriteOrLeave: a local word, a release, a word of another quad, and one that an optimistic task holds. -/
theorem test_met_StoresWriteOrLeave :
    let s := memRegs base
    let o := memRegs opti
    mayIssue { rd := [1, 5] } s = true ∧ s.mayGo 0 0x1000 = true ∧ s.accessCheck permW 0x1000 8 8 false = none ∧ s.bytesFree 0x1000 8 = true
    ∧ isNext (exec (.st 1 5 0 .w 0 .n) s) (s.pendOp (.store 0x1000 (wholeBytes 8 0x1122334455667788)) 0).passed = true
    ∧ s.fenceOk .part = true ∧ isNext (exec (.stl 1 5 .l .part) s) (s.pendOp (.store 0x1000 (wholeBytes 4 0x55667788)) 0).passed = true
    ∧ (∀ j < 8, s.owned (0x1000 + j) 1 = false)
    ∧ (due0 s (.store 0x1000 (wholeBytes 8 0x1122334455667788)) 0).performDue 0 = s.wr 0x1000 8 0x1122334455667788
    ∧ mayIssue { rd := [2, 5] } s = true ∧ s.mayGo 0 0x1000100000001000 = true ∧ s.accessCheck permW 0x1000100000001000 1 1 false = none
    ∧ s.me.optimistic = false ∧ s.me.cnt.val (storeCtr 0x1000100000001000) < 255
    ∧ isNext (exec (.st 2 5 0 .b 0 .n) s) ((s.addCount 0 (storeCtr 0x1000100000001000)).sent
      { id := 0, thr := 0, pid := 0, addr := 0x1000100000001000, n := 1, op := .store (wholeBytes 1 0x88), ctr := storeCtr 0x1000100000001000 }).passed = true
    ∧ o.mayHold (.store 0x1000100000001000 (wholeBytes 1 0x88)) = true ∧ mayIssue { rd := [2, 5] } o = true
    ∧ isNext (exec (.st 2 5 0 .b 0 .n) o) (o.held (.store 0x1000100000001000 (wholeBytes 1 0x88))).passed = true := by decide +kernel

/-- AccessChecksInOrder: one address for each answer. -/
theorem test_met_AccessChecksInOrder :
    base.accessCheck permR 0x0008000000000000 8 8 false = some (0x0D, 0x0008000000000000)
    ∧ task.accessCheck permR 0xF000000000000000 8 8 false = some (0x03, 0xF000000000000000)
    ∧ base.accessCheck permR 0x1001 8 8 false = some (0x04, 0x1001) ∧ base.accessCheck permR 0x1000 8 8 true = some (0x02, 0x1000)
    ∧ base.accessCheck permR 0x100000 8 8 false = some (0x0D, 0x100000) ∧ base.accessCheck permR 0xFFFF8 8 8 false = none
    ∧ base.accessCheck permR 0x1002000000000000 8 8 false = some (0x07, 0x1002000000000000) := by
  decide +kernel

/-- SystemSpaceAndPlacement: the first and the last register of the space, both bits of FREPLY, page sizes 0 and 5, a granule. -/
theorem test_met_SystemSpaceAndPlacement :
    let s0 := base.updPart 1 fun p => { p with s2 := [{ ipa := 0, size := 2 ^ 30, pa := 2 ^ 30 }] }
    let s := regs s0 [0xF000000000000000, 0xF000000000000020, 0xF000000000000018, 0xF000000000000008, 0x10001, 0x2000000000003000, 8]
    let v := s0.updPart 1 fun p => { p with s1inv := [none, some (4096, 4096)] }
    s.super = true ∧ s.mayPut 9 = true ∧ s.acquiring = false ∧ mayIssue { rd := [1], wr := [9] } s = true ∧ space (s.operand 1) = 15
    ∧ mustBeZero (s.operand 1) = true ∧ fld (s.operand 1) 56 4 = 0 ∧ isNext (exec (.ld 9 1 0 .w 0 .n) s) (s.wrote [] 9 0 3) = true
    ∧ isNext (exec (.ld 9 2 0 .w 0 .n) s) (s.wrote [] 9 0x100000 3) = true
    ∧ mayIssue { rd := [1, 5] } s = true ∧ isNext (exec (.st 1 5 0 .w 0 .n) s) (s.updPart 1 fun p => { p with s1root := 0x10001 }).passed = true
    ∧ isNext (exec (.st 4 7 0 .w 0 .n) s) (s.s1inv 1 none).passed = true
    ∧ (s.operand 5).getLsbD 16 = true ∧ isNext (exec (.st 3 5 0 .w 0 .n) s) (s.freplyFail 1 1 0 0).passed = true
    ∧ (s.operand 7).getLsbD 16 = false ∧ isNext (exec (.st 3 7 0 .w 0 .n) s) (s.freplyRetry 1 8 0).passed = true
    ∧ isNext (exec (.placeSet 0x1FFFFF) s) (s.updPart 1 fun p => { p with threshold := 0x1FFFFF }).passed = true
    ∧ mayIssue { wr := [9], sup := some (0x6C80 + 9) } s = true ∧ isNext (exec (.placeGet 9) s) (s.wrote [] 9 0x1FFFFF 3) = true
    ∧ mayIssue { rd := [6], sup := some 0x6C80 } s = true ∧ (s.translate 1 0x3000 {}).2.isSome = true ∧ space (s.operand 6) = 2
    ∧ nextIs (exec (.placeClr 6) (({ s with place := [((2 ^ 30 + 0x3000) / 4096, { count := 3 })] } : State))) (fun t => t.place = []) = true
    ∧ isNext (exec (.s1invPage 1 1 5) s0) (s0.updPart 1 fun p => { p with s1issued := 1, s1inv := [some (4096, 2 ^ 34)] }) = true
    ∧ s0.threadKey 1 0 = some 0 ∧ (s0.quad 0).drain = [] ∧ s0.chanFaults = [] ∧ s0.threadKey 1 64 = none
    ∧ isNext (exec (.freplyRetry 1 64 0) s0) s0 = true ∧ isNext (exec (.freplyFail 1 64 0 0) s0) s0 = true
    ∧ (v.part 1).s1inv = [none, some (4096, 4096)] ∧ v.flights = []
    ∧ nextIs (exec (.s1invComplete 1) v) (fun t => (t.part 1).s1inv = [some (4096, 4096)] && (t.part 1).s1done = 1) = true := by decide +kernel

/-- CachesFencesAndWaits. -/
theorem test_met_CachesFencesAndWaits :
    let s := regs (base.wr 0x1000 8 5) [0x1000, 5, 4, 0]
    let w := slot0 s fun x => { x with wake := true }
    mayIssue { rd := [1] } s = true ∧ nextIs (exec (.pref 1 0 .n) s) (fun t => t.mem = s.mem && t.me.pc = s.me.nextPc) = true
    ∧ s.buffered none = false ∧ isNext (exec (.cflushAll 1) s) (s.updMyCore fun c => { c with l1 := [] }).passed = true
    ∧ s.lineCheck 0x1000 32 = none ∧ s.buffered (some 0x1000) = false ∧ s.lineCheck 0x1000 64 = none
    ∧ nextIs (exec (.cflushLine 1) s) (fun t => t.me.pc = s.me.nextPc) = true
    ∧ isNext (exec (.cinvIline 1) s) (s.updMyQuad fun q => { q with icache := FMap.erase q.icache (fetchKey 1 0x1000) }).passed = true
    ∧ mayIssue { rd := [4] } s = true ∧ s.threadKey 1 0 = some 0 ∧ isNext (exec (.wake 4) s) (({ s with wakes := [0] } : State)).passed = true
    ∧ s.fenceOk .dom = true ∧ isNext (exec (.fence .dom) s) s.passed = true
    ∧ s.fenceOk .sys = true ∧ s.me.op = .none ∧ isNext (exec (.fence .sys) s) s.sendFlush = true
    ∧ isNext (exec (.fence .sys) (slot0 s fun x => { x with op := .done 0 })) s.passed = true
    ∧ isNext (exec (.waitc 0 0 0 0) s) s.passed = true
    ∧ mayIssue { rd := [1, 2], wr := [9] } w = true ∧ w.mayPut 9 = true ∧ w.mayGo 0 0x1000 = true ∧ w.accessCheck permR 0x1000 8 8 false = none
    ∧ w.me.wake = true ∧ isNext (exec (.waitaddr 9 1 2 0 0) w) ((w.updMe fun z => { z with wake := false }).writeReg 0 9 5 6).passed = true
    ∧ mayIssue { rd := [1, 3], wr := [9] } s = true ∧ s.me.wake = false ∧ s.rd8 0x1000 ≠ s.operand 3
    ∧ isNext (exec (.waitaddr 9 1 3 0 0) s) (s.wrote [1, 3] 9 5 6) = true := by decide +kernel

/-- FullEmptyWords: a full and an empty local word, a remote initialisation, and a remote LDE and STF at their word. -/
theorem test_met_FullEmptyWords :
    let s0 := regs (base.wr 0x1000 8 5) [0x1000, 7, 0x1000100000001000]
    let s : State := { s0 with fe := FMap.set false s0.fe 0x1000 true }
    let f : Flight := { id := 3, thr := 0, pid := 1, addr := 0x1000100000001000, n := 8, op := .lde, stage := .atNI 1 }
    let k := scratchKey 1 0x1000
    let l : State := { s0 with flights := [f], fe := [(k, true)], wordQueue := [{ flight := 3, lde := true }], ids := 4 }
    let m : State := { s0 with flights := [{ f with op := .stf 9 }], wordQueue := [{ flight := 3, lde := false }], ids := 4 }
    s.me.op = .none ∧ mayIssue { rd := [1], wr := [9] } s = true ∧ s.mayPut 9 = true ∧ s.mayGo 0 0x1000 = true
    ∧ s.feCheck permRW false 0x1000 = none ∧ s0.feCheck permRW true 0x1000 = none ∧ s.feCheck permW true 0x1000 = none
    ∧ FMap.get false s.fe 0x1000 = true ∧ s.queued 0x1000 true = false ∧ s.bytesFree 0x1000 8 = true
    ∧ isNext (exec (.lde 9 1 0 0 .n) s) ((({ s with fe := [] } : State).writeReg 0 9 5 6).passed) = true
    ∧ mayIssue { rd := [1, 2] } s0 = true ∧ s0.fenceOk .part = true ∧ FMap.get false s0.fe 0x1000 = false ∧ s0.queued 0x1000 false = false
    ∧ isNext (exec (.stf 1 2 0 0 .n) s0) (({ s0.wr8 0x1000 7 with fe := [(0x1000, true)] } : State).passed) = true
    ∧ isNext (exec (.feinitEmpty 1 2) s) (s.pendOp (.feinit 0x1000 false) 7).passed = true
    ∧ isNext (exec (.feinitFull 1 2) s) (s.pendOp (.feinit 0x1000 true) 7).passed = true
    ∧ (∀ j < 8, s.owned (0x1000 + j) 1 = false) ∧ (due0 s (.feinit 0x1000 false) 7).performDue 0 = { s.wr8 0x1000 7 with fe := [] }
    ∧ mayIssue { rd := [3, 2] } s = true ∧ s.feCheck permW true 0x1000100000001000 = none ∧ s.me.cnt.val (storeCtr 0x1000100000001000) < 255
    ∧ isNext (exec (.feinitFull 3 2) s) ((s.addCount 0 (storeCtr 0x1000100000001000)).sent
      { id := 0, thr := 0, pid := 0, addr := 0x1000100000001000, n := 8, op := .feinit 7 true, ctr := storeCtr 0x1000100000001000 }).passed = true
    ∧ l.flight 3 = some f ∧ l.shareAt 1 1 (offset f.addr) 8 = some k ∧ l.owned k 8 = false ∧ l.firstAt f k true = true
    ∧ isNext (exec (.ldePerform 3) l) ((({ l with fe := [] } : State).setStage 3 (.resp 0)).respond 3 1) = true
    ∧ m.firstAt { f with op := .stf 9 } k false = true
    ∧ isNext (exec (.stfPerform 3) m) ((({ m.wr8 k 9 with fe := [(k, true)] } : State).setStage 3 .ack).respond 3 1) = true := by decide +kernel

/-- AtomicsActInOneStep: both sizes, a compare that stands and one that does not, a pair, and a remote word. -/
theorem test_met_AtomicsActInOneStep :
    let s := regs ((base.wr 0x1000 8 5).wr 0x1010 16 (5 + 2 ^ 64 * 6)) [0x1000, 7, 0x1010, 5, 6, 5, 0x1000100000001000]
    s.me.bst = false ∧ ordReleases .acq = false ∧ s.mayPut 10 = true ∧ mayIssue { rd := [1, 2], wr := [10] } s = true ∧ s.mayGo 0 0x1000 = true
    ∧ s.atomicCheck 0x1000 8 false = none ∧ s.bytesFree 0x1000 8 = true
    ∧ isNext (exec (.amo 10 1 2 .add true .rlx .slot) s) (((s.wr 0x1000 8 12).writeReg 0 10 5 6).passed) = true
    ∧ isNext (exec (.amo 10 1 2 .swap false .acq .part) s) (((s.wr 0x1000 4 7).writeReg 0 10 5 6).passed) = true
    ∧ mayIssue { rd := [1, 4, 2], wr := [10] } s = true ∧ isNext (exec (.cas 10 1 4 2 true .rlx .slot) s) (((s.wr 0x1000 8 7).writeReg 0 10 5 6).passed) = true
    ∧ mayIssue { rd := [1, 2, 4], wr := [10] } s = true ∧ isNext (exec (.cas 10 1 2 4 true .rlx .slot) s) ((s.writeReg 0 10 5 6).passed) = true
    ∧ mayIssue { rd := [3, 4, 5, 2, 3], wr := [10, 11] } s = true ∧ s.atomicCheck 0x1010 16 false = none ∧ s.bytesFree 0x1010 16 = true
    ∧ isNext (exec (.cas2 10 3 4 2 .rlx .slot) s)
      ((((s.wr 0x1010 16 (7 + 2 ^ 64 * 0x1010)).writeReg 0 10 5 6).writeReg 0 11 6 6).passed) = true
    ∧ mayIssue { rd := [1, 2] } s = true ∧ s.atomicCheck 0x1000 4 true = none
    ∧ isNext (exec (.red 1 2 .max false .rlx .slot) s) ((s.wr 0x1000 4 7).passed) = true
    ∧ space (s.operand 7) = 1 ∧ mayIssue { rd := [7, 2], wr := [10] } s = true ∧ s.mayGo 0 (s.operand 7) = true ∧ s.atomicCheck (s.operand 7) 8 false = none
    ∧ s.me.cnt.ldc < 63 ∧ isNext (exec (.amo 10 7 2 .add true .rlx .slot) s) ((((s.addCount 0 0).markBusy 0 10).sent
      { id := 0, thr := 0, pid := 0, addr := s.operand 7, n := 8, op := .amo 0 7, ret := .scalar 10 false, ctr := 0 }).passed) = true
    ∧ amoFun 4 4 0x80000000 1 = 0x80000000 ∧ amoFun 6 4 0x80000000 1 = 1 ∧ amoFun 0 4 0xFFFFFFFF 1 = 0 ∧ amoFun 5 8 (2 ^ 63) 1 = 1 := by
  decide +kernel

/-- RemoteAccessesArrive: each stage. -/
theorem test_met_RemoteAccessesArrive :
    let k := scratchKey 1 0x1000
    let f : Flight := { id := 3, thr := 0, pid := 1, addr := 0x1000100000001000, n := 8, op := .load, ret := .scalar 9 false, ctr := 0, stage := .net 1 }
    let s (g : Flight) : State := { base.wr k 8 5 with flights := [g] }
    let far : Flight := { f with addr := 0x1000100000100000 }
    let st : Flight := { f with op := .store [(0, 7, 0xFF)], ret := .none, ctr := 1 }
    let h : Flight := { st with stage := .home (hbmKey 64) }
    let a : Flight := { f with op := .amo 0 3, stage := .atNI 1 }
    (s f).flight 3 = some f ∧ (s f).ready f = true ∧ ((s f).quad 1).closed = false ∧ (s f).shareAt 1 1 (offset f.addr) 8 = some k ∧ (s f).owned k 8 = false
    ∧ isNext (exec (.remoteAccessArrival 3) (s f)) ((((((s f).noteForwards f).draw).setStage 3 (.resp ((s f).loadAt f k))).respond 3 1)) = true
    ∧ (s far).ready far = true ∧ (s far).shareAt 1 1 (offset far.addr) 8 = none ∧ isNext (exec (.remoteAccessArrival 3) (s far)) (((s far).setStage 3 .denied).respond 3 1) = true
    ∧ (s st).ready st = true ∧ isNext (exec (.remoteAccessArrival 3) (s st)) ((((s st).writeW k [(0, 7, 0xFF)]).setStage 3 .ack).respond 3 1) = true
    ∧ isNext (exec (.remoteDenial 3) (s { f with stage := .denied }))
      ((((s { f with stage := .denied }).dropRet { f with stage := .denied }).finishFlight { f with stage := .denied }).postAsync 0 0x07 f.addr) = true
    ∧ isNext (exec (.loadResponse 3) (s { f with stage := .resp 5 }))
      (((s { f with stage := .resp 5 }).arriveReg 0 9 5 0 f.due).finishFlight { f with stage := .resp 5 }) = true
    ∧ isNext (exec (.storeAck 3) (s { st with stage := .ack })) ((s { st with stage := .ack }).finishFlight { st with stage := .ack }) = true
    ∧ isHbm (hbmKey 64) = true ∧ (s h).mayPerform h = true ∧ (s h).owned (hbmKey 64) 8 = false
    ∧ isNext (exec (.homeStore 3) (s h)) (((((s h).writeW (hbmKey 64) [(0, 7, 0xFF)]).invalidateOthers (dieOf 0) (lineOf 64)).cacheStore 0 64 1
      h.cp).setStage 3 .ack) = true
    ∧ a.loads = true ∧ isNext (exec (.niAtomic 3) (s a)) ((((s a).wr k 8 8).setStage 3 (.resp 5)).respond 3 1) = true
    ∧ (s { a with stage := .home (hbmKey 64) }).heldInRouter 3 = false
    ∧ nextIs (exec (.homeAtomic 3) (s { a with stage := .home (hbmKey 64) })) (fun t => memByte t.mem (hbmKey 64) = 3) = true := by decide +kernel

/-- RepliesCompleteHeads: each answer, and what completes at once. -/
theorem test_met_RepliesCompleteHeads :
    let d (v : Nat) : State := slot0 base fun x => { x with op := .done v }
    let n := slot0 base fun x => { x with op := .denied }
    let s := regs (base.wr 0x1000 8 (2 ^ 63 + 2)) [0x1000, 0, 1, 0x40]
    let busy := s.setSlot 1 (slotAt 0x20)
    (d 9).me.op = .done 9 ∧ (d 9).mayPut 5 = true ∧ isNext (exec (.lde 5 1 0 0 .n) (d 9)) ((d 9).wrote [] 5 9 3) = true
    ∧ isNext (exec (.spill 5 1 2) (d 0)) ((d 0).wrote [] 5 0 3) = true ∧ isNext (exec (.gang 1) (d 0)) (d 0).passed = true
    ∧ isNext (exec (.tset 1 2) (d (2 ^ 64))) (d (2 ^ 64)).passed = true ∧ isNext (exec (.barset 0 1) (d bsDone)) (d bsDone).passed = true
    ∧ n.me.op = .denied ∧ isNext (exec (.lde 5 1 0 0 .n) n) n.passed = true ∧ isNext (exec (.touchWr 1) n) n.passed = true
    ∧ s.me.op = .none ∧ mayIssue { rd := [1] } s = true ∧ spaceCheck s.super 0x1000 = none ∧ s.localCheck 0 permR 0x1000 1 = none
    ∧ s.localCheck 0 permW 0x1000 1 = none ∧ isNext (exec (.touchRd 1) s) s.passed = true ∧ isNext (exec (.touchWr 1) s) s.passed = true
    ∧ mayIssue { rd := [2, 4], wr := [5], sup := some (0x5240 + 5) } s = true ∧ s.threadKey 1 0 = some 0 ∧ s.threadKey 1 1 = some 1 ∧ s.runs 1 1 = true
    ∧ isNext (exec (.spill 5 2 4) s) (s.wrote [2, 4] 5 1 3) = true ∧ (s.slot 1).st = .free
    ∧ isNext (exec (.spill 5 3 4) s) (s.wrote [3, 4] 5 2 3) = true
    ∧ mayIssue { rd := [3, 4], wr := [5], sup := some (0x5340 + 5) } busy = true ∧ busy.stopped 1 = false ∧ (busy.slot 1).st = .ready
    ∧ isNext (exec (.restor 5 3 4) busy) (busy.wrote [3, 4] 5 1 3) = true
    ∧ mayIssue { rd := [1, 4] } s = true ∧ s.me.optimistic = false ∧ s.mayGo 0 0x1000 = true ∧ s.cellCheck 0x1000 = none ∧ s.fenceOk .part = true
    ∧ s.bytesFree 0x1000 16 = true ∧ (s.rd8 0x1000).getLsbD 63 = true ∧ (s.tsetCell 0x1000 0x40).isSome = true
    ∧ nextIs (exec (.tset 1 4) s) (fun t => t.rd8 0x1000 = 0x8000000000000040) = true := by decide +kernel

/-- VectorLoads: two lanes of a local line, of strides and of an index; one lane of another quad; no active lane; the same of stores. -/
theorem test_met_VectorLoads :
    let s := (regs ((base.wr 0x1000 8 0x600000005).setM 0 1 3) [0x1000, 16, 0x1000100000001000]).setM 0 2 0
    let es := footElems 0x1000 0 3
    let out := lanesOut 32 64 3 (s.localLanes 0 es)
    let st := s.setV 0 2 0x900000008#2048
    let bs (_ : State) (k n v : Nat) : List WByte := (wholeBytes n v).map fun y => (k + y.1, y.2.1, y.2.2)
    mayIssue { rd := [1], vs := [2], ms := [1] } s = true ∧ s.mayGo 0 0x1000 = true ∧ es.length = 2 ∧ s.footCheck permR 0x1000 es = none
    ∧ (∀ e ∈ es, s.bytesFree (s.localKey 0 (offset e.addr)) e.n = true)
    ∧ isNext (exec (.vld 2 1 0 1 0 .n) s) (((s.updMyCore fun c => { c with pend := c.pend ++
        [{ due := c.cycle + 8, slot := 0, pc := 0x1002, op := .vec 2 out.1 out.2 }] }).updMe fun z => { z with busy := z.busy ++ [66] }).passed) = true
    ∧ mayIssue { rd := [1], vs := [2], ms := [2] } s = true ∧ footElems 0x1000 0 0 = [] ∧ isNext (exec (.vld 2 1 0 2 0 .n) s) s.passed = true
    ∧ mayIssue { rd := [1, 2], vs := [2], ms := [1] } s = true ∧ s.elemChecks permR 0x1000 (laneElems 3 0 (strided 0x1000 16)) = none
    ∧ nextIs (exec (.vlds 2 1 2 1 0) s) (fun t => t.myCore.pend.length = 1) = true
    ∧ mayIssue { rd := [3, 2], vs := [2], ms := [1] } s = true ∧ s.mayGo 0 (s.operand 3) = true
    ∧ s.elemChecks permR (s.operand 3) (laneElems 3 0 (strided (s.operand 3) 16)) = none ∧ s.me.cnt.ldc < 63
    ∧ nextIs (exec (.vlds 2 3 2 1 0) s) (fun t => t.flights.length = 2 && t.groups.length = 1 && t.me.cnt.ldc = 1) = true
    ∧ s.footCheck permW 0x1000 es = none ∧ isNext (exec (.vst 2 1 0 1 0 .n) st) ((st.pendAt (.store 0 (bs st 0x1000 8 0x900000008)) 0 3).passed) = true
    ∧ (∀ y ∈ bs st 0x1000 8 0x900000008, st.owned y.1 1 = false)
    ∧ (due0 st (.store 0 (bs st 0x1000 8 0x900000008)) 0).performDue 0 = st.wr 0x1000 8 0x900000008
    ∧ st.elemChecks permW 0x1000 (laneElems 3 0 (indexed 0x1000 (st.vReg 0 3) 0)) = none ∧ mayIssue { rd := [1], vs := [2, 3], ms := [1] } st = true
    ∧ isNext (exec (.vscat 2 1 3 1 0) st) ((st.pendAt (.store 0 (bs st 0x1000 4 8 ++ bs st 0x1000 4 9)) 0 3).passed) = true := by decide +kernel

/-- TranslationsEnd: a page that the walk finds, a stage-1 and a stage-2 fault with their replies, and a page that moves. -/
theorem test_met_TranslationsEnd :
    let f : Flight := { id := 3, thr := 0, pid := 1, addr := 0x2000000000003000, n := 8, op := .load, ret := .scalar 9 false, ctr := 0, stage := .xlate }
    let e : TlbEntry := { loc := 10000 + xlateDie 0x3000 1, pid := 1, va := 0x3000, size := 4096, pa := 0x7000, rd := true, wr := true, ex := true }
    let s (g : Flight) : State := { base with flights := [g] }
    let hit : State := { s f with tlb := [e] }
    let root := (s f).updPart 1 fun p => { p with s1root := 1, s2 := [{ ipa := 0, size := 4096, pa := 0 }] }
    let pt := { part1 with s2 := [{ ipa := 0x3000, size := 4096, pa := 0x5000 }], threshold := 4 }
    let mv : State := { base with parts := [(1, pt)], place := [(5, { leader := 6, count := 4 })], mem := [(hbmKey 0x5FFF, 9)] }
    hit.flight 3 = some f ∧ hit.tlbFind (10000 + xlateDie 0x3000 1) 1 0x3000 permR false = some e
    ∧ isNext (exec (.translationRequest 3) hit) ((hit.tlbAdd { e with loc := 0 }).setHome 3 (hbmKey 0x7000) (0x3000, 4096)) = true
    ∧ root.tlbFind (10000 + xlateDie 0x3000 1) 1 0x3000 permR false = none ∧ root.tlbFind (20000 + xlateDie 0x3000 1) 1 0x3000 permR false = none
    ∧ root.translate 1 0x3000 permR = (.fault1 0, none)
    ∧ nextIs (exec (.translationRequest 3) root) (fun t => t.flights.map (fun g => g.stage) = [.fault false]) = true
    ∧ (s f).translate 1 0x3000 permR = (.fault2, none) ∧ isNext (exec (.translationRequest 3) (s f)) ((s f).draw.setStage 3 (.s2 false)) = true
    ∧ isNext (exec (.faultNotice 3) (s { f with stage := .s2 false })) (s { f with stage := .s2 true }) = true
    ∧ isNext (exec (.faultNotice 3) (s { f with stage := .fault false })) (s { f with stage := .fault true }) = true
    ∧ isNext (exec (.stage2FaultReply 3 true) (s { f with stage := .s2 true })) (s f) = true
    ∧ isNext (exec (.stage2FaultReply 3 false) (s { f with stage := .s2 true }))
      ((s { f with stage := .s2 true }).failFlights 0 [{ f with stage := .s2 true }] 0xFFF) = true
    ∧ isNext (exec (.atsReply 3 false) (s { f with stage := .ats })) ((s { f with stage := .ats }).failFlights 0 [{ f with stage := .ats }] 0xFFE) = true
    ∧ nextIs (exec (.atsReply 3 true) (s { f with stage := .ats })) (fun t => t.flights.map (fun g => g.stage) = [.home (hostKey 1 0x3000)]) = true
    ∧ pt.live = true ∧ pt.threshold ≤ (FMap.get {} mv.place 5).count ∧ (FMap.get {} mv.place 5).leader ≠ 5 % 288 ∧ 294 % 288 = 6
    ∧ mv.panel.mappable pt.key (294 * 4096) 4096 = true
    ∧ nextIs (exec (.pageMigration 5 294) mv) (fun t => (t.part 1).s2 = [{ ipa := 0x3000, size := 4096, pa := 294 * 4096 }]
      && FMap.get {} t.place 5 = {}) = true := by decide +kernel

/-- WiredBarriers: a member that arrives, a disabled group, no member, an optimistic task; a release and a new mask. -/
theorem test_met_WiredBarriers :
    let m (v : Word) (s : State) : State := quad0 s fun q => { q with barmask := [(31, v)] }
    let s := m 0x100000001 base
    let a := quad0 s fun q => { q with arrived := [{ g := 31, slot := 0 }] }
    let b : Barset := { g := 31, thr := 0, addr := 0, masks := [(0, 0x100000003)] }
    let i := base.updPart 1 fun p => { p with barsets := [b] }
    s.barsetting 1 31 = false ∧ (FMap.get 0 s.myQuad.barmask 31).getLsbD 32 = true ∧ (FMap.get 0 s.myQuad.barmask 31).getLsbD 0 = true
    ∧ s.me.optimistic = false ∧ s.pendingArrival 0 31 = false ∧ s.storesPending 0 = [] ∧ isNext (exec (.waitb 31) s) s.passed = true ∧ s.me.bst = false ∧ s.me.task.repeats = none
    ∧ nextIs (exec (.arrive 31) s) (fun t => t.myQuad.arrived = [{ g := 31, slot := 0, after := 0 }] && t.me.pc = 0x1004) = true
    ∧ (FMap.get 0 base.myQuad.barmask 31).getLsbD 32 = false ∧ isNext (exec (.arrive 31) base) (base.enterTrap 0 0x10 31 0x1002) = true
    ∧ isNext (exec (.waitb 31) (m 0x100000002 base)) ((m 0x100000002 base).enterTrap 0 0x10 (31 + 256) 0x1002) = true
    ∧ (m 0x100000001 opti).me.optimistic = true
    ∧ isNext (exec (.arrive 31) (m 0x100000001 opti)) ((m 0x100000001 opti).enterTrap 0 0x10 (31 + 768) 0x1002) = true
    ∧ a.quadArrived 1 0 31 = true ∧ fld (FMap.get 0 (a.quad 0).barmask 31) 0 32 ≠ 0
    ∧ isNext (exec (.barrierRelease 1 31) a) ((a.notePassed 1 31).clearArrivals 1 31) = true
    ∧ (i.part 1).barsets = [b] ∧ (∀ qi ∈ i.quadsOf 1, ∀ x ∈ (i.quad qi).arrived, x.g ≠ 31)
    ∧ nextIs (exec (.barsetInstall 1 31) i) (fun t => FMap.get 0 (t.quad 0).barmask 31 = 0x100000003 && (t.part 1).barsets = []) = true := by
  decide +kernel

/-- TransactionBarriers: the first and the last arrival count, one arrival of two and of one, one too many, a phase that differs. -/
theorem test_met_TransactionBarriers :
    let s := regs base [0x1000, 1, 2, 0xFFFFF]
    let z : Tb := { phase := 15, parr := 2, exparr := 2, pbytes := 0, ovf := false, init := true, rest := 0 }
    let u := s.setTb 0x1000 z
    let v := s.setTb 0x1000 { z with parr := 1 }
    let w := s.setTb 0x1000 { z with parr := 0, pbytes := 5 }
    s.mayPut 9 = true ∧ mayIssue { rd := [1, 2] } s = true ∧ s.mayGo 0 0x1000 = true ∧ s.tbCheck permRW 0x1000 false = none ∧ s.bytesFree 0x1000 16 = true
    ∧ isNext (exec (.tbinit 1 2) s) (s.setTb 0x1000 { z with phase := 0, parr := 1, exparr := 1 }).passed = true
    ∧ isNext (exec (.tbinit 1 4) s) (s.setTb 0x1000 { z with phase := 0, parr := 0xFFFFF, exparr := 0xFFFFF }).passed = true
    ∧ u.tbCheck permRW 0x1000 true = none ∧ u.tb 0x1000 = z ∧ isNext (exec (.tbexp 1 3) u) (s.setTb 0x1000 { z with pbytes := 2 }).passed = true
    ∧ mayIssue { rd := [1], wr := [9] } u = true ∧ u.fenceOk .part = true
    ∧ isNext (exec (.tbarr 9 1) u) ((s.setTb 0x1000 { z with parr := 1 }).writeReg 0 9 15 6).passed = true
    ∧ isNext (exec (.tbarr 9 1) v) ((s.setTb 0x1000 { z with phase := 0, parr := 2 }).writeReg 0 9 15 6).passed = true
    ∧ (w.tb 0x1000).parr = 0 ∧ isNext (exec (.tbarr 9 1) w) ((w.setTb 0x1000 { z with parr := 0, pbytes := 5, ovf := true }).enterTrap 0 0x0E 0x1001 0x1002) = true
    ∧ u.tbCheck permR 0x1000 true = none ∧ (u.tb 0x1000).phase ≠ 1 ∧ isNext (exec (.tbwait 1 2) u) u.passed = true
    ∧ mayIssue { rd := [1, 2], wr := [9] } u = true ∧ isNext (exec (.tbtest 9 1 2) u) (u.wrote [1, 2] 9 1 6) = true
    ∧ (Tb.ofNat (2 ^ 128 - 1)).toNat = 2 ^ 128 - 1 := by decide +kernel

/-- A channel 0 of 8-byte elements from thread w to thread r, with a ring of four at offset 0x4000. -/
def chan (w r : Nat) : ChanEnt := { id := 0, pid := 1, valid := true, ringLog := 2, writer := w, reader := r, ring := some 0x4000 }
def withChan (s : State) (e : ChanEnt) : State := quad0 s fun q => { q with chans := [e] }

/-- ChannelHeads: a writer with and without room; a reader of an open, a closed, a poisoned and a filled channel. -/
theorem test_met_ChannelHeads :
    let s := withChan (regs base [0, 7]) (chan 0 32)
    let f := withChan (regs base [0, 7]) { chan 0 32 with wtail := 4 }
    let r (e : ChanEnt) : State := withChan (regs base [0, 7]) e
    let got := (r { chan 32 0 with tail := 1, sph := 1 }).wr (scratchKey 0 0x4000) 8 0x77
    let gone := s.sendPush 0 (chan 0 32) (leBytes 8 7) false true 0x1002
    s.me.optimistic = false ∧ s.me.bst = false ∧ chanId (s.operand 1) 0 = 0 ∧ (0 : Nat) < s.myPart.chanCount ∧ s.chanAt 0 1 0 = some (chan 0 32)
    ∧ (chan 0 32).writer = s.relThread 0 ∧ s.me.task.closed = [] ∧ s.acquiring = false ∧ s.fenceOk .part = true ∧ s.me.cnt.stcS < 255
    ∧ (chan 0 32).writerRoom = true ∧ mayIssue { rd := [1, 2] } s = true ∧ isNext (exec (.chpush .s 1 2 0) s) gone.passed = true
    ∧ mayIssue { rd := [1, 2], wr := [9] } s = true ∧ isNext (exec (.choffer .s 9 1 2 0) s) (gone.writeReg 0 9 0 6).passed = true
    ∧ ({ chan 0 32 with wtail := 4 } : ChanEnt).writerRoom = false ∧ isNext (exec (.choffer .s 9 1 2 0) f) (f.wrote [] 9 1 6) = true
    ∧ mayIssue { rd := [1] } s = true ∧ isNext (exec (.chclose 1 0) s) (s.sendPush 0 (chan 0 32) [] true true 0x1002).passed = true
    ∧ (chan 32 0).reader = s.relThread 0 ∧ mayIssue { rd := [1], wr := [9, 10] } (r (chan 32 0)) = true
    ∧ isNext (exec (.chpop .s 9 1 10 0) (r { chan 32 0 with state := 2 })) ((r { chan 32 0 with state := 2 }).wrote [] 9 3 6) = true
    ∧ isNext (exec (.chpop .s 9 1 10 0) (r { chan 32 0 with state := 1 })) ((r { chan 32 0 with state := 1 }).wrote [] 9 2 6) = true
    ∧ isNext (exec (.chtake .s 9 1 10 0) (r (chan 32 0))) ((r (chan 32 0)).wrote [] 9 1 6) = true
    ∧ isNext (exec (.chpop .s 9 1 10 0) got)
      ((((got.touchChan 0 (({ chan 32 0 with tail := 1, sph := 1 } : ChanEnt).popped false)).writeReg 0 9 0 6).writeReg 0 10 0x77 6).passed) = true
    ∧ isNext (exec (.chpeek .s 9 1 10 0) got)
      ((((got.touchChan 0 { chan 32 0 with tail := 1, sph := 1 }).writeReg 0 9 0 6).writeReg 0 10 0x77 6).passed) = true
    ∧ mayIssue { rd := [1], wr := [9] } got = true ∧ isNext (exec (.chlen 9 1 0) got)
      ((got.touchChan 0 { chan 32 0 with tail := 1, sph := 1 }).writeReg 0 9 1 6).passed = true
    ∧ s.unacked 0 1 0 = false ∧ s.chanWaits 0 (chan 0 32) = false ∧ s.isHome 0 (chan 0 32) = false
    ∧ isNext (exec (.chinv 1 0) s) (s.dropChan 0 (chan 0 32)).passed = true := by decide +kernel

/-- ChannelHomeEvents, pushes: into the ring, of an element behind TAIL, of a poisoned channel, a close; the answers at the writer. -/
theorem test_met_ChannelHomeEvents :
    let e := chan 32 0
    let p : PushMsg := { id := 3, pid := 1, ch := 0, seq := 0, data := leBytes 8 0x77, src := 1024, home := 0, reader := 0 }
    let s (e : ChanEnt) (p : PushMsg) : State := { withChan base e with pushes := [p] }
    let cl := { p with close := true, data := [] }
    let a (r : Bool) : State := { base with pushes := [{ p with src := 0, acked := true, refused := r }] }
    (s e p).threadKey 1 0 = some 0 ∧ (s e p).arrived p.pkt = true ∧ ((s e p).quad 0).contained = false ∧ (s e p).chanAt 0 1 0 = some e
    ∧ (s e p).invalidating 0 p e = false
    ∧ isNext (exec (.channelPushAccept 3) (s { e with state := 2 } p)) ((s { e with state := 2 } p).answerPush p false) = true
    ∧ isNext (exec (.channelCloseApply 3) (s { e with tail := 1 } cl)) ((s { e with tail := 1 } cl).answerPush cl false) = true
    ∧ e.tail - e.keep < e.cap ∧ ((s e p).slotIn 1 0).bst = false ∧ (s e p).elemWaits 0 e 0 = false ∧ (s e p).ringKey 0 e 0x4000 0 = scratchKey 0 0x4000
    ∧ isNext (exec (.channelPushAccept 3) (s e p))
      (((((s e p).noteBlock 0 (scratchKey 0 0x4000)).wrBytes (scratchKey 0 0x4000) p.data).touchChan 0 { e with tail := 1, sph := 1 }).answerPush p false) = true
    ∧ isNext (exec (.channelCloseApply 3) (s e cl)) (((s e cl).setChan 0 { e with state := 1 }).answerPush cl false) = true
    ∧ (a false).flight 3 = none ∧ isNext (exec (.storeAck 3) (a false)) (base.endCount 0 1) = true
    ∧ nextIs (exec (.storeAck 3) (a true)) (fun t => (t.slot 0).async.map (fun c => (c.code, c.info)) = [(0x0A, 0x6000)] && t.pushes = []) = true := by
  decide +kernel

/-- ChannelHomeEvents, the home's engine: fills of an entry that is not valid, with a ring, and with none that fits; a refill of the
last spilled element; an eviction for a fill, a report, a pop from spill with D and B one register. -/
theorem test_met_ChannelHomeEvents_engine :
    let e := chan 32 0
    let f : Flight := { id := 3, thr := 0, pid := 1, addr := 0x1000000000002000, n := 64, op := .load, ret := .fill 0 false, stage := .home 0x2000 }
    let fl (b : State) (w : Nat) : State := { b.wr 0x2000 16 w with flights := [f] }
    let x (b : State) (w : Nat) : ChanEnt := (fl b w).fillEntry 0 0 1 f.addr fun n => (fl b w).rd8 (0x2000 + 8 * n)
    let in_ (b : State) (w : Nat) : State := ((fl b w).takeId.removeFlight f).touchChan 0 (x b w)
    let v := 2 ^ 100 + 2 ^ 59 + 2 * 2 ^ 51 + 32 * 2 ^ 16
    let pool := base.updPart 1 fun p => { p with chbase := 0x20000000000000 }
    let sp : SpillPop := { qi := 0, ch := 0, thr := 0, d := 9, b := 9, kind := 0, data := leBytes 8 5 }
    let pop : State := { base with spillPops := [sp] }
    let y := { e with tail := 1, letLim := 8, spillBase := 0x100 }
    let rf := (withChan base y).updPart 1 fun q => { q with s2 := [{ ipa := 0, size := 2 ^ 30, pa := 0 }] }
    let wr := (withChan base e).updQuad 1 fun q => { q with chans := [{ e with wtail := 1 }] }
    let full := quad0 { base with flights := [{ f with ret := .fill 64 false }] } fun q => { q with chans := (List.range 64).map fun n => { chan 0 32 with id := n } }
    (fl base 0).chanAt 0 1 0 = none ∧ (fl base 0).owned 0x2000 64 = false ∧ (x base 0).valid = false
    ∧ isNext (exec (.channelFill 0 0) (fl base 0)) (in_ base 0) = true
    ∧ (x pool v).valid = true ∧ (fl pool v).isHome 0 (x pool v) = true ∧ ((fl pool v).quad 0).ctxs.length < 2 ∧ (x pool v).state ≠ 2
    ∧ (in_ pool v).ringFit 0 (x pool v) = some 0xB0000
    ∧ isNext (exec (.channelFill 0 0) (fl pool v)) ((in_ pool v).setChan 0 { x pool v with ring := some 0xB0000 }) = true
    ∧ (in_ base v).ringFit 0 (x base v) = none ∧ isNext (exec (.channelFill 0 0) (fl base v)) (in_ base v) = true
    ∧ (rf.chansHere 0 0) = [y] ∧ rf.isHome 0 y = true ∧ y.sph - y.keep < y.cap ∧ rf.elemWaits 0 y 0 = false ∧ (rf.spillRead 0 y 0).toOption.isSome = true
    ∧ nextIs (exec (.channelRefill 0 0) rf) (fun t => (t.quad 0).chans.map (fun x => (x.sph, x.letout)) = [(1, false)]) = true
    ∧ (full.victim 0).map (fun x => x.id) = some 0 ∧ full.isHome 0 (chan 0 32) = false ∧ ({ f with ret := .fill 64 false } : Flight).fills = true
    ∧ full.unacked 0 1 0 = false ∧ full.chanWaits 0 (chan 0 32) = false
    ∧ isNext (exec (.channelEviction 0 0) full) (full.dropChan 0 (chan 0 32)) = true
    ∧ wr.threadKey 1 32 = some 32 ∧ wr.chanAt 1 1 0 = some { e with wtail := 1 } ∧ wr.isHome 0 e = true
    ∧ isNext (exec (.channelRoomReport 0 0) wr) (wr.setChan 1 { e with wtail := 1 }) = true
    ∧ pop.spillPops = [sp]
    ∧ isNext (exec (.channelSpillPopReturn 0 0) pop) ((({ pop with spillPops := [] } : State).arriveReg 0 9 0 0 0).arriveReg 0 9 5 0 0) = true := by
  decide +kernel

/-- LetOutDetector: a probe that leaves, is lost, is added to, finds a deadlock, expires, and asks for room. -/
theorem test_met_LetOutDetector :
    let e := { chan 32 0 with tail := 0 }
    let p : Probe := { id := 3, pid := 1, origin := 32, waitNo := 0, lowest := 0, target := 0 }
    let s (st : SlotSt) (p : Probe) : State := slot0 { withChan base e with probes := [p] } fun x => { x with st := st, chWaited := 2048 }
    let x := { chan 0 32 with tail := 4, allowance := 8, step := 2 }
    let big : State := { base.updQuad 1 (fun q => { q with chans := [x] }) with probes := [{ p with returned := true, cand := some (0, 8) }] }
    let old := (s (.blocked (.chEmpty 0)) p).updCore 4 fun c => { c with cycle := 4096 }
    ((s (.blocked (.chEmpty 0)) p).edgeOf 1 0).isSome = true ∧ 2048 + 4096 * ((s (.blocked (.chEmpty 0)) p).slot 0).probes ≤ 2048
    ∧ nextIs (exec (.probeSend 0) (s (.blocked (.chEmpty 0)) p)) (fun t => t.probes.length = 2 && (t.slot 0).probes = 1) = true
    ∧ (s .ready p).edgeOf 1 0 = none ∧ old.probeOld p = true ∧ isNext (exec (.probeArrival 3) old) { old with probes := [] } = true ∧ isNext (exec (.probeArrival 3) (s .ready p)) { s .ready p with probes := [] } = true
    ∧ p.target ≠ p.origin ∧ nextIs (exec (.probeArrival 3) (s (.blocked (.chEmpty 0)) p)) (fun t => t.probes.length = 1) = true
    ∧ p.lowest = 0 ∧ p.cand = none ∧ ((s (.blocked (.chEmpty 0)) p).slot 0).waitNo = p.waitNo
    ∧ nextIs (exec (.probeArrival 3) (s (.blocked (.chEmpty 0)) { p with origin := 0 })) (fun t => t.probes = []) = true
    ∧ nextIs (exec (.probeExpiry 3) ((s .ready { p with origin := 0 }).updCore 0 fun c => { c with cycle := 4096 })) (fun t => t.probes = []) = true
    ∧ big.homeEntry 1 0 = some (1, x) ∧ x.full = true
    ∧ nextIs (exec (.letoutRequest 3) big) (fun t => (t.quad 1).chans = [{ x with letLim := 2, allowance := 6, locnt := 1 }]) = true := by
  decide +kernel

/-- A header of one field of width 4 and extent 2 (R296). -/
def header : List Word := [0x1002, 1, 2112, 0x100000000, BitVec.ofNat 64 (32 + 16 * 64 + 2 * 2 ^ 16 + 4 * 2 ^ 35), 0, 0, 0]

/-- TaskHeads: a slot with a header; an armed cell above 1, at 1, and one that is not armed. -/
theorem test_met_TaskHeads :
    let s := quad0 (slot0 (regs (base.wr 0x1000 8 (2 ^ 63 + 2)) [0x1000]) fun x =>
      { x with task := { handle := some 0, piece := { org := [1], cnt := [1] }, wid := 1 } }) fun q => { q with recs := [(256, { hdr := header, pid := 1 })] }
    let o := regs opti [0x1000]
    let one := base.wr 0x1000 8 (2 ^ 63 + 1)
    s.mayPut 9 = true ∧ mayIssue { wr := [9] } s = true ∧ s.taskHdr 0 = header ∧ isNext (exec (.domain .ext 9 0) s) (s.wrote [] 9 2 3) = true
    ∧ isNext (exec (.domain .org 9 0) s) (s.wrote [] 9 1 3) = true ∧ isNext (exec (.domain .cnt 9 5) s) (s.wrote [] 9 0 3) = true
    ∧ isNext (exec (.domain .nf 9 0) s) (s.wrote [] 9 1 3) = true ∧ isNext (exec (.allow .cyc 9) s) (s.wrote [] 9 (BitVec.allOnes 64) 3) = true
    ∧ isNext (exec (.geom .mlo 9) s) (s.wrote [] 9 (word (s.geomOf 0).mlo) 3) = true
    ∧ mayIssue { rd := [1], wr := [9] } s = true ∧ isNext (exec (.keyhome 9 1) s) (s.wrote [1] 9 (word (keyHome part1.ring 0x1000)) 8) = true
    ∧ mayIssue { rd := [1] } s = true ∧ s.mayGo 0 0x1000 = true ∧ s.cellCheck 0x1000 = none ∧ s.me.optimistic = false ∧ s.fenceOk .part = true
    ∧ s.bytesFree 0x1000 16 = true ∧ isNext (exec (.dec 1) s) ((s.wr8 0x1000 0x8000000000000001).passed) = true
    ∧ mayIssue { rd := [1] } o = true ∧ o.mayHold (.dec 0x1000) = true ∧ isNext (exec (.dec 1) o) (o.held (.dec 0x1000)).passed = true
    ∧ o.me.optimistic = true ∧ o.splittable 0 = false ∧ isNext (exec .split o) o.passed = true
    ∧ isNext (exec .split s) (s.enterTrap 0 0x02 0 0x1002) = true
    ∧ base.decCell 0x1000 = base ∧ fld (one.rd8 0x1000) 0 32 = 1 ∧ (one.quad (one.ringQuad 0x1000)).ready = []
    ∧ (one.quad (one.ringQuad 0x1000)).pendCells = [] ∧ ((one.decCell 0x1000).rd8 0x1000).getLsbD 63 = false
    ∧ ((one.decCell 0x1000).quad 0).ready = [(1, 0)] := by decide +kernel

/-- LaunchAndSpawn: a launch and spawns on their way; headers that pass and that fail; a counted cell; the ready ring. -/
theorem test_met_LaunchAndSpawn :
    let mem := header.zipIdx.foldl (fun t e => t.wr8 (0x1000 + 8 * e.2) e.1) base
    let s := regs mem [0x1000, 1]
    let o := regs opti [0x1000, 1]
    let r : LaunchReq := { id := 3, quad := 0, pid := 1, hdr := 0x1000, thr := some 0 }
    let l (r : LaunchReq) : State := { mem with launches := [r] }
    let ans (r : LaunchReq) : Word × State := (l r).submit r header
    let sp : LaunchReq := { r with spawn := true, counted := true }
    let bad : LaunchReq := { sp with hdr := 0x2000 }
    let zeros : List Word := [0, 0, 0, 0, 0, 0, 0, 0]
    let f : Flight := { id := 3, thr := 0, pid := 1, addr := 0x1000100000001000, n := 16, op := .dec, stage := .atNI 1 }
    let dc : State := { base with flights := [f] }
    let pc := quad0 base fun q => { q with pendCells := [0x1000] }
    let rr := quad0 base fun q => { q with ready := [(1, 0)], recs := [(256, { hdr := header, pid := 1 })] }
    s.me.op = .none ∧ s.mayGo 0 0x1000 = true ∧ s.headerCheck 0x1000 = none ∧ s.me.optimistic = false ∧ s.fenceOk .part = true
    ∧ mayIssue { rd := [1, 2], wr := [9] } s = true
    ∧ isNext (exec (.launch 9 1 2) s) (({ s.takeId with launches := [{ r with id := 0, pc := 0x1002, override := some 1 }] } : State).await) = true
    ∧ mayIssue { rd := [1, 0] } s = true ∧ s.me.cnt.stcS < 255
    ∧ isNext (exec (.spawn 1 0) s) (({ (s.addCount 0 1).takeId with launches := [{ sp with id := 0, pc := 0x1002 }] } : State).passed) = true
    ∧ mayIssue { rd := [1, 0] } o = true ∧ o.headerCheck 0x1000 = none ∧ o.mayGo 0 0x1000 = true ∧ o.mayHold (.spawn 0x1000 none) = true
    ∧ isNext (exec (.spawn 1 0) o) (o.held (.spawn 0x1000 none)).passed = true
    ∧ (l r).hdrReason 0 1 header none none = 0 ∧ fld (ans r).1 0 8 = 0
    ∧ isNext (exec (.launchAccept 3) (l r)) (((ans r).2.dropLaunch 3).answerLaunch r (ans r).1) = true
    ∧ fld (ans sp).1 0 8 = 0 ∧ isNext (exec (.spawnAccept 3) (l sp)) (((ans sp).2.dropLaunch 3).endCount 0 1) = true
    ∧ (l bad).hdrReason 0 1 zeros none none = 1 ∧ fld ((l bad).submit bad zeros).1 0 8 = 2
    ∧ isNext (exec (.spawnAccept 3) (l bad)) ((((l bad).dropLaunch 3).endCount 0 1).postOrReport 0 0x02 1 0) = true
    ∧ dc.shareAt 1 1 0x1000 16 = some (scratchKey 1 0x1000) ∧ dc.owned (scratchKey 1 0x1000) 16 = false
    ∧ isNext (exec (.depCellDecrement 3) dc) ((dc.setStage 3 .ack).respond 3 1) = true
    ∧ (pc.quad 0).pendCells = [0x1000] ∧ nextIs (exec (.readyRingPush 0) pc) (fun t => (t.quad 0).ready = [(1, 0)] && (t.quad 0).pendCells = []) = true
    ∧ (rr.launchRec 1 0).hdr ≠ [] ∧ isNext (exec (.readyRecordPlace 0) rr) ((quad0 rr fun q => { q with ready := [] }).placeRec 1 0) = true := by
  decide +kernel

/-- RunListsAndBinding: a piece of another quad, an optimistic piece that binds, and an entry of 2^20 cycles in list 0 and in list 2. -/
theorem test_met_RunListsAndBinding :
    let w : Nat × Piece := (1, { org := [0], cnt := [2] })
    let e : Entry := { handle := 0, piece := w.2 }
    let q (f : Quad → Quad) : State := quad0 (base.updSlot 0 fun _ => {}) f
    let s := q fun x => { x with recs := [(256, { hdr := header, pid := 1, waiting := [w] })] }
    let b := q fun x => { x with recs := [(256, { hdr := header, pid := 1 })], lists := [(7, [e])] }
    let p (l : Nat) : State := (q fun x => { x with lists := [(4 + l, [e])] }).updRegion 0 fun r => { r with cycle := 2 ^ 20 }
    s.physQuad 1 1 = some 1 ∧ (s.quad 1).entries 1 < 4032
    ∧ nextIs (exec (.pieceEnqueue 0 256) s) (fun t => (t.quad 1).list 1 0 = [e] && (FMap.get {} (t.quad 0).recs 256).waiting = []) = true
    ∧ (b.quad 0).list 1 3 = [e] ∧ (b.launchRec 1 0).hdr = header ∧ b.bindSlot 0 = some 0 ∧ hdrEff header ≤ 65536 - b.effectUse 0
    ∧ b.allotFor 0 1 header = some 0 ∧ (b.region 0).mayBind = true ∧ hdrPin header = false
    ∧ nextIs (exec (.taskBind 0) b) (fun t => (t.slot 0).pc = 0x1002 && (t.slot 0).sr.status = 0x10 && (t.quad 0).list 1 3 = []) = true
    ∧ regionOf 0 = 0 ∧ nextIs (exec (.runListPromotion 0 0 0) (p 0)) (fun t => (t.quad 0).list 1 1 = [{ e with since := 2 ^ 20 }]) = true
    ∧ nextIs (exec (.runListPromotion 0 2 0) (p 2)) (fun t => (t.quad 0).list 1 3 = [{ e with since := 2 ^ 20 }] && (t.quad 0).list 1 2 = []) = true := by
  decide +kernel

/-- TasksEndAndDrain: a task that ends, a service slot, an empty drain, one store left, an allowance that has run out. -/
theorem test_met_TasksEndAndDrain :
    let svc := base.setSlot 0 (slotAt 0x31)
    let d : DrainTask := { thr := 0, pid := 1, handle := 0, recs := [] }
    let s (d : DrainTask) : State := quad0 base fun q => { q with drain := [d] }
    let one : DrainTask := { d with recs := [.store 0x1000 [(0, 9, 0xFF)]] }
    let c := slot0 task fun x => { x with sr := { x.sr with allow := 0 } }
    task.me.kind = 2 ∧ task.me.cnt = {} ∧ task.noPending 0 = true ∧ task.fenceOk .dom = true ∧ isNext (exec .tend task) (task.endTask 0) = true
    ∧ svc.me.kind = 3 ∧ isNext (exec .tend svc) (svc.enterTrap 0 0x02 0 0x1002) = true
    ∧ isNext (exec (.effectDrainRecord 0 0) (s d)) (base.pieceDone 1 (some 0) false) = true
    ∧ ((s one).drainKey one permW (0x1000 + word 0) 1).toOption = some 0x1000
    ∧ isNext (exec (.effectDrainRecord 0 0) (s one)) ((base.wr 0x1000 1 9).pieceDone 1 (some 0) false) = true
    ∧ (c.slot 0).sr.allow.getLsbD 48 = false ∧ (c.slot 0).optimistic = false ∧ (c.slot 0).task.cycRaised = false
    ∧ isNext (exec (.cycleAllowanceExhausted 0) c) ((c.updSlot 0 fun y => y.updTask fun t => { t with cycRaised := true }).postAsync 0 0x17 2) = true := by
  decide +kernel

/-- A scale block of 32 codes. -/
def scaleBlock (n : BitVec 16) : Scale := { seq := n, codes := List.replicate 32 127 }

/-- YokeHeads: the first and the last row of a drain, a block that is asked for, and an empty queue that is only asked. -/
theorem test_met_YokeHeads :
    let s := regs base [0x5001000, 3, 0x1000, BitVec.ofNat 64 (63 + 1 * 64), 256, 0x2000000000001000, 0x1001000, 3, 0x10000]
    let b := core0 s fun c => { c with slice := { scales := [scaleBlock 3] } }
    let named (t : State) (o : SliceOp) : State := ((t.takeId.enterOp o).addCount 0 6).passed
    s.mayPut 20 = true ∧ isNext (exec .wswap s) (s.enterOp .wswap).passed = true ∧ isNext (exec (.mzero 0 64) s) (s.enterOp (.mzero 0 64)).passed = true
    ∧ mayIssue { vs := [31] } s = true ∧ isNext (exec (.mread 31 63) s) (((s.updMe fun z => { z with busy := z.busy ++ [95] }).enterOp (.mread 0 63 31)).passed) = true
    ∧ mayIssue { rd := [6] } s = true ∧ s.mayGo 0 (s.operand 6) = true ∧ s.me.cnt.tlc < 15
    ∧ isNext (exec (.ltab 6) s) (({ s.takeId with ltabs := [{ id := 0, thr := 0, addr := s.operand 6 }] } : State).addCount 0 6).passed = true
    ∧ mayIssue { rd := [1, 2] } s = true ∧ s.mayGo 0 0x5001000 = true ∧ window 0x5001000 = 5 ∧ s.leaves 0 0x5001000 (imageBytes 5) = false
    ∧ s.guardTrap 0 permR 0x5001000 (imageBytes 5) = none ∧ isNext (exec (.wload 1 2) s) (named s (.wload 0 0 0x5001000 3 none)) = true
    ∧ mayIssue { rd := [7, 8] } b = true ∧ b.leaves 0 0x1001000 (imageBytes 1) = false ∧ intWindow 1 = false ∧ depthOf 1 = 32
    ∧ isNext (exec (.wloadSc 7 8) b) (named (b.updSlice 0 fun l => { l with scales := [] }) (.wload 0 0 0x1001000 3 (some (scaleBlock 3)))) = true
    ∧ mayIssue { rd := [3, 4, 5] } s = true ∧ s.mayGo 0 0x1000 = true ∧ drainBad (s.operand 4) = false
    ∧ s.drainTrap 0 0x1000 256 1 (32 * outBytes .f32) = none
    ∧ isNext (exec (.mdrain .f32 .rne 3 4 5) s) (named s (.mdrain 0 0 false .f32 .rne 0x1000 63 1 256 0 0)) = true
    ∧ mayIssue { rd := [4] } s = true ∧ s.acquiring = false ∧ isNext (exec (.mdrainPort .i32 .rne 4) s) (named s (.mdrain 0 0 true .i32 .rne 0 63 1 0 0 0)) = true
    ∧ mayIssue { rd := [8], wr := [20] } b = true ∧ isNext (exec (.sbtake 20 8) b)
      ((b.updSlice 0 fun l => { l with scales := [], staged := some (scaleBlock 3) }).writeReg 0 20 0 3).passed = true
    ∧ mayIssue { rd := [9], wr := [20] } s = true ∧ isNext (exec (.sbtake 20 9) s) (s.wrote [9] 20 0xFFFFFFFFFFFFFFFF 3) = true := by decide +kernel

/-- YokeEvents: a table, an image, a c28 command, a gang's last row, a drained row, a handle, a pop; the sum of one element. -/
theorem test_met_YokeEvents :
    let o : LtabOp := { id := 3, thr := 0, addr := 0x2000000000001000 }
    let map (s : State) : State := s.updPart 1 fun p => { p with s2 := [{ ipa := 0, size := 2 ^ 30, pa := 0 }] }
    let lt : State := { map (base.wr (hbmKey 0x1000) 4 9) with ltabs := [o] }
    let ops (l : List SliceOp) : State := core0 base fun c => { c with slice := { ops := l } }
    let wl := ops [.wload 5 0 0x5001000 0 none]
    let part : GangPart := { idle := false, mcnt := 1 }
    let g : Gang := { id := 4, asrc := 0x5001000, rows := 1, kd := 64, parts := [part, {}, {}, {}] }
    let gg := quad0 (ops [.running 4]) fun q => { q with gangs := [g] }
    let dr (port : Bool) (n : Nat) : State := ops [.mdrain 6 0 port .i32 .rne 0x1000 0 n 128 0 0]
    let l : Slice := { active := { fmt := 5, w := [(7, .int 3)] } }
    lt.ltabs = [o] ∧ (lt.quad 0).contained = false ∧ lt.yokeRead 0 o.addr 32 = .ok 9
    ∧ nextIs (exec (.ltabDone 3) lt) (fun t => t.ltabs = [] && FMap.get 0 (t.quad 0).ltab 0 = 9 && FMap.get 0 (t.quad 0).ltab 255 = 0) = true
    ∧ wl.yokeRead 0 0x5001000 (imageBytes 5 / 32) = .ok 0
    ∧ nextIs (exec (.wloadDone 0) wl) (fun t => (t.core 0).slice.ops = [] && (t.core 0).slice.shadow.fmt = 5) = true
    ∧ (base.core 0).commands < 8 ∧ (base.slot 0).cnt.tlc < 15
    ∧ nextIs (exec (.c28StreamCommand 0 7 0x1000) base) (fun t => (t.core 0).slice.ops = [.gang 0 7 false 0x1000 0] && (t.slot 7).cnt.tlc = 1) = true
    ∧ g.active 0 = [(0, part)] ∧ g.failed = none ∧ gg.gangReady 0 g = true
    ∧ gg.rowRead 0 (sectorAddr g.asrc 0 0 0) (sectorsRead g.parts 5 0) = .ok 0 ∧ g.rows ≤ g.row + 1
    ∧ nextIs (exec (.gangRow 0) gg) (fun t => (t.quad 0).gangs = [] && (t.core 0).slice.ops = []) = true
    ∧ (dr false 2).ownedBy 6 0x1000 128 = false ∧ nextIs (exec (.mdrainRowWrite 0) (dr false 2)) (fun t =>
      (t.core 0).slice.ops = [.mdrain 6 0 false .i32 .rne 0x1000 0 2 128 1 0]) = true
    ∧ nextIs (exec (.mdrainHandlePush 0) (dr true 1)) (fun t => (t.core 0).c28r.length = 1
      && (t.core 0).slice.ops = [.mdrain 6 0 true .i32 .rne 0x1000 0 1 128 0 1]) = true
    ∧ nextIs (exec (.c28HandlePop 0) (core0 base fun c => { c with c28r := [1, 2] })) (fun t => (t.core 0).c28r = [2]) = true
    ∧ (l.accumulate { part with mcnt := 64 } 5 64 0 (2 ^ 0)).accAt 0 7 = word (if actInt 5 1 0 = 1 then 3 else 0) := by decide +kernel

/-- GangsJoin: GANG that waits, four idle descriptors, and one at an address that is not 32-byte aligned. -/
theorem test_met_GangsJoin :
    let s := regs base [0x1000]
    let four (a : Word) : State := [0, 1, 2, 3].foldl (fun t c => t.updCore c fun x => { x with slice := { ops := [.gang (c + 1) 0 false a 0] } }) (base.wr8 0x1010 0x10000)
    let es (s : State) : List JoinEnt := [0, 1, 2, 3].filterMap fun c => firstGang (0 * 4 + c) [] (s.core (0 * 4 + c)).slice.ops
    let good := four 0x1000
    let bad := four 0x1004
    s.me.op = .none ∧ mayIssue { rd := [1] } s = true ∧ s.localCheck 0 permR 0x1000 32 = none ∧ s.mayGo 0 0x1000 = true
    ∧ isNext (exec (.gang 1) s) ((((s.takeId.enterOp (.gang 0 0 true 0x1000 0x1002)).await).blockMe (.gang 0))) = true
    ∧ (es good).length = 4 ∧ (good.quad 0).halted = false ∧ (good.quad 0).contained = false ∧ (∀ e ∈ es good, e.before = [])
    ∧ good.joinAddr (es good) = none ∧ (∀ e ∈ es good, good.owned (good.localKey (e.ck * 8) (offset e.addr)) 32 = false ∧ (good.gangDesc e).idle = true)
    ∧ isNext (exec (.gangJoin 0) good) ((es good).foldl (fun u e => u.joinOne good.ids e (good.gangDesc e)) good.takeId) = true
    ∧ (bad.joinAddr (es bad)).isSome = true ∧ nextIs (exec (.gangJoin 0) bad) (fun t => (t.core 3).slice.ops = []) = true := by decide +kernel

/-- CopyHeads: a local copy of 64 bytes from words in t4 to t7 and from a record, with room and on a full queue. -/
theorem test_met_CopyHeads :
    let c : CopyWords := { w0 := 0x1000, w1 := 0x2000, w2 := 64, w3 := 0 }
    let s := regs (((base.wr8 0x3000 0x1000).wr8 0x3008 0x2000).wr8 0x3010 64) [0, 0, 0x3000, 0x1000, 0x2000, 64, 0]
    let full := core0 s fun x => { x with fifo := List.replicate 16 (s.copyOf 0 c) }
    s.mayPut 9 = true ∧ mayIssue { rd := [4, 5, 6, 7], wr := [9] } s = true ∧ s.shapeCheck c = none ∧ copyBad c (s.shapeWord 0 c) (s.copyOf 0 c) = false
    ∧ s.copyCheck c (s.copyOf 0 c) = none ∧ s.copyStream c = true ∧ s.copyOutside c = false ∧ s.copyLocal c (s.copyOf 0 c) = none ∧ s.acquiring = false
    ∧ s.myCore.fifo.length < 16 ∧ s.me.cnt.cpc < 63
    ∧ isNext (exec (.cpyq 9 4) s) (((s.queueCopy (s.copyOf 0 c)).writeReg 0 9 0 3).passed) = true
    ∧ full.myCore.fifo.length = 16 ∧ isNext (exec (.cpyqNb 9 4) full) (full.wrote [] 9 1 3) = true
    ∧ mayIssue { rd := [3], wr := [9] } s = true ∧ s.localCheck 0 permR 0x3000 128 = none ∧ s.owned 0x3000 128 = false
    ∧ fld (s.rd8 (0x3000 + 72)) 0 5 = 0 ∧ isNext (exec (.cpyres 9 3) s) (((s.queueCopy (s.copyOf 0 c)).writeReg 0 9 0 3).passed) = true
    ∧ isNext (exec (.cpyresNb 9 3) full) (full.wrote [] 9 1 3) = true
    ∧ mayIssue { wr := [9] } s = true ∧ isNext (exec (.cpyst .depth 9) full) (full.wrote [] 9 16 3) = true
    ∧ isNext (exec (.cpyst .stat 9) s) (s.wrote [] 9 0 3) = true := by decide +kernel

/-- CopyEvents: a copy that starts, lands its last sector, writes its flag, ends with a record, is handed back; a bad scale block. -/
theorem test_met_CopyEvents :
    let k : Copy := { id := 3, idx := 15, slot := 7, w0 := 0x1000, w1 := 0x2000, w2 := 32, w3 := 0, rowLen := 32, ny := 1, nz := 1
                      ssy := 0, ssz := 0, dsy := 0, dsz := 0, y0 := 0, z0 := 0 }
    let s (k : Copy) : State := core0 (base.wr 0x1000 8 7) fun c => { c with fifo := [k] }
    let run := { k with started := true }
    let far := { run with w0 := 0x2000000000001000 }
    let sc := { run with w1 := 1, w2 := 32 + 2 ^ 61 }
    let good := { sc with rowLen := 16, w3 := 0 }
    let sg : State := core0 (base.wr 0x1000 16 (2 ^ 66 * 127 + 2 ^ 16 + 9)) fun c => { c with fifo := [good] }
    let at_ (k : Copy) (m : Nat) : Copy := { run with landed := [0], w3 := BitVec.ofNat 64 (m * 2 ^ 62 + 0x3000) }
    isNext (exec (.copyStart 0) (s k)) (s run) = true ∧ (s run).targetOwned 0 run = false ∧ (s run).copyClosed 0 run = false
    ∧ (run.sector 0).map (fun x => (x.src, x.dst, x.n)) = some (0x1000, 0x2000, 32) ∧ run.runs = true ∧ run.kind = 0 ∧ run.unlanded = [0]
    ∧ (s run).firstEnd 0 run 1 = none ∧ run.run 0 = none ∧ run.w2.getLsbD 60 = false ∧ (s run).peerSource 0 run 0x1000 = false
    ∧ (s run).sourceWaits 0 run 0x1000 32 = false
    ∧ ((s run).engineRaw 7 1 permW 0x2000 32).toOption = some 0x2000 ∧ (s run).copyWaits 0 run 0x2000 32 = false
    ∧ nextIs (exec (.copySectorLand 0 3 0) (s run)) (fun t => t.rd 0x2000 8 = 7 && (t.core 0).fifo = [{ run with landed := [0] }]) = true
    ∧ (at_ k 0).unlanded = [] ∧ (s (at_ k 0)).copyFlying 0 (at_ k 0) = false
    ∧ isNext (exec (.copyComplete 0 3) (s { run with landed := [0] })) ((s { run with landed := [0] }).endCopy 0 { run with landed := [0] }) = true
    ∧ (at_ k 1).mode = 1 ∧ (s (at_ k 1)).targetOwned 0 (at_ k 1) = false
    ∧ isNext (exec (.copyComplete 0 3) (s (at_ k 1))) (((s (at_ k 1)).wr8 0x3000 0).endCopy 0 (at_ k 1)) = true
    ∧ (at_ k 3).mode = 3 ∧ isNext (exec (.copyComplete 0 3) (s (at_ k 3)))
      (((s (at_ k 3)).updCore 0 fun c => { c with c29 := [word (15 * 2 ^ 16 + 0x3000)] }).endCopy 0 (at_ k 3)) = true
    ∧ ((s far).copyFault 0 far).isSome = true ∧ ((s far).slot 7).hbPending = false
    ∧ nextIs (exec (.copyHandback 0 3) (s far)) (fun t => (t.slot 7).hbPending && (t.core 0).fifo = []) = true
    ∧ sc.kind = 1 ∧ sc.runs = true ∧ (s sc).targetOwned 0 sc = false ∧ (s sc).copyClosed 0 sc = false ∧ (s sc).firstEnd 0 sc sc.rows = none
    ∧ bitsAt (ofBytes ((s sc).sourceBytes 0 sc (sc.srcRow 0) 8)) 16 8 = 0 ∧ isNext (exec (.scaleBlockDeliver 0 3) (s sc)) (s { sc with status := 3 }) = true
    ∧ sc.run 0 = none ∧ (s sc).peerSource 0 sc (sc.srcRow 0) = false ∧ (s sc).sourceWaits 0 sc (sc.srcRow 0) 8 = false
    ∧ good.kind = 1 ∧ good.runs = true ∧ good.landed = [] ∧ sg.targetOwned 0 good = false ∧ sg.copyClosed 0 good = false ∧ sg.firstEnd 0 good good.rows = none
    ∧ good.run 0 = none ∧ sg.peerSource 0 good 0x1000 = false ∧ sg.sourceWaits 0 good 0x1000 16 = false ∧ good.srcRow 0 = 0x1000
    ∧ bitsAt (ofBytes (sg.sourceBytes 0 good 0x1000 8)) 16 8 = 1 ∧ good.rowLen * good.rows = 16 ∧ sg.scaleTarget 0 good = some 1 ∧ sg.scaleUse 1 0 + 16 ≤ 4096
    ∧ nextIs (exec (.scaleBlockDeliver 0 3) sg) (fun t => (t.core 1).slice.scales.map (fun b => (b.seq, b.codes.length)) = [(9, 1)]
      && (t.core 0).fifo = [{ good with landed := [0] }]) = true
    ∧ nextIs (exec (.c29RecordPop 0) (core0 base fun c => { c with c29 := [1, 2] })) (fun t => (t.core 0).c29 = [2]) = true := by decide +kernel

/-- MessageHeads: a message of one word and of 256 bytes, one that an optimistic task holds, the oldest of the queue, MWAIT's two ends. -/
theorem test_met_MessageHeads :
    let s := regs base [1, 0x77, 0x55, 0x1000]
    let o := regs opti [1, 0x77, 0x55]
    let m : Msg := { hdr := 9, data := leBytes 8 0x66 }
    let r := core0 s fun c => { c with rxq := [m] }
    let w := slot0 s fun x => { x with wake := true }
    s.mayPut 9 = true ∧ mayIssue (msgUse .s [1, 3] 2 9 false) s = true ∧ s.msgCheck 1 0x77 = none ∧ s.acquiring = false
    ∧ s.msgPlace 1 1 = some (.core 1) ∧ s.me.cnt.val 1 < ctrMax 1 ∧ s.myCore.txq.length < 8
    ∧ isNext (exec (.msend .s 9 1 2 3 8) s) (((s.post 0 (.core 1) 1 0x55 (leBytes 8 0x77) true 0x1002).writeReg 0 9 1 3).passed) = true
    ∧ mayIssue (msgUse .a [1, 3] 4 9 false) s = true ∧ s.payloadCheck permR 0x1000 256 = none ∧ s.bytesFree 0x1000 256 = true
    ∧ nextIs (exec (.msend .a 9 1 4 3 256) s) (fun t => t.myCore.txq.length = 1) = true
    ∧ mayIssue (msgUse .s [1, 3] 2 9 false) o = true ∧ o.mayHold (.msg 1 0x55 (leBytes 8 0x77)) = true
    ∧ isNext (exec (.msend .s 9 1 2 3 8) o) (((o.held (.msg 1 0x55 (leBytes 8 0x77))).writeReg 0 9 0 3).passed) = true
    ∧ mayIssue (msgUse .s [] 10 9 true) r = true ∧ r.mayPut 10 = true
    ∧ nextIs (exec (.mrecv .s 9 10 8) r) (fun t => t.myCore.rxq = [] && t.me.pc = 0x1004) = true
    ∧ w.me.wake = true ∧ isNext (exec .mwait w) (w.updMe fun q => { q with wake := false }).passed = true
    ∧ r.me.wake = false ∧ r.myCore.rxq ≠ [] ∧ isNext (exec .mwait r) r.passed = true
    ∧ mayIssue { wr := [9] } r = true ∧ isNext (exec (.msgst .rxq 9) r) (r.wrote [] 9 1 3) = true := by decide +kernel

/-- MessageEvents: accepted, refused by the 33rd, denied, a copy and a new one of a basted sender, acknowledged, sent again; c30 and c31. -/
theorem test_met_MessageEvents :
    let m : Msg := { id := 3, data := leBytes 8 1, src := some 0, dst := 5, pid := 1, counted := true }
    let s (m : Msg) : State := { base with msgs := [m] }
    let full := (s m).updCore 5 fun c => { c with rxq := List.replicate 32 {} }
    let seen (n : Nat) : State := (s { m with seq := some n }).updCore 5 fun c => { c with senders := [(m.sender, 7)] }
    let far := { m with dst := 9215 }
    let note := { m with notice := true }
    let blk := (core0 (((base.wr8 0x1000 1).wr8 0x1010 0x2000).wr8 0x1018 8) fun c => { c with c31 := [(0, 0x1000, 0x1002)] })
    (s m).arrived m.pkt = true ∧ (s m).msgReleased m = true ∧ ((s m).quad 1).contained = false ∧ ((s m).ctxOf 1 1).isSome = true
    ∧ nextIs (exec (.messageAccept 3) (s m)) (fun t => (t.core 5).rxq = [{ m with st := .accepted }] && t.msgs.length = 1) = true
    ∧ (full.core 5).rxq.length = 32 ∧ nextIs (exec (.messageAccept 3) full) (fun t => t.msgs.map (fun x => x.st) = [.refused]) = true
    ∧ (s far).ctxOf (quadOfCore 9215) 1 = none ∧ isNext (exec (.messageAccept 3) (s far)) ((s far).denyMsg far) = true
    ∧ ((seen 7).core 5).lastSeq m.sender = some 7 ∧ isNext (exec (.messageAccept 3) (seen 7)) ((seen 7).acceptedMsg { m with seq := some 7 }) = true
    ∧ nextIs (exec (.messageAccept 3) (seen 8)) (fun t => (t.core 5).lastSeq m.sender = some 8) = true
    ∧ (s { m with st := .accepted }).arrived none = true ∧ isNext (exec (.messageAcknowledge 3) (s { m with st := .accepted })) (base.endCount 0 1) = true
    ∧ nextIs (exec (.messageResend 3) (s { m with st := .refused })) (fun t => t.msgs = [{ m with st := .going, pkt := some 0 }]) = true
    ∧ nextIs (exec (.freeNoticeArrival 3) ((s note).updCore 5 fun c => { c with senders := [(note.sender, 7)] }))
      (fun t => t.msgs = [] && (t.core 5).senders = []) = true
    ∧ nextIs (exec (.c30MessagePop 5) full) (fun t => (t.core 5).rxq.length = 31) = true
    ∧ nextIs (exec (.c31SendBlock 0 0x1000) base) (fun t => (t.core 0).c31 = [(0, 0x1000, 0x1002)]) = true
    ∧ (blk.sendBlock 0x1000).1 = none ∧ blk.owned 0x1000 32 = false
    ∧ isNext (exec (.sendBlockRead 0) blk) ((core0 blk fun c => { c with c31 := [] }).post 0 (.core 1) 1 0 (leBytes 8 0) true 0x1002) = true
    ∧ (blk.sendBlock 0x1004).1.isSome = true := by decide +kernel

/-- ControllerRequests: each request once, with an answer of 0 and with one of its refusals, and the reserved codes 0 and 7. -/
theorem test_met_ControllerRequests :
    let r (w0 : Nat) : CtrlReq := { id := 3, thr := 0, pid := 1, tag := 0, w0 := BitVec.ofNat 64 w0, w1 := 0 }
    let s (w0 : Nat) : State := { base with ctrl := [r w0] }
    let x : Stream := { sid := 5, src := 0, dst := 1, route := false, mask := 1, hops := [(0, 0)] }
    let edge : State := base.updEdge 0 fun e => { e with owned := [(1, 3)] }
    let answered (o : Host.Outcome State Fault Refusal) (n : Nat) : Bool := nextIs o fun t =>
      t.ctrl = [] && t.msgs.map (fun m => (m.dst, m.data.take 8)) = [(0, leBytes 8 n)]
    (s (1 + 2 ^ 63)).openRefusal (r (1 + 2 ^ 63)) = 1 ∧ answered (exec (.ctrlOpenStream 3) (s (1 + 2 ^ 63))) 1 = true
    ∧ (s 1).openRefusal (r 1) = 0
    ∧ otherBits (r (2 + 5 * 256)).w0 [(0, 8), (8, 12)] = false ∧ answered (exec (.ctrlCloseStream 3) (s (2 + 5 * 256))) 4 = true
    ∧ answered (exec (.ctrlCloseStream 3) ((s (2 + 5 * 256)).updPart 1 fun p => { p with streams := [x] })) 0 = true
    ∧ (s 3).physQuad 1 3 = none ∧ answered (exec (.ctrlReadLink 3) (s 3)) 5 = true
    ∧ answered (exec (.ctrlReadBandedLatency 3) (s (4 + 14 * 256))) 0 = true
    ∧ answered (exec (.ctrlReadEdgeUnit 3) (s 5)) 5 = true ∧ answered (exec (.ctrlReadEdgeUnit 3) { edge with ctrl := [r 5] }) 0 = true
    ∧ answered (exec (.ctrlRoutePeer 3) (s (6 + 2 ^ 32))) 5 = true
    ∧ nextIs (exec (.ctrlRoutePeer 3) { edge with ctrl := [r (6 + 383 * 256 + 2 ^ 32)] }) (fun t => (t.part 1).routes = [(383, 0, 1)]) = true
    ∧ answered (exec (.ctrlReservedCode 3) (s 0)) 1 = true ∧ answered (exec (.ctrlReservedCode 3) (s 7)) 1 = true := by decide +kernel

/-- MeshEvents: a flit that leaves, one that hops, one on its stream's slot, a stitch, a credit, a bounce, a width, a map. -/
theorem test_met_MeshEvents :
    let p : Packet := { id := 3, src := 0, dst := 1, pid := 1, p := 1, epoch := 0 }
    let f : Flit := { pkt := 3, seq := 0, at_ := 0 }
    let s (p : Packet) (f : Flit) : State := { base with packets := [p], flits := [f] }
    let ps := { p with sid := some 5 }
    let st := ((s ps f).updPart 1 fun q => { q with streams := [{ sid := 5, src := 0, dst := 1, route := false, mask := 1, hops := [(1, 0)] }] }).updPanel
      fun q => { q with slotTab := [(1 * 16, slotOwner 1 5)] }
    let cr := base.updPanel fun q => { q with credits := [(7, 2)], returns := [7] }
    let ch (op : ChangeOp) : State := { base with changes := [{ time := 0, op }] }
    let size : ChangeOp := .resize 1 0 0 1 1
    (s p { f with at_ := 1 }).holds p p.dst = true
    ∧ nextIs (exec (.bestEffortFlitHop 3 0) (s p { f with at_ := 1 })) (fun t => t.flits = [] && t.packets = [{ p with arrived := 1 }]) = true
    ∧ (s p f).nextOut 1 f = .link 1 f ∧ (s p f).wants f 1 = some (0, 4, f) ∧ (s p f).winner 1 = some (0, 4)
    ∧ ((s p f).servedSlot 1).getLsbD 31 = false ∧ (s p f).linkFree 1 = true ∧ linkTo 1 = some 1
    ∧ nextIs (exec (.bestEffortFlitHop 3 0) (s p f)) (fun t => t.flits = [{ f with at_ := 1, port := 3 }]) = true
    ∧ (s ps { f with at_ := 1, hop := 1 }).holds ps ps.dst = true
    ∧ nextIs (exec (.streamFlitHop 3 0) (s ps { f with at_ := 1, hop := 1 })) (fun t => t.flits = []) = true
    ∧ st.streamNext ps f = some 1 ∧ st.servedSlot 1 = slotOwner 1 5 ∧ st.streamReady ps f 1 = true ∧ st.linkFree 1 = true
    ∧ nextIs (exec (.streamFlitHop 3 0) st) (fun t => t.flits = [{ f with at_ := 1, port := 3, hop := 1 }]) = true
    ∧ 0 ≤ (s p f).cycleAt f.at_ ∧ isNext (exec (.stitchCrossing 3 0) (s p { f with fifo := some 0 })) (s p f) = true
    ∧ 7 ∈ cr.panel.returns ∧ nextIs (exec (.creditReturn 7) cr) (fun t => t.panel.returns = [] && t.panel.credits = [(7, 1)]) = true
    ∧ (s { p with bounced := true } f).lookup { p with bounced := true } = some 1
    ∧ nextIs (exec (.packetBounce 3) { base with packets := [{ p with bounced := true }] }) (fun t => t.flits = [f] && t.packets = [p]) = true
    ∧ (s { p with bounced := true, p := 9 } f).lookup { p with p := 9 } = none
    ∧ nextIs (exec (.linkRetrain 9215 3) base) (fun t => t.linkBytes 9215 = 32) = true ∧ nextIs (exec (.linkRetrain 0 0) base) (fun t => t.linkBytes 0 = 128) = true
    ∧ (s p f).heldPacket 3 = false ∧ (ch size).changeWaits { time := 0, op := size } = false ∧ (ch (.contain 0 0 (some 71))).changeWaits { time := 0, op := .contain 0 0 (some 71) } = false
    ∧ (s { p with bounced := true } f).awaitsMap 3 = false
    ∧ 0 ≤ (ch size).time0.toNat ∧ base.resizeOk 1 0 0 1 1 = true ∧ nextIs (exec (.mapSwitch 0) (ch size)) (fun t =>
      (t.part 1).w = 1 && t.panel.epoch = 1 && t.changes = []) = true
    ∧ (base.quad 9).ctxs = [] ∧ nextIs (exec (.mapSwitch 0) (ch (.contain 9 8 none))) (fun t => t.physLogical 0 8 = none) = true
    ∧ (base.quad 71).st = .healthy ∧ (base.quad 71).contained = false
    ∧ nextIs (exec (.mapSwitch 0) (ch (.contain 0 0 (some 71)))) (fun t => t.physQuad 1 0 = some 71 && (t.quad 71).ctxs = [{ pid := 1, p := 0 }]) = true := by
  decide +kernel

/-- EdgeEvents: the first and the last unit; a burst that leaves, is acknowledged, is sent again, is refused; bursts received. -/
theorem test_met_EdgeEvents :
    let f : Flight := { id := 3, thr := 0, pid := 1, addr := 0x3028000000001000, n := 8, op := .load, ret := .scalar 9 false, ctr := 0, stage := .edge }
    let s0 := (base.updPart 1 fun p => { p with routes := [(5, 31, 1)] }).updEdge 31 fun e => { e with clock := true, lock := 1 }
    let s : State := { s0 with flights := [f] }
    let b : Burst := { seq := 0, peer := 5, pid := 1, ids := [3], time := 0 }
    let u : State := { s0.updEdge 31 (fun e => { e with unacked := [b] }) with flights := [{ f with stage := .burst }] }
    let late := u.updRegion 0 fun r => { r with tcnt := 8000 }
    s.parts.map (fun p => p.2.routes) = [[(5, 31, 1)]] ∧ (s.edge 31).usable 1 = true ∧ s.atEdge 1 5 ≠ []
    ∧ nextIs (exec (.burstSend 31 5) s) (fun t => (t.edge 31).unacked = [b] && (t.edge 31).txb = 1) = true
    ∧ (u.edge 31).unacked = [b] ∧ nextIs (exec (.burstAck 31 0) u) (fun t => (t.edge 31).unacked = [] && t.flights.map (fun g => g.stage) = [.peer]) = true
    ∧ b.time.toNat + 8000 ≤ (late.region 0).tcnt.toNat
    ∧ nextIs (exec (.burstResend 31 0) late) (fun t => (t.edge 31).unacked = [{ b with time := 8000 }] && (t.edge 31).resend = 1) = true
    ∧ isNext (exec (.burstRefusal 31 0) u) ((u.dropBurst 31 0).denialArrives { f with stage := .burst }) = true
    ∧ (s.edge 31).unacked = [] ∧ nextIs (exec (.wavelengthLockChange 31 3 0 { locked := true, retunes := 65536 }) base) (fun t => (t.edge 31).tune = 65535 && (t.edge 31).lock = 3) = true
    ∧ nextIs (exec (.burstReceive 0 5 9 false []) base) (fun t => (t.edge 0).crcd = 1) = true
    ∧ nextIs (exec (.burstReceive 0 5 9 true []) base) (fun t => (t.edge 0).rxb = 1 && (t.edge 0).accepted = [(5, 9)]) = true
    ∧ nextIs (exec (.burstReceive 0 5 9 true []) (base.updEdge 0 fun e => { e with accepted := [(5, 9)] })) (fun t => (t.edge 0).rxb = 1) = true
    ∧ nextIs (exec (.reductionHoldExpiry 4) { base with redHolds := [{ id := 4, router := 0, flights := [] }] }) (fun t => t.redHolds = []) = true
    ∧ nextIs (exec (.reductionPairExpiry 0 1) ({ base with redPairs := [{ loc := 0, rsn := 1 }] }.updRegion 0 fun r => { r with cycle := 2 ^ 20 }))
      (fun t => t.redPairs = []) = true := by decide +kernel

/-- HostAndTenancy: a partition beside the first, the registers of its function, a reset, a slot started by the debugger, a frame, a page. -/
theorem test_met_HostAndTenancy :
    let c : PartCfg := { pid := 2, x0 := 4, y0 := 0, w := 1, h := 1, key := 2, vf := 2, spMiB := 16, svcP := 0, svcC := 3, svcPc := 0 }
    let h := quad0 (base.updSlot 0 fun _ => {}) fun q => { q with halted := true }
    let m := base.updPart 1 fun p => { p with s2 := [{ ipa := 0, size := 2 ^ 30, pa := 0 }] }
    base.createOk c = true ∧ nextIs (exec (.partitionCreate c) base) (fun t => (t.part 2).live && (t.part 2).spsize = 2 ^ 24 && (t.vf 2).pid = 2) = true
    ∧ (base.part 1).live = true ∧ isNext (exec (.svccoreWrite 1 0x1000005) base) (base.updPart 1 fun p => { p with svccore := 5 }) = true
    ∧ base.vfPid 1 = some 1 ∧ base.svcCore 1 = some 7
    ∧ isNext (exec (.hostLaunch 1 0x2000000000001000) base) { base.takeId with
      launches := [{ id := 0, quad := 1, pid := 1, hdr := 0x2000000000001000, host := true }] } = true
    ∧ base.threadKey 1 63 = some 63 ∧ isNext (exec (.vfDoorbell 1 63) base) { base with wakes := [63] } = true
    ∧ base.physQuad 1 1 = some 1 ∧ nextIs (exec (.debugHalt 1 { quad := 1, brkArm := true }) base) (fun t => (t.quad 1).halted && (t.quad 1).brkArm) = true ∧ base.runs 1 63 = true
    ∧ nextIs (exec (.debugBrkarm 1 1 { halt := false, brkArm := true }) base) (fun t => !(t.quad 1).halted && (t.quad 1).brkArm) = true
    ∧ nextIs (exec (.functionReset 1) m) (fun t => (t.part 1).s2 = [] && (t.part 1).live) = true
    ∧ nextIs (exec (.hostRegisterWrite 1 0x28 8 63) base) (fun t => (t.vf 1).wdt = 63) = true
    ∧ nextIs (exec (.hostRegisterWrite 1 0x38 8 0x3F00000000) base) (fun t => (t.vf 1).evqTail = 63) = true
    ∧ (h.quad 0).halted = true ∧ (h.slot 0).st = .free
    ∧ nextIs (exec (.debugSlotStart 0 (some 0x1002) [] [(31, 5)]) h) (fun t => (t.slot 0).pc = 0x1002 && (t.slot 0).st = .ready && t.tReg 0 31 = 5) = true
    ∧ nextIs (exec (.debugSlotStart 0 (some 0x1002) [(32, 0xFFFF)] []) h) (fun t => (t.slot 0).sr.status = 0xB1) = true
    ∧ nextIs (exec (.debugSlotStart 0 (some 0x1002) [(54, 0xFFFFFFFF)] []) h) (fun t => (t.slot 0).sr.regallot = 0x11F3F) = true
    ∧ nextIs (exec (.keyLoad 4095 9) base) (fun t => FMap.get 0 t.panel.keys 4095 = 9) = true
    ∧ base.usesFrames 4096 4096 = false ∧ nextIs (exec (.frameReassign 1 1 2) (base.wr (hbmKey 4096) 8 5)) (fun t => t.mem = [] && t.panel.frames = [(4096, 4096, 2)]) = true
    ∧ s2Size (2 ^ 30) = true ∧ base.panel.mappable 1 0 (2 ^ 30) = true
    ∧ nextIs (exec (.stage2MappingChange 1 0 (2 ^ 30) 0 7) base) (fun t => t.parts = m.parts) = true
    ∧ nextIs (exec (.stage2MappingChange 1 0 (2 ^ 30) 0 0) m) (fun t => (t.part 1).s2 = []) = true := by decide +kernel

/-- RecoveryAndPower: each detector, the first and the last block, a smaller rectangle, two contexts, alarms and freezes. -/
theorem test_met_RecoveryAndPower :
    let two := quad0 (base.updSlot 0 fun _ => {}) fun q => { q with ctxs := [{ pid := 1, p := 0 }, { pid := 2, p := 0 }], halted := true }
    let sw := quad0 two fun q => { q with swapping := true }
    let sv := quad0 sw fun q => { q with shadow := [{ pid := 2, cores := [{}, {}, {}, {}], ltab := [], slots := (List.replicate 31 {}) ++ [slotAt 0x21] }] }
    let src := (base.wr (scratchKey 9 (255 * 65536 + 65528)) 8 0x0807060504030201).wr (scratchKey 9 0) 8 0x11
    let fl (n : Nat) : State := quad0 src fun q => { q with fill := some { src := 9, moved := (List.range 256).filter fun i => i ≠ n } }
    (base.quad 0).contained = false ∧ nextIs (exec (.uncorrectableEccError 0 3) base) (fun t => (t.quad 0).contained && (t.quad 0).st = .memoryOnly) = true
    ∧ nextIs (exec (.pipelineParityError 0 0) base) (fun t => t.panel.log.map (fun e => (e.qi, e.unit, e.retire)) = [(0, 0, true)]
      && t.changes.map (fun c => c.time) = [2000]) = true
    ∧ nextIs (exec (.routerHeartbeatLoss 0) base) (fun t => (t.quad 0).st = .dead && t.panel.log.map (fun e => e.unit) = [5]) = true
    ∧ nextIs (exec (.correctableEccError 2303) base) (fun t => FMap.get 0 t.panel.eccCount 2303 = 1) = true
    ∧ nextIs (exec (.shareFillBlock 0 255) (fl 255)) (fun t => t.rd (scratchKey 0 (255 * 65536 + 65528)) 8 = 0x0807060504030201) = true
    ∧ nextIs (exec (.shareFillBlock 0 0) (fl 0)) (fun t => t.rd (scratchKey 0 0) 8 = 0x11) = true
    ∧ base.resizeOk 1 0 0 2 1 = true ∧ base.removedQuads 1 0 0 2 1 = []
    ∧ isNext (exec (.partitionResize 1 0 0 2 1) base) { base with changes := [{ time := 2000, op := .resize 1 0 0 2 1 }] } = true
    ∧ base.resizeOk 1 0 0 0 1 = false ∧ (base.removedQuads 1 0 0 0 1).length = 2 ∧ isNext (exec (.partitionResize 1 0 0 0 1) base) base = true
    ∧ base.logicalOf 0 = some 0 ∧ isNext (step { base with sched := [.stepLimit 15 3] }) (base.updRegion 15 fun g => { g with steplim := 3 }) = true
    ∧ (two.quad 0).ctxs = [{ pid := 1, p := 0 }, { pid := 2, p := 0 }] ∧ (two.quad 0).swapping = false
    ∧ isNext (exec (.contextSwap 0) two) sw = true ∧ (sw.quad 0).swapping = true ∧ sw.swapReady 0 = true ∧ (sw.quad 0).gangs = [] ∧ (∀ n < 32, (sw.slot (0 * 32 + n)).optimistic = false ∧ (sw.slot (0 * 32 + n)).st = .free) ∧ sw.wakes = []
    ∧ (sw.quad 0).chans = [] ∧ (∀ c < 4, (sw.core (0 * 4 + c)).fifo = [] ∧ (sw.core (0 * 4 + c)).slice.ops = [])
    ∧ nextIs (exec (.contextSwap 0) sw) (fun t => (t.quad 0).ctxs.map (fun c => c.pid) = [2, 1] && !(t.quad 0).swapping
      && (t.quad 0).shadow.map (fun v => (v.pid, v.slots.length)) = [(1, 32)]) = true
    ∧ ((sv.quad 0).shadow.map fun v => (v.pid, v.slots.length)) = [(2, 32)] ∧ sv.swapReady 0 = true
    ∧ nextIs (exec (.contextSwap 0) sv) (fun t => (t.slot 31).pc = 0x1002 && (t.slot 31).st = .ready && (t.slot 0).st = .free) = true
    ∧ (base.region 15).droopst.getLsbD 0 = false ∧ nextIs (exec (.droopAlarmRaise 15) base) (fun t => (t.region 15).droopst = 0x0001000000000003) = true
    ∧ nextIs (exec (.freezeInput) base) (fun t => t.panel.frozen) = true
    ∧ nextIs (exec (.freezeCommand 0x8001) base) (fun t => (t.region 0).frozen && (t.region 15).frozen && !(t.region 1).frozen) = true
    ∧ nextIs (exec .panelReset base) (fun t => t.slots = [] && t.parts = [] && t.mem = []) = true := by decide +kernel

/-- SlotEvents: a line in scratchpad, one of HBM, an illegal one; a push that goes; a wake; a spill's three events; a restore; a watchdog. -/
theorem test_met_SlotEvents :
    let s := base.wr 0x1000 2 1
    let bad := base.wr 0x1000 2 0
    let hbm := slot0 base fun x => { x with pc := 0x2000000000001002 }
    let held := core0 (slot0 base fun x => { x with st := .held, push := some (56, 7) }) fun c => { c with q := [(0, { bound := some (0, 1) })] }
    let mv (m : Move) : State := { slot0 base (fun x => { x with st := .moving }) with moves := [m] }
    let m : Move := { thr := 0, issuer := some 1, addr := 0x4000, restore := false }
    let img : State := { (slot0 (base.wr8 (0x4000 + 63 * 8) 0x10000) fun x => { x with st := .moving }) with moves := [{ m with restore := true }] }
    let w := (slot0 base fun x => { x with st := .held, waited := 2 ^ 63 }).updVf 1 fun f => { f with wdt := 20 }
    s.fetchCheck 0 = none ∧ (s.fetchLine 0).bind (illegalLine 0x1002) = none ∧ (s.fetchLine 0).isSome = true
    ∧ nextIs (exec (.lineFetch 0) s) (fun t => (t.slot 0).st = .ready && (t.slot 0).lineH = 1) = true
    ∧ ((bad.fetchLine 0).bind (illegalLine 0x1002)).isSome = true ∧ nextIs (exec (.lineFetch 0) bad) (fun t => (t.slot 0).sr.ecause = 0x11) = true
    ∧ hbm.fetchCheck 0 = none ∧ hbm.fetchLine 0 = none ∧ hbm.fetching 0 = false ∧ space (hbm.slot 0).pc = 2
    ∧ nextIs (exec (.lineFetch 0) hbm) (fun t => (t.slot 0).st = .blocked .fetch && t.fetching 0) = true
    ∧ (held.pushPort 0 0 56 7 0).isSome = true ∧ nextIs (exec (.heldPushRetry 0) held) (fun t => (t.slot 0).st = .ready && (t.slot 0).push = none) = true
    ∧ nextIs (exec (.wakeArrival 73727) { base with wakes := [73727] }) (fun t => (t.slot 73727).wake && t.wakes = []) = true
    ∧ ((mv m).slot 0).op = .none ∧ ((mv m).slot 0).cnt.zero = true ∧ (mv m).noPending 0 = true
    ∧ ((mv m).engineWrite m.agent ((mv m).pidOf m.agent) m.addr ((mv m).image 0 0x1002)).toOption.isSome = true
    ∧ isNext (exec (.slotSpill 0) (mv m)) (mv { m with started := true }) = true
    ∧ nextIs (exec (.spillComplete 0) (mv { m with started := true })) (fun t => t.moves = []) = true
    ∧ ((mv { m with started := true, issuer := none, dbl := true }).moves.map fun x => (x.thr, x.dbl, x.issuer)) = [(0, true, none)]
    ∧ (mv m).faulted 0 = false ∧ (img.engineRead m.agent (img.pidOf m.agent) (m.addr + 504) 1).toOption = some (leBytes 8 0x10000)
    ∧ fld (img.rd8 (0x4000 + 63 * 8)) 16 12 = 1 ∧ (img.engineRead m.agent (img.pidOf m.agent) m.addr 576).toOption.isSome = true ∧ img.pidOf m.agent = 1 ∧ m.issuer ≠ some 0
    ∧ (w.slot 0).kind ≠ 3 ∧ (w.slot 0).wdFired = false ∧ watchLog (w.vf (w.part (w.pidOf 0)).vf).wdt.toNat ≠ 0
    ∧ 2 ^ watchLog (w.vf (w.part (w.pidOf 0)).vf).wdt.toNat ≤ (w.slot 0).waited
    ∧ nextIs (exec (.watchdogExpiry 0) w) (fun t => (t.slot 0).wdFired) = true := by decide +kernel

/-- Basting: BASTE with EN 0, with EN 1 and drained, with EN 1 and not, in an optimistic task; an interval; EN written 1 and 0; a slot that resumes. -/
theorem test_met_Basting :
    let en (s : State) : State := slot0 s fun x => { x with sr := { x.sr with bastecfg := 0x8000000000000000 } }
    let s := en (base.updPart 1 fun p => { p with w := 2, h := 2 })
    let busy := slot0 s fun x => { x with cnt := { x.cnt with ldc := 1 } }
    let due := slot0 s fun x => { x with sr := { x.sr with status := 0x61 }, task := { x.task with basteDue := true } }
    let dis := slot0 s fun x => { x with task := { x.task with disabling := some 0 } }
    let back := ((((quad0 (base.setSlot 0 {}) fun q => { q with replaces := some 5 }).updQuad 5 fun q => { q with st := .memoryOnly }).setSlot 160
      { slotAt 0x61 with sr := { status := 0x61, bastecfg := 0x8000000000000000 } }).wr8 (scratchKey 1 0x1FF8) 0x8000000000000000).wr8 (scratchKey 1 0) 0x1008
    base.me.optimistic = false ∧ basteEn base.me.sr.bastecfg = false ∧ isNext (exec .baste base) base.passed = true
    ∧ basteEn s.me.sr.bastecfg = true ∧ s.mayBaste 0 = true
    ∧ busy.mayBaste 0 = false ∧ isNext (exec .baste busy) (busy.blockMe .drained) = true
    ∧ opti.me.optimistic = true ∧ isNext (exec .baste opti) (opti.enterTrap 0 0x02 0 0x1002) = true
    ∧ due.stopped 0 = false ∧ (due.slot 0).basteNow = true ∧ due.mayBaste 0 = true
    ∧ (base.slot 0).st ≠ .free ∧ (base.slot 0).kind = 2 ∧ basteEn 0x8000000000000FFF = true ∧ (part1.guardQuad (base.pOf 0)).isSome = true
    ∧ nextIs (exec (.bastecfgEnable 0 0x8000000000000FFF) base) (fun t => (t.slot 0).sr.bastecfg = 0x8000000000000000 && (t.slot 0).bst) = true
    ∧ (back.quad 0).replaces = some (quadOf 160) ∧ (back.slot 0).st = .free ∧ (back.slot 160).bst = true ∧ (back.slot 160).st ≠ .free
    ∧ (back.updSlot 0 fun y => { y with sr := { y.sr with bastecfg := 0x8000000000000000 } }).lastHalf 0 = some 0
    ∧ (back.updSlot 0 fun y => { y with sr := { y.sr with bastecfg := 0x8000000000000000 } }).halfKey 0 0 0 = some (scratchKey 1 0)
    ∧ nextIs (exec (.bastedSlotResume 0) back) (fun t => (t.slot 0).pc = 0x1008 && (t.slot 160).st = .free) = true
    ∧ (dis.slot 0).task.disabling = some 0 ∧ nextIs (exec (.bastecfgDisable 0) dis) (fun t => (t.slot 0).sr.bastecfg = 0 && (t.slot 0).task.disabling = none) = true := by
  decide +kernel

/-- ScalarHeadsKeepTheRest: the last private register as the destination. -/
theorem test_met_ScalarHeadsKeepTheRest :
    let s := regs base [1, 2]
    s.mayPut 31 = true ∧ mayIssue { rd := [1, 2], wr := [31] } s = true ∧ mayIssue { wr := [31] } s = true ∧ mayIssue { wr := [31], ms := [7] } s = true
    ∧ nextIs (exec (.add 31 1 2) s) (fun t => t.mem = s.mem && t.tReg 0 1 = 1 && t.tReg 0 31 = 3 && t.cores = s.cores) = true
    ∧ nextIs (exec (.mpopc 31 7) s) (fun t => t.tReg 0 1 = 1 && t.tReg 0 31 = 0) = true := by decide +kernel

/-- VectorHeadsKeepTheRest: a head that enters the queue, and an entry of the last slot that ends. -/
theorem test_met_VectorHeadsKeepTheRest :
    let s := regs base [1, 2]
    let e : VEntry := { id := 1, slot := 7, dest := .vec 31 5 0, left := [], ends := 3 }
    let v := core0 base fun c => { c with vq := [e], cycle := 8 }
    mayIssue { vs := [31, 0, 15], ms := [7] } s = true ∧ s.myCore.vqUsed < 8
    ∧ nextIs (exec (.vxor 31 0 15 7 .i32) s) (fun t => t.myCore.vq.length = 1 && t.slots.length = 1) = true
    ∧ (v.core 0).vq = [e] ∧ (v.core 0).pend = [] ∧ e.ends + e.lat ≤ (v.core 0).cycle
    ∧ nextIs (exec (.vectorComplete 0 1) v) (fun t => (t.performDue 0).vReg 7 31 = 5 && (t.performDue 0).slots = v.slots) = true := by
  decide +kernel

/-- StepRunsDecodedInstruction: the first slot of the rotation and the last; an event that is listed. -/
theorem test_met_StepRunsDecodedInstruction :
    let l := oneHeadLine 0x30C3 7
    let s := base.wr 0x1000 64 l
    let s7 := (s.setSlot 0 {}).setSlot 7 (slotAt 0x21)
    let ev : State := { base with sched := [.event .freezeInput] }
    s.sched = [] ∧ s.clockStopped 0 = false ∧ s.eligible 0 = true ∧ (s.slot 0).op = .none ∧ (s.slot 0).async = [] ∧ (s.slot 0).basteNow = false
    ∧ s.fetchCheck 0 = none ∧ s.fetchLine 0 = some l ∧ illegalLine 0x1002 l = none
    ∧ decode (lineHalf l (headIndex 0x1002)) (lineTail l (headIndex 0x1002)) = .ok (.li 3 7)
    ∧ nextIs (step s) (fun t => t.tReg 0 3 = 7 && (t.slot 0).pc = 0x1042 && (t.core 0).cycle = 1 && (t.core 0).rot = 1) = true
    ∧ (∀ j < 7, s7.eligible j = false) ∧ s7.eligible 7 = true ∧ nextIs (step s7) (fun t => t.tReg 7 3 = 7 && (t.core 0).rot = 0) = true
    ∧ isNext (step ev) (base.updPanel fun p => { p with frozen := true }) = true := by decide +kernel

/-- DecodeOfEncode: a well-formed instruction that has an encoding, with the last value of each of its fields. -/
theorem test_met_DecodeOfEncode :
    (Instr.msend .a 63 55 54 53 256).wf = true ∧ (Instr.msend .a 63 55 54 53 256).encodable = true
    ∧ (encode (.msend .a 63 55 54 53 256)).map (fun e => (e.1, decode e.1 e.2)) = some (0x8FBF, .ok (.msend .a 63 55 54 53 256)) := by decide +kernel

/-- StepsKeepMemoryCanonical: a canonical state whose step stores. -/
theorem test_met_StepsKeepMemoryCanonical :
    let s := due0 (base.wr 0x1000 64 (oneHeadLine 0x5A80 (1 * 2 ^ 26 + 2 * 2 ^ 20 + 3 * 2 ^ 16))) (.store 0x2000 (wholeBytes 8 0x55)) 0
    FMap.wf (0 : Byte) s.mem = true ∧ FMap.wf false s.fe = true ∧ nextIs (step s) (fun t => FMap.wf (0 : Byte) t.mem && t.rd 0x2000 8 = 0x55) = true := by
  decide +kernel

/-! ## More clauses of the same statements -/

/-- PrivilegedHeadsTrapAtTaskLevel: a private, a shared, a vector and a mask-free register outside the allotment; an optimistic task that can
and one that cannot be split; an access to the system space; a slot whose level rises. -/
theorem test_met_PrivilegedHeads_registers :
    let all (r : Word) (s : State) : State := slot0 s fun x => { x with sr := { x.sr with regallot := r } }
    let s := all 0x0810 task
    let o := all 0x0810 opti
    let sp := quad0 (slot0 o fun x => { x with task := { x.task with handle := some 0, piece := { org := [0], cnt := [2] } } }) fun q =>
      { q with recs := [(256, { hdr := header, pid := 1 })] }
    let d := regs task [0xF000000000000000, 1]
    s.me.op = .none ∧ s.me.sr.outside 16 = true ∧ s.me.sr.outside 15 = false ∧ s.me.sr.outside 32 = true ∧ s.me.sr.outside 55 = true
    ∧ s.me.sr.outside 56 = false ∧ s.me.sr.outside (8 + 64) = true ∧ s.me.sr.outside (7 + 64) = false ∧ s.me.sr.outside (31 + 64) = true
    ∧ isNext (exec (.mov 16 57) s) (s.enterTrap 0 0x17 0 0x1002) = true ∧ isNext (exec (.bnz 55 0 0) s) (s.enterTrap 0 0x17 0 0x1002) = true
    ∧ isNext (exec (.vcmp 1 7 8 0 .i32 .eq) s) (s.enterTrap 0 0x17 0 0x1002) = true ∧ isNext (exec (.mread 16 0) s) (s.enterTrap 0 0x17 0 0x1002) = true
    ∧ isNext (exec (.cpyq 1 14) s) (s.enterTrap 0 0x17 0 0x1002) = true
    ∧ o.me.optimistic = true ∧ o.splittable 0 = false ∧ nextIs (exec (.add 1 2 16) o) (fun t => (t.slot 0).st = .free) = true
    ∧ sp.splittable 0 = true ∧ isNext (exec (.add 1 2 16) sp) (sp.rip 0 true) = true
    ∧ d.super = false ∧ d.me.optimistic = false ∧ mayIssue { rd := [1], wr := [3] } d = true ∧ d.mayGo 0 0xF000000000000000 = true
    ∧ mustBeZero 0xF000000000000000 = true ∧ isNext (exec (.ld 3 1 0 .w 0 .n) d) (d.enterTrap 0 0x03 0xF000000000000000 0x1002) = true
    ∧ mayIssue { rd := [1, 2] } d = true ∧ isNext (exec (.tset 1 2) d) (d.enterTrap 0 0x03 0xF000000000000000 0x1002) = true
    ∧ isNext (exec (.ltab 1) d) (d.enterTrap 0 0x03 0xF000000000000000 0x1002) = true
    ∧ (task.slot 0).sr.status.getLsbD 0 = false ∧ nextIs (exec (.trap 0) task) (fun t => (t.slot 0).sr.status.getLsbD 0 && (t.slot 0).pc = 0x2002) = true := by
  decide +kernel

/-- PrivilegedHeadsTrapAtTaskLevel: the lowest and a high address of the system space for each shape of head, and the level that a trap
raises. -/
theorem test_met_PrivilegedHeads_space15 :
    let d := regs task [0xF000000000000000, 0, 0xF0FFFFFFFFFFFFF0, 0x1000, 0xF000000000000000, 64, 0, 127, 1]
    let taken (i : Instr) (e : Word) (t : State) : Bool := isNext (exec i t) (t.enterTrap 0 0x03 e 0x1002)
    let n : CopyWords := { w0 := 0x1000, w1 := 0xF000000000000000, w2 := 64, w3 := 0 }
    let w := withChan d (chan 0 32)
    let r := withChan d (chan 32 0)
    d.super = false ∧ d.me.optimistic = false ∧ d.me.op = .none ∧ mustBeZero 0xF000000000000000 = true
    ∧ taken (.cpyres 9 1) 0xF000000000000000 d = true ∧ taken (.cpyresNb 9 1) 0xF000000000000000 d = true
    ∧ mayIssue { rd := [4, 5, 6, 7], wr := [9] } d = true ∧ d.shapeCheck n = none ∧ copyBad n (d.shapeWord 0 n) (d.copyOf 0 n) = false
    ∧ spaceCheck false n.w0 = none ∧ taken (.cpyq 9 4) 0xF000000000000000 d = true
    ∧ taken (.cpyqNb 9 4) 0xF000000000000000 (regs d [0, 0, 0, 0xF000000000000000, 0x1000]) = true
    ∧ mayIssue { rd := [1], vs := [2, 3], ms := [0] } d = true ∧ d.mayGo 0 0xF000000000000000 = true
    ∧ taken (.vgath 2 1 3 0 3) 0xF000000000000008 (d.setV 0 3 1) = true ∧ taken (.vscat 2 1 3 0 0) 0xF000000000000000 d = true
    ∧ drainBad 127 = false ∧ mayIssue { rd := [1, 8, 2] } d = true ∧ taken (.mdrain .i32 .rne 1 8 2) 0xF000000000000000 d = true
    ∧ w.chanAt 0 1 0 = some (chan 0 32) ∧ w.relThread 0 = 0 ∧ w.myPart.chanCount = 1
    ∧ taken (.chpush .a 2 1 0) 0xF000000000000000 w = true ∧ taken (.choffer .a 9 2 1 0) 0xF000000000000000 w = true
    ∧ taken (.chpop .a 9 2 1 0) 0xF000000000000000 r = true ∧ taken (.chtake .a 9 2 1 0) 0xF000000000000000 r = true
    ∧ taken (.chpeek .a 9 2 1 0) 0xF000000000000000 r = true
    ∧ d.msgCheck 1 0 = none ∧ taken (.msend .a 10 9 1 2 8) 0xF000000000000000 d = true ∧ taken (.mrecv .a 9 1 8) 0xF000000000000000 d = true
    ∧ mayIssue { rd := [1], wr := [9] } d = true ∧ taken (.ld 9 1 0 .w 0 .n) 0xF000000000000000 d = true
    ∧ taken (.st 1 9 8 .b 0 .n) 0xF000000000000008 d = true ∧ taken (.ltab 1) 0xF000000000000000 d = true
    ∧ (d.slot 0).sr.status.getLsbD 0 = false ∧ (d.slot 0).exl = false
    ∧ nextIs (exec (.trap 5) d) (fun t => (t.slot 0).sr.status.getLsbD 0 && (t.slot 0).exl && (t.slot 0).pc = 0x2002) = true := by
  decide +kernel

/-- FloatingVectorResults: the special values at the ends of their ranges. -/
theorem test_met_FloatingVectorResults_special :
    fp32.encode .rne 0 (frsqrt (fp32.decode 0x80000001)) = 0x7FC00000 ∧ fp32.encode .rne 0 (fsqrt (fp32.decode 0xFF800000)) = 0x7FC00000
    ∧ vlog2 0x80000001 = 0x7FC00000 ∧ vlog2 0xFF800000 = 0x7FC00000 ∧ vexp2 0x43800000 = 0x7F800000 ∧ vexp2 0x7F800000 = 0x7F800000
    ∧ vexp2 0x80000000 = 0x3F800000 ∧ vexp2 0x7F800001 = 0x7FC00001 ∧ vtanh 0xFFFFFFFF = 0xFFFFFFFF ∧ vtanh 0x80000000 = 0x80000000
    ∧ fp32.encode .rne 0 (fdiv (.fin false 1 0) (fp32.decode 0x80000000)) = 0xFF800000 := by decide +kernel

/-- LoadsReadOrLeave: a load that hits L1. -/
theorem test_met_LoadsReadOrLeave_hit :
    let s := { (core0 (memRegs base) fun c => { c with l1 := [{ line := lineOf 0x3000, key := 1 }] }) with
      tlb := [{ loc := 0, pid := 1, va := 0x3000, size := 4096, pa := 0x3000, rd := true, wr := true, ex := true }] }
    let f : Flight := { id := 0, thr := 0, pid := 1, addr := 0x2000000000003000, n := 8, op := .load, ret := .scalar 9 false, ctr := 0 }
    s.mayPut 9 = true ∧ mayIssue { rd := [4], wr := [9] } s = true ∧ s.mayGo 0 f.addr = true ∧ s.accessCheck permR f.addr 8 8 false = none
    ∧ space f.addr ≠ 0 ∧ s.me.cnt.ldc < 63 ∧ s.l1Place f = some (hbmKey 0x3000)
    ∧ isNext (exec (.ld 9 4 0 .w 0 .n) s) (s.hitLoad f 9 (hbmKey 0x3000)).passed = true := by decide +kernel

/-- StoresWriteOrLeave: a remote release of system scope, after its flush. -/
theorem test_met_StoresWriteOrLeave_sys :
    let s := slot0 (memRegs base) fun x => { x with op := .done 0 }
    let c := storeCtr 0x1000100000001000
    mayIssue { rd := [2, 5] } s = true ∧ s.mayGo 0 0x1000100000001000 = true ∧ s.accessCheck permW 0x1000100000001000 8 8 false = none
    ∧ s.fenceOk .sys = true ∧ s.me.op = .done 0 ∧ s.me.optimistic = false ∧ s.me.cnt.val c < 255
    ∧ isNext (exec (.stl 2 5 .w .sys) s) ((s.addCount 0 c).sent
      { id := 0, thr := 0, pid := 0, addr := 0x1000100000001000, n := 8, op := .store (wholeBytes 8 0x1122334455667788), ctr := c, rel := true
        scope := Scope.sys.code }).passed = true := by decide +kernel

/-- CachesFencesAndWaits: PREF of a register outside the allotment and of a port that no queue is bound to; a cached line. -/
theorem test_met_CachesFencesAndWaits_lines :
    let s := { (core0 (memRegs base) fun c => { c with l1 := [{ line := lineOf 0x3000, key := 1 }, { line := 5, key := 1 }] }) with
      tlb := [{ loc := 0, pid := 1, va := 0x3000, size := 4096, pa := 0x3000, rd := true, wr := true, ex := true }] }
    let o := slot0 s fun x => { x with sr := { x.sr with regallot := 0x10 } }
    let left := s.updMyCore fun c => { c with l1 := [{ line := 5, key := 1 }] }
    o.me.sr.outside 16 = true ∧ isNext (exec (.pref 16 0 .n) o) o.passed = true
    ∧ (Use.misused { rd := [63] } s.myCore (slotNo s.cur)).isSome = true ∧ isNext (exec (.pref 63 0 .n) s) s.passed = true
    ∧ mayIssue { rd := [4] } s = true ∧ s.lineCheck 0x2000000000003000 32 = none ∧ s.buffered (some 0x2000000000003000) = false
    ∧ s.cachedLine 0x2000000000003000 = some (lineOf 0x3000) ∧ s.cachedLine 0x1000 = none
    ∧ isNext (exec (.cinvLine 4) s) left.passed = true
    ∧ nextIs (exec (.cflushLine 4) s) (fun t => t.myCore.l1 = [{ line := 5, key := 1 }] && t.me.pc = s.me.nextPc && t.mem = s.mem) = true := by
  decide +kernel

/-- FullEmptyWords: LDE of a task that still holds a store to the word, through its quad's own share offset of space 1. -/
theorem test_met_FullEmptyWords_held :
    let s := slot0 (regs { (base.wr 0x1000 8 5) with fe := [(0x1000, true)] } [0x1000]) fun x =>
      { x with task := { x.task with held := [.store 0x1000000000001000 [(0, 9, 0xFF)]] } }
    mayIssue { rd := [1], wr := [9] } s = true ∧ s.feCheck permRW false 0x1000 = none ∧ FMap.get false s.fe 0x1000 = true ∧ s.queued 0x1000 true = false
    ∧ s.bytesFree 0x1000 8 = true ∧ isNext (exec (.lde 9 1 0 0 .n) s) ((({ s with fe := [] } : State).writeReg 0 9 (word (s.ownRead 0x1000 8)) 6).passed) = true := by
  decide +kernel

/-- AtomicsActInOneStep: a local reduction of 4 bytes with the last sequence number. -/
theorem test_met_AtomicsActInOneStep_reduction :
    let s := regs (base.wr 0x1000 8 5) [0x1000, 0xFFFF000000000007]
    space (s.operand 1) = 0 ∧ mayIssue { rd := [1, 2] } s = true ∧ s.mayGo 0 0x1000 = true ∧ s.atomicCheck 0x1000 4 true = none ∧ s.bytesFree 0x1000 4 = true
    ∧ fld (s.operand 2) 48 16 = 0xFFFF ∧ s.redPairs = []
    ∧ isNext (exec (.red 1 2 .add false .rlx .slot) s)
      ({ s.wr 0x1000 4 12 with redPairs := [{ loc := 0x1000, rsn := 0xFFFF, done := [0], last := 0 }] } : State).passed = true
    ∧ isNext (exec (.red 1 2 .add true .rlx .slot) s) (s.wr 0x1000 8 0xFFFF00000000000C).passed = true := by decide +kernel

/-- RemoteAccessesArrive: a keep store at the home of its line. -/
theorem test_met_RemoteAccessesArrive_keep :
    let f : Flight := { id := 3, thr := 0, pid := 1, addr := 0x2000000000003000, n := 8, op := .store [(0, 7, 0xFF)], ctr := 3
                        stage := .home (hbmKey 64), cp := 3 }
    let s : State := { base with flights := [f] }
    s.flight 3 = some f ∧ isHbm (hbmKey 64) = true ∧ s.mayPerform f = true ∧ s.owned (hbmKey 64) 8 = false
    ∧ isNext (exec (.homeStore 3) s) (((((s.writeW (hbmKey 64) [(0, 7, 0xFF)]).invalidateOthers (dieOf 0) (lineOf 64)).cacheStore 0 64 1 3).setStage 3 .ack)) = true := by
  decide +kernel

/-- VectorLoads: a remote line read and stored in its sectors, remote strides and indices stored by element, and a line that is held. -/
theorem test_met_VectorLoads_remote :
    let far : Word := 0x1000100000001000
    let s := (regs (base.setM 0 1 0x101) [far, 16]).setV 0 2 0x900000008#2048
    let o := (regs (opti.setM 0 1 0x101) [far, 16]).setV 0 2 0x900000008#2048
    let es := footElems far 0 0x101
    mayIssue { rd := [1], vs := [2], ms := [1] } s = true ∧ s.mayGo 0 far = true ∧ s.footCheck permR far es = none ∧ s.me.cnt.ldc < 63
    ∧ (sectorsOf far 0 es).map (fun p => (p.1, p.2.1)) = [(0, far), (8, far + 32)]
    ∧ nextIs (exec (.vld 2 1 0 1 0 .n) s) (fun t => t.flights.map (fun f => (f.addr, f.n)) = [(far, 32), (far + 32, 32)] && t.groups.length = 1 && t.me.cnt.ldc = 1) = true
    ∧ s.footCheck permW far es = none ∧ s.me.optimistic = false ∧ s.me.cnt.val (storeCtr far) < 255
    ∧ nextIs (exec (.vst 2 1 0 1 0 .n) s) (fun t => t.flights.map (fun f => (f.addr, f.op)) =
      [(far, .store (wholeBytes 4 8)), (far + 32, .store (wholeBytes 4 0))] && t.me.cnt.stcS = 1) = true
    ∧ s.elemChecks permW far (laneElems 0x101 0 (strided far 16)) = none ∧ mayIssue { rd := [1, 2], vs := [2], ms := [1] } s = true
    ∧ nextIs (exec (.vsts 2 1 2 1 0) s) (fun t => t.flights.map (fun f => (f.addr, f.n)) = [(far, 4), (far + 128, 4)]) = true
    ∧ mayIssue { rd := [1], vs := [2, 3], ms := [1] } s = true ∧ s.elemChecks permW far (laneElems 0x101 0 (indexed far (s.vReg 0 3) 0)) = none
    ∧ nextIs (exec (.vscat 2 1 3 1 0) s) (fun t => t.flights.map (fun f => (f.addr, f.n)) = [(far, 4), (far, 4)]) = true
    ∧ o.mayHold (.store far (wholeBytes 4 8 ++ (wholeBytes 4 0).map fun y => (32 + y.1, y.2.1, y.2.2))) = true
    ∧ isNext (exec (.vst 2 1 0 1 0 .n) o) (o.held (.store far (wholeBytes 4 8 ++ (wholeBytes 4 0).map fun y => (32 + y.1, y.2.1, y.2.2)))).passed = true := by
  decide +kernel

/-- WiredBarriers: a phase that is complete while a BARSET is in progress is released. -/
theorem test_met_WiredBarriers_barset :
    let s := (quad0 base fun q => { q with barmask := [(0, 0x100000001)], arrived := [{ g := 0, slot := 0 }] }).updPart 1 fun p =>
      { p with barsets := [{ g := 0, thr := 0, addr := 0, masks := [] }] }
    s.barsetting 1 0 = true ∧ s.quadArrived 1 0 0 = true ∧ (s.quadsOf 1).filter (fun qi => (FMap.get 0 (s.bars 1 qi).1 0).getLsbD 32) = [0]
    ∧ isNext (exec (.barrierRelease 1 0) s) ((s.notePassed 1 0).clearArrivals 1 0) = true := by decide +kernel

/-- ChannelHeads: elements of the other two kinds, of the largest and the smallest size, and a reader that waits. -/
theorem test_met_ChannelHeads_kinds :
    let e : ChanEnt := { chan 32 0 with esize := 5, tail := 1, sph := 1 }
    let r := withChan (regs (base.wr (scratchKey 0 0x4000) 256 0x77) [0, 0x2000]) e
    let w := withChan (regs (base.setV 0 31 9#2048) [0, 0x2000]) { chan 0 32 with esize := 5 }
    let b := withChan (regs base [0]) (chan 32 0)
    let u := (r.touchChan 0 (e.popped false)).writeReg 0 9 0 6
    e.reader = r.relThread 0 ∧ r.acquiring = false ∧ mayIssue { rd := [1], wr := [9], vs := [31] } r = true
    ∧ nextIs (exec (.chpop .v 9 1 31 0) r) (fun t => t.myCore.pend.map (fun p => (p.due, p.op)) = [(6, .reg 9), (10, .vec 31 0x77 0)]) = true
    ∧ mayIssue { rd := [1, 2], wr := [9] } r = true ∧ r.localCheck 0 permW 0x2000 256 = none ∧ r.bytesFree 0x2000 256 = true
    ∧ isNext (exec (.chpop .a 9 1 2 0) r) ((u.wrBytes 0x2000 (leBytes 256 0x77)).passed) = true
    ∧ mayIssue { rd := [1], vs := [31] } w = true
    ∧ isNext (exec (.chpush .v 1 31 0) w) (w.sendPush 0 { chan 0 32 with esize := 5 } (leBytes 256 9) false true 0x1002).passed = true
    ∧ mayIssue { rd := [1, 2] } w = true ∧ w.localCheck 0 permR 0x2000 256 = none
    ∧ isNext (exec (.chpush .a 1 2 0) w) (w.sendPush 0 { chan 0 32 with esize := 5 } (leBytes 256 0) false true 0x1002).passed = true
    ∧ mayIssue { rd := [1], wr := [9, 10] } b = true ∧ isNext (exec (.chpop .s 9 1 10 0) b) (b.blockMe (.chEmpty 0)) = true := by decide +kernel

/-- SystemRegisterAccess: a task's accesses to a register that it may write, and to one that it may only read. -/
theorem test_met_SystemRegisterAccess_task :
    let s := regs task [0xFFFF]
    s.super = false ∧ mayIssue { rd := [1], wr := [2], seed := srSeed 0x041 } s = true ∧ mayIssue { rd := [1], wr := [2], seed := srSeed 0x015 } s = true
    ∧ (srAccess 0x041).map (fun a => (a.taskRead, a.taskWrite)) = some (true, true) ∧ (srAccess 0x015).map (fun a => (a.taskRead, a.taskWrite)) = some (true, false)
    ∧ isNext (exec (.rdsr 2 0x015) s) (s.wrote [] 2 0x20 3) = true ∧ isNext (exec (.wrsr 0x015 1) s) s.passed = true
    ∧ isNext (exec (.swsr 2 0x015 1) s) (s.wrote [1] 2 0x20 3) = true
    ∧ isNext (exec (.wrsr 0x041 1) s) (s.pendOp (.sys 0x041 none) 0xFFFF).passed = true
    ∧ isNext (exec (.swsr 2 0x041 1) s) (s.pendOp (.sys 0x041 (some 2)) 0xFFFF).passed = true := by decide +kernel

/-- RunListsAndBinding: a piece of its record's own quad; a pinned entry of three tiles that binds from list 2 under one of list 3 that
does not fit. -/
theorem test_met_RunListsAndBinding_pinned :
    let w : Nat × Piece := (0, { org := [0], cnt := [2] })
    let pin : List Word := header.set 3 (BitVec.ofNat 64 (2 ^ 32 + 2 ^ 35))
    let wide : List Word := header.set 4 (BitVec.ofNat 64 (32 + 16 * 64 + 0x7FFFF * 2 ^ 16))
    let own := quad0 (base.updSlot 0 fun _ => {}) fun x => { x with recs := [(256, { hdr := header, pid := 1, waiting := [w] })] }
    let e : Entry := { handle := 0, piece := { org := [0], cnt := [3] } }
    let f : Entry := { handle := 1, piece := { org := [0], cnt := [1] } }
    let b := quad0 (base.updSlot 0 fun _ => {}) fun x =>
      { x with recs := [(256, { hdr := pin, pid := 1 }), (257, { hdr := wide, pid := 1 })], lists := [(6, [e]), (7, [f])] }
    own.physQuad 1 0 = some 0 ∧ (own.quad 0).entries 1 < 4032 ∧ (∀ x ∈ (own.quad 0).recs, x.2.seq < 0 → x.2.waiting = [])
    ∧ nextIs (exec (.pieceEnqueue 0 256) own) (fun t => (t.quad 0).list 1 0 = [{ handle := 0, piece := w.2 }]) = true
    ∧ (b.quad 0).list 1 3 = [f] ∧ (b.launchRec 1 1).hdr = wide ∧ b.allotFor 0 1 wide = none
    ∧ (b.quad 0).list 1 2 = [e] ∧ (b.launchRec 1 0).hdr = pin ∧ hdrPin pin = true ∧ b.bindSlot 0 = some 0 ∧ hdrEff pin ≤ 65536 - b.effectUse 0
    ∧ b.allotFor 0 1 pin = some 0 ∧ (b.region 0).mayBind = true ∧ (b.quad 0).halted = false ∧ (b.quad 0).swapping = false
    ∧ (b.quad 0).contained = false ∧ (b.ctx 0).leaving = false ∧ e.nextTile + 1 < e.piece.tiles
    ∧ nextIs (exec (.taskBind 0) b) (fun t => (t.slot 0).st = .ready && (t.slot 0).sr.status = 0x20 && (t.slot 0).task.piece = { org := [0], cnt := [1] }
      && (t.quad 0).list 1 2 = [{ e with nextTile := 1 }] && (t.quad 0).list 1 3 = [f]) = true := by decide +kernel

/-- TasksEndAndDrain: one record of each kind before another, refused ones, and one under way. -/
theorem test_met_TasksEndAndDrain_records :
    let last : Effect := .store 0x3000 [(0, 1, 0xFF)]
    let d (e : Effect) : DrainTask := { thr := 0, pid := 1, handle := 0, recs := [e, last] }
    let b := base.wr 0x1000 8 (2 ^ 63 + 2)
    let s (e : Effect) : State := quad0 b fun q => { q with drain := [d e] }
    let c (x : ChanEnt) (e : Effect) : State := quad0 (s e) fun q => { q with chans := [x] }
    let run (e : Effect) (t : State) : Host.Outcome State Fault Refusal := exec (.effectDrainRecord 0 0) t
    let rest (t : State) : Bool := (t.quad 0).drain.map (fun x => (x.recs, x.sent)) = [([last], none)]
    let sent (t : State) (e : Effect) : Bool := (t.quad 0).drain.map (fun x => (x.recs, x.sent)) = [([e, last], some 0)]
    let lost (t : State) : Bool := (t.quad 0).drain.map (fun x => (x.recs, x.failed)) = [([last], true)]
    let st : Effect := .store 0x1000 [(0, 9, 0xFF), (1, 7, 0x0F)]
    let red : Effect := .red 0x1000 0 4 3
    let dec : Effect := .dec 0x1000
    let sp : Effect := .spawn 0x2000 none
    let m (a : Word) : Effect := .msg a 5 (leBytes 8 1)
    let p : Effect := .push 0 (leBytes 8 1)
    let w (f : Flight) : State := quad0 { b with flights := [f] } fun q => { q with drain := [{ d sp with sent := some 4 }] }
    (b.runs 1 0 = true ∧ ((s st).drainBytes (d st) 0x1000 [(0, 9, 0xFF), (1, 7, 0x0F)]).toOption = some [(0x1000, 9, 0xFF), (0x1001, 7, 0x0F)]
      ∧ nextIs (run st (s st)) (fun t => rest t && memByte t.mem 0x1000 = 9 && memByte t.mem 0x1001 = 7) = true)
    ∧ (redRsn 4 3 = 0 ∧ ((s red).drainKey (d red) permRW 0x1000 4).toOption = some 0x1000 ∧ isHbm 0x1000 = false
      ∧ nextIs (run red (s red)) (fun t => rest t && t.rd8 0x1000 = 0x8000000000000005) = true)
    ∧ (((s dec).drainKey (d dec) permRW 0x1000 16).toOption = some 0x1000
      ∧ nextIs (run dec (s dec)) (fun t => rest t && t.rd8 0x1000 = 0x8000000000000001) = true)
    ∧ nextIs (run sp (s sp)) (fun t => sent t sp && t.launches.map (fun l => (l.hdr, l.spawn)) = [(0x2000, true)]) = true
    ∧ ((s (m 0x2000)).msgPlace 1 0x2000 = none ∧ nextIs (run (m 0x2000) (s (m 0x2000))) lost = true)
    ∧ ((s (m 1)).msgPlace 1 1 = some (.core 1) ∧ ((s (m 1)).core 0).txRoom = true
      ∧ nextIs (run (m 1) (s (m 1))) (fun t => sent t (m 1) && t.myCore.txq.length = 1) = true)
    ∧ ((c (chan 0 32) p).chanAt 0 1 0 = some (chan 0 32) ∧ (chan 0 32).writerRoom = true
      ∧ nextIs (run p (c (chan 0 32) p)) (fun t => sent t p && t.pushes.length = 1) = true)
    ∧ isNext (run p (c { chan 0 32 with wtail := 4 } p)) (c { chan 0 32 with wtail := 4 } p) = true
    ∧ nextIs (run p (c { chan 0 32 with state := 2 } p)) lost = true ∧ nextIs (run p (c { chan 0 32 with valid := false } p)) lost = true
    ∧ ((w { id := 4, thr := 0, pid := 1, addr := 0, n := 8, op := .dec }).sentPending 4 = true
      ∧ isNext (run sp (w { id := 4, thr := 0, pid := 1, addr := 0, n := 8, op := .dec })) (w { id := 4, thr := 0, pid := 1, addr := 0, n := 8, op := .dec }) = true)
    ∧ ((w { id := 5, thr := 0, pid := 1, addr := 0, n := 8, op := .dec }).sentPending 4 = false
      ∧ nextIs (run sp (w { id := 5, thr := 0, pid := 1, addr := 0, n := 8, op := .dec })) rest = true) := by decide +kernel

/-- YokeEvents: the last row and the last column of a drain, its first column and the last of a row before the last; a failed image. -/
theorem test_met_YokeEvents_ends :
    let ops (l : List SliceOp) : State := core0 base fun c => { c with slice := { ops := l } }
    let row (n : Nat) : State := ops [.mdrain 6 0 false .f64 .rne 0x1000 0 2 256 n 0]
    let col (r c : Nat) : State := ops [.mdrain 6 0 true .i32 .rne 0x1000 0 2 128 r c]
    let tlc (s : State) : State := slot0 s fun x => { x with cnt := { x.cnt with tlc := 1 } }
    let wl := tlc (ops [.wload 5 0 0x1002000001001000 0 none])
    (row 1).ownedBy 6 0x1100 256 = false
    ∧ nextIs (exec (.mdrainRowWrite 0) (tlc (row 1))) (fun t => (t.core 0).slice.ops = [] && (t.slot 0).cnt.tlc = 0 && t.mem = base.mem) = true
    ∧ nextIs (exec (.mdrainHandlePush 0) (col 0 31)) (fun t => (t.core 0).slice.ops = [.mdrain 6 0 true .i32 .rne 0x1000 0 2 128 1 0]
      && (t.core 0).c28r.map (fun h => h.getLsbD 63) = [false]) = true
    ∧ nextIs (exec (.mdrainHandlePush 0) (tlc (col 1 31))) (fun t => (t.core 0).slice.ops = [] && (t.slot 0).cnt.tlc = 0
      && (t.core 0).c28r.map (fun h => h.getLsbD 63) = [true]) = true
    ∧ (wl.slot 0).hbPending = false ∧ (match wl.yokeRead 0 0x1002000001001000 (imageBytes 1 / 32) with | .fail _ 0xFFD true => true | _ => false) = true
    ∧ nextIs (exec (.yokeHandback 0 5) wl) (fun t => (t.slot 0).hbPending && (t.core 0).slice.ops = [] && (t.slot 0).cnt.tlc = 0) = true := by decide +kernel

/-- YokeEvents: a float part at the edge, one outside it, scaled activations, ZERO, and the exact sum's infinities, NaNs and zeros. -/
theorem test_met_YokeEvents_float :
    let one : Word := 0x3FF0000000000000
    let l : Slice := { active := { fmt := 1, w := [(0, .flt (.fin false 1 0)), (31, .flt (.fin false 3 0))] }, acc := [(0, one), (31, one), (63 * 32, one)] }
    let p : GangPart := { idle := false, edge := true, ncnt := 1, mcnt := 1, kcnt := 1 }
    let a (q : GangPart) (m n : Nat) : Word := (l.accumulate q 1 64 m 0x3F80).accAt (q.acc + m) n
    ((1, bf16) : Nat × Fmt) ∈ [(1, bf16), (2, fp16), (3, e4m3), (4, e5m2)]
    ∧ a p 0 0 = 0x4000000000000000 ∧ a p 0 31 = one ∧ a { p with mcnt := 0 } 0 0 = one ∧ a { p with zero := true } 0 0 = one
    ∧ a { p with edge := false } 0 31 = 0x4010000000000000
    ∧ a { p with asc := true, scale := some { seq := 0, codes := [128] } } 0 0 = 0x4008000000000000
    ∧ a { p with asc := true, scale := some { seq := 0, codes := [255] } } 0 0 = 0x7FF8000000000000
    ∧ exactSum [.fin true 0 0, .fin true 0 5] = .fin true 0 0 ∧ (exactSum [.inf true, .inf false]).isNan = true
    ∧ exactSum [.inf true, .fin false 1 0] = .inf true ∧ (exactSum [.nan false 1, .inf true]).isNan = true
    ∧ (match exactSum [.fin false 1 60, .fin false 1 (-60), .fin true 1 60] with | .fin false m e => m * 2 ^ (e + 60).toNat | _ => 0) = 1 := by
  decide +kernel

/-- CopyEvents: a copy behind three and behind four that run; the ends with a status, of MODE 2, and of one cancelled; a refused row. -/
theorem test_met_CopyEvents_ends :
    let k (i : Nat) : Copy := { id := i, idx := i, slot := 7, w0 := 0x1000, w1 := 0x2000, w2 := 32, w3 := 0, rowLen := 32, ny := 1, nz := 1
                                ssy := 0, ssz := 0, dsy := 0, dsz := 0, y0 := 0, z0 := 0 }
    let run (i : Nat) : Copy := { k i with started := true }
    let s (l : List Copy) : State := core0 base fun c => { c with fifo := l }
    let md (m : Nat) (c : Copy) : Copy := { c with w3 := BitVec.ofNat 64 (m * 2 ^ 62 + 0x15) }
    let bad := { run 3 with w1 := 0x1002000000000000 }
    let blk := { run 3 with w0 := 0x1002000000000000, w1 := 1, w2 := 32 + 2 ^ 61 }
    isNext (exec (.copyStart 0) (s [run 0, run 1, run 2, k 3, k 4])) (s [run 0, run 1, run 2, run 3, k 4]) = true
    ∧ isNext (exec (.copyStart 0) (s [run 0, run 1, run 2, run 3, k 4])) (s [run 0, run 1, run 2, run 3, k 4]) = true
    ∧ (match (s [run 1, bad]).firstEnd 0 bad 1 with | some (0, .refused 2) => true | _ => false) = true ∧ (s [run 1, bad]).targetOwned 0 bad = false
    ∧ (s [run 1, bad]).copyClosed 0 bad = false
    ∧ isNext (exec (.copySectorLand 0 3 0) (s [run 1, bad])) (s [run 1, { bad with status := 2 }]) = true
    ∧ (md 2 { run 3 with landed := [0] }).mode = 2 ∧ (s [md 2 { run 3 with landed := [0] }]).copyFlying 0 (md 2 { run 3 with landed := [0] }) = false
    ∧ isNext (exec (.copyComplete 0 3) (s [md 2 { run 3 with landed := [0] }]))
      ((s [md 2 { run 3 with landed := [0] }]).endCopy 0 (md 2 { run 3 with landed := [0] })) = true
    ∧ isNext (exec (.copyComplete 0 3) (s [{ run 3 with status := 1 }]))
      (((s [{ run 3 with status := 1 }]).endCopy 0 { run 3 with status := 1 }).postAsync 7 0x07 0x1000) = true
    ∧ isNext (exec (.copyComplete 0 3) (s [{ run 3 with status := 3 }]))
      (((s [{ run 3 with status := 3 }]).endCopy 0 { run 3 with status := 3 }).postAsync 7 0x02 0x1000) = true
    ∧ (md 3 { run 3 with status := 2 }).mode = 3 ∧ nextIs (exec (.copyComplete 0 3) (s [md 3 { run 3 with status := 2 }]))
      (fun t => (t.core 0).c29 = [word (2 ^ 63 + 2 * 2 ^ 56 + 3 * 2 ^ 16 + 0x15)] && (t.core 0).fifo = []) = true
    ∧ isNext (exec (.copyComplete 0 3) (s [{ run 3 with cancelled := true }])) ((s [{ run 3 with cancelled := true }]).endCopy 0 { run 3 with cancelled := true }) = true
    ∧ (match (s [blk]).firstEnd 0 blk blk.rows with | some (_, .refused 1) => true | _ => false) = true
    ∧ isNext (exec (.scaleBlockDeliver 0 3) (s [blk])) (s [{ blk with status := 1 }]) = true := by decide +kernel

/-- MessageEvents: a message of a context that is swapped out. -/
theorem test_met_MessageEvents_swapped :
    let m : Msg := { id := 3, data := leBytes 8 1, src := some 0, dst := 5, pid := 2, counted := true }
    let old : Saved := { pid := 2, cores := [{}, {}, {}, {}], ltab := [], slots := [] }
    let s : State := { base.updQuad 1 (fun q => { q with ctxs := [{ pid := 1, p := 1 }, { pid := 2, p := 1 }], shadow := [old] }) with
      parts := [(1, part1), (2, { part1 with vf := 2 })], msgs := [m] }
    (s.ctxOf 1 2).isSome = true ∧ s.runs 2 40 = false ∧ s.arrived m.pkt = true ∧ s.msgReleased m = true ∧ (s.quad 1).contained = false ∧ (s.quad 1).shadow = [old]
    ∧ nextIs (exec (.messageAccept 3) s) (fun t => (t.core 5).rxq = [] && (t.coreIn 2 5).rxq = [{ m with st := .accepted }]) = true
    ∧ (∀ p ∈ (base.slot 0).pushes, p.1 ≠ 63) := by decide +kernel

/-- MeshEvents: a flit that a link of width 3 takes across in four beats. -/
theorem test_met_MeshEvents_beats :
    let p : Packet := { id := 3, src := 0, dst := 1, pid := 1, p := 1, epoch := 0 }
    let f : Flit := { pkt := 3, seq := 0, at_ := 0 }
    let s (n : Nat) : State := ({ base with packets := [p], flits := [{ f with done := n }] }).updPanel fun q => { q with width := [(1, 3)] }
    (s 0).linkBytes 1 = 32 ∧ (s 64).nextOut 1 { f with done := 64 } = .link 1 { f with done := 64 } ∧ (s 64).winner 1 = some (0, 4)
    ∧ nextIs (exec (.bestEffortFlitHop 3 0) (s 64)) (fun t => t.flits = [{ f with done := 96 }] && t.packets = [p]) = true
    ∧ nextIs (exec (.bestEffortFlitHop 3 0) (s 96)) (fun t => t.flits = [{ f with at_ := 1, port := 3 }]) = true := by decide +kernel

/-- HostAndTenancy: the words of an image beyond the registers, and a new key over a frame of the old one. -/
theorem test_met_HostAndTenancy_words :
    let h := quad0 (base.updSlot 0 fun _ => {}) fun q => { q with halted := true }
    let k := base.updPanel fun p => { p with frames := [(4096, 4096, 7)] }
    nextIs (exec (.debugSlotStart 0 (some 0x1002) [] [(56, 3)]) h) (fun t => (t.slot 0).wake && (t.slot 0).hbPending) = true
    ∧ nextIs (exec (.debugSlotStart 0 (some 0x1002) [] [(57, BitVec.ofNat 64 (2 ^ 38 + 60 * 2 ^ 32))]) h)
      (fun t => (t.slot 0).push = some (60, 0) && (t.slot 0).st = .held) = true
    ∧ (h.slot 0).push = none ∧ base.runs 1 0 = true ∧ base.runs 1 63 = true
    ∧ k.panel.frames = [(4096, 4096, 7)] ∧ FMap.get 0 k.panel.keys 7 = 0 := by decide +kernel

/-- RecoveryAndPower: the two phases of a resizing that takes a quad away, and a block that an access makes the next. -/
theorem test_met_RecoveryAndPower_resize :
    let pin := base.setSlot 32 (slotAt 0x20)
    let go := pin.updQuad 1 fun q => { q with ctxs := [{ pid := 1, p := 1, leaving := true }] }
    let mv := go.setSlot 32 { slotAt 0x20 with st := .moving }
    let dry := go.setSlot 32 {}
    let f := quad0 base fun q => { q with fill := some { src := 9 } }
    pin.resizeOk 1 0 0 1 1 = true ∧ pin.removedQuads 1 0 0 1 1 = [(1, { pid := 1, p := 1 })]
    ∧ nextIs (exec (.partitionResize 1 0 0 1 1) pin) (fun t => t.changes = [] && (t.quad 1).ctxs.all fun c => c.leaving) = true
    ∧ mv.pinnedOn 1 (mv.removedQuads 1 0 0 1 1) = [32] ∧ (mv.slot 32).st = .moving ∧ isNext (exec (.partitionResize 1 0 0 1 1) mv) mv = true
    ∧ dry.pinnedOn 1 (dry.removedQuads 1 0 0 1 1) = [] ∧ (dry.quad 1).chans = []
    ∧ isNext (exec (.partitionResize 1 0 0 1 1) dry) { dry with changes := [{ time := 2000, op := .resize 1 0 0 1 1 }] } = true
    ∧ keyQuad (scratchKey 9 0x10000) ≠ 0 ∧ ((f.noteBlock 0 (scratchKey 9 0x10000)).quad 0).fill = some { src := 9, next := [1] }
    ∧ nearest 5 [4, 6] = some 4 ∧ nearest 0 [71] = some 71 ∧ nearest 5 [] = none := by decide +kernel

/-- SlotEvents: two held pushes; a slot that is blocked while its line is fetched; a spill whose image is refused; what basting keeps. -/
theorem test_met_SlotEvents_more :
    let q (n : Nat) : Queue := { bound := some (0, n) }
    let full : Queue := { q 1 with ents := List.replicate 8 0 }
    let two (a b : Nat) : State := core0 (slot0 base fun x => { x with st := .held, push := some (a, 7), pushMore := [(b, 8, 0)] }) fun c =>
      { c with q := [(0, full), (1, q 2)] }
    let hbm := slot0 base fun x => { x with pc := 0x2000000000001002, st := .blocked .drained }
    let m : Move := { thr := 0, issuer := some 1, addr := 0x1002000000000000, restore := false, started := true }
    let mv (x : Slot → Slot) (m : Move) : State := { slot0 base (fun y => x { y with st := .moving }) with moves := [m] }
    let baste (y : Slot) : Slot := { y with sr := { y.sr with status := 0x61 }, task := { y.task with ckAge := 9 } }
    let img : State := { (slot0 (((base.wr8 (0x4000 + 63 * 8) 0x10000).wr8 (0x4000 + 32 * 8) 0x20).wr8 (0x4000 + 58 * 8) 0x8000000000000000) fun x => { x with st := .moving }) with
      moves := [{ m with addr := 0x4000, restore := true }], parked := [(1, 0, { ckAge := 9 })] }
    ((two 56 56).slot 0).pushes = [(56, 7, 0), (56, 8, 0)] ∧ ((two 56 56).pushPort 0 0 56 7 0).isSome = false
    ∧ isNext (exec (.heldPushRetry 0) (two 56 56)) (two 56 56) = true
    ∧ ((two 56 57).pushPort 0 0 57 8 0).isSome = true
    ∧ nextIs (exec (.heldPushRetry 0) (two 56 57)) (fun t => (t.slot 0).push = some (56, 7) && (t.slot 0).pushMore = [] && (t.slot 0).st = .held) = true
    ∧ hbm.fetchCheck 0 = none ∧ hbm.fetchLine 0 = none ∧ hbm.fetching 0 = false
    ∧ nextIs (exec (.lineFetch 0) hbm) (fun t => (t.slot 0).st = .blocked .drained && t.fetching 0) = true
    ∧ ((mv id m).engineWrite 1 1 m.addr ((mv id m).image 0 0x1002)).toOption.isSome = false
    ∧ nextIs (exec (.spillComplete 0) (mv id m)) (fun t => (t.slot 0).st = .ready && t.moves = []) = true
    ∧ nextIs (exec (.spillComplete 0) (mv baste { m with addr := 0x4000 })) (fun t => t.parked.map (fun p => (p.1, p.2.1, p.2.2.ckAge)) = [(1, 0, 9)]
      && (t.slot 0).st = .free) = true
    ∧ img.parked = [(1, 0, { ckAge := 9 })] ∧ (img.engineRead 1 1 (0x4000 + 504) 1).toOption = some (leBytes 8 0x10000)
    ∧ (img.engineRead 1 1 0x4000 576).toOption.isSome = true ∧ fld 0x10000 0 16 = 0 := by decide +kernel

/-- ScalarHeadsKeepTheRest, VectorHeadsKeepTheRest: a loop, a wait that goes on and one that stays, a mask head; a conversion and a lane. -/
theorem test_met_HeadsKeepTheRest_more :
    let s := regs base [2, 31]
    let c := slot0 s fun x => { x with cnt := { x.cnt with ldc := 1 } }
    mayIssue { rd := [1], wr := [1] } s = true ∧ s.mayPut 1 = true
    ∧ nextIs (exec (.loop 1 0 1) s) (fun t => t.tReg 0 1 = 1 && t.tReg 0 2 = 31 && t.mem = s.mem) = true
    ∧ nextIs (exec (.waitc 0 0 0 0) c) (fun t => t.cores = c.cores && t.mem = c.mem && t.tReg 0 1 = 2 && (t.slot 0).pc = 0x1002) = true
    ∧ nextIs (exec (.fence .part) s) (fun t => (t.slot 0).pc = 0x1004) = true
    ∧ mayIssue { rd := [2], ms := [7] } s = true ∧ nextIs (exec (.msetv 7 2) s) (fun t => t.mReg 0 7 = 31 && t.mReg 0 6 = s.mReg 0 6) = true
    ∧ s.myCore.vqUsed < 8 ∧ mayIssue { vs := [31, 0], ms := [7], seed := true } s = true
    ∧ nextIs (exec (.vcvt 31 0 7 .bf16 false .rsr) s) (fun t => t.myCore.vq.length = 1) = true
    ∧ (s.operand 2).toNat < 2048 / 64 ∧ mayIssue { rd := [2], wr := [3], vs := [1] } s = true ∧ s.mayPut 3 = true
    ∧ nextIs (exec (.vextr 3 1 2 true) s) (fun t => t.myCore.vq.map (fun e => e.dest) = [.scal 3 0]) = true := by decide +kernel

/-! ## The cipher of stored frames (R365) -/

/-- AtomicsActInOneStep: a basted slot with a number that its log holds and one that it does not; a release; an atomic, a comparison, a pair
and a RED of another quad's word and of HBM; a RED that an optimistic task holds. -/
theorem test_met_AtomicsActInOneStep_forms :
    let far : Word := 0x1000100000001000
    let r (s : State) : State := regs (s.wr 0x1000 8 5) [0x1000, 7, 5, 6, far, 0x2000000000001000, 0xFFFF000000000007]
    let s := r base
    let o := r opti
    let b (log : List AtomLog) : State := r (slot0 base fun x => { x with sr := { x.sr with status := 0x61, basteSeq := 9 }, task := { x.task with atomLog := log } })
    let num (t : State) : State := t.updMe fun z => z.updSr fun q => { q with basteSeq := 10 }
    let held := b [{ seq := 9, place := 0, old := 3 }]
    let f : Flight := { id := 0, thr := 0, pid := 1, addr := far, n := 8, op := .amo 0 7, ret := .scalar 10 false, ctr := 0, scope := 3 }
    (b []).me.bst = true ∧ (b []).logUse < 255 ∧ (b []).me.task.logged (some 9) = none ∧ held.me.task.logged (some 9) = some 3
    ∧ isNext (exec (.amo 10 1 2 .add true .rlx .slot) (b []))
      (((num (((b []).wr 0x1000 8 12).logAtomic 0 0x1000 (some 9) 5)).writeReg 0 10 5 6).passed) = true
    ∧ isNext (exec (.amo 10 1 2 .add true .rlx .slot) held) (((num held).writeReg 0 10 3 6).passed) = true
    ∧ s.me.bst = false ∧ ordReleases .ar = true ∧ s.allPerformed = true
    ∧ isNext (exec (.amo 10 1 2 .add true .ar .part) s) (((s.wr 0x1000 8 12).writeReg 0 10 5 6).passed) = true
    ∧ mayIssue { rd := [5, 2], wr := [10] } s = true ∧ s.mayGo 0 far = true ∧ s.atomicCheck far 8 false = none ∧ s.me.cnt.ldc < 63
    ∧ isNext (exec (.amo 10 5 2 .add true .ar .part) s) (((s.addCount 0 0).markBusy 0 10).launchFlight { f with acq := true, rel := true }).passed = true
    ∧ mayIssue { rd := [5, 3, 2], wr := [10] } s = true
    ∧ isNext (exec (.cas 10 5 3 2 true .rlx .slot) s) (((s.addCount 0 0).markBusy 0 10).launchFlight { f with op := .cas 5 7, scope := 0 }).passed = true
    ∧ mayIssue { rd := [5, 3, 4, 2, 3], wr := [10, 11] } s = true ∧ s.atomicCheck far 16 false = none
    ∧ isNext (exec (.cas2 10 5 3 2 .rlx .slot) s) ((((s.addCount 0 0).markBusy 0 10).markBusy 0 11).launchFlight
      { f with n := 16, op := .cas (5 + 2 ^ 64 * 6) (7 + 2 ^ 64 * 5), ret := .pair 10, scope := 0 }).passed = true
    ∧ mayIssue { rd := [6, 2], wr := [10] } s = true ∧ s.mayGo 0 0x2000000000001000 = true ∧ s.atomicCheck 0x2000000000001000 8 false = none
    ∧ s.predicts (coreOf 0) 0x2000000000001000 = 0
    ∧ isNext (exec (.amo 10 6 2 .add true .rlx .slot) s) (((s.addCount 0 0).markBusy 0 10).launchFlight
      { f with addr := 0x2000000000001000, scope := 0, own := true }).passed = true
    ∧ mayIssue { rd := [5, 7] } s = true ∧ s.atomicCheck far 4 true = none ∧ s.me.optimistic = false ∧ s.me.cnt.val (storeCtr far) < ctrMax (storeCtr far)
    ∧ isNext (exec (.red 5 7 .add false .rlx .slot) s) (((s.addCount 0 (storeCtr far)).launchFlight
      { f with n := 4, op := .amo 0 0xFFFF000000000007, ret := .none, ctr := storeCtr far, scope := 0 }).holdRed s.ids 0xFFFF).passed = true
    ∧ mayIssue { rd := [5, 2] } o = true ∧ o.mayHold (.red far 0 8 7) = true
    ∧ isNext (exec (.red 5 2 .add true .rlx .slot) o) (o.held (.red far 0 8 7)).passed = true := by decide +kernel

/-- StoresWriteOrLeave: the write that ends a WAITADDR, and the write of a store before a copy that its slot submitted later. -/
theorem test_met_StoresWriteOrLeave_wakes :
    let w : Slot := { slotAt 0x20 with st := .blocked (.wordNe 0x1000 0) }
    let op : PendOp := .store 0x1000 (wholeBytes 8 5)
    let s := due0 (base.setSlot 9 w) op 0
    let k : Copy := { id := 3, idx := 0, slot := 0, w0 := 0x2000, w1 := 0x1000, w2 := 32, w3 := 0, rowLen := 32, ny := 1, nz := 1
                      ssy := 0, ssz := 0, dsy := 0, dsz := 0, y0 := 0, z0 := 0 }
    let c : State := { (core0 (due0 base op 0) fun q => { q with fifo := [k] }) with ids := 4 }
    base.allPerformed = true ∧ (s.core 0).vq = [] ∧ (s.core 0).pend = [{ due := 0, slot := 0, op := op }]
    ∧ (∀ j < 8, (core0 s fun q => { q with pend := [] }).ownedFor [0] 0 (0x1000 + j) 1 = false)
    ∧ (s.performDue 0).slot 9 = w.endWait 5 ∧ (s.performDue 0).slot 0 = s.slot 0
    ∧ c.owned 0x1000 8 = true ∧ (∀ j < 8, (core0 c fun q => { q with pend := [] }).ownedFor [0] 0 (0x1000 + j) 1 = false)
    ∧ ((c.performDue 0).rd 0x1000 8) = 5 := by decide +kernel

/-- CachesFencesAndWaits: a WAITADDR that a write has ended, and the tests of a blocked slot by a write and by a WAKE. -/
theorem test_met_CachesFencesAndWaits_words :
    let s := regs (base.wr 0x1000 8 5) [0x1000, 5]
    let d := slot0 s fun x => { x with op := .done 9 }
    let w (b : Word) : State := s.setSlot 9 { slotAt 0x20 with st := .blocked (.wordNe 0x1000 b) }
    d.me.op = .done 9 ∧ d.mayPut 9 = true ∧ isNext (exec (.waitaddr 9 1 2 0 0) d) (d.wrote [1, 2] 9 9 6) = true
    ∧ ((w 5).slot 9).st = .blocked (.wordNe 0x1000 5) ∧ (w 5).owned 0x1000 8 = false ∧ (w 5).wordFor 9 0x1000 = 5
    ∧ (w 5).retestSlot 9 = w 5 ∧ (w 6).retestSlot 9 = (w 6).updSlot 9 (fun z => z.endWait 5)
    ∧ (w 5).takeWake 9 = (w 5).updSlot 9 (fun z => z.endWait 5) := by decide +kernel

/-- ChannelHeads: CHINV that waits for a push of its quad, at the home of the entry, of a lost entry, and after a failed write-back. -/
theorem test_met_ChannelHeads_chinv :
    let pool (s : State) : State := s.updPart 1 fun p => { p with chbase := 0x20000000000000, s2 := [{ ipa := 0, size := 2 ^ 30, pa := 0 }] }
    let at_ (e : ChanEnt) : State := withChan (regs (pool base) [0]) e
    let p : PushMsg := { id := 3, pid := 1, ch := 0, seq := 0, data := leBytes 8 7, src := 0, home := 1, reader := 32 }
    let un : State := { at_ (chan 0 32) with pushes := [p] }
    let ended := slot0 (at_ (chan 0 32)) fun x => { x with op := .denied }
    (at_ (chan 32 0)).me.answered = false ∧ mayIssue { rd := [1] } (at_ (chan 32 0)) = true
    ∧ un.unacked 0 1 0 = true ∧ isNext (exec (.chinv 1 0) un) (un.blockMe (.chAcks 0)) = true
    ∧ (at_ (chan 32 0)).isHome 0 (chan 32 0) = true ∧ (at_ (chan 32 0)).unacked 0 1 0 = false ∧ (at_ (chan 32 0)).chanWaits 0 (chan 32 0) = false
    ∧ ((at_ (chan 32 0)).evictChan 0 (chan 32 0)).toOption.isSome = true
    ∧ nextIs (exec (.chinv 1 0) (at_ (chan 32 0))) (fun t => (t.quad 0).chans = [] && t.me.pc = 0x1004) = true
    ∧ ({ chan 32 0 with lost := true } : ChanEnt).lost = true
    ∧ isNext (exec (.chinv 1 0) (at_ { chan 32 0 with lost := true }))
      ((at_ { chan 32 0 with lost := true }).dropChan 0 { chan 32 0 with lost := true }).passed = true
    ∧ ended.me.answered = true ∧ isNext (exec (.chinv 1 0) ended) ended.passed = true := by decide +kernel

/-- YokeHeads: SBTAKE behind a gang that has not joined. -/
theorem test_met_YokeHeads_staged :
    let s := regs base [3]
    let b := core0 s fun c => { c with slice := { scales := [scaleBlock 3], ops := [.gang 1 0 false 0x1000 0] } }
    mayIssue { rd := [1], wr := [20] } b = true ∧ (SliceOp.gang 1 0 false 0x1000 0).unjoined = true ∧ (b.core 0).slice.staged = none
    ∧ isNext (exec (.sbtake 20 1) b)
      (((b.updSlice 0 fun l => { l with scales := [] }).enterOp (.stage (some (scaleBlock 3)))).writeReg 0 20 0 3).passed = true := by decide +kernel

/-- MessageHeads, MessageEvents: MWAIT that blocks, the message that ends its wait, its completion; the notice for a core that is swapped out. -/
theorem test_met_MessageEvents_waits :
    let done := slot0 base fun x => { x with op := .done 0 }
    let m : Msg := { id := 3, data := leBytes 8 1, src := some 0, dst := 5, pid := 1, counted := true }
    let w := ({ base with msgs := [m] } : State).setSlot 47 { slotAt 0x20 with st := .blocked .mwait }
    let note := { m with pid := 2, notice := true }
    let old : Saved := { pid := 2, cores := [{}, { senders := [(note.sender, 7)] }, {}, {}], ltab := [], slots := [] }
    let out : State := { base.updQuad 1 (fun q => { q with ctxs := [{ pid := 1, p := 1 }, { pid := 2, p := 1 }], shadow := [old] }) with
      parts := [(1, part1), (2, { part1 with vf := 2 })], msgs := [note] }
    base.me.op = .none ∧ base.me.wake = false ∧ base.myCore.rxq = [] ∧ isNext (exec .mwait base) (base.blockMe .mwait) = true
    ∧ done.me.op = .done 0 ∧ isNext (exec .mwait done) done.passed = true
    ∧ w.msgReleased m = true ∧ (w.slot 47).st = .blocked .mwait
    ∧ nextIs (exec (.messageAccept 3) w) (fun t => (t.slot 47).st = .ready && (t.slot 47).op = .done 0) = true
    ∧ out.runs 2 40 = false ∧ nextIs (exec (.freeNoticeArrival 3) out) (fun t => (t.coreIn 2 5).senders = [] && t.core 5 = out.core 5 && t.msgs = []) = true := by
  decide +kernel

/-- MeshEvents: a map that is adopted while the clock of a quad's region is stopped. -/
theorem test_met_MeshEvents_frozen :
    let s : State := ({ base with changes := [{ time := 0, op := .contain 9 8 none }] }).updRegion 0 fun r => { r with frozen := true }
    s.clockStopped 0 = true ∧ s.changeWaits { time := 0, op := .contain 9 8 none } = false ∧ FMap.wf {} s.slots = true
    ∧ nextIs (exec (.mapSwitch 0) s) (fun t => t.slot 0 = s.slot 0) = true := by decide +kernel

/-- EdgeEvents: a reduction to an HBM home that goes on to the next router of its tree. -/
theorem test_met_EdgeEvents_reduction :
    let f : Flight := { id := 3, thr := 0, pid := 1, addr := 0x2000000000003000, n := 4, op := .amo 0 0x1000000000007, ctr := 3, stage := .home (hbmKey 0xFFFFFFFF00) }
    let h : RedHold := { id := 4, router := 0, flights := [3] }
    let s : State := { base with flights := [f], redHolds := [h], ids := 5 }
    s.redNext h = some 1 ∧ isNext (exec (.reductionHoldExpiry 4) s) (({ s with redHolds := [] } : State).redJoin 1 3) = true := by decide +kernel

/-- HostAndTenancy: the debugger writes the work identifier of a slot that is not free. -/
theorem test_met_HostAndTenancy_wid :
    let h := quad0 base fun q => { q with halted := true }
    (h.slot 0).st ≠ .free
    ∧ nextIs (exec (.debugSlotStart 0 (some 0x1002) [] [(60, 5)]) h) (fun t => (t.slot 0).task.wid = 5 && (t.slot 0).st = .ready) = true := by
  decide +kernel

/-- RecoveryAndPower: an error in a quad that forwards only, and a swap that rips an optimistic task. -/
theorem test_met_RecoveryAndPower_states :
    let dead := quad0 base fun q => { q with st := .routerOnly }
    let two := quad0 opti fun q => { q with ctxs := [{ pid := 1, p := 0 }, { pid := 2, p := 0 }], halted := true }
    (dead.quad 0).contained = false
    ∧ nextIs (exec (.uncorrectableEccError 0 3) dead) (fun t => (t.quad 0).contained && (t.quad 0).st = .routerOnly) = true
    ∧ (two.slot 0).optimistic = true ∧ (two.quad 0).contained = false
    ∧ nextIs (exec (.contextSwap 0) two) (fun t => (t.slot 0).st = .free && (t.quad 0).swapping) = true := by decide +kernel

/-- SlotEvents: a line that is on its way already; the oldest waiting cause; a WAKE of a slot in MWAIT and of one in WAITADDR. -/
theorem test_met_SlotEvents_waits :
    let hbm := slot0 base fun x => { x with pc := 0x2000000000001002 }
    let f : Flight := { id := 3, thr := 0, pid := 1, addr := lineBase 0x2000000000001002, n := 64, op := .fetch }
    let coming : State := { hbm with flights := [f] }
    let late := slot0 base fun x => { x with sr := { x.sr with status := 0x20 }, st := .blocked .drained, async := [{ code := 0x07, info := 9 }] }
    let w (st : SlotSt) : State := slot0 { base.wr 0x1000 8 5 with wakes := [0] } fun x => { x with st := st }
    coming.fetchCheck 0 = none ∧ coming.fetchLine 0 = none ∧ coming.fetching 0 = true
    ∧ isNext (exec (.lineFetch 0) coming) (slot0 coming fun x => { x with st := .blocked .fetch }) = true
    ∧ (late.slot 0).exl = false ∧ late.stopped 0 = false ∧ (late.slot 0).op = .none
    ∧ nextIs (exec (.asyncTrapEntry 0) late) (fun t => (t.slot 0).async = [] && (t.slot 0).st = .ready && (t.slot 0).pc = 0x2002 && (t.slot 0).exl
      && (t.slot 0).sr.epc = 0x1002 && (t.slot 0).sr.ecause = 7 && (t.slot 0).sr.einfo = 9) = true
    ∧ isNext (exec (.wakeArrival 0) (w (.blocked .mwait))) (slot0 { w (.blocked .mwait) with wakes := [] } fun y => y.endWait 0) = true
    ∧ (w (.blocked (.wordNe 0x1000 5))).owned 0x1000 8 = false
    ∧ isNext (exec (.wakeArrival 0) (w (.blocked (.wordNe 0x1000 5)))) (slot0 { w (.blocked (.wordNe 0x1000 5)) with wakes := [] } fun y => y.endWait 5) = true := by
  decide +kernel

/-- RemoteAccessesArrive: a comparison at its word that stands, and a basted slot's atomic, which is logged. -/
theorem test_met_RemoteAccessesArrive_cas :
    let k := scratchKey 1 0x1000
    let f : Flight := { id := 3, thr := 0, pid := 1, addr := 0x1000100000001000, n := 8, op := .cas 5 9, ret := .scalar 9 false, ctr := 0, stage := .atNI 1 }
    let s (g : Flight) : State := { base.wr k 8 5 with flights := [g] }
    let b : Flight := { f with seq := some 4 }
    (s f).flight 3 = some f ∧ (s f).flightOwned f k = false ∧ f.rsn = 0 ∧ ((s f).slot 0).task.logged none = none ∧ ((s b).slot 0).task.logged (some 4) = none
    ∧ isNext (exec (.niAtomic 3) (s f)) ((((s f).wr k 8 9).setStage 3 (.resp 5)).respond 3 1) = true
    ∧ isNext (exec (.niAtomic 3) (s b)) (((((s b).wr k 8 9).logAtomic 0 k (some 4) 5).setStage 3 (.resp 5)).respond 3 1) = true := by decide +kernel

/-- StepRunsDecodedInstruction: the core of the quad that is behind the others has the next cycle. -/
theorem test_met_StepRunsDecodedInstruction_step :
    let s := ((base.wr 0x1000 64 (oneHeadLine 0x30C3 7)).setSlot 8 (slotAt 0x21)).updCore 0 fun c => { c with cycle := 1 }
    s.inStep 0 = 1 ∧ s.eligible 8 = true ∧ nextIs (step s) (fun t => t.tReg 8 3 = 7 && (t.core 1).cycle = 1 && (t.core 0).cycle = 1) = true := by decide +kernel

/-- The example of FIPS-197, C.3: AES-256 of 00112233…ff under 000102…1f. -/
theorem test_aes256 :
    aesEncrypt (List.range 32) ((List.range 16).map fun i => 17 * i)
      = [0x8e, 0xa2, 0xb7, 0xca, 0x51, 0x67, 0x45, 0xbf, 0xea, 0xfc, 0x49, 0x90, 0x4b, 0x49, 0x60, 0x89] := by decide +kernel

/-! ## The next step after reset -/

/-- The words of rows of each family run as the first instruction after reset (R81, R82). -/
theorem test_withFetchWord :
    nextIs (step (State.reset.withFetchWord 64 (0x30C3 * 2 ^ 48 + 9))) (fun t => t.tReg t.cur 3 = 9) = true
    ∧ nextIs (step (State.reset.withFetchWord 32 (0x0143 * 2 ^ 16 + 0x0C50))) (fun t => (t.slot t.cur).pc = 0x1042) = true
    ∧ nextIs (step (State.reset.withFetchWord 16 0x4801)) (fun t => (t.slot t.cur).sr.ecause = 0x15 && (t.slot t.cur).sr.einfo = 1) = true
    ∧ nextIs (step (State.reset.withFetchWord 16 0x6201)) (fun t => (t.slot t.cur).pc = 0x1042) = true
    ∧ decodeTableWord 64 (0x30C3 * 2 ^ 48 + 9) = some (.li 3 9) ∧ decodeTableWord 16 0x0001 = none := by decide +kernel

end Sys2Proof.Tests
end

section
/-! SUPPORT. Branches: the target as R43 gives it, the conditions of R102 as orders on the operands, and what a branch that may issue
answers. -/

namespace Sys2Proof.Machine

/-! ## The target (R43) -/

/-- The line of a PC starts at the multiple of 64 below it (R43). -/
theorem lineBase_eq_word (pc : Word) : lineBase pc = word (pc.toNat / 64 * 64) := by
  refine BitVec.eq_of_getLsbD_eq fun i hi => ?_
  have hmask : (63#64).getLsbD i = decide (i < 6) := by
    rw [BitVec.getLsbD_ofNat, decide_eq_true hi, Bool.true_and]
    exact Nat.testBit_two_pow_sub_one 6 i
  have hline : (pc.toNat / 64 * 64).testBit i = (pc.getLsbD i && !decide (i < 6)) := by
    change (pc.toNat / 2 ^ 6 * 2 ^ 6).testBit i = _
    rw [Nat.testBit_mul_two_pow, Nat.testBit_div_two_pow]
    by_cases h : i < 6
    · simp [h]
    · simp [h, not_lt.mp h, BitVec.getLsbD]
  rw [lineBase, BitVec.getLsbD_and, BitVec.getLsbD_not, hmask, BitVec.getLsbD_ofNat, hline]
  simp [hi]

/-- A taken branch goes to line offset and head index from its own line (R43). -/
theorem State.target_eq {n : Nat} (s : State) (off : BitVec n) (idx : BitVec 5) :
    s.target off idx = word (s.me.pc.toNat / 64 * 64) + off.signExtend 64 * 64#64 + word (2 * idx.toNat) := by
  have hoff : sext off <<< 6 = off.signExtend 64 * 64#64 := BitVec.shiftLeft_eq_mul_twoPow _ _
  have hidx : zext idx <<< 1 = word (2 * idx.toNat) := by
    apply BitVec.eq_of_toNat_eq
    simp [zext, Nat.shiftLeft_eq, Nat.mul_comm]
  rw [State.target, branchTarget, lineBase_eq_word, hoff, hidx]

/-! ## The conditions (R102) -/

theorem condNe_eq_decide (a b : Word) : condNe a b = decide (a ≠ b) := decide_not.symm
theorem condNonzero_eq_decide (a : Word) : condNonzero a = decide (a ≠ 0) := decide_not.symm
theorem condLt_eq_decide (a b : Word) : condLt a b = decide (a.toInt < b.toInt) := BitVec.slt_eq_decide
theorem condLtu_eq_decide (a b : Word) : condLtu a b = decide (a.toNat < b.toNat) := rfl
theorem condGe_eq_decide (a b : Word) : condGe a b = decide (b.toInt ≤ a.toInt) := by
  rw [condGe, BitVec.slt_eq_decide, ← decide_not]
  exact decide_eq_decide.mpr not_lt
theorem condGeu_eq_decide (a b : Word) : condGeu a b = decide (b.toNat ≤ a.toNat) := by
  rw [condGeu, BitVec.ult_eq_decide, ← decide_not]
  exact decide_eq_decide.mpr not_lt

/-! ## The head -/

/-- A branch that may issue is traced and goes to its target, or passes (R102). -/
theorem branch_of_mayIssue {rs : List Reg} {s : State} (h : mayIssue { rd := rs } s = true) (cond : (Reg → Word) → Bool)
    (target : Word) :
    branch rs cond target s = .next (if cond s.operand then ((s.popPorts rs).traced target false).went target
      else (s.popPorts rs).passed) := by
  rw [branch, runHead_of_mayIssue h]
  cases cond s.operand <;> rfl

/-- A branch instruction is answered as R102 says once its meaning is `branch` over the registers, the condition and the target
that its row gives. -/
theorem exec_of_branch {i : Instr} {rs : List Reg} {cond : (Reg → Word) → Bool} {taken : Bool} {target goal : Word} {s : State}
    (hexec : exec i s = branch rs cond target s) (hcond : cond s.operand = taken) (htarget : target = goal)
    (hissue : mayIssue { rd := rs } s = true) :
    exec i s = .next (if taken then ((s.popPorts rs).traced goal false).went goal else (s.popPorts rs).passed) := by
  rw [hexec, branch_of_mayIssue hissue, hcond, htarget]

end Sys2Proof.Machine

open Sys2Proof Sys2Proof.Machine

/-- Settles O4: every row is `branch` over its registers; the target is R43's and the condition the order that R102 names. -/
theorem branchesGoToTheirTargets : Obligations.BranchesGoToTheirTargets := by
  unfold Obligations.BranchesGoToTheirTargets
  intro s a b off far idx x y near long
  have hnear : s.target off idx = near := s.target_eq off idx
  have hlong : s.target far idx = long := s.target_eq far idx
  simp only [List.forall_mem_cons, List.not_mem_nil, false_implies, implies_true, and_true]
  refine ⟨?br, ?brLong, ?beq, ?bne, ?blt, ?bge, ?bltu, ?bgeu, ?bz, ?bzLong, ?bnz, ?bnzLong⟩
  case br => exact exec_of_branch (cond := fun _ => true) rfl rfl hnear
  case brLong => exact exec_of_branch (cond := fun _ => true) rfl rfl hlong
  case beq => exact exec_of_branch rfl rfl hnear
  case bne => exact exec_of_branch rfl (condNe_eq_decide x y) hnear
  case blt => exact exec_of_branch rfl (condLt_eq_decide x y) hnear
  case bge => exact exec_of_branch rfl (condGe_eq_decide x y) hnear
  case bltu => exact exec_of_branch rfl (condLtu_eq_decide x y) hnear
  case bgeu => exact exec_of_branch rfl (condGeu_eq_decide x y) hnear
  case bz => exact exec_of_branch rfl rfl hnear
  case bzLong => exact exec_of_branch rfl rfl hlong
  case bnz => exact exec_of_branch rfl (condNonzero_eq_decide x) hnear
  case bnzLong => exact exec_of_branch rfl (condNonzero_eq_decide x) hlong
end

section
/-! SUPPORT. Conversions through a wider format (R128, R129): the fields of a code, exact values rounded to themselves, NaNs made quiet,
and a conversion to a wider format and back as the conversion of a format to itself. -/

namespace Sys2Proof.Machine

/-! ## The fields of a code (R123) -/

/-- The exponent field of a code. -/
def Fmt.expField (f : Fmt) (c : Nat) : Nat := c / 2 ^ f.fb % 2 ^ f.eb
/-- The fraction field of a code. -/
def Fmt.fracField (f : Fmt) (c : Nat) : Nat := c % 2 ^ f.fb
/-- The code with a sign, an exponent field and a fraction field. -/
def Fmt.ofFields (f : Fmt) (neg : Bool) (E M : Nat) : Nat := f.withSign neg (E * 2 ^ f.fb + M)

section
variable {f : Fmt} {neg : Bool} {E M c : Nat}

theorem Fmt.fracField_lt : f.fracField c < 2 ^ f.fb := Nat.mod_lt _ (Nat.two_pow_pos _)
theorem Fmt.expField_lt : f.expField c < 2 ^ f.eb := Nat.mod_lt _ (Nat.two_pow_pos _)

theorem Fmt.ofFields_add (f : Fmt) (neg : Bool) (E M x : Nat) : f.ofFields neg E (M + x) = f.ofFields neg E M + x := by
  rw [ofFields, ofFields, withSign, withSign]; omega

/-- A code above and in its fraction field. -/
theorem Fmt.ofFields_eq (f : Fmt) (neg : Bool) (E M : Nat) : f.ofFields neg E M = M + 2 ^ f.fb * (E + bit neg * 2 ^ f.eb) := by
  rw [ofFields, withSign, pow_add]; ring

/-- What the fraction field leaves of a code. -/
theorem Fmt.ofFields_div (hM : M < 2 ^ f.fb) : f.ofFields neg E M / 2 ^ f.fb = E + bit neg * 2 ^ f.eb := by
  rw [ofFields_eq, Nat.add_mul_div_left _ _ (Nat.two_pow_pos _), Nat.div_eq_of_lt hM, Nat.zero_add]

theorem Fmt.fracField_ofFields (hM : M < 2 ^ f.fb) : f.fracField (f.ofFields neg E M) = M := by
  rw [fracField, ofFields_eq, Nat.add_mul_mod_self_left, Nat.mod_eq_of_lt hM]

theorem Fmt.expField_ofFields (hE : E < 2 ^ f.eb) (hM : M < 2 ^ f.fb) : f.expField (f.ofFields neg E M) = E := by
  rw [expField, ofFields_div hM, Nat.add_mul_mod_self_right, Nat.mod_eq_of_lt hE]

theorem Fmt.sign_ofFields (hE : E < 2 ^ f.eb) (hM : M < 2 ^ f.fb) : f.sign (f.ofFields neg E M) = neg := by
  rw [sign, Nat.add_comm f.eb, pow_add, ← Nat.div_div_eq_div_mul, ofFields_div hM,
    Nat.add_mul_div_right _ _ (Nat.two_pow_pos _), Nat.div_eq_of_lt hE]
  cases neg <;> rfl

/-- The part of a code under its sign. -/
theorem Fmt.mod_eq_fields (f : Fmt) (c : Nat) : c % 2 ^ (f.eb + f.fb) = f.expField c * 2 ^ f.fb + f.fracField c := by
  rw [Nat.add_comm f.eb, pow_add, Nat.mod_mul, expField, fracField]; ring

/-- A code is put together from its fields. -/
theorem Fmt.ofFields_fields (hc : c < 2 ^ (1 + f.eb + f.fb)) : f.ofFields (f.sign c) (f.expField c) (f.fracField c) = c := by
  have hdiv : c / 2 ^ (f.eb + f.fb) < 2 := by
    rw [Nat.div_lt_iff_lt_mul (Nat.two_pow_pos _), ← pow_succ']
    rwa [Nat.add_assoc, Nat.add_comm 1] at hc
  have hbit : bit (f.sign c) = c / 2 ^ (f.eb + f.fb) := by
    rw [sign]
    generalize c / 2 ^ (f.eb + f.fb) = q at hdiv
    obtain rfl | rfl : q = 0 ∨ q = 1 := by omega
    · rfl
    · rfl
  rw [ofFields, withSign, ← mod_eq_fields, hbit, Nat.mul_comm]
  exact Nat.mod_add_div c _

/-- The value of a code by its fields (R124). -/
theorem Fmt.decode_eq (f : Fmt) (c : Nat) :
    f.decode c =
      if f.noInf && decide (f.expField c = 15 ∧ f.fracField c = 7) then .nan (f.sign c) (2 ^ 51)
      else if !f.noInf && decide (f.expField c = 2 ^ f.eb - 1) then
        if f.fracField c = 0 then .inf (f.sign c)
        else .nan (f.sign c) (if f = e5m2 then 2 ^ 51 + f.fracField c * 2 ^ 49 else f.fracField c * 2 ^ (52 - f.fb))
      else if f.expField c = 0 then .fin (f.sign c) (f.fracField c) (1 - (f.bias : Int) - f.fb)
      else .fin (f.sign c) (2 ^ f.fb + f.fracField c) ((f.expField c : Int) - f.bias - f.fb) := rfl

/-! ## Finite codes (R124) -/

/-- The integer significand of a finite code. -/
def Fmt.mant (f : Fmt) (E M : Nat) : Nat := if E = 0 then M else 2 ^ f.fb + M
/-- The exponent of the last place of a finite code; subnormal codes share that of the smallest normal ones. -/
def Fmt.expo (f : Fmt) (E : Nat) : Int := (max E 1 : Nat) - (f.bias : Int) - f.fb
/-- The fields are those of a finite code. -/
structure Fmt.Finite (f : Fmt) (E M : Nat) : Prop where
  frac_lt : M < 2 ^ f.fb
  le_maxCode : E * 2 ^ f.fb + M ≤ f.maxCode

/-- With infinities, the finite codes are those under the top exponent. -/
theorem Fmt.finite_iff (hinf : f.noInf = false) (heb : 0 < f.eb) (hM : M < 2 ^ f.fb) : f.Finite E M ↔ E + 1 < 2 ^ f.eb := by
  have htwo : 2 ≤ 2 ^ f.eb := Nat.le_self_pow heb.ne' 2
  have hmax : f.maxCode = (2 ^ f.eb - 1) * 2 ^ f.fb - 1 := by simp [maxCode, hinf]
  have hpos : 0 < (2 ^ f.eb - 1) * 2 ^ f.fb := Nat.mul_pos (by omega) (Nat.two_pow_pos _)
  constructor
  · intro h
    have hle := h.le_maxCode
    have : E * 2 ^ f.fb < (2 ^ f.eb - 1) * 2 ^ f.fb := by omega
    have := Nat.lt_of_mul_lt_mul_right this
    omega
  · intro h
    have : (E + 1) * 2 ^ f.fb ≤ (2 ^ f.eb - 1) * 2 ^ f.fb := Nat.mul_le_mul_right _ (by omega)
    rw [Nat.succ_mul] at this
    exact ⟨hM, by omega⟩

/-- The value of a finite code (R124). -/
theorem Fmt.decode_of_finite (heb : 0 < f.eb) (h : f.Finite (f.expField c) (f.fracField c)) :
    f.decode c = .fin (f.sign c) (f.mant (f.expField c) (f.fracField c)) (f.expo (f.expField c)) := by
  have htop : (f.noInf && decide (f.expField c = 15 ∧ f.fracField c = 7)) = false
      ∧ (!f.noInf && decide (f.expField c = 2 ^ f.eb - 1)) = false := by
    cases hinf : f.noInf
    · have := (finite_iff hinf heb h.frac_lt).mp h
      have hE : f.expField c ≠ 2 ^ f.eb - 1 := by omega
      simp [hE]
    · obtain rfl : f = e4m3 := of_decide_eq_true hinf
      have hle : e4m3.expField c * 8 + e4m3.fracField c ≤ 0x7E := h.le_maxCode
      simpa using fun _ => by omega
  rw [decode_eq]
  simp only [htop, Bool.false_eq_true, if_false]
  unfold mant expo
  split
  · next hE => simp [hE]
  · next hE => rw [Nat.max_eq_left (by omega)]

/-- With infinities, the codes that are not finite have the top exponent. -/
theorem Fmt.expField_of_not_finite (hinf : f.noInf = false) (heb : 0 < f.eb) (h : ¬ f.Finite (f.expField c) (f.fracField c)) :
    f.expField c = 2 ^ f.eb - 1 := by
  have := f.expField_lt (c := c)
  rw [finite_iff hinf heb fracField_lt] at h
  omega

/-- E4M3's codes that are not finite have every bit of both fields set. -/
theorem e4m3_not_finite (h : ¬ e4m3.Finite (e4m3.expField c) (e4m3.fracField c)) : e4m3.expField c = 15 ∧ e4m3.fracField c = 7 := by
  have hE : e4m3.expField c < 16 := Fmt.expField_lt
  have hM : e4m3.fracField c < 8 := Fmt.fracField_lt
  have : ¬ e4m3.expField c * 8 + e4m3.fracField c ≤ 0x7E := fun hle => h ⟨hM, hle⟩
  omega

/-- A format's codes hold finite values, infinities and NaNs (R124). -/
theorem Fmt.decode_cases (f : Fmt) (heb : 0 < f.eb) (c : Nat) :
    f.Finite (f.expField c) (f.fracField c)
    ∨ f.decode c = .inf (f.sign c)
    ∨ ∃ fr, f.decode c = .nan (f.sign c) fr := by
  by_cases hfin : f.Finite (f.expField c) (f.fracField c)
  · exact .inl hfin
  refine .inr ?_
  rw [decode_eq]
  cases hinf : f.noInf
  · have hE := expField_of_not_finite hinf heb hfin
    by_cases hM : f.fracField c = 0 <;> simp [hE, hM]
  · obtain rfl : f = e4m3 := of_decide_eq_true hinf
    simp [e4m3_not_finite hfin]

/-! ## Exact values -/

/-- Two finite values are one: `m × 2^e = m' × 2^e'`. -/
def SameValue (m : Nat) (e : Int) (m' : Nat) (e' : Int) : Prop := m * 2 ^ (e - e').toNat = m' * 2 ^ (e' - e).toNat

theorem SameValue.symm {m m' : Nat} {e e' : Int} (h : SameValue m e m' e') : SameValue m' e' m e := Eq.symm h
theorem SameValue.refl (m : Nat) (e : Int) : SameValue m e m e := rfl

theorem SameValue.eq_zero_iff {m m' : Nat} {e e' : Int} (h : SameValue m e m' e') : m = 0 ↔ m' = 0 := by
  have hzero := congrArg (· = 0) (show m * 2 ^ (e - e').toNat = m' * 2 ^ (e' - e).toNat from h)
  simpa using hzero

/-- A factor of a power of two moves the leading one. -/
theorem log2_mul_two_pow {m : Nat} (hm : m ≠ 0) (k : Nat) : (m * 2 ^ k).log2 = m.log2 + k := by
  rw [Nat.log2_eq_iff (by positivity)]
  have hk := Nat.two_pow_pos k
  constructor
  · rw [pow_add]; exact Nat.mul_le_mul_right _ (Nat.log2_self_le hm)
  · rw [Nat.add_right_comm, pow_add]; exact Nat.mul_lt_mul_of_pos_right Nat.lt_log2_self hk

/-- One value has one leading place. -/
theorem SameValue.top_eq {m m' : Nat} {e e' : Int} (h : SameValue m e m' e') (hm : m ≠ 0) :
    (m.log2 : Int) + e = (m'.log2 : Int) + e' := by
  have hlog := congrArg Nat.log2 h
  rw [log2_mul_two_pow hm, log2_mul_two_pow (mt h.eq_zero_iff.mpr hm)] at hlog
  omega

/-- The leading place of a subnormal significand lies in the fraction, that of a normal one is its hidden bit. -/
theorem Fmt.log2_mant (hM : M < 2 ^ f.fb) (hm : f.mant E M ≠ 0) :
    if E = 0 then (f.mant E M).log2 < f.fb else (f.mant E M).log2 = f.fb := by
  unfold mant at hm ⊢
  split
  · next hE =>
    rw [if_pos hE] at hm
    exact (Nat.log2_lt hm).mpr hM
  · next hE =>
    rw [if_neg hE] at hm
    exact (Nat.log2_eq_iff hm).mpr ⟨by omega, by rw [pow_succ]; omega⟩

/-- The place to which R126 rounds a finite code's value is the code's own last place. -/
theorem Fmt.expo_eq_of_top (hM : M < 2 ^ f.fb) (hm : f.mant E M ≠ 0) :
    let top : Int := (f.mant E M).log2 + f.expo E
    (if top < 1 - f.bias then 1 - (f.bias : Int) else top) - f.fb = f.expo E := by
  intro top
  have hlog := f.log2_mant hM hm
  unfold top expo
  split at hlog <;> split <;> omega

/-- No mode moves a value that leaves no remainder. -/
theorem roundsUp_zero (r : Rnd) (draw : Nat) (neg : Bool) (t s : Nat) : roundsUp r draw neg t 0 s = false := by
  cases r <;> simp [roundsUp, (Nat.two_pow_pos s).ne]

/-- An exact value rounds to its own code in every mode (R126). -/
theorem Fmt.roundFin_of_sameValue {m : Nat} {e : Int} (h : f.Finite E M) (hv : SameValue m e (f.mant E M) (f.expo E))
    (r : Rnd) (draw : Nat) : f.roundFin r draw neg m e = f.ofFields neg E M := by
  unfold roundFin
  split
  · next hm =>
    have hmant : f.mant E M = 0 := hv.eq_zero_iff.mp hm
    have : 0 < 2 ^ f.fb := Nat.two_pow_pos _
    obtain ⟨rfl, rfl⟩ : E = 0 ∧ M = 0 := by unfold mant at hmant; split at hmant <;> omega
    simp [ofFields]
  · next hm =>
    have hu := f.expo_eq_of_top h.frac_lt (mt hv.eq_zero_iff.mpr hm)
    simp only [← hv.top_eq hm] at hu
    have hcode : (f.expo E + f.fb + f.bias - 1).toNat * 2 ^ f.fb + f.mant E M = E * 2 ^ f.fb + M := by
      have hbase : (f.expo E + f.fb + f.bias - 1).toNat = E - 1 := by unfold expo; omega
      rw [hbase]
      unfold mant
      cases E with
      | zero => simp
      | succ n => simp only [Nat.add_sub_cancel, Nat.succ_ne_zero, if_false]; ring
    have hbig : m * 2 ^ (e - f.expo E).toNat = f.mant E M * 2 ^ (f.expo E - e).toNat := hv
    simp only [hu, hbig, Nat.mul_div_cancel _ (Nat.two_pow_pos _), Nat.mul_mod_left, roundsUp_zero, hcode, bit, Bool.false_eq_true, if_false,
      Nat.add_zero, Nat.not_lt.mpr h.le_maxCode, ne_eq, not_true_eq_false, false_and, and_false, or_self, ofFields]

/-- A value is finite in a format whose last place and top reach it. -/
theorem Fmt.exists_finite (hinf : f.noInf = false) (heb : 0 < f.eb) {m : Nat} {e : Int} (hm : m ≠ 0) (hprec : m.log2 ≤ f.fb)
    (hlow : 1 - (f.bias : Int) - f.fb ≤ e) (htop : (m.log2 : Int) + e + f.bias + 1 < (2 ^ f.eb : Nat)) :
    ∃ E M, f.Finite E M ∧ SameValue m e (f.mant E M) (f.expo E) := by
  by_cases hsub : (m.log2 : Int) + e < 1 - f.bias
  · have hexpo : f.expo 0 = 1 - (f.bias : Int) - f.fb := rfl
    have hM : m * 2 ^ (e - f.expo 0).toNat < 2 ^ f.fb := by
      rw [← Nat.log2_lt (by positivity), log2_mul_two_pow hm]
      omega
    refine ⟨0, m * 2 ^ (e - f.expo 0).toNat, (finite_iff hinf heb hM).mpr ?_, ?_⟩
    · exact Nat.one_lt_two_pow heb.ne'
    · have hs : (f.expo 0 - e).toNat = 0 := by omega
      rw [SameValue, hs, pow_zero, mul_one]
      rfl
  · obtain ⟨E, hE⟩ : ∃ E : Nat, (E : Int) = m.log2 + e + f.bias := ⟨_, Int.toNat_of_nonneg (by omega)⟩
    have hexpo : f.expo E = m.log2 + e - f.fb := by unfold expo; omega
    have hlog : (m * 2 ^ (f.fb - m.log2)).log2 = f.fb := by rw [log2_mul_two_pow hm]; omega
    obtain ⟨hge, hlt⟩ := (Nat.log2_eq_iff (by positivity)).mp hlog
    have hM : m * 2 ^ (f.fb - m.log2) - 2 ^ f.fb < 2 ^ f.fb := by rw [pow_succ] at hlt; omega
    refine ⟨E, m * 2 ^ (f.fb - m.log2) - 2 ^ f.fb, (finite_iff hinf heb hM).mpr (by omega), ?_⟩
    have hmant : f.mant E (m * 2 ^ (f.fb - m.log2) - 2 ^ f.fb) = m * 2 ^ (f.fb - m.log2) := by
      rw [mant, if_neg (by omega)]; omega
    have hs : (e - f.expo E).toNat = f.fb - m.log2 ∧ (f.expo E - e).toNat = 0 := by omega
    rw [SameValue, hmant, hs.1, hs.2, pow_zero, mul_one]

end

/-! ## Formats without E5M2's and E4M3's own rules -/

/-- The format has an infinity and keeps a NaN's fraction left-aligned (R123, R128): every format but E4M3 and E5M2. -/
structure Fmt.Plain (f : Fmt) : Prop where
  eb_pos : 0 < f.eb
  fb_pos : 0 < f.fb
  fb_le : f.fb ≤ 52
  ne_e4m3 : f ≠ e4m3
  ne_e5m2 : f ≠ e5m2

section
variable {f : Fmt} {neg : Bool} {c : Nat}

theorem Fmt.Plain.noInf (hf : f.Plain) : f.noInf = false := decide_eq_false hf.ne_e4m3

/-- A fraction with its quiet bit set. -/
def quietFrac (fr : Nat) : Nat := if fr / 2 ^ 51 % 2 = 1 then fr else fr + 2 ^ 51

/-- The fraction bits that a plain format keeps of a NaN, with its quiet bit set. -/
def Fmt.quiet (f : Fmt) (M : Nat) : Nat := if M / 2 ^ (f.fb - 1) % 2 = 1 then M else M + 2 ^ (f.fb - 1)

theorem Fmt.Plain.nanCode (hf : f.Plain) (fr : Nat) :
    f.nanCode neg fr = f.ofFields neg (2 ^ f.eb - 1) (f.quiet (fr / 2 ^ (52 - f.fb))) := by
  rw [Fmt.nanCode, if_neg hf.ne_e4m3, if_neg hf.ne_e5m2]
  rfl

theorem Fmt.Plain.quiet_lt {M : Nat} (hf : f.Plain) (hM : M < 2 ^ f.fb) : f.quiet M < 2 ^ f.fb := by
  have hfb : 2 ^ f.fb = 2 ^ (f.fb - 1) * 2 := by rw [← pow_succ, Nat.sub_add_cancel hf.fb_pos]
  unfold Fmt.quiet
  split
  · exact hM
  · next hq =>
    have hlt : M / 2 ^ (f.fb - 1) < 2 := by rw [Nat.div_lt_iff_lt_mul (Nat.two_pow_pos _)]; omega
    have hzero : M / 2 ^ (f.fb - 1) = 0 := by
      generalize M / 2 ^ (f.fb - 1) = q at hq hlt
      omega
    have := Nat.lt_of_div_eq_zero (Nat.two_pow_pos _) hzero
    omega

/-- A format keeps the upper fraction bits of a NaN, its quiet bit among them. -/
theorem Fmt.Plain.quietFrac_div (hf : f.Plain) (fr : Nat) :
    quietFrac fr / 2 ^ (52 - f.fb) = f.quiet (fr / 2 ^ (52 - f.fb)) := by
  have hpow : 2 ^ 51 = 2 ^ (52 - f.fb) * 2 ^ (f.fb - 1) := by
    have h1 := hf.fb_pos
    have h2 := hf.fb_le
    rw [← pow_add]; congr 1; omega
  rw [quietFrac, quiet, Nat.div_div_eq_div_mul, ← hpow]
  split
  · rfl
  · rw [hpow, Nat.add_mul_div_left _ _ (Nat.two_pow_pos _)]

/-- `quiet` leaves the quiet bit set. -/
theorem Fmt.quiet_div_mod (f : Fmt) (M : Nat) : f.quiet M / 2 ^ (f.fb - 1) % 2 = 1 := by
  unfold quiet
  split
  · assumption
  · next hq =>
    rw [Nat.add_div_right _ (Nat.two_pow_pos _)]
    generalize M / 2 ^ (f.fb - 1) = q at hq
    omega

theorem Fmt.quiet_quiet (f : Fmt) (M : Nat) : f.quiet (f.quiet M) = f.quiet M := if_pos (f.quiet_div_mod M)

theorem Fmt.quiet_ne_zero (f : Fmt) (M : Nat) : f.quiet M ≠ 0 := fun h => by simpa [h] using f.quiet_div_mod M

/-- The codes with the top exponent are the infinities and the NaNs (R124). -/
theorem Fmt.Plain.decode_of_top (hf : f.Plain) (hE : f.expField c = 2 ^ f.eb - 1) :
    f.decode c = if f.fracField c = 0 then .inf (f.sign c) else .nan (f.sign c) (f.fracField c * 2 ^ (52 - f.fb)) := by
  rw [decode_eq]
  simp only [hf.noInf, hE, Bool.false_and, Bool.false_eq_true, if_false, Bool.not_false,
    Bool.true_and, decide_true, if_true, if_neg hf.ne_e5m2]

/-- A NaN whose fraction fits in a plain format comes through it with its quiet bit set and nothing else changed (R128). -/
theorem Fmt.Plain.decode_nanCode (hf : f.Plain) {fr : Nat} (hlt : fr < 2 ^ 52) (hdvd : 2 ^ (52 - f.fb) ∣ fr) :
    f.decode (f.nanCode neg fr) = .nan neg (quietFrac fr) := by
  have hfb := hf.fb_le
  have hE : 2 ^ f.eb - 1 < 2 ^ f.eb := Nat.sub_lt (Nat.two_pow_pos _) Nat.one_pos
  have hM : f.quiet (fr / 2 ^ (52 - f.fb)) < 2 ^ f.fb := by
    refine hf.quiet_lt ?_
    rw [Nat.div_lt_iff_lt_mul (Nat.two_pow_pos _), ← pow_add, Nat.add_sub_cancel' hfb]
    exact hlt
  have hquiet : 2 ^ (52 - f.fb) ∣ quietFrac fr := by
    unfold quietFrac
    split
    · exact hdvd
    · have := hf.fb_pos
      exact Nat.dvd_add hdvd (Nat.pow_dvd_pow 2 (by omega))
  rw [hf.nanCode, hf.decode_of_top (expField_ofFields hE hM), fracField_ofFields hM, sign_ofFields hE hM, if_neg (f.quiet_ne_zero _),
    ← hf.quietFrac_div, Nat.div_mul_cancel hquiet]

/-- A value that is finite in a plain format comes through it exactly. -/
theorem Fmt.Plain.decode_encode_finite (hf : f.Plain) {E M m : Nat} {e : Int} (h : f.Finite E M)
    (hv : SameValue m e (f.mant E M) (f.expo E)) (r : Rnd) (draw : Nat) :
    f.decode (f.encode r draw (.fin neg m e)) = .fin neg (f.mant E M) (f.expo E) := by
  have hE : E < 2 ^ f.eb := Nat.lt_of_succ_lt ((finite_iff hf.noInf hf.eb_pos h.frac_lt).mp h)
  have hexp := expField_ofFields (neg := neg) hE h.frac_lt
  have hfrac := fracField_ofFields (E := E) (neg := neg) h.frac_lt
  rw [encode, roundFin_of_sameValue h hv, decode_of_finite hf.eb_pos (by rwa [hexp, hfrac]), hexp, hfrac, sign_ofFields hE h.frac_lt]

theorem Fmt.Plain.encode_inf (hf : f.Plain) (r : Rnd) (draw : Nat) : f.encode r draw (.inf neg) = f.ofFields neg (2 ^ f.eb - 1) 0 := by
  simp [encode, hf.noInf, infCode, ofFields]

/-- The infinities of a plain format are its own. -/
theorem Fmt.Plain.decode_encode_inf (hf : f.Plain) (r : Rnd) (draw : Nat) : f.decode (f.encode r draw (.inf neg)) = .inf neg := by
  have hE : 2 ^ f.eb - 1 < 2 ^ f.eb := Nat.sub_lt (Nat.two_pow_pos _) Nat.one_pos
  have hM := Nat.two_pow_pos f.fb
  rw [hf.encode_inf, hf.decode_of_top (expField_ofFields hE hM), fracField_ofFields hM, sign_ofFields hE hM, if_pos rfl]

/-! ## A wider format (R129) -/

/-- Every value of `f` is a value of the plain format `g`. -/
structure Fmt.Embeds (f g : Fmt) : Prop where
  eb_pos : 0 < f.eb
  plain : g.Plain
  src : f = e4m3 ∨ f = e5m2 ∨ f.Plain
  fb_lt : f.fb < g.fb
  bias_le : f.bias ≤ g.bias
  top_lt : f.maxCode / 2 ^ f.fb + g.bias + 1 < 2 ^ g.eb + f.bias

/-- The fraction of a NaN of `f` fits in a format with one more fraction bit. -/
theorem Fmt.decode_nan_frac (hfb : f.fb < 52) {fr : Nat} (h : f.decode c = .nan neg fr) : fr < 2 ^ 52 ∧ 2 ^ (51 - f.fb) ∣ fr := by
  have hlt := f.fracField_lt (c := c)
  rw [decode_eq] at h
  split at h
  · obtain ⟨-, rfl⟩ := FVal.nan.inj h
    exact ⟨by decide, Nat.pow_dvd_pow 2 (Nat.sub_le _ _)⟩
  split at h
  · split at h
    · cases h
    obtain ⟨-, rfl⟩ := FVal.nan.inj h
    split
    · next hf =>
      subst hf
      have hlt : e5m2.fracField c < 4 := hlt
      have hpow : 2 ^ (51 - e5m2.fb) = 2 ^ 49 := rfl
      rw [hpow]
      omega
    · constructor
      · calc f.fracField c * 2 ^ (52 - f.fb) < 2 ^ f.fb * 2 ^ (52 - f.fb) := Nat.mul_lt_mul_of_pos_right hlt (Nat.two_pow_pos _)
          _ = 2 ^ 52 := by rw [← pow_add]; congr 1; omega
      · exact Dvd.dvd.mul_left (Nat.pow_dvd_pow 2 (by omega)) _
  split at h <;> cases h

/-- A NaN gets the same code whether its quiet bit has been set before or not. -/
theorem Fmt.nanCode_quietFrac (hf : f = e4m3 ∨ f = e5m2 ∨ f.Plain) (fr : Nat) :
    f.nanCode neg (quietFrac fr) = f.nanCode neg fr := by
  obtain rfl | rfl | hf := hf
  · rfl
  · have hbits : quietFrac fr / 2 ^ 49 % 4 = fr / 2 ^ 49 % 4 := by unfold quietFrac; split <;> omega
    have hne : e5m2 ≠ e4m3 := by decide
    simp only [nanCode, if_neg hne, if_true, hbits]
  · rw [hf.nanCode, hf.nanCode, hf.quietFrac_div, f.quiet_quiet]

/-- A finite value of `f` is a finite value of `g`. -/
theorem Fmt.Embeds.exists_finite {g : Fmt} (h : f.Embeds g) {E M : Nat} (hf : f.Finite E M) :
    ∃ E' M', g.Finite E' M' ∧ SameValue (f.mant E M) (f.expo E) (g.mant E' M') (g.expo E') := by
  have hbias := h.bias_le
  have hfb := h.fb_lt
  have htop := h.top_lt
  by_cases hm : f.mant E M = 0
  · have hpos := Nat.two_pow_pos g.fb
    refine ⟨0, 0, ⟨hpos, by omega⟩, ?_⟩
    have hm' : g.mant 0 0 = 0 := rfl
    rw [SameValue, hm, hm', Nat.zero_mul, Nat.zero_mul]
  · have hE : E ≤ f.maxCode / 2 ^ f.fb := (Nat.le_div_iff_mul_le (Nat.two_pow_pos _)).mpr ((Nat.le_add_right _ _).trans hf.le_maxCode)
    have hlog := f.log2_mant hf.frac_lt hm
    have hexpo : f.expo E = (max E 1 : Nat) - (f.bias : Int) - f.fb := rfl
    generalize f.maxCode / 2 ^ f.fb = top at hE htop
    refine g.exists_finite h.plain.noInf h.plain.eb_pos hm ?_ ?_ ?_ <;> split at hlog <;> omega

/-- What `f` gives for a value of its own is what it gives for the value's code in `g`. -/
theorem Fmt.Embeds.convert_convert {g : Fmt} (h : f.Embeds g) (r r' : Rnd) (draw draw' c : Nat) :
    convert g f r draw (convert f g r' draw' c) = convert f f r draw c := by
  unfold convert
  obtain hfin | hinf | ⟨fr, hnan⟩ := f.decode_cases h.eb_pos c
  · obtain ⟨E', M', hfin', hv⟩ := h.exists_finite hfin
    rw [decode_of_finite h.eb_pos hfin, h.plain.decode_encode_finite hfin' hv]
    exact (roundFin_of_sameValue hfin hv.symm r draw).trans (roundFin_of_sameValue hfin (.refl _ _) r draw).symm
  · rw [hinf, h.plain.decode_encode_inf]
  · have hfb := h.fb_lt
    have hfb' := h.plain.fb_le
    obtain ⟨hlt, hdvd⟩ := decode_nan_frac (by omega) hnan
    have hback := h.plain.decode_nanCode (neg := f.sign c) hlt ((Nat.pow_dvd_pow 2 (by omega)).trans hdvd)
    rw [hnan, encode, hback]
    exact nanCode_quietFrac h.src fr

/-! ## A format converted to itself -/

/-- A finite code converted to its own format stands (R126). -/
theorem Fmt.convert_self_of_finite (heb : 0 < f.eb) (hc : c < 2 ^ (1 + f.eb + f.fb)) (h : f.Finite (f.expField c) (f.fracField c))
    (r : Rnd) (draw : Nat) : convert f f r draw c = c := by
  rw [convert, decode_of_finite heb h]
  exact (roundFin_of_sameValue h (.refl _ _) r draw).trans (ofFields_fields hc)

/-- A plain format converted to itself: a NaN gets its quiet bit, and every other code stands (R129). -/
theorem Fmt.Plain.convert_self (hf : f.Plain) (hc : c < 2 ^ (1 + f.eb + f.fb)) (r : Rnd) (draw : Nat) :
    convert f f r draw c =
      if f.infCode < c % 2 ^ (f.eb + f.fb) ∧ c / 2 ^ (f.fb - 1) % 2 = 0 then c + 2 ^ (f.fb - 1) else c := by
  have hquiet : f.fracField c / 2 ^ (f.fb - 1) % 2 = c / 2 ^ (f.fb - 1) % 2 := by
    have hpow : 2 ^ f.fb = 2 ^ (f.fb - 1) * 2 := by rw [← pow_succ, Nat.sub_add_cancel hf.fb_pos]
    rw [fracField, hpow, Nat.mod_mul_right_div_self, Nat.mod_mod]
  rw [mod_eq_fields, ← hquiet, infCode]
  by_cases hfin : f.Finite (f.expField c) (f.fracField c)
  · have hle := hfin.le_maxCode
    have hmax : f.maxCode = (2 ^ f.eb - 1) * 2 ^ f.fb - 1 := by simp [maxCode, hf.noInf]
    rw [if_neg (by omega), convert_self_of_finite hf.eb_pos hc hfin]
  · have hcode := ofFields_fields hc
    have hE := expField_of_not_finite hf.noInf hf.eb_pos hfin
    rw [hE] at hcode ⊢
    rw [convert, hf.decode_of_top hE]
    split
    · next hM =>
      rw [hM] at hcode
      rw [if_neg (by omega), hf.encode_inf, hcode]
    · next hM =>
      have hnan : (2 ^ f.eb - 1) * 2 ^ f.fb < (2 ^ f.eb - 1) * 2 ^ f.fb + f.fracField c := by omega
      rw [encode, hf.nanCode, Nat.mul_div_cancel _ (Nat.two_pow_pos _), quiet]
      obtain hq | hq := Nat.mod_two_eq_zero_or_one (f.fracField c / 2 ^ (f.fb - 1))
      · rw [if_neg (by omega), if_pos ⟨hnan, hq⟩, ofFields_add, hcode]
      · rw [if_pos hq, if_neg (by omega), hcode]

end

/-! ## The formats of R123 -/

theorem bf16_plain : bf16.Plain := ⟨by decide, by decide, by decide, by decide, by decide⟩
theorem fp16_plain : fp16.Plain := ⟨by decide, by decide, by decide, by decide, by decide⟩
theorem fp32_plain : fp32.Plain := ⟨by decide, by decide, by decide, by decide, by decide⟩
theorem fp64_plain : fp64.Plain := ⟨by decide, by decide, by decide, by decide, by decide⟩

theorem e4m3_embeds_fp32 : e4m3.Embeds fp32 := ⟨by decide, fp32_plain, .inl rfl, by decide, by decide, by decide⟩
theorem e5m2_embeds_fp32 : e5m2.Embeds fp32 := ⟨by decide, fp32_plain, .inr (.inl rfl), by decide, by decide, by decide⟩
theorem bf16_embeds_fp32 : bf16.Embeds fp32 := ⟨by decide, fp32_plain, .inr (.inr bf16_plain), by decide, by decide, by decide⟩
theorem fp16_embeds_fp32 : fp16.Embeds fp32 := ⟨by decide, fp32_plain, .inr (.inr fp16_plain), by decide, by decide, by decide⟩
theorem fp32_embeds_fp64 : fp32.Embeds fp64 := ⟨by decide, fp64_plain, .inr (.inr fp32_plain), by decide, by decide, by decide⟩

section
variable {c : Nat}

/-- E4M3 converted to itself: the NaN of each sign is the one that R128 names. -/
theorem e4m3_convert_self (hc : c < 2 ^ 8) (r : Rnd) (draw : Nat) : convert e4m3 e4m3 r draw c = c := by
  by_cases hfin : e4m3.Finite (e4m3.expField c) (e4m3.fracField c)
  · exact Fmt.convert_self_of_finite (by decide) hc hfin r draw
  · have hcode := Fmt.ofFields_fields (f := e4m3) hc
    obtain ⟨hE, hM⟩ := e4m3_not_finite hfin
    rw [hE, hM] at hcode
    rw [← hcode]
    cases e4m3.sign c <;> rfl

/-- E5M2 converted to itself: the value of a NaN is quiet already and keeps both fraction bits (R128). -/
theorem e5m2_convert_self (hc : c < 2 ^ 8) (r : Rnd) (draw : Nat) : convert e5m2 e5m2 r draw c = c := by
  by_cases hfin : e5m2.Finite (e5m2.expField c) (e5m2.fracField c)
  · exact Fmt.convert_self_of_finite (by decide) hc hfin r draw
  · have hcode := Fmt.ofFields_fields (f := e5m2) hc
    have hE : e5m2.expField c = 31 := Fmt.expField_of_not_finite rfl (by decide) hfin
    have hM : e5m2.fracField c < 4 := Fmt.fracField_lt
    rw [hE] at hcode
    rw [← hcode]
    generalize e5m2.fracField c = M at hM
    interval_cases M <;> cases e5m2.sign c <;> rfl

end

end Sys2Proof.Machine

open Sys2Proof Sys2Proof.Machine

/-- Settles O13: the way through the wider format is the conversion of a format to itself, which changes signalling NaNs alone. -/
theorem conversionRoundTrips : Obligations.ConversionRoundTrips := by
  unfold Obligations.ConversionRoundTrips
  refine ⟨fun c hc => ?e4m3, fun c hc => ?e5m2, fun c hc => ?bf16, fun c hc => ?fp16, fun c hc => ?fp32⟩
  case e4m3 => exact (e4m3_embeds_fp32.convert_convert ..).trans (e4m3_convert_self hc ..)
  case e5m2 => exact (e5m2_embeds_fp32.convert_convert ..).trans (e5m2_convert_self hc ..)
  case bf16 => exact (bf16_embeds_fp32.convert_convert ..).trans (bf16_plain.convert_self hc ..)
  case fp16 => exact (fp16_embeds_fp32.convert_convert ..).trans (fp16_plain.convert_self hc ..)
  case fp32 => exact (fp32_embeds_fp64.convert_convert ..).trans (fp32_plain.convert_self hc ..)
end

section
/-! SUPPORT. Decoding an instruction's own code (R45 to R70): what each reader of the decoder hands on of the tail that the encoder
builds, and with it that every instruction is read back. -/

namespace Sys2Proof

/-! ## The fields of a tail (R47, R48) -/

theorem bitsAt_eq (t lo n : Nat) : bitsAt t lo n = t / 2 ^ lo % 2 ^ n := by rw [bitsAt, Nat.shiftRight_eq_div_pow]

section Fields
variable {a b c x m n w sz cp off idx va vb vc ty mn imm : Nat}

theorem bitsAt_tRR (ha : a < 64) (hb : b < 64) (hm : m < 16) :
    bitsAt (tRR a b m) 10 6 = a ∧ bitsAt (tRR a b m) 4 6 = b ∧ bitsAt (tRR a b m) 0 4 = m := by
  simp only [bitsAt_eq, tRR]; omega

theorem bitsAt_tRI (ha : a < 64) (hm : m < 16) (hi : imm < 2 ^ 22) :
    bitsAt (tRI a m imm) 26 6 = a ∧ bitsAt (tRI a m imm) 22 4 = m ∧ bitsAt (tRI a m imm) 0 22 = imm := by
  simp only [bitsAt_eq, tRI]; omega

theorem bitsAt_tRRR (ha : a < 64) (hb : b < 64) (hc : c < 64) (hx : x < 16) (hm : m < 2 ^ 10) :
    bitsAt (tRRR a b c x m) 26 6 = a ∧ bitsAt (tRRR a b c x m) 20 6 = b ∧ bitsAt (tRRR a b c x m) 14 6 = c
      ∧ bitsAt (tRRR a b c x m) 10 4 = x ∧ bitsAt (tRRR a b c x m) 0 10 = m := by
  simp only [bitsAt_eq, tRRR]; omega

theorem bitsAt_tM (ha : a < 64) (hb : b < 64) (hw : w < 4) (hsz : sz < 4) (hcp : cp < 4) (hoff : off < 2 ^ 14) :
    bitsAt (tM a b w sz cp off) 26 6 = a ∧ bitsAt (tM a b w sz cp off) 20 6 = b ∧ bitsAt (tM a b w sz cp off) 18 2 = w
      ∧ bitsAt (tM a b w sz cp off) 16 2 = sz ∧ bitsAt (tM a b w sz cp off) 14 2 = cp ∧ bitsAt (tM a b w sz cp off) 0 14 = off := by
  simp only [bitsAt_eq, tM]; omega

theorem bitsAt_tV (ha : va < 32) (hb : vb < 32) (hc : vc < 32) (hm : m < 8) (hty : ty < 16) (hmn : mn < 2 ^ 10) :
    bitsAt (tV va vb vc m ty mn) 27 5 = va ∧ bitsAt (tV va vb vc m ty mn) 22 5 = vb ∧ bitsAt (tV va vb vc m ty mn) 17 5 = vc
      ∧ bitsAt (tV va vb vc m ty mn) 14 3 = m ∧ bitsAt (tV va vb vc m ty mn) 10 4 = ty ∧ bitsAt (tV va vb vc m ty mn) 0 10 = mn := by
  simp only [bitsAt_eq, tV]; omega

theorem bitsAt_tB (ha : a < 64) (hb : b < 64) (hoff : off < 2 ^ 15) (hi : idx < 32) :
    bitsAt (tB a b off idx) 26 6 = a ∧ bitsAt (tB a b off idx) 20 6 = b ∧ bitsAt (tB a b off idx) 5 15 = off
      ∧ bitsAt (tB a b off idx) 0 5 = idx := by
  simp only [bitsAt_eq, tB]; omega

theorem bitsAt_tBL (ha : a < 64) (hoff : off < 2 ^ 37) (hi : idx < 32) :
    bitsAt (tBL a off idx) 42 6 = a ∧ bitsAt (tBL a off idx) 5 37 = off ∧ bitsAt (tBL a off idx) 0 5 = idx := by
  simp only [bitsAt_eq, tBL]; omega

end Fields

@[simp] theorem r6_toNat (r : Reg) : r6 r.toNat = r := by simp [r6]
@[simp] theorem r6_zero : r6 0 = 0 := rfl
@[simp] theorem r5_toNat (r : VReg) : r5 r.toNat = r := by simp [r5]
@[simp] theorem r3_toNat (r : MReg) : r3 r.toNat = r := by simp [r3]
theorem toNat_r6 {n : Nat} (h : n < 64) : (r6 n).toNat = n := Nat.mod_eq_of_lt h
theorem toNat_r5 {n : Nat} (h : n < 32) : (r5 n).toNat = n := Nat.mod_eq_of_lt h

/-! ## The small fields -/

@[simp] theorem VTy.ofCode_code (x : VTy) : VTy.ofCode x.code = some x := by cases x <;> rfl
@[simp] theorem Rnd.ofCode_code (x : Rnd) : Rnd.ofCode x.code = some x := by cases x <;> rfl
@[simp] theorem Scope.ofCode_code (x : Scope) : Scope.ofCode x.code = some x := by cases x <;> rfl
@[simp] theorem Size.ofCode_code (x : Size) : Size.ofCode x.code = some x := by cases x <;> rfl
@[simp] theorem Cp.ofCode_code (x : Cp) : Cp.ofCode x.code = some x := by cases x <;> rfl
@[simp] theorem AmoOp.ofCode_code (x : AmoOp) : AmoOp.ofCode x.code = some x := by cases x <;> rfl
@[simp] theorem MOrd.ofCode_code (x : MOrd) : MOrd.ofCode x.code = some x := by cases x <;> rfl
@[simp] theorem ElemKind.ofCode_code (x : ElemKind) : ElemKind.ofCode x.code = some x := by cases x <;> rfl
@[simp] theorem NFmt.ofCode_code (x : NFmt) : NFmt.ofCode x.code = some x := by cases x <;> rfl
@[simp] theorem OFmt.ofCode_code (x : OFmt) : OFmt.ofCode x.code = some x := by cases x <;> rfl
@[simp] theorem Cond.ofCode_code (x : Cond) : Cond.ofCode x.code = some x := by cases x <;> rfl
@[simp] theorem IdSel.ofCode_code (x : IdSel) : IdSel.ofCode x.code = some x := by cases x <;> rfl
@[simp] theorem GeomSel.ofCode_code (x : GeomSel) : GeomSel.ofCode x.code = some x := by cases x <;> rfl
@[simp] theorem DomSel.ofCode_code (x : DomSel) : DomSel.ofCode x.code = some x := by cases x <;> rfl
@[simp] theorem AllowSel.ofCode_code (x : AllowSel) : AllowSel.ofCode x.code = some x := by cases x <;> rfl
@[simp] theorem CpySel.ofCode_code (x : CpySel) : CpySel.ofCode x.code = some x := by cases x <;> rfl
@[simp] theorem MsgSel.ofCode_code (x : MsgSel) : MsgSel.ofCode x.code = some x := by cases x <;> rfl
@[simp] theorem bit_le_one (b : Bool) : bit b ≤ 1 := by cases b <;> decide
@[simp] theorem bit_beq_one (b : Bool) : (bit b == 1) = b := by cases b <;> rfl

/-! ## What a reader hands on of a tail of its format -/

section Readers
open Laws.Enc

theorem inRR3_tRR (d a b : Reg) (k : Reg → Reg → Reg → Instr) :
    inRR3 1 d.toNat (tRR a.toNat b.toNat 0) k = some (k d a b) := by
  obtain ⟨ha, hb, hm⟩ := bitsAt_tRR a.isLt b.isLt (m := 0) (by decide)
  simp [inRR3, ha, hb, hm]

theorem inRR2_tRR (d : Nat) (a : Reg) (k : Reg → Reg → Instr) : inRR2 1 d (tRR a.toNat 0 0) k = some (k (r6 d) a) := by
  obtain ⟨ha, -, -⟩ := bitsAt_tRR a.isLt (b := 0) (m := 0) (by decide) (by decide)
  have h0 : bitsAt (tRR a.toNat 0 0) 0 10 = 0 := by simp only [bitsAt_eq, tRR]; omega
  simp [inRR2, ha, h0]

theorem inRR2_reg (d a : Reg) (k : Reg → Reg → Instr) : inRR2 1 d.toNat (tRR a.toNat 0 0) k = some (k d a) := by
  rw [inRR2_tRR, r6_toNat]

theorem inRRab_tRR (a b : Reg) (k : Reg → Reg → Instr) : inRRab 1 0 (tRR a.toNat b.toNat 0) k = some (k a b) :=
  inRR3_tRR 0 a b fun _ a b => k a b

theorem inRRa_tRR (a : Reg) (m : Nat) (hm : m < 16) (k : Nat → Reg → Option Instr) : inRRa 1 (0 : Reg).toNat (tRR a.toNat 0 m) k = k m a := by
  obtain ⟨ha, hb, hm⟩ := bitsAt_tRR a.isLt (b := 0) (by decide) hm
  simp [inRRa, ha, hb, hm]

theorem inRI_tRI (d a : Reg) {n : Nat} (hn : n < 2 ^ 22) (k : Reg → Reg → BitVec 22 → Instr) :
    inRI 2 d.toNat (tRI a.toNat 0 n) k = some (k d a (BitVec.ofNat 22 n)) := by
  obtain ⟨ha, hm, hi⟩ := bitsAt_tRI a.isLt (m := 0) (by decide) hn
  simp [inRI, ha, hm, hi]

theorem inRI_imm (d a : Reg) (imm : BitVec 22) (k : Reg → Reg → BitVec 22 → Instr) :
    inRI 2 d.toNat (tRI a.toNat 0 imm.toNat) k = some (k d a imm) := by
  simpa using inRI_tRI d a imm.isLt k

theorem inSel_tRI (d : Nat) {m n : Nat} (hm : m < 16) (hn : n < 2 ^ 22) (k : Nat → Reg → Nat → Option Instr) :
    inSel 2 d (tRI 0 m n) k = k m (r6 d) n := by
  obtain ⟨ha, hm, hi⟩ := bitsAt_tRI (a := 0) (by decide) hm hn
  simp [inSel, ha, hm, hi]

theorem inRRR_tRRR (d : Nat) (a b c : Reg) {x m : Nat} (hx : x < 16) (hm : m < 2 ^ 10)
    (k : Reg → Reg → Reg → Reg → Nat → Nat → Option Instr) :
    inRRR 2 d (tRRR a.toNat b.toNat c.toNat x m) k = k (r6 d) a b c x m := by
  obtain ⟨ha, hb, hc, hx, hm⟩ := bitsAt_tRRR a.isLt b.isLt c.isLt hx hm
  simp [inRRR, ha, hb, hc, hx, hm]

theorem inM_tM (d a b : Reg) (w : BitVec 2) (sz : Size) (cp : Cp) (off : BitVec 14)
    (k : Reg → Reg → Reg → BitVec 2 → Size → Cp → BitVec 14 → Option Instr) :
    inM 2 d.toNat (tM a.toNat b.toNat w.toNat sz.code cp.code off.toNat) k = k d a b w sz cp off := by
  obtain ⟨ha, hb, hw, hsz, hcp, hoff⟩ := bitsAt_tM a.isLt b.isLt w.isLt (size_code_lt sz) (cp_code_lt cp) off.isLt
  simp [inM, ha, hb, hw, hsz, hcp, hoff]

theorem inV_tV (d a b c : VReg) (m : MReg) (ty : VTy) {mn : Nat} (hmn : mn < 2 ^ 10)
    (k : VReg → VReg → VReg → VReg → MReg → VTy → Nat → Option Instr) :
    inV 2 d.toNat (tV a.toNat b.toNat c.toNat m.toNat ty.code mn) k = k d a b c m ty mn := by
  obtain ⟨ha, hb, hc, hm, hty, hmn⟩ := bitsAt_tV a.isLt b.isLt c.isLt m.isLt (vTy_code_lt ty) hmn
  simp [inV, d.isLt, ha, hb, hc, hm, hty, hmn]

theorem inVarith2_tV (d a b : VReg) (m : MReg) (ty : VTy) (r : Rnd) (k : VReg → VReg → VReg → MReg → Rnd → Instr) :
    inVarith2 ty 2 d.toNat (tV a.toNat b.toNat 0 m.toNat ty.code r.code) k = some (k d a b m r) :=
  (inV_tV d a b 0 m ty (by have := rnd_code_lt r; omega) _).trans (by simp)

theorem inVarith3_tV (d a b c : VReg) (m : MReg) (ty : VTy) (r : Rnd) (k : VReg → VReg → VReg → VReg → MReg → Rnd → Instr) :
    inVarith3 ty 2 d.toNat (tV a.toNat b.toNat c.toNat m.toNat ty.code r.code) k = some (k d a b c m r) :=
  (inV_tV d a b c m ty (by have := rnd_code_lt r; omega) _).trans (by simp)

theorem inVty2_tV (d a b : VReg) (m : MReg) (ty : VTy) (k : VReg → VReg → VReg → MReg → VTy → Instr) :
    inVty2 2 d.toNat (tV a.toNat b.toNat 0 m.toNat ty.code 0) k = some (k d a b m ty) :=
  (inV_tV d a b 0 m ty (by decide) _).trans (by simp)

theorem inVty1_tV (d a : VReg) (m : MReg) (ty : VTy) (k : VReg → VReg → MReg → VTy → Instr) :
    inVty1 2 d.toNat (tV a.toNat 0 0 m.toNat ty.code 0) k = some (k d a m ty) :=
  (inV_tV d a 0 0 m ty (by decide) _).trans (by simp)

theorem inVfun_tV (d a : VReg) (m : MReg) (k : VReg → VReg → MReg → Instr) :
    inVfun 2 d.toNat (tV a.toNat 0 0 m.toNat VTy.f32.code 0) k = some (k d a m) :=
  (inV_tV d a 0 0 m .f32 (by decide) _).trans (by simp)

theorem inVrnd1_tV (d a : VReg) (m : MReg) (ty : VTy) (r : Rnd) (k : VReg → VReg → MReg → VTy → Rnd → Instr) :
    inVrnd1 2 d.toNat (tV a.toNat 0 0 m.toNat ty.code r.code) k = some (k d a m ty r) :=
  (inV_tV d a 0 0 m ty (by have := rnd_code_lt r; omega) _).trans (by simp)

theorem inMask_tV (d : Nat) (a b : MReg) (k : Reg → MReg → MReg → Option Instr) :
    inMask 2 d (tV a.toNat b.toNat 0 0 0 0) k = k (r6 d) a b := by
  have ha := a.isLt
  have hb := b.isLt
  have fields : bitsAt (tV a.toNat b.toNat 0 0 0 0) 30 2 = 0 ∧ bitsAt (tV a.toNat b.toNat 0 0 0 0) 25 2 = 0
      ∧ bitsAt (tV a.toNat b.toNat 0 0 0 0) 0 22 = 0 ∧ bitsAt (tV a.toNat b.toNat 0 0 0 0) 27 3 = a.toNat
      ∧ bitsAt (tV a.toNat b.toNat 0 0 0 0) 22 3 = b.toNat := by
    simp only [bitsAt_eq, tV]; omega
  simp [inMask, fields]

theorem inB_tB (a b : Reg) (off : BitVec 15) (idx : BitVec 5) (k : Reg → Reg → BitVec 15 → BitVec 5 → Instr) :
    inB 2 0 (tB a.toNat b.toNat off.toNat idx.toNat) k = some (k a b off idx) := by
  obtain ⟨ha, hb, ho, hi⟩ := bitsAt_tB a.isLt b.isLt off.isLt idx.isLt
  simp [inB, ha, hb, ho, hi]

section
variable (d a : Reg) (k : Reg → Reg → BitVec 15 → BitVec 5 → Option Instr) (kl : Reg → Reg → BitVec 37 → BitVec 5 → Option Instr)

theorem inBoth_tB (off : BitVec 15) (idx : BitVec 5) :
    inBoth 2 d.toNat (tB a.toNat 0 off.toNat idx.toNat) k kl = k d a off idx := by
  obtain ⟨ha, hb, ho, hi⟩ := bitsAt_tB a.isLt (b := 0) (by decide) off.isLt idx.isLt
  simp [inBoth, ha, hb, ho, hi]

theorem inBoth_tBL (off : BitVec 37) (idx : BitVec 5) :
    inBoth 3 d.toNat (tBL a.toNat off.toNat idx.toNat) k kl = kl d a off idx := by
  obtain ⟨ha, ho, hi⟩ := bitsAt_tBL a.isLt off.isLt idx.isLt
  simp [inBoth, ha, ho, hi]

end

theorem inCh_tRRR (kd : ElemKind) (d a b : Reg) (imm : BitVec 10) (k : ElemKind → Reg → Reg → Reg → BitVec 10 → Option Instr) :
    inCh 2 d.toNat (tRRR a.toNat b.toNat 0 kd.code imm.toNat) k = k kd d a b imm :=
  (inRRR_tRRR d.toNat a b 0 (by have := elemKind_code_lt kd; omega) imm.isLt _).trans (by simp)

theorem inVmem_tM (d : VReg) (a : Reg) (m : MReg) (w : BitVec 2) (cp : Cp) (off : BitVec 14)
    (k : VReg → Reg → BitVec 14 → MReg → BitVec 2 → Cp → Instr) :
    inVmem 2 d.toNat (tM a.toNat m.toNat w.toNat 0 cp.code off.toNat) k = some (k d a off m w cp) := by
  have hd : (r6 d.toNat).toNat = d.toNat := toNat_r6 (by have := d.isLt; omega)
  have hm : (r6 m.toNat).toNat = m.toNat := toNat_r6 (by have := m.isLt; omega)
  have h := inM_tM (r6 d.toNat) a (r6 m.toNat) w .b cp off fun _ a b w sz cp off =>
    if sz = .b ∧ d.toNat < 32 ∧ b.toNat < 8 then some (k (r5 d.toNat) a off (r3 b.toNat) w cp) else none
  rw [hd, hm] at h
  exact h.trans (by simp [d.isLt, m.isLt])

/-- A vector access by RRR: the destination and the index are vector registers, the mask stands in aux. -/
theorem inRRR_vec (d : VReg) (a b : Reg) (m : MReg) {n : Nat} (hn : n < 2 ^ 10)
    (k : Reg → Reg → Reg → Reg → Nat → Nat → Option Instr) :
    inRRR 2 d.toNat (tRRR a.toNat b.toNat 0 m.toNat n) k = k (r6 d.toNat) a b 0 m.toNat n :=
  inRRR_tRRR d.toNat a b 0 (by have := m.isLt; omega) hn k

/-- A position and a length in imm22 (R56, R69). -/
theorem posLen_fields (pos : BitVec 6) (len : BitVec 7) :
    let n := len.toNat * 64 + pos.toNat
    n < 2 ^ 13 ∧ r6 n = pos ∧ BitVec.ofNat 7 (n / 64) = len := by
  have hp := pos.isLt
  have hl := len.isLt
  refine ⟨by omega, BitVec.eq_of_toNat_eq ?_, BitVec.eq_of_toNat_eq ?_⟩
  · simp only [r6, BitVec.toNat_ofNat]; omega
  · simp only [BitVec.toNat_ofNat]; omega

/-- The bits of imm22 above a field in it are zero. -/
theorem bitsAt_tRI_above {a i : Nat} :
    (i < 2 ^ 6 → bitsAt (tRI a 0 i) 6 16 = 0) ∧ (i < 2 ^ 12 → bitsAt (tRI a 0 i) 12 10 = 0)
      ∧ (i < 2 ^ 13 → bitsAt (tRI a 0 i) 13 9 = 0) ∧ (i < 2 ^ 16 → bitsAt (tRI a 0 i) 16 6 = 0) := by
  simp only [bitsAt_eq, tRI]; omega

theorem inRI_posLen (d a : Reg) (pos : BitVec 6) (len : BitVec 7) (k : Reg → Reg → BitVec 6 → BitVec 7 → Instr) :
    (if bitsAt (tRI a.toNat 0 (len.toNat * 64 + pos.toNat)) 13 9 = 0 then
      inRI 2 d.toNat (tRI a.toNat 0 (len.toNat * 64 + pos.toNat)) fun d a imm => k d a (r6 imm.toNat) (BitVec.ofNat 7 (imm.toNat / 64))
      else none) = some (k d a pos len) := by
  obtain ⟨hlt, hpos, hlen⟩ := posLen_fields pos len
  rw [if_pos (bitsAt_tRI_above.2.2.1 hlt), inRI_tRI d a (by omega), BitVec.toNat_ofNat, Nat.mod_eq_of_lt (by omega),
    hpos, hlen]

/-- A number of a system register, through imm22. -/
theorem ofNat_toNat_mod (n : BitVec 12) : BitVec.ofNat 12 (n.toNat % 4194304) = n := by
  rw [Nat.mod_eq_of_lt (Nat.lt_of_lt_of_le n.isLt (by decide)), BitVec.ofNat_toNat, BitVec.setWidth_eq]

/-- Of a narrow register the widened field is the register. -/
theorem toNat_r6_toNat {n : Nat} (r : BitVec n) (h : n ≤ 6) : (r6 r.toNat).toNat = r.toNat :=
  toNat_r6 (Nat.lt_of_lt_of_le r.isLt (Nat.pow_le_pow_right (by decide) h))

end Readers

/-! ## Minors and tails of single instructions -/

theorem bitsAt_tL {a imm : Nat} (ha : a < 64) (hi : imm < 2 ^ 16) :
    bitsAt (tL a imm) 42 6 = a ∧ bitsAt (tL a imm) 16 26 = 0 ∧ bitsAt (tL a imm) 0 16 = imm := by
  simp only [bitsAt_eq, tL]; omega

theorem bitsAt_amoMinor {op : Nat} (hop : op < 16) (wide : Bool) (mo : MOrd) :
    bitsAt (amoMinor op wide mo) 0 4 = op ∧ bitsAt (amoMinor op wide mo) 4 1 = bit wide ∧ bitsAt (amoMinor op wide mo) 5 1 = 1
      ∧ bitsAt (amoMinor op wide mo) 6 2 = mo.code ∧ bitsAt (amoMinor op wide mo) 8 2 = 0 ∧ amoMinor op wide mo < 2 ^ 10 := by
  have := Laws.Enc.mOrd_code_lt mo
  cases wide <;> simp only [bitsAt_eq, amoMinor, bit, if_true, Bool.false_eq_true, if_false] <;> omega

/-- The minor of CAS2 (R61). -/
theorem bitsAt_cas2Minor (mo : MOrd) :
    bitsAt (64 * mo.code) 0 6 = 0 ∧ bitsAt (64 * mo.code) 6 2 = mo.code ∧ bitsAt (64 * mo.code) 8 2 = 0 ∧ 64 * mo.code < 2 ^ 10 := by
  cases mo <;> decide

/-- The minor of a conversion (R67): format, direction, rounding. -/
theorem bitsAt_cvtMinor (fmt : NFmt) (b : Bool) (r : Rnd) :
    let mn := fmt.code + 8 * bit b + 16 * r.code
    bitsAt mn 0 3 = fmt.code ∧ bitsAt mn 3 1 = bit b ∧ bitsAt mn 4 3 = r.code ∧ bitsAt mn 7 3 = 0 ∧ mn < 2 ^ 10 := by
  have := Laws.Enc.nFmt_code_lt fmt
  have := Laws.Enc.bit_lt b
  have := Laws.Enc.rnd_code_lt r
  simp only [bitsAt_eq]; omega

/-- The minor of VIMUL: saturation and the high half (R68). -/
theorem bitsAt_vimulMinor (sat hi : Bool) :
    let mn := bit sat + 2 * bit hi
    bitsAt mn 0 1 = bit sat ∧ bitsAt mn 1 1 = bit hi ∧ mn < 4 := by
  cases sat <;> cases hi <;> decide

/-- The minor of MDRAIN: its rounding, and the port form (R70). -/
theorem bitsAt_drainMinor (r : Rnd) :
    (bitsAt r.code 0 3 = r.code ∧ bitsAt r.code 3 7 = 0) ∧ bitsAt (8 + r.code) 0 3 = r.code ∧ bitsAt (8 + r.code) 3 7 = 1
      ∧ 8 + r.code < 2 ^ 10 := by
  cases r <;> decide

/-- The tails of VSPLAT, VEXTR and VINSR (R68): narrow fields in RR. -/
theorem bitsAt_splat {a m ty : Nat} (ha : a < 64) (hm : m < 8) (hty : ty < 16) :
    bitsAt (tRR a m ty) 10 6 = a ∧ bitsAt (tRR a m ty) 7 3 = 0 ∧ bitsAt (tRR a m ty) 4 3 = m ∧ bitsAt (tRR a m ty) 0 4 = ty := by
  simp only [bitsAt_eq, tRR]; omega

theorem bitsAt_lane {v b w : Nat} (hv : v < 64) (hb : b < 64) (hw : w < 2) :
    bitsAt (tRR v b w) 10 6 = v ∧ (v < 32 → bitsAt (tRR v b w) 10 5 = v ∧ bitsAt (tRR v b w) 15 1 = 0)
      ∧ bitsAt (tRR v b w) 4 6 = b ∧ bitsAt (tRR v b w) 1 3 = 0 ∧ bitsAt (tRR v b w) 0 1 = w := by
  simp only [bitsAt_eq, tRR]; omega

/-- The tail of MGETV: a mask register in A (R68). -/
theorem bitsAt_maskInA (m : MReg) : bitsAt (tRR m.toNat 0 0) 13 3 = 0 := by
  have := m.isLt
  simp only [bitsAt_eq, tRR]; omega

/-- The tails of the copy heads: A and the bit of .nb (R64). -/
theorem bitsAt_copyTail (a : Reg) :
    bitsAt (tRR a.toNat 0 0) 0 1 = 0 ∧ bitsAt (tRR a.toNat 0 1) 0 1 = 1 ∧ tRR a.toNat 0 1 - 1 = tRR a.toNat 0 0 := by
  simp only [bitsAt_eq, tRR]; omega

/-- The counts of WAITC in imm22 (R59). -/
theorem waitc_fields (l s c t : BitVec 4) :
    let n := l.toNat + 16 * s.toNat + 256 * c.toNat + 4096 * t.toNat
    n < 2 ^ 16 ∧ BitVec.ofNat 4 n = l ∧ BitVec.ofNat 4 (n / 16) = s ∧ BitVec.ofNat 4 (n / 256) = c ∧ BitVec.ofNat 4 (n / 4096) = t := by
  have hl := l.isLt
  have hs := s.isLt
  have hc := c.isLt
  have ht := t.isLt
  refine ⟨by omega, ?_, ?_, ?_, ?_⟩ <;> refine BitVec.eq_of_toNat_eq ?_ <;> simp only [BitVec.toNat_ofNat] <;> omega

/-- The ways of QMAP in imm22 (R60). -/
theorem qmap_fields (w r : BitVec 3) :
    let n := r.toNat * 8 + w.toNat
    n < 2 ^ 6 ∧ r3 n = w ∧ r3 (n / 8) = r := by
  have hw := w.isLt
  have hr := r.isLt
  refine ⟨by omega, ?_, ?_⟩ <;> refine BitVec.eq_of_toNat_eq ?_ <;> simp only [r3, BitVec.toNat_ofNat] <;> omega

/-! ## Every instruction is read back -/

/-- A code that the decoder reads as an instruction: its major is assigned, and its fields are that instruction's. -/
def Code.Reads (c : Code) (i : Instr) : Prop := unassigned c.maj = false ∧ rawDecode c.maj c.tl c.d c.tail = some i

/-- An instruction's code, if it has one, is read as the instruction. -/
def Instr.ReadsBack (i : Instr) : Prop := ∀ c, i.code = some c → c.Reads i

namespace Instr.ReadsBack

theorem of_event {i : Instr} (h : i.code = none) : i.ReadsBack := fun c hc => by rw [h] at hc; cases hc

/-- By the row of the opcode map for the major: its reader, and what that reads of the instruction's fields. -/
theorem of_row {i : Instr} {maj tl d t : Nat} (f : Nat → Nat → Nat → Option Instr) (h : i.code = some ⟨maj, tl, d, t⟩)
    (hm : unassigned maj = false) (row : ∀ tl d t, rawDecode maj tl d t = f tl d t) (hr : f tl d t = some i) : i.ReadsBack := by
  intro c hc
  rw [h] at hc
  cases hc
  exact ⟨hm, (row tl d t).trans hr⟩

/-! The formats whose reader hands its fields to the instruction as they are. -/

section
variable {maj : Nat}

theorem of_rr3 {k : Reg → Reg → Reg → Instr} {d a b : Reg} (h : (k d a b).code = some (cRR3 maj d a b)) (hm : unassigned maj = false)
    (row : ∀ tl d t, rawDecode maj tl d t = inRR3 tl d t k) : (k d a b).ReadsBack := of_row _ h hm row (inRR3_tRR d a b k)

theorem of_rrab {k : Reg → Reg → Instr} {a b : Reg} (h : (k a b).code = some (cRR3 maj 0 a b)) (hm : unassigned maj = false)
    (row : ∀ tl d t, rawDecode maj tl d t = inRRab tl d t k) : (k a b).ReadsBack := of_row _ h hm row (inRRab_tRR a b k)

theorem of_rr2 {k : Reg → Reg → Instr} {d a : Reg} (h : (k d a).code = some (cRR maj d a 0)) (hm : unassigned maj = false)
    (row : ∀ tl d t, rawDecode maj tl d t = inRR2 tl d t k) : (k d a).ReadsBack := of_row _ h hm row (inRR2_reg d a k)

theorem of_rra {i : Instr} {a : Reg} (m : Nat) (k : Nat → Reg → Option Instr) (h : i.code = some (cRR maj 0 a m))
    (hm : unassigned maj = false) (row : ∀ tl d t, rawDecode maj tl d t = inRRa tl d t k) (hlt : m < 16) (hk : k m a = some i) :
    i.ReadsBack := of_row _ h hm row ((inRRa_tRR a m hlt k).trans hk)

theorem of_ri {k : Reg → Reg → BitVec 22 → Instr} {d a : Reg} {imm : BitVec 22} (h : (k d a imm).code = some (cRI maj d a 0 imm.toNat))
    (hm : unassigned maj = false) (row : ∀ tl d t, rawDecode maj tl d t = inRI tl d t k) : (k d a imm).ReadsBack :=
  of_row _ h hm row (inRI_imm d a imm k)

theorem of_posLen {k : Reg → Reg → BitVec 6 → BitVec 7 → Instr} {d a : Reg} {pos : BitVec 6} {len : BitVec 7}
    (h : (k d a pos len).code = some (cRI maj d a 0 (len.toNat * 64 + pos.toNat))) (hm : unassigned maj = false)
    (row : ∀ tl d t, rawDecode maj tl d t = if bitsAt t 13 9 = 0 then
      inRI tl d t fun d a imm => k d a (r6 imm.toNat) (BitVec.ofNat 7 (imm.toNat / 64)) else none) : (k d a pos len).ReadsBack :=
  of_row _ h hm row (inRI_posLen d a pos len k)

section
variable {k knb : Reg → Reg → Instr} {d a : Reg}

theorem of_copy (h : (k d a).code = some (cRR maj d a 0)) (hm : unassigned maj = false)
    (row : ∀ tl d t, rawDecode maj tl d t = inRR2 tl d (t - bitsAt t 0 1) fun d a => if bitsAt t 0 1 = 0 then k d a else knb d a) :
    (k d a).ReadsBack :=
  of_row _ h hm row (by rw [(bitsAt_copyTail a).1]; exact inRR2_reg d a _)

theorem of_copyNb (h : (knb d a).code = some (cRR maj d a 1)) (hm : unassigned maj = false)
    (row : ∀ tl d t, rawDecode maj tl d t = inRR2 tl d (t - bitsAt t 0 1) fun d a => if bitsAt t 0 1 = 0 then k d a else knb d a) :
    (knb d a).ReadsBack := by
  obtain ⟨-, h1, ht⟩ := bitsAt_copyTail a
  exact of_row _ h hm row (by rw [h1, ht]; exact inRR2_reg d a _)

end

theorem of_b {k : Reg → Reg → BitVec 15 → BitVec 5 → Instr} {a b : Reg} {off : BitVec 15} {idx : BitVec 5}
    (h : (k a b off idx).code = some (cB maj 0 a b off idx)) (hm : unassigned maj = false)
    (row : ∀ tl d t, rawDecode maj tl d t = inB tl d t k) : (k a b off idx).ReadsBack := of_row _ h hm row (inB_tB a b off idx k)

theorem of_head {k : BitVec 6 → Instr} {d : BitVec 6} (h : (k d).code = some (c0 maj d.toNat)) (hm : unassigned maj = false)
    (row : ∀ tl d t, rawDecode maj tl d t = in0 tl d fun d => some (k d)) : (k d).ReadsBack :=
  of_row _ h hm row (by simp [in0])

theorem of_plain {i : Instr} (h : i.code = some (c0 maj 0)) (hm : unassigned maj = false)
    (row : ∀ tl d t, rawDecode maj tl d t = in00 tl d i) : i.ReadsBack := of_row _ h hm row rfl

section Vector
variable {d a b c : VReg} {m : MReg} {ty : VTy} {r : Rnd}

theorem of_varith2 {k : VReg → VReg → VReg → MReg → Rnd → Instr} (h : (k d a b m r).code = some (cV3 maj d a b 0 m ty r.code))
    (hm : unassigned maj = false) (row : ∀ tl d t, rawDecode maj tl d t = inVarith2 ty tl d t k) : (k d a b m r).ReadsBack :=
  of_row _ h hm row (inVarith2_tV d a b m ty r k)

theorem of_varith3 {k : VReg → VReg → VReg → VReg → MReg → Rnd → Instr}
    (h : (k d a b c m r).code = some (cV3 maj d a b c m ty r.code)) (hm : unassigned maj = false)
    (row : ∀ tl d t, rawDecode maj tl d t = inVarith3 ty tl d t k) : (k d a b c m r).ReadsBack :=
  of_row _ h hm row (inVarith3_tV d a b c m ty r k)

theorem of_vty2 {k : VReg → VReg → VReg → MReg → VTy → Instr} (h : (k d a b m ty).code = some (cV3 maj d a b 0 m ty 0))
    (hm : unassigned maj = false) (row : ∀ tl d t, rawDecode maj tl d t = inVty2 tl d t k) : (k d a b m ty).ReadsBack :=
  of_row _ h hm row (inVty2_tV d a b m ty k)

theorem of_vty1 {k : VReg → VReg → MReg → VTy → Instr} (h : (k d a m ty).code = some (cV3 maj d a 0 0 m ty 0))
    (hm : unassigned maj = false) (row : ∀ tl d t, rawDecode maj tl d t = inVty1 tl d t k) : (k d a m ty).ReadsBack :=
  of_row _ h hm row (inVty1_tV d a m ty k)

theorem of_vfun {k : VReg → VReg → MReg → Instr} (h : (k d a m).code = some (cV3 maj d a 0 0 m .f32 0))
    (hm : unassigned maj = false) (row : ∀ tl d t, rawDecode maj tl d t = inVfun tl d t k) : (k d a m).ReadsBack :=
  of_row _ h hm row (inVfun_tV d a m k)

theorem of_vrnd1 {k : VReg → VReg → MReg → VTy → Rnd → Instr} (h : (k d a m ty r).code = some (cV3 maj d a 0 0 m ty r.code))
    (hm : unassigned maj = false) (row : ∀ tl d t, rawDecode maj tl d t = inVrnd1 tl d t k) : (k d a m ty r).ReadsBack :=
  of_row _ h hm row (inVrnd1_tV d a m ty r k)

theorem of_vmem {k : VReg → Reg → BitVec 14 → MReg → BitVec 2 → Cp → Instr} {a : Reg} {off : BitVec 14} {w : BitVec 2} {cp : Cp}
    (h : (k d a off m w cp).code = some ⟨maj, 2, d.toNat, tM a.toNat m.toNat w.toNat 0 cp.code off.toNat⟩) (hm : unassigned maj = false)
    (row : ∀ tl d t, rawDecode maj tl d t = inVmem tl d t k) : (k d a off m w cp).ReadsBack :=
  of_row _ h hm row (inVmem_tM d a m w cp off k)

end Vector

end

end Instr.ReadsBack

open Laws.Enc in
/-- Every instruction is read back: by the format of its row, or by its row's own reader. -/
theorem Instr.readsBack (i : Instr) : i.ReadsBack := by
  cases i
  all_goals try exact .of_event rfl
  case add d a b | sub d a b | addw d a b | subw d a b | mul d a b | mulh d a b | mulhu d a b | mulw d a b | div d a b | divu d a b
    | rem d a b | remu d a b | and_ d a b | or_ d a b | xor d a b | andn d a b | orn d a b | shl d a b | shr d a b | sra d a b
    | rotl d a b | rotr d a b | min d a b | max d a b | minu d a b | maxu d a b | seq d a b | sne d a b | slt d a b | sltu d a b
    | spill d a b | restor d a b | tbtest d a b | launch d a b => exact .of_rr3 rfl rfl fun _ _ _ => rfl
  case clz d a | ctz d a | popc d a | brev d a | bswap d a | mov d a | callr d a | tbarr d a | keyhome d a | sbtake d a =>
    exact .of_rr2 rfl rfl fun _ _ _ => rfl
  case tbinit a b | tbexp a b | tbwait a b | spawn a b | tset a b => exact .of_rrab rfl rfl fun _ _ _ => rfl
  case addi d a imm | andi d a imm | ori d a imm | xori d a imm | slti d a imm | shli d a imm | shri d a imm | srai d a imm
    | salloc d a imm => exact .of_ri rfl rfl fun _ _ _ => rfl
  case ext d a pos len | exts d a pos len | ins d a pos len => exact .of_posLen rfl rfl fun _ _ _ => rfl
  case nop | yield | tend | eret | baste | split | wswap | mwait => exact .of_plain rfl rfl fun _ _ _ => rfl
  case ret d | jr d | trap d | brk d => exact .of_head rfl rfl fun _ _ _ => rfl
  case beq a b off idx | bne a b off idx | blt a b off idx | bge a b off idx | bltu a b off idx | bgeu a b off idx =>
    exact .of_b rfl rfl fun _ _ _ => rfl
  case vadd d a b m r | vsub d a b m r | vmul d a b m r | vdiv d a b m r | vdadd d a b m r | vdmul d a b m r =>
    exact .of_varith2 rfl rfl fun _ _ _ => rfl
  case vfma d a b c m r | vfms d a b c m r | vfnma d a b c m r | vdfma d a b c m r => exact .of_varith3 rfl rfl fun _ _ _ => rfl
  case vmin d a b m ty | vmax d a b m ty | vsel d a b m ty | vand d a b m ty | vor d a b m ty | vxor d a b m ty | vshl d a b m ty
    | vshr d a b m ty | vsra d a b m ty | vperm d a b m ty => exact .of_vty2 rfl rfl fun _ _ _ => rfl
  case vabs d a m ty | vneg d a m ty | vredmax d a m ty | vredmin d a m ty | vmov d a m ty | vclass d a m ty =>
    exact .of_vty1 rfl rfl fun _ _ _ => rfl
  case vrcp d a m | vrsq d a m | vexp2 d a m | vlog2 d a m | vsqrt d a m | vtanh d a m => exact .of_vfun rfl rfl fun _ _ _ => rfl
  case vredadd d a m ty r | vscanadd d a m ty r | vround d a m ty r | vfcvti d a m ty r | vicvtf d a m ty r =>
    exact .of_vrnd1 rfl rfl fun _ _ _ => rfl
  case vld v a off m w cp | vst v a off m w cp => exact .of_vmem rfl rfl fun _ _ _ => rfl
  case wake a =>
    exact .of_rra 0 (fun mn a => if mn = 0 then some (.wake a) else none)
      rfl rfl (fun _ _ _ => rfl) (by decide) rfl
  case sfree a =>
    exact .of_rra 0 (fun mn a => if mn = 0 then some (.sfree a) else none)
      rfl rfl (fun _ _ _ => rfl) (by decide) rfl
  case cflushLine a =>
    exact .of_rra 0 (fun mn a => if mn = 0 then some (.cflushLine a) else if mn = 1 then some (.cflushAll a) else none)
      rfl rfl (fun _ _ _ => rfl) (by decide) rfl
  case cflushAll a =>
    exact .of_rra 1 (fun mn a => if mn = 0 then some (.cflushLine a) else if mn = 1 then some (.cflushAll a) else none)
      rfl rfl (fun _ _ _ => rfl) (by decide) rfl
  case cinvLine a =>
    exact .of_rra 0 (fun mn a => if mn = 0 then some (.cinvLine a) else if mn = 1 then some (.cinvIline a) else if mn = 2 then some (.cinvAll a) else none)
      rfl rfl (fun _ _ _ => rfl) (by decide) rfl
  case cinvIline a =>
    exact .of_rra 1 (fun mn a => if mn = 0 then some (.cinvLine a) else if mn = 1 then some (.cinvIline a) else if mn = 2 then some (.cinvAll a) else none)
      rfl rfl (fun _ _ _ => rfl) (by decide) rfl
  case cinvAll a =>
    exact .of_rra 2 (fun mn a => if mn = 0 then some (.cinvLine a) else if mn = 1 then some (.cinvIline a) else if mn = 2 then some (.cinvAll a) else none)
      rfl rfl (fun _ _ _ => rfl) (by decide) rfl
  case touchRd a =>
    exact .of_rra 0 (fun mn a => if mn = 0 then some (.touchRd a) else if mn = 1 then some (.touchWr a) else none)
      rfl rfl (fun _ _ _ => rfl) (by decide) rfl
  case touchWr a =>
    exact .of_rra 1 (fun mn a => if mn = 0 then some (.touchRd a) else if mn = 1 then some (.touchWr a) else none)
      rfl rfl (fun _ _ _ => rfl) (by decide) rfl
  case dec a =>
    exact .of_rra 0 (fun mn a => if mn = 0 then some (.dec a) else none)
      rfl rfl (fun _ _ _ => rfl) (by decide) rfl
  case ltab a =>
    exact .of_rra 0 (fun mn a => if mn = 0 then some (.ltab a) else none)
      rfl rfl (fun _ _ _ => rfl) (by decide) rfl
  case gang a =>
    exact .of_rra 0 (fun mn a => if mn = 0 then some (.gang a) else none)
      rfl rfl (fun _ _ _ => rfl) (by decide) rfl
  case li d imm =>
    exact .of_row (fun tl d t => if tl = 3 then some (.li (r6 d) (BitVec.ofNat 48 t)) else none) rfl rfl (fun _ _ _ => rfl)
      (by simp)
  case lih d a imm =>
    exact .of_row (fun tl d t =>
      if tl = 3 ∧ bitsAt t 16 26 = 0 then
      some (.lih (r6 d) (r6 (bitsAt t 42 6)) (BitVec.ofNat 16 (bitsAt t 0 16))) else none) rfl rfl (fun _ _ _ => rfl)
      (by
        obtain ⟨ha, h0, hi⟩ := bitsAt_tL a.isLt imm.isLt
        simp [ha, h0, hi])
  case addpc d imm =>
    exact .of_row (fun tl d t => if bitsAt t 26 6 = 0 then inRI tl d t fun d _ imm => .addpc d imm else none) rfl rfl (fun _ _ _ => rfl)
      ((if_pos (bitsAt_tRI (by decide) (by decide) imm.isLt).1).trans (inRI_imm d 0 imm _))
  case br off idx =>
    exact .of_row (fun tl d t =>
      inBoth tl d t (fun d a off idx => if d = 0 ∧ a = 0 then some (.br off idx) else none)
      (fun d a off idx => if d = 0 ∧ a = 0 then some (.brLong off idx) else none)) rfl rfl (fun _ _ _ => rfl)
      (inBoth_tB 0 0 _ _ off idx)
  case brLong off idx =>
    exact .of_row (fun tl d t =>
      inBoth tl d t (fun d a off idx => if d = 0 ∧ a = 0 then some (.br off idx) else none)
      (fun d a off idx => if d = 0 ∧ a = 0 then some (.brLong off idx) else none)) rfl rfl (fun _ _ _ => rfl)
      (inBoth_tBL 0 0 _ _ off idx)
  case bz a off idx =>
    exact .of_row (fun tl d t =>
      inBoth tl d t (fun d a off idx => d0 d (.bz a off idx)) (fun d a off idx => d0 d (.bzLong a off idx))) rfl rfl (fun _ _ _ => rfl)
      (inBoth_tB 0 a _ _ off idx)
  case bzLong a off idx =>
    exact .of_row (fun tl d t =>
      inBoth tl d t (fun d a off idx => d0 d (.bz a off idx)) (fun d a off idx => d0 d (.bzLong a off idx))) rfl rfl (fun _ _ _ => rfl)
      (inBoth_tBL 0 a _ _ off idx)
  case bnz a off idx =>
    exact .of_row (fun tl d t =>
      inBoth tl d t (fun d a off idx => d0 d (.bnz a off idx)) (fun d a off idx => d0 d (.bnzLong a off idx))) rfl rfl (fun _ _ _ => rfl)
      (inBoth_tB 0 a _ _ off idx)
  case bnzLong a off idx =>
    exact .of_row (fun tl d t =>
      inBoth tl d t (fun d a off idx => d0 d (.bnz a off idx)) (fun d a off idx => d0 d (.bnzLong a off idx))) rfl rfl (fun _ _ _ => rfl)
      (inBoth_tBL 0 a _ _ off idx)
  case call d off idx =>
    exact .of_row (fun tl d t =>
      inBoth tl d t (fun d a off idx => d0 a (.call d off idx)) (fun d a off idx => d0 a (.callLong d off idx)))
      rfl rfl (fun _ _ _ => rfl)
      (inBoth_tB d 0 _ _ off idx)
  case callLong d off idx =>
    exact .of_row (fun tl d t =>
      inBoth tl d t (fun d a off idx => d0 a (.call d off idx)) (fun d a off idx => d0 a (.callLong d off idx)))
      rfl rfl (fun _ _ _ => rfl)
      (inBoth_tBL d 0 _ _ off idx)
  case loop d off idx =>
    exact .of_row (fun tl d t =>
      inBoth tl d t (fun d a off idx => d0 a (.loop d off idx)) (fun d a off idx => d0 a (.loopLong d off idx)))
      rfl rfl (fun _ _ _ => rfl)
      (inBoth_tB d 0 _ _ off idx)
  case loopLong d off idx =>
    exact .of_row (fun tl d t =>
      inBoth tl d t (fun d a off idx => d0 a (.loop d off idx)) (fun d a off idx => d0 a (.loopLong d off idx)))
      rfl rfl (fun _ _ _ => rfl)
      (inBoth_tBL d 0 _ _ off idx)
  case sel d a b c =>
    exact .of_row (fun tl d t => inRRR tl d t fun d a b c x mn => if x = 0 ∧ mn = 0 then some (.sel d a b c) else none)
      rfl rfl (fun _ _ _ => rfl)
      (.trans (inRRR_tRRR d.toNat a b c (by decide) (by decide) _) (by simp))
  case wid d n =>
    exact .of_row (fun tl d t => inSel tl d t fun mn d imm => if mn = 0 then some (.wid d (BitVec.ofNat 22 imm)) else none)
      rfl rfl (fun _ _ _ => rfl)
      (.trans (inSel_tRI d.toNat (by decide) n.isLt _) (by simp))
  case qlen d n =>
    exact .of_row (fun tl d t => inSel tl d t fun mn d imm => if mn = 0 then some (.qlen d (BitVec.ofNat 22 imm)) else none)
      rfl rfl (fun _ _ _ => rfl)
      (.trans (inSel_tRI d.toNat (by decide) n.isLt _) (by simp))
  case timeLoc d =>
    exact .of_row (fun tl d t =>
      inSel tl d t fun mn d imm =>
      if imm = 0 ∧ mn = 0 then some (.timeLoc d) else if imm = 0 ∧ mn = 1 then some (.timeGlob d) else none) rfl rfl (fun _ _ _ => rfl)
      (.trans (inSel_tRI d.toNat (by decide) (by decide) _) (by simp))
  case timeGlob d =>
    exact .of_row (fun tl d t =>
      inSel tl d t fun mn d imm =>
      if imm = 0 ∧ mn = 0 then some (.timeLoc d) else if imm = 0 ∧ mn = 1 then some (.timeGlob d) else none) rfl rfl (fun _ _ _ => rfl)
      (.trans (inSel_tRI d.toNat (by decide) (by decide) _) (by simp))
  case getid s d =>
    exact .of_row (fun tl d t => inSel tl d t fun mn d imm => do
      let s ← IdSel.ofCode mn
      if imm = 0 then some (.getid s d) else none) rfl rfl (fun _ _ _ => rfl)
      (.trans (inSel_tRI d.toNat (Nat.lt_of_lt_of_le (idSel_code_lt s) (by decide)) (by decide) _) (by simp))
  case geom s d =>
    exact .of_row (fun tl d t => inSel tl d t fun mn d imm => do
      let s ← GeomSel.ofCode mn
      if imm = 0 then some (.geom s d) else none) rfl rfl (fun _ _ _ => rfl)
      (.trans (inSel_tRI d.toNat (Nat.lt_of_lt_of_le (geomSel_code_lt s) (by decide)) (by decide) _) (by simp))
  case allow s d =>
    exact .of_row (fun tl d t => inSel tl d t fun mn d imm => do
      let s ← AllowSel.ofCode mn
      if imm = 0 then some (.allow s d) else none) rfl rfl (fun _ _ _ => rfl)
      (.trans (inSel_tRI d.toNat (Nat.lt_of_lt_of_le (allowSel_code_lt s) (by decide)) (by decide) _) (by simp))
  case cpyst s d =>
    exact .of_row (fun tl d t => inSel tl d t fun mn d imm => do
      let s ← CpySel.ofCode mn
      if imm = 0 then some (.cpyst s d) else none) rfl rfl (fun _ _ _ => rfl)
      (.trans (inSel_tRI d.toNat (Nat.lt_of_lt_of_le (cpySel_code_lt s) (by decide)) (by decide) _) (by simp))
  case msgst s d =>
    exact .of_row (fun tl d t => inSel tl d t fun mn d imm => do
      let s ← MsgSel.ofCode mn
      if imm = 0 then some (.msgst s d) else none) rfl rfl (fun _ _ _ => rfl)
      (.trans (inSel_tRI d.toNat (Nat.lt_of_lt_of_le (msgSel_code_lt s) (by decide)) (by decide) _) (by simp))
  case domain s d n =>
    exact .of_row (fun tl d t => inSel tl d t fun mn d imm => do
      let s ← DomSel.ofCode mn
      some (.domain s d (BitVec.ofNat 22 imm))) rfl rfl (fun _ _ _ => rfl)
      (.trans (inSel_tRI d.toNat (Nat.lt_of_lt_of_le (domSel_code_lt s) (by decide)) n.isLt _) (by simp))
  case rdsr d sr =>
    exact .of_row (fun tl d t =>
      if bitsAt t 12 10 = 0 then inSel tl d t (fun mn d imm => if mn = 0 then some (.rdsr d (BitVec.ofNat 12 imm)) else none) else none)
      rfl rfl (fun _ _ _ => rfl)
      ((if_pos (bitsAt_tRI_above.2.1 sr.isLt)).trans (.trans (inSel_tRI d.toNat (by decide) (Nat.lt_of_lt_of_le sr.isLt (by decide)) _)
        (by simp)))
  case wrsr sr a =>
    exact .of_row (fun tl d t =>
      if bitsAt t 12 10 = 0 ∧ d = 0 then inRI tl d t fun _ a imm => .wrsr (BitVec.ofNat 12 imm.toNat) a else none)
      rfl rfl (fun _ _ _ => rfl)
      ((if_pos ⟨bitsAt_tRI_above.2.1 sr.isLt, rfl⟩).trans (.trans (inRI_tRI 0 a (Nat.lt_of_lt_of_le sr.isLt (by decide)) _)
        (by simp [ofNat_toNat_mod])))
  case swsr d sr a =>
    exact .of_row (fun tl d t =>
      if bitsAt t 12 10 = 0 then inRI tl d t fun d a imm => .swsr d (BitVec.ofNat 12 imm.toNat) a else none) rfl rfl (fun _ _ _ => rfl)
      ((if_pos (bitsAt_tRI_above.2.1 sr.isLt)).trans (.trans (inRI_tRI d a (Nat.lt_of_lt_of_le sr.isLt (by decide)) _)
        (by simp [ofNat_toNat_mod])))
  case qmap q w r =>
    exact .of_row (fun tl d t =>
      if d < 4 ∧ bitsAt t 6 16 = 0 then inSel tl d t fun mn _ imm =>
      if mn = 0 then some (.qmap (BitVec.ofNat 2 d) (r3 imm) (r3 (imm / 8))) else none
      else none) rfl rfl (fun _ _ _ => rfl)
      (by
        obtain ⟨hlt, hw, hr⟩ := qmap_fields w r
        rw [if_pos ⟨q.isLt, bitsAt_tRI_above.1 hlt⟩, inSel_tRI _ (by decide) (by omega)]
        simp [hw, hr])
  case qclear q =>
    exact .of_row (fun tl d t => if tl = 0 ∧ d < 4 then some (.qclear (BitVec.ofNat 2 d)) else none) rfl rfl (fun _ _ _ => rfl)
      (by simp [q.isLt])
  case waitaddr d a b off w =>
    exact .of_row (fun tl d t =>
      inM tl d t fun d a b w sz cp off => if sz = .w ∧ cp = .n then some (.waitaddr d a b off w) else none) rfl rfl (fun _ _ _ => rfl)
      (.trans (inM_tM d a b w .w .n off _) (by simp))
  case ld d a off sz w cp =>
    exact .of_row (fun tl d t => inM tl d t fun d a b w sz cp off => d0 b (.ld d a off sz w cp)) rfl rfl (fun _ _ _ => rfl)
      (inM_tM d a 0 w sz cp off _)
  case lds d a off sz w cp =>
    exact .of_row (fun tl d t => inM tl d t fun d a b w sz cp off => d0 b (.lds d a off sz w cp)) rfl rfl (fun _ _ _ => rfl)
      (inM_tM d a 0 w sz cp off _)
  case st a b off sz w cp =>
    exact .of_row (fun tl d t => inM tl d t fun d a b w sz cp off => d0 d (.st a b off sz w cp)) rfl rfl (fun _ _ _ => rfl)
      (inM_tM 0 a b w sz cp off _)
  case ldg d a b off sz w cp =>
    exact .of_row (fun tl d t => inM tl d t fun d a b w sz cp off => some (.ldg d a b off sz w cp)) rfl rfl (fun _ _ _ => rfl)
      (inM_tM d a b w sz cp off _)
  case stg d a b off sz w cp =>
    exact .of_row (fun tl d t => inM tl d t fun d a b w sz cp off => some (.stg d a b off sz w cp)) rfl rfl (fun _ _ _ => rfl)
      (inM_tM d a b w sz cp off _)
  case pref a off cp =>
    exact .of_row (fun tl d t =>
      inM tl d t fun d a b w sz cp off =>
      if d = 0 ∧ b = 0 ∧ w = 0 ∧ sz = .w then some (.pref a off cp) else none) rfl rfl (fun _ _ _ => rfl)
      (.trans (inM_tM 0 a 0 0 .w cp off _) (by simp))
  case lde d a off w cp =>
    exact .of_row (fun tl d t =>
      inM tl d t fun d a b w sz cp off => if sz = .w ∧ b = 0 then some (.lde d a off w cp) else none) rfl rfl (fun _ _ _ => rfl)
      (.trans (inM_tM d a 0 w .w cp off _) (by simp))
  case stf a b off w cp =>
    exact .of_row (fun tl d t =>
      inM tl d t fun d a b w sz cp off => if sz = .w ∧ d = 0 then some (.stf a b off w cp) else none) rfl rfl (fun _ _ _ => rfl)
      (.trans (inM_tM 0 a b w .w cp off _) (by simp))
  case lda d a sz sc =>
    exact .of_row (fun tl d t => inRRR tl d t fun d a b c x mn => do
      let sc ← Scope.ofCode x
      let sz ← Size.ofCode mn
      if b = 0 ∧ c = 0 then some (.lda d a sz sc) else none) rfl rfl (fun _ _ _ => rfl)
      (.trans (inRRR_tRRR d.toNat a 0 0 (Nat.lt_of_lt_of_le (scope_code_lt sc) (by decide)) (Nat.lt_of_lt_of_le (size_code_lt sz) (by decide)) _)
        (by simp))
  case stl a b sz sc =>
    exact .of_row (fun tl d t => inRRR tl d t fun d a b c x mn => do
      let sc ← Scope.ofCode x
      let sz ← Size.ofCode mn
      if d = 0 ∧ c = 0 then some (.stl a b sz sc) else none) rfl rfl (fun _ _ _ => rfl)
      (.trans (inRRR_tRRR (0 : Reg).toNat a b 0 (Nat.lt_of_lt_of_le (scope_code_lt sc) (by decide)) (Nat.lt_of_lt_of_le (size_code_lt sz) (by decide)) _)
        (by simp))
  case fence sc =>
    exact .of_row (fun tl d t => if tl = 0 then do
      let sc ← Scope.ofCode d
      some (.fence sc)
    else none) rfl rfl (fun _ _ _ => rfl)
      (by simp)
  case waitc l s c t =>
    exact .of_row (fun tl d t =>
      if d = 0 ∧ bitsAt t 16 6 = 0 then inSel tl d t fun mn _ imm =>
      if mn = 0 then some (.waitc (BitVec.ofNat 4 imm) (BitVec.ofNat 4 (imm / 16)) (BitVec.ofNat 4 (imm / 256))
      (BitVec.ofNat 4 (imm / 4096))) else none
      else none) rfl rfl (fun _ _ _ => rfl)
      (by
        obtain ⟨hlt, hl, hs, hc, ht⟩ := waitc_fields l s c t
        rw [if_pos ⟨rfl, bitsAt_tRI_above.2.2.2 hlt⟩, inSel_tRI _ (by decide) (by omega)]
        simp [hl, hs, hc, ht])
  case feinitEmpty a b =>
    exact .of_row (fun tl d t =>
      inRRR tl d t fun d a b c x mn =>
      if d = 0 ∧ c = 0 ∧ mn = 0 ∧ x = 0 then some (.feinitEmpty a b)
      else if d = 0 ∧ c = 0 ∧ mn = 0 ∧ x = 1 then some (.feinitFull a b) else none) rfl rfl (fun _ _ _ => rfl)
      (inRRR_tRRR (0 : Reg).toNat a b 0 (by decide) (by decide) _)
  case feinitFull a b =>
    exact .of_row (fun tl d t =>
      inRRR tl d t fun d a b c x mn =>
      if d = 0 ∧ c = 0 ∧ mn = 0 ∧ x = 0 then some (.feinitEmpty a b)
      else if d = 0 ∧ c = 0 ∧ mn = 0 ∧ x = 1 then some (.feinitFull a b) else none) rfl rfl (fun _ _ _ => rfl)
      (inRRR_tRRR (0 : Reg).toNat a b 0 (by decide) (by decide) _)
  case wload a b =>
    exact .of_row (fun tl d t =>
      inRRR tl d t fun d a b c x mn =>
      if d = 0 ∧ c = 0 ∧ x = 0 ∧ mn = 0 then some (.wload a b)
      else if d = 0 ∧ c = 0 ∧ x = 0 ∧ mn = 1 then some (.wloadSc a b) else none) rfl rfl (fun _ _ _ => rfl)
      (inRRR_tRRR (0 : Reg).toNat a b 0 (by decide) (by decide) _)
  case wloadSc a b =>
    exact .of_row (fun tl d t =>
      inRRR tl d t fun d a b c x mn =>
      if d = 0 ∧ c = 0 ∧ x = 0 ∧ mn = 0 then some (.wload a b)
      else if d = 0 ∧ c = 0 ∧ x = 0 ∧ mn = 1 then some (.wloadSc a b) else none) rfl rfl (fun _ _ _ => rfl)
      (inRRR_tRRR (0 : Reg).toNat a b 0 (by decide) (by decide) _)
  case amo d a b op wide mo sc =>
    exact .of_row (fun tl d t => inRRR tl d t fun d a b c x mn => do
      let sc ← Scope.ofCode x
      let op ← AmoOp.ofCode (bitsAt mn 0 4)
      let mo ← MOrd.ofCode (bitsAt mn 6 2)
      if c = 0 ∧ bitsAt mn 5 1 = 1 ∧ bitsAt mn 8 2 = 0 then some (.amo d a b op (bitsAt mn 4 1 == 1) mo sc) else none)
      rfl rfl (fun _ _ _ => rfl)
      (by
        obtain ⟨hop, hw, h5, hmo, h8, hlt⟩ := bitsAt_amoMinor (amoOp_code_lt op) wide mo
        exact (inRRR_tRRR d.toNat a b 0 (Nat.lt_of_lt_of_le (scope_code_lt sc) (by decide)) hlt _).trans (by simp [hop, hw, h5, hmo, h8]))
  case red a b op wide mo sc =>
    exact .of_row (fun tl d t => inRRR tl d t fun d a b c x mn => do
      let sc ← Scope.ofCode x
      let op ← AmoOp.ofCode (bitsAt mn 0 4)
      let mo ← MOrd.ofCode (bitsAt mn 6 2)
      if d = 0 ∧ c = 0 ∧ bitsAt mn 5 1 = 1 ∧ bitsAt mn 8 2 = 0 then some (.red a b op (bitsAt mn 4 1 == 1) mo sc)
      else none) rfl rfl (fun _ _ _ => rfl)
      (by
        obtain ⟨hop, hw, h5, hmo, h8, hlt⟩ := bitsAt_amoMinor (amoOp_code_lt op) wide mo
        exact (inRRR_tRRR (0 : Reg).toNat a b 0 (Nat.lt_of_lt_of_le (scope_code_lt sc) (by decide)) hlt _).trans (by simp [hop, hw, h5, hmo, h8]))
  case cas d a b c wide mo sc =>
    exact .of_row (fun tl d t => inRRR tl d t fun d a b c x mn => do
      let sc ← Scope.ofCode x
      let mo ← MOrd.ofCode (bitsAt mn 6 2)
      if bitsAt mn 0 4 = 0 ∧ bitsAt mn 5 1 = 1 ∧ bitsAt mn 8 2 = 0 then some (.cas d a b c (bitsAt mn 4 1 == 1) mo sc)
      else none) rfl rfl (fun _ _ _ => rfl)
      (by
        obtain ⟨hop, hw, h5, hmo, h8, hlt⟩ := bitsAt_amoMinor (op := 0) (by decide) wide mo
        exact (inRRR_tRRR d.toNat a b c (Nat.lt_of_lt_of_le (scope_code_lt sc) (by decide)) hlt _).trans (by simp [hop, hw, h5, hmo, h8]))
  case cas2 d a b c mo sc =>
    exact .of_row (fun tl d t => inRRR tl d t fun d a b c x mn => do
      let sc ← Scope.ofCode x
      let mo ← MOrd.ofCode (bitsAt mn 6 2)
      if bitsAt mn 0 6 = 0 ∧ bitsAt mn 8 2 = 0 then some (.cas2 d a b c mo sc) else none) rfl rfl (fun _ _ _ => rfl)
      (by
        obtain ⟨h0, hmo, h8, hlt⟩ := bitsAt_cas2Minor mo
        exact (inRRR_tRRR d.toNat a b c (Nat.lt_of_lt_of_le (scope_code_lt sc) (by decide)) hlt _).trans (by simp [h0, hmo, h8]))
  case placeSet imm =>
    exact .of_row (fun tl d t =>
      if tl = 2 then
      (if bitsAt t 22 4 = 0 ∧ d = 0 ∧ bitsAt t 26 6 = 0 then some (.placeSet (BitVec.ofNat 22 (bitsAt t 0 22)))
      else if bitsAt t 22 4 = 1 ∧ bitsAt t 26 6 = 0 ∧ bitsAt t 0 22 = 0 then some (.placeGet (r6 d))
      else if bitsAt t 22 4 = 2 ∧ d = 0 ∧ bitsAt t 0 22 = 0 then some (.placeClr (r6 (bitsAt t 26 6)))
      else none)
      else none) rfl rfl (fun _ _ _ => rfl)
      (by
        obtain ⟨ha, hm, hi⟩ := bitsAt_tRI (a := 0) (m := 0) (by decide) (by decide) imm.isLt
        simp [ha, hm, hi])
  case placeGet d =>
    exact .of_row (fun tl d t =>
      if tl = 2 then
      (if bitsAt t 22 4 = 0 ∧ d = 0 ∧ bitsAt t 26 6 = 0 then some (.placeSet (BitVec.ofNat 22 (bitsAt t 0 22)))
      else if bitsAt t 22 4 = 1 ∧ bitsAt t 26 6 = 0 ∧ bitsAt t 0 22 = 0 then some (.placeGet (r6 d))
      else if bitsAt t 22 4 = 2 ∧ d = 0 ∧ bitsAt t 0 22 = 0 then some (.placeClr (r6 (bitsAt t 26 6)))
      else none)
      else none) rfl rfl (fun _ _ _ => rfl)
      (by
        obtain ⟨ha, hm, hi⟩ := bitsAt_tRI (a := 0) (m := 1) (imm := 0) (by decide) (by decide) (by decide)
        simp [ha, hm, hi])
  case placeClr a =>
    exact .of_row (fun tl d t =>
      if tl = 2 then
      (if bitsAt t 22 4 = 0 ∧ d = 0 ∧ bitsAt t 26 6 = 0 then some (.placeSet (BitVec.ofNat 22 (bitsAt t 0 22)))
      else if bitsAt t 22 4 = 1 ∧ bitsAt t 26 6 = 0 ∧ bitsAt t 0 22 = 0 then some (.placeGet (r6 d))
      else if bitsAt t 22 4 = 2 ∧ d = 0 ∧ bitsAt t 0 22 = 0 then some (.placeClr (r6 (bitsAt t 26 6)))
      else none)
      else none) rfl rfl (fun _ _ _ => rfl)
      (by
        obtain ⟨ha, hm, hi⟩ := bitsAt_tRI (m := 2) (imm := 0) a.isLt (by decide) (by decide)
        simp [ha, hm, hi])
  case arrive g =>
    exact .of_row (fun tl d t => in0 tl d fun _ => if d < 32 then some (.arrive (r5 d)) else none) rfl rfl (fun _ _ _ => rfl)
      (by simp [in0, g.isLt])
  case waitb g =>
    exact .of_row (fun tl d t => in0 tl d fun _ => if d < 32 then some (.waitb (r5 d)) else none) rfl rfl (fun _ _ _ => rfl)
      (by simp [in0, g.isLt])
  case barset g a =>
    exact .of_row (fun tl d t => if d < 32 then inRR2 tl d t fun _ a => .barset (r5 d) a else none) rfl rfl (fun _ _ _ => rfl)
      ((if_pos g.isLt).trans ((inRR2_tRR g.toNat a _).trans (by simp)))
  case chpop k d a b imm =>
    exact .of_row (fun tl d t => inCh tl d t fun k d a b imm => some (.chpop k d a b imm)) rfl rfl (fun _ _ _ => rfl)
      (.trans (inCh_tRRR k d a b imm _) (by simp))
  case choffer k d a b imm =>
    exact .of_row (fun tl d t => inCh tl d t fun k d a b imm => some (.choffer k d a b imm)) rfl rfl (fun _ _ _ => rfl)
      (.trans (inCh_tRRR k d a b imm _) (by simp))
  case chtake k d a b imm =>
    exact .of_row (fun tl d t => inCh tl d t fun k d a b imm => some (.chtake k d a b imm)) rfl rfl (fun _ _ _ => rfl)
      (.trans (inCh_tRRR k d a b imm _) (by simp))
  case chpeek k d a b imm =>
    exact .of_row (fun tl d t => inCh tl d t fun k d a b imm => some (.chpeek k d a b imm)) rfl rfl (fun _ _ _ => rfl)
      (.trans (inCh_tRRR k d a b imm _) (by simp))
  case chpush k a b imm =>
    exact .of_row (fun tl d t => inCh tl d t fun k d a b imm => d0 d (.chpush k a b imm)) rfl rfl (fun _ _ _ => rfl)
      (.trans (inCh_tRRR k 0 a b imm _) (by simp [d0]))
  case chlen d a imm =>
    exact .of_row (fun tl d t =>
      inRRR tl d t fun d a b c x mn => if b = 0 ∧ c = 0 ∧ x = 0 then some (.chlen d a (BitVec.ofNat 10 mn)) else none)
      rfl rfl (fun _ _ _ => rfl)
      (.trans (inRRR_tRRR d.toNat a 0 0 (by decide) imm.isLt _) (by simp))
  case chclose a imm =>
    exact .of_row (fun tl d t =>
      inRRR tl d t fun d a b c x mn =>
      if d = 0 ∧ b = 0 ∧ c = 0 ∧ x = 0 then some (.chclose a (BitVec.ofNat 10 mn)) else none) rfl rfl (fun _ _ _ => rfl)
      (.trans (inRRR_tRRR (0 : Reg).toNat a 0 0 (by decide) imm.isLt _) (by simp))
  case chinv a imm =>
    exact .of_row (fun tl d t =>
      inRRR tl d t fun d a b c x mn =>
      if d = 0 ∧ b = 0 ∧ c = 0 ∧ x = 0 then some (.chinv a (BitVec.ofNat 10 mn)) else none) rfl rfl (fun _ _ _ => rfl)
      (.trans (inRRR_tRRR (0 : Reg).toNat a 0 0 (by decide) imm.isLt _) (by simp))
  case msend k d a b c len =>
    exact .of_row (fun tl d t => inRRR tl d t fun d a b c x mn => do
      let k ← ElemKind.ofCode x
      some (.msend k d a b c (BitVec.ofNat 10 mn))) rfl rfl (fun _ _ _ => rfl)
      (.trans (inRRR_tRRR d.toNat a b c (Nat.lt_of_lt_of_le (elemKind_code_lt k) (by decide)) len.isLt _) (by simp))
  case mrecv k d b len =>
    exact .of_row (fun tl d t => inRRR tl d t fun d a b c x mn => do
      let k ← ElemKind.ofCode x
      if a = 0 ∧ c = 0 then some (.mrecv k d b (BitVec.ofNat 10 mn)) else none) rfl rfl (fun _ _ _ => rfl)
      (.trans (inRRR_tRRR d.toNat 0 b 0 (Nat.lt_of_lt_of_le (elemKind_code_lt k) (by decide)) len.isLt _) (by simp))
  case cpyq d a | cpyres d a => exact .of_copy rfl rfl fun _ _ _ => rfl
  case cpyqNb d a | cpyresNb d a => exact .of_copyNb rfl rfl fun _ _ _ => rfl
  case vlds v a b m off =>
    exact .of_row (fun tl d t =>
      inRRR tl d t fun _ a b c x mn =>
      if d < 32 ∧ c = 0 ∧ x < 8 then some (.vlds (r5 d) a b (r3 x) (BitVec.ofNat 10 mn)) else none) rfl rfl (fun _ _ _ => rfl)
      (.trans (inRRR_vec v a b m off.isLt _) (by simp [v.isLt, m.isLt]))
  case vsts v a b m off =>
    exact .of_row (fun tl d t =>
      inRRR tl d t fun _ a b c x mn =>
      if d < 32 ∧ c = 0 ∧ x < 8 then some (.vsts (r5 d) a b (r3 x) (BitVec.ofNat 10 mn)) else none) rfl rfl (fun _ _ _ => rfl)
      (.trans (inRRR_vec v a b m off.isLt _) (by simp [v.isLt, m.isLt]))
  case vgath v a ix m sc =>
    exact .of_row (fun tl d t =>
      inRRR tl d t fun _ a b c x mn =>
      if d < 32 ∧ b.toNat < 32 ∧ c = 0 ∧ x < 8 ∧ mn < 4 then
      some (.vgath (r5 d) a (r5 b.toNat) (r3 x) (BitVec.ofNat 2 mn)) else none) rfl rfl (fun _ _ _ => rfl)
      (by
        have hix := toNat_r6_toNat ix (by decide)
        have hr := inRRR_vec v a (r6 ix.toNat) m (n := sc.toNat) (by have := sc.isLt; omega)
        rw [hix] at hr
        exact (hr _).trans (by simp [hix, v.isLt, ix.isLt, m.isLt, sc.isLt]))
  case vscat v a ix m sc =>
    exact .of_row (fun tl d t =>
      inRRR tl d t fun _ a b c x mn =>
      if d < 32 ∧ b.toNat < 32 ∧ c = 0 ∧ x < 8 ∧ mn < 4 then
      some (.vscat (r5 d) a (r5 b.toNat) (r3 x) (BitVec.ofNat 2 mn)) else none) rfl rfl (fun _ _ _ => rfl)
      (by
        have hix := toNat_r6_toNat ix (by decide)
        have hr := inRRR_vec v a (r6 ix.toNat) m (n := sc.toNat) (by have := sc.isLt; omega)
        rw [hix] at hr
        exact (hr _).trans (by simp [hix, v.isLt, ix.isLt, m.isLt, sc.isLt]))
  case viadd d a b m ty sat =>
    exact .of_row (fun tl d t =>
      inV tl d t fun vd a b c m ty mn => if c = 0 ∧ mn < 2 then some (.viadd vd a b m ty (mn == 1)) else none) rfl rfl (fun _ _ _ => rfl)
      (.trans (inV_tV d a b 0 m ty (Nat.lt_of_lt_of_le (bit_lt sat) (by decide)) _) (by simp))
  case visub d a b m ty sat =>
    exact .of_row (fun tl d t =>
      inV tl d t fun vd a b c m ty mn => if c = 0 ∧ mn < 2 then some (.visub vd a b m ty (mn == 1)) else none) rfl rfl (fun _ _ _ => rfl)
      (.trans (inV_tV d a b 0 m ty (Nat.lt_of_lt_of_le (bit_lt sat) (by decide)) _) (by simp))
  case vimad d a b c m ty sat =>
    exact .of_row (fun tl d t =>
      inV tl d t fun vd a b c m ty mn => if mn < 2 then some (.vimad vd a b c m ty (mn == 1)) else none) rfl rfl (fun _ _ _ => rfl)
      (.trans (inV_tV d a b c m ty (Nat.lt_of_lt_of_le (bit_lt sat) (by decide)) _) (by simp))
  case vimul d a b m ty sat hi =>
    exact .of_row (fun tl d t =>
      inV tl d t fun vd a b c m ty mn =>
      if c = 0 ∧ mn < 4 then some (.vimul vd a b m ty (bitsAt mn 0 1 == 1) (bitsAt mn 1 1 == 1)) else none) rfl rfl (fun _ _ _ => rfl)
      (by
        obtain ⟨hs, hh, hlt⟩ := bitsAt_vimulMinor sat hi
        exact (inV_tV d a b 0 m ty (by omega) _).trans (by simp [hs, hh, hlt]))
  case vscale d a b m ty r =>
    exact .of_row (fun tl d t => inV tl d t fun vd a b c m ty mn => do
      let r ← Rnd.ofCode mn
      if c = 0 then some (.vscale vd a b m ty r) else none) rfl rfl (fun _ _ _ => rfl)
      (.trans (inV_tV d a b 0 m ty (Nat.lt_of_lt_of_le (rnd_code_lt r) (by decide)) _) (by simp))
  case vcvt d a m fmt fr r =>
    exact .of_row (fun tl d t => inV tl d t fun vd a b c m ty mn => do
      let fmt ← NFmt.ofCode (bitsAt mn 0 3)
      let r ← Rnd.ofCode (bitsAt mn 4 3)
      if ty = .f32 ∧ b = 0 ∧ c = 0 ∧ bitsAt mn 7 3 = 0 then some (.vcvt vd a m fmt (bitsAt mn 3 1 == 1) r) else none)
      rfl rfl (fun _ _ _ => rfl)
      (by
        obtain ⟨hf, hb, hr, h7, hlt⟩ := bitsAt_cvtMinor fmt fr r
        exact (inV_tV d a 0 0 m .f32 hlt _).trans (by simp [hf, hb, hr, h7]))
  case vquant d a b m fmt r =>
    exact .of_row (fun tl d t => inV tl d t fun vd a b c m ty mn => do
      let fmt ← NFmt.ofCode (bitsAt mn 0 3)
      let r ← Rnd.ofCode (bitsAt mn 4 3)
      if ty = .f32 ∧ c = 0 ∧ bitsAt mn 3 1 = 0 ∧ bitsAt mn 7 3 = 0 then some (.vquant vd a b m fmt r) else none)
      rfl rfl (fun _ _ _ => rfl)
      (by
        obtain ⟨hf, hb, hr, h7, hlt⟩ := bitsAt_cvtMinor fmt false r
        rw [show bit false = 0 from rfl, Nat.mul_zero, Nat.add_zero] at hf hb hr h7 hlt
        exact (inV_tV d a b 0 m .f32 hlt _).trans (by simp [hf, hb, hr, h7]))
  case vcmp d a b m ty c =>
    exact .of_row (fun tl d t => if d < 8 then inV tl d t fun _ a b c m ty mn => do
      let cd ← Cond.ofCode mn
      if c = 0 then some (.vcmp (r3 d) a b m ty cd) else none
    else none) rfl rfl (fun _ _ _ => rfl)
      (by
        have hd : (r5 d.toNat).toNat = d.toNat := toNat_r5 (by have := d.isLt; omega)
        have hv := inV_tV (r5 d.toNat) a b 0 m ty (mn := c.code) (Nat.lt_of_lt_of_le (cond_code_lt c) (by decide))
        rw [hd] at hv
        exact (if_pos d.isLt).trans ((hv _).trans (by simp)))
  case vbcast d a m ty j =>
    exact .of_row (fun tl d t =>
      inV tl d t fun vd a b c m ty mn => if b = 0 ∧ c = 0 ∧ mn < 64 then some (.vbcast vd a m ty (r6 mn)) else none)
      rfl rfl (fun _ _ _ => rfl)
      (.trans (inV_tV d a 0 0 m ty (Nat.lt_of_lt_of_le j.isLt (by decide)) _) (by simp [j.isLt]))
  case viota d m ty =>
    exact .of_row (fun tl d t =>
      inV tl d t fun vd a b c m ty mn => if a = 0 ∧ b = 0 ∧ c = 0 ∧ mn = 0 then some (.viota vd m ty) else none)
      rfl rfl (fun _ _ _ => rfl)
      (.trans (inV_tV d 0 0 0 m ty (by decide) _) (by simp))
  case vsplat d a m ty =>
    exact .of_row (fun tl d t => if tl = 1 ∧ d < 32 ∧ bitsAt t 7 3 = 0 then do
      let ty ← VTy.ofCode (bitsAt t 0 4)
      some (.vsplat (r5 d) (r6 (bitsAt t 10 6)) (r3 (bitsAt t 4 3)) ty)
    else none) rfl rfl (fun _ _ _ => rfl)
      (by
        obtain ⟨ha, h7, hm, hty⟩ := bitsAt_splat a.isLt m.isLt (vTy_code_lt ty)
        simp [ha, h7, hm, hty, d.isLt])
  case vextr d v b wide =>
    exact .of_row (fun tl d t =>
      if tl = 1 ∧ bitsAt t 15 1 = 0 ∧ bitsAt t 1 3 = 0 then
      some (.vextr (r6 d) (r5 (bitsAt t 10 5)) (r6 (bitsAt t 4 6)) (bitsAt t 0 1 == 1)) else none) rfl rfl (fun _ _ _ => rfl)
      (by
        obtain ⟨-, hv, hb, h1, hw⟩ := bitsAt_lane (Nat.lt_of_lt_of_le v.isLt (by decide)) b.isLt (bit_lt wide)
        obtain ⟨hv, h15⟩ := hv v.isLt
        simp [hv, h15, hb, h1, hw])
  case vinsr v a b wide =>
    exact .of_row (fun tl d t =>
      if tl = 1 ∧ d < 32 ∧ bitsAt t 1 3 = 0 then
      some (.vinsr (r5 d) (r6 (bitsAt t 10 6)) (r6 (bitsAt t 4 6)) (bitsAt t 0 1 == 1)) else none) rfl rfl (fun _ _ _ => rfl)
      (by
        obtain ⟨ha, -, hb, h1, hw⟩ := bitsAt_lane a.isLt b.isLt (bit_lt wide)
        simp [ha, hb, h1, hw, v.isLt])
  case mand d a b =>
    exact .of_row (fun tl d t => if d < 8 then inMask tl d t fun _ a b => some (.mand (r3 d) a b) else none) rfl rfl (fun _ _ _ => rfl)
      ((if_pos d.isLt).trans ((inMask_tV d.toNat a b _).trans (by simp)))
  case mor d a b =>
    exact .of_row (fun tl d t => if d < 8 then inMask tl d t fun _ a b => some (.mor (r3 d) a b) else none) rfl rfl (fun _ _ _ => rfl)
      ((if_pos d.isLt).trans ((inMask_tV d.toNat a b _).trans (by simp)))
  case mxor d a b =>
    exact .of_row (fun tl d t => if d < 8 then inMask tl d t fun _ a b => some (.mxor (r3 d) a b) else none) rfl rfl (fun _ _ _ => rfl)
      ((if_pos d.isLt).trans ((inMask_tV d.toNat a b _).trans (by simp)))
  case mnot d a =>
    exact .of_row (fun tl d t =>
      if d < 8 then inMask tl d t fun _ a b => if b = 0 then some (.mnot (r3 d) a) else none else none) rfl rfl (fun _ _ _ => rfl)
      ((if_pos d.isLt).trans ((inMask_tV d.toNat a 0 _).trans (by simp)))
  case mpopc d a =>
    exact .of_row (fun tl d t => inMask tl d t fun d a b => if b = 0 then some (.mpopc d a) else none) rfl rfl (fun _ _ _ => rfl)
      (.trans (inMask_tV d.toNat a 0 _) (by simp))
  case mfirst d a =>
    exact .of_row (fun tl d t => inMask tl d t fun d a b => if b = 0 then some (.mfirst d a) else none) rfl rfl (fun _ _ _ => rfl)
      (.trans (inMask_tV d.toNat a 0 _) (by simp))
  case msetv d a =>
    exact .of_row (fun tl d t => if d < 8 then inRR2 tl d t fun _ a => .msetv (r3 d) a else none) rfl rfl (fun _ _ _ => rfl)
      ((if_pos d.isLt).trans ((inRR2_tRR d.toNat a _).trans (by simp)))
  case mgetv d a =>
    exact .of_row (fun tl d t => if bitsAt t 13 3 = 0 then inRR2 tl d t fun d a => .mgetv d (r3 a.toNat) else none)
      rfl rfl (fun _ _ _ => rfl)
      (by
        have ha := toNat_r6_toNat a (by decide)
        have hr := inRR2_reg d (r6 a.toNat) fun d a => Instr.mgetv d (r3 a.toNat)
        rw [ha] at hr
        exact (if_pos (bitsAt_maskInA a)).trans (hr.trans (by simp)))
  case mzero first count =>
    exact .of_row (fun tl d t =>
      if d = 0 ∧ bitsAt t 13 9 = 0 then inSel tl d t fun mn _ imm =>
      if mn = 0 then some (.mzero (r6 imm) (BitVec.ofNat 7 (imm / 64))) else none
      else none) rfl rfl (fun _ _ _ => rfl)
      (by
        obtain ⟨hlt, hf, hc⟩ := posLen_fields first count
        rw [if_pos ⟨rfl, bitsAt_tRI_above.2.2.1 hlt⟩, inSel_tRI _ (by decide) (by omega)]
        simp [hf, hc])
  case mdrain fmt r a b c =>
    exact .of_row (fun tl d t => inRRR tl d t fun d a b c x mn => do
      let fmt ← OFmt.ofCode x
      let r ← Rnd.ofCode (bitsAt mn 0 3)
      if d = 0 ∧ bitsAt mn 3 7 = 0 then some (.mdrain fmt r a b c)
      else if d = 0 ∧ bitsAt mn 3 7 = 1 ∧ a = 0 ∧ c = 0 then some (.mdrainPort fmt r b) else none) rfl rfl (fun _ _ _ => rfl)
      (by
        obtain ⟨⟨h0, h3⟩, -⟩ := bitsAt_drainMinor r
        exact (inRRR_tRRR (0 : Reg).toNat a b c (oFmt_code_lt fmt) (Nat.lt_of_lt_of_le (rnd_code_lt r) (by decide)) _).trans (by simp [h0, h3]))
  case mdrainPort fmt r b =>
    exact .of_row (fun tl d t => inRRR tl d t fun d a b c x mn => do
      let fmt ← OFmt.ofCode x
      let r ← Rnd.ofCode (bitsAt mn 0 3)
      if d = 0 ∧ bitsAt mn 3 7 = 0 then some (.mdrain fmt r a b c)
      else if d = 0 ∧ bitsAt mn 3 7 = 1 ∧ a = 0 ∧ c = 0 then some (.mdrainPort fmt r b) else none) rfl rfl (fun _ _ _ => rfl)
      (by
        obtain ⟨-, h0, h3, hlt⟩ := bitsAt_drainMinor r
        exact (inRRR_tRRR (0 : Reg).toNat 0 b 0 (oFmt_code_lt fmt) hlt _).trans (by simp [h0, h3]))
  case mread d g =>
    exact .of_row (fun tl d t =>
      if d < 32 then inSel tl d t fun mn _ imm => if mn = 0 then some (.mread (r5 d) (BitVec.ofNat 22 imm)) else none
      else none) rfl rfl (fun _ _ _ => rfl)
      ((if_pos d.isLt).trans (.trans (inSel_tRI d.toNat (by decide) g.isLt _) (by simp)))

/-- Every code has the widths of its head and its tail (Laws/PerInstr, instruction by instruction). -/
theorem Laws.Enc.code_fits : ∀ i : Instr, Statement i
  | .nop => nop | .illegalInstruction .. => illegalInstruction _ _ | .add .. => add _ _ _ | .sub .. => sub _ _ _
  | .addw .. => addw _ _ _ | .subw .. => subw _ _ _ | .mul .. => mul _ _ _ | .mulh .. => mulh _ _ _ | .mulhu .. => mulhu _ _ _
  | .mulw .. => mulw _ _ _ | .div .. => div _ _ _ | .divu .. => divu _ _ _ | .rem .. => rem _ _ _ | .remu .. => remu _ _ _
  | .and_ .. => and_ _ _ _ | .or_ .. => or_ _ _ _ | .xor .. => xor _ _ _ | .andn .. => andn _ _ _ | .orn .. => orn _ _ _
  | .shl .. => shl _ _ _ | .shr .. => shr _ _ _ | .sra .. => sra _ _ _ | .rotl .. => rotl _ _ _ | .rotr .. => rotr _ _ _
  | .clz .. => clz _ _ | .ctz .. => ctz _ _ | .popc .. => popc _ _ | .brev .. => brev _ _ | .bswap .. => bswap _ _
  | .min .. => min _ _ _ | .max .. => max _ _ _ | .minu .. => minu _ _ _ | .maxu .. => maxu _ _ _ | .seq .. => seq _ _ _
  | .sne .. => sne _ _ _ | .slt .. => slt _ _ _ | .sltu .. => sltu _ _ _ | .addi .. => addi _ _ _ | .andi .. => andi _ _ _
  | .ori .. => ori _ _ _ | .xori .. => xori _ _ _ | .slti .. => slti _ _ _ | .shli .. => shli _ _ _ | .shri .. => shri _ _ _
  | .srai .. => srai _ _ _ | .sel .. => sel _ _ _ _ | .ext .. => ext _ _ _ _ | .exts .. => exts _ _ _ _ | .ins .. => ins _ _ _ _
  | .li .. => li _ _ | .lih .. => lih _ _ _ | .mov .. => mov _ _ | .addpc .. => addpc _ _ | .br .. => br _ _ | .brLong .. => brLong _ _
  | .beq .. => beq _ _ _ _ | .bne .. => bne _ _ _ _ | .blt .. => blt _ _ _ _ | .bge .. => bge _ _ _ _ | .bltu .. => bltu _ _ _ _
  | .bgeu .. => bgeu _ _ _ _ | .bz .. => bz _ _ _ | .bzLong .. => bzLong _ _ _ | .bnz .. => bnz _ _ _ | .bnzLong .. => bnzLong _ _ _
  | .call .. => call _ _ _ | .callLong .. => callLong _ _ _ | .callr .. => callr _ _ | .ret .. => ret _ | .jr .. => jr _
  | .loop .. => loop _ _ _ | .loopLong .. => loopLong _ _ _ | .yield => yield | .tend => tend | .trap .. => trap _ | .eret => eret
  | .rdsr .. => rdsr _ _ | .wrsr .. => wrsr _ _ | .swsr .. => swsr _ _ _ | .getid .. => getid _ _ | .wid .. => wid _ _
  | .timeLoc .. => timeLoc _ | .timeGlob .. => timeGlob _ | .waitaddr .. => waitaddr _ _ _ _ _ | .wake .. => wake _
  | .wakeArrival .. => wakeArrival _ | .spill .. => spill _ _ _ | .restor .. => restor _ _ _ | .brk .. => brk _ | .baste => baste
  | .salloc .. => salloc _ _ _ | .sfree .. => sfree _ | .qmap .. => qmap _ _ _ | .qclear .. => qclear _ | .qlen .. => qlen _ _
  | .heldPushRetry .. => heldPushRetry _ | .asyncTrapEntry .. => asyncTrapEntry _ | .lineFetch .. => lineFetch _
  | .slotSpill .. => slotSpill _ | .spillComplete .. => spillComplete _ | .restoreComplete .. => restoreComplete _
  | .vadd .. => vadd _ _ _ _ _ | .vsub .. => vsub _ _ _ _ _ | .vmul .. => vmul _ _ _ _ _ | .vdiv .. => vdiv _ _ _ _ _
  | .vfma .. => vfma _ _ _ _ _ _ | .vfms .. => vfms _ _ _ _ _ _ | .vfnma .. => vfnma _ _ _ _ _ _ | .vmin .. => vmin _ _ _ _ _
  | .vmax .. => vmax _ _ _ _ _ | .vabs .. => vabs _ _ _ _ | .vneg .. => vneg _ _ _ _ | .vrcp .. => vrcp _ _ _ | .vrsq .. => vrsq _ _ _
  | .vexp2 .. => vexp2 _ _ _ | .vlog2 .. => vlog2 _ _ _ | .vsqrt .. => vsqrt _ _ _ | .vtanh .. => vtanh _ _ _
  | .vcvt .. => vcvt _ _ _ _ _ _ | .vquant .. => vquant _ _ _ _ _ _ | .vscale .. => vscale _ _ _ _ _ _ | .vcmp .. => vcmp _ _ _ _ _ _
  | .vsel .. => vsel _ _ _ _ _ | .viadd .. => viadd _ _ _ _ _ _ | .visub .. => visub _ _ _ _ _ _ | .vimul .. => vimul _ _ _ _ _ _ _
  | .vimad .. => vimad _ _ _ _ _ _ _ | .vand .. => vand _ _ _ _ _ | .vor .. => vor _ _ _ _ _ | .vxor .. => vxor _ _ _ _ _
  | .vshl .. => vshl _ _ _ _ _ | .vshr .. => vshr _ _ _ _ _ | .vsra .. => vsra _ _ _ _ _ | .vredadd .. => vredadd _ _ _ _ _
  | .vredmax .. => vredmax _ _ _ _ | .vredmin .. => vredmin _ _ _ _ | .vscanadd .. => vscanadd _ _ _ _ _ | .vperm .. => vperm _ _ _ _ _
  | .vbcast .. => vbcast _ _ _ _ _ | .vsplat .. => vsplat _ _ _ _ | .viota .. => viota _ _ _ | .vmov .. => vmov _ _ _ _
  | .vextr .. => vextr _ _ _ _ | .vinsr .. => vinsr _ _ _ _ | .vld .. => vld _ _ _ _ _ _ | .vst .. => vst _ _ _ _ _ _
  | .vlds .. => vlds _ _ _ _ _ | .vsts .. => vsts _ _ _ _ _ | .vgath .. => vgath _ _ _ _ _ | .vscat .. => vscat _ _ _ _ _
  | .mand .. => mand _ _ _ | .mor .. => mor _ _ _ | .mxor .. => mxor _ _ _ | .mnot .. => mnot _ _ | .mpopc .. => mpopc _ _
  | .mfirst .. => mfirst _ _ | .msetv .. => msetv _ _ | .mgetv .. => mgetv _ _ | .vdadd .. => vdadd _ _ _ _ _
  | .vdmul .. => vdmul _ _ _ _ _ | .vdfma .. => vdfma _ _ _ _ _ _ | .vclass .. => vclass _ _ _ _ | .vround .. => vround _ _ _ _ _
  | .vfcvti .. => vfcvti _ _ _ _ _ | .vicvtf .. => vicvtf _ _ _ _ _ | .vectorBeatStart .. => vectorBeatStart _ _
  | .vectorComplete .. => vectorComplete _ _ | .ld .. => ld _ _ _ _ _ _ | .lds .. => lds _ _ _ _ _ _ | .st .. => st _ _ _ _ _ _
  | .ldg .. => ldg _ _ _ _ _ _ _ | .stg .. => stg _ _ _ _ _ _ _ | .lda .. => lda _ _ _ _ | .stl .. => stl _ _ _ _
  | .pref .. => pref _ _ _ | .cflushLine .. => cflushLine _ | .cflushAll .. => cflushAll _ | .cinvLine .. => cinvLine _
  | .cinvIline .. => cinvIline _ | .cinvAll .. => cinvAll _ | .fence .. => fence _ | .waitc .. => waitc _ _ _ _
  | .lde .. => lde _ _ _ _ _ | .stf .. => stf _ _ _ _ _ | .ldePerform .. => ldePerform _ | .stfPerform .. => stfPerform _
  | .feinitEmpty .. => feinitEmpty _ _ | .feinitFull .. => feinitFull _ _ | .touchRd .. => touchRd _ | .touchWr .. => touchWr _
  | .amo .. => amo _ _ _ _ _ _ _ | .cas .. => cas _ _ _ _ _ _ _ | .cas2 .. => cas2 _ _ _ _ _ _ | .red .. => red _ _ _ _ _ _
  | .placeSet .. => placeSet _ | .placeGet .. => placeGet _ | .placeClr .. => placeClr _ | .loadResponse .. => loadResponse _
  | .storeAck .. => storeAck _ | .remoteAccessArrival .. => remoteAccessArrival _ | .remoteDenial .. => remoteDenial _
  | .homeStore .. => homeStore _ | .homeAtomic .. => homeAtomic _ | .pageMigration .. => pageMigration _ _ | .niAtomic .. => niAtomic _
  | .translationRequest .. => translationRequest _ | .stage2FaultReply .. => stage2FaultReply _ _ | .faultNotice .. => faultNotice _
  | .atsReply .. => atsReply _ _ | .freplyRetry .. => freplyRetry _ _ _ | .freplyFail .. => freplyFail _ _ _ _
  | .s1invPage .. => s1invPage _ _ _ | .s1invAll .. => s1invAll _ | .s1invComplete .. => s1invComplete _ | .arrive .. => arrive _
  | .waitb .. => waitb _ | .barset .. => barset _ _ | .barsetInstall .. => barsetInstall _ _ | .barrierRelease .. => barrierRelease _ _
  | .tbinit .. => tbinit _ _ | .tbexp .. => tbexp _ _ | .tbarr .. => tbarr _ _ | .tbwait .. => tbwait _ _ | .tbtest .. => tbtest _ _ _
  | .chpush .. => chpush _ _ _ _ | .chpop .. => chpop _ _ _ _ _ | .choffer .. => choffer _ _ _ _ _ | .chtake .. => chtake _ _ _ _ _
  | .chpeek .. => chpeek _ _ _ _ _ | .chlen .. => chlen _ _ _ | .chclose .. => chclose _ _ | .chinv .. => chinv _ _
  | .channelFill .. => channelFill _ _ | .channelPushAccept .. => channelPushAccept _ | .channelRefill .. => channelRefill _ _
  | .channelEviction .. => channelEviction _ _ | .channelRoomReport .. => channelRoomReport _ _
  | .channelCloseApply .. => channelCloseApply _ | .probeSend .. => probeSend _ | .probeArrival .. => probeArrival _
  | .probeExpiry .. => probeExpiry _ | .letoutRequest .. => letoutRequest _ | .spawn .. => spawn _ _ | .spawnAccept .. => spawnAccept _
  | .dec .. => dec _ | .depCellDecrement .. => depCellDecrement _ | .tset .. => tset _ _ | .domain .. => domain _ _ _
  | .allow .. => allow _ _ | .keyhome .. => keyhome _ _ | .split => split | .launch .. => launch _ _ _
  | .launchAccept .. => launchAccept _ | .pieceEnqueue .. => pieceEnqueue _ _ | .taskBind .. => taskBind _
  | .runListPromotion .. => runListPromotion _ _ _ | .readyRingPush .. => readyRingPush _ | .readyRecordPlace .. => readyRecordPlace _
  | .cycleAllowanceExhausted .. => cycleAllowanceExhausted _ | .effectDrainRecord .. => effectDrainRecord _ _ | .geom .. => geom _ _
  | .ltab .. => ltab _ | .ltabDone .. => ltabDone _ | .wload .. => wload _ _ | .wloadSc .. => wloadSc _ _
  | .wloadDone .. => wloadDone _ | .wswap => wswap | .gang .. => gang _ | .c28StreamCommand .. => c28StreamCommand _ _ _
  | .gangJoin .. => gangJoin _ | .gangRow .. => gangRow _ | .mzero .. => mzero _ _ | .mdrain .. => mdrain _ _ _ _ _
  | .mdrainPort .. => mdrainPort _ _ _ | .mdrainRowWrite .. => mdrainRowWrite _ | .mdrainHandlePush .. => mdrainHandlePush _
  | .c28HandlePop .. => c28HandlePop _ | .mread .. => mread _ _ | .sbtake .. => sbtake _ _
  | .scaleBlockDeliver .. => scaleBlockDeliver _ _ | .yokeHandback .. => yokeHandback _ _ | .cpyq .. => cpyq _ _
  | .cpyqNb .. => cpyqNb _ _ | .cpyst .. => cpyst _ _ | .cpyres .. => cpyres _ _ | .cpyresNb .. => cpyresNb _ _
  | .copyStart .. => copyStart _ | .copySectorLand .. => copySectorLand _ _ _ | .copyComplete .. => copyComplete _ _
  | .copyHandback .. => copyHandback _ _ | .c29RecordPop .. => c29RecordPop _ | .msend .. => msend _ _ _ _ _ _
  | .messageAccept .. => messageAccept _ | .messageAcknowledge .. => messageAcknowledge _ | .messageResend .. => messageResend _
  | .mrecv .. => mrecv _ _ _ _ | .c30MessagePop .. => c30MessagePop _ | .c31SendBlock .. => c31SendBlock _ _
  | .sendBlockRead .. => sendBlockRead _ | .mwait => mwait | .msgst .. => msgst _ _ | .ctrlOpenStream .. => ctrlOpenStream _
  | .ctrlCloseStream .. => ctrlCloseStream _ | .ctrlReadLink .. => ctrlReadLink _
  | .ctrlReadBandedLatency .. => ctrlReadBandedLatency _ | .ctrlReadEdgeUnit .. => ctrlReadEdgeUnit _
  | .ctrlRoutePeer .. => ctrlRoutePeer _ | .ctrlReservedCode .. => ctrlReservedCode _ | .bestEffortFlitHop .. => bestEffortFlitHop _ _
  | .streamFlitHop .. => streamFlitHop _ _ | .creditReturn .. => creditReturn _ | .stitchCrossing .. => stitchCrossing _ _
  | .packetBounce .. => packetBounce _ | .mapSwitch .. => mapSwitch _ | .linkRetrain .. => linkRetrain _ _
  | .burstSend .. => burstSend _ _ | .burstReceive .. => burstReceive _ _ _ _ _ | .burstAck .. => burstAck _ _
  | .burstResend .. => burstResend _ _ | .burstRefusal .. => burstRefusal _ _ | .panelReset => panelReset
  | .partitionCreate .. => partitionCreate _ | .svccoreWrite .. => svccoreWrite _ _ | .hostLaunch .. => hostLaunch _ _
  | .vfDoorbell .. => vfDoorbell _ _ | .hostRegisterWrite .. => hostRegisterWrite _ _ _ _ | .debugHalt .. => debugHalt _ _
  | .debugResume .. => debugResume _ _ | .debugBrkarm .. => debugBrkarm _ _ _ | .debugSlotStart .. => debugSlotStart _ _ _ _
  | .functionReset .. => functionReset _ | .keyLoad .. => keyLoad _ _ | .frameReassign .. => frameReassign _ _ _
  | .bastecfgEnable .. => bastecfgEnable _ _ | .bastecfgDisable .. => bastecfgDisable _
  | .basteIntervalExpiry .. => basteIntervalExpiry _ | .freeNoticeArrival .. => freeNoticeArrival _
  | .uncorrectableEccError .. => uncorrectableEccError _ _ | .pipelineParityError .. => pipelineParityError _ _
  | .routerHeartbeatLoss .. => routerHeartbeatLoss _ | .correctableEccError .. => correctableEccError _
  | .shareFillBlock .. => shareFillBlock _ _ | .bastedSlotResume .. => bastedSlotResume _
  | .reductionHoldExpiry .. => reductionHoldExpiry _ | .reductionPairExpiry .. => reductionPairExpiry _ _
  | .partitionResize .. => partitionResize _ _ _ _ _ | .watchdogExpiry .. => watchdogExpiry _
  | .droopAlarmRaise .. => droopAlarmRaise _ | .droopAlarmClear .. => droopAlarmClear _ | .freezeInput => freezeInput
  | .freezeCommand .. => freezeCommand _ | .contextSwap .. => contextSwap _ | .channelSpillPopReturn .. => channelSpillPopReturn _ _
  | .reinstateEntryAppend .. => reinstateEntryAppend _ _ _ _ | .stage2MappingChange .. => stage2MappingChange _ _ _ _ _
  | .wavelengthLockChange .. => wavelengthLockChange _ _ _ _

/-! ## The head (R45) -/

section
variable {c : Code} (h : c.Fits)
include h

theorem Code.Fits.head_lt : c.maj * 256 + c.tl * 64 + c.d < 2 ^ 16 := by
  obtain ⟨hmaj, htl, hd, -⟩ := h; omega

theorem Code.Fits.maj_of_head : (c.maj * 256 + c.tl * 64 + c.d) / 256 % 256 = c.maj := by
  obtain ⟨hmaj, htl, hd, -⟩ := h; omega

theorem Code.Fits.tl_of_head : (c.maj * 256 + c.tl * 64 + c.d) / 64 % 4 = c.tl := by
  obtain ⟨hmaj, htl, hd, -⟩ := h; omega

theorem Code.Fits.d_of_head : (c.maj * 256 + c.tl * 64 + c.d) % 64 = c.d := by
  obtain ⟨hmaj, htl, hd, -⟩ := h; omega

end

/-- A code that fits and is read as a well-formed instruction decodes to it. -/
theorem Code.Reads.decode {c : Code} {i : Instr} (hr : c.Reads i) (hf : c.Fits) (hwf : i.wf = true) :
    Sys2Proof.decode (c.maj * 256 + c.tl * 64 + c.d) c.tail = .ok i := by
  obtain ⟨hm, hraw⟩ := hr
  simp [Sys2Proof.decode, hf.maj_of_head, hf.tl_of_head, hf.d_of_head, hm, hraw, hwf]

end Sys2Proof

open Sys2Proof

/-- Settles O57: each instruction's fields fit their code, each format's reader hands them back, and the head gives its own fields. -/
theorem decodeOfEncode : Obligations.DecodeOfEncode := by
  unfold Obligations.DecodeOfEncode
  intro i hwf henc
  obtain ⟨c, hc⟩ := Option.isSome_iff_exists.mp henc
  have hf := Laws.Enc.code_fits i c hc
  have htail : c.tail < 2 ^ (16 * ((c.maj * 256 + c.tl * 64 + c.d) / 64 % 4)) := hf.tl_of_head.symm ▸ hf.2.2.2
  exact ⟨_, c.tail, by rw [encode, hc]; rfl, hf.head_lt, htail, (i.readsBack c hc).decode hf hwf⟩
end

section
/-! SUPPORT. The integer functions of R101 as arithmetic, and the scalar heads that write them. -/

namespace Sys2Proof.Machine

/-! ## Words as integers -/

/-- The word of an integer depends on it modulo 2^64. -/
theorem ofInt_eq_of_emod {x : Word} {i : Int} (h : (x.toNat : Int) = i % 2 ^ 64) : x = BitVec.ofInt 64 i := by
  apply BitVec.eq_of_toNat_eq
  rw [BitVec.toNat_ofInt]
  simp only [Nat.reducePow, Nat.cast_ofNat] at h ⊢
  omega

/-- The high half of an exact product of 128 bits. -/
theorem high_half_of_toInt {p : BitVec 128} {i : Int} (h : p.toInt = i) : (p >>> 64).setWidth 64 = BitVec.ofInt 64 (i / 2 ^ 64) := by
  apply ofInt_eq_of_emod
  have hp := p.isLt
  rw [BitVec.toInt_eq_toNat_cond] at h
  simp only [BitVec.toNat_setWidth, BitVec.toNat_ushiftRight, Nat.shiftRight_eq_div_pow]
  split at h <;> omega

/-- Bounds of a product of two words. -/
theorem natAbs_mul_toInt_le (a b : Word) : (a.toInt * b.toInt).natAbs ≤ 2 ^ 126 := by
  rw [Int.natAbs_mul]
  have ha : a.toInt.natAbs ≤ 2 ^ 63 := by have := BitVec.toInt_lt (x := a); have := BitVec.le_toInt (x := a); omega
  have hb : b.toInt.natAbs ≤ 2 ^ 63 := by have := BitVec.toInt_lt (x := b); have := BitVec.le_toInt (x := b); omega
  calc a.toInt.natAbs * b.toInt.natAbs ≤ 2 ^ 63 * 2 ^ 63 := Nat.mul_le_mul ha hb
    _ = 2 ^ 126 := by norm_num

theorem aluMulh_eq (a b : Word) : aluMulh a b = BitVec.ofInt 64 (a.toInt * b.toInt / 2 ^ 64) := by
  apply high_half_of_toInt
  rw [BitVec.toInt_mul, BitVec.toInt_signExtend_of_le (by decide), BitVec.toInt_signExtend_of_le (by decide)]
  have := natAbs_mul_toInt_le a b
  exact Int.bmod_eq_of_le (by omega) (by omega)

theorem aluMulhu_eq (a b : Word) : aluMulhu a b = word (a.toNat * b.toNat / 2 ^ 64) := by
  apply BitVec.eq_of_toNat_eq
  have hprod : a.toNat * b.toNat < 2 ^ 128 :=
    calc a.toNat * b.toNat < 2 ^ 64 * 2 ^ 64 := Nat.mul_lt_mul'' a.isLt b.isLt
      _ = 2 ^ 128 := by norm_num
  have ha : a.toNat % 2 ^ 128 = a.toNat := Nat.mod_eq_of_lt (by have := a.isLt; omega)
  have hb : b.toNat % 2 ^ 128 = b.toNat := Nat.mod_eq_of_lt (by have := b.isLt; omega)
  simp only [aluMulhu, BitVec.toNat_setWidth, BitVec.toNat_ushiftRight, BitVec.toNat_mul, Nat.shiftRight_eq_div_pow, ha, hb,
    Nat.mod_eq_of_lt hprod, BitVec.toNat_ofNat]

theorem aluDiv_eq (a b : Word) : aluDiv a b = if b = 0 then BitVec.allOnes 64 else BitVec.ofInt 64 (a.toInt.tdiv b.toInt) := by
  have h : a.sdiv b = BitVec.ofInt 64 (a.toInt.tdiv b.toInt) := by
    apply BitVec.eq_of_toInt_eq
    rw [BitVec.toInt_sdiv, BitVec.toInt_ofInt]
  rw [aluDiv, h]

theorem aluDivu_eq (a b : Word) : aluDivu a b = if b = 0 then BitVec.allOnes 64 else word (a.toNat / b.toNat) := by
  rw [aluDivu, BitVec.udiv_def]

theorem aluRem_eq (a b : Word) : aluRem a b = if b = 0 then a else BitVec.ofInt 64 (a.toInt.tmod b.toInt) := by
  have h : a.srem b = BitVec.ofInt 64 (a.toInt.tmod b.toInt) := by rw [← BitVec.toInt_srem, BitVec.ofInt_toInt]
  rw [aluRem, h]

theorem aluRemu_eq (a b : Word) : aluRemu a b = if b = 0 then a else word (a.toNat % b.toNat) := by
  rw [aluRemu, BitVec.umod_def]

/-- An arithmetic shift right divides, rounding down. -/
theorem sshiftRight_eq_ofInt (a : Word) (n : Nat) : a.sshiftRight n = BitVec.ofInt 64 (a.toInt / 2 ^ n) := by
  rw [← BitVec.ofInt_toInt (x := a.sshiftRight n), BitVec.toInt_sshiftRight, Int.shiftRight_eq_div_pow]
  norm_cast

theorem aluRotl_eq (a b : Word) : aluRotl a b = a.rotateLeft (b.toNat % 64) := by
  rw [aluRotl, BitVec.rotateLeft_def, Nat.mod_mod, amount]

theorem aluRotr_eq (a b : Word) : aluRotr a b = a.rotateRight (b.toNat % 64) := by
  rw [aluRotr, BitVec.rotateRight_def, Nat.mod_mod, amount]

/-! ## Orders and conditions as their propositions -/

theorem flag_decide (p : Prop) [Decidable p] : flag (decide p) = if p then 1 else 0 := by
  by_cases h : p <;> simp [flag, h]

theorem aluMin_eq (a b : Word) : aluMin a b = if b.toInt < a.toInt then b else a := by simp [aluMin, BitVec.slt_eq_decide]
theorem aluMax_eq (a b : Word) : aluMax a b = if a.toInt < b.toInt then b else a := by simp [aluMax, BitVec.slt_eq_decide]
theorem aluMinu_eq (a b : Word) : aluMinu a b = if b.toNat < a.toNat then b else a := by simp [aluMinu, BitVec.ult_eq_decide]
theorem aluMaxu_eq (a b : Word) : aluMaxu a b = if a.toNat < b.toNat then b else a := by simp [aluMaxu, BitVec.ult_eq_decide]

theorem flag_condEq (a b : Word) : flag (condEq a b) = if a = b then 1 else 0 := flag_decide _
theorem flag_condNe (a b : Word) : flag (condNe a b) = if a = b then 0 else 1 := by by_cases h : a = b <;> simp [flag, condNe, h]
theorem flag_condLt (a b : Word) : flag (condLt a b) = if a.toInt < b.toInt then 1 else 0 := by
  rw [condLt_eq_decide]; exact flag_decide _
theorem flag_condLtu (a b : Word) : flag (condLtu a b) = if a.toNat < b.toNat then 1 else 0 := by
  rw [condLtu_eq_decide]; exact flag_decide _

/-- SLTI compares with the constant's own value. -/
theorem flag_condLt_sext {n : Nat} (hn : n ≤ 64) (a : Word) (imm : BitVec n) :
    flag (condLt a (sext imm)) = if a.toInt < imm.toInt then 1 else 0 := by
  rw [flag_condLt, sext, BitVec.toInt_signExtend_of_le hn]

/-! ## Fields (R101) -/

/-- A mask of ones is 2^len − 1, moved to its place. -/
theorem getLsbD_fieldMask {pos len : Nat} (h : pos + len ≤ 64) (i : Nat) :
    (fieldMask pos len).getLsbD i = decide (pos ≤ i ∧ i < pos + len) := by
  rw [fieldMask, BitVec.getLsbD_ofNat, Nat.testBit_mul_two_pow, Nat.testBit_two_pow_sub_one]
  rw [Bool.eq_iff_iff]
  simp only [Bool.and_eq_true, decide_eq_true_eq]
  omega

theorem getLsbD_aluExt {a : Word} {pos len : Nat} (h : pos + len ≤ 64) (i : Nat) :
    (aluExt a pos len).getLsbD i = (decide (i < len) && a.getLsbD (pos + i)) := by
  rw [aluExt, BitVec.getLsbD_and, BitVec.getLsbD_ushiftRight, getLsbD_fieldMask (by omega)]
  simp [Bool.and_comm]

theorem aluExt_eq {a : Word} {pos len : Nat} (h : pos + len ≤ 64) : aluExt a pos len = word (a.toNat / 2 ^ pos % 2 ^ len) := by
  apply BitVec.eq_of_getLsbD_eq
  intro i hi
  rw [getLsbD_aluExt h, BitVec.getLsbD_ofNat, Nat.testBit_mod_two_pow, Nat.testBit_div_two_pow]
  simp [hi, BitVec.getLsbD, Nat.add_comm]

/-- A signed field is its bits below, its sign above. -/
theorem aluExts_eq {a : Word} {pos len : Nat} (hl : 1 ≤ len) (h : pos + len ≤ 64) :
    aluExts a pos len = BitVec.ofInt 64 (sval len (a.toNat / 2 ^ pos % 2 ^ len)) := by
  have hsv : BitVec.ofInt 64 (sval len (a.toNat / 2 ^ pos % 2 ^ len)) = (BitVec.ofNat len (a.toNat / 2 ^ pos % 2 ^ len)).signExtend 64 := rfl
  have hbit (j : Nat) (hj : j < len) : (BitVec.ofNat len (a.toNat / 2 ^ pos % 2 ^ len)).getLsbD j = a.getLsbD (pos + j) := by
    rw [BitVec.getLsbD_ofNat, Nat.testBit_mod_two_pow, Nat.testBit_div_two_pow]
    simp [hj, BitVec.getLsbD, Nat.add_comm]
  have hmsb : (BitVec.ofNat len (a.toNat / 2 ^ pos % 2 ^ len)).msb = (aluExt a pos len).getLsbD (len - 1) := by
    rw [BitVec.msb_eq_getLsbD_last, hbit _ (by omega), getLsbD_aluExt h]
    simp [show len - 1 < len by omega]
  rw [hsv]
  apply BitVec.eq_of_getLsbD_eq
  intro i hi
  rw [BitVec.getLsbD_signExtend, hmsb, aluExts]
  by_cases hil : i < len
  · rw [if_pos hil, hbit i hil]
    split <;>
      simp only [BitVec.getLsbD_or, BitVec.getLsbD_not, getLsbD_fieldMask (pos := 0) (len := len) (by omega), getLsbD_aluExt h, hil, hi,
        Nat.zero_le, Nat.zero_add, true_and, decide_true, Bool.true_and, Bool.not_true, Bool.or_false]
  · rw [if_neg hil]
    have hm : (fieldMask 0 len).getLsbD i = false := by rw [getLsbD_fieldMask (by omega)]; simp [hil]
    split
    · rename_i hs
      rw [hs, BitVec.getLsbD_or, BitVec.getLsbD_not, hm, decide_eq_true hi, Bool.not_false, Bool.and_self, Bool.or_true]
    · rename_i hs
      rw [Bool.not_eq_true] at hs
      rw [hs, getLsbD_aluExt h, decide_eq_false hil, Bool.false_and, Bool.and_false]

theorem getLsbD_aluIns {d a : Word} {pos len : Nat} (h : pos + len ≤ 64) {i : Nat} (hi : i < 64) :
    (aluIns d a pos len).getLsbD i = if pos ≤ i ∧ i < pos + len then a.getLsbD (i - pos) else d.getLsbD i := by
  rw [aluIns, BitVec.getLsbD_or, BitVec.getLsbD_and, BitVec.getLsbD_and, BitVec.getLsbD_not, getLsbD_fieldMask h,
    BitVec.getLsbD_shiftLeft]
  by_cases hin : pos ≤ i ∧ i < pos + len
  · simp [hin, hi]
  · simp [hin, hi]

/-! ## Counts and moves of bits (R101) -/

theorem clzFrom_spec (a : Word) (n : Nat) :
    clzFrom a n ≤ n ∧ (∀ i < clzFrom a n, a.getLsbD (n - 1 - i) = false)
      ∧ (clzFrom a n < n → a.getLsbD (n - 1 - clzFrom a n) = true) := by
  induction n with
  | zero => simp [clzFrom]
  | succ n ih =>
    obtain ⟨hle, hz, ho⟩ := ih
    rw [clzFrom]
    split
    · rename_i h; simp [h]
    · rename_i h
      refine ⟨by omega, fun i hi => ?_, fun hlt => ?_⟩
      · cases i with
        | zero => simpa using h
        | succ i => have := hz i (by omega); rwa [show n + 1 - 1 - (i + 1) = n - 1 - i by omega]
      · have := ho (by omega); rwa [show n + 1 - 1 - (clzFrom a n + 1) = n - 1 - clzFrom a n by omega]

theorem ctzFrom_spec (a : Word) (n : Nat) : ∀ lo,
    ctzFrom a lo n ≤ n ∧ (∀ i < ctzFrom a lo n, a.getLsbD (lo + i) = false)
      ∧ (ctzFrom a lo n < n → a.getLsbD (lo + ctzFrom a lo n) = true) := by
  induction n with
  | zero => simp [ctzFrom]
  | succ n ih =>
    intro lo
    obtain ⟨hle, hz, ho⟩ := ih (lo + 1)
    rw [ctzFrom]
    split
    · rename_i h; simp [h]
    · rename_i h
      refine ⟨by omega, fun i hi => ?_, fun hlt => ?_⟩
      · cases i with
        | zero => simpa using h
        | succ i => have := hz i (by omega); rwa [show lo + (i + 1) = lo + 1 + i by omega]
      · have := ho (by omega); rwa [show lo + (ctzFrom a (lo + 1) n + 1) = lo + 1 + ctzFrom a (lo + 1) n by omega]

theorem popFrom_eq (a : Word) (n : Nat) : popFrom a n = ((List.range n).filter fun i => a.getLsbD i).length := by
  induction n with
  | zero => rfl
  | succ n ih =>
    rw [popFrom, ih, List.range_succ, List.filter_append, List.length_append]
    cases h : a.getLsbD n <;> simp [h, Nat.add_comm]

theorem popFrom_le (a : Word) (n : Nat) : popFrom a n ≤ n := by
  rw [popFrom_eq]; exact (List.length_filter_le _ _).trans (by simp)

/-- A count of at most 64 is what a word of it says. -/
theorem toNat_word_of_le {n : Nat} (h : n ≤ 64) : (word n).toNat = n := by
  rw [BitVec.toNat_ofNat]; exact Nat.mod_eq_of_lt (by omega)

theorem getLsbD_aluBrev (a : Word) {i : Nat} (hi : i < 64) : (aluBrev a).getLsbD (63 - i) = a.getLsbD i := by
  rw [aluBrev, BitVec.getLsbD_reverse, BitVec.getMsbD]
  simp [show 63 - i < 64 by omega, show 63 - (63 - i) = i by omega]

/-- The bytes taken from the low end of `a` stand above the accumulator's, the first of them highest. -/
theorem testBit_bswapFrom (n : Nat) : ∀ (a acc j b : Nat), b < 8 →
    (bswapFrom a n acc).testBit (j * 8 + b) = if j < n then a.testBit ((n - 1 - j) * 8 + b) else acc.testBit ((j - n) * 8 + b) := by
  induction n with
  | zero => intro a acc j b _; simp [bswapFrom]
  | succ n ih =>
    intro a acc j b hb
    rw [bswapFrom, ih _ _ _ _ hb]
    by_cases hjn : j < n
    · rw [if_pos hjn, if_pos (by omega), show a / 256 = a / 2 ^ 8 from rfl, Nat.testBit_div_two_pow]
      congr 1; omega
    · have hacc : acc * 256 + a % 256 = 2 ^ 8 * acc + a % 2 ^ 8 := by omega
      rw [if_neg hjn, hacc, Nat.testBit_two_pow_mul_add _ (Nat.mod_lt _ (by decide))]
      by_cases hj : j = n
      · subst hj
        rw [if_pos (by omega), if_pos (by omega), Nat.testBit_mod_two_pow, decide_eq_true (by omega), Bool.true_and]
        congr 1
      · rw [if_neg (by omega), if_neg (by omega)]
        congr 1; omega

theorem getLsbD_aluBswap (a : Word) {i : Nat} (hi : i < 64) : (aluBswap a).getLsbD ((7 - i / 8) * 8 + i % 8) = a.getLsbD i := by
  have hb : i % 8 < 8 := Nat.mod_lt _ (by decide)
  rw [aluBswap, BitVec.getLsbD_ofNat, testBit_bswapFrom 8 _ _ _ _ hb, if_pos (by omega)]
  have hi' : (8 - 1 - (7 - i / 8)) * 8 + i % 8 = i := by omega
  simp [hi', show (7 - i / 8) * 8 + i % 8 < 64 by omega, BitVec.getLsbD]

/-! ## The heads -/

section
variable {s : State} {d a b : Reg} {w : Word}

/-- A head of three registers that may issue writes its function's value. -/
theorem exec_of_binary {i : Instr} {lat : Nat} {f : Word → Word → Word} (hexec : exec i s = binary d a b lat f s)
    (hval : f (s.operand a) (s.operand b) = w) (h : mayIssue { rd := [a, b], wr := [d] } s = true) (hp : s.mayPut d = true) :
    exec i s = .next (s.wrote [a, b] d w lat) := by
  rw [hexec, binary, runHead_put h hp (fun v _ => f (v a) (v b)), hval]

/-- A head of one register and constants that may issue writes its function's value. -/
theorem exec_of_unary {i : Instr} {f : Word → Word} (hexec : exec i s = unary d a f s) (hval : f (s.operand a) = w)
    (h : mayIssue { rd := [a], wr := [d] } s = true) (hp : s.mayPut d = true) : exec i s = .next (s.wrote [a] d w 3) := by
  rw [hexec, unary, runHead_put h hp (fun v _ => f (v a)), hval]

end

end Sys2Proof.Machine

open Sys2Proof Sys2Proof.Machine

/-- Settles O1: every row is `binary` with the function that R101 names. -/
theorem scalarThreeRegisterResults : Obligations.ScalarThreeRegisterResults := by
  unfold Obligations.ScalarThreeRegisterResults
  intro s d a b h hp
  simp only [List.forall_mem_cons, List.not_mem_nil, false_implies, implies_true, and_true]
  refine ⟨?add, ?sub, ?addw, ?subw, ?mul, ?mulw, ?mulh, ?mulhu, ?div, ?divu, ?rem, ?remu, ?and, ?or, ?xor, ?andn, ?orn, ?shl, ?shr, ?sra,
    ?rotl, ?rotr, ?min, ?max, ?minu, ?maxu, ?seq, ?sne, ?slt, ?sltu⟩
  case add | sub | mul | and | or | xor | shl | shr => exact exec_of_binary rfl rfl h hp
  case addw => exact exec_of_binary (f := fun x y => sext32 (x + y)) rfl rfl h hp
  case subw => exact exec_of_binary (f := fun x y => sext32 (x - y)) rfl rfl h hp
  case mulw => exact exec_of_binary (f := fun x y => sext32 (x * y)) rfl rfl h hp
  case andn => exact exec_of_binary (f := fun x y => x &&& ~~~y) rfl rfl h hp
  case orn => exact exec_of_binary (f := fun x y => x ||| ~~~y) rfl rfl h hp
  case mulh => exact exec_of_binary rfl (aluMulh_eq _ _) h hp
  case mulhu => exact exec_of_binary rfl (aluMulhu_eq _ _) h hp
  case div => exact exec_of_binary rfl (aluDiv_eq _ _) h hp
  case divu => exact exec_of_binary rfl (aluDivu_eq _ _) h hp
  case rem => exact exec_of_binary rfl (aluRem_eq _ _) h hp
  case remu => exact exec_of_binary rfl (aluRemu_eq _ _) h hp
  case sra => exact exec_of_binary rfl (sshiftRight_eq_ofInt _ _) h hp
  case rotl => exact exec_of_binary rfl (aluRotl_eq _ _) h hp
  case rotr => exact exec_of_binary rfl (aluRotr_eq _ _) h hp
  case min => exact exec_of_binary rfl (aluMin_eq _ _) h hp
  case max => exact exec_of_binary rfl (aluMax_eq _ _) h hp
  case minu => exact exec_of_binary rfl (aluMinu_eq _ _) h hp
  case maxu => exact exec_of_binary rfl (aluMaxu_eq _ _) h hp
  case seq => exact exec_of_binary (f := fun x y => flag (condEq x y)) rfl (flag_condEq _ _) h hp
  case sne => exact exec_of_binary (f := fun x y => flag (condNe x y)) rfl (flag_condNe _ _) h hp
  case slt => exact exec_of_binary (f := fun x y => flag (condLt x y)) rfl (flag_condLt _ _) h hp
  case sltu => exact exec_of_binary (f := fun x y => flag (condLtu x y)) rfl (flag_condLtu _ _) h hp

/-- Settles O2: every row is `unary` with the function that R101 names; the counts by induction over the bits. -/
theorem scalarOneRegisterResults : Obligations.ScalarOneRegisterResults := by
  unfold Obligations.ScalarOneRegisterResults
  refine ⟨?heads, fun x => ⟨?clzBits, ?ctzBits, ?popcBits, fun i hi => getLsbD_aluBrev x hi, fun i hi => getLsbD_aluBswap x hi⟩⟩
  case heads =>
    intro s d a imm imm16 pos len h hp hl hpl
    simp only [List.forall_mem_cons, List.not_mem_nil, false_implies, implies_true, and_true]
    refine ⟨?addi, ?andi, ?ori, ?xori, ?slti, ?shli, ?shri, ?srai, ?clz, ?ctz, ?popc, ?brev, ?bswap, ?mov, ?lih, ?ext, ?exts⟩
    case clz | ctz | popc | brev | bswap => exact exec_of_unary rfl rfl h hp
    case addi => exact exec_of_unary (f := fun x => x + sext imm) rfl rfl h hp
    case andi => exact exec_of_unary (f := fun x => x &&& sext imm) rfl rfl h hp
    case ori => exact exec_of_unary (f := fun x => x ||| sext imm) rfl rfl h hp
    case xori => exact exec_of_unary (f := fun x => x ^^^ sext imm) rfl rfl h hp
    case shli => exact exec_of_unary (f := fun x => x <<< imm.toNat) rfl rfl h hp
    case shri => exact exec_of_unary (f := fun x => x >>> imm.toNat) rfl rfl h hp
    case mov => exact exec_of_unary (f := fun x => x) rfl rfl h hp
    case lih => exact exec_of_unary (f := fun x => aluLih x imm16) rfl rfl h hp
    case slti => exact exec_of_unary (f := fun x => flag (condLt x (sext imm))) rfl (flag_condLt_sext (by decide) _ imm) h hp
    case srai => exact exec_of_unary (f := fun x => x.sshiftRight imm.toNat) rfl (sshiftRight_eq_ofInt _ _) h hp
    case ext => exact exec_of_unary (f := fun x => aluExt x pos.toNat len.toNat) rfl (aluExt_eq hpl) h hp
    case exts => exact exec_of_unary (f := fun x => aluExts x pos.toNat len.toNat) rfl (aluExts_eq hl hpl) h hp
  case clzBits =>
    have hspec := clzFrom_spec x 64
    rw [aluClz, toNat_word_of_le hspec.1]
    exact hspec
  case ctzBits =>
    have hspec := ctzFrom_spec x 64 0
    simp only [Nat.zero_add] at hspec
    rw [aluCtz, toNat_word_of_le hspec.1]
    exact hspec
  case popcBits => rw [aluPopc, toNat_word_of_le (popFrom_le x 64), popFrom_eq]

/-- Settles O3: each head is one `runHead` with its result; INS keeps D's bits outside the field. -/
theorem scalarOtherResults : Obligations.ScalarOtherResults := by
  unfold Obligations.ScalarOtherResults
  intro s d a b c imm imm48 pos len hl hpl hp
  refine ⟨runHead_of_mayIssue (mayIssue_nothing s) _, runHead_of_mayIssue (mayIssue_nothing s) _, fun h => ?sel, fun h => ?ins,
    fun h => ⟨runHead_put h hp (fun _ _ => sext imm48) 3, ?addpc⟩⟩
  case sel =>
    refine (runHead_put h hp (fun v _ => if condNonzero (v a) then v b else v c) 3).trans ?_
    rw [condNonzero_eq_decide]
    by_cases ha : s.operand a = 0 <;> simp [ha]
  case ins =>
    exact ⟨_, runHead_put h hp (fun v _ => aluIns (v d) (v a) pos.toNat len.toNat) 3, fun i hi => getLsbD_aluIns hpl hi⟩
  case addpc => exact runHead_put h hp (fun _ t => s.me.pc + sext imm) 3
end

section
/-! SUPPORT. Calls, register jumps and loops: what each answers when it may issue (R44, R103, R104). -/

namespace Sys2Proof.Machine

section
variable {s : State} {d a : Reg} {target : Word}

/-- A call that may issue writes the link, is traced and goes. -/
theorem callTo_of_mayIssue (h : mayIssue { wr := [d] } s = true) (hp : s.mayPut d = true) :
    callTo d target s = .next (((s.writeReg s.cur d s.me.nextPc 3).traced target false).went target) := by
  rw [callTo, runHead_of_mayIssue h, State.popPorts_nil, put_of_mayPut hp]; rfl

/-- A register call to an even address writes the link, is traced and goes. -/
theorem execCallr_of_even (h : mayIssue { rd := [a], wr := [d] } s = true) (hp : s.mayPut d = true)
    (heven : (s.operand a).getLsbD 0 = false) :
    execCallr d a s =
      .next ((((s.popPorts [a]).writeReg s.cur d s.me.nextPc 3).traced (s.operand a) false).went (s.operand a)) := by
  rw [execCallr, runHead_of_mayIssue h, heven, put_of_mayPut (by simpa using hp), State.cur_popPorts]; rfl

/-- A register call to an odd address traps at the call. -/
theorem execCallr_of_odd (h : mayIssue { rd := [a], wr := [d] } s = true) (hodd : (s.operand a).getLsbD 0 = true) :
    execCallr d a s = .next (s.enterTrap s.cur 0x04 (s.operand a) s.me.pc) := by
  rw [execCallr, runHead_of_mayIssue h, hodd]; rfl

/-- A register jump to an even address is traced and goes. -/
theorem jumpReg_of_even (h : mayIssue { rd := [d] } s = true) (heven : (s.operand d).getLsbD 0 = false) (isRet : Bool) :
    jumpReg d isRet s = .next (((s.popPorts [d]).traced (s.operand d) isRet).went (s.operand d)) := by
  rw [jumpReg, runHead_of_mayIssue h, heven]; rfl

/-- A register jump to an odd address traps at the jump. -/
theorem jumpReg_of_odd (h : mayIssue { rd := [d] } s = true) (hodd : (s.operand d).getLsbD 0 = true) (isRet : Bool) :
    jumpReg d isRet s = .next (s.enterTrap s.cur 0x04 (s.operand d) s.me.pc) := by
  rw [jumpReg, runHead_of_mayIssue h, hodd]; rfl

theorem condNonzero_sub_one (x : Word) : condNonzero (x - 1#64) = decide (x ≠ 1) := by
  rw [condNonzero_eq_decide]
  exact decide_eq_decide.mpr (not_congr sub_eq_zero)

/-- A loop that may issue counts down, and goes while its count is not zero. -/
theorem loopTo_of_mayIssue (h : mayIssue { rd := [d], wr := [d] } s = true) (hp : s.mayPut d = true) :
    loopTo d target s =
      let count := (s.popPorts [d]).writeReg s.cur d (s.operand d - 1) 3
      .next (if s.operand d = 1 then count.passed else (count.traced target false).went target) := by
  rw [loopTo, runHead_of_mayIssue h]
  simp only [put_of_mayPut (s := s.popPorts [d]) (by simpa using hp), condNonzero_sub_one]
  by_cases hd : s.operand d = 1
  · simp only [hd, if_true, ne_eq, not_true_eq_false, decide_false]; simp [Act.run, State.passed]
  · simp only [hd, if_false, ne_eq, not_false_eq_true, decide_true, if_true]; simp [Act.run, State.went, jumpTo]

end

end Sys2Proof.Machine

open Sys2Proof Sys2Proof.Machine

/-- Settles O5: each head is `callTo`, `jumpReg` or `loopTo`, or CALLR, with R43's target. -/
theorem callsJumpsAndLoops : Obligations.CallsJumpsAndLoops := by
  unfold Obligations.CallsJumpsAndLoops
  refine ⟨fun s d a off far idx hp => ?goes, fun s d a => ⟨execCallr_of_odd, fun h hodd => ⟨jumpReg_of_odd h hodd _, jumpReg_of_odd h hodd _⟩⟩⟩
  case goes =>
    have hnear := s.target_eq off idx
    have hlong := s.target_eq far idx
    refine ⟨fun h => ⟨?call, ?callLong⟩, fun h heven => execCallr_of_even h hp heven,
      fun h heven => ⟨jumpReg_of_even h heven _, jumpReg_of_even h heven _⟩, fun h => ⟨?loop, ?loopLong⟩⟩
    case call => rw [← hnear]; exact callTo_of_mayIssue h hp
    case callLong => rw [← hlong]; exact callTo_of_mayIssue h hp
    case loop => rw [← hnear]; exact loopTo_of_mayIssue h hp
    case loopLong => rw [← hlong]; exact loopTo_of_mayIssue h hp
end

section
/-! SUPPORT. Masks: a mask head that may issue writes its function of the masks (R154). -/

namespace Sys2Proof.Machine

/-- A mask head that may issue writes its mask at once (R88, R154). -/
theorem maskTo_of_mayIssue {s : State} {d : MReg} {srcs : List MReg} (h : mayIssue { ms := d :: srcs } s = true)
    (f : (MReg → Word) → Word) :
    maskTo d srcs f s = .next (s.setM s.cur d.toNat (f fun r => s.mReg s.cur r.toNat)).passed := by
  rw [maskTo, runHead_of_mayIssue h]; rfl

end Sys2Proof.Machine

open Sys2Proof Sys2Proof.Machine

/-- Settles O17: MAND to MNOT are `maskTo`, the scalar ones one `runHead` with a result. -/
theorem maskResults : Obligations.MaskResults := by
  unfold Obligations.MaskResults
  intro s d a b x g done
  refine ⟨fun h => ⟨?mand, ?mor, ?mxor⟩, ?mnot, fun h => ?msetv, fun h hp => ⟨?mpopc, ?mfirst, ?mgetv⟩, ?wf⟩
  case mand => exact maskTo_of_mayIssue h fun g => g a &&& g b
  case mor => exact maskTo_of_mayIssue h fun g => g a ||| g b
  case mxor => exact maskTo_of_mayIssue h fun g => g a ^^^ g b
  case mnot => exact fun h => maskTo_of_mayIssue h fun g => ~~~g a
  case msetv =>
    refine (runHead_of_mayIssue h _).trans ?_
    rw [State.cur_popPorts]; rfl
  case mpopc => exact runHead_put h hp (fun _ t => aluPopc (t.mReg t.cur a.toNat)) 3
  case mfirst => exact runHead_put h hp (fun _ t => aluCtz (t.mReg t.cur a.toNat)) 3
  case mgetv => exact runHead_put h hp (fun _ t => t.mReg t.cur a.toNat) 3
  case wf => simp [Instr.wf, Instr.wfOwn]
end

section
open Sys2Proof Sys2Proof.Machine

/-- Settles O56: the decoder runs on each word. -/
theorem encodingWords : Obligations.EncodingWords := by
  unfold Obligations.EncodingWords
  decide

/-- Settles O58: every table of the reset state is empty, so each part reads as its default. -/
theorem resetLeaves : Obligations.ResetLeaves := by
  unfold Obligations.ResetLeaves
  refine ⟨fun _ => rfl, fun _ => rfl, fun tk => ⟨rfl, rfl, rfl, rfl, rfl, rfl, rfl, rfl, rfl, rfl, ?guards⟩, fun _ => ⟨rfl, rfl, rfl, rfl, rfl⟩,
    fun _ => ⟨rfl, rfl⟩, fun _ => rfl, fun _ => rfl, fun _ => ⟨rfl, rfl⟩, rfl, rfl⟩
  case guards =>
    intro n hn
    interval_cases n <;> rfl

/-- Settles O59: the reset state lists no byte and no full word. -/
theorem resetIsCanonical : Obligations.ResetIsCanonical := ⟨reset_wf, rfl⟩
end

section
/-! SUPPORT. What scalar, control, wait and mask heads leave as it was (R84, R101 to R105, R154): the frames of a result, of a
transfer, of a wait and of a mask write. -/

namespace Sys2Proof.Machine

variable {s : State}

/-! ## A result -/

/-- A result of latency 3 in a register of the slot itself. -/
theorem State.keepsBut_setT (s : State) (d : Reg) (v : Word) : s.keepsBut (s.setT s.cur d.toNat v).passed d := by
  unfold State.setT
  split
  · next hd =>
    refine ⟨rfl, fun k hk => State.slot_updSlot_ne _ _ _ _ hk, fun _ _ => rfl, by simp [State.passed, Slot.advance],
      fun r _ => by simp [State.passed, State.updMe, State.tReg, Slot.advance], rfl, [], by simp [State.passed, State.myCore, State.updMe],
      by simp⟩
  · next hd =>
    refine ⟨rfl, fun k hk => ?_, fun _ _ => rfl, ?_, fun r hr => ?_, rfl, [], by simp [State.passed, State.myCore, State.updMe], by simp⟩
    · simp [State.passed, State.updMe, State.slot_updSlot, hk]
    · simp [State.passed, State.updMe, State.me, Slot.advance]
    · simp [State.passed, State.updMe, State.tReg, Slot.advance, FMap.get_set_ne _ _ _ hr]

/-- A result that is pending for its cycle. -/
theorem State.keepsBut_pendWrite (s : State) (d : Reg) (lat : Nat) (v : Word) :
    s.keepsBut (s.pendWrite s.cur d.toNat lat v).passed d := by
  unfold State.pendWrite
  refine ⟨?state, fun k hk => ?slots, fun c hc => ?cores, ?slot, fun r _ => ?regs, ?core,
    [{ due := s.myCore.cycle + lat, slot := slotNo s.cur, pc := s.me.pc, op := .reg d.toNat, val := v }], ?pend, by simp⟩
  all_goals dsimp only; split
  case state.isTrue | state.isFalse => rfl
  case slots.isTrue => simp [State.passed, State.updMe, State.slot_updSlot, hk]
  case slots.isFalse => simp [State.passed, State.updMe, State.slot_updSlot, hk]
  case cores.isTrue => simp [State.passed, State.updMe, State.core_updCore, hc]
  case cores.isFalse => simp [State.passed, State.updMe, State.core_updCore, hc]
  case slot.isTrue => simp [State.passed, State.updMe, State.me, Slot.advance]
  case slot.isFalse => simp [State.passed, State.updMe, State.me, Slot.advance]
  case regs.isTrue => simp [State.passed, State.updMe, State.tReg, Slot.advance]
  case regs.isFalse => simp [State.passed, State.updMe, State.tReg, Slot.advance]
  case core.isTrue => simp [State.passed, State.updMe, State.myCore]
  case core.isFalse => simp [State.passed, State.updMe, State.myCore]
  case pend.isTrue => simp [State.passed, State.updMe, State.myCore, State.me]
  case pend.isFalse => simp [State.passed, State.updMe, State.myCore, State.me]

/-- The write of a scalar result, and the step to the next head, change the destination alone. -/
theorem State.keepsBut_writeReg (s : State) (d : Reg) (v : Word) (lat : Nat) : s.keepsBut (s.writeReg s.cur d v lat).passed d := by
  unfold State.writeReg
  split
  · next hd => simpa [State.setT, hd] using s.keepsBut_setT d v
  · split
    · exact s.keepsBut_setT d v
    · exact s.keepsBut_pendWrite d lat v

/-- A head that writes one result changes, after its pops, the destination alone. -/
theorem State.keepsBut_wrote (s : State) (rd : List Reg) (d : Reg) (v : Word) (lat : Nat) :
    (s.popPorts rd).keepsBut (s.wrote rd d v lat) d := by
  have h := (s.popPorts rd).keepsBut_writeReg d v lat
  rwa [State.cur_popPorts] at h

/-- Every row of a table whose results are known keeps the rest. -/
theorem keepsBut_rows {α : Type} {L : List (Instr × α)} {rd : List Reg} {d : Reg} {val : α → Word} {lat : α → Nat}
    (h : mayIssue { rd, wr := [d] } s = true → ∀ row ∈ L, exec row.1 s = .next (s.wrote rd d (val row.2) (lat row.2))) :
    ∀ row ∈ L.map fun x => (x.1, rd, ([] : List MReg)), mayIssue { rd := row.2.1, wr := [d], ms := row.2.2 } s = true →
      ∃ t, exec row.1 s = .next t ∧ (s.popPorts row.2.1).keepsBut t d := by
  refine List.forall_mem_map.mpr fun row hrow hissue => ?_
  exact ⟨_, h hissue row hrow, s.keepsBut_wrote rd d _ _⟩

/-- A head that reads, and writes one result, keeps the rest. -/
theorem keepsBut_of_put {i : Instr} {u : Use} {d : Reg} {f : (Reg → Word) → State → Word} {lat : Nat} (hp : s.mayPut d = true)
    (hexec : exec i s = runHead u s fun v t => put t d (f v t) lat) (h : mayIssue u s = true) :
    ∃ t, exec i s = .next t ∧ (s.popPorts u.rd).keepsBut t d :=
  ⟨_, hexec.trans (runHead_put h hp f lat), s.keepsBut_wrote u.rd d _ _⟩

/-! ## A transfer, and a wait -/

/-- A change of the place of the next head. -/
theorem State.keepsButPlace_updMe (g : Slot → Slot)
    (hg : ({ g s.me with pc := s.me.pc, st := s.me.st, op := s.me.op, waited := s.me.waited, wdFired := s.me.wdFired } : Slot) = s.me) :
    s.keepsButPlace (s.updMe g) :=
  ⟨rfl, fun k hk => State.slot_updSlot_ne _ _ _ _ hk, fun _ => rfl, by rw [State.me_updMe]; exact hg⟩

theorem State.keepsButPlace_passed (s : State) : s.keepsButPlace s.passed := State.keepsButPlace_updMe _ rfl
theorem State.keepsButPlace_blockMe (s : State) (w : Wait) : s.keepsButPlace (s.blockMe w) := State.keepsButPlace_updMe _ rfl

/-- A traced transfer. -/
theorem State.keepsButPlace_traced_went (s : State) (target : Word) (isRet : Bool) (pc : Word) :
    s.keepsButPlace ((s.traced target isRet).went pc) := by
  refine ⟨rfl, fun k hk => State.slot_updSlot_ne _ _ _ _ hk, fun c => ?_, ?_⟩
  · by_cases hc : c = coreOf s.cur <;> simp [State.went, State.traced, State.updMe, State.updMyCore, State.core_updCore, hc]
  · simp [State.went, State.traced, Slot.advance]

theorem keepsButPlace_of_branch {i : Instr} {rs : List Reg} {cond : (Reg → Word) → Bool} {target : Word}
    (hexec : exec i s = branch rs cond target s) (h : mayIssue { rd := rs } s = true) :
    ∃ t, exec i s = .next t ∧ (s.popPorts rs).keepsButPlace t := by
  refine ⟨_, hexec.trans (branch_of_mayIssue h cond target), ?_⟩
  split
  · exact State.keepsButPlace_traced_went _ _ _ _
  · exact State.keepsButPlace_passed _

theorem keepsButPlace_jumpReg {d : Reg} (h : mayIssue { rd := [d] } s = true) (heven : (s.operand d).getLsbD 0 = false) (isRet : Bool) :
    ∃ t, jumpReg d isRet s = .next t ∧ (s.popPorts [d]).keepsButPlace t :=
  ⟨_, jumpReg_of_even h heven isRet, State.keepsButPlace_traced_went _ _ _ _⟩

theorem keepsButPlace_callTo {d : Reg} (h : mayIssue { wr := [d] } s = true) (hp : s.mayPut d = true) (target : Word) :
    ∃ t, callTo d target s = .next t ∧ (s.writeReg s.cur d s.me.nextPc 3).keepsButPlace t :=
  ⟨_, callTo_of_mayIssue h hp, State.keepsButPlace_traced_went _ _ _ _⟩

theorem keepsButPlace_loopTo {d : Reg} (h : mayIssue { rd := [d], wr := [d] } s = true) (hp : s.mayPut d = true) (target : Word) :
    ∃ t, loopTo d target s = .next t ∧ ((s.popPorts [d]).writeReg s.cur d (s.operand d - 1) 3).keepsButPlace t := by
  refine ⟨_, loopTo_of_mayIssue h hp, ?_⟩
  split
  · exact State.keepsButPlace_passed _
  · exact State.keepsButPlace_traced_went _ _ _ _

/-- FENCE of a scope but the system's passes or waits. -/
theorem keepsButPlace_execFence {sc : Scope} (hsc : sc ≠ .sys) : ∃ t, execFence sc s = .next t ∧ s.keepsButPlace t := by
  rw [execFence, runHead_of_mayIssue (mayIssue_nothing s), State.popPorts_nil]
  refine ⟨_, rfl, ?_⟩
  unfold fenceWait
  split
  · exact State.keepsButPlace_blockMe _ _
  · split
    · exact absurd rfl hsc
    · exact absurd rfl hsc
    · exact State.keepsButPlace_passed _

/-- WAITC passes or waits. -/
theorem keepsButPlace_execWaitc (l st c tl : BitVec 4) : ∃ t, execWaitc l st c tl s = .next t ∧ s.keepsButPlace t := by
  rw [execWaitc, runHead_of_mayIssue (mayIssue_nothing s), State.popPorts_nil]
  refine ⟨_, rfl, ?_⟩
  dsimp only
  split
  · exact State.keepsButPlace_passed _
  · exact State.keepsButPlace_blockMe _ _

/-! ## A mask -/

/-- The write of a mask, and the step to the next head, change that mask alone. -/
theorem State.keepsButMask_setM (s : State) (d : MReg) (v : Word) : s.keepsButMask (s.setM s.cur d.toNat v).passed d := by
  unfold State.setM
  split
  · refine ⟨rfl, fun k hk => State.slot_updSlot_ne _ _ _ _ hk, by simp [State.passed, Slot.advance], fun r _ => ?_⟩
    simp [State.passed, State.updMe, State.mReg, Slot.advance]
  · refine ⟨rfl, fun k hk => ?_, ?_, fun r hr => ?_⟩
    · simp [State.passed, State.updMe, State.slot_updSlot, hk]
    · simp [State.passed, State.updMe, State.me, Slot.advance]
    · simp [State.passed, State.updMe, State.mReg, Slot.advance, FMap.get_set_ne _ _ _ hr]

theorem keepsButMask_maskTo {d : MReg} {srcs : List MReg} (h : mayIssue { ms := d :: srcs } s = true) (f : (MReg → Word) → Word) :
    ∃ t, maskTo d srcs f s = .next t ∧ s.keepsButMask t d :=
  ⟨_, maskTo_of_mayIssue h f, s.keepsButMask_setM d _⟩

end Sys2Proof.Machine

open Sys2Proof Sys2Proof.Machine

/-- Settles O53: the result rows are those of O1 and O2 and single `put`s, the control rows `branch`, `callTo`, `jumpReg` and `loopTo`, the
mask rows `maskTo`; each has its frame. -/
theorem scalarHeadsKeepTheRest : Obligations.ScalarHeadsKeepTheRest := by
  unfold Obligations.ScalarHeadsKeepTheRest
  refine ⟨?results, ?control, ?waits, ?masks⟩
  case results =>
    intro s d a b c imm imm16 imm48 pos len k hp hl hpl
    have three := keepsBut_rows (val := fun x : Nat × (Word → Word → Word) => x.2 (s.operand a) (s.operand b)) (lat := fun x => x.1)
      fun h => scalarThreeRegisterResults s d a b h hp
    have one := keepsBut_rows (val := fun x : Word → Word => x (s.operand a)) (lat := fun _ => 3)
      fun h => scalarOneRegisterResults.1 s d a imm imm16 pos len h hp hl hpl
    refine List.forall_mem_append.mpr ⟨three, List.forall_mem_append.mpr ⟨one, ?rest⟩⟩
    simp only [List.forall_mem_cons, List.not_mem_nil, false_implies, implies_true, and_true]
    refine ⟨?ins, ?sel, ?li, ?addpc, ?wid, ?timeLoc, ?timeGlob, ?qlen, ?getid, ?mpopc, ?mfirst, ?mgetv⟩
    case ins => exact keepsBut_of_put (f := fun v _ => aluIns (v d) (v a) pos.toNat len.toNat) hp rfl
    case sel => exact keepsBut_of_put (f := fun v _ => if condNonzero (v a) then v b else v c) hp rfl
    case li => exact keepsBut_of_put (f := fun _ _ => sext imm48) hp rfl
    case addpc => exact keepsBut_of_put (f := fun _ t => s.me.pc + sext imm) hp rfl
    case wid => exact keepsBut_of_put (f := fun _ t => t.widField imm.toNat) hp rfl
    case timeLoc => exact keepsBut_of_put (f := fun _ t => t.tcnt t.cur) hp rfl
    case timeGlob => exact keepsBut_of_put (f := fun _ t => t.tcnt t.cur + t.tofs t.cur) hp rfl
    case qlen => exact keepsBut_of_put (f := fun _ _ => word (s.myCore.qlen imm.toNat)) hp rfl
    case getid => exact keepsBut_of_put (f := fun _ t => t.identity .thr) hp rfl
    case mpopc => exact keepsBut_of_put (f := fun _ t => aluPopc (t.mReg t.cur k.toNat)) hp rfl
    case mfirst => exact keepsBut_of_put (f := fun _ t => aluCtz (t.mReg t.cur k.toNat)) hp rfl
    case mgetv => exact keepsBut_of_put (f := fun _ t => t.mReg t.cur k.toNat) hp rfl
  case control =>
    intro s d a b off far idx
    simp only [List.forall_mem_cons, List.not_mem_nil, false_implies, implies_true, and_true]
    refine ⟨⟨?br, ?brLong, ?beq, ?bne, ?blt, ?bge, ?bltu, ?bgeu, ?bz, ?bzLong, ?bnz, ?bnzLong, ?nop, ?yield⟩,
      fun h heven => ⟨keepsButPlace_jumpReg h heven _, keepsButPlace_jumpReg h heven _⟩,
      fun hp => ⟨fun h => ⟨keepsButPlace_callTo h hp _, keepsButPlace_callTo h hp _⟩, fun h heven => ?callr,
        fun h => ⟨keepsButPlace_loopTo h hp _, keepsButPlace_loopTo h hp _⟩⟩⟩
    case br | brLong => exact keepsButPlace_of_branch (cond := fun _ => true) rfl
    case beq => exact keepsButPlace_of_branch (cond := fun v => condEq (v a) (v b)) rfl
    case bne => exact keepsButPlace_of_branch (cond := fun v => condNe (v a) (v b)) rfl
    case blt => exact keepsButPlace_of_branch (cond := fun v => condLt (v a) (v b)) rfl
    case bge => exact keepsButPlace_of_branch (cond := fun v => condGe (v a) (v b)) rfl
    case bltu => exact keepsButPlace_of_branch (cond := fun v => condLtu (v a) (v b)) rfl
    case bgeu => exact keepsButPlace_of_branch (cond := fun v => condGeu (v a) (v b)) rfl
    case bz | bzLong => exact keepsButPlace_of_branch (cond := fun v => condZero (v a)) rfl
    case bnz | bnzLong => exact keepsButPlace_of_branch (cond := fun v => condNonzero (v a)) rfl
    case nop | yield => exact fun h => ⟨_, runHead_of_mayIssue h _, s.keepsButPlace_passed⟩
    case callr => exact ⟨_, execCallr_of_even h hp heven, State.keepsButPlace_traced_went _ _ _ _⟩
  case waits => exact fun s sc l st c tl => ⟨keepsButPlace_execWaitc l st c tl, fun hsc => keepsButPlace_execFence hsc⟩
  case masks =>
    intro s d a b x
    simp only [List.forall_mem_cons, List.not_mem_nil, false_implies, implies_true, and_true]
    refine ⟨fun h => ⟨?mand, ?mor, ?mxor⟩, fun h => ?mnot, fun h => ?msetv⟩
    case mand => exact keepsButMask_maskTo h fun g => g a &&& g b
    case mor => exact keepsButMask_maskTo h fun g => g a ||| g b
    case mxor => exact keepsButMask_maskTo h fun g => g a ^^^ g b
    case mnot => exact keepsButMask_maskTo h fun g => ~~~g a
    case msetv =>
      refine ⟨_, runHead_of_mayIssue h _, ?_⟩
      exact (s.popPorts [x]).keepsButMask_setM d _
end

section
/-! SUPPORT. The rotation of a core's cycle, and the next action of a slot whose line is at hand (R35 to R39, R82). -/

namespace Sys2Proof.Machine

variable {s : State}

/-- Slots that may not issue are passed over. -/
theorem issueFrom_append_of_not_eligible (ck : Nat) (l rest : List Nat) (h : ∀ n ∈ l, s.eligible (ck * 8 + n) = false) :
    issueFrom ck (l ++ rest) s = issueFrom ck rest s := by
  induction l with
  | nil => rfl
  | cons n ns ih =>
    obtain ⟨hn, hns⟩ := List.forall_mem_cons.mp h
    rw [List.cons_append, issueFrom]
    simpa [hn] using ih hns

theorem issueFrom_of_not_eligible (ck : Nat) (l : List Nat) (h : ∀ n ∈ l, s.eligible (ck * 8 + n) = false) :
    issueFrom ck l s = .next s := by
  simpa [issueFrom] using issueFrom_append_of_not_eligible ck l [] h

/-- The rotation around its n-th place. -/
theorem rotation_split (p : Nat) {n : Nat} (h : n < 8) :
    rotation p = (List.range n).map (fun i => (p + i) % 8) ++ (p + n) % 8 :: (List.range' (n + 1) (7 - n)).map fun i => (p + i) % 8 := by
  have hrange : List.range 8 = List.range n ++ n :: List.range' (n + 1) (7 - n) := by
    interval_cases n <;> rfl
  rw [rotation, hrange, List.map_append, List.map_cons]

/-- A slot that no cause and no checkpoint claims runs the head that its line holds at its PC. -/
theorem State.nextAction_of_line {tk l : Nat} {i : Instr} (htrap : (s.slot tk).exl = true ∨ (s.slot tk).async = [])
    (hbaste : (s.slot tk).basteNow = false) (hcheck : s.fetchCheck tk = none) (hline : s.fetchLine tk = some l)
    (hlegal : illegalLine (s.slot tk).pc l = none)
    (hdecode : decode (lineHalf l (headIndex (s.slot tk).pc)) (lineTail l (headIndex (s.slot tk).pc)) = .ok i) :
    s.nextAction tk = (i, s.withLine tk l) := by
  have hcause : (!(s.slot tk).answered && !(s.slot tk).exl && !(s.slot tk).async.isEmpty) = false := by
    rcases htrap with h | h <;> simp [h]
  have hhead : headOf (s.slot tk).pc l = i := by simp only [headOf, hdecode]
  simp [State.nextAction, hcause, hbaste, hcheck, hline, hlegal, hhead]

/-- The turn of the core of `cur`. -/
theorem step_of_sched_nil (hsched : s.sched = []) (hcore : coreOf s.cur < 9216)
    (hclock : s.clockStopped (regionOf (quadOfCore (coreOf s.cur))) = false) : step s = cycleOf s (s.inStep (coreOf s.cur)) := by
  simp [step, hsched, coreTurn, coreOk, hcore, hclock]

/-- A listed event that its clocks allow is taken. -/
theorem step_of_event {e : Instr} {rest : List Turn} (hsched : s.sched = .event e :: rest) (hcore : Instr.ofCore e = false)
    (hclocks : (({ s with sched := rest } : State).clocksOf e).any ({ s with sched := rest } : State).clockStopped = false) :
    step s = settled (exec e { s with sched := rest }) := by
  simp only [step, hsched, takeTurn, hcore, hclocks]
  rfl

end Sys2Proof.Machine

open Sys2Proof Sys2Proof.Machine

/-- Settles O55: the rotation passes over the slots that may not issue, and the first that may runs the head at its PC. -/
theorem stepRunsDecodedInstruction : Obligations.StepRunsDecodedInstruction := by
  unfold Obligations.StepRunsDecodedInstruction
  intro s i l n hn ck slotAt tk x u run
  refine ⟨fun hsched hcore hclock hbefore helig _ htrap hbaste hcheck hline hlegal hdecode => ?core,
    fun e rest hsched hcore hclocks => step_of_event hsched hcore hclocks⟩
  have haction : u.nextAction tk = (i, u.withLine tk l) :=
    State.nextAction_of_line (s := u) htrap hbaste hcheck hline hlegal hdecode
  have hpassed : ∀ m ∈ (List.range n).map (fun j => ((s.core ck).rot + j) % 8), s.eligible (ck * 8 + m) = false :=
    List.forall_mem_map.mpr fun j hj => hbefore j (List.mem_range.mp hj)
  have hissue : issueFrom ck (rotation (s.core ck).rot) s = match run with
      | .next t => if stayed x (t.slot tk) then
          issueFrom ck ((List.range' (n + 1) (7 - n)).map fun j => ((s.core ck).rot + j) % 8) t
        else .next (t.charge tk (spacing i))
      | .fault f => .fault f
      | .refused r => .refused r := by
    rw [rotation_split _ hn, issueFrom_append_of_not_eligible _ _ _ hpassed, issueFrom]
    simp only [show s.eligible (ck * 8 + ((s.core ck).rot + n) % 8) = true from helig, if_true]
    rw [show (({ s with cur := ck * 8 + ((s.core ck).rot + n) % 8 } : State).nextAction (ck * 8 + ((s.core ck).rot + n) % 8)) =
      (i, u.withLine tk l) from haction] <;> rfl
  rw [step_of_sched_nil hsched hcore hclock, cycleOf, hissue]
  refine ⟨fun t hrun hstayed => ?goes, fun t hrun hstayed hafter => ?blocks, fun f hrun => ?faults, fun r hrun => ?refuses⟩
  case goes => simp only [hrun, hstayed]; rfl
  case blocks =>
    have hrest : ∀ m ∈ (List.range' (n + 1) (7 - n)).map (fun j => ((s.core ck).rot + j) % 8), t.eligible (ck * 8 + m) = false := by
      refine List.forall_mem_map.mpr fun j hj => ?_
      obtain ⟨hlo, hhi⟩ := List.mem_range'_1.mp hj
      exact hafter j (by omega) (by omega)
    simp only [hrun, hstayed, if_true, issueFrom_of_not_eligible ck _ hrest]; rfl
  case faults => simp only [hrun]
  case refuses => simp only [hrun]
end

section
/-! SUPPORT. Registers read after writes (R51, R84, R87, R88), and the writes due in a cycle of a core, one or two of them (R84, R86). -/

namespace Sys2Proof.Machine

/-! ## Slots of a core -/

theorem coreOf_slot (ck : Nat) {i : Nat} (hi : i < 8) : coreOf (ck * 8 + i) = ck := by rw [coreOf]; omega
theorem slotNo_slot (ck : Nat) {i : Nat} (hi : i < 8) : slotNo (ck * 8 + i) = i := by rw [slotNo]; omega

/-! ## Registers read after writes -/

section
variable (s : State) (tk : Nat)

@[simp] theorem State.tReg_zero : s.tReg tk 0 = 0 := rfl
@[simp] theorem State.mReg_zero : s.mReg tk 0 = BitVec.allOnes 64 := rfl

theorem State.slot_setT_ne {tk' : Nat} (r : Nat) (v : Word) (h : tk' ≠ tk) : (s.setT tk r v).slot tk' = s.slot tk' := by
  unfold State.setT; split
  · rfl
  · exact State.slot_updSlot_ne _ _ _ _ h

theorem State.tReg_setT_same {r : Nat} (v : Word) (h : r ≠ 0) : (s.setT tk r v).tReg tk r = v := by
  simp [State.tReg, State.setT, h]

theorem State.tReg_setT_ne {tk' n r : Nat} (v : Word) (h : tk' ≠ tk ∨ n ≠ r) : (s.setT tk r v).tReg tk' n = s.tReg tk' n := by
  by_cases htk : tk' = tk
  · subst htk
    have hn := h.resolve_left (· rfl)
    by_cases hr : r = 0 <;> simp [State.tReg, State.setT, hr, FMap.get_set_ne _ _ _ hn]
  · rw [State.tReg, State.tReg, State.slot_setT_ne _ _ _ _ htk]

theorem State.mReg_setM_same {r : Nat} (v : Word) (h : r ≠ 0) : (s.setM tk r v).mReg tk r = v := by
  simp [State.mReg, State.setM, h]

theorem State.mReg_setM_ne {tk' n r : Nat} (v : Word) (h : tk' ≠ tk ∨ n ≠ r) : (s.setM tk r v).mReg tk' n = s.mReg tk' n := by
  by_cases htk : tk' = tk
  · subst htk
    have hn := h.resolve_left (· rfl)
    by_cases hr : r = 0 <;> simp [State.mReg, State.setM, hr, FMap.get_set_ne _ _ _ hn]
  · by_cases hr : r = 0 <;> simp [State.mReg, State.setM, hr, State.slot_updSlot, htk]

theorem State.vReg_setV_same (r : Nat) (x : Vec) : (s.setV tk r x).vReg tk r = x := by
  by_cases hr : r < 16 <;> simp [State.vReg, State.setV, hr]

/-- A vector register of another number, or of another slot or core, stands. -/
theorem State.vReg_setV_ne {tk' n r : Nat} (x : Vec) (h : n ≠ r ∨ (n < 16 ∧ tk' ≠ tk) ∨ coreOf tk' ≠ coreOf tk) :
    (s.setV tk r x).vReg tk' n = s.vReg tk' n := by
  have hslot : n < 16 → r < 16 → tk' = tk → n ≠ r := by
    rintro h1 h2 rfl
    rcases h with h | ⟨_, h⟩ | h
    · exact h
    · exact absurd rfl h
    · exact absurd rfl h
  have hcore : ¬ n < 16 → ¬ r < 16 → coreOf tk' = coreOf tk → n - 16 ≠ r - 16 := by
    intro h1 h2 h3
    rcases h with h | ⟨h, _⟩ | h
    · omega
    · exact absurd h h1
    · exact absurd h3 h
  by_cases hr : r < 16 <;> by_cases hn : n < 16
  · by_cases htk : tk' = tk
    · simp [State.vReg, State.setV, hr, hn, htk, FMap.get_set_ne _ _ _ (hslot hn hr htk)]
    · simp [State.vReg, State.setV, hr, hn, State.slot_updSlot, htk]
  · simp [State.vReg, State.setV, hr, hn]
  · simp [State.vReg, State.setV, hr, hn]
  · by_cases hck : coreOf tk' = coreOf tk
    · simp [State.vReg, State.setV, hr, hn, hck, FMap.get_set_ne _ _ _ (hcore hn hr hck)]
    · simp [State.vReg, State.setV, hr, hn, State.core_updCore, hck]

theorem State.cReg_setC_same (r : Nat) (v : Word) : (s.setC (coreOf tk) r v).cReg tk r = v := by
  simp [State.cReg, State.setC]

theorem State.cReg_setC_ne {n r : Nat} (v : Word) (h : n ≠ r) : (s.setC (coreOf tk) r v).cReg tk n = s.cReg tk n := by
  simp [State.cReg, State.setC, FMap.get_set_ne _ _ _ h]

end

/-! ## Pending results -/

/-- A result that is not written at once is pending for its cycle (R84). -/
theorem State.writeReg_eq_pendWrite (s : State) (tk : Nat) {r : Reg} (v : Word) {lat : Nat} (h0 : 0 < r.toNat)
    (h : 32 ≤ r.toNat ∨ lat ≠ 3) : s.writeReg tk r v lat = s.pendWrite tk r.toNat lat v := by
  rw [State.writeReg, if_neg (by omega), if_neg (by omega)]

/-- A result of latency 3 to a register of the slot itself is written at once. -/
theorem State.writeReg_eq_setT (s : State) (tk : Nat) {r : Reg} (v : Word) (h0 : 0 < r.toNat) (h : r.toNat < 32) :
    s.writeReg tk r v 3 = s.setT tk r.toNat v := by
  rw [State.writeReg, if_neg (by omega), if_pos ⟨h, rfl⟩]

theorem State.core_pendWrite (s : State) (tk r lat : Nat) (v : Word) : ((s.pendWrite tk r lat v).core (coreOf tk)).pend =
    (s.core (coreOf tk)).pend ++
      [{ due := (s.core (coreOf tk)).cycle + lat, slot := slotNo tk, pc := (s.slot tk).pc, op := .reg r, val := v }] := by
  unfold State.pendWrite
  by_cases h : 3 < lat <;> simp [h]

theorem State.busy_pendWrite (s : State) (tk r lat : Nat) (v : Word) :
    ((s.pendWrite tk r lat v).slot tk).busy = (s.slot tk).busy ++ if 3 < lat then [r] else [] := by
  unfold State.pendWrite
  by_cases h : 3 < lat <;> simp [h]

theorem State.tReg_pendWrite (s : State) (tk r lat : Nat) (v : Word) (tk' n : Nat) :
    (s.pendWrite tk r lat v).tReg tk' n = s.tReg tk' n := by
  unfold State.pendWrite
  by_cases h : 3 < lat
  · by_cases htk : tk' = tk <;> simp [h, State.tReg, State.slot_updSlot, htk]
  · simp [h, State.tReg]

/-! ## The writes due in a cycle (R84, R86) -/

/-- The writes of a list that are no queue operations, in slot order. -/
def inSlotOrder (due : List Pend) : List Pend :=
  (List.range 8).flatMap fun n => due.filter fun p => decide (p.slot = n) && !p.op.late

/-- The writes due are performed in slot order, the queue operations last. -/
theorem State.performDue_eq (s : State) (ck : Nat) :
    s.performDue ck =
      let c := (s.core ck).completeAll
      let due := c.pend.filter fun p => decide (p.due ≤ c.cycle)
      (inSlotOrder due ++ due.filter fun p => p.op.late).foldl (fun u p => u.applyPend ck p)
        (s.setCore ck { c with pend := c.pend.filter fun p => !decide (p.due ≤ c.cycle) }) := by
  simp only [State.performDue, inSlotOrder, List.foldl_append, List.foldl_flatMap]

/-- A write of a slot below another's comes first. -/
theorem inSlotOrder_pair {p q : Pend} (hp : p.op.late = false) (hq : q.op.late = false) (hpq : p.slot < q.slot) (hq8 : q.slot < 8) :
    inSlotOrder [p, q] = [p, q] ∧ inSlotOrder [q, p] = [p, q] := by
  have hne : p.slot ≠ q.slot := by omega
  have hlists : ∀ i < 8, ∀ j < 8, i < j →
      (List.range 8).flatMap (fun n => (if i = n then [p] else []) ++ if j = n then [q] else []) = [p, q]
      ∧ (List.range 8).flatMap (fun n => (if j = n then [q] else []) ++ if i = n then [p] else []) = [p, q] := by
    intro i hi j hj hij
    interval_cases j <;> interval_cases i <;> exact ⟨rfl, rfl⟩
  obtain ⟨h1, h2⟩ := hlists p.slot (by omega) q.slot hq8 hpq
  refine ⟨Eq.trans ?_ h1, Eq.trans ?_ h2⟩
  all_goals
    unfold inSlotOrder
    congr 1; funext n
    by_cases hpn : p.slot = n <;> by_cases hqn : q.slot = n <;> simp [hp, hq, hpn, hqn]

theorem inSlotOrder_single {p : Pend} (hp : p.op.late = false) (hp8 : p.slot < 8) : inSlotOrder [p] = [p] := by
  have hlists : ∀ i < 8, (List.range 8).flatMap (fun n => if i = n then [p] else []) = [p] := by
    intro i hi
    interval_cases i <;> rfl
  refine Eq.trans ?_ (hlists p.slot hp8)
  unfold inSlotOrder
  congr 1; funext n
  by_cases hpn : p.slot = n <;> simp [hp, hpn]

/-- A core in which nothing completes stands. -/
theorem Core.completeAll_of_none {c : Core} (h : ∀ e ∈ c.vq, e.completes c.cycle = false) : c.completeAll = c := by
  have : c.vq.filter (fun e => e.completes c.cycle) = [] := List.filter_eq_nil_iff.mpr fun e he => by simp [h e he]
  rw [Core.completeAll, this]; rfl

/-- One write is due, and it is performed. -/
theorem State.performDue_single {s : State} {ck : Nat} {p : Pend} (hpend : (s.core ck).completeAll.pend = [p])
    (hdue : p.due ≤ (s.core ck).completeAll.cycle) (hlate : p.op.late = false) (h8 : p.slot < 8) :
    s.performDue ck = (s.setCore ck { (s.core ck).completeAll with pend := [] }).applyPend ck p := by
  simp [State.performDue_eq, hpend, hdue, hlate, inSlotOrder_single hlate h8]

/-- Two writes of two slots are due: the lower slot's is performed first. -/
theorem State.performDue_pair {s : State} {ck : Nat} {p q : Pend} (hpend : (s.core ck).completeAll.pend = [p, q] ∨ (s.core ck).completeAll.pend = [q, p])
    (hp : p.due ≤ (s.core ck).completeAll.cycle) (hq : q.due ≤ (s.core ck).completeAll.cycle)
    (hplate : p.op.late = false) (hqlate : q.op.late = false) (hpq : p.slot < q.slot) (h8 : q.slot < 8) :
    s.performDue ck = ((s.setCore ck { (s.core ck).completeAll with pend := [] }).applyPend ck p).applyPend ck q := by
  obtain ⟨horder, horder'⟩ := inSlotOrder_pair hplate hqlate hpq h8
  rcases hpend with h | h <;> simp [State.performDue_eq, h, hp, hq, hplate, hqlate, horder, horder']

/-- A write to a shared register, in its cycle. -/
theorem State.applyPend_shared {s : State} {ck n : Nat} {p : Pend} (hop : p.op = .reg (32 + n)) (hn : n < 24) (h8 : p.slot < 8) :
    ((s.applyPend ck p).core ck).c = FMap.set 0 (s.core ck).c n p.val := by
  have h1 : ¬ 32 + n < 32 := by omega
  have h2 : 32 + n < 56 := by omega
  simp [State.applyPend, hop, State.landReg, h1, h2, coreOf_slot ck h8, State.setC]

end Sys2Proof.Machine

open Sys2Proof Sys2Proof.Machine

/-- Settles O6: by the lemmas of register reads after writes; the writes due in a cycle are performed in slot order, so the higher
slot's comes last. -/
theorem resultsReachTheirRegisters : Obligations.ResultsReachTheirRegisters := by
  unfold Obligations.ResultsReachTheirRegisters
  refine ⟨fun s tk lat r v => ⟨?zero, ?own, ?pending⟩, ?due, fun s tk r n v x => ?reads⟩
  case zero => exact fun h => by rw [State.writeReg, if_pos h]
  case own =>
    intro h0 h32
    rw [State.writeReg_eq_setT _ _ _ h0 h32]
    exact ⟨s.tReg_setT_same tk v (by omega), fun tk' n h => s.tReg_setT_ne tk v h⟩
  case pending =>
    intro h0 h
    rw [State.writeReg_eq_pendWrite _ _ _ h0 h]
    exact ⟨s.core_pendWrite tk _ _ _, s.busy_pendWrite tk _ _ _, s.tReg_pendWrite tk _ _ _⟩
  case due =>
    intro s ck n p q i j hn hij hj hvq hp hq
    have hall := Core.completeAll_of_none hvq
    have hpop : p.op = .reg (32 + n) := by rw [hp]
    have hqop : q.op = .reg (32 + n) := by rw [hq]
    have hpdue : p.due ≤ (s.core ck).completeAll.cycle := by rw [hall, hp]
    have hqdue : q.due ≤ (s.core ck).completeAll.cycle := by rw [hall, hq]
    have hpslot : p.slot = i := by rw [hp]
    have hqslot : q.slot = j := by rw [hq]
    refine ⟨fun hpend => ?one, fun hpend => ?two⟩
    case one =>
      rw [State.performDue_single (by rw [hall]; exact hpend) hpdue (by rw [hpop]; rfl) (by omega), State.applyPend_shared hpop hn (by omega),
        FMap.get_set_same]
    case two =>
      rw [State.performDue_pair (by rw [hall]; exact hpend) hpdue hqdue (by rw [hpop]; rfl) (by rw [hqop]; rfl) (by omega) (by omega),
        State.applyPend_shared hqop hn (by omega), FMap.get_set_same]
  case reads =>
    exact ⟨rfl, rfl, s.tReg_setT_same tk v, fun h => s.tReg_setT_ne tk v (.inr h), rfl, rfl, s.mReg_setM_same tk v,
      fun h => s.mReg_setM_ne tk v (.inr h), s.vReg_setV_same tk r x, fun h => s.vReg_setV_ne tk x (.inl h), s.cReg_setC_same tk r v,
      fun h => s.cReg_setC_ne tk v h⟩
end

section
/-! SUPPORT. When a head that names fewer registers may issue. -/

namespace Sys2Proof.Machine

/-- What it takes for a head to issue, register by register. -/
theorem mayIssue_iff {u : Use} {s : State} : mayIssue u s = true ↔
    (u.sup = none ∨ s.super = true) ∧ (∀ n ∈ u.names, s.me.sr.outside n = false ∧ n ∉ s.me.busy)
      ∧ (∀ r ∈ u.rd, readMisuse s.myCore (slotNo s.cur) r.toNat = none) ∧ (∀ r ∈ u.wr, writeMisuse s.myCore (slotNo s.cur) r.toNat = none)
      ∧ ∀ r ∈ u.rd, 56 ≤ r.toNat → (portHead s.myCore r.toNat).isSome := by
  have hmisused : (u.misused s.myCore (slotNo s.cur)).isNone = true ↔
      (∀ r ∈ u.rd, readMisuse s.myCore (slotNo s.cur) r.toNat = none) ∧ ∀ r ∈ u.wr, writeMisuse s.myCore (slotNo s.cur) r.toNat = none := by
    simp [Use.misused]
  have hstarved : (u.starved s.myCore).isNone = true ↔ ∀ r ∈ u.rd, 56 ≤ r.toNat → (portHead s.myCore r.toNat).isSome := by
    simp [Use.starved, Option.isSome_iff_ne_none]
  rw [mayIssue, Bool.and_eq_true, Bool.and_eq_true, hmisused, hstarved]
  simp only [Bool.and_eq_true, Bool.or_eq_true, Bool.not_eq_true', List.any_eq_false, Option.isNone_iff_eq_none, Bool.not_eq_true,
    List.contains_eq_mem, decide_eq_false_iff_not]
  constructor
  · rintro ⟨⟨⟨⟨h1, h2⟩, h3⟩, h4, h5⟩, h6⟩
    exact ⟨h1, fun n hn => ⟨h2 n hn, h3 n hn⟩, h4, h5, h6⟩
  · rintro ⟨h1, h23, h4, h5, h6⟩
    exact ⟨⟨⟨⟨h1, fun n hn => (h23 n hn).1⟩, fun n hn => (h23 n hn).2⟩, h4, h5⟩, h6⟩

/-- A head that names no more than one that may issue, and whose level is right, may issue. -/
theorem mayIssue_of_subset {u v : Use} {s : State} (h : mayIssue v s = true) (hsup : u.sup = none ∨ s.super = true) (hrd : u.rd ⊆ v.rd)
    (hwr : u.wr ⊆ v.wr) (hvs : u.vs ⊆ v.vs) (hms : u.ms ⊆ v.ms) (hseed : u.seed = true → v.seed = true) : mayIssue u s = true := by
  obtain ⟨_, hn, hr, hw, hp⟩ := mayIssue_iff.mp h
  have hnames : u.names ⊆ v.names := by
    intro n hn
    simp only [Use.names, List.mem_append, List.mem_map, List.mem_ite_nil_right] at hn ⊢
    rcases hn with ((⟨r, hr | hr, e⟩ | ⟨x, hx, e⟩) | ⟨x, hx, e⟩) | ⟨hs, e⟩
    · exact .inl (.inl (.inl ⟨r, .inl (hrd hr), e⟩))
    · exact .inl (.inl (.inl ⟨r, .inr (hwr hr), e⟩))
    · exact .inl (.inl (.inr ⟨x, hvs hx, e⟩))
    · exact .inl (.inr ⟨x, hms hx, e⟩)
    · exact .inr ⟨hseed hs, e⟩
  exact mayIssue_iff.mpr ⟨hsup, fun n h => hn n (hnames h), fun r h => hr r (hrd h), fun r h => hw r (hwr h), fun r h => hp r (hrd h)⟩

/-- A head whose operand checks trap (R96). -/
theorem runHead_trap {u : Use} {s : State} (h : mayIssue u s = true) {k : (Reg → Word) → State → Act} {c : Nat} {info : Word}
    (hk : k s.operand (s.popPorts u.rd) = .trap c info) : runHead u s k = .next (s.enterTrap s.cur c info s.me.pc) := by
  rw [runHead_of_mayIssue h, hk]; rfl

/-- A head that is performed. -/
theorem runHead_next {u : Use} {s t : State} (h : mayIssue u s = true) {k : (Reg → Word) → State → Act}
    (hk : k s.operand (s.popPorts u.rd) = .next t) : runHead u s k = .next t.passed := by
  rw [runHead_of_mayIssue h, hk]; rfl

end Sys2Proof.Machine
end

section
/-! SUPPORT. Traps taken by heads, and the return from one (R96, R106, R107). -/

namespace Sys2Proof.Machine

/-- STATUS after a return: PL and EXL of ESTATUS, and every other bit as it was. -/
theorem getLsbD_eretStatus (status estatus : Word) (i : Nat) : (eretStatus status estatus).getLsbD i =
    if i = 0 ∨ i = 7 then estatus.getLsbD i else status.getLsbD i := by
  by_cases hi : i < 64
  · have hmask : (0x81#64).getLsbD i = decide (i = 0 ∨ i = 7) := by interval_cases i <;> rfl
    rw [eretStatus, BitVec.getLsbD_or, BitVec.getLsbD_and, BitVec.getLsbD_and, BitVec.getLsbD_not, hmask]
    by_cases h : i = 0 ∨ i = 7 <;> simp [h, hi]
  · rw [BitVec.getLsbD_of_ge _ _ (by omega), BitVec.getLsbD_of_ge estatus _ (by omega), BitVec.getLsbD_of_ge status _ (by omega), ite_self]

/-- What a return leaves of its slot. -/
theorem State.me_leaveTrap (s : State) : (s.leaveTrap s.cur).me.pc = s.me.sr.epc
    ∧ (s.leaveTrap s.cur).me.sr = { s.me.sr with status := eretStatus s.me.sr.status s.me.sr.estatus }
    ∧ (s.leaveTrap s.cur).me.t = s.me.t := by
  unfold State.leaveTrap State.me
  rw [State.updSlot_cur, State.slot_updSlot_same]
  exact ⟨rfl, rfl, rfl⟩

/-- A head of the supervisor that names nothing may issue at its level. -/
theorem mayIssue_supervisor {s : State} {n : Nat} (h : s.super = true) : mayIssue { sup := some n } s = true :=
  mayIssue_of_subset (mayIssue_nothing s) (.inr h) (by simp) (by simp) (by simp) (by simp) (by simp)

end Sys2Proof.Machine

open Sys2Proof Sys2Proof.Machine

/-- Settles O8: each head is one `runHead`; the return writes PL and EXL of ESTATUS alone. -/
theorem trapHeadsAndReturn : Obligations.TrapHeadsAndReturn := by
  unfold Obligations.TrapHeadsAndReturn
  intro s n head rsv
  refine ⟨?trap, fun h => ?brk, fun h => ?armed, ?illegal, fun hsup heven => ?eret, fun hsup hodd => ?odd, fun hsup => ?task⟩
  case trap => exact runHead_of_mayIssue (mayIssue_nothing s) _
  case brk =>
    refine (runHead_of_mayIssue (mayIssue_nothing s) _).trans ?_
    rw [State.popPorts_nil, h]; rfl
  case armed =>
    refine (runHead_of_mayIssue (mayIssue_nothing s) _).trans ?_
    rw [State.popPorts_nil, h]; rfl
  case illegal =>
    show Host.Outcome.next (s.enterTrap s.cur 0x01 (word (head.toNat + bit rsv * 65536)) s.me.pc) = _
    cases rsv <;> rfl
  case eret =>
    obtain ⟨hpc, hsr, ht⟩ := s.me_leaveTrap
    refine ⟨s.leaveTrap s.cur, ?_, hpc, ?_, ?_, fun i h0 h7 => ?_, ?_, ht, rfl⟩
    · refine (runHead_of_mayIssue (mayIssue_supervisor hsup) _).trans ?_
      rw [State.popPorts_nil, heven]; rfl
    · rw [hsr, getLsbD_eretStatus, if_pos (.inl rfl)]
    · rw [hsr, getLsbD_eretStatus, if_pos (.inr rfl)]
    · rw [hsr, getLsbD_eretStatus, if_neg (by omega)]
    · rw [hsr]
  case odd =>
    refine runHead_trap (mayIssue_supervisor hsup) ?_
    rw [State.popPorts_nil, hodd]; rfl
  case task => exact runHead_of_task rfl hsup _
end

section
/-! SUPPORT. The allotment of the scratchpad (R113). -/

namespace Sys2Proof.Machine

/-- A change of the slot's registers leaves what it may write. -/
theorem State.mayPut_updSr {s : State} {d : Reg} (f : SysRegs → SysRegs) (hf : (f s.me.sr).status = s.me.sr.status) :
    (s.updMe fun x => x.updSr f).mayPut d = s.mayPut d := by
  have hkind : (s.me.updSr f).kind = s.me.kind := by rw [Slot.kind, Slot.updSr, hf]; rfl
  simp [State.mayPut, Slot.optimistic, hkind]

end Sys2Proof.Machine

open Sys2Proof Sys2Proof.Machine

/-- Settles O11: GETID, WID, TIME and QLEN are one result each; SALLOC and SFREE move TOP; QMAP and QCLEAR are pending. -/
theorem identitiesAndTime : Obligations.IdentitiesAndTime := by
  unfold Obligations.IdentitiesAndTime
  refine ⟨fun s d n h hp => ?names, fun s d a imm q w r hp => ⟨fun h hok hroom => ?salloc, fun h halign hlt hlo hhi => ?sfree, ?qmap, ?qclear,
    fun h => ?qlen⟩⟩
  case names =>
    have hgetid (sel : IdSel) : exec (.getid sel d) s = .next (s.wrote [] d (s.identity sel) 3) :=
      runHead_put h hp (fun _ t => t.identity sel) 3
    exact ⟨hgetid .thr, hgetid .pthr, hgetid .gca, hgetid .quad, hgetid .pquad, hgetid .part, hgetid .panel, hgetid .size,
      runHead_put h hp (fun _ t => t.widField n.toNat) 3, runHead_put h hp (fun _ t => t.tcnt t.cur) 3,
      runHead_put h hp (fun _ t => t.tcnt t.cur + t.tofs t.cur) 3⟩
  case salloc =>
    refine (runHead_of_mayIssue h _).trans ?_
    have hroom' : ¬ saLimit s.me.sr.spallot < saTop s.me.sr.spallot + ((s.operand a).toNat + imm.toNat + 63) / 64 := by omega
    simp only [State.sr_popPorts, hok, hroom', Bool.not_true, decide_false, Bool.or_self, Bool.false_eq_true, if_false]
    rw [put_of_mayPut (by rw [State.mayPut_updSr]; simpa using hp; rfl)]
    simp [Act.run, State.passed]
  case sfree =>
    refine runHead_next h ?_
    have hbad : ¬ ((s.operand a).toNat % 64 ≠ 0 ∨ 2 ^ 24 ≤ (s.operand a).toNat ∨ (s.operand a).toNat < saBase s.me.sr.spallot * 64
        ∨ saTop s.me.sr.spallot * 64 < (s.operand a).toNat) := by omega
    simp only [State.sr_popPorts, if_neg hbad]
  case qmap => exact runHead_of_mayIssue (mayIssue_nothing s) _
  case qclear => exact runHead_of_mayIssue (mayIssue_nothing s) _
  case qlen => exact runHead_put h hp (fun _ _ => word (s.myCore.qlen imm.toNat)) 3
end

section
/-! SUPPORT. System registers: who may reach them, and what each reads as after a write of it (R92 to R94, R368, R370). -/

namespace Sys2Proof.Machine

/-! ## BASTECFG (R368, R370) -/

@[simp] theorem State.slot_clearCommit (s : State) (tk h n : Nat) : (s.clearCommit tk h).slot n = s.slot n := by
  unfold State.clearCommit; split <;> rfl

/-- Free notices leave every slot. -/
@[simp] theorem State.slot_freeNotices (s : State) (tk n : Nat) : (s.freeNotices tk).slot n = s.slot n := by
  unfold State.freeNotices
  generalize (s.slot tk).task.msgTo = cores
  induction cores generalizing s with
  | nil => rfl
  | cons gca rest ih =>
    rw [List.foldl_cons, ih]
    dsimp only
    split
    · rfl
    · split <;> rfl

/-- With EN 1 the register takes its unreserved bits, EN itself only where the quad has a guard. -/
theorem State.bastecfg_basteEnable (s : State) (tk : Nat) (v : Word) : ((s.basteEnable tk (basteWord v true)).slot tk).sr.bastecfg =
    basteWord v ((s.part (s.pidOf tk)).guardQuad (s.pOf tk)).isSome := by
  unfold State.basteEnable
  by_cases hg : ((s.part (s.pidOf tk)).guardQuad (s.pOf tk)).isSome = true
  · have hidem : basteWord (basteWord v true) true = basteWord v true := by simp [basteWord, BitVec.and_assoc]
    dsimp only
    split <;> simp [hg, Slot.updSr, Slot.updTask, hidem]
  · have hlow : basteWord (basteWord v true) false = basteWord v false := by simp [basteWord, BitVec.and_assoc]
    simp [hg, Slot.updSr, hlow]

theorem basteEn_basteWord (v : Word) : basteEn (basteWord v true) = v.getLsbD 63 := by
  simp [basteEn, basteWord]

/-- Without bit 63 the two forms of the register are one. -/
theorem basteWord_of_not_en {v : Word} (h : v.getLsbD 63 = false) (g : Bool) : basteWord v g = v &&& 0x00FFFFFFFFFFF000#64 := by
  cases g
  · rfl
  · apply BitVec.eq_of_getLsbD_eq
    intro i hi
    have hmasks : ∀ j < 64, j ≠ 63 → (0x80FFFFFFFFFFF000#64).getLsbD j = (0x00FFFFFFFFFFF000#64).getLsbD j := by decide
    rw [basteWord, if_pos rfl, BitVec.getLsbD_and, BitVec.getLsbD_and]
    by_cases h63 : i = 63
    · rw [h63, h]; rfl
    · rw [hmasks i hi h63]

/-- A write of BASTECFG with EN 1 (R368). -/
theorem State.bastecfg_srSet_of_en (s : State) (tk : Nat) {v : Word} (h : v.getLsbD 63 = true) : (s.srSet tk 0x090 v).srValue tk 0x090 =
    basteWord v ((s.part (s.pidOf tk)).guardQuad (s.pOf tk)).isSome := by
  show ((s.writeBastecfg tk v).slot tk).sr.bastecfg = _
  rw [State.writeBastecfg]
  simp only [basteEn_basteWord, h, if_true]
  exact s.bastecfg_basteEnable tk v

/-- A write of BASTECFG with EN 0 waits for the stores and messages of a basted slot (R370). -/
theorem State.bastecfg_srSet_of_not_en (s : State) (tk : Nat) {v : Word} (h : v.getLsbD 63 = false) :
    (s.srSet tk 0x090 v).srValue tk 0x090 = if (s.slot tk).bst = true ∧ ((s.slot tk).cnt.stcS ≠ 0 ∨ (s.slot tk).cnt.stcP ≠ 0)
      then s.srValue tk 0x090 else v &&& 0x00FFFFFFFFFFF000#64 := by
  show ((s.writeBastecfg tk v).slot tk).sr.bastecfg = if _ then (s.slot tk).sr.bastecfg else _
  rw [State.writeBastecfg]
  simp only [basteEn_basteWord, h, Bool.false_eq_true, if_false]
  by_cases hwait : (s.slot tk).bst = true ∧ ((s.slot tk).cnt.stcS ≠ 0 ∨ (s.slot tk).cnt.stcP ≠ 0)
  · have hw : ((s.slot tk).bst && !decide ((s.slot tk).cnt.stcS = 0 ∧ (s.slot tk).cnt.stcP = 0)) = true := by
      simp only [Bool.and_eq_true, Bool.not_eq_true', decide_eq_false_iff_not]
      exact ⟨hwait.1, by omega⟩
    rw [if_pos hw, if_pos hwait]
    simp [Slot.updTask]
  · have hw : ¬ ((s.slot tk).bst && !decide ((s.slot tk).cnt.stcS = 0 ∧ (s.slot tk).cnt.stcP = 0)) = true := by
      simp only [Bool.and_eq_true, Bool.not_eq_true', decide_eq_false_iff_not]
      rintro ⟨hb, hc⟩
      exact hwait ⟨hb, by omega⟩
    rw [if_neg hw, if_neg hwait, ← basteWord_of_not_en h true]
    simp [State.basteDisable, Slot.updSr, Slot.updTask]

/-! ## The heads (R93, R108) -/

/-- A head of a register whose level is right is not refused before its checks. -/
theorem srPriv_of_level {s : State} {n : Nat} {acc : SrAccess} (hacc : srAccess n = some acc) (h : s.super = true ∨ acc.taskRead = true) :
    srPriv n = none ∨ s.super = true := by
  rcases h with h | h
  · exact .inr h
  · exact .inl (by simp [srPriv, hacc, h])

/-- RDSR, WRSR and SWSR may issue where their level is right and a head that names their registers may. -/
theorem mayIssue_sysreg {s : State} {d a : Reg} {n : Nat} (h : mayIssue { rd := [a], wr := [d], seed := srSeed n } s = true)
    (hpriv : srPriv n = none ∨ s.super = true) :
    mayIssue { wr := [d], seed := srSeed n, sup := srPriv n } s = true
      ∧ mayIssue { rd := [a], seed := srSeed n, sup := srPriv n } s = true
      ∧ mayIssue { rd := [a], wr := [d], seed := srSeed n, sup := srPriv n } s = true :=
  ⟨mayIssue_of_subset h hpriv (by simp) (by simp) (by simp) (by simp) id,
    mayIssue_of_subset h hpriv (by simp) (by simp) (by simp) (by simp) id,
    mayIssue_of_subset h hpriv (by simp) (by simp) (by simp) (by simp) id⟩

@[simp] theorem State.pidOf_updPart (s : State) (k : Nat) (f : Part → Part) (tk : Nat) : (s.updPart k f).pidOf tk = s.pidOf tk := rfl
@[simp] theorem State.super_popPorts (s : State) (rs : List Reg) : (s.popPorts rs).super = s.super := by
  simp [State.super, Slot.pl]

theorem lateDest_of_mayPut {s : State} {d : Reg} (h : s.mayPut d = true) (a : Act) : lateDest s d a = a := by
  simp only [State.mayPut, Bool.not_eq_true', Bool.and_eq_false_iff] at h
  unfold lateDest
  rcases h with h | h <;> simp_all

/-! ## Values (R92, R94) -/

theorem getLsbD_status_write (r v : Word) (i : Nat) :
    ((r &&& ~~~0x80#64) ||| (v &&& 0x80#64)).getLsbD i = if i = 7 then v.getLsbD 7 else r.getLsbD i := by
  by_cases hi : i < 64
  · have hmask : (0x80#64).getLsbD i = decide (i = 7) := by interval_cases i <;> rfl
    rw [BitVec.getLsbD_or, BitVec.getLsbD_and, BitVec.getLsbD_and, BitVec.getLsbD_not, hmask]
    by_cases h : i = 7 <;> simp [h, hi]
  · rw [if_neg (by omega), BitVec.getLsbD_of_ge _ _ (by omega), BitVec.getLsbD_of_ge r _ (by omega)]

theorem State.srSet_guardBase (s : State) (tk : Nat) (v : Word) {n : Nat} (hn : n < 8) :
    (s.srSet tk (0x050 + n) v).srValue tk (0x050 + n) = v &&& 0xF0FFFFE0#64 := by
  interval_cases n <;> simp [State.srSet, State.srValue, Slot.updSr]

theorem State.srSet_guardLim (s : State) (tk : Nat) (v : Word) {n : Nat} (hn : n < 8) :
    (s.srSet tk (0x058 + n) v).srValue tk (0x058 + n) = v &&& 0x01FFFFE0#64 := by
  interval_cases n <;> simp [State.srSet, State.srValue, Slot.updSr]

end Sys2Proof.Machine

open Sys2Proof Sys2Proof.Machine

/-- Settles O10: an access is one `runHead` once its number is defined; the pending write is `srSet`, and each register reads as its
write left it. -/
theorem systemRegisterAccess : Obligations.SystemRegisterAccess := by
  unfold Obligations.SystemRegisterAccess
  refine ⟨fun s d a sr hp h => ⟨fun hnone => ?undefined, fun acc hacc hlevel => ?defined⟩, fun s ck n i r v p q hi h0 h32 hvq hp hq => ?cycle,
    fun s tk v => ?values⟩
  case undefined =>
    have hpriv : srPriv sr.toNat = none := by rw [srPriv, hnone]
    obtain ⟨hr, hw, hs⟩ := mayIssue_sysreg h (.inl hpriv)
    refine ⟨runHead_trap hr ?_, runHead_trap hw ?_, runHead_trap hs ?_⟩
    all_goals rw [srDefined, hnone]
  case defined =>
    obtain ⟨hr, hw, hs⟩ := mayIssue_sysreg h (srPriv_of_level hacc hlevel)
    have hput : ¬ (decide (d.toNat = 63) && (s.popPorts [a]).me.optimistic) = true := by
      simp only [State.mayPut, Bool.not_eq_true'] at hp
      rw [State.optimistic_popPorts, hp]; exact Bool.false_ne_true
    refine ⟨?rdsr, fun hno => ⟨?wrsrNo, ?swsrNo⟩, fun hyes => ⟨?wrsr, ?swsr⟩⟩
    case rdsr =>
      simp only [exec, execRdsr, srDefined, hacc]
      exact runHead_put hr hp (fun _ t => t.srValue t.cur sr.toNat) 3
    case wrsrNo =>
      refine runHead_next hw ?_
      simp only [srDefined, hacc, State.srWritable, State.super_popPorts, hno]
      rfl
    case swsrNo =>
      refine (runHead_of_mayIssue hs _).trans ?_
      simp only [srDefined, hacc, State.srWritable, State.super_popPorts, hno, Bool.not_false, if_true, State.cur_popPorts]
      rw [put_of_mayPut (by simpa using hp)]
      simp [Act.run, State.passed, State.wrote]
    case wrsr =>
      refine runHead_next hw ?_
      simp only [srDefined, hacc, State.srWritable, State.super_popPorts, hyes, if_true]
    case swsr =>
      refine runHead_next hs ?_
      simp only [srDefined, hacc, State.srWritable, State.super_popPorts, hyes, Bool.not_true, Bool.false_eq_true, if_false]
      rw [lateDest_of_mayPut (by simpa using hp), if_neg hput, ite_self]
  case cycle =>
    have hall : (s.core ck).completeAll = s.core ck := Core.completeAll_of_none (by simp [hvq])
    have hr : r ≠ 0 := by omega
    refine ⟨fun hpend => ?write, fun hpend => ?swap⟩
    case write =>
      rw [State.performDue_single (p := p) (by rw [hall]; exact hpend) (by rw [hall, hp]) (by rw [hp]; rfl) (by rw [hp]; exact hi), hall, hp]
      rfl
    case swap =>
      rw [State.performDue_single (p := q) (by rw [hall]; exact hpend) (by rw [hall, hq]) (by rw [hq]; rfl) (by rw [hq]; exact hi), hall, hq]
      simp only [State.applyPend, if_neg hr]
      rfl
  case values =>
    refine ⟨?_, ?_, ?_, ?_, ?_, fun i => ?status, ?_, ?_, ?_, ?_, ?_, ?_, ?_, ?_, ?_, ?_, ?_, fun hen => s.bastecfg_srSet_of_en tk hen,
      fun hen => s.bastecfg_srSet_of_not_en tk hen, ?seed, fun n hn => ⟨s.srSet_guardBase tk v hn, s.srSet_guardLim tk v hn⟩⟩
    case status =>
      rw [← getLsbD_status_write]
      simp [State.srSet, State.srValue, Slot.updSr]
    case seed =>
      by_cases hz : v.setWidth 32 = 0#32 <;> simp [State.srSet, State.srValue, Slot.updSr, hz]
    all_goals simp [State.srSet, State.srValue, Slot.updSr, Slot.updTask, geomMask]
end

section
/-! SUPPORT. Vector-unit heads: one that may issue, and finds room, enters the queue with its destination (R117 to R120, R127). -/

namespace Sys2Proof.Machine

/-- The pops of a head leave the masks and the vector registers of its slot. -/
theorem State.mReg_popPorts (s : State) (rs : List Reg) (n : Nat) : (s.popPorts rs).mReg s.cur n = s.mReg s.cur n := by
  have hm : ((s.popPorts rs).slot s.cur).m = (s.slot s.cur).m := by
    have h := congrArg Slot.m (s.me_popPorts rs)
    rwa [State.me, State.cur_popPorts] at h
  rw [State.mReg, State.mReg, hm]

theorem State.vReg_popPorts (s : State) (rs : List Reg) (n : Nat) : (s.popPorts rs).vReg s.cur n = s.vReg s.cur n := by
  have hv : ((s.popPorts rs).slot s.cur).v = (s.slot s.cur).v := by
    have h := congrArg Slot.v (s.me_popPorts rs)
    rwa [State.me, State.cur_popPorts] at h
  have hw : ((s.popPorts rs).core (coreOf s.cur)).w = (s.core (coreOf s.cur)).w := by
    refine State.popPorts_induct (P := fun t => (t.core (coreOf s.cur)).w = (s.core (coreOf s.cur)).w) rs (fun t r h => ?_) (fun t h => h) s rfl
    have hpop (c : Core) (r : Nat) : (portPop c r).w = c.w := by
      unfold portPop; split
      · rfl
      · split
        · rfl
        · split <;> rfl
    unfold State.updMyCore
    rw [State.core_updCore]
    split
    · next hc => rw [hpop, ← hc]; exact h
    · exact h
  rw [State.vReg, State.vReg, hv, hw]

section
variable {s : State} {u : Use} {time : Nat × Nat}

/-- A vector-unit head that may issue enters the queue, once there is room. -/
theorem vecUnit_of_mayIssue (h : mayIssue u s = true) (hq : s.myCore.vqUsed < 8)
    {k : (Reg → Word) → State → Act ⊕ (VDest × Option (BitVec 32))} {dest : VDest} {seed : Option (BitVec 32)}
    (hk : k s.operand (s.popPorts u.rd) = .inr (dest, seed)) : vecUnit u s time k = .next (s.entered u.rd dest seed time) := by
  rw [vecUnit, runHead_of_mayIssue h, if_neg (by omega), hk]; rfl

/-- A vector-unit head whose operand checks trap. -/
theorem vecUnit_trap (h : mayIssue u s = true) (hq : s.myCore.vqUsed < 8)
    {k : (Reg → Word) → State → Act ⊕ (VDest × Option (BitVec 32))} {c : Nat} {info : Word}
    (hk : k s.operand (s.popPorts u.rd) = .inl (.trap c info)) : vecUnit u s time k = .next (s.enterTrap s.cur c info s.me.pc) := by
  refine runHead_trap h ?_
  rw [if_neg (by omega), hk]

variable {d : VReg} {m : MReg}

/-- An elementwise head enters the queue with its lanes. -/
theorem lanewise_of_mayIssue {srcs : List VReg} {w n : Nat} {f : (VReg → Nat) → Nat} (h : mayIssue { vs := d :: srcs, ms := [m] } s = true)
    (hq : s.myCore.vqUsed < 8) : lanewise d srcs m w n time f s =
      .next (s.entered [] (s.lanesTo d m w n fun i => f fun x => laneAt (s.vReg s.cur x.toNat) w i) none time) :=
  vecUnit_of_mayIssue h hq rfl

/-- A head that rounds its elements enters the queue with them, and under .rsr with the seed after its draws. -/
theorem rounded_of_mayIssue {srcs : List VReg} {r : Rnd} {w n : Nat} {f : (VReg → Vec) → Nat → Nat → Nat}
    (h : mayIssue { vs := d :: srcs, ms := [m], seed := r == .rsr } s = true) (hq : s.myCore.vqUsed < 8) :
    rounded d srcs m r w n time f s =
      let dr := draws (s.mReg s.cur m.toNat) (List.range n) s.me.sr.rngseed
      .next (s.entered [] (s.lanesTo d m w n fun i => f (fun x => s.vReg s.cur x.toNat) i (if r = .rsr then dr.1.getD i 0 else 0))
        (if r = .rsr then some (if dr.2 = 0 then 1 else dr.2) else none) time) := by
  unfold rounded
  refine (vecUnit_of_mayIssue h hq rfl).trans ?_
  cases r <;> rfl

/-- A reduction enters the queue with its tree's value in every lane. -/
theorem reduce_of_mayIssue {a : VReg} {ty : VTy} {kind : Nat} {op : Nat → Nat → Nat} (h : mayIssue { vs := [d, a], ms := [m] } s = true)
    (hq : s.myCore.vqUsed < 8) : reduce d a m ty kind op s = .next (s.entered [] (s.lanesTo d 0 (tyBits ty) ty.lanes fun _ =>
      (tree op (Nat.log2 ty.lanes) ((List.range ty.lanes).map fun i =>
        if (s.mReg s.cur m.toNat).getLsbD i then some (laneAt (s.vReg s.cur a.toNat) (tyBits ty) i) else none)).getD (redIdentity ty kind))
      none (crossTime ty)) := by
  unfold reduce
  exact vecUnit_of_mayIssue h hq rfl

end

/-- Every row of a table of elementwise heads enters the queue with its lanes. -/
theorem lanewise_rows {s : State} {d : VReg} {m : MReg} {L : List (Instr × List VReg × Nat × (Nat × Nat) × ((VReg → Nat) → Nat))}
    (hL : ∀ row ∈ L, exec row.1 s = lanewise d row.2.1 m row.2.2.1 (2048 / row.2.2.1) row.2.2.2.1 row.2.2.2.2 s) :
    ∀ row ∈ L, mayIssue { vs := d :: row.2.1, ms := [m] } s = true → s.myCore.vqUsed < 8 →
      exec row.1 s = .next (s.entered [] (s.lanesTo d m row.2.2.1 (2048 / row.2.2.1) fun i =>
        row.2.2.2.2 fun x => laneAt (s.vReg s.cur x.toNat) row.2.2.1 i) none row.2.2.2.1) :=
  fun row hrow h hq => (hL row hrow).trans (lanewise_of_mayIssue h hq)

/-- Every row of a table of typed elementwise heads enters the queue with its lanes. -/
theorem typed_rows {s : State} {d : VReg} {m : MReg} {ty : VTy} {L : List (Instr × List VReg × ((VReg → Nat) → Nat))}
    (hL : ∀ row ∈ L, exec row.1 s = typed d row.2.1 m ty row.2.2 s) :
    ∀ row ∈ L, mayIssue { vs := d :: row.2.1, ms := [m] } s = true → s.myCore.vqUsed < 8 →
      exec row.1 s = .next (s.entered [] (s.lanesTo d m (2048 / ty.lanes) ty.lanes fun i =>
        row.2.2 fun x => laneAt (s.vReg s.cur x.toNat) (2048 / ty.lanes) i) none (if ty.lanes = 64 then (1, 4) else (2, 6))) :=
  fun row hrow h hq => (hL row hrow).trans (lanewise_of_mayIssue h hq)

/-! ## The special values of the six functions (R130, R136) -/

theorem or_one_eq (x : Nat) : x ||| 1 = if x % 2 = 0 then x + 1 else x := by
  apply Nat.eq_of_testBit_eq
  intro i
  rw [Nat.testBit_or]
  cases i with
  | zero => split <;> simp [Nat.testBit_zero] <;> omega
  | succ i =>
    have hone : (1 : Nat).testBit (i + 1) = false := by simp [Nat.testBit_succ]
    rw [hone, Bool.or_false]
    split
    · rw [Nat.testBit_succ, Nat.testBit_succ, show (x + 1) / 2 = x / 2 by omega]
    · rfl

/-- Setting bit n. -/
theorem or_two_pow_eq (c n : Nat) : c ||| 2 ^ n = if c / 2 ^ n % 2 = 0 then c + 2 ^ n else c := by
  have hlow : c % 2 ^ n < 2 ^ n := Nat.mod_lt _ (Nat.two_pow_pos n)
  have hor : c ||| 2 ^ n = 2 ^ n * (c / 2 ^ n ||| 1) + c % 2 ^ n := by
    apply Nat.eq_of_testBit_eq
    intro i
    rw [Nat.testBit_two_pow_mul_add _ hlow, Nat.testBit_or, Nat.testBit_two_pow]
    by_cases hi : i < n
    · simp [hi, show n ≠ i by omega, Nat.testBit_mod_two_pow]
    · rw [if_neg hi, Nat.testBit_or, Nat.testBit_div_two_pow, Nat.sub_add_cancel (by omega)]
      congr 1
      rw [show (1 : Nat) = 2 ^ 0 from rfl, Nat.testBit_two_pow]
      exact decide_eq_decide.mpr (by omega)
  rw [hor, or_one_eq]
  split
  · rw [Nat.mul_add, mul_one, Nat.add_right_comm, Nat.div_add_mod]
  · exact Nat.div_add_mod c (2 ^ n)

section
variable {c : Nat}

/-- A code above the infinities is a NaN, with its own sign. -/
theorem fp32_decode_nan (h : 0x7F800000 < c % 2 ^ 31) : ∃ fr, fp32.decode c = .nan (fp32.sign c) fr := by
  have hexp : fp32.expField c = 2 ^ fp32.eb - 1 := by
    show c / 2 ^ 23 % 2 ^ 8 = 2 ^ 8 - 1
    omega
  have hfrac : fp32.fracField c ≠ 0 := by
    show c % 2 ^ 23 ≠ 0
    omega
  exact ⟨_, by rw [fp32_plain.decode_of_top hexp, if_neg hfrac]⟩

/-- The code of a NaN's own value is the code with its quiet bit set (R128). -/
theorem fp32_nanCode_decode (hc : c < 2 ^ 32) (h : 0x7F800000 < c % 2 ^ 31) {neg : Bool} {fr : Nat} (hdec : fp32.decode c = .nan neg fr) :
    fp32.nanCode neg fr = c ||| 0x400000 := by
  have hself := fp32_plain.convert_self (c := c) hc .rne 0
  rw [convert, hdec] at hself
  rw [show (0x400000 : Nat) = 2 ^ 22 from rfl, or_two_pow_eq, ← Fmt.encode.eq_1 (f := fp32) (r := .rne) (draw := 0), hself]
  by_cases hq : c / 2 ^ 22 % 2 = 0
  · rw [if_pos ⟨h, hq⟩, if_pos hq]; rfl
  · rw [if_neg fun hb => hq hb.2, if_neg hq]

/-- A negative code below the NaNs, but for −0, is −∞ or a negative number that is not zero. -/
theorem fp32_decode_negative (hlo : 0x80000001 ≤ c) (hhi : c ≤ 0xFF800000) :
    fp32.decode c = .inf true ∨ ∃ n e, fp32.decode c = .fin true n e ∧ n ≠ 0 := by
  have hsign : fp32.sign c = true := decide_eq_true (show c / 2 ^ 31 % 2 = 1 by omega)
  by_cases hinf : c = 0xFF800000
  · subst hinf; exact .inl (by decide)
  · have hfin : fp32.Finite (fp32.expField c) (fp32.fracField c) := by
      refine (Fmt.finite_iff rfl (by decide) Fmt.fracField_lt).mpr ?_
      show c / 2 ^ 23 % 2 ^ 8 + 1 < 2 ^ 8
      omega
    refine .inr ⟨_, _, hsign ▸ Fmt.decode_of_finite (by decide) hfin, ?_⟩
    show (if c / 2 ^ 23 % 2 ^ 8 = 0 then c % 2 ^ 23 else 2 ^ 23 + c % 2 ^ 23) ≠ 0
    split <;> omega

/-- A positive code from 256 on is +∞, or a number whose leading one stands at 2^8 or above. -/
theorem fp32_decode_large (hlo : 0x43800000 ≤ c) (hhi : c ≤ 0x7F800000) :
    fp32.decode c = .inf false ∨ ∃ n e, fp32.decode c = .fin false n e ∧ n ≠ 0 ∧ 8 ≤ (Nat.log2 n : Int) + e := by
  have hsign : fp32.sign c = false := decide_eq_false (show ¬ c / 2 ^ 31 % 2 = 1 by omega)
  by_cases hinf : c = 0x7F800000
  · subst hinf; exact .inl (by decide)
  · have hexp : fp32.expField c = c / 2 ^ 23 := by
      show c / 2 ^ 23 % 2 ^ 8 = c / 2 ^ 23
      omega
    have hfin : fp32.Finite (fp32.expField c) (fp32.fracField c) := by
      refine (Fmt.finite_iff rfl (by decide) Fmt.fracField_lt).mpr ?_
      show fp32.expField c + 1 < 2 ^ 8
      omega
    have hne : fp32.expField c ≠ 0 := by omega
    have hmant : fp32.mant (fp32.expField c) (fp32.fracField c) ≠ 0 := by
      rw [Fmt.mant, if_neg hne]
      exact (Nat.add_pos_left (Nat.two_pow_pos _) _).ne'
    have hlog := Fmt.log2_mant hfin.frac_lt hmant
    rw [if_neg hne] at hlog
    refine .inr ⟨_, _, hsign ▸ Fmt.decode_of_finite (by decide) hfin, hmant, ?_⟩
    rw [hlog]
    show (8 : Int) ≤ (23 : Nat) + (((max (fp32.expField c) 1 : Nat) : Int) - (127 : Nat) - (23 : Nat))
    rw [hexp]
    omega

/-- 2 to a power of 256 or above overflows. -/
theorem vexp2_of_large (hlo : 0x43800000 ≤ c) (hhi : c ≤ 0x7F800000) : vexp2 c = 0x7F800000 := by
  obtain h | ⟨n, e, h, hn, htop⟩ := fp32_decode_large hlo hhi
  · rw [vexp2, h]; rfl
  · simp only [vexp2, h, if_neg hn, if_pos htop, Bool.false_eq_true, if_false]; rfl

end

end Sys2Proof.Machine

open Sys2Proof Sys2Proof.Machine

/-- Settles O12: every row is `lanewise` with the function that its row names; a NaN gives itself made quiet, and the other special
values are those of the functions' own cases. -/
theorem floatingVectorResults : Obligations.FloatingVectorResults := by
  unfold Obligations.FloatingVectorResults
  refine ⟨fun s d a b c m r => lanewise_rows ?rows, fun c hc hnan => ?nans, ?table, fun c hlo hhi => ?negative,
    fun c hlo hhi => vexp2_of_large hlo hhi⟩
  case rows =>
    simp only [List.forall_mem_cons, List.not_mem_nil, false_implies, implies_true, and_true]
    exact ⟨rfl, rfl, rfl, rfl, rfl, rfl, rfl, rfl, rfl, rfl, rfl, rfl, rfl, rfl, rfl, rfl, rfl, rfl⟩
  case nans =>
    obtain ⟨fr, hdec⟩ := fp32_decode_nan hnan
    have hcode := fp32_nanCode_decode hc hnan hdec
    simp only [List.forall_mem_cons, List.not_mem_nil, false_implies, implies_true, and_true, vexp2, vlog2, vtanh, hdec]
    exact ⟨hcode, hcode, hcode, hcode, hcode, hcode⟩
  case table => decide
  case negative =>
    obtain h | ⟨n, e, h, hn⟩ := fp32_decode_negative hlo hhi
    · simp only [vlog2, h]; decide
    · simp only [frsqrt, fsqrt, vlog2, h, if_neg hn, if_true]; decide

/-- Settles O14: every row is `typed` with the function of its row; the signed types are the two that are named. -/
theorem typedVectorResults : Obligations.TypedVectorResults := by
  unfold Obligations.TypedVectorResults
  intro s d a b c m r ty sat n w z fmt out
  refine typed_rows ?_
  simp only [List.forall_mem_cons, List.not_mem_nil, false_implies, implies_true, and_true]
  refine ⟨rfl, rfl, ?abs, ?neg, ?add, ?sub, ?mul, ?mulHigh, ?mad, rfl, rfl, rfl, rfl, rfl, rfl, rfl, ?round, ?toInt, ?fromInt, rfl⟩
  case abs => cases ty <;> rfl
  case neg => cases ty <;> rfl
  case add => cases ty <;> cases sat <;> rfl
  case sub => cases ty <;> cases sat <;> rfl
  case mul => cases ty <;> cases sat <;> rfl
  case mulHigh => cases ty <;> cases sat <;> rfl
  case mad => cases ty <;> cases sat <;> rfl
  case round => cases ty <;> rfl
  case toInt => cases ty <;> rfl
  case fromInt => cases ty <;> rfl

/-- Settles O15: each is `rounded` with its conversion of an element. -/
theorem conversionResults : Obligations.ConversionResults := by
  unfold Obligations.ConversionResults
  intro s d a b m r fmt mk n f dr at_ seed time hq
  refine ⟨fun h => ⟨?toF32, ?fromF32⟩, fun hfmt h => ?quant⟩
  case toF32 =>
    change execVcvt d a m fmt true r s = _
    simp only [execVcvt, if_true]
    exact rounded_of_mayIssue (f := fun g i x => convert f fp32 r x (laneAt (g a) (nfmtBits fmt) i)) h hq
  case fromF32 =>
    change execVcvt d a m fmt false r s = _
    unfold execVcvt
    exact rounded_of_mayIssue (f := fun g i x => convert fp32 f r x (laneAt (g a) 32 i)) h hq
  case quant =>
    have hn : n = 64 := if_neg hfmt
    simp only [at_, seed, dr, hn]
    exact rounded_of_mayIssue (f := fun g i x => quantElem fmt r x (laneAt (g a) 32 i) (laneAt (g b) 8 (i / 32))) h hq

/-- Settles O16: each head is one `vecUnit`; a lane number outside the register traps before the queue is entered. -/
theorem crossLaneResults : Obligations.CrossLaneResults := by
  unfold Obligations.CrossLaneResults
  refine ⟨?results, ?lanes⟩
  case results =>
    intro s d a b e m x y ty r cc j wide n w lane mk simple cross active red k ins hq
    refine ⟨fun h => ?vcmp, fun h => ⟨?vsel, ?vperm⟩, fun h => ⟨?vredadd, ?vredmax, ?vredmin, fun hn => ?vscanadd, ?vbcast⟩, fun h => ?vsplat,
      fun h => ?viota, fun h hp hlane => ?vextr, fun h hlane => ?vinsr⟩
    case vcmp => change execVcmp e a b m ty cc s = _; unfold execVcmp; exact vecUnit_of_mayIssue h hq rfl
    case vsel => change execVsel d a b m ty s = _; unfold execVsel; exact vecUnit_of_mayIssue h hq rfl
    case vperm => change execVperm d a b m ty s = _; unfold execVperm; exact vecUnit_of_mayIssue h hq rfl
    case vredadd => exact reduce_of_mayIssue h hq
    case vredmax => exact reduce_of_mayIssue h hq
    case vredmin => exact reduce_of_mayIssue h hq
    case vscanadd =>
      have hcross : crossTime ty = (1, 10) := if_pos hn
      rw [← hcross]
      change execVscanadd d a m ty r s = _
      unfold execVscanadd
      refine (vecUnit_of_mayIssue h hq rfl).trans ?_
      simp only [active, lane, w, hn]
      rfl
    case vbcast => change execVbcast d a m ty j s = _; unfold execVbcast; exact vecUnit_of_mayIssue h hq rfl
    case vsplat => 
      change execVsplat d x m ty s = _
      unfold execVsplat
      refine vecUnit_of_mayIssue h hq ?_
      rw [State.cur_popPorts, State.mReg_popPorts]; rfl
    case viota => change execViota d m ty s = _; unfold execViota; exact vecUnit_of_mayIssue h hq rfl
    case vextr =>
      change execVextr x a y wide s = _
      unfold execVextr
      refine vecUnit_of_mayIssue h hq ?_
      have hput : (decide (x.toNat = 63) && (s.popPorts [y]).me.optimistic) = false := by
        rw [State.optimistic_popPorts]
        simpa only [State.mayPut, Bool.not_eq_true'] using hp
      simp only [hput, State.cur_popPorts, State.vReg_popPorts]
      exact if_neg (Nat.not_le.mpr hlane)
    case vinsr =>
      change execVinsr d x y wide s = _
      unfold execVinsr
      exact vecUnit_of_mayIssue h hq (if_neg (Nat.not_le.mpr hlane))
  case lanes =>
    intro s d x y wide hq hlane
    refine ⟨fun h => ?vextr, fun h => ?vinsr⟩
    case vextr =>
      refine vecUnit_trap h hq ?_
      exact if_pos hlane
    case vinsr =>
      refine vecUnit_trap h hq ?_
      exact if_pos hlane
end

section
/-! SUPPORT. What a vector-unit head leaves as it was, at its issue and at its end (R118 to R121). -/

namespace Sys2Proof.Machine

/-! ## The issue -/

/-- The entry into the queue, and the step to the next head, change the queue, the busy registers and the place alone. -/
theorem State.queuesOnly_pushVector (s : State) (dest : VDest) (seed : Option (BitVec 32)) (time : Nat × Nat) :
    s.queuesOnly (s.pushVector dest seed time).passed dest := by
  refine ⟨rfl, fun k hk => ?slots, fun c hc => ?cores, ?slot, ?core,
    { id := s.ids, slot := slotNo s.cur, dest, seed, issued := s.myCore.cycle, pc := s.me.pc, beat := time.1, lat := time.2 }, ?queue, rfl, rfl⟩
  case slots => exact (State.slot_updSlot_ne _ _ _ _ hk).trans (State.slot_updSlot_ne _ _ _ _ hk)
  case cores =>
    simp only [State.passed, State.pushVector, State.updMe, State.updMyCore, State.core_updSlot]
    exact State.core_updCore_ne s.takeId _ _ _ hc
  case slot => simp [State.passed, State.pushVector, State.takeId, Slot.advance]; rfl
  case core => simp [State.passed, State.pushVector, State.takeId]; rfl
  case queue =>
    simp [State.passed, State.pushVector, State.takeId]
    exact ⟨rfl, rfl⟩

theorem State.queuesOnly_entered (s : State) (rd : List Reg) (dest : VDest) (seed : Option (BitVec 32)) (time : Nat × Nat) :
    (s.popPorts rd).queuesOnly (s.entered rd dest seed time) dest := State.queuesOnly_pushVector _ dest seed time

/-- A head of the vector unit, with its vector destination. -/
def WritesVector (i : Instr) (s : State) (d : VReg) (u : Use) : Prop :=
  ∃ (time : Nat × Nat) (o : Vec × Vec) (seed : Option (BitVec 32)) (k : (Reg → Word) → State → Act ⊕ (VDest × Option (BitVec 32))),
    exec i s = vecUnit u s time k ∧ k s.operand (s.popPorts u.rd) = .inr (.vec d.toNat o.1 o.2, seed)

theorem WritesVector.queuesOnly {i : Instr} {s : State} {d : VReg} {u : Use} (hw : WritesVector i s d u) (h : mayIssue u s = true)
    (hq : s.myCore.vqUsed < 8) : ∃ t val keep, exec i s = .next t ∧ (s.popPorts u.rd).queuesOnly t (.vec d.toNat val keep) := by
  obtain ⟨time, o, seed, k, hexec, hk⟩ := hw
  exact ⟨_, o.1, o.2, hexec.trans (vecUnit_of_mayIssue h hq hk), s.queuesOnly_entered _ _ _ _⟩

/-- A head of the vector unit that may issue enters the queue with its destination. -/
theorem enters_of_vecUnit {i : Instr} {s : State} {u : Use} {time : Nat × Nat} {v : VDest} {seed : Option (BitVec 32)} {P : VDest → Prop}
    {k : (Reg → Word) → State → Act ⊕ (VDest × Option (BitVec 32))} (h : mayIssue u s = true) (hq : s.myCore.vqUsed < 8)
    (hexec : exec i s = vecUnit u s time k) (hk : k s.operand (s.popPorts u.rd) = .inr (v, seed)) (hv : P v) :
    ∃ t v, exec i s = .next t ∧ P v ∧ (s.popPorts u.rd).queuesOnly t v :=
  ⟨_, v, hexec.trans (vecUnit_of_mayIssue h hq hk), hv, s.queuesOnly_entered _ _ _ _⟩

theorem WritesVector.intro {i : Instr} {s : State} {d : VReg} {u : Use} {time : Nat × Nat} {o : Vec × Vec} {seed : Option (BitVec 32)}
    {k : (Reg → Word) → State → Act ⊕ (VDest × Option (BitVec 32))} (h : exec i s = vecUnit u s time k)
    (hk : k s.operand (s.popPorts u.rd) = .inr (.vec d.toNat o.1 o.2, seed)) : WritesVector i s d u := ⟨time, o, seed, k, h, hk⟩

theorem WritesVector.of_lanewise {i : Instr} {s : State} {d : VReg} {srcs : List VReg} {m : MReg} {w n : Nat} {time : Nat × Nat}
    {f : (VReg → Nat) → Nat} (h : exec i s = lanewise d srcs m w n time f s) : WritesVector i s d { vs := d :: srcs, ms := [m] } :=
  ⟨time, _, none, _, h, rfl⟩

theorem WritesVector.of_typed {i : Instr} {s : State} {d : VReg} {srcs : List VReg} {m : MReg} {ty : VTy} {f : (VReg → Nat) → Nat}
    (h : exec i s = typed d srcs m ty f s) : WritesVector i s d { vs := d :: srcs, ms := [m] } := .of_lanewise h

theorem WritesVector.of_floating {i : Instr} {s : State} {d : VReg} {srcs : List VReg} {m : MReg} {ty : VTy} {time : Nat × Nat} {r : Rnd}
    {f : (VReg → FVal) → FVal} (h : exec i s = floating d srcs m ty time r f s) : WritesVector i s d { vs := d :: srcs, ms := [m] } :=
  .of_lanewise h

theorem WritesVector.of_function32 {i : Instr} {s : State} {d a : VReg} {m : MReg} {time : Nat × Nat} {f : Nat → Nat}
    (h : exec i s = function32 d a m time f s) : WritesVector i s d { vs := [d, a], ms := [m] } := .of_lanewise h

theorem WritesVector.of_integral {i : Instr} {s : State} {d : VReg} {srcs : List VReg} {m : MReg} {ty : VTy} {sat : Bool}
    {f : (VReg → Int) → Int} (h : exec i s = integral d srcs m ty sat f s) : WritesVector i s d { vs := d :: srcs, ms := [m] } := by
  unfold integral at h
  exact .of_typed h

theorem WritesVector.of_reduce {i : Instr} {s : State} {d a : VReg} {m : MReg} {ty : VTy} {kind : Nat} {op : Nat → Nat → Nat}
    (h : exec i s = reduce d a m ty kind op s) : WritesVector i s d { vs := [d, a], ms := [m] } := by
  unfold reduce at h
  exact .intro h rfl

theorem WritesVector.of_rounded {i : Instr} {s : State} {d : VReg} {srcs : List VReg} {m : MReg} {r : Rnd} {w n : Nat} {time : Nat × Nat}
    {f : (VReg → Vec) → Nat → Nat → Nat} (h : exec i s = rounded d srcs m r w n time f s) :
    WritesVector i s d { vs := d :: srcs, ms := [m], seed := r == .rsr } := by
  unfold rounded at h
  exact ⟨time, _, _, _, h, rfl⟩

/-! ## The end (R86, R119) -/

/-- An entry that completes leaves the queue for the writes of the cycle. -/
theorem Core.completeAll_single {c : Core} {e : VEntry} (hvq : c.vq = [e]) (h : e.completes c.cycle = true) : c.completeAll =
    { c with vq := [], pend := c.pend ++ [{ due := c.cycle, slot := e.slot, pc := e.pc, op := .unit e.dest e.seed }] } := by
  have hfilter : c.vq.filter (fun e => e.completes c.cycle) = [e] := by simp [hvq, h]
  rw [Core.completeAll, hfilter]
  simp [Core.complete, hvq]

/-- The state that an ending entry writes in: its queue empty, and no other write due. -/
def State.unqueued (s : State) (ck : Nat) : State := s.updCore ck fun c => { c with vq := [], pend := [] }

/-- In its completion cycle the only entry writes its destination. -/
theorem State.performDue_of_completes {s : State} {ck : Nat} {e : VEntry} (hvq : (s.core ck).vq = [e])
    (h : e.completes (s.core ck).cycle = true) (hpend : (s.core ck).pend = []) (h8 : e.slot < 8) :
    s.performDue ck = (s.unqueued ck).vectorWrite (ck * 8 + e.slot) e.dest e.seed e.pc := by
  have hall := Core.completeAll_single hvq h
  rw [State.performDue_single (p := { due := (s.core ck).cycle, slot := e.slot, pc := e.pc, op := .unit e.dest e.seed })
    (by rw [hall, hpend]; rfl) (by rw [hall]) rfl h8, hall]
  rfl

/-- An entry that has left the queue writes its destination with the writes of the cycle. -/
theorem State.performDue_complete {s : State} {ck : Nat} {e : VEntry} (hvq : (s.core ck).vq = [e]) (hpend : (s.core ck).pend = [])
    (h8 : e.slot < 8) : (s.updCore ck fun c => c.complete e).performDue ck =
      ((s.updCore ck fun c => c.complete e).unqueued ck).vectorWrite (ck * 8 + e.slot) e.dest e.seed e.pc := by
  have hcore : (s.updCore ck fun c => c.complete e).core ck =
      { s.core ck with vq := [], pend := [{ due := (s.core ck).cycle, slot := e.slot, pc := e.pc, op := .unit e.dest e.seed }] } := by
    simp [Core.complete, hvq, hpend]
  have hall : ((s.updCore ck fun c => c.complete e).core ck).completeAll = (s.updCore ck fun c => c.complete e).core ck :=
    Core.completeAll_of_none (by simp [hcore])
  rw [State.performDue_single (p := { due := (s.core ck).cycle, slot := e.slot, pc := e.pc, op := .unit e.dest e.seed })
    (by rw [hall, hcore]) (by rw [hall, hcore]) rfl h8, hall, hcore]
  simp only [State.unqueued, State.updCore, State.applyPend, State.core_setCore_same]
  rfl

/-- VECTOR_COMPLETE of an entry whose completion cycle has come. -/
theorem exec_vectorComplete {s : State} {ck : Nat} {e : VEntry} {rest : List VEntry} (hck : ck < 9216)
    (hvq : (s.core ck).vq = e :: rest) (h : e.completes (s.core ck).cycle = true) :
    exec (.vectorComplete ck e.id) s = .next (s.updCore ck fun c => c.complete e) := by
  show execVectorComplete ck e.id s = _
  simp [execVectorComplete, unitEvent, coreOk, hck, event, hvq, h]

theorem VEntry.completes_iff {e : VEntry} {n : Nat} : e.completes n = true ↔ e.left = [] ∧ e.ends + e.lat ≤ n := by
  simp [VEntry.completes]

/-! ## What a write of a vector, of a mask, of a slot's other fields leaves -/

section
variable (s : State) (tk : Nat)

/-- A change of a slot that leaves its registers leaves every register. -/
theorem State.regs_updSlot {f : Slot → Slot} (hf : ∀ x, (f x).t = x.t ∧ (f x).v = x.v ∧ (f x).m = x.m) (k n : Nat) :
    (s.updSlot tk f).tReg k n = s.tReg k n ∧ (s.updSlot tk f).vReg k n = s.vReg k n ∧ (s.updSlot tk f).mReg k n = s.mReg k n := by
  obtain ⟨ht, hv, hm⟩ := hf (s.slot tk)
  by_cases hk : k = tk <;> simp [State.tReg, State.vReg, State.mReg, State.slot_updSlot, hk, ht, hv, hm]

theorem State.rest_setV (r : Nat) (x : Vec) (a : FMap Slot) (b : FMap Core) :
    ({ s.setV tk r x with slots := a, cores := b } : State) = { s with slots := a, cores := b } := by
  unfold State.setV
  split <;> rfl

theorem State.tReg_setV (r : Nat) (x : Vec) (k n : Nat) : (s.setV tk r x).tReg k n = s.tReg k n := by
  by_cases hr : r < 16
  · by_cases hk : k = tk <;> simp [State.setV, hr, State.tReg, State.slot_updSlot, hk]
  · simp [State.setV, hr, State.tReg]

theorem State.mReg_setV (r : Nat) (x : Vec) (k n : Nat) : (s.setV tk r x).mReg k n = s.mReg k n := by
  by_cases hr : r < 16
  · by_cases hk : k = tk <;> simp [State.setV, hr, State.mReg, State.slot_updSlot, hk]
  · simp [State.setV, hr, State.mReg]

theorem State.cReg_setV (r : Nat) (x : Vec) (k n : Nat) : (s.setV tk r x).cReg k n = s.cReg k n := by
  by_cases hr : r < 16
  · simp [State.setV, hr, State.cReg]
  · by_cases hk : coreOf k = coreOf tk <;> simp [State.setV, hr, State.cReg, State.core_updCore, hk]

theorem State.sr_setV (r : Nat) (x : Vec) (k : Nat) : ((s.setV tk r x).slot k).sr = (s.slot k).sr := by
  by_cases hr : r < 16
  · by_cases hk : k = tk <;> simp [State.setV, hr, State.slot_updSlot, hk]
  · simp [State.setV, hr]

theorem State.tReg_setM (r : Nat) (x : Word) (k n : Nat) : (s.setM tk r x).tReg k n = s.tReg k n := by
  by_cases hr : r = 0
  · simp [State.setM, hr]
  · by_cases hk : k = tk <;> simp [State.setM, hr, State.tReg, State.slot_updSlot, hk]

theorem State.vReg_setM (r : Nat) (x : Word) (k n : Nat) : (s.setM tk r x).vReg k n = s.vReg k n := by
  by_cases hr : r = 0
  · simp [State.setM, hr]
  · by_cases hk : k = tk <;> simp [State.setM, hr, State.vReg, State.slot_updSlot, hk]

theorem State.cReg_setM (r : Nat) (x : Word) (k n : Nat) : (s.setM tk r x).cReg k n = s.cReg k n := by
  by_cases hr : r = 0 <;> simp [State.setM, hr, State.cReg]

theorem State.sr_setM (r : Nat) (x : Word) (k : Nat) : ((s.setM tk r x).slot k).sr = (s.slot k).sr := by
  by_cases hr : r = 0
  · simp [State.setM, hr]
  · by_cases hk : k = tk <;> simp [State.setM, hr, State.slot_updSlot, hk]

/-- Registers stand when a core's queue and pending writes change. -/
theorem State.regs_updCore {ck : Nat} {f : Core → Core} (hf : ∀ x, (f x).c = x.c ∧ (f x).w = x.w) (k n : Nat) :
    (s.updCore ck f).cReg k n = s.cReg k n ∧ (s.updCore ck f).vReg k n = s.vReg k n := by
  obtain ⟨hc, hw⟩ := hf (s.core ck)
  by_cases hk : coreOf k = ck <;> simp [State.cReg, State.vReg, State.core_updCore, hk, hc, hw]

end

/-- The slot of an ending entry without its registers' busy marks. -/
def Slot.unmarked (x : Slot) (dest : VDest) : Slot := { x with busy := dest.names.foldl (fun b r => unbusy r b) x.busy }

/-- What a destination other than a scalar writes. -/
def State.writeDest (s : State) (tk : Nat) : VDest → State
  | .vec r val keep => s.setV tk r ((s.vReg tk r &&& keep) ||| (val &&& ~~~keep))
  | .mask r val => s.setM tk r val
  | .scal _ _ => s

theorem State.vectorWrite_wide (s : State) (tk : Nat) {dest : VDest} (h : dest.wide = true) (pc : Word) :
    s.vectorWrite tk dest none pc = (s.updSlot tk fun x => x.unmarked dest).writeDest tk dest := by
  cases dest with
  | vec r val keep => simp [State.vectorWrite, State.writeDest, Slot.unmarked]
  | mask r val => simp [State.vectorWrite, State.writeDest, Slot.unmarked]
  | scal r val => cases h

/-- The end of an entry leaves every register but its destination's. -/
theorem State.regs_unqueued_unmarked (s : State) (ck tk : Nat) (dest : VDest) (k n : Nat) :
    let u := (s.unqueued ck).updSlot tk fun x => x.unmarked dest
    u.tReg k n = s.tReg k n ∧ u.vReg k n = s.vReg k n ∧ u.mReg k n = s.mReg k n ∧ u.cReg k n = s.cReg k n ∧ (u.slot k).sr = (s.slot k).sr := by
  intro u
  obtain ⟨ht, hv, hm⟩ := (s.unqueued ck).regs_updSlot tk (f := fun x => x.unmarked dest) (fun _ => ⟨rfl, rfl, rfl⟩) k n
  obtain ⟨hc, hv'⟩ := s.regs_updCore (ck := ck) (f := fun c => { c with vq := [], pend := [] }) (fun _ => ⟨rfl, rfl⟩) k n
  refine ⟨ht, hv.trans hv', hm, hc, ?_⟩
  by_cases hk : k = tk <;> simp [u, State.unqueued, State.slot_updSlot, hk, Slot.unmarked]

/-! ## The end of an entry leaves the rest -/

theorem State.performDue_keeps_of_mask {s : State} {ck r : Nat} {e : VEntry} {val : Word} (hvq : (s.core ck).vq = [e])
    (hcompletes : e.completes (s.core ck).cycle = true) (hdest : e.dest = .mask r val) (hseed : e.seed = none) (h8 : e.slot < 8)
    (hpend : (s.core ck).pend = []) : let t := s.performDue ck
    ({ t with slots := s.slots, cores := s.cores } : State) = s
      ∧ (∀ tk n, (n ≠ r ∨ tk ≠ ck * 8 + e.slot) → t.mReg tk n = s.mReg tk n)
      ∧ (∀ tk n, t.tReg tk n = s.tReg tk n ∧ t.cReg tk n = s.cReg tk n ∧ t.vReg tk n = s.vReg tk n)
      ∧ (∀ tk, (t.slot tk).sr = (s.slot tk).sr) := by
  intro t
  have ht : t = ((s.unqueued ck).updSlot (ck * 8 + e.slot) fun x => x.unmarked (.mask r val)).setM (ck * 8 + e.slot) r val := by
    show s.performDue ck = _
    rw [State.performDue_of_completes hvq hcompletes hpend h8, hdest, hseed, State.vectorWrite_wide _ _ rfl]; rfl
  have hregs := s.regs_unqueued_unmarked ck (ck * 8 + e.slot) (.mask r val)
  refine ⟨?rest, fun tk n hn => ?masks, fun tk n => ?regs, fun tk => ?sr⟩
  case rest => rw [ht]; unfold State.setM; split <;> rfl
  case masks =>
    rw [ht, State.mReg_setM_ne _ _ _ hn.symm]
    exact (hregs tk n).2.2.1
  case regs =>
    obtain ⟨h1, h2, h3, h4, h5⟩ := hregs tk n
    rw [ht, State.tReg_setM, State.cReg_setM, State.vReg_setM]
    exact ⟨h1, h4, h2⟩
  case sr =>
    rw [ht, State.sr_setM]
    exact (hregs tk 0).2.2.2.2

theorem State.performDue_complete_keeps {s : State} {ck r : Nat} {e : VEntry} {val keep : Vec} (hvq : (s.core ck).vq = [e])
    (hdest : e.dest = .vec r val keep) (hseed : e.seed = none) (h8 : e.slot < 8)
    (hpend : (s.core ck).pend = []) : let t := (s.updCore ck fun c => c.complete e).performDue ck
    ({ t with slots := s.slots, cores := s.cores } : State) = s
      ∧ (∀ tk n, (n ≠ r ∨ (n < 16 ∧ tk ≠ ck * 8 + e.slot) ∨ coreOf tk ≠ ck) → t.vReg tk n = s.vReg tk n)
      ∧ (∀ tk n, t.tReg tk n = s.tReg tk n ∧ t.cReg tk n = s.cReg tk n ∧ t.mReg tk n = s.mReg tk n)
      ∧ (∀ tk, (t.slot tk).sr = (s.slot tk).sr) := by
  have ht : (s.updCore ck fun c => c.complete e).performDue ck =
      (((s.updCore ck fun c => c.complete e).unqueued ck).updSlot (ck * 8 + e.slot) fun x => x.unmarked (.vec r val keep)).writeDest
        (ck * 8 + e.slot) (.vec r val keep) := by
    rw [State.performDue_complete hvq hpend h8, hdest, hseed, State.vectorWrite_wide _ _ rfl]
  have hcomplete (k n : Nat) := s.regs_updCore (ck := ck) (f := fun c => c.complete e) (fun _ => ⟨rfl, rfl⟩) k n
  have hregs := (s.updCore ck fun c => c.complete e).regs_unqueued_unmarked ck (ck * 8 + e.slot) (.vec r val keep)
  have hcore : coreOf (ck * 8 + e.slot) = ck := coreOf_slot ck h8
  rw [ht]
  refine ⟨?rest, fun tk n hn => ?vectors, fun tk n => ?regs, fun tk => ?sr⟩
  case rest => exact State.rest_setV _ _ _ _ _ _
  case vectors =>
    rw [State.writeDest, State.vReg_setV_ne _ _ _ (hcore.symm ▸ hn)]
    exact (hregs tk n).2.1.trans (hcomplete tk n).2
  case regs =>
    obtain ⟨h1, h2, h3, h4, h5⟩ := hregs tk n
    rw [State.writeDest, State.tReg_setV, State.cReg_setV, State.mReg_setV]
    exact ⟨h1, h4.trans (hcomplete tk n).1, h3⟩
  case sr =>
    obtain ⟨h1, h2, h3, h4, h5⟩ := hregs tk 0
    rw [State.writeDest, State.sr_setV]
    exact h5

/-! ## The tables of heads that write a vector -/

/-- Floating heads of two and three sources, each with its sources. -/
def floatingRows (d a b c : VReg) (m : MReg) (r : Rnd) : List (Instr × List VReg) :=
  [(.vadd d a b m r, [a, b]), (.vsub d a b m r, [a, b]), (.vmul d a b m r, [a, b]), (.vdiv d a b m r, [a, b]),
    (.vfma d a b c m r, [a, b, c]), (.vfms d a b c m r, [a, b, c]), (.vfnma d a b c m r, [a, b, c]), (.vdadd d a b m r, [a, b]),
    (.vdmul d a b m r, [a, b]), (.vdfma d a b c m r, [a, b, c])]

theorem writesVector_floatingRows (s : State) (d a b c : VReg) (m : MReg) (r : Rnd) :
    ∀ row ∈ floatingRows d a b c m r, WritesVector row.1 s d { vs := d :: row.2, ms := [m] } := by
  simp only [floatingRows, List.forall_mem_cons, List.not_mem_nil, false_implies, implies_true, and_true]
  exact ⟨.of_floating (rfl : execVadd d a b m r s = _), .of_floating (rfl : execVsub d a b m r s = _),
    .of_floating (rfl : execVmul d a b m r s = _), .of_floating (rfl : execVdiv d a b m r s = _),
    .of_floating (rfl : execVfma d a b c m r s = _), .of_floating (rfl : execVfms d a b c m r s = _),
    .of_floating (rfl : execVfnma d a b c m r s = _), .of_floating (rfl : execVdadd d a b m r s = _),
    .of_floating (rfl : execVdmul d a b m r s = _), .of_floating (rfl : execVdfma d a b c m r s = _)⟩

/-- Functions of one FP32 lane. -/
def functionRows (d a : VReg) (m : MReg) : List (Instr × List VReg) :=
  [(.vrcp d a m, [a]), (.vrsq d a m, [a]), (.vexp2 d a m, [a]), (.vlog2 d a m, [a]),
    (.vtanh d a m, [a]), (.vsqrt d a m, [a])]

theorem writesVector_functionRows (s : State) (d a : VReg) (m : MReg) :
    ∀ row ∈ functionRows d a m, WritesVector row.1 s d { vs := d :: row.2, ms := [m] } := by
  simp only [functionRows, List.forall_mem_cons, List.not_mem_nil, false_implies, implies_true, and_true]
  exact ⟨.of_function32 (rfl : execVrcp d a m s = _), .of_function32 (rfl : execVrsq d a m s = _),
    .of_function32 (rfl : execVexp2 d a m s = _), .of_function32 (rfl : execVlog2 d a m s = _),
    .of_function32 (rfl : execVtanh d a m s = _), .of_function32 (rfl : execVsqrt d a m s = _)⟩

/-- Typed heads of minimum, maximum and integer arithmetic. -/
def integerRows (d a b c : VReg) (m : MReg) (ty : VTy) (sat hi : Bool) : List (Instr × List VReg) :=
  [(.vmin d a b m ty, [a, b]), (.vmax d a b m ty, [a, b]), (.viadd d a b m ty sat, [a, b]), (.visub d a b m ty sat, [a, b]),
    (.vimul d a b m ty sat hi, [a, b]), (.vimad d a b c m ty sat, [a, b, c])]

theorem writesVector_integerRows (s : State) (d a b c : VReg) (m : MReg) (ty : VTy) (sat hi : Bool) :
    ∀ row ∈ integerRows d a b c m ty sat hi, WritesVector row.1 s d { vs := d :: row.2, ms := [m] } := by
  simp only [integerRows, List.forall_mem_cons, List.not_mem_nil, false_implies, implies_true, and_true]
  exact ⟨.of_typed (rfl : execVmin d a b m ty s = _), .of_typed (rfl : execVmax d a b m ty s = _),
    .of_integral (rfl : execViadd d a b m ty sat s = _), .of_integral (rfl : execVisub d a b m ty sat s = _),
    .of_integral (rfl : execVimul d a b m ty sat hi s = _), .of_integral (rfl : execVimad d a b c m ty sat s = _)⟩

/-- Typed heads of bits, signs, classes and conversions of a lane. -/
def bitRows (d a b : VReg) (m : MReg) (ty : VTy) (r : Rnd) : List (Instr × List VReg) :=
  [(.vand d a b m ty, [a, b]), (.vor d a b m ty, [a, b]), (.vxor d a b m ty, [a, b]), (.vshl d a b m ty, [a, b]),
    (.vshr d a b m ty, [a, b]), (.vsra d a b m ty, [a, b]), (.vmov d a m ty, [a]), (.vabs d a m ty, [a]),
    (.vneg d a m ty, [a]), (.vclass d a m ty, [a]), (.vround d a m ty r, [a]), (.vfcvti d a m ty r, [a]),
    (.vicvtf d a m ty r, [a])]

theorem writesVector_bitRows (s : State) (d a b : VReg) (m : MReg) (ty : VTy) (r : Rnd) :
    ∀ row ∈ bitRows d a b m ty r, WritesVector row.1 s d { vs := d :: row.2, ms := [m] } := by
  simp only [bitRows, List.forall_mem_cons, List.not_mem_nil, false_implies, implies_true, and_true]
  exact ⟨.of_typed (rfl : execVand d a b m ty s = _), .of_typed (rfl : execVor d a b m ty s = _),
    .of_typed (rfl : execVxor d a b m ty s = _), .of_typed (rfl : execVshl d a b m ty s = _),
    .of_typed (rfl : execVshr d a b m ty s = _), .of_typed (rfl : execVsra d a b m ty s = _),
    .of_typed (rfl : execVmov d a m ty s = _), .of_typed (rfl : execVabs d a m ty s = _),
    .of_typed (rfl : execVneg d a m ty s = _), .of_typed (rfl : execVclass d a m ty s = _),
    .of_typed (rfl : execVround d a m ty r s = _), .of_typed (rfl : execVfcvti d a m ty r s = _),
    .of_typed (rfl : execVicvtf d a m ty r s = _)⟩

/-- Heads across lanes whose destination is a vector. -/
def crossRows (d a b : VReg) (m : MReg) (ty : VTy) (r : Rnd) : List (Instr × List VReg) :=
  [(.vsel d a b m ty, [a, b]), (.vperm d a b m ty, [a, b]), (.vredadd d a m ty r, [a]), (.vredmax d a m ty, [a]),
    (.vredmin d a m ty, [a]), (.viota d m ty, [])]

theorem writesVector_crossRows (s : State) (d a b : VReg) (m : MReg) (ty : VTy) (r : Rnd) :
    ∀ row ∈ crossRows d a b m ty r, WritesVector row.1 s d { vs := d :: row.2, ms := [m] } := by
  simp only [crossRows, List.forall_mem_cons, List.not_mem_nil, false_implies, implies_true, and_true]
  exact ⟨.intro (rfl : execVsel d a b m ty s = _) rfl, .intro (rfl : execVperm d a b m ty s = _) rfl,
    .of_reduce (rfl : execVredadd d a m ty r s = _), .of_reduce (rfl : execVredmax d a m ty s = _),
    .of_reduce (rfl : execVredmin d a m ty s = _), .intro (rfl : execViota d m ty s = _) rfl⟩

/-! ## Conversions and scalar moves -/

theorem vcvt_writesVector (s : State) (d a : VReg) (m : MReg) (fmt : NFmt) (up : Bool) (r : Rnd) :
    WritesVector (.vcvt d a m fmt up r) s d { vs := [d, a], ms := [m], seed := r == .rsr } := by
  cases up
  · refine .of_rounded (w := nfmtBits fmt) (n := if fmt = .fp64 then 32 else 64) (time := if fmt = .fp64 then (2, 6) else (1, 4))
      (f := fun g i x => convert fp32 ((nfmtFloat fmt).getD fp32) r x (laneAt (g a) 32 i)) ?_
    exact (rfl : execVcvt d a m fmt false r s = _)
  · refine .of_rounded (w := 32) (n := if fmt = .fp64 then 32 else 64) (time := if fmt = .fp64 then (2, 6) else (1, 4))
      (f := fun g i x => convert ((nfmtFloat fmt).getD fp32) fp32 r x (laneAt (g a) (nfmtBits fmt) i)) ?_
    exact (rfl : execVcvt d a m fmt true r s = _)

theorem vquant_writesVector (s : State) (d a b : VReg) (m : MReg) (fmt : NFmt) (r : Rnd) :
    WritesVector (.vquant d a b m fmt r) s d { vs := [d, a, b], ms := [m], seed := r == .rsr } :=
  .of_rounded (rfl : execVquant d a b m fmt r s = _)

theorem WritesVector.enters {i : Instr} {s : State} {d : VReg} {u : Use} (hw : WritesVector i s d u) (h : mayIssue u s = true)
    (hq : s.myCore.vqUsed < 8) :
    ∃ t v, exec i s = .next t ∧ (∃ val keep, v = .vec d.toNat val keep) ∧ (s.popPorts u.rd).queuesOnly t v :=
  have ⟨t, val, keep, hexec, ht⟩ := hw.queuesOnly h hq
  ⟨t, _, hexec, ⟨val, keep, rfl⟩, ht⟩

theorem vextr_enters {s : State} {x y : Reg} {a : VReg} {wide : Bool} (hlane : (s.operand y).toNat < 2048 / (if wide then 64 else 32))
    (h : mayIssue { rd := [y], wr := [x], vs := [a] } s = true) (hp : s.mayPut x = true) (hq : s.myCore.vqUsed < 8) :
    ∃ t v, exec (.vextr x a y wide) s = .next t ∧ (∃ val, v = .scal x.toNat val) ∧ (s.popPorts [y]).queuesOnly t v := by
  have hput : (decide (x.toNat = 63) && (s.popPorts [y]).me.optimistic) = false := by
    rw [State.optimistic_popPorts]
    simpa only [State.mayPut, Bool.not_eq_true'] using hp
  refine enters_of_vecUnit (u := { rd := [y], wr := [x], vs := [a] }) (v := .scal x.toNat (word (laneAt ((s.popPorts [y]).vReg (s.popPorts [y]).cur a.toNat) (extrBits wide)
    (s.operand y).toNat))) (seed := none) h hq
    (rfl : execVextr x a y wide s = _) ?_ ⟨_, rfl⟩
  simp only [hput]
  exact if_neg (Nat.not_le.mpr hlane)

theorem vinsr_enters {s : State} {x y : Reg} {d : VReg} {wide : Bool} (hlane : (s.operand y).toNat < 2048 / (if wide then 64 else 32))
    (h : mayIssue { rd := [x, y], vs := [d] } s = true) (hq : s.myCore.vqUsed < 8) :
    ∃ t v, exec (.vinsr d x y wide) s = .next t ∧ (∃ val keep, v = .vec d.toNat val keep) ∧ (s.popPorts [x, y]).queuesOnly t v := by
  exact enters_of_vecUnit h hq (rfl : execVinsr d x y wide s = _) (if_neg (Nat.not_le.mpr hlane)) ⟨_, _, rfl⟩

end Sys2Proof.Machine

open Sys2Proof Sys2Proof.Machine

/-- Settles O54: at its issue each head is one `vecUnit`, whose frame is that of the queue; at its end the entry writes its destination
alone. -/
theorem vectorHeadsKeepTheRest : Obligations.VectorHeadsKeepTheRest := by
  unfold Obligations.VectorHeadsKeepTheRest
  refine ⟨?elementwise, ?others, ?mask, ?vec⟩
  case elementwise =>
    intro s d a b c m r ty sat hi hq
    have hrows {L : List (Instr × List VReg)} (hL : ∀ row ∈ L, WritesVector row.1 s d { vs := d :: row.2, ms := [m] }) :
        ∀ row ∈ L, mayIssue { vs := d :: row.2, ms := [m] } s = true →
          ∃ t val keep, exec row.1 s = .next t ∧ s.queuesOnly t (.vec d.toNat val keep) :=
      fun row hrow h => (hL row hrow).queuesOnly h hq
    have hall := List.forall_mem_append.mpr ⟨writesVector_floatingRows s d a b c m r, List.forall_mem_append.mpr ⟨writesVector_functionRows s d a m,
      List.forall_mem_append.mpr ⟨writesVector_integerRows s d a b c m ty sat hi, List.forall_mem_append.mpr
        ⟨writesVector_bitRows s d a b m ty r, writesVector_crossRows s d a b m ty r⟩⟩⟩⟩
    exact hrows hall
  case others =>
    intro s d a b e m x y r ty fmt cc up wide j hq enters toVec
    refine ⟨fun h => ?vcvt, fun _ h => ?vquant, fun h => ?vcmp, fun h => ⟨?vbcast, fun _ => ?vscanadd⟩, fun h => ?vsplat, fun hlane =>
      ⟨fun h hp => ?vextr, fun h => ?vinsr⟩⟩
    case vcvt => exact (vcvt_writesVector s d a m fmt up r).enters h hq
    case vquant => exact (vquant_writesVector s d a b m fmt r).enters h hq
    case vcmp => exact enters_of_vecUnit h hq (rfl : execVcmp e a b m ty cc s = _) rfl ⟨_, rfl⟩
    case vbcast => exact enters_of_vecUnit h hq (rfl : execVbcast d a m ty j s = _) rfl ⟨_, _, rfl⟩
    case vscanadd => exact enters_of_vecUnit h hq (rfl : execVscanadd d a m ty r s = _) rfl ⟨_, _, rfl⟩
    case vsplat => exact enters_of_vecUnit h hq (rfl : execVsplat d x m ty s = _) rfl ⟨_, _, rfl⟩
    case vextr => exact vextr_enters hlane h hp hq
    case vinsr => exact vinsr_enters hlane h hq
  case mask =>
    intro s ck e r val _ hvq hleft hends hdest hseed h8 hpend
    exact State.performDue_keeps_of_mask hvq (VEntry.completes_iff.mpr ⟨hleft, hends⟩) hdest hseed h8 hpend
  case vec =>
    intro s ck e r val keep hck hvq hleft hends hdest hseed h8 hpend
    exact ⟨_, exec_vectorComplete hck hvq (VEntry.completes_iff.mpr ⟨hleft, hends⟩),
      State.performDue_complete_keeps hvq hdest hseed h8 hpend⟩
end

section
namespace Sys2Proof.Machine

/-! ## Lanes of a masked write (R117, R119) -/

/-- A lane of packed numbers is its number, cut to the width. -/
theorem packLanes_lane (w : Nat) (xs : List Nat) (i : Nat) : packLanes w xs / 2 ^ (w * i) % 2 ^ w = xs.getD i 0 % 2 ^ w := by
  induction xs generalizing i with
  | nil => simp [packLanes]
  | cons x xs ih =>
    have hw : 0 < 2 ^ w := Nat.two_pow_pos w
    cases i with
    | zero => simp [packLanes]
    | succ i =>
      have hdiv : (x % 2 ^ w + 2 ^ w * packLanes w xs) / 2 ^ w = packLanes w xs := by
        rw [Nat.add_mul_div_left _ _ hw, Nat.div_eq_of_lt (Nat.mod_lt _ hw), Nat.zero_add]
      rw [packLanes, Nat.mul_succ, Nat.add_comm (w * i) w, Nat.pow_add, ← Nat.div_div_eq_div_mul, hdiv, ih i]
      rfl

theorem packLanes_testBit {w j : Nat} (xs : List Nat) (i : Nat) (hj : j < w) :
    (packLanes w xs).testBit (w * i + j) = (xs.getD i 0).testBit j := by
  have h := congrArg (Nat.testBit · j) (packLanes_lane w xs i)
  simpa [Nat.testBit_mod_two_pow, Nat.testBit_div_two_pow, hj, Nat.add_comm] using h

theorem laneAt_testBit (v : Vec) (w i j : Nat) : (laneAt v w i).testBit j = (decide (j < w) && v.getLsbD (w * i + j)) := by
  simp [laneAt, bitsAt, Nat.testBit_mod_two_pow, Nat.testBit_shiftRight, BitVec.testBit_toNat]

/-- The numbers of the lanes, one for each lane below `n`. -/
theorem getD_map_range (f : Nat → Nat) (n i : Nat) : ((List.range n).map f).getD i 0 = if i < n then f i else 0 := by
  by_cases h : i < n <;> simp [List.getD, h]

theorem packed_getLsbD {w i j : Nat} (g : Nat → Nat) (n : Nat) (hj : j < w) (hlt : w * i + j < 2048) :
    (BitVec.ofNat 2048 (packLanes w ((List.range n).map g))).getLsbD (w * i + j) = (if i < n then g i else 0).testBit j := by
  rw [BitVec.getLsbD_ofNat, packLanes_testBit _ _ hj, getD_map_range, decide_eq_true hlt, Bool.true_and]

/-- An active lane takes its function, and every other lane is kept. -/
theorem laneAt_masked {w n : Nat} {m : Word} {f : Nat → Nat} (old : Vec) (i : Nat) (hn : w * n ≤ 2048) (hf : ∀ j, f j < 2 ^ w) :
    laneAt ((old &&& (lanesOut w n m f).2) ||| ((lanesOut w n m f).1 &&& ~~~(lanesOut w n m f).2)) w i =
      if i < n then (if m.getLsbD i then f i else laneAt old w i) else laneAt old w i := by
  apply Nat.eq_of_testBit_eq
  intro j
  by_cases hj : j < w
  · by_cases hlt : w * i + j < 2048
    · by_cases hi : i < n <;> by_cases hon : m.getLsbD i = true <;>
        simp only [laneAt_testBit, lanesOut, BitVec.getLsbD_or, BitVec.getLsbD_and, BitVec.getLsbD_not, packed_getLsbD _ _ hj hlt, hj, hi, hon,
          hlt, if_true, if_false, Nat.testBit_two_pow_sub_one, Nat.zero_testBit] <;> simp [laneAt_testBit, hj]
    · have hi : ¬ i < n := by
        intro hi
        have : w * (i + 1) ≤ w * n := Nat.mul_le_mul_left w hi
        rw [Nat.mul_succ] at this
        omega
      simp [laneAt_testBit, hj, hi, BitVec.getLsbD_of_ge _ _ (Nat.le_of_not_lt hlt)]
  · have hfi : (f i).testBit j = false := Nat.testBit_lt_two_pow (lt_of_lt_of_le (hf i) (Nat.pow_le_pow_right (by decide) (Nat.le_of_not_lt hj)))
    by_cases hi : i < n <;> by_cases hon : m.getLsbD i = true <;> simp [laneAt_testBit, hj, hi, hon, hfi]

/-! ## A lane group serves its only ready core (R121, R122) -/

theorem Core.startable_eq_some {c : Core} {e : VEntry} {rest : List VEntry} {g : Nat} (hvq : c.vq = e :: rest) (hleft : e.left = [g])
    (h : e.issued < c.cycle) : c.startable g = some e := by
  simp [Core.startable, hvq, hleft, h]

theorem Core.startable_of_nil {c : Core} (g : Nat) (hvq : c.vq = []) : c.startable g = none := by simp [Core.startable, hvq]

/-- A served core has a beat to start and is one of the quad's four. -/
theorem State.startable_of_served {s : State} {qi g c : Nat} {a : Arb} (h : s.served qi g a = some c) :
    c < 4 ∧ ((s.core (qi * 4 + c)).startable g).isSome = true := by
  have hp := List.find?_some h
  have hmem := List.mem_of_find?_eq_some h
  simp only [Bool.and_eq_true] at hp
  obtain ⟨i, _, rfl⟩ := List.mem_map.mp hmem
  exact ⟨Nat.mod_lt _ (by decide), hp.1⟩

/-- A core with a beat to start and with quota left makes the group serve one. -/
theorem State.served_isSome {s : State} {qi g c : Nat} {a : Arb} (hc : c < 4) (hs : ((s.core (qi * 4 + c)).startable g).isSome = true)
    (hquota : 0 < FMap.get 0 a.quota c) : (s.served qi g a).isSome = true := by
  rw [State.served, List.find?_isSome]
  refine ⟨c, List.mem_map.mpr ⟨(c + (4 - a.cur % 4)) % 4, List.mem_range.mpr (Nat.mod_lt _ (by decide)), by omega⟩, ?_⟩
  simp [hs, hquota]

/-- In a new round every core has quota. -/
theorem State.startRound_quota {s : State} {qi sp c : Nat} {a : Arb} (hc : c < 4) : 0 < FMap.get 0 (s.startRound qi sp a).quota c := by
  have hpos (x : Core) : 0 < x.weight := Nat.lt_of_lt_of_le Nat.zero_lt_one (Nat.le_max_left 1 _)
  have h4 : c = 0 ∨ c = 1 ∨ c = 2 ∨ c = 3 := by omega
  rcases h4 with rfl | rfl | rfl | rfl <;>
    simp [State.startRound, List.range_succ, FMap.get_set, hpos]

section
variable {s : State} {ck g : Nat} {e : VEntry} {rest : List VEntry}

/-- Of the quad's cores `ck` alone has a beat for the group. -/
theorem State.eq_of_startable (hothers : ∀ c < 4, c ≠ ck % 4 → (s.core (ck / 4 * 4 + c)).vq = []) {c : Nat} (hc : c < 4)
    (h : ((s.core (ck / 4 * 4 + c)).startable g).isSome = true) : c = ck % 4 := by
  by_contra hne
  rw [Core.startable_of_nil g (hothers c hc hne)] at h
  cases h

/-- The group serves `ck`, in the round that runs or in the next. -/
theorem State.served_eq (hothers : ∀ c < 4, c ≠ ck % 4 → (s.core (ck / 4 * 4 + c)).vq = [])
    (hstart : ((s.core (ck / 4 * 4 + ck % 4)).startable g).isSome = true) (a : Arb) (sp : Nat) :
    s.served (ck / 4) g (if (s.served (ck / 4) g a).isSome then a else s.startRound (ck / 4) sp a) = some (ck % 4) := by
  have h4 : ck % 4 < 4 := Nat.mod_lt _ (by decide)
  have hone {b : Arb} (h : (s.served (ck / 4) g b).isSome = true) : s.served (ck / 4) g b = some (ck % 4) := by
    obtain ⟨c, hc⟩ := Option.isSome_iff_exists.mp h
    obtain ⟨hlt, hs⟩ := State.startable_of_served hc
    rw [hc, State.eq_of_startable hothers hlt hs]
  split
  · exact hone ‹_›
  · exact hone (State.served_isSome h4 hstart (State.startRound_quota h4))

/-- The cores of the quad that have a beat for the group. -/
theorem State.ready_head (hothers : ∀ c < 4, c ≠ ck % 4 → (s.core (ck / 4 * 4 + c)).vq = [])
    (hstart : ((s.core (ck / 4 * 4 + ck % 4)).startable g).isSome = true) :
    ((List.range 4).filter fun c => ((s.core (ck / 4 * 4 + c)).startable g).isSome).head? = some (ck % 4) := by
  have h4 : ck % 4 < 4 := Nat.mod_lt _ (by decide)
  have hmem : ck % 4 ∈ (List.range 4).filter fun c => ((s.core (ck / 4 * 4 + c)).startable g).isSome :=
    List.mem_filter.mpr ⟨List.mem_range.mpr h4, hstart⟩
  obtain ⟨c, hc⟩ := Option.isSome_iff_exists.mp (List.isSome_head?.mpr (List.ne_nil_of_mem hmem))
  obtain ⟨hlt, hs⟩ := List.mem_filter.mp (List.mem_of_head? hc)
  rw [hc, State.eq_of_startable hothers (List.mem_range.mp hlt) hs]

theorem exec_vectorBeatStart (hck : ck < 9216) (hg : g < 4) (hvq : (s.core ck).vq = e :: rest) (hids : ∀ y ∈ rest, y.id ≠ e.id)
    (hleft : e.left = [g]) (hissued : e.issued < (s.core ck).cycle)
    (hbusy : (FMap.get {} (s.quad (ck / 4)).arbs g).busyTo < (s.core ck).cycle)
    (hothers : ∀ c < 4, c ≠ ck % 4 → (s.core (ck / 4 * 4 + c)).vq = []) :
    ∃ t, exec (.vectorBeatStart (ck / 4) g) s = .next t ∧
      (t.core ck).vq = { e with left := [], ends := Nat.max e.ends ((s.core ck).cycle + e.beat - 1) } :: rest := by
  have hquad : quadOk (ck / 4) = true := by simp [quadOk]; omega
  have hunit : ck / 4 * 4 + ck % 4 = ck := by omega
  have hs : (s.core ck).startable g = some e := Core.startable_eq_some hvq hleft hissued
  have hstart : ((s.core (ck / 4 * 4 + ck % 4)).startable g).isSome = true := by rw [hunit, hs]; rfl
  have hrest : rest.map (fun y => if y.id = e.id then
      { y with left := y.left.filter fun z => decide (z ≠ g), ends := Nat.max y.ends ((s.core ck).cycle + e.beat - 1) } else y) = rest :=
    (List.map_congr_left fun y hy => if_neg (hids y hy)).trans (List.map_id' _)
  have hrun : exec (.vectorBeatStart (ck / 4) g) s = execVectorBeatStart (ck / 4) g s := rfl
  rw [hrun, execVectorBeatStart, hquad, unitEvent, decide_eq_true hg, if_pos (by rfl)]
  simp only [State.ready_head hothers hstart, State.served_eq hothers hstart, Option.bind_eq_bind, Option.bind_some, hunit, hs]
  rw [if_neg (fun h => absurd h.1 (Nat.not_le.mpr hbusy))]
  refine ⟨_, rfl, ?_⟩
  rw [Option.pure_def, Option.getD_some, State.core_updQuad, State.core_updCore_same, hvq, List.map_cons, hrest]
  simp [hleft]
end

/-! ## What the end of an entry writes (R86, R119) -/

section
variable {s : State} {ck : Nat} {e : VEntry}

/-- The slot of an ending entry that has taken the entry's seed, its registers' busy marks gone. -/
def Slot.ended (x : Slot) (dest : VDest) (seed : Option (BitVec 32)) : Slot :=
  let y := { x with busy := (dest.names ++ (if seed.isSome then [104] else [])).foldl (fun b r => unbusy r b) x.busy }
  match seed with
  | some v => y.updSr fun r => { r with rngseed := v }
  | none => y

theorem Slot.regs_ended (x : Slot) (dest : VDest) (seed : Option (BitVec 32)) :
    (x.ended dest seed).t = x.t ∧ (x.ended dest seed).v = x.v ∧ (x.ended dest seed).m = x.m := by
  cases seed <;> exact ⟨rfl, rfl, rfl⟩

theorem State.vReg_vectorWrite (s : State) (tk r : Nat) (val keep : Vec) (seed : Option (BitVec 32)) (pc : Word) :
    (s.vectorWrite tk (.vec r val keep) seed pc).vReg tk r = (s.vReg tk r &&& keep) ||| (val &&& ~~~keep) := by
  have h := (s.regs_updSlot tk (f := fun x => x.ended (.vec r val keep) seed) (fun x => x.regs_ended _ _) tk r).2.1
  exact (State.vReg_setV_same _ _ _ _).trans (by rw [← h]; rfl)

theorem State.mReg_vectorWrite (s : State) (tk : Nat) {r : Nat} (val : Word) (seed : Option (BitVec 32)) (pc : Word) (hr : r ≠ 0) :
    (s.vectorWrite tk (.mask r val) seed pc).mReg tk r = val := State.mReg_setM_same _ _ _ hr

theorem State.tReg_vectorWrite (s : State) (tk : Nat) {r : Nat} (val : Word) (seed : Option (BitVec 32)) (pc : Word) (h0 : 0 < r) (hr : r < 32) :
    (s.vectorWrite tk (.scal r val) seed pc).tReg tk r = val := by
  simp only [State.vectorWrite, Nat.ne_of_gt h0, if_false, State.landReg, hr, if_true]
  exact State.tReg_setT_same _ _ _ (Nat.ne_of_gt h0)

theorem State.vq_setV (s : State) (tk r : Nat) (x : Vec) (ck : Nat) : ((s.setV tk r x).core ck).vq = (s.core ck).vq := by
  by_cases hr : r < 16
  · simp [State.setV, hr]
  · by_cases hk : ck = coreOf tk <;> simp [State.setV, hr, State.core_updCore, hk]

/-- A push into a port leaves every core's vector queue. -/
theorem State.vq_of_pushPort {t : State} {slot r : Nat} {v pc : Word} (h : s.pushPort ck slot r v pc = some t) (k : Nat) :
    (t.core k).vq = (s.core k).vq := by
  have hset {u : State} {x : Core} (hu : u.core k = s.core k) (hx : x.vq = (s.core ck).vq) : ((u.setCore ck x).core k).vq = (s.core k).vq := by
    by_cases hk : k = ck <;> simp [State.core_setCore, hk, hx, ← hu]
  unfold State.pushPort at h
  dsimp only at h
  split at h
  · split at h
    · cases h; exact hset rfl rfl
    · cases h
  · split at h
    · split at h
      · cases h; exact hset (u := s.takeId) rfl rfl
      · cases h
    · split at h
      · cases h; exact hset rfl rfl
      · cases h

theorem State.vq_pushOrHold (s : State) (ck slot r : Nat) (v pc : Word) (k : Nat) :
    ((s.pushOrHold ck slot r v pc).core k).vq = (s.core k).vq := by
  unfold State.pushOrHold
  dsimp only
  split
  · rename_i t h
    split at h
    · cases h
    · exact State.vq_of_pushPort h k
  · rfl

theorem State.vq_landReg (s : State) (tk r : Nat) (v pc : Word) (k : Nat) : ((s.landReg tk r v pc).core k).vq = (s.core k).vq := by
  unfold State.landReg
  dsimp only
  split
  · unfold State.setT; split <;> rfl
  · split
    · by_cases hk : k = coreOf tk <;> simp [State.setC, State.core_updCore, hk]
    · exact State.vq_pushOrHold _ _ _ _ _ _ _

theorem State.vq_vectorWrite (s : State) (tk : Nat) (dest : VDest) (seed : Option (BitVec 32)) (pc : Word) (k : Nat) :
    ((s.vectorWrite tk dest seed pc).core k).vq = (s.core k).vq := by
  cases dest with
  | vec r val keep => exact State.vq_setV _ _ _ _ _
  | mask r val => simp only [State.vectorWrite, State.setM]; split <;> rfl
  | scal r val =>
    simp only [State.vectorWrite]
    split
    · rfl
    · exact State.vq_landReg _ _ _ _ _ _

/-- At the end of the completion cycle the destination holds the result, under its mask. -/
theorem State.performDue_writes (hvq : (s.core ck).vq = [e]) (h : e.completes (s.core ck).cycle = true)
    (hpend : (s.core ck).pend = []) (h8 : e.slot < 8) : let t := s.performDue ck
    (t.core ck).vq = []
      ∧ (∀ r val keep, e.dest = .vec r val keep →
        t.vReg (ck * 8 + e.slot) r = (s.vReg (ck * 8 + e.slot) r &&& keep) ||| (val &&& ~~~keep))
      ∧ (∀ r val, e.dest = .mask r val → r ≠ 0 → t.mReg (ck * 8 + e.slot) r = val)
      ∧ (∀ r val, e.dest = .scal r val → 0 < r → r < 32 → t.tReg (ck * 8 + e.slot) r = val) := by
  intro t
  have ht : t = (s.unqueued ck).vectorWrite (ck * 8 + e.slot) e.dest e.seed e.pc := State.performDue_of_completes hvq h hpend h8
  have hregs := s.regs_updCore (ck := ck) (f := fun c => { c with vq := [], pend := [] }) (fun _ => ⟨rfl, rfl⟩)
  refine ⟨?queue, fun r val keep hd => ?vec, fun r val hd hr => ?mask, fun r val hd h0 hr => ?scal⟩
  case queue => rw [ht, State.vq_vectorWrite]; simp [State.unqueued]
  case vec => rw [ht, hd, State.vReg_vectorWrite]; exact congrArg (fun v => (v &&& keep) ||| (val &&& ~~~keep)) (hregs _ r).2
  case mask => rw [ht, hd, State.mReg_vectorWrite _ _ _ _ _ hr]
  case scal => rw [ht, hd, State.tReg_vectorWrite _ _ _ _ _ h0 hr]
end

end Sys2Proof.Machine

open Sys2Proof Sys2Proof.Machine

/-- Settles O18: an entry whose last beat has ended leaves the queue for the writes of the cycle; the lane group serves the only core that
has a beat for it; and a lane of the masked write is read bit by bit. -/
theorem vectorUnitCompletes : Obligations.VectorUnitCompletes := by
  unfold Obligations.VectorUnitCompletes
  refine ⟨fun s ck e rest hck hvq hids => ⟨fun hleft hends => ?leaves, fun hleft hends hrest hpend h8 => ?writes,
    fun g hg hleft hissued hbusy hothers => ?beat⟩, fun w n m f old i _ hn _ hf => laneAt_masked old i hn hf⟩
  case leaves =>
    refine ⟨_, exec_vectorComplete hck hvq (VEntry.completes_iff.mpr ⟨hleft, hends⟩), ?_, ?_⟩
    · have hfilter : rest.filter (fun y => decide (y.id ≠ e.id)) = rest := List.filter_eq_self.mpr fun y hy => decide_eq_true (hids y hy)
      rw [State.core_updCore_same, Core.complete, hvq]
      simpa using hids
    · rw [State.core_updCore_same]; rfl
  case writes =>
    subst hrest
    exact State.performDue_writes hvq (VEntry.completes_iff.mpr ⟨hleft, hends⟩) hpend h8
  case beat =>
    obtain ⟨t, hexec, hq⟩ := exec_vectorBeatStart hck hg hvq hids hleft hissued hbusy hothers
    exact ⟨t, hexec, _, hq, rfl, rfl, rfl⟩
end

section
/-! SUPPORT. Scalar accesses: the order of their checks, what a load and a store do once their checks pass, and what a store's write leaves
(R110, R191, R222 to R224). -/

namespace Sys2Proof.Machine

/-! ## Checks in order (R191, R222) -/

theorem firstTrap_cons (c : Check) (cs : List Check) : firstTrap (c :: cs) = c.or (firstTrap cs) := by cases c <;> rfl

theorem failIf_or (c : Bool) (cause : Nat) (info : Word) (d : Check) :
    (failIf c cause info).or d = if c = true then some (cause, info) else d := by cases c <;> rfl

/-- The space checks, one after the other (R191, R209). -/
theorem spaceCheck_eq (super : Bool) (a : Word) : spaceCheck super a =
    if mustBeZero a = false then some (0x0D, a)
    else if space a = 15 ∧ super = false then some (0x03, a)
    else if space a = 3 ∧ 384 ≤ fld a 51 9 then some (0x07, a)
    else if space a = 15 ∧ fld a 56 4 ≠ 0 then some (0x0D, a) else none := by
  have hlast : failIf (decide (space a = 15) && !decide (fld a 56 4 = 0)) 0x0D a = if space a = 15 ∧ ¬ fld a 56 4 = 0 then some (0x0D, a) else none := by
    simp [failIf]
  simp [spaceCheck, firstTrap_cons, failIf_or, firstTrap, hlast]

theorem State.localCheck_eq (s : State) (tk : Nat) (p : Perm) (a : Word) (n : Nat) : s.localCheck tk p a n =
    if s.spSize (s.pidOf tk) < offset a + n then some (0x0D, a)
    else ((s.slot tk).sr.refused p (offset a) n).map fun o => (0x05, atOffset a o) := by
  unfold State.localCheck
  split
  · rfl
  · cases (s.slot tk).sr.refused p (offset a) n <;> rfl

/-- An access that passes its checks names no address of the system space. -/
theorem State.space_of_accessCheck {s : State} {p : Perm} {a : Word} {n align : Nat} {bad : Bool}
    (h : s.accessCheck p a n align bad = none) : space a ≠ 15 := by
  intro hs
  have := firstTrap_none h (failIf (decide (space a = 15)) 0x02 a) (by simp)
  simp [failIf, hs] at this

/-- A head that may issue does what its own part says. -/
theorem runHead_act {u : Use} {s : State} {k : (Reg → Word) → State → Act} {a : Act} (h : mayIssue u s = true)
    (hk : k s.operand (s.popPorts u.rd) = a) : runHead u s k = .next (a.run s) := by rw [runHead_of_mayIssue h, hk]

/-! ## Loads (R222 to R224) -/

section
variable {s : State} {d : Reg} {rd : List Reg} {x : Word} {n cp scope : Nat} {sx acq : Bool}

/-- A local load takes its value in its issue. -/
theorem doLoad_local (hp : s.mayPut d = true) (hx : space x = 0) (hfree : s.bytesFree (s.localKey s.cur (offset x)) n = true) :
    doLoad s d x n sx cp acq scope = .next (s.writeReg s.cur d (scalarLoad (window x) n sx (s.ownRead (s.localKey s.cur (offset x)) n))
      (if window x = 0 then 6 else 8)) := by
  rw [doLoad, if_pos hx, localWait_of_bytesFree hfree, put_of_mayPut hp]

/-- The access that a load elsewhere makes. -/
def State.loadFlight (s : State) (d : Reg) (a : Word) (n : Nat) (sx acq : Bool) (scope cp : Nat) : Flight :=
  { id := s.ids, thr := s.cur, pid := s.myPid, addr := a, n, op := .load, ret := .scalar d.toNat sx, ctr := 0, acq, scope
    tag := s.me.faultTag, cp }

theorem doLoad_remote (hp : s.mayPut d = true) (hx : space x ≠ 0) (hroom : s.me.cnt.ldc < 63) :
    doLoad s d x n sx cp acq scope = .next (match s.l1Place (s.loadFlight d x n sx acq scope cp) with
      | some k => s.hitLoad (s.loadFlight d x n sx acq scope cp) d.toNat k
      | none => ((s.addCount s.cur 0).markBusy s.cur d.toNat).launchFlight (s.loadFlight d x n sx acq scope cp)) := by
  have hcnt : ¬ ctrMax 0 ≤ s.me.cnt.val 0 := Nat.not_le.mpr hroom
  rw [doLoad, if_neg hx, sendLoad, roomFor, if_neg hcnt, lateDest_of_mayPut hp]
  rfl

/-- A load elsewhere leaves the slot. -/
theorem doLoad_sent (hp : s.mayPut d = true) (hx : space x ≠ 0) (hroom : s.me.cnt.ldc < 63)
    (hl1 : s.l1Place (s.loadFlight d x n sx acq scope cp) = none) : doLoad s d x n sx cp acq scope =
      .next (((s.addCount s.cur 0).markBusy s.cur d.toNat).launchFlight (s.loadFlight d x n sx acq scope cp)) := by
  rw [doLoad_remote hp hx hroom, hl1]

/-- A load that hits L1 is performed there. -/
theorem doLoad_hit (hp : s.mayPut d = true) (hx : space x ≠ 0) (hroom : s.me.cnt.ldc < 63) {k : Nat}
    (hl1 : s.l1Place (s.loadFlight d x n sx acq scope cp) = some k) :
    doLoad s d x n sx cp acq scope = .next (s.hitLoad (s.loadFlight d x n sx acq scope cp) d.toNat k) := by
  rw [doLoad_remote hp hx hroom, hl1]

end

/-- A head whose waits and checks are over goes on with its access. -/
theorem memWait_orElse {t : State} {w : BitVec 2} {x : Word} {c : Check} {k : Act} (hgo : t.mayGo w x = true) (hc : c = none) :
    memWait t w x (c.orElse k) = k := by rw [memWait_of_mayGo hgo, hc]; rfl

/-- LD, LDS and LDG outside the system space. -/
theorem loadAct_of_check {t : State} {d : Reg} {x : Word} {sz : Size} {sx sys : Bool} {w : BitVec 2} {cp : Cp} (hgo : t.mayGo w x = true)
    (hc : t.accessCheck permR x (sizeBytes sz) (sizeBytes sz) (winSizeBad (window x) (sizeBytes sz)) = none) :
    loadAct t d x sz sx sys w cp = doLoad t d x (sizeBytes sz) sx cp.code false 0 := by
  have hsys : (sys && decide (space x = 15)) = false := by simp [State.space_of_accessCheck hc]
  rw [loadAct, hsys]
  exact memWait_orElse hgo hc

/-- ST and STG outside the system space. -/
theorem storeAct_of_check {t : State} {x b : Word} {sz : Size} {sys : Bool} {w : BitVec 2} {cp : Cp} (hgo : t.mayGo w x = true)
    (hc : t.accessCheck permW x (sizeBytes sz) (sizeBytes sz) (winSizeBad (window x) (sizeBytes sz)) = none) :
    storeAct t x b sz sys w cp = doStore t x (sizeBytes sz) (scalarStore (window x) (sizeBytes sz) b) cp.code false 0 := by
  have hsys : (sys && decide (space x = 15)) = false := by simp [State.space_of_accessCheck hc]
  rw [storeAct, hsys]
  exact memWait_orElse hgo hc

/-! ## Stores (R218, R223, R224, R310) -/

section
variable {s : State} {x : Word} {n v cp scope : Nat} {rel : Bool}

theorem doStore_local (hx : space x = 0) (hfree : s.bytesFree (s.localKey s.cur (offset x)) n = true) :
    doStore s x n v cp rel scope = .next (s.pendOp (.store (s.localKey s.cur (offset x)) (wholeBytes n v)) 0) := by
  rw [doStore, if_pos hx, localWait_of_bytesFree hfree]

theorem State.val_storeCtr_max {x : Word} : ctrMax (storeCtr x) = 255 := by
  unfold storeCtr
  split <;> rfl

theorem doStore_remote (hx : space x ≠ 0) (hopt : s.me.optimistic = false) (hroom : s.me.cnt.val (storeCtr x) < 255) :
    doStore s x n v cp rel scope = .next ((s.addCount s.cur (storeCtr x)).sent
      { id := 0, thr := 0, pid := 0, addr := x, n, op := .store (wholeBytes n v), ctr := storeCtr x, rel, scope, cp }) := by
  have hcnt : ¬ ctrMax (storeCtr x) ≤ s.me.cnt.val (storeCtr x) := by rw [State.val_storeCtr_max]; omega
  have htag : (s.addCount s.cur (storeCtr x)).me.faultTag = s.me.faultTag := by
    show ((s.updSlot s.cur _).slot s.cur).faultTag = _
    rw [State.slot_updSlot_same]
    rfl
  rw [doStore, if_neg hx, sendStore, hopt, if_neg Bool.false_ne_true, roomFor, if_neg hcnt, State.sent, htag]
  rfl

theorem holdEffect_of_mayHold {e : Effect} (h : s.mayHold e = true) : holdEffect s e = .next (s.held e) := by
  simp only [State.mayHold, Bool.and_eq_true, decide_eq_true_eq] at h
  rw [holdEffect, if_neg (Nat.not_lt.mpr h.2)]
  rfl

theorem doStore_held (hx : space x ≠ 0) (h : s.mayHold (.store x (wholeBytes n v)) = true) :
    doStore s x n v cp rel scope = .next (s.held (.store x (wholeBytes n v))) := by
  have hopt : s.me.optimistic = true := by
    simp only [State.mayHold, Bool.and_eq_true] at h
    exact h.1
  rw [doStore, if_neg hx, sendStore, hopt, if_pos rfl, holdEffect_of_mayHold h]

end

/-- A fence whose condition holds, and at system scope whose flushing read has completed, lets its head go on (R225). -/
theorem fenceWait_of_ok {s t : State} {sc : Scope} {k : Act} (hok : t.fenceOk sc = true) (hsys : sc = .sys → ∃ y, t.me.op = .done y) :
    fenceWait s t sc k = k := by
  unfold fenceWait
  rw [hok, Bool.not_true, if_neg Bool.false_ne_true]
  split
  · rename_i hop
    obtain ⟨y, hy⟩ := hsys rfl
    rw [hy] at hop
    cases hop
  · rename_i hop
    obtain ⟨y, hy⟩ := hsys rfl
    rw [hy] at hop
    cases hop
  · rfl

/-- STL goes on with its store once what it waits for has been performed (R224, R232, R240). -/
theorem stl_goesOn {s t : State} {x : Word} {sc : Scope} {store : Act}
    (h : (space x = 0 → t.allPerformed = true) ∧ (space x = 0 ∨ sc = .sys → t.fenceOk sc = true ∧ (sc = .sys → ∃ y, t.me.op = .done y))) :
    (if space x = 0 ∧ t.allPerformed = false then .block (.fence sc.code)
      else if space x = 0 ∨ sc = .sys then fenceWait s t sc store else store) = store := by
  obtain ⟨hlocal, hfence⟩ := h
  rw [if_neg fun h => by simp [hlocal h.1] at h]
  split
  · exact fenceWait_of_ok (hfence ‹_›).1 (hfence ‹_›).2
  · rfl

/-! ## What does not look at the slots, or only at their guards and held records -/

section
variable (s : State) (m : FMap Slot)

theorem State.walkFrom_slots (pid va : Nat) (need : Perm) (pick : Nat) (levels : List Nat) (t : Nat) :
    ({ s with slots := m } : State).walkFrom pid va need pick levels t = s.walkFrom pid va need pick levels t := by
  induction levels generalizing t with
  | nil => rfl
  | cons l rest ih => simp only [State.walkFrom, ih]; rfl

theorem State.translate_slots (pid va : Nat) (need : Perm) :
    ({ s with slots := m } : State).translate pid va need = s.translate pid va need := by
  have hwalk : ({ s with slots := m } : State).walk pid va need = s.walk pid va need := by
    simp only [State.walk, State.walkFrom_slots]
    rfl
  simp only [State.translate, hwalk]
  rfl

theorem State.tlbPath_slots (ck pid va : Nat) (need : Perm) :
    ({ s with slots := m } : State).tlbPath ck pid va need = s.tlbPath ck pid va need := by
  simp only [State.tlbPath, State.translate_slots]
  rfl

theorem State.placeOf_slots (tk pid : Nat) (a : Word) : ({ s with slots := m } : State).placeOf tk pid a = s.placeOf tk pid a := by
  simp only [State.placeOf, State.tlbPath_slots]
  rfl

variable {s m}

theorem State.engineRaw_slots (hsr : ∀ k, (FMap.get {} m k : Slot).sr = (s.slot k).sr) (tk pid : Nat) (p : Perm) (a : Word) (n : Nat) :
    ({ s with slots := m } : State).engineRaw tk pid p a n = s.engineRaw tk pid p a n := by
  have hcheck (b : Word) : ({ s with slots := m } : State).localCheck tk p b n = s.localCheck tk p b n := by
    rw [State.localCheck_eq, State.localCheck_eq]
    exact congrArg (fun r : SysRegs => if s.spSize (s.pidOf tk) < offset b + n then some (0x0D, b) else (r.refused p (offset b) n).map fun o => (0x05, atOffset b o)) (hsr tk)
  simp only [State.engineRaw, State.engineKey0, State.tlbPath_slots, State.translate_slots, hcheck]
  rfl

theorem State.owned_slots (hsr : ∀ k, (FMap.get {} m k : Slot).sr = (s.slot k).sr) (k n : Nat) :
    ({ s with slots := m } : State).owned k n = s.owned k n := by
  simp only [State.owned, State.ownedBy, State.copyOwns, State.engineRaw_slots hsr]
  rfl

theorem State.wordFor_slots (hheld : ∀ k, (FMap.get {} m k : Slot).task.held = (s.slot k).task.held) (tk k : Nat) :
    ({ s with slots := m } : State).wordFor tk k = s.wordFor tk k := by
  have hoverlay (pid : Nat) (o : List (Nat × Byte × Byte)) (e : Effect) :
      ({ s with slots := m } : State).overlay tk pid o e = s.overlay tk pid o e := by
    cases e with
    | store acc bs => simp only [State.overlay, State.placeOf_slots]
    | red a op n b =>
      simp only [State.overlay, State.placeOf_slots]
      rfl
    | _ => rfl
  have hpatch : ({ s with slots := m } : State).overlay tk ((({ s with slots := m } : State)).pidOf tk) = s.overlay tk (s.pidOf tk) := by
    funext o e
    exact hoverlay (s.pidOf tk) o e
  have hrec : (({ s with slots := m } : State).slot tk).task.held = (s.slot tk).task.held := hheld tk
  simp only [State.wordFor, State.withHeld, State.underHeld, State.heldBytes, hpatch, hrec]
  rfl
end

/-! ## The tests of waiting slots after a write (R110) -/

section
variable (s : State)

/-- What a test may change of a slot. -/
def Slot.restedAs (y x : Slot) : Prop := y.sr = x.sr ∧ y.task.held = x.task.held

theorem State.slot_retestSlot_ne {a tk : Nat} (h : tk ≠ a) : (s.retestSlot a).slot tk = s.slot tk := by
  obtain h' | ⟨_, _, _, _, _, h'⟩ := s.retestSlot_cases a <;> rw [h']
  exact State.slot_updSlot_ne _ _ _ _ h

theorem State.restedAs_retestSlot (a tk : Nat) : ((s.retestSlot a).slot tk).restedAs (s.slot tk) := by
  by_cases h : tk = a
  · subst h
    obtain h' | ⟨_, _, _, _, _, h'⟩ := s.retestSlot_cases tk <;> rw [h']
    · exact ⟨rfl, rfl⟩
    · rw [State.slot_updSlot_same]; exact ⟨rfl, rfl⟩
  · rw [s.slot_retestSlot_ne h]; exact ⟨rfl, rfl⟩

variable {s} in
/-- Tests change no word that a slot reads and no owner of a footprint. -/
theorem State.wordFor_owned_of_slots {t : State} (hslots : ∃ m, t = { s with slots := m }) (h : ∀ k, (t.slot k).restedAs (s.slot k)) :
    (∀ tk k, t.wordFor tk k = s.wordFor tk k) ∧ ∀ k n, t.owned k n = s.owned k n := by
  obtain ⟨m, rfl⟩ := hslots
  exact ⟨State.wordFor_slots fun k => (h k).2, State.owned_slots fun k => (h k).1⟩

theorem State.wordFor_owned_retestSlot (a : Nat) :
    (∀ tk k, (s.retestSlot a).wordFor tk k = s.wordFor tk k) ∧ ∀ k n, (s.retestSlot a).owned k n = s.owned k n :=
  State.wordFor_owned_of_slots (State.retests_slots [a] s) (s.restedAs_retestSlot a)

/-- What a test leaves of a slot that reads `val` and whose words have the owners `owned`. -/
def Slot.tested (x : Slot) (val : Nat → Nat) (owned : Nat → Bool) : Slot :=
  match x.st with
  | .blocked (.wordNe k b) => if word (val k) = b ∨ owned k = true then x else x.endWait (val k)
  | _ => x

theorem Slot.tested_of_notWaiting {x : Slot} (h : ∀ j b, x.st ≠ .blocked (.wordNe j b)) (val : Nat → Nat) (owned : Nat → Bool) :
    x.tested val owned = x := by
  unfold Slot.tested
  split
  · exact absurd ‹_› (h _ _)
  · rfl

theorem Slot.tested_of_waiting {x : Slot} {j : Nat} {b : Word} (h : x.st = .blocked (.wordNe j b)) (val : Nat → Nat) (owned : Nat → Bool) :
    x.tested val owned = if word (val j) = b ∨ owned j = true then x else x.endWait (val j) := by rw [Slot.tested, h]

theorem State.slot_retestSlot (tk : Nat) : (s.retestSlot tk).slot tk = (s.slot tk).tested (s.wordFor tk) fun k => s.owned k 8 := by
  by_cases h : ∃ j b, (s.slot tk).st = .blocked (.wordNe j b)
  · obtain ⟨j, b, h⟩ := h
    rw [Slot.tested_of_waiting h, State.retestSlot, h]
    simp only [Bool.or_eq_true, decide_eq_true_eq]
    split
    · rfl
    · rw [State.slot_updSlot_same]
  · have hnot : ∀ j b, (s.slot tk).st ≠ .blocked (.wordNe j b) := fun j b hst => h ⟨j, b, hst⟩
    rw [Slot.tested_of_notWaiting hnot]
    obtain h' | ⟨j, b, hst, _⟩ := s.retestSlot_cases tk
    · rw [h']
    · exact absurd hst (hnot j b)

/-- A test of a slot sees nothing of a test of another, or of itself. -/
theorem State.slot_retestSlot_retestSlot (a tk : Nat) : ((s.retestSlot a).retestSlot tk).slot tk = (s.retestSlot tk).slot tk := by
  obtain ⟨hword, howned⟩ := s.wordFor_owned_retestSlot a
  have hval : (s.retestSlot a).wordFor tk = s.wordFor tk := funext (hword tk)
  by_cases h : tk = a
  · subst h
    obtain h' | ⟨k, b, hst, hown, hne, h'⟩ := s.retestSlot_cases tk
    · rw [h', h']
    · rw [State.slot_retestSlot, h', State.slot_updSlot_same]
      rfl
  · simp only [State.slot_retestSlot, s.slot_retestSlot_ne h, hval, howned]

theorem State.slot_retests (l : List Nat) (tk : Nat) :
    (l.foldl State.retestSlot s).slot tk = if tk ∈ l then (s.retestSlot tk).slot tk else s.slot tk := by
  induction l generalizing s with
  | nil => rfl
  | cons a l ih =>
    rw [List.foldl_cons, ih, s.slot_retestSlot_retestSlot a tk]
    by_cases h : tk = a
    · subst h; simp
    · simp [h, s.slot_retestSlot_ne h]

/-- A slot that the state does not list is free. -/
theorem FMap.get_of_notMem {α : Type} {d : α} {m : FMap α} {k : Nat} (h : k ∉ m.map fun e => e.1) : FMap.get d m k = d := by
  induction m with
  | nil => rfl
  | cons e rest ih =>
    simp only [List.map_cons, List.mem_cons, not_or] at h
    rw [FMap.get, if_neg (Ne.symm h.1), ih h.2]

/-- The tests after a write leave of each slot what the test of that slot leaves. -/
theorem State.slot_retest (tk : Nat) : s.retest.slot tk = (s.retestSlot tk).slot tk := by
  rw [State.retest, State.slot_retests]
  split
  · rfl
  · rename_i h
    rw [State.slot_retestSlot, show s.slot tk = {} from FMap.get_of_notMem h]
    rfl

theorem State.slot_retest_of_notWaiting {tk : Nat} (h : ∀ j b, (s.slot tk).st ≠ .blocked (.wordNe j b)) : s.retest.slot tk = s.slot tk := by
  rw [State.slot_retest, State.slot_retestSlot, Slot.tested_of_notWaiting h]

theorem State.slot_retest_of_waiting {tk j : Nat} {b : Word} (h : (s.slot tk).st = .blocked (.wordNe j b)) : s.retest.slot tk =
    if word (s.wordFor tk j) = b ∨ s.owned j 8 = true then s.slot tk else (s.slot tk).endWait (s.wordFor tk j) := by
  rw [State.slot_retest, State.slot_retestSlot, Slot.tested_of_waiting h]

theorem State.wordFor_owned_retest : (∀ tk k, s.retest.wordFor tk k = s.wordFor tk k) ∧ ∀ k n, s.retest.owned k n = s.owned k n :=
  State.wordFor_owned_of_slots s.retest_slots fun k => by rw [State.slot_retest]; exact s.restedAs_retestSlot k k

end

/-! ## The write of a local store (R3, R84, R223) -/

/-- Whole bytes are written as a run of bytes. -/
theorem memWrite_eq_foldl (bs : List Byte) (m : List Host.Cell) (k i : Nat) :
    ((bs.zipIdx i).map fun b => ((b.2, b.1, 0xFF#8) : WByte)).foldl
      (fun m b => FMap.set (0 : Byte) m (k + b.1) (keptBits (memByte m (k + b.1)) b.2.1 b.2.2)) m = memWrite m (k + i) bs := by
  induction bs generalizing m i with
  | nil => rfl
  | cons b bs ih =>
    have hkept (old : Byte) : keptBits old b 0xFF#8 = b := by
      have hmask : b &&& 0xFF#8 = b := BitVec.and_allOnes
      simp [keptBits, hmask]
    rw [List.zipIdx_cons, List.map_cons, List.foldl_cons, ih, memWrite, hkept, Nat.add_assoc]

theorem State.writeW_wholeBytes (s : State) (k n v : Nat) : s.writeW k (wholeBytes n v) = s.wr k n v := by
  unfold State.writeW wholeBytes State.wr State.wrBytes
  rw [memWrite_eq_foldl, Nat.add_zero]

/-- A local store in its write cycle, its bytes owned by no engine before it, writes them, and the waiting slots test their words. -/
theorem State.performDue_store {s : State} {ck k : Nat} {p : Pend} {bs : List WByte} (hvq : (s.core ck).vq = []) (hpend : (s.core ck).pend = [p])
    (hdue : p.due = (s.core ck).cycle) (hop : p.op = .store k bs) (h8 : p.slot < 8)
    (hfree : ∀ b ∈ bs, (s.updCore ck fun c => { c with pend := [] }).ownedFor [ck * 8 + p.slot] p.born (k + b.1) 1 = false) :
    s.performDue ck = ((s.updCore ck fun c => { c with pend := [] }).writeW k bs).retest := by
  have hall : (s.core ck).completeAll = s.core ck := Core.completeAll_of_none (by simp [hvq])
  have hnone : (bs.map fun b => k + b.1).any (fun j => (s.updCore ck fun c => { c with pend := [] }).ownedFor [ck * 8 + p.slot] p.born j 1) = false := by
    rw [List.any_eq_false]
    intro j hj
    obtain ⟨b, hb, rfl⟩ := List.mem_map.mp hj
    rw [hfree b hb]
    exact Bool.false_ne_true
  rw [State.performDue_single (p := p) (by rw [hall, hpend]) (by rw [hall, hdue]) (by rw [hop]; rfl) h8, hall]
  show (s.updCore ck fun c => { c with pend := [] }).applyPend ck p = _
  rw [State.applyPend, hop]
  exact if_neg (by rw [hnone]; exact Bool.false_ne_true)

theorem mem_wholeBytes {n v : Nat} {b : WByte} (h : b ∈ wholeBytes n v) : b.1 < n := by
  obtain ⟨c, hc, rfl⟩ := List.mem_map.mp h
  have := (List.mem_zipIdx hc).2.1
  rw [length_leBytes] at this
  omega

/-- The number in a run of bytes that was just written. -/
theorem memRead_memWrite_leBytes (n : Nat) : ∀ (m : List Host.Cell) (k v : Nat), memRead (memWrite m k (leBytes n v)) k n = v % 256 ^ n := by
  induction n with
  | zero => intro m k v; simp [memRead, Nat.mod_one]
  | succ n ih =>
    intro m k v
    have hbyte : memByte (memWrite m k (leBytes (n + 1) v)) k = BitVec.ofNat 8 v := by
      rw [memByte_memWrite, if_pos ⟨Nat.le_refl k, by rw [length_leBytes]; omega⟩, Nat.sub_self]
      rfl
    rw [memRead, hbyte, leBytes, memWrite, ih, Nat.pow_succ, Nat.mul_comm (256 ^ n) 256, Nat.mod_mul]
    simp

theorem State.rd_wr_same (s : State) (k n v : Nat) : (s.wr k n v).rd k n = v % 256 ^ n := memRead_memWrite_leBytes n _ k v

theorem State.rd_wr_disjoint (s : State) {k n v j m : Nat} (h : j + m ≤ k ∨ k + n ≤ j) : (s.wr k n v).rd j m = s.rd j m :=
  memRead_congr m j fun i h1 h2 => by rw [memByte_wr, if_neg (by omega)]

/-- A range that is made zero reads as zero, and every other byte stands. -/
theorem State.memByte_zeroRange (s : State) (k n j : Nat) : memByte (s.zeroRange k n).mem j = if k ≤ j ∧ j < k + n then 0 else memByte s.mem j := by
  show FMap.get 0 (s.mem.filter fun c => !(decide (k ≤ c.1) && decide (c.1 < k + n))) j = if k ≤ j ∧ j < k + n then 0 else FMap.get 0 s.mem j
  induction s.mem with
  | nil => simp [FMap.get]
  | cons c m ih =>
    by_cases hc : k ≤ c.1 ∧ c.1 < k + n
    · have hdrop : (!(decide (k ≤ c.1) && decide (c.1 < k + n))) = false := by simp [hc]
      rw [List.filter_cons, hdrop, if_neg Bool.false_ne_true, ih, FMap.get]
      by_cases hj : c.1 = j
      · subst hj; simp [hc]
      · rw [if_neg hj]
    · have hkeep : (!(decide (k ≤ c.1) && decide (c.1 < k + n))) = true := by
        rw [← Bool.decide_and, decide_eq_false hc, Bool.not_false]
      rw [List.filter_cons, hkeep, if_pos rfl, FMap.get, FMap.get, ih]
      by_cases hj : c.1 = j
      · subst hj; simp [hc]
      · simp [hj]

end Sys2Proof.Machine

open Sys2Proof Sys2Proof.Machine

/-- Settles O21: the checks are one list, of which the first that fails answers. -/
theorem accessChecksInOrder : Obligations.AccessChecksInOrder := by
  unfold Obligations.AccessChecksInOrder
  intro s p a n align winBad
  have hshare : (if space a = 0 then s.localCheck s.cur p a n else none : Check) =
      if space a = 0 ∧ s.spSize s.myPid < offset a + n then some (0x0D, a)
      else if space a = 0 then (s.me.sr.refused p (offset a) n).map fun o => (0x05, atOffset a o) else none := by
    by_cases h0 : space a = 0
    · simp only [h0, if_true, true_and, State.localCheck_eq]
      rfl
    · simp [h0]
  by_cases hmbz : mustBeZero a = false
  · simp [State.accessCheck, firstTrap_cons, spaceCheck_eq, hmbz]
  by_cases h15 : space a = 15
  · cases hsup : s.super <;> by_cases hclass : fld a 56 4 = 0 <;>
      simp [State.accessCheck, firstTrap_cons, spaceCheck_eq, failIf, hmbz, h15, hsup, hclass]
  by_cases hpanel : space a = 3 ∧ 384 ≤ fld a 51 9
  · simp [State.accessCheck, firstTrap_cons, spaceCheck_eq, hmbz, hpanel]
  have hspace : spaceCheck s.super a = none := by simp [spaceCheck_eq, hmbz, h15, hpanel]
  have hguard : ((s.me.sr.refused p (offset a) n).map fun o => ((0x05, atOffset a o) : Nat × Word)) =
      if (s.me.sr.refused p (offset a) n).isSome then some (0x05, atOffset a ((s.me.sr.refused p (offset a) n).getD 0)) else none := by
    cases s.me.sr.refused p (offset a) n <;> rfl
  simp only [State.accessCheck, firstTrap_cons, hspace, hshare, hguard, failIf_or, Option.none_or, firstTrap, Option.or_none, State.remoteCheck,
    hmbz, h15, hpanel, if_false]
  by_cases halign : a.toNat % align = 0
  · by_cases hbad : winBad = true
    · simp [halign, hbad]
    · by_cases h0 : space a = 0
      · have hremote : failIf (decide (space a = 1) && (s.remoteQuad s.myPid a).isNone) 0x07 a = none := by simp [failIf, h0]
        rw [hremote]
        by_cases hsize : s.spSize s.myPid < offset a + n <;> by_cases href : (s.me.sr.refused p (offset a) n).isSome = true <;>
          simp [halign, hbad, h0, hsize, href]
      · have hremote : failIf (decide (space a = 1) && (s.remoteQuad s.myPid a).isNone) 0x07 a =
            if space a = 1 ∧ s.remoteQuad s.myPid a = none then some (0x07, a) else none := by simp [failIf]
        simp [halign, hbad, h0, hremote]
  · simp [halign]

/-- Settles O19: a load is one `doLoad` behind its waits and checks. -/
theorem loadsReadOrLeave : Obligations.LoadsReadOrLeave := by
  unfold Obligations.LoadsReadOrLeave
  intro s d a b off sz w cp sc hput n row hrow rd x sx acq t k hissue hgo hcheck f
  have hput' : t.mayPut d = true := by simpa [t] using hput
  have hcur : s.cur = t.cur := (State.cur_popPorts s rd).symm
  have hexec : exec row.1 s = .next ((doLoad t d x n sx row.2.2.2.2.2.1 acq row.2.2.2.2.2.2.2).run s) := by
    simp only [List.mem_cons, List.not_mem_nil, or_false] at hrow
    rcases hrow with rfl | rfl | rfl | rfl
    · exact runHead_act hissue (loadAct_of_check hgo hcheck)
    · exact runHead_act hissue (loadAct_of_check hgo hcheck)
    · exact runHead_act hissue (loadAct_of_check hgo hcheck)
    · exact runHead_act hissue (memWait_orElse hgo hcheck)
  refine ⟨fun hx hfree => ?here, fun hx hroom => ⟨fun hl1 => ?sent, fun place hl1 => ?hit⟩⟩
  case here =>
    simp only [k, hcur] at hfree ⊢
    rw [hexec, doLoad_local hput' hx hfree, State.wrote, hcur]
    rfl
  case sent =>
    rw [hexec, doLoad_sent hput' hx hroom hl1, hcur]
    rfl
  case hit =>
    rw [hexec, doLoad_hit hput' hx hroom hl1]
    rfl

/-- Settles O20: a store is one `doStore` behind its waits and checks; its write is that of a number, after which each waiting slot tests its
word. -/
theorem storesWriteOrLeave : Obligations.StoresWriteOrLeave := by
  unfold Obligations.StoresWriteOrLeave
  refine ⟨?heads, ?write, ?memory⟩
  case heads =>
    intro s d a b off sz w cp sc n row hrow rd x rel t k v waited hissue hgo hcheck hwaited
    have hexec : exec row.1 s = .next ((doStore t x n v row.2.2.2.2.2.2 rel (if rel then sc.code else 0)).run s) := by
      simp only [List.mem_cons, List.not_mem_nil, or_false] at hrow
      rcases hrow with rfl | rfl | rfl
      · exact runHead_act hissue (storeAct_of_check hgo hcheck)
      · exact runHead_act hissue (storeAct_of_check hgo hcheck)
      · exact runHead_act hissue ((memWait_orElse hgo hcheck).trans (stl_goesOn (hwaited rfl)))
    have hcur : s.cur = t.cur := (State.cur_popPorts s rd).symm
    refine ⟨fun hx hfree => ?here, fun hx hopt hroom => ?sent, fun hx hhold => ?held⟩
    case here =>
      simp only [k, hcur] at hfree ⊢
      rw [hexec, doStore_local hx hfree]
      rfl
    case sent =>
      have hopt' : t.me.optimistic = false := (State.optimistic_popPorts s rd).trans hopt
      rw [hexec, doStore_remote hx hopt' hroom, hcur]
      rfl
    case held =>
      rw [hexec, doStore_held hx hhold]
      rfl
  case write =>
    intro s ck i k n v p h8 hvq hpend hp hfree t
    have hslot : p.slot = i := by rw [hp]
    have ht : t = ((s.updCore ck fun c => { c with pend := [] }).wr k n v).retest := by
      rw [← State.writeW_wholeBytes]
      exact State.performDue_store hvq hpend (by rw [hp]) (by rw [hp]) (hslot.symm ▸ h8) fun b hb => hslot.symm ▸ hfree b.1 (mem_wholeBytes hb)
    obtain ⟨hword, howned⟩ := ((s.updCore ck fun c => { c with pend := [] }).wr k n v).wordFor_owned_retest
    obtain ⟨m, hm⟩ := ((s.updCore ck fun c => { c with pend := [] }).wr k n v).retest_slots
    refine ⟨fun j => ?bytes, ?states, ?pending, ?rest, fun tk hst => ?others, fun tk j b hst => ?waiting⟩
    case bytes => rw [ht, State.retest_mem]; exact memByte_wr _ k n v j
    case states => rw [ht, State.retest_fe]; rfl
    case pending => rw [ht, hm]; exact congrArg Core.pend (State.core_updCore_same s ck fun c => { c with pend := [] })
    case rest => rw [ht, hm]; rfl
    case others => rw [ht]; exact State.slot_retest_of_notWaiting _ hst
    case waiting => rw [ht, hword, howned]; exact State.slot_retest_of_waiting _ hst
  case memory =>
    intro s k n v
    exact ⟨s.rd_wr_same k n v, memByte_wr s k n v, rfl, fun m j h => s.rd_wr_disjoint h, s.memByte_zeroRange k n, wf_memWrite _ k⟩
end

section
/-! SUPPORT. Pops and what they leave; caches as tags; what prefetches, cache heads and waits leave as it was (R110, R111, R198 to R202,
R225 to R227). -/

namespace Sys2Proof.Machine

/-! ## What the pops of a head leave (R89) -/

/-- Pops change the slots and the cores alone. -/
theorem State.popPorts_eq (s : State) (rs : List Reg) : ∃ ss cs, s.popPorts rs = { s with slots := ss, cores := cs } :=
  State.popPorts_induct (P := fun t => ∃ ss cs, t = { s with slots := ss, cores := cs }) rs
    (fun t r => by rintro ⟨ss, cs, rfl⟩; exact ⟨_, _, rfl⟩)
    (fun t => by rintro ⟨ss, cs, rfl⟩; exact ⟨_, _, rfl⟩) s ⟨_, _, rfl⟩

@[simp] theorem State.myPid_popPorts (s : State) (rs : List Reg) : (s.popPorts rs).myPid = s.myPid := by
  obtain ⟨_, _, h⟩ := s.popPorts_eq rs; rw [h]; rfl
@[simp] theorem State.fe_popPorts (s : State) (rs : List Reg) : (s.popPorts rs).fe = s.fe := by
  obtain ⟨_, _, h⟩ := s.popPorts_eq rs; rw [h]
@[simp] theorem State.wakes_popPorts (s : State) (rs : List Reg) : (s.popPorts rs).wakes = s.wakes := by
  obtain ⟨_, _, h⟩ := s.popPorts_eq rs; rw [h]
@[simp] theorem State.localKey_popPorts (s : State) (rs : List Reg) (tk o : Nat) : (s.popPorts rs).localKey tk o = s.localKey tk o := by
  obtain ⟨_, _, h⟩ := s.popPorts_eq rs; rw [h]; rfl
@[simp] theorem State.threadKey_popPorts (s : State) (rs : List Reg) (pid n : Nat) : (s.popPorts rs).threadKey pid n = s.threadKey pid n := by
  obtain ⟨_, _, h⟩ := s.popPorts_eq rs; rw [h]; rfl
@[simp] theorem State.runs_popPorts (s : State) (rs : List Reg) (pid tk : Nat) : (s.popPorts rs).runs pid tk = s.runs pid tk := by
  obtain ⟨_, _, h⟩ := s.popPorts_eq rs; rw [h]; rfl

/-! ## Tables mapped entry by entry -/

/-- Two tables of the same keys whose entries stand in a relation give, for every key, values that do. -/
theorem FMap.get_map_rel {α : Type} {R : α → α → Prop} {d : α} (f : Nat × α → Nat × α) (hd : R d d) (hf : ∀ e, (f e).1 = e.1 ∧ R (f e).2 e.2)
    (m : FMap α) (k : Nat) : R (FMap.get d (m.map f) k) (FMap.get d m k) := by
  induction m with
  | nil => exact hd
  | cons e rest ih =>
    rw [List.map_cons]
    simp only [FMap.get, (hf e).1]
    split
    · exact (hf e).2
    · exact ih

/-! ## Changes of the caches alone -/

/-- A state that differs from another in its caches: the lines of the L1s and of the dies, and the quads' instruction caches. -/
def State.cachesOnly (s t : State) : Prop :=
  ({ t with cores := s.cores, quads := s.quads, dieLines := s.dieLines } : State) = s
    ∧ (∀ c, ({ t.core c with l1 := (s.core c).l1 } : Core) = s.core c)
    ∧ ∀ q, ({ t.quad q with icache := (s.quad q).icache } : Quad) = s.quad q

theorem State.cachesOnly.refl (s : State) : s.cachesOnly s := ⟨rfl, fun _ => rfl, fun _ => rfl⟩

theorem State.cachesOnly.trans {s t u : State} (h : s.cachesOnly t) (h' : t.cachesOnly u) : s.cachesOnly u := by
  obtain ⟨h1, h2, h3⟩ := h
  obtain ⟨h1', h2', h3'⟩ := h'
  refine ⟨?_, fun c => ?_, fun q => ?_⟩
  · rw [← h1, ← h1']
  · rw [← h2 c, ← h2' c]
  · rw [← h3 q, ← h3' q]

theorem State.cachesOnly_dieLines (s : State) (l : List (Nat × CLine)) : s.cachesOnly { s with dieLines := l } :=
  ⟨rfl, fun _ => rfl, fun _ => rfl⟩

theorem State.cachesOnly_updCore (s : State) (ck : Nat) (f : List CLine → List CLine) :
    s.cachesOnly (s.updCore ck fun c => { c with l1 := f c.l1 }) := by
  refine ⟨rfl, fun c => ?_, fun _ => rfl⟩
  by_cases hc : c = ck <;> simp [State.core_updCore, hc]

theorem State.cachesOnly_updQuad (s : State) (qi : Nat) (f : FMap Nat → FMap Nat) :
    s.cachesOnly (s.updQuad qi fun q => { q with icache := f q.icache }) := by
  refine ⟨rfl, fun _ => rfl, fun q => ?_⟩
  by_cases hq : q = qi <;> simp [State.quad_updQuad, hq]

/-- L1 lines go at cores that a test names. -/
theorem State.cachesOnly_mapCores (s : State) (p : Nat → Bool) (f : List CLine → List CLine) :
    s.cachesOnly { s with cores := s.cores.map fun c => if p c.1 then (c.1, { c.2 with l1 := f c.2.l1 }) else c } := by
  refine ⟨rfl, fun c => ?_, fun _ => rfl⟩
  refine FMap.get_map_rel (R := fun x y => ({ x with l1 := y.l1 } : Core) = y) _ rfl (fun e => ?_) s.cores c
  split <;> exact ⟨rfl, rfl⟩

theorem State.cachesOnly_dieEvict (s : State) (place line : Nat) : s.cachesOnly (s.dieEvict place line) := by
  have h := State.cachesOnly_mapCores { s with dieLines := s.dieLines.filter fun e => !(decide (e.1 = place) && decide (e.2.line = line)) }
    (fun c => decide (dieOf (quadOfCore c) = place / 2)) (fun l => l1Recall l line)
  simp only [decide_eq_true_eq] at h
  exact (s.cachesOnly_dieLines _).trans h

theorem State.cachesOnly_dieLoad (s : State) (place : Nat) (e : CLine) : s.cachesOnly (s.dieLoad place e) := by
  unfold State.dieLoad
  dsimp only
  split
  · exact (s.cachesOnly_dieLines _)
  · exact ((s.cachesOnly_dieLines _).trans (State.cachesOnly_dieEvict _ _ _)).trans (State.cachesOnly_dieLines _ _)

theorem State.cachesOnly_cacheLoad (s : State) (ck pa key cp : Nat) : s.cachesOnly (s.cacheLoad ck pa key cp) := by
  refine State.cachesOnly.trans ?_ (State.cachesOnly_updCore _ ck fun l => l1Load l (lineOf pa) key cp)
  unfold State.dieFill
  dsimp only
  split
  · exact s.cachesOnly_dieLoad _ _
  · exact (s.cachesOnly_dieLoad _ _).trans (State.cachesOnly_dieLoad _ _ _)

theorem State.cachesOnly_rdcDrop (s : State) (die line : Nat) : s.cachesOnly (s.rdcDrop die line) := by
  unfold State.rdcDrop
  split
  · exact s.cachesOnly_dieEvict _ _
  · exact .refl s

/-- Behind a change of the caches alone, the next head follows and nothing else has changed. -/
theorem State.keepsButCaches_passed {s t : State} (h : s.cachesOnly t) : s.keepsButCaches t.passed ∧ t.passed.me.pc = s.me.nextPc := by
  obtain ⟨h1, h2, h3⟩ := h
  have hslots : t.slots = s.slots := by have := congrArg State.slots h1; exact this
  have hcur : t.cur = s.cur := by have := congrArg State.cur h1; exact this
  have hme : t.me = s.me := by rw [State.me, State.me, State.slot, State.slot, hslots, hcur]
  have hpassed : t.passed.me = t.me.advance t.me.nextPc := State.me_updMe _ _
  refine ⟨⟨?state, fun k hk => ?slots, ?me, fun c => h2 c, fun q => h3 q⟩, ?pc⟩
  case state => rw [← h1]; rfl
  case slots =>
    rw [State.passed, State.updMe, State.slot_updSlot_ne _ _ _ _ (hcur.symm ▸ hk), State.slot, State.slot, hslots]
  case me => rw [hpassed, hme]; rfl
  case pc => rw [hpassed, hme]; rfl

/-- A line that L1 does not hold is recalled from it without a change. -/
theorem l1Recall_of_absent {l1 : List CLine} {line : Nat} (h : ∀ c ∈ l1, c.line ≠ line) : l1Recall l1 line = l1 := by
  have hfilter : l1.filter (fun c => decide (c.line ≠ line) || c.pin) = l1 :=
    List.filter_eq_self.mpr fun c hc => by rw [decide_eq_true (h c hc), Bool.true_or]
  rw [l1Recall, hfilter]
  exact (List.map_congr_left fun c hc => if_neg (h c hc)).trans (List.map_id' _)

/-- A core without a line keeps its L1 when a die drops the line. -/
theorem State.l1_rdcDrop {s : State} {ck die line : Nat} (h : ∀ c ∈ (s.core ck).l1, c.line ≠ line) :
    ((s.rdcDrop die line).core ck).l1 = (s.core ck).l1 := by
  unfold State.rdcDrop
  split
  · refine FMap.get_map_rel (R := fun x y => (∀ c ∈ y.l1, c.line ≠ line) → x.l1 = y.l1) _ (fun _ => rfl) (fun e => ?_) s.cores ck h
    split
    · exact ⟨rfl, l1Recall_of_absent⟩
    · exact ⟨rfl, fun _ => rfl⟩
  · rfl

/-! ## Prefetches and cache heads (R226, R227) -/

/-- A head that passes over the checks of an address leaves what its own part says. -/
theorem runHead_checked {u : Use} {s t : State} {k : (Reg → Word) → State → Act} {c : Check} (h : mayIssue u s = true)
    (hc : c = none) (hk : k s.operand (s.popPorts u.rd) = c.orElse (.next t)) : runHead u s k = .next t.passed :=
  runHead_next h (hk.trans (by rw [hc]; rfl))

theorem mayIssue_names {u : Use} {s : State} (h : mayIssue u s = true) :
    (u.names.any s.me.sr.outside || (u.misused s.myCore (slotNo s.cur)).isSome) = false := by
  simp only [mayIssue, Bool.and_eq_true, Bool.not_eq_true'] at h
  obtain ⟨⟨⟨⟨_, houtside⟩, _⟩, hports⟩, _⟩ := h
  rw [houtside, Bool.false_or, Option.isSome_eq_false_iff]
  exact hports

/-- Checks none of which fails raise nothing. -/
theorem firstTrap_of_none {cs : List Check} (h : ∀ c ∈ cs, c = none) : firstTrap cs = none := by
  induction cs with
  | nil => rfl
  | cons c cs ih =>
    rw [h c (by simp)]
    exact ih fun c' hc' => h c' (by simp [hc'])

/-- The checks of WAITADDR pass for a word of local space that a load may read (R110). -/
theorem State.waitaddr_checks {u : State} {y : Word} (hcheck : u.accessCheck permR y 8 8 false = none) (hspace : space y = 0)
    (hwindow : window y = 0) :
    firstTrap [spaceCheck u.super y, failIf (decide (space y ≠ 0 ∨ window y ≠ 0)) 0x02 y, failIf (decide (y.toNat % 8 ≠ 0)) 0x04 y,
      failIf (decide (u.spSize u.myPid < offset y + 8)) 0x0D y, if space y = 0 then u.localCheck u.cur permR y 8 else none] = none := by
  have hall := firstTrap_none hcheck
  have hlocal : u.localCheck u.cur permR y 8 = none := by simpa [hspace] using hall (if space y = 0 then u.localCheck u.cur permR y 8 else none) (by simp)
  have hsize : ¬ u.spSize u.myPid < offset y + 8 := by
    intro hlt
    rw [State.localCheck_eq, if_pos (show u.spSize (u.pidOf u.cur) < _ from hlt)] at hlocal
    cases hlocal
  refine firstTrap_of_none ?_
  simp only [List.forall_mem_cons, List.not_mem_nil, false_implies, implies_true, and_true]
  refine ⟨hall _ (by simp), by simp [hspace, hwindow, failIf], hall _ (by simp), by simp [failIf, hsize], by rw [if_pos hspace, hlocal]⟩

@[simp] theorem State.mayPut_updWake (s : State) (d : Reg) (b : Bool) : (s.updMe fun y => { y with wake := b }).mayPut d = s.mayPut d := by
  rw [State.mayPut, State.mayPut, State.me_updMe]
  rfl

@[simp] theorem State.wake_popPorts (s : State) (rs : List Reg) : (s.popPorts rs).me.wake = s.me.wake := by rw [State.me_popPorts]

/-- WAITADDR whose waits and checks are over looks at its word (R110). -/
theorem waitaddr_of_free {s z : State} {d a b : Reg} {off : BitVec 14} {w : BitVec 2} (h : mayIssue { rd := [a, b], wr := [d] } s = true)
    (hgo : (s.popPorts [a, b]).mayGo w (addrOff (s.operand a) off 8) = true)
    (hcheck : (s.popPorts [a, b]).accessCheck permR (addrOff (s.operand a) off 8) 8 8 false = none)
    (hspace : space (addrOff (s.operand a) off 8) = 0) (hwindow : window (addrOff (s.operand a) off 8) = 0)
    (hfree : (s.popPorts [a, b]).bytesFree ((s.popPorts [a, b]).localKey s.cur (offset (addrOff (s.operand a) off 8))) 8 = true)
    (hop : s.me.op = .none)
    (hz : let u := s.popPorts [a, b]
      let k := u.localKey s.cur (offset (addrOff (s.operand a) off 8))
      let now := word (u.ownRead k 8)
      (if s.me.wake then put (u.updMe fun y => { y with wake := false }) d now 6
        else if now ≠ s.operand b then put u d now 6 else .block (.wordNe k (s.operand b))) = .next z) :
    exec (.waitaddr d a b off w) s = .next z.passed := by
  have hexec : exec (.waitaddr d a b off w) s = execWaitaddr d a b off w s := rfl
  rw [hexec, execWaitaddr, runReply, hop]
  refine runHead_next h ?_
  dsimp only
  rw [State.waitaddr_checks hcheck hspace hwindow, Check.orElse_none, memWait_of_mayGo hgo, State.cur_popPorts, localWait_of_bytesFree hfree,
    State.wake_popPorts]
  exact hz

end Sys2Proof.Machine

open Sys2Proof Sys2Proof.Machine

/-- Settles O23: what the heads leave is a change of the caches alone behind which the next head follows; the waits go on once their
conditions hold, and a test of a blocked slot is one `if`. -/
theorem cachesFencesAndWaits : Obligations.CachesFencesAndWaits := by
  unfold Obligations.CachesFencesAndWaits
  intro s d a b off cp sc l st c tl w tk t x y u k noL1
  refine ⟨fun hbuf => ?cflushAll, ?cinvAll, fun h => ⟨?pref, fun hline hbuf => ?cflushLine, fun hline => ?cinvLine, fun hline => ?cinvIline,
    fun hthread => ?wake⟩, fun hbad => ?prefPassed, fun hok hsys => ?fence, fun hok hop => ?flush, fun h1 h2 h3 h4 => ?waitc,
    fun h hp hgo hcheck hspace hwindow hfree hop => ⟨fun hwake => ?wakes, fun hwake hne => ?differs⟩, fun v hop hp => ?ended,
    fun j v hst hown => ?retests⟩
  case cflushAll => exact runHead_next (mayIssue_nothing s) (if_neg (by simp [hbuf]))
  case cinvAll => exact runHead_next (mayIssue_nothing s) rfl
  case pref =>
    have hexec : exec (.pref a off cp) s = execPref a off cp s := rfl
    have hnames := mayIssue_names h
    simp only [execPref, hnames, Bool.false_eq_true, if_false] at hexec
    obtain ⟨z, hz, hcaches⟩ : ∃ z, (if space y = 2 ∧ mustBeZero y = true then
        match t.tlbFind (coreOf t.cur) t.myPid (fld y 0 48) permR false with
        | some e => Act.next (t.cacheLoad (coreOf t.cur) (e.pa + (fld y 0 48 - e.va)) t.myPart.key cp.code)
        | none => .next t
      else .next t) = .next z ∧ t.cachesOnly z := by
      split
      · split
        · exact ⟨_, rfl, State.cachesOnly_cacheLoad _ _ _ _ _⟩
        · exact ⟨_, rfl, .refl t⟩
      · exact ⟨_, rfl, .refl t⟩
    obtain ⟨hkeeps, hpc⟩ := State.keepsButCaches_passed hcaches
    exact ⟨_, hexec.trans (runHead_next h hz), hpc.trans (State.nextPc_popPorts s [a]), hkeeps⟩
  case cflushLine =>
    have hrun (z : State) (hz : (match t.cachedLine x with
        | none => Act.next t
        | some l => .next ((t.updMyCore fun c => { c with l1 := c.l1.filter fun x => decide (x.line ≠ l) }).rdcDrop (dieOf (quadOf t.cur)) l)) =
        .next z) : exec (.cflushLine a) s = .next z.passed := by
      refine runHead_checked h hline (?_ : (t.lineCheck x 32).orElse _ = _)
      rw [hbuf, if_neg Bool.false_ne_true]
      exact congrArg _ hz
    cases hl : t.cachedLine x with
    | none =>
      obtain ⟨hkeeps, hpc⟩ := State.keepsButCaches_passed (.refl t)
      exact ⟨_, hrun t (by rw [hl]), hpc.trans (State.nextPc_popPorts s [a]), hkeeps, fun _ => rfl, nofun⟩
    | some l =>
      have hcaches : t.cachesOnly ((t.updMyCore fun c => { c with l1 := c.l1.filter fun x => decide (x.line ≠ l) }).rdcDrop (dieOf (quadOf t.cur)) l) :=
        (t.cachesOnly_updCore _ fun l1 => l1.filter fun x => decide (x.line ≠ l)).trans (State.cachesOnly_rdcDrop _ _ _)
      obtain ⟨hkeeps, hpc⟩ := State.keepsButCaches_passed hcaches
      refine ⟨_, hrun _ (by rw [hl]), hpc.trans (State.nextPc_popPorts s [a]), hkeeps, nofun, fun l' h' => ?_⟩
      cases h'
      have hcur : (((t.updMyCore fun c => { c with l1 := c.l1.filter fun x => decide (x.line ≠ l) }).rdcDrop (dieOf (quadOf t.cur)) l).passed).myCore =
          ((t.updMyCore fun c => { c with l1 := c.l1.filter fun x => decide (x.line ≠ l) }).rdcDrop (dieOf (quadOf t.cur)) l).core (coreOf t.cur) := by
        have := congrArg State.cur hcaches.1
        exact congrArg (fun n => State.core _ (coreOf n)) this
      have hl1 : ((t.updMyCore fun c => { c with l1 := c.l1.filter fun x => decide (x.line ≠ l) }).core (coreOf t.cur)).l1 =
          t.myCore.l1.filter fun e => decide (e.line ≠ l) := congrArg Core.l1 (State.core_updCore_same t _ _)
      rw [hcur, State.l1_rdcDrop, hl1]
      rw [hl1]
      intro c hc
      simpa using (List.mem_filter.mp hc).2
  case cinvLine =>
    have hrun (z : State) (hz : (match t.cachedLine x with
        | none => Act.next t
        | some l => .next (t.updMyCore fun c => { c with l1 := c.l1.filter fun x => decide (x.line ≠ l) })) = .next z) :
        exec (.cinvLine a) s = .next z.passed := runHead_checked h hline (congrArg _ hz)
    cases hl : t.cachedLine x with
    | none =>
      obtain ⟨hkeeps, hpc⟩ := State.keepsButCaches_passed (.refl t)
      exact ⟨_, hrun t (by rw [hl]), hpc.trans (State.nextPc_popPorts s [a]), hkeeps, fun _ => rfl, nofun⟩
    | some l =>
      obtain ⟨hkeeps, hpc⟩ := State.keepsButCaches_passed (t.cachesOnly_updCore (coreOf t.cur) fun l1 => l1.filter fun x => decide (x.line ≠ l))
      refine ⟨_, hrun _ (by rw [hl]; rfl), hpc.trans (State.nextPc_popPorts s [a]), hkeeps, nofun, fun l' h' => ?_⟩
      cases h'
      rfl
  case cinvIline =>
    have hpid : t.myPid = s.myPid := State.myPid_popPorts s [a]
    refine ⟨?_, (State.keepsButCaches_passed (t.cachesOnly_updQuad _ fun l => FMap.erase l (fetchKey s.myPid x))).1⟩
    rw [← hpid]
    exact runHead_checked h hline rfl
  case wake =>
    have hpid : t.myPid = s.myPid := State.myPid_popPorts s [a]
    refine ⟨runHead_next h ?_, fun hruns => ?_⟩
    · show (match t.threadKey t.myPid x.toNat with
        | none => Act.trap 0x07 x
        | some tk => .next (t.wakeUp t.myPid tk)) = _
      rw [hpid, State.threadKey_popPorts, hthread]
    · rw [State.wakeUp, State.runs_popPorts, hruns, if_pos rfl]
      show (s.popPorts [a]).wakes ++ [tk] = _
      rw [State.wakes_popPorts]
  case prefPassed =>
    refine (if_pos ?_ : execPref a off cp s = _)
    simpa [Use.names] using hbad
  case fence => exact runHead_next (mayIssue_nothing s) (fenceWait_of_ok hok hsys)
  case flush =>
    have hkeep : fenceWait s s .sys (.next s) = .keep s.sendFlush := by
      unfold fenceWait
      rw [hok, hop]
      rfl
    exact runHead_act (k := fun _ t => fenceWait s t .sys (.next t)) (mayIssue_nothing s) hkeep
  case waitc => exact runHead_next (mayIssue_nothing s) (if_pos ⟨h1, h2, h3, h4⟩)
  case wakes =>
    refine waitaddr_of_free h hgo hcheck hspace hwindow hfree hop ?_
    dsimp only
    rw [hwake, if_pos rfl, put_of_mayPut (by rw [State.mayPut_updWake]; simpa [u] using hp)]
    show Act.next (State.writeReg _ u.cur _ _ _) = _
    rw [State.cur_popPorts]
  case differs =>
    refine waitaddr_of_free h hgo hcheck hspace hwindow hfree hop ?_
    dsimp only
    rw [hwake, if_neg Bool.false_ne_true, if_pos hne, put_of_mayPut (by simpa [u] using hp), State.cur_popPorts]
  case ended =>
    have hexec : exec (.waitaddr d a b off w) s = execWaitaddr d a b off w s := rfl
    rw [hexec, execWaitaddr, runReply, hop]
    dsimp only
    rw [put_of_mayPut (by simpa using hp), State.cur_popPorts]
    rfl
  case retests =>
    have hretest : s.retestSlot tk = if word (s.wordFor tk j) = v then s else s.updSlot tk fun z => z.endWait (s.wordFor tk j) := by
      rw [State.retestSlot, hst]
      simp only [hown, Bool.or_false, decide_eq_true_eq]
    have hwake : s.takeWake tk = s.updSlot tk fun z => z.endWait (s.wordFor tk j) := by
      rw [State.takeWake, hst]
      simp only [hown, Bool.false_eq_true, if_false]
    exact ⟨hretest, hwake⟩
end

section
/-! SUPPORT. Full/empty words: what LDE, STF and FEINIT do once their waits and checks are over (R250 to R253). -/

namespace Sys2Proof.Machine

theorem State.bytesFree_iff {s : State} {k n : Nat} :
    s.bytesFree k n = true ↔ s.localConflict k n = false ∧ s.owned k n = false ∧ keyQuad k = quadOf s.cur := by
  simp [State.bytesFree, and_assoc]

/-- A local access of the slot's own quad is not noted. -/
theorem noted_of_own {s : State} {k : Nat} {a : Act} (h : keyQuad k = quadOf s.cur) : noted s k a = a := if_pos h

/-- A local LDE of a full word, in its turn (R252). -/
theorem lde_full {s t : State} {d a : Reg} {off : BitVec 14} {w : BitVec 2} {cp : Cp} {x : Word} {k : Nat} (hop : s.me.op = .none)
    (h : mayIssue { rd := [a], wr := [d] } s = true) (hp : s.mayPut d = true) (ht : s.popPorts [a] = t) (hx : addrOff (s.operand a) off 8 = x)
    (hk : s.localKey s.cur (offset x) = k) (hgo : t.mayGo w x = true) (hcheck : t.feCheck permRW false x = none) (hspace : space x = 0)
    (hfull : FMap.get false s.fe k = true) (hqueue : t.queued k true = false) (hfree : t.bytesFree k 8 = true) :
    exec (.lde d a off w cp) s =
      .next (({ t with fe := FMap.set false s.fe k false } : State).writeReg s.cur d (word (t.ownRead k 8)) 6).passed := by
  obtain ⟨hconflict, howned, hquad⟩ := State.bytesFree_iff.mp hfree
  have hexec : exec (.lde d a off w cp) s = execLde d a off w cp s := rfl
  have hput : State.mayPut { t with fe := FMap.set false t.fe k false } d = true := by
    rw [← ht]
    exact (State.mayPut_popPorts s [a] d).trans hp
  have hcur : t.cur = s.cur := by rw [← ht, State.cur_popPorts]
  have hfe : t.fe = s.fe := by rw [← ht, State.fe_popPorts]
  have hkey : t.localKey t.cur (offset x) = k := by rw [hcur, ← ht, State.localKey_popPorts, hk]
  rw [← hfe] at hfull ⊢
  rw [hexec, execLde, runReply, hop]
  refine runHead_next h ?_
  dsimp only
  rw [ht, hx, memWait_of_mayGo hgo, hcheck, Check.orElse_none, if_pos hspace, hkey, hconflict, hfull, hqueue, howned, if_neg Bool.false_ne_true,
    if_pos (by rfl), noted_of_own hquad, put_of_mayPut hput]
  exact congrArg (fun c => Act.next (State.writeReg _ c _ _ _)) hcur

/-- A local STF of an empty word, in its turn (R252). -/
theorem stf_empty {s u : State} {a b : Reg} {off : BitVec 14} {w : BitVec 2} {cp : Cp} {x : Word} {k : Nat} (hop : s.me.op = .none)
    (h : mayIssue { rd := [a, b] } s = true) (hu : s.popPorts [a, b] = u) (hx : addrOff (s.operand a) off 8 = x)
    (hk : s.localKey s.cur (offset x) = k) (hgo : u.mayGo w x = true) (hcheck : u.feCheck permRW true x = none) (hspace : space x = 0)
    (hfence : u.fenceOk .part = true) (hempty : FMap.get false s.fe k = false) (hqueue : u.queued k false = false)
    (hfree : u.bytesFree k 8 = true) :
    exec (.stf a b off w cp) s = .next ({ u.wr8 k (s.operand b) with fe := FMap.set false s.fe k true } : State).passed := by
  obtain ⟨hconflict, howned, hquad⟩ := State.bytesFree_iff.mp hfree
  have hexec : exec (.stf a b off w cp) s = execStf a b off w cp s := rfl
  have hcur : u.cur = s.cur := by rw [← hu, State.cur_popPorts]
  have hfe : u.fe = s.fe := by rw [← hu, State.fe_popPorts]
  have hkey : u.localKey u.cur (offset x) = k := by rw [hcur, ← hu, State.localKey_popPorts, hk]
  rw [← hfe] at hempty ⊢
  rw [hexec, execStf, runReply, hop]
  refine runHead_next h ?_
  dsimp only
  rw [hu, hx, memWait_of_mayGo hgo, hcheck, Check.orElse_none, if_pos hspace, hkey, hfence, hconflict, hempty, hqueue, howned,
    if_neg (by decide), if_neg Bool.false_ne_true, if_pos (by rfl), noted_of_own hquad]

/-- FEINIT behind its waits and checks (R253). -/
theorem feinit_local {s u : State} {a b : Reg} {full : Bool} {k : Nat} (h : mayIssue { rd := [a, b] } s = true) (hu : s.popPorts [a, b] = u)
    (hk : s.localKey s.cur (offset (s.operand a)) = k) (hgo : u.mayGo 0 (s.operand a) = true)
    (hcheck : u.feCheck permW true (s.operand a) = none) (hspace : space (s.operand a) = 0) (hfree : u.bytesFree k 8 = true) :
    feinit full a b s = .next (u.pendOp (.feinit k full) (s.operand b)).passed := by
  subst hu
  refine runHead_next h ?_
  dsimp only
  rw [memWait_of_mayGo hgo, hcheck, Check.orElse_none, if_pos hspace, State.cur_popPorts, State.localKey_popPorts, hk, localWait_of_bytesFree hfree]

theorem feinit_remote {s u : State} {a b : Reg} {full : Bool} (h : mayIssue { rd := [a, b] } s = true) (hu : s.popPorts [a, b] = u)
    (hgo : u.mayGo 0 (s.operand a) = true) (hcheck : u.feCheck permW true (s.operand a) = none) (hspace : space (s.operand a) ≠ 0)
    (hroom : u.me.cnt.val (storeCtr (s.operand a)) < 255) :
    feinit full a b s = .next ((u.addCount s.cur (storeCtr (s.operand a))).sent
      { id := 0, thr := 0, pid := 0, addr := s.operand a, n := 8, op := .feinit (s.operand b) full, ctr := storeCtr (s.operand a) }).passed := by
  subst hu
  have hcnt : ¬ ctrMax (storeCtr (s.operand a)) ≤ (s.popPorts [a, b]).me.cnt.val (storeCtr (s.operand a)) := by
    rw [State.val_storeCtr_max]; omega
  have htag : ((s.popPorts [a, b]).addCount (s.popPorts [a, b]).cur (storeCtr (s.operand a))).me.faultTag = (s.popPorts [a, b]).me.faultTag := by
    show ((State.updSlot _ (s.popPorts [a, b]).cur _).slot (s.popPorts [a, b]).cur).faultTag = _
    rw [State.slot_updSlot_same]
    rfl
  refine runHead_next h ?_
  dsimp only
  rw [memWait_of_mayGo hgo, hcheck, Check.orElse_none, if_neg hspace, roomFor, if_neg hcnt, ← State.cur_popPorts s [a, b], State.sent, htag]
  rfl

/-- FEINIT in its write cycle, no engine standing before its word, sets word and state together. -/
theorem State.performDue_feinit {s : State} {ck k : Nat} {full : Bool} {p : Pend} (hvq : (s.core ck).vq = []) (hpend : (s.core ck).pend = [p])
    (hdue : p.due = (s.core ck).cycle) (hop : p.op = .feinit k full) (h8 : p.slot < 8)
    (hfree : ∀ j < 8, (s.updCore ck fun c => { c with pend := [] }).ownedFor [ck * 8 + p.slot] p.born (k + j) 1 = false) :
    s.performDue ck = State.retest { (s.updCore ck fun c => { c with pend := [] }).wr8 k p.val with fe := FMap.set false s.fe k full } := by
  have hall : (s.core ck).completeAll = s.core ck := Core.completeAll_of_none (by simp [hvq])
  have hnone : ((List.range 8).map fun i => k + i).any
      (fun j => (s.updCore ck fun c => { c with pend := [] }).ownedFor [ck * 8 + p.slot] p.born j 1) = false := by
    rw [List.any_eq_false]
    intro j hj
    obtain ⟨i, hi, rfl⟩ := List.mem_map.mp hj
    rw [hfree i (List.mem_range.mp hi)]
    exact Bool.false_ne_true
  rw [State.performDue_single (p := p) (by rw [hall, hpend]) (by rw [hall, hdue]) (by rw [hop]; rfl) h8, hall]
  show (s.updCore ck fun c => { c with pend := [] }).applyPend ck p = _
  rw [State.applyPend, hop]
  exact if_neg (by rw [hnone]; exact Bool.false_ne_true)

end Sys2Proof.Machine

open Sys2Proof Sys2Proof.Machine

/-- Settles O24: each head is behind its waits and checks; a remote access is performed at its word when the event's guard holds. -/
theorem fullEmptyWords : Obligations.FullEmptyWords := by
  unfold Obligations.FullEmptyWords
  refine ⟨?heads, ?events, ?write⟩
  case heads =>
    intro s d a b off w cp x t u k k0
    refine ⟨fun hop h hp hgo hcheck hspace hfull hqueue hfree => ?lde, fun hop h hgo hcheck hspace hfence hempty hqueue hfree => ?stf,
      fun h hgo hcheck => ⟨fun hspace hfree => ?here, fun hspace hroom full => ?leaves⟩⟩
    case lde => exact lde_full hop h hp rfl rfl rfl hgo hcheck hspace hfull hqueue hfree
    case stf => exact stf_empty hop h rfl rfl rfl hgo hcheck hspace hfence hempty hqueue hfree
    case here => exact ⟨feinit_local h rfl rfl hgo hcheck hspace hfree, feinit_local h rfl rfl hgo hcheck hspace hfree⟩
    case leaves =>
      cases full
      · exact feinit_remote h rfl hgo hcheck hspace hroom
      · exact feinit_remote h rfl hgo hcheck hspace hroom
  case events =>
    intro s f qi k b hflight hstage hshare howned
    refine ⟨fun hop hfull hfirst => ?lde, fun hop hempty hfirst => ?stf⟩
    case lde =>
      have hexec : exec (.ldePerform f.id) s = execLdePerform f.id s := rfl
      rw [hexec, execLdePerform, hflight]
      simp [hstage, hop, hshare, hfull, hfirst, howned, event]
    case stf =>
      have hexec : exec (.stfPerform f.id) s = execStfPerform f.id s := rfl
      rw [hexec, execStfPerform, hflight]
      simp [hstage, hop, hshare, hempty, hfirst, howned, event]
  case write =>
    intro s ck i k full v p h8 hvq hpend hp u hfree
    have hslot : p.slot = i := by rw [hp]
    have hval : p.val = v := by rw [hp]
    rw [← hslot] at hfree h8
    rw [State.performDue_feinit hvq hpend (by rw [hp]) (by rw [hp]) h8 hfree, hval]
end

section
/-! SUPPORT. A state that refutes the statement on the system space and PLACE: its slot is at supervisor level, and t0 is among the
registers with a pending write (R85). -/

namespace Sys2Proof.Machine

/-- The slot of the state: at supervisor level, with the address 0xF000000000000000 in t1, and t0 busy. -/
def busySlot : Slot := { t := [(1, 0xF000000000000000#64)], sr := { status := 1 }, busy := [0] }

/-- A state whose slot 0 issues under a busy t0. -/
def busyState : State := { State.reset with cur := 0, slots := [(0, busySlot)] }

/-- PLACE.clr of t0 names t0, and waits for it. -/
theorem exec_placeClr_busyState : exec (.placeClr 0) busyState = .next (busyState.blockMe (.busy [0])) := rfl

end Sys2Proof.Machine

open Sys2Proof Sys2Proof.Machine

/-- Refutes O22: the clause on PLACE.clr of t0 asks for no more than supervisor level, but the head names t0 and waits where t0 is busy. -/
theorem not_systemSpaceAndPlacement : ¬ Obligations.SystemSpaceAndPlacement := by
  unfold Obligations.SystemSpaceAndPlacement
  rintro ⟨h, _⟩
  obtain ⟨_, _, _, _, hclr, _⟩ := h busyState 1 1 1 .n 0 0xF000000000000000#64 (by decide) (by decide) (by decide) (by decide) (by decide)
    (by decide) (by decide) (by decide) (by decide)
  rw [exec_placeClr_busyState] at hclr
  injection hclr with hstate
  have hst := congrArg (fun t : State => t.me.st) hstate
  revert hst
  decide
end

section
/-! SUPPORT. Atomics: what one does on local bytes, how it leaves for another place, its number in a basted slot (R243 to R248, R370), and
the functions of AMO and RED (R246). -/

namespace Sys2Proof.Machine

/-! ## What the pops and a departure leave -/

/-- Pops change nothing of the slot's task but that a checkpoint may be due (R369). -/
theorem State.task_popPorts (s : State) (rs : List Reg) :
    (s.popPorts rs).me.task = { s.me.task with basteDue := (s.popPorts rs).me.task.basteDue } := by
  refine State.popPorts_induct (P := fun t => t.me.task = { s.me.task with basteDue := t.me.task.basteDue }) rs (fun t r h => h) (fun t h => ?_) s rfl
  simp only [State.basteAfterPop, State.me_updMe]
  split
  · rw [Slot.updTask, h]
  · exact h

theorem State.logged_popPorts (s : State) (rs : List Reg) (seq : Option Nat) : (s.popPorts rs).me.task.logged seq = s.me.task.logged seq := by
  rw [State.task_popPorts]; rfl

theorem State.pred_popPorts (s : State) (rs : List Reg) (ck : Nat) : ((s.popPorts rs).core ck).pred = (s.core ck).pred := by
  refine State.popPorts_induct (P := fun t => (t.core ck).pred = (s.core ck).pred) rs (fun t r h => ?_) (fun t h => h) s rfl
  by_cases hk : ck = coreOf t.cur
  · subst hk
    rw [State.updMyCore, State.core_updCore_same, ← h, portPop]
    split
    · rfl
    · split
      · rfl
      · split <;> rfl
  · rw [State.updMyCore, State.core_updCore_ne _ _ _ _ hk, h]

@[simp] theorem State.ids_popPorts (s : State) (rs : List Reg) : (s.popPorts rs).ids = s.ids := by
  obtain ⟨_, _, h⟩ := s.popPorts_eq rs; rw [h]
@[simp] theorem State.redPairs_popPorts (s : State) (rs : List Reg) : (s.popPorts rs).redPairs = s.redPairs := by
  obtain ⟨_, _, h⟩ := s.popPorts_eq rs; rw [h]

/-- An access that leaves its slot changes no slot. -/
theorem State.slots_launchFlight (s : State) (f : Flight) : (s.launchFlight f).slots = s.slots ∧ (s.launchFlight f).cur = s.cur := by
  unfold State.launchFlight
  dsimp only
  split <;> exact ⟨rfl, rfl⟩

theorem State.me_launchFlight (s : State) (f : Flight) : (s.launchFlight f).me = s.me := by
  obtain ⟨h1, h2⟩ := s.slots_launchFlight f
  rw [State.me, State.me, State.slot, State.slot, h1, h2]

theorem State.slots_freeBuffers (p : Packet) (l : List Flit) (s : State) :
    (l.foldl (fun u f => u.freeBuffer p f) s).slots = s.slots ∧ (l.foldl (fun u f => u.freeBuffer p f) s).cur = s.cur := by
  induction l generalizing s with
  | nil => exact ⟨rfl, rfl⟩
  | cons f l ih =>
    obtain ⟨h1, h2⟩ := ih (s.freeBuffer p f)
    have h : (s.freeBuffer p f).slots = s.slots ∧ (s.freeBuffer p f).cur = s.cur := by
      unfold State.freeBuffer
      split <;> exact ⟨rfl, rfl⟩
    exact ⟨h1.trans h.1, h2.trans h.2⟩

theorem State.slots_dropPacket (s : State) (pkt : Option Nat) : (s.dropPacket pkt).slots = s.slots ∧ (s.dropPacket pkt).cur = s.cur := by
  cases pkt with
  | none => exact ⟨rfl, rfl⟩
  | some id =>
    have hfold (fl : List Flit) (l : List Packet) (t : State) :
        (l.foldl (fun t p => fl.foldl (fun u f => u.freeBuffer p f) t) t).slots = t.slots
        ∧ (l.foldl (fun t p => fl.foldl (fun u f => u.freeBuffer p f) t) t).cur = t.cur := by
      induction l generalizing t with
      | nil => exact ⟨rfl, rfl⟩
      | cons p l ih =>
        obtain ⟨h1, h2⟩ := ih (fl.foldl (fun u f => u.freeBuffer p f) t)
        obtain ⟨h3, h4⟩ := State.slots_freeBuffers p fl t
        exact ⟨h1.trans h3, h2.trans h4⟩
    exact hfold _ _ s

theorem State.slots_holdRed (s : State) (id rsn : Nat) : (s.holdRed id rsn).slots = s.slots ∧ (s.holdRed id rsn).cur = s.cur := by
  unfold State.holdRed
  split
  · exact ⟨rfl, rfl⟩
  · split
    · exact ⟨rfl, rfl⟩
    · unfold State.redJoin
      split
      · exact ⟨rfl, rfl⟩
      · dsimp only
        split
        · dsimp only
          split
          · exact ⟨rfl, rfl⟩
          · exact s.slots_dropPacket _
        · exact ⟨rfl, rfl⟩

theorem State.me_holdRed (s : State) (id rsn : Nat) : (s.holdRed id rsn).me = s.me := by
  obtain ⟨h1, h2⟩ := s.slots_holdRed id rsn
  rw [State.me, State.me, State.slot, State.slot, h1, h2]

/-! ## The number of a basted slot's atomic (R370) -/

/-- The state in which BASTESEQ of a basted slot has gone up by one: `s` says whether the slot is basted. -/
def State.numbered (s t : State) : State :=
  if s.me.bst then t.updMe fun x => x.updSr fun r => { r with basteSeq := r.basteSeq + 1 } else t

theorem State.bumpSeq_eq {s u : State} (h : u.me.bst = s.me.bst) : u.bumpSeq = s.numbered u := by rw [State.bumpSeq, State.numbered, h]

theorem State.cur_numbered (s t : State) : (s.numbered t).cur = t.cur := by
  unfold State.numbered
  split <;> rfl

theorem State.mayPut_numbered (s t : State) (d : Reg) : (s.numbered t).mayPut d = t.mayPut d := by
  unfold State.numbered
  split
  · exact State.mayPut_updSr _ rfl
  · rfl

theorem State.me_logAtomic (s : State) (thr k : Nat) (seq : Option Nat) (old : Nat) :
    (s.logAtomic thr k seq old).me.sr = s.me.sr ∧ (s.logAtomic thr k seq old).cur = s.cur := by
  cases seq with
  | none => exact ⟨rfl, rfl⟩
  | some q =>
    refine ⟨?_, rfl⟩
    by_cases h : s.cur = thr <;> simp [State.logAtomic, State.me, State.slot_updSlot, h, Slot.updTask]

/-- What an atomic answers, and the state that it leaves: the old value from the slot's log, or `old`, with `new` and its entry. -/
def State.atomicOutcome (s t : State) (k old : Nat) (new : State) : Nat × State :=
  match s.me.task.logged s.nextSeq with
  | some was => (was.toNat, s.numbered t)
  | none => (old, s.numbered (new.logAtomic s.cur k s.nextSeq old))

/-- What an atomic writes at its place on an old value (R246, R247). -/
def State.atomicNew (t : State) (k n : Nat) (op : MemOp) (old : Nat) : State :=
  match op with
  | .amo o b => t.wr k n (amoFun o n old b.toNat)
  | .cas b c => if old = b.toNat % 2 ^ (8 * n) then t.wr k n (c.toNat % 2 ^ (8 * n)) else t
  | _ => t

theorem State.atomicNew_me (t : State) (k n : Nat) (op : MemOp) (old : Nat) : (t.atomicNew k n op old).me = t.me ∧ (t.atomicNew k n op old).cur = t.cur := by
  unfold State.atomicNew
  split
  · exact ⟨rfl, rfl⟩
  · split <;> exact ⟨rfl, rfl⟩
  · exact ⟨rfl, rfl⟩

section
variable {s t : State} {rs : List Reg} (ht : s.popPorts rs = t)
include ht

theorem State.nextSeq_of_pops : t.nextSeq = s.nextSeq := by
  have hsr : t.me.sr = s.me.sr := by rw [← ht, State.sr_popPorts]
  rw [State.nextSeq, State.nextSeq, Slot.bst, Slot.bst, hsr]

/-- An atomic on an old value after the pops of its head: its answer and the state that it leaves, its number given. -/
theorem State.atomicOn_done (k n : Nat) (op : MemOp) (old : Nat) :
    let r := t.atomicOn t.cur k n op t.nextSeq old
    let o := s.atomicOutcome t k old (t.atomicNew k n op old)
    r.2.bumpSeq = o.2 ∧ word r.1.toNat = word o.1 ∧ word (r.1.toNat / 2 ^ 64) = word (o.1 / 2 ^ 64) := by
  have hsr : t.me.sr = s.me.sr := by rw [← ht, State.sr_popPorts]
  have hcur : t.cur = s.cur := by rw [← ht, State.cur_popPorts]
  have hlog : (t.slot t.cur).task.logged s.nextSeq = s.me.task.logged s.nextSeq := by
    show t.me.task.logged s.nextSeq = _
    rw [← ht, State.logged_popPorts]
  rw [State.nextSeq_of_pops ht]
  unfold State.atomicOn State.atomicOutcome
  rw [hlog]
  cases s.me.task.logged s.nextSeq with
  | some was => exact ⟨State.bumpSeq_eq (by rw [Slot.bst, Slot.bst, hsr]), rfl, rfl⟩
  | none =>
    obtain ⟨hnew, hncur⟩ := t.atomicNew_me k n op old
    obtain ⟨hlsr, _⟩ := (t.atomicNew k n op old).me_logAtomic s.cur k s.nextSeq old
    refine ⟨?_, ?_, ?_⟩
    · have hbst : ((t.atomicNew k n op old).logAtomic s.cur k s.nextSeq old).me.bst = s.me.bst := by
        rw [Slot.bst, Slot.bst, hlsr, hnew, hsr]
      rw [hcur]
      exact State.bumpSeq_eq hbst
    · exact BitVec.eq_of_toNat_eq (by simp [word])
    · exact BitVec.eq_of_toNat_eq (by simp [word]; omega)

/-- The state that an atomic leaves takes a write as the slot's own. -/
theorem State.mayPut_atomicOutcome (k n : Nat) (op : MemOp) (old : Nat) (d : Reg) :
    (s.atomicOutcome t k old (t.atomicNew k n op old)).2.mayPut d = s.mayPut d ∧ (s.atomicOutcome t k old (t.atomicNew k n op old)).2.cur = s.cur := by
  have hsr : t.me.sr = s.me.sr := by rw [← ht, State.sr_popPorts]
  have hcur : t.cur = s.cur := by rw [← ht, State.cur_popPorts]
  have hput {u : State} (h : u.me.sr = s.me.sr) : u.mayPut d = s.mayPut d := by
    rw [State.mayPut, State.mayPut, Slot.optimistic, Slot.optimistic, Slot.kind, Slot.kind, h]
  unfold State.atomicOutcome
  cases s.me.task.logged s.nextSeq with
  | some was => exact ⟨(State.mayPut_numbered _ _ _).trans (hput hsr), (State.cur_numbered _ _).trans hcur⟩
  | none =>
    obtain ⟨hnew, hncur⟩ := t.atomicNew_me k n op old
    obtain ⟨hlsr, hlcur⟩ := (t.atomicNew k n op old).me_logAtomic s.cur k s.nextSeq old
    exact ⟨(State.mayPut_numbered _ _ _).trans (hput (by rw [hlsr, hnew, hsr])), (State.cur_numbered _ _).trans (by rw [hlcur, hncur, hcur])⟩

end

/-! ## Heads with a result, and RED (R245 to R248) -/

/-- What RED does after its pops, with `o` the operation's code and `v` its operand. -/
def redAct (s t : State) (x : Word) (n o : Nat) (v : Word) (mo : MOrd) (sc : Scope) : Act :=
  memWait t 0 x ((t.atomicCheck x n true).orElse
    (if space x = 0 then
      logRoom s (let k := t.localKey t.cur (offset x)
      if (ordReleases mo) && !t.allPerformed then .block (.fence sc.code)
      else localWait t k n (match t.localRed x k n o v with
        | some u => .next u.bumpSeq
        | none => .block .reply))
    else if t.me.optimistic then holdEffect t (.red x o n v)
    else logRoom s (roomFor t (storeCtr x)
      (let f : Flight := { id := 0, thr := t.cur, pid := t.myPid, addr := x, n, op := .amo o v
                           ctr := storeCtr x, rel := (ordReleases mo), scope := sc.code, seq := t.nextSeq
                           tag := t.me.faultTag, own := t.keepsLocal x && decide (redRsn n v = 0) }
      .next (((t.addCount t.cur (storeCtr x)).launchFlight f).holdRed t.ids (redRsn n v)).bumpSeq))))

section
variable {s t : State} {rs : List Reg} {x : Word} {n : Nat} {op : MemOp} {ret : Ret} {mo : MOrd} {sc : Scope} {write : State → Nat → Act}
  {mark : State → State}

/-- A basted slot's log has room for one atomic more (R370). -/
theorem logRoom_of_room {k : Act} (h : s.me.bst = true → s.logUse < 255) : logRoom s k = k := by
  unfold logRoom
  by_cases hb : s.me.bst = true
  · have hlt := h hb
    rw [if_neg (by simp [hlt])]
  · rw [if_neg (by simp [hb])]

/-- An atomic on local bytes whose waits and checks are over acts in one step. -/
theorem atomicAct_local (hroom : s.me.bst = true → s.logUse < 255) (hgo : t.mayGo 0 x = true) (hcheck : t.atomicCheck x n false = none)
    (hspace : space x = 0) (hfree : t.bytesFree (t.localKey t.cur (offset x)) n = true) (hdrain : ordReleases mo = true → t.allPerformed = true) :
    atomicAct s t x n op ret mo sc write mark =
      let k := t.localKey t.cur (offset x)
      let r := t.atomicOn t.cur k n op t.nextSeq (t.ownRead k n)
      write r.2.bumpSeq r.1.toNat := by
  have hfence : ¬ (ordReleases mo && !t.allPerformed) = true := by
    intro h
    simp only [Bool.and_eq_true] at h
    rw [hdrain h.1] at h
    exact Bool.false_ne_true h.2
  unfold atomicAct
  rw [memWait_of_mayGo hgo, hcheck, Check.orElse_none, logRoom_of_room hroom, if_pos hspace]
  dsimp only
  rw [if_neg hfence, localWait_of_bytesFree hfree]

/-- An atomic elsewhere leaves as an access, with its count and its number. -/
theorem atomicAct_remote (hroom : s.me.bst = true → s.logUse < 255) (hgo : t.mayGo 0 x = true) (hcheck : t.atomicCheck x n false = none)
    (hspace : space x ≠ 0) (hldc : t.me.cnt.ldc < 63) :
    atomicAct s t x n op ret mo sc write mark = .next ((mark (t.addCount t.cur 0)).launchFlight
      { id := 0, thr := t.cur, pid := t.myPid, addr := x, n, op, ret, ctr := 0, acq := ordAcquires mo, rel := ordReleases mo
        scope := sc.code, seq := t.nextSeq, tag := t.me.faultTag, own := t.keepsLocal x }).bumpSeq := by
  have hcnt : ¬ ctrMax 0 ≤ t.me.cnt.val 0 := Nat.not_le.mpr hldc
  unfold atomicAct
  rw [memWait_of_mayGo hgo, hcheck, Check.orElse_none, logRoom_of_room hroom, if_neg hspace, roomFor, if_neg hcnt]

/-- A RED on local bytes whose waits and checks are over acts in one step. -/
theorem redAct_local {o : Nat} {v : Word} {u : State} (hroom : s.me.bst = true → s.logUse < 255) (hgo : t.mayGo 0 x = true)
    (hcheck : t.atomicCheck x n true = none) (hspace : space x = 0) (hfree : t.bytesFree (t.localKey t.cur (offset x)) n = true)
    (hdrain : ordReleases mo = true → t.allPerformed = true) (hu : t.localRed x (t.localKey t.cur (offset x)) n o v = some u) :
    redAct s t x n o v mo sc = .next u.bumpSeq := by
  have hfence : ¬ (ordReleases mo && !t.allPerformed) = true := by
    intro h
    simp only [Bool.and_eq_true] at h
    rw [hdrain h.1] at h
    exact Bool.false_ne_true h.2
  unfold redAct
  rw [memWait_of_mayGo hgo, hcheck, Check.orElse_none, if_pos hspace, logRoom_of_room hroom]
  dsimp only
  rw [if_neg hfence, localWait_of_bytesFree hfree, hu]

/-- A RED elsewhere that an optimistic task may hold is held. -/
theorem redAct_held {o : Nat} {v : Word} (hgo : t.mayGo 0 x = true) (hcheck : t.atomicCheck x n true = none) (hspace : space x ≠ 0)
    (hopt : t.me.optimistic = true) (hhold : t.mayHold (.red x o n v) = true) :
    redAct s t x n o v mo sc = .next (t.held (.red x o n v)) := by
  unfold redAct
  rw [memWait_of_mayGo hgo, hcheck, Check.orElse_none, if_neg hspace, if_pos hopt, holdEffect_of_mayHold hhold]

/-- Another RED elsewhere leaves as an access. -/
theorem redAct_remote {o : Nat} {v : Word} (hroom : s.me.bst = true → s.logUse < 255) (hgo : t.mayGo 0 x = true)
    (hcheck : t.atomicCheck x n true = none) (hspace : space x ≠ 0) (hopt : t.me.optimistic = false)
    (hcnt : t.me.cnt.val (storeCtr x) < ctrMax (storeCtr x)) :
    redAct s t x n o v mo sc = .next (((t.addCount t.cur (storeCtr x)).launchFlight
      { id := 0, thr := t.cur, pid := t.myPid, addr := x, n, op := .amo o v, ctr := storeCtr x, rel := ordReleases mo
        scope := sc.code, seq := t.nextSeq, tag := t.me.faultTag, own := t.keepsLocal x && decide (redRsn n v = 0) }).holdRed t.ids
        (redRsn n v)).bumpSeq := by
  unfold redAct
  rw [memWait_of_mayGo hgo, hcheck, Check.orElse_none, if_neg hspace, hopt, if_neg Bool.false_ne_true, logRoom_of_room hroom, roomFor,
    if_neg (Nat.not_le.mpr hcnt)]

end

theorem State.keepsLocal_popPorts (s : State) (rs : List Reg) (x : Word) : (s.popPorts rs).keepsLocal x = s.keepsLocal x := by
  rw [State.keepsLocal, State.keepsLocal, State.predicts, State.predicts, State.pred_popPorts, State.cur_popPorts]

theorem pairValue_eq (v : Reg → Word) (r : Reg) : pairValue v r = BitVec.ofNat 128 ((v r).toNat + 2 ^ 64 * (v (r + 1)).toNat) := by
  apply BitVec.eq_of_toNat_eq
  have hlo := (v r).isLt
  have hhi := (v (r + 1)).isLt
  have hor := Nat.two_pow_add_eq_or_of_lt hlo (v (r + 1)).toNat
  rw [pairValue, BitVec.toNat_or, BitVec.toNat_shiftLeft, BitVec.toNat_setWidth, BitVec.toNat_setWidth, BitVec.toNat_ofNat,
    Nat.mod_eq_of_lt (a := (v r).toNat) (by omega), Nat.mod_eq_of_lt (a := (v (r + 1)).toNat) (by omega), Nat.shiftLeft_eq,
    Nat.mul_comm, Nat.mod_eq_of_lt (by omega), ← hor, Nat.mod_eq_of_lt (by omega)]
  omega

theorem pair_lt (v : Reg → Word) (r : Reg) : (v r).toNat + 2 ^ 64 * (v (r + 1)).toNat < 2 ^ (8 * 16) := by
  have hlo := (v r).isLt
  have hhi := (v (r + 1)).isLt
  omega

theorem toNat_pairValue (v : Reg → Word) (r : Reg) : (pairValue v r).toNat = (v r).toNat + 2 ^ 64 * (v (r + 1)).toNat := by
  rw [pairValue_eq, BitVec.toNat_ofNat, Nat.mod_eq_of_lt (pair_lt v r)]

/-! ## The functions of AMO and RED (R246) -/

theorem amoFun_values {n old b : Nat} (ho : old < 2 ^ (8 * n)) (hb : b < 2 ^ (8 * n)) :
    let s (v : Nat) : Int := sval (8 * n) v
    amoFun 0 n old b = (old + b) % 2 ^ (8 * n) ∧ amoFun 1 n old b = old &&& b ∧ amoFun 2 n old b = old ||| b
      ∧ amoFun 3 n old b = old ^^^ b ∧ s (amoFun 4 n old b) = min (s old) (s b) ∧ s (amoFun 5 n old b) = max (s old) (s b)
      ∧ amoFun 6 n old b = min old b ∧ amoFun 7 n old b = max old b ∧ amoFun 8 n old b = b := by
  intro s
  have ho' := Nat.mod_eq_of_lt ho
  have hb' := Nat.mod_eq_of_lt hb
  simp only [amoFun, ho', hb', s]
  refine ⟨trivial, rfl, rfl, rfl, ?_, ?_, ?_, ?_, trivial⟩
  · split <;> omega
  · split <;> omega
  · split <;> omega
  · split <;> omega


/-! ## Contributions to tree reductions (R377) -/

theorem State.redPairs_performRed (s : State) (f : Flight) (k : Nat) : (s.performRed f k [f]).redPairs = s.redPairs := by
  show (s.atomicAt f.thr k f.n f.op f.seq).2.redPairs = s.redPairs
  unfold State.atomicAt State.atomicOn
  split
  · rfl
  · dsimp only
    cases f.seq <;> dsimp only [State.logAtomic, State.updSlot] <;> split <;> first | rfl | (split <;> rfl)

/-- A contribution that nothing is combined with opens the pair of its location, and is performed. -/
theorem State.contribute_open {s : State} {f : Flight} {k : Nat} (hpairs : s.redPairs = []) (hcomb : f.comb = none) :
    s.contribute f k = some { (s.atomicAt f.thr k f.n f.op f.seq).2 with
      redPairs := [{ loc := k, rsn := f.rsn, done := [f.thr], last := (s.region 0).cycle }] } := by
  have hmates : s.redMates f [] = [f] := by
    unfold State.redMates State.combined
    rw [hcomb]
    simp
  have hopen := s.redPairs_performRed f k
  rw [hpairs] at hopen
  unfold State.contribute
  rw [hpairs, hmates]
  dsimp only [List.find?_nil, List.filter_nil, List.length_nil]
  rw [hopen]
  rfl

/-! ## The heads -/

section
variable {s t : State} {rs : List Reg} (ht : s.popPorts rs = t)
include ht

theorem State.ownKey_of_pops (a : Reg) : t.localKey t.cur (offset (s.operand a)) = s.localKey s.cur (offset (s.operand a)) := by
  rw [← ht, State.localKey_popPorts, State.cur_popPorts]

/-- A result of a local atomic is put into its register. -/
theorem put_atomicOn {d : Reg} (hput : s.mayPut d = true) (k n : Nat) (op : MemOp) (old : Nat) :
    let r := t.atomicOn t.cur k n op t.nextSeq old
    let o := s.atomicOutcome t k old (t.atomicNew k n op old)
    put r.2.bumpSeq d (word r.1.toNat) 6 = .next (o.2.writeReg s.cur d (word o.1) 6) := by
  intro r o
  obtain ⟨hstate, hvalue, _⟩ := State.atomicOn_done ht k n op old
  obtain ⟨hmay, hcur⟩ := State.mayPut_atomicOutcome ht k n op old d
  rw [hstate, hvalue, put_of_mayPut (hmay.trans hput), hcur]

end

theorem State.bst_addCount (s : State) (tk ctr : Nat) : (s.addCount tk ctr).me.bst = s.me.bst := by
  by_cases h : s.cur = tk <;> simp [State.addCount, State.me, State.slot_updSlot, h, Slot.bst, Slot.updCnt]

theorem State.bst_markBusy (s : State) (tk r : Nat) : (s.markBusy tk r).me.bst = s.me.bst := by
  unfold State.markBusy
  split
  · rfl
  · by_cases h : s.cur = tk <;> simp [State.me, State.slot_updSlot, h, Slot.bst]

section
variable {s t : State} {rs : List Reg} (ht : s.popPorts rs = t) {x : Word} {n : Nat} {op : MemOp} {ret : Ret} {mo : MOrd} {sc : Scope}
  {write : State → Nat → Act} {mark : State → State}
include ht

theorem State.bst_of_pops : t.me.bst = s.me.bst := by
  rw [← ht, Slot.bst, Slot.bst, State.sr_popPorts]

/-- An atomic elsewhere after the pops of its head leaves as an access of the slot that issued it, with its number. -/
theorem atomicAct_sent (hroom : s.me.bst = true → s.logUse < 255) (hgo : t.mayGo 0 x = true) (hcheck : t.atomicCheck x n false = none)
    (hspace : space x ≠ 0) (hldc : t.me.cnt.ldc < 63) (hmark : (mark (t.addCount s.cur 0)).me.bst = s.me.bst) :
    atomicAct s t x n op ret mo sc write mark = .next (s.numbered ((mark (t.addCount s.cur 0)).launchFlight
      { id := 0, thr := s.cur, pid := s.myPid, addr := x, n, op, ret, ctr := 0, acq := ordAcquires mo, rel := ordReleases mo
        scope := sc.code, seq := s.nextSeq, tag := t.me.faultTag, own := s.keepsLocal x })) := by
  have hcur : t.cur = s.cur := by rw [← ht, State.cur_popPorts]
  have hpid : t.myPid = s.myPid := by rw [← ht, State.myPid_popPorts]
  have hown : t.keepsLocal x = s.keepsLocal x := by rw [← ht, State.keepsLocal_popPorts]
  rw [atomicAct_remote hroom hgo hcheck hspace hldc, State.bumpSeq_eq (s := s) (by rw [State.me_launchFlight, hcur, hmark]), hcur, hpid,
    hown, State.nextSeq_of_pops ht]

/-- The same of a RED, which no optimistic task holds. -/
theorem redAct_sent {o : Nat} {v : Word} (hroom : s.me.bst = true → s.logUse < 255) (hgo : t.mayGo 0 x = true)
    (hcheck : t.atomicCheck x n true = none) (hspace : space x ≠ 0) (hopt : s.me.optimistic = false)
    (hcnt : t.me.cnt.val (storeCtr x) < ctrMax (storeCtr x)) :
    redAct s t x n o v mo sc = .next (s.numbered (((t.addCount s.cur (storeCtr x)).launchFlight
      { id := 0, thr := s.cur, pid := s.myPid, addr := x, n, op := .amo o v, ctr := storeCtr x, rel := ordReleases mo
        scope := sc.code, seq := s.nextSeq, tag := t.me.faultTag, own := s.keepsLocal x && decide (redRsn n v = 0) }).holdRed s.ids
        (redRsn n v))) := by
  have hcur : t.cur = s.cur := by rw [← ht, State.cur_popPorts]
  have hpid : t.myPid = s.myPid := by rw [← ht, State.myPid_popPorts]
  have hown : t.keepsLocal x = s.keepsLocal x := by rw [← ht, State.keepsLocal_popPorts]
  have hids : t.ids = s.ids := by rw [← ht, State.ids_popPorts]
  have htopt : t.me.optimistic = false := by rw [← ht, State.optimistic_popPorts, hopt]
  have hbst : (t.addCount s.cur (storeCtr x)).me.bst = s.me.bst := by
    rw [State.bst_addCount, State.bst_of_pops ht]
  rw [redAct_remote hroom hgo hcheck hspace htopt hcnt,
    State.bumpSeq_eq (s := s) (by rw [State.me_holdRed, State.me_launchFlight, hcur, hbst]), hcur, hpid, hown, hids,
    State.nextSeq_of_pops ht]

end

section
variable {s : State} {d a b c : Reg} {op : AmoOp} {wide : Bool} {mo : MOrd} {sc : Scope}

theorem toNat_setWidth_128 (v : Word) : (v.setWidth 128).toNat = v.toNat := BitVec.toNat_setWidth_of_le (by omega)

theorem scalar_acquires (d : Reg) (mo : MOrd) : (decide (Ret.scalar d.toNat false ≠ .none) && ordAcquires mo) = ordAcquires mo := by simp

theorem pair_acquires (d : Reg) (mo : MOrd) : (decide (Ret.pair d.toNat ≠ .none) && ordAcquires mo) = ordAcquires mo := by simp

theorem exec_amo {u : Act} (h : mayIssue { rd := [a, b], wr := [d] } s = true)
    (hk : atomicAct s (s.popPorts [a, b]) (s.operand a) (amoBytes wide) (.amo op.code (s.operand b)) (.scalar d.toNat false) mo sc
      (fun u old => put u d (word old) 6) (fun u => u.markBusy s.cur d.toNat) = u) :
    exec (.amo d a b op wide mo sc) s = .next (u.run s) := by
  have hexec : exec (.amo d a b op wide mo sc) s = execAmo d a b op wide mo sc s := rfl
  rw [hexec, execAmo, runHead_of_mayIssue h, hk]

theorem exec_cas {u : Act} (h : mayIssue { rd := [a, b, c], wr := [d] } s = true)
    (hk : atomicAct s (s.popPorts [a, b, c]) (s.operand a) (amoBytes wide) (.cas ((s.operand b).setWidth 128) ((s.operand c).setWidth 128))
      (.scalar d.toNat false) mo sc (fun u old => put u d (word old) 6) (fun u => u.markBusy s.cur d.toNat) = u) :
    exec (.cas d a b c wide mo sc) s = .next (u.run s) := by
  have hexec : exec (.cas d a b c wide mo sc) s = execCas d a b c wide mo sc s := rfl
  rw [hexec, execCas, runHead_of_mayIssue h, hk]

theorem exec_cas2 {u : Act} (h : mayIssue { rd := [a, b, b + 1, c, c + 1], wr := [d, d + 1] } s = true)
    (hk : atomicAct s (s.popPorts [a, b, b + 1, c, c + 1]) (s.operand a) 16 (.cas (pairValue s.operand b) (pairValue s.operand c))
      (.pair d.toNat) mo sc
      (fun u old => .next ((u.writeReg u.cur d (word old) 6).writeReg u.cur (d + 1) (word (old / 2 ^ 64)) 6))
      (fun u => (u.markBusy s.cur d.toNat).markBusy s.cur (d + 1).toNat) = u) :
    exec (.cas2 d a b c mo sc) s = .next (u.run s) := by
  have hexec : exec (.cas2 d a b c mo sc) s = execCas2 d a b c mo sc s := rfl
  rw [hexec, execCas2, runHead_of_mayIssue h, hk]

theorem exec_red {u : Act} (h : mayIssue { rd := [a, b] } s = true)
    (hk : redAct s (s.popPorts [a, b]) (s.operand a) (amoBytes wide) op.code (s.operand b) mo sc = u) :
    exec (.red a b op wide mo sc) s = .next (u.run s) := by
  have hexec : exec (.red a b op wide mo sc) s = execRed a b op wide mo sc s := rfl
  rw [hexec, execRed, runHead_of_mayIssue h, ← hk]
  rfl

end

end Sys2Proof.Machine

open Sys2Proof Sys2Proof.Machine

/-- Settles O25: a local atomic acts in one step on the old value, in a basted slot under its number; one elsewhere leaves as an access. -/
theorem atomicsActInOneStep : Obligations.AtomicsActInOneStep := by
  unfold Obligations.AtomicsActInOneStep
  refine ⟨?heads, ?functions⟩
  case functions => exact fun n old b _ ho hb => amoFun_values ho hb
  case heads =>
    intro s d a b c op wide mo sc hroom n x k two three five old old3 low swap old2 pair swap2 seq num done amo cas cas2 red drained hput
    refine ⟨?amo, ?cas, ?cas2, ?red, ?away⟩
    case amo =>
      intro hspace hmay hgo hcheck hfree hdrain
      refine exec_amo (u := .next (amo.2.writeReg s.cur d (word amo.1) 6)) hmay ?_
      refine (atomicAct_local (t := two) hroom hgo hcheck hspace (by rwa [State.ownKey_of_pops rfl]) hdrain).trans ?_
      rw [State.ownKey_of_pops rfl]
      exact put_atomicOn (t := two) rfl hput k n (.amo op.code (s.operand b)) old
    case cas =>
      intro hspace hmay hgo hcheck hfree hdrain
      refine exec_cas (u := .next (cas.2.writeReg s.cur d (word cas.1) 6)) hmay ?_
      have hput := put_atomicOn (t := three) rfl hput k n (.cas ((s.operand b).setWidth 128) ((s.operand c).setWidth 128)) old3
      have hnew : three.atomicNew k n (.cas ((s.operand b).setWidth 128) ((s.operand c).setWidth 128)) old3 = swap := by
        rw [State.atomicNew, toNat_setWidth_128, toNat_setWidth_128]
      rw [hnew] at hput
      refine (atomicAct_local (t := three) hroom hgo hcheck hspace (by rwa [State.ownKey_of_pops rfl]) hdrain).trans ?_
      rw [State.ownKey_of_pops rfl]
      exact hput
    case cas2 =>
      intro hspace hmay hgo hcheck hfree hdrain
      refine exec_cas2 (u := .next ((cas2.2.writeReg s.cur d (word cas2.1) 6).writeReg s.cur (d + 1) (word (cas2.1 / 2 ^ 64)) 6)) hmay ?_
      have hpair (r : Reg) : (pairValue s.operand r).toNat = pair r := toNat_pairValue _ r
      have hnew : five.atomicNew k 16 (.cas (pairValue s.operand b) (pairValue s.operand c)) old2 = swap2 := by
        rw [State.atomicNew, hpair, hpair, Nat.mod_eq_of_lt (pair_lt _ b), Nat.mod_eq_of_lt (pair_lt _ c)]
      obtain ⟨hstate, hlow, hhigh⟩ := State.atomicOn_done (t := five) rfl k 16 (.cas (pairValue s.operand b) (pairValue s.operand c)) old2
      obtain ⟨_, hcur⟩ := State.mayPut_atomicOutcome (t := five) rfl k 16 (.cas (pairValue s.operand b) (pairValue s.operand c)) old2 d
      rw [hnew] at hstate hlow hhigh hcur
      refine (atomicAct_local (t := five) hroom hgo hcheck hspace (by rwa [State.ownKey_of_pops rfl]) hdrain).trans ?_
      rw [State.ownKey_of_pops rfl]
      dsimp only
      rw [hstate, hlow, hhigh, hcur]
      rfl
    case red =>
      intro hspace hmay hgo hcheck hfree hdrain
      have hact (u : State) (hu : two.localRed x k n op.code (s.operand b) = some u) : exec (.red a b op wide mo sc) s = .next u.bumpSeq.passed :=
        exec_red hmay (redAct_local (t := two) hroom hgo hcheck hspace (by rwa [State.ownKey_of_pops rfl]) hdrain
          (by rwa [State.ownKey_of_pops rfl]))
      refine ⟨fun hplain => ?_, fun hnarrow hrsn hpairs => ?_⟩
      · have hzero : redRsn n (s.operand b) = 0 := by
          rcases hplain with hw | hf
          · simp [redRsn, n, hw]
          · simp [redRsn, hf]
        refine (hact _ (by rw [State.localRed, if_pos hzero])).trans ?_
        obtain ⟨hstate, _⟩ := State.atomicOn_done (t := two) rfl k n (.amo op.code (s.operand b)) old
        rw [hstate]
        rfl
      · have hn : n = 4 := by simp [n, hnarrow]
        have hnz : redRsn n (s.operand b) ≠ 0 := by simpa [redRsn, hn] using hrsn
        let f : Flight := { id := 0, thr := two.cur, pid := two.myPid, addr := x, n, op := .amo op.code (s.operand b), seq := two.nextSeq }
        have hfr : f.rsn = fld (s.operand b) 48 16 := by
          show redRsn n (s.operand b) = _
          rw [redRsn, if_pos hn]
        have hopen := State.contribute_open (s := two) (f := f) (k := k) (by rw [State.redPairs_popPorts, hpairs]) rfl
        have hpair (u : State) (ps : List RedPair) : ({ u with redPairs := ps } : State).bumpSeq = { u.bumpSeq with redPairs := ps } := by
          unfold State.bumpSeq
          split <;> rename_i hb
          · rw [if_pos (by exact hb)]; rfl
          · rw [if_neg (by exact hb)]
        obtain ⟨hstate, _⟩ := State.atomicOn_done (t := two) rfl k n (.amo op.code (s.operand b)) (s.rd k n)
        have hcur : two.cur = s.cur := State.cur_popPorts _ _
        refine (hact _ (by rw [State.localRed, if_neg hnz]; exact hopen)).trans ?_
        rw [hpair, hfr]
        have hat : two.atomicAt f.thr k f.n f.op f.seq = two.atomicOn two.cur k n (.amo op.code (s.operand b)) two.nextSeq (s.rd k n) := by
          have hrd : two.rd k n = s.rd k n := by rw [State.rd, State.rd, State.mem_popPorts]
          rw [State.atomicAt, hrd]
        have hregion : two.region 0 = s.region 0 := by rw [State.region, State.region, State.regions_popPorts]
        have hthr : f.thr = s.cur := hcur
        rw [hat, hstate, hregion, hthr]
        rfl
    case away =>
      intro hspace away near rsn ctr
      refine ⟨?_, ?_, ?_, ?_⟩
      · intro hmay hgo hcheck hldc
        refine exec_amo (u := .next (num (((two.addCount s.cur 0).markBusy s.cur d.toNat).launchFlight
          (away two n (.amo op.code (s.operand b)) (.scalar d.toNat false) 0 near)))) hmay ?_
        refine (atomicAct_sent (t := two) rfl hroom hgo hcheck hspace hldc ?_).trans ?_
        · rw [State.bst_markBusy, State.bst_addCount, State.bst_of_pops rfl]
        · rw [← scalar_acquires d mo]
          rfl
      · intro hmay hgo hcheck hldc
        refine exec_cas (u := .next (num (((three.addCount s.cur 0).markBusy s.cur d.toNat).launchFlight
          (away three n (.cas ((s.operand b).setWidth 128) ((s.operand c).setWidth 128)) (.scalar d.toNat false) 0 near)))) hmay ?_
        refine (atomicAct_sent (t := three) rfl hroom hgo hcheck hspace hldc ?_).trans ?_
        · rw [State.bst_markBusy, State.bst_addCount, State.bst_of_pops rfl]
        · rw [← scalar_acquires d mo]
          rfl
      · intro hmay hgo hcheck hldc
        refine exec_cas2 (u := .next (num ((((five.addCount s.cur 0).markBusy s.cur d.toNat).markBusy s.cur (d + 1).toNat).launchFlight
            (away five 16 (.cas (BitVec.ofNat 128 (pair b)) (BitVec.ofNat 128 (pair c))) (.pair d.toNat) 0 near)))) hmay ?_
        rw [pairValue_eq, pairValue_eq]
        refine (atomicAct_sent (t := five) rfl hroom hgo hcheck hspace hldc ?_).trans ?_
        · rw [State.bst_markBusy, State.bst_markBusy, State.bst_addCount, State.bst_of_pops rfl]
        · rw [← pair_acquires d mo]
          rfl
      · intro hmay hgo hcheck
        refine ⟨fun hopt hcnt => ?_, fun hhold => ?_⟩
        · refine exec_red (u := .next (num (((two.addCount s.cur ctr).launchFlight
            (away two n (.amo op.code (s.operand b)) .none ctr (near && decide (rsn = 0)))).holdRed s.ids rsn))) hmay ?_
          refine (redAct_sent (t := two) rfl hroom hgo hcheck hspace hopt hcnt).trans ?_
          have hrsn : redRsn n (s.operand b) = rsn := by
            cases wide <;> rfl
          rw [hrsn]
          rfl
        · have hopt : two.me.optimistic = true := by
            simp only [State.mayHold, Bool.and_eq_true] at hhold
            exact hhold.1
          exact exec_red hmay (redAct_held (t := two) hgo hcheck hspace hopt hhold)
end

section
/-! SUPPORT. Accesses in flight: their arrival, denial, response and performance at the home (R197, R200, R243, R244). -/

namespace Sys2Proof.Machine

/-- An event whose guard holds. -/
theorem event_some {s t : State} {o : Option State} (h : o = some t) : event s o = .next t := by rw [h]; rfl

section
variable {s : State} {f : Flight}

/-- The slot of an access keeps its fault tag when the access is denied. -/
theorem State.sameTask_denied {r : Nat} {sx : Bool} (hret : f.ret = .scalar r sx) (htag : f.tag = (s.slot f.thr).faultTag) :
    ((s.dropRet f).finishFlight f).sameTask f = true := by
  obtain ⟨hslots, _⟩ := State.slots_dropPacket (s.updSlot f.thr fun x => { x with busy := unbusy r x.busy }) f.pkt
  have hslot : ((s.updSlot f.thr fun x => { x with busy := unbusy r x.busy }).removeFlight f).slot f.thr
      = { s.slot f.thr with busy := unbusy r (s.slot f.thr).busy } := by
    rw [State.slot, State.removeFlight, hslots]
    exact State.slot_updSlot_same ..
  unfold State.sameTask State.finishFlight State.dropRet
  rw [hret]
  dsimp only
  rw [State.endCount, State.slot_updSlot_same, hslot, htag]
  exact decide_eq_true rfl

/-- A denial of an access with a scalar result reaches the task that sent it. -/
theorem State.denialArrives_scalar {r : Nat} {sx : Bool} (hdrain : ∀ q ∈ s.quads, ∀ d ∈ q.2.drain, d.sent ≠ some f.id)
    (hret : f.ret = .scalar r sx) (htag : f.tag = (s.slot f.thr).faultTag) :
    s.denialArrives f = ((s.dropRet f).finishFlight f).postAsync f.thr 0x07 f.addr := by
  have hnone : (s.quads.any fun q => q.2.drain.any fun d => decide (d.sent = some f.id)) = false := by
    simp only [List.any_eq_false, decide_eq_true_eq, Bool.not_eq_true]
    exact fun q hq => hdrain q hq
  unfold State.denialArrives
  rw [hnone, if_neg Bool.false_ne_true]
  unfold State.denyFlight
  rw [hret]
  dsimp only
  rw [State.postOwn, if_pos (State.sameTask_denied hret htag)]

theorem State.deliver_scalar {r : Nat} {sx : Bool} (v : Nat) (hret : f.ret = .scalar r sx) :
    s.deliver f v = s.arriveReg f.thr r (word v) f.pc f.due := by
  rw [State.deliver, hret]

/-- An atomic that the home executes: memory and the accesses are those of its execution, and no core keeps the line. -/
theorem State.homeRuns_of_runAtomic {k : Nat} {old : BitVec 128} {u : State} (h : s.runAtomic f k = some (old, u)) :
    ∃ t, s.homeRuns f k = some (old, t) ∧ t.mem = u.mem ∧ FMap.get 0 t.owners (lineOf (paOf k)) = 0 ∧ t.flights = u.flights := by
  let busy := s.homeBusy (lineOf (paOf k)) (coreOf f.thr)
  refine ⟨(u.predict (coreOf f.thr) f.addr busy (if busy then 1 else 2)).homeExecutes k (coreOf f.thr) (dieOf (quadOf f.thr)),
    by rw [State.homeRuns, h]; rfl, rfl, ?_, rfl⟩
  simp only [State.homeExecutes, State.homeNote, FMap.get_set_same]

end

end Sys2Proof.Machine

open Sys2Proof Sys2Proof.Machine

/-- Settles O26: the guard of each event holds, so it leaves the state that its branch names. -/
theorem remoteAccessesArrive : Obligations.RemoteAccessesArrive := by
  unfold Obligations.RemoteAccessesArrive
  refine ⟨?accesses, ?atomics⟩
  case accesses =>
    intro s f qi k v r sx bs hf dropped here
    refine ⟨?arrival, ?denial, ?response, ?ack, ?home⟩
    case arrival =>
      intro hstage hready hquad
      have hguard : (s.ready f && (decide (qi = quadOf f.thr) || !(s.quad qi).closed)) = true := by
        rcases hquad with h | h <;> simp [hready, h]
      have hexec : exec (.remoteAccessArrival f.id) s = execRemoteAccessArrival f.id s := rfl
      refine ⟨fun hshare => ?_, fun hshare howned => ⟨fun hop hret => ?_, fun hop => ?_⟩⟩
      · rw [hexec, execRemoteAccessArrival, hf]
        refine event_some ?_
        simp only [Option.bind_eq_bind, Option.bind_some, hstage, hguard, hshare, if_true]
        rfl
      · rw [hexec, execRemoteAccessArrival, hf]
        refine event_some ?_
        simp only [Option.bind_eq_bind, Option.bind_some, hstage, hguard, hshare, howned, if_true, Bool.false_eq_true, if_false]
        simp only [State.performAt, hop, State.niValue, hret]
        rfl
      · rw [hexec, execRemoteAccessArrival, hf]
        refine event_some ?_
        simp only [Option.bind_eq_bind, Option.bind_some, hstage, hguard, hshare, howned, if_true, Bool.false_eq_true, if_false]
        simp only [State.performAt, hop]
        rfl
    case denial =>
      intro hstage harr hdrain hret htag
      have hfills : (f.fills || !s.arrived f.pkt) = false := by simp [Flight.fills, hret, harr]
      have hexec : exec (.remoteDenial f.id) s = execRemoteDenial f.id s := rfl
      rw [hexec, execRemoteDenial, hf]
      refine event_some ?_
      rw [← State.denialArrives_scalar hdrain hret htag]
      simp only [Option.bind_eq_bind, Option.bind_some, hfills]
      rcases hstage with h | h <;> rw [h] <;> rfl
    case response =>
      intro hstage harr hret
      have hexec : exec (.loadResponse f.id) s = execLoadResponse f.id s := rfl
      rw [hexec, execLoadResponse, hf]
      refine event_some ?_
      rw [Option.bind_eq_bind, Option.bind_some, hstage, ← State.deliver_scalar v hret]
      dsimp only
      rw [if_pos harr]
      rfl
    case ack =>
      intro hstage harr hop
      have hexec : exec (.storeAck f.id) s = execStoreAck f.id s := rfl
      rw [hexec, execStoreAck, hf]
      refine event_some ?_
      dsimp only
      rw [hstage, hop]
      dsimp only
      rw [if_pos harr]
      rfl
    case home =>
      intro hstage hop hhbm hmay howned
      have hexec : exec (.homeStore f.id) s = execHomeStore f.id s := rfl
      rw [hexec, execHomeStore, hf]
      refine event_some ?_
      rw [Option.bind_eq_bind, Option.bind_some]
      rw [hstage, hop]
      dsimp only
      rw [hhbm, hmay, howned]
      rfl
  case atomics =>
    intro s wrote f qi k o b c e hf hop hlog hrsn howned new
    have hrun : s.runAtomic f k = some (BitVec.ofNat 128 (s.rd k f.n), new) := by
      rw [State.runAtomic, if_pos hrsn, State.atomicAt]
      unfold State.atomicOn
      rw [hlog]
      rcases hop with ⟨hop, hw⟩ | ⟨hop, hw⟩ <;> rw [hop] <;> dsimp only [new] <;> rw [hw]
    have hval : (BitVec.ofNat 128 (s.rd k f.n)).toNat = s.rd k f.n % 2 ^ 128 := BitVec.toNat_ofNat _ _
    refine ⟨fun hstage hshare => ?_, fun hstage hhbm hown hmay hheld => ?_⟩
    · have hexec : exec (.niAtomic f.id) s = execNiAtomic f.id s := rfl
      rw [hexec, execNiAtomic, hf]
      refine event_some ?_
      rcases hop with ⟨hop, _⟩ | ⟨hop, _⟩ <;>
      · simp only [Option.bind_eq_bind, Option.bind_some, hstage, hshare, hop, howned, hrun, State.atomicDone, hval]
        rfl
    · have hexec : exec (.homeAtomic f.id) s = execHomeAtomic f.id s := rfl
      have hguard : (isHbm k && !f.own && s.mayPerform f && !s.heldInRouter f.id && !s.flightOwned f k) = true := by
        rw [hhbm, hown, hmay, hheld, howned]; rfl
      have hflights : wrote.flights = s.flights := by
        rcases hop with ⟨_, hw⟩ | ⟨_, hw⟩ <;> rw [hw]
        · rfl
        · split <;> rfl
      obtain ⟨t, hruns, hmem, howners, hfl⟩ := State.homeRuns_of_runAtomic hrun
      refine ⟨t.atomicDone f (BitVec.ofNat 128 (s.rd k f.n)), ?_, hmem, howners, ?_⟩
      · rw [hexec, execHomeAtomic, hf]
        refine event_some ?_
        simp only [Option.bind_eq_bind, Option.bind_some]
        rcases hop with ⟨hop, _⟩ | ⟨hop, _⟩ <;>
        · rw [hstage, hop]
          dsimp only
          rw [if_pos hguard, hruns]
          rfl
      · have hnew : new.flights = wrote.flights := by
          unfold new State.logAtomic
          split <;> rfl
        rw [State.atomicDone, hval, State.setStage, hfl, hnew, hflights]
        rfl
end

section
/-! SUPPORT. Traps: what entry leaves of a slot (R96), what a containment and a service message leave of slots, quads and the retirement
log (R98, R372), and the rip of a slot without split (R313, R316). -/

namespace Sys2Proof.Machine

/-! ## Slots, quads and the retirement log -/

/-- Two states with the same slots, quads and retirement log. -/
def State.sameUnits (s t : State) : Prop := t.slots = s.slots ∧ t.quads = s.quads ∧ t.panel.log = s.panel.log

theorem State.sameUnits_rfl (s : State) : s.sameUnits s := ⟨rfl, rfl, rfl⟩

theorem State.sameUnits.trans {s t u : State} (h : s.sameUnits t) (k : t.sameUnits u) : s.sameUnits u :=
  ⟨k.1.trans h.1, k.2.1.trans h.2.1, k.2.2.trans h.2.2⟩

theorem State.sameUnits_foldl {α : Type} {f : State → α → State} (h : ∀ (s : State) (a : α), s.sameUnits (f s a)) (l : List α) (s : State) :
    s.sameUnits (l.foldl f s) := by
  induction l generalizing s with
  | nil => exact s.sameUnits_rfl
  | cons a l ih => exact (h s a).trans (ih (f s a))

theorem State.sameUnits_evqPush (s : State) (v : Nat) (bs : List Byte) : s.sameUnits (s.evqPush v bs) := by
  unfold State.evqPush
  dsimp only
  split <;> exact ⟨rfl, rfl, rfl⟩

theorem State.sameUnits_service (s : State) (pid : Nat) (m : Svc) : s.sameUnits (s.service pid m) := by
  unfold State.service
  dsimp only
  split
  · exact s.sameUnits_evqPush _ _
  · exact ⟨rfl, rfl, rfl⟩

theorem State.sameUnits_freeBuffer (s : State) (p : Packet) (f : Flit) : s.sameUnits (s.freeBuffer p f) := by
  unfold State.freeBuffer
  split <;> exact ⟨rfl, rfl, rfl⟩

theorem State.sameUnits_dropPacket (s : State) (pkt : Option Nat) : s.sameUnits (s.dropPacket pkt) := by
  cases pkt with
  | none => exact s.sameUnits_rfl
  | some id =>
    have hfold := State.sameUnits_foldl (f := fun t p => (s.flits.filter fun f => decide (f.pkt = id)).foldl (fun u f => u.freeBuffer p f) t)
      (fun t p => State.sameUnits_foldl (fun u f => u.sameUnits_freeBuffer p f) _ t) (s.packets.filter fun p => decide (p.id = id)) s
    exact hfold

theorem State.sameUnits_reclass (s : State) (pid r : Nat) : s.sameUnits (s.reclass pid r) := by
  unfold State.reclass
  extract_lets pt c m s1
  have h1 : s.sameUnits s1 := ⟨rfl, rfl, rfl⟩
  split
  · exact h1.trans ((State.sameUnits_service _ _ _).trans (State.sameUnits_evqPush _ _ _))
  · exact h1

theorem State.sameUnits_regrade (s : State) (r : Nat) : s.sameUnits (s.regrade r) := by
  unfold State.regrade
  refine State.sameUnits.trans (t := s.updRegion r fun x => { x with grade := s.grade r }) ⟨rfl, rfl, rfl⟩ (State.sameUnits_foldl (fun t e => ?_) _ _)
  split
  · exact t.sameUnits_reclass _ _
  · exact t.sameUnits_rfl

theorem State.sameUnits_containMsgs (s : State) (qi det : Nat) (survives : Bool) : s.sameUnits (s.containMsgs qi det survives) := by
  unfold State.containMsgs
  refine State.sameUnits_foldl (fun u c => ?_) _ _
  extract_lets lost m u1
  have h1 : u.sameUnits u1 := by
    unfold u1
    split
    · exact u.sameUnits_service _ _
    · exact State.sameUnits_foldl (fun t h => t.sameUnits_service _ _) _ _
  split
  · exact h1
  · exact h1.trans (State.sameUnits_service _ _ _)

theorem State.sameUnits_loseFlights (s : State) (qi : Nat) : s.sameUnits (s.loseFlights qi) := by
  unfold State.loseFlights
  dsimp only
  refine State.sameUnits.trans ?_ (State.sameUnits_foldl (f := fun t c => t.updCore (qi * 4 + c) fun x => { x with vq := [], pend := [] })
    (fun t c => ⟨rfl, rfl, rfl⟩) _ _)
  refine State.sameUnits_foldl (fun t f => ?_) _ s
  split
  · exact t.sameUnits_rfl
  · exact t.sameUnits_dropPacket _

theorem State.sameUnits_respare (s : State) (qi : Nat) : s.sameUnits (s.respare qi) := ⟨rfl, rfl, rfl⟩

/-- A containment by a failed core leaves every slot, contains its quad, and logs the retirement (R372). -/
theorem State.contain_of_core {s t : State} {qi core : Nat} (ht : s.contain qi 2 core = t) :
    t.slots = s.slots ∧ (t.quad qi).contained = true ∧ t.panel.log = s.panel.log ++ [{ qi, unit := core, retire := true, time := s.time0 }] := by
  unfold State.contain at ht
  extract_lets q dead ent s0 st s1 s2 s2' spare s3 at ht
  have hdead : dead = false := rfl
  rw [hdead] at ht
  by_cases hc : q.contained = true
  · rw [if_pos hc, if_neg Bool.false_ne_true] at ht
    rw [← ht]
    exact ⟨rfl, hc, rfl⟩
  · rw [if_neg hc] at ht
    have hq : (s1.quad qi).contained = true := congrArg Quad.contained (State.quad_updQuad_same ..)
    have h2 : s1.sameUnits s2 := (s1.sameUnits_containMsgs _ _ _).trans (State.sameUnits_loseFlights _ _)
    clear_value s2
    have h3 : s2.sameUnits s3 := by
      unfold s3 s2'
      rw [hdead, if_neg Bool.false_ne_true]
      split <;> exact ⟨rfl, rfl, rfl⟩
    obtain ⟨hslots, hquads, hlog⟩ := (h2.trans h3).trans (s3.sameUnits_regrade (regionOf qi))
    rw [← ht]
    refine ⟨hslots, ?_, hlog⟩
    rw [State.quad, hquads]
    exact hq

/-! ## The rip -/

theorem State.regions_ripFlights (s : State) (tk : Nat) : (s.ripFlights tk).regions = s.regions := by
  have hgroup (u : State) (g : Nat) : (u.endGroup g).regions = u.regions := by
    unfold State.endGroup
    split
    · rfl
    · split
      · rfl
      · dsimp only
        split <;> split <;> first | rfl | (split <;> rfl)
  unfold State.ripFlights
  dsimp only
  generalize hl : (s.flights.filter fun f => decide (f.thr = tk) && f.stage.faulted) = l
  suffices h : ∀ (l : List Flight) (t : State), (l.foldl (fun t f =>
      let u := t.endCount tk f.ctr
      match f.ret with
      | .vec g _ | .sector g _ _ => u.endGroup g
      | _ => u) t).regions = t.regions from h l _
  intro l
  induction l with
  | nil => exact fun t => rfl
  | cons f l ih =>
    intro t
    rw [List.foldl_cons, ih]
    dsimp only
    split
    · exact hgroup _ _
    · exact hgroup _ _
    · rfl

theorem State.regions_resetRotation (s : State) (ck : Nat) : (s.resetRotation ck).regions = s.regions ∧ (s.resetRotation ck).slots = s.slots := by
  unfold State.resetRotation
  split <;> exact ⟨rfl, rfl⟩

theorem State.ripSlot_free (s : State) (tk : Nat) : ((s.ripSlot tk).slot tk).st = .free := by
  unfold State.ripSlot State.freeSlot
  dsimp only
  rw [State.slot, (State.regions_resetRotation _ _).2]
  exact congrArg Slot.st (State.slot_updSlot_same ..)

theorem State.regions_ripSlot (s : State) (tk : Nat) : (s.ripSlot tk).regions = s.regions := by
  have hallot : (s.returnAllot tk).regions = s.regions := by
    unfold State.returnAllot
    split <;> rfl
  unfold State.ripSlot State.freeSlot
  dsimp only
  rw [(State.regions_resetRotation _ _).1]
  exact (State.regions_ripFlights _ _).trans hallot

theorem State.list_pushEntries (s : State) (qi pid prio : Nat) (e : Entry) :
    (((s.pushEntries qi pid prio [e]).quad qi).list pid prio).head? = some { e with since := (s.region (regionOf qi)).cycle } := by
  rw [State.pushEntries, State.quad_updQuad_same, Quad.list, FMap.get_set_same]
  rfl

theorem State.slot_pushEntries (s : State) (qi pid prio tk : Nat) (es : List Entry) : (s.pushEntries qi pid prio es).slot tk = s.slot tk := rfl

/-- A slot that is ripped without split becomes free; its piece stands at the head of its list (R313, R316). -/
theorem State.rip_whole (s : State) (tk : Nat) :
    ((s.rip tk false).slot tk).st = .free
    ∧ ∀ hd, (s.slot tk).task.handle = some hd →
      (((s.rip tk false).quad (quadOf tk)).list (s.pidOf tk) (s.slot tk).task.prio).head? =
        some { handle := hd, piece := (s.slot tk).task.piece, since := (s.region (regionOf (quadOf tk))).cycle } := by
  unfold State.rip
  dsimp only
  cases h : (s.slot tk).task.handle with
  | none => exact ⟨s.ripSlot_free tk, nofun⟩
  | some hd =>
    dsimp only
    rw [if_neg Bool.false_ne_true]
    dsimp only
    refine ⟨by rw [State.slot_pushEntries, s.ripSlot_free tk], fun hd' heq => ?_⟩
    cases heq
    have hregion : (s.ripSlot tk).region (regionOf (quadOf tk)) = s.region (regionOf (quadOf tk)) := by
      rw [State.region, State.region, State.regions_ripSlot]
    rw [← hregion]
    exact State.list_pushEntries _ _ _ _ _

/-! ## Trap entry -/

/-- A trap entered with EXL 0 (R96). -/
def Slot.trapped (x : Slot) (cause : Nat) (info epc : Word) : Slot :=
  { x with
    pc := x.sr.tvec, st := x.up, op := .none, waited := 0, wdFired := false
    sr := { x.sr with epc := epc, ecause := word cause, einfo := info, estatus := x.sr.status, status := enterStatus x.sr.status } }

theorem State.enterTrap_of_exl0 {s : State} {tk : Nat} (h : (s.slot tk).exl = false) (cause : Nat) (info epc : Word) :
    s.enterTrap tk cause info epc = s.setSlot tk ((s.slot tk).trapped cause info epc) := by
  unfold State.enterTrap
  dsimp only
  rw [h]
  rfl

theorem State.enterTrap_of_exl1 {s : State} {tk : Nat} (h : (s.slot tk).exl = true) (cause : Nat) (info epc : Word) :
    s.enterTrap tk cause info epc = s.doubleTrap tk cause info epc := by
  unfold State.enterTrap
  dsimp only
  rw [h]
  rfl

theorem enterStatus_bit (w : Word) (i : Nat) : (enterStatus w).getLsbD i = (w.getLsbD i || decide (i = 0 ∨ i = 7)) := by
  have hmask : (0x81#64).getLsbD i = decide (i = 0 ∨ i = 7) := by
    by_cases h : i < 64
    · have hall : ∀ j : Fin 64, (0x81#64).getLsbD j = decide (j.val = 0 ∨ j.val = 7) := by decide
      exact hall ⟨i, h⟩
    · rw [BitVec.getLsbD_of_ge _ _ (by omega)]
      exact (decide_eq_false (by omega)).symm
  rw [enterStatus, BitVec.getLsbD_or, hmask]

end Sys2Proof.Machine

open Sys2Proof Sys2Proof.Machine

/-- Settles O7: a trap entered with EXL 0 changes the slot as R96 says; with EXL 1 it is a double trap of the slot's kind. -/
theorem trapEntrySavesAndVectors : Obligations.TrapEntrySavesAndVectors := by
  unfold Obligations.TrapEntrySavesAndVectors
  refine ⟨?entry, ?double, ?async⟩
  case entry =>
    intro s tk cause info epc hexl x t y
    have ht : t = s.setSlot tk (x.trapped cause info epc) := State.enterTrap_of_exl0 hexl cause info epc
    have hy : y = x.trapped cause info epc := by
      show t.slot tk = _
      rw [ht, State.slot_setSlot_same]
    rw [hy]
    refine ⟨rfl, rfl, rfl, rfl, ?_, ?_, ?_, rfl, rfl, rfl, rfl, rfl, ?_, ?_⟩
    · exact (enterStatus_bit _ 0).trans (by simp)
    · exact (enterStatus_bit _ 7).trans (by simp)
    · exact fun i h0 h7 => (enterStatus_bit _ i).trans (by simp [h0, h7, x])
    · intro k hk
      rw [ht, State.slot_setSlot, if_neg hk]
    · rw [ht]
      rfl
  case double =>
    intro s tk cause info epc hexl x t told
    have ht : t = s.doubleTrap tk cause info epc := State.enterTrap_of_exl1 hexl cause info epc
    refine ⟨fun hkind => ?_, fun hkind => ?_, fun hkind => ?_⟩
    · have ht3 : t = (s.updSlot tk fun y => { y with st := .halted }).contain (quadOf tk) 2 (tk / 8 % 4) := by
        rw [ht, State.doubleTrap, if_pos hkind]
      obtain ⟨hslots, hcont, hlog⟩ := State.contain_of_core ht3.symm
      refine ⟨?_, hcont, hlog⟩
      rw [State.slot, hslots]
      exact congrArg Slot.st (State.slot_updSlot_same ..)
    · have hopt : x.optimistic = false := by rw [Slot.optimistic, hkind]; rfl
      rw [ht, State.doubleTrap, if_neg (by rw [hkind]; decide)]
      simp only [x] at hopt
      rw [hopt]
      rfl
    · have hopt : x.optimistic = true := by rw [Slot.optimistic, hkind]; rfl
      refine ⟨?_, s.rip_whole tk⟩
      rw [ht, State.doubleTrap, if_neg (by rw [hkind]; decide)]
      simp only [x] at hopt
      rw [hopt]
      rfl
  case async =>
    intro s tk c rest hok hexl hstop hst hop hasync
    let y : Slot := { s.slot tk with async := rest, hbWaiting := (s.slot tk).hbWaiting && decide (c.code ≠ 0x0F#8) }
    have hslot : (s.updSlot tk fun y => { y with async := y.async.tail, hbWaiting := y.hbWaiting && decide (c.code ≠ 0x0F#8) }).slot tk = y := by
      rw [State.slot_updSlot_same, hasync]
      rfl
    let t := (s.updSlot tk fun y => { y with async := y.async.tail, hbWaiting := y.hbWaiting && decide (c.code ≠ 0x0F#8) }).enterTrap
      tk c.code.toNat c.info (s.slot tk).pc
    have ht : t.slot tk = y.trapped c.code.toNat c.info (s.slot tk).pc := by
      show State.slot (State.enterTrap _ _ _ _ _) tk = _
      rw [State.enterTrap_of_exl0 (by rw [hslot]; exact hexl), State.slot_setSlot_same, hslot]
    have hup : y.up = .ready := by
      rcases hst with h | ⟨w, h⟩ <;> simp [Slot.up, y, h]
    have hexec : exec (.asyncTrapEntry tk) s = execAsyncTrapEntry tk s := rfl
    refine ⟨t, ?_, ?_⟩
    · rw [hexec, execAsyncTrapEntry, unitEvent, slotOk, decide_eq_true hok, if_pos rfl]
      refine event_some ?_
      simp only [hasync, List.head?_cons, Option.bind_eq_bind, Option.bind_some]
      rw [hstop, hexl, State.abandonWait, hop]
      rcases hst with h | ⟨w, h⟩ <;> rw [h] <;> rfl
    · rw [ht]
      refine ⟨rfl, rfl, hup, rfl, rfl, rfl, ?_⟩
      exact (enterStatus_bit _ 7).trans (by simp)
end

section
/-! SUPPORT. Barriers: the checks of ARRIVE and WAITB (R256 to R259), and what the heads of transaction barriers do once their checks and
waits are over (R262 to R265). -/

namespace Sys2Proof.Machine

/-! ## Wired barriers -/

theorem execArrive_eq {s : State} {g : BitVec 5} (h : s.barsetting s.myPid g.toNat = false) : execArrive g s = .next
    (((s.barCheck g.toNat).orElse
      (if s.pendingArrival s.cur g.toNat then .block (.barrier g.toNat)
      else if !(s.storesPending s.cur).isEmpty then .block (.fence 3)
      else if s.me.bst && !s.me.task.arriveAsked then
        .keep (s.updMe fun x => { x.updTask fun k => { k with basteDue := true, arriveAsked := true } with st := .blocked .drained })
      else if s.me.task.repeats = some g.toNat then
        .next (s.updMe fun x => x.updTask fun k => { k with arriveAsked := false, repeats := none })
      else
        .next ((s.updMe fun x => x.updTask fun k => { k with arriveAsked := false }).updMyQuad fun q =>
          { q with arrived := q.arrived ++ [{ g := g.toNat, slot := s.cur % 32, after := s.ids }] }))).run s) := by
  rw [execArrive, runHead_of_mayIssue (mayIssue_nothing s)]
  show Host.Outcome.next (Act.run s (if s.barsetting s.myPid g.toNat = true then _ else _)) = _
  rw [h, if_neg Bool.false_ne_true]
  rfl

theorem execWaitb_eq {s : State} {g : BitVec 5} (h : s.barsetting s.myPid g.toNat = false) : execWaitb g s = .next
    (((s.barCheck g.toNat).orElse (if s.pendingArrival s.cur g.toNat then .block (.barrier g.toNat) else .next s)).run s) := by
  rw [execWaitb, runHead_of_mayIssue (mayIssue_nothing s)]
  show Host.Outcome.next (Act.run s (if s.barsetting s.myPid g.toNat = true then _ else _)) = _
  rw [h, if_neg Bool.false_ne_true]
  rfl

section
variable {s : State} {g : Nat}

/-- The first of the three checks that fails decides (R259). -/
theorem State.barCheck_eq : s.barCheck g =
    if (FMap.get 0 s.myQuad.barmask g).getLsbD 32 = false then some (0x10, barMisuse g 0)
    else if (FMap.get 0 s.myQuad.barmask g).getLsbD (s.cur % 32) = false then some (0x10, barMisuse g 1)
    else if s.me.optimistic = true then some (0x10, barMisuse g 3) else none := by
  unfold State.barCheck
  dsimp only
  cases (FMap.get 0 s.myQuad.barmask g).getLsbD 32 <;> cases (FMap.get 0 s.myQuad.barmask g).getLsbD (s.cur % 32) <;>
    cases s.me.optimistic <;> rfl

end

/-- Every member of a group has arrived: the phase is released. -/
theorem execBarrierRelease_of_arrived {s : State} {pid g : Nat} (qs : List Nat)
    (hqs : qs = (s.quadsOf pid).filter fun qi => (FMap.get 0 (s.bars pid qi).1 g).getLsbD 32)
    (hmembers : ∃ qi ∈ qs, fld (FMap.get 0 (s.bars pid qi).1 g) 0 32 ≠ 0) (harrived : ∀ qi ∈ qs, s.quadArrived pid qi g = true) :
    execBarrierRelease pid g s = .next ((s.notePassed pid g).clearArrivals pid g) := by
  have hany : (qs.any fun qi => decide (fld (FMap.get 0 (s.bars pid qi).1 g) 0 32 ≠ 0)) = true := by
    obtain ⟨qi, hqi, hne⟩ := hmembers
    exact List.any_eq_true.mpr ⟨qi, hqi, decide_eq_true hne⟩
  have hall : (qs.all fun qi => s.quadArrived pid qi g) = true := List.all_eq_true.mpr harrived
  unfold execBarrierRelease
  rw [← hqs]
  dsimp only
  rw [hany, hall]
  rfl

/-- A BARSET whose group has no arrival is installed. -/
theorem execBarsetInstall_of_quiet {s : State} {pid g : Nat} {b : Barset} (hb : (s.part pid).barsets = [b]) (hg : b.g = g)
    (hmasks : b.masks ≠ []) (hquiet : ∀ qi ∈ s.quadsOf pid, ∀ a ∈ (s.bars pid qi).2, a.g ≠ g) :
    execBarsetInstall pid g s = .next (((b.masks.foldl (fun t m => t.setBarmask pid m.1 g m.2)
      (s.clearArrivals pid g)).updPart pid fun p => { p with barsets := p.barsets.filter fun x => decide (x ≠ b) }).reply b.thr bsDone) := by
  have hpending : ((s.quadsOf pid).any fun qi => (s.bars pid qi).2.any fun a => decide (a.g = g)) = false := by
    simp only [List.any_eq_false, decide_eq_true_eq, Bool.not_eq_true]
    exact fun qi hqi => hquiet qi hqi
  have hfind : ([b].find? fun b => decide (b.g = g) && !b.masks.isEmpty) = some b := by
    simp [hg, hmasks]
  unfold execBarsetInstall
  refine event_some ?_
  rw [hb, hfind]
  dsimp only [Option.bind_eq_bind, Option.bind_some]
  rw [hpending]
  rfl

/-! ## Transaction barriers -/

/-- A head of a transaction barrier that may go on: no wait for its registers, its word or an engine, and no check fails. -/
def State.tbReady (t : State) (x : Word) (p : Perm) (init : Bool) : Prop :=
  t.mayGo 0 x = true ∧ t.tbCheck p x init = none ∧ t.bytesFree (t.localKey t.cur (offset x)) 16 = true

theorem tbAct_of_ready {t : State} {x : Word} {p : Perm} {init : Bool} (h : t.tbReady x p init) (a : Act) :
    memWait t 0 x ((t.tbCheck p x init).orElse a) = a := by
  obtain ⟨hgo, hcheck, _⟩ := h
  rw [memWait_of_mayGo hgo, hcheck, Check.orElse_none]

theorem tbWait_of_ready {t : State} {x : Word} {p : Perm} {init : Bool} (h : t.tbReady x p init) (a : Act) :
    localWait t (t.localKey t.cur (offset x)) 16 a = a := localWait_of_bytesFree h.2.2

theorem State.tb_popPorts (s : State) (rs : List Reg) (k : Nat) : (s.popPorts rs).tb k = s.tb k := by
  rw [State.tb, State.tb, State.rd, State.rd, State.mem_popPorts]

theorem State.mayPut_wr (s : State) (k n v : Nat) (d : Reg) : (s.wr k n v).mayPut d = s.mayPut d := rfl
theorem State.mayPut_setTb (s : State) (k : Nat) (t : Tb) (d : Reg) : (s.setTb k t).mayPut d = s.mayPut d := State.mayPut_wr ..
theorem State.cur_wr (s : State) (k n v : Nat) : (s.wr k n v).cur = s.cur := rfl
theorem State.cur_setTb (s : State) (k : Nat) (t : Tb) : (s.setTb k t).cur = s.cur := State.cur_wr ..

/-- What TBARR does after its pops with the barrier that it finds. -/
def tbarrAct (s t : State) (d : Reg) (x : Word) (k : Nat) (z : Tb) : Act :=
  match z.arrive with
  | none => tbOverflow s k x 1
  | some w => put (t.setTb k w) d (word z.phase) 6

/-- TBARR: an arrival, or an overflow. -/
theorem execTbarr_of_ready {s : State} {d a : Reg} (hput : s.mayPut d = true) (hmay : mayIssue { rd := [a], wr := [d] } s = true)
    (hready : (s.popPorts [a]).tbReady (s.operand a) permRW true) (hfence : (s.popPorts [a]).fenceOk .part = true) :
    let x := s.operand a
    let k := s.localKey s.cur (offset x)
    let z := s.tb k
    (1 ≤ z.parr → execTbarr d a s =
      .next (((s.popPorts [a]).setTb k { z with parr := z.parr - 1 }.advance).writeReg s.cur d (word z.phase) 6).passed)
    ∧ (z.parr = 0 → execTbarr d a s = .next ((s.setTb k { z with ovf := true }).enterTrap s.cur 0x0E (setFld x 0 4 1) s.me.pc)) := by
  intro x k z
  have hkey : (s.popPorts [a]).localKey (s.popPorts [a]).cur (offset (s.operand a)) = k := by
    rw [State.localKey_popPorts, State.cur_popPorts]
  have htb : (s.popPorts [a]).tb k = z := State.tb_popPorts ..
  have hwait (u : Act) := tbWait_of_ready hready u
  rw [hkey] at hwait
  have hact : execTbarr d a s = .next ((tbarrAct s (s.popPorts [a]) d x k z).run s) := by
    rw [execTbarr, runHead_of_mayIssue hmay]
    dsimp only
    rw [tbAct_of_ready hready, hkey, htb, hfence, Bool.not_true, if_neg Bool.false_ne_true, hwait]
    rfl
  rw [hact, tbarrAct]
  refine ⟨fun hparr => ?_, fun hparr => ?_⟩
  · have harr : z.arrive = some { z with parr := z.parr - 1 }.advance := by
      rw [Tb.arrive, if_neg (by omega)]
    rw [harr]
    dsimp only
    rw [put_of_mayPut (by rw [State.mayPut_setTb, State.mayPut_popPorts, hput]), State.cur_setTb, State.cur_popPorts]
    rfl
  · have harr : z.arrive = none := by rw [Tb.arrive, if_pos hparr]
    rw [harr]
    rfl

/-- A transaction barrier is its 128 bits, field by field. -/
theorem Tb.toNat_ofNat {v : Nat} (h : v < 2 ^ 128) : (Tb.ofNat v).toNat = v := by
  have hbit (n : Nat) : bit (decide (bitsAt v n 1 = 1)) = bitsAt v n 1 := by
    have hlt : bitsAt v n 1 < 2 := Nat.mod_lt _ (by decide)
    unfold bit
    split <;> simp_all
    omega
  simp only [Tb.toNat, Tb.ofNat, hbit]
  simp only [bitsAt_eq]
  omega

end Sys2Proof.Machine

open Sys2Proof Sys2Proof.Machine

/-- Settles O30: the checks of ARRIVE and WAITB in their order, and the guards of the two events. -/
theorem wiredBarriers : Obligations.WiredBarriers := by
  unfold Obligations.WiredBarriers
  refine ⟨?heads, ?events⟩
  case heads =>
    intro s g hset m trap
    have harrive : exec (.arrive g) s = execArrive g s := rfl
    have hwait : exec (.waitb g) s = execWaitb g s := rfl
    rw [harrive, hwait, execArrive_eq hset, execWaitb_eq hset, State.barCheck_eq]
    refine ⟨fun hon hmember hopt hpend => ?_, fun hoff => ?_, fun hon hmember => ?_, fun hon hmember hopt => ?_⟩
    · simp only [m] at hon hmember
      rw [hon, hmember, hopt, hpend]
      refine ⟨rfl, fun hstores hbst hrep => ?_⟩
      rw [hstores, hbst, hrep]
      let u := s.updMe fun x => x.updTask fun k => { k with arriveAsked := false }
      have hu : u.me = s.me.updTask fun k => { k with arriveAsked := false } := State.me_updMe ..
      let w := u.updMyQuad fun q => { q with arrived := q.arrived ++ [{ g := g.toNat, slot := s.cur % 32, after := s.ids }] }
      have hw : w.me = u.me := rfl
      refine ⟨w.passed, rfl, ?_, ?_⟩
      · rw [State.passed, State.me_updMe, hw, hu]
        rfl
      · have hq := State.quad_updQuad_same u (quadOf u.cur) fun q =>
          { q with arrived := q.arrived ++ [{ g := g.toNat, slot := s.cur % 32, after := s.ids }] }
        exact congrArg Quad.arrived hq
    · simp only [m] at hoff
      rw [hoff]
      exact ⟨rfl, rfl⟩
    · simp only [m] at hon hmember
      rw [hon, hmember]
      exact ⟨rfl, rfl⟩
    · simp only [m] at hon hmember
      rw [hon, hmember, hopt]
      exact ⟨rfl, rfl⟩
  case events =>
    intro s pid g b qs
    exact ⟨fun hmembers harrived => execBarrierRelease_of_arrived qs rfl hmembers harrived,
      fun hb hg hmasks hquiet => execBarsetInstall_of_quiet hb hg hmasks hquiet⟩

/-- Settles O31: each head once its checks pass and its waits are over; `advance` and the fields of the 16 bytes are what R261 and R263 say. -/
theorem transactionBarriers : Obligations.TransactionBarriers := by
  unfold Obligations.TransactionBarriers
  intro s d a b hput x y one two k z go
  have hkey (rs : List Reg) : (s.popPorts rs).localKey (s.popPorts rs).cur (offset x) = k := by
    rw [State.localKey_popPorts, State.cur_popPorts]
  have hready {rs : List Reg} {p : Perm} {init : Bool} (h : go (s.popPorts rs) p init) : (s.popPorts rs).tbReady x p init := by
    obtain ⟨hgo, hcheck, hfree⟩ := h
    exact ⟨hgo, hcheck, by rwa [hkey]⟩
  have htb (rs : List Reg) : (s.popPorts rs).tb k = z := State.tb_popPorts ..
  refine ⟨?init, ?exp, ?arr, ?wait, ?test, fun t => rfl, fun v hv => Tb.toNat_ofNat hv⟩
  case init =>
    intro hmay hgo hlow hhigh
    refine runHead_next hmay ((tbAct_of_ready (hready hgo) _).trans ?_)
    rw [if_neg (by simp only [y] at hlow hhigh; omega)]
    refine (tbWait_of_ready (hready hgo) _).trans ?_
    rw [hkey]
  case exp =>
    intro hmay hgo hsum
    refine runHead_next hmay ((tbAct_of_ready (hready hgo) _).trans ((tbWait_of_ready (hready hgo) _).trans ?_))
    rw [hkey, htb, if_neg (by simp only [y] at hsum; omega)]
  case arr =>
    intro hmay hgo hfence
    have hexec : exec (.tbarr d a) s = execTbarr d a s := rfl
    rw [hexec]
    exact execTbarr_of_ready hput hmay (hready hgo) hfence
  case wait =>
    intro hmay hgo hphase
    refine runHead_next hmay ((tbAct_of_ready (hready hgo) _).trans ((tbWait_of_ready (hready hgo) _).trans ?_))
    rw [hkey, htb, if_neg hphase]
  case test =>
    intro hmay hgo
    have hexec : exec (.tbtest d a b) s = execTbtest d a b s := rfl
    rw [hexec, execTbtest, runHead_of_mayIssue hmay]
    dsimp only
    rw [tbAct_of_ready (hready hgo), tbWait_of_ready (hready hgo), hkey, htb, put_of_mayPut (by rw [State.mayPut_popPorts, hput])]
    by_cases hz : z.phase = fld y 0 4
    · rw [if_pos hz, decide_eq_false (not_not.mpr hz)]
      rw [State.cur_popPorts]
      rfl
    · rw [if_neg hz, decide_eq_true hz]
      rw [State.cur_popPorts]
      rfl
end

section
/-! SUPPORT. Heads that wait for an answer: what they do with it, and what is answered at once (R112, R228, R320). -/

namespace Sys2Proof.Machine

section
variable {u : Use} {s : State} {k : (Reg → Word) → State → Act} {fin : Word → State → Act}

theorem runReply_none (h : s.me.op = .none) : runReply u s k fin = runHead u s k := by
  unfold runReply; rw [h]

theorem runReply_done {v : Nat} (h : s.me.op = .done v) : runReply u s k fin = .next ((fin (word v) s).run s) := by
  unfold runReply; rw [h]

theorem runReply_denied (h : s.me.op = .denied) : runReply u s k fin = .next s.passed := by
  unfold runReply; rw [h]; rfl

theorem runReply_pass {v : Nat} (h : s.me.op = .done v) : runReply u s k (fun _ t => .next t) = .next s.passed := by
  rw [runReply_done h]; rfl

theorem touch_done {wr : Bool} {a : Reg} {v : Nat} (h : s.me.op = .done v) : touch wr a s = .next s.passed := by
  unfold touch
  exact runReply_pass h

theorem touch_denied {wr : Bool} {a : Reg} (h : s.me.op = .denied) : touch wr a s = .next s.passed := by
  unfold touch
  exact runReply_denied h

/-- The answer is the head's result. -/
theorem runReply_put {d : Reg} {v : Nat} (h : s.me.op = .done v) (hput : s.mayPut d = true) :
    runReply u s k (fun v t => put t d v 3) = .next (s.wrote [] d (word v) 3) := by
  rw [runReply_done h, put_of_mayPut hput]
  rfl

end

/-- Pops leave every slot's state but that of the issuing slot's task. -/
theorem State.st_popPorts (s : State) (rs : List Reg) (k : Nat) : ((s.popPorts rs).slot k).st = (s.slot k).st := by
  refine State.popPorts_induct (P := fun t => (t.slot k).st = (s.slot k).st) rs (fun t r h => h) (fun t h => ?_) s rfl
  rw [← h, State.basteAfterPop, State.updMe, State.slot_updSlot]
  split
  · next hk => subst hk; split <;> rfl
  · rfl

theorem State.srOf_popPorts (s : State) (rs : List Reg) (k : Nat) : ((s.popPorts rs).slot k).sr = (s.slot k).sr := by
  refine State.popPorts_induct (P := fun t => (t.slot k).sr = (s.slot k).sr) rs (fun t r h => h) (fun t h => ?_) s rfl
  rw [← h, State.basteAfterPop, State.updMe, State.slot_updSlot]
  split
  · next hk => subst hk; split <;> rfl
  · rfl

theorem State.localCheck_popPorts (s : State) (rs : List Reg) (tk : Nat) (p : Perm) (a : Word) (n : Nat) :
    (s.popPorts rs).localCheck tk p a n = s.localCheck tk p a n := by
  have hspace : (s.popPorts rs).spSize ((s.popPorts rs).pidOf tk) = s.spSize (s.pidOf tk) := by
    rw [State.spSize, State.spSize, State.pidOf, State.pidOf, State.ctx, State.ctx, State.quad, State.quad, State.part, State.part,
      State.quads_popPorts, State.parts_popPorts]
  rw [State.localCheck, State.localCheck, hspace, State.srOf_popPorts]

/-! ## TOUCH -/

/-- TOUCH of a checked local address completes at once (R228). -/
theorem touch_local {s : State} {wr : Bool} {a : Reg} (hop : s.me.op = .none) (hmay : mayIssue { rd := [a] } s = true)
    (hspace : spaceCheck s.super (s.operand a) = none) (hzero : space (s.operand a) = 0)
    (hcheck : s.localCheck s.cur (if wr then permW else permR) (s.operand a) 1 = none) :
    touch wr a s = .next (s.popPorts [a]).passed := by
  unfold touch
  rw [runReply_none hop]
  refine runHead_next hmay ?_
  dsimp only
  have hremote : (s.popPorts [a]).remoteCheck (s.popPorts [a]).myPid (s.operand a) = none := by
    unfold State.remoteCheck
    rw [hzero]
    rfl
  rw [State.super_popPorts, hspace, hzero, State.cur_popPorts, State.localCheck_popPorts, if_pos rfl, hcheck, hremote]
  rfl

/-! ## SPILL and RESTOR -/

theorem execSpill_of_status {s : State} {d a b : Reg} {tk n : Nat} (hop : s.me.op = .none) (hput : s.mayPut d = true)
    (hmay : mayIssue { rd := [a, b], wr := [d], sup := some (0x5240 + d.toNat) } s = true)
    (htk : s.threadKey s.myPid (s.operand a).toNat = some tk) (halign : (s.operand b).toNat % 64 = 0)
    (hstatus : (s.popPorts [a, b]).spillStatus tk = some n) (hn : n ≠ 3) : execSpill d a b s = .next (s.wrote [a, b] d (word n) 3) := by
  unfold execSpill
  rw [runReply_none hop, runHead_of_mayIssue hmay]
  dsimp only
  rw [State.threadKey_popPorts, State.myPid_popPorts, htk]
  dsimp only
  rw [if_neg (not_not.mpr halign), hstatus]
  split
  · next h => exact absurd (Option.some.inj h) hn
  · next m _ h =>
    rw [← Option.some.inj h, put_of_mayPut (by rw [State.mayPut_popPorts, hput]), State.cur_popPorts]
    rfl
  · next h => cases h

theorem execRestor_of_status {s : State} {d a b : Reg} {tk n : Nat} (hop : s.me.op = .none) (hput : s.mayPut d = true)
    (hmay : mayIssue { rd := [a, b], wr := [d], sup := some (0x5340 + d.toNat) } s = true)
    (htk : s.threadKey s.myPid (s.operand a).toNat = some tk) (halign : (s.operand b).toNat % 64 = 0)
    (hstatus : (s.popPorts [a, b]).restorStatus tk = some n) : execRestor d a b s = .next (s.wrote [a, b] d (word n) 3) := by
  unfold execRestor
  rw [runReply_none hop, runHead_of_mayIssue hmay]
  dsimp only
  rw [State.threadKey_popPorts, State.myPid_popPorts, htk]
  dsimp only
  rw [if_neg (not_not.mpr halign), hstatus]
  dsimp only
  rw [put_of_mayPut (by rw [State.mayPut_popPorts, hput]), State.cur_popPorts]
  rfl

/-! ## TSET -/

theorem State.tsetCell_of_armed {s : State} {k : Nat} {b : Word} (h : (s.rd8 k).getLsbD 63 = true) : ∃ z, s.tsetCell k b = some z := by
  unfold State.tsetCell
  dsimp only
  rw [h]
  exact ⟨_, rfl⟩

/-- TSET on an armed local cell completes at once (R320). -/
theorem execTset_local {s z : State} {a b : Reg} (hop : s.me.op = .none) (hmay : mayIssue { rd := [a, b] } s = true)
    (hpinned : s.me.optimistic = false) (hgo : (s.popPorts [a, b]).mayGo 0 (s.operand a) = true)
    (hcheck : (s.popPorts [a, b]).cellCheck (s.operand a) = none) (hhigh : fld (s.operand b) 32 32 = 0)
    (hfence : (s.popPorts [a, b]).fenceOk .part = true) (hspace : space (s.operand a) = 0)
    (hfree : (s.popPorts [a, b]).bytesFree (s.localKey s.cur (offset (s.operand a))) 16 = true)
    (hz : (s.popPorts [a, b]).tsetCell (s.localKey s.cur (offset (s.operand a))) (s.operand b) = some z) :
    execTset a b s = .next z.passed := by
  unfold execTset
  rw [runReply_none hop]
  refine runHead_next hmay ?_
  dsimp only
  rw [State.optimistic_popPorts, hpinned, if_neg Bool.false_ne_true, memWait_of_mayGo hgo, hcheck, Check.orElse_none,
    if_neg (not_not.mpr hhigh), hfence, Bool.not_true, if_neg Bool.false_ne_true, if_pos hspace, State.localKey_popPorts,
    State.cur_popPorts, localWait_of_bytesFree hfree, hz]

end Sys2Proof.Machine

open Sys2Proof Sys2Proof.Machine

/-- Settles O27: the answer is written or passes the head; and what SPILL, RESTOR, TOUCH and TSET answer at once. -/
theorem repliesCompleteHeads : Obligations.RepliesCompleteHeads := by
  unfold Obligations.RepliesCompleteHeads
  refine ⟨?answers, ?once⟩
  case answers =>
    intro s d a b off w cp g v hput
    refine ⟨fun hop => ⟨?puts, ?passes, ?tset, ?barset⟩, fun hop => ?denied⟩
    case puts =>
      simp only [List.forall_mem_cons, List.not_mem_nil, false_imp_iff, implies_true, and_true]
      exact ⟨runReply_put hop hput, runReply_put hop hput, runReply_put hop hput, runReply_put hop hput⟩
    case passes =>
      simp only [List.forall_mem_cons, List.not_mem_nil, false_imp_iff, implies_true, and_true]
      refine ⟨?stf, touch_done hop, touch_done hop, ?gang⟩
      case stf =>
        show execStf a b off w cp s = _
        unfold execStf
        exact runReply_pass hop
      case gang =>
        show execGang a s = _
        unfold execGang
        exact runReply_pass hop
    case tset =>
      intro hv
      have hexec : exec (.tset a b) s = execTset a b s := rfl
      have hword : word v = 0 := BitVec.eq_of_toNat_eq (by simpa [word] using hv)
      rw [hexec, execTset, runReply_done hop, hword]
      rfl
    case barset =>
      intro hv
      have hexec : exec (.barset g a) s = execBarset g a s := rfl
      rw [hexec, execBarset, hop]
      dsimp only
      rw [if_pos hv]
      rfl
    case denied =>
      simp only [List.forall_mem_cons, List.not_mem_nil, false_imp_iff, implies_true, and_true]
      refine ⟨?lde, ?stf, touch_denied hop, touch_denied hop⟩
      case lde =>
        show execLde d a off w cp s = _
        unfold execLde
        exact runReply_denied hop
      case stf =>
        show execStf a b off w cp s = _
        unfold execStf
        exact runReply_denied hop
  case once =>
    intro s d a b tk hop hput x t u
    refine ⟨fun hmay hspace hzero => ⟨fun hcheck => touch_local hop hmay hspace hzero hcheck,
      fun hcheck => touch_local hop hmay hspace hzero hcheck⟩, fun hmay htk halign => ⟨fun hown => ?_, fun hother hruns hst => ?_⟩,
      fun hmay htk halign hstop hruns hst => ?_, fun hmay hopt hgo hcheck hhigh hfence hspace hfree harmed => ?_⟩
    · refine execSpill_of_status hop hput hmay htk halign ?_ (by decide)
      rw [State.spillStatus, State.cur_popPorts, if_pos hown]
    · refine execSpill_of_status hop hput hmay htk halign ?_ (by decide)
      rw [State.spillStatus, State.cur_popPorts, if_neg hother, State.myPid_popPorts, State.runs_popPorts, hruns, Bool.not_true,
        if_neg Bool.false_ne_true, State.st_popPorts, if_pos hst]
    · refine execRestor_of_status hop hput hmay htk halign ?_
      rw [State.restorStatus, State.myPid_popPorts, State.runs_popPorts, State.st_popPorts, hst, hruns, if_neg (by simp [u] at hstop; simp [hstop]),
        if_pos (by decide)]
    · obtain ⟨z, hz⟩ := State.tsetCell_of_armed (s := u) (k := s.localKey s.cur (offset x)) (b := s.operand b) (by
        rw [State.rd8, State.rd, State.mem_popPorts]
        exact harmed)
      exact ⟨z, hz, execTset_local hop hmay hopt hgo hcheck hhigh hfence hspace hfree hz⟩
end

section
/-! SUPPORT. A state that refutes the statement on vector loads: a name has been given in it before the load issues. -/

namespace Sys2Proof.Machine

/-- The slot of the state: m1 has lane 0 active alone, and the allotment holds every vector register. -/
def loneSlot : Slot := { m := [(1, 1#64)], sr := { regallot := 0x1000#64 } }

/-- A state after one name has been given, whose slot 0 may load lane 0 of v0 from offset 0 of its share. -/
def bornState : State := { State.reset with ids := 1, parts := [(0, { spsize := 65536 })], slots := [(0, loneSlot)] }

/-- The pending write of the load keeps how many names were given before it (R241). -/
theorem born_of_vlds : ∃ t, exec (.vlds 0 0 0 1 0) bornState = .next t ∧ (t.core 0).pend.map Pend.born = [1] := ⟨_, rfl, by decide⟩

end Sys2Proof.Machine

open Sys2Proof Sys2Proof.Machine

/-- Refutes O28: the pending write of a local vector load is stated without the names given before it, as if none had been; the model keeps
their number in it (R241), and in a state in which a name has been given it is not 0. -/
theorem not_vectorLoads : ¬ Obligations.VectorLoads := by
  unfold Obligations.VectorLoads
  rintro ⟨hload, _, _⟩
  obtain ⟨_, hlocal, _⟩ := hload bornState 0 0 0 0 0 0 1 0 .n 0 _ (List.mem_cons_of_mem _ List.mem_cons_self) (by decide) (by decide)
  have hnext := hlocal (by decide) (.inr ⟨nofun, by decide⟩) (by decide) (by decide)
  obtain ⟨t, hexec, hborn⟩ := born_of_vlds
  rw [hexec] at hnext
  injection hnext with hstate
  rw [hstate] at hborn
  revert hborn
  decide
end

section
/-! SUPPORT. How translations end (R204 to R211), and what a granule's migration leaves in memory and in stage 2 (R216). -/

namespace Sys2Proof.Machine

theorem length_rdBytes (s : State) (k n : Nat) : (s.rdBytes k n).length = n := by
  induction n generalizing k with
  | zero => rfl
  | succ n ih => rw [State.rdBytes, List.length_cons, ih]

theorem getD_rdBytes (s : State) {k n i : Nat} (h : i < n) : (s.rdBytes k n).getD i 0 = memByte s.mem (k + i) := by
  induction n generalizing k i with
  | zero => omega
  | succ n ih =>
    cases i with
    | zero => rfl
    | succ i =>
      rw [State.rdBytes, List.getD_cons_succ, ih (by omega)]
      congr 1
      omega

/-! ## The translating slice (R204) and the IOMMU (R208) -/

section
variable {s : State} {f : Flight}

/-- The page that an access needs, by its inner address. -/
def State.pageOf (s : State) (f : Flight) : Nat := fld (s.inner f.addr) 0 48
def State.sliceFind (s : State) (f : Flight) (n : Nat) : Option TlbEntry :=
  s.tlbFind (n + xlateDie (s.pageOf f) f.pid) f.pid (s.pageOf f) f.op.perm false

/-- The slice holds the page: the access goes to its home. -/
theorem execTranslationRequest_of_slice {e : TlbEntry} (hf : s.flight f.id = some f) (hstage : f.stage = .xlate) (hop : ∀ w, f.op ≠ .touch w)
    (hat : s.sliceFind f 10000 = some e) : execTranslationRequest f.id s =
      .next ((s.tlbAdd { e with loc := coreOf f.thr }).setHome f.id (hbmKey (e.pa + (s.pageOf f - e.va))) (e.va, e.size)) := by
  unfold State.sliceFind State.pageOf at hat
  unfold execTranslationRequest
  rw [hf]
  refine event_some ?_
  rw [Option.bind_eq_bind, Option.bind_some, hstage]
  dsimp only
  rw [hat]
  dsimp only
  split
  · next w h => exact absurd h (hop w)
  · rfl

/-- The walk ends in a stage-1 fault, which the service core hears of (R211). -/
theorem execTranslationRequest_of_fault1 {why : Nat} (hf : s.flight f.id = some f) (hstage : f.stage = .xlate)
    (hat1 : s.sliceFind f 10000 = none) (hat2 : s.sliceFind f 20000 = none)
    (hwalk : s.translate f.pid (s.pageOf f) f.op.perm = (.fault1 why, none)) :
    execTranslationRequest f.id s = .next ((s.draw.setStage f.id (.fault false)).service f.pid
      { kind := 0x40, tag := f.tag.toNat, thread := s.threadIn f.pid f.thr, w2 := f.addr
        w3 := word (f.op.faultKind + 4 * why + 16 * space f.addr) }) := by
  unfold State.sliceFind State.pageOf at hat1 hat2
  unfold State.pageOf at hwalk
  unfold execTranslationRequest
  rw [hf]
  refine event_some ?_
  rw [Option.bind_eq_bind, Option.bind_some, hstage]
  dsimp only
  rw [hat1, hat2, hwalk]
  rfl

/-- The walk ends in a stage-2 fault, which waits for the controller (R211). -/
theorem execTranslationRequest_of_fault2 (hf : s.flight f.id = some f) (hstage : f.stage = .xlate)
    (hat1 : s.sliceFind f 10000 = none) (hat2 : s.sliceFind f 20000 = none)
    (hwalk : s.translate f.pid (s.pageOf f) f.op.perm = (.fault2, none)) :
    execTranslationRequest f.id s = .next (s.draw.setStage f.id (.s2 false)) := by
  unfold State.sliceFind State.pageOf at hat1 hat2
  unfold State.pageOf at hwalk
  unfold execTranslationRequest
  rw [hf]
  refine event_some ?_
  rw [Option.bind_eq_bind, Option.bind_some, hstage]
  dsimp only
  rw [hat1, hat2, hwalk]
  rfl

/-- The host's IOMMU translates: the access goes to its place in host memory. -/
theorem execAtsReply_of_ok (hf : s.flight f.id = some f) (hstage : f.stage = .ats) (hop : ∀ w, f.op ≠ .touch w) :
    execAtsReply f.id true s = .next ((s.tlbAdd (hostEntry (coreOf f.thr) f.pid (fld f.addr 0 48))).setStage f.id
      (.home (hostKey (s.part f.pid).vf (fld f.addr 0 48)))) := by
  unfold execAtsReply
  rw [hf]
  refine event_some ?_
  rw [Option.bind_eq_bind, Option.bind_some, hstage]
  dsimp only
  rw [if_pos rfl]
  split
  · next w h => exact absurd h (hop w)
  · rfl

end

/-! ## The migration of a granule (R216) -/

/-- The place of an access that has been translated to the granule moves with it. -/
def Stage.migrated (g frame : Nat) : Stage → Stage
  | .home k => .home (if hbmKey (g * 4096) ≤ k ∧ k < hbmKey (g * 4096) + 4096 then k - hbmKey (g * 4096) + hbmKey (frame * 4096) else k)
  | st => st

/-- The granule's bytes have been copied to a frame, and stage 2 maps it there. -/
def State.granuleMoved (s : State) (pid g frame : Nat) (bytes : List Byte) : State :=
  (s.wrBytes (hbmKey (frame * 4096)) bytes).updPart pid fun p =>
    { p with s2 := p.s2.map fun m => if m.pa = g * 4096 ∧ m.size = 4096 then { m with pa := frame * 4096 } else m }

/-- Then its old frame has been reassigned. -/
def State.frameReturned (s : State) (pid g frame key : Nat) (bytes : List Byte) : State :=
  ((({ s with place := FMap.erase s.place g } : State).granuleMoved pid g frame bytes).reassign (g * 4096) 4096 key 0).updPanel fun p =>
    p.giveFrames (frame * 4096) 4096 key

/-- And the accesses translated to it go to the new one. -/
def State.migrated (s : State) (pid g frame key : Nat) (bytes : List Byte) : State :=
  { s.frameReturned pid g frame key bytes with flights := (s.frameReturned pid g frame key bytes).flights.map fun f =>
    { f with stage := f.stage.migrated g frame } }

/-- A table of one entry takes another value at its key. -/
theorem FMap.set_lone {α : Type} [DecidableEq α] {d v w : α} {k : Nat} (h : w ≠ d) : FMap.set d [(k, v)] k w = [(k, w)] := by
  simp [FMap.set, h, FMap.insert]

theorem rdBytes_congr {s t : State} (h : t.mem = s.mem) (k n : Nat) : t.rdBytes k n = s.rdBytes k n := by
  induction n generalizing k with
  | zero => rfl
  | succ n ih => rw [State.rdBytes, State.rdBytes, h, ih]

section
variable {s : State} {pid g frame key : Nat} {bytes : List Byte}

theorem State.mem_migrated : (s.migrated pid g frame key bytes).mem =
    ((s.wrBytes (hbmKey (frame * 4096)) bytes).zeroRange (hbmKey (g * 4096)) 4096).mem := rfl

/-- The bytes of the granule stand in the new frame; the old one is zero. -/
theorem State.memByte_migrated (hne : frame ≠ g) {i : Nat} (hi : i < 4096) :
    memByte (s.migrated pid g frame key (s.rdBytes (hbmKey (g * 4096)) 4096)).mem (hbmKey (frame * 4096) + i) = memByte s.mem (hbmKey (g * 4096) + i)
    ∧ memByte (s.migrated pid g frame key (s.rdBytes (hbmKey (g * 4096)) 4096)).mem (hbmKey (g * 4096) + i) = 0 := by
  rw [State.mem_migrated, State.memByte_zeroRange, State.memByte_zeroRange]
  refine ⟨?_, if_pos ⟨by omega, by omega⟩⟩
  have happart : ¬ (hbmKey (g * 4096) ≤ hbmKey (frame * 4096) + i ∧ hbmKey (frame * 4096) + i < hbmKey (g * 4096) + 4096) := by
    unfold hbmKey
    omega
  rw [if_neg happart, State.wrBytes, memByte_memWrite, length_rdBytes, if_pos ⟨by omega, by omega⟩, Nat.add_sub_cancel_left,
    getD_rdBytes s hi]

/-- Stage 2 maps the granule at its new frame. -/
theorem State.s2_migrated {pt : Part} {m : S2Map} (hparts : s.parts = [(pid, pt)]) (hs2 : pt.s2 = [m]) (hpa : m.pa = g * 4096)
    (hsize : m.size = 4096) (hne : frame ≠ g) : ((s.migrated pid g frame key bytes).part pid).s2 = [{ m with pa := frame * 4096 }] := by
  have happart : overlap (frame * 4096) 4096 (g * 4096) 4096 = false := by
    unfold overlap
    exact decide_eq_false (by omega)
  have hnew : (s.migrated pid g frame key bytes).parts = [(pid, { pt with s2 := [{ m with pa := frame * 4096 }] })] := by
    have hremap : (({ s with place := FMap.erase s.place g } : State).granuleMoved pid g frame bytes).parts
        = [(pid, { pt with s2 := [{ m with pa := frame * 4096 }] })] := by
      have hpart : s.part pid = pt := by rw [State.part, hparts, FMap.get, if_pos rfl]
      have hs2new : (s.part pid).s2.map (fun m => if m.pa = g * 4096 ∧ m.size = 4096 then { m with pa := frame * 4096 } else m)
          = [{ m with pa := frame * 4096 }] := by
        rw [hpart, hs2, List.map_singleton, if_pos ⟨hpa, hsize⟩]
      show FMap.set {} s.parts pid { s.part pid with s2 := (s.part pid).s2.map _ } = _
      rw [hs2new, hpart, hparts]
      exact FMap.set_lone (fun h => by cases congrArg Part.s2 h)
    show (State.parts (State.granuleMoved _ _ _ _ _)).map _ = _
    rw [hremap]
    simp [happart, hsize]
  rw [State.part, hnew, FMap.get, if_pos rfl]

theorem State.place_migrated : FMap.get {} (s.migrated pid g frame key bytes).place g = {} := FMap.get_erase_same _ s.place g

end

/-- A granule that one page maps moves to a free frame of the die that leads its counter. -/
theorem execPageMigration_of_due {s : State} {pid g frame : Nat} {pt : Part} {m : S2Map} (hparts : s.parts = [(pid, pt)])
    (hlive : pt.live = true) (hs2 : pt.s2 = [m]) (hpa : m.pa = g * 4096) (hsize : m.size = 4096)
    (hcount : pt.threshold ≤ (FMap.get {} s.place g).count) (hleader : (FMap.get {} s.place g).leader ≠ g % 288)
    (hframe : frame % 288 = (FMap.get {} s.place g).leader) (hpanel : frame < 1728 * 2 ^ 18) (hne : frame ≠ g)
    (hmap : s.panel.mappable pt.key (frame * 4096) 4096 = true) :
    execPageMigration g frame s = .next (s.migrated pid g frame pt.key (s.rdBytes (hbmKey (g * 4096)) 4096)) := by
  have howner : (s.parts.find? fun p => p.2.live && (p.2.s2.any fun m => decide (m.pa ≤ g * 4096 ∧ g * 4096 < m.pa + m.size)))
      = some (pid, pt) := by
    simp [hparts, hlive, hs2, hpa, hsize]
  have hsmall : (pt.s2.any fun m => decide (m.pa = g * 4096 ∧ m.size = 4096)) = true := by simp [hs2, hpa, hsize]
  have hunmapped : (s.parts.all fun p => !(p.2.s2.any fun m => decide (m.pa ≤ frame * 4096 ∧ frame * 4096 < m.pa + m.size))) = true := by
    simp [hparts, hs2, hpa, hsize]
    omega
  unfold execPageMigration
  rw [howner]
  refine event_some ?_
  dsimp only [Option.bind_eq_bind, Option.bind_some]
  rw [if_neg (by omega), hsmall, hunmapped, hmap, decide_eq_true ⟨hframe, hpanel⟩]
  rw [rdBytes_congr (s := s) (t := { s with place := FMap.erase s.place g }) rfl]
  generalize s.rdBytes (hbmKey (g * 4096)) 4096 = bytes
  refine congrArg (fun F : Flight → Flight => some ({ s.frameReturned pid g frame pt.key bytes with
    flights := (s.frameReturned pid g frame pt.key bytes).flights.map F } : State)) (funext fun f => ?_)
  cases f with
  | mk id thr p addr n op ret ctr stage => cases stage <;> rfl

end Sys2Proof.Machine

open Sys2Proof Sys2Proof.Machine

/-- Settles O29: each event in the branch that its guard selects; the migration copies the granule, clears the old frame and remaps it. -/
theorem translationsEnd : Obligations.TranslationsEnd := by
  unfold Obligations.TranslationsEnd
  refine ⟨?events, ?migration⟩
  case events =>
    intro s f e why hf va at_
    have hreq : exec (.translationRequest f.id) s = execTranslationRequest f.id s := rfl
    refine ⟨fun hstage hop hat => ?_, fun hstage hat1 hat2 hwalk => ?_, fun hstage hat1 hat2 hwalk => ?_, fun hstage => ?_, fun hstage => ?_,
      fun noticed hstage => ?_, fun hstage => ?_⟩
    · rw [hreq]
      exact execTranslationRequest_of_slice hf hstage hop hat
    · rw [hreq]
      exact execTranslationRequest_of_fault1 hf hstage hat1 hat2 hwalk
    · rw [hreq]
      exact execTranslationRequest_of_fault2 hf hstage hat1 hat2 hwalk
    · have hexec : exec (.faultNotice f.id) s = execFaultNotice f.id s := rfl
      rw [hexec, execFaultNotice, hf]
      refine event_some ?_
      rw [Option.bind_eq_bind, Option.bind_some, hstage]
      rfl
    · have hexec : exec (.faultNotice f.id) s = execFaultNotice f.id s := rfl
      rw [hexec, execFaultNotice, hf]
      refine event_some ?_
      rw [Option.bind_eq_bind, Option.bind_some, hstage]
      rfl
    · have hexec (retry : Bool) : exec (.stage2FaultReply f.id retry) s = execStage2FaultReply f.id retry s := rfl
      refine ⟨?_, ?_⟩
      · rw [hexec, execStage2FaultReply, hf]
        refine event_some ?_
        dsimp only
        rw [hstage]
        rfl
      · rw [hexec, execStage2FaultReply, hf]
        refine event_some ?_
        dsimp only
        rw [hstage]
        rfl
    · refine ⟨?_, fun hop => ?_⟩
      · have hexec : exec (.atsReply f.id false) s = execAtsReply f.id false s := rfl
        rw [hexec, execAtsReply, hf]
        refine event_some ?_
        rw [Option.bind_eq_bind, Option.bind_some, hstage]
        rfl
      · refine ⟨_, execAtsReply_of_ok hf hstage hop, rfl, rfl⟩
  case migration =>
    intro s pid g frame pt m hparts hlive hs2 hpa hsize c hcount hleader hframe hpanel hne hmap
    exact ⟨_, execPageMigration_of_due hparts hlive hs2 hpa hsize hcount hleader hframe hpanel hne hmap, State.s2_migrated hparts hs2 hpa hsize hne, fun i hi => State.memByte_migrated hne hi, State.place_migrated⟩
end

section
/-! SUPPORT. Fields of words, dependence cells (R308, R319) and the heads that read a task's piece and allowances (R321 to R324). -/

namespace Sys2Proof.Machine

/-! ## Fields of words -/

theorem fld_eq (w : Word) (lo n : Nat) : fld w lo n = w.toNat / 2 ^ lo % 2 ^ n := bitsAt_eq _ _ _

/-- The bits of a word with a field replaced. -/
theorem setFld_bit (w : Word) {lo n v i : Nat} (hi : i < 64) :
    (setFld w lo n v).getLsbD i = if lo ≤ i ∧ i < lo + n then v.testBit (i - lo) else w.getLsbD i := by
  have hmask : ((2 ^ n - 1) * 2 ^ lo).testBit i = decide (lo ≤ i ∧ i < lo + n) := by
    rw [← Nat.shiftLeft_eq, Nat.testBit_shiftLeft, Nat.testBit_two_pow_sub_one]
    by_cases h : lo ≤ i <;> simp [h]
    omega
  have hval : (v * 2 ^ lo).testBit i = (decide (lo ≤ i) && v.testBit (i - lo)) := by
    rw [← Nat.shiftLeft_eq, Nat.testBit_shiftLeft]
  simp only [setFld, word, BitVec.getLsbD_or, BitVec.getLsbD_and, BitVec.getLsbD_not, BitVec.getLsbD_ofNat, hi, decide_true,
    Bool.true_and, hmask, hval]
  by_cases h : lo ≤ i ∧ i < lo + n
  · simp [h]
  · rw [if_neg h, decide_eq_false h]
    simp

theorem fld_testBit (w : Word) (lo n i : Nat) : (fld w lo n).testBit i = (decide (i < n) && w.getLsbD (lo + i)) := by
  rw [fld, bitsAt, Nat.testBit_mod_two_pow, Nat.testBit_shiftRight]
  rfl

/-- The field that was written. -/
theorem fld_setFld (w : Word) {lo n v : Nat} (h : lo + n ≤ 64) : fld (setFld w lo n v) lo n = v % 2 ^ n := by
  apply Nat.eq_of_testBit_eq
  intro i
  rw [fld_testBit, Nat.testBit_mod_two_pow]
  by_cases hi : i < n
  · rw [setFld_bit w (by omega), if_pos (by omega), Nat.add_sub_cancel_left]
  · simp [hi]

/-- A count of 32 bits that is not zero goes down by one with its word. -/
theorem setFld_pred {w : Word} (h : 1 ≤ fld w 0 32) : setFld w 0 32 (fld w 0 32 - 1) = w - 1 := by
  have hw := w.isLt
  have hfld : fld w 0 32 = w.toNat % 2 ^ 32 := by rw [fld_eq, Nat.pow_zero, Nat.div_one]
  have hsub : (w - 1).toNat = w.toNat - 1 := by
    rw [BitVec.toNat_sub_of_le (by rw [BitVec.le_def]; rw [hfld] at h; have : (1 : Word).toNat = 1 := rfl; omega)]
    rfl
  apply BitVec.eq_of_getLsbD_eq
  intro i hi
  rw [setFld_bit w hi, Nat.sub_zero, Nat.zero_add]
  simp only [Nat.zero_le, true_and]
  have hbit (x : Word) : x.getLsbD i = x.toNat.testBit i := rfl
  rw [hbit, hbit, hsub, hfld]
  rw [hfld] at h
  have hmod : (w.toNat - 1) % 2 ^ 32 = w.toNat % 2 ^ 32 - 1 := by omega
  have hdiv : (w.toNat - 1) / 2 ^ 32 = w.toNat / 2 ^ 32 := by omega
  split
  · next hlow => rw [← hmod, Nat.testBit_mod_two_pow, decide_eq_true hlow, Bool.true_and]
  · next hhigh =>
    have hshift (x : Nat) : x.testBit i = (x / 2 ^ 32).testBit (i - 32) := by
      rw [← Nat.shiftRight_eq_div_pow, Nat.testBit_shiftRight, Nat.add_sub_cancel' (by omega)]
    rw [hshift w.toNat, hshift (w.toNat - 1), hdiv]

/-! ## Dependence cells -/

theorem State.rd8_wr8_same (s : State) (k : Nat) (w : Word) : (s.wr8 k w).rd8 k = w := by
  have hw := w.isLt
  rw [State.rd8, State.wr8, State.rd_wr_same, word, Nat.mod_eq_of_lt (by omega), BitVec.ofNat_toNat, BitVec.setWidth_eq]

theorem State.rd8_wr8_next (s : State) (k : Nat) (w : Word) : (s.wr8 k w).rd8 (k + 8) = s.rd8 (k + 8) := by
  rw [State.rd8, State.wr8, State.rd_wr_disjoint s (by omega), State.rd8]

section
variable {s : State} {k : Nat}

theorem State.decCell_of_idle (h : (s.rd8 k).getLsbD 63 = false ∨ fld (s.rd8 k) 0 32 = 0) : s.decCell k = s := by
  unfold State.decCell
  refine if_neg fun hboth => ?_
  rw [Bool.and_eq_true, decide_eq_true_eq] at hboth
  obtain ⟨harmed, hpos⟩ := hboth
  rcases h with h | h
  · rw [h] at harmed
    exact Bool.false_ne_true harmed
  · omega

theorem State.decCell_of_above (harmed : (s.rd8 k).getLsbD 63 = true) (h : 1 < fld (s.rd8 k) 0 32) :
    s.decCell k = s.wr8 k (s.rd8 k - 1) := by
  unfold State.decCell
  dsimp only
  rw [if_pos (by simp [harmed]; omega), if_neg (by omega), setFld_pred (by omega)]

/-- A cell that goes to zero, its context's ring having room, is disarmed, and its record enters the ring (R308). -/
theorem State.decCell_of_last (harmed : (s.rd8 k).getLsbD 63 = true) (h : fld (s.rd8 k) 0 32 = 1)
    (hroom : (s.quad (s.ringQuad k)).readyRoom (s.sharePid k) = true)
    (hpend : ∀ c ∈ (s.quad (s.ringQuad k)).pendCells, s.sharePid c ≠ s.sharePid k) :
    s.decCell k = (((s.wr8 k (setFld (s.rd8 k) 0 32 0)).wr8 k (setFld (s.rd8 k) 0 32 0 &&& ~~~(1#64 <<< 63))).setQuad (s.ringQuad k)
      { s.quad (s.ringQuad k) with ready := (s.quad (s.ringQuad k)).ready ++ [(s.sharePid k, s.rd8 (k + 8))] }) := by
  have hall : ((s.quad (s.ringQuad k)).pendCells.all fun c => decide (s.sharePid c ≠ s.sharePid k)) = true := by
    simpa using hpend
  have hrelease (t : State) (hq : t.quads = s.quads) (hp : t.parts = s.parts) : t.releaseCell k =
      (t.wr8 k (t.rd8 k &&& ~~~(1#64 <<< 63))).setQuad (s.ringQuad k)
        { s.quad (s.ringQuad k) with ready := (s.quad (s.ringQuad k)).ready ++ [(s.sharePid k, t.rd8 (k + 8))] } := by
    have hring : t.ringQuad k = s.ringQuad k := by rw [State.ringQuad, State.ringQuad, hq]
    have hquad (n : Nat) : t.quad n = s.quad n := by rw [State.quad, State.quad, hq]
    have hshare (c : Nat) : t.sharePid c = s.sharePid c := by
      have hsize (p : Nat) : t.spSize p = s.spSize p := by rw [State.spSize, State.spSize, State.part, State.part, hp]
      unfold State.sharePid
      simp only [hquad, hsize]
    unfold State.releaseCell
    simp only [hring, hquad, hshare]
    rw [hroom, hall]
    rfl
  unfold State.decCell
  dsimp only
  rw [if_pos (by simp [harmed]; omega), if_pos h, h, hrelease (s.wr8 k (setFld (s.rd8 k) 0 32 0)) rfl rfl, State.rd8_wr8_same, State.rd8_wr8_next]

end

theorem State.rd8_setQuad (s : State) (q : Nat) (x : Quad) (k : Nat) : (s.setQuad q x).rd8 k = s.rd8 k := rfl

/-! ## What the pops leave of a task -/

theorem State.myPart_popPorts (s : State) (rs : List Reg) : (s.popPorts rs).myPart = s.myPart := by
  rw [State.myPart, State.myPart, State.myPid_popPorts, State.part, State.part, State.parts_popPorts]

end Sys2Proof.Machine

open Sys2Proof Sys2Proof.Machine

/-- Settles O35: each head's value, DEC and SPLIT in their branches, and the three cases of a cell's count. -/
theorem taskHeads : Obligations.TaskHeads := by
  unfold Obligations.TaskHeads
  refine ⟨?heads, ?cells⟩
  case heads =>
    intro s d a n hput h r put x t k g
    refine ⟨fun hmay => ⟨?ext, ?org, ?cnt, ?nf, ?cyc, ?sp, ?eff, ?reg, ?geom⟩, fun hmay => ?keyhome, fun hmay hgo hcheck => ⟨?dec, ?held⟩,
      fun hopt => ?split, fun hpin => ?nosplit⟩
    case ext => exact runHead_put hmay hput (fun _ t => if n.toNat < hdrNf (t.taskHdr t.cur) then word (hdrExt (t.taskHdr t.cur) n.toNat) else 0) 3
    case org => exact runHead_put hmay hput (fun _ t => t.widField n.toNat) 3
    case cnt => exact runHead_put hmay hput (fun _ t => if n.toNat < hdrNf (t.taskHdr t.cur) then word (t.me.task.piece.cnt.getD n.toNat 0) else 0) 3
    case nf => exact runHead_put hmay hput (fun _ t => word (hdrNf (t.taskHdr t.cur))) 3
    case cyc => exact runHead_put hmay hput (fun _ t => if t.me.sr.allow.getLsbD 48 then BitVec.allOnes 64 else word (fld t.me.sr.allow 0 48)) 3
    case sp => exact runHead_put hmay hput (fun _ t => word (saLimit t.me.sr.spallot * 64) - word (saTop t.me.sr.spallot * 64)) 3
    case eff => exact runHead_put hmay hput (fun _ t => if t.me.optimistic then word (t.me.task.effRes - t.me.task.heldBytes) else 0) 3
    case reg => exact runHead_put hmay hput (fun _ t => t.me.sr.regallot) 3
    case geom =>
      intro sel v hv
      have hexec : exec (.geom sel d) s = execGeom sel d s := rfl
      rw [hexec, execGeom, runHead_put hmay hput]
      simp only [List.mem_cons, Prod.mk.injEq, List.not_mem_nil, or_false] at hv
      rcases hv with ⟨rfl, rfl⟩ | ⟨rfl, rfl⟩ | ⟨rfl, rfl⟩ | ⟨rfl, rfl⟩ | ⟨rfl, rfl⟩ | ⟨rfl, rfl⟩ | ⟨rfl, rfl⟩ <;> rfl
    case keyhome =>
      have hexec : exec (.keyhome d a) s = execKeyhome d a s := rfl
      rw [hexec, execKeyhome, runHead_put hmay hput, State.myPart_popPorts]
    case dec =>
      intro hopt hfence hspace hfree
      refine runHead_next hmay ?_
      dsimp only
      rw [memWait_of_mayGo hgo, hcheck, Check.orElse_none, State.optimistic_popPorts, hopt, if_neg Bool.false_ne_true, if_pos hspace,
        hfence, Bool.not_true, if_neg Bool.false_ne_true, State.ownKey_of_pops rfl, localWait_of_bytesFree hfree]
    case held =>
      intro hhold
      have hopt : t.me.optimistic = true := by
        simp only [State.mayHold, Bool.and_eq_true] at hhold
        exact hhold.1
      refine runHead_next hmay ?_
      dsimp only
      rw [memWait_of_mayGo hgo, hcheck, Check.orElse_none, hopt, if_pos rfl, holdEffect_of_mayHold hhold]
    case split =>
      have hexec : exec .split s = execSplit s := rfl
      rw [hexec, execSplit, runHead_of_mayIssue (mayIssue_nothing s)]
      show Host.Outcome.next (Act.run s (if (!s.me.optimistic) = true then _ else if s.splittable s.cur = true then _ else _)) = _
      rw [hopt, Bool.not_true, if_neg Bool.false_ne_true]
      split <;> rfl
    case nosplit =>
      have hexec : exec .split s = execSplit s := rfl
      rw [hexec, execSplit]
      refine runHead_trap (mayIssue_nothing s) ?_
      show (if (!s.me.optimistic) = true then _ else _) = _
      rw [hpin]
      rfl
  case cells =>
    intro s k w q
    refine ⟨State.decCell_of_idle, State.decCell_of_above, fun harmed hone hroom hpend => ⟨_, rfl, ?_⟩⟩
    rw [State.decCell_of_last harmed hone hroom hpend, State.rd8_setQuad, State.rd8_wr8_same]
    refine ⟨by simp, ?_, ?_⟩
    case refine_2 => exact congrArg Quad.ready (State.quad_setQuad_same ..)
    apply Nat.eq_of_testBit_eq
    intro i
    rw [fld_testBit, Nat.zero_testBit]
    by_cases hi : i < 32
    · rw [decide_eq_true hi, Bool.true_and, BitVec.getLsbD_and, setFld_bit _ (by omega), if_pos (by omega), Nat.zero_testBit, Bool.false_and]
    · rw [decide_eq_false hi, Bool.false_and]
end

section
/-! SUPPORT. LAUNCH and SPAWN (R317, R318), and the events of a launch engine (R298, R308, R319). -/

namespace Sys2Proof.Machine

/-- An event of a unit that the panel has, whose guard holds. -/
theorem unitEvent_some {s t : State} {ok : Bool} {n : Nat} {o : Option State} (hok : ok = true) (h : o = some t) :
    unitEvent ok n s o = .next t := by
  rw [unitEvent, hok, if_pos rfl, event_some h]

@[simp] theorem State.launches_popPorts (s : State) (rs : List Reg) : (s.popPorts rs).launches = s.launches := by
  obtain ⟨_, _, h⟩ := s.popPorts_eq rs; rw [h]

section
variable {s t : State} {d a b : Reg} (ht : s.popPorts [a, b] = t) (hgo : t.mayGo 0 (s.operand a) = true)
  (hcheck : t.headerCheck (s.operand a) = none)
include ht hgo hcheck

theorem execLaunch_of_checked (hop : s.me.op = .none) (hmay : mayIssue { rd := [a, b], wr := [d] } s = true)
    (hopt : s.me.optimistic = false) (hfence : t.fenceOk .part = true) : execLaunch d a b s =
      .next ({ t.takeId with launches := s.launches ++
        [{ id := s.ids, quad := quadOf s.cur, pid := s.myPid, hdr := s.operand a, thr := some s.cur, pc := s.me.pc
           override := if b.toNat = 0 then none else some (s.operand b) }] } : State).await := by
  have hcur : t.cur = s.cur := by rw [← ht, State.cur_popPorts]
  have hpid : t.myPid = s.myPid := by rw [← ht, State.myPid_popPorts]
  have hids : t.ids = s.ids := by rw [← ht, State.ids_popPorts]
  have hpc : t.me.pc = s.me.pc := by rw [← ht, State.pc_popPorts]
  have hlaunches : t.launches = s.launches := by rw [← ht, State.launches_popPorts]
  have htopt : t.me.optimistic = false := by rw [← ht, State.optimistic_popPorts, hopt]
  unfold execLaunch
  rw [runReply_none hop]
  refine (runHead_act hmay (a := .keep _) ?_).trans rfl
  dsimp only
  rw [ht, htopt, if_neg Bool.false_ne_true, memWait_of_mayGo hgo, hcheck, Check.orElse_none, hfence, Bool.not_true,
    if_neg Bool.false_ne_true, hcur, hpid, hids, hpc, hlaunches]
  rfl

theorem execSpawn_of_checked (hmay : mayIssue { rd := [a, b] } s = true) (hopt : s.me.optimistic = false) (hfence : t.fenceOk .part = true)
    (hcnt : t.me.cnt.stcS < 255) : execSpawn a b s =
      .next ({ (t.addCount s.cur 1).takeId with launches := s.launches ++
        [{ id := s.ids, quad := quadOf s.cur, pid := s.myPid, hdr := s.operand a, thr := some s.cur, pc := s.me.pc
           tile := if b.toNat = 0 then none else some (s.operand b), spawn := true, counted := true }] } : State).passed := by
  have hcur : t.cur = s.cur := by rw [← ht, State.cur_popPorts]
  have hpid : t.myPid = s.myPid := by rw [← ht, State.myPid_popPorts]
  have hids : t.ids = s.ids := by rw [← ht, State.ids_popPorts]
  have hlaunches : t.launches = s.launches := by rw [← ht, State.launches_popPorts]
  have htopt : t.me.optimistic = false := by rw [← ht, State.optimistic_popPorts, hopt]
  have hroom : ¬ ctrMax 1 ≤ t.me.cnt.val 1 := Nat.not_le.mpr hcnt
  unfold execSpawn
  refine runHead_next hmay ?_
  dsimp only
  rw [ht, memWait_of_mayGo hgo, hcheck, Check.orElse_none, htopt, if_neg Bool.false_ne_true, hfence, Bool.not_true,
    if_neg Bool.false_ne_true, roomFor, if_neg hroom, hcur, hpid, hids, hlaunches]

theorem execSpawn_held (hmay : mayIssue { rd := [a, b] } s = true)
    (hhold : t.mayHold (.spawn (s.operand a) (if b.toNat = 0 then none else some (s.operand b))) = true) :
    execSpawn a b s = .next (t.held (.spawn (s.operand a) (if b.toNat = 0 then none else some (s.operand b)))).passed := by
  have hopt : t.me.optimistic = true := by
    simp only [State.mayHold, Bool.and_eq_true] at hhold
    exact hhold.1
  unfold execSpawn
  refine runHead_next hmay ?_
  dsimp only
  rw [ht, memWait_of_mayGo hgo, hcheck, Check.orElse_none, hopt, if_pos rfl, holdEffect_of_mayHold hhold]

end

/-! ## The engine -/

/-- The slot of a spawn hears of its refusal (R318). -/
def State.spawnAnswered (s : State) (tk : Nat) (pc : Word) (refusal : Option Word) : State :=
  match refusal with
  | none => s
  | some info => s.postOrReport tk 0x02 info pc

section
variable {s : State} {r : LaunchReq} {hdr : List Word} (hread : s.readHeader r = .ok hdr) (hlone : s.launches = [r])
include hread hlone

theorem execLaunchAccept_of_header (hback : r.back = none) (hspawn : r.spawn = false) :
    let ans := (s.headerFill r).submit r hdr
    execLaunchAccept r.id s = .next ((ans.2.dropLaunch r.id).answerLaunch r ans.1) := by
  unfold execLaunchAccept
  refine event_some ?_
  have hfind : (s.launches.find? fun x => decide (x.id = r.id) && !x.spawn) = some r := by simp [hlone, hspawn]
  rw [hfind, Option.bind_eq_bind, Option.bind_some, hback]
  dsimp only
  rw [hread]
  rfl

theorem execSpawnAccept_of_header {tk : Nat} (hspawn : r.spawn = true) (hcounted : r.counted = true) (hthr : r.thr = some tk) :
    let ans := (s.headerFill r).submit r hdr
    let left := (ans.2.dropLaunch r.id).endCount tk 1
    (fld ans.1 0 8 = 0 → execSpawnAccept r.id s = .next left)
    ∧ (fld ans.1 0 8 = 2 → execSpawnAccept r.id s = .next (left.postOrReport tk 0x02 (word (fld ans.1 8 8)) r.pc)) := by
  intro ans left
  have hfind : (s.launches.find? fun x => decide (x.id = r.id) && x.spawn) = some r := by simp [hlone, hspawn]
  have haccept : execSpawnAccept r.id s = event s (some (left.spawnAnswered tk r.pc (spawnRefusal ans.1))) := by
    unfold execSpawnAccept
    rw [hfind, Option.bind_eq_bind, Option.bind_some, hthr]
    simp only [hread, hcounted, if_true, Option.bind_eq_bind, Option.bind_some]
    dsimp only [left, ans]
    cases spawnRefusal ((s.headerFill r).submit r hdr).1 <;> rfl
  rw [haccept]
  refine ⟨fun h => ?_, fun h => ?_⟩
  · rw [spawnRefusal, h]
    rfl
  · rw [spawnRefusal, h]
    rfl

end

/-- A quad whose records stand leaves every launch record. -/
theorem State.launchRec_updQuad (s : State) (qi : Nat) (g : Quad → Quad) (hg : ∀ q, (g q).recs = q.recs) (pid : Nat) (handle : Word) :
    (s.updQuad qi g).launchRec pid handle = s.launchRec pid handle := by
  have hrec : (s.updQuad qi g).recOf pid handle = s.recOf pid handle := rfl
  unfold State.launchRec
  rw [hrec]
  cases s.recOf pid handle with
  | none => rfl
  | some x =>
    dsimp only
    rw [State.quad_updQuad]
    split
    · next h => rw [hg, h]
    · rfl

/-- The first waiting cell enters the ring of its context, which has room (R308). -/
theorem execReadyRingPush_of_room {s : State} {qi k : Nat} {cells : List Nat} (hqi : qi < 2304) (hcells : (s.quad qi).pendCells = k :: cells)
    (hroom : (s.quad qi).readyRoom (s.sharePid k) = true) : execReadyRingPush qi s =
      .next ((s.wr8 k (setFld (s.rd8 k) 62 1 0)).setQuad qi
        { s.quad qi with pendCells := cells, ready := (s.quad qi).ready ++ [(s.sharePid k, s.rd8 (k + 8))] }) := by
  have hfind : ((k :: cells).find? fun k => (s.quad qi).readyRoom (s.sharePid k)) = some k := List.find?_cons_of_pos hroom
  unfold execReadyRingPush
  refine unitEvent_some (decide_eq_true hqi) ?_
  dsimp only
  rw [hcells, hfind]
  simp only [Option.bind_eq_bind, Option.bind_some, List.erase_cons_head]
  rfl

theorem execReadyRecordPlace_of_ready {s : State} {qi : Nat} {rec : Nat × Word} {recs : List (Nat × Word)} (hqi : qi < 2304)
    (hready : (s.quad qi).ready = rec :: recs)
    (hhdr : ((s.updQuad qi fun q => { q with ready := recs }).launchRec rec.1 rec.2).hdr ≠ []) :
    execReadyRecordPlace qi s = .next ((s.updQuad qi fun q => { q with ready := recs }).placeRec rec.1 rec.2) := by
  have htail : (s.updQuad qi fun q => { q with ready := q.ready.tail }) = s.updQuad qi fun q => { q with ready := recs } := by
    rw [State.updQuad, State.updQuad, hready]
    rfl
  have hsame : s.launchRec rec.1 rec.2 = (s.updQuad qi fun q => { q with ready := recs }).launchRec rec.1 rec.2 :=
    (State.launchRec_updQuad s qi (fun q => { q with ready := recs }) (fun _ => rfl) rec.1 rec.2).symm
  unfold execReadyRecordPlace
  refine unitEvent_some (decide_eq_true hqi) ?_
  rw [hready]
  simp only [List.head?_cons, Option.bind_eq_bind, Option.bind_some]
  rw [htail, hsame, if_neg hhdr]
  rfl

end Sys2Proof.Machine

open Sys2Proof Sys2Proof.Machine

/-- Settles O36: a checked header's address goes to the engine, or is held; each event of the engine in the branch that its guard selects. -/
theorem launchAndSpawn : Obligations.LaunchAndSpawn := by
  unfold Obligations.LaunchAndSpawn
  refine ⟨?heads, ?engine⟩
  case heads =>
    intro s d a b hop x t r hgo hcheck
    refine ⟨fun hopt hfence => ⟨fun hmay => ?_, fun hmay hcnt => ?_⟩, fun hmay hhold => ?_⟩
    · exact execLaunch_of_checked rfl hgo hcheck hop hmay hopt hfence
    · exact execSpawn_of_checked rfl hgo hcheck hmay hopt hfence hcnt
    · exact execSpawn_held rfl hgo hcheck hmay hhold
  case engine =>
    intro s r hdr qi tk k f rec cells recs hread hback hqi ans left
    refine ⟨fun hlone hspawn => execLaunchAccept_of_header hread hlone hback hspawn,
      fun hlone hspawn hcounted hthr => execSpawnAccept_of_header hread hlone hspawn hcounted hthr, fun hwhy => ?_,
      fun hf hstage hop hshare howned => ?_, fun hcells hroom => execReadyRingPush_of_room hqi hcells hroom,
      fun hready => execReadyRecordPlace_of_ready hqi hready⟩
    · unfold State.submit
      exact if_pos hwhy
    · have hexec : exec (.depCellDecrement f.id) s = execDepCellDecrement f.id s := rfl
      rw [hexec, execDepCellDecrement, hf]
      refine event_some ?_
      rw [Option.bind_eq_bind, Option.bind_some, hstage, hop]
      simp only [hshare, Option.bind_eq_bind, Option.bind_some, howned]
      rfl
end

section
/-! SUPPORT. The events of the let-out detector on a panel with one probe (R283 to R285). -/

namespace Sys2Proof.Machine

section
variable {s : State} {p : Probe} (hlone : s.probes = [p])
include hlone

theorem State.dropProbe_lone : s.dropProbe p.id = { s with probes := [] } := by
  rw [State.dropProbe, hlone]
  simp

theorem execProbeSend_of_due {tk : Nat} {e : Edge1} (htk : tk < 73728) (hedge : s.edgeOf (s.pidOf tk) tk = some e)
    (hdue : 2048 + 4096 * (s.slot tk).probes ≤ (s.slot tk).chWaited) :
    ∃ t, execProbeSend tk s = .next t ∧ t.probes.length = 2 ∧ (t.slot tk).probes = (s.slot tk).probes + 1 := by
  let q : Probe := { id := s.ids, pid := s.pidOf tk, origin := s.relThread tk, waitNo := (s.slot tk).waitNo, lowest := s.relThread tk
                     target := 0, sent := (s.core (coreOf tk)).cycle }
  let u : State := { s.takeId with probes := s.probes ++ [q.add (s.relThread tk) e] }
  refine ⟨u.updSlot tk fun y => { y with probes := y.probes + 1 }, ?_, ?_, ?_⟩
  · unfold execProbeSend
    refine unitEvent_some (decide_eq_true htk) ?_
    simp only [hedge, Option.bind_eq_bind, Option.bind_some]
    rw [if_pos hdue]
    rfl
  · show (s.probes ++ [_]).length = 2
    rw [hlone]
    rfl
  · exact congrArg Slot.probes (State.slot_updSlot_same ..)

/-- A probe on its way at its target thread: lost, back at its origin, or on along the edge (R284). -/
theorem execProbeArrival_of_target {tk : Nat} (hgoing : p.returned = false) (htk : s.threadKey p.pid p.target = some tk) :
    (s.edgeOf p.pid tk = none ∨ s.probeOld p = true → execProbeArrival p.id s = .next { s with probes := [] })
    ∧ ∀ e, s.edgeOf p.pid tk = some e → s.probeOld p = false →
      (p.target ≠ p.origin → execProbeArrival p.id s = .next { s with probes := [p.add p.target e] })
      ∧ (p.target = p.origin → (s.slot tk).waitNo = p.waitNo → p.lowest = p.origin → p.cand = none →
        execProbeArrival p.id s = .next (({ s with probes := [] } : State).deadlock p tk)) := by
  have hfind : (s.probes.find? fun q => decide (q.id = p.id) && !q.returned) = some p := by simp [hlone, hgoing]
  have hdrop := State.dropProbe_lone hlone
  unfold execProbeArrival
  rw [hfind, Option.bind_eq_bind, Option.bind_some, htk, hdrop]
  dsimp only
  refine ⟨fun hlost => event_some ?_, fun e hedge hyoung => ⟨fun hother => event_some ?_, fun hback hwait hlow hcand => event_some ?_⟩⟩
  · cases hedge : s.edgeOf p.pid tk with
    | none => rfl
    | some e =>
      have hold : s.probeOld p = true := hlost.resolve_left (by rw [hedge]; exact nofun)
      dsimp only
      rw [if_pos hold]
      rfl
  · rw [hedge]
    dsimp only
    rw [hyoung, if_neg Bool.false_ne_true, if_neg fun h => hother h.1, hlone]
    simp
  · rw [hedge]
    dsimp only
    rw [hyoung, if_neg Bool.false_ne_true, if_pos ⟨hback, hwait⟩, if_neg (not_not.mpr hlow), if_pos hcand]
    rfl

theorem execProbeExpiry_of_old {tk : Nat} (hgoing : p.returned = false) (htk : s.threadKey p.pid p.origin = some tk)
    (hold : p.sent + 4096 ≤ (s.core (coreOf tk)).cycle) : execProbeExpiry p.id s = .next { s with probes := [] } := by
  have hfind : (s.probes.find? fun q => decide (q.id = p.id) && !q.returned) = some p := by simp [hlone, hgoing]
  have hprobe : s.probeOld p = true := by
    rw [State.probeOld, htk]
    exact decide_eq_true hold
  unfold execProbeExpiry
  refine event_some ?_
  rw [hfind, Option.bind_eq_bind, Option.bind_some, hprobe, if_pos rfl, State.dropProbe_lone hlone]
  rfl

/-- The candidate of a probe that is back grows at its home, while the channel is full (R285). -/
theorem execLetoutRequest_of_full {c : Nat × Nat} {qi : Nat} {x : ChanEnt} (hback : p.returned = true) (hcand : p.cand = some c)
    (hhome : s.homeEntry p.pid c.1 = some (qi, x)) (hvalid : x.valid = true) (hfull : x.full = true) (hstate : x.state = 0) :
    let g := Nat.min (Nat.max x.step 1) x.allowance
    execLetoutRequest p.id s = .next (({ s with probes := [] } : State).setChan qi
      { x with letLim := x.letLim + g, allowance := x.allowance - g, locnt := Nat.min 0xFFFF (x.locnt + 1) }) := by
  have hfind : (s.probes.find? fun q => decide (q.id = p.id) && q.returned) = some p := by simp [hlone, hback]
  intro g
  unfold execLetoutRequest
  refine event_some ?_
  rw [hfind, Option.bind_eq_bind, Option.bind_some, hcand, Option.bind_eq_bind, Option.bind_some, State.dropProbe_lone hlone, hhome]
  dsimp only
  rw [hvalid, hfull, hstate]
  rfl

end

end Sys2Proof.Machine

open Sys2Proof Sys2Proof.Machine

/-- Settles O34: each event of the detector in the branch that its guard selects. -/
theorem letOutDetector : Obligations.LetOutDetector := by
  unfold Obligations.LetOutDetector
  intro s tk qi p e x c htk hlone
  refine ⟨fun hedge hdue => execProbeSend_of_due hlone htk hedge hdue, fun hgoing hkey => ?_,
    fun hgoing hkey hold => execProbeExpiry_of_old hlone hgoing hkey hold,
    fun hback hcand hhome hvalid hfull hstate => execLetoutRequest_of_full hlone hback hcand hhome hvalid hfull hstate⟩
  obtain ⟨hlost, hgo⟩ := execProbeArrival_of_target hlone hgoing hkey
  exact ⟨hlost, fun hedge hyoung => (hgo e hedge hyoung).1, fun hedge hyoung => (hgo e hedge hyoung).2⟩
end

section
/-! SUPPORT. Run lists and binding (R302 to R306). -/

namespace Sys2Proof.Machine

theorem Quad.list_setList (q : Quad) (pid prio n : Nat) (es : List Entry) :
    (q.setList pid prio es).list pid n = if n = prio then es else q.list pid n := by
  rw [Quad.setList, Quad.list, FMap.get_set]
  by_cases h : n = prio
  · rw [if_pos h, if_pos (by rw [h])]
  · rw [if_neg h, if_neg (by omega), Quad.list]

/-! ## A waiting piece enters its list (R302) -/

/-- The state in which the piece of a record has entered a list of a quad. -/
def State.enqueued (s : State) (qi rec d : Nat) (r : LaunchRec) (e : Entry) (left : List (Nat × Piece)) : State :=
  (s.updQuad d fun q => q.setList r.pid (hdrPrio r.hdr) (q.list r.pid (hdrPrio r.hdr) ++ [e])).updQuad qi fun q =>
    { q with recs := FMap.set {} q.recs rec { r with waiting := left } }

theorem State.list_enqueued (s : State) (qi rec d : Nat) (r : LaunchRec) (e : Entry) (left : List (Nat × Piece)) :
    ((s.enqueued qi rec d r e left).quad d).list r.pid (hdrPrio r.hdr) = (s.quad d).list r.pid (hdrPrio r.hdr) ++ [e] := by
  have hlist : ((s.updQuad d fun q => q.setList r.pid (hdrPrio r.hdr) (q.list r.pid (hdrPrio r.hdr) ++ [e])).quad d).list r.pid (hdrPrio r.hdr)
      = (s.quad d).list r.pid (hdrPrio r.hdr) ++ [e] := by
    rw [State.quad_updQuad_same, Quad.list_setList, if_pos rfl]
  rw [State.enqueued, State.quad_updQuad]
  split
  · next h => rw [← h]; exact hlist
  · exact hlist

theorem State.waiting_enqueued (s : State) (qi rec d : Nat) (r : LaunchRec) (e : Entry) (left : List (Nat × Piece)) :
    (FMap.get {} ((s.enqueued qi rec d r e left).quad qi).recs rec).waiting = left := by
  rw [State.enqueued, State.quad_updQuad_same, FMap.get_set_same]

theorem execPieceEnqueue_of_room {s : State} {qi rec d : Nat} {r : LaunchRec} {w : Nat × Piece} (hqi : qi < 2304)
    (hr : FMap.get {} (s.quad qi).recs rec = r) (hw : r.waiting = [w]) (hd : s.physQuad r.pid w.1 = some d)
    (hroom : (s.quad d).entries r.pid < 4032) (hfirst : ∀ x ∈ (s.quad qi).recs, x.2.seq < r.seq → x.2.waiting = []) :
    execPieceEnqueue qi rec s = .next (s.enqueued qi rec d r
      { handle := word (s.pAt qi r.pid * 65536 + rec % 256), piece := w.2, since := (s.region (regionOf d)).cycle } []) := by
  have hearlier : ((s.quad qi).recs.any fun e => decide (e.2.pid = r.pid ∧ e.2.seq < r.seq) && e.2.waiting.any fun v => decide (v.1 = w.1)) = false := by
    rw [List.any_eq_false]
    intro x hx hboth
    rw [Bool.and_eq_true, decide_eq_true_eq] at hboth
    obtain ⟨⟨_, hseq⟩, hany⟩ := hboth
    rw [hfirst x hx hseq] at hany
    exact Bool.false_ne_true hany
  unfold execPieceEnqueue
  refine unitEvent_some (decide_eq_true hqi) ?_
  rw [hr]
  dsimp only
  rw [hw, List.find?_cons_of_pos (by rw [hearlier, hd]; simpa using hroom)]
  dsimp only
  rw [hd, List.erase_cons_head]
  rfl

/-! ## Binding (R303, R304) -/

/-- The head of a list of a context that a bind may take, with its first unit and its header (R303). -/
def State.bindHead (s : State) (qi prio : Nat) : Option (Nat × Nat × Entry × List Word) :=
  ((s.quad qi).list (s.ctx qi).pid prio).head?.bind fun e =>
    let h := (s.launchRec (s.ctx qi).pid e.handle).hdr
    if hdrEff h ≤ 65536 - s.effectUse qi then (s.allotFor qi (s.ctx qi).pid h).map fun u => (prio, u, e, h) else none

section
variable {s : State} {qi prio u : Nat} {e : Entry} {rest : List Entry} {h : List Word}

theorem State.bindHead_none (hx : ∀ x, ((s.quad qi).list (s.ctx qi).pid prio).head? = some x →
      65536 - s.effectUse qi < hdrEff (s.launchRec (s.ctx qi).pid x.handle).hdr
      ∨ s.allotFor qi (s.ctx qi).pid (s.launchRec (s.ctx qi).pid x.handle).hdr = none) : s.bindHead qi prio = none := by
  unfold State.bindHead
  cases hhead : ((s.quad qi).list (s.ctx qi).pid prio).head? with
  | none => rfl
  | some x =>
    rw [Option.bind_some]
    rcases hx x hhead with hbig | hfull
    · rw [if_neg (by omega)]
    · dsimp only
      rw [hfull]
      exact ite_self _

theorem State.bindHead_some (hlist : (s.quad qi).list (s.ctx qi).pid prio = e :: rest) (hh : (s.launchRec (s.ctx qi).pid e.handle).hdr = h)
    (heff : hdrEff h ≤ 65536 - s.effectUse qi) (hu : s.allotFor qi (s.ctx qi).pid h = some u) : s.bindHead qi prio = some (prio, u, e, h) := by
  rw [State.bindHead, hlist, List.head?_cons, Option.bind_some, hh]
  dsimp only
  rw [if_pos heff, hu]
  rfl

/-- The highest list whose head may be bound. -/
theorem State.findSome_bindHead (hprio : prio ≤ 3) (hhigher : ∀ n ≤ 3, prio < n → s.bindHead qi n = none) {b : Nat × Nat × Entry × List Word}
    (hb : s.bindHead qi prio = some b) : [3, 2, 1, 0].findSome? (s.bindHead qi) = some b := by
  have hcase : prio = 3 ∨ prio = 2 ∨ prio = 1 ∨ prio = 0 := by omega
  rcases hcase with rfl | rfl | rfl | rfl
  · simp [List.findSome?, hb]
  · simp [List.findSome?, hb, hhigher 3]
  · simp [List.findSome?, hb, hhigher 3, hhigher 2]
  · simp [List.findSome?, hb, hhigher 3, hhigher 2, hhigher 1]

end

theorem execTaskBind_of_head {s : State} {qi tk prio u : Nat} {e : Entry} {h : List Word} (hqi : qi < 2304) (htk : s.bindSlot qi = some tk)
    (hready : [3, 2, 1, 0].findSome? (s.bindHead qi) = some (prio, u, e, h)) (hbind : (s.region (regionOf qi)).mayBind = true)
    (hhalt : (s.quad qi).halted = false) (hswap : (s.quad qi).swapping = false) (hcont : (s.quad qi).contained = false)
    (hleave : (s.ctx qi).leaving = false) : execTaskBind qi s = .next (s.bindEntry qi tk (s.ctx qi).pid prio u e h) := by
  unfold execTaskBind
  refine unitEvent_some (decide_eq_true hqi) ?_
  rw [htk, Option.bind_eq_bind, Option.bind_some]
  show (List.findSome? (s.bindHead qi) [3, 2, 1, 0]).bind _ = _
  rw [hready, Option.bind_some, hbind, hhalt, hswap, hcont, hleave]
  rfl

theorem State.slot_bindEntry (s : State) (qi tk pid prio u : Nat) (e : Entry) (h : List Word) :
    (s.bindEntry qi tk pid prio u e h).slot tk = boundSlot (s.slot tk) h e.handle (e.next (hdrPin h)) prio u := by
  let left := if hdrPin h && decide (e.nextTile + 1 < e.piece.tiles) then { e with nextTile := e.nextTile + 1 } :: ((s.quad qi).list pid prio).tail
    else ((s.quad qi).list pid prio).tail
  exact State.slot_updSlot_same (s.updQuad qi fun q => { q.setList pid prio left with allots := q.allots ++ [(pid, u, hdrSpa h)] }) tk
    fun x => boundSlot x h e.handle (e.next (hdrPin h)) prio u

theorem State.list_bindEntry (s : State) (qi tk pid prio u : Nat) (e : Entry) (h : List Word) :
    ((s.bindEntry qi tk pid prio u e h).quad qi).list pid prio =
      if hdrPin h && decide (e.nextTile + 1 < e.piece.tiles) then { e with nextTile := e.nextTile + 1 } :: ((s.quad qi).list pid prio).tail
      else ((s.quad qi).list pid prio).tail := by
  let left := if hdrPin h && decide (e.nextTile + 1 < e.piece.tiles) then { e with nextTile := e.nextTile + 1 } :: ((s.quad qi).list pid prio).tail
    else ((s.quad qi).list pid prio).tail
  have hq : (s.bindEntry qi tk pid prio u e h).quad qi =
      { (s.quad qi).setList pid prio left with allots := (s.quad qi).allots ++ [(pid, u, hdrSpa h)] } :=
    State.quad_updQuad_same s qi fun q => { q.setList pid prio left with allots := q.allots ++ [(pid, u, hdrSpa h)] }
  rw [hq]
  exact (Quad.list_setList (s.quad qi) pid prio prio left).trans (if_pos rfl)

/-! ## Promotion (R305) -/

theorem execRunListPromotion_of_old {s : State} {qi list idx : Nat} {e : Entry} (hqi : qi < 2304) (hlist : list < 3) (hctx : (s.quad qi).ctxs ≠ [])
    (he : ((s.quad qi).list (s.ctx qi).pid list)[idx]? = some e) (hold : e.since + 2 ^ 20 ≤ (s.region (regionOf qi)).cycle) :
    let q := s.quad qi
    let pid := (s.ctx qi).pid
    let q1 := q.setList pid list ((q.list pid list).eraseIdx idx)
    execRunListPromotion qi list idx s = .next (s.setQuad qi (q1.setList pid (list + 1)
      (q1.list pid (list + 1) ++ [{ e with since := (s.region (regionOf qi)).cycle }]))) := by
  intro q pid q1
  obtain ⟨c, cs, hcs⟩ := List.exists_cons_of_ne_nil hctx
  have hc : (s.ctx qi).pid = c.pid := by rw [State.ctx, hcs]; rfl
  rw [hc] at he
  unfold execRunListPromotion
  refine unitEvent_some (decide_eq_true hqi) ?_
  rw [hcs, List.findSome?_cons]
  dsimp only
  rw [he, Option.bind_eq_bind, Option.bind_some, if_pos ⟨hlist, hold⟩]
  simp only [q1, q, pid, hc]
  rfl

end Sys2Proof.Machine

open Sys2Proof Sys2Proof.Machine

/-- Settles O37: a piece enters its list; the highest head that fits binds; an old entry moves up. -/
theorem runListsAndBinding : Obligations.RunListsAndBinding := by
  unfold Obligations.RunListsAndBinding
  intro s qi rec d idx prio w e rest tk u hqi hprio q r pid now hdr h free piece
  refine ⟨fun hw hd hroom hfirst => ?enqueue, fun hhigher hlist htk heff hu hbind hhalt hswap hcont hleave => ?bind, rfl, rfl,
    fun list hlist hctx he hold => ?promote⟩
  case enqueue =>
    exact ⟨_, execPieceEnqueue_of_room hqi rfl hw hd hroom hfirst, _, rfl, rfl, State.list_enqueued .., State.waiting_enqueued ..⟩
  case bind =>
    have hready := State.findSome_bindHead hprio (fun n hn hlt => State.bindHead_none (hhigher n hn hlt))
      (State.bindHead_some hlist rfl heff hu)
    refine ⟨_, execTaskBind_of_head hqi htk hready hbind hhalt hswap hcont hleave, ?_⟩
    rw [State.slot_bindEntry, State.list_bindEntry]
    refine ⟨rfl, rfl, rfl, rfl, rfl, rfl, rfl, rfl, rfl, ?_⟩
    rw [hlist, List.tail_cons]
    by_cases hmore : hdrPin h = true ∧ e.nextTile + 1 < e.piece.tiles
    · rw [if_pos hmore, if_pos (by simpa using hmore)]
    · rw [if_neg hmore, if_neg (by simpa using hmore)]
  case promote =>
    refine ⟨_, execRunListPromotion_of_old hqi hlist hctx he hold, ?_, ?_⟩
    · rw [State.quad_setQuad_same, Quad.list_setList, if_pos rfl, Quad.list_setList, if_neg (by omega)]
    · rw [State.quad_setQuad_same, Quad.list_setList, if_neg (by omega), Quad.list_setList, if_pos rfl]
end

section
/-! SUPPORT. TEND (R325), the drain of held records (R310, R397) and the cycle allowance's end (R312). -/

namespace Sys2Proof.Machine

/-! ## TEND -/

theorem execTend_of_drained {s : State} (hkind : s.me.kind ≠ 3) (hcnt : s.me.cnt = {}) (hpending : s.noPending s.cur = true)
    (hfence : s.me.kind = 2 → s.fenceOk .dom = true) : execTend s = .next (s.endTask s.cur) := by
  unfold execTend
  refine (runHead_act (mayIssue_nothing s) (a := .keep (s.endTask s.cur)) ?_).trans rfl
  show (if s.me.kind = 3 then _ else if (!(decide (s.me.cnt.ldc = 0 ∧ s.me.cnt.cpc = 0 ∧ s.me.cnt.tlc = 0) && s.noPending s.cur)) = true then _
    else if (decide (s.me.kind = 2) && !(s.fenceOk .dom && decide (s.me.cnt.stcX = 0))) = true then _ else _) = _
  rw [if_neg hkind, hcnt, hpending, if_neg (by decide)]
  refine if_neg fun h => ?_
  rw [Bool.and_eq_true, decide_eq_true_eq] at h
  obtain ⟨h2, hopen⟩ := h
  rw [hfence h2] at hopen
  revert hopen
  decide

theorem execTend_of_service {s : State} (hkind : s.me.kind = 3) : execTend s = .next (s.enterTrap s.cur 0x02 0 s.me.pc) :=
  runHead_trap (mayIssue_nothing s) (if_pos hkind)

/-! ## Memory under the engines' reads and the invalidations of a store -/

theorem State.mem_foldl {α : Type} {f : State → α → State} (h : ∀ (s : State) (a : α), (f s a).mem = s.mem) (l : List α) (s : State) :
    (l.foldl f s).mem = s.mem := by
  induction l generalizing s with
  | nil => rfl
  | cons a l ih => rw [List.foldl_cons, ih, h]

theorem State.mem_noteBlock (s : State) (qi k : Nat) : (s.noteBlock qi k).mem = s.mem := by
  unfold State.noteBlock
  split <;> rfl

theorem State.mem_tlbFill (s : State) (ck pid va : Nat) (need : Perm) : (s.tlbFill ck pid va need).mem = s.mem := by
  unfold State.tlbFill
  dsimp only
  split
  · rfl
  · split
    · rfl
    · split
      · rfl
      · split <;> rfl

theorem State.mem_engineFill (s : State) (tk pid : Nat) (p : Perm) (a : Word) (n : Nat) : (s.engineFill tk pid p a n).mem = s.mem := by
  unfold State.engineFill
  refine State.mem_foldl (fun t i => ?_) _ s
  dsimp only
  split
  · exact t.mem_noteBlock _ _
  · split
    · exact t.mem_noteBlock _ _
    · rfl
  · exact t.mem_tlbFill _ _ _ _
  · split <;> rfl
  · rfl

theorem State.mem_drainWrite (s : State) (d : DrainTask) (ks : List (Nat × Byte × Byte)) :
    (s.drainWrite d ks).mem = ks.foldl (fun m x => FMap.set 0 m x.1 (keptBits (memByte m x.1) x.2.1 x.2.2)) s.mem :=
  State.mem_foldl (f := fun t l => t.invalidateOthers (dieOf (quadOf d.thr)) l) (fun _ _ => rfl) _ _

/-! ## The drain -/

/-- The state after a record of entry 0 of a drain that has been performed, sent or refused; none while it waits. -/
def State.drainEnds (s : State) (qi : Nat) (d : DrainTask) (rest : List Effect) : DrainEnd → Option State
  | .done t => some (t.setDrain qi 0 { d with recs := rest })
  | .sent t id => some (t.setDrain qi 0 { d with sent := some id })
  | .fail cause info => some ((s.drainReport d cause info).setDrain qi 0 { d with failed := true, recs := rest })
  | _ => none

/-- Its record is not handed back, nor held up by another part of the machine. -/
def DrainEnd.plain : DrainEnd → Bool
  | .later _ | .bad _ _ _ => false
  | _ => true

section
variable {s : State} {qi : Nat} {d : DrainTask} (hqi : qi < 2304) (hdrain : (s.quad qi).drain = [d]) (hfaulted : d.faulted = false)
  (hcont : (s.quad qi).contained = false)
include hqi hdrain hfaulted hcont

theorem execEffectDrainRecord_sent {sent : Nat} (hsent : d.sent = some sent) : execEffectDrainRecord qi 0 s =
    event s (if s.sentPending sent then none else some (s.setDrain qi 0 { d with sent := none, recs := d.recs.tail })) := by
  unfold execEffectDrainRecord
  rw [unitEvent, quadOk, decide_eq_true hqi, if_pos rfl]
  congr 1
  rw [hdrain, List.getElem?_cons_zero, Option.bind_eq_bind, Option.bind_some, hfaulted, hcont, hsent]
  rfl

theorem execEffectDrainRecord_empty (hsent : d.sent = none) (hrecs : d.recs = []) :
    execEffectDrainRecord qi 0 s = .next (s.setDrain qi 0 d) := by
  unfold execEffectDrainRecord
  refine unitEvent_some (decide_eq_true hqi) ?_
  rw [hdrain, List.getElem?_cons_zero, Option.bind_eq_bind, Option.bind_some, hfaulted, hcont, hsent, hrecs]
  rfl

theorem execEffectDrainRecord_record {e : Effect} {rest : List Effect} {r : DrainEnd} (hsent : d.sent = none) (hrecs : d.recs = e :: rest)
    (hruns : s.runs d.pid d.thr = true) (hone : (s.drainFill d e).drainOne qi d e = r) (hplain : r.plain = true) :
    execEffectDrainRecord qi 0 s = event s (s.drainEnds qi d rest r) := by
  unfold execEffectDrainRecord
  rw [unitEvent, quadOk, decide_eq_true hqi, if_pos rfl]
  congr 1
  rw [hdrain, List.getElem?_cons_zero, Option.bind_eq_bind, Option.bind_some, hcont]
  cases d
  dsimp only at hsent hrecs hruns hfaulted
  subst hsent hrecs hfaulted
  simp only [Bool.or_self, Bool.false_eq_true, if_false, hruns, Bool.not_true, hone]
  cases r with
  | later => exact absurd hplain Bool.false_ne_true
  | bad => exact absurd hplain Bool.false_ne_true
  | done => rfl
  | sent => rfl
  | wait => rfl
  | fail => rfl

end

section
variable {s : State} {qi k n op : Nat} {d : DrainTask} {a b tag : Word} {bs : List WByte} {ks : List (Nat × Byte × Byte)} {data : List Byte}

theorem State.drainOne_store (h : s.drainBytes d a bs = .ok ks) : s.drainOne qi d (.store a bs) = .done (s.drainWrite d ks) := by
  unfold State.drainOne
  dsimp only
  rw [h]

/-- A held RED at a scratchpad acts at its address. -/
theorem State.drainOne_red (hrsn : redRsn n b = 0) (h : s.drainKey d permRW a n = .ok k) (hhbm : isHbm k = false) :
    s.drainOne qi d (.red a op n b) = .done (s.atomicAt d.thr k n (.amo op b) none).2 := by
  let f : Flight := { id := 0, thr := d.thr, pid := d.pid, addr := a, n, op := .amo op b }
  have hfr : f.rsn = 0 := by
    show redRsn n b = 0
    exact hrsn
  have hred : s.drainRed f k = some (s.atomicAt d.thr k n (.amo op b) none).2 := by
    unfold State.drainRed State.runAtomic
    rw [hhbm, hfr]
    rfl
  unfold State.drainOne
  dsimp only
  rw [h]
  dsimp only
  rw [hred]

theorem State.drainOne_dec (h : s.drainKey d permRW a 16 = .ok k) : s.drainOne qi d (.dec a) = .done (s.decCell k) := by
  unfold State.drainOne
  dsimp only
  rw [h]

theorem State.drainOne_msg_none (h : s.msgPlace d.pid a = none) : s.drainOne qi d (.msg a tag data) = .fail 0x07 a := by
  unfold State.drainOne
  dsimp only
  rw [h]

theorem State.drainOne_msg_some {p : Place} (h : s.msgPlace d.pid a = some p) (hroom : (s.core (coreOf d.thr)).txRoom = true) :
    s.drainOne qi d (.msg a tag data) = .sent (s.post d.thr p a tag data false d.handle) s.ids := by
  unfold State.drainOne
  dsimp only
  rw [h]
  dsimp only
  rw [hroom]
  rfl

end

/-- A held push to an entry that the quad keeps (R287; log entry 60). -/
theorem State.drainPush_of_entry {s : State} {qi k : Nat} {d : DrainTask} {data : List Byte} {ch : ChanEnt} (hch : s.chanAt qi d.pid k = some ch) :
    (ch.valid = false → s.drainPush qi d k data false = .fail 0x0A (word (k + 6 * 4096)))
    ∧ (ch.valid = true → ch.state = 2 → s.drainPush qi d k data false = .fail 0x0A (word (k + 5 * 4096)))
    ∧ (ch.valid = true → ch.state = 0 → ch.closed = false →
      (ch.writerRoom = false → s.drainPush qi d k data false = .wait)
      ∧ (ch.writerRoom = true → s.drainPush qi d k data false = .sent (s.sendPush d.thr ch data false false d.handle) s.ids)) := by
  unfold State.drainPush
  rw [hch]
  dsimp only
  refine ⟨fun hv => ?_, fun hv hst => ?_, fun hv hst hcl => ⟨fun hroom => ?_, fun hroom => ?_⟩⟩
  · rw [hv]; rfl
  · rw [hv, hst]; rfl
  · rw [hv, hst, hcl, hroom]; rfl
  · rw [hv, hst, hcl, hroom]; rfl

end Sys2Proof.Machine

open Sys2Proof Sys2Proof.Machine

/-- Settles O38: TEND in its branches, each record of a drain by what becomes of it, and the end of the cycle allowance. -/
theorem tasksEndAndDrain : Obligations.TasksEndAndDrain := by
  unfold Obligations.TasksEndAndDrain
  intro s qi tk d e rest a b tag k n op sent p ch data tile bs ks hqi htk drained past gone lost filled
  refine ⟨fun hkind hcnt hpending hfence => execTend_of_drained hkind hcnt hpending hfence, fun hkind => execTend_of_service hkind,
    fun hdrain hfaulted hcont => ⟨fun hsent => ?sent, fun hsent hrecs => ?empty, fun hsent hrecs hruns => ?record⟩,
    fun hst hallow hcyc hraised hopt => ?cycles⟩
  case sent =>
    have hexec : exec (.effectDrainRecord qi 0) s = execEffectDrainRecord qi 0 s := rfl
    rw [hexec, execEffectDrainRecord_sent hqi hdrain hfaulted hcont hsent]
    refine ⟨fun hpend => ?_, fun hpend => ?_⟩
    · rw [hpend]; rfl
    · rw [hpend]; rfl
  case empty =>
    refine (execEffectDrainRecord_empty hqi hdrain hfaulted hcont hsent hrecs).trans ?_
    have herase : (s.updQuad qi fun q => { q with drain := q.drain.eraseIdx 0 }) = s.updQuad qi fun q => { q with drain := [] } := by
      rw [State.updQuad, State.updQuad, hdrain]
      rfl
    rw [State.setDrain, if_pos hrecs, herase]
  case record =>
    have hexec : exec (.effectDrainRecord qi 0) s = execEffectDrainRecord qi 0 s := rfl
    have hrecord {r : DrainEnd} (hone : (s.drainFill d e).drainOne qi d e = r) (hplain : r.plain = true) :=
      execEffectDrainRecord_record hqi hdrain hfaulted hcont hsent hrecs hruns hone hplain
    have hpast {t : State} (hone : (s.drainFill d e).drainOne qi d e = .done t) : exec (.effectDrainRecord qi 0) s = past t :=
      hrecord hone rfl
    have hgone {t : State} (hone : (s.drainFill d e).drainOne qi d e = .sent t s.ids) : exec (.effectDrainRecord qi 0) s = gone t :=
      hrecord hone rfl
    have hlost {cause : Nat} {info : Word} (hone : (s.drainFill d e).drainOne qi d e = .fail cause info) :
        exec (.effectDrainRecord qi 0) s = lost cause info := hrecord hone rfl
    refine ⟨fun he hbytes => ?_, fun he hrsn hkey hhbm => hpast ?_, fun he hkey => hpast ?_, fun he => hgone ?_, fun he => ?_, fun he hch => ?_⟩
    · subst he
      refine ⟨hpast (State.drainOne_store hbytes), ?_⟩
      rw [State.mem_drainWrite]
      have hmem : filled.mem = s.mem := State.mem_engineFill ..
      rw [hmem]
    · subst he
      exact State.drainOne_red hrsn hkey hhbm
    · subst he
      exact State.drainOne_dec hkey
    · subst he
      rfl
    · subst he
      exact ⟨fun hp => hlost (State.drainOne_msg_none hp), fun hp hroom => hgone (State.drainOne_msg_some hp hroom)⟩
    · subst he
      obtain ⟨hinvalid, hpoison, hopen⟩ := State.drainPush_of_entry (data := data) hch
      refine ⟨fun hv => hlost (hinvalid hv), fun hv hst => hlost (hpoison hv hst), fun hv hst hcl => ⟨fun hroom => ?_, fun hroom => ?_⟩⟩
      · exact hrecord ((hopen hv hst hcl).1 hroom) rfl
      · exact hgone ((hopen hv hst hcl).2 hroom)
  case cycles =>
    have hexec : exec (.cycleAllowanceExhausted tk) s = execCycleAllowanceExhausted tk s := rfl
    rw [hexec, execCycleAllowanceExhausted]
    refine unitEvent_some (decide_eq_true htk) ?_
    dsimp only
    have hopen : ¬ ((s.slot tk).st = .free ∨ (s.slot tk).sr.allow.getLsbD 48 = true ∨ fld (s.slot tk).sr.allow 0 48 ≠ 0
        ∨ (s.slot tk).task.cycRaised = true) := by
      rw [hallow, hcyc, hraised]
      simp [hst]
    rw [if_neg hopen, hopt]
    rfl
end

section
/-! SUPPORT. Gangs: the head and the join (R171 to R173). -/

namespace Sys2Proof.Machine

theorem spaceCheck_scratchpad {super : Bool} {x : Word} (hspace : space x = 0) (hzero : mustBeZero x = true) : spaceCheck super x = none := by
  rw [spaceCheck_eq, hzero, hspace]
  simp

/-- GANG behind its checks enters the order and waits for the join (R171). -/
theorem execGang_enters {s : State} {a : Reg} (hop : s.me.op = .none) (hmay : mayIssue { rd := [a] } s = true)
    (hspace : space (s.operand a) = 0) (hwindow : window (s.operand a) = 0) (halign : (s.operand a).toNat % 32 = 0)
    (hzero : mustBeZero (s.operand a) = true) (hcheck : (s.popPorts [a]).localCheck s.cur permR (s.operand a) 32 = none)
    (hgo : (s.popPorts [a]).mayGo 0 (s.operand a) = true) :
    exec (.gang a) s = .next ((((s.popPorts [a]).takeId.enterOp (.gang s.ids (slotNo s.cur) true (s.operand a) s.me.pc)).await).blockMe
      (.gang s.ids)) := by
  have hexec : exec (.gang a) s = execGang a s := rfl
  rw [hexec, execGang, runReply_none hop, runHead_of_mayIssue hmay]
  dsimp only
  rw [spaceCheck_scratchpad hspace hzero, memWait_of_mayGo hgo, State.cur_popPorts, hcheck, State.pc_popPorts, State.ids_popPorts]
  simp only [hspace, hwindow, halign, failIf, firstTrap, Check.orElse_none, Act.run, and_self, decide_true, Bool.not_true, ne_eq,
    not_true_eq_false, decide_false, Bool.false_eq_true, if_false]

/-- The four oldest entries of a quad's gang sequences (R172). -/
def State.joinEntries (s : State) (qi : Nat) : List JoinEnt :=
  [0, 1, 2, 3].filterMap fun c => firstGang (qi * 4 + c) [] (s.core (qi * 4 + c)).slice.ops

/-- What an entry's descriptor still waits for (R173). -/
def State.descWaits (s : State) (e : JoinEnt) : Bool :=
  s.owned (s.localKey (e.ck * 8) (offset e.addr)) 32 || s.storeDue (agentOf e.ck e.slot) s.ids (s.localKey (e.ck * 8) (offset e.addr)) 32

theorem not_join_waits {q : Quad} {n : Nat} (hlen : n = 4) (hhalt : q.halted = false) (hcont : q.contained = false) :
    ¬ (n ≠ 4 ∨ q.halted = true ∨ q.contained = true) := by
  rw [hhalt, hcont]
  exact fun h => h.elim (absurd hlen) (fun h => h.elim nofun nofun)

/-- Entries with nothing before them wait for no plane and no block. -/
theorem any_before_nil {es : List JoinEnt} (h : ∀ e ∈ es, e.before = []) :
    (es.any fun e => loadThenSwap e.before || e.before.any SliceOp.stages) = false := by
  rw [List.any_eq_false]
  intro e he
  rw [h e he]
  decide

/-- Of idle descriptors none takes part. -/
theorem filter_active_nil {es : List JoinEnt} {desc : JoinEnt → GangDesc} (h : ∀ e ∈ es, (desc e).idle = true) :
    (es.map fun e => (e, desc e)).filter (fun x => !x.2.idle) = [] := by
  simp only [List.filter_eq_nil_iff, List.forall_mem_map, Bool.not_eq_true', Bool.not_eq_false]
  exact h

section
variable {s : State} {qi : Nat} {es : List JoinEnt} (hqi : qi < 2304) (hes : s.joinEntries qi = es) (hlen : es.length = 4)
  (hhalt : (s.quad qi).halted = false) (hcont : (s.quad qi).contained = false) (hbefore : ∀ e ∈ es, e.before = [])
include hqi hes hlen hhalt hcont hbefore

/-- A bad address of a c28 entry voids the gang (R173). -/
theorem execGangJoin_bad {f : JoinFail} (hf : s.joinAddr es = some f) : exec (.gangJoin qi) s = .next (s.voidGang es f) := by
  have hexec : exec (.gangJoin qi) s = execGangJoin qi s := rfl
  rw [hexec]
  refine unitEvent_some (by simpa [quadOk] using hqi) ?_
  dsimp only
  rw [List.filterMap_map]
  have hentries : List.filterMap ((fun ck => firstGang ck [] (s.core ck).slice.ops) ∘ fun c => qi * 4 + c) (List.range 4) = es := hes
  rw [hentries, if_neg (not_join_waits hlen hhalt hcont), any_before_nil hbefore, if_neg Bool.false_ne_true, hf]
  rfl

/-- Four idle entries whose descriptors can be read leave the order (R173). -/
theorem execGangJoin_idle (hf : s.joinAddr es = none)
    (hidle : ∀ e ∈ es, s.descWaits e = false ∧ (s.gangDesc e).idle = true) :
    exec (.gangJoin qi) s = .next (es.foldl (fun u e => u.joinOne s.ids e (s.gangDesc e)) s.takeId) := by
  have hexec : exec (.gangJoin qi) s = execGangJoin qi s := rfl
  rw [hexec]
  refine unitEvent_some (by simpa [quadOk] using hqi) ?_
  dsimp only
  rw [List.filterMap_map]
  have hentries : List.filterMap ((fun ck => firstGang ck [] (s.core ck).slice.ops) ∘ fun c => qi * 4 + c) (List.range 4) = es := hes
  rw [hentries, if_neg (not_join_waits hlen hhalt hcont), any_before_nil hbefore, if_neg Bool.false_ne_true, hf]
  dsimp only
  have hwaits : (es.any fun e => s.descWaits e) = false := by
    simpa only [List.any_eq_false, Bool.not_eq_true] using fun e he => (hidle e he).1
  simp only [State.descWaits] at hwaits
  rw [hwaits, if_neg Bool.false_ne_true, filter_active_nil fun e he => (hidle e he).2]
  dsimp only [State.joinCheck]
  rw [List.foldl_map]
  rfl

end

end Sys2Proof.Machine

open Sys2Proof Sys2Proof.Machine

/-- Settles O41: GANG enters the order behind its checks; a join of four entries with nothing before them evaluates its checks to
the void gang, or to the entries' leaving. -/
theorem gangsJoin : Obligations.GangsJoin := by
  unfold Obligations.GangsJoin
  intro s a qi es f hqi
  refine ⟨fun hop hmay hspace hwindow halign hzero hcheck hgo => execGang_enters hop hmay hspace hwindow halign hzero hcheck hgo,
    fun hes hlen hhalt hcont hbefore => ⟨fun hf => execGangJoin_bad hqi hes hlen hhalt hcont hbefore hf, fun hf hidle => ?_⟩⟩
  refine execGangJoin_idle hqi hes hlen hhalt hcont hbefore hf fun e he => ?_
  obtain ⟨howned, hdue, hdesc⟩ := hidle e he
  exact ⟨by rw [State.descWaits, howned, hdue, Bool.or_false], hdesc⟩

end

section
/-! SUPPORT. The heads of the yoke (R160, R163 to R167, R178 to R185). -/

namespace Sys2Proof.Machine

/-! ## What an operation that enters the order leaves unchanged (R183) -/

/-- Nothing but the cores' states differs. -/
def State.coresOnly (s t : State) : Prop := ∃ cs, t = { s with cores := cs }

theorem State.coresOnly_rfl (s : State) : s.coresOnly s := ⟨s.cores, rfl⟩

theorem State.coresOnly.trans {s t u : State} (h : s.coresOnly t) (k : t.coresOnly u) : s.coresOnly u := by
  obtain ⟨cs, rfl⟩ := h
  obtain ⟨ds, rfl⟩ := k
  exact ⟨ds, rfl⟩

theorem State.coresOnly_updCore (s : State) (ck : Nat) (f : Core → Core) : s.coresOnly (s.updCore ck f) := ⟨_, rfl⟩
theorem State.coresOnly_updSlice (s : State) (ck : Nat) (f : Slice → Slice) : s.coresOnly (s.updSlice ck f) := s.coresOnly_updCore ck _
theorem State.coresOnly_dropOp (s : State) (ck : Nat) (o : SliceOp) : s.coresOnly (s.dropOp ck o) := s.coresOnly_updSlice ck _

theorem State.coresOnly_instantOp {s t : State} {ck : Nat} {o : SliceOp} (h : s.instantOp ck o = some t) : s.coresOnly t := by
  cases o with
  | mzero first count => cases h; exact (s.coresOnly_dropOp ck _).trans (State.coresOnly_updSlice _ ck _)
  | wswap => cases h; exact (s.coresOnly_dropOp ck _).trans (State.coresOnly_updSlice _ ck _)
  | stage b => cases h; exact (s.coresOnly_dropOp ck _).trans (State.coresOnly_updSlice _ ck _)
  | mread slot g vd => cases h; exact (s.coresOnly_dropOp ck _).trans (State.coresOnly_updCore _ ck _)
  | _ => cases h

theorem State.coresOnly_advanceFuel (s : State) (ck n : Nat) : s.coresOnly (s.advanceFuel ck n) := by
  induction n generalizing s with
  | zero => exact s.coresOnly_rfl
  | succ n ih =>
    rw [State.advanceFuel]
    split
    · exact s.coresOnly_rfl
    · next t h =>
      obtain ⟨o, _, ho⟩ := List.exists_of_findSome?_eq_some h
      exact (State.coresOnly_instantOp ho).trans (ih t)

theorem State.coresOnly_advanceSlice (s : State) (ck : Nat) : s.coresOnly (s.advanceSlice ck) := s.coresOnly_advanceFuel ck _

theorem State.coresOnly_enterOp (s : State) (o : SliceOp) : s.coresOnly (s.enterOp o) :=
  (s.coresOnly_updSlice _ _).trans (State.coresOnly_advanceSlice _ _)

theorem State.coresOnly.cur {s t : State} (h : s.coresOnly t) : t.cur = s.cur := by obtain ⟨cs, rfl⟩ := h; rfl
theorem State.coresOnly.mayPut {s t : State} (h : s.coresOnly t) (d : Reg) : t.mayPut d = s.mayPut d := by obtain ⟨cs, rfl⟩ := h; rfl

/-- A function that agrees with a constant at the slice of the moment. -/
theorem State.updSlice_of_eq {s : State} {ck : Nat} {f g : Slice → Slice} (h : f (s.core ck).slice = g (s.core ck).slice) :
    s.updSlice ck f = s.updSlice ck g := by
  simp only [State.updSlice, State.updCore, h]

/-! ## Room and checks -/

/-- Fewer than 15 counts of TLC leave room for another (R189). -/
theorem roomFor_tile {t : State} {k : Act} (h : t.me.cnt.tlc < 15) : roomFor t 6 k = k := by
  have hfull : ¬ ctrMax 6 ≤ t.me.cnt.val 6 := Nat.not_le.mpr h
  rw [roomFor, if_neg hfull]

/-- Well-formed addresses of the spaces 0, 1 and 2 pass the check of the space (R191). -/
theorem spaceCheck_low {super : Bool} {x : Word} (hspace : space x < 3) (hzero : mustBeZero x = true) : spaceCheck super x = none := by
  rw [spaceCheck_eq, hzero, if_neg (by decide), if_neg (by omega), if_neg (by omega), if_neg (by omega)]

theorem failIf_false {c : Bool} {cause : Nat} {x : Word} (h : c = false) : failIf c cause x = none := by rw [h]; rfl

theorem mustBeZero_of_leaves {s : State} {tk n : Nat} {x : Word} (h : s.leaves tk x n = false) : mustBeZero x = true := by
  simp only [State.leaves, Bool.or_eq_false_iff, Bool.not_eq_false'] at h
  exact h.1

theorem firstTrap_cons_none {c : Check} {cs : List Check} (h : c = none) : firstTrap (c :: cs) = firstTrap cs := by rw [h]; rfl

/-! ## LTAB (R160) -/

theorem execLtab_sends {s : State} {a : Reg} {x : Word} (hx : s.operand a = x) (hmay : mayIssue { rd := [a] } s = true)
    (hgo : (s.popPorts [a]).mayGo 0 x = true) (hspace : space x = 2) (hzero : mustBeZero x = true) (halign : x.toNat % 64 = 0)
    (hroom : (s.popPorts [a]).me.cnt.tlc < 15) :
    exec (.ltab a) s = .next (({ (s.popPorts [a]).takeId with ltabs := s.ltabs ++ [{ id := s.ids, thr := s.cur, addr := x }] } :
      State).addCount s.cur 6).passed := by
  subst hx
  refine runHead_next hmay ?_
  dsimp only
  rw [memWait_of_mayGo hgo, spaceCheck_low (by omega) hzero, roomFor_tile hroom]
  have hltabs : (s.popPorts [a]).ltabs = s.ltabs := State.popPorts_induct (P := fun t => t.ltabs = s.ltabs) [a] (fun _ _ h => h) (fun _ h => h) s rfl
  rw [State.cur_popPorts, State.ids_popPorts, hltabs]
  simp [hspace, halign, failIf, firstTrap, Check.orElse_none]

/-! ## WLOAD (R179) -/

section
variable {s t : State} {a b : Reg} {x : Word} (hx : s.operand a = x) (ht : s.popPorts [a, b] = t) (hmay : mayIssue { rd := [a, b] } s = true)
  (hgo : t.mayGo 0 x = true) (hspace : space x = 0 ∨ space x = 1) (hwindow : window x ≠ 0) (halign : x.toNat % 64 = 0)
  (hin : t.leaves s.cur x (imageBytes (window x)) = false) (hguard : t.guardTrap s.cur permR x (imageBytes (window x)) = none)
  (hroom : t.me.cnt.tlc < 15)
include hx ht hmay hgo hspace hwindow halign hin hguard hroom

theorem wload_enters :
    exec (.wload a b) s = .next ((t.takeId.enterOp (.wload s.ids (slotNo s.cur) x (s.operand b) none)).addCount s.cur 6).passed := by
  subst hx ht
  have hzero : mustBeZero (s.operand a) = true := mustBeZero_of_leaves hin
  refine runHead_next hmay ?_
  dsimp only
  rw [memWait_of_mayGo hgo, spaceCheck_low (by omega) hzero, roomFor_tile hroom, State.cur_popPorts, State.ids_popPorts, hin, hguard]
  have hplace : (!(decide (space (s.operand a) = 0) || decide (space (s.operand a) = 1))) = false := by simpa [← or_iff_not_imp_left] using hspace
  rw [failIf_false hplace]
  simp [hwindow, halign, failIf, firstTrap, Check.orElse_none]

theorem wloadSc_enters {blk : Scale} {blks : List Scale} (hblk : (t.core (coreOf s.cur)).slice.scales = blk :: blks)
    (hflt : intWindow (window x) = false) (hseq : blk.seq.toNat = fld (s.operand b) 0 16) (hlen : blk.codes.length = depthOf (window x)) :
    exec (.wloadSc a b) s = .next (((t.updSlice (coreOf s.cur) fun l => { l with scales := blks }).takeId.enterOp
      (.wload s.ids (slotNo s.cur) x (s.operand b) (some blk))).addCount s.cur 6).passed := by
  subst hx ht
  have hzero : mustBeZero (s.operand a) = true := mustBeZero_of_leaves hin
  refine runHead_next hmay ?_
  dsimp only
  have hslice : (s.popPorts [a, b]).updSlice (coreOf s.cur) (fun l => { l with scales := l.scales.tail })
      = (s.popPorts [a, b]).updSlice (coreOf s.cur) fun l => { l with scales := blks } :=
    State.updSlice_of_eq (by rw [hblk]; rfl)
  rw [memWait_of_mayGo hgo, spaceCheck_low (by omega) hzero, roomFor_tile hroom, State.cur_popPorts, State.ids_popPorts, hin, hguard, hslice,
    hblk]
  have hplace : (!(decide (space (s.operand a) = 0) || decide (space (s.operand a) = 1))) = false := by simpa [← or_iff_not_imp_left] using hspace
  rw [failIf_false hplace]
  simp [hwindow, halign, hflt, hseq, hlen, pairCheck, failIf, firstTrap, Check.orElse_none]

end

/-! ## MDRAIN (R184, R185) -/

theorem zero_row (x c : Word) : x + word 0 * c = x := by simp [word]

theorem leaves_of_drainTrap {s : State} {tk count n : Nat} {x c : Word} (hcount : 0 < count)
    (h : s.drainTrap tk x c count n = none) : s.leaves tk x n = false := by
  rw [State.drainTrap] at h
  have hrows := firstTrap_none h _ (List.mem_cons_self ..)
  rw [List.findSome?_eq_none_iff] at hrows
  have hfirst := hrows 0 (List.mem_range.mpr hcount)
  simp only [zero_row] at hfirst
  by_contra hne
  simp only [Bool.eq_true_of_not_eq_false hne, Bool.or_true, failIf, if_true, reduceCtorEq] at hfirst

theorem drainRows_pos {y : Word} (hbad : drainBad y = false) : 0 < (drainRows y).2 := by
  rw [drainBad, decide_eq_false_iff_not, not_or, not_or] at hbad
  exact Nat.pos_of_ne_zero hbad.2.1

theorem mustBeZero_of_drainTrap {s : State} {tk n : Nat} {x y c : Word} (hbad : drainBad y = false)
    (h : s.drainTrap tk x c (drainRows y).2 n = none) : mustBeZero x = true :=
  mustBeZero_of_leaves (leaves_of_drainTrap (drainRows_pos hbad) h)

theorem mdrain_enters {s t : State} {fmt : OFmt} {r : Rnd} {a b c : Reg} {x : Word} (hx : s.operand a = x) (ht : s.popPorts [a, b, c] = t)
    (hmay : mayIssue { rd := [a, b, c] } s = true) (hgo : t.mayGo 0 x = true) (hbad : drainBad (s.operand b) = false) (hspace : space x = 0)
    (hwindow : window x = 0) (halign : x.toNat % 32 = 0) (hstride : (s.operand c).toNat % 32 = 0)
    (htrap : t.drainTrap s.cur x (s.operand c) (drainRows (s.operand b)).2 (32 * outBytes fmt) = none) (hroom : t.me.cnt.tlc < 15) :
    exec (.mdrain fmt r a b c) s = .next ((t.takeId.enterOp (.mdrain s.ids (slotNo s.cur) false fmt r x (drainRows (s.operand b)).1
      (drainRows (s.operand b)).2 (s.operand c).toNat 0 0)).addCount s.cur 6).passed := by
  subst hx ht
  refine runHead_next hmay ?_
  dsimp only
  rw [memWait_of_mayGo hgo, spaceCheck_low (by omega) (mustBeZero_of_drainTrap hbad htrap), roomFor_tile hroom, State.cur_popPorts,
    State.ids_popPorts, htrap]
  simp [hspace, hwindow, halign, hbad, hstride, failIf, firstTrap, Check.orElse_none]

theorem mdrainPort_enters {s t : State} {fmt : OFmt} {r : Rnd} {b : Reg} (ht : s.popPorts [b] = t) (hmay : mayIssue { rd := [b] } s = true)
    (hbad : drainBad (s.operand b) = false) (hacq : t.acquiring = false) (hroom : t.me.cnt.tlc < 15) :
    exec (.mdrainPort fmt r b) s = .next ((t.takeId.enterOp (.mdrain s.ids (slotNo s.cur) true fmt r 0 (drainRows (s.operand b)).1
      (drainRows (s.operand b)).2 0 0 0)).addCount s.cur 6).passed := by
  subst ht
  refine runHead_next hmay ?_
  dsimp only
  rw [hbad, hacq, if_neg Bool.false_ne_true, if_neg Bool.false_ne_true, roomFor_tile hroom, State.cur_popPorts, State.ids_popPorts]

/-! ## SBTAKE (R165, R167, R178) -/

section
variable {s t : State} {d a : Reg} {x : Word} {blk : Scale} {blks : List Scale} (hx : s.operand a = x)
  (ht : s.popPorts [a] = t) (hmay : mayIssue { rd := [a], wr := [d] } s = true) (hhigh : fld x 17 47 = 0)
include hx ht hmay hhigh

/-- A pairing that the block at the queue's front passes. -/
theorem sbtake_paired {r : Act} (hblk : (t.core (coreOf s.cur)).slice.scales = blk :: blks) (htake : x.getLsbD 16 = false)
    (hseq : blk.seq.toNat = fld x 0 16) (hr : (if (t.core (coreOf s.cur)).slice.ops.any (fun o => o.unjoined || o.stages) then
        put ((t.updSlice (coreOf s.cur) fun l => { l with scales := blks }).enterOp (.stage (some blk))) d
          (flag ((t.core (coreOf s.cur)).slice.staged.isSome || (t.core (coreOf s.cur)).slice.ops.any SliceOp.stages)) 3
      else put (t.updSlice (coreOf s.cur) fun l => { l with scales := blks, staged := some blk }) d
        (flag (t.core (coreOf s.cur)).slice.staged.isSome) 3) = r) : exec (.sbtake d a) s = .next (r.run s) := by
  subst hx ht
  refine runHead_act hmay ?_
  dsimp only
  rw [if_neg (not_not.mpr hhigh), htake, if_neg Bool.false_ne_true, State.cur_popPorts, ← hr]
  have hpass : pairCheck ((s.popPorts [a]).core (coreOf s.cur)).slice.scales (fld (s.operand a) 0 16) none = none := by
    simp [pairCheck, hblk, hseq]
  have hslice : (s.popPorts [a]).updSlice (coreOf s.cur) (fun l => { l with scales := l.scales.tail })
      = (s.popPorts [a]).updSlice (coreOf s.cur) fun l => { l with scales := blks } :=
    State.updSlice_of_eq (by rw [hblk]; rfl)
  have hstage : (s.popPorts [a]).updSlice (coreOf s.cur) (fun l => { l with scales := l.scales.tail, staged := l.scales.head? })
      = (s.popPorts [a]).updSlice (coreOf s.cur) fun l => { l with scales := blks, staged := some blk } :=
    State.updSlice_of_eq (by rw [hblk]; rfl)
  rw [hpass, hslice, hstage, hblk]
  rfl

variable (hput : s.mayPut d = true)
include hput

/-- Without a gang or a block before it the block is staged at once (R178). -/
theorem sbtake_stages (hblk : (t.core (coreOf s.cur)).slice.scales = blk :: blks) (htake : x.getLsbD 16 = false)
    (hseq : blk.seq.toNat = fld x 0 16) (hops : ∀ o ∈ (t.core (coreOf s.cur)).slice.ops, o.unjoined = false ∧ o.stages = false) :
    exec (.sbtake d a) s = .next ((t.updSlice (coreOf s.cur) fun l => { l with scales := blks, staged := some blk }).writeReg s.cur d
      (if (t.core (coreOf s.cur)).slice.staged.isSome then 1 else 0) 3).passed := by
  have hnone : ((t.core (coreOf s.cur)).slice.ops.any fun o => o.unjoined || o.stages) = false := by
    rw [List.any_eq_false]
    intro o ho
    rw [(hops o ho).1, (hops o ho).2]
    decide
  refine sbtake_paired (r := .next _) hx ht hmay hhigh hblk htake hseq ?_
  have hput' : (t.updSlice (coreOf s.cur) fun l => { l with scales := blks, staged := some blk }).mayPut d = true := by
    rw [(State.coresOnly_updSlice t _ _).mayPut, ← ht, State.mayPut_popPorts, hput]
  have hcur : (t.updSlice (coreOf s.cur) fun l => { l with scales := blks, staged := some blk }).cur = s.cur := by
    rw [(State.coresOnly_updSlice t _ _).cur, ← ht, State.cur_popPorts]
  rw [hnone, if_neg Bool.false_ne_true, put_of_mayPut hput', hcur]
  rfl

/-- Behind a gang that has not joined, or a block, the block waits in the order (R178). -/
theorem sbtake_waits (hblk : (t.core (coreOf s.cur)).slice.scales = blk :: blks) (htake : x.getLsbD 16 = false)
    (hseq : blk.seq.toNat = fld x 0 16) (hops : ∃ o ∈ (t.core (coreOf s.cur)).slice.ops, o.unjoined = true ∨ o.stages = true) :
    exec (.sbtake d a) s = .next (((t.updSlice (coreOf s.cur) fun l => { l with scales := blks }).enterOp (.stage (some blk))).writeReg s.cur d
      (if (t.core (coreOf s.cur)).slice.staged.isSome || (t.core (coreOf s.cur)).slice.ops.any SliceOp.stages then 1 else 0) 3).passed := by
  have hsome : ((t.core (coreOf s.cur)).slice.ops.any fun o => o.unjoined || o.stages) = true := by
    simpa only [List.any_eq_true, Bool.or_eq_true] using hops
  have hentered := (State.coresOnly_updSlice t (coreOf s.cur) fun l => { l with scales := blks }).trans
    (State.coresOnly_enterOp _ (.stage (some blk)))
  refine sbtake_paired (r := .next _) hx ht hmay hhigh hblk htake hseq ?_
  have hput' : ((t.updSlice (coreOf s.cur) fun l => { l with scales := blks }).enterOp (.stage (some blk))).mayPut d = true := by
    rw [hentered.mayPut, ← ht, State.mayPut_popPorts, hput]
  have hcur : ((t.updSlice (coreOf s.cur) fun l => { l with scales := blks }).enterOp (.stage (some blk))).cur = s.cur := by
    rw [hentered.cur, ← ht, State.cur_popPorts]
  rw [hsome, if_pos rfl, put_of_mayPut hput', hcur]
  rfl

/-- With the queue empty a discard gives all ones (R167). -/
theorem sbtake_empty (hempty : (t.core (coreOf s.cur)).slice.scales = []) (htake : x.getLsbD 16 = true) :
    exec (.sbtake d a) s = .next (s.wrote [a] d (BitVec.ofNat 64 (2 ^ 64 - 1)) 3) := by
  subst hx ht
  refine runHead_next hmay ?_
  dsimp only
  rw [if_neg (not_not.mpr hhigh), htake, if_pos rfl, State.cur_popPorts, hempty]
  dsimp only
  rw [put_of_mayPut (by rw [State.mayPut_popPorts, hput]), State.cur_popPorts]
  rfl

end

end Sys2Proof.Machine

open Sys2Proof Sys2Proof.Machine

/-- Settles O39: each head behind its checks enters the order, its engine's queue, or the staging place. -/
theorem yokeHeads : Obligations.YokeHeads := by
  unfold Obligations.YokeHeads
  intro s d a b c v g first count fmt r blk blks hput
  refine ⟨runHead_next (mayIssue_nothing s) rfl, runHead_next (mayIssue_nothing s) rfl, fun hmay => runHead_next hmay rfl,
    fun hmay hgo hspace hzero halign hroom => execLtab_sends rfl hmay hgo hspace hzero halign hroom,
    fun hmay hgo hspace hwindow halign hin hguard hroom => ⟨wload_enters rfl rfl hmay hgo hspace hwindow halign hin hguard hroom,
      fun hblk hflt hseq hlen => wloadSc_enters rfl rfl hmay hgo hspace hwindow halign hin hguard hroom hblk hflt hseq hlen⟩,
    fun hmay hgo hbad hspace hwindow halign hstride htrap hroom =>
      mdrain_enters rfl rfl hmay hgo hbad hspace hwindow halign hstride htrap hroom,
    fun hmay hbad hacq hroom => mdrainPort_enters rfl hmay hbad hacq hroom,
    fun hmay hhigh => ⟨fun hblk htake hseq => ⟨fun hops => sbtake_stages rfl rfl hmay hhigh hput hblk htake hseq hops,
      fun hops => sbtake_waits rfl rfl hmay hhigh hput hblk htake hseq hops⟩,
      fun hempty htake => sbtake_empty rfl rfl hmay hhigh hput hempty htake⟩⟩

end

section
/-! SUPPORT. The copy heads (R344 to R346). -/

namespace Sys2Proof.Machine

/-- Below the ports a head pops nothing (R89). -/
theorem State.popPorts_low (s : State) {rs : List Reg} (h : ∀ r ∈ rs, r.toNat < 56) : s.popPorts rs = s := by
  induction rs with
  | nil => rfl
  | cons r rest ih =>
    have hr : ¬ 56 ≤ r.toNat := Nat.not_le.mpr (h r (List.mem_cons_self ..))
    rw [State.popPorts, List.foldl_cons, if_neg hr]
    exact ih fun x hx => h x (List.mem_cons_of_mem _ hx)

/-- The four registers of a copy lie below the ports. -/
theorem copyRegs_low {a : Reg} (h : a.toNat + 3 < 56) : ∀ r ∈ [a, a + 1, a + 2, a + 3], r.toNat < 56 := by
  simp only [List.forall_mem_cons, List.not_mem_nil, false_imp_iff, implies_true, and_true, BitVec.toNat_add, BitVec.reduceToNat]
  omega

/-- What R344 checks of the words of a copy before it looks at the FIFO. -/
def State.copyOk (s : State) (c : CopyWords) : Prop :=
  s.shapeCheck c = none ∧ (c.shp = true → s.owned (s.localKey s.cur (offset c.shape)) 32 = false)
    ∧ copyBad c (s.shapeWord s.cur c) (s.copyOf s.cur c) = false ∧ s.copyCheck c (s.copyOf s.cur c) = none ∧ s.copyStream c = true
    ∧ s.copyOutside c = false ∧ s.copyLocal c (s.copyOf s.cur c) = none ∧ s.acquiring = false

section
variable {s : State} {d : Reg} {c : CopyWords}

/-- The state in which a copy has been queued, its index in `d`. -/
def State.queuedAs (s : State) (d : Reg) (c : CopyWords) : State :=
  (s.queueCopy (s.copyOf s.cur c)).writeReg s.cur d (word (s.myCore.freeIndex * 256)) 3

/-- Checked words come to the FIFO. -/
theorem submitCopy_of_ok {wait : Bool} (hok : s.copyOk c) : submitCopy wait d c s =
    if 16 ≤ s.myCore.fifo.length then (if wait then .block .fifoRoom else put s d 1 3)
    else roomFor s 5 (put (s.queueCopy (s.copyOf s.cur c)) d (word (s.myCore.freeIndex * 256)) 3) := by
  obtain ⟨hshape, howned, hbad, hcheck, hstream, hout, hlocal, hacq⟩ := hok
  have hfree : (c.shp && s.owned (s.localKey s.cur (offset c.shape)) 32) = false := by
    cases hshp : c.shp
    · rfl
    · exact howned hshp
  unfold submitCopy
  dsimp only
  rw [hshape, hfree, hbad, hcheck, hstream, hout, hlocal, hacq]
  rfl

theorem Slot.optimistic_updCnt (x : Slot) (f : Counts → Counts) : (x.updCnt f).optimistic = x.optimistic := rfl

theorem mayPut_queueCopy (s : State) (k : Copy) (d : Reg) : (s.queueCopy k).mayPut d = s.mayPut d := by
  simp [State.queueCopy, State.mayPut, State.addCount, State.me, State.updMyCore, Slot.optimistic_updCnt]

variable (hput : s.mayPut d = true) (hok : s.copyOk c)
include hput hok

theorem submitCopy_queues {wait : Bool} (hroom : s.myCore.fifo.length < 16) (hcnt : s.me.cnt.cpc < 63) :
    submitCopy wait d c s = .next (s.queuedAs d c) := by
  have hcount : ¬ ctrMax 5 ≤ s.me.cnt.val 5 := Nat.not_le.mpr hcnt
  rw [submitCopy_of_ok hok, if_neg (Nat.not_le.mpr hroom), roomFor, if_neg hcount,
    put_of_mayPut (by rw [mayPut_queueCopy, hput])]
  rfl

/-- The form that does not stall gives 1 (R344). -/
theorem submitCopy_full (hfull : 16 ≤ s.myCore.fifo.length) : submitCopy false d c s = .next (s.writeReg s.cur d 1 3) := by
  rw [submitCopy_of_ok hok, if_pos hfull, if_neg Bool.false_ne_true, put_of_mayPut hput]

end

section
variable {s t : State} {d a : Reg} {wait : Bool}

/-- The words of a copy in its registers (R344). -/
def State.copyRegs (s : State) (a : Reg) : CopyWords :=
  { w0 := s.operand a, w1 := s.operand (a + 1), w2 := s.operand (a + 2), w3 := s.operand (a + 3) }

/-- The words of a copy in its record (R345). -/
def State.copyRecord (s : State) (k : Nat) : CopyWords := { w0 := s.rd8 k, w1 := s.rd8 (k + 8), w2 := s.rd8 (k + 16), w3 := s.rd8 (k + 24) }

theorem cpyqHead_of_submit (hlow : a.toNat + 3 < 56) (hmay : mayIssue { rd := [a, a + 1, a + 2, a + 3], wr := [d] } s = true)
    (hsub : submitCopy wait d (s.copyRegs a) s = .next t) : cpyqHead wait d a s = .next t.passed := by
  refine runHead_next hmay ?_
  rw [State.popPorts_low s (copyRegs_low hlow)]
  exact hsub

theorem cpyresHead_of_submit (hlow : a.toNat < 56) (hmay : mayIssue { rd := [a], wr := [d] } s = true)
    (hspace : space (s.operand a) = 0) (hwindow : window (s.operand a) = 0) (halign : (s.operand a).toNat % 128 = 0)
    (hzero : mustBeZero (s.operand a) = true) (hcheck : s.localCheck s.cur permR (s.operand a) 128 = none)
    (howned : s.owned (s.localKey s.cur (offset (s.operand a))) 128 = false)
    (hrec : fld (s.rd8 (s.localKey s.cur (offset (s.operand a)) + 72)) 0 5 = 0)
    (hsub : submitCopy wait d (s.copyRecord (s.localKey s.cur (offset (s.operand a)))) s = .next t) :
    cpyresHead wait d a s = .next t.passed := by
  have hplace : decide (space (s.operand a) ≠ 0 ∨ window (s.operand a) ≠ 0 ∨ (s.operand a).toNat % 128 ≠ 0) = false := by
    rw [hspace, hwindow, halign]
    rfl
  refine runHead_next hmay ?_
  dsimp only
  rw [State.popPorts_low s (by simpa using hlow), spaceCheck_scratchpad hspace hzero, failIf_false hplace, hcheck, howned,
    if_neg Bool.false_ne_true, if_neg (not_not.mpr hrec)]
  exact hsub

end

end Sys2Proof.Machine

open Sys2Proof Sys2Proof.Machine

/-- Settles O42: checked words, of registers or of a record, come to the FIFO, which takes them or is full. -/
theorem copyHeads : Obligations.CopyHeads := by
  unfold Obligations.CopyHeads
  intro s d a hput hlow
  refine ⟨fun hmay hok => ⟨fun ⟨hroom, hcnt⟩ => ?_, fun hfull => ?_⟩,
    fun hmay hspace hwindow halign hzero hcheck howned hrec hok => ⟨fun ⟨hroom, hcnt⟩ => ?_, fun hfull => ?_⟩,
    fun hmay => ⟨runHead_put hmay hput _ 3, runHead_put hmay hput _ 3⟩⟩
  · exact ⟨cpyqHead_of_submit hlow hmay (submitCopy_queues hput hok hroom hcnt),
      cpyqHead_of_submit hlow hmay (submitCopy_queues hput hok hroom hcnt)⟩
  · exact cpyqHead_of_submit hlow hmay (submitCopy_full hput hok hfull)
  · have ha : a.toNat < 56 := by omega
    exact ⟨cpyresHead_of_submit ha hmay hspace hwindow halign hzero hcheck howned hrec (submitCopy_queues hput hok hroom hcnt),
      cpyresHead_of_submit ha hmay hspace hwindow halign hzero hcheck howned hrec (submitCopy_queues hput hok hroom hcnt)⟩
  · have ha : a.toNat < 56 := by omega
    exact cpyresHead_of_submit ha hmay hspace hwindow halign hzero hcheck howned hrec (submitCopy_full hput hok hfull)

end

section
/-! SUPPORT. The message heads (R348, R350 to R352). -/

namespace Sys2Proof.Machine

theorem Check.orElse_of_none {c : Check} {act : Act} (h : c = none) : c.orElse act = act := by rw [h]; rfl

/-- A payload that is not in memory, or whose bytes are free, does not wait. -/
theorem kindWait_of_free {s : State} {k : ElemKind} {v : Word} {n : Nat} {act : Act}
    (h : k = .a → s.bytesFree (s.localKey s.cur (offset v)) n = true) : kindWait s k v n act = act := by
  cases k with
  | s => rfl
  | v => rfl
  | a => exact localWait_of_bytesFree (h rfl)

/-! ## MSEND (R348) -/

theorem State.cur_post (s : State) (tk : Nat) (p : Place) (a tag : Word) (data : List Byte) (counted : Bool) (pc : Word) :
    (s.post tk p a tag data counted pc).cur = s.cur := by
  unfold State.post
  extract_lets x basted numbered m s1 s2
  have hs2 : s2.cur = s.cur := by
    show (if m.counted then s1.addCount tk p.ctr else s1).cur = s.cur
    split <;> rfl
  split
  · exact hs2
  · exact hs2

theorem State.optimistic_post (s : State) (tk : Nat) (p : Place) (a tag : Word) (data : List Byte) (counted : Bool) (pc : Word) (k : Nat) :
    ((s.post tk p a tag data counted pc).slot k).optimistic = (s.slot k).optimistic := by
  unfold State.post
  extract_lets x basted numbered m s1 s2
  have hs2 : (s2.slot k).optimistic = (s.slot k).optimistic := by
    show ((if m.counted then s1.addCount tk p.ctr else s1).slot k).optimistic = (s.slot k).optimistic
    split
    · rw [State.addCount, State.slot_updSlot]
      split
      · next hk => subst hk; rfl
      · rfl
    · rfl
  split
  · rw [State.slot_updSlot]
    split
    · next hk => subst hk; exact hs2
    · exact hs2
  · exact hs2

theorem State.txq_post (s : State) (tk : Nat) (p : Place) (a tag : Word) (data : List Byte) (counted : Bool) (pc : Word) :
    ((s.post tk p a tag data counted pc).core (coreOf tk)).txq.length = (s.core (coreOf tk)).txq.length + 1 := by
  unfold State.post
  extract_lets x basted numbered m s1 s2
  have hs1 : (s1.core (coreOf tk)).txq.length = (s.core (coreOf tk)).txq.length + 1 := by
    show ((s.takeId.updCore (coreOf tk) fun c => { c with txq := c.txq ++ [m] }).core (coreOf tk)).txq.length = _
    rw [State.core_updCore_same]
    exact List.length_append
  have hs2 : (s2.core (coreOf tk)).txq.length = (s.core (coreOf tk)).txq.length + 1 := by
    show ((if m.counted then s1.addCount tk p.ctr else s1).core (coreOf tk)).txq.length = _
    split
    · exact hs1
    · exact hs1
  split
  · exact hs2
  · exact hs2

section
variable {s t : State} {k : ElemKind} {d a b c : Reg} {len : BitVec 10}
  (ht : s.popPorts (msgUse k [a, c] b d false).rd = t) (hmay : mayIssue (msgUse k [a, c] b d false) s = true)
  (hcheck : t.msgCheck (s.operand a) (t.firstWord k b (s.operand b) len.toNat) = none) (hacq : t.acquiring = false)
  (hpay : k = .a → t.payloadCheck permR (s.operand b) len.toNat = none)
  (hfree : k = .a → t.bytesFree (t.localKey t.cur (offset (s.operand b))) len.toNat = true)
include ht hmay hcheck hacq hpay hfree

theorem msend_posts {p : Place} (hopt : s.me.optimistic = false) (hplace : t.msgPlace s.myPid (s.operand a) = some p)
    (hroom : t.me.cnt.val p.ctr < ctrMax p.ctr) (htx : t.myCore.txq.length < 8) :
    exec (.msend k d a b c len) s = .next ((t.post s.cur p (s.operand a) (s.operand c) (t.element k len.toNat b (s.operand b)) true
      s.me.pc).writeReg s.cur d (word (t.myCore.txq.length + 1)) 3).passed := by
  have hcur : t.cur = s.cur := by rw [← ht, State.cur_popPorts]
  have hpid : t.myPid = s.myPid := by rw [← ht, State.myPid_popPorts]
  have htopt : t.me.optimistic = false := by rw [← ht, State.optimistic_popPorts, hopt]
  refine runHead_next hmay ?_
  rw [ht]
  dsimp only
  rw [hcheck, Check.orElse_none, Check.orElse_of_none ?payload, hacq, if_neg Bool.false_ne_true, kindWait_of_free hfree, htopt,
    if_neg Bool.false_ne_true, hpid, hplace, Option.getD_some, roomFor, if_neg (Nat.not_le.mpr hroom)]
  case payload =>
    cases k with
    | s => rfl
    | v => rfl
    | a => exact hpay rfl
  have htxRoom : t.myCore.txRoom = true := decide_eq_true htx
  have hcore : (t.post t.cur p (s.operand a) (s.operand c) (t.element k len.toNat b (s.operand b)) true s.me.pc).myCore.txq.length
      = t.myCore.txq.length + 1 := by
    rw [State.myCore, State.cur_post]
    exact State.txq_post ..
  have hmayPut : (t.post t.cur p (s.operand a) (s.operand c) (t.element k len.toNat b (s.operand b)) true s.me.pc).mayPut d = true := by
    rw [State.mayPut, State.me, State.optimistic_post, State.cur_post]
    rw [← State.me, htopt, Bool.and_false]
    rfl
  rw [htxRoom, Bool.not_true, if_neg Bool.false_ne_true, put_of_mayPut hmayPut, hcore, State.cur_post, hcur]

theorem msend_held (hput : s.mayPut d = true) (hhold : t.mayHold (.msg (s.operand a) (s.operand c) (t.element k len.toNat b (s.operand b))) = true) :
    exec (.msend k d a b c len) s = .next ((t.held (.msg (s.operand a) (s.operand c)
      (t.element k len.toNat b (s.operand b)))).writeReg s.cur d 0 3).passed := by
  have hcur : t.cur = s.cur := by rw [← ht, State.cur_popPorts]
  have htopt : t.me.optimistic = true := by
    simp only [State.mayHold, Bool.and_eq_true] at hhold
    exact hhold.1
  have htput : t.mayPut d = true := by rw [← ht, State.mayPut_popPorts, hput]
  refine runHead_next hmay ?_
  rw [ht]
  dsimp only
  rw [hcheck, Check.orElse_none, Check.orElse_of_none ?payload, hacq, if_neg Bool.false_ne_true, kindWait_of_free hfree, htopt, if_pos rfl,
    holdEffect_of_mayHold hhold]
  case payload =>
    cases k with
    | s => rfl
    | v => rfl
    | a => exact hpay rfl
  dsimp only
  have hheld (e : Effect) : (t.held e).mayPut d = true := by
    rw [← htput, State.mayPut, State.mayPut, State.held, State.me_updMe]
    rfl
  rw [put_of_mayPut (hheld _), ← hcur]
  rfl

end

/-! ## MRECV (R350) -/

theorem State.mayPut_basteAfterPop (s : State) (d : Reg) : s.basteAfterPop.mayPut d = s.mayPut d := by
  rw [State.mayPut, State.mayPut, State.me_basteAfterPop]
  rfl

theorem mrecv_takes {s r : State} {k : ElemKind} {d b : Reg} {len : BitVec 10} {m : Msg} {rest : List Msg} (hput : s.mayPut d = true)
    (hr : s.popPorts (msgUse k [] b d true).rd = r) (hmay : mayIssue (msgUse k [] b d true) s = true) (hacq : r.acquiring = false)
    (hpay : k = .a → r.payloadCheck permW (s.operand b) len.toNat = none)
    (hfree : k = .a → r.bytesFree (r.localKey r.cur (offset (s.operand b))) len.toNat = true) (hscal : k = .s → s.mayPut b = true)
    (hmsg : r.myCore.rxq = m :: rest) :
    exec (.mrecv k d b len) s = .next ((((r.updMyCore fun q => { q with rxq := rest }).basteAfterPop.writeReg s.cur d m.hdr 6).putPayload
      k b (s.operand b) (m.data.take len.toNat)).passed) := by
  have hcur : r.cur = s.cur := by rw [← hr, State.cur_popPorts]
  have hopt : r.me.optimistic = s.me.optimistic := by rw [← hr, State.optimistic_popPorts]
  refine runHead_next hmay ?_
  rw [hr]
  dsimp only
  rw [Check.orElse_of_none ?payload, hacq, if_neg Bool.false_ne_true, kindWait_of_free hfree, hmsg]
  case payload =>
    cases k with
    | s => rfl
    | v => rfl
    | a => exact hpay rfl
  dsimp only
  have hrput : (r.updMyCore fun q => { q with rxq := rest }).basteAfterPop.mayPut d = true := by
    rw [State.mayPut_basteAfterPop, ← hput, ← State.mayPut_popPorts s (msgUse k [] b d true).rd, hr]
    rfl
  rw [if_neg ?late, put_of_mayPut hrput]
  case late =>
    cases k with
    | s =>
      have hb := hscal rfl
      rw [State.mayPut, ← hopt, Bool.not_eq_true'] at hb
      exact fun h => Bool.false_ne_true (hb.symm.trans h)
    | v => exact Bool.false_ne_true
    | a => exact Bool.false_ne_true
  rw [← hcur]
  rfl

/-! ## MWAIT (R351) -/

section
variable {s : State} (hop : s.me.op = .none)
include hop

theorem mwait_wakes (hwake : s.me.wake = true) : exec .mwait s = .next (s.updMe fun q => { q with wake := false }).passed := by
  have hexec : exec .mwait s = execMwait s := rfl
  rw [hexec, execMwait, runReply_none hop]
  exact runHead_next (mayIssue_nothing s) (if_pos hwake)

theorem mwait_message (hwake : s.me.wake = false) (hmsg : s.myCore.rxq ≠ []) : exec .mwait s = .next s.passed := by
  have hexec : exec .mwait s = execMwait s := rfl
  have hany : (!s.myCore.rxq.isEmpty) = true := by simpa using hmsg
  rw [hexec, execMwait, runReply_none hop]
  exact runHead_next (mayIssue_nothing s) ((if_neg (ne_true_of_eq_false hwake)).trans (if_pos hany))

theorem mwait_waits (hwake : s.me.wake = false) (hmsg : s.myCore.rxq = []) : exec .mwait s = .next (s.blockMe .mwait) := by
  have hexec : exec .mwait s = execMwait s := rfl
  have hany : (!s.myCore.rxq.isEmpty) = false := by rw [hmsg]; rfl
  rw [hexec, execMwait, runReply_none hop]
  exact runHead_act (mayIssue_nothing s) (a := .block .mwait)
    ((if_neg (ne_true_of_eq_false hwake)).trans (if_neg (ne_true_of_eq_false hany)))

end

end Sys2Proof.Machine

open Sys2Proof Sys2Proof.Machine

/-- Settles O44: MSEND posts or holds, MRECV takes the oldest message, MWAIT goes on with a wake, a message or its answer. -/
theorem messageHeads : Obligations.MessageHeads := by
  unfold Obligations.MessageHeads
  intro s k d a b c len p m rest hput
  have hkey (rs : List Reg) (y : Word) : (s.popPorts rs).localKey (s.popPorts rs).cur (offset y) = s.localKey s.cur (offset y) := by
    rw [State.localKey_popPorts, State.cur_popPorts]
  refine ⟨fun hmay hcheck ⟨hacq, hat⟩ => ⟨fun hopt hplace hroom htx => ?_, fun hhold => ?_⟩, fun hmay ⟨hacq, hat⟩ hscal hmsg => ?_,
    fun hop => ⟨fun hwake => ?_, fun hwake hmsg => ?_, fun hwake hmsg => ?_⟩, fun v hop => ?_,
    fun hmay => ⟨runHead_put hmay hput _ 3, runHead_put hmay hput _ 3⟩⟩
  · exact msend_posts rfl hmay hcheck hacq (fun hk => (hat hk).1) (fun hk => by rw [hkey]; exact (hat hk).2) hopt hplace hroom htx
  · exact msend_held rfl hmay hcheck hacq (fun hk => (hat hk).1) (fun hk => by rw [hkey]; exact (hat hk).2) hput hhold
  · exact mrecv_takes hput rfl hmay hacq (fun hk => (hat hk).1) (fun hk => by rw [hkey]; exact (hat hk).2) hscal hmsg
  · exact mwait_wakes hop hwake
  · exact mwait_message hop hwake hmsg
  · exact mwait_waits hop hwake hmsg
  · exact runReply_pass hop

end

section
/-! SUPPORT. Messages on their way and at their core (R347 to R351, R370). -/

namespace Sys2Proof.Machine

/-! ## What the mesh leaves unchanged -/

/-- Nothing but the names, the panel's credits, the packets, the flits and the messages differs. -/
def State.meshOnly (s t : State) : Prop :=
  ∃ i pn ps fl ms, t = { s with ids := i, panel := pn, packets := ps, flits := fl, msgs := ms }

theorem State.meshOnly_rfl (s : State) : s.meshOnly s := ⟨s.ids, s.panel, s.packets, s.flits, s.msgs, rfl⟩

theorem State.meshOnly.trans {s t u : State} (h : s.meshOnly t) (k : t.meshOnly u) : s.meshOnly u := by
  obtain ⟨i, pn, ps, fl, ms, rfl⟩ := h
  obtain ⟨i', pn', ps', fl', ms', rfl⟩ := k
  exact ⟨i', pn', ps', fl', ms', rfl⟩

theorem State.meshOnly_foldl {α : Type} {f : State → α → State} (h : ∀ (s : State) (a : α), s.meshOnly (f s a)) (l : List α) (s : State) :
    s.meshOnly (l.foldl f s) := by
  induction l generalizing s with
  | nil => exact s.meshOnly_rfl
  | cons a l ih => exact (h s a).trans (ih (f s a))

theorem State.meshOnly_freeBuffer (s : State) (p : Packet) (f : Flit) : s.meshOnly (s.freeBuffer p f) := by
  unfold State.freeBuffer
  split
  · exact ⟨s.ids, _, s.packets, s.flits, s.msgs, rfl⟩
  · exact s.meshOnly_rfl

theorem State.msgs_freeBuffer (s : State) (p : Packet) (f : Flit) : (s.freeBuffer p f).msgs = s.msgs := by
  unfold State.freeBuffer
  split <;> rfl

theorem State.msgs_foldl {α : Type} {f : State → α → State} (h : ∀ (s : State) (a : α), (f s a).msgs = s.msgs) (l : List α) (s : State) :
    (l.foldl f s).msgs = s.msgs := by
  induction l generalizing s with
  | nil => rfl
  | cons a l ih => exact (ih (f s a)).trans (h s a)

theorem State.meshOnly_dropPacket (s : State) (pkt : Option Nat) : s.meshOnly (s.dropPacket pkt) := by
  cases pkt with
  | none => exact s.meshOnly_rfl
  | some id =>
    have hfold := State.meshOnly_foldl (f := fun t p => (s.flits.filter fun f => decide (f.pkt = id)).foldl (fun u f => u.freeBuffer p f) t)
      (fun t p => State.meshOnly_foldl (fun u f => u.meshOnly_freeBuffer p f) _ t) (s.packets.filter fun p => decide (p.id = id)) s
    exact hfold.trans ⟨_, _, _, _, _, rfl⟩

theorem State.msgs_dropPacket (s : State) (pkt : Option Nat) : (s.dropPacket pkt).msgs = s.msgs := by
  cases pkt with
  | none => rfl
  | some id =>
    exact State.msgs_foldl (f := fun t p => (s.flits.filter fun f => decide (f.pkt = id)).foldl (fun u f => u.freeBuffer p f) t)
      (fun t p => State.msgs_foldl (fun u f => u.msgs_freeBuffer p f) _ t) (s.packets.filter fun p => decide (p.id = id)) s

theorem State.meshOnly_inject (s : State) (src dst pid p n lane : Nat) (sid : Option Nat) : s.meshOnly (s.inject src dst pid p n lane sid) :=
  ⟨_, _, _, _, _, rfl⟩

theorem State.meshOnly_setMsg (s : State) (m : Msg) : s.meshOnly (s.setMsg m) := ⟨_, _, _, _, _, rfl⟩
theorem State.meshOnly_dropMsg (s : State) (id : Nat) : s.meshOnly (s.dropMsg id) := ⟨_, _, _, _, _, rfl⟩

theorem State.meshOnly_acceptedMsg (s : State) (m : Msg) : s.meshOnly (s.acceptedMsg m) := by
  unfold State.acceptedMsg
  split
  · exact (s.meshOnly_dropPacket _).trans (State.meshOnly_dropMsg _ _)
  · split
    · exact s.meshOnly_setMsg _
    · exact ((s.meshOnly_dropPacket _).trans (State.meshOnly_inject ..)).trans (State.meshOnly_setMsg _ _)

section
variable {s t : State} (h : s.meshOnly t)
include h
theorem State.meshOnly.core (ck : Nat) : t.core ck = s.core ck := by obtain ⟨i, pn, ps, fl, ms, rfl⟩ := h; rfl
theorem State.meshOnly.slot (k : Nat) : t.slot k = s.slot k := by obtain ⟨i, pn, ps, fl, ms, rfl⟩ := h; rfl
theorem State.meshOnly.coreIn (pid ck : Nat) : t.coreIn pid ck = s.coreIn pid ck := by obtain ⟨i, pn, ps, fl, ms, rfl⟩ := h; rfl
end

/-- The message stays among those on their way until its acknowledgement (R348). -/
theorem State.msgs_acceptedMsg {s : State} {m : Msg} {tk : Nat} (hsrc : m.src = some tk) : (s.acceptedMsg m).msgs.length = s.msgs.length := by
  unfold State.acceptedMsg
  rw [hsrc]
  dsimp only
  split
  · exact List.length_map ..
  · rw [State.setMsg, List.length_map]
    exact congrArg List.length (s.msgs_dropPacket m.pkt)

/-! ## A core that a partition keeps (R384) -/

section
variable {s : State} {pid ck : Nat} {f : Core → Core}

theorem State.coreIn_running (h : s.runs pid (ck * 8) = true) : s.coreIn pid ck = s.core ck := by rw [State.coreIn, if_pos h]
theorem State.updCoreIn_running (h : s.runs pid (ck * 8) = true) : s.updCoreIn pid ck f = s.updCore ck f := by rw [State.updCoreIn, if_pos h]

theorem State.updCoreIn_saved (h : s.runs pid (ck * 8) = false) :
    s.updCoreIn pid ck f = s.updSaved (quadOfCore ck) pid fun v => { v with cores := v.cores.modify (ck % 4) f } := by
  rw [State.updCoreIn, if_neg (ne_true_of_eq_false h)]

theorem State.runs_updSaved (s : State) (qi pid pid' tk : Nat) (g : Saved → Saved) : (s.updSaved qi pid g).runs pid' tk = s.runs pid' tk := by
  have hctxs (n : Nat) : ((s.updSaved qi pid g).quad n).ctxs = (s.quad n).ctxs := by
    rw [State.updSaved]
    by_cases hn : n = qi
    · subst hn; rw [State.quad_updQuad_same]
    · rw [State.quad_updQuad_ne _ _ _ _ hn]
  rw [State.runs, State.runs, State.pidOf, State.pidOf, State.ctx, State.ctx, hctxs]

theorem State.core_updSaved (s : State) (qi pid n : Nat) (g : Saved → Saved) : (s.updSaved qi pid g).core n = s.core n := rfl

/-- What a context that is swapped out keeps of a core (R384). -/
def State.savedCore (s : State) (pid ck : Nat) : Option Core :=
  ((s.quad (quadOfCore ck)).shadow.find? fun v => decide (v.pid = pid)).bind fun v => v.cores[ck % 4]?

theorem State.coreIn_saved (h : s.runs pid (ck * 8) = false) : s.coreIn pid ck = (s.savedCore pid ck).getD {} := by
  rw [State.coreIn, if_neg (ne_true_of_eq_false h)]
  rfl

theorem State.savedCore_updCoreIn (h : s.runs pid (ck * 8) = false) :
    (s.updCoreIn pid ck f).savedCore pid ck = (s.savedCore pid ck).map f := by
  rw [State.updCoreIn_saved h, State.savedCore, State.savedCore, State.updSaved, State.quad_updQuad_same]
  dsimp only
  have hpid : ((fun v : Saved => decide (v.pid = pid)) ∘ fun v => if v.pid = pid then { v with cores := v.cores.modify (ck % 4) f } else v)
      = fun v => decide (v.pid = pid) := by
    funext v
    rw [Function.comp_apply]
    split <;> rfl
  rw [List.find?_map, hpid]
  cases hfind : (s.quad (quadOfCore ck)).shadow.find? fun v => decide (v.pid = pid) with
  | none => rfl
  | some v =>
    have hv : v.pid = pid := by simpa using List.find?_some hfind
    rw [Option.map_some, Option.bind_some, Option.bind_some, if_pos hv, List.getElem?_modify_eq, Option.map_eq_map]

/-- A core of a partition after an update: updated, or not there. -/
theorem State.coreIn_updCoreIn (s : State) (pid ck : Nat) (f : Core → Core) :
    (s.updCoreIn pid ck f).coreIn pid ck = f (s.coreIn pid ck) ∨ (s.updCoreIn pid ck f).coreIn pid ck = {} := by
  cases h : s.runs pid (ck * 8) with
  | true =>
    have hruns : (s.updCore ck f).runs pid (ck * 8) = true := h
    rw [State.updCoreIn_running h, State.coreIn_running hruns, State.core_updCore_same, State.coreIn_running h]
    exact .inl rfl
  | false =>
    have hruns : (s.updCoreIn pid ck f).runs pid (ck * 8) = false := by rw [State.updCoreIn_saved h, State.runs_updSaved, h]
    rw [State.coreIn_saved hruns, State.coreIn_saved h, State.savedCore_updCoreIn h]
    cases s.savedCore pid ck with
    | none => exact .inr rfl
    | some c => exact .inl rfl

/-- What a context that is swapped out keeps changes in its saved core (R384). -/
theorem State.coreIn_updCoreIn_saved {old : Saved} (h : s.runs pid (ck * 8) = false) (hshadow : (s.quad (quadOfCore ck)).shadow = [old])
    (hold : old.pid = pid) (hlen : old.cores.length = 4) : (s.updCoreIn pid ck f).coreIn pid ck = f (s.coreIn pid ck) := by
  have hlt : ck % 4 < old.cores.length := by rw [hlen]; exact Nat.mod_lt _ (by decide)
  have hsaved : s.savedCore pid ck = some old.cores[ck % 4] := by simp [State.savedCore, hshadow, hold, List.getElem?_eq_getElem hlt]
  have hruns : (s.updCoreIn pid ck f).runs pid (ck * 8) = false := by rw [State.updCoreIn_saved h, State.runs_updSaved, h]
  rw [State.coreIn_saved hruns, State.coreIn_saved h, State.savedCore_updCoreIn h, hsaved]
  rfl

theorem State.runs_first (s : State) (pid ck : Nat) : s.runs pid (quadOfCore ck * 32) = s.runs pid (ck * 8) := by
  have hquad : quadOf (quadOfCore ck * 32) = quadOf (ck * 8) := by rw [quadOf, quadOf, quadOfCore]; omega
  rw [State.runs, State.runs, State.pidOf, State.pidOf, hquad]

theorem State.haltedIn_running (h : s.runs pid (ck * 8) = true) : s.haltedIn pid (quadOfCore ck) = (s.quad (quadOfCore ck)).halted := by
  rw [State.haltedIn, State.runs_first, if_pos h]

theorem State.haltedIn_saved {old : Saved} (h : s.runs pid (ck * 8) = false) (hshadow : (s.quad (quadOfCore ck)).shadow = [old])
    (hold : old.pid = pid) : s.haltedIn pid (quadOfCore ck) = old.halted := by
  rw [State.haltedIn, State.runs_first, if_neg (ne_true_of_eq_false h), hshadow]
  simp [hold]

end

/-! ## MWAIT ends (R351) -/

/-- What a message does to a slot of its core. -/
def Slot.messaged (x : Slot) : Slot := if x.st = .blocked .mwait then x.endWait 0 else x

theorem State.slot_foldl_updSlot {b i : Nat} {g : Slot → Slot} {l : List Nat} (hl : l.Nodup) (s : State) :
    (l.foldl (fun t n => t.updSlot (b + n) g) s).slot (b + i) = if i ∈ l then g (s.slot (b + i)) else s.slot (b + i) := by
  induction l generalizing s with
  | nil => simp
  | cons n l ih =>
    obtain ⟨hn, hl⟩ := List.nodup_cons.mp hl
    rw [List.foldl_cons, ih hl, State.slot_updSlot]
    by_cases hi : i = n
    · subst hi; simp [hn]
    · simp [hi]

theorem State.foldl_updSlot_slots (b : Nat) (g : Slot → Slot) (l : List Nat) (s : State) :
    ∃ ss, (l.foldl (fun t n => t.updSlot (b + n) g) s) = { s with slots := ss } := by
  induction l generalizing s with
  | nil => exact ⟨s.slots, rfl⟩
  | cons n l ih =>
    obtain ⟨ss, hss⟩ := ih (s.updSlot (b + n) g)
    exact ⟨ss, by rw [List.foldl_cons, hss]; rfl⟩

theorem State.messageHere_slots (s : State) (pid ck : Nat) : ∃ ss, s.messageHere pid ck = { s with slots := ss } := by
  unfold State.messageHere
  split
  · exact State.foldl_updSlot_slots ..
  · exact ⟨s.slots, rfl⟩

theorem State.core_messageHere (s : State) (pid ck n : Nat) : (s.messageHere pid ck).core n = s.core n := by
  obtain ⟨ss, hss⟩ := s.messageHere_slots pid ck
  rw [hss]
  rfl

theorem State.msgs_messageHere (s : State) (pid ck : Nat) : (s.messageHere pid ck).msgs = s.msgs := by
  obtain ⟨ss, hss⟩ := s.messageHere_slots pid ck
  rw [hss]

theorem State.slot_messageHere {s : State} {pid ck i : Nat} (h : s.runs pid (ck * 8) = true) (hi : i < 8)
    (hwait : (s.slot (ck * 8 + i)).st = .blocked .mwait) : (s.messageHere pid ck).slot (ck * 8 + i) = (s.slot (ck * 8 + i)).endWait 0 := by
  rw [State.messageHere, if_pos h, State.slot_foldl_updSlot List.nodup_range, if_pos (List.mem_range.mpr hi)]
  exact if_pos hwait

/-! ## MESSAGE_ACCEPT (R348, R370) -/

/-- The state in which a core has taken a message. -/
def State.tookMsg (s : State) (m : Msg) : State := ((s.updCoreIn m.pid m.dst fun c => c.take m).messageHere m.pid m.dst).acceptedMsg m

section
variable {s : State} {m : Msg} {tk : Nat} (hmsgs : s.msgs = [m]) (hnotice : m.notice = false) (hpeer : m.peer = false) (hst : m.st = .going)
  (harr : s.arrived m.pkt = true) (hrel : s.msgReleased m = true) (hcont : (s.quad (quadOfCore m.dst)).contained = false)

theorem State.msgHeld_alone (hmsgs : s.msgs = [m]) : s.msgHeld m = false := by simp [State.msgHeld, hmsgs]

theorem not_messageWaits (hst : m.st = .going) (harr : s.arrived m.pkt = true) (hcont : (s.quad (quadOfCore m.dst)).contained = false) :
    ¬ (m.st ≠ .going ∨ s.arrived m.pkt = false ∨ (s.quad (quadOfCore m.dst)).contained = true) := by
  rw [hst, harr, hcont]
  decide

theorem find_message (hmsgs : s.msgs = [m]) (hnotice : m.notice = false) : (s.msgs.find? fun x => decide (x.id = m.id) && !x.notice) = some m := by
  simp [hmsgs, hnotice]

include hmsgs hnotice hpeer hst harr hrel hcont

theorem messageAccept_denies (hctx : s.ctxOf (quadOfCore m.dst) m.pid = none) : exec (.messageAccept m.id) s = .next (s.denyMsg m) := by
  refine event_some ?_
  rw [find_message hmsgs hnotice, Option.bind_eq_bind, Option.bind_some, State.msgHeld_alone hmsgs, hrel, hpeer]
  dsimp only
  rw [if_neg (not_messageWaits hst harr hcont), hctx]
  rfl

variable (hctx : s.ctxOf (quadOfCore m.dst) m.pid ≠ none)
include hctx

theorem messageAccept_refuses (hfull : s.haltedIn m.pid (quadOfCore m.dst) = true ∨ 32 ≤ (s.coreIn m.pid m.dst).rxq.length) :
    exec (.messageAccept m.id) s = .next (s.refuseMsg m) := by
  have hno : (s.haltedIn m.pid (quadOfCore m.dst) || decide (32 ≤ (s.coreIn m.pid m.dst).rxq.length)) = true := by simpa using hfull
  refine event_some ?_
  rw [find_message hmsgs hnotice, Option.bind_eq_bind, Option.bind_some, State.msgHeld_alone hmsgs, hrel, hpeer]
  dsimp only
  rw [if_neg (not_messageWaits hst harr hcont), Option.isNone_eq_false_iff.mpr (Option.isSome_iff_ne_none.mpr hctx), hno]
  rfl

variable (hhalt : s.haltedIn m.pid (quadOfCore m.dst) = false) (hroom : (s.coreIn m.pid m.dst).rxq.length < 32)
include hhalt hroom

theorem messageAccept_takes (hseq : m.seq = none) : exec (.messageAccept m.id) s = .next (s.tookMsg m) := by
  have hno : (s.haltedIn m.pid (quadOfCore m.dst) || decide (32 ≤ (s.coreIn m.pid m.dst).rxq.length)) = false := by
    simpa [hhalt] using hroom
  refine event_some ?_
  rw [find_message hmsgs hnotice, Option.bind_eq_bind, Option.bind_some, State.msgHeld_alone hmsgs, hrel, hpeer]
  dsimp only
  rw [if_neg (not_messageWaits hst harr hcont), Option.isNone_eq_false_iff.mpr (Option.isSome_iff_ne_none.mpr hctx), hno, hseq]
  rfl

theorem messageAccept_numbered {n last : Nat} (hseq : m.seq = some n) (hlast : (s.coreIn m.pid m.dst).lastSeq m.sender = some last) :
    exec (.messageAccept m.id) s = .next (if n ≤ last then s.acceptedMsg m else s.tookMsg m) := by
  have hno : (s.haltedIn m.pid (quadOfCore m.dst) || decide (32 ≤ (s.coreIn m.pid m.dst).rxq.length)) = false := by
    simpa [hhalt] using hroom
  refine event_some ?_
  rw [find_message hmsgs hnotice, Option.bind_eq_bind, Option.bind_some, State.msgHeld_alone hmsgs, hrel, hpeer]
  dsimp only
  rw [if_neg (not_messageWaits hst harr hcont), Option.isNone_eq_false_iff.mpr (Option.isSome_iff_ne_none.mpr hctx), hno, hseq, hlast]
  rfl

end

section
variable {s : State} {m : Msg}

theorem State.core_tookMsg_running (h : s.runs m.pid (m.dst * 8) = true) : (s.tookMsg m).core m.dst = (s.core m.dst).take m := by
  rw [State.tookMsg, (State.meshOnly_acceptedMsg _ m).core, State.core_messageHere, State.updCoreIn_running h, State.core_updCore_same]

theorem State.slot_tookMsg_running {i : Nat} (h : s.runs m.pid (m.dst * 8) = true) (hi : i < 8)
    (hwait : (s.slot (m.dst * 8 + i)).st = .blocked .mwait) : (s.tookMsg m).slot (m.dst * 8 + i) = (s.slot (m.dst * 8 + i)).endWait 0 := by
  rw [State.tookMsg, (State.meshOnly_acceptedMsg _ m).slot, State.updCoreIn_running h]
  exact State.slot_messageHere (s := s.updCore m.dst fun c => c.take m) h hi hwait

theorem State.msgs_tookMsg {tk : Nat} (hsrc : m.src = some tk) : (s.tookMsg m).msgs.length = s.msgs.length := by
  rw [State.tookMsg, State.msgs_acceptedMsg hsrc, State.msgs_messageHere]
  unfold State.updCoreIn
  split <;> rfl

theorem State.tookMsg_saved {old : Saved} (h : s.runs m.pid (m.dst * 8) = false) (hshadow : (s.quad (quadOfCore m.dst)).shadow = [old])
    (hold : old.pid = m.pid) (hlen : old.cores.length = 4) :
    (s.tookMsg m).core m.dst = s.core m.dst ∧ (s.tookMsg m).coreIn m.pid m.dst = (s.coreIn m.pid m.dst).take m := by
  have hruns : (s.updCoreIn m.pid m.dst fun c => c.take m).runs m.pid (m.dst * 8) = false := by
    rw [State.updCoreIn_saved h, State.runs_updSaved, h]
  have hhere : (s.updCoreIn m.pid m.dst fun c => c.take m).messageHere m.pid m.dst = s.updCoreIn m.pid m.dst fun c => c.take m := by
    rw [State.messageHere, if_neg (ne_true_of_eq_false hruns)]
  rw [State.tookMsg, hhere]
  refine ⟨?_, ?_⟩
  · rw [(State.meshOnly_acceptedMsg _ m).core, State.updCoreIn_saved h, State.core_updSaved]
  · rw [(State.meshOnly_acceptedMsg _ m).coreIn, State.coreIn_updCoreIn_saved h hshadow hold hlen]

/-- The sender's entry bears the number of its newest message (R370). -/
theorem Core.lastSeq_take {c : Core} {n : Nat} (h : m.seq = some n) : (c.take m).lastSeq m.sender = some n := by
  rw [Core.take, Core.lastSeq, h]
  dsimp only
  rw [List.find?_append]
  have hnone : ((c.senders.filter fun e => decide (e.1 ≠ m.sender)).find? fun e => decide (e.1 = m.sender)) = none := by
    simp
  rw [hnone]
  simp

end

/-! ## The other events of a message (R348, R370) -/

theorem messageAcknowledge_ends {s : State} {m : Msg} {tk : Nat} (hmsgs : s.msgs = [m]) (hpeer : m.peer = false) (hst : m.st = .accepted)
    (hsrc : m.src = some tk) (hcounted : m.counted = true) (harr : s.arrived m.pkt = true) :
    exec (.messageAcknowledge m.id) s = .next (((s.dropPacket m.pkt).dropMsg m.id).endCount tk 1) := by
  have hfind : (s.msgs.find? fun x => decide (x.id = m.id ∧ x.st = .accepted) && s.arrived x.pkt) = some m := by simp [hmsgs, hst, harr]
  refine event_some ?_
  rw [hfind, Option.bind_eq_bind, Option.bind_some, State.endMsgCount, hsrc]
  dsimp only
  rw [hcounted, hpeer]
  rfl

theorem messageResend_goes {s : State} {m : Msg} {tk : Nat} (hmsgs : s.msgs = [m]) (hst : m.st = .refused) (hsrc : m.src = some tk)
    (hdue : m.again ≤ (s.region (regionOf (quadOf tk))).cycle) :
    ∃ u, exec (.messageResend m.id) s = .next u ∧ u.msgs = [{ m with st := .going, pkt := some s.ids }] := by
  have hfind : (s.msgs.find? fun x => decide (x.id = m.id ∧ x.st = .refused)) = some m := by simp [hmsgs, hst]
  refine ⟨(s.inject (quadOf tk) (quadOfCore m.dst) m.pid (s.pAt (quadOfCore m.dst) m.pid) (flitsFor m.data.length) 0 m.sid).setMsg
    { m with st := .going, pkt := some s.ids }, event_some ?_, ?_⟩
  · rw [hfind, Option.bind_eq_bind, Option.bind_some, hsrc, Option.getD_some]
    dsimp only
    rw [if_neg (Nat.not_lt.mpr hdue)]
    rfl
  · rw [State.setMsg, State.inject]
    dsimp only [State.takeId]
    rw [hmsgs]
    simp

theorem msgs_updCoreIn (s : State) (pid ck : Nat) (f : Core → Core) : (s.updCoreIn pid ck f).msgs = s.msgs := by
  unfold State.updCoreIn
  split <;> rfl

theorem Core.lastSeq_forget (c : Core) (sender : Nat) :
    Core.lastSeq { c with senders := c.senders.filter fun e => decide (e.1 ≠ sender) } sender = none := by
  simp [Core.lastSeq]

theorem freeNotice_forgets {s : State} {m : Msg} (hmsgs : s.msgs = [m]) (hnotice : m.notice = true) (hpeer : m.peer = false) :
    ∃ u, exec (.freeNoticeArrival m.id) s = .next u ∧ u.msgs = [] ∧ (u.coreIn m.pid m.dst).lastSeq m.sender = none
      ∧ (s.runs m.pid (m.dst * 8) = false → u.core m.dst = s.core m.dst) := by
  have hfind : (s.msgs.find? fun x => decide (x.id = m.id ∧ x.peer = false) && x.notice) = some m := by simp [hmsgs, hnotice, hpeer]
  have hfirst : s.msgBefore m = false := by simp [State.msgBefore, hmsgs]
  refine ⟨({ s with msgs := [] } : State).updCoreIn m.pid m.dst fun c => { c with senders := c.senders.filter fun e => decide (e.1 ≠ m.sender) },
    event_some ?_, ?_, ?_, fun hruns => ?_⟩
  · rw [hfind, Option.bind_eq_bind, Option.bind_some, hfirst, if_neg Bool.false_ne_true, hmsgs]
    have hgone : [m].filter (fun x => decide (x.id ≠ m.id)) = [] := by simp
    rw [hgone]
    rfl
  · rw [msgs_updCoreIn]
  · obtain h | h := State.coreIn_updCoreIn { s with msgs := [] } m.pid m.dst fun c =>
      { c with senders := c.senders.filter fun e => decide (e.1 ≠ m.sender) }
    · rw [h]; exact Core.lastSeq_forget _ _
    · rw [h]; rfl
  · have hruns' : ({ s with msgs := [] } : State).runs m.pid (m.dst * 8) = false := hruns
    rw [State.updCoreIn_saved hruns', State.core_updSaved]
    rfl

/-! ## c31 (R349) -/

theorem coreOf_slotNo (tk : Nat) : coreOf tk * 8 + slotNo tk = tk := by rw [coreOf, slotNo]; omega

theorem c31SendBlock_enters {s : State} {tk : Nat} {v : Word} (htk : tk < 73728) (hpushes : ∀ p ∈ (s.slot tk).pushes, p.1 ≠ 63)
    (hroom : (s.core (coreOf tk)).c31.length < 8) : exec (.c31SendBlock tk v) s = .next (s.setCore (coreOf tk)
      { s.core (coreOf tk) with c31 := (s.core (coreOf tk)).c31 ++ [(slotNo tk, v, (s.slot tk).pc)] }) := by
  have hbehind : ((s.slot (coreOf tk * 8 + slotNo tk)).pushes.any fun p => decide (p.1 = 63)) = false := by
    rw [coreOf_slotNo]
    simpa using hpushes
  have hpush : s.pushPort (coreOf tk) (slotNo tk) 63 v (s.slot tk).pc = some (s.setCore (coreOf tk)
      { s.core (coreOf tk) with c31 := (s.core (coreOf tk)).c31 ++ [(slotNo tk, v, (s.slot tk).pc)] }) := by
    unfold State.pushPort
    dsimp only
    rw [if_neg (by decide), if_neg (by decide), if_pos hroom]
  refine unitEvent_some (by simpa [slotOk] using htk) (congrArg some ?_)
  unfold State.pushOrHold
  dsimp only
  rw [hbehind, if_neg Bool.false_ne_true, hpush]

section
variable {s t left : State} {ck : Nat} {e : Nat × Word × Word} {rest : List (Nat × Word × Word)} (hck : ck < 9216)
  (hc31 : (s.core ck).c31 = e :: rest) (ht : ({ s with cur := ck * 8 + e.1 } : State) = t)
  (hleft : (s.updCore ck fun c => { c with c31 := rest }) = left)

include hc31 hleft in
/-- The send block leaves its port. -/
theorem sendBlock_left : (s.updCore ck fun c => { c with c31 := c.c31.tail }) = left := by
  rw [← hleft, State.updCore, State.updCore, hc31]
  rfl

include hck hc31 ht hleft

theorem sendBlockRead_traps {cause : Nat} {info : Word} (hbad : (t.sendBlock e.2.1).1 = some (cause, info)) :
    exec (.sendBlockRead ck) s = .next (left.postOrReport (ck * 8 + e.1) cause info e.2.2) := by
  refine unitEvent_some (by simpa [coreOk] using hck) ?_
  rw [sendBlock_left hc31 hleft, hc31, List.head?_cons, Option.bind_eq_bind, Option.bind_some]
  dsimp only
  rw [ht, hbad]
  rfl

theorem sendBlockRead_posts {a tag : Word} {data : List Byte} (hgood : t.sendBlock e.2.1 = (none, a, tag, data))
    (howned : ∀ j i, s.owned j i = false) (htx : (s.core ck).txq.length < 8)
    (hroom : (s.slot (ck * 8 + e.1)).cnt.val ((t.msgPlace t.myPid a).getD .ctl).ctr < ctrMax ((t.msgPlace t.myPid a).getD .ctl).ctr) :
    exec (.sendBlockRead ck) s = .next (left.post (ck * 8 + e.1) ((t.msgPlace t.myPid a).getD .ctl) a tag data true e.2.2) := by
  have htxRoom : (s.core ck).txRoom = true := decide_eq_true htx
  have hfull : decide (ctrMax ((t.msgPlace t.myPid a).getD .ctl).ctr ≤ (s.slot (ck * 8 + e.1)).cnt.val ((t.msgPlace t.myPid a).getD .ctl).ctr)
      = false := decide_eq_false (Nat.not_le.mpr hroom)
  refine unitEvent_some (by simpa [coreOk] using hck) ?_
  rw [sendBlock_left hc31 hleft, hc31, List.head?_cons, Option.bind_eq_bind, Option.bind_some]
  dsimp only
  rw [ht, hgood]
  dsimp only
  refine if_neg ?_
  rw [howned, howned, htxRoom, hfull]
  exact Bool.false_ne_true

end

end Sys2Proof.Machine

open Sys2Proof Sys2Proof.Machine

/-- Settles O45: the accepting of a message by the cases of R348, with what it leaves in the core and the mesh; the other events of a
message; the send blocks of c31. -/
theorem messageEvents : Obligations.MessageEvents := by
  unfold Obligations.MessageEvents
  intro s m ck tk n last v a tag e rest data old hck htk
  refine ⟨fun hmsgs hnotice hpeer => ⟨fun hst hsrc harr hrel hcont => ⟨fun hctx => ?_, fun hctx hruns hshadow hold hlen hhalt hroom hseq => ?_,
    fun hctx hruns => ⟨fun hfull => ?_, fun hhalt hroom => ⟨fun hseq => ?_, fun hseq hlast => ⟨fun hle => ?_, fun hlt => ?_⟩⟩⟩⟩,
    fun hst hsrc hcounted harr => messageAcknowledge_ends hmsgs hpeer hst hsrc hcounted harr,
    fun hst hsrc hdue => messageResend_goes hmsgs hst hsrc hdue⟩, fun hmsgs hnotice hpeer => freeNotice_forgets hmsgs hnotice hpeer,
    unitEvent_some (by simpa [coreOk] using hck) rfl, fun hpushes hroom => c31SendBlock_enters htk hpushes hroom,
    fun hc31 => ⟨fun cause info hbad => sendBlockRead_traps hck hc31 rfl rfl hbad,
      fun hgood howned htx hroom => sendBlockRead_posts hck hc31 rfl rfl hgood howned htx hroom⟩⟩
  · exact messageAccept_denies hmsgs hnotice hpeer hst harr hrel hcont hctx
  · obtain ⟨hcore, hcoreIn⟩ := State.tookMsg_saved hruns hshadow hold hlen
    refine ⟨s.tookMsg m, messageAccept_takes hmsgs hnotice hpeer hst harr hrel hcont hctx ?_ hroom hseq, hcore, ?_⟩
    · rw [State.haltedIn_saved hruns hshadow hold, hhalt]
    · rw [hcoreIn]; rfl
  · refine messageAccept_refuses hmsgs hnotice hpeer hst harr hrel hcont hctx ?_
    rw [State.haltedIn_running hruns, State.coreIn_running hruns]
    exact hfull
  · refine ⟨s.tookMsg m, ⟨messageAccept_takes hmsgs hnotice hpeer hst harr hrel hcont hctx ?_ ?_ hseq, ?_⟩, ?_, ?_, fun i hi hwait => ?_⟩
    · rw [State.haltedIn_running hruns, hhalt]
    · rw [State.coreIn_running hruns]; exact hroom
    · rw [State.core_tookMsg_running hruns]; rfl
    · rw [State.msgs_tookMsg hsrc, hmsgs]; rfl
    · rw [State.core_tookMsg_running hruns, Core.take, hseq]
    · rw [State.slot_tookMsg_running hruns hi hwait]; exact ⟨rfl, rfl⟩
  · have haccept := messageAccept_numbered hmsgs hnotice hpeer hst harr hrel hcont hctx (by rw [State.haltedIn_running hruns, hhalt])
      (by rw [State.coreIn_running hruns]; exact hroom) hseq (by rw [State.coreIn_running hruns]; exact hlast)
    rwa [if_pos hle] at haccept
  · have haccept := messageAccept_numbered hmsgs hnotice hpeer hst harr hrel hcont hctx (by rw [State.haltedIn_running hruns, hhalt])
      (by rw [State.coreIn_running hruns]; exact hroom) hseq (by rw [State.coreIn_running hruns]; exact hlast)
    rw [if_neg (Nat.not_le.mpr hlt)] at haccept
    refine ⟨s.tookMsg m, ⟨haccept, ?_⟩, ?_⟩
    · rw [State.core_tookMsg_running hruns]; rfl
    · rw [State.core_tookMsg_running hruns, Core.lastSeq_take hseq]

end

section
/-! SUPPORT. Requests to the panel controller (R337). -/

namespace Sys2Proof.Machine

section
variable {s t : State} {r : CtrlReq}

/-- The only request is the oldest of its slot. -/
theorem ctrlEvent_alone {code : Nat → Bool} {k : CtrlReq → State} (h : s.ctrl = [r]) (hcode : code (fld r.w0 0 8) = true) :
    ctrlEvent r.id code s k = .next (k r) := by
  have hfind : (s.ctrl.find? fun x => decide (x.id = r.id)) = some r := by simp [h]
  have holder : (s.ctrl.any fun x => decide (x.thr = r.thr ∧ x.id < r.id)) = false := by simp [h]
  refine event_some ?_
  rw [hfind, Option.bind_eq_bind, Option.bind_some, hcode, holder]
  rfl

theorem ctrlEvent_code {n : Nat} {k : CtrlReq → State} (h : s.ctrl = [r]) (hcode : fld r.w0 0 8 = n) :
    ctrlEvent r.id (fun c => decide (c = n)) s k = .next (k r) :=
  ctrlEvent_alone (code := fun c => decide (c = n)) h (decide_eq_true hcode)

/-- A state that answers a request: it has gone, memory stands, and one message more is on its way to the core that asked. -/
def State.answered (s : State) (r : CtrlReq) (w0 : Word) (data : List Byte) (u : State) : Prop :=
  u.ctrl = [] ∧ u.mem = s.mem ∧ ∃ m, u.msgs = s.msgs ++ [m] ∧ m.dst = coreOf r.thr ∧ m.data = leBytes 8 w0.toNat ++ data

theorem State.answered_ctrlReply {w0 : Word} {data : List Byte} (hctrl : t.ctrl = [r]) (hmem : t.mem = s.mem) (hmsgs : t.msgs = s.msgs) :
    s.answered r w0 data (t.ctrlReply r w0 data) := by
  refine ⟨?_, hmem, { id := t.ids, hdr := msgHeader false true (leBytes 8 w0.toNat ++ data).length t.panel.number 0xFFFF r.tag, data := leBytes 8 w0.toNat ++ data, dst := coreOf r.thr, pid := r.pid }, ?_, rfl, rfl⟩
  · show t.ctrl.filter _ = []
    rw [hctrl]
    simp
  · show t.msgs ++ _ = s.msgs ++ _
    rw [hmsgs]

/-- A request that a status alone answers. -/
theorem ctrl_status {i : Instr} {n : Nat} (hctrl : t.ctrl = [r]) (hmem : t.mem = s.mem) (hmsgs : t.msgs = s.msgs) (hparts : t.parts = s.parts)
    (hpanel : t.panel = s.panel) (h : exec i s = .next (t.ctrlStatus r n)) :
    ∃ u, (exec i s = .next u ∧ s.answered r (word n) [] u) ∧ u.parts = s.parts ∧ u.panel = s.panel :=
  ⟨t.ctrlStatus r n, ⟨h, State.answered_ctrlReply hctrl hmem hmsgs⟩, hparts, hpanel⟩

end

/-! ## Slot tables (R329) -/

theorem slotTab_foldl {hops : List (Nat × Nat)} {v : BitVec 32} (m : FMap (BitVec 32)) (k : Nat)
    (h : FMap.get 0 m k = v ∨ ∃ e ∈ hops, e.1 * 16 + e.2 = k) :
    FMap.get 0 (hops.foldl (fun m e => FMap.set 0 m (e.1 * 16 + e.2) v) m) k = v := by
  induction hops generalizing m with
  | nil => simpa using h
  | cons e l ih =>
    rw [List.foldl_cons]
    refine ih _ ?_
    by_cases hk : e.1 * 16 + e.2 = k
    · subst hk; exact .inl (FMap.get_set_same ..)
    · obtain h | ⟨x, hx, hxk⟩ := h
      · rw [FMap.get_set_ne _ _ _ (Ne.symm hk)]; exact .inl h
      · obtain rfl | hx := List.mem_cons.mp hx
        · exact absurd hxk hk
        · exact .inr ⟨x, hx, hxk⟩

/-- The slots that were written (R329). -/
theorem State.slotEntry_setSlots {s : State} {hops : List (Nat × Nat)} {v : BitVec 32} {h : Nat × Nat} (hh : h ∈ hops) :
    (s.setSlots hops v).slotEntry h.1 h.2 = v :=
  slotTab_foldl _ _ (.inr ⟨h, hh, rfl⟩)

theorem State.pathSlots_draw (s : State) (mask : BitVec 16) (ls : List Nat) (h x : Nat) :
    s.draw.pathSlots mask ls h x = s.pathSlots mask ls h x := by
  induction ls generalizing h x with
  | nil => rfl
  | cons l ls ih =>
    rw [State.pathSlots, State.pathSlots, ih]
    rfl

/-- A free value drawn does not change a path. -/
theorem State.openPlan_draw (s : State) (pid : Nat) (t : Stream) : s.draw.openPlan pid t = s.openPlan pid t := by
  unfold State.openPlan
  dsimp only
  rw [State.pathSlots_draw]
  rfl

/-! ## The codes -/

section
variable {s : State} {r : CtrlReq} (hctrl : s.ctrl = [r])
include hctrl

theorem ctrlOpenStream_of_status (hcode : fld r.w0 0 8 = 1) {n : Nat} (hn : s.openStatus r = n) :
    exec (.ctrlOpenStream r.id) s = .next ((if n = 0 then s.draw.openStream r.pid r.stream else s.draw).ctrlStatus r n) := by
  subst hn
  exact ctrlEvent_code hctrl hcode

theorem openStream_refused (hcode : fld r.w0 0 8 = 1) {n : Nat} (hn : s.openStatus r = n) (hne : n ≠ 0) :
    ∃ u, (exec (.ctrlOpenStream r.id) s = .next u ∧ s.answered r (word n) [] u) ∧ u.parts = s.parts ∧ u.panel = s.panel := by
  have hexec := ctrlOpenStream_of_status hctrl hcode hn
  rw [if_neg hne] at hexec
  exact ctrl_status (t := s.draw) hctrl rfl rfl rfl rfl hexec

/-- An open that finds its slots claims them all (R337). -/
theorem openStream_claims (hcode : fld r.w0 0 8 = 1) (hn : s.openStatus r = 0) :
    ∃ u, (exec (.ctrlOpenStream r.id) s = .next u ∧ s.answered r 0 [] u)
      ∧ (u.part r.pid).streams = (s.part r.pid).streams ++ [{ r.stream with hops := (s.openPlan r.pid r.stream).2 }]
      ∧ ∀ h ∈ (s.openPlan r.pid r.stream).2, h.2 < 16 → u.slotEntry h.1 h.2 = slotOwner r.pid r.stream.sid := by
  have hexec := ctrlOpenStream_of_status hctrl hcode hn
  rw [if_pos rfl] at hexec
  refine ⟨_, ⟨hexec, State.answered_ctrlReply hctrl rfl rfl⟩, ?_, fun h hh _ => ?_⟩
  · show ((s.draw.openStream r.pid r.stream).part r.pid).streams = _
    rw [State.openStream, State.part_updPart_same, State.openPlan_draw]
    rfl
  · rw [← State.openPlan_draw] at hh
    exact State.slotEntry_setSlots (s := s.draw) hh

theorem closeStream_absent (hcode : fld r.w0 0 8 = 2) (hbits : otherBits r.w0 [(0, 8), (8, 12)] = false)
    (habsent : ∀ t ∈ (s.part r.pid).streams, t.sid ≠ fld r.w0 8 12) : exec (.ctrlCloseStream r.id) s = .next (s.ctrlStatus r 4) := by
  have hfind : ((s.part r.pid).streams.find? fun t => decide (t.sid = fld r.w0 8 12)) = none := by simpa using habsent
  refine (ctrlEvent_code hctrl hcode).trans ?_
  rw [hbits, if_neg Bool.false_ne_true, hfind]

theorem closeStream_ends {x : Stream} (hcode : fld r.w0 0 8 = 2) (hbits : otherBits r.w0 [(0, 8), (8, 12)] = false)
    (hstreams : (s.part r.pid).streams = [x]) (hsid : x.sid = fld r.w0 8 12) :
    ∃ u, (exec (.ctrlCloseStream r.id) s = .next u ∧ s.answered r 0 [] u) ∧ (u.part r.pid).streams = []
      ∧ ∀ h ∈ x.hops, h.2 < 16 → u.slotEntry h.1 h.2 = 0 := by
  have hfind : ((s.part r.pid).streams.find? fun t => decide (t.sid = fld r.w0 8 12)) = some x := by simp [hstreams, hsid]
  have hexec : exec (.ctrlCloseStream r.id) s = .next ((s.closeStream r.pid x).ctrlStatus r 0) := by
    refine (ctrlEvent_code hctrl hcode).trans ?_
    rw [hbits, if_neg Bool.false_ne_true, hfind]
  refine ⟨_, ⟨hexec, State.answered_ctrlReply hctrl rfl rfl⟩, ?_, fun h hh _ => State.slotEntry_setSlots hh⟩
  show ((s.closeStream r.pid x).part r.pid).streams = []
  rw [State.closeStream, State.part_updPart_same]
  show (s.part r.pid).streams.filter _ = []
  rw [hstreams]
  simp

theorem readLink_outside (hcode : fld r.w0 0 8 = 3) (hbits : otherBits r.w0 [(0, 11), (12, 2)] = false)
    (hquad : s.physQuad r.pid (fld r.w0 0 11) = none) : exec (.ctrlReadLink r.id) s = .next (s.ctrlStatus r 5) := by
  refine (ctrlEvent_code hctrl hcode).trans ?_
  rw [hbits, if_neg Bool.false_ne_true, hquad]

theorem readLink_answers {qi : Nat} (hcode : fld r.w0 0 8 = 3) (hbits : otherBits r.w0 [(0, 11), (12, 2)] = false)
    (hquad : s.physQuad r.pid (fld r.w0 0 11) = some qi) :
    exec (.ctrlReadLink r.id) s = .next (s.ctrlReply r (word (FMap.get 0 s.panel.width (qi * 4 + fld r.w0 12 2) * 256))
      (leBytes 8 0 ++ (List.range 16).flatMap fun i => leBytes 4 (s.slotEntry (qi * 4 + fld r.w0 12 2) i).toNat)) := by
  refine (ctrlEvent_code hctrl hcode).trans ?_
  rw [hbits, if_neg Bool.false_ne_true, hquad]

theorem readBanded_answers (hcode : fld r.w0 0 8 = 4) (hbits : otherBits r.w0 [(0, 8), (8, 4)] = false) (hband : fld r.w0 8 4 ≤ 14) :
    exec (.ctrlReadBandedLatency r.id) s = .next (s.ctrlReply r 0 ((List.range 2).flatMap fun dir => (List.range 8).flatMap fun j =>
      leBytes 4 (s.band (fld r.w0 8 4) dir j).toNat)) := by
  refine (ctrlEvent_code hctrl hcode).trans ?_
  have hno : (otherBits r.w0 [(0, 8), (8, 4)] || decide (14 < fld r.w0 8 4)) = false := by simpa [hbits] using hband
  dsimp only
  rw [hno, if_neg Bool.false_ne_true]

theorem readEdge_outside (hcode : fld r.w0 0 8 = 5) (hbits : otherBits r.w0 [(0, 8), (8, 5)] = false)
    (howned : FMap.get 0 (s.edge (fld r.w0 8 5)).owned r.pid = 0) : exec (.ctrlReadEdgeUnit r.id) s = .next (s.ctrlStatus r 5) := by
  refine (ctrlEvent_code hctrl hcode).trans ?_
  dsimp only
  rw [hbits, if_neg Bool.false_ne_true, if_pos howned]

theorem readEdge_answers (hcode : fld r.w0 0 8 = 5) (hbits : otherBits r.w0 [(0, 8), (8, 5)] = false)
    (howned : FMap.get 0 (s.edge (fld r.w0 8 5)).owned r.pid ≠ 0) :
    exec (.ctrlReadEdgeUnit r.id) s = .next (s.ctrlReply r 0 ((s.edge (fld r.w0 8 5)).block r.pid)) := by
  refine (ctrlEvent_code hctrl hcode).trans ?_
  dsimp only
  rw [hbits, if_neg Bool.false_ne_true, if_neg howned]

section
variable (hcode : fld r.w0 0 8 = 6) (hbits : otherBits r.w0 [(0, 8), (8, 9), (17, 5), (32, 16)] = false) (hpeer : fld r.w0 8 9 < 384)
include hcode hbits hpeer

/-- The route of a partition to a peer on a unit's wavelengths (R337, request 6). -/
def State.routed (s : State) (pid peer unit : Nat) (m : BitVec 16) : State :=
  s.updPart pid fun p => { p with routes := (p.routes.filter fun x => decide (x.1 ≠ peer)) ++ [(peer, unit, m)] }

theorem routePeer_of_owned : exec (.ctrlRoutePeer r.id) s = .next
    (if FMap.get 0 (s.edge (fld r.w0 17 5)).owned r.pid = 0
        ∨ BitVec.ofNat 16 (fld r.w0 32 16) &&& ~~~FMap.get 0 (s.edge (fld r.w0 17 5)).owned r.pid ≠ 0 then s.ctrlStatus r 5
      else (s.routed r.pid (fld r.w0 8 9) (fld r.w0 17 5) (BitVec.ofNat 16 (fld r.w0 32 16))).ctrlStatus r 0) := by
  refine (ctrlEvent_code hctrl hcode).trans ?_
  have hno : (otherBits r.w0 [(0, 8), (8, 9), (17, 5), (32, 16)] || decide (384 ≤ fld r.w0 8 9)) = false := by simpa [hbits] using hpeer
  dsimp only
  rw [hno, if_neg Bool.false_ne_true]
  rfl

theorem routePeer_enters (howned : FMap.get 0 (s.edge (fld r.w0 17 5)).owned r.pid ≠ 0)
    (hmask : BitVec.ofNat 16 (fld r.w0 32 16) &&& ~~~FMap.get 0 (s.edge (fld r.w0 17 5)).owned r.pid = 0) :
    ∃ u, (exec (.ctrlRoutePeer r.id) s = .next u ∧ s.answered r 0 [] u)
      ∧ (fld r.w0 8 9, fld r.w0 17 5, BitVec.ofNat 16 (fld r.w0 32 16)) ∈ (u.part r.pid).routes
      ∧ (u.part r.pid).hasRoute (fld r.w0 8 9) = true := by
  have hexec := routePeer_of_owned hctrl hcode hbits hpeer
  rw [if_neg (not_or.mpr ⟨howned, not_not.mpr hmask⟩)] at hexec
  have hmem : (fld r.w0 8 9, fld r.w0 17 5, BitVec.ofNat 16 (fld r.w0 32 16)) ∈
      (((s.routed r.pid (fld r.w0 8 9) (fld r.w0 17 5) (BitVec.ofNat 16 (fld r.w0 32 16))).ctrlStatus r 0).part r.pid).routes := by
    show _ ∈ ((s.routed r.pid (fld r.w0 8 9) (fld r.w0 17 5) (BitVec.ofNat 16 (fld r.w0 32 16))).part r.pid).routes
    rw [State.routed, State.part_updPart_same]
    exact List.mem_append_right _ (List.mem_singleton.mpr rfl)
  refine ⟨_, ⟨hexec, State.answered_ctrlReply hctrl rfl rfl⟩, hmem, ?_⟩
  exact List.any_eq_true.mpr ⟨_, hmem, decide_eq_true rfl⟩

end

end

end Sys2Proof.Machine

open Sys2Proof Sys2Proof.Machine

/-- Settles O46: the only request is answered by the cases of its code. -/
theorem controllerRequests : Obligations.ControllerRequests := by
  unfold Obligations.ControllerRequests
  intro s r x hctrl
  refine ⟨fun hcode => ⟨fun hrefusal => ?_, fun hrefusal => ?_⟩, fun hcode hbits => ⟨fun habsent => ?_, fun hstreams hsid => ?_⟩,
    fun hcode hbits => ⟨fun hquad => ?_, fun qi hquad => ?_⟩, fun hcode hbits hband => ?_, fun hcode hbits => ⟨fun howned => ?_, fun howned => ?_⟩,
    fun hcode hbits hpeer => ⟨fun hmask => ?_, fun howned hmask => ?_⟩, fun hcode => ?_⟩
  · have hstatus : s.openStatus r = s.openRefusal r := by rw [State.openStatus, if_neg hrefusal]
    exact openStream_refused hctrl hcode hstatus hrefusal
  · split
    · next hgone =>
      have hstatus : s.openStatus r = 6 := by rw [State.openStatus, if_pos hrefusal, if_pos hgone]
      exact openStream_refused hctrl hcode hstatus (by decide)
    · next hleft =>
      have hstatus : s.openStatus r = 0 := by rw [State.openStatus, if_pos hrefusal, if_neg hleft]
      exact openStream_claims hctrl hcode hstatus
  · exact ctrl_status hctrl rfl rfl rfl rfl (closeStream_absent hctrl hcode hbits habsent)
  · exact closeStream_ends hctrl hcode hbits hstreams hsid
  · exact ctrl_status hctrl rfl rfl rfl rfl (readLink_outside hctrl hcode hbits hquad)
  · exact ⟨_, readLink_answers hctrl hcode hbits hquad, State.answered_ctrlReply hctrl rfl rfl⟩
  · exact ⟨_, readBanded_answers hctrl hcode hbits hband, State.answered_ctrlReply hctrl rfl rfl⟩
  · exact ctrl_status hctrl rfl rfl rfl rfl (readEdge_outside hctrl hcode hbits howned)
  · exact ⟨_, readEdge_answers hctrl hcode hbits howned, State.answered_ctrlReply hctrl rfl rfl⟩
  · have hexec := routePeer_of_owned hctrl hcode hbits hpeer
    rw [if_pos (.inr hmask)] at hexec
    exact ctrl_status hctrl rfl rfl rfl rfl hexec
  · exact routePeer_enters hctrl hcode hbits hpeer howned hmask
  · exact ctrl_status hctrl rfl rfl rfl rfl (ctrlEvent_alone hctrl (code := fun c => decide (c = 0 ∨ 7 ≤ c)) (decide_eq_true hcode))

end

section
/-! SUPPORT. A state that refutes the statement on the mesh: the failed quad of a map change has a number that the panel does not have. -/

namespace Sys2Proof.Machine

/-- Quad 0 is to take the place of quad 2304, which no panel has. -/
def strayChange : MapChange := { time := 0, op := .contain 2304 0 (some 0) }

/-- A state whose regions run, but for a seventeenth one, which quad 2304 would lie in. -/
def strayState : State := { State.reset with regions := [(16, { frozen := true })], changes := [strayChange] }

/-- The state in which the change has been adopted but for its time. -/
def strayDue : State := { strayState with changes := [] }

/-- The model does not put quad 0 in the place of a quad whose region does not run (R383). -/
theorem replaces_of_mapSwitch : ∃ t, exec (.mapSwitch 0) strayState = .next t ∧ (t.quad 0).replaces = none := ⟨_, rfl, by decide⟩

/-- The substitution does. -/
theorem replaces_of_substitute :
    ((((strayDue.remapped 2304 0 (some 0)).substitute 2304 0).regrade (regionOf 2304)).quad 0).replaces = some 2304 := by
  rw [State.quad, (State.sameUnits_regrade _ _).2.1]
  show (((strayDue.remapped 2304 0 (some 0)).substitute 2304 0).quad 0).replaces = some 2304
  decide +kernel

end Sys2Proof.Machine

open Sys2Proof Sys2Proof.Machine

/-- Refutes O47: the adoption of a containment is stated for a failed quad of any number; for one outside the panel its region may have a
stopped clock although the panel's 16 regions run, and the model then maps the quad away without the substitution. -/
theorem not_meshEvents : ¬ Obligations.MeshEvents := by
  unfold Obligations.MeshEvents
  intro h
  have hall := h strayState { id := 0, src := 0, dst := 0, pid := 0, p := 0, epoch := 0, lane := 0, sid := none, flits := 0 }
    { pkt := 0, seq := 0, at_ := 0 } { pkt := 0, seq := 0, at_ := 0 } 0 0 0 0 0 2304 0 0 0 0 0 0 0 0 strayChange
  obtain ⟨_, _, _, _, _, _, hswitch⟩ := hall
  have hnext := (hswitch rfl (by decide) (by decide) (by decide)).1 rfl (by decide) (by decide)
  obtain ⟨t, hexec, hlone⟩ := replaces_of_mapSwitch
  rw [hexec] at hnext
  injection hnext with hstate
  have hmoved := replaces_of_substitute
  rw [strayDue, ← hstate, hlone] at hmoved
  cases hmoved
end

section
/-! SUPPORT. Bursts of the optical edge, and the times of in-router reductions (R353 to R355, R377). -/

namespace Sys2Proof.Machine

theorem State.edge_updEdge (s : State) (unit : Nat) (f : Edge → Edge) : (s.updEdge unit f).edge unit = f (s.edge unit) :=
  FMap.get_set_same ..

theorem State.edge_burstTo (s : State) (ids : List Nat) (st : Stage) (ms : MsgSt) (unit : Nat) : (s.burstTo ids st ms).edge unit = s.edge unit := rfl

section
variable {s : State} {unit peer seq pid : Nat} (hunit : unit < 32)
include hunit

/-! ## Bursts sent (R353) -/

theorem burstSend_leaves {pt : Part} {m : BitVec 16} (hparts : s.parts = [(pid, pt)]) (hroutes : pt.routes = [(peer, unit, m)])
    (husable : (s.edge unit).usable m = true) (hwaits : s.atEdge pid peer ≠ [])
    (hacked : ∀ x ∈ (s.edge unit).unacked, x.peer ≠ peer ∨ x.pid ≠ pid) :
    exec (.burstSend unit peer) s = .next ((s.burstTo (fitBurst (s.atEdge pid peer) burstBytes) .burst .burst).updEdge unit fun e =>
      { e with
        unacked := e.unacked ++ [{ seq := (s.edge unit).nextSeq, peer, pid, ids := fitBurst (s.atEdge pid peer) burstBytes, time := (s.region 0).tcnt }]
        nextSeq := e.nextSeq + 1, txb := e.txb + 1 }) := by
  have hready : (s.parts.filter fun p => p.2.routes.any fun r => decide (r.1 = peer ∧ r.2.1 = unit) && (s.edge unit).usable r.2.2
      && !(s.atEdge p.1 peer).isEmpty && (s.edge unit).unacked.all fun b => decide (b.peer ≠ peer ∨ b.pid ≠ p.1)) = [(pid, pt)] := by
    have hempty : (s.atEdge pid peer).isEmpty = false := by simpa using hwaits
    have hall : ((s.edge unit).unacked.all fun b => decide (b.peer ≠ peer ∨ b.pid ≠ pid)) = true := by
      simpa only [List.all_eq_true, decide_eq_true_eq] using hacked
    rw [hparts, List.filter_cons_of_pos]
    · rfl
    · rw [hroutes, List.any_cons, husable, hempty, hall]
      simp
  refine unitEvent_some (by simpa using hunit) ?_
  dsimp only
  rw [hready]
  rfl

variable {b : Burst} (hunacked : (s.edge unit).unacked = [b]) (hseq : b.seq = seq)
include hunacked hseq

omit hunit in
theorem Edge.burst_alone : (s.edge unit).burst seq = some b := by simp [Edge.burst, hunacked, hseq]

/-- The packets of an acknowledged burst are at their peer. -/
theorem burstAck_arrives : ∃ u, exec (.burstAck unit seq) s = .next u ∧ (u.edge unit).unacked = []
    ∧ (∀ x ∈ u.flights, b.ids.contains x.id = true → x.stage = .peer) ∧ ∀ x ∈ u.msgs, b.ids.contains x.id = true → x.st = .atPeer := by
  refine ⟨(s.burstTo b.ids .peer .atPeer).dropBurst unit seq, unitEvent_some (by simpa using hunit) ?_, ?_, ?_, ?_⟩
  · rw [Edge.burst_alone hunacked hseq]
    rfl
  · rw [State.dropBurst, State.edge_updEdge, State.edge_burstTo, hunacked]
    simp [hseq]
  · simp only [State.dropBurst, State.updEdge, State.burstTo, List.forall_mem_map]
    intro f _ hf
    split
    · rfl
    · next hno => simp_all
  · simp only [State.dropBurst, State.updEdge, State.burstTo, List.forall_mem_map]
    intro m _ hm
    split
    · rfl
    · next hno => simp_all

theorem burstResend_again (hdue : b.time.toNat + 8000 ≤ (s.region 0).tcnt.toNat) : ∃ u, exec (.burstResend unit seq) s = .next u
    ∧ (u.edge unit).unacked = [{ b with time := (s.region 0).tcnt }] ∧ (u.edge unit).resend = (s.edge unit).resend + 1 := by
  refine ⟨s.updEdge unit fun e => { e with resend := e.resend + 1, unacked := e.unacked.map fun x =>
    if x.seq = seq then { x with time := (s.region 0).tcnt } else x }, unitEvent_some (by simpa using hunit) ?_, ?_, ?_⟩
  · rw [Edge.burst_alone hunacked hseq, Option.bind_eq_bind, Option.bind_some, if_neg (Nat.not_lt.mpr hdue)]
    rfl
  · rw [State.edge_updEdge, hunacked]
    simp [hseq]
  · rw [State.edge_updEdge]

theorem burstRefusal_denies {f : Flight} (hflights : s.flights = [f]) (hmsgs : s.msgs = []) (hids : b.ids = [f.id]) :
    exec (.burstRefusal unit seq) s = .next ((s.dropBurst unit seq).denialArrives f) := by
  have hfs : (s.flights.filter fun f => b.ids.contains f.id) = [f] := by simp [hflights, hids]
  refine unitEvent_some (by simpa using hunit) ?_
  rw [Edge.burst_alone hunacked hseq, Option.bind_eq_bind, Option.bind_some]
  dsimp only
  rw [hfs, hmsgs]
  rfl

end

/-! ## Bursts received (R353) -/

section
variable {s : State} {unit panel seq : Nat} {pkts : List PeerPkt} (hunit : unit < 32)
include hunit

theorem burstReceive_copy (haccepted : (s.edge unit).accepted.contains (panel, seq) = true) :
    exec (.burstReceive unit panel seq true pkts) s = .next (s.updEdge unit fun e => { e with rxb := e.rxb + 1 }) := by
  refine unitEvent_some (by simpa using hunit) ?_
  dsimp only
  rw [haccepted]
  rfl

theorem burstReceive_good (haccepted : (s.edge unit).accepted.contains (panel, seq) = false)
    (hfree : ∀ x ∈ pkts, s.peerWaits panel x = false) : exec (.burstReceive unit panel seq true pkts) s =
      .next (pkts.foldl (fun t x => t.receive panel x) ((s.updEdge unit fun e => { e with rxb := e.rxb + 1 }).updEdge unit fun e =>
        { e with accepted := e.accepted ++ [(panel, seq)] })) := by
  have hnone : (pkts.any fun x => s.peerWaits panel x) = false := by simpa only [List.any_eq_false, Bool.not_eq_true] using hfree
  refine unitEvent_some (by simpa using hunit) ?_
  dsimp only
  rw [haccepted, hnone]
  rfl

end

/-! ## In-router reductions (R377) -/

section
variable {s : State} {h : RedHold} (hholds : s.redHolds = [h])
include hholds

theorem holdExpiry_map : ((s.redHolds.find? fun x => decide (x.id = h.id)) = some h)
    ∧ (s.redHolds.filter fun x => decide (x.id ≠ h.id)) = [] := by
  rw [hholds]
  simp

theorem holdExpiry_ends (hend : s.redNext h = none ∨ h.flights = []) :
    exec (.reductionHoldExpiry h.id) s = .next { s with redHolds := [] } := by
  obtain ⟨hfind, hgone⟩ := holdExpiry_map hholds
  refine event_some ?_
  rw [hfind, Option.map_some, hgone]
  rcases hend with hend | hend
  · rw [hend]
  · rw [hend]
    cases s.redNext h <;> rfl

theorem holdExpiry_goesOn {r i : Nat} {l : List Nat} (hnext : s.redNext h = some r) (hflights : h.flights = i :: l) :
    exec (.reductionHoldExpiry h.id) s = .next (({ s with redHolds := [] } : State).redJoin r i) := by
  obtain ⟨hfind, hgone⟩ := holdExpiry_map hholds
  refine event_some ?_
  rw [hfind, Option.map_some, hgone, hnext, hflights]

end

theorem pairExpiry_ends {s : State} {pr : RedPair} (hpairs : s.redPairs = [pr]) (hdue : pr.last + 2 ^ 20 ≤ (s.region 0).cycle) :
    exec (.reductionPairExpiry pr.loc pr.rsn) s = .next { s with redPairs := [] } := by
  have hfind : (s.redPairs.find? fun p => decide (p.loc = pr.loc ∧ p.rsn = pr.rsn)) = some pr := by rw [hpairs]; simp
  have hold : (s.redPairs.all fun q => decide (redPlace q.loc ≠ redPlace pr.loc) || decide (pr.last ≤ q.last)) = true := by rw [hpairs]; simp
  have hgone : (s.redPairs.filter fun q => !decide (q.loc = pr.loc ∧ q.rsn = pr.rsn)) = [] := by rw [hpairs]; simp
  refine event_some ?_
  rw [hfind, Option.bind_eq_bind, Option.bind_some]
  dsimp only
  rw [hold, decide_eq_true hdue, hgone]
  rfl

end Sys2Proof.Machine

open Sys2Proof Sys2Proof.Machine

/-- Settles O48: each event of the edge evaluates, its guard met, to the change of the unit's block, of what was sent, or of the reductions. -/
theorem edgeEvents : Obligations.EdgeEvents := by
  unfold Obligations.EdgeEvents
  intro s unit peer seq pid panel retunes pt m lock degr clock b f pkts h pr hunit
  refine ⟨fun hparts hroutes husable hwaits hacked => ⟨_, burstSend_leaves hunit hparts hroutes husable hwaits hacked, ?_⟩,
    fun hunacked hseq => ⟨burstAck_arrives hunit hunacked hseq, fun hdue => burstResend_again hunit hunacked hseq hdue,
      fun hflights hmsgs hids => burstRefusal_denies hunit hunacked hseq hflights hmsgs hids⟩,
    unitEvent_some (by simpa using hunit) rfl, fun haccepted => burstReceive_copy hunit haccepted,
    fun haccepted hfree => burstReceive_good hunit haccepted hfree, unitEvent_some (by simpa using hunit) rfl,
    fun hholds => ⟨fun hend => holdExpiry_ends hholds hend, fun r i l hnext hflights => holdExpiry_goesOn hholds hnext hflights⟩,
    fun hpairs hdue => pairExpiry_ends hpairs hdue⟩
  rw [State.edge_updEdge, State.edge_burstTo]
  exact ⟨rfl, rfl, rfl⟩

end

section
/-! SUPPORT. Partitions, the host, keys and frames (R357, R358, R361, R365 to R367, R379, R380, R398). -/

namespace Sys2Proof.Machine

/-! ## What the giving and the resetting of quads leave unchanged -/

/-- Nothing but slots, cores, quads and memory differs. -/
def State.unitsOnly (s t : State) : Prop :=
  ∃ ss cs qs mem fe, t = { s with slots := ss, cores := cs, quads := qs, mem := mem, fe := fe }

theorem State.unitsOnly_rfl (s : State) : s.unitsOnly s := ⟨s.slots, s.cores, s.quads, s.mem, s.fe, rfl⟩

theorem State.unitsOnly.trans {s t u : State} (h : s.unitsOnly t) (k : t.unitsOnly u) : s.unitsOnly u := by
  obtain ⟨ss, cs, qs, mem, fe, rfl⟩ := h
  obtain ⟨ss', cs', qs', mem', fe', rfl⟩ := k
  exact ⟨ss', cs', qs', mem', fe', rfl⟩

theorem State.unitsOnly_foldl {α : Type} {f : State → α → State} (h : ∀ (s : State) (a : α), s.unitsOnly (f s a)) (l : List α) (s : State) :
    s.unitsOnly (l.foldl f s) := by
  induction l generalizing s with
  | nil => exact s.unitsOnly_rfl
  | cons a l ih => exact (h s a).trans (ih (f s a))

theorem State.unitsOnly_zeroShare (s : State) (qi base n : Nat) : s.unitsOnly (s.zeroShare qi base n) := ⟨s.slots, s.cores, s.quads, _, _, rfl⟩
theorem State.unitsOnly_updQuad (s : State) (qi : Nat) (f : Quad → Quad) : s.unitsOnly (s.updQuad qi f) := ⟨s.slots, s.cores, _, s.mem, s.fe, rfl⟩
theorem State.unitsOnly_setQuad (s : State) (qi : Nat) (q : Quad) : s.unitsOnly (s.setQuad qi q) := ⟨s.slots, s.cores, _, s.mem, s.fe, rfl⟩
theorem State.unitsOnly_updCore (s : State) (ck : Nat) (f : Core → Core) : s.unitsOnly (s.updCore ck f) := ⟨s.slots, _, s.quads, s.mem, s.fe, rfl⟩
theorem State.unitsOnly_setSlot (s : State) (tk : Nat) (x : Slot) : s.unitsOnly (s.setSlot tk x) := ⟨_, s.cores, s.quads, s.mem, s.fe, rfl⟩
theorem State.unitsOnly_updSlot (s : State) (tk : Nat) (f : Slot → Slot) : s.unitsOnly (s.updSlot tk f) := s.unitsOnly_setSlot tk _

theorem State.unitsOnly_giveQuad (s : State) (qi pid p size : Nat) (slots : List Slot) : s.unitsOnly (s.giveQuad qi pid p size slots) := by
  unfold State.giveQuad
  dsimp only
  split
  · exact (((s.unitsOnly_zeroShare qi 0 size).trans (State.unitsOnly_setQuad _ qi _)).trans
      (State.unitsOnly_foldl (fun t c => t.unitsOnly_updCore _ _) _ _)).trans (State.unitsOnly_foldl (fun t e => t.unitsOnly_updSlot _ _) _ _)
  · exact (s.unitsOnly_zeroShare qi _ size).trans (State.unitsOnly_updQuad _ qi _)

theorem State.unitsOnly_regrantRings (s : State) (qi : Nat) : s.unitsOnly (s.regrantRings qi) := by
  refine State.unitsOnly_foldl (fun t e => ?_) _ s
  split
  · exact t.unitsOnly_rfl
  · exact t.unitsOnly_updQuad qi _

theorem State.unitsOnly_resetQuad (s : State) (pid qi : Nat) : s.unitsOnly (s.resetQuad pid qi) := by
  unfold State.resetQuad
  extract_lets s1 s2 s3
  have h1 : s.unitsOnly s1 := by
    unfold s1
    split
    · exact s.unitsOnly_zeroShare _ _ _
    · exact s.unitsOnly_rfl
  have h2 : s.unitsOnly s2 := h1.trans ((State.unitsOnly_updQuad s1 qi _).trans (State.unitsOnly_regrantRings _ qi))
  split
  · exact h2.trans ((State.unitsOnly_foldl (fun t n => t.unitsOnly_setSlot _ _) _ s2).trans (State.unitsOnly_foldl (fun t c => t.unitsOnly_updCore _ _) _ s3))
  · exact h2

theorem State.unitsOnly_zeroFormer (s : State) (pid : Nat) : s.unitsOnly (s.zeroFormer pid) :=
  State.unitsOnly_foldl (fun t _ => State.unitsOnly_foldl (fun u _ => u.unitsOnly_zeroShare _ _ _) _ t) _ s

/-! ## PARTITION_CREATE (R357) -/

/-- The attributes of a new partition (R357). -/
def State.newPart (s : State) (c : PartCfg) : Part :=
  let base : Part := { live := true, x0 := c.x0, y0 := c.y0, w := c.w, h := c.h, key := c.key, vf := c.vf, spsize := c.spMiB * 2 ^ 20 }
  { base with
    svccore := word (s.panel.number * 8192 + ((base.coord c.svcP).2 * 64 + (base.coord c.svcP).1) * 4 + c.svcC)
    ring := ((s.rectPhys base).map fun e => e.1).map fun p => (p, p)
    defect := (List.range (c.w * c.h)).foldl (fun m p => FMap.set 0 m p (s.newCode (base.coord p))) []
    cls := worst (base.regions.map fun r => (s.region r).grade) }

theorem State.rectPhys_lt {s : State} {pt : Part} {e : Nat × Nat} (h : e ∈ s.rectPhys pt) : e.1 < pt.w * pt.h := by
  obtain ⟨p, hp, he⟩ := List.mem_filterMap.mp h
  obtain ⟨qi, _, rfl⟩ := Option.map_eq_some_iff.mp he
  exact List.mem_range.mp hp

theorem State.newPart_ring {s : State} {c : PartCfg} : ∀ m ∈ (s.newPart c).ring, m.1 = m.2 ∧ m.1 < c.w * c.h := by
  simp only [State.newPart, List.forall_mem_map]
  exact fun e he => ⟨trivial, State.rectPhys_lt he⟩

theorem State.parts_foldl_updPanel {α : Type} (f : α → Panel → Panel) (l : List α) (s : State) :
    (l.foldl (fun t e => t.updPanel (f e)) s).parts = s.parts ∧ (l.foldl (fun t e => t.updPanel (f e)) s).vfs = s.vfs := by
  induction l generalizing s with
  | nil => exact ⟨rfl, rfl⟩
  | cons e l ih => exact ih (s.updPanel (f e))

theorem State.unitsOnly.part {s t : State} (h : s.unitsOnly t) (pid : Nat) : t.part pid = s.part pid := by
  obtain ⟨ss, cs, qs, mem, fe, rfl⟩ := h; rfl
theorem State.unitsOnly.vf {s t : State} (h : s.unitsOnly t) (v : Nat) : t.vf v = s.vf v := by obtain ⟨ss, cs, qs, mem, fe, rfl⟩ := h; rfl

theorem partitionCreate_lives {s : State} {c : PartCfg} (hok : s.createOk c = true) :
    ∃ t, exec (.partitionCreate c) s = .next t ∧ t.part c.pid = s.newPart c ∧ (t.vf c.vf).pid = c.pid := by
  have hexec : exec (.partitionCreate c) s = execPartitionCreate c s := rfl
  rw [hexec, execPartitionCreate, hok, Bool.not_true, if_neg Bool.false_ne_true]
  extract_lets base qs here xy pt s1 s2
  have hpt : pt = s.newPart c := rfl
  have hs1 : s1.part c.pid = pt ∧ (s1.vf c.vf).pid = c.pid := by
    unfold s1
    clear_value pt
    exact ⟨State.part_setPart_same .., by rw [State.vf_setVf_same]⟩
  have hs2 : s2.parts = s1.parts ∧ s2.vfs = s1.vfs := State.parts_foldl_updPanel (fun e p =>
    { p with edges := FMap.set {} p.edges e.1
                { (FMap.get {} p.edges e.1) with owned := FMap.set 0 (FMap.get {} p.edges e.1).owned c.pid e.2 } }) c.edges s1
  obtain ⟨hpart, hvf⟩ := hs1
  obtain ⟨hparts, hvfs⟩ := hs2
  clear_value s2 s1
  have hgive := State.unitsOnly_foldl (f := fun t e => t.giveQuad e.2 c.pid e.1 pt.spsize (startSlots (if e.1 = c.svcP then some c.svcC else none) c.svcPc))
    (fun t e => t.unitsOnly_giveQuad _ _ _ _ _) qs s2
  refine ⟨_, rfl, ?_, ?_⟩
  · rw [Option.getD_some, hgive.part, State.part, hparts, ← hpt]
    exact hpart
  · rw [Option.getD_some, hgive.vf, State.vf, hvfs]
    exact hvf

/-! ## The host (R298, R361, R380) -/

section
variable {s : State} {vf pid : Nat} (hpid : s.vfPid vf = some pid)
include hpid

theorem pid_of_vfPid : (s.vf vf).pid = pid := by
  unfold State.vfPid at hpid
  dsimp only at hpid
  split at hpid
  · exact Option.some.inj hpid
  · cases hpid

theorem hostLaunch_enters {ck : Nat} {hdr : Word} (hck : s.svcCore pid = some ck) (hspace : space hdr = 1 ∨ space hdr = 2) :
    exec (.hostLaunch vf hdr) s = .next { s.takeId with
      launches := s.launches ++ [{ id := s.ids, quad := quadOfCore ck, pid, hdr, host := true }] } := by
  refine event_some ?_
  rw [hpid, Option.bind_eq_bind, Option.bind_some, hck]
  exact if_pos hspace

theorem vfDoorbell_wakes {tk : Nat} {w : Word} (htk : s.threadKey pid (fld w 0 16) = some tk) (hruns : s.runs pid tk = true) :
    exec (.vfDoorbell vf w) s = .next { s with wakes := s.wakes ++ [tk] } := by
  refine event_some ?_
  rw [hpid, Option.bind_eq_bind, Option.bind_some, htk, Option.bind_some, State.wakeUp, if_pos hruns]
  rfl

theorem debugWrite_running {q qi : Nat} {halt arm : Bool} (hqi : s.physQuad pid q = some qi) (hruns : s.runs pid (qi * 32) = true) :
    debugWrite vf q halt arm s = .next ((s.updVf vf fun x => { x with dbgQ := BitVec.ofNat 11 q }).updQuad qi fun x =>
      { x with halted := halt, brkArm := arm }) := by
  have hquad : s.debugQuad vf q = some qi := by rw [State.debugQuad, hpid, Option.bind_some, hqi]
  have hruns' : (s.updVf vf fun x => { x with dbgQ := BitVec.ofNat 11 q }).runs pid (qi * 32) = true := hruns
  refine event_some ?_
  rw [hquad, pid_of_vfPid hpid]
  dsimp only
  rw [State.setDebug, if_pos hruns']

end

/-! ## DEBUG_SLOT_START (R380, R398) -/

section
variable (x : Slot) (n : Nat) (w : Word)

theorem Slot.poke_pc : (x.poke n w).pc = x.pc ∧ (x.poke n w).sr = x.sr := by
  unfold Slot.poke
  split_ifs <;> exact ⟨rfl, rfl⟩

theorem Slot.push_poke {x : Slot} {n : Nat} (hpush : x.push = none) (hn : n ≠ 57) (w : Word) : (x.poke n w).push = none := by
  unfold Slot.poke
  rw [if_neg hn]
  split_ifs
  · exact hpush
  · exact hpush
  · exact hpush
  · exact hpush
  · show x.push.map _ = none
    rw [hpush]
    rfl
  · exact hpush
  · exact hpush

theorem Slot.push_poke_held {x : Slot} (hpush : x.push = none) {w : Word} (hw : w.getLsbD 38 = true) :
    (x.poke 57 w).push = some (fld w 32 6, 0) := by
  show (if w.getLsbD 38 then some (fld w 32 6, (x.push.map fun p => p.2).getD 0) else none) = some (fld w 32 6, 0)
  rw [if_pos hw, hpush]
  rfl

theorem Slot.t_poke {x : Slot} {n : Nat} (h1 : 1 ≤ n) (h2 : n < 32) (w : Word) : FMap.get 0 (x.poke n w).t n = w := by
  unfold Slot.poke
  rw [if_pos ⟨h1, h2⟩]
  exact FMap.get_set_same ..

end

/-- A slot's state after a write of one special register and one other word. -/
def State.poked (s : State) (tk : Nat) (pc : Word) (n : Nat) (v : Word) (r : Nat) (w : Word) : Slot :=
  Slot.poke { s.slot tk with pc := pc, sr := (s.slot tk).sr.poke ((s.part (s.pidOf tk)).guardQuad (s.pOf tk)).isSome n v } r w

/-- What a held push, or none, leaves of a slot's state. -/
def Slot.pokedUp (y : Slot) (st : SlotSt) : SlotSt := if y.push.isSome then .held else if st = .held then .ready else st

/-- The slot as the debugger leaves it (R380, R398). -/
def Slot.started (x y : Slot) : Slot :=
  if x.st ≠ .free then { y with st := if y.push = x.push then x.st else y.pokedUp x.st }
  else { y with st := y.pokedUp .ready, op := .none, pushMore := [], task := {}, waited := 0, wdFired := false }

theorem filter_values (e : Nat × Word) :
    (([e].filter fun e => !decide (e.1 = 61)) ++ [e].filter fun e => decide (e.1 = 61)) = [e] := by
  by_cases h : e.1 = 61
  · simp [h]
  · simp [h]

theorem debugSlotStart_sets {s : State} {tk : Nat} {v : Word} {n r : Nat} {u w : Word} (htk : tk < 73728)
    (hhalt : (s.quad (quadOf tk)).halted = true) : exec (.debugSlotStart tk (some v) [(n, u)] [(r, w)]) s =
      .next (s.setSlot tk ((s.slot tk).started (s.poked tk v n u r w))) := by
  refine unitEvent_some (by simpa [slotOk] using htk) ?_
  dsimp only
  rw [filter_values, hhalt]
  unfold Slot.started
  by_cases hst : (s.slot tk).st = .free
  · rw [if_neg (by decide), if_neg (not_not.mpr hst), if_neg (not_not.mpr hst)]
    rfl
  · rw [if_neg (by decide), if_pos hst, if_pos hst]
    rfl

section
variable {x y : Slot}

theorem Slot.started_keeps (x y : Slot) : (x.started y).pc = y.pc ∧ (x.started y).sr = y.sr ∧ (x.started y).t = y.t ∧ (x.started y).push = y.push
    ∧ (x.started y).wake = y.wake ∧ (x.started y).hbPending = y.hbPending := by
  unfold Slot.started
  split_ifs <;> exact ⟨rfl, rfl, rfl, rfl, rfl, rfl⟩

theorem Slot.started_st_same (hy : y.push = none) (hx : x.push = none) : (x.started y).st = if x.st = .free then .ready else x.st := by
  unfold Slot.started
  by_cases hst : x.st = .free
  · rw [if_neg (not_not.mpr hst), if_pos hst]
    show y.pokedUp .ready = .ready
    rw [Slot.pokedUp, hy]
    rfl
  · rw [if_pos hst, if_neg hst]
    exact if_pos (hy.trans hx.symm)

theorem Slot.started_st_held {p : Nat × Word} (hy : y.push = some p) (hx : x.push = none) : (x.started y).st = .held := by
  have hup (st : SlotSt) : y.pokedUp st = .held := by rw [Slot.pokedUp, hy]; rfl
  have hne : y.push ≠ x.push := by rw [hy, hx]; exact nofun
  unfold Slot.started
  by_cases hst : x.st = .free
  · rw [if_neg (not_not.mpr hst)]
    exact hup _
  · rw [if_pos hst]
    exact (if_neg hne).trans (hup _)

theorem Slot.started_task (hst : x.st ≠ .free) : (x.started y).task = y.task := by rw [Slot.started, if_pos hst]

end

/-! ## Keys (R365) -/

/-- Nothing but memory's bytes differs. -/
def State.bytesOnly (s t : State) : Prop := ∃ mem, t = { s with mem := mem }

theorem State.bytesOnly_foldl {α : Type} {f : State → α → State} (h : ∀ (s : State) (a : α), s.bytesOnly (f s a)) (l : List α) (s : State) :
    s.bytesOnly (l.foldl f s) := by
  induction l generalizing s with
  | nil => exact ⟨s.mem, rfl⟩
  | cons a l ih =>
    obtain ⟨mem, hmem⟩ := h s a
    obtain ⟨mem', hmem'⟩ := ih (f s a)
    exact ⟨mem', by rw [List.foldl_cons, hmem', hmem]⟩

theorem State.bytesOnly_rekey (s : State) (old new : BitVec 512) (pa n : Nat) : s.bytesOnly (s.rekey old new pa n) :=
  State.bytesOnly_foldl (fun _ _ => ⟨_, rfl⟩) _ s

theorem hbmKey_block (pa i : Nat) : hbmKey (pa + 16 * i) = hbmKey pa + 16 * i := by rw [hbmKey, hbmKey]; omega

/-- The blocks below the m-th have been rewritten, and the others stand. -/
theorem State.rd_rekey_blocks (s : State) (old new : BitVec 512) (pa m i : Nat) :
    ((List.range m).foldl (fun t i => t.wr (hbmKey (pa + 16 * i)) 16 (rekeyed old new (pa + 16 * i) (t.rd (hbmKey (pa + 16 * i)) 16))) s).rd
      (hbmKey (pa + 16 * i)) 16 = if i < m then rekeyed old new (pa + 16 * i) (s.rd (hbmKey (pa + 16 * i)) 16) % 256 ^ 16
        else s.rd (hbmKey (pa + 16 * i)) 16 := by
  induction m with
  | zero => rfl
  | succ m ih =>
    rw [List.range_succ, List.foldl_append, List.foldl_cons, List.foldl_nil]
    by_cases hi : i = m
    · subst hi
      rw [State.rd_wr_same, ih, if_neg (Nat.lt_irrefl i), if_pos (Nat.lt_succ_self i)]
    · rw [State.rd_wr_disjoint _ (by rw [hbmKey_block, hbmKey_block]; omega), ih]
      have hlt : i < m ↔ i < m + 1 := by omega
      simp only [hlt]

theorem keyLoad_eq {s : State} {id : Nat} {key : BitVec 512} (h1 : 1 ≤ id) (h2 : id < 4096) : exec (.keyLoad id key) s =
    .next ((if FMap.get 0 s.panel.keys id = key then s
      else (s.panel.frames.filter fun e => decide (e.2.2 = id)).foldl (fun t e => t.rekey (FMap.get 0 s.panel.keys id) key e.1 e.2.1) s).updPanel
        fun p => { p with keys := FMap.set 0 p.keys id key }) :=
  event_some (if_pos ⟨h1, h2⟩)

/-- KEY_LOAD changes the key, and of memory what its frames hold (R365). -/
theorem keyLoad_loads {s : State} {id : Nat} {key : BitVec 512} (h1 : 1 ≤ id) (h2 : id < 4096) :
    ∃ t, exec (.keyLoad id key) s = .next t ∧ t.panel = { s.panel with keys := FMap.set 0 s.panel.keys id key }
      ∧ ((∀ e ∈ s.panel.frames, e.2.2 ≠ id) ∨ FMap.get 0 s.panel.keys id = key → t.mem = s.mem)
      ∧ (∀ pa size, s.panel.frames = [(pa, size, id)] → FMap.get 0 s.panel.keys id ≠ key → ∀ i < size / 16,
        t.rd (hbmKey (pa + 16 * i)) 16 = bytesNat (xtsDecrypt key (pa + 16 * i) (xtsEncrypt (FMap.get 0 s.panel.keys id) (pa + 16 * i)
          (natBytes 16 (s.rd (hbmKey (pa + 16 * i)) 16)))) % 2 ^ 128) := by
  refine ⟨_, keyLoad_eq h1 h2, ?_, fun h => ?_, fun pa size hframes hkey i hi => ?_⟩
  · rw [State.updPanel]
    split
    · rfl
    · obtain ⟨mem, hmem⟩ := State.bytesOnly_foldl (f := fun t (e : Nat × Nat × Nat) => t.rekey (FMap.get 0 s.panel.keys id) key e.1 e.2.1)
        (fun t e => t.bytesOnly_rekey _ _ _ _) (s.panel.frames.filter fun e => decide (e.2.2 = id)) s
      rw [hmem]
  · rw [State.updPanel]
    split
    · rfl
    · next hne =>
      have hnone : (s.panel.frames.filter fun e => decide (e.2.2 = id)) = [] := by
        simpa only [List.filter_eq_nil_iff, decide_eq_true_eq] using h.resolve_right hne
      rw [hnone]
      rfl
  · have hone : (s.panel.frames.filter fun e => decide (e.2.2 = id)) = [(pa, size, id)] := by rw [hframes]; simp
    have hpow : (2 : Nat) ^ 128 = 256 ^ 16 := by decide
    rw [if_neg hkey, hone, hpow]
    exact (State.rd_rekey_blocks s _ key pa (size / 16) i).trans (if_pos hi)

/-! ## Frames (R366) -/

theorem State.memByte_reassign (s : State) (pa n old new j : Nat) :
    memByte (s.reassign pa n old new).mem j = if hbmKey pa ≤ j ∧ j < hbmKey pa + n then 0 else memByte s.mem j :=
  (s.dropFrames pa n).memByte_zeroRange (hbmKey pa) n j

theorem frameReassign_zeroes {s : State} {frame old new : Nat} (huse : s.usesFrames (frame * 4096) 4096 = false) :
    ∃ t, exec (.frameReassign frame old new) s = .next t ∧ (frame * 4096, 4096, new) ∈ t.panel.frames
      ∧ (∀ e ∈ t.parts, ∀ m ∈ e.2.s2, overlap m.pa m.size (frame * 4096) 4096 = false)
      ∧ ∀ j, memByte t.mem j = if hbmKey (frame * 4096) ≤ j ∧ j < hbmKey (frame * 4096) + 4096 then 0 else memByte s.mem j := by
  refine ⟨s.reassign (frame * 4096) 4096 old new, event_some ?_, ?_, ?_, fun j => s.memByte_reassign _ _ _ _ j⟩
  · dsimp only
    rw [huse, if_neg Bool.false_ne_true]
  · exact List.mem_append_right _ (List.mem_singleton.mpr rfl)
  · show ∀ e ∈ s.parts.map _, _
    simp only [List.forall_mem_map]
    intro e _ m hm
    simpa using (List.mem_filter.mp hm).2

/-! ## STAGE2_MAPPING_CHANGE (R207) -/

theorem stage2_changes {s : State} {pid ipa size pa : Nat} {perm : BitVec 3} (hlive : (s.part pid).live = true) (hsize : s2Size size = true)
    (hipa : ipa % size = 0) (hpa : pa % size = 0) (htop : pa + size ≤ 1728 * 2 ^ 30)
    (hmap : s.panel.mappable (s.part pid).key pa size = true)
    (huse : ∀ m ∈ (s.part pid).s2, overlap m.ipa m.size ipa size = true → s.usesFrames m.pa m.size = false) :
    ∃ t, exec (.stage2MappingChange pid ipa size pa perm) s = .next t
      ∧ (t.part pid).s2 = ((s.part pid).s2.filter fun m => !overlap m.ipa m.size ipa size) ++ (if perm = 0 then [] else
        [{ ipa, size, pa, rd := perm.getLsbD 0, wr := perm.getLsbD 1, ex := perm.getLsbD 2 }]) := by
  have hplace : decide (ipa % size ≠ 0 ∨ pa % size ≠ 0 ∨ 1728 * 2 ^ 30 < pa + size) = false :=
    decide_eq_false fun h => h.elim (absurd hipa) fun h => h.elim (absurd hpa) (Nat.not_lt.mpr htop)
  have hfree : (((s.part pid).s2.filter fun m => overlap m.ipa m.size ipa size).any fun m => s.usesFrames m.pa m.size) = false := by
    simp only [List.any_eq_false, List.mem_filter, Bool.not_eq_true]
    exact fun m hm => huse m hm.1 hm.2
  have hexec : exec (.stage2MappingChange pid ipa size pa perm) s = execStage2MappingChange pid ipa size pa perm s := rfl
  rw [hexec, execStage2MappingChange]
  extract_lets pt gone s1 new s2
  have hbad : (!pt.live || !s2Size size || decide (ipa % size ≠ 0 ∨ pa % size ≠ 0 ∨ 1728 * 2 ^ 30 < pa + size) || !s.panel.mappable pt.key pa size)
      = false := by
    rw [hlive, hsize, hplace, hmap]
    rfl
  have hgone : (gone.any fun m => s.usesFrames m.pa m.size) = false := hfree
  rw [hbad, hgone, if_neg Bool.false_ne_true, if_neg Bool.false_ne_true]
  refine ⟨_, rfl, ?_⟩
  have hpart : s2.part pid = s.part pid := by
    unfold s2
    split <;> rfl
  rw [Option.getD_some, State.part_updPart_same, hpart]

/-! ## FUNCTION_RESET (R379) -/

/-- A partition stays live, or not, under its key. -/
def Part.sameKey (x y : Part) : Prop := x.live = y.live ∧ x.key = y.key

theorem Part.sameKey.trans {x y z : Part} (h : x.sameKey y) (k : y.sameKey z) : x.sameKey z := ⟨h.1.trans k.1, h.2.trans k.2⟩

/-- What is in flight, and the keys of the partitions, are those of another state. -/
structure State.sameFlying (s t : State) : Prop where
  part (pid : Nat) : (t.part pid).sameKey (s.part pid)
  flights : t.flights = s.flights
  packets : t.packets = s.packets
  pushes : t.pushes = s.pushes
  launches : t.launches = s.launches

theorem State.sameFlying.trans {s t u : State} (h : s.sameFlying t) (k : t.sameFlying u) : s.sameFlying u :=
  ⟨fun pid => (k.part pid).trans (h.part pid), k.flights.trans h.flights, k.packets.trans h.packets, k.pushes.trans h.pushes,
    k.launches.trans h.launches⟩

theorem State.sameFlying_foldl {α : Type} {f : State → α → State} (h : ∀ (s : State) (a : α), s.sameFlying (f s a)) (l : List α) (s : State) :
    s.sameFlying (l.foldl f s) := by
  induction l generalizing s with
  | nil => exact ⟨fun _ => ⟨rfl, rfl⟩, rfl, rfl, rfl, rfl⟩
  | cons a l ih => exact (h s a).trans (ih (f s a))

theorem State.unitsOnly.sameFlying {s t : State} (h : s.unitsOnly t) : s.sameFlying t := by
  obtain ⟨ss, cs, qs, mem, fe, rfl⟩ := h
  exact ⟨fun _ => ⟨rfl, rfl⟩, rfl, rfl, rfl, rfl⟩

theorem State.sameFlying_reassign (s : State) (pa n old new : Nat) : s.sameFlying (s.reassign pa n old new) := by
  refine ⟨fun pid => ?_, rfl, rfl, rfl, rfl⟩
  exact FMap.get_map_rel (R := Part.sameKey) (fun p => (p.1, { p.2 with s2 := p.2.s2.filter fun m => !overlap m.pa m.size pa n }))
    ⟨rfl, rfl⟩ (fun e => ⟨rfl, rfl, rfl⟩) s.parts pid

theorem State.part_drainStream (s : State) (pid : Nat) (x : Stream) : ((s.drainStream pid x).part pid).sameKey (s.part pid) := by
  have hclose : (s.closeStream pid x).part pid = { s.part pid with streams := (s.part pid).streams.filter fun y => decide (y.sid ≠ x.sid) } := by
    unfold State.closeStream
    exact State.part_updPart_same ..
  show ((s.closeStream pid x).part pid).sameKey (s.part pid)
  rw [hclose]
  exact ⟨rfl, rfl⟩

theorem State.part_drainStreams (pid : Nat) (l : List Stream) (s : State) :
    ((l.foldl (fun t x => t.drainStream pid x) s).part pid).sameKey (s.part pid) := by
  induction l generalizing s with
  | nil => exact ⟨rfl, rfl⟩
  | cons x l ih => exact (ih (s.drainStream pid x)).trans (s.part_drainStream pid x)

theorem State.meshOnly_flushFlits (s : State) (pid : Nat) : s.meshOnly (s.flushFlits pid) :=
  State.meshOnly_foldl (fun t p => State.meshOnly_foldl (fun u f => u.meshOnly_freeBuffer p f) _ t) _ s

theorem State.part_flushFlits (s : State) (pid n : Nat) : (s.flushFlits pid).part n = s.part n := by
  obtain ⟨i, pn, ps, fl, ms, h⟩ := s.meshOnly_flushFlits pid
  rw [h]
  rfl

/-- Frames that leave their key one after the other are zero, whatever they held. -/
theorem State.memByte_reassigns {l : List S2Map} {key j : Nat} (s : State)
    (h : memByte s.mem j = 0 ∨ ∃ m ∈ l, hbmKey m.pa ≤ j ∧ j < hbmKey m.pa + m.size) :
    memByte (l.foldl (fun t m => t.reassign m.pa m.size key 0) s).mem j = 0 := by
  induction l generalizing s with
  | nil => simpa using h
  | cons m l ih =>
    rw [List.foldl_cons]
    refine ih _ ?_
    rw [State.memByte_reassign]
    by_cases hj : hbmKey m.pa ≤ j ∧ j < hbmKey m.pa + m.size
    · exact .inl (if_pos hj)
    · obtain h | ⟨x, hx, hxj⟩ := h
      · exact .inl ((if_neg hj).trans h)
      · obtain rfl | hx := List.mem_cons.mp hx
        · exact absurd hxj hj
        · exact .inr ⟨x, hx, hxj⟩

theorem functionReset_ends {s : State} {vf pid : Nat} (hpid : s.vfPid vf = some pid) :
    ∃ t, exec (.functionReset vf) s = .next t ∧ (t.part pid).s2 = [] ∧ (t.part pid).streams = [] ∧ (t.part pid).routes = []
      ∧ (t.part pid).sameKey (s.part pid)
      ∧ (∀ x ∈ t.flights, x.pid ≠ pid) ∧ (∀ x ∈ t.packets, x.pid ≠ pid) ∧ (∀ x ∈ t.pushes, x.pid ≠ pid) ∧ (∀ x ∈ t.launches, x.pid ≠ pid)
      ∧ (∀ m ∈ (s.part pid).s2, ∀ i < m.size, memByte t.mem (hbmKey m.pa + i) = 0) := by
  have hexec : exec (.functionReset vf) s = execFunctionReset vf s := rfl
  rw [hexec, execFunctionReset, hpid, Option.bind_eq_bind, Option.bind_some]
  extract_lets s1 s2 s3 owned s4
  have h2 : (s2.part pid).sameKey (s.part pid) := by
    show ((s1.flushFlits pid).part pid).sameKey (s.part pid)
    rw [State.part_flushFlits]
    exact State.part_drainStreams pid _ s
  have hgone {α : Type} (f : α → Nat) (l : List α) : ∀ x ∈ l.filter fun x => decide (f x ≠ pid), f x ≠ pid :=
    fun x hx => of_decide_eq_true (List.mem_filter.mp hx).2
  have hflights : ∀ x ∈ s2.flights, x.pid ≠ pid := hgone Flight.pid _
  have hpackets : ∀ x ∈ s2.packets, x.pid ≠ pid := hgone Packet.pid _
  have hpushes : ∀ x ∈ s2.pushes, x.pid ≠ pid := hgone PushMsg.pid _
  have hlaunches : ∀ x ∈ s2.launches, x.pid ≠ pid := hgone LaunchReq.pid _
  clear_value s2
  have h3 : s2.sameFlying s3 := ((State.unitsOnly_foldl (fun t qi => t.unitsOnly_resetQuad pid qi) (s.ctxQuads pid) s2).trans
    (State.unitsOnly_zeroFormer _ pid)).sameFlying
  clear_value s3
  have hmem : ∀ m ∈ (s.part pid).s2, ∀ i < m.size, memByte s4.mem (hbmKey m.pa + i) = 0 := fun m hm i hi =>
    State.memByte_reassigns s3 (.inr ⟨m, hm, Nat.le_add_right .., Nat.add_lt_add_left hi _⟩)
  have h4 : s2.sameFlying s4 := h3.trans (State.sameFlying_foldl (fun t m => t.sameFlying_reassign _ _ _ _) _ s3)
  clear_value s4
  rw [event, Option.pure_def, Option.getD_some]
  refine ⟨_, rfl, ?_, ?_, ?_, ?_, ?_, ?_, ?_, ?_, hmem⟩
  · rw [State.part_updPart_same]
  · rw [State.part_updPart_same]
  · rw [State.part_updPart_same]
  · refine Part.sameKey.trans (y := s4.part pid) ?_ ((h4.part pid).trans h2)
    rw [State.part_updPart_same]
    exact ⟨rfl, rfl⟩
  · exact h4.flights ▸ hflights
  · exact h4.packets ▸ hpackets
  · exact h4.pushes ▸ hpushes
  · exact h4.launches ▸ hlaunches

end Sys2Proof.Machine

open Sys2Proof Sys2Proof.Machine

/-- Settles O49: what each event leaves of the partition, its virtual function, its quads and slots, and of the frames and their keys. -/
theorem hostAndTenancy : Obligations.HostAndTenancy := by
  unfold Obligations.HostAndTenancy
  intro s c pid vf ck tk qi q id r n frame old new ipa size pa v hdr w key perm arm halt htk
  refine ⟨fun hok => ?create, fun hlive => event_some (if_pos hlive), fun hpid => ⟨fun hck hspace => hostLaunch_enters hpid hck hspace,
    fun hthread hruns => vfDoorbell_wakes hpid hthread hruns, fun hqi hruns => ⟨debugWrite_running hpid hqi hruns,
      debugWrite_running hpid hqi hruns, debugWrite_running hpid hqi hruns⟩, ?reset⟩, rfl, rfl, rfl, fun hhalt => ?start,
    fun h1 h2 => ?key, fun huse => frameReassign_zeroes huse,
    fun hlive hsize hipa hpa htop hmap huse => stage2_changes hlive hsize hipa hpa htop hmap huse⟩
  case create =>
    obtain ⟨t, hexec, hpart, hvf⟩ := partitionCreate_lives hok
    refine ⟨t, hexec, ?_⟩
    rw [hpart]
    exact ⟨rfl, rfl, rfl, rfl, rfl, rfl, rfl, rfl, State.newPart_ring, rfl, rfl, rfl, hvf⟩
  case reset =>
    obtain ⟨t, hexec, hs2, hstreams, hroutes, ⟨hlive, hkey⟩, hrest⟩ := functionReset_ends hpid
    exact ⟨t, hexec, hs2, hstreams, hroutes, hlive, hkey, hrest⟩
  case start =>
    refine ⟨_, debugSlotStart_sets htk hhalt, ?_⟩
    rw [State.tReg, State.slot_setSlot_same]
    obtain ⟨hpc, hsr, ht, hpush, hwake, hback⟩ := Slot.started_keeps (s.slot tk) (s.poked tk v n w r w)
    obtain ⟨hpokedPc, hpokedSr⟩ := Slot.poke_pc { s.slot tk with
      pc := v, sr := (s.slot tk).sr.poke ((s.part (s.pidOf tk)).guardQuad (s.pOf tk)).isSome n w } r w
    refine ⟨fun hr hnone => ?_, fun hr hw hnone => ?_, fun hr hst => ?_, fun hr => ?_,
      hpc.trans hpokedPc, fun h1 h2 => ?_, fun hn => ?_, fun hn => ?_⟩
    · have hpoked : (s.poked tk v n w r w).push = none := Slot.push_poke (x := { s.slot tk with
        pc := v, sr := (s.slot tk).sr.poke ((s.part (s.pidOf tk)).guardQuad (s.pOf tk)).isSome n w }) hnone hr w
      exact Slot.started_st_same hpoked hnone
    · subst hr
      have hheld : (s.poked tk v n w 57 w).push = some (fld w 32 6, 0) := Slot.push_poke_held hnone hw
      exact ⟨Slot.started_st_held hheld hnone, hpush.trans hheld⟩
    · subst hr
      rw [Slot.started_task hst]
      rfl
    · subst hr
      rw [hwake, hback]
      exact ⟨rfl, rfl⟩
    · rw [if_neg (Nat.pos_iff_ne_zero.mp h1), ht]
      exact Slot.t_poke h1 h2 w
    · subst hn
      rw [hsr, State.poked, hpokedSr]
      rfl
    · subst hn
      rw [hsr, State.poked, hpokedSr]
      rfl
  case key =>
    obtain ⟨t, hexec, hpanel, hmem, hframes⟩ := keyLoad_loads (s := s) (key := key) h1 h2
    exact ⟨t, hexec, hpanel, hmem, fun hone hkey => hframes pa size hone hkey⟩

end

section
/-! SUPPORT. Basted slots (R368 to R370, R373): what BASTE, its configuration register and the resumption at a substitute leave in the slot. -/

namespace Sys2Proof.Machine

/-! ## BASTE and its expiry -/

section
variable {s : State}

theorem execBaste_off (ho : s.me.optimistic = false) (he : basteEn s.me.sr.bastecfg = false) : execBaste s = .next s.passed :=
  runHead_next (mayIssue_nothing s) (by simp [ho, he])

theorem execBaste_checkpoint (ho : s.me.optimistic = false) (he : basteEn s.me.sr.bastecfg = true) (hm : s.mayBaste s.cur = true) :
    execBaste s = .next (s.checkpoint s.cur s.me.nextPc).passed :=
  runHead_next (mayIssue_nothing s) (by simp [ho, he, hm])

theorem execBaste_waits (ho : s.me.optimistic = false) (he : basteEn s.me.sr.bastecfg = true) (hm : s.mayBaste s.cur = false) :
    execBaste s = .next (s.blockMe .drained) :=
  runHead_act (a := .block .drained) (mayIssue_nothing s) (by simp [ho, he, hm])

theorem execBaste_optimistic (ho : s.me.optimistic = true) : execBaste s = .next (s.enterTrap s.cur 0x02 0 s.me.pc) :=
  runHead_trap (mayIssue_nothing s) (by simp [ho])

theorem basteIntervalExpiry_due {tk : Nat} (htk : slotOk tk = true) (hst : (s.slot tk).st = .ready) (hb : (s.slot tk).basteNow = true)
    (hs : s.stopped tk = false) : execBasteIntervalExpiry tk s = .next (if s.mayBaste tk = true then s.checkpoint tk (s.slot tk).pc
      else s.updSlot tk fun y => { y with st := .blocked .drained }) := by
  cases hm : s.mayBaste tk
  · exact unitEvent_some htk (by simp [hst, hb, hs, hm])
  · exact unitEvent_some htk (by simp [hst, hb, hs, hm])

end

/-! ## EN of BASTECFG -/

theorem State.slot_basteEnable {s : State} {tk : Nat} {v : Word} (hk : (s.slot tk).kind = 2 ∨ (s.slot tk).kind = 3)
    (hg : ((s.part (s.pidOf tk)).guardQuad (s.pOf tk)).isSome = true) :
    ((s.basteEnable tk v).slot tk).sr =
      { (s.slot tk).sr with bastecfg := v, status := (s.slot tk).sr.status ||| 0x40#64 } := by
  have hc : ((decide ((s.slot tk).kind = 2) || decide ((s.slot tk).kind = 3)) &&
      ((s.part (s.pidOf tk)).guardQuad (s.pOf tk)).isSome) = true := by simp [hk, hg]
  simp only [State.basteEnable, hc, if_true]
  rw [State.slot_clearCommit, State.slot_clearCommit, State.slot_updSlot_same]
  rfl

/-! ## Resumption (R373) -/

theorem State.slots_resumeTails (s : State) (tk old : Nat) (tails : List (Nat × Nat)) :
    (s.resumeTails tk old tails).slots = s.slots ∧ (s.resumeTails tk old tails).mem = s.mem := by
  unfold State.resumeTails
  refine List.foldlRecOn (motive := fun t : State => t.slots = s.slots ∧ t.mem = s.mem) _ _ ⟨rfl, rfl⟩ fun t ht e _ => ?_
  dsimp only
  split
  · exact ht
  · split
    · exact ht
    · exact ht

/-- The slot that a resumption leaves free, and the one that it fills, when the two differ. -/
theorem State.slot_resumed (u : State) (tk old : Nat) (tails : List (Nat × Nat)) (y z : Slot) (hne : old ≠ tk) :
    let r := (((u.setSlot tk y).resumeTails tk old tails).resumeHeads tk).setSlot old z
    r.slot tk = y ∧ r.slot old = z ∧ r.mem = u.mem := by
  obtain ⟨hs, hm⟩ := State.slots_resumeTails (u.setSlot tk y) tk old tails
  refine ⟨?_, State.slot_setSlot_same _ _ _, hm⟩
  rw [State.slot_setSlot, if_neg (Ne.symm hne)]
  exact (congrArg (fun m => FMap.get ({} : Slot) m tk) hs).trans (State.slot_setSlot_same u tk y)

theorem execBastedSlotResume_resumes {s : State} {tk old h k : Nat} (htk : slotOk tk = true)
    (hr : (s.quad (quadOf tk)).replaces = some (quadOf old)) (hold : old % 32 = tk % 32) (hne : old ≠ tk)
    (hfree : (s.slot tk).st = .free) (hbst : (s.slot old).bst = true) (hup : (s.slot old).st ≠ .free)
    (hh : (s.updSlot tk fun y => { y with sr := { y.sr with
      bastecfg := (s.slot old).sr.bastecfg, basteCount := (s.slot old).sr.basteCount } }).lastHalf tk = some h)
    (hk : (s.updSlot tk fun y => { y with sr := { y.sr with
      bastecfg := (s.slot old).sr.bastecfg, basteCount := (s.slot old).sr.basteCount } }).halfKey tk h 0 = some k) :
    ∃ z, execBastedSlotResume tk s = .next z ∧ (z.slot tk).pc = s.imgWord k 0 ∧ (z.slot tk).st ≠ .free ∧ (z.slot old).st = .free
      ∧ ((s.quad (quadOf old)).st = .memoryOnly → z.mem = s.mem) := by
  have hold' : quadOf old * 32 + tk % 32 = old := by unfold quadOf; omega
  have hcond : ¬ ((s.slot tk).st ≠ .free ∨ (s.slot old).bst = false ∨ (s.slot old).st = .free) := by simp [hfree, hbst, hup]
  unfold execBastedSlotResume unitEvent
  rw [htk, if_pos rfl, hr]
  simp only [Option.bind_eq_bind, Option.bind_some, hold', if_neg hcond, hh, hk]
  generalize ht1 : (if (s.quad (quadOf old)).st = QuadSt.memoryOnly then _ else _ : State) = t1
  refine ⟨_, rfl, ?_⟩
  obtain ⟨hy, hz, hm⟩ := State.slot_resumed t1.draw tk old (s.slot old).task.tails _ { faultTag := (s.slot old).faultTag + 1 } hne
  refine ⟨(congrArg Slot.pc hy).trans rfl, fun hf => ?_, congrArg Slot.st hz, fun hmo => hm.trans ?_⟩
  · have hst := (congrArg Slot.st hy).symm.trans hf
    simp only [State.slotOfImage] at hst
    split at hst
    · cases hst
    · cases hst
  · rw [← ht1, if_pos hmo]; rfl

end Sys2Proof.Machine

open Sys2Proof Sys2Proof.Machine

/-- Settles O52: BASTE by its four outcomes, the enabling and disabling through the slot they leave, the resumption through the
two slots that it exchanges. -/
theorem basting : Obligations.Basting := by
  intro s tk old h k v htk
  have hok : slotOk tk = true := decide_eq_true htk
  refine ⟨fun ho => ⟨fun he => execBaste_off ho he, fun he hm => execBaste_checkpoint ho he hm, fun he hm => execBaste_waits ho he hm⟩,
    execBaste_optimistic, fun hst hb hs => ⟨fun hm => ?_, fun hm => ?_⟩, fun he hst hk hg => ?_, fun hd h1 h2 => ?_, ?_⟩
  · exact (basteIntervalExpiry_due hok hst hb hs).trans (by rw [if_pos hm])
  · exact (basteIntervalExpiry_due hok hst hb hs).trans (by rw [hm]; rfl)
  · have hsr := State.slot_basteEnable (v := basteWord v true) hk hg
    refine ⟨_, unitEvent_some hok (if_pos (by simp [he, hst])), congrArg SysRegs.bastecfg hsr, ?_, (congrArg SysRegs.basteCount hsr).trans rfl⟩
    exact (congrArg (fun r : SysRegs => r.status.getLsbD 6) hsr).trans (by simp)
  · refine ⟨s.basteDisable tk v, unitEvent_some hok ?_, ?_⟩
    · simp only [hd, Option.bind_eq_bind, Option.bind_some, h1, h2, and_self, if_true]; rfl
    · simp [State.basteDisable, State.slot_freeNotices, Slot.updTask, Slot.updSr, Slot.bst]
  · exact fun hr hold hne hfree hbst hup hh hk => execBastedSlotResume_resumes hok hr hold hne hfree hbst hup hh hk
end

section
/-! SUPPORT. The life of a slot (R38, R89, R97 to R100, R111, R112, R381): fetch, held pushes, wakes, spill, restore, the watchdog. -/

namespace Sys2Proof.Machine

/-! ## What the engines of a move leave alone -/

/-- The slots, the moves and what stands saved beside them are those of another state. -/
def State.savedOnly (s t : State) : Prop :=
  t.slots = s.slots ∧ t.moves = s.moves ∧ t.parked = s.parked ∧ t.doubles = s.doubles

theorem State.savedOnly_rfl (s : State) : s.savedOnly s := ⟨rfl, rfl, rfl, rfl⟩

theorem State.savedOnly.trans {s t u : State} (h : s.savedOnly t) (h' : t.savedOnly u) : s.savedOnly u := by
  obtain ⟨h1, h2, h3, h4⟩ := h
  obtain ⟨g1, g2, g3, g4⟩ := h'
  exact ⟨g1.trans h1, g2.trans h2, g3.trans h3, g4.trans h4⟩

theorem State.savedOnly.slot {s t : State} (h : s.savedOnly t) (n : Nat) : t.slot n = s.slot n :=
  congrArg (fun m => FMap.get ({} : Slot) m n) h.1

theorem State.savedOnly_foldl {α : Type} {f : State → α → State} (hf : ∀ (t : State) (a : α), t.savedOnly (f t a)) (s : State) (xs : List α) :
    s.savedOnly (xs.foldl f s) :=
  List.foldlRecOn (motive := fun t => s.savedOnly t) _ _ s.savedOnly_rfl fun t h a _ => h.trans (hf t a)

theorem State.savedOnly_noteBlock (s : State) (qi k : Nat) : s.savedOnly (s.noteBlock qi k) := by
  unfold State.noteBlock
  split
  · exact s.savedOnly_rfl
  · exact ⟨rfl, rfl, rfl, rfl⟩

theorem State.savedOnly_tlbFill (s : State) (ck pid va : Nat) (need : Perm) : s.savedOnly (s.tlbFill ck pid va need) := by
  unfold State.tlbFill
  dsimp only
  split
  · exact s.savedOnly_rfl
  · split
    · exact ⟨rfl, rfl, rfl, rfl⟩
    · split
      · exact ⟨rfl, rfl, rfl, rfl⟩
      · split
        · exact ⟨rfl, rfl, rfl, rfl⟩
        · exact s.savedOnly_rfl

theorem State.savedOnly_engineFill (s : State) (tk pid : Nat) (p : Perm) (a : Word) (n : Nat) :
    s.savedOnly (s.engineFill tk pid p a n) := by
  unfold State.engineFill
  refine State.savedOnly_foldl (fun t i => ?_) s _
  dsimp only
  split
  · exact t.savedOnly_noteBlock _ _
  · split
    · exact t.savedOnly_noteBlock _ _
    · exact t.savedOnly_rfl
  · exact t.savedOnly_tlbFill _ _ _ _
  · split
    · exact t.savedOnly_rfl
    · exact ⟨rfl, rfl, rfl, rfl⟩
  · exact t.savedOnly_rfl

theorem State.savedOnly_writeChunks (s : State) (ks : List Nat) (bs : List Byte) : s.savedOnly (s.writeChunks ks bs) := by
  induction ks generalizing s bs with
  | nil => exact s.savedOnly_rfl
  | cons k ks ih =>
    have hr : s.savedOnly (s.recallLines k 8) := by
      unfold State.recallLines
      split
      · exact s.savedOnly_rfl
      · refine State.savedOnly_foldl (fun t i => ?_) s _
        exact ⟨rfl, rfl, rfl, rfl⟩
    exact (hr.trans ⟨rfl, rfl, rfl, rfl⟩).trans (ih _ _)

theorem State.savedOnly_engineWrite {s u : State} {tk pid : Nat} {a : Word} {bs : List Byte}
    (h : s.engineWrite tk pid a bs = .ok u) : s.savedOnly u := by
  unfold State.engineWrite at h
  split at h
  · cases h
  · cases h
    exact (s.savedOnly_engineFill _ _ _ _ _).trans (State.savedOnly_writeChunks _ _ _)

theorem State.savedOnly_writeImage (s : State) (tk pid n : Nat) (x : Slot) : s.savedOnly (s.writeImage tk pid n x) := by
  unfold State.writeImage
  split
  · next h => exact State.savedOnly_engineWrite h
  · exact s.savedOnly_rfl

theorem State.savedOnly_resetRotation (s : State) (ck : Nat) : s.savedOnly (s.resetRotation ck) := by
  unfold State.resetRotation
  split
  · exact ⟨rfl, rfl, rfl, rfl⟩
  · exact s.savedOnly_rfl

theorem State.mem_resetRotation (s : State) (ck : Nat) : (s.resetRotation ck).mem = s.mem := by
  unfold State.resetRotation
  split <;> rfl

theorem State.answerMove_keeps (s : State) (m : Move) (v : Nat) : (s.answerMove m v).moves = s.moves
    ∧ (s.answerMove m v).parked = s.parked ∧ (s.answerMove m v).doubles = s.doubles ∧ (s.answerMove m v).mem = s.mem := by
  unfold State.answerMove
  split <;> exact ⟨rfl, rfl, rfl, rfl⟩

theorem State.slot_answerMove_ne {s : State} {m : Move} {v tk : Nat} (h : m.issuer ≠ some tk) : (s.answerMove m v).slot tk = s.slot tk := by
  unfold State.answerMove
  split
  · rfl
  · next k hk => exact State.slot_updSlot_ne _ _ _ _ fun hc => h (hc ▸ hk)

/-! ## Fetch (R38, R81, R196) -/

section
variable {s : State} {tk l cause : Nat} {info : Word}

/-- A slot that fetches, as the statements say it. -/
def Slot.runs (x : Slot) : Prop := x.st = .ready ∨ ∃ w, x.st = .blocked w

theorem execLineFetch_refused (htk : slotOk tk = true) (hr : (s.slot tk).runs) (hc : s.fetchCheck tk = some (cause, info)) :
    execLineFetch tk s = .next (s.enterTrap tk cause info (s.slot tk).pc) :=
  unitEvent_some htk (by obtain h | ⟨w, h⟩ := hr <;> simp [h, hc])

theorem execLineFetch_line (htk : slotOk tk = true) (hr : (s.slot tk).runs) (hc : s.fetchCheck tk = none)
    (hl : s.fetchLine tk = some l) (hi : illegalLine (s.slot tk).pc l = none) :
    execLineFetch tk s = .next ((s.withLine tk l).updSlot tk Slot.lineHere) :=
  unitEvent_some htk (by obtain h | ⟨w, h⟩ := hr <;> simp [h, hc, hl, hi])

theorem execLineFetch_illegal (htk : slotOk tk = true) (hr : (s.slot tk).runs) (hc : s.fetchCheck tk = none)
    (hl : s.fetchLine tk = some l) (hi : illegalLine (s.slot tk).pc l = some (cause, info)) :
    execLineFetch tk s = .next ((s.withLine tk l).enterTrap tk cause info (s.slot tk).pc) :=
  unitEvent_some htk (by obtain h | ⟨w, h⟩ := hr <;> simp [h, hc, hl, hi])

theorem execLineFetch_fetching (htk : slotOk tk = true) (hr : (s.slot tk).runs) (hc : s.fetchCheck tk = none)
    (hl : s.fetchLine tk = none) (hf : s.fetching tk = true) : execLineFetch tk s = .next (s.updSlot tk Slot.awaitLine) :=
  unitEvent_some htk (by obtain h | ⟨w, h⟩ := hr <;> simp [h, hc, hl, hf])

/-- The access that asks for a slot's line. -/
def State.lineFlight (s : State) (tk : Nat) : Flight :=
  { id := 0, thr := tk, pid := s.pidOf tk, addr := lineBase (s.slot tk).pc, n := 64, op := .fetch, tag := (s.slot tk).faultTag }

theorem execLineFetch_asks (htk : slotOk tk = true) (hr : (s.slot tk).runs) (hc : s.fetchCheck tk = none)
    (hl : s.fetchLine tk = none) (hf : s.fetching tk = false) (hsp : space (s.slot tk).pc = 2) :
    execLineFetch tk s = .next ((s.launchFlight (s.lineFlight tk)).updSlot tk Slot.awaitLine) :=
  unitEvent_some htk (by obtain h | ⟨w, h⟩ := hr <;> simp [h, hc, hl, hf, hsp, State.lineFlight])

theorem State.launchFlight_last (s : State) (f : Flight) : ∃ g ∈ (s.launchFlight f).flights, g.thr = f.thr ∧ g.op = f.op ∧ g.addr = f.addr := by
  unfold State.launchFlight
  dsimp only
  split
  · exact ⟨_, List.mem_append_right _ (List.mem_singleton_self _), rfl, rfl, rfl⟩
  · exact ⟨_, List.mem_append_right _ (List.mem_singleton_self _), rfl, rfl, rfl⟩

theorem State.slot_launchFlight (s : State) (f : Flight) (n : Nat) : (s.launchFlight f).slot n = s.slot n :=
  congrArg (fun m => FMap.get ({} : Slot) m n) (s.slots_launchFlight f).1

theorem Slot.pc_awaitLine (x : Slot) : x.awaitLine.pc = x.pc := by
  unfold Slot.awaitLine
  split <;> rfl

theorem Slot.st_awaitLine (x : Slot) : x.awaitLine.st = if x.st = .ready then .blocked .fetch else x.st := by
  unfold Slot.awaitLine
  split <;> rfl

/-- The line of a slot is asked for: it waits, and its fetch is on its way. -/
theorem State.fetching_asked (s : State) (tk : Nat) : ((s.launchFlight (s.lineFlight tk)).updSlot tk Slot.awaitLine).fetching tk = true := by
  obtain ⟨g, hg, hthr, hop, haddr⟩ := s.launchFlight_last (s.lineFlight tk)
  refine List.any_eq_true.mpr ⟨g, hg, decide_eq_true ⟨hthr, hop, ?_⟩⟩
  rw [State.slot_updSlot_same, Slot.pc_awaitLine, State.slot_launchFlight]
  exact haddr

end

/-! ## Asynchronous traps (R97) -/

/-- The slot whose oldest waiting cause is taken. -/
def Slot.causeTaken (x : Slot) (c : Cause) : Slot :=
  { x with async := x.async.tail, hbWaiting := x.hbWaiting && decide (c.code ≠ 0x0F#8) }

theorem Slot.up_of_runs {x : Slot} (h : x.runs) : x.up = .ready := by
  obtain h | ⟨w, h⟩ := h <;> simp [Slot.up, h]

section
variable {s u : State} {tk : Nat} {c : Cause} {rest : List Cause} {m : Move} {p p2 : Nat × Word × Word} {bs id : List Byte} {why : EngErr}

theorem execAsyncTrapEntry_takes (htk : slotOk tk = true) (hexl : (s.slot tk).exl = false) (hs : s.stopped tk = false)
    (hr : (s.slot tk).runs) (hop : (s.slot tk).op = .none) (ha : (s.slot tk).async = c :: rest) :
    execAsyncTrapEntry tk s = .next ((s.updSlot tk (Slot.causeTaken · c)).setSlot tk
      (((s.slot tk).causeTaken c).trapped c.code.toNat c.info (s.slot tk).pc)) := by
  have htrap := State.enterTrap_of_exl0 (s := s.updSlot tk (Slot.causeTaken · c)) (tk := tk)
    (by rw [State.slot_updSlot_same]; exact hexl) c.code.toNat c.info (s.slot tk).pc
  rw [State.slot_updSlot_same] at htrap
  refine (unitEvent_some htk ?_).trans (congrArg Host.Outcome.next htrap)
  simp only [ha, List.head?_cons, Option.bind_eq_bind, Option.bind_some, hs, hexl, State.abandonWait, hop]
  obtain h | ⟨w, h⟩ := hr <;> rw [h] <;> rfl

/-! ## Held pushes (R89) and wakes (R111) -/

theorem heldPushRetry_held (htk : slotOk tk = true) (hst : (s.slot tk).st = .held) :
    execHeldPushRetry tk s = .next (if (s.tryPushes tk (s.slot tk).pushes []).2 = (s.slot tk).pushes then s
      else (s.tryPushes tk (s.slot tk).pushes []).1.updSlot tk fun y => y.pushed (s.tryPushes tk (s.slot tk).pushes []).2) :=
  unitEvent_some htk (congrArg some (by simp [State.retryPush, hst]))

/-- One push of a slot, tried in its core. -/
def State.tryPush (s : State) (tk : Nat) (p : Nat × Word × Word) : Option State :=
  s.pushPort (coreOf tk) (slotNo tk) p.1 p.2.1 p.2.2

theorem State.tryPushes_cons (s : State) (tk : Nat) (p : Nat × Word × Word) (ps kept : List (Nat × Word × Word)) :
    s.tryPushes tk (p :: ps) kept = ((if kept.any (fun q => decide (q.1 = p.1)) then none else s.tryPush tk p).elim
      (s.tryPushes tk ps (kept ++ [p])) fun t => t.tryPushes tk ps kept) := by
  rw [State.tryPushes, State.tryPush]
  cases (if kept.any (fun q => decide (q.1 = p.1)) then none else s.pushPort (coreOf tk) (slotNo tk) p.1 p.2.1 p.2.2) <;> rfl

theorem State.tryPushes_nil (s : State) (tk : Nat) (kept : List (Nat × Word × Word)) : s.tryPushes tk [] kept = (s, kept) := rfl

theorem heldPushRetry_done (htk : slotOk tk = true) (hst : (s.slot tk).st = .held) (hp : (s.slot tk).pushes = [p])
    (hu : s.tryPush tk p = some u) : execHeldPushRetry tk s = .next (u.updSlot tk fun y => y.pushed []) := by
  rw [heldPushRetry_held htk hst, hp]
  simp [State.tryPushes_cons, State.tryPushes_nil, hu]

theorem heldPushRetry_full (htk : slotOk tk = true) (hst : (s.slot tk).st = .held) (hp : (s.slot tk).pushes = [p])
    (hu : s.tryPush tk p = none) : execHeldPushRetry tk s = .next s := by
  rw [heldPushRetry_held htk hst, hp]
  simp [State.tryPushes_cons, State.tryPushes_nil, hu]

/-- A second push to the same port stays behind the first. -/
theorem heldPushRetry_behind (htk : slotOk tk = true) (hst : (s.slot tk).st = .held) (hp : (s.slot tk).pushes = [p, p2])
    (hu : s.tryPush tk p = none) (hport : p.1 = p2.1) : execHeldPushRetry tk s = .next s := by
  rw [heldPushRetry_held htk hst, hp]
  simp [State.tryPushes_cons, State.tryPushes_nil, hu, hport]

/-- A push to another port passes the first. -/
theorem heldPushRetry_passes (htk : slotOk tk = true) (hst : (s.slot tk).st = .held) (hp : (s.slot tk).pushes = [p, p2])
    (hu : s.tryPush tk p = none) (hport : p.1 ≠ p2.1) (hu2 : s.tryPush tk p2 = some u) :
    execHeldPushRetry tk s = .next (u.updSlot tk fun y => y.pushed [p]) := by
  rw [heldPushRetry_held htk hst, hp]
  simp [State.tryPushes_cons, State.tryPushes_nil, hu, hport, hu2]

theorem execWakeArrival_takes (htk : slotOk tk = true) (hw : s.wakes = [tk]) :
    execWakeArrival tk s = .next (({ s with wakes := [] } : State).takeWake tk) :=
  unitEvent_some htk (by simp [hw])

theorem State.takeWake_mwait (h : (s.slot tk).st = .blocked .mwait) : s.takeWake tk = s.updSlot tk fun y => y.endWait 0 := by
  rw [State.takeWake, h]

theorem State.takeWake_word {k : Nat} {b : Word} (h : (s.slot tk).st = .blocked (.wordNe k b)) (ho : s.owned k 8 = false) :
    s.takeWake tk = s.updSlot tk fun y => y.endWait (s.wordFor tk k) := by
  simp only [State.takeWake, h, ho]
  rfl

theorem State.takeWake_bit (h : (s.slot tk).st ≠ .blocked .mwait) (hw : ∀ k b, (s.slot tk).st ≠ .blocked (.wordNe k b)) :
    s.takeWake tk = s.updSlot tk fun y => { y with wake := true } := by
  unfold State.takeWake
  split
  · next h' => exact absurd h' h
  · next k b h' => exact absurd h' (hw k b)
  · rfl

/-! ## Spill (R98, R100, R112) -/

theorem State.move_only (hm : s.moves = [m]) (hthr : m.thr = tk) {r : Bool} (hr : m.restore = r) : s.move tk r = some m := by
  simp [State.move, hm, hthr, hr]

theorem State.dropMove_only (hm : s.moves = [m]) : s.dropMove m = { s with moves := [] } := by
  simp [State.dropMove, hm]

theorem execSlotSpill_begins (htk : slotOk tk = true) (hm : s.moves = [m]) (hthr : m.thr = tk) (hr : m.restore = false)
    (hst : m.started = false) (hop : (s.slot tk).op = .none) (hz : (s.slot tk).cnt.zero = true) (hn : s.noPending tk = true)
    (hf : s.faulted tk = false)
    (hw : m.dbl = true ∨ s.engineWrite m.agent (s.pidOf m.agent) m.addr (s.image tk (s.slot tk).pc) = .ok u) :
    execSlotSpill tk s = .next { s with moves := [{ m with started := true }] } := by
  refine unitEvent_some htk ?_
  simp only [State.move_only hm hthr hr, State.abandonWait, hop, Option.bind_eq_bind, Option.bind_some, hst, hz, hn, hf, hm]
  cases hd : m.dbl
  · obtain hw | hw := hw
    · rw [hd] at hw; cases hw
    · simp [hw, hd]
  · simp [hd]

/-- A move that has ended leaves its slot free. -/
def State.spilled (s : State) (tk : Nat) (m : Move) : State :=
  (((s.dropMove m).updSlot tk fun y => { y with hbWaiting := false, hbPending := false }).freeSlot tk).answerMove m 0

theorem State.spilled_keeps (s : State) (tk : Nat) (m : Move) : (s.spilled tk m).mem = s.mem
    ∧ (s.spilled tk m).moves = (s.dropMove m).moves ∧ (s.spilled tk m).parked = s.parked ∧ (s.spilled tk m).doubles = s.doubles := by
  let t := ((s.dropMove m).updSlot tk fun y => { y with hbWaiting := false, hbPending := false }).freeSlot tk
  obtain ⟨h1, h2, h3, h4⟩ := t.answerMove_keeps m 0
  have hreset : ∀ (u : State) ck, u.savedOnly (u.resetRotation ck) := State.savedOnly_resetRotation
  refine ⟨h4.trans (State.mem_resetRotation _ _), h1.trans (hreset _ _).2.1, h2.trans (hreset _ _).2.2.1, h3.trans (hreset _ _).2.2.2⟩

theorem State.spilled_free (h : m.issuer ≠ some tk) : ((s.spilled tk m).slot tk).st = .free := by
  rw [State.spilled, State.slot_answerMove_ne h, State.freeSlot, (State.savedOnly_resetRotation _ _).slot, State.slot_updSlot_same]

theorem execSpillComplete_started (htk : slotOk tk = true) (hm : s.moves = [m]) (hthr : m.thr = tk) (hr : m.restore = false)
    (hst : m.started = true) :
    (m.dbl = true → execSpillComplete tk s = .next ((s.saveImage tk (s.pidOf tk) (s.relThread tk) (s.slot tk)).spilled tk m))
    ∧ (m.dbl = false → s.engineWrite m.agent (s.pidOf m.agent) m.addr (s.image tk (s.slot tk).pc) = .ok u →
      execSpillComplete tk s = .next ((u.park (s.pidOf tk) (s.relThread tk) (s.slot tk)).spilled tk m))
    ∧ (m.dbl = false → s.engineWrite m.agent (s.pidOf m.agent) m.addr (s.image tk (s.slot tk).pc) = .error why → why ≠ .owned →
      execSpillComplete tk s = .next (((s.dropMove m).updSlot tk Slot.resume).answerMove m 5)) := by
  refine ⟨fun hd => unitEvent_some htk ?_, fun hd hw => unitEvent_some htk ?_, fun hd hw hne => unitEvent_some htk ?_⟩
  · simp [State.move_only hm hthr hr, hst, hd, State.spilled]
  · simp [State.move_only hm hthr hr, hst, hd, State.spilled, hw]
  · cases why <;> simp_all [State.move_only hm hthr hr]

theorem State.park_keeps (s : State) (pid n : Nat) (x : Slot) :
    (s.park pid n x).mem = s.mem ∧ (s.park pid n x).moves = s.moves ∧ (s.park pid n x).doubles = s.doubles := by
  unfold State.park
  split <;> exact ⟨rfl, rfl, rfl⟩

theorem State.mem_park {pid n : Nat} {x : Slot} (h : x.bst = true) : (pid, n, x.task) ∈ (s.park pid n x).parked := by
  rw [State.park, if_pos h]
  exact List.mem_append_right _ (List.mem_singleton_self _)

/-! ## Restore (R100, R112) -/

/-- A table of words, as an image fills it. -/
theorem FMap.get_table (g : Nat → Word) {n i : Nat} (h : i < n) :
    FMap.get 0 ((List.range n).foldl (fun m j => FMap.set 0 m (j + 1) (g j)) []) (i + 1) = g i := by
  induction n with
  | zero => cases h
  | succ n ih =>
    rw [List.range_succ, List.foldl_append]
    by_cases hi : i = n
    · subst hi
      exact FMap.get_set_same _ _ _ _
    · exact (FMap.get_set_ne _ _ _ (by omega)).trans (ih (by omega))

/-- The state that an image in an otherwise empty memory is read from. -/
def State.imgOf (s : State) (bs : List Byte) : State := { s with mem := memWrite [] 0 bs }

/-- The header of the task that an image names. -/
def State.imgHeader (s : State) (pid : Nat) (bs : List Byte) : List Word :=
  match bindingOf ((s.imgOf bs).imgWord 0 62) with
  | none => []
  | some h => (s.launchRec pid h).hdr

/-- The slot that a restored image gives. -/
def State.restoredSlot (s : State) (tk pid : Nat) (bs : List Byte) : Slot :=
  (s.imgOf bs).slotOfImage 0 (s.slot tk) (s.imgHeader pid bs) ((s.part pid).guardQuad (s.pOf tk)).isSome

theorem State.restoredSlot_t (s : State) (tk pid : Nat) (bs : List Byte) {n : Nat} (hn : n < 32) (h1 : 1 ≤ n) :
    FMap.get 0 (s.restoredSlot tk pid bs).t n = (s.imgOf bs).imgWord 0 n := by
  obtain ⟨i, rfl⟩ : ∃ i, n = i + 1 := ⟨n - 1, by omega⟩
  have ht : (s.restoredSlot tk pid bs).t =
      (List.range 31).foldl (fun m j => FMap.set 0 m (j + 1) ((s.imgOf bs).imgWord 0 (1 + j))) [] := by
    simp only [State.restoredSlot, State.slotOfImage]
  have hi : i < 31 := by omega
  rw [ht, FMap.get_table _ hi, Nat.add_comm]

theorem execRestoreComplete_foreign (htk : slotOk tk = true) (hm : s.moves = [m]) (hthr : m.thr = tk) (hr : m.restore = true)
    (hid : s.engineRead m.agent (s.pidOf m.agent) (m.addr + 504#64) 1 = .ok id)
    (hown : fld (word (ofBytes id)) 16 12 ≠ s.pidOf m.agent) : execRestoreComplete tk s =
      .next ((((s.dropMove m).updSlot tk fun y => { y with st := .free }).resetRotation (coreOf tk)).answerMove m 2) := by
  refine unitEvent_some htk ?_
  simp only [State.move_only hm hthr hr, Option.bind_eq_bind, Option.bind_some, hid, if_pos hown]
  rfl

theorem execRestoreComplete_restores (htk : slotOk tk = true) (hm : s.moves = [m]) (hthr : m.thr = tk) (hr : m.restore = true)
    (hid : s.engineRead m.agent (s.pidOf m.agent) (m.addr + 504#64) 1 = .ok id)
    (hown : fld (word (ofBytes id)) 16 12 = s.pidOf m.agent)
    (hbs : s.engineRead m.agent (s.pidOf m.agent) m.addr 576 = .ok bs) : execRestoreComplete tk s =
      .next ((((((s.engineFill m.agent (s.pidOf m.agent) permR m.addr 576).draw).dropMove m).setSlot tk
        (s.restoredSlot tk (s.pidOf m.agent) bs)).unpark tk (s.pidOf m.agent) (fld (word (ofBytes id)) 0 16)).answerMove m 0) := by
  refine unitEvent_some htk ?_
  simp only [State.move_only hm hthr hr, Option.bind_eq_bind, Option.bind_some, hid, hbs, hown, ne_eq, not_true_eq_false, if_false]
  rfl

/-- What a restored slot takes up: its place and its registers are the image's, and of its task only the basting state may come from
beside it. -/
theorem State.unpark_slot (s : State) (tk pid n : Nat) : ((s.unpark tk pid n).slot tk).pc = (s.slot tk).pc
    ∧ ((s.unpark tk pid n).slot tk).t = (s.slot tk).t ∧ ((s.unpark tk pid n).slot tk).sr = (s.slot tk).sr
    ∧ (s.unpark tk pid n).moves = s.moves := by
  unfold State.unpark
  split
  · exact ⟨rfl, rfl, rfl, rfl⟩
  · split
    · rw [State.slot_updSlot_same]
      exact ⟨rfl, rfl, rfl, rfl⟩
    · exact ⟨rfl, rfl, rfl, rfl⟩

theorem State.unpark_only {pid n : Nat} {old : Task} (hp : s.parked = [(pid, n, old)]) (hb : (s.slot tk).bst = true) :
    (s.unpark tk pid n).parked = [] ∧ ((s.unpark tk pid n).slot tk).task = (s.slot tk).task.unpark old := by
  simp only [State.unpark, hp, List.find?_cons, and_self, decide_true, hb, if_true]
  rw [State.slot_updSlot_same]
  exact ⟨by simp, rfl⟩

end

/-! ## The watchdog (R381) -/

theorem execWatchdogExpiry_held {s : State} {tk : Nat} (htk : slotOk tk = true) (hst : (s.slot tk).st = .held)
    (hf : (s.slot tk).wdFired = false) (hl : watchLog (s.vf (s.part (s.pidOf tk)).vf).wdt.toNat ≠ 0)
    (hw : 2 ^ watchLog (s.vf (s.part (s.pidOf tk)).vf).wdt.toNat ≤ (s.slot tk).waited) (hk : (s.slot tk).kind ≠ 3) :
    execWatchdogExpiry tk s = .next ((s.updSlot tk fun y => { y with wdFired := true }).service (s.pidOf tk)
      { kind := 0x13, thread := s.relThread tk, info := (s.slot tk).pc, w2 := (s.slot tk).pc }) :=
  unitEvent_some htk (congrArg some (by
    simp [State.watchdog, hst, hf, hl, hw, hk]))

end Sys2Proof.Machine

open Sys2Proof Sys2Proof.Machine

/-- Settles O51: the events of a slot, one lemma for each of their outcomes. -/
theorem slotEvents : Obligations.SlotEvents := by
  intro s tk l p p2 ps y old why m bs id u cause info htk
  have hok : slotOk tk = true := decide_eq_true htk
  refine ⟨fun hr => ⟨fun hc => execLineFetch_refused hok hr hc, fun hc hl => ⟨fun hi => execLineFetch_line hok hr hc hl hi,
      fun hi => execLineFetch_illegal hok hr hc hl hi⟩, fun hc hl hf hsp => ⟨_, execLineFetch_asks hok hr hc hl hf hsp, ?_,
      s.fetching_asked tk⟩, fun hc hl hf => execLineFetch_fetching hok hr hc hl hf⟩,
    fun c rest hexl hs hr hop ha => ⟨_, execAsyncTrapEntry_takes hok hexl hs hr hop ha, ?_⟩,
    fun hst => ⟨fun hp => ⟨heldPushRetry_done hok hst hp, heldPushRetry_full hok hst hp⟩,
      fun hp hu => ⟨heldPushRetry_behind hok hst hp hu, heldPushRetry_passes hok hst hp hu⟩⟩,
    rfl, fun hst => by simp [Slot.pushed, hst], rfl, rfl, by simp [Slot.pushed, Slot.withPushes], fun hw => ⟨fun hst => ?_,
      fun k b hst ho => ?_, fun hst hw' => ?_⟩,
    fun hm hthr hr => ⟨fun hst hop hz hn hf hw => execSlotSpill_begins hok hm hthr hr hst hop hz hn hf hw,
      fun hst => ⟨fun hd hw => ⟨_, (execSpillComplete_started (why := why) hok hm hthr hr hst).2.1 hd hw, ?_⟩,
        fun hd hw hne => ?_, fun hd hi => ⟨_, (execSpillComplete_started (u := u) (why := why) hok hm hthr hr hst).1 hd, ?_⟩⟩⟩,
    fun hm hthr hr hid => ⟨fun hown => ⟨_, execRestoreComplete_foreign hok hm hthr hr hid hown, ?_⟩,
      fun hown hbs hi => ⟨_, execRestoreComplete_restores hok hm hthr hr hid hown hbs, ?_⟩⟩,
    execWatchdogExpiry_held hok⟩
  · rw [State.slot_updSlot_same, Slot.st_awaitLine, State.slot_launchFlight]
  · rw [State.slot_setSlot_same]
    have hup : ((s.slot tk).causeTaken c).up = .ready := Slot.up_of_runs hr
    refine ⟨congrArg List.tail ha, hup, rfl, rfl, rfl, rfl, (enterStatus_bit _ 7).trans (by simp), rfl, rfl, fun k hk => ?_⟩
    rw [State.slot_setSlot, if_neg hk, State.slot_updSlot_ne _ _ _ _ hk]
  · exact (execWakeArrival_takes hok hw).trans (congrArg Host.Outcome.next (State.takeWake_mwait (s := { s with wakes := [] }) hst))
  · exact (execWakeArrival_takes hok hw).trans (congrArg Host.Outcome.next (State.takeWake_word (s := { s with wakes := [] }) hst ho))
  · exact (execWakeArrival_takes hok hw).trans (congrArg Host.Outcome.next (State.takeWake_bit (s := { s with wakes := [] }) hst hw'))
  case refine_6 =>
    obtain ⟨hmem, hmoves, hparked, _⟩ := State.spilled_keeps (u.park (s.pidOf tk) (s.relThread tk) (s.slot tk)) tk m
    obtain ⟨pmem, pmoves, _⟩ := u.park_keeps (s.pidOf tk) (s.relThread tk) (s.slot tk)
    obtain ⟨_, umoves, _, _⟩ := State.savedOnly_engineWrite hw
    refine ⟨hmem.trans pmem, hmoves.trans ?_, State.spilled_free, fun hb => hparked ▸ State.mem_park hb⟩
    rw [State.dropMove_only (pmoves.trans (umoves.trans hm))]
  case refine_7 =>
    refine ((execSpillComplete_started (u := u) hok hm hthr hr hst).2.2 hd hw hne).trans ?_
    rw [State.dropMove_only hm]
    rfl
  case refine_8 =>
    obtain ⟨_, _, _, hdbl⟩ := State.spilled_keeps (s.saveImage tk (s.pidOf tk) (s.relThread tk) (s.slot tk)) tk m
    refine ⟨hdbl.trans ((State.savedOnly_writeImage _ _ _ _ _).2.2.2.trans (State.park_keeps _ _ _ _).2.2), State.spilled_free ?_⟩
    rw [hi]
    nofun
  case refine_9 =>
    have hreset := State.savedOnly_resetRotation ((s.dropMove m).updSlot tk fun y => { y with st := .free }) (coreOf tk)
    refine ⟨((State.answerMove_keeps _ _ _).1.trans hreset.2.1).trans (congrArg State.moves (State.dropMove_only hm)), fun hi => ?_⟩
    rw [State.slot_answerMove_ne hi, hreset.slot, State.slot_updSlot_same]
  case refine_10 =>
    have hfill := s.savedOnly_engineFill m.agent (s.pidOf m.agent) permR m.addr 576
    let v := (((s.engineFill m.agent (s.pidOf m.agent) permR m.addr 576).draw).dropMove m).setSlot tk (s.restoredSlot tk (s.pidOf m.agent) bs)
    have hv : v.slot tk = s.restoredSlot tk (s.pidOf m.agent) bs := State.slot_setSlot_same _ _ _
    obtain ⟨hpc, ht, hsr, hmoves⟩ := v.unpark_slot tk (s.pidOf m.agent) (fld (word (ofBytes id)) 0 16)
    rw [hv] at hpc ht hsr
    have hslot : ((v.unpark tk (s.pidOf m.agent) (fld (word (ofBytes id)) 0 16)).answerMove m 0).slot tk =
        (v.unpark tk (s.pidOf m.agent) (fld (word (ofBytes id)) 0 16)).slot tk := State.slot_answerMove_ne hi
    refine ⟨(State.answerMove_keeps _ _ _).1.trans (hmoves.trans ?_), (congrArg Slot.pc hslot).trans hpc, fun n hn h1 => ?_,
      ((congrArg (fun x => x.sr.tvec) hslot).trans (congrArg SysRegs.tvec hsr)),
      ((congrArg (fun x => x.sr.epc) hslot).trans (congrArg SysRegs.epc hsr)), fun hp hb => ?_⟩
    · exact congrArg State.moves (State.dropMove_only (hfill.2.1.trans hm))
    · refine (if_neg (by omega)).trans ?_
      rw [hslot, ht]
      exact s.restoredSlot_t tk _ bs hn h1
    · have hvp : v.parked = [(s.pidOf m.agent, fld (word (ofBytes id)) 0 16, old)] := hfill.2.2.1.trans hp
      have hb' : (v.slot tk).bst = true := by
        rw [← hb, hslot, Slot.bst, Slot.bst, hsr, hv]
      obtain ⟨hpark, htask⟩ := State.unpark_only hvp hb'
      refine ⟨(State.answerMove_keeps _ _ _).2.1.trans hpark, ?_⟩
      have htask' := (congrArg Slot.task hslot).trans htask
      exact ⟨(congrArg Task.atomLog htask').trans rfl, (congrArg Task.msgTo htask').trans rfl, (congrArg Task.ckAge htask').trans rfl⟩
end

section
/-! SUPPORT. The copy engine (R338 to R343): its events, each by what its copy has met. -/

namespace Sys2Proof.Machine

/-! ## Start (R338) -/

/-- The one copy of a list that has an identity is replaced; the others stand. -/
theorem map_replaced {run rest : List Copy} {k k' : Copy} (hid : ((run ++ k :: rest).map fun y => y.id).Nodup) :
    ((run ++ k :: rest).map fun y => if y.id = k.id then k' else y) = run ++ k' :: rest := by
  simp only [List.map_append, List.map_cons, List.nodup_append, List.nodup_cons] at hid
  obtain ⟨_, ⟨hrest, _⟩, hrun⟩ := hid
  have hr : (run.map fun y => if y.id = k.id then k' else y) = run := by
    refine (List.map_congr_left fun y hy => if_neg fun h => ?_).trans run.map_id
    exact hrun _ (List.mem_map_of_mem hy) _ List.mem_cons_self h
  have hs : (rest.map fun y => if y.id = k.id then k' else y) = rest := by
    refine (List.map_congr_left fun y hy => if_neg fun h => ?_).trans rest.map_id
    exact hrest (h ▸ List.mem_map_of_mem hy)
  rw [List.map_append, List.map_cons, hr, hs, if_pos rfl]

theorem find_unstarted {run rest : List Copy} {k : Copy} (hrun : ∀ y ∈ run, y.started = true) (hk : k.started = false) :
    (run ++ k :: rest).find? (fun x => !x.started) = some k := by
  rw [List.find?_append, List.find?_eq_none.mpr fun y hy => by simp [hrun y hy]]
  simp [hk]

section
variable {s : State} {ck n : Nat} {k : Copy} {run rest : List Copy} {x : Sector} {st : Nat}

theorem execCopyStart_starts (hck : coreOk ck = true) (hc : (s.quad (quadOfCore ck)).contained = false)
    (hf : (s.core ck).fifo = run ++ k :: rest) (hrun : ∀ y ∈ run, y.started = true) (hk : k.started = false)
    (hn : ((s.core ck).fifo.filter fun y => y.started).length < 4) :
    execCopyStart ck s = .next (s.setCopy ck { k with started := true }) := by
  refine unitEvent_some hck ?_
  have hfind := hf ▸ find_unstarted (rest := rest) hrun hk
  simp [hfind, hc, Nat.not_le.mpr hn]

theorem execCopyStart_full (hck : coreOk ck = true) (hf : (s.core ck).fifo = run ++ k :: rest) (hrun : ∀ y ∈ run, y.started = true)
    (hk : k.started = false) (hn : 4 ≤ ((s.core ck).fifo.filter fun y => y.started).length) : execCopyStart ck s = .next s := by
  have hfind := hf ▸ find_unstarted (rest := rest) hrun hk
  unfold execCopyStart unitEvent
  simp [hck, hfind, hn, event]

/-! ## Sectors (R338, R340 to R342) -/

/-- A sector of a copy may land, but for what its rows meet. -/
structure State.lands (s : State) (ck : Nat) (k : Copy) (n : Nat) (x : Sector) : Prop where
  inPanel : coreOk ck = true
  mine : (s.core ck).copy k.id = some k
  sector : k.sector n = some x
  runs : k.runs = true
  kind : k.kind = 0
  open_ : k.unlanded.contains n = true
  up : (s.quad (quadOfCore ck)).contained = false
  free : s.targetOwned ck k = false
  near : s.copyClosed ck k = false

theorem State.lands.refused (h : s.lands ck k n x) {i : Nat} (hr : s.firstEnd ck k (x.row + 1) = some (i, .refused st)) :
    execCopySectorLand ck k.id n s = .next (s.setCopy ck { k with status := st }) := by
  refine unitEvent_some h.inPanel ?_
  simp only [h.mine, h.sector, Option.bind_eq_bind, Option.bind_some, h.runs, h.kind, h.open_, h.up, h.free, h.near, hr]
  rfl

/-- The state once a sector's rows are translated and its bytes have been read. -/
def State.sectorDrawn (s : State) (ck : Nat) (k : Copy) (x : Sector) : State :=
  ((s.rowsFill ck k (x.row + 1)).engineFill (k.thr ck) (s.pidOf (ck * 8)) permR x.src x.n).drawMany x.n

theorem State.lands.reads (h : s.lands ck k n x) (hr : s.firstEnd ck k (x.row + 1) = none) (hn : k.run n = none)
    (hp : s.peerSource ck k x.src = false) (hw : s.sourceWaits ck k x.src x.n = false) {t : State}
    (ht : (s.sectorDrawn ck k x).sectorRead ck k n x (s.sourceBytes ck k x.src x.n) = some t) :
    execCopySectorLand ck k.id n s = .next t := by
  refine unitEvent_some h.inPanel (Eq.trans ?_ ht)
  simp only [h.mine, h.sector, Option.bind_eq_bind, Option.bind_some, h.runs, h.kind, h.open_, h.up, h.free, h.near, hr, hn, hp, hw]
  rfl

/-- Without a stream a sector that has been read is written at once. -/
theorem State.sectorRead_streamless (s : State) (ck n : Nat) (x : Sector) (bs : List Byte) (hs : k.w2.getLsbD 60 = false) :
    s.sectorRead ck k n x bs = s.landSector ck k n x bs := by
  unfold State.sectorRead
  dsimp only
  split
  · rw [hs]; rfl
  · rfl

theorem State.landSector_here {bs : List Byte} {j : Nat} (hj : s.engineRaw (k.thr ck) (s.pidOf (ck * 8)) permW x.dst x.n = .ok j)
    (hw : s.copyWaits ck k j x.n = false) : s.landSector ck k n x bs =
      some (((((s.engineFill (k.thr ck) (s.pidOf (ck * 8)) permW x.dst x.n).recallLines j x.n).wrBytes j bs)).sectorLanded ck k n x.n) := by
  rw [State.landSector, hj]
  exact if_neg (by rw [hw]; exact Bool.false_ne_true)

/-! ## Completion (R341) -/

theorem execCopyComplete_landed (hck : coreOk ck = true) (hc : (s.quad (quadOfCore ck)).contained = false)
    (hm : (s.core ck).copy k.id = some k) (hs : k.started = true) (hx : k.cancelled = false) (hst : k.status = 0)
    (hu : k.unlanded = []) (hf : s.copyFlying ck k = false) : execCopyComplete ck k.id s = event s (
      if k.mode = 3 then (if 16 ≤ (s.core ck).c29.length then none
        else some ((s.updCore ck fun c => { c with c29 := c.c29 ++ [k.record 0] }).endCopy ck k))
      else if k.mode = 1 then (if s.targetOwned ck k then none
        else some ((s.wr8 (s.localKey (ck * 8) k.caddr) (word (fld k.w3 24 38))).endCopy ck k))
      else some (s.endCopy ck k)) := by
  unfold execCopyComplete unitEvent
  rw [hck, if_pos rfl]
  refine congrArg (event s) ?_
  simp only [hm, Option.bind_eq_bind, Option.bind_some, hs, hx, hst, hu, hf, hc]
  simp [Copy.raises]

theorem Copy.record_zero (k : Copy) : k.record 0 = word (k.idx * 2 ^ 16 + fld k.w3 0 16) := by
  simp [Copy.record, bit]

theorem execCopyComplete_refused (hck : coreOk ck = true) (hc : (s.quad (quadOfCore ck)).contained = false)
    (hm : (s.core ck).copy k.id = some k) (hx : k.cancelled = false) (hst : k.status = st) (h0 : st ≠ 0)
    (hf : s.copyFlying ck k = false) : execCopyComplete ck k.id s = event s (
      if k.mode = 3 then (if 16 ≤ (s.core ck).c29.length then none
        else some ((s.updCore ck fun c => { c with c29 := c.c29 ++ [k.record st] }).endCopy ck k))
      else some ((k.raises st).elim (s.endCopy ck k) fun r => (s.endCopy ck k).postAsync (k.thr ck) r.1 r.2)) := by
  unfold execCopyComplete unitEvent
  rw [hck, if_pos rfl]
  refine congrArg (event s) ?_
  simp only [hm, Option.bind_eq_bind, Option.bind_some, hx, hst, hf, hc]
  simp only [h0, false_and, false_or, Bool.false_eq_true, if_false, and_true]
  cases k.raises st <;> rfl

theorem execCopyComplete_cancelled (hck : coreOk ck = true) (hc : (s.quad (quadOfCore ck)).contained = false)
    (hm : (s.core ck).copy k.id = some k) (hx : k.cancelled = true) (hf : s.copyFlying ck k = false) :
    execCopyComplete ck k.id s = .next (s.endCopy ck k) := by
  refine unitEvent_some hck ?_
  simp only [hm, Option.bind_eq_bind, Option.bind_some, hx, hf, hc]
  simp [Copy.raises]

/-! ## Handback (R342) -/

theorem State.endCopy_fifo (s : State) (ck : Nat) (k : Copy) :
    ((s.endCopy ck k).core ck).fifo = (s.core ck).fifo.filter fun x => decide (x.id ≠ k.id) := by
  have h := State.meshOnly_foldl (f := fun (t : State) (r : SectorRun) => t.dropPacket r.pkt) (fun t r => t.meshOnly_dropPacket _) k.going s
  rw [← h.core ck, State.endCopy, State.endCount, State.core_updSlot, State.core_updCore_same]

theorem State.endCopy_slot (s : State) (ck : Nat) (k : Copy) :
    (s.endCopy ck k).slot (k.thr ck) = (s.slot (k.thr ck)).updCnt fun c => c.dec 5 := by
  have h := State.meshOnly_foldl (f := fun (t : State) (r : SectorRun) => t.dropPacket r.pkt) (fun t r => t.meshOnly_dropPacket _) k.going s
  rw [← h.slot (k.thr ck), State.endCopy, State.endCount, State.slot_updSlot_same]
  rfl

theorem State.handback_pending {tk kind reason : Nat} {ws : List Word} {fault : Word} {write final : Bool} (hb : (s.slot tk).hbPending = false) :
    ∃ t, s.handback tk kind ws fault write final reason = some t ∧ (t.slot tk).hbPending = true ∧ (t.slot tk).cnt = (s.slot tk).cnt
      ∧ t.cores = s.cores := by
  refine ⟨_, if_neg (by rw [hb]; exact Bool.false_ne_true), ?_⟩
  rw [State.postAsync, State.slot_updSlot_same, State.slot_updSlot_same]
  split <;> exact ⟨rfl, rfl, rfl⟩

theorem execCopyHandback_faults (hck : coreOk ck = true) (hc : (s.quad (quadOfCore ck)).contained = false)
    (hm : (s.core ck).copy k.id = some k) {f : Nat × Word × Bool × Nat} (hf : s.copyFault ck k = some f)
    (hb : (s.slot (k.thr ck)).hbPending = false) :
    ∃ t, execCopyHandback ck k.id s = .next t ∧ (t.slot (k.thr ck)).hbPending = true
      ∧ (t.core ck).fifo = ((s.core ck).fifo.filter fun y => decide (y.id ≠ k.id))
      ∧ (t.slot (k.thr ck)).cnt.cpc = (s.slot (k.thr ck)).cnt.cpc - 1 := by
  obtain ⟨t, ht, hpend, hcnt, hcores⟩ := State.handback_pending (kind := 0)
    (reason := (s.reasonOf (.xlate f.2.2.2)).1) (ws := k.backWords (s.handbackAddr (k.thr ck)) f.1) (fault := f.2.1)
    (write := f.2.2.1) (final := (s.reasonOf (.xlate f.2.2.2)).2) hb
  refine ⟨t.endCopy ck k, unitEvent_some hck ?_, ?_, ?_, ?_⟩
  · simp only [hm, hf, Option.bind_eq_bind, Option.bind_some, hc, ht]
    rfl
  · rw [State.endCopy_slot]
    exact hpend
  · rw [State.endCopy_fifo]
    exact congrArg (fun m => (FMap.get ({} : Core) m ck).fifo.filter fun y => decide (y.id ≠ k.id)) hcores
  · rw [State.endCopy_slot]
    exact congrArg (fun c => c.cpc - 1) hcnt

/-! ## Scale blocks (R164, R339) -/

/-- A scale block may be delivered, but for what its rows meet. -/
structure State.delivers (s : State) (ck : Nat) (k : Copy) : Prop where
  inPanel : coreOk ck = true
  mine : (s.core ck).copy k.id = some k
  runs : k.runs = true
  kind : k.kind = 1
  fresh : k.landed = []
  up : (s.quad (quadOfCore ck)).contained = false
  free : s.targetOwned ck k = false
  near : s.copyClosed ck k = false

theorem State.delivers.refused (h : s.delivers ck k) {i : Nat} (hr : s.firstEnd ck k k.rows = some (i, .refused st)) :
    execScaleBlockDeliver ck k.id s = .next (s.setCopy ck { k with status := st }) := by
  refine unitEvent_some h.inPanel ?_
  simp only [h.mine, Option.bind_eq_bind, Option.bind_some, h.runs, h.kind, h.fresh, h.up, h.free, h.near, hr]
  rfl

/-- The number of codes that a block's first word names. -/
def State.blockCodes (s : State) (ck : Nat) (k : Copy) : Nat := bitsAt (ofBytes (s.sourceBytes ck k (k.srcRow 0) 8)) 16 8

/-- The length of a block by its first word. -/
def State.blockLen (s : State) (ck : Nat) (k : Copy) : Nat := 8 + (s.blockCodes ck k + 7) / 8 * 8

/-- The block that a copy's source holds. -/
def State.blockOf (s : State) (ck : Nat) (k : Copy) : Scale :=
  { seq := BitVec.ofNat 16 (ofBytes (s.sourceBytes ck k (k.srcRow 0) 8))
    codes := ((s.sourceBytes ck k (k.srcRow 0) (s.blockLen ck k)).drop 8).take (s.blockCodes ck k) }

/-- What the delivery does with a block on this panel, its first bytes there. -/
theorem State.delivers.here (h : s.delivers ck k) (hr : s.firstEnd ck k k.rows = none) (hn : k.run 0 = none)
    (hp : s.peerSource ck k (k.srcRow 0) = false) (hw : s.sourceWaits ck k (k.srcRow 0) 8 = false) :
    execScaleBlockDeliver ck k.id s = event s (
      if s.blockCodes ck k = 0 ∨ 128 < s.blockCodes ck k ∨ k.rowLen * k.rows ≠ s.blockLen ck k then
        some (s.setCopy ck { k with status := 3 })
      else (s.scaleTarget ck k).elim (some (s.setCopy ck { k with status := 2 })) fun tc =>
        if s.sourceWaits ck k (k.srcRow 0) (s.blockLen ck k) ∨
            4096 < s.scaleUse (s.pidOf (ck * 8)) (quadOfCore tc) + s.blockLen ck k then none
        else some ((((((s.engineFill (k.thr ck) (s.pidOf (ck * 8)) permR (k.srcRow 0) (s.blockLen ck k)).drawMany (s.blockLen ck k)).takeScale
          (s.pidOf (ck * 8)) tc (s.blockOf ck k))).setCopy ck { k with landed := [0] }).copyBarrier ck k (s.blockLen ck k))) := by
  unfold execScaleBlockDeliver unitEvent
  rw [h.inPanel, if_pos rfl]
  refine congrArg (event s) ?_
  simp only [h.mine, Option.bind_eq_bind, Option.bind_some, h.runs, h.kind, h.fresh, h.up, h.free, h.near, hr, hn, hp, hw]
  cases s.scaleTarget ck k <;> rfl

end

end Sys2Proof.Machine

open Sys2Proof Sys2Proof.Machine

/-- Settles O43: each event of the engine, by what its copy has met. -/
theorem copyEvents : Obligations.CopyEvents := by
  intro s ck tc n j i st cause info k run rest x a b fault hlt hslot hup
  have hck : coreOk ck = true := decide_eq_true hlt
  refine ⟨fun hf hrun hk hid => ⟨fun hn => ⟨_, execCopyStart_starts hck hup hf hrun hk hn, ?_⟩, execCopyStart_full hck hf hrun hk⟩,
    fun ⟨hm, hx, hr, hk, hu, hto, hcl⟩ hr' => State.lands.refused ⟨hck, hm, hx, hr, hk, hu, hup, hto, hcl⟩ hr',
    fun ⟨hm, hx, hr, hk, hu, hto, hcl⟩ he hn hs hp hw hj hcw =>
      State.lands.reads ⟨hck, hm, hx, hr, hk, hu, hup, hto, hcl⟩ he hn hp hw
        ((State.sectorRead_streamless _ ck n x _ hs).trans (State.landSector_here hj hcw)),
    fun hm hs hx hst hu hfly => ?_, fun hm hx hst hmem hfly => ?_,
    fun hm hx hfly => execCopyComplete_cancelled hck hup hm hx hfly, fun hm hf hb => execCopyHandback_faults hck hup hm hf hb,
    fun ⟨hm, hr, hk, hl, hto, hcl⟩ he => State.delivers.refused ⟨hck, hm, hr, hk, hl, hup, hto, hcl⟩ he,
    fun ⟨hm, hr, hk, hl, hto, hcl⟩ he hn hp hw => ?_, fun hc => ⟨_, unitEvent_some hck (if_neg (by rw [hc]; nofun)), ?_⟩⟩
  · rw [State.setCopy, State.core_updCore_same, hf]
    exact map_replaced (hf ▸ hid)
  · have hd := execCopyComplete_landed hck hup hm hs hx hst hu hfly
    refine ⟨fun hmode => hd.trans ?_, fun hmode hto => hd.trans ?_, fun hmode hlen => hd.trans ?_⟩
    · rw [if_neg (by omega), if_neg (by omega)]; rfl
    · rw [if_neg (by omega), if_pos hmode, hto]; rfl
    · rw [if_pos hmode, if_neg (Nat.not_le.mpr hlen), Copy.record_zero]; rfl
  · have hcases : (st = 1 ∧ cause = 0x07 ∧ info = k.w0) ∨ (st = 2 ∧ cause = 0x07 ∧ info = k.w1) ∨ (st = 3 ∧ cause = 0x02 ∧ info = k.w0) := by
      simpa using hmem
    have h0 : st ≠ 0 := by omega
    have hd := execCopyComplete_refused hck hup hm hx hst h0 hfly
    refine ⟨fun hmode => hd.trans ?_, fun hmode hlen => hd.trans ?_⟩
    · rw [if_neg hmode]
      obtain ⟨rfl, rfl, rfl⟩ | ⟨rfl, rfl, rfl⟩ | ⟨rfl, rfl, rfl⟩ := hcases <;> rfl
    · rw [if_pos hmode, if_neg (Nat.not_le.mpr hlen), Copy.record, decide_eq_true h0]
      simp [bit, event]
  · have hd := State.delivers.here ⟨hck, hm, hr, hk, hl, hup, hto, hcl⟩ he hn hp hw
    refine ⟨fun hbad => hd.trans (congrArg (event s) (if_pos hbad)), fun h1 h128 hlen => ?_⟩
    have hgood : ¬ (s.blockCodes ck k = 0 ∨ 128 < s.blockCodes ck k ∨ k.rowLen * k.rows ≠ s.blockLen ck k) := by
      rintro (h | h | h)
      · exact absurd (h1.trans_eq h) (by decide)
      · exact absurd h128 (Nat.not_le.mpr h)
      · exact h hlen
    rw [if_neg hgood] at hd
    refine ⟨fun ht => hd.trans (by rw [ht]; rfl), fun ht hws => ⟨fun huse => hd.trans ?_, fun huse => hd.trans ?_⟩⟩
    · rw [ht, Option.elim_some, if_neg (by
        rintro (h | h)
        · exact absurd (h.symm.trans hws) (by decide)
        · exact absurd huse (Nat.not_le.mpr h))]
      rfl
    · rw [ht, Option.elim_some, if_pos (.inr huse)]
      rfl
  · rw [State.core_updCore_same]
    exact congrArg List.tail hc
end

section
/-! SUPPORT. Channels at their home and in the caches (R271 to R275, R279 to R281, R287, R289): what each event does with the entry it
meets. -/

namespace Sys2Proof.Machine

/-! ## Pushes at the home -/

section
variable {s : State} {p : PushMsg} {e : ChanEnt} {tk : Nat} {k : Nat → ChanEnt → Option State}

/-- A push stands at its home, before an entry that is valid there. -/
structure State.pushAt (s : State) (p : PushMsg) (e : ChanEnt) (tk : Nat) : Prop where
  only : s.pushes = [p]
  home : s.threadKey p.pid p.reader = some tk
  here : s.arrived p.pkt = true
  waits : p.acked = false
  up : (s.quad (quadOf tk)).contained = false
  entry : s.chanAt (quadOf tk) p.pid p.ch = some e
  stays : s.invalidating (quadOf tk) p e = false
  valid : e.valid = true

theorem State.pushAt.passes (h : s.pushAt p e tk) (hd : e.state = 2 ∨ p.seq < e.tail) : s.atHome p k = some (s.answerPush p false) := by
  simp [State.atHome, h.home, h.here, h.waits, h.up, h.entry, h.stays, h.valid, hd]

theorem State.pushAt.meets (h : s.pushAt p e tk) (hs : e.state ≠ 2) (ht : p.seq = e.tail) : s.atHome p k = k (quadOf tk) e := by
  simp [State.atHome, h.home, h.here, h.waits, h.up, h.entry, h.stays, h.valid, hs, ht]

/-- A push that is next in its order is accepted, or an access of its acceptance is reported. -/
def State.takePush (s : State) (p : PushMsg) (qi : Nat) (e : ChanEnt) : Option State :=
  if s.elemWaits qi e e.tail then none
  else match s.acceptPush qi e p.data with
    | .ok t => some (t.answerPush p false)
    | .error t => some t

theorem channelPushAccept_eq (h : s.pushes = [p]) (hc : p.close = false) :
    execChannelPushAccept p.id s = event s (s.atHome p (s.takePush p)) := by
  unfold execChannelPushAccept
  rw [h, List.find?_cons_of_pos (by simp [hc])]
  rfl

theorem channelCloseApply_eq (h : s.pushes = [p]) (hc : p.close = true) : execChannelCloseApply p.id s = event s
    (s.atHome p fun qi e => some ((s.setChan qi { e with state := 1 }).answerPush p false)) := by
  simp [execChannelCloseApply, h, hc]

/-- An element whose place in the ring is there, nothing being let out, is written there. -/
theorem State.acceptPush_ring {qi r : Nat} {data : List Byte} (hr : e.ring = some r) (hsph : e.sph = e.tail) (hroom : e.tail - e.keep < e.cap)
    (htk : s.threadKey e.pid e.reader = some tk) (hb : (s.slotIn e.pid tk).bst = false) : s.acceptPush qi e data =
      .ok (((s.noteBlock qi (s.ringKey qi e r e.tail)).wrBytes (s.ringKey qi e r e.tail) data).touchChan qi
        { e with tail := seqNext e.tail, sph := seqNext e.tail }) := by
  simp [State.acceptPush, htk, hb, hr, hsph, hroom, Except.map]

theorem State.pushAt.accepts {r : Nat} (h : s.pushAt p e tk) (hc : p.close = false) (hs : e.state ≠ 2) (ht : p.seq = e.tail)
    (hw : s.elemWaits (quadOf tk) e e.tail = false) (hr : e.ring = some r) (hsph : e.sph = e.tail) (hroom : e.tail - e.keep < e.cap)
    (htk : s.threadKey e.pid e.reader = some tk) (hb : (s.slotIn e.pid tk).bst = false) : execChannelPushAccept p.id s =
      .next ((((s.noteBlock (quadOf tk) (s.ringKey (quadOf tk) e r e.tail)).wrBytes (s.ringKey (quadOf tk) e r e.tail) p.data).touchChan (quadOf tk)
        { e with tail := seqNext e.tail, sph := seqNext e.tail }).answerPush p false) := by
  rw [channelPushAccept_eq h.only hc, h.meets hs ht, State.takePush, State.acceptPush_ring hr hsph hroom htk hb, hw]
  rfl

theorem State.pushAt.closes (h : s.pushAt p e tk) (hc : p.close = true) (hs : e.state ≠ 2) (ht : p.seq = e.tail) :
    execChannelCloseApply p.id s = .next ((s.setChan (quadOf tk) { e with state := 1 }).answerPush p false) := by
  rw [channelCloseApply_eq h.only hc, h.meets hs ht]
  rfl

theorem State.pushAt.only_ends (h : s.pushAt p e tk) (hd : e.state = 2 ∨ p.seq < e.tail) :
    exec (if p.close then .channelCloseApply p.id else .channelPushAccept p.id) s = .next (s.answerPush p false) := by
  cases hc : p.close
  · exact (channelPushAccept_eq h.only hc).trans (event_some (h.passes hd))
  · exact (channelCloseApply_eq h.only hc).trans (event_some (h.passes hd))

theorem State.ackPush_only (h : s.pushes = [p]) (hc : p.counted = true) :
    s.ackPush p = ({ s.dropPacket p.pkt with pushes := [] } : State).endCount p.src 1 := by
  rw [State.ackPush, if_pos hc, h, List.filter_cons_of_neg (by simp), List.filter_nil]

theorem storeAck_push (h : s.pushes = [p]) (hf : s.flight p.id = none) (ha : p.acked = true) (hh : s.arrived p.pkt = true) :
    execStoreAck p.id s = .next (s.endPush p) := by
  unfold execStoreAck
  rw [hf]
  exact event_some (by simp [h, ha, hh])

end

/-! ## Fills, refills, evictions and reports -/

section
variable {s : State} {qi ch k : Nat} {f : Flight} {e : ChanEnt}

/-- The fill of an entry that the quad's cache has room for has been read. -/
structure State.fillHere (s : State) (qi ch k : Nat) (f : Flight) : Prop where
  inPanel : quadOk qi = true
  only : s.flights = [f]
  quad : quadOf f.thr = qi
  fill : f.ret = .fill ch false
  home : f.stage = .home k
  absent : s.chanAt qi f.pid ch = none
  room : (s.quad qi).chans.length < 64
  free : s.ownedFor [f.thr] f.id k 64 = false
  ready : s.mayPerform f = true

/-- The entry that a fill gives, and the state once it is cached. -/
def State.filledEntry (s : State) (qi ch k : Nat) (f : Flight) : ChanEnt := s.fillEntry qi ch f.pid f.addr fun n => s.rd8 (k + 8 * n)
def State.filled (s : State) (qi ch k : Nat) (f : Flight) : State :=
  ((s.endReplay qi (s.filledEntry qi ch k f)).takeId.removeFlight f).touchChan qi (s.filledEntry qi ch k f)

theorem State.fillHere.plain (h : s.fillHere qi ch k f)
    (hx : (s.filledEntry qi ch k f).valid = false ∨ s.isHome qi (s.filledEntry qi ch k f) = false) :
    execChannelFill qi ch s = .next (s.filled qi ch k f) := by
  refine unitEvent_some h.inPanel ?_
  unfold State.filledEntry at hx
  obtain hx | hx := hx
  · simp [h.only, h.quad, h.fill, h.home, h.absent, Nat.not_le.mpr h.room, h.free, h.ready, hx, State.filled, State.filledEntry]
  · simp [h.only, h.quad, h.fill, h.home, h.absent, Nat.not_le.mpr h.room, h.free, h.ready, hx, State.filled, State.filledEntry]

theorem State.fillHere.homed (h : s.fillHere qi ch k f) (hv : (s.filledEntry qi ch k f).valid = true)
    (hh : s.isHome qi (s.filledEntry qi ch k f) = true) (hc : (s.quad qi).ctxs.length < 2) :
    execChannelFill qi ch s = .next ((s.filled qi ch k f).allotRing qi (s.filledEntry qi ch k f)) := by
  refine unitEvent_some h.inPanel ?_
  have hroom : s.ringRoom qi (s.filledEntry qi ch k f) = .ok s := if_neg fun hn => absurd hn.1 (Nat.not_le.mpr hc)
  unfold State.filledEntry at hv hh hroom
  simp [h.only, h.quad, h.fill, h.home, h.absent, Nat.not_le.mpr h.room, h.free, h.ready, hv, hh, hroom, State.filled, State.filledEntry]

/-- With one context a filled entry takes the ring that fits. -/
theorem State.allotRing_fits {r : Nat} (hc : (s.quad qi).ctxs.length < 2) (hs : e.state ≠ 2) (hr : s.ringFit qi e = some r) :
    s.allotRing qi e = s.setChan qi { e with ring := some r } := by
  rw [State.allotRing, if_neg (Nat.not_le.mpr hc), if_neg hs, hr]

theorem State.allotRing_none (hc : (s.quad qi).ctxs.length < 2) (h : e.state = 2 ∨ s.ringFit qi e = none) : s.allotRing qi e = s := by
  have hnone : (if e.state = 2 then none else s.ringFit qi e) = none := by
    obtain h | h := h
    · exact if_pos h
    · rw [h, ite_self]
  rw [State.allotRing, if_neg (Nat.not_le.mpr hc), hnone]

theorem State.quad_removeFlight (s : State) (f : Flight) (n : Nat) : (s.removeFlight f).quad n = s.quad n := by
  obtain ⟨_, _, _, _, _, h⟩ := s.meshOnly_dropPacket f.pkt
  rw [State.removeFlight, h]
  rfl

theorem State.quad_endReplay (s : State) (qi : Nat) (e : ChanEnt) (n : Nat) : (s.endReplay qi e).quad n = s.quad n := by
  unfold State.endReplay
  split <;> rfl

theorem State.ctxs_filled (s : State) (qi ch k : Nat) (f : Flight) : ((s.filled qi ch k f).quad qi).ctxs = (s.quad qi).ctxs := by
  rw [State.filled, State.touchChan, State.quad_updQuad_same, State.quad_removeFlight, State.quad_takeId, State.quad_endReplay]

theorem State.mem_chansHere {l : List ChanEnt} (h : s.chansHere qi ch = e :: l) {g : ChanEnt → Option State} {t : State} (hg : g e = some t) :
    (s.chansHere qi ch).findSome? g = some t := by
  rw [h, List.findSome?_cons, hg]

theorem execChannelRefill_moves {l : List ChanEnt} {r : Nat} {bs : List Byte} (hqi : quadOk qi = true) (hc : s.chansHere qi ch = e :: l)
    (hr : e.ring = some r) (hh : s.isHome qi e = true) (hv : e.valid = true) (hs : e.state ≠ 2) (hlt : e.sph < e.tail)
    (hroom : e.sph - e.keep < e.cap) (hw : s.elemWaits qi e e.sph = false) (hbs : s.spillRead qi e e.sph = .ok bs) :
    execChannelRefill qi ch s = .next ((((s.spillFill e e.sph).noteBlock qi (s.ringKey qi e r e.sph)).wrBytes (s.ringKey qi e r e.sph) bs).setChan qi
      { e with sph := seqNext e.sph, letout := e.letout && decide (seqNext e.sph ≠ e.tail) }) :=
  unitEvent_some hqi (State.mem_chansHere hc (by simp [hr, hh, hv, hs, hlt, hroom, hw, hbs]))

theorem execChannelRoomReport_reports {l : List ChanEnt} {w : ChanEnt} {wk : Nat} (hqi : quadOk qi = true) (hc : s.chansHere qi ch = e :: l)
    (hwk : s.threadKey e.pid e.writer = some wk) (hw : s.chanAt (quadOf wk) e.pid ch = some w) (hh : s.isHome qi e = true)
    (hv : e.valid = true) (hwv : w.valid = true) : execChannelRoomReport qi ch s =
      .next (s.setChan (quadOf wk) { w with wkeep := e.keep, whead := e.head, letLim := e.letLim }) :=
  unitEvent_some hqi (State.mem_chansHere hc (by simp [hwk, hw, hh, hv, hwv]))

theorem State.evictChan_plain (h : s.isHome qi e = false ∨ e.lost = true) : s.evictChan qi e = .ok (s.dropChan qi e) :=
  if_pos (by obtain h | h := h <;> simp [h])

theorem execChannelEviction_drops (hqi : quadOk qi = true) (hv : s.victim qi = some e) (he : e.id = ch) (hfull : 64 ≤ (s.quad qi).chans.length)
    (hf : ∃ g ∈ s.flights, quadOf g.thr = qi ∧ g.fills = true) (hu : s.unacked qi e.pid e.id = false) (hw : s.chanWaits qi e = false)
    (hh : s.isHome qi e = false) : execChannelEviction qi ch s = .next (s.dropChan qi e) := by
  have hwaits : (s.flights.any fun f => decide (quadOf f.thr = qi) && f.fills) = true := by
    obtain ⟨g, hg, hq, hg'⟩ := hf
    exact List.any_eq_true.mpr ⟨g, hg, by simp [hq, hg']⟩
  refine unitEvent_some hqi ?_
  rw [hv, Option.bind_eq_bind, Option.bind_some, if_pos ⟨he, hfull, hwaits, hu, hw⟩, State.evictChan_plain (.inl hh)]
  rfl

theorem execChannelSpillPopReturn_scalar {p : SpillPop} (hqi : quadOk qi = true) (hp : s.spillPops = [p]) (hq : p.qi = qi) (hc : p.ch = ch)
    (hk : p.kind = 0) : execChannelSpillPopReturn qi ch s =
      .next ((({ s with spillPops := [] } : State).arriveReg p.thr p.d 0 p.pc p.due).arriveReg p.thr p.b (word (ofBytes p.data)) p.pc p.due) := by
  refine unitEvent_some hqi ?_
  rw [hp, List.find?_cons_of_pos (by simp [hq, hc]), Option.bind_eq_bind, Option.bind_some, List.erase_cons_head, hk]
  rfl

end

end Sys2Proof.Machine

open Sys2Proof Sys2Proof.Machine

/-- Settles O33: a push at its home by the entry that it meets there, the answer at the writer, and the events of the caches. -/
theorem channelHomeEvents : Obligations.ChannelHomeEvents := by
  refine ⟨fun s p e tk r honly hhome hhere hwaits hup hentry hstays hvalid => ?_, fun s p h hf ha hc hh => ⟨fun hr => ?_, fun hr => ?_⟩,
    fun s qi ch k wk r f e w l bs p hlt => ?_⟩
  · have hat : s.pushAt p e tk := ⟨honly, hhome, hhere, hwaits, hup, hentry, hstays, hvalid⟩
    exact ⟨hat.only_ends, fun hc hs ht hw hr hsph hroom htk hb => hat.accepts hc hs ht hw hr hsph hroom htk hb,
      fun hc hs ht => hat.closes hc hs ht⟩
  · refine (storeAck_push h hf ha hh).trans ?_
    rw [State.endPush, hr, State.ackPush_only h hc]
    rfl
  · refine (storeAck_push h hf ha hh).trans ?_
    rw [State.endPush, hr, State.ackPush_only h hc, hc]
    rfl
  · have hqi : quadOk qi = true := decide_eq_true hlt
    refine ⟨fun honly hq hfill hhome habs hroom hfree hready => ?_,
      fun hc hr hh hv hs hlt' hroom hw hbs => execChannelRefill_moves hqi hc hr hh hv hs hlt' hroom hw hbs,
      fun hv he hfull hf hu hw hh => execChannelEviction_drops hqi hv he hfull hf hu hw hh,
      fun hc hwk hw hh hv hwv => execChannelRoomReport_reports hqi hc hwk hw hh hv hwv,
      fun hp hq hc hk => execChannelSpillPopReturn_scalar hqi hp hq hc hk⟩
    have hat : s.fillHere qi ch k f := ⟨hqi, honly, hq, hfill, hhome, habs, hroom, hfree, hready⟩
    refine ⟨hat.plain, fun hv hh hc => ?_⟩
    have hc' : ((s.filled qi ch k f).quad qi).ctxs.length < 2 := by rwa [State.ctxs_filled]
    exact ⟨fun hs hr => (hat.homed hv hh hc).trans (congrArg Host.Outcome.next (State.allotRing_fits hc' hs hr)),
      fun hnone => (hat.homed hv hh hc).trans (congrArg Host.Outcome.next (State.allotRing_none hc' hnone))⟩
end

section
/-! SUPPORT. Channel heads (R278 to R280, R286 to R292): the checks in their order as equations of the act that they guard, then what each
head does behind them. -/

namespace Sys2Proof.Machine

/-! ## Heads that name no port -/

section
variable {s : State} {u : Use} {k : (Reg → Word) → State → Act}

theorem runHead_low (h : mayIssue u s = true) (hlow : ∀ r ∈ u.rd, r.toNat < 32) : runHead u s k = .next ((k s.operand s).run s) := by
  rw [runHead_of_mayIssue h, State.popPorts_low s fun r hr => (hlow r hr).trans (by decide)]

theorem put_low {t : State} {d : Reg} (hd : d.toNat < 32) (v : Word) (lat : Nat) : put t d v lat = .next (t.writeReg t.cur d v lat) :=
  if_neg (by simp; omega)

theorem Act.run_next (s t : State) : (Act.next t).run s = t.passed := rfl

theorem State.wrote_nil (s : State) (d : Reg) (v : Word) (lat : Nat) : s.wrote [] d v lat = (s.writeReg s.cur d v lat).passed := rfl

end

/-! ## The checks -/

section
variable {s : State} {e : ChanEnt} {k : ElemKind} {v : Word} {act : Act} {d a b : Reg} {imm : BitVec 10}

/-- The kind of a channel head against its entry, and the address of kind .a (R286). -/
def State.kindFits (s : State) (k : ElemKind) (e : ChanEnt) (v : Word) (p : Perm) : Prop :=
  (k = .s → e.esize = 0)
    ∧ (k = .a → space v = 0 ∧ window v = 0 ∧ mustBeZero v = true ∧ v.toNat % Nat.min e.esz 32 = 0 ∧ s.localCheck s.cur p v e.esz = none
      ∧ s.bytesFree (s.localKey s.cur (offset v)) e.esz = true)

theorem State.kindCheck_fits {push : Bool} (h : s.kindFits k e v (if push then permR else permW)) : s.kindCheck k e push v act = act := by
  obtain ⟨hs, ha⟩ := h
  cases k with
  | s => exact if_neg (not_not_intro (hs rfl))
  | v => rfl
  | a =>
    obtain ⟨hspace, hwindow, hzero, halign, hlocal, _⟩ := ha rfl
    refine Check.orElse_of_none ?_
    rw [failIf_false (by simp [hspace, hwindow]), failIf_false (by simp [halign]), spaceCheck_scratchpad hspace hzero]
    simp [firstTrap, hlocal]

theorem State.kindFits.waits {p : Perm} (h : s.kindFits k e v p) : kindWait s k v e.esz act = act :=
  kindWait_of_free fun hk => (h.2 hk).2.2.2.2.2

/-- The entry that a channel head names is cached at its quad. -/
structure State.chanHere (s : State) (id : Nat) (e : ChanEnt) : Prop where
  id : e.id = id
  count : e.id < s.myPart.chanCount
  entry : s.chanAt (quadOf s.cur) s.myPid e.id = some e
  valid : e.valid = true

theorem State.chanHere.meets {s0 : State} {id : Nat} {f : ChanEnt → Act} (h : s.chanHere id e) : withChan s0 s id f = f e := by
  obtain ⟨rfl, hcount, hentry, hvalid⟩ := h
  simp [withChan, Nat.not_le.mpr hcount, hentry, hvalid]

/-- A writer's head behind its checks. -/
theorem writerCheck_writer {poisoned : Act} (hw : e.writer = s.relThread s.cur) (hk : s.kindFits k e v permR) :
    writerCheck s e (some k) v poisoned act = if e.state = 2 then poisoned
      else if e.closed ∨ e.state = 1 ∨ s.me.task.closed.contains e.id = true then chanMisuse e.id 4 else act := by
  unfold writerCheck
  rw [if_neg (not_not_intro hw)]
  exact State.kindCheck_fits (push := true) hk

/-- An open channel of the writer's. -/
structure State.mayPush (s : State) (e : ChanEnt) : Prop where
  writer : e.writer = s.relThread s.cur
  state : e.state = 0
  opened : e.closed = false
  held : s.me.task.closed = []
  acquired : s.acquiring = false
  fenced : s.fenceOk .part = true
  room : s.me.cnt.stcS < 255

theorem State.mayPush.writes {poisoned : Act} (h : s.mayPush e) (hk : s.kindFits k e v permR) :
    writerCheck s e (some k) v poisoned act = act := by
  rw [writerCheck_writer h.writer hk, h.state, h.opened, h.held]
  rfl

theorem State.mayPush.marks {poisoned : Act} (h : s.mayPush e) : writerCheck s e none v poisoned act = act := by
  unfold writerCheck
  rw [if_neg (not_not_intro h.writer), h.state, h.opened, h.held]
  rfl

theorem State.mayPush.counts (h : s.mayPush e) : roomFor s 1 act = act := if_neg (Nat.not_le.mpr h.room)

theorem State.slot_touchChan (s : State) (qi : Nat) (e : ChanEnt) (n : Nat) : (s.touchChan qi e).slot n = s.slot n := rfl

theorem State.me_sendPush (s : State) (e : ChanEnt) (data : List Byte) (close counted : Bool) (pc : Word) :
    (s.sendPush s.cur e data close counted pc).me.sr = s.me.sr := by
  cases counted
  · rfl
  · have hslot : (s.sendPush s.cur e data close true pc).slot s.cur = s.me.updCnt fun c => c.inc 1 := by
      rw [State.sendPush, if_pos rfl, State.slot_touchChan, State.addCount, State.slot_updSlot_same]
      rfl
    have hcur : (s.sendPush s.cur e data close true pc).cur = s.cur := rfl
    rw [State.me, hcur, hslot]
    rfl

theorem State.cur_sendPush (s : State) (e : ChanEnt) (data : List Byte) (close counted : Bool) (pc : Word) :
    (s.sendPush s.cur e data close counted pc).cur = s.cur := by
  cases counted <;> rfl

theorem State.noteChan_plain {id tail : Nat} (h : s.me.bst = false) : s.noteChan id tail = s := by
  rw [State.noteChan, h]
  rfl

/-- One element of an open channel with room is sent. -/
theorem State.mayPush.sends {fin : State → Act} (h : s.mayPush e) (hk : s.kindFits k e v permR) (hb : s.me.bst = false) :
    pushAct s s e k b v fin = fin (s.sendPush s.cur e (s.element k e.esz b v) false true s.me.pc) := by
  have hb' : (s.sendPush s.cur e (s.element k e.esz b v) false true s.me.pc).me.bst = false := by
    rw [Slot.bst, State.me_sendPush]
    exact hb
  unfold pushAct chanLogRoom
  rw [h.acquired, h.fenced, hk.waits, hb, h.counts, State.noteChan_plain hb']
  rfl

end

/-! ## Writer heads (R279, R287, R288) -/

theorem chanUse_low {k : ElemKind} {a b : Reg} {d : Option Reg} (ha : a.toNat < 32) (hb : b.toNat < 32) :
    ∀ r ∈ (chanUse k a b d).rd, r.toNat < 32 := by
  intro r hr
  have : r = a ∨ r = b := by cases k <;> cases d <;> simp [chanUse] at hr <;> tauto
  obtain rfl | rfl := this <;> assumption

section
variable {s : State} {e : ChanEnt} {k : ElemKind} {d a b : Reg} {imm : BitVec 10} (hopt : s.me.optimistic = false) (hbst : s.me.bst = false)
  (hd : d.toNat < 32) (ha : a.toNat < 32) (hb : b.toNat < 32) (he : s.chanHere (chanId (s.operand a) imm) e)
include hopt ha he

theorem execChclose_sends (h : s.mayPush e) (hmay : mayIssue { rd := [a] } s = true) :
    execChclose a imm s = .next (s.sendPush s.cur e [] true true s.me.pc).passed := by
  refine (runHead_low hmay (by simpa using ha)).trans (congrArg Host.Outcome.next ?_)
  rw [he.meets, h.marks, if_neg (by simp [hopt]), if_neg (by simp [h.acquired]), if_neg (by simp [h.fenced]), h.counts]
  rfl

include hb

theorem execChpush_sends (hbst : s.me.bst = false) (h : s.mayPush e) (hk : s.kindFits k e (s.operand b) permR) (hroom : e.writerRoom = true)
    (hmay : mayIssue (chanUse k a b none) s = true) : execChpush k a b imm s =
      .next (s.sendPush s.cur e (s.element k e.esz b (s.operand b)) false true s.me.pc).passed := by
  refine (runHead_low hmay (chanUse_low ha hb)).trans (congrArg Host.Outcome.next ?_)
  rw [he.meets, h.writes hk, if_neg (by simp [hopt]), if_neg (by simp [h.acquired]), if_neg (by simp [h.fenced]), if_neg (by simp [hroom]),
    h.sends hk hbst]
  rfl

/-- CHOFFER behind the checks of its role and kind. -/
theorem execChoffer_eq (hmay : mayIssue { chanUse k a b none with wr := [d] } s = true) : execChoffer k d a b imm s =
    .next ((writerCheck s e (some k) (s.operand b) (put s d 3 6)
      (if !e.writerRoom then put s d 1 6 else pushAct s s e k b (s.operand b) fun u => put u d 0 6)).run s) := by
  refine (runHead_low hmay (chanUse_low ha hb)).trans (congrArg Host.Outcome.next ?_)
  rw [if_neg (by simp [hopt]), he.meets]

include hd

theorem execChoffer_poisoned (hw : e.writer = s.relThread s.cur) (hk : s.kindFits k e (s.operand b) permR) (hs : e.state = 2)
    (hmay : mayIssue { chanUse k a b none with wr := [d] } s = true) : execChoffer k d a b imm s = .next (s.wrote [] d (word 3) 6) := by
  rw [execChoffer_eq hopt ha hb he hmay, writerCheck_writer hw hk, if_pos hs, put_low hd]
  rfl

theorem execChoffer_full (h : s.mayPush e) (hk : s.kindFits k e (s.operand b) permR) (hroom : e.writerRoom = false)
    (hmay : mayIssue { chanUse k a b none with wr := [d] } s = true) : execChoffer k d a b imm s = .next (s.wrote [] d (word 1) 6) := by
  rw [execChoffer_eq hopt ha hb he hmay, h.writes hk, hroom, if_pos (by rfl), put_low hd]
  rfl

theorem execChoffer_sends (hbst : s.me.bst = false) (h : s.mayPush e) (hk : s.kindFits k e (s.operand b) permR) (hroom : e.writerRoom = true)
    (hmay : mayIssue { chanUse k a b none with wr := [d] } s = true) : execChoffer k d a b imm s =
      .next ((s.sendPush s.cur e (s.element k e.esz b (s.operand b)) false true s.me.pc).writeReg s.cur d 0 6).passed := by
  rw [execChoffer_eq hopt ha hb he hmay, h.writes hk, hroom, if_neg (by decide), h.sends hk hbst, put_low hd, State.cur_sendPush]
  rfl

end

/-! ## Reader heads (R289, R290) -/

theorem Quad.holder_noted (q : Quad) (next : Fill → List Nat) (qi off : Nat) :
    ({ q with fill := q.fill.map fun f => { f with next := next f } } : Quad).holder qi off = q.holder qi off := by
  cases h : q.fill <;> simp [Quad.holder, h]

/-- A state whose quads keep their contexts and the places of their blocks has its local keys. -/
theorem State.localKey_congr {s t : State} (hctx : ∀ n, (t.quad n).ctxs = (s.quad n).ctxs)
    (hhold : ∀ n o, (t.quad n).holder n o = (s.quad n).holder n o) (tk off : Nat) : t.localKey tk off = s.localKey tk off := by
  simp only [State.localKey, State.ctx, hctx, hhold]

theorem State.localKey_noteBlock (s : State) (qi k tk off : Nat) : (s.noteBlock qi k).localKey tk off = s.localKey tk off := by
  unfold State.noteBlock
  split
  · rfl
  · refine State.localKey_congr (fun n => ?_) (fun n o => ?_) tk off
    · rw [State.quad_updQuad]
      split
      · next h => rw [h]
      · rfl
    · rw [State.quad_updQuad]
      split
      · next h =>
        subst h
        exact Quad.holder_noted (s.quad n) _ n o
      · rfl

theorem State.localKey_touchChan (s : State) (qi : Nat) (e : ChanEnt) (tk off : Nat) : (s.touchChan qi e).localKey tk off = s.localKey tk off := by
  refine State.localKey_congr (fun n => ?_) (fun n o => ?_) tk off
  · rw [State.touchChan, State.quad_updQuad]
    split
    · next h => rw [h]
    · rfl
  · rw [State.touchChan, State.quad_updQuad]
    split
    · next h => rw [h]; rfl
    · rfl

section
variable {s : State} {e : ChanEnt} {k : ElemKind} {d a b : Reg} {imm : BitVec 10} {r : Nat} {wait remove : Bool}

/-- A reader's head stands behind the checks of its role and kind. -/
structure State.mayPop (s : State) (k : ElemKind) (d a b : Reg) (imm : BitVec 10) (e : ChanEnt) : Prop where
  notOpt : s.me.optimistic = false
  lowA : a.toNat < 32
  lowB : b.toNat < 32
  lowD : d.toNat < 32
  here : s.chanHere (chanId (s.operand a) imm) e
  reader : e.reader = s.relThread s.cur
  fits : s.kindFits k e (s.operand b) permW
  acquired : s.acquiring = false
  issues : mayIssue (chanUse k a b (some d)) s = true

/-- What a reader's head does behind its checks. -/
def State.readAct (s : State) (wait remove : Bool) (k : ElemKind) (d b : Reg) (v : Word) (e : ChanEnt) : Act :=
  if e.state = 2 then put s d 3 6
  else if e.head = e.tail then (if e.state = 1 then put s d 2 6 else if wait then .block (.chEmpty e.id) else put s d 1 6)
  else if s.elemWaits (quadOf s.cur) e e.head && !decide (e.head < e.sph ∧ e.ring ≠ none) then .block (.chEmpty e.id)
  else match s.headElement (quadOf s.cur) e with
    | .error u => .keep (u.blockMe (.chEmpty e.id))
    | .ok (bs, spilled) =>
      let t := (s.headRead (quadOf s.cur) e spilled).touchChan (quadOf s.cur) (if remove then e.popped s.me.bst else e)
      kindWait s k v e.esz (.next (if spilled then t.awaitElement (quadOf s.cur) e k d b v bs else t.deliverElement k d b v bs))

theorem State.mayPop.acts (h : s.mayPop k d a b imm e) : popHead wait remove k d a b imm s =
    .next ((s.readAct wait remove k d b (s.operand b) e).run s) := by
  refine (runHead_low h.issues (chanUse_low h.lowA h.lowB)).trans (congrArg (fun x => Host.Outcome.next (Act.run s x)) ?_)
  rw [if_neg (by simp [h.notOpt]), h.here.meets, if_neg (not_not_intro h.reader), State.kindCheck_fits (push := false) h.fits,
    if_neg (by simp [h.acquired]), ← h.here.id, State.readAct]
  cases s.headElement (quadOf s.cur) e <;> rfl

theorem State.mayPop.poisoned (h : s.mayPop k d a b imm e) (hs : e.state = 2) :
    popHead wait remove k d a b imm s = .next (s.wrote [] d (word 3) 6) := by
  rw [h.acts, State.readAct, if_pos hs, put_low h.lowD]
  rfl

theorem State.mayPop.closed (h : s.mayPop k d a b imm e) (hs : e.state = 1) (he : e.head = e.tail) :
    popHead wait remove k d a b imm s = .next (s.wrote [] d (word 2) 6) := by
  rw [h.acts, State.readAct, if_neg (by omega), if_pos he, if_pos hs, put_low h.lowD]
  rfl

theorem State.mayPop.empty (h : s.mayPop k d a b imm e) (hs : e.state = 0) (he : e.head = e.tail) :
    popHead wait remove k d a b imm s = .next (if wait then s.blockMe (.chEmpty e.id) else s.wrote [] d (word 1) 6) := by
  rw [h.acts, State.readAct, if_neg (by omega), if_pos he, if_neg (by omega), put_low h.lowD]
  cases wait <;> rfl

/-- The element at HEAD of a ring. -/
def State.ringElement (s : State) (e : ChanEnt) (r : Nat) : List Byte :=
  s.rdBytes (s.ringKey (quadOf s.cur) e r e.head) e.esz

theorem State.mayPop.takes (h : s.mayPop k d a b imm e) (hs : e.state ≠ 2) (hlt : e.head < e.tail) (hsph : e.head < e.sph)
    (hr : e.ring = some r) : popHead wait remove k d a b imm s =
      .next (((s.noteBlock (quadOf s.cur) (s.ringKey (quadOf s.cur) e r e.head)).touchChan (quadOf s.cur)
        (if remove then e.popped s.me.bst else e)).deliverElement k d b (s.operand b) (s.ringElement e r)).passed := by
  have helem : s.headElement (quadOf s.cur) e = .ok (s.ringElement e r, false) := by
    simp [State.headElement, hr, hsph, State.ringElement]
  rw [h.acts, State.readAct, if_neg hs, if_neg (by omega), if_neg (by simp [hr, hsph]), helem]
  simp only [h.fits.waits, State.headRead, hr, Bool.false_eq_true, if_false, Act.run_next]

theorem State.writeReg_outside (s : State) (tk : Nat) (r : Reg) (v : Word) (lat : Nat) :
    (s.writeReg tk r v lat).cur = s.cur ∧ (s.writeReg tk r v lat).quads = s.quads := by
  unfold State.writeReg State.setT State.pendWrite
  split
  · exact ⟨rfl, rfl⟩
  · split
    · exact ⟨rfl, rfl⟩
    · dsimp only
      split <;> exact ⟨rfl, rfl⟩

theorem State.localKey_writeReg (s : State) (tk n off : Nat) (r : Reg) (v : Word) (lat : Nat) :
    (s.writeReg tk r v lat).localKey n off = s.localKey n off := by
  have hq (m : Nat) : (s.writeReg tk r v lat).quad m = s.quad m :=
    congrArg (fun q => FMap.get ({} : Quad) q m) (s.writeReg_outside tk r v lat).2
  exact State.localKey_congr (fun m => by rw [hq]) (fun m o => by rw [hq]) n off

theorem State.deliverElement_memory (s : State) (d b : Reg) (v : Word) (bs : List Byte) :
    s.deliverElement .a d b v bs = (s.writeReg s.cur d 0 6).wrBytes (s.localKey s.cur (offset v)) bs := by
  show (s.writeReg s.cur d 0 6).wrBytes ((s.writeReg s.cur d 0 6).localKey (s.writeReg s.cur d 0 6).cur (offset v)) bs = _
  rw [(s.writeReg_outside s.cur d 0 6).1, State.localKey_writeReg]

/-- A slot's quad noted and touched is the slot's as before, at every local place. -/
theorem State.noted_keeps (s : State) (qi key tk off : Nat) (x : ChanEnt) : ((s.noteBlock qi key).touchChan qi x).cur = s.cur
    ∧ ((s.noteBlock qi key).touchChan qi x).me = s.me ∧ ((s.noteBlock qi key).touchChan qi x).localKey tk off = s.localKey tk off := by
  refine ⟨?_, ?_, by rw [State.localKey_touchChan, State.localKey_noteBlock]⟩
  · unfold State.noteBlock
    split <;> rfl
  · unfold State.noteBlock
    split <;> rfl

theorem execChlen_reader (ha : a.toNat < 32) (hd : d.toNat < 32) (he : s.chanHere (chanId (s.operand a) imm) e)
    (hr : e.reader = s.relThread s.cur) (hmay : mayIssue { rd := [a], wr := [d] } s = true) : execChlen d a imm s =
      .next ((s.touchChan (quadOf s.cur) e).writeReg s.cur d (word (e.tail - e.head)) 6).passed := by
  refine (runHead_low hmay (by simpa using ha)).trans (congrArg Host.Outcome.next ?_)
  rw [he.meets, if_pos hr, put_low hd]
  rfl

/-! ## CHINV (R292) -/

theorem execChinv_answered (ha : a.toNat < 32) (h : s.me.answered = true) : execChinv a imm s = .next s.passed := by
  rw [execChinv, if_pos h, State.popPorts_low s (by simpa using ha.trans (by decide : 32 < 56))]
  rfl

section
variable (ha : a.toNat < 32) (hmay : mayIssue { rd := [a] } s = true) (hans : s.me.answered = false)
  (he : s.chanHere (chanId (s.operand a) imm) e)
include ha hmay hans he

theorem execChinv_waits (hw : s.unacked (quadOf s.cur) s.myPid e.id = true ∨ s.chanWaits (quadOf s.cur) e = true) :
    execChinv a imm s = .next (s.blockMe (.chAcks e.id)) := by
  rw [execChinv, if_neg (by simp [hans])]
  refine (runHead_low hmay (by simpa using ha)).trans (congrArg Host.Outcome.next ?_)
  dsimp only
  rw [← he.id, he.entry]
  dsimp only
  rw [if_pos (by obtain hw | hw := hw <;> simp [hw])]
  rfl

theorem execChinv_evicts {t : State} (hu : s.unacked (quadOf s.cur) s.myPid e.id = false) (hw : s.chanWaits (quadOf s.cur) e = false)
    (ht : s.evictChan (quadOf s.cur) e = .ok t) : execChinv a imm s = .next t.passed := by
  rw [execChinv, if_neg (by simp [hans])]
  refine (runHead_low hmay (by simpa using ha)).trans (congrArg Host.Outcome.next ?_)
  dsimp only
  rw [← he.id, he.entry]
  dsimp only
  rw [if_neg (by simp [hu, hw]), ht]
  rfl

end

end

end Sys2Proof.Machine

open Sys2Proof Sys2Proof.Machine

/-- Settles O32: the writer's heads, the reader's, CHLEN and CHINV, each behind its checks. -/
theorem channelHeads : Obligations.ChannelHeads := by
  intro s d a b imm e r k hopt hbst hd ha hb hid hcount hat hvalid put y at_ kindOk data elem noted taken push pop
  have he : s.chanHere (chanId (s.operand a) imm) e := ⟨hid, hcount, hat, hvalid⟩
  have hpush : push = chanUse k a b none := by cases k <;> rfl
  have hpop : pop = chanUse k a b (some d) := by cases k <;> rfl
  have hdata : data = s.element k e.esz b y := by cases k <;> rfl
  rw [hpush, hpop]
  refine ⟨fun hw hk => ⟨fun hs hmay => execChoffer_poisoned hopt hd ha hb he hw hk hs hmay, fun hs hc hh hacq hf hroom => ?_⟩,
    fun hr hk hacq hmay => ?_, fun hr hmay => execChlen_reader ha hd he hr hmay,
    fun hmay hans => ⟨fun hu hw => ⟨fun hh => execChinv_evicts ha hmay hans he hu hw (State.evictChan_plain hh),
      fun t ht => execChinv_evicts ha hmay hans he hu hw ht⟩, fun hw => execChinv_waits ha hmay hans he hw⟩,
    fun hans => execChinv_answered ha hans⟩
  · have h : s.mayPush e := ⟨hw, hs, hc, hh, hacq, hf, hroom⟩
    intro gone
    have hgone : gone = s.sendPush s.cur e (s.element k e.esz b y) false true s.me.pc := by rw [← hdata]
    rw [hgone]
    exact ⟨fun hroom hmay => execChpush_sends hopt ha hb he hbst h hk hroom hmay,
      fun hmay => ⟨fun hroom => execChoffer_sends hopt hd ha hb he hbst h hk hroom hmay,
        fun hroom => execChoffer_full hopt hd ha hb he h hk hroom hmay⟩, fun hmay => execChclose_sends hopt ha he h hmay⟩
  · have h : s.mayPop k d a b imm e := ⟨hopt, ha, hb, hd, he, hr, hk, hacq, hmay⟩
    refine ⟨fun hs => ⟨h.poisoned hs, h.poisoned hs, h.poisoned hs⟩, fun hs ht => ⟨h.closed hs ht, h.closed hs ht, h.closed hs ht⟩,
      fun hs ht => ⟨h.empty (wait := false) hs ht, h.empty (wait := false) hs ht, h.empty (wait := true) hs ht⟩,
      fun hs hlt hsph hring => ?_⟩
    have hkey (x : ChanEnt) : ((noted.touchChan (quadOf s.cur) x).deliverElement k d b y elem).passed =
        taken (noted.touchChan (quadOf s.cur) x) := by
      obtain ⟨hcur, hme, hloc⟩ := s.noted_keeps (quadOf s.cur) (s.ringKey (quadOf s.cur) e r e.head) s.cur (offset y) x
      change (State.deliverElement (State.touchChan (s.noteBlock _ _) _ x) k d b y elem).passed = taken (State.touchChan (s.noteBlock _ _) _ x)
      revert hcur hme hloc
      generalize (s.noteBlock (quadOf s.cur) (s.ringKey (quadOf s.cur) e r e.head)).touchChan (quadOf s.cur) x = t
      intro hcur hme hloc
      cases k with
      | s => simp only [taken, ← hcur]; rfl
      | v => simp only [taken, ← hcur, ← hme]; rfl
      | a =>
        rw [State.deliverElement_memory, hcur, hloc]
    have hpopped : (e.popped s.me.bst) = e.popped false := by rw [hbst]
    rw [← hkey, ← hkey, ← hpopped]
    exact ⟨h.takes (wait := true) (remove := true) hs hlt hsph hring, h.takes (wait := false) (remove := true) hs hlt hsph hring, h.takes (wait := false) (remove := false) hs hlt hsph hring⟩
end

section
/-! SUPPORT. The engines of the yoke (R160, R162, R172, R174, R178, R179, R183 to R185, R188): what a read leaves besides its bytes, and an
operation that is alone in its core's order. -/

namespace Sys2Proof.Machine

/-! ## What the reading of an engine leaves -/

/-- A state differs from another in translations, drawn values and the order of its substitutes' fills alone. -/
def State.fillOnly (s t : State) : Prop :=
  (∃ tl fr qs, t = { s with tlb := tl, free := fr, quads := qs }) ∧ ∀ n, ∃ fl, t.quad n = { s.quad n with fill := fl }

theorem State.fillOnly_of_quads {s t : State} (h : ∃ tl fr, t = { s with tlb := tl, free := fr }) : s.fillOnly t := by
  obtain ⟨tl, fr, rfl⟩ := h
  exact ⟨⟨tl, fr, s.quads, rfl⟩, fun n => ⟨(s.quad n).fill, rfl⟩⟩

theorem State.fillOnly_rfl (s : State) : s.fillOnly s := State.fillOnly_of_quads ⟨_, _, rfl⟩

theorem State.fillOnly.trans {s t u : State} (h : s.fillOnly t) (h' : t.fillOnly u) : s.fillOnly u := by
  obtain ⟨⟨tl, fr, qs, rfl⟩, hq⟩ := h
  obtain ⟨⟨tl', fr', qs', rfl⟩, hq'⟩ := h'
  refine ⟨⟨tl', fr', qs', rfl⟩, fun n => ?_⟩
  obtain ⟨fl, hfl⟩ := hq n
  obtain ⟨fl', hfl'⟩ := hq' n
  exact ⟨fl', hfl'.trans (by rw [hfl])⟩

theorem State.fillOnly_foldl {α : Type} {f : State → α → State} (hf : ∀ (t : State) (a : α), t.fillOnly (f t a)) (s : State) (xs : List α) :
    s.fillOnly (xs.foldl f s) :=
  List.foldlRecOn (motive := fun t => s.fillOnly t) _ _ s.fillOnly_rfl fun t h a _ => h.trans (hf t a)

theorem State.fillOnly_noteBlock (s : State) (qi k : Nat) : s.fillOnly (s.noteBlock qi k) := by
  unfold State.noteBlock
  split
  · exact s.fillOnly_rfl
  · refine ⟨⟨s.tlb, s.free, _, rfl⟩, fun n => ?_⟩
    rw [State.quad_updQuad]
    split
    · next h => exact ⟨_, by rw [h]⟩
    · exact ⟨_, rfl⟩

theorem State.fillOnly_tlbFill (s : State) (ck pid va : Nat) (need : Perm) : s.fillOnly (s.tlbFill ck pid va need) := by
  unfold State.tlbFill
  dsimp only
  split
  · exact s.fillOnly_rfl
  · split
    · exact State.fillOnly_of_quads ⟨_, _, rfl⟩
    · split
      · exact State.fillOnly_of_quads ⟨_, _, rfl⟩
      · split
        · exact State.fillOnly_of_quads ⟨_, _, rfl⟩
        · exact s.fillOnly_rfl

theorem State.fillOnly_engineFill (s : State) (tk pid : Nat) (p : Perm) (a : Word) (n : Nat) :
    s.fillOnly (s.engineFill tk pid p a n) := by
  unfold State.engineFill
  refine State.fillOnly_foldl (fun t i => ?_) s _
  dsimp only
  split
  · exact t.fillOnly_noteBlock _ _
  · split
    · exact t.fillOnly_noteBlock _ _
    · exact t.fillOnly_rfl
  · exact t.fillOnly_tlbFill _ _ _ _
  · split
    · exact t.fillOnly_rfl
    · exact State.fillOnly_of_quads ⟨_, _, rfl⟩
  · exact t.fillOnly_rfl

section
variable {s t : State} (h : s.fillOnly t)
include h

theorem State.fillOnly.core (n : Nat) : t.core n = s.core n := by obtain ⟨⟨tl, fr, qs, rfl⟩, _⟩ := h; rfl
theorem State.fillOnly.slot (n : Nat) : t.slot n = s.slot n := by obtain ⟨⟨tl, fr, qs, rfl⟩, _⟩ := h; rfl
theorem State.fillOnly.ltabs : t.ltabs = s.ltabs := by obtain ⟨⟨tl, fr, qs, rfl⟩, _⟩ := h; rfl
theorem State.fillOnly.gangs (n : Nat) : (t.quad n).gangs = (s.quad n).gangs := by
  obtain ⟨fl, hfl⟩ := h.2 n
  rw [hfl]

end

/-! ## An operation alone in its core's order -/

theorem readyOps_single (o : SliceOp) : readyOps [] [o] = [o] := rfl

theorem Core.readyOps_single {c : Core} {o : SliceOp} (h : c.slice.ops = [o]) : c.readyOps = [o] := by
  rw [Core.readyOps, h, Sys2Proof.Machine.readyOps_single]

/-- Where nothing stands in the order, nothing advances. -/
theorem State.advanceSlice_nil {s : State} {ck : Nat} (h : (s.core ck).slice.ops = []) : s.advanceSlice ck = s := by
  rw [State.advanceSlice, h]
  rfl

theorem State.ops_updSlice (s : State) (ck : Nat) (f : Slice → Slice) : ((s.updSlice ck f).core ck).slice = f (s.core ck).slice :=
  congrArg Core.slice (State.core_updCore_same _ _ _)

theorem agentOf_slot {ck slot : Nat} (h : slot < 8) : agentOf ck slot = ck * 8 + slot := by rw [agentOf, Nat.mod_eq_of_lt h]

theorem State.endTile_slot {s : State} {ck slot : Nat} (h : slot < 8) : s.endTile ck slot = s.endCount (ck * 8 + slot) 6 := if_pos h

theorem State.tlc_endCount (s : State) (tk : Nat) : ((s.endCount tk 6).slot tk).cnt.tlc = (s.slot tk).cnt.tlc - 1 := by
  rw [State.endCount, State.slot_updSlot_same]
  rfl

/-- A tile operation that was alone has left the order, and its count has ended. -/
structure State.tileEnded (s t : State) (ck slot : Nat) : Prop where
  ops : (t.core ck).slice.ops = []
  tlc : (t.slot (ck * 8 + slot)).cnt.tlc = (s.slot (ck * 8 + slot)).cnt.tlc - 1
  mem : t.mem = s.mem

/-- The last operation of an order is dropped by itself. -/
theorem State.tileEnded_dropOp {s : State} {ck slot : Nat} {o : SliceOp} (hs : slot < 8) (h : (s.core ck).slice.ops = [o]) :
    s.tileEnded (((s.dropOp ck o).endTile ck slot).advanceSlice ck) ck slot
      ∧ ((s.dropOp ck o).endTile ck slot).advanceSlice ck = (s.dropOp ck o).endTile ck slot := by
  have hops : (((s.dropOp ck o).endTile ck slot).core ck).slice.ops = [] := by
    rw [State.endTile_slot hs, State.endCount, State.core_updSlot, State.dropOp, State.ops_updSlice, h]
    simp
  have hadv := State.advanceSlice_nil hops
  refine ⟨⟨?_, ?_, ?_⟩, hadv⟩
  · rw [hadv]
    exact hops
  · rw [hadv, State.endTile_slot hs, State.tlc_endCount]
    rfl
  · rw [hadv, State.endTile_slot hs]
    rfl

/-! ## The events -/

section
variable {s : State} {ck qi slot id v : Nat} {a b val : Word} {o : LtabOp} {scale : Option Scale} {g : Gang} {p : Nat × GangPart}
  {fmt : OFmt} {r : Rnd} {first count stride row col why : Nat} {fin : Bool}

/-- A table of n entries, as an image gives it. -/
def ltabOf (v n : Nat) : FMap (BitVec 32) := (List.range n).foldl (fun m i => FMap.set 0 m i (BitVec.ofNat 32 (bitsAt v (32 * i) 32))) []

theorem get_ltabOf (v : Nat) {n i : Nat} (h : i < n) : FMap.get 0 (ltabOf v n) i = BitVec.ofNat 32 (bitsAt v (32 * i) 32) := by
  induction n with
  | zero => cases h
  | succ n ih =>
    rw [ltabOf, List.range_succ, List.foldl_append]
    by_cases hi : i = n
    · subst hi
      exact FMap.get_set_same _ _ _ _
    · exact (FMap.get_set_ne _ _ _ hi).trans (ih (by omega))

theorem execLtabDone_reads (ho : s.ltabs = [o]) (hc : (s.quad (quadOf o.thr)).contained = false) (hv : s.yokeRead o.thr o.addr 32 = .ok v) :
    ∃ t, execLtabDone o.id s = .next t ∧ t.ltabs = []
      ∧ (∀ i < 256, FMap.get 0 (t.quad (quadOf o.thr)).ltab i = BitVec.ofNat 32 (bitsAt v (32 * i) 32))
      ∧ (t.slot o.thr).cnt.tlc = (s.slot o.thr).cnt.tlc - 1 := by
  have hf := State.fillOnly_engineFill { s with ltabs := [] } o.thr (s.pidOf o.thr) permR o.addr 1024
  refine ⟨((({ s with ltabs := [] } : State).engineFill o.thr (s.pidOf o.thr) permR o.addr 1024).updQuad (quadOf o.thr)
    fun q => { q with ltab := ltabOf v 256 }).endCount o.thr 6, event_some ?_, hf.ltabs, fun i hi => ?_, ?_⟩
  · rw [ho, List.find?_cons_of_pos (by simp), Option.bind_eq_bind, Option.bind_some, if_neg (by simp [hc]), hv,
      List.filter_cons_of_neg (by simp), List.filter_nil]
    rfl
  · rw [State.endCount, State.quad_updSlot, State.quad_updQuad_same]
    generalize hn : 256 = n at hi ⊢
    exact get_ltabOf v hi
  · rw [State.tlc_endCount]
    exact congrArg (fun x => x.cnt.tlc - 1) (hf.slot o.thr)

theorem execWloadDone_reads (hck : coreOk ck = true) (hs : slot < 8) (hc : (s.quad (quadOfCore ck)).contained = false)
    (ho : (s.core ck).slice.ops = [.wload id slot a b scale])
    (hv : s.yokeRead (ck * 8 + slot) a (imageBytes (window a) / 32) = .ok v) :
    ∃ t, execWloadDone ck s = .next t ∧ (t.core ck).slice.shadow = planeOf (window a) (s.quad (quadOfCore ck)).ltab scale v
      ∧ (t.core ck).slice.active = (s.core ck).slice.active ∧ (t.core ck).slice.ops = []
      ∧ (t.slot (ck * 8 + slot)).cnt.tlc = (s.slot (ck * 8 + slot)).cnt.tlc - 1 := by
  have hf := s.fillOnly_engineFill (ck * 8 + slot) (s.pidOf (ck * 8 + slot)) permR a (imageBytes (window a))
  let u := s.engineFill (ck * 8 + slot) (s.pidOf (ck * 8 + slot)) permR a (imageBytes (window a))
  let t := (((u.dropOpId ck id).updSlice ck fun l =>
    { l with shadow := planeOf (window a) (s.quad (quadOfCore ck)).ltab scale v }).endTile ck slot)
  have hslice : (t.core ck).slice =
      { (u.core ck).slice with
        ops := (u.core ck).slice.ops.filter fun o => decide (o.id ≠ id), shadow := planeOf (window a) (s.quad (quadOfCore ck)).ltab scale v } := by
    show ((State.endTile _ ck slot).core ck).slice = _
    rw [State.endTile_slot hs, State.endCount, State.core_updSlot, State.ops_updSlice, State.dropOpId, State.ops_updSlice]
  have hcore : u.core ck = s.core ck := hf.core ck
  have hops : (t.core ck).slice.ops = [] := by
    rw [hslice, hcore, ho]
    simp [SliceOp.id]
  refine ⟨t, unitEvent_some hck ?_, ?_, ?_, hops, ?_⟩
  · rw [Core.readyOps_single ho, List.find?_cons_of_pos rfl, Option.bind_eq_bind, Option.bind_some]
    simp only [hc, Bool.false_eq_true, if_false, agentOf_slot hs, hv]
    exact congrArg some (State.advanceSlice_nil hops)
  · rw [hslice]
  · rw [hslice, hcore]
  · show ((State.endTile _ ck slot).slot _).cnt.tlc = _
    rw [State.endTile_slot hs, State.tlc_endCount]
    exact congrArg (fun x => x.cnt.tlc - 1) (hf.slot _)

theorem execC28StreamCommand_enters (hck : coreOk ck = true) (hs : slot < 8) (hn : (s.core ck).commands < 8)
    (ht : (s.slot (ck * 8 + slot)).cnt.tlc < 15) : ∃ t, execC28StreamCommand ck slot val s = .next t
      ∧ (t.core ck).slice.ops = (s.core ck).slice.ops ++ [.gang s.ids slot false val (s.slot (ck * 8 + slot)).pc]
      ∧ (t.slot (ck * 8 + slot)).cnt.tlc = (s.slot (ck * 8 + slot)).cnt.tlc + 1 := by
  refine ⟨_, unitEvent_some (by simp [hck, hs]) (by
    rw [State.pushPort]
    dsimp only
    rw [if_neg (by decide), if_pos rfl, if_pos ⟨hn, ht⟩]), ?_, ?_⟩
  · rw [State.core_updSlot, State.core_setCore_same]
  · rw [State.slot_updSlot_same]
    rfl

/-- A row of a gang with one part, once it is read. -/
def State.gangRead (s : State) (g : Gang) (p : Nat × GangPart) (v : Nat) : State :=
  (s.engineFill (agentOf p.1 p.2.slot) (s.pidOf (agentOf p.1 p.2.slot)) permR (sectorAddr g.asrc g.stride g.row 0)
    (rowBytes (window g.asrc))).updSlice p.1 fun l => l.accumulate p.2 (window g.asrc) g.kd g.row v

theorem execGangRow_reads (hqi : quadOk qi = true) (hg : (s.quad qi).gangs = [g]) (hp : g.active qi = [p])
    (hc : (s.quad qi).contained = false) (hf : g.failed = none) (hr : s.gangReady qi g = true)
    (hv : s.rowRead (agentOf p.1 p.2.slot) (sectorAddr g.asrc g.stride g.row 0) (sectorsRead g.parts (window g.asrc) g.row) = .ok v) :
    execGangRow qi s = .next (if g.row + 1 < g.rows then
        (s.gangRead g p v).updQuad qi fun q => { q with gangs := [{ g with row := g.row + 1 }] }
      else (s.gangRead g p v).gangEnd qi g) := by
  refine unitEvent_some hqi ?_
  rw [hg, List.head?_cons, Option.bind_eq_bind, Option.bind_some, hp, List.head?_cons, Option.bind_eq_bind, Option.bind_some,
    if_neg (by simp [hc, hf, hr])]
  dsimp only
  rw [hv]
  have hgangs : ((s.gangRead g p v).quad qi).gangs.tail = [] := by
    have h := (s.fillOnly_engineFill (agentOf p.1 p.2.slot) (s.pidOf (agentOf p.1 p.2.slot)) permR (sectorAddr g.asrc g.stride g.row 0)
      (rowBytes (window g.asrc))).gangs qi
    exact (congrArg List.tail (h.trans hg)).trans rfl
  have hupd : (s.gangRead g p v).updQuad qi (fun q => { q with gangs := { g with row := g.row + 1 } :: q.gangs.tail }) =
      (s.gangRead g p v).updQuad qi fun q => { q with gangs := [{ g with row := g.row + 1 }] } := by
    simp only [State.updQuad, hgangs]
  by_cases hlt : g.row + 1 < g.rows
  · rw [if_pos hlt]
    exact (if_pos hlt).trans (congrArg some hupd)
  · rw [if_neg hlt]
    exact if_neg hlt

/-! ## Draining (R184, R185) -/

/-- The row of a drain to the scratchpad, written. -/
def State.rowDrained (s : State) (ck slot : Nat) (fmt : OFmt) (r : Rnd) (a : Word) (first stride row : Nat) : State :=
  (s.noteBlock (quadOfCore ck) (s.localKey (ck * 8 + slot) (offset (a + word (row * stride))))).wrBytes
    (s.localKey (ck * 8 + slot) (offset (a + word (row * stride))))
    ((List.range 32).flatMap fun i => leBytes (outBytes fmt) (drainElem fmt r ((s.core ck).slice.accAt (first + row) i)))

theorem State.stepDrain_last (t : State) (ck slot : Nat) (o next : SliceOp) :
    t.stepDrain ck o next true slot = ((t.dropOp ck o).endTile ck slot).advanceSlice ck := rfl

/-- A drain that is alone in its order goes on as another. -/
theorem State.stepDrain_next {t : State} {o next : SliceOp} (h : (t.core ck).slice.ops = [o]) :
    t.stepDrain ck o next false slot = t.updSlice ck fun l => { l with ops := [next] } := by
  rw [State.stepDrain, if_neg Bool.false_ne_true]
  exact State.updSlice_of_eq (by simp [h])

theorem execMdrainRowWrite_writes (hck : coreOk ck = true) (hs : slot < 8) (hc : (s.quad (quadOfCore ck)).contained = false)
    (ho : (s.core ck).slice.ops = [.mdrain id slot false fmt r a first count stride row col])
    (hw : s.ownedBy id (s.localKey (ck * 8 + slot) (offset (a + word (row * stride)))) (32 * outBytes fmt) = false)
    (hb : s.behind (ck * 8 + slot) id (s.localKey (ck * 8 + slot) (offset (a + word (row * stride)))) (32 * outBytes fmt) = false) :
    execMdrainRowWrite ck s = .next ((s.rowDrained ck slot fmt r a first stride row).stepDrain ck
      (.mdrain id slot false fmt r a first count stride row col) (.mdrain id slot false fmt r a first count stride (row + 1) col)
      (decide (count ≤ row + 1)) slot) := by
  refine unitEvent_some hck ?_
  rw [Core.drain, Core.readyOps_single ho, List.find?_cons_of_pos rfl, Option.bind_eq_bind, Option.bind_some]
  simp only [hc, agentOf_slot hs, hw, hb]
  rfl

theorem State.core_rowDrained (s : State) (ck slot : Nat) (fmt : OFmt) (r : Rnd) (a : Word) (first stride row : Nat) :
    (s.rowDrained ck slot fmt r a first stride row).core ck = s.core ck := by
  rw [State.rowDrained, State.core_wrBytes, (s.fillOnly_noteBlock _ _).core]

theorem State.slot_rowDrained (s : State) (ck slot : Nat) (fmt : OFmt) (r : Rnd) (a : Word) (first stride row n : Nat) :
    (s.rowDrained ck slot fmt r a first stride row).slot n = s.slot n := by
  rw [State.rowDrained, State.slot_wrBytes, (s.fillOnly_noteBlock _ _).slot]

/-- The handle that a drain to the port pushes next. -/
def State.nextHandle (s : State) (ck : Nat) (fmt : OFmt) (r : Rnd) (first count row col : Nat) : Word :=
  drainHandle fmt (first + row) col (drainElem fmt r ((s.core ck).slice.accAt (first + row) col)) (decide (count ≤ row + 1 ∧ col = 31))

/-- The core with a handle more at the read side of c28. -/
def State.handleIn (s : State) (ck : Nat) (h : Word) : State := s.updCore ck fun c => { c with c28r := c.c28r ++ [h] }

theorem execMdrainHandlePush_pushes (hck : coreOk ck = true) (hc : (s.quad (quadOfCore ck)).contained = false)
    (ho : (s.core ck).slice.ops = [.mdrain id slot true fmt r a first count stride row col]) (hn : (s.core ck).c28r.length < 8) :
    execMdrainHandlePush ck s = .next ((s.handleIn ck (s.nextHandle ck fmt r first count row col)).stepDrain ck
      (.mdrain id slot true fmt r a first count stride row col)
      (.mdrain id slot true fmt r a first count stride (if col = 31 then row + 1 else row) ((col + 1) % 32))
      (decide (count ≤ row + 1 ∧ col = 31)) slot) := by
  refine unitEvent_some hck ?_
  rw [Core.drain, Core.readyOps_single ho, List.find?_cons_of_pos rfl, Option.bind_eq_bind, Option.bind_some]
  simp only [hc, Nat.not_le.mpr hn]
  rfl

/-- The handle stands in the port, and the drain goes on, or ends with its last handle. -/
theorem State.stepDrain_port (hs : slot < 8) {t : State} {o next : SliceOp} (h : (t.core ck).slice.ops = [o]) (last : Bool) :
    ((t.stepDrain ck o next last slot).core ck).c28r = (t.core ck).c28r
      ∧ (last = false → ((t.stepDrain ck o next last slot).core ck).slice.ops = [next])
      ∧ (last = true → t.tileEnded (t.stepDrain ck o next last slot) ck slot) := by
  cases last
  · rw [State.stepDrain_next h]
    refine ⟨?_, fun _ => by rw [State.ops_updSlice], nofun⟩
    rw [State.updSlice, State.core_updCore_same]
  · obtain ⟨hend, heq⟩ := State.tileEnded_dropOp hs h
    refine ⟨?_, nofun, fun _ => hend⟩
    rw [State.stepDrain_last, heq, State.endTile_slot hs, State.endCount, State.core_updSlot, State.dropOp, State.updSlice,
      State.core_updCore_same]

/-! ## Handback (R188) -/

theorem execYokeHandback_wload (hck : coreOk ck = true) (hs : slot < 8) (hid : id ≠ 0) (hc : (s.quad (quadOfCore ck)).contained = false)
    (hg : (s.quad (quadOfCore ck)).gangs = []) (ho : (s.core ck).slice.ops = [.wload id slot a b none])
    (hst : (s.slot (ck * 8 + slot)).st ≠ .free) (hb : (s.slot (ck * 8 + slot)).hbPending = false)
    (hv : s.yokeRead (ck * 8 + slot) a (imageBytes (window a) / 32) = .fail val why fin) :
    ∃ t, execYokeHandback ck id s = .next t ∧ (t.slot (ck * 8 + slot)).hbPending = true ∧ (t.core ck).slice.ops = []
      ∧ (t.slot (ck * 8 + slot)).cnt.tlc = (s.slot (ck * 8 + slot)).cnt.tlc - 1 := by
  obtain ⟨u, hu, hpend, hcnt, hcores⟩ := State.handback_pending (tk := ck * 8 + slot) (kind := 2) (ws := [a, b]) (fault := val) (write := false)
    (final := fin) (reason := why) hb
  have hback : s.yokeBack ck slot 2 [a, b] val why fin = some u := (if_neg (by simp [hst, hs])).trans hu
  have hcore : u.core ck = s.core ck := congrArg (fun m => FMap.get ({} : Core) m ck) hcores
  let t := ((u.dropOpId ck id).endTile ck slot).updSlice ck fun l => { l with scales := (none : Option Scale).toList ++ l.scales }
  have hops : (t.core ck).slice.ops = [] := by
    show ((State.updSlice _ ck _).core ck).slice.ops = _
    rw [State.ops_updSlice, State.endTile_slot hs, State.endCount, State.core_updSlot, State.dropOpId, State.ops_updSlice, hcore, ho]
    simp [SliceOp.id]
  have hslot : t.slot (ck * 8 + slot) = (u.slot (ck * 8 + slot)).updCnt fun c => c.dec 6 := by
    show (State.slot (State.endTile _ ck slot) _) = _
    rw [State.endTile_slot hs, State.endCount, State.slot_updSlot_same]
    rfl
  refine ⟨t, unitEvent_some hck ?_, ?_, hops, ?_⟩
  · rw [if_neg (by simp [hc]), hg, Core.readyOps_single ho, List.find?_cons_of_pos (by simp [SliceOp.id, hid])]
    simp only [List.head?_nil, agentOf_slot hs, hv, hback]
    exact congrArg some (State.advanceSlice_nil hops)
  · rw [hslot]
    exact hpend
  · rw [hslot]
    exact congrArg (fun c => c.tlc - 1) hcnt

end

end Sys2Proof.Machine
end

section
/-! SUPPORT. The sums of a gang (R174 to R177): what a row's accumulation writes column by column, and exact sums. -/

namespace Sys2Proof.Machine

/-! ## Accumulators column by column -/

theorem Slice.accAt_setAcc (l : Slice) {r r' n j : Nat} (v : Word) (hn : n < 32) (hj : j < 32) :
    (l.setAcc r n v).accAt r' j = if r' = r ∧ j = n then v else l.accAt r' j := by
  rw [Slice.accAt, Slice.setAcc, FMap.get_set]
  have hkey : r' * 32 + j = r * 32 + n ↔ r' = r ∧ j = n := by omega
  simp only [hkey]
  rfl

/-- A row written at some of its columns. -/
def Slice.setRow (l : Slice) (r : Nat) (ns : List Nat) (g : Nat → Word) : Slice := ns.foldl (fun x n => x.setAcc r n (g n)) l

theorem Slice.accAt_setRow (l : Slice) (r : Nat) {ns : List Nat} (g : Nat → Word) (hns : ∀ n ∈ ns, n < 32) {r' j : Nat} (hj : j < 32) :
    (l.setRow r ns g).accAt r' j = if r' = r ∧ j ∈ ns then g j else l.accAt r' j := by
  induction ns generalizing l with
  | nil => simp [Slice.setRow]
  | cons n ns ih =>
    have hstep : l.setRow r (n :: ns) g = (l.setAcc r n (g n)).setRow r ns g := rfl
    rw [hstep, ih _ fun m hm => hns m (List.mem_cons_of_mem _ hm), Slice.accAt_setAcc l (g n) (hns n List.mem_cons_self) hj]
    by_cases hr : r' = r
    · by_cases hm : j ∈ ns
      · simp [hr, hm]
      · by_cases hjn : j = n
        · subst hjn
          simp [hr]
        · simp [hr, hm, hjn]
    · simp [hr]

/-- The columns that a part's row adds to. -/
def GangPart.columns (p : GangPart) (m : Nat) : List Nat := (List.range 32).filter fun n => !p.edge || decide (n < p.ncnt ∧ m < p.mcnt)

theorem GangPart.mem_columns (p : GangPart) {m n : Nat} (hn : n < 32) : n ∈ p.columns m ↔ (p.edge = false ∨ (n < p.ncnt ∧ m < p.mcnt)) := by
  simp [GangPart.columns, hn]

/-- What a part's row leaves in a column. -/
def Slice.column (l : Slice) (p : GangPart) (w kd m row n : Nat) : Word :=
  let ks := (List.range kd).filter fun k => !p.edge || decide (k < p.kcnt)
  let weight (k : Nat) : Elem := FMap.get zeroElem l.active.w (k * 32 + n)
  if intWindow w then combineI (l.accAt (p.acc + m) n) (ks.map fun k => actInt w row k * (weight k).num) p.zero
  else combineF (l.accAt (p.acc + m) n)
    ((ks.map fun k => (k, if p.asc then scaleBy (actVal w row k) (p.code kd m k) else actVal w row k)).map fun e => fmul e.2 (weight e.1).val) p.zero

theorem Slice.accumulate_eq (l : Slice) (p : GangPart) (w kd m row : Nat) :
    l.accumulate p w kd m row = l.setRow (p.acc + m) (p.columns m) (l.column p w kd m row) := rfl

theorem Slice.accAt_accumulate (l : Slice) (p : GangPart) (w kd m row : Nat) {r j : Nat} (hj : j < 32) :
    (l.accumulate p w kd m row).accAt r j = if r = p.acc + m ∧ j ∈ p.columns m then l.column p w kd m row j else l.accAt r j := by
  rw [Slice.accumulate_eq]
  exact Slice.accAt_setRow l _ _ (fun n hn => List.mem_range.mp (List.mem_of_mem_filter hn)) hj

/-- The integer modes (R174). -/
theorem Slice.column_int (l : Slice) (p : GangPart) {w : Nat} (kd m row n : Nat) (hw : w = 5 ∨ w = 6) :
    l.column p w kd m row n =
      (let sum := BitVec.ofInt 64 (((List.range kd).filter fun k => !p.edge || decide (k < p.kcnt)).map fun k =>
        sval (winBits w) (bitsAt row (winBits w * k) (winBits w)) * (FMap.get zeroElem l.active.w (k * 32 + n)).num).sum
      if p.zero then sum else l.accAt (p.acc + m) n + sum) :=
  if_pos (decide_eq_true hw)

theorem combineF_eq (acc : Word) (terms : List FVal) (zero : Bool) : combineF acc terms zero =
    if (exactSum terms).isNan = true ∨ (if zero = true then exactSum terms else fadd .rne (fp64.decode acc.toNat) (exactSum terms)).isNan = true
    then 0x7FF8000000000000#64
    else word (fp64.encode .rne 0 (if zero = true then exactSum terms else fadd .rne (fp64.decode acc.toNat) (exactSum terms))) := by
  unfold combineF rnd64
  by_cases hn : (exactSum terms).isNan = true
  · simp [hn]
  · cases zero <;> simp [hn]

/-- The float modes (R175). -/
theorem Slice.column_float (l : Slice) (p : GangPart) {w : Nat} {f : Fmt} (kd m row n : Nat) (hw : intWindow w = false) (hf : winFmt w = some f) :
    l.column p w kd m row n = combineF (l.accAt (p.acc + m) n)
      (((List.range kd).filter fun k => !p.edge || decide (k < p.kcnt)).map fun k =>
        fmul (if p.asc then scaleBy (f.decode (bitsAt row (winBits w * k) (winBits w))) (p.code kd m k)
          else f.decode (bitsAt row (winBits w * k) (winBits w))) (FMap.get zeroElem l.active.w (k * 32 + n)).val) p.zero := by
  have hact (k : Nat) : actVal w row k = f.decode (bitsAt row (winBits w * k) (winBits w)) := by rw [actVal, hf]
  rw [Slice.column]
  dsimp only
  rw [if_neg (by rw [hw]; exact Bool.false_ne_true), List.map_map]
  simp only [hact]
  rfl

/-! ## Exact sums (R175) -/

section
variable {t : Bool} {x v acc : FVal} {vs : List FVal}

theorem fadd_nan (h : x.isNan = true ∨ v.isNan = true) : (fadd .rne x v).isNan = true := by
  cases x with
  | nan s f => rfl
  | inf s => cases v <;> simp_all [FVal.isNan, fadd]
  | fin s m e => cases v <;> simp_all [FVal.isNan, fadd]

/-- An infinity added is the sum, unless the sum is a NaN. -/
theorem fadd_inf (x : FVal) (t : Bool) : fadd .rne x (.inf t) = .inf t ∨ (fadd .rne x (.inf t)).isNan = true := by
  cases x with
  | nan s f => exact .inr rfl
  | fin s m e => exact .inl rfl
  | inf s => cases s <;> cases t <;> simp [fadd, canonNan, FVal.isNan]

theorem inf_fadd (v : FVal) (t : Bool) : fadd .rne (.inf t) v = .inf t ∨ (fadd .rne (.inf t) v).isNan = true := by
  cases v with
  | nan s f => exact .inr rfl
  | fin s m e => exact .inl rfl
  | inf s => cases s <;> cases t <;> simp [fadd, canonNan, FVal.isNan]

theorem fadd_opposed (t : Bool) : (fadd .rne (.inf t) (.inf (!t))).isNan = true := by cases t <;> rfl

theorem foldl_nan (h : acc.isNan = true ∨ ∃ v ∈ vs, v.isNan = true) : (vs.foldl (fadd .rne) acc).isNan = true := by
  induction vs generalizing acc with
  | nil => simpa using h
  | cons v vs ih =>
    refine ih ?_
    obtain h | ⟨u, hu, hn⟩ := h
    · exact .inl (fadd_nan (.inl h))
    · obtain rfl | hu := List.mem_cons.mp hu
      · exact .inl (fadd_nan (.inr hn))
      · exact .inr ⟨u, hu, hn⟩

theorem foldl_opposed (h : .inf (!t) ∈ vs) : (vs.foldl (fadd .rne) (.inf t)).isNan = true := by
  induction vs with
  | nil => cases h
  | cons v vs ih =>
    rw [List.foldl_cons]
    obtain rfl | h := List.mem_cons.mp h
    · exact foldl_nan (.inl (fadd_opposed t))
    · obtain hv | hv := inf_fadd v t
      · rw [hv]
        exact ih h
      · exact foldl_nan (.inl hv)

theorem foldl_inf_nan (h : .inf t ∈ vs) (h' : .inf (!t) ∈ vs) : (vs.foldl (fadd .rne) acc).isNan = true := by
  induction vs generalizing acc with
  | nil => cases h
  | cons v vs ih =>
    rw [List.foldl_cons]
    obtain rfl | h := List.mem_cons.mp h
    · have ht : FVal.inf (!t) ∈ vs := (List.mem_cons.mp h').resolve_left (by cases t <;> decide)
      obtain hv | hv := fadd_inf acc t
      · rw [hv]
        exact foldl_opposed ht
      · exact foldl_nan (.inl hv)
    · obtain rfl | h' := List.mem_cons.mp h'
      · obtain hv | hv := fadd_inf acc (!t)
        · rw [hv]
          exact foldl_opposed (by rwa [Bool.not_not])
        · exact foldl_nan (.inl hv)
      · exact ih h h'

theorem exactSum_nan (h : (∃ v ∈ vs, v.isNan = true) ∨ (.inf true ∈ vs ∧ .inf false ∈ vs)) : (exactSum vs).isNan = true := by
  cases vs with
  | nil => simp at h
  | cons v vs =>
    show (vs.foldl (fadd .rne) v).isNan = true
    obtain ⟨u, hu, hn⟩ | ⟨ht, hf⟩ := h
    · obtain rfl | hu := List.mem_cons.mp hu
      · exact foldl_nan (.inl hn)
      · exact foldl_nan (.inr ⟨u, hu, hn⟩)
    · obtain rfl | ht' := List.mem_cons.mp ht
      · exact foldl_opposed ((List.mem_cons.mp hf).resolve_left (by decide))
      · obtain rfl | hf' := List.mem_cons.mp hf
        · exact foldl_opposed ht'
        · exact foldl_inf_nan ht' hf'

/-- A value that leaves a sum that is finite or the infinity t so. -/
def FVal.tame (t : Bool) (v : FVal) : Prop := v.isNan = false ∧ v ≠ .inf (!t)

theorem FVal.tame_cases (h : v.tame t) : v = .inf t ∨ ∃ s m e, v = .fin s m e := by
  obtain ⟨hn, hi⟩ := h
  cases v with
  | nan s f => cases hn
  | inf s =>
    refine .inl (congrArg _ ?_)
    cases s <;> cases t <;> simp_all
  | fin s m e => exact .inr ⟨s, m, e, rfl⟩

theorem ofInt_fin (v : Int) (e : Int) : ∃ s m g, ofInt v e .rne = .fin s m g := by
  unfold ofInt
  split <;> exact ⟨_, _, _, rfl⟩

theorem fadd_fin_fin (s : Bool) (m : Nat) (e : Int) (u : Bool) (n : Nat) (g : Int) :
    ∃ s' m' e', fadd .rne (.fin s m e) (.fin u n g) = .fin s' m' e' := by
  unfold fadd
  dsimp only
  split
  · exact ⟨_, _, _, rfl⟩
  · exact ofInt_fin _ _

theorem fadd_tame (hx : x.tame t) (hv : v.tame t) : (fadd .rne x v).tame t ∧ (x = .inf t ∨ v = .inf t → fadd .rne x v = .inf t) := by
  have hinf : FVal.tame t (.inf t) := ⟨rfl, by cases t <;> decide⟩
  obtain rfl | ⟨s, m, e, rfl⟩ := FVal.tame_cases hx
  · have h : fadd .rne (.inf t) v = .inf t := by
      obtain rfl | ⟨u, n, g, rfl⟩ := FVal.tame_cases hv
      · cases t <;> rfl
      · rfl
    exact ⟨by rw [h]; exact hinf, fun _ => h⟩
  · obtain rfl | ⟨u, n, g, rfl⟩ := FVal.tame_cases hv
    · exact ⟨hinf, fun _ => rfl⟩
    · obtain ⟨s', m', e', h⟩ := fadd_fin_fin s m e u n g
      refine ⟨h ▸ ⟨rfl, nofun⟩, fun hi => ?_⟩
      obtain hi | hi := hi <;> cases hi

theorem foldl_inf (hacc : acc.tame t) (hvs : ∀ v ∈ vs, v.tame t) (h : acc = .inf t ∨ .inf t ∈ vs) : vs.foldl (fadd .rne) acc = .inf t := by
  induction vs generalizing acc with
  | nil => simpa using h
  | cons v vs ih =>
    obtain ⟨htame, hsum⟩ := fadd_tame hacc (hvs v List.mem_cons_self)
    refine ih htame (fun u hu => hvs u (List.mem_cons_of_mem _ hu)) ?_
    obtain h | h := h
    · exact .inl (hsum (.inl h))
    · obtain h | h := List.mem_cons.mp h
      · exact .inl (hsum (.inr h.symm))
      · exact .inr h

theorem exactSum_inf (h : .inf t ∈ vs) (h' : .inf (!t) ∉ vs) (hn : ∀ v ∈ vs, v.isNan = false) : exactSum vs = .inf t := by
  cases vs with
  | nil => cases h
  | cons v vs =>
    have htame (u : FVal) (hu : u ∈ v :: vs) : u.tame t := ⟨hn u hu, fun hc => h' (hc ▸ hu)⟩
    refine foldl_inf (htame v List.mem_cons_self) (fun u hu => htame u (List.mem_cons_of_mem _ hu)) ?_
    exact (List.mem_cons.mp h).imp Eq.symm id

theorem FVal.negZero_iff : (v.isZero = true ∧ v.isNeg = true) ↔ ∃ e, v = .fin true 0 e := by
  constructor
  · rintro ⟨hz, hn⟩
    cases v with
    | nan s f => cases hz
    | inf s => cases hz
    | fin s m e =>
      cases m with
      | zero => exact ⟨e, by rw [show s = true from hn]⟩
      | succ m => cases hz
  · rintro ⟨e, rfl⟩
    exact ⟨rfl, rfl⟩

theorem foldl_negZero (hacc : ∃ e, acc = .fin true 0 e) (hvs : ∀ v ∈ vs, ∃ e, v = .fin true 0 e) :
    ∃ e, vs.foldl (fadd .rne) acc = .fin true 0 e := by
  induction vs generalizing acc with
  | nil => exact hacc
  | cons v vs ih =>
    obtain ⟨e, rfl⟩ := hacc
    obtain ⟨g, rfl⟩ := hvs v List.mem_cons_self
    exact ih ⟨0, rfl⟩ fun u hu => hvs u (List.mem_cons_of_mem _ hu)

theorem exactSum_negZero (hne : vs ≠ []) (h : ∀ v ∈ vs, v.isZero = true ∧ v.isNeg = true) :
    (exactSum vs).isZero = true ∧ (exactSum vs).isNeg = true := by
  cases vs with
  | nil => exact absurd rfl hne
  | cons v vs =>
    exact FVal.negZero_iff.mpr (foldl_negZero (FVal.negZero_iff.mp (h v List.mem_cons_self)) fun u hu =>
      FVal.negZero_iff.mp (h u (List.mem_cons_of_mem _ hu)))

end

/-! ## Sums of finite values are exact -/

/-- A finite value in units of 2 ^ lo. -/
def unitsOf (lo : Int) (t : Bool) (m : Nat) (e : Int) : Int := (if t then -(m : Int) else m) * 2 ^ (e - lo).toNat

/-- A value is finite, not below 2 ^ lo in its exponent, and is i units of it. -/
def FVal.isUnits (lo : Int) (v : FVal) (i : Int) : Prop := ∃ t m e, v = .fin t m e ∧ lo ≤ e ∧ unitsOf lo t m e = i

section
variable {lo : Int}

theorem unitsOf_zero (t : Bool) (e : Int) : unitsOf lo t 0 e = 0 := by cases t <;> simp [unitsOf]

/-- A value aligned to a lower exponent is as many units. -/
theorem unitsOf_aligned {e g : Int} (t : Bool) (m : Nat) (hg : lo ≤ g) (he : g ≤ e) :
    signed t (m * 2 ^ (e - g).toNat) * 2 ^ (g - lo).toNat = unitsOf lo t m e := by
  have hexp : (e - lo).toNat = (e - g).toNat + (g - lo).toNat := by omega
  rw [unitsOf, hexp, pow_add]
  cases t <;> simp [signed, mul_assoc]

theorem ofInt_isUnits (h0 : lo ≤ 0) {v e : Int} (he : lo ≤ e) : (ofInt v e .rne).isUnits lo (v * 2 ^ (e - lo).toNat) := by
  unfold ofInt
  split
  · next h => exact ⟨_, 0, 0, rfl, h0, by rw [unitsOf_zero, h, zero_mul]⟩
  · refine ⟨_, _, _, rfl, he, ?_⟩
    rw [unitsOf]
    congr 1
    by_cases hv : v < 0
    · rw [decide_eq_true hv, if_pos rfl]; omega
    · rw [decide_eq_false hv, if_neg Bool.false_ne_true]; omega

theorem fadd_isUnits (h0 : lo ≤ 0) {x y : FVal} {i j : Int} (hx : x.isUnits lo i) (hy : y.isUnits lo j) : (fadd .rne x y).isUnits lo (i + j) := by
  obtain ⟨s, m, e, rfl, he, rfl⟩ := hx
  obtain ⟨t, n, g, rfl, hg, rfl⟩ := hy
  unfold fadd
  dsimp only
  split
  · next h =>
    obtain ⟨rfl, rfl, _⟩ := h
    exact ⟨s, 0, 0, rfl, h0, by simp [unitsOf_zero]⟩
  · have hlo : lo ≤ (if e < g then e else g) := by split <;> assumption
    have hsum := ofInt_isUnits (v := signed s (m * 2 ^ (e - if e < g then e else g).toNat) +
      signed t (n * 2 ^ (g - if e < g then e else g).toNat)) h0 hlo
    rwa [add_mul, unitsOf_aligned s m hlo (by split <;> omega), unitsOf_aligned t n hlo (by split <;> omega)] at hsum

theorem foldl_isUnits (h0 : lo ≤ 0) (vs : List (Bool × Nat × Int)) (hvs : ∀ v ∈ vs, lo ≤ v.2.2) {acc : FVal} {i : Int} (hacc : acc.isUnits lo i) :
    ((vs.map fun v => FVal.fin v.1 v.2.1 v.2.2).foldl (fadd .rne) acc).isUnits lo (i + (vs.map fun v => unitsOf lo v.1 v.2.1 v.2.2).sum) := by
  induction vs generalizing acc i with
  | nil => simpa using hacc
  | cons v vs ih =>
    have hv : (FVal.fin v.1 v.2.1 v.2.2).isUnits lo (unitsOf lo v.1 v.2.1 v.2.2) := ⟨_, _, _, rfl, hvs v List.mem_cons_self, rfl⟩
    have h := ih (fun u hu => hvs u (List.mem_cons_of_mem _ hu)) (fadd_isUnits h0 hacc hv)
    rwa [add_assoc] at h

theorem exactSum_isUnits (h0 : lo ≤ 0) (vs : List (Bool × Nat × Int)) (hvs : ∀ v ∈ vs, lo ≤ v.2.2) :
    (exactSum (vs.map fun v => .fin v.1 v.2.1 v.2.2)).isUnits lo (vs.map fun v => unitsOf lo v.1 v.2.1 v.2.2).sum := by
  cases vs with
  | nil => exact ⟨false, 0, 0, rfl, h0, unitsOf_zero _ _⟩
  | cons v vs => exact foldl_isUnits h0 vs (fun u hu => hvs u (List.mem_cons_of_mem _ hu)) ⟨_, _, _, rfl, hvs v List.mem_cons_self, rfl⟩

end

end Sys2Proof.Machine

open Sys2Proof Sys2Proof.Machine

/-- Settles O40: the events by the operation alone in its order, the accumulation column by column, and the exact sums by induction on their
terms. -/
theorem yokeEvents : Obligations.YokeEvents := by
  refine ⟨?_, ?_, fun vs => ⟨exactSum_nan, fun t => exactSum_inf, exactSum_negZero⟩, fun vs lo h0 hvs => exactSum_isUnits h0 vs hvs⟩
  · intro s ck qi slot id v a b val o scale g p fmt r first count stride row col why fin hlt hq hs hid
    have hck : coreOk ck = true := decide_eq_true hlt
    have hqi : quadOk qi = true := decide_eq_true hq
    refine ⟨execLtabDone_reads, fun hc ho hv => execWloadDone_reads hck hs hc ho hv, fun hn ht => execC28StreamCommand_enters hck hs hn ht,
      fun hg hp hc hf hr hv => ?_, fun hc ho => fun hw hb => ?_, fun hc ho hn hcol => ?_, fun h => ⟨_, unitEvent_some hck (if_neg (by rw [h]; nofun)), ?_⟩,
      fun hc hg ho hst hb hv => execYokeHandback_wload hck hs hid hc hg ho hst hb hv⟩
    · have h := execGangRow_reads hqi hg hp hc hf hr hv
      exact ⟨fun hlt => h.trans (by rw [if_pos hlt]; rfl), fun hge => h.trans (by rw [if_neg (Nat.not_lt.mpr hge)]; rfl)⟩
    · have h := execMdrainRowWrite_writes hck hs hc ho hw hb
      have hops : ((s.rowDrained ck slot fmt r a first stride row).core ck).slice.ops = [.mdrain id slot false fmt r a first count stride row col] := by
        rw [State.core_rowDrained, ho]
      refine ⟨fun hlt => h.trans ?_, fun hge => ⟨_, h, ?_⟩⟩
      · rw [decide_eq_false (Nat.not_le.mpr hlt), State.stepDrain_next hops]
        rfl
      · obtain ⟨hops', htlc, hmem⟩ := (State.stepDrain_port hs hops true).2.2 rfl
        rw [decide_eq_true hge]
        exact ⟨hmem, hops', htlc.trans (by rw [State.slot_rowDrained])⟩
    · have h := execMdrainHandlePush_pushes hck hc ho hn
      have hin : (s.handleIn ck (s.nextHandle ck fmt r first count row col)).core ck =
          { s.core ck with c28r := (s.core ck).c28r ++ [s.nextHandle ck fmt r first count row col] } := State.core_updCore_same _ _ _
      obtain ⟨hport, hgoes, hends⟩ := State.stepDrain_port (t := s.handleIn ck (s.nextHandle ck fmt r first count row col)) (ck := ck) hs
        (next := .mdrain id slot true fmt r a first count stride (if col = 31 then row + 1 else row) ((col + 1) % 32)) (by rw [hin]; exact ho)
        (decide (count ≤ row + 1 ∧ col = 31))
      refine ⟨_, h, hport.trans (congrArg Core.c28r hin), fun hlt => ?_, fun h31 hlt => ?_, fun h31 hge => ?_⟩
      · rw [hgoes (decide_eq_false fun hc => by omega), if_neg (by omega), Nat.mod_eq_of_lt (by omega)]
      · rw [hgoes (decide_eq_false fun hc => by omega), if_pos h31, h31]
      · obtain ⟨hops', htlc, _⟩ := hends (decide_eq_true ⟨hge, h31⟩)
        exact ⟨hops', htlc⟩
    · rw [State.core_updCore_same]
      exact congrArg List.tail h
  · intro l p w kd m row n f hn
    have hnew := l.accAt_accumulate p w kd m row (r := p.acc + m) hn
    refine ⟨fun he hout => hnew.trans (if_neg fun hc => ?_), fun r j hr hj => (l.accAt_accumulate p w kd m row hj).trans (if_neg fun hc => hr hc.1),
      fun hin => ?_⟩
    · obtain he' | ⟨hlt, hlt'⟩ := (p.mem_columns hn).mp hc.2
      · rw [he] at he'
        cases he'
      · omega
    · rw [if_pos ⟨rfl, (p.mem_columns hn).mpr hin⟩] at hnew
      refine ⟨fun hw => hnew.trans (l.column_int p kd m row n hw), fun hmem => ?_⟩
      have hwin : intWindow w = false ∧ winFmt w = some f := by
        simp only [List.mem_cons, Prod.mk.injEq, List.not_mem_nil, or_false] at hmem
        obtain ⟨rfl, rfl⟩ | ⟨rfl, rfl⟩ | ⟨rfl, rfl⟩ | ⟨rfl, rfl⟩ := hmem <;> exact ⟨rfl, rfl⟩
      exact hnew.trans ((l.column_float p kd m row n hwin.1 hwin.2).trans (combineF_eq _ _ _))
end

section
/-! SUPPORT. Recovery: what a containment leaves of the map and of the spares (R25, R373), the bytes of a block that moves (R374), the
quads that a resizing takes (R378), the context swap (R384), and panel reset (R24, R363). -/

namespace Sys2Proof.Machine

/-! ## The map and the spares during a containment -/

/-- Two states with the same slots, quads, retirement log, pending changes, column map and regions. -/
def State.sameMap (s t : State) : Prop :=
  s.sameUnits t ∧ t.changes = s.changes ∧ t.panel.colmap = s.panel.colmap ∧ t.regions = s.regions

theorem State.sameMap_rfl (s : State) : s.sameMap s := ⟨s.sameUnits_rfl, rfl, rfl, rfl⟩

theorem State.sameMap.trans {s t u : State} (h : s.sameMap t) (k : t.sameMap u) : s.sameMap u :=
  ⟨h.1.trans k.1, k.2.1.trans h.2.1, k.2.2.1.trans h.2.2.1, k.2.2.2.trans h.2.2.2⟩

theorem State.sameMap_foldl {α : Type} {f : State → α → State} (h : ∀ (s : State) (a : α), s.sameMap (f s a)) (l : List α) (s : State) :
    s.sameMap (l.foldl f s) := by
  induction l generalizing s with
  | nil => exact s.sameMap_rfl
  | cons a l ih => exact (h s a).trans (ih (f s a))

theorem State.sameMap_evqPush (s : State) (v : Nat) (bs : List Byte) : s.sameMap (s.evqPush v bs) := by
  refine ⟨s.sameUnits_evqPush v bs, ?_⟩
  unfold State.evqPush
  dsimp only
  split <;> exact ⟨rfl, rfl, rfl⟩

theorem State.sameMap_service (s : State) (pid : Nat) (m : Svc) : s.sameMap (s.service pid m) := by
  unfold State.service
  dsimp only
  split
  · exact s.sameMap_evqPush _ _
  · exact ⟨⟨rfl, rfl, rfl⟩, rfl, rfl, rfl⟩

theorem State.sameMap_freeBuffer (s : State) (p : Packet) (f : Flit) : s.sameMap (s.freeBuffer p f) := by
  unfold State.freeBuffer
  split <;> exact ⟨⟨rfl, rfl, rfl⟩, rfl, rfl, rfl⟩

theorem State.sameMap_dropPacket (s : State) (pkt : Option Nat) : s.sameMap (s.dropPacket pkt) := by
  cases pkt with
  | none => exact s.sameMap_rfl
  | some id =>
    have hfold := State.sameMap_foldl (f := fun t p => (s.flits.filter fun f => decide (f.pkt = id)).foldl (fun u f => u.freeBuffer p f) t)
      (fun t p => State.sameMap_foldl (fun u f => u.sameMap_freeBuffer p f) _ t) (s.packets.filter fun p => decide (p.id = id)) s
    exact hfold

theorem State.sameMap_containMsgs (s : State) (qi det : Nat) (survives : Bool) : s.sameMap (s.containMsgs qi det survives) := by
  unfold State.containMsgs
  refine State.sameMap_foldl (fun u c => ?_) _ _
  extract_lets lost m u1
  have h1 : u.sameMap u1 := by
    unfold u1
    split
    · exact u.sameMap_service _ _
    · exact State.sameMap_foldl (fun t h => t.sameMap_service _ _) _ _
  split
  · exact h1
  · exact h1.trans (State.sameMap_service _ _ _)

theorem State.sameMap_loseFlights (s : State) (qi : Nat) : s.sameMap (s.loseFlights qi) := by
  unfold State.loseFlights
  dsimp only
  refine State.sameMap.trans ?_ (State.sameMap_foldl (f := fun t c => t.updCore (qi * 4 + c) fun x => { x with vq := [], pend := [] })
    (fun t c => ⟨⟨rfl, rfl, rfl⟩, rfl, rfl, rfl⟩) _ _)
  refine State.sameMap_foldl (fun t f => ?_) _ s
  split
  · exact t.sameMap_rfl
  · exact t.sameMap_dropPacket _

theorem State.sameMap_resendRed (s : State) (id : Nat) : s.sameMap (s.resendRed id) := by
  unfold State.resendRed
  split
  · exact s.sameMap_rfl
  · split
    · exact State.sameMap_dropPacket s _
    · exact ⟨⟨rfl, rfl, rfl⟩, rfl, rfl, rfl⟩

theorem State.sameMap_failHolds (s : State) (qi : Nat) : s.sameMap (s.failHolds qi) := by
  let kept : State := { s with redHolds := s.redHolds.filter fun h => decide (h.router ≠ qi) }
  have h1 : s.sameMap kept := ⟨⟨rfl, rfl, rfl⟩, rfl, rfl, rfl⟩
  have h2 := State.sameMap_foldl (f := fun (t : State) (h : RedHold) => h.flights.foldl (fun u i => u.resendRed i) t)
    (fun t h => State.sameMap_foldl (fun u i => u.sameMap_resendRed i) _ t) (s.redHolds.filter fun h => decide (h.router = qi)) kept
  exact h1.trans h2

theorem State.sameMap_shortfall (s : State) (pid : Nat) (t : Stream) (l bytes : Nat) : s.sameMap (s.shortfall pid t l bytes) := by
  unfold State.shortfall
  extract_lets w m
  have h := (s.sameMap_service pid m).trans (State.sameMap_evqPush _ (s.part pid).vf (m.bytes pid))
  clear_value m
  generalize ((s.service pid m).evqPush (s.part pid).vf (m.bytes pid)) = u at h ⊢
  have hpanel (f : Panel → Panel) (hlog : (f u.panel).log = u.panel.log) (hmap : (f u.panel).colmap = u.panel.colmap) :
      u.sameMap (u.updPanel f) := ⟨⟨rfl, rfl, hlog⟩, rfl, hmap, rfl⟩
  exact h.trans (hpanel _ rfl rfl)

theorem State.sameMap_deadStreams (s : State) (qi : Nat) : s.sameMap (s.deadStreams qi) := by
  unfold State.deadStreams
  refine State.sameMap_foldl (fun t p => State.sameMap_foldl (fun u x => ?_) _ t) _ s
  split
  · exact u.sameMap_shortfall _ _ _ _
  · exact u.sameMap_rfl

theorem State.changes_reclass (s : State) (pid r : Nat) : (s.reclass pid r).changes = s.changes := by
  unfold State.reclass
  extract_lets pt c m s1
  split
  · exact ((State.sameMap_service s1 _ _).trans (State.sameMap_evqPush _ _ _)).2.1
  · rfl

theorem State.changes_regrade (s : State) (r : Nat) : (s.regrade r).changes = s.changes := by
  have hfold (l : FMap Part) (t : State) :
      (l.foldl (fun t e => if e.2.regions.contains r then t.reclass e.1 r else t) t).changes = t.changes := by
    induction l generalizing t with
    | nil => rfl
    | cons e l ih =>
      rw [List.foldl_cons, ih]
      split
      · exact t.changes_reclass _ _
      · rfl
  exact hfold _ _

/-- The switch time of a map installed now depends on the regions' counters alone. -/
theorem State.switchTime_congr {s t : State} (hregions : t.regions = s.regions) : t.switchTime = s.switchTime := by
  rw [State.switchTime, State.switchTime, State.time0, State.time0]
  simp only [State.region, hregions]

theorem State.physLogical_congr {s t : State} (h : t.panel.colmap = s.panel.colmap) (y x : Nat) : t.physLogical y x = s.physLogical y x := by
  rw [State.physLogical, State.physLogical, State.mapEntry, State.mapEntry, h]

theorem State.named_of_logicalOf {s : State} {qi l : Nat} (h : s.logicalOf qi = some l) : pxOf qi ∈ s.named (pyOf qi) := by
  obtain ⟨x, hfind, _⟩ := Option.map_eq_some_iff.mp h
  have hx : s.physLogical (pyOf qi) x = some qi := by simpa using List.find?_some hfind
  exact List.mem_filterMap.mpr ⟨x, List.mem_of_find?_eq_some hfind, by rw [hx]; rfl⟩

/-- The spares of a row do not depend on a quad there that holds a logical name (R25, R27). -/
theorem State.spares_congr {s t : State} {qi l : Nat} (hchanges : t.changes = s.changes) (hmap : t.panel.colmap = s.panel.colmap)
    (hquads : ∀ n ≠ qi, t.quad n = s.quad n) (hname : s.logicalOf qi = some l) : t.spares (pyOf qi) = s.spares (pyOf qi) := by
  have hnamed : t.named (pyOf qi) = s.named (pyOf qi) := by
    simp only [State.named, State.physLogical_congr hmap]
  have hmem := State.named_of_logicalOf hname
  unfold State.spares
  dsimp only
  rw [hnamed, hchanges]
  refine List.filter_congr fun px hpx => ?_
  by_cases hq : pyOf qi * 72 + px = qi
  · have hpx' : px = pxOf qi := by
      have hlt := List.mem_range.mp hpx
      unfold pyOf at hq
      unfold pxOf
      omega
    rw [hpx', List.contains_iff_mem.mpr (List.mem_append_left _ hmem)]
    simp
  · rw [hquads _ hq]

/-- The spare that takes a quad's place (R25). -/
def State.spareFor (s : State) (qi : Nat) : Option Nat := (nearest (pxOf qi) (s.spares (pyOf qi))).map fun px => pyOf qi * 72 + px

/-- A containment of a quad that is not contained: its state, its retirement entry and the change that is installed (R363, R373). -/
theorem State.contain_of_whole {s t : State} {qi det core : Nat} (hc : (s.quad qi).contained = false) (ht : s.contain qi det core = t) :
    (t.quad qi).contained = true ∧ (t.quad qi).st = (if det = 3 then .dead else if (s.quad qi).st = .healthy then .memoryOnly else (s.quad qi).st)
      ∧ t.slots = s.slots ∧ t.panel.log = s.panel.log ++ [{ qi, unit := (if det = 3 then 5 else core), retire := true, time := s.time0 }]
      ∧ ∀ l, s.logicalOf qi = some l →
        t.changes = s.changes ++ [{ time := s.switchTime, op := .contain qi l (s.spareFor qi) }] := by
  unfold State.contain at ht
  extract_lets q dead ent s0 st s1 s2' s2 spare s3 at ht
  rw [if_neg (by rw [hc]; exact Bool.false_ne_true)] at ht
  have hent : ent = { qi, unit := (if det = 3 then 5 else core), retire := true, time := s.time0 } := by
    unfold ent dead
    by_cases hd : det = 3 <;> simp [hd]
  have h0 : s0.slots = s.slots ∧ s0.quads = s.quads ∧ s0.panel.log = s.panel.log ++ [ent] ∧ s0.changes = s.changes
      ∧ s0.panel.colmap = s.panel.colmap ∧ s0.regions = s.regions := by
    have hkeep : s.sameMap (if dead then s.failHolds qi else s) := by
      split
      · exact s.sameMap_failHolds qi
      · exact s.sameMap_rfl
    obtain ⟨⟨hslots, hquads, hlog⟩, hchanges, hmap, hregions⟩ := hkeep
    exact ⟨hslots, hquads, congrArg (· ++ [ent]) hlog, hchanges, hmap, hregions⟩
  clear_value s0
  obtain ⟨hslots0, hquads0, hlog0, hchanges0, hmap0, hregions0⟩ := h0
  have h2 : s1.sameMap s2 := by
    have h := (s1.sameMap_containMsgs qi det (!dead)).trans (State.sameMap_loseFlights _ qi)
    unfold s2
    split
    · exact h.trans (State.sameMap_deadStreams _ _)
    · exact h
  clear_value s2
  obtain ⟨⟨hslots2, hquads2, hlog2⟩, hchanges2, hmap2, hregions2⟩ := h2
  have hquad1 : s1.quad qi = { s0.quad qi with contained := true, st } := State.quad_updQuad_same ..
  have hq0 : s0.quad qi = s.quad qi := by rw [State.quad, State.quad, hquads0]
  have hq2 (n : Nat) : s2.quad n = s1.quad n := by rw [State.quad, State.quad, hquads2]
  have h3 : s2.sameUnits s3 := by
    unfold s3
    split <;> exact ⟨rfl, rfl, rfl⟩
  obtain ⟨hslots3, hquads3, hlog3⟩ := h3.trans (s3.sameUnits_regrade (regionOf qi))
  rw [← ht]
  refine ⟨?_, ?_, hslots3.trans (hslots2.trans hslots0), hlog3.trans (hlog2.trans (by rw [← hent]; exact hlog0)), fun l hl => ?_⟩
  · rw [State.quad, hquads3]
    exact (congrArg Quad.contained ((hq2 qi).trans hquad1))
  · rw [State.quad, hquads3]
    refine (congrArg Quad.st ((hq2 qi).trans hquad1)).trans ?_
    unfold st dead
    by_cases hd : det = 3 <;> simp [hd, q]
  · have htime : s2.switchTime = s.switchTime :=
      State.switchTime_congr (hregions2.trans hregions0)
    have hspares : s2.spares (pyOf qi) = s.spares (pyOf qi) := by
      refine State.spares_congr (hchanges2.trans hchanges0) (hmap2.trans hmap0) (fun n hn => ?_) hl
      rw [hq2, State.quad_updQuad_ne _ _ _ _ hn, State.quad, State.quad, hquads0]
    have hs3 : s3 = { s2 with changes := s2.changes ++ [{ time := s2.switchTime, op := .contain qi l spare }] } := by
      unfold s3
      rw [hl]
    have hspare : spare = s.spareFor qi := by
      unfold spare
      rw [hspares, State.spareFor]
    rw [State.changes_regrade, hs3, hspare, htime]
    exact congrArg (· ++ _) (hchanges2.trans hchanges0)

/-! ## The nearest spare, and a block that moves -/

theorem nearest_least {px c : Nat} : ∀ {l : List Nat}, nearest px l = some c → c ∈ l ∧ ∀ d ∈ l, colDist c px ≤ colDist d px
  | [], h => nomatch h
  | e :: es, h => by
    rw [nearest] at h
    cases hn : nearest px es with
    | none =>
      have hes : es = [] := by
        cases es with
        | nil => rfl
        | cons a l =>
          rw [nearest] at hn
          split at hn
          · exact nomatch hn
          · split at hn <;> exact nomatch hn
      rw [hn] at h
      cases h
      rw [hes]
      exact ⟨List.mem_singleton.mpr rfl, fun d hd => Nat.le_of_eq (by rw [List.mem_singleton.mp hd])⟩
    | some d =>
      obtain ⟨hmem, hleast⟩ := nearest_least hn
      rw [hn] at h
      dsimp only at h
      by_cases hd : colDist e px ≤ colDist d px
      · rw [if_pos hd] at h
        cases h
        refine ⟨List.mem_cons_self, fun x hx => ?_⟩
        rcases List.mem_cons.mp hx with rfl | hx
        · exact Nat.le_refl _
        · exact Nat.le_trans hd (hleast x hx)
      · rw [if_neg hd] at h
        cases h
        refine ⟨List.mem_cons_of_mem _ hmem, fun x hx => ?_⟩
        rcases List.mem_cons.mp hx with rfl | hx
        · omega
        · exact hleast x hx

theorem FMap.get_below {α : Type} [DecidableEq α] {d : α} {lo k : Nat} {m : FMap α} (h : FMap.wfFrom d lo m = true) (hk : k < lo) :
    FMap.get d m k = d := by
  induction m generalizing lo with
  | nil => rfl
  | cons e rest ih =>
    obtain ⟨a, v⟩ := e
    simp only [FMap.wfFrom, Bool.and_eq_true, decide_eq_true_eq] at h
    obtain ⟨⟨ha, _⟩, hrest⟩ := h
    rw [FMap.get, if_neg (by omega)]
    exact ih hrest (by omega)

theorem FMap.get_filter_key {α : Type} (d : α) (p : Nat × α → Bool) {k : Nat} (hp : ∀ v, p (k, v) = true) (m : FMap α) :
    FMap.get d (m.filter p) k = FMap.get d m k := by
  induction m with
  | nil => rfl
  | cons e rest ih =>
    obtain ⟨a, v⟩ := e
    rw [FMap.get, List.filter_cons]
    by_cases ha : a = k
    · subst ha
      rw [hp v, if_pos rfl, if_pos rfl, FMap.get, if_pos rfl]
    · rw [if_neg ha]
      split
      · rw [FMap.get, if_neg ha, ih]
      · exact ih

/-- The cells of a range, written elsewhere one after another: a place reads as its own cell where one is listed. -/
theorem memByte_moveCells {a b i : Nat} {l : List Host.Cell} {lo : Nat} (hl : FMap.wfFrom (0 : Byte) lo l = true) (ha : ∀ c ∈ l, a ≤ c.1)
    (m : List Host.Cell) : memByte (l.foldl (fun m c => FMap.set (0 : Byte) m (c.1 - a + b) c.2) m) (b + i)
      = if memByte l (a + i) = 0 then memByte m (b + i) else memByte l (a + i) := by
  induction l generalizing lo m with
  | nil => rfl
  | cons e rest ih =>
    obtain ⟨k, v⟩ := e
    simp only [FMap.wfFrom, Bool.and_eq_true, decide_eq_true_eq] at hl
    obtain ⟨⟨_, hv⟩, hrest⟩ := hl
    have hk : a ≤ k := ha (k, v) List.mem_cons_self
    have hcell : memByte ((k, v) :: rest) (a + i) = if k = a + i then v else memByte rest (a + i) := rfl
    rw [List.foldl_cons, ih hrest fun c hc => ha c (List.mem_cons_of_mem _ hc), memByte_set, hcell]
    by_cases hki : k = a + i
    · have hnone : memByte rest (a + i) = 0 := FMap.get_below hrest (by omega)
      have hv' : v ≠ 0 := by simpa using hv
      rw [if_pos hki, hnone, if_pos rfl, if_pos (show b + i = (k, v).1 - a + b by dsimp only; omega), if_neg hv']
    · rw [if_neg hki, if_neg (show ¬b + i = (k, v).1 - a + b by dsimp only; omega)]

/-- What a range reads as after it has been copied (R374). -/
theorem State.memByte_copyRange {s : State} (hs : s.Wf) {a b n i : Nat} (hi : i < n) :
    memByte (s.copyRange a b n).mem (b + i) = memByte s.mem (a + i) := by
  obtain ⟨hmem, _⟩ := hs
  have hin (v : Byte) : (fun c : Host.Cell => decide (a ≤ c.1 ∧ c.1 < a + n)) (a + i, v) = true := decide_eq_true (by dsimp only; omega)
  have h := memByte_moveCells (a := a) (b := b) (i := i) (lo := 0)
    (FMap.wf_filter (fun c : Host.Cell => decide (a ≤ c.1 ∧ c.1 < a + n)) hmem)
    (fun c hc => (of_decide_eq_true (List.mem_filter.mp hc).2).1) (s.zeroRange b n).mem
  have hread : memByte (s.mem.filter fun c : Host.Cell => decide (a ≤ c.1 ∧ c.1 < a + n)) (a + i) = memByte s.mem (a + i) :=
    FMap.get_filter_key 0 _ hin s.mem
  rw [hread, State.memByte_zeroRange, if_pos (show b ≤ b + i ∧ b + i < b + n by omega)] at h
  refine h.trans ?_
  split
  · rename_i hz
    exact hz.symm
  · rfl

theorem shareFillBlock_moves {s : State} {qi blk : Nat} {f : Fill} (hqi : qi < 2304) (hs : s.Wf) (hf : (s.quad qi).fill = some f)
    (hmoved : f.moved.contains blk = false) (hblk : blk < 256) (hnext : (f.next.head?.all fun b => b == blk) = true) :
    ∃ t, exec (.shareFillBlock qi blk) s = .next t
      ∧ ∀ i < 65536, memByte t.mem (scratchKey qi (blk * 65536) + i) = memByte s.mem (scratchKey f.src (blk * 65536) + i) := by
  refine ⟨s.moveBlock qi f.src blk, unitEvent_some (decide_eq_true hqi) ?_, fun i hi => State.memByte_copyRange hs hi⟩
  rw [hf, Option.bind_eq_bind, Option.bind_some, if_neg]
  · rfl
  · rw [hmoved, hnext, decide_eq_false (Nat.not_le.mpr hblk)]
    simp

theorem State.noteBlock_next {s : State} {qi k : Nat} {f : Fill} (hf : (s.quad qi).fill = some f) (hk : keyQuad k ≠ qi)
    (hnext : f.next.contains (k % 2 ^ 24 / 65536) = false) :
    ((s.noteBlock qi k).quad qi).fill = some { f with next := f.next ++ [k % 2 ^ 24 / 65536] } := by
  rw [State.noteBlock, if_neg hk, State.quad_updQuad_same]
  dsimp only
  rw [hf, Option.map_some, hnext]
  rfl

/-! ## Resizing: who leaves -/

/-- Two states with the same quads and the same pending changes. -/
def State.sameQuads (s t : State) : Prop := t.quads = s.quads ∧ t.changes = s.changes

theorem State.sameQuads.trans {s t u : State} (h : s.sameQuads t) (k : t.sameQuads u) : s.sameQuads u := ⟨k.1.trans h.1, k.2.trans h.2⟩

theorem State.sameQuads_removeFlight (s : State) (f : Flight) : s.sameQuads (s.removeFlight f) := by
  obtain ⟨⟨_, hquads, _⟩, hchanges, _⟩ := s.sameMap_dropPacket f.pkt
  exact ⟨hquads, hchanges⟩

theorem State.sameQuads_resetRotation (s : State) (ck : Nat) : s.sameQuads (s.resetRotation ck) := by
  unfold State.resetRotation
  split <;> exact ⟨rfl, rfl⟩

theorem State.sameQuads_withdrawn {s t : State} {tk : Nat} (h : s.withdrawn tk = some t) : s.sameQuads t := by
  unfold State.withdrawn at h
  dsimp only at h
  split at h
  · split at h
    · exact nomatch h
    · rw [← Option.some.inj h]
      exact (s.sameQuads_removeFlight _).trans ⟨rfl, rfl⟩
  · rw [← Option.some.inj h]
    exact ⟨rfl, rfl⟩
  · split at h
    · exact nomatch h
    · rw [← Option.some.inj h]
      refine State.sameQuads.trans ?_ (State.sameQuads_resetRotation _ _)
      exact ⟨rfl, rfl⟩
  · split at h
    · rw [← Option.some.inj h]
      exact ⟨rfl, rfl⟩
    · split at h
      · rw [← Option.some.inj h]
        exact ⟨rfl, rfl⟩
      · exact nomatch h

theorem State.sameQuads_abandonWait {s t : State} {tk : Nat} (h : s.abandonWait tk = some t) : s.sameQuads t := by
  unfold State.abandonWait at h
  dsimp only at h
  split at h
  · rw [← Option.some.inj h]
    exact ⟨rfl, rfl⟩
  · exact nomatch h
  · exact nomatch h
  · obtain ⟨u, hu, rfl⟩ := Option.map_eq_some_iff.mp h
    have hsame : s.sameQuads u := by
      split at hu
      · rw [← Option.some.inj hu]
        exact ⟨rfl, rfl⟩
      · exact State.sameQuads_withdrawn hu
    exact hsame.trans ⟨rfl, rfl⟩

theorem State.sameQuads_beginMove (s : State) (m : Move) : s.sameQuads (s.beginMove m) := by
  unfold State.beginMove
  dsimp only
  cases h : s.abandonWait m.thr with
  | none => exact ⟨rfl, rfl⟩
  | some t => exact (State.sameQuads_abandonWait h).trans ⟨rfl, rfl⟩

/-- The contexts of a partition on a quad are marked as leaving. -/
def State.goesFrom (s : State) (pid qi : Nat) : Prop := ∀ c ∈ (s.quad qi).ctxs, c.pid = pid → c.leaving = true

theorem State.goesFrom_setLeaving (pid : Nat) : ∀ (l : List Nat) (s : State) (qi : Nat), s.goesFrom pid qi ∨ qi ∈ l →
    (s.setLeaving pid l true).goesFrom pid qi
  | [], _, _, h => h.resolve_right List.not_mem_nil
  | n :: l, s, qi, h => by
    refine State.goesFrom_setLeaving pid l _ qi ?_
    by_cases hn : qi = n
    · left
      intro c hc hpid
      rw [hn, State.quad_updQuad_same] at hc
      obtain ⟨c0, _, hc0⟩ := List.mem_map.mp hc
      split at hc0
      · rw [← hc0]
      · rename_i hne
        rw [← hc0] at hpid
        exact absurd hpid hne
    · refine h.imp (fun hs => ?_) fun hm => (List.mem_cons.mp hm).resolve_left hn
      intro c hc
      rw [State.quad_updQuad_ne _ _ _ _ hn] at hc
      exact hs c hc

theorem State.changes_setLeaving (pid : Nat) (b : Bool) : ∀ (l : List Nat) (s : State), (s.setLeaving pid l b).changes = s.changes
  | [], _ => rfl
  | n :: l, s => State.changes_setLeaving pid b l (s.updQuad n _)

theorem State.letChans_none {s : State} {qi pid : Nat} (h : ∀ x ∈ (s.quad qi).chans, x.pid ≠ pid) : s.letChans qi pid = .ok s := by
  rw [State.letChans, List.filter_eq_nil_iff.mpr fun x hx => by simpa using h x hx]
  rfl

/-- A resizing that fits: the map change is installed. -/
def State.installResize (s : State) (pid x0 y0 w h : Nat) : State :=
  { s with changes := s.changes ++ [{ time := s.switchTime, op := .resize pid x0 y0 w h }] }

section
variable {s : State} {pid x0 y0 w h : Nat}

/-- The channels of quads that hold none of the partition are let out at once. -/
theorem letAll_none {f : Except (Option State) State → Nat × Ctx → Except (Option State) State}
    (hf : ∀ u e, f (.ok u) e = u.letChans e.1 pid) (l : List (Nat × Ctx)) (hl : ∀ e ∈ l, ∀ x ∈ (s.quad e.1).chans, x.pid ≠ pid) :
    l.foldl f (.ok s) = .ok s := by
  induction l with
  | nil => rfl
  | cons e l ih =>
    rw [List.foldl_cons, hf, State.letChans_none (hl e List.mem_cons_self)]
    exact ih fun e he => hl e (List.mem_cons_of_mem _ he)

theorem partitionResize_installs (hok : s.resizeOk pid x0 y0 w h = true) (hleave : ∀ e ∈ s.removedQuads pid x0 y0 w h, e.2.leaving = true)
    (hpin : s.pinnedOn pid (s.removedQuads pid x0 y0 w h) = [])
    (hchans : ∀ e ∈ s.removedQuads pid x0 y0 w h, ∀ x ∈ (s.quad e.1).chans, x.pid ≠ pid) :
    exec (.partitionResize pid x0 y0 w h) s = .next (s.installResize pid x0 y0 w h) := by
  refine event_some ?_
  dsimp only
  have hany : ((s.removedQuads pid x0 y0 w h).any fun e => !e.2.leaving) = false :=
    List.any_eq_false.mpr fun e he => by rw [hleave e he]; exact Bool.false_ne_true
  rw [hok, hpin, hany, letAll_none (fun _ _ => rfl) _ hchans]
  rfl

theorem partitionResize_stays (hok : s.resizeOk pid x0 y0 w h = true) (hleave : ∀ e ∈ s.removedQuads pid x0 y0 w h, e.2.leaving = true)
    (hpin : s.pinnedOn pid (s.removedQuads pid x0 y0 w h) ≠ [])
    (hmoving : ∀ tk ∈ s.pinnedOn pid (s.removedQuads pid x0 y0 w h), (s.slot tk).st = .moving) :
    exec (.partitionResize pid x0 y0 w h) s = .next s := by
  have hany : ((s.removedQuads pid x0 y0 w h).any fun e => !e.2.leaving) = false :=
    List.any_eq_false.mpr fun e he => by rw [hleave e he]; exact Bool.false_ne_true
  have hrest : ((s.pinnedOn pid (s.removedQuads pid x0 y0 w h)).filter fun tk => decide ((s.slot tk).st ≠ .moving)) = [] :=
    List.filter_eq_nil_iff.mpr fun tk htk => by simp [hmoving tk htk]
  have hsome : (s.pinnedOn pid (s.removedQuads pid x0 y0 w h)).isEmpty = false := by simpa using hpin
  show event s _ = _
  dsimp only
  rw [hok, hrest, hany, hsome]
  rfl

theorem partitionResize_refused (hok : s.resizeOk pid x0 y0 w h = false) (hleave : ∀ e ∈ s.removedQuads pid x0 y0 w h, e.2.leaving = false) :
    exec (.partitionResize pid x0 y0 w h) s = .next s := by
  have hany : ((s.removedQuads pid x0 y0 w h).any fun e => e.2.leaving) = false :=
    List.any_eq_false.mpr fun e he => by rw [hleave e he]; exact Bool.false_ne_true
  show event s _ = _
  dsimp only
  rw [hok, hany]
  rfl

theorem partitionResize_begins (hok : s.resizeOk pid x0 y0 w h = true) (hleave : ∃ e ∈ s.removedQuads pid x0 y0 w h, e.2.leaving = false) :
    ∃ t, exec (.partitionResize pid x0 y0 w h) s = .next t ∧ t.changes = s.changes
      ∧ ∀ e ∈ s.removedQuads pid x0 y0 w h, t.goesFrom pid e.1 := by
  obtain ⟨e0, he0, hstay⟩ := hleave
  have hany : ((s.removedQuads pid x0 y0 w h).any fun e => !e.2.leaving) = true := List.any_eq_true.mpr ⟨e0, he0, by rw [hstay]; rfl⟩
  have hmoves (l : List Nat) (u : State) : u.sameQuads (l.foldl (fun t tk =>
      t.beginMove { thr := tk, issuer := none, addr := 0, restore := false, dbl := true }) u) := by
    induction l generalizing u with
    | nil => exact ⟨rfl, rfl⟩
    | cons tk l ih => exact (u.sameQuads_beginMove _).trans (ih _)
  let gone := (s.removedQuads pid x0 y0 w h).map fun e => e.1
  let rest := (s.pinnedOn pid (s.removedQuads pid x0 y0 w h)).filter fun tk => decide ((s.slot tk).st ≠ .moving)
  obtain ⟨hquads, hchanges⟩ := hmoves rest (s.setLeaving pid gone true)
  refine ⟨_, event_some (t := rest.foldl (fun t tk =>
      t.beginMove { thr := tk, issuer := none, addr := 0, restore := false, dbl := true }) (s.setLeaving pid gone true)) ?_,
    hchanges.trans (s.changes_setLeaving pid true gone), fun e he c hc => ?_⟩
  · dsimp only
    rw [hok, hany, Bool.or_true]
    rfl
  · rw [State.quad, hquads] at hc
    exact State.goesFrom_setLeaving pid gone s e.1 (.inr (List.mem_map_of_mem he)) c hc
end

/-! ## The context swap -/

/-- A state keeps another's slots, and what each quad's shadow storage holds. -/
def State.shadowsOnly (s t : State) : Prop := t.slots = s.slots ∧ ∀ n, (t.quad n).shadow = (s.quad n).shadow

theorem State.shadowsOnly.trans {s t u : State} (h : s.shadowsOnly t) (k : t.shadowsOnly u) : s.shadowsOnly u :=
  ⟨k.1.trans h.1, fun n => (k.2 n).trans (h.2 n)⟩

theorem State.shadowsOnly_foldl {α : Type} {f : State → α → State} (hf : ∀ (t : State) (a : α), t.shadowsOnly (f t a)) (s : State)
    (xs : List α) : s.shadowsOnly (xs.foldl f s) :=
  List.foldlRecOn (motive := fun t => s.shadowsOnly t) _ _ ⟨rfl, fun _ => rfl⟩ fun t h a _ => h.trans (hf t a)

theorem State.shadowsOnly_writeChunks (s : State) (ks : List Nat) (bs : List Byte) : s.shadowsOnly (s.writeChunks ks bs) := by
  induction ks generalizing s bs with
  | nil => exact ⟨rfl, fun _ => rfl⟩
  | cons k ks ih =>
    have hr : s.shadowsOnly (s.recallLines k 8) := by
      unfold State.recallLines
      split
      · exact ⟨rfl, fun _ => rfl⟩
      · refine State.shadowsOnly_foldl (fun t i => ?_) s _
        exact ⟨rfl, fun _ => rfl⟩
    exact (hr.trans ⟨rfl, fun _ => rfl⟩).trans (ih _ _)

theorem State.shadowsOnly_writeImage (s : State) (tk pid n : Nat) (x : Slot) : s.shadowsOnly (s.writeImage tk pid n x) := by
  refine ⟨(s.savedOnly_writeImage tk pid n x).1, ?_⟩
  unfold State.writeImage State.engineWrite
  generalize saveAddr pid n = a
  generalize x.image n pid x.pc = bs
  cases s.engineKeys tk pid permW a (bs.length / 8) with
  | error e => exact fun n => rfl
  | ok ks =>
    intro n
    obtain ⟨fl, hfl⟩ := (s.fillOnly_engineFill tk pid permW a bs.length).2 n
    exact ((State.shadowsOnly_writeChunks _ ks bs).2 n).trans (by rw [hfl])

theorem State.shadowsOnly_saveSlots (s : State) (qi : Nat) (c : Ctx) : s.shadowsOnly (s.saveSlots qi c) := by
  refine State.shadowsOnly_foldl (fun t n => ?_) s _
  dsimp only
  split
  · exact ⟨rfl, fun _ => rfl⟩
  · exact t.shadowsOnly_writeImage _ _ _ _

theorem State.ripAll_none {s : State} {qi : Nat} (h : ∀ n < 32, (s.slot (qi * 32 + n)).optimistic = false) : s.ripAll qi = s := by
  have hfold (l : List Nat) (hl : ∀ n ∈ l, n < 32) :
      l.foldl (fun t n => if (t.slot (qi * 32 + n)).optimistic && decide ((t.slot (qi * 32 + n)).st ≠ .free) then
        t.rip (qi * 32 + n) false else t) s = s := by
    induction l with
    | nil => rfl
    | cons n l ih =>
      rw [List.foldl_cons, h n (hl n List.mem_cons_self)]
      exact ih fun m hm => hl m (List.mem_cons_of_mem _ hm)
  exact hfold (List.range 32) fun n hn => List.mem_range.mp hn

theorem State.abandonAll_none {s : State} {qi : Nat} (h : ∀ n < 32, ∀ z, (s.slot (qi * 32 + n)).st ≠ .blocked z) : s.abandonAll qi = s := by
  have hfold {f : State → Nat → State} (hf : ∀ n < 32, f s n = s) (l : List Nat) (hl : ∀ n ∈ l, n < 32) : l.foldl f s = s := by
    induction l with
    | nil => rfl
    | cons n l ih =>
      rw [List.foldl_cons, hf n (hl n List.mem_cons_self)]
      exact ih fun m hm => hl m (List.mem_cons_of_mem _ hm)
  unfold State.abandonAll
  refine hfold (fun n hn => ?_) _ fun n hn => List.mem_range.mp hn
  split
  · next z hz => exact absurd hz (h n hn z)
  · rfl

theorem State.wakesLand_none {s : State} {qi : Nat} (h : ∀ tk ∈ s.wakes, quadOf tk ≠ qi) : s.wakesLand qi = s := by
  have hhere : (s.wakes.filter fun tk => decide (quadOf tk = qi)) = [] := List.filter_eq_nil_iff.mpr fun tk htk => by simpa using h tk htk
  have hleft : (s.wakes.filter fun tk => decide (quadOf tk ≠ qi)) = s.wakes := List.filter_eq_self.mpr fun tk htk => by simpa using h tk htk
  rw [State.wakesLand, hhere, hleft]
  rfl

/-- The slots of a list come into a quad, one by one. -/
theorem State.slot_enterSlots {f : State → Slot × Nat → State} {g : Slot → Slot → Slot} {b : Nat}
    (hf : ∀ s e, f s e = s.updSlot (b + e.2) (g e.1)) (xs : List Slot) (k : Nat) (s : State) (n : Nat) :
    (((xs.zipIdx k).foldl f s).slot (b + n)) = (if k ≤ n then xs[n - k]? else none).elim (s.slot (b + n)) fun x => g x (s.slot (b + n)) := by
  induction xs generalizing k s with
  | nil => simp
  | cons x xs ih =>
    rw [List.zipIdx_cons, List.foldl_cons, ih, hf]
    dsimp only
    by_cases hk : n = k
    · subst hk
      rw [if_neg (by omega), if_pos (Nat.le_refl _), Nat.sub_self, State.slot_updSlot_same]
      rfl
    · rw [State.slot_updSlot_ne _ _ _ _ (by omega)]
      by_cases hkn : k ≤ n
      · have hsub : n - k = (n - (k + 1)) + 1 := by omega
        rw [if_pos (show k + 1 ≤ n by omega), if_pos hkn, hsub, List.getElem?_cons_succ]
      · rw [if_neg (by omega), if_neg hkn]

theorem State.quads_foldl {α : Type} {f : State → α → State} (hf : ∀ (t : State) (a : α), (f t a).quads = t.quads) (xs : List α) (s : State) :
    (xs.foldl f s).quads = s.quads :=
  List.foldlRecOn (motive := fun t => t.quads = s.quads) _ _ rfl fun t h a _ => (hf t a).trans h

/-- What a quad keeps of the context that enters it. -/
def State.entering (s : State) (qi pid : Nat) : Saved := ((s.quad qi).shadow.find? fun v => decide (v.pid = pid)).getD (Saved.fresh pid)

/-- A quad that has what it kept of the entering context. -/
def Quad.entered (q : Quad) (enter : Saved) (pid : Nat) : Quad :=
  { q with ltab := enter.ltab, barmask := enter.barmask, arrived := enter.arrived, halted := enter.halted, brkArm := enter.brkArm
           shadow := q.shadow.filter fun v => decide (v.pid ≠ pid) }

/-- The cores of the entering context come back. -/
def State.enterCores (s : State) (qi : Nat) (enter : Saved) : State :=
  enter.cores.zipIdx.foldl (fun t e => t.updCore (qi * 4 + e.2) fun now => { e.1 with cycle := now.cycle, l1 := now.l1 }) s

/-- One slot of the entering context comes back. -/
def State.enterSlot (qi : Nat) (s : State) (e : Slot × Nat) : State :=
  s.updSlot (qi * 32 + e.2) fun now => { e.1 with faultTag := now.faultTag + 1, next := now.next }

theorem State.enterContext_eq (s : State) (qi pid : Nat) : s.enterContext qi pid = (s.entering qi pid).slots.zipIdx.foldl (State.enterSlot qi)
    ((s.updQuad qi fun q => q.entered (s.entering qi pid) pid).enterCores qi (s.entering qi pid)) := rfl

/-- A state keeps another's quads and memory. -/
def State.quadsStand (s t : State) : Prop := t.quads = s.quads ∧ t.mem = s.mem

theorem State.quadsStand_foldl {α : Type} {f : State → α → State} (hf : ∀ (t : State) (a : α), t.quadsStand (f t a)) (xs : List α) (s : State) :
    s.quadsStand (xs.foldl f s) :=
  List.foldlRecOn (motive := fun t => s.quadsStand t) _ _ ⟨rfl, rfl⟩ fun t h a _ => ⟨(hf t a).1.trans h.1, (hf t a).2.trans h.2⟩

/-- A context that enters a quad: its half of shadow storage goes. -/
theorem State.enterContext_quad (s : State) (qi pid : Nat) :
    (s.enterContext qi pid).quad qi = (s.quad qi).entered (s.entering qi pid) pid ∧ (s.enterContext qi pid).mem = s.mem := by
  rw [State.enterContext_eq]
  generalize s.entering qi pid = enter
  have hcores : (s.updQuad qi fun q => q.entered enter pid).quadsStand ((s.updQuad qi fun q => q.entered enter pid).enterCores qi enter) := by
    unfold State.enterCores
    refine State.quadsStand_foldl (fun _ _ => ?_) _ _
    exact ⟨rfl, rfl⟩
  have hslots := State.quadsStand_foldl (f := State.enterSlot qi) (fun _ _ => ⟨rfl, rfl⟩) enter.slots.zipIdx
    ((s.updQuad qi fun q => q.entered enter pid).enterCores qi enter)
  obtain ⟨hquads1, hmem1⟩ := hcores
  obtain ⟨hquads2, hmem2⟩ := hslots
  refine ⟨?_, hmem2.trans hmem1⟩
  rw [State.quad, hquads2, hquads1]
  exact State.quad_updQuad_same ..

/-- A context that enters a quad: its slots come back. -/
theorem State.enterContext_slot (s : State) {qi pid n : Nat} {x : Slot} (hx : (s.entering qi pid).slots[n]? = some x) :
    ((s.enterContext qi pid).slot (qi * 32 + n)).pc = x.pc ∧ ((s.enterContext qi pid).slot (qi * 32 + n)).st = x.st
      ∧ ((s.enterContext qi pid).slot (qi * 32 + n)).t = x.t := by
  rw [State.enterContext_eq]
  generalize s.entering qi pid = enter at hx
  have hslot := State.slot_enterSlots (f := State.enterSlot qi) (b := qi * 32)
    (g := fun y now => { y with faultTag := now.faultTag + 1, next := now.next }) (fun _ _ => rfl)
    enter.slots 0 ((s.updQuad qi fun q => q.entered enter pid).enterCores qi enter) n
  rw [if_pos (Nat.zero_le n), Nat.sub_zero, hx] at hslot
  rw [hslot]
  exact ⟨rfl, rfl, rfl⟩

/-- The state of a quad whose context has left: its image is in shadow storage. -/
def State.swappedOut (s : State) (qi : Nat) (c0 c1 : Ctx) : State :=
  s.setQuad qi { s.quad qi with ctxs := [c1, c0], swapping := false
                                shadow := ((s.quad qi).shadow.filter fun v => decide (v.pid ≠ c0.pid)) ++ [s.saved qi c0.pid] }

section
variable {s : State} {qi : Nat} {c0 c1 : Ctx} (hqi : qi < 2304) (hctxs : (s.quad qi).ctxs = [c0, c1]) (hwhole : (s.quad qi).contained = false)
include hqi hctxs hwhole

theorem contextSwap_begins (hswap : (s.quad qi).swapping = false) :
    exec (.contextSwap qi) s = .next ((s.updQuad qi fun q => { q with swapping := true }).ripAll qi) := by
  refine unitEvent_some (decide_eq_true hqi) ?_
  rw [hctxs]
  dsimp only
  rw [hwhole, hswap]
  rfl

theorem contextSwap_ends (hswap : (s.quad qi).swapping = true) (hready : s.swapReady qi = true) (hgangs : (s.quad qi).gangs = [])
    (hblocked : ∀ n < 32, ∀ z, (s.slot (qi * 32 + n)).st ≠ .blocked z) (hwakes : ∀ tk ∈ s.wakes, quadOf tk ≠ qi)
    (hchans : ∀ e ∈ (s.quad qi).chans, e.pid ≠ c0.pid)
    (hquiet : ∀ c < 4, (s.core (qi * 4 + c)).fifo = [] ∧ (s.core (qi * 4 + c)).slice.ops = []) :
    exec (.contextSwap qi) s = .next (((s.saveSlots qi c0).swappedOut qi c0 c1).enterContext qi c1.pid) := by
  refine unitEvent_some (decide_eq_true hqi) ?_
  have hq : ((List.range 4).all fun c => (s.core (qi * 4 + c)).fifo.isEmpty && (s.core (qi * 4 + c)).slice.ops.isEmpty) = true :=
    List.all_eq_true.mpr fun c hc => by
      obtain ⟨hfifo, hops⟩ := hquiet c (List.mem_range.mp hc)
      rw [hfifo, hops]
      rfl
  rw [hctxs]
  dsimp only
  rw [hwhole, hswap, State.abandonAll_none hblocked, hready, hq, hgangs, State.wakesLand_none hwakes, State.letChans_none hchans]
  rfl

end

section
variable {s u : State} {qi : Nat} {c0 c1 : Ctx}

theorem State.quad_swappedOut (u : State) : (u.swappedOut qi c0 c1).quad qi
    = { u.quad qi with ctxs := [c1, c0], swapping := false
                       shadow := ((u.quad qi).shadow.filter fun v => decide (v.pid ≠ c0.pid)) ++ [u.saved qi c0.pid] } :=
  State.quad_setQuad_same _ _ _

variable (hu : s.shadowsOnly u) (hpid : c0.pid ≠ c1.pid)
include hu hpid

/-- A swap leaves the leaving context's slots in shadow storage. -/
theorem State.swappedOut_shadow : ∃ v ∈ (((u.swappedOut qi c0 c1).enterContext qi c1.pid).quad qi).shadow,
      v.pid = c0.pid ∧ v.slots = (List.range 32).map fun n => s.slot (qi * 32 + n) := by
  obtain ⟨hslots, _⟩ := hu
  obtain ⟨hquad, _⟩ := (u.swappedOut qi c0 c1).enterContext_quad qi c1.pid
  refine ⟨u.saved qi c0.pid, ?_, rfl, ?_⟩
  · rw [hquad, Quad.entered, State.quad_swappedOut]
    exact List.mem_filter.mpr ⟨List.mem_append_right _ (List.mem_singleton.mpr rfl), decide_eq_true hpid⟩
  · simp only [State.saved, State.slot, hslots]

/-- What enters is the other half of shadow storage. -/
theorem State.swappedOut_entering {v1 : Saved} (hv1 : (s.quad qi).shadow = [v1]) (hp : v1.pid = c1.pid) :
    (u.swappedOut qi c0 c1).entering qi c1.pid = v1 := by
  obtain ⟨_, hshadow⟩ := hu
  have hstay : ([v1].filter fun v => decide (v.pid ≠ c0.pid)) = [v1] :=
    List.filter_eq_self.mpr fun v hv => by
      rw [List.mem_singleton.mp hv, hp]
      exact decide_eq_true (Ne.symm hpid)
  rw [State.entering, State.quad_swappedOut]
  dsimp only
  rw [hshadow, hv1, hstay, List.singleton_append, List.find?_cons_of_pos (by simpa using hp)]
  rfl
end

/-! ## Freezing, and panel reset -/

/-- A region named by a freeze command is frozen (R383). -/
def State.freezeRegion (regions : BitVec 16) (s : State) (r : Nat) : State :=
  if regions.getLsbD r then s.updRegion r fun g => { g with frozen := true } else s

theorem State.freezeRegions_keeps (regions : BitVec 16) (l : List Nat) (s : State) :
    (∀ n, ((l.foldl (State.freezeRegion regions) s).region n).frozen = ((l.contains n && regions.getLsbD n) || (s.region n).frozen))
      ∧ (l.foldl (State.freezeRegion regions) s).slots = s.slots ∧ (l.foldl (State.freezeRegion regions) s).mem = s.mem := by
  induction l generalizing s with
  | nil => exact ⟨fun n => rfl, rfl, rfl⟩
  | cons r l ih =>
    obtain ⟨hfrozen, hslots, hmem⟩ := ih (State.freezeRegion regions s r)
    rw [List.foldl_cons]
    have hkeep : (State.freezeRegion regions s r).slots = s.slots ∧ (State.freezeRegion regions s r).mem = s.mem := by
      unfold State.freezeRegion
      split <;> exact ⟨rfl, rfl⟩
    refine ⟨fun n => ?_, hslots.trans hkeep.1, hmem.trans hkeep.2⟩
    have hone : ((State.freezeRegion regions s r).region n).frozen = ((n == r && regions.getLsbD n) || (s.region n).frozen) := by
      unfold State.freezeRegion
      by_cases hn : n = r
      · subst hn
        by_cases hb : regions.getLsbD n = true
        · rw [if_pos hb, State.region_updRegion_same, hb]
          simp
        · rw [if_neg hb]
          simp [hb]
      · by_cases hb : regions.getLsbD r = true
        · rw [if_pos hb, State.region_updRegion_ne _ _ _ _ hn]
          simp [hn]
        · rw [if_neg hb]
          simp [hn]
    rw [hfrozen n, hone, List.contains_cons]
    cases n == r <;> cases l.contains n <;> cases regions.getLsbD n <;> simp

theorem freezeCommand_keeps (s : State) (regions : BitVec 16) : ∃ t, exec (.freezeCommand regions) s = .next t
    ∧ (∀ n < 16, (t.region n).frozen = (regions.getLsbD n || (s.region n).frozen)) ∧ t.slots = s.slots ∧ t.mem = s.mem := by
  obtain ⟨hfrozen, hslots, hmem⟩ := State.freezeRegions_keeps regions (List.range 16) s
  refine ⟨_, rfl, fun n hn => ?_, hslots, hmem⟩
  refine (hfrozen n).trans ?_
  rw [List.contains_iff_mem.mpr (List.mem_range.mpr hn), Bool.true_and]

/-- A state differs from another in its regions alone. -/
def State.regionsOnly (s t : State) : Prop := ∃ rg, t = { s with regions := rg }

theorem State.regionsOnly_foldl {α : Type} {f : State → α → State} {s : State} (hf : ∀ t a, s.regionsOnly t → s.regionsOnly (f t a))
    (l : List α) : s.regionsOnly (l.foldl f s) :=
  List.foldlRecOn (motive := fun t => s.regionsOnly t) _ _ ⟨s.regions, rfl⟩ fun t h a _ => hf t a h

/-- Without partitions a new grade concerns the region alone. -/
theorem State.regionsOnly_regrade {s t : State} {r : Nat} (hparts : s.parts = []) (h : s.regionsOnly t) : s.regionsOnly (t.regrade r) := by
  obtain ⟨rg, rfl⟩ := h
  have hone : ({ s with regions := rg } : State).regrade r
      = ({ s with regions := rg } : State).updRegion r fun x => { x with grade := ({ s with regions := rg } : State).grade r } := by
    unfold State.regrade
    dsimp only
    rw [show (({ s with regions := rg } : State).updRegion r fun x => { x with grade := ({ s with regions := rg } : State).grade r }).parts = []
      from hparts]
    rfl
  rw [hone]
  exact ⟨_, rfl⟩

/-- The machine of a panel reset before its counters and grades are set. -/
def State.panelBase (s : State) (quads : FMap Quad) (colmap : FMap (BitVec 12)) : State :=
  { State.reset with
    panel := { number := s.panel.number, serial := s.panel.serial, steppingLetter := s.panel.steppingLetter
               steppingDigit := s.panel.steppingDigit, fuse := s.panel.fuse, log := s.panel.log, colmap }
    quads, cur := s.cur, sched := s.sched, free := s.free, ids := s.ids, mem := s.mem.filter fun c => decide (2 ^ 64 ≤ c.1) }

/-- The quads of a panel reset, as the panel's records have them. -/
def Panel.bootQuads (p : Panel) (l : List Nat) (m : FMap Quad) : FMap Quad := l.foldl (fun m qi => FMap.set {} m qi { st := p.bootState qi }) m

theorem Panel.get_bootQuads (p : Panel) {qi : Nat} (l : List Nat) (m : FMap Quad) :
    (FMap.get {} (p.bootQuads l m) qi).st = if qi ∈ l then p.bootState qi else (FMap.get {} m qi).st := by
  induction l generalizing m with
  | nil => rfl
  | cons n l ih =>
    refine (ih _).trans ?_
    by_cases hl : qi ∈ l
    · rw [if_pos hl, if_pos (List.mem_cons_of_mem _ hl)]
    · rw [if_neg hl, FMap.get_set]
      by_cases hn : qi = n
      · rw [if_pos hn, if_pos (List.mem_cons.mpr (.inl hn)), hn]
      · rw [if_neg hn, if_neg fun h => (List.mem_cons.mp h).elim hn hl]

theorem FMap.get_filter_none {α : Type} (d : α) {p : Nat × α → Bool} {k : Nat} (hp : ∀ v, p (k, v) = false) (m : FMap α) :
    FMap.get d (m.filter p) k = d := by
  induction m with
  | nil => rfl
  | cons e rest ih =>
    obtain ⟨a, v⟩ := e
    rw [List.filter_cons]
    split
    · rename_i ha
      rw [FMap.get, if_neg, ih]
      rintro rfl
      rw [hp v] at ha
      exact nomatch ha
    · exact ih

/-- The regions of a panel reset: their counters begin, and their grades are set. -/
theorem State.regionsOnly_boot {b : State} (hparts : b.parts = []) (l : List Nat) :
    b.regionsOnly (l.foldl (fun t r => t.regrade r) (l.foldl (fun v r => v.updRegion r fun g => g.started r) b)) := by
  have hstart : b.regionsOnly (l.foldl (fun v r => v.updRegion r fun g => g.started r) b) := by
    refine State.regionsOnly_foldl (fun t r h => ?_) _
    obtain ⟨rg, rfl⟩ := h
    exact ⟨_, rfl⟩
  exact List.foldlRecOn (motive := fun t => b.regionsOnly t) _ _ hstart fun t h r _ => State.regionsOnly_regrade hparts h

theorem execPanelReset_eq (s : State) : execPanelReset s = .next ((List.range 16).foldl (fun t r => t.regrade r)
    ((List.range 16).foldl (fun v r => v.updRegion r fun g => g.started r)
      (s.panelBase (s.panel.bootQuads (List.range 2304) []) s.panel.bootMap))) := by
  simp only [execPanelReset, State.panelBase, Panel.bootQuads]

theorem panelReset_regions (s : State) : ∃ rg, exec .panelReset s
    = .next { s.panelBase (s.panel.bootQuads (List.range 2304) []) s.panel.bootMap with regions := rg } := by
  have hrun : exec .panelReset s = _ := execPanelReset_eq s
  have hparts : (s.panelBase (s.panel.bootQuads (List.range 2304) []) s.panel.bootMap).parts = [] := rfl
  generalize s.panelBase (s.panel.bootQuads (List.range 2304) []) s.panel.bootMap = b at hrun hparts ⊢
  obtain ⟨rg, hrg⟩ := State.regionsOnly_boot hparts (List.range 16)
  exact ⟨rg, by rw [hrun, hrg]⟩

theorem panelReset_leaves (s : State) {qi : Nat} (hqi : qi < 2304) : ∃ t, exec .panelReset s = .next t ∧ t.slots = [] ∧ t.parts = []
    ∧ t.flights = [] ∧ t.msgs = [] ∧ t.panel.frozen = false ∧ t.panel.log = s.panel.log ∧ t.panel.colmap = s.panel.bootMap
    ∧ (t.quad qi).st = s.panel.bootState qi ∧ ∀ j < 2 ^ 64, memByte t.mem j = 0 := by
  obtain ⟨rg, hrun⟩ := panelReset_regions s
  have hquad := s.panel.get_bootQuads (qi := qi) (List.range 2304) []
  rw [if_pos (List.mem_range.mpr hqi)] at hquad
  have hmem (j : Nat) (hj : j < 2 ^ 64) : memByte (s.mem.filter fun c => decide (2 ^ 64 ≤ c.1)) j = 0 :=
    FMap.get_filter_none 0 (fun v => decide_eq_false (Nat.not_le.mpr hj)) s.mem
  generalize s.panel.bootQuads (List.range 2304) [] = qs at hrun hquad
  exact ⟨_, hrun, rfl, rfl, rfl, rfl, rfl, rfl, rfl, hquad, hmem⟩

theorem step_stepLimit {s : State} {r : Nat} {limit : BitVec 16} {rest : List Turn} (hr : r < 16) (hs : s.sched = .stepLimit r limit :: rest) :
    step s = .next (({ s with sched := rest } : State).updRegion r fun g => { g with steplim := limit }) := by
  have hok : regionOk r = true := decide_eq_true hr
  rw [step, hs]
  show stepLimitTurn _ r limit = _
  rw [stepLimitTurn, hok]
  rfl

end Sys2Proof.Machine

open Sys2Proof Sys2Proof.Machine

/-- Settles O50: a containment changes what it reads of the map nowhere but at the quad that fails, and each of the other events is a
single change of the state, given by a lemma of its own. -/
theorem recoveryAndPower : Obligations.RecoveryAndPower := by
  unfold Obligations.RecoveryAndPower
  intro s qi core r pid x0 y0 w h blk k unit sig regions limit time f c0 c1 v1 rest hqi hcore hr q spare contains gone installed
  have hcontain (i : Instr) (st : QuadSt) (det : Nat) (hi : exec i s = .next (s.contain qi det (if det = 3 then 0 else core)))
      (hwhole : q.contained = false) (hst : st = if det = 3 then .dead else if q.st = .healthy then .memoryOnly else q.st) :
      contains i st (if det = 3 then 5 else core) := by
    obtain ⟨hcontained, hstate, hslots, hlog, hchanges⟩ := State.contain_of_whole hwhole (rfl : s.contain qi det (if det = 3 then 0 else core) = _)
    refine ⟨_, hi, hcontained, hstate.trans hst.symm, hslots, ⟨_, hlog, rfl, ?_, rfl⟩, hchanges⟩
    dsimp only
    split <;> rfl
  refine ⟨fun hwhole => ?_, fun px l c hn => nearest_least hn, unitEvent_some (decide_eq_true hqi) rfl, ?_, ?_, ?_, ?_, ?_, ?_, ?_, ?_, ?_,
    rfl, freezeCommand_keeps s regions, panelReset_leaves s hqi⟩
  · have hok : (quadOk qi && decide (core < 4)) = true := by simp [quadOk, hqi, hcore]
    exact ⟨hcontain _ _ 0 (unitEvent_some hok rfl) hwhole rfl, hcontain _ _ 1 (unitEvent_some hok rfl) hwhole rfl,
      hcontain _ _ 3 (unitEvent_some (decide_eq_true hqi) rfl) hwhole rfl⟩
  · exact fun hs hf hmoved hblk hnext => shareFillBlock_moves hqi hs hf hmoved hblk hnext
  · exact fun hf hk hnext => State.noteBlock_next hf hk hnext
  · intro hok
    refine ⟨fun hgone => ?_, fun hleave => partitionResize_begins hok hleave, fun hleave => ⟨?_, ?_⟩⟩
    · have hnone (e) (he : e ∈ s.removedQuads pid x0 y0 w h) : False := List.not_mem_nil (by rw [show s.removedQuads pid x0 y0 w h = [] from hgone] at he; exact he)
      exact partitionResize_installs hok (fun e he => (hnone e he).elim) (by rw [show s.removedQuads pid x0 y0 w h = [] from hgone]; rfl)
        fun e he => (hnone e he).elim
    · exact fun hpin hmoving => partitionResize_stays hok hleave hpin hmoving
    · exact fun hpin hchans => partitionResize_installs hok hleave hpin hchans
  · exact fun hok hleave => partitionResize_refused hok hleave
  · exact fun hs => step_stepLimit hr hs
  · intro hctxs hpid hwhole
    refine ⟨contextSwap_begins hqi hctxs hwhole, State.ripAll_none, fun hswap hready hgangs hblocked hwakes hchans hquiet => ?_⟩
    have hsaved := s.shadowsOnly_saveSlots qi c0
    refine ⟨_, contextSwap_ends hqi hctxs hwhole hswap hready hgangs hblocked hwakes hchans hquiet, ?_, ?_, ?_,
      State.swappedOut_shadow hsaved hpid, fun hv1 hp hlen n hn => ?_⟩
    all_goals generalize s.saveSlots qi c0 = u at hsaved
    · exact (congrArg Quad.ctxs ((u.swappedOut qi c0 c1).enterContext_quad qi c1.pid).1).trans (congrArg Quad.ctxs (State.quad_swappedOut u))
    · exact (congrArg Quad.swapping ((u.swappedOut qi c0 c1).enterContext_quad qi c1.pid).1).trans (congrArg Quad.swapping (State.quad_swappedOut u))
    · exact ((u.swappedOut qi c0 c1).enterContext_quad qi c1.pid).2
    · have hx : v1.slots[n]? = some v1.slots[n] := List.getElem?_eq_getElem (by omega)
      exact ⟨_, hx, State.enterContext_slot _ (by rw [State.swappedOut_entering hsaved hpid hv1 hp]; exact hx)⟩
  · show unitEvent (quadOk qi) qi s _ = _
    rw [unitEvent, if_pos (show quadOk qi = true from decide_eq_true hqi), event]
    split <;> rfl
  · intro hact
    refine unitEvent_some (decide_eq_true hr) ?_
    rw [hact]
    rfl
  · exact unitEvent_some (decide_eq_true hr) rfl
end

section
/-! SUPPORT. What keeps memory and the levels: the claims that are carried through every operation of the model (memory stays canonical,
R3, R250; PL of STATUS rises in no slot, or only where a trap is entered, R96), and the rules of the state's own updates. -/

namespace Sys2Proof.Machine

/-- From one state to another memory stays canonical, and PL of STATUS rises in no slot. -/
def State.tame (s t : State) : Prop := (s.Wf → t.Wf) ∧ ∀ tk, (t.slot tk).pl = true → (s.slot tk).pl = true

/-- A trap was entered in a slot, and was not left (R96). -/
def State.trapEntered (s t : State) (tk : Nat) : Prop :=
  (s.slot tk).exl = false ∧ (t.slot tk).exl = true ∧ (t.slot tk).pc = (s.slot tk).sr.tvec

/-- From one state to another memory stays canonical, and PL of STATUS rises in no slot but where a trap was entered. -/
def State.kept (s t : State) : Prop := (s.Wf → t.Wf) ∧ ∀ tk, (t.slot tk).pl = true → (s.slot tk).pl = true ∨ s.trapEntered t tk

/-- The same of what an instruction or an event answers. -/
def State.keepsR (s : State) (r : Res) : Prop := ∀ t, r = .next t → s.kept t

/-- The same of the state that an event may give. -/
def State.tameO (s : State) (o : Option State) : Prop := ∀ t, o = some t → s.tame t

/-- The same of the state beside a value. -/
def State.tameP {α : Type} (s : State) (o : Option (α × State)) : Prop := ∀ r, o = some r → s.tame r.2

/-- The same of the state that an engine may give. -/
def State.tameE {α : Type} (s : State) (o : Except α State) : Prop := ∀ t, o = .ok t → s.tame t

/-- The same of what a head leaves, when it is performed. -/
def State.tameA (s : State) : Act → Prop
  | .next t | .goto t _ => s.tame t
  | .keep t => s.kept t
  | _ => True

/-- The same of what a vector-unit head does in place of entering the queue. -/
def State.tameV (s : State) : Act ⊕ (VDest × Option (BitVec 32)) → Prop
  | .inl a => s.tameA a
  | .inr _ => True

/-- From one state to another memory stays canonical, and PL rises in no slot but one. -/
def State.keptBut (s t : State) (k : Nat) : Prop := (s.Wf → t.Wf) ∧ ∀ tk, tk ≠ k → (t.slot tk).pl = true → (s.slot tk).pl = true

theorem State.tame.self {s : State} : s.tame s := ⟨id, fun _ => id⟩

theorem State.tame.kept {s t : State} (h : s.tame t) : s.kept t := ⟨h.1, fun tk p => .inl (h.2 tk p)⟩

theorem State.Wf.of {s t : State} (h : s.tame t) (w : s.Wf) : t.Wf := h.1 w

theorem State.Wf.setSlot {t : State} {k : Nat} {x : Slot} (w : t.Wf) : (t.setSlot k x).Wf := w
theorem State.Wf.updSlot {t : State} {k : Nat} {f : Slot → Slot} (w : t.Wf) : (t.updSlot k f).Wf := w
theorem State.Wf.updMe {t : State} {f : Slot → Slot} (w : t.Wf) : (t.updMe f).Wf := w

theorem State.Wf.ite {s t : State} {c : Prop} [Decidable c] (h : s.Wf) (k : t.Wf) : (if c then s else t).Wf := by
  split
  · exact h
  · exact k

theorem State.Wf.folds {α : Type} {s : State} {f : State → α → State} {l : List α} (h : s.Wf) (hf : ∀ u a, u.Wf → (f u a).Wf) :
    (l.foldl f s).Wf := State.Wf.foldl hf l h

theorem State.tame.trans {s t u : State} (h : s.tame t) (k : t.tame u) : s.tame u := ⟨fun w => k.1 (h.1 w), fun tk p => h.2 tk (k.2 tk p)⟩

/-- A change of every listed slot raises PL in none where it raises it in none of them. -/
theorem pl_of_map {g : Nat × Slot → Nat × Slot} (hg : ∀ e, (g e).1 = e.1 ∧ ((g e).2.pl = true → e.2.pl = true)) (m : FMap Slot) (tk : Nat)
    (p : (FMap.get {} (m.map g) tk).pl = true) : (FMap.get {} m tk).pl = true := by
  induction m with
  | nil => exact p
  | cons e rest ih =>
    obtain ⟨hkey, hlow⟩ := hg e
    rw [List.map_cons, FMap.get, hkey] at p
    rw [FMap.get]
    split at p
    · next he => rw [if_pos he]; exact hlow p
    · next he => rw [if_neg he]; exact ih p

section
variable {s t u : State} (h : s.tame t)
include h

/-- What leaves memory and the slots alone. -/
theorem State.tame.frame (hd : (u.mem, u.fe, u.slots) = (t.mem, t.fe, t.slots)) : s.tame u := by
  obtain ⟨hm, hf, hs⟩ : u.mem = t.mem ∧ u.fe = t.fe ∧ u.slots = t.slots := by simpa using hd
  obtain ⟨hwf, hpl⟩ := h
  refine ⟨fun w => ?_, fun tk => ?_⟩
  · rw [State.Wf, hm, hf]
    exact hwf w
  · rw [State.slot, hs]
    exact hpl tk

theorem State.tame.mem (hw : t.Wf → u.Wf) (hs : u.slots = t.slots) : s.tame u := by
  obtain ⟨hwf, hpl⟩ := h
  refine ⟨fun w => hw (hwf w), fun tk => ?_⟩
  rw [State.slot, hs]
  exact hpl tk

theorem State.tame.setSlot {k : Nat} {x : Slot} (hx : x.pl = true → (t.slot k).pl = true) : s.tame (t.setSlot k x) := by
  refine h.trans ⟨id, fun tk => ?_⟩
  rw [State.slot_setSlot]
  split
  · next hk => rw [hk]; exact hx
  · exact id

theorem State.tame.updSlot {k : Nat} {f : Slot → Slot} (hf : ∀ x : Slot, (f x).pl = true → x.pl = true) : s.tame (t.updSlot k f) := h.setSlot (hf _)

theorem State.tame.frameMap {g : Nat × Slot → Nat × Slot} (hd : (u.mem, u.fe, u.slots) = (t.mem, t.fe, t.slots.map g))
    (hg : ∀ e, (g e).1 = e.1 ∧ ((g e).2.pl = true → e.2.pl = true)) : s.tame u := by
  obtain ⟨hm, hf, hs⟩ : u.mem = t.mem ∧ u.fe = t.fe ∧ u.slots = t.slots.map g := by simpa using hd
  obtain ⟨hwf, hpl⟩ := h
  refine ⟨fun w => ?_, fun tk => ?_⟩
  · rw [State.Wf, hm, hf]
    exact hwf w
  · rw [State.slot, hs]
    exact fun p => hpl tk (pl_of_map hg _ _ p)

theorem State.tame.updMe {f : Slot → Slot} (hf : ∀ x : Slot, (f x).pl = true → x.pl = true) : s.tame (t.updMe f) :=
  h.updSlot hf

theorem State.tame.wrBytes {k : Nat} {bs : List Byte} : s.tame (t.wrBytes k bs) := h.mem (fun w => w.wrBytes k bs) rfl
theorem State.tame.writeW {k : Nat} {bs : List WByte} : s.tame (t.writeW k bs) := h.mem (fun w => w.writeW k bs) rfl
theorem State.tame.scatter {bs : List (Nat × Byte)} : s.tame (t.scatter bs) := h.mem (fun w => w.scatter bs) rfl
theorem State.tame.zeroRange {k n : Nat} : s.tame (t.zeroRange k n) := h.mem (fun w => w.zeroRange k n) rfl
theorem State.tame.setFe {k : Nat} {b : Bool} (hd : (u.mem, u.fe, u.slots) = (t.mem, FMap.set false t.fe k b, t.slots)) : s.tame u := by
  obtain ⟨hm, hf, hs⟩ : u.mem = t.mem ∧ u.fe = FMap.set false t.fe k b ∧ u.slots = t.slots := by simpa using hd
  refine h.mem (fun w => ?_) hs
  rw [State.Wf, hm, hf]
  exact w.setFe k b

theorem State.tame.ite {c : Prop} [Decidable c] (k : s.tame u) : s.tame (if c then t else u) := by
  split
  · exact h
  · exact k

theorem State.tame.foldl {α : Type} {f : State → α → State} {l : List α} (hf : ∀ u a, s.tame u → s.tame (f u a)) : s.tame (l.foldl f t) :=
  List.foldlRecOn (motive := fun t => s.tame t) _ _ h fun u hu a _ => hf u a hu

theorem State.tame.getD {o : Option State} (k : s.tameO o) : s.tame (o.getD t) := by
  cases o with
  | none => exact h
  | some u => exact k u rfl

theorem State.tameO.some : s.tameO (some t) := fun _ e => by
  cases e
  exact h

end

section
variable {s : State} {α : Type}

theorem State.tame.snd {p : α × State} {a : α} {u : State} (e : p = (a, u)) (h : s.tame p.2) : s.tame u := by
  rw [e] at h
  exact h

theorem State.tame.fst {p : State × α} {a : α} {u : State} (e : p = (u, a)) (h : s.tame p.1) : s.tame u := by
  rw [e] at h
  exact h

theorem State.tameE.ok {t : State} (h : s.tame t) : s.tameE (.ok t : Except α State) := fun _ e => by
  cases e
  exact h

theorem State.tameE.error {a : α} : s.tameE (.error a) := fun _ e => nomatch e

theorem State.tameO.none : s.tameO none := fun _ e => nomatch e

theorem State.tameO.guard {c : Prop} [Decidable c] {u : State} (h : s.tame u) : s.tameO (if c then Option.some u else Option.none) := by
  split
  · exact .some h
  · exact .none

theorem State.tameO.ite {c : Prop} [Decidable c] {a b : Option State} (h : s.tameO a) (k : s.tameO b) : s.tameO (if c then a else b) := by
  split
  · exact h
  · exact k

theorem State.tameO.elim {o : Option State} {t : State} (e : o = Option.some t) (h : s.tameO o) : s.tame t := h t e

theorem State.tameO.bind {o : Option α} {f : α → Option State} (hf : ∀ a, o = Option.some a → s.tameO (f a)) : s.tameO (o >>= f) := by
  cases o with
  | none => exact .none
  | some a => exact hf a rfl

theorem State.tameO.thenO {o : Option State} {f : State → Option State} (h : s.tameO o) (hf : ∀ a, s.tame a → s.tameO (f a)) :
    s.tameO (o >>= f) := .bind fun a e => hf a (h a e)

theorem State.tameO.map {o : Option α} {f : α → State} (hf : ∀ a, o = Option.some a → s.tame (f a)) : s.tameO (o.map f) := by
  cases o with
  | none => exact .none
  | some a => exact .some (hf a rfl)

theorem State.tameO.thenMap {o : Option State} {f : State → State} (h : s.tameO o) (hf : ∀ a, s.tame a → s.tame (f a)) :
    s.tameO (o.map f) := .map fun a e => hf a (h a e)

theorem State.tameA.next {t : State} (h : s.tame t) : s.tameA (.next t) := h
theorem State.tameA.goto {t : State} {pc : Word} (h : s.tame t) : s.tameA (.goto t pc) := h
theorem State.tameA.keep {t : State} (h : s.tame t) : s.tameA (.keep t) := h.kept
theorem State.tameA.kept {t : State} (h : s.kept t) : s.tameA (.keep t) := h
theorem State.tameA.trap {c : Nat} {x : Word} : s.tameA (.trap c x) := trivial
theorem State.tameA.trapFree {c : Nat} : s.tameA (.trapFree c) := trivial
theorem State.tameA.trapNext {c : Nat} {x : Word} : s.tameA (.trapNext c x) := trivial
theorem State.tameA.block {w : Wait} : s.tameA (.block w) := trivial
theorem State.tameA.ite {c : Prop} [Decidable c] {a b : Act} (h : s.tameA a) (k : s.tameA b) : s.tameA (if c then a else b) := by
  split
  · exact h
  · exact k

theorem State.tameA.exhaust {k : Nat} {x : Word} : s.tameA (.exhaust k x) := trivial

end

section
variable {s : State}

theorem State.keepsR.next {t : State} (h : s.tame t) : s.keepsR (.next t) := fun _ e => by
  cases e
  exact h.kept

theorem State.keepsR.fault {f : Fault} : s.keepsR (.fault f) := fun _ e => nomatch e
theorem State.keepsR.refused {f : Refusal} : s.keepsR (.refused f) := fun _ e => nomatch e

theorem State.keepsR.event {o : Option State} (h : s.tameO o) : s.keepsR (event s o) := .next (.getD .self h)

theorem State.keepsR.unitEvent {ok : Bool} {n : Nat} {o : Option State} (h : s.tameO o) : s.keepsR (unitEvent ok n s o) := by
  unfold Sys2Proof.Machine.unitEvent
  split
  · exact .event h
  · exact .fault

theorem State.keepsR.kept {t : State} (h : s.kept t) : s.keepsR (.next t) := fun _ e => by
  cases e
  exact h

theorem State.keepsR.unitEventKept {ok : Bool} {n : Nat} {o : Option State} (h : ∀ t, o = some t → s.kept t) :
    s.keepsR (Machine.unitEvent ok n s o) := by
  unfold Sys2Proof.Machine.unitEvent Sys2Proof.Machine.event
  split
  · cases o with
    | none => exact .next .self
    | some t => exact .kept (h t rfl)
  · exact .fault

theorem State.tameV.inl {a : Act} (h : s.tameA a) : s.tameV (.inl a) := h
theorem State.tameV.inr {p : VDest × Option (BitVec 32)} : s.tameV (.inr p) := trivial
theorem State.tameV.vdest {d : VReg} {o : Vec × Vec} : s.tameV (Machine.vdest d o) := trivial

theorem State.keptBut.of {t : State} {k : Nat} (h : s.tame t) : s.keptBut t k := ⟨h.1, fun tk _ => h.2 tk⟩
theorem State.keptBut.setSlot {t : State} {k : Nat} {x : Slot} (h : s.tame t) : s.keptBut (t.setSlot k x) k := by
  obtain ⟨hwf, hpl⟩ := h
  refine ⟨hwf, fun tk hk => ?_⟩
  rw [State.slot_setSlot, if_neg hk]
  exact hpl tk

theorem State.keptBut.tame {t u : State} {k : Nat} (h : s.keptBut t k) (ht : t.tame u) : s.keptBut u k :=
  ⟨fun w => ht.1 (h.1 w), fun tk hk p => h.2 tk hk (ht.2 tk p)⟩

end

/-- A change that leaves memory and the slots alone, after what may have entered a trap. -/
theorem State.kept.frame {s t u : State} (h : s.kept t) (hd : (u.mem, u.fe, u.slots) = (t.mem, t.fe, t.slots)) : s.kept u := by
  obtain ⟨hm, hf, hs⟩ : u.mem = t.mem ∧ u.fe = t.fe ∧ u.slots = t.slots := by simpa using hd
  obtain ⟨hwf, hpl⟩ := h
  refine ⟨fun w => ?_, fun tk => ?_⟩
  · rw [State.Wf, hm, hf]
    exact hwf w
  · rw [State.trapEntered, State.slot, hs]
    exact hpl tk

/-- Every slot's system registers stand. -/
def State.sameSr (s t : State) : Prop := ∀ n, (t.slot n).sr = (s.slot n).sr

section
variable {s t u : State} (h : s.sameSr t)

theorem State.sameSr.self : s.sameSr s := fun _ => Eq.refl _

include h

theorem State.sameSr.updSlot {k : Nat} {f : Slot → Slot} (hf : ∀ x, (f x).sr = x.sr) : s.sameSr (t.updSlot k f) := fun n => by
  rw [State.updSlot, State.slot_setSlot]
  split
  · next hn => rw [hf, hn, h]
  · exact h n

theorem State.sameSr.slots (hs : u.slots = t.slots) : s.sameSr u := fun n => by
  rw [State.slot, hs]
  exact h n

theorem State.sameSr.endCount {tk c : Nat} : s.sameSr (t.endCount tk c) := h.updSlot fun _ => rfl

theorem State.sameSr.dropBarsets {tk : Nat} : s.sameSr (t.dropBarsets tk) := h.slots rfl

theorem State.sameSr.resetRotation {ck : Nat} : s.sameSr (t.resetRotation ck) := by
  unfold State.resetRotation
  split
  · exact h.slots rfl
  · exact h

end

end Sys2Proof.Machine

end

section
/-! SUPPORT. The same of the service messages and the operations that heads share. -/

namespace Sys2Proof.Machine

section
variable {s t : State} (h : s.tame t)
include h

theorem State.tame.setCore {ck : Nat} {x : Core} : s.tame (t.setCore ck x) := .frame h (by rfl)

theorem State.tame.updCore {ck : Nat} {f : Core → Core} : s.tame (t.updCore ck f) := .setCore h

theorem State.tame.setQuad {qi : Nat} {x : Quad} : s.tame (t.setQuad qi x) := .frame h (by rfl)

theorem State.tame.updQuad {qi : Nat} {f : Quad → Quad} : s.tame (t.updQuad qi f) := .setQuad h

theorem State.tame.setPart {pid : Nat} {x : Part} : s.tame (t.setPart pid x) := .frame h (by rfl)

theorem State.tame.updPart {pid : Nat} {f : Part → Part} : s.tame (t.updPart pid f) := .setPart h

theorem State.tame.setRegion {r : Nat} {x : Region} : s.tame (t.setRegion r x) := .frame h (by rfl)

theorem State.tame.updRegion {r : Nat} {f : Region → Region} : s.tame (t.updRegion r f) := .setRegion h

theorem State.tame.setVf {v : Nat} {x : Vf} : s.tame (t.setVf v x) := .frame h (by rfl)

theorem State.tame.updVf {v : Nat} {f : Vf → Vf} : s.tame (t.updVf v f) := .setVf h

theorem State.tame.updPanel {f : Panel → Panel} : s.tame (t.updPanel f) := .frame h (by rfl)

theorem State.tame.updMyCore {f : Core → Core} : s.tame (t.updMyCore f) := .updCore h

theorem State.tame.updMyQuad {f : Quad → Quad} : s.tame (t.updMyQuad f) := .updQuad h

theorem State.tame.takeId : s.tame (t.takeId) := .frame h (by rfl)

theorem State.tame.draw : s.tame (t.draw) := .frame h (by rfl)

theorem State.tame.updSaved {qi pid : Nat} {f : Saved → Saved} : s.tame (t.updSaved qi pid f) := .updQuad h

theorem State.tame.updCoreIn {pid ck : Nat} {f : Core → Core} : s.tame (t.updCoreIn pid ck f) := .ite (.updCore h) (.updSaved h)

theorem State.tame.setDebug {pid qi : Nat} {halt arm : Bool} : s.tame (t.setDebug pid qi halt arm) := .ite (.updQuad h) (.updSaved h)

theorem State.tame.wr {k n v : Nat} : s.tame (t.wr k n v) := .wrBytes h

theorem State.tame.wr8 {k : Nat} {w : Word} : s.tame (t.wr8 k w) := .wr h

theorem State.tame.noteBlock {qi k : Nat} : s.tame (t.noteBlock qi k) := .ite h (.updQuad h)

theorem State.tame.setT {tk r : Nat} {v : Word} : s.tame (t.setT tk r v) := .ite h (.updSlot h (by exact fun _ => id))

theorem State.tame.setC {ck n : Nat} {v : Word} : s.tame (t.setC ck n v) := .updCore h

theorem State.tame.setV {tk r : Nat} {v : Vec} : s.tame (t.setV tk r v) := .ite (.updSlot h (by exact fun _ => id)) (.updCore h)

theorem State.tame.setM {tk r : Nat} {v : Word} : s.tame (t.setM tk r v) := .ite h (.updSlot h (by exact fun _ => id))

theorem State.tame.inject {src dst pid p n lane : Nat} {sid : Option Nat} : s.tame (t.inject src dst pid p n lane sid) := by
  unfold State.inject
  extract_lets id a
  have ha : s.tame a := .takeId h
  exact .frame ha (by rfl)

theorem State.tame.freeBuffer {p : Packet} {f : Flit} : s.tame (t.freeBuffer p f) := by
  unfold State.freeBuffer
  split
  · exact .frame h (by rfl)
  · exact h

theorem State.tame.dropPacket {pkt : Option Nat} : s.tame (t.dropPacket pkt) := by
  unfold State.dropPacket
  split
  · exact h
  · extract_lets gone s1
    have hs1 : s.tame s1 := .foldl h (fun _ _ hu => .foldl hu (fun _ _ hu1 => .freeBuffer hu1))
    exact .frame hs1 (by rfl)

theorem State.tame.evqPush {v : Nat} {bytes : List Byte} : s.tame (t.evqPush v bytes) := by
  unfold State.evqPush
  extract_lets f
  exact .ite (.setVf h) (.setVf (.wrBytes h))

theorem State.tame.service {pid : Nat} {m : Svc} : s.tame (t.service pid m) := by
  unfold State.service
  extract_lets pt hdr a
  have ha : s.tame a := .draw (.takeId h)
  split
  · exact .evqPush h
  · exact .frame ha (by rfl)

theorem State.tame.shortfall {pid : Nat} {t1 : Stream} {l bytes : Nat} : s.tame (t.shortfall pid t1 l bytes) := by
  unfold State.shortfall
  extract_lets w m
  exact .updPanel (.evqPush (.service h))

theorem State.tame.reclass {pid r : Nat} : s.tame (t.reclass pid r) := by
  unfold State.reclass
  extract_lets pt c m s1
  have hs1 : s.tame s1 := .setPart h
  exact .ite (.evqPush (.service hs1)) hs1

theorem State.tame.regrade {r : Nat} : s.tame (t.regrade r) := by
  unfold State.regrade
  extract_lets g s1
  have hs1 : s.tame s1 := .updRegion h
  exact .foldl hs1 (fun _ _ hu => .ite (.reclass hu) hu)

theorem State.tame.dropBarriers {pid qi : Nat} : s.tame (t.dropBarriers pid qi) :=
  .foldl h (fun _ _ hu => .ite (.frameMap hu (by rfl) (hg := fun x => by dsimp only; split <;> exact ⟨rfl, id⟩)) hu)

theorem State.tame.respare {qt : Nat} : s.tame (t.respare qt) := .frame h (by rfl)

theorem State.tame.loseFlights {qi : Nat} : s.tame (t.loseFlights qi) := by
  unfold State.loseFlights
  extract_lets drained mine ids s1 s2
  have hs1 : s.tame s1 := .foldl h (fun _ _ hu => .ite hu (.dropPacket hu))
  have hs2 : s.tame s2 := .frame hs1 (by rfl)
  exact .foldl hs2 (fun _ _ hu => .updCore hu)

theorem State.tame.resendRed {id : Nat} : s.tame (t.resendRed id) := by
  unfold State.resendRed
  split
  · exact h
  · split
    · extract_lets s1 p
      have hs1 : s.tame s1 := .takeId (.dropPacket h)
      exact .frame hs1 (by rfl)
    · exact .frame h (by rfl)

theorem State.tame.failHolds {qi : Nat} : s.tame (t.failHolds qi) :=
  .foldl (.frame h (by rfl)) (fun _ _ hu => .foldl hu (fun _ _ hu1 => .resendRed hu1))

theorem State.tame.deadStreams {qi : Nat} : s.tame (t.deadStreams qi) :=
  .foldl h (fun _ _ hu => .foldl hu (fun _ _ hu1 => .ite (.shortfall hu1) hu1))

theorem State.tame.retireFurther {qi : Nat} {st : QuadSt} : s.tame (t.retireFurther qi st) := by
  unfold State.retireFurther
  extract_lets alias_ part a
  have ha : s.tame a := .updQuad h
  exact .frame ha (by rfl)

theorem State.tame.containMsgs {qi det : Nat} {survives : Bool} : s.tame (t.containMsgs qi det survives) := by
  unfold State.containMsgs
  refine .foldl h (fun _ _ hu => ?_)
  extract_lets lost m u1
  have hu1 : s.tame u1 := by
    unfold u1
    split
    · exact .service hu
    · exact .foldl hu (fun _ _ hu1 => .service hu1)
  exact .ite hu1 (.service hu1)

theorem State.tame.contain {qi det core : Nat} : s.tame (t.contain qi det core) := by
  unfold State.contain
  extract_lets q dead ent s0 st s1 s2 s21 spare s3
  have hs0 : s.tame s0 := .updPanel (.ite (.failHolds h) h)
  have hs1 : s.tame s1 := .updQuad hs0
  have hs2 : s.tame s2 := .loseFlights (.containMsgs hs1)
  have hs21 : s.tame s21 := .ite (.deadStreams hs2) hs2
  have hs3 : s.tame s3 := by
    unfold s3
    split
    · exact .respare hs21
    · exact .frame hs21 (by rfl)
  exact .ite (.ite (.regrade (.deadStreams (.retireFurther hs0))) hs0) (.regrade hs3)

theorem State.tame.pendWrite {tk r lat : Nat} {v : Word} : s.tame (t.pendWrite tk r lat v) := by
  unfold State.pendWrite
  extract_lets s1
  have hs1 : s.tame s1 := .updCore h
  exact .ite (.updSlot hs1 (by exact fun _ => id)) hs1

theorem State.tame.writeReg {tk : Nat} {r : Reg} {v : Word} {lat : Nat} : s.tame (t.writeReg tk r v lat) :=
  .ite h (.ite (.setT h) (.pendWrite h))

theorem State.tame.pendAt {op : PendOp} {v : Word} {lat : Nat} : s.tame (t.pendAt op v lat) := .updMyCore h

theorem State.tame.pendOp {op : PendOp} {v : Word} : s.tame (t.pendOp op v) := .pendAt h

theorem State.tame.arrive {tk : Nat} {op : PendOp} {v pc : Word} {due : Nat} : s.tame (t.arrive tk op v pc due) := .updCore h

end

theorem State.tame.arriveReg {s t : State} (h : s.tame t) {tk r : Nat} {v pc : Word} {due : Nat} : s.tame (t.arriveReg tk r v pc due) :=
  .ite h (.arrive h)

section
variable {s t : State} (h : s.tame t)
include h

theorem State.tame.markBusy {tk r : Nat} : s.tame (t.markBusy tk r) := .ite h (.updSlot h (by exact fun _ => id))

theorem State.tameO.pushPort {ck slot r : Nat} {v pc : Word} : s.tameO (t.pushPort ck slot r v pc) := by
  unfold State.pushPort
  extract_lets c q a
  split
  · split
    · exact .some (.setCore h)
    · exact .none
  · split
    · split
      · exact .some (.updSlot (.setCore (.takeId h)) (by exact fun _ => id))
      · exact .none
    · split
      · exact .some (.setCore h)
      · exact .none

end

theorem Slot.sr_withPushes {x : Slot} (l : List (Nat × Word × Word)) : (x.withPushes l).sr = x.sr := by
  cases l <;> rfl

theorem Slot.plOf.withPushes {x : Slot} {l : List (Nat × Word × Word)} (p : (x.withPushes l).pl = true) : x.pl = true := by
  rwa [Slot.pl, Slot.sr_withPushes] at p

theorem Slot.plOf.pushed {x : Slot} {l : List (Nat × Word × Word)} (p : (x.pushed l).pl = true) : x.pl = true :=
  Slot.plOf.withPushes (l := l) p

theorem Slot.plOf.hold {x : Slot} {r : Nat} {v pc : Word} (p : (x.hold r v pc).pl = true) : x.pl = true := by
  unfold Slot.hold at p
  dsimp only at p
  split at p <;> exact p

theorem State.tame.pushOrHold {s t : State} (h : s.tame t) {ck slot r : Nat} {v pc : Word} : s.tame (t.pushOrHold ck slot r v pc) := by
  unfold State.pushOrHold
  dsimp only
  split
  · next u hu =>
    split at hu
    · exact nomatch hu
    · exact State.tameO.pushPort h _ hu
  · exact .updSlot h (hf := fun _ => Slot.plOf.hold)

theorem State.tame.tryPushes {s t : State} (h : s.tame t) {tk : Nat} (l : List (Nat × Word × Word)) {kept : List (Nat × Word × Word)} :
    s.tame (t.tryPushes tk l kept).1 := by
  induction l generalizing t kept with
  | nil => exact h
  | cons p ps ih =>
    unfold State.tryPushes
    split
    · next u hu =>
      split at hu
      · exact nomatch hu
      · exact ih (State.tameO.pushPort h _ hu)
    · exact ih h

theorem State.tame.retryPush {s t : State} (h : s.tame t) {tk : Nat} : s.tame (t.retryPush tk) := by
  unfold State.retryPush
  extract_lets x
  split
  · exact .ite h (.updSlot (.tryPushes h _) (hf := fun _ => Slot.plOf.pushed))
  · exact h

section
variable {s t : State} (h : s.tame t)
include h

theorem State.tame.landReg {tk r : Nat} {v pc : Word} : s.tame (t.landReg tk r v pc) := by
  unfold State.landReg
  extract_lets s1
  have hs1 : s.tame s1 := .updSlot h (by exact fun _ => id)
  exact .ite (.setT hs1) (.ite (.setC hs1) (.pushOrHold hs1))

theorem State.tame.setTb {k : Nat} {t1 : Tb} : s.tame (t.setTb k t1) := .wr h

theorem State.tame.complArrive {pid : Nat} {compl handle : Word} : s.tame (t.complArrive pid compl handle) := by
  unfold State.complArrive
  split
  · exact h
  · split
    · exact h
    · split
      · exact .setTb h
      · exact .service (.setTb h)

theorem State.tame.updRec {pid : Nat} {handle : Word} {f : LaunchRec → LaunchRec} : s.tame (t.updRec pid handle f) := by
  unfold State.updRec
  split
  · exact h
  · exact .updQuad h

theorem State.tame.pieceDone {pid : Nat} {handle : Option Word} {failed : Bool} : s.tame (t.pieceDone pid handle failed) := by
  unfold State.pieceDone
  split
  · exact h
  · extract_lets r
    exact .ite (.updRec (.complArrive h)) (.updRec h)

theorem State.tame.resetRotation {ck : Nat} : s.tame (t.resetRotation ck) := .ite (.updCore h) h

end

theorem State.tame.freeSlot {s t : State} (h : s.tame t) {tk : Nat} : s.tame (t.freeSlot tk) :=
  .resetRotation (.updSlot h (hf := fun _ p => absurd p (by simp [Slot.pl])))

section
variable {s t : State} (h : s.tame t)
include h

theorem State.tame.returnAllot {tk : Nat} : s.tame (t.returnAllot tk) := by
  unfold State.returnAllot
  split
  · exact h
  · exact .updQuad h

theorem State.tame.endCount {tk ctr : Nat} : s.tame (t.endCount tk ctr) := .updSlot h (by exact fun _ => id)

theorem State.tame.addCount {tk ctr : Nat} : s.tame (t.addCount tk ctr) := .updSlot h (by exact fun _ => id)

theorem State.tame.postAsync {tk cause : Nat} {info : Word} : s.tame (t.postAsync tk cause info) :=
  .updSlot h (hf := fun x => by split <;> exact id)

theorem State.tame.endGroup {gid : Nat} : s.tame (t.endGroup gid) := by
  unfold State.endGroup
  split
  · exact h
  · split
    · exact .frame h (by rfl)
    · extract_lets s1 s2 s3
      have hs1 : s.tame s1 := .frame h (by rfl)
      have hs2 : s.tame s2 := .endCount hs1
      have hs3 : s.tame s3 := by
        unfold s3
        split
        · exact hs2
        · exact .postAsync hs2
      split
      · exact hs3
      · exact .ite (.arrive hs3) (.updSlot hs3 (by exact fun _ => id))

theorem State.tame.ripFlights {tk : Nat} : s.tame (t.ripFlights tk) := by
  unfold State.ripFlights
  extract_lets gone s1
  have hs1 : s.tame s1 := .frame h (by rfl)
  refine .foldl hs1 (fun _ _ hu => ?_)
  extract_lets u1
  have hu1 : s.tame u1 := .endCount hu
  split
  · exact .endGroup hu1
  · exact .endGroup hu1
  · exact hu1

theorem State.tame.pushEntries {qi pid prio : Nat} {es : List Entry} : s.tame (t.pushEntries qi pid prio es) := by
  unfold State.pushEntries
  extract_lets now new
  exact .updQuad h

theorem State.tame.ripSlot {tk : Nat} : s.tame (t.ripSlot tk) := by
  unfold State.ripSlot
  extract_lets sl s1 lost hits s2
  have hs1 : s.tame s1 := .updCore (.returnAllot h)
  have hs2 : s.tame s2 := .updSlot hs1 (by exact fun _ => id)
  exact .freeSlot (.ripFlights hs2)

theorem State.tame.rip {tk : Nat} {split : Bool} : s.tame (t.rip tk split) := by
  unfold State.rip
  extract_lets x pid h1 s1
  have hs1 : s.tame s1 := .ripSlot h
  split
  · exact hs1
  · split
    · extract_lets c
      exact .updRec (.pushEntries hs1)
    · exact .pushEntries hs1

theorem State.tame.smallestGrain {tk allowance : Nat} : s.tame (t.smallestGrain tk allowance) := by
  unfold State.smallestGrain
  extract_lets x pid h1 m
  exact .pieceDone (.service (.ripSlot h))

theorem State.tame.doubleTrap {tk cause : Nat} {info epc : Word} : s.tame (t.doubleTrap tk cause info epc) := by
  unfold State.doubleTrap
  extract_lets x m a s1
  have ha : s.tame a := .updSlot h (by exact fun _ => id)
  have hs1 : s.tame s1 := .ite (.rip h) (.frame ha (by rfl))
  exact .ite (.contain (.updSlot h (by exact fun _ => id))) (.service hs1)

end

theorem State.Wf.enterTrap {t : State} (h : t.Wf) {tk cause : Nat} {info epc : Word} : (t.enterTrap tk cause info epc).Wf := by
  unfold State.enterTrap
  extract_lets x a
  exact .ite (.of (.doubleTrap .self) h) (.setSlot h)

theorem State.Wf.leaveTrap {t : State} (h : t.Wf) {tk : Nat} : (t.leaveTrap tk).Wf := .updSlot h

section
variable {s t : State} (h : s.tame t)
include h

theorem State.tame.postOrReport {tk cause : Nat} {info pc : Word} : s.tame (t.postOrReport tk cause info pc) :=
  .ite (.service h) (.postAsync h)

end

theorem State.Wf.exhaust {t : State} (h : t.Wf) {tk allowance : Nat} {info : Word} : (t.exhaust tk allowance info).Wf :=
  .ite (.ite (.of (.rip .self) h) (.of (.smallestGrain .self) h)) (.enterTrap h)

theorem State.tameA.andThen {s : State} {f : State → State} {a : Act} (hf : ∀ u, s.tame u → s.tame (f u)) (hk : ∀ u, s.kept u → s.kept (f u))
    (h : s.tameA a) : s.tameA (a.andThen f) := by
  cases a with
  | next u => exact hf u h
  | goto u pc => exact hf u h
  | keep u => exact hk u h
  | _ => exact trivial

section
variable {s t : State} (h : s.tame t)
include h

theorem State.tame.blockMe {w : Wait} : s.tame (t.blockMe w) := .updMe h (by exact fun _ => id)

end

theorem State.trapEntered.trap {s : State} {tk cause : Nat} {info epc : Word} (hx : (s.slot tk).exl = false) :
    s.trapEntered (s.enterTrap tk cause info epc) tk := by
  have hnot : ¬(s.slot tk).exl = true := by rw [hx]; exact Bool.false_ne_true
  unfold State.enterTrap
  dsimp only
  rw [if_neg hnot, State.trapEntered, State.slot_setSlot_same]
  refine ⟨hx, ?_, Eq.refl _⟩
  simp [Slot.exl, enterStatus]

/-- A trap's entry raises PL in its own slot alone, from EXL 0. -/
theorem State.kept.enterTrap {s : State} {tk cause : Nat} {info epc : Word} : s.kept (s.enterTrap tk cause info epc) := by
  refine ⟨fun w => w.enterTrap, fun n => ?_⟩
  by_cases hx : (s.slot tk).exl = true
  · have hd : s.enterTrap tk cause info epc = s.doubleTrap tk cause info epc := if_pos hx
    rw [hd]
    exact fun p => .inl ((State.tame.doubleTrap .self).2 n p)
  · rw [Bool.not_eq_true] at hx
    by_cases hn : n = tk
    · rw [hn]
      exact fun _ => .inr (.trap hx)
    · have hnot : ¬(s.slot tk).exl = true := by rw [hx]; exact Bool.false_ne_true
      unfold State.enterTrap
      dsimp only
      rw [if_neg hnot, State.slot_setSlot, if_neg hn]
      exact .inl

theorem State.kept.exhaust {s : State} {tk k : Nat} {info : Word} : s.kept (s.exhaust tk k info) := by
  unfold State.exhaust
  split
  · exact State.tame.kept (.ite (.rip .self) (.smallestGrain .self))
  · exact .enterTrap

theorem Slot.plOf.advance {x : Slot} {pc : Word} (p : (x.advance pc).pl = true) : x.pl = true := p

theorem State.kept.run {s : State} {a : Act} (h : s.tameA a) : s.kept (a.run s) := by
  cases a with
  | trap c info => exact .enterTrap
  | trapFree c =>
    have hd : s.draw.kept (s.draw.enterTrap s.cur c (Config.freeWord s.free) s.me.pc) := .enterTrap
    exact hd
  | trapNext c info => exact .enterTrap
  | block w => exact State.tame.kept (.blockMe .self)
  | next t => exact State.tame.kept (.updMe h (by exact fun _ => id))
  | goto t pc => exact State.tame.kept (.updMe h (by exact fun _ => id))
  | keep t => exact h
  | exhaust k info => exact .exhaust

section
variable {s t : State} (h : s.tame t)
include h

theorem State.tame.basteAfterPop : s.tame (t.basteAfterPop) := .updMe h (hf := fun x => by split <;> exact id)

theorem State.tame.popPorts {rs : List Reg} : s.tame (t.popPorts rs) := by
  unfold State.popPorts
  refine .foldl h (fun _ _ hu => ?_)
  split
  · extract_lets t1
    have ht1 : s.tame t1 := .updMyCore hu
    exact .ite (.basteAfterPop ht1) ht1
  · exact hu

end

theorem State.tameA.issue {s : State} {u : Use} {k : (Reg → Word) → State → Act} (hk : ∀ v t, s.tame t → s.tameA (k v t)) :
    s.tameA (u.issue s k) := by
  unfold Use.issue
  split
  · exact .trap
  · split
    · exact .exhaust
    · split
      · exact .trap
      · split
        · exact .block
        · split
          · exact .block
          · exact hk _ _ (.popPorts .self)

theorem State.keepsR.run {s : State} {a : Act} (h : s.tameA a) : s.keepsR (.next (a.run s)) := fun _ e => by
  cases e
  exact .run h

theorem State.keepsR.runHead {s : State} {u : Use} {k : (Reg → Word) → State → Act} (hk : ∀ v t, s.tame t → s.tameA (k v t)) :
    s.keepsR (runHead u s k) := .run (.issue hk)

theorem State.sameSr.basteAfterPop {s t : State} (h : s.sameSr t) : s.sameSr t.basteAfterPop := by
  unfold State.basteAfterPop State.updMe
  exact h.updSlot fun x => by split <;> rfl

theorem State.sameSr.popPorts {s : State} {rs : List Reg} : s.sameSr (s.popPorts rs) := by
  unfold State.popPorts
  refine List.foldlRecOn (motive := fun t => s.sameSr t) _ _ .self fun t ht r _ => ?_
  dsimp only
  have hpop : s.sameSr (t.updMyCore fun c => portPop c r.toNat) := ht.slots (by rfl)
  split
  · split
    · exact hpop.basteAfterPop
    · exact hpop
  · exact ht

/-- A head may itself enter a trap: its pops leave the system registers. -/
theorem State.keepsR.runHeadSr {s : State} {u : Use} {k : (Reg → Word) → State → Act} (hk : ∀ v t, s.tame t → s.sameSr t → s.tameA (k v t)) :
    s.keepsR (Machine.runHead u s k) := .run (by
  unfold Use.issue
  split
  · exact .trap
  · split
    · exact .exhaust
    · split
      · exact .trap
      · split
        · exact .block
        · split
          · exact .block
          · exact hk _ _ (.popPorts .self) .popPorts)

theorem State.keepsR.runReply {s : State} {u : Use} {k : (Reg → Word) → State → Act} {fin : Word → State → Act}
    (hk : ∀ v t, s.tame t → s.tameA (k v t)) (hf : ∀ v t, s.tame t → s.tameA (fin v t)) : s.keepsR (runReply u s k fin) := by
  unfold Machine.runReply
  split
  · exact .runHead hk
  · exact .next (.updMe .self (hf := fun x => by split <;> exact id))
  · exact .run (hf _ _ .self)
  · exact .run (.next .self)

section
variable {s t : State} (h : s.tame t)
include h

theorem State.tame.await : s.tame (t.await) := .updMe h (by exact fun _ => id)

theorem State.tame.reply {tk v : Nat} : s.tame (t.reply tk v) := .updSlot h (hf := fun x => by split <;> exact id)

theorem State.tame.failReply {tk : Nat} : s.tame (t.failReply tk) := .updSlot h (hf := fun x => by split <;> exact id)

theorem State.tame.answer {tk : Nat} {v : Word} : s.tame (t.answer tk v) := .reply h

theorem State.tameA.put {d : Reg} {v : Word} {lat : Nat} : s.tameA (Machine.put t d v lat) := by
  unfold Machine.put
  split
  · exact .trap
  · exact .next (.writeReg h)

end

theorem State.tameA.lateDest {s t : State} {d : Reg} {a : Act} (h : s.tameA a) : s.tameA (lateDest t d a) := by
  unfold Machine.lateDest
  split
  · exact .trapFree
  · exact h

end Sys2Proof.Machine

end

section
/-! SUPPORT. The same of operands, plans, ports and the checks of accesses. -/

namespace Sys2Proof.Machine

theorem State.tameA.orElse {s : State} {c : Check} {a : Act} (h : s.tameA a) : s.tameA (c.orElse a) := by
  unfold Check.orElse
  split
  · exact .trap
  · exact h

section
variable {s t : State} (h : s.tame t)
include h

theorem State.tame.setChan {qi : Nat} {e : ChanEnt} : s.tame (t.setChan qi e) := .updQuad h

theorem State.tame.touchChan {qi : Nat} {e : ChanEnt} : s.tame (t.touchChan qi e) := .updQuad h

theorem State.tame.dropChan {qi : Nat} {e : ChanEnt} : s.tame (t.dropChan qi e) := .updQuad h

theorem State.tame.regrantRings {qi : Nat} : s.tame (t.regrantRings qi) := by
  unfold State.regrantRings
  extract_lets wants
  refine .foldl h (fun _ _ hu => ?_)
  split
  · exact hu
  · exact .setChan hu

theorem State.tame.tlbAdd {e : TlbEntry} : s.tame (t.tlbAdd e) := by
  unfold State.tlbAdd
  extract_lets rest full
  exact .frame h (by rfl)

theorem State.tame.tlbFill {ck pid va : Nat} {need : Perm} : s.tame (t.tlbFill ck pid va need) := by
  unfold State.tlbFill
  extract_lets die
  split
  · exact h
  · split
    · exact .tlbAdd h
    · split
      · exact .tlbAdd (.tlbAdd h)
      · split
        · exact .tlbAdd (.tlbAdd (.tlbAdd (.draw h)))
        · exact h

theorem State.tame.engineFill {tk pid : Nat} {p : Perm} {a : Word} {n : Nat} : s.tame (t.engineFill tk pid p a n) := by
  unfold State.engineFill
  refine .foldl h (fun _ _ hu => ?_)
  extract_lets b va
  split
  · exact .noteBlock hu
  · split
    · exact .noteBlock hu
    · exact hu
  · exact .tlbFill hu
  · exact .ite hu (.tlbAdd hu)
  · exact hu

theorem State.tame.dieEvict {place line : Nat} : s.tame (t.dieEvict place line) := .frame h (by rfl)

theorem State.tame.dieLoad {place : Nat} {e : CLine} : s.tame (t.dieLoad place e) := by
  unfold State.dieLoad
  extract_lets rest here victim s1
  have hs1 : s.tame s1 := by
    unfold s1
    clear_value victim
    split
    · exact .frame h (by rfl)
    · exact .dieEvict (.frame h (by rfl))
  exact .frame hs1 (by rfl)

theorem State.tame.invalidateOthers {die line : Nat} : s.tame (t.invalidateOthers die line) := .frame h (by rfl)

theorem State.tame.invalidateBut {ck line : Nat} : s.tame (t.invalidateBut ck line) := by
  unfold State.invalidateBut
  extract_lets keeps
  exact .frame h (by rfl)

theorem State.tame.dieFill {ck pa key cp : Nat} : s.tame (t.dieFill ck pa key cp) := by
  unfold State.dieFill
  extract_lets die e s1
  have hs1 : s.tame s1 := .dieLoad h
  exact .ite hs1 (.dieLoad hs1)

theorem State.tame.cacheLoad {ck pa key cp : Nat} : s.tame (t.cacheLoad ck pa key cp) := .updCore (.dieFill h)

theorem State.tame.cacheStore {ck pa key cp : Nat} : s.tame (t.cacheStore ck pa key cp) := by
  unfold State.cacheStore
  extract_lets pins
  exact .ite (.cacheLoad h) h

theorem State.tame.recallLines {k n : Nat} : s.tame (t.recallLines k n) := by
  unfold State.recallLines
  split
  · exact h
  · refine .foldl h (fun _ _ hu => ?_)
    extract_lets u1
    have hu1 : s.tame u1 := .invalidateOthers hu
    exact .frame hu1 (by rfl)

theorem State.tame.releaseCell {k : Nat} : s.tame (t.releaseCell k) := by
  unfold State.releaseCell
  extract_lets w q pid
  exact .ite (.setQuad (.wr8 h)) (.updQuad (.wr8 h))

theorem State.tame.decCell {k : Nat} : s.tame (t.decCell k) := by
  unfold State.decCell
  extract_lets w s1
  have hs1 : s.tame s1 := .wr8 h
  exact .ite (.ite (.releaseCell hs1) hs1) h

theorem State.tameO.tsetCell {k : Nat} {b : Word} : s.tameO (t.tsetCell k b) := by
  unfold State.tsetCell
  extract_lets w s1
  have hs1 : s.tame s1 := .wr8 h
  split
  · exact .none
  · exact .some (.ite (.releaseCell hs1) hs1)

theorem State.tame.logAtomic {thr k : Nat} {seq : Option Nat} {old : Nat} : s.tame (t.logAtomic thr k seq old) := by
  unfold State.logAtomic
  split
  · exact h
  · exact .updSlot h (by exact fun _ => id)

end

theorem State.tame.atomicOn {s t : State} (h : s.tame t) {thr k n : Nat} {op : MemOp} {seq : Option Nat} {old : Nat} :
    s.tame (t.atomicOn thr k n op seq old).2 := by
  unfold State.atomicOn
  split
  · exact h
  · extract_lets s1
    have hs1 : s.tame s1 := by
      unfold s1
      split
      · exact .wr h
      · exact .ite (.wr h) h
      · exact h
    exact .logAtomic hs1

theorem State.tame.atomicAt {s t : State} (h : s.tame t) {thr k n : Nat} {op : MemOp} {seq : Option Nat} :
    s.tame (t.atomicAt thr k n op seq).2 := .atomicOn h

section
variable {s t : State} (h : s.tame t)
include h

theorem State.tame.noteForwards {f : Flight} : s.tame (t.noteForwards f) := by
  unfold State.noteForwards
  extract_lets ids
  exact .ite h (.frame h (by rfl))

theorem State.tame.setStage {id : Nat} {st : Stage} : s.tame (t.setStage id st) := .frame h (by rfl)

theorem State.tame.setHome {id k : Nat} {page : Nat × Nat} : s.tame (t.setHome id k page) := .frame h (by rfl)

theorem State.tame.respond {id qi : Nat} : s.tame (t.respond id qi) := by
  unfold State.respond
  split
  · exact h
  · split
    · exact h
    · extract_lets q s1
      have hs1 : s.tame s1 := .inject h
      exact .frame hs1 (by rfl)

theorem State.tame.wordJoin {w : WordWait} : s.tame (t.wordJoin w) := .frame h (by rfl)

end

theorem State.tame.performAt {s t : State} (h : s.tame t) {f : Flight} {qi k : Nat} : s.tame (t.performAt f qi k) := by
  unfold State.performAt
  cases f.op with
  | load => exact .setStage (.draw (.noteForwards h))
  | store bs => exact .setStage (.writeW h)
  | feinit b full => exact .setFe (t := (t.wr8 k b).setStage f.id .ack) (.setStage (.wr8 h)) (by rfl)
  | touch wr => exact .setStage h
  | tset b =>
    dsimp only
    split
    · next u hu => exact .setStage (State.tameO.tsetCell h _ hu)
    · exact .setStage h
  | lde => exact .wordJoin (.setStage h)
  | stf b => exact .wordJoin (.setStage h)
  | _ => exact .setStage h

end Sys2Proof.Machine

end

section
/-! SUPPORT. The same of accesses, loads, stores and atomics at their place. -/

namespace Sys2Proof.Machine

section
variable {s t : State} (h : s.tame t)
include h

theorem State.tame.launchFlight {f : Flight} : s.tame (t.launchFlight f) := by
  unfold State.launchFlight
  extract_lets st hit g a
  have ha : s.tame a := .takeId h
  clear_value st
  split
  · extract_lets s1
    have hs1 : s.tame s1 := .inject (.takeId h)
    exact .frame hs1 (by rfl)
  · exact .frame ha (by rfl)

theorem State.tame.answerFlight {f : Flight} : s.tame (t.answerFlight f) := .ite (.answer h) h

theorem State.tame.groupLane {gid lane v : Nat} : s.tame (t.groupLane gid lane v) := .frame h (by rfl)

theorem State.tame.dropRet {f : Flight} : s.tame (t.dropRet f) := by
  unfold State.dropRet
  split
  · exact .updSlot h (by exact fun _ => id)
  · exact .updSlot h (by exact fun _ => id)
  · exact h

theorem State.tame.removeFlight {f : Flight} : s.tame (t.removeFlight f) := by
  unfold State.removeFlight
  extract_lets a
  have ha : s.tame a := .dropPacket h
  exact .frame ha (by rfl)

theorem State.tame.updRun {ck id n : Nat} {g : SectorRun → SectorRun} : s.tame (t.updRun ck id n g) := .updCore h

theorem State.tame.finishFlight {f : Flight} : s.tame (t.finishFlight f) := by
  unfold State.finishFlight
  extract_lets s1
  have hs1 : s.tame s1 := .endCount (.removeFlight h)
  split
  · exact .endGroup hs1
  · exact .endGroup hs1
  · exact .updRun hs1
  · exact hs1

theorem State.tame.postOwn {f : Flight} {cause : Nat} {info : Word} : s.tame (t.postOwn f cause info) := .ite (.postAsync h) h

theorem State.tame.denyLane {f : Flight} {gid lane : Nat} {a : Word} : s.tame (t.denyLane f gid lane a) := .ite (.frame h (by rfl)) h

theorem State.tame.denyFlight {f : Flight} : s.tame (t.denyFlight f) := by
  unfold State.denyFlight
  split
  · extract_lets w a
    exact .finishFlight (.denyLane h)
  · exact .finishFlight (.denyLane h)
  · exact .finishFlight (.updCore h)
  · exact .postOwn (.failReply (.endCount (.removeFlight h)))
  · exact .postOwn (.finishFlight (.dropRet h))

theorem State.tame.failFlights {thr : Nat} {fs : List Flight} {reason : Nat} : s.tame (t.failFlights thr fs reason) := by
  unfold State.failFlights
  extract_lets isPush s0
  have hs0 : s.tame s0 := .foldl h (fun _ _ hu => .setStage hu)
  split
  · exact hs0
  · extract_lets s1
    have hs1 : s.tame s1 := by
      unfold s1
      refine .foldl hs0 (fun _ _ hu => ?_)
      extract_lets t1 t2
      have ht1 : s.tame t1 := by
        unfold t1
        split
        · exact .frame hu (by rfl)
        · exact .frame hu (by rfl)
        · exact hu
      have ht2 : s.tame t2 := .ite (.failReply ht1) ht1
      exact .finishFlight (.dropRet ht2)
    exact .postOwn hs1

theorem State.tame.deliver {f : Flight} {v : Nat} : s.tame (t.deliver f v) := by
  unfold State.deliver
  split
  · exact h
  · exact .arriveReg h
  · exact .arriveReg (.arriveReg h)
  · exact .groupLane h
  · exact .groupLane h
  · exact .reply h
  · exact .updRun h
  · exact h
  · exact h

theorem State.tame.sendFlush : s.tame (t.sendFlush) := by
  unfold State.sendFlush
  extract_lets f a
  have ha : s.tame a := .takeId h
  exact .updMe (.frame ha (by rfl)) (by exact fun _ => id)

end

theorem State.tameA.fenceWait {s s0 t : State} {sc : Scope} {k : Act} (h : s.tame s0) (hk : s.tameA k) : s.tameA (fenceWait s0 t sc k) := by
  unfold Machine.fenceWait
  split
  · exact .block
  · split
    · exact .keep (.sendFlush h)
    · exact .block
    · exact hk

theorem State.kept.noteBlock {s t : State} (h : s.kept t) {q k : Nat} : s.kept (t.noteBlock q k) := by
  unfold State.noteBlock
  split
  · exact h
  · exact .frame h (by rfl)

section
variable {s t : State} {k : Act} (hk : s.tameA k)
include hk

theorem State.tameA.memWait {w : BitVec 2} {a : Word} : s.tameA (memWait t w a k) := by
  unfold Machine.memWait
  split
  · exact .block
  · split
    · exact .block
    · exact hk

theorem State.tameA.noted {n : Nat} : s.tameA (noted t n k) := by
  unfold Machine.noted
  split
  · exact hk
  · exact .andThen (fun _ hu => .noteBlock hu) (fun _ hu => .noteBlock hu) hk

theorem State.tameA.localWait {j n : Nat} : s.tameA (localWait t j n k) := by
  unfold Machine.localWait
  split
  · exact .block
  · split
    · exact .block
    · exact .noted hk

theorem State.tameA.kindWait {j : ElemKind} {v : Word} {n : Nat} : s.tameA (kindWait t j v n k) := by
  unfold Machine.kindWait
  split
  · exact .localWait hk
  · exact hk

theorem State.tameA.roomFor {ctr : Nat} : s.tameA (roomFor t ctr k) := by
  unfold Machine.roomFor
  split
  · exact .block
  · exact hk

end

section
variable {s t : State} (h : s.tame t)
include h

theorem State.tameA.holdEffect {e : Effect} : s.tameA (Machine.holdEffect t e) := by
  unfold Machine.holdEffect
  extract_lets t1
  split
  · exact .exhaust
  · exact .next (.updMe h (by exact fun _ => id))

theorem State.tame.bumpSeq : s.tame (t.bumpSeq) := .ite (.updMe h (by exact fun _ => id)) h

theorem State.tame.drainReport {d : DrainTask} {cause : Nat} {info : Word} : s.tame (t.drainReport d cause info) := .service h

theorem State.tame.drainDeny {id cause : Nat} {info : Word} : s.tame (t.drainDeny id cause info) := by
  unfold State.drainDeny
  extract_lets mine next hit s1
  have hs1 : s.tame s1 := .frame h (by rfl)
  exact .foldl hs1 (fun _ _ hu => .drainReport hu)

theorem State.tame.drainAnswer {qi : Nat} {match_ : DrainTask → Bool} {fail : Bool} {reason : Nat} :
    s.tame (t.drainAnswer qi match_ fail reason) := by
  unfold State.drainAnswer
  extract_lets hit next s1
  have hs1 : s.tame s1 := .updQuad h
  exact .ite (.foldl hs1 (fun _ _ hu => .drainReport hu)) hs1

theorem State.tame.drainReply {pid tk : Nat} {tag : BitVec 8} {fail : Bool} {reason : Nat} :
    s.tame (t.drainReply pid tk tag fail reason) :=
  .drainAnswer h

theorem State.tame.dropPushes {pid ch : Nat} : s.tame (t.dropPushes pid ch) := by
  unfold State.dropPushes
  extract_lets gone s1
  have hs1 : s.tame s1 := .frame h (by rfl)
  exact .foldl hs1 (fun _ _ hu => .dropPacket (.ite (.endCount hu) hu))

theorem State.tame.poison {pid ch : Nat} {evict : Bool} : s.tame (t.poison pid ch evict) := by
  unfold State.poison
  extract_lets isIt s1 home hit ends s2 freed
  have hs1 : s.tame s1 := .dropPushes h
  have hs2 : s.tame s2 := .frameMap hs1 (by rfl) (hg := fun x => by split <;> exact ⟨rfl, id⟩)
  exact .foldl hs2 (fun _ _ hu => .regrantRings hu)

theorem State.tame.chanReply {pid thread : Nat} {tag : BitVec 8} {fail : Bool} : s.tame (t.chanReply pid thread tag fail) := by
  unfold State.chanReply
  extract_lets mine s1
  have hs1 : s.tame s1 := .frame h (by rfl)
  exact .ite (.foldl hs1 (fun _ _ hu => .poison hu)) hs1

theorem State.tame.freplyRetry {pid thread : Nat} {tag : BitVec 8} : s.tame (t.freplyRetry pid thread tag) := by
  unfold State.freplyRetry
  split
  · exact h
  · extract_lets ids
    exact .chanReply (.drainReply (.frame h (by rfl)))

theorem State.tame.freplyFail {pid thread : Nat} {tag : BitVec 8} {reason : BitVec 12} : s.tame (t.freplyFail pid thread tag reason) := by
  unfold State.freplyFail
  split
  · exact h
  · exact .chanReply (.drainReply (.failFlights h))

theorem State.tame.s1inv {pid : Nat} {what : Option (Nat × Nat)} : s.tame (t.s1inv pid what) := .updPart h

theorem State.tameO.sysWrite {off : Nat} {v : Word} : s.tameO (t.sysWrite off v) := by
  unfold State.sysWrite
  extract_lets pid
  split
  · exact .some (.updPart h)
  · split
    · exact .some (.s1inv h)
    · exact .some (.s1inv h)
  · exact .some h
  · split
    · exact .some (.freplyFail h)
    · exact .some (.freplyRetry h)
  · exact .some h
  · exact .none

theorem State.tame.hitLoad {f : Flight} {r k : Nat} : s.tame (t.hitLoad f r k) := by
  unfold State.hitLoad
  extract_lets g v
  exact .pendAt (.updCore (.draw (.noteForwards (.markBusy (.addCount h)))))

theorem State.tameA.sendLoad {d : Reg} {a : Word} {n : Nat} {sx : Bool} {cp : Nat} {acq : Bool} {scope : Nat} :
    s.tameA (Machine.sendLoad t d a n sx cp acq scope) := by
  unfold Machine.sendLoad
  extract_lets f
  refine .roomFor ?_
  refine .lateDest ?_
  refine .next ?_
  split
  · exact .hitLoad h
  · exact .launchFlight (.markBusy (.addCount h))

theorem State.tameA.doLoad {d : Reg} {a : Word} {n : Nat} {sx : Bool} {cp : Nat} {acq : Bool} {scope : Nat} :
    s.tameA (Machine.doLoad t d a n sx cp acq scope) := by
  unfold Machine.doLoad
  split
  · extract_lets k
    exact .localWait (.put h)
  · exact .sendLoad h

theorem State.tameA.loadAct {d : Reg} {a : Word} {sz : Size} {sx sys : Bool} {w : BitVec 2} {cp : Cp} :
    s.tameA (Machine.loadAct t d a sz sx sys w cp) := by
  unfold Machine.loadAct
  refine .memWait ?_
  split
  · refine .orElse ?_
    split
    · exact .trap
    · exact .put h
  · exact .orElse (.doLoad h)

end

theorem State.keepsR.execLd {s : State} {d a : Reg} {off : BitVec 14} {sz : Size} {w : BitVec 2} {cp : Cp} :
    s.keepsR (Machine.execLd d a off sz w cp s) :=
  .runHead (fun _ _ hu => .loadAct hu)

theorem State.keepsR.execLds {s : State} {d a : Reg} {off : BitVec 14} {sz : Size} {w : BitVec 2} {cp : Cp} :
    s.keepsR (Machine.execLds d a off sz w cp s) :=
  .runHead (fun _ _ hu => .loadAct hu)

theorem State.keepsR.execLdg {s : State} {d a b : Reg} {off : BitVec 14} {sz : Size} {w : BitVec 2} {cp : Cp} :
    s.keepsR (Machine.execLdg d a b off sz w cp s) :=
  .runHead (fun _ _ hu => .loadAct hu)

theorem State.keepsR.execLda {s : State} {d a : Reg} {sz : Size} {sc : Scope} : s.keepsR (Machine.execLda d a sz sc s) :=
  .runHead (fun _ _ hu => .memWait (.orElse (.doLoad hu)))

section
variable {s t : State} (h : s.tame t)
include h

theorem State.tameA.sendStore {a : Word} {n : Nat} {bs : List WByte} {cp : Nat} {rel : Bool} {scope : Nat} :
    s.tameA (Machine.sendStore t a n bs cp rel scope) := by
  unfold Machine.sendStore
  split
  · exact .holdEffect h
  · exact .roomFor (.next (.launchFlight (.addCount h)))

theorem State.tameA.doStore {a : Word} {n v cp : Nat} {rel : Bool} {scope : Nat} : s.tameA (Machine.doStore t a n v cp rel scope) := by
  unfold Machine.doStore
  split
  · extract_lets k
    exact .localWait (.next (.pendOp h))
  · exact .sendStore h

theorem State.tameA.storeAct {a b : Word} {sz : Size} {sys : Bool} {w : BitVec 2} {cp : Cp} :
    s.tameA (Machine.storeAct t a b sz sys w cp) := by
  unfold Machine.storeAct
  refine .memWait ?_
  split
  · refine .orElse ?_
    split
    · exact .trap
    · next _ _ heq =>
        exact .next (State.tameO.sysWrite h _ heq)
  · exact .orElse (.doStore h)

end

theorem State.keepsR.execSt {s : State} {a b : Reg} {off : BitVec 14} {sz : Size} {w : BitVec 2} {cp : Cp} :
    s.keepsR (Machine.execSt a b off sz w cp s) :=
  .runHead (fun _ _ hu => .storeAct hu)

theorem State.keepsR.execStg {s : State} {d a b : Reg} {off : BitVec 14} {sz : Size} {w : BitVec 2} {cp : Cp} :
    s.keepsR (Machine.execStg d a b off sz w cp s) :=
  .runHead (fun _ _ hu => .storeAct hu)

theorem State.keepsR.execStl {s : State} {a b : Reg} {sz : Size} {sc : Scope} : s.keepsR (Machine.execStl a b sz sc s) := by
  unfold Machine.execStl
  refine .runHead (fun _ _ hu => ?_)
  refine .memWait ?_
  refine .orElse ?_
  extract_lets store
  split
  · exact .block
  · split
    · exact .fenceWait .self (.doStore hu)
    · exact .doStore hu

theorem State.keepsR.execPref {s : State} {a : Reg} {off : BitVec 14} {cp : Cp} : s.keepsR (Machine.execPref a off cp s) := by
  unfold Machine.execPref
  dsimp only
  split
  · exact .run (.next .self)
  · refine .runHead (fun v t hu => ?_)
    split
    · split
      · exact .next (.cacheLoad hu)
      · exact .next hu
    · exact .next hu

section
variable {s t : State} (h : s.tame t)
include h

theorem State.tame.rdcDrop {die line : Nat} : s.tame (t.rdcDrop die line) := .ite (.dieEvict h) h

end

theorem State.keepsR.execCflushLine {s : State} {a : Reg} : s.keepsR (Machine.execCflushLine a s) := by
  unfold Machine.execCflushLine
  refine .runHead (fun _ _ hu => ?_)
  refine .orElse ?_
  split
  · exact .block
  · split
    · exact .next hu
    · exact .next (.rdcDrop (.updMyCore hu))

theorem State.keepsR.execCflushAll {s : State} {_a : Reg} : s.keepsR (Machine.execCflushAll _a s) := by
  unfold Machine.execCflushAll
  refine .runHead (fun _ _ hu => ?_)
  split
  · exact .block
  · exact .next (.updMyCore hu)

theorem State.keepsR.execCinvLine {s : State} {a : Reg} : s.keepsR (Machine.execCinvLine a s) := by
  unfold Machine.execCinvLine
  refine .runHead (fun _ _ hu => ?_)
  refine .orElse ?_
  split
  · exact .next hu
  · exact .next (.updMyCore hu)

section
variable {s t : State} (h : s.tame t)
include h

theorem State.tame.cacheLine {qi key l : Nat} : s.tame (t.cacheLine qi key l) := by
  unfold State.cacheLine
  extract_lets old
  exact .ite (.updQuad h) (.updQuad (.draw h))

end

theorem State.keepsR.execCinvIline {s : State} {a : Reg} : s.keepsR (Machine.execCinvIline a s) :=
  .runHead (fun _ _ hu => .orElse (.next (.updMyQuad hu)))

theorem State.keepsR.execCinvAll {s : State} {_a : Reg} : s.keepsR (Machine.execCinvAll _a s) :=
  .runHead (fun _ _ hu => .next (.updMyCore hu))

theorem State.keepsR.execFence {s : State} {sc : Scope} : s.keepsR (Machine.execFence sc s) :=
  .runHead (fun _ _ hu => .fenceWait .self (.next hu))

theorem State.keepsR.execWaitc {s : State} {l st c tl : BitVec 4} : s.keepsR (Machine.execWaitc l st c tl s) := by
  unfold Machine.execWaitc
  refine .runHead (fun _ _ hu => ?_)
  extract_lets k
  split
  · exact .next hu
  · exact .block

section
variable {s t : State} (h : s.tame t)
include h

theorem State.tame.awaitWord {k : Nat} {lde : Bool} : s.tame (t.awaitWord k lde) := by
  unfold State.awaitWord
  extract_lets w s1
  have hs1 : s.tame s1 := .ite h (.wordJoin h)
  exact .blockMe hs1

theorem State.tameA.sendWaiting {a : Word} {op : MemOp} {ctr : Nat} {acq rel : Bool} : s.tameA (Machine.sendWaiting t a op ctr acq rel) :=
  .roomFor (.keep (.await (.launchFlight (.addCount h))))

end

theorem State.keepsR.execLde {s : State} {d a : Reg} {off : BitVec 14} {w : BitVec 2} {_cp : Cp} :
    s.keepsR (Machine.execLde d a off w _cp s) := by
  unfold Machine.execLde
  refine .runReply (fun _ _ hu => ?_) (fun _ _ hu => .put hu)
  extract_lets x k
  refine .memWait ?_
  refine .orElse ?_
  split
  · split
    · exact .block
    · split
      · exact .noted (.put (.setFe (k := k) (b := false) hu (by rfl)))
      · exact .keep (.awaitWord .self)
  · exact .lateDest (.sendWaiting hu)

theorem State.keepsR.execStf {s : State} {a b : Reg} {off : BitVec 14} {w : BitVec 2} {_cp : Cp} :
    s.keepsR (Machine.execStf a b off w _cp s) := by
  unfold Machine.execStf
  refine .runReply (fun _ _ hu => ?_) (fun _ _ hu => .next hu)
  extract_lets x k a1
  have ha1 : s.tame a1 := .wr8 hu
  refine .memWait ?_
  refine .orElse ?_
  split
  · split
    · exact .block
    · split
      · exact .block
      · split
        · exact .noted (.next (.setFe (k := k) (b := true) ha1 (by rfl)))
        · exact .keep (.awaitWord .self)
  · exact .sendWaiting hu

theorem State.keepsR.feinit {s : State} {full : Bool} {a b : Reg} : s.keepsR (Machine.feinit full a b s) := by
  unfold Machine.feinit
  refine .runHead (fun _ _ hu => ?_)
  extract_lets x k
  refine .memWait ?_
  refine .orElse ?_
  split
  · exact .localWait (.next (.pendOp hu))
  · exact .roomFor (.next (.launchFlight (.addCount hu)))

theorem State.keepsR.execFeinitEmpty {s : State} {a b : Reg} : s.keepsR (Machine.execFeinitEmpty a b s) := .feinit

theorem State.keepsR.execFeinitFull {s : State} {a b : Reg} : s.keepsR (Machine.execFeinitFull a b s) := .feinit

theorem State.keepsR.touch {s : State} {wr : Bool} {a : Reg} : s.keepsR (Machine.touch wr a s) := by
  unfold Machine.touch
  refine .runReply (fun _ _ hu => ?_) (fun _ _ hu => .next hu)
  extract_lets x need
  refine .orElse ?_
  split
  · exact .next hu
  · split
    · exact .next hu
    · exact .keep (.await (.launchFlight hu))

theorem State.keepsR.execTouchRd {s : State} {a : Reg} : s.keepsR (Machine.execTouchRd a s) := .touch

theorem State.keepsR.execTouchWr {s : State} {a : Reg} : s.keepsR (Machine.execTouchWr a s) := .touch

section
variable {s t : State} (h : s.tame t)
include h

theorem State.tame.retestSlot {tk : Nat} : s.tame (t.retestSlot tk) := by
  unfold State.retestSlot
  split
  · exact .ite h (.updSlot h (by exact fun _ => id))
  · exact h

theorem State.tame.retest : s.tame (t.retest) := .foldl h (fun _ _ hu => .retestSlot hu)

theorem State.tame.takeWake {tk : Nat} : s.tame (t.takeWake tk) := by
  unfold State.takeWake
  split
  · exact .updSlot h (by exact fun _ => id)
  · exact .ite (.updSlot h (by exact fun _ => id)) (.updSlot h (by exact fun _ => id))
  · exact .updSlot h (by exact fun _ => id)

end

theorem State.keepsR.execWaitaddr {s : State} {d a b : Reg} {off : BitVec 14} {w : BitVec 2} :
    s.keepsR (Machine.execWaitaddr d a b off w s) := by
  unfold Machine.execWaitaddr
  refine .runReply (fun _ _ hu => ?_) (fun _ _ hu => .put (.popPorts hu))
  extract_lets x k now
  refine .orElse ?_
  refine .memWait ?_
  refine .localWait ?_
  split
  · exact .put (.updMe hu (by exact fun _ => id))
  · split
    · exact .put hu
    · exact .block

theorem State.keepsR.execPlaceSet {s : State} {imm : BitVec 22} : s.keepsR (Machine.execPlaceSet imm s) := by
  unfold Machine.execPlaceSet
  refine .runHead (fun _ _ hu => ?_)
  split
  · exact .trap
  · exact .next (.updPart hu)

theorem State.keepsR.execPlaceGet {s : State} {d : Reg} : s.keepsR (Machine.execPlaceGet d s) := .runHead (fun _ _ hu => .put hu)

theorem State.keepsR.execPlaceClr {s : State} {a : Reg} : s.keepsR (Machine.execPlaceClr a s) := by
  unfold Machine.execPlaceClr
  refine .runHead (fun _ _ hu => ?_)
  split
  · exact .next (.frame hu (by rfl))
  · split
    · exact .trap
    · split
      · exact .next hu
      · exact .next (.frame hu (by rfl))

section
variable {s t : State} (h : s.tame t)
include h

theorem State.tame.predict {ck : Nat} {a : Word} {up : Bool} {n : Nat} : s.tame (t.predict ck a up n) := .updCore h

end

theorem State.tameA.logRoom {s t : State} {k : Act} (h : s.tame t) (hk : s.tameA k) : s.tameA (logRoom t k) := by
  unfold Machine.logRoom
  split
  · exact .keep (.updMe h (by exact fun _ => id))
  · exact hk

theorem State.tameA.atomicAct {s s0 t : State} (h0 : s.tame s0) (h :
    s.tame t) {a : Word} {n : Nat} {op : MemOp} {ret : Ret} {mo : MOrd} {sc : Scope}
    {write : State → Nat → Act} {mark : State → State} (hw : ∀ u n, s.tame u → s.tameA (write u n)) (hm : ∀ u, s.tame u → s.tame (mark u)) :
    s.tameA (atomicAct s0 t a n op ret mo sc write mark) := by
  unfold Machine.atomicAct
  refine .memWait (.orElse (.logRoom h0 ?_))
  split
  · extract_lets k
    split
    · exact .block
    · exact .localWait (hw _ _ (.bumpSeq (.atomicOn h)))
  · exact .roomFor (.next (.bumpSeq (.launchFlight (hm _ (.addCount h)))))

theorem State.keepsR.execAmo {s : State} {d a b : Reg} {op : AmoOp} {wide : Bool} {mo : MOrd} {sc : Scope} :
    s.keepsR (Machine.execAmo d a b op wide mo sc s) :=
  .runHead (fun _ _ hu => .atomicAct .self hu (fun _ _ hu1 => .put hu1) (fun _ hu1 => .markBusy hu1))

theorem State.keepsR.execCas {s : State} {d a b c : Reg} {wide : Bool} {mo : MOrd} {sc : Scope} :
    s.keepsR (Machine.execCas d a b c wide mo sc s) :=
  .runHead (fun _ _ hu => .atomicAct .self hu (fun _ _ hu1 => .put hu1) (fun _ hu1 => .markBusy hu1))

theorem State.keepsR.execCas2 {s : State} {d a b c : Reg} {mo : MOrd} {sc : Scope} : s.keepsR (Machine.execCas2 d a b c mo sc s) :=
  .runHead (fun _ _ hu => .atomicAct .self hu (fun _ _ hu1 => .next (.writeReg (.writeReg hu1))) (fun _ hu1 => .markBusy (.markBusy hu1)))

end Sys2Proof.Machine

end

section
/-! SUPPORT. The same of atomics, full/empty words, and accesses in flight. -/

namespace Sys2Proof.Machine

section
variable {s t : State} (h : s.tame t)
include h

theorem State.tame.redJoin {router id : Nat} : s.tame (t.redJoin router id) := by
  unfold State.redJoin
  split
  · exact h
  · extract_lets mine same a
    have ha : s.tame a := .takeId h
    split
    · extract_lets pkt s1
      have hs1 : s.tame s1 := .ite h (.dropPacket h)
      exact .frame hs1 (by rfl)
    · exact .frame ha (by rfl)

theorem State.tame.holdRed {id rsn : Nat} : s.tame (t.holdRed id rsn) := by
  unfold State.holdRed
  split
  · exact h
  · split
    · exact h
    · exact .redJoin h

theorem State.tame.performRed {f : Flight} {k : Nat} {p1 : List Flight} : s.tame (t.performRed f k p1) := by
  unfold State.performRed
  split
  · exact .atomicAt h
  · exact .atomicAt h
  · exact .foldl (.atomicAt h) (fun _ _ hu => .logAtomic hu)

theorem State.tameO.contribute {f : Flight} {k : Nat} : s.tameO (t.contribute f k) := by
  unfold State.contribute
  extract_lets now note ms t1
  have hnote : ∀ (t : State) (ds : List ℕ), s.tame t → s.tame (note t ds) := fun _ _ hu => .frame hu (by rfl)
  have ht1 : s.tame t1 := .performRed h
  split
  · extract_lets ms1
    exact .some (.ite (hnote _ _ h) (hnote _ _ (.performRed h)))
  · split
    · exact .none
    · exact .some (.frame ht1 (by rfl))

end

theorem State.tameP.runAtomic {s t : State} (h : s.tame t) {f : Flight} {k : Nat} : s.tameP (t.runAtomic f k) := by
  intro r hr
  unfold State.runAtomic at hr
  split at hr
  · rw [← Option.some.inj hr]
    exact .atomicAt h
  · obtain ⟨u, hu, rfl⟩ := Option.map_eq_some_iff.mp hr
    exact State.tameO.contribute h _ hu

section
variable {s t : State} (h : s.tame t)
include h

theorem State.tameO.localRed {a : Word} {k n op : Nat} {b : Word} : s.tameO (t.localRed a k n op b) := by
  unfold State.localRed
  split
  · exact .some (.atomicOn h)
  · exact .contribute h

end

theorem State.keepsR.execRed {s : State} {a b : Reg} {op : AmoOp} {wide : Bool} {mo : MOrd} {sc : Scope} :
    s.keepsR (Machine.execRed a b op wide mo sc s) := by
  unfold Machine.execRed
  refine .runHead (fun _ _ hu => ?_)
  extract_lets x n k f
  refine .memWait ?_
  refine .orElse ?_
  split
  · refine .logRoom .self ?_
    split
    · exact .block
    · refine .localWait ?_
      split
      · next _ _ heq =>
          exact .next (.bumpSeq (State.tameO.localRed hu _ heq))
      · exact .block
  · split
    · exact .holdEffect hu
    · exact .logRoom .self (.roomFor (.next (.bumpSeq (.holdRed (.launchFlight (.addCount hu))))))

section
variable {s t : State} (h : s.tame t)
include h

theorem State.tame.atomicDone {f : Flight} {old : BitVec 128} : s.tame (t.atomicDone f old) := .setStage h

end

theorem State.keepsR.execRemoteAccessArrival {s : State} {id : Nat} : s.keepsR (Machine.execRemoteAccessArrival id s) := by
  unfold Machine.execRemoteAccessArrival
  refine .event ?_
  refine .bind (fun _ _ => ?_)
  split
  · split
    · split
      · exact .some (.respond (.setStage (.dropPacket .self)))
      · split
        · exact .none
        · exact .some (.respond (.performAt (.dropPacket (.noteBlock .self))))
    · exact .none
  · exact .none

section
variable {s t : State} (h : s.tame t)
include h

theorem State.tame.denialArrives {f : Flight} : s.tame (t.denialArrives f) := .ite (.drainDeny (.removeFlight h)) (.denyFlight h)

end

theorem State.keepsR.execRemoteDenial {s : State} {id : Nat} : s.keepsR (Machine.execRemoteDenial id s) := by
  unfold Machine.execRemoteDenial
  refine .event ?_
  refine .bind (fun _ _ => ?_)
  split
  · split
    · exact .none
    · exact .some (.denialArrives .self)
  · split
    · exact .none
    · exact .some (.denialArrives .self)
  · exact .none

theorem State.keepsR.execNiAtomic {s : State} {id : Nat} : s.keepsR (Machine.execNiAtomic id s) := by
  unfold Machine.execNiAtomic
  refine .event ?_
  refine .bind (fun _ _ => ?_)
  split
  · refine .bind (fun _ _ => ?_)
    split
    · split
      · exact .none
      · exact .bind (fun _ a5 => .some (.respond (.atomicDone (State.tameP.runAtomic .self _ a5))))
    · split
      · exact .none
      · exact .bind (fun _ a5 => .some (.respond (.atomicDone (State.tameP.runAtomic .self _ a5))))
    · exact .none
  · exact .none

section
variable {s t : State} (h : s.tame t)
include h

theorem State.tameO.peerWord {id : Nat} {lde : Bool} : s.tameO (t.peerWord id lde) := by
  unfold State.peerWord
  refine .bind (fun _ _ => ?_)
  refine .bind (fun a2 _ => ?_)
  split
  · exact .none
  · extract_lets s1
    have hs1 : s.tame s1 := .ite h (.wr8 h)
    exact .some (.setFe (k := a2) (b := !lde) hs1 (by rfl))

end

theorem State.keepsR.execLdePerform {s : State} {id : Nat} : s.keepsR (Machine.execLdePerform id s) := by
  unfold Machine.execLdePerform
  refine .event ?_
  split
  · exact .peerWord .self
  · refine .bind (fun _ _ => ?_)
    split
    · refine .bind (fun a2 _ => ?_)
      split
      · exact .some (.respond (.setStage (.setFe (k := a2) (b := false) .self (by rfl))))
      · exact .none
    · exact .none

theorem State.keepsR.execStfPerform {s : State} {id : Nat} : s.keepsR (Machine.execStfPerform id s) := by
  unfold Machine.execStfPerform
  refine .event ?_
  split
  · exact .peerWord .self
  · refine .bind (fun _ _ => ?_)
    split
    · refine .bind (fun a2 _ => ?_)
      split
      · refine .some ?_
        refine .respond ?_
        refine .setStage ?_
        extract_lets a4
        have ha4 : s.tame a4 := .wr8 .self
        exact .setFe (k := a2) (b := true) ha4 (by rfl)
      · exact .none
    · exact .none

section
variable {s t : State} (h : s.tame t)
include h

theorem State.tame.placeCount {pa die : Nat} : s.tame (t.placeCount pa die) := by
  unfold State.placeCount
  extract_lets g listed p place a a1
  have ha : s.tame a := .takeId h
  exact .frame ha (by rfl)

end

theorem State.keepsR.execHomeStore {s : State} {id : Nat} : s.keepsR (Machine.execHomeStore id s) := by
  unfold Machine.execHomeStore
  refine .event ?_
  refine .bind (fun _ _ => ?_)
  split
  · split
    · exact .some (.setStage (.cacheStore (.invalidateOthers (.writeW .self))))
    · exact .none
  · exact .none

section
variable {s t : State} (h : s.tame t)
include h

theorem State.tame.homeNote {line ck : Nat} : s.tame (t.homeNote line ck) := by
  unfold State.homeNote
  extract_lets now old
  exact .frame h (by rfl)

theorem State.tame.homeExecutes {k ck die : Nat} : s.tame (t.homeExecutes k ck die) := by
  unfold State.homeExecutes
  extract_lets line s1
  have hs1 : s.tame s1 := .invalidateOthers (.placeCount h)
  exact .homeNote (.frame hs1 (by rfl))

end

theorem State.tameP.homeRuns {s t : State} (h : s.tame t) {f : Flight} {k : Nat} : s.tameP (t.homeRuns f k) := by
  intro r hr
  obtain ⟨p, hp, hr⟩ := Option.bind_eq_some_iff.mp hr
  rw [← Option.some.inj hr]
  exact .homeExecutes (.predict (State.tameP.runAtomic h _ hp))

theorem State.keepsR.execHomeAtomic {s : State} {id : Nat} : s.keepsR (Machine.execHomeAtomic id s) := by
  unfold Machine.execHomeAtomic
  refine .event ?_
  refine .bind (fun _ _ => ?_)
  split
  · split
    · exact .bind (fun _ a3 => .some (.atomicDone (State.tameP.homeRuns .self _ a3)))
    · exact .none
  · split
    · exact .bind (fun _ a3 => .some (.atomicDone (State.tameP.homeRuns .self _ a3)))
    · exact .none
  · exact .none

theorem State.tameP.ownAtomic {s t : State} (h : s.tame t) {f : Flight} {k : Nat} : s.tameP (t.ownAtomic f k) := by
  intro r hr
  obtain ⟨p, hp, hr⟩ := Option.bind_eq_some_iff.mp hr
  have hrun : s.tame p.2 := State.tameP.runAtomic h _ hp
  rw [← Option.some.inj hr]
  dsimp only
  exact .frame (.ite (.ite (.predict hrun) (.ite hrun (.predict hrun)))
    (.invalidateBut (.placeCount (.ite (.predict hrun) (.ite hrun (.predict hrun)))))) (by rfl)

section
variable {s t : State} (h : s.tame t)
include h

theorem State.tame.lineArrives {f : Flight} {l : Nat} : s.tame (t.lineArrives f l) :=
  .updSlot (.cacheLine (.removeFlight h)) (hf := fun x => by split <;> exact id)

end

theorem State.keepsR.execLoadResponse {s : State} {id : Nat} : s.keepsR (Machine.execLoadResponse id s) := by
  refine .event (.bind fun f _ => ?_)
  have hdone (u : State) (v : Nat) (h : s.tame u) : s.tame ((u.deliver f v).finishFlight f) := .finishFlight (.deliver h)
  have hown {c : Prop} [Decidable c] {k : Nat} :
      s.tameO (if c then (s.ownAtomic f k).bind fun r => some ((r.2.deliver f r.1.toNat).finishFlight f) else none) := by
    split
    · exact .bind fun r hr => .some (hdone _ _ (State.tameP.ownAtomic .self _ hr))
    · exact .none
  cases f.stage with
  | resp v => exact .guard (hdone _ _ .self)
  | home k =>
    cases f.op with
    | fetch =>
      dsimp only
      split
      · exact .none
      · exact .some (.lineArrives .self)
    | load =>
      refine .guard (hdone _ _ (.ite ?_ (.ite (.cacheLoad ?_) (.dieFill ?_))))
      all_goals exact .draw (.noteForwards .self)
    | flush => exact .guard (hdone _ _ .self)
    | amo o b => exact hown
    | cas b c => exact hown
    | _ => exact .none
  | peer =>
    cases f.op with
    | load => exact .guard (hdone _ _ (.draw .self))
    | amo o b => exact .guard (hdone _ _ (.draw .self))
    | cas b c => exact .guard (hdone _ _ (.draw .self))
    | lde => exact .guard (hdone _ _ (.draw .self))
    | touch w => exact .guard (hdone _ _ (.draw .self))
    | tset b => exact .guard (hdone _ _ (.draw .self))
    | _ => exact .none
  | _ => exact .none

section
variable {s t : State} (h : s.tame t)
include h

theorem State.tame.ackPush {p : PushMsg} : s.tame (t.ackPush p) := by
  unfold State.ackPush
  extract_lets a s1
  have ha : s.tame a := .dropPacket h
  have hs1 : s.tame s1 := .frame ha (by rfl)
  exact .ite (.endCount hs1) hs1

theorem State.tame.endPush {p : PushMsg} : s.tame (t.endPush p) := by
  unfold State.endPush
  extract_lets s1 info
  have hs1 : s.tame s1 := .ackPush h
  exact .ite (.updQuad (.ite (.postOrReport hs1) (.drainDeny hs1))) hs1

end

theorem State.keepsR.execStoreAck {s : State} {id : Nat} : s.keepsR (Machine.execStoreAck id s) := by
  refine .event ?_
  split
  · exact .map fun p _ => .endPush .self
  · next f _ =>
    cases f.stage with
    | ack =>
      cases f.op with
      | stf b => exact .guard (.finishFlight (.answerFlight .self))
      | touch w => exact .guard (.finishFlight (.answerFlight .self))
      | _ => exact .guard (.finishFlight .self)
    | home k =>
      cases f.op with
      | store bs => exact .guard (.finishFlight (.writeW .self))
      | amo o b =>
        dsimp only
        split
        · exact .bind fun r hr => .some (.finishFlight (State.tameP.ownAtomic .self _ hr))
        · exact .none
      | _ => exact .none
    | peer =>
      cases f.op with
      | store bs => exact .guard (.finishFlight .self)
      | feinit b full => exact .guard (.finishFlight .self)
      | amo o b => exact .guard (.finishFlight .self)
      | dec => exact .guard (.finishFlight .self)
      | stf b => exact .guard (.finishFlight (.answerFlight .self))
      | _ => exact .none
    | _ => exact .none

section
variable {s t : State} (h : s.tame t)
include h

theorem State.tame.faultMessage {f : Flight} {why : Nat} : s.tame (t.faultMessage f why) := .service h

end

theorem State.keepsR.execTranslationRequest {s : State} {id : Nat} : s.keepsR (Machine.execTranslationRequest id s) := by
  unfold Machine.execTranslationRequest
  refine .event ?_
  refine .bind (fun _ _ => ?_)
  split
  · extract_lets va die need go
    have hgo : ∀ (t : State) (e : TlbEntry), s.tame t → s.tame (go t e) := by
      intro _ _ hu
      unfold go
      extract_lets t11
      have ht11 : s.tame t11 := .tlbAdd hu
      split
      · exact .removeFlight (.answerFlight ht11)
      · exact .setHome ht11
    split
    · exact .some (hgo _ _ .self)
    · split
      · exact .some (hgo _ _ (.tlbAdd .self))
      · split
        · exact .some (hgo _ _ (.tlbAdd (.tlbAdd (.draw .self))))
        · exact .some (.faultMessage (.setStage (.draw .self)))
        · exact .some (.setStage (.draw .self))
  · exact .none

theorem State.keepsR.execStage2FaultReply {s : State} {id : Nat} {retry : Bool} : s.keepsR (Machine.execStage2FaultReply id retry s) := by
  unfold Machine.execStage2FaultReply
  refine .event ?_
  split
  · split
    · exact .some (.ite (.setStage .self) (.failFlights .self))
    · exact .none
  · extract_lets t1
    have ht1 : s.tame t1 := .frame .self (by rfl)
    exact .some (.ite ht1 (.poison ht1))
  · exact .map (fun _ _ => .drainAnswer .self)

theorem State.keepsR.execFaultNotice {s : State} {id : Nat} : s.keepsR (Machine.execFaultNotice id s) := by
  unfold Machine.execFaultNotice
  refine .event ?_
  refine .bind (fun _ _ => ?_)
  split
  · exact .some (.setStage .self)
  · exact .some (.setStage .self)
  · exact .none

theorem State.keepsR.execAtsReply {s : State} {id : Nat} {ok : Bool} : s.keepsR (Machine.execAtsReply id ok s) := by
  unfold Machine.execAtsReply
  refine .event ?_
  refine .bind (fun _ _ => ?_)
  split
  · extract_lets va t1
    have ht1 : s.tame t1 := .tlbAdd .self
    split
    · split
      · exact .some (.removeFlight (.answerFlight ht1))
      · exact .some (.setStage ht1)
    · exact .some (.failFlights .self)
  · exact .none

theorem State.keepsR.execFreplyRetry {s : State} {pid thread : Nat} {tag : BitVec 8} :
    s.keepsR (Machine.execFreplyRetry pid thread tag s) :=
  .next (.freplyRetry .self)

theorem State.keepsR.execFreplyFail {s : State} {pid thread : Nat} {tag : BitVec 8} {reason : BitVec 12} :
    s.keepsR (Machine.execFreplyFail pid thread tag reason s) :=
  .next (.freplyFail .self)

theorem State.keepsR.execS1invPage {s : State} {pid vpn size : Nat} : s.keepsR (Machine.execS1invPage pid vpn size s) :=
  .next (.s1inv .self)

theorem State.keepsR.execS1invAll {s : State} {pid : Nat} : s.keepsR (Machine.execS1invAll pid s) := .next (.s1inv .self)

theorem State.keepsR.execS1invComplete {s : State} {pid : Nat} : s.keepsR (Machine.execS1invComplete pid s) := by
  unfold Machine.execS1invComplete
  refine .event ?_
  refine .bind (fun _ _ => ?_)
  split
  · exact .none
  · exact .some (.updPart (.frame .self (by rfl)))

section
variable {s t : State} (h : s.tame t)
include h

theorem State.tame.dropFrames {pa n : Nat} : s.tame (t.dropFrames pa n) := .frame h (by rfl)

theorem State.tame.reassign {pa n old new : Nat} : s.tame (t.reassign pa n old new) := by
  unfold State.reassign
  extract_lets inRange s1
  have hs1 : s.tame s1 := .zeroRange (.dropFrames h)
  exact .frame hs1 (by rfl)

end

theorem State.keepsR.execPageMigration {s : State} {granule frame : Nat} : s.keepsR (Machine.execPageMigration granule frame s) := by
  refine .event ?_
  extract_lets c clear old s1 moveKey
  refine .bind fun owner _ => ?_
  extract_lets pid small free s2 key s3
  have hclear : s.tame clear := .frame .self (by rfl)
  have hs1 : s.tame s1 := .wrBytes hclear
  have hs2 : s.tame s2 := .updPart hs1
  have hs3 : s.tame s3 := .updPanel (.reassign hs2)
  split
  · exact .none
  · split
    · exact .some hclear
    · clear_value s3
      exact .some (.frame hs3 (by rfl))

end Sys2Proof.Machine

end

section
/-! SUPPORT. The same of engines' heads, system heads, a slot's own events, and the vector heads. -/

namespace Sys2Proof.Machine

theorem State.tame.writeChunks {s t : State} (h : s.tame t) {ks : List Nat} {bs : List Byte} : s.tame (t.writeChunks ks bs) := by
  induction ks generalizing t bs with
  | nil => exact h
  | cons k ks ih => exact ih (.wrBytes (.recallLines h))

theorem State.tameE.engineWrite {s t : State} (h : s.tame t) {tk pid : Nat} {a : Word} {bs : List Byte} :
    s.tameE (t.engineWrite tk pid a bs) := by
  unfold State.engineWrite
  split
  · exact .error
  · exact .ok (.writeChunks (.engineFill h))

theorem State.tameO.handback {s t : State} (h : s.tame t) {tk kind : Nat} {ws : List Word} {fault : Word} {write final : Bool} {reason : Nat} :
    s.tameO (t.handback tk kind ws fault write final reason) := by
  have hgo (u : State) (hu : s.tame u) (a : Word) :
      s.tame ((u.updSlot tk fun x => { x with hbAddr := a, hbWaiting := true, hbPending := true }).postAsync tk 0x0F a) :=
          .postAsync (.updSlot hu (by exact fun _ => id))
  unfold State.handback
  split
  · exact .none
  · exact .some (hgo _ (.wrBytes (.draw h)) _)

section
variable {s t : State} (h : s.tame t)
include h

theorem State.tame.clearCommit {tk h1 : Nat} : s.tame (t.clearCommit tk h1) := by
  unfold State.clearCommit
  split
  · exact h
  · exact .wr8 h

theorem State.tame.freeNotices {tk : Nat} : s.tame (t.freeNotices tk) := by
  unfold State.freeNotices
  refine .foldl h (fun _ _ hu => ?_)
  extract_lets m a1
  have ha1 : s.tame a1 := .takeId hu
  split
  · exact .frame ha1 (by rfl)
  · split
    · exact hu
    · exact .frame ha1 (by rfl)

end

/-- A write of other bits of STATUS leaves PL. -/
theorem getLsbD_zero_or {w v : Word} (hv : v.getLsbD 0 = false) : (w ||| v).getLsbD 0 = w.getLsbD 0 := by
  rw [BitVec.getLsbD_or, hv, Bool.or_false]

theorem getLsbD_zero_and {w v : Word} (hv : v.getLsbD 0 = true) : (w &&& v).getLsbD 0 = w.getLsbD 0 := by
  rw [BitVec.getLsbD_and, hv, Bool.and_true]

theorem State.tame.basteEnable {s t : State} (h : s.tame t) {tk : Nat} {v : Word} : s.tame (t.basteEnable tk v) := by
  unfold State.basteEnable
  extract_lets x guarded s1
  have hs1 : s.tame s1 := .updSlot h (hf := fun x p => by
    have hbit : (0x40#64 : Word).getLsbD 0 = false := by decide
    have hp : (x.sr.status ||| 0x40#64).getLsbD 0 = true := p
    rwa [getLsbD_zero_or hbit] at hp)
  exact .ite (.clearCommit (.clearCommit hs1)) (.updSlot h (by exact fun _ => id))

theorem State.tame.basteDisable {s t : State} (h : s.tame t) {tk : Nat} {v : Word} : s.tame (t.basteDisable tk v) :=
  .updSlot (.freeNotices h) (hf := fun x p => by
    have hbit : (~~~0x40#64 : Word).getLsbD 0 = true := by decide
    have hp : (x.sr.status &&& ~~~0x40#64).getLsbD 0 = true := p
    rwa [getLsbD_zero_and hbit] at hp)

section
variable {s t : State} (h : s.tame t)
include h

theorem State.tame.writeBastecfg {tk : Nat} {w : Word} : s.tame (t.writeBastecfg tk w) := by
  unfold State.writeBastecfg
  extract_lets x v
  exact .ite (.basteEnable h) (.ite (.updSlot h (by exact fun _ => id)) (.basteDisable h))

end

theorem State.tame.srSet {s t : State} (h : s.tame t) {tk n : Nat} {v : Word} : s.tame (t.srSet tk n v) := by
  have hstatus (x : Slot) (p : (x.updSr fun r => { r with status := (r.status &&& ~~~0x80#64) ||| (v &&& 0x80#64) }).pl = true) : x.pl = true := by
    have hmask : (~~~0x80#64 : Word).getLsbD 0 = true := by decide
    have hbit : (v &&& 0x80#64).getLsbD 0 = false := by simp
    have hp : ((x.sr.status &&& ~~~0x80#64) ||| (v &&& 0x80#64)).getLsbD 0 = true := p
    rwa [getLsbD_zero_or hbit, getLsbD_zero_and hmask] at hp
  have hupd (f : SysRegs → SysRegs) (hf : ∀ r, (f r).status = r.status) : s.tame (t.updSlot tk fun x => x.updSr f) :=
    .updSlot h (hf := fun x p => by
      have hp : (f x.sr).status.getLsbD 0 = true := p
      rwa [hf] at hp)
  unfold State.srSet
  dsimp only
  iterate 5
    refine .ite ?_ ?_
    · exact hupd _ fun _ => Eq.refl _
  refine .ite (.updSlot h (hf := hstatus)) (.ite (.updSlot h (by exact fun _ => id)) ?_)
  iterate 2
    refine .ite ?_ ?_
    · exact hupd _ fun _ => Eq.refl _
  refine .ite (.updCore h) (.ite (.updCore h) ?_)
  iterate 3
    refine .ite ?_ ?_
    · exact hupd _ fun _ => Eq.refl _
  exact .ite (.writeBastecfg h) (.ite (.updPart h) (.ite (.updRegion h) (.ite (.updPart h) h)))

theorem State.Wf.abandonPushes {t : State} (h : t.Wf) {tk q : Nat} {pc : Word} : (t.abandonPushes tk q pc).Wf := by
  unfold State.abandonPushes
  extract_lets left s1
  have hs1 : s1.Wf := .enterTrap (.updSlot h)
  exact .ite hs1 (.updSlot hs1)

theorem State.Wf.bindQueue {t : State} (h : t.Wf) {ck q w r : Nat} : (t.bindQueue ck q w r).Wf := by
  unfold State.bindQueue
  extract_lets s1
  have hs1 : s1.Wf := .of (.updCore .self) h
  refine .folds hs1 (fun _ _ hu => ?_)
  extract_lets tk x
  split
  · exact .abandonPushes hu
  · exact .ite (.enterTrap hu) hu

section
variable {s t : State} (h : s.tame t)
include h

theorem State.tame.vectorWrite {tk : Nat} {dest : VDest} {seed : Option (BitVec 32)} {pc : Word} :
    s.tame (t.vectorWrite tk dest seed pc) := by
  unfold State.vectorWrite
  extract_lets s1
  have hs1 : s.tame s1 := .updSlot h (hf := fun x => by dsimp only; split <;> exact id)
  split
  · exact .setV hs1
  · exact .setM hs1
  · exact .ite hs1 (.landReg hs1)

end

theorem State.tame.landStore {s t : State} (h : s.tame t) {ck : Nat} {p : Pend} {keys : List Nat} {write : State → State}
    (hw : s.tame (write t)) : s.tame (t.landStore ck p keys write) := .ite (.updCore h) hw

theorem State.Wf.applyPend {t : State} (h : t.Wf) {ck : Nat} {p : Pend} : (t.applyPend ck p).Wf := by
  have hset (k n : Nat) (v : Word) : (t.srSet k n v).Wf := .of (.srSet .self) h
  unfold State.applyPend
  cases p.op with
  | reg r => exact .of (.landReg .self) h
  | hit r => exact .of (.ite (.endCount .self) (.landReg (.endCount .self))) h
  | unit dest seed => exact .of (.vectorWrite .self) h
  | vec r val keep => exact .of (.setV (.updSlot .self (by exact fun _ => id))) h
  | sys n d =>
    cases d with
    | none => exact hset _ _ _
    | some r => exact .ite (hset _ _ _) (.of (.landReg .self) (hset _ _ _))
  | qmap q w r => exact .bindQueue h
  | qclear q => exact .of (.updCore .self) h
  | store k bs => exact .of (.landStore .self (.retest (.writeW .self))) h
  | feinit k full => exact .of (.landStore .self (.retest (.setFe (t := t.wr8 k p.val) (k := k) (b := full) (.wr8 .self) (by rfl)))) h

theorem State.Wf.performDue {t : State} (h : t.Wf) {ck : Nat} : (t.performDue ck).Wf := by
  unfold State.performDue
  extract_lets c due s1 s2
  have hs1 : s1.Wf := .of (.setCore .self) h
  have hs2 : s2.Wf := .folds hs1 (fun _ _ hu => .folds hu (fun _ _ hu1 => .applyPend hu1))
  exact .folds hs2 (fun _ _ hu => .applyPend hu)

theorem State.tameA.srDefined {s : State} {n : Nat} {k : SrAccess → Act} (hk : ∀ a, s.tameA (k a)) : s.tameA (srDefined n k) := by
  unfold Machine.srDefined
  split
  · exact .trap
  · exact hk _

theorem State.keepsR.execRdsr {s : State} {d : Reg} {sr : BitVec 12} : s.keepsR (Machine.execRdsr d sr s) :=
  .runHead (fun _ _ hu => .srDefined (fun _ => .put hu))

theorem State.keepsR.execWrsr {s : State} {sr : BitVec 12} {a : Reg} : s.keepsR (Machine.execWrsr sr a s) := by
  unfold Machine.execWrsr
  refine .runHead (fun _ _ hu => ?_)
  refine .srDefined (fun _ => ?_)
  split
  · exact .next (.pendOp hu)
  · exact .next hu

theorem State.keepsR.execSwsr {s : State} {d : Reg} {sr : BitVec 12} {a : Reg} : s.keepsR (Machine.execSwsr d sr a s) := by
  unfold Machine.execSwsr
  refine .runHead (fun _ _ hu => ?_)
  refine .srDefined (fun _ => ?_)
  split
  · exact .put hu
  · split
    · exact .lateDest (.next (.pendOp hu))
    · split
      · exact .trap
      · exact .next (.pendOp hu)

theorem State.keepsR.execGetid {s : State} {sel : IdSel} {d : Reg} : s.keepsR (Machine.execGetid sel d s) :=
  .runHead (fun _ _ hu => .put hu)

theorem State.keepsR.execWid {s : State} {d : Reg} {n : BitVec 22} : s.keepsR (Machine.execWid d n s) := .runHead (fun _ _ hu => .put hu)

theorem State.keepsR.execTimeLoc {s : State} {d : Reg} : s.keepsR (Machine.execTimeLoc d s) := .runHead (fun _ _ hu => .put hu)

theorem State.keepsR.execTimeGlob {s : State} {d : Reg} : s.keepsR (Machine.execTimeGlob d s) := .runHead (fun _ _ hu => .put hu)

theorem State.keepsR.execIllegalInstruction {s : State} {head : BitVec 16} {rsv : Bool} : s.keepsR (Machine.execIllegalInstruction head rsv s) :=
  .kept .enterTrap

theorem State.keepsR.execTrap {s : State} {n : BitVec 6} : s.keepsR (Machine.execTrap n s) := .runHead (fun _ _ _ => .trapNext)

theorem State.keepsR.execBrk {s : State} {n : BitVec 6} : s.keepsR (Machine.execBrk n s) := by
  unfold Machine.execBrk
  refine .runHead (fun _ _ hu => ?_)
  split
  · exact .keep (.updMyQuad hu)
  · exact .trapNext

/-- A head of the supervisor's reaches its acts at PL 1 alone (R92). -/
theorem State.tameA.issueSup {s : State} {u : Use} {head : Nat} {k : (Reg → Word) → State → Act} (hu : u.sup = some head)
    (hk : ∀ v, s.me.pl = true → s.tameA (k v (s.popPorts u.rd))) : s.tameA (u.issue s k) := by
  by_cases hp : s.me.pl = true
  · unfold Use.issue
    split
    · exact .trap
    · split
      · exact .exhaust
      · split
        · exact .trap
        · split
          · exact .block
          · split
            · exact .block
            · exact hk _ hp
  · have hs : s.super = false := by simpa [State.super] using hp
    unfold Use.issue
    rw [hu, hs]
    exact .trap

theorem State.keepsR.execEret {s : State} : s.keepsR (Machine.execEret s) := by
  refine .run (.issueSup (Eq.refl _) fun v hp => ?_)
  dsimp only
  split
  · exact .trap
  · exact .keep (.setSlot .self fun _ => hp)

theorem State.keepsR.execSalloc {s : State} {d a : Reg} {imm : BitVec 22} : s.keepsR (Machine.execSalloc d a imm s) := by
  unfold Machine.execSalloc
  refine .runHead (fun _ _ hu => ?_)
  extract_lets w units
  split
  · exact .exhaust
  · exact .put (.updMe hu (by exact fun _ => id))

theorem State.keepsR.execSfree {s : State} {a : Reg} : s.keepsR (Machine.execSfree a s) := by
  unfold Machine.execSfree
  refine .runHead (fun _ _ hu => ?_)
  extract_lets w n
  split
  · exact .trap
  · exact .next (.updMe hu (by exact fun _ => id))

theorem State.keepsR.execQmap {s : State} {q : BitVec 2} {w r : BitVec 3} : s.keepsR (Machine.execQmap q w r s) :=
  .runHead (fun _ _ hu => .next (.pendOp hu))

theorem State.keepsR.execQclear {s : State} {q : BitVec 2} : s.keepsR (Machine.execQclear q s) :=
  .runHead (fun _ _ hu => .next (.pendOp hu))

theorem State.keepsR.execQlen {s : State} {d : Reg} {n : BitVec 22} : s.keepsR (Machine.execQlen d n s) :=
  .runHead (fun _ _ hu => .put hu)

section
variable {s t : State} (h : s.tame t)
include h

theorem State.tame.withLine {tk l : Nat} : s.tame (t.withLine tk l) := .updSlot (.cacheLine h) (by exact fun _ => id)

end

theorem State.slot_enterTrap_ne {t : State} {tk n cause : Nat} {info epc : Word} (hn : n ≠ tk) (hx : ¬(t.slot tk).exl = true) :
    (t.enterTrap tk cause info epc).slot n = t.slot n := by
  unfold State.enterTrap
  dsimp only
  rw [if_neg hx, State.slot_setSlot, if_neg hn]

/-- A trap's entry after what leaves the slot's system registers. -/
theorem State.kept.enterTrapAfter {s t : State} {tk cause : Nat} {info epc : Word} (h : s.tame t) (hsr : (t.slot tk).sr = (s.slot tk).sr) :
    s.kept (t.enterTrap tk cause info epc) := by
  obtain ⟨hwf, hpl⟩ := h
  have htrap : t.kept (t.enterTrap tk cause info epc) := .enterTrap
  refine ⟨fun w => htrap.1 (hwf w), fun n p => ?_⟩
  by_cases hx : (t.slot tk).exl = true
  · have hd : t.enterTrap tk cause info epc = t.doubleTrap tk cause info epc := if_pos hx
    rw [hd] at p
    exact .inl (hpl n ((State.tame.doubleTrap .self).2 n p))
  · by_cases hn : n = tk
    · rcases htrap.2 n p with hold | ⟨hexl, hrest⟩
      · exact .inl (hpl n hold)
      · subst hn
        rw [Slot.exl, hsr] at hexl
        rw [hsr] at hrest
        exact .inr ⟨hexl, hrest⟩
    · rw [State.slot_enterTrap_ne hn hx] at p
      exact .inl (hpl n p)

theorem Slot.plOf.lineHere {x : Slot} (p : x.lineHere.pl = true) : x.pl = true := by
  unfold Slot.lineHere at p
  split at p <;> exact p

theorem Slot.plOf.awaitLine {x : Slot} (p : x.awaitLine.pl = true) : x.pl = true := by
  unfold Slot.awaitLine at p
  split at p <;> exact p

theorem State.slots_cacheLine {s : State} {q k l : Nat} : (s.cacheLine q k l).slots = s.slots := by
  unfold State.cacheLine
  dsimp only
  split <;> rfl

theorem State.sr_withLine {s : State} {tk l : Nat} : ((s.withLine tk l).slot tk).sr = (s.slot tk).sr := by
  unfold State.withLine State.updSlot
  rw [State.slot_setSlot_same, State.slot, State.slots_cacheLine, State.slot]

theorem State.keepsR.execLineFetch {s : State} {tk : Nat} : s.keepsR (Machine.execLineFetch tk s) := by
  have hbad {c : Nat} {info epc : Word} : ∀ u, some (s.enterTrap tk c info epc) = some u → s.kept u := fun u e => by
    cases e
    exact .enterTrap
  have htame {o : Option State} (ho : s.tameO o) : ∀ u, o = some u → s.kept u := fun u e => State.tame.kept (ho u e)
  refine .unitEventKept ?_
  extract_lets x runs
  split
  · exact htame .none
  · split
    · exact hbad
    · split
      · split
        · intro u e
          cases e
          exact .enterTrapAfter (.withLine .self) State.sr_withLine
        · exact htame (.some (.updSlot (.withLine .self) (hf := fun _ => Slot.plOf.lineHere)))
      · have hwait (u : State) (hu : s.tame u) : s.tame (u.updSlot tk Slot.awaitLine) := .updSlot hu (hf := fun _ => Slot.plOf.awaitLine)
        split
        · exact htame (.some (hwait s .self))
        · split
          · exact htame (.some (hwait s .self))
          · exact htame (.some (hwait _ (.launchFlight .self)))

section
variable {s t : State} (h : s.tame t)
include h

theorem State.tame.wakeUp {pid tk : Nat} : s.tame (t.wakeUp pid tk) := .ite (.frame h (by rfl)) (.updSaved h)

end

theorem State.keepsR.execWake {s : State} {a : Reg} : s.keepsR (Machine.execWake a s) := by
  unfold Machine.execWake
  refine .runHead (fun _ _ hu => ?_)
  split
  · exact .trap
  · exact .next (.wakeUp hu)

theorem State.keepsR.execWakeArrival {s : State} {tk : Nat} : s.keepsR (Machine.execWakeArrival tk s) := by
  unfold Machine.execWakeArrival
  refine .unitEvent ?_
  split
  · exact .some (.takeWake (.frame .self (by rfl)))
  · exact .none

section
variable {s t : State} (h : s.tame t)
include h

theorem State.tame.dropBarsets {tk : Nat} : s.tame (t.dropBarsets tk) := .frame h (by rfl)

theorem State.tameO.withdrawn {tk : Nat} : s.tameO (t.withdrawn tk) := by
  unfold State.withdrawn
  extract_lets flights launches moves c left a
  clear_value flights launches moves
  split
  · split
    · exact .none
    · exact .some (.dropBarsets (.endCount (.removeFlight h)))
  · exact .some (.frame h (by rfl))
  · split
    · exact .none
    · exact .some (.resetRotation (.updSlot (.frame h (by rfl)) (hf := fun x => by split <;> exact id)))
  · split
    · exact .some (.setCore h)
    · split
      · exact .some (.dropBarsets h)
      · exact .none

theorem State.tameO.abandonWait {tk : Nat} : s.tameO (t.abandonWait tk) := by
  unfold State.abandonWait
  extract_lets x
  split
  · exact .some h
  · exact .none
  · exact .none
  · refine .thenMap ?_ (fun _ hu => .updSlot hu (by exact fun _ => id))
    split
    · exact .some h
    · exact .withdrawn h

end

theorem State.slots_foldl {α : Type} {f : State → α → State} {l : List α} {s : State} (hf : ∀ u a, (f u a).slots = u.slots) :
    (l.foldl f s).slots = s.slots := by
  induction l generalizing s with
  | nil => rfl
  | cons a l ih => rw [List.foldl_cons, ih, hf]

theorem State.slots_freeBuffer {s : State} {p : Packet} {f : Flit} : (s.freeBuffer p f).slots = s.slots := by
  unfold State.freeBuffer
  dsimp only
  split <;> rfl

theorem State.slots_removeFlight {s : State} {f : Flight} : (s.removeFlight f).slots = s.slots := by
  unfold State.removeFlight State.dropPacket
  dsimp only
  split
  · rfl
  · exact State.slots_foldl fun u p => State.slots_foldl fun u f => State.slots_freeBuffer

theorem State.sameSr.withdrawn {s t : State} {tk : Nat} (h : s.withdrawn tk = some t) : s.sameSr t := by
  unfold State.withdrawn at h
  dsimp only at h
  split at h
  · split at h
    · exact nomatch h
    · cases h
      exact .dropBarsets (.endCount (.slots .self State.slots_removeFlight))
  · cases h
    exact State.sameSr.self.slots rfl
  · split at h
    · exact nomatch h
    · cases h
      exact .resetRotation (.updSlot (.slots .self (by rfl)) fun x => by split <;> rfl)
  · split at h
    · cases h
      exact .slots .self (by rfl)
    · split at h
      · cases h
        exact .slots .self (by rfl)
      · exact nomatch h

theorem State.sameSr.abandonWait {s t : State} {tk : Nat} (h : s.abandonWait tk = some t) : s.sameSr t := by
  unfold State.abandonWait at h
  dsimp only at h
  split at h
  · cases h
    exact .self
  · exact nomatch h
  · exact nomatch h
  · obtain ⟨u, hu, rfl⟩ := Option.map_eq_some_iff.mp h
    split at hu
    · cases hu
      exact .updSlot .self (by exact fun _ => rfl)
    · exact .updSlot (State.sameSr.withdrawn hu) (by exact fun _ => rfl)

theorem State.keepsR.execAsyncTrapEntry {s : State} {tk : Nat} : s.keepsR (Machine.execAsyncTrapEntry tk s) := by
  refine .unitEventKept fun u hu => ?_
  obtain ⟨c, _, hu⟩ := Option.bind_eq_some_iff.mp hu
  obtain ⟨_, hu⟩ := Option.ite_none_right_eq_some.mp hu
  obtain ⟨t, ht, hu⟩ := Option.bind_eq_some_iff.mp hu
  cases hu
  have hsr : s.sameSr (t.updSlot tk fun y => { y with async := y.async.tail, hbWaiting := y.hbWaiting && decide (c.code ≠ 0x0F#8) }) :=
    (State.sameSr.abandonWait ht).updSlot fun _ => rfl
  exact .enterTrapAfter (.updSlot (State.tameO.abandonWait .self _ ht) (by exact fun _ => id)) (hsr tk)

theorem State.keepsR.execHeldPushRetry {s : State} {tk : Nat} : s.keepsR (Machine.execHeldPushRetry tk s) :=
  .unitEvent (.some (.retryPush .self))

section
variable {s t : State} (h : s.tame t)
include h

theorem State.tame.beginMove {m : Move} : s.tame (t.beginMove m) := by
  unfold State.beginMove
  extract_lets t1 a
  have ht1 : s.tame t1 := .getD h (.abandonWait h)
  have ha : s.tame a := .updSlot ht1 (by exact fun _ => id)
  exact .frame ha (by rfl)

end

theorem State.keepsR.execSpill {s : State} {d a b : Reg} : s.keepsR (Machine.execSpill d a b s) := by
  unfold Machine.execSpill
  refine .runReply (fun _ _ hu => ?_) (fun _ _ hu => .put hu)
  split
  · exact .trap
  · split
    · exact .trap
    · split
      · exact .put (.rip hu)
      · exact .put hu
      · exact .keep (.await (.beginMove hu))

theorem State.keepsR.execRestor {s : State} {d a b : Reg} : s.keepsR (Machine.execRestor d a b s) := by
  unfold Machine.execRestor
  refine .runReply (fun _ _ hu => ?_) (fun _ _ hu => .put hu)
  split
  · exact .trap
  · split
    · exact .trap
    · split
      · exact .put hu
      · exact .keep (.await (.beginMove hu))

section
variable {s t : State} (h : s.tame t)
include h

theorem State.tame.dropMove {m : Move} : s.tame (t.dropMove m) := .frame h (by rfl)

theorem State.tame.answerMove {m : Move} {v : Nat} : s.tame (t.answerMove m v) := by
  unfold State.answerMove
  split
  · exact h
  · exact .answer h

end

theorem State.keepsR.execSlotSpill {s : State} {tk : Nat} : s.keepsR (Machine.execSlotSpill tk s) := by
  unfold Machine.execSlotSpill
  refine .unitEvent ?_
  refine .bind (fun _ _ => ?_)
  refine .thenO (.abandonWait .self) (fun _ hu => ?_)
  extract_lets x begin_
  have hbegin_ : s.tame begin_ := .frame hu (by rfl)
  split
  · exact .none
  · split
    · exact .some hbegin_
    · split
      · next _ _ _ =>
          exact .some hbegin_
      · exact .none
      · exact .some (.answerMove (.updSlot (.dropMove hu) (by exact fun _ => id)))

section
variable {s t : State} (h : s.tame t)
include h

theorem State.tame.park {pid n : Nat} {x : Slot} : s.tame (t.park pid n x) := .ite (.frame h (by rfl)) h

theorem State.tame.unpark {tk pid n : Nat} : s.tame (t.unpark tk pid n) := by
  unfold State.unpark
  split
  · exact h
  · exact .ite (.updSlot (.frame h (by rfl)) (by exact fun _ => id)) h

end

theorem State.tame.writeImage {s t : State} (h : s.tame t) {tk pid n : Nat} {x : Slot} : s.tame (t.writeImage tk pid n x) := by
  unfold State.writeImage
  split
  · next u hu => exact State.tameE.engineWrite h _ hu
  · exact h

section
variable {s t : State} (h : s.tame t)
include h

theorem State.tame.saveImage {tk pid n : Nat} {x : Slot} : s.tame (t.saveImage tk pid n x) := .writeImage (.park (.frame h (by rfl)))

end

theorem State.keepsR.execSpillComplete {s : State} {tk : Nat} : s.keepsR (Machine.execSpillComplete tk s) := by
  unfold Machine.execSpillComplete
  refine .unitEvent ?_
  refine .bind (fun _ _ => ?_)
  split
  · exact .none
  · extract_lets x leave
    have hleave : ∀ (t : State), s.tame t → s.tame (leave t) := fun _ hu => .answerMove (.freeSlot (.updSlot (.dropMove hu) (by exact fun _ => id)))
    split
    · exact .some (hleave _ (.saveImage .self))
    · split
      · next _ _ heq =>
          exact .some (hleave _ (.park (State.tameE.engineWrite .self _ heq)))
      · exact .none
      · exact .some (.answerMove (.updSlot (.dropMove .self) (by exact fun _ => id)))

theorem State.keptBut.unitEvent {s t : State} {ok : Bool} {n k : Nat} {o : Option State} (h : ∀ t, o = some t → s.keptBut t k)
    (e : Machine.unitEvent ok n s o = .next t) : s.keptBut t k := by
  unfold Machine.unitEvent event at e
  split at e
  · cases e
    cases o with
    | none => exact .of .self
    | some u => exact h u (Eq.refl _)
  · exact nomatch e

theorem State.keptBut.execRestoreComplete {s t : State} {tk : Nat} (h : Machine.execRestoreComplete tk s = .next t) : s.keptBut t tk := by
  have hfail (m : Move) (n : Nat) : s.tame ((((s.dropMove m).updSlot tk fun y => { y with st :=
      .free }).resetRotation (coreOf tk)).answerMove m n) :=
    .answerMove (.resetRotation (.updSlot (.dropMove .self) (by exact fun _ => id)))
  refine State.keptBut.unitEvent (fun u hu => ?_) h
  obtain ⟨m, _, hu⟩ := Option.bind_eq_some_iff.mp hu
  dsimp only at hu
  split at hu
  · exact nomatch hu
  · cases hu
    exact .of (hfail m 3)
  · split at hu
    · cases hu
      exact .of (hfail m 2)
    · split at hu
      · exact nomatch hu
      · cases hu
        exact .of (hfail m 3)
      · cases hu
        exact .tame (.setSlot (.dropMove (.draw (.engineFill .self)))) (.answerMove (.unpark .self))

theorem State.keepsR.execCycleAllowanceExhausted {s : State} {tk : Nat} : s.keepsR (Machine.execCycleAllowanceExhausted tk s) := by
  refine .unitEventKept fun u hu => ?_
  dsimp only at hu
  split at hu
  · exact nomatch hu
  · split at hu
    · cases hu
      exact .exhaust
    · cases hu
      exact State.tame.kept (.postAsync (.updSlot .self (by exact fun _ => id)))

section
variable {s t : State} (h : s.tame t)
include h

theorem State.tame.endTask {tk : Nat} : s.tame (t.endTask tk) := by
  unfold State.endTask
  extract_lets x pid s1 s2 s3
  have hs1 : s.tame s1 := .ite (.freeNotices h) h
  have hs2 : s.tame s2 := .returnAllot hs1
  have hs3 : s.tame s3 := .freeSlot hs2
  exact .ite (.updQuad hs3) (.pieceDone hs3)

end

theorem State.keepsR.execTend {s : State}  : s.keepsR (Machine.execTend s) := by
  unfold Machine.execTend
  refine .runHead (fun _ _ hu => ?_)
  extract_lets c
  split
  · exact .trap
  · split
    · exact .block
    · split
      · exact .block
      · exact .keep (.endTask hu)

section
variable {s t : State} (h : s.tame t)
include h

theorem State.tame.watchdog {tk : Nat} : s.tame (t.watchdog tk) := by
  unfold State.watchdog
  extract_lets x pid log waits s1
  have hs1 : s.tame s1 := .updSlot h (by exact fun _ => id)
  exact .ite (.ite (.contain hs1) (.service hs1)) h

end

theorem State.keepsR.execWatchdogExpiry {s : State} {tk : Nat} : s.keepsR (Machine.execWatchdogExpiry tk s) :=
  .unitEvent (.some (.watchdog .self))

section
variable {s t : State} (h : s.tame t)
include h

theorem State.tame.pushVector {dest : VDest} {seed : Option (BitVec 32)} {time : Nat × Nat} : s.tame (t.pushVector dest seed time) :=
  .updMe (.updMyCore (.takeId h)) (by exact fun _ => id)

end

theorem State.keepsR.vecUnit {s : State} {u : Use} {time : Nat × Nat} {k : (Reg → Word) → State → Act ⊕ (VDest × Option (BitVec 32))}
    (hk : ∀ v t, s.tame t → s.tameV (k v t)) : s.keepsR (vecUnit u s time k) := by
  refine .runHead fun v t ht => ?_
  split
  · exact .block
  · have ha := hk v t ht
    split
    · next a e =>
      rw [e] at ha
      exact ha
    · exact .next (.pushVector ht)

theorem State.keepsR.lanewise {s : State} {d : VReg} {srcs : List VReg} {m : MReg} {w n : Nat} {time : Nat × Nat} {f :
    (VReg → Nat) → Nat} : s.keepsR (Machine.lanewise d srcs m w n time f s) :=
  .vecUnit (fun _ _ _ => .vdest)

theorem State.keepsR.typed {s : State} {d : VReg} {srcs : List VReg} {m : MReg} {ty : VTy} {f : (VReg → Nat) → Nat} :
    s.keepsR (Machine.typed d srcs m ty f s) :=
  .lanewise

theorem State.keepsR.floating {s : State} {d : VReg} {srcs : List VReg} {m : MReg} {ty : VTy} {time : Nat × Nat} {r : Rnd} {f :
    (VReg → FVal) → FVal} : s.keepsR (Machine.floating d srcs m ty time r f s) :=
  .lanewise

theorem State.keepsR.integral {s : State} {d : VReg} {srcs : List VReg} {m : MReg} {ty : VTy} {sat : Bool} {f : (VReg → Int) → Int} :
    s.keepsR (Machine.integral d srcs m ty sat f s) :=
  .typed

theorem State.keepsR.execVadd {s : State} {d a b : VReg} {m : MReg} {r : Rnd} : s.keepsR (Machine.execVadd d a b m r s) := .floating

theorem State.keepsR.execVsub {s : State} {d a b : VReg} {m : MReg} {r : Rnd} : s.keepsR (Machine.execVsub d a b m r s) := .floating

theorem State.keepsR.execVmul {s : State} {d a b : VReg} {m : MReg} {r : Rnd} : s.keepsR (Machine.execVmul d a b m r s) := .floating

theorem State.keepsR.execVdiv {s : State} {d a b : VReg} {m : MReg} {r : Rnd} : s.keepsR (Machine.execVdiv d a b m r s) := .floating

theorem State.keepsR.execVfma {s : State} {d a b c : VReg} {m : MReg} {r : Rnd} : s.keepsR (Machine.execVfma d a b c m r s) := .floating

theorem State.keepsR.execVfms {s : State} {d a b c : VReg} {m : MReg} {r : Rnd} : s.keepsR (Machine.execVfms d a b c m r s) := .floating

theorem State.keepsR.execVfnma {s : State} {d a b c : VReg} {m : MReg} {r : Rnd} : s.keepsR (Machine.execVfnma d a b c m r s) := .floating

theorem State.keepsR.execVdadd {s : State} {d a b : VReg} {m : MReg} {r : Rnd} : s.keepsR (Machine.execVdadd d a b m r s) := .floating

theorem State.keepsR.execVdmul {s : State} {d a b : VReg} {m : MReg} {r : Rnd} : s.keepsR (Machine.execVdmul d a b m r s) := .floating

theorem State.keepsR.execVdfma {s : State} {d a b c : VReg} {m : MReg} {r : Rnd} : s.keepsR (Machine.execVdfma d a b c m r s) := .floating

theorem State.keepsR.execVmin {s : State} {d a b : VReg} {m : MReg} {ty : VTy} : s.keepsR (Machine.execVmin d a b m ty s) := .typed

theorem State.keepsR.execVmax {s : State} {d a b : VReg} {m : MReg} {ty : VTy} : s.keepsR (Machine.execVmax d a b m ty s) := .typed

theorem State.keepsR.execVabs {s : State} {d a : VReg} {m : MReg} {ty : VTy} : s.keepsR (Machine.execVabs d a m ty s) := .typed

theorem State.keepsR.execVneg {s : State} {d a : VReg} {m : MReg} {ty : VTy} : s.keepsR (Machine.execVneg d a m ty s) := .typed

end Sys2Proof.Machine

end

section
/-! SUPPORT. The same of vector memory heads, barriers and the channel heads. -/

namespace Sys2Proof.Machine

theorem State.keepsR.function32 {s : State} {d a : VReg} {m : MReg} {time : Nat × Nat} {f : Nat → Nat} :
    s.keepsR (Machine.function32 d a m time f s) :=
  .lanewise

theorem State.keepsR.execVrcp {s : State} {d a : VReg} {m : MReg} : s.keepsR (Machine.execVrcp d a m s) := .function32

theorem State.keepsR.execVrsq {s : State} {d a : VReg} {m : MReg} : s.keepsR (Machine.execVrsq d a m s) := .function32

theorem State.keepsR.execVsqrt {s : State} {d a : VReg} {m : MReg} : s.keepsR (Machine.execVsqrt d a m s) := .function32

theorem State.keepsR.execVexp2 {s : State} {d a : VReg} {m : MReg} : s.keepsR (Machine.execVexp2 d a m s) := .function32

theorem State.keepsR.execVlog2 {s : State} {d a : VReg} {m : MReg} : s.keepsR (Machine.execVlog2 d a m s) := .function32

theorem State.keepsR.execVtanh {s : State} {d a : VReg} {m : MReg} : s.keepsR (Machine.execVtanh d a m s) := .function32

theorem State.keepsR.execVscale {s : State} {d a b : VReg} {m : MReg} {ty : VTy} {r : Rnd} :
    s.keepsR (Machine.execVscale d a b m ty r s) :=
  .typed

theorem State.keepsR.execVcmp {s : State} {d : MReg} {a b : VReg} {m : MReg} {ty : VTy} {c : Cond} :
    s.keepsR (Machine.execVcmp d a b m ty c s) := by
  unfold Machine.execVcmp
  refine .vecUnit (fun _ _ _ => ?_)
  extract_lets mk old bits
  exact .inr

theorem State.keepsR.execVsel {s : State} {d a b : VReg} {m : MReg} {ty : VTy} : s.keepsR (Machine.execVsel d a b m ty s) := by
  unfold Machine.execVsel
  refine .vecUnit (fun _ _ _ => ?_)
  extract_lets mk
  exact .vdest

theorem State.keepsR.execViadd {s : State} {d a b : VReg} {m : MReg} {ty : VTy} {sat : Bool} :
    s.keepsR (Machine.execViadd d a b m ty sat s) :=
  .integral

theorem State.keepsR.execVisub {s : State} {d a b : VReg} {m : MReg} {ty : VTy} {sat : Bool} :
    s.keepsR (Machine.execVisub d a b m ty sat s) :=
  .integral

theorem State.keepsR.execVimul {s : State} {d a b : VReg} {m : MReg} {ty : VTy} {sat hi : Bool} :
    s.keepsR (Machine.execVimul d a b m ty sat hi s) :=
  .integral

theorem State.keepsR.execVimad {s : State} {d a b c : VReg} {m : MReg} {ty : VTy} {sat : Bool} :
    s.keepsR (Machine.execVimad d a b c m ty sat s) :=
  .integral

theorem State.keepsR.execVand {s : State} {d a b : VReg} {m : MReg} {ty : VTy} : s.keepsR (Machine.execVand d a b m ty s) := .typed

theorem State.keepsR.execVor {s : State} {d a b : VReg} {m : MReg} {ty : VTy} : s.keepsR (Machine.execVor d a b m ty s) := .typed

theorem State.keepsR.execVxor {s : State} {d a b : VReg} {m : MReg} {ty : VTy} : s.keepsR (Machine.execVxor d a b m ty s) := .typed

theorem State.keepsR.execVshl {s : State} {d a b : VReg} {m : MReg} {ty : VTy} : s.keepsR (Machine.execVshl d a b m ty s) := .typed

theorem State.keepsR.execVshr {s : State} {d a b : VReg} {m : MReg} {ty : VTy} : s.keepsR (Machine.execVshr d a b m ty s) := .typed

theorem State.keepsR.execVsra {s : State} {d a b : VReg} {m : MReg} {ty : VTy} : s.keepsR (Machine.execVsra d a b m ty s) := .typed

theorem State.keepsR.rounded {s : State} {d : VReg} {srcs : List VReg} {m : MReg} {r : Rnd} {w n : Nat} {time : Nat × Nat} {f :
    (VReg → Vec) → Nat → Nat → Nat} : s.keepsR (Machine.rounded d srcs m r w n time f s) := by
  unfold Machine.rounded
  extract_lets sr
  refine .vecUnit (fun _ _ _ => ?_)
  extract_lets mk dr o
  exact .inr

theorem State.keepsR.execVcvt {s : State} {d a : VReg} {m : MReg} {fmt : NFmt} {toF32 : Bool} {r : Rnd} :
    s.keepsR (Machine.execVcvt d a m fmt toF32 r s) := by
  unfold Machine.execVcvt
  extract_lets f n time
  split
  · exact .rounded
  · exact .rounded

theorem State.keepsR.execVquant {s : State} {d a b : VReg} {m : MReg} {fmt : NFmt} {r : Rnd} :
    s.keepsR (Machine.execVquant d a b m fmt r s) :=
  .rounded

theorem State.keepsR.execVclass {s : State} {d a : VReg} {m : MReg} {ty : VTy} : s.keepsR (Machine.execVclass d a m ty s) := .typed

theorem State.keepsR.execVround {s : State} {d a : VReg} {m : MReg} {ty : VTy} {r : Rnd} : s.keepsR (Machine.execVround d a m ty r s) :=
  .typed

theorem State.keepsR.execVfcvti {s : State} {d a : VReg} {m : MReg} {ty : VTy} {r : Rnd} : s.keepsR (Machine.execVfcvti d a m ty r s) :=
  .typed

theorem State.keepsR.execVicvtf {s : State} {d a : VReg} {m : MReg} {ty : VTy} {r : Rnd} : s.keepsR (Machine.execVicvtf d a m ty r s) :=
  .typed

theorem State.keepsR.reduce {s : State} {d a : VReg} {m : MReg} {ty : VTy} {kind : Nat} {op : Nat → Nat → Nat} :
    s.keepsR (Machine.reduce d a m ty kind op s) := by
  unfold Machine.reduce
  refine .vecUnit (fun _ _ _ => ?_)
  extract_lets mk xs v1
  exact .vdest

theorem State.keepsR.execVredadd {s : State} {d a : VReg} {m : MReg} {ty : VTy} {r : Rnd} : s.keepsR (Machine.execVredadd d a m ty r s) :=
  .reduce

theorem State.keepsR.execVredmax {s : State} {d a : VReg} {m : MReg} {ty : VTy} : s.keepsR (Machine.execVredmax d a m ty s) := .reduce

theorem State.keepsR.execVredmin {s : State} {d a : VReg} {m : MReg} {ty : VTy} : s.keepsR (Machine.execVredmin d a m ty s) := .reduce

theorem State.keepsR.execVscanadd {s : State} {d a : VReg} {m : MReg} {ty : VTy} {r : Rnd} :
    s.keepsR (Machine.execVscanadd d a m ty r s) := by
  unfold Machine.execVscanadd
  refine .vecUnit (fun _ _ _ => ?_)
  extract_lets mk ys
  exact .vdest

theorem State.keepsR.execVperm {s : State} {d a b : VReg} {m : MReg} {ty : VTy} : s.keepsR (Machine.execVperm d a b m ty s) :=
  .vecUnit (fun _ _ _ => .vdest)

theorem State.keepsR.execVbcast {s : State} {d a : VReg} {m : MReg} {ty : VTy} {j : BitVec 6} :
    s.keepsR (Machine.execVbcast d a m ty j s) :=
  .vecUnit (fun _ _ _ => .vdest)

theorem State.keepsR.execVsplat {s : State} {d : VReg} {a : Reg} {m : MReg} {ty : VTy} : s.keepsR (Machine.execVsplat d a m ty s) :=
  .vecUnit (fun _ _ _ => .vdest)

theorem State.keepsR.execViota {s : State} {d : VReg} {m : MReg} {ty : VTy} : s.keepsR (Machine.execViota d m ty s) :=
  .vecUnit (fun _ _ _ => .vdest)

theorem State.keepsR.execVmov {s : State} {d a : VReg} {m : MReg} {ty : VTy} : s.keepsR (Machine.execVmov d a m ty s) := .typed

theorem State.keepsR.execVextr {s : State} {d : Reg} {v : VReg} {b : Reg} {wide : Bool} : s.keepsR (Machine.execVextr d v b wide s) := by
  unfold Machine.execVextr
  refine .vecUnit (fun _ _ _ => ?_)
  split
  · exact .inl .trap
  · extract_lets x
    split
    · exact .inl .trap
    · exact .inr

theorem State.keepsR.execVinsr {s : State} {v : VReg} {a b : Reg} {wide : Bool} : s.keepsR (Machine.execVinsr v a b wide s) := by
  unfold Machine.execVinsr
  refine .vecUnit (fun _ _ _ => ?_)
  split
  · exact .inl .trap
  · exact .vdest

theorem State.keepsR.maskTo {s : State} {d : MReg} {srcs : List MReg} {f : (MReg → Word) → Word} : s.keepsR (Machine.maskTo d srcs f s) :=
  .runHead (fun _ _ hu => .next (.setM hu))

theorem State.keepsR.execMand {s : State} {d a b : MReg} : s.keepsR (Machine.execMand d a b s) := .maskTo

theorem State.keepsR.execMor {s : State} {d a b : MReg} : s.keepsR (Machine.execMor d a b s) := .maskTo

theorem State.keepsR.execMxor {s : State} {d a b : MReg} : s.keepsR (Machine.execMxor d a b s) := .maskTo

theorem State.keepsR.execMnot {s : State} {d a : MReg} : s.keepsR (Machine.execMnot d a s) := .maskTo

theorem State.keepsR.execMpopc {s : State} {d : Reg} {a : MReg} : s.keepsR (Machine.execMpopc d a s) := .runHead (fun _ _ hu => .put hu)

theorem State.keepsR.execMfirst {s : State} {d : Reg} {a : MReg} : s.keepsR (Machine.execMfirst d a s) := .runHead (fun _ _ hu => .put hu)

theorem State.keepsR.execMsetv {s : State} {d : MReg} {a : Reg} : s.keepsR (Machine.execMsetv d a s) :=
  .runHead (fun _ _ hu => .next (.setM hu))

theorem State.keepsR.execMgetv {s : State} {d : Reg} {a : MReg} : s.keepsR (Machine.execMgetv d a s) := .runHead (fun _ _ hu => .put hu)

theorem State.keepsR.execVectorBeatStart {s : State} {qi g : Nat} : s.keepsR (Machine.execVectorBeatStart qi g s) := by
  unfold Machine.execVectorBeatStart
  refine .unitEvent ?_
  extract_lets a ready a1
  refine .bind (fun _ _ => ?_)
  split
  · exact .none
  · refine .bind (fun _ _ => ?_)
    extract_lets ck
    refine .bind (fun _ _ => ?_)
    extract_lets last s1 a21
    have hs1 : s.tame s1 := .updCore .self
    exact .some (.updQuad hs1)

theorem State.keepsR.execVectorComplete {s : State} {ck id : Nat} : s.keepsR (Machine.execVectorComplete ck id s) := by
  unfold Machine.execVectorComplete
  refine .unitEvent ?_
  refine .bind (fun _ _ => ?_)
  split
  · exact .some (.updCore .self)
  · exact .none

theorem State.tameA.localWaits {s t : State} {k : Act} (hk : s.tameA k) {es : List VElem} : s.tameA (localWaits t es k) := by
  unfold Machine.localWaits
  split
  · exact .block
  · split
    · exact .block
    · split
      · exact hk
      · exact .andThen (fun _ hu => .foldl hu fun _ _ hv => .noteBlock hv)
          (fun _ hu => List.foldlRecOn (motive := fun t => s.kept t) _ _ hu fun _ hv _ _ => .noteBlock hv) hk

section
variable {s t : State} (h : s.tame t)
include h

theorem State.tame.openGroup {ctr n : Nat} {reg : Option VReg} {keep : Vec} : s.tame (t.openGroup ctr n reg keep) := by
  unfold State.openGroup
  extract_lets a s1
  have ha : s.tame a := .takeId h
  have hs1 : s.tame s1 := .frame ha (by rfl)
  split
  · exact .addCount hs1
  · exact .updMe (.addCount hs1) (by exact fun _ => id)

theorem State.tame.part_ {a : Word} {n : Nat} {op : MemOp} {ret : Ret} {cp : Nat} : s.tame (t.part_ a n op ret cp) := .launchFlight h

theorem State.tameA.loadLocal {d : VReg} {m : Word} {w : Nat} {es : List VElem} : s.tameA (Machine.loadLocal t d m w es) := by
  unfold Machine.loadLocal
  refine .localWaits ?_
  extract_lets o lat
  exact .next (.updMe (.pendAt h) (by exact fun _ => id))

theorem State.tameA.storeLocal {v : Vec} {w : Nat} {es : List VElem} : s.tameA (Machine.storeLocal t v w es) :=
  .localWaits (.next (.pendAt h))

end

theorem State.keepsR.execVld {s : State} {v : VReg} {a : Reg} {off : BitVec 14} {m : MReg} {w : BitVec 2} {cp : Cp} :
    s.keepsR (Machine.execVld v a off m w cp s) := by
  unfold Machine.execVld
  refine .runHead (fun _ _ hu => ?_)
  extract_lets x mk es parts
  refine .memWait ?_
  split
  · exact .next hu
  · refine .orElse ?_
    split
    · exact .loadLocal hu
    · exact .roomFor (.next (.foldl (.openGroup hu) (fun _ _ hu1 => .part_ hu1)))

section
variable {s t : State} (h : s.tame t)
include h

theorem State.tameA.sendParts {v : Vec} {base : Word} {cp : Nat} {parts : List (Nat × Word × List VElem)} {es : List VElem} {foot : Bool} :
    s.tameA (Machine.sendParts t v base cp parts es foot) := by
  unfold Machine.sendParts
  extract_lets w lo
  split
  · exact .holdEffect h
  · refine .roomFor ?_
    refine .next ?_
    refine .foldl (.openGroup h) (fun _ _ hu => ?_)
    extract_lets low n
    exact .part_ hu

end

theorem State.keepsR.execVst {s : State} {v : VReg} {a : Reg} {off : BitVec 14} {m : MReg} {w : BitVec 2} {cp : Cp} :
    s.keepsR (Machine.execVst v a off m w cp s) := by
  unfold Machine.execVst
  refine .runHead (fun _ _ hu => ?_)
  extract_lets x es val
  refine .memWait ?_
  split
  · exact .next hu
  · refine .orElse ?_
    split
    · exact .storeLocal hu
    · exact .sendParts hu

section
variable {s t : State} (h : s.tame t)
include h

theorem State.tameA.loadElems {v : VReg} {base mk : Word} {es : List VElem} : s.tameA (Machine.loadElems t v base mk es) := by
  unfold Machine.loadElems
  refine .memWait ?_
  split
  · exact .next h
  · refine .orElse ?_
    split
    · exact .loadLocal h
    · exact .roomFor (.next (.foldl (.openGroup h) (fun _ _ hu => .part_ hu)))

theorem State.tameA.storeElems {val : Vec} {base : Word} {es : List VElem} : s.tameA (Machine.storeElems t val base es) := by
  unfold Machine.storeElems
  refine .memWait ?_
  split
  · exact .next h
  · refine .orElse ?_
    split
    · exact .storeLocal h
    · exact .sendParts h

end

theorem State.keepsR.execVlds {s : State} {v : VReg} {a b : Reg} {m : MReg} {off : BitVec 10} :
    s.keepsR (Machine.execVlds v a b m off s) := by
  unfold Machine.execVlds
  refine .runHead (fun _ _ hu => ?_)
  extract_lets mk x
  exact .loadElems hu

theorem State.keepsR.execVsts {s : State} {v : VReg} {a b : Reg} {m : MReg} {off : BitVec 10} :
    s.keepsR (Machine.execVsts v a b m off s) := by
  unfold Machine.execVsts
  refine .runHead (fun _ _ hu => ?_)
  extract_lets x
  exact .storeElems hu

theorem State.keepsR.execVgath {s : State} {v : VReg} {a : Reg} {ix : VReg} {m : MReg} {sc : BitVec 2} :
    s.keepsR (Machine.execVgath v a ix m sc s) := by
  unfold Machine.execVgath
  refine .runHead (fun _ _ hu => ?_)
  extract_lets mk
  exact .loadElems hu

theorem State.keepsR.execVscat {s : State} {v : VReg} {a : Reg} {ix : VReg} {m : MReg} {sc : BitVec 2} :
    s.keepsR (Machine.execVscat v a ix m sc s) :=
  .runHead (fun _ _ hu => .storeElems hu)

theorem State.keepsR.execArrive {s : State} {g : BitVec 5} : s.keepsR (Machine.execArrive g s) := by
  unfold Machine.execArrive
  refine .runHead (fun _ _ hu => ?_)
  split
  · exact .block
  · refine .orElse ?_
    split
    · exact .block
    · split
      · exact .block
      · split
        · exact .keep (.updMe hu (by exact fun _ => id))
        · split
          · exact .next (.updMe hu (by exact fun _ => id))
          · exact .next (.updMyQuad (.updMe hu (by exact fun _ => id)))

theorem State.keepsR.execWaitb {s : State} {g : BitVec 5} : s.keepsR (Machine.execWaitb g s) := by
  unfold Machine.execWaitb
  refine .runHead (fun _ _ hu => ?_)
  split
  · exact .block
  · refine .orElse ?_
    split
    · exact .block
    · exact .next hu

section
variable {s t : State} (h : s.tame t)
include h

theorem State.tame.updBars {pid qi : Nat} {f : FMap Word → FMap Word} {g : List Arrival → List Arrival} : s.tame (t.updBars pid qi f g) :=
  .ite (.updQuad h) (.updSaved h)

theorem State.tame.setBarmask {pid p g : Nat} {m : Word} : s.tame (t.setBarmask pid p g m) := by
  unfold State.setBarmask
  split
  · exact .updBars h
  · exact h

theorem State.tame.clearArrivals {pid g : Nat} : s.tame (t.clearArrivals pid g) := .foldl h (fun _ _ hu => .updBars hu)

theorem State.tame.notePassed {pid g : Nat} : s.tame (t.notePassed pid g) :=
  .frameMap h (by rfl) (hg := fun x => by dsimp only; split <;> exact ⟨rfl, id⟩)

end

theorem State.keepsR.execBarrierRelease {s : State} {pid g : Nat} : s.keepsR (Machine.execBarrierRelease pid g s) := by
  unfold Machine.execBarrierRelease
  refine .event ?_
  extract_lets qs members
  split
  · exact .some (.clearArrivals (.notePassed .self))
  · exact .none

theorem State.tameA.bsBegin {s t : State} (h : s.tame t) (hsr : s.sameSr t) {g v : Nat} {a : Word} : s.tameA (t.bsBegin g v a) := by
  unfold State.bsBegin
  dsimp only
  split
  · exact .kept (.enterTrapAfter (.dropBarsets h) (hsr.dropBarsets t.cur))
  · exact .keep (.await (.updPart (.dropBarsets h)))

theorem State.keepsR.execBarset {s : State} {g : BitVec 5} {a : Reg} : s.keepsR (Machine.execBarset g a s) := by
  unfold Machine.execBarset
  cases s.me.op with
  | none =>
    refine .runHeadSr fun v t ht hsr => ?_
    dsimp only
    refine .memWait (.orElse ?_)
    split
    · refine .localWait ?_
      split
      · exact .trap
      · exact .bsBegin ht hsr
    · exact .roomFor (.keep (.await (.launchFlight (.updPart (.addCount ht)))))
  | wait => exact .next (.updMe .self (hf := fun x => by split <;> exact id))
  | denied => exact .run (.next (.dropBarsets .self))
  | done v =>
    dsimp only
    split
    · exact .run (.next .self)
    · exact .run (.bsBegin .self .self)

theorem State.keepsR.execBarsetInstall {s : State} {pid g : Nat} : s.keepsR (Machine.execBarsetInstall pid g s) := by
  unfold Machine.execBarsetInstall
  refine .event ?_
  refine .bind (fun _ _ => ?_)
  extract_lets pending waiters s1 s2
  have hs1 : s.tame s1 := .ite (.foldl .self (fun _ _ hu => .postAsync hu)) .self
  have hs2 : s.tame s2 := .foldl (.clearArrivals hs1) (fun _ _ hu => .setBarmask hu)
  split
  · exact .none
  · exact .some (.reply (.updPart hs2))

theorem State.sameSr.wr {s t : State} (h : s.sameSr t) {k n v : Nat} : s.sameSr (t.wr k n v) := h.slots (by rfl)

theorem State.sameSr.setTb {s t : State} (h : s.sameSr t) {k : Nat} {x : Tb} : s.sameSr (t.setTb k x) := h.wr

theorem State.tameA.tbOverflow {s t : State} (h : s.tame t) (hsr : s.sameSr t) {k c : Nat} {a : Word} : s.tameA (tbOverflow t k a c) := by
  have hgo (x : Tb) : s.kept ((t.setTb k x).enterTrap t.cur 0x0E (setFld a 0 4 c) t.me.pc) := .enterTrapAfter (.setTb h) (hsr.setTb t.cur)
  exact .kept (hgo _)

theorem State.keepsR.execTbinit {s : State} {a b : Reg} : s.keepsR (Machine.execTbinit a b s) := by
  unfold Machine.execTbinit
  refine .runHead (fun _ _ hu => ?_)
  refine .memWait ?_
  refine .orElse ?_
  split
  · exact .trap
  · extract_lets k
    exact .localWait (.next (.setTb hu))

theorem State.keepsR.execTbexp {s : State} {a b : Reg} : s.keepsR (Machine.execTbexp a b s) :=
  .runHead fun _ _ ht => .memWait (.orElse (.localWait (.ite (.tbOverflow .self .self) (.next (.setTb ht)))))

theorem State.keepsR.execTbarr {s : State} {d a : Reg} : s.keepsR (Machine.execTbarr d a s) := by
  refine .runHead fun v t ht => .memWait (.orElse (.ite .block (.localWait ?_)))
  split
  · exact .tbOverflow .self .self
  · exact .put (.setTb ht)

theorem State.keepsR.execTbwait {s : State} {a b : Reg} : s.keepsR (Machine.execTbwait a b s) := by
  refine .runHead fun v t ht => .memWait (.orElse ?_)
  exact .localWait (.ite .block (.next ht))

theorem State.keepsR.execTbtest {s : State} {d a b : Reg} : s.keepsR (Machine.execTbtest d a b s) := by
  unfold Machine.execTbtest
  refine .runHead (fun _ _ hu => ?_)
  refine .memWait ?_
  refine .orElse ?_
  extract_lets k
  exact .localWait (.put hu)

section
variable {s t : State} (h : s.tame t)
include h

theorem State.tame.startFill {tk pid ch : Nat} {push : Bool} : s.tame (t.startFill tk pid ch push) := .launchFlight h

theorem State.tame.chanFault {qi : Nat} {e : ChanEnt} {elem : Option Nat} {wr evict : Bool} {a : Word} {n : Nat} :
    s.tame (t.chanFault qi e elem wr evict a n) := by
  unfold State.chanFault
  split
  · exact h
  · extract_lets at_ why tag c a1 t1
    have ha1 : s.tame a1 := .takeId h
    have ht1 : s.tame t1 := .frame h (by rfl)
    exact .ite (.frame ha1 (by rfl)) (.service ht1)

end

theorem State.tame.spillRead {s t u : State} (h : s.tame t) {qi seq : Nat} {e : ChanEnt} (he : t.spillRead qi e seq = .error u) : s.tame u := by
  unfold State.spillRead at he
  split at he
  · exact nomatch he
  · cases he
    exact h
  · cases he
    exact .chanFault h

section
variable {s t : State} (h : s.tame t)
include h

theorem State.tame.spillFill {e : ChanEnt} {seq : Nat} : s.tame (t.spillFill e seq) := .engineFill h

end

/-- An engine's act that stops with a fault gives the state with the fault reported. -/
def State.tameB (s : State) (r : Except State State) : Prop := s.tameE r ∧ ∀ u, r = .error u → s.tame u

theorem State.tameB.ok {s t : State} (h : s.tame t) : s.tameB (.ok t) := ⟨.ok h, fun _ e => nomatch e⟩

theorem State.tameB.error {s t : State} (h : s.tame t) : s.tameB (.error t) := ⟨.error, fun _ e => by cases e; exact h⟩

theorem State.tameB.spillWrite {s t : State} (h : s.tame t) {qi : Nat} {e : ChanEnt} {evict : Bool} {seq : Nat} {bs : List Byte} :
    s.tameB (t.spillWrite qi e evict seq bs) := by
  unfold State.spillWrite
  split
  · next u hu => exact .ok (State.tameE.engineWrite h _ hu)
  · exact .error h
  · exact .error (.chanFault h)

theorem State.tameB.letOut {s t : State} (h : s.tame t) {qi : Nat} {e : ChanEnt} {evict : Bool} : s.tameB (t.letOut qi e evict) := by
  unfold State.letOut
  split
  · exact .ok h
  · split
    · exact .ok (.setChan h)
    · extract_lets moved
      have hmoved : s.tameB moved := List.foldlRecOn (motive := fun r => s.tameB r) _ _ (.ok h) fun r hr i _ => by
        cases r with
        | error u => exact hr
        | ok u => exact .spillWrite (hr.1 u rfl)
      clear_value moved
      cases moved with
      | error u => exact .error (hmoved.2 u rfl)
      | ok u => exact .ok (.setChan (hmoved.1 u rfl))

theorem State.tame.makeRoom {s t : State} (h : s.tame t) {qi n : Nat} {e : ChanEnt} :
    s.tameE (t.makeRoom qi e n) ∧ ∀ u, t.makeRoom qi e n = .error (some u) → s.tame u := by
  induction n generalizing t with
  | zero => exact ⟨.ok h, fun _ e => nomatch e⟩
  | succ n ih =>
    unfold State.makeRoom
    split
    · split
      · exact ⟨.ok h, fun _ e => nomatch e⟩
      · split
        · exact ⟨.error, fun _ e => nomatch e⟩
        · split
          · next u hu => exact ⟨.error, fun _ e => by cases e; exact (State.tameB.letOut h).2 u hu⟩
          · next u hu => exact ih ((State.tameB.letOut h).1 u hu)
    · exact ⟨.ok h, fun _ e => nomatch e⟩

theorem State.tame.ringRoom {s t : State} (h : s.tame t) {qi : Nat} {e : ChanEnt} :
    s.tameE (t.ringRoom qi e) ∧ ∀ u, t.ringRoom qi e = .error (some u) → s.tame u := by
  unfold State.ringRoom
  split
  · exact State.tame.makeRoom h
  · exact ⟨.ok h, fun _ e => nomatch e⟩

theorem State.tame.allotRing {s t : State} (h : s.tame t) {qi : Nat} {e : ChanEnt} : s.tame (t.allotRing qi e) := by
  have hgo (o : Option Nat) : s.tame (match o with
      | none => t
      | some r => t.setChan qi { e with ring := some r }) := by
    cases o with
    | none => exact h
    | some r => exact .setChan h
  exact .ite (.regrantRings (hgo _)) (hgo _)

theorem State.tameB.evictChan {s t : State} (h : s.tame t) {qi : Nat} {e : ChanEnt} : s.tameB (t.evictChan qi e) := by
  unfold State.evictChan
  split
  · exact .ok (.dropChan h)
  · split
    · next u hu => exact .error ((State.tameB.letOut h).2 u hu)
    · next u hu =>
      have hu' : s.tame u := (State.tameB.letOut h).1 u hu
      dsimp only
      split
      · exact .error h
      · exact .error (.chanFault h)
      · exact .ok (.regrantRings (.dropChan (.writeChunks (.engineFill hu'))))

theorem State.keepsR.execChannelEviction {s : State} {qi ch : Nat} : s.keepsR (Machine.execChannelEviction qi ch s) := by
  refine .unitEvent (.bind fun e _ => ?_)
  dsimp only
  split
  · split
    · next u hu => exact .some ((State.tameB.evictChan .self).1 u hu)
    · next u hu => exact .some ((State.tameB.evictChan .self).2 u hu)
  · exact .none

section
variable {s t : State} (h : s.tame t)
include h

theorem State.tame.endReplay {qi : Nat} {e : ChanEnt} : s.tame (t.endReplay qi e) := by
  unfold State.endReplay
  split
  · exact .updSlot h (by exact fun _ => id)
  · exact h

theorem State.tame.answerPush {p : PushMsg} {refused : Bool} : s.tame (t.answerPush p refused) := by
  unfold State.answerPush
  extract_lets s1
  have hs1 : s.tame s1 := .inject (.dropPacket h)
  exact .frame hs1 (by rfl)

theorem State.tame.refusePushes {qi pid ch : Nat} : s.tame (t.refusePushes qi pid ch) := .foldl h (fun _ _ hu => .answerPush hu)

end

theorem State.keepsR.execChannelFill {s : State} {qi ch : Nat} : s.keepsR (Machine.execChannelFill qi ch s) := by
  refine .unitEvent (.bind fun f _ => ?_)
  dsimp only
  have hrefuse : s.tame ((s.removeFlight f).refusePushes qi f.pid ch) := .refusePushes (.removeFlight .self)
  have hfill (t : State) (e : ChanEnt) (h : s.tame t) : s.tame (((t.endReplay qi e).takeId.removeFlight f).touchChan qi e) :=
    .touchChan (.removeFlight (.takeId (.endReplay h)))
  cases f.stage with
  | home k =>
    dsimp only
    split
    · exact .some (.removeFlight .self)
    · split
      · exact .none
      · split
        · exact .some hrefuse
        · split
          · exact .some (hfill _ _ .self)
          · split
            · next o ho =>
              cases o with
              | none => exact .none
              | some u => exact .some ((State.tame.ringRoom .self).2 u ho)
            · next u hu => exact .some (.allotRing (hfill _ _ ((State.tame.ringRoom .self).1 u hu)))
  | denied => exact .some hrefuse
  | _ => exact .none

end Sys2Proof.Machine

end

section
/-! SUPPORT. The same of the channel events and basting. -/

namespace Sys2Proof.Machine

theorem State.tameO.atHome {s t : State} (h : s.tame t) {p : PushMsg} {k : Nat → ChanEnt → Option State} (hk : ∀ qi e, s.tameO (k qi e)) :
    s.tameO (t.atHome p k) := by
  unfold State.atHome
  split
  · exact .none
  · dsimp only
    split
    · exact .none
    · split
      · split
        · exact .none
        · exact .some (.startFill h)
      · split
        · exact .none
        · split
          · exact .some (.refusePushes h)
          · split
            · exact .some (.answerPush h)
            · split
              · exact hk _ _
              · exact .none

theorem State.tameB.map {s : State} {r : Except State State} {f : State → State} (h : s.tameB r) (hf : ∀ u, s.tame u → s.tame (f u)) :
    s.tameB (r.map f) := by
  cases r with
  | error u => exact .error (h.2 u rfl)
  | ok u => exact .ok (hf u (h.1 u rfl))

theorem State.tameB.acceptPush {s t : State} (h : s.tame t) {qi : Nat} {e : ChanEnt} {data : List Byte} : s.tameB (t.acceptPush qi e data) := by
  unfold State.acceptPush
  extract_lets basted spilled
  have hspilled : s.tameB spilled := .spillWrite h
  split
  · split
    · refine .map ?_ fun u hu => .touchChan (.wrBytes (.noteBlock hu))
      split
      · exact hspilled
      · exact .ok h
    · exact .map hspilled fun u hu => .touchChan hu
  · exact .map hspilled fun u hu => .touchChan hu

theorem State.keepsR.execChannelPushAccept {s : State} {id : Nat} : s.keepsR (Machine.execChannelPushAccept id s) := by
  refine .event (.bind fun p _ => .atHome .self fun qi e => ?_)
  split
  · exact .none
  · split
    · next u hu => exact .some (.answerPush ((State.tameB.acceptPush .self).1 u hu))
    · next u hu => exact .some ((State.tameB.acceptPush .self).2 u hu)

theorem State.keepsR.execChannelCloseApply {s : State} {id : Nat} : s.keepsR (Machine.execChannelCloseApply id s) :=
  .event (.bind fun _ _ => .atHome .self fun _ _ => .some (.answerPush (.setChan .self)))

theorem State.tameO.findSome {s : State} {α : Type} {f : α → Option State} {l : List α} (hf : ∀ a, s.tameO (f a)) :
    s.tameO (l.findSome? f) := fun u hu => by
  obtain ⟨a, _, ha⟩ := List.exists_of_findSome?_eq_some hu
  exact hf a u ha

theorem State.keepsR.execChannelRefill {s : State} {qi ch : Nat} : s.keepsR (Machine.execChannelRefill qi ch s) := by
  refine .unitEvent (.findSome fun e => .bind fun r _ => ?_)
  split
  · split
    · next u hu => exact .some (.spillRead .self hu)
    · exact .some (.setChan (.wrBytes (.noteBlock (.spillFill .self))))
  · exact .none

theorem State.keepsR.execChannelRoomReport {s : State} {qi ch : Nat} : s.keepsR (Machine.execChannelRoomReport qi ch s) :=
  .unitEvent (.findSome fun _ => .bind fun _ _ => .bind fun _ _ => .guard (.setChan .self))

theorem State.keepsR.execChannelSpillPopReturn {s : State} {qi ch : Nat} : s.keepsR (Machine.execChannelSpillPopReturn qi ch s) := by
  unfold Machine.execChannelSpillPopReturn
  refine .unitEvent ?_
  refine .bind (fun _ _ => ?_)
  extract_lets s1 waits s2
  have hs1 : s.tame s1 := .frame .self (by rfl)
  have hs2 : s.tame s2 := .arriveReg hs1
  split
  · exact .none
  · refine .some ?_
    split
    · exact .arriveReg hs2
    · exact .arrive hs2
    · exact .wrBytes hs2

theorem State.tameA.chanMisuse {s : State} {id reason : Nat} : s.tameA (Machine.chanMisuse id reason) := .trap

theorem State.tameA.withChan {s s0 t : State} (h0 : s.tame s0) {id : Nat} {k : ChanEnt → Act} (hk : ∀ e, s.tameA (k e)) :
    s.tameA (withChan s0 t id k) := by
  unfold Machine.withChan
  dsimp only
  split
  · exact .trap
  · split
    · split
      · exact .block
      · exact .keep (.blockMe (.startFill h0))
    · split
      · exact .trap
      · exact hk _

theorem State.tameA.kindCheck {s t : State} {k : ElemKind} {e : ChanEnt} {push : Bool} {a : Word} {act : Act} (h : s.tameA act) :
    s.tameA (t.kindCheck k e push a act) := by
  cases k with
  | s => exact .ite .trap h
  | v => exact h
  | a => exact .orElse h

section
variable {s t : State} (h : s.tame t)
include h

theorem State.tame.sendPush {tk : Nat} {e : ChanEnt} {data : List Byte} {close counted : Bool} {pc : Word} :
    s.tame (t.sendPush tk e data close counted pc) := by
  unfold State.sendPush
  extract_lets qi home id s1 s2 s3
  have hs1 : s.tame s1 := .inject (.takeId h)
  have hs2 : s.tame s2 := .frame hs1 (by rfl)
  have hs3 : s.tame s3 := .ite (.addCount hs2) hs2
  exact .touchChan hs3

end

theorem State.tameA.chanLogRoom {s s0 : State} (h : s.tame s0) {id : Nat} {k : Act} (hk : s.tameA k) : s.tameA (chanLogRoom s0 id k) :=
  .ite (.keep (.updMe h (by exact fun _ p => p))) hk

section
variable {s t : State} (h : s.tame t)
include h

theorem State.tame.noteChan {id tail : Nat} : s.tame (t.noteChan id tail) := .ite (.updMe h (by exact fun _ p => p)) h

end

theorem State.tameA.writerCheck {s t : State} {e : ChanEnt} {k : Option ElemKind} {v : Word} {poisoned act : Act} (hp : s.tameA poisoned)
    (h : s.tameA act) : s.tameA (writerCheck t e k v poisoned act) := by
  unfold Machine.writerCheck
  extract_lets state
  have hstate : s.tameA state := .ite hp (.ite .trap h)
  refine .ite .trap ?_
  split
  · exact hstate
  · exact .kindCheck hstate

theorem State.tameA.pushAct {s s0 t : State} (h0 : s.tame s0) (h : s.tame t) {e : ChanEnt} {k : ElemKind} {b : Reg} {v : Word} {fin : State → Act}
    (hf : ∀ u, s.tame u → s.tameA (fin u)) : s.tameA (pushAct s0 t e k b v fin) :=
  .ite .block (.ite .block (.kindWait (.chanLogRoom h0 (.roomFor (hf _ (.noteChan (.sendPush h)))))))

theorem State.keepsR.execChpush {s : State} {k : ElemKind} {a b : Reg} {imm : BitVec 10} : s.keepsR (Machine.execChpush k a b imm s) :=
  .runHead fun _ _ ht => .withChan .self fun _ => .writerCheck .trap (.ite (.kindWait (.holdEffect ht))
    (.ite .block (.ite .block (.ite .block (.pushAct .self ht fun _ hu => .next hu)))))

theorem State.keepsR.execChoffer {s : State} {k : ElemKind} {d a b : Reg} {imm : BitVec 10} : s.keepsR (Machine.execChoffer k d a b imm s) :=
  .runHead fun _ _ ht => .ite .trap (.withChan .self fun _ => .writerCheck (.put ht) (.ite (.put ht) (.pushAct .self ht fun _ hu => .put hu)))

theorem State.keepsR.execChclose {s : State} {a : Reg} {imm : BitVec 10} : s.keepsR (Machine.execChclose a imm s) := by
  refine .runHead fun _ t ht => .withChan .self fun e => .writerCheck .trap (.ite ?_
    (.ite .block (.ite .block (.roomFor (.next (.sendPush ht))))))
  have hheld : s.tameA (Machine.holdEffect t (.close e.id)) := .holdEffect ht
  split
  · next u hu =>
    rw [hu] at hheld
    exact .next (.updMe hheld (by exact fun _ => id))
  · exact hheld

theorem State.tame.headElement {s t u : State} (h : s.tame t) {qi : Nat} {e : ChanEnt} (he : t.headElement qi e = .error u) : s.tame u := by
  have hspill (he : (t.spillRead qi e e.head).map (fun bs => (bs, true)) = .error u) : s.tame u := by
    cases hr : t.spillRead qi e e.head with
    | error w =>
      rw [hr] at he
      cases he
      exact .spillRead h hr
    | ok bs =>
      rw [hr] at he
      exact nomatch he
  unfold State.headElement at he
  split at he
  · split at he
    · exact nomatch he
    · exact hspill he
  · exact hspill he

section
variable {s t : State} (h : s.tame t)
include h

theorem State.tame.headRead {qi : Nat} {e : ChanEnt} {spilled : Bool} : s.tame (t.headRead qi e spilled) := by
  unfold State.headRead
  split
  · exact .spillFill h
  · split
    · exact .noteBlock h
    · exact h

theorem State.tame.deliverElement {k : ElemKind} {d b : Reg} {v : Word} {bs : List Byte} : s.tame (t.deliverElement k d b v bs) := by
  unfold State.deliverElement
  extract_lets s1
  have hs1 : s.tame s1 := .writeReg h
  split
  · exact .writeReg hs1
  · exact .updMe (.updMyCore hs1) (by exact fun _ => id)
  · exact .wrBytes hs1

theorem State.tame.awaitElement {qi : Nat} {e : ChanEnt} {k : ElemKind} {d b : Reg} {v : Word} {bs : List Byte} :
    s.tame (t.awaitElement qi e k d b v bs) := by
  unfold State.awaitElement
  extract_lets s1 s2
  have hs1 : s.tame s1 := .frame h (by rfl)
  have hs2 : s.tame s2 := .markBusy hs1
  split
  · exact .markBusy hs2
  · exact .updMe hs2 (by exact fun _ => id)
  · exact hs2

end

theorem State.keepsR.popHead {s : State} {wait remove : Bool} {k : ElemKind} {d a b : Reg} {imm : BitVec 10} :
    s.keepsR (popHead wait remove k d a b imm s) := by
  refine .runHead fun g t ht => .ite .trap (.withChan .self fun e => .ite .trap (.kindCheck (.ite .block (.ite (.put ht) (.ite
    (.ite (.put ht) (.ite .block (.put ht))) (.ite .block ?_))))))
  split
  · split
    · next u hu => exact .keep (.blockMe (.headElement .self hu))
    · exact .block
  · exact .kindWait (.next (.ite (.awaitElement (.touchChan (.headRead ht))) (.deliverElement (.touchChan (.headRead ht)))))

theorem State.keepsR.execChpop {s : State} {k : ElemKind} {d a b : Reg} {imm : BitVec 10} : s.keepsR (Machine.execChpop k d a b imm s) :=
  .popHead

theorem State.keepsR.execChtake {s : State} {k : ElemKind} {d a b : Reg} {imm : BitVec 10} :
    s.keepsR (Machine.execChtake k d a b imm s) :=
  .popHead

theorem State.keepsR.execChpeek {s : State} {k : ElemKind} {d a b : Reg} {imm : BitVec 10} :
    s.keepsR (Machine.execChpeek k d a b imm s) :=
  .popHead

theorem State.keepsR.execChlen {s : State} {d a : Reg} {imm : BitVec 10} : s.keepsR (Machine.execChlen d a imm s) :=
  .runHead fun _ _ ht => .withChan .self fun _ => .ite (.put (.touchChan ht)) (.ite (.put (.touchChan ht)) .trap)

theorem State.keepsR.execChinv {s : State} {a : Reg} {imm : BitVec 10} : s.keepsR (Machine.execChinv a imm s) := by
  unfold Machine.execChinv
  split
  · exact .run (.next (.popPorts .self))
  · refine .runHead fun g t ht => ?_
    dsimp only
    split
    · exact .next ht
    · refine .ite .block ?_
      split
      · next u hu => exact .next ((State.tameB.evictChan ht).1 u hu)
      · split
        · next u hu => exact .keep (.updMe (.blockMe ((State.tameB.evictChan .self).2 u hu)) (by exact fun _ => id))
        · exact .block

theorem State.keepsR.execProbeSend {s : State} {tk : Nat} : s.keepsR (Machine.execProbeSend tk s) := by
  unfold Machine.execProbeSend
  refine .unitEvent ?_
  extract_lets x n p a
  have ha : s.tame a := .takeId .self
  refine .bind (fun _ _ => ?_)
  split
  · exact .some (.updSlot (.frame ha (by rfl)) (by exact fun _ => id))
  · exact .none

section
variable {s t : State} (h : s.tame t)
include h

theorem State.tame.deadlock {p : Probe} {tk : Nat} : s.tame (t.deadlock p tk) := .service h

theorem State.tame.dropProbe {id : Nat} : s.tame (t.dropProbe id) := .frame h (by rfl)

end

theorem State.keepsR.execProbeArrival {s : State} {id : Nat} : s.keepsR (Machine.execProbeArrival id s) := by
  unfold Machine.execProbeArrival
  refine .event ?_
  refine .bind (fun _ _ => ?_)
  split
  · exact .some (.dropProbe .self)
  · split
    · exact .some (.dropProbe .self)
    · split
      · exact .some (.dropProbe .self)
      · split
        · split
          · exact .some (.dropProbe .self)
          · split
            · exact .some (.deadlock (.dropProbe .self))
            · exact .some (.frame .self (by rfl))
        · exact .some (.frame .self (by rfl))

theorem State.keepsR.execProbeExpiry {s : State} {id : Nat} : s.keepsR (Machine.execProbeExpiry id s) := by
  unfold Machine.execProbeExpiry
  refine .event ?_
  refine .bind (fun _ _ => ?_)
  split
  · exact .some (.dropProbe .self)
  · exact .none

theorem State.keepsR.execLetoutRequest {s : State} {id : Nat} : s.keepsR (Machine.execLetoutRequest id s) := by
  unfold Machine.execLetoutRequest
  refine .event ?_
  refine .bind (fun _ _ => ?_)
  refine .bind (fun _ _ => ?_)
  extract_lets s1
  have hs1 : s.tame s1 := .dropProbe .self
  split
  · exact .some hs1
  · split
    · extract_lets g
      exact .some (.setChan hs1)
    · exact .some hs1

section
variable {s t : State} (h : s.tame t)
include h

theorem State.tame.noteGuard {tk k : Nat} : s.tame (t.noteGuard tk k) := by
  unfold State.noteGuard
  split
  · exact h
  · exact .noteBlock h

end

theorem State.tame.halfWrite {s t : State} (h : s.tame t) {tk half off n : Nat} {bs : List Byte} : s.tame (t.halfWrite tk half off n bs) := by
  induction n generalizing t off bs with
  | zero => exact h
  | succ n ih =>
    unfold State.halfWrite
    split
    · exact h
    · exact ih (.wrBytes (.noteGuard h))

section
variable {s t : State} (h : s.tame t)
include h

theorem State.tame.releaseReads {tk : Nat} : s.tame (t.releaseReads tk) := by
  unfold State.releaseReads
  extract_lets mine
  exact .updQuad h

theorem State.tame.checkpoint {tk : Nat} {pc : Word} : s.tame (t.checkpoint tk pc) := by
  unfold State.checkpoint
  extract_lets h1 done x range tails n
  have hdone : ∀ (t : State), s.tame t → s.tame (done t) := fun _ hu => .updSlot (.releaseReads (.takeId hu)) (by exact fun _ => id)
  split
  · exact .updSlot h (by exact fun _ => id)
  · extract_lets s1 s2 s3 s4 s5
    have hs1 : s.tame s1 := .wr8 (.noteGuard h)
    have hs2 : s.tame s2 := .halfWrite hs1
    have hs3 : s.tame s3 := by
      unfold s3
      split
      · exact .halfWrite hs1
      · exact .wrBytes hs2
    have hs4 : s.tame s4 := .halfWrite hs3
    have hs5 : s.tame s5 := .wr8 hs4
    exact hdone _ (.updSlot hs5 (by exact fun _ => id))

end

theorem State.keepsR.execBaste {s : State}  : s.keepsR (Machine.execBaste s) := by
  unfold Machine.execBaste
  refine .runHead (fun _ _ hu => ?_)
  split
  · exact .trap
  · split
    · exact .next hu
    · split
      · exact .block
      · exact .next (.checkpoint hu)

theorem State.keepsR.execBasteIntervalExpiry {s : State} {tk : Nat} : s.keepsR (Machine.execBasteIntervalExpiry tk s) := by
  unfold Machine.execBasteIntervalExpiry
  refine .unitEvent ?_
  extract_lets x up
  split
  · exact .none
  · split
    · exact .some (.checkpoint .self)
    · exact .some (.updSlot .self (by exact fun _ => id))

theorem State.keepsR.execBastecfgEnable {s : State} {tk : Nat} {v : Word} : s.keepsR (Machine.execBastecfgEnable tk v s) := by
  unfold Machine.execBastecfgEnable
  refine .unitEvent ?_
  split
  · exact .some (.basteEnable .self)
  · exact .none

theorem State.keepsR.execBastecfgDisable {s : State} {tk : Nat} : s.keepsR (Machine.execBastecfgDisable tk s) := by
  unfold Machine.execBastecfgDisable
  refine .unitEvent ?_
  extract_lets x
  refine .bind (fun _ _ => ?_)
  split
  · exact .some (.basteDisable .self)
  · exact .none

theorem State.keepsR.execFreeNoticeArrival {s : State} {id : Nat} : s.keepsR (Machine.execFreeNoticeArrival id s) := by
  unfold Machine.execFreeNoticeArrival
  refine .event ?_
  refine .bind (fun _ _ => ?_)
  split
  · exact .none
  · extract_lets t1
    have ht1 : s.tame t1 := .frame .self (by rfl)
    exact .some (.updCoreIn ht1)

section
variable {s t : State} (h : s.tame t)
include h

theorem State.tame.resumeTails {tk old : Nat} {tails : List (Nat × Nat)} : s.tame (t.resumeTails tk old tails) := by
  unfold State.resumeTails
  refine .foldl h (fun _ _ hu => ?_)
  extract_lets pid qi
  split
  · exact .setChan hu
  · split
    · exact .touchChan hu
    · exact hu

theorem State.tame.resumeHeads {tk : Nat} : s.tame (t.resumeHeads tk) := by
  unfold State.resumeHeads
  extract_lets pid n
  exact .updQuad h

end

/-- A slot's basted range comes from its checkpoint. -/
theorem State.tame.copyBlocks {s t : State} (h : s.tame t) {l : List Nat} {c : State → Nat → Option Nat} {a : State → Nat → Nat} {n : Nat} :
    s.tame (l.foldl (fun u i => match c u i with
      | none => u
      | some j => u.wrBytes (a u i) (u.rdBytes j n)) t) := .foldl h fun v i hv => by
  split
  · exact hv
  · exact .wrBytes hv

theorem State.keptBut.execBastedSlotResume {s t : State} {tk : Nat} (h : Machine.execBastedSlotResume tk s = .next t) : s.keptBut t tk := by
  refine State.keptBut.unitEvent (fun u hu => ?_) h
  obtain ⟨from_, _, hu⟩ := Option.bind_eq_some_iff.mp hu
  obtain ⟨_, hu⟩ := Option.ite_none_left_eq_some.mp hu
  obtain ⟨half, _, hu⟩ := Option.bind_eq_some_iff.mp hu
  obtain ⟨k, _, hu⟩ := Option.bind_eq_some_iff.mp hu
  rw [← Option.some.inj hu]
  refine .tame (.setSlot (.draw (.ite (.updSlot .self (by exact fun _ => id)) (.copyBlocks (.updSlot .self (by exact fun _ => id))))))
      (.setSlot (.resumeHeads (.resumeTails .self)) fun p => ?_)
  exact absurd p (by simp [Slot.pl])

end Sys2Proof.Machine

end

section
/-! SUPPORT. The same of control transfer, tasks, messages and the drain of held effects. -/

namespace Sys2Proof.Machine

section
variable {s t : State} (h : s.tame t)
include h

theorem State.tame.traced {target : Word} {isRet : Bool} : s.tame (t.traced target isRet) := .updMyCore h

theorem State.tameA.jumpTo {target : Word} {isRet : Bool} : s.tameA (Machine.jumpTo t target isRet) := .goto (.traced h)

end

theorem State.keepsR.branch {s : State} {rs : List Reg} {cond : (Reg → Word) → Bool} {target : Word} :
    s.keepsR (Machine.branch rs cond target s) := by
  unfold Machine.branch
  refine .runHead (fun _ _ hu => ?_)
  split
  · exact .jumpTo hu
  · exact .next hu

theorem State.tame.asNext {s u : State} {a : Act} (e : a = .next u) (h : s.tameA a) : s.tame u := by
  rw [e] at h
  exact h

theorem State.keepsR.callTo {s : State} {d : Reg} {target : Word} : s.keepsR (callTo d target s) := by
  refine .runHead fun v t ht => ?_
  split
  · next u hu => exact .jumpTo (.asNext hu (.put ht))
  · exact .put ht

theorem State.keepsR.loopTo {s : State} {d : Reg} {target : Word} : s.keepsR (loopTo d target s) := by
  refine .runHead fun v t ht => ?_
  dsimp only
  split
  · next u hu =>
    have hu' : s.tame u := .asNext hu (.put ht)
    exact .ite (.jumpTo hu') (.next hu')
  · exact .put ht

theorem State.keepsR.jumpReg {s : State} {d : Reg} {isRet : Bool} : s.keepsR (Machine.jumpReg d isRet s) := by
  unfold Machine.jumpReg
  refine .runHead (fun _ _ hu => ?_)
  split
  · exact .trap
  · exact .jumpTo hu

theorem State.keepsR.execBr {s : State} {off : BitVec 15} {idx : BitVec 5} : s.keepsR (Machine.execBr off idx s) := .branch

theorem State.keepsR.execBrLong {s : State} {off : BitVec 37} {idx : BitVec 5} : s.keepsR (Machine.execBrLong off idx s) := .branch

theorem State.keepsR.execBeq {s : State} {a b : Reg} {off : BitVec 15} {idx : BitVec 5} : s.keepsR (Machine.execBeq a b off idx s) :=
  .branch

theorem State.keepsR.execBne {s : State} {a b : Reg} {off : BitVec 15} {idx : BitVec 5} : s.keepsR (Machine.execBne a b off idx s) :=
  .branch

theorem State.keepsR.execBlt {s : State} {a b : Reg} {off : BitVec 15} {idx : BitVec 5} : s.keepsR (Machine.execBlt a b off idx s) :=
  .branch

theorem State.keepsR.execBge {s : State} {a b : Reg} {off : BitVec 15} {idx : BitVec 5} : s.keepsR (Machine.execBge a b off idx s) :=
  .branch

theorem State.keepsR.execBltu {s : State} {a b : Reg} {off : BitVec 15} {idx : BitVec 5} : s.keepsR (Machine.execBltu a b off idx s) :=
  .branch

theorem State.keepsR.execBgeu {s : State} {a b : Reg} {off : BitVec 15} {idx : BitVec 5} : s.keepsR (Machine.execBgeu a b off idx s) :=
  .branch

theorem State.keepsR.execBz {s : State} {a : Reg} {off : BitVec 15} {idx : BitVec 5} : s.keepsR (Machine.execBz a off idx s) := .branch

theorem State.keepsR.execBzLong {s : State} {a : Reg} {off : BitVec 37} {idx : BitVec 5} : s.keepsR (Machine.execBzLong a off idx s) :=
  .branch

theorem State.keepsR.execBnz {s : State} {a : Reg} {off : BitVec 15} {idx : BitVec 5} : s.keepsR (Machine.execBnz a off idx s) := .branch

theorem State.keepsR.execBnzLong {s : State} {a : Reg} {off : BitVec 37} {idx : BitVec 5} : s.keepsR (Machine.execBnzLong a off idx s) :=
  .branch

theorem State.keepsR.execCall {s : State} {d : Reg} {off : BitVec 15} {idx : BitVec 5} : s.keepsR (Machine.execCall d off idx s) :=
  .callTo

theorem State.keepsR.execCallLong {s : State} {d : Reg} {off : BitVec 37} {idx : BitVec 5} :
    s.keepsR (Machine.execCallLong d off idx s) :=
  .callTo

theorem State.keepsR.execCallr {s : State} {d a : Reg} : s.keepsR (Machine.execCallr d a s) := by
  refine .runHead fun v t ht => .ite .trap ?_
  split
  · next u hu => exact .jumpTo (.asNext hu (.put ht))
  · exact .put ht

theorem State.keepsR.execRet {s : State} {d : Reg} : s.keepsR (Machine.execRet d s) := .jumpReg

theorem State.keepsR.execJr {s : State} {d : Reg} : s.keepsR (Machine.execJr d s) := .jumpReg

theorem State.keepsR.execLoop {s : State} {d : Reg} {off : BitVec 15} {idx : BitVec 5} : s.keepsR (Machine.execLoop d off idx s) :=
  .loopTo

theorem State.keepsR.execLoopLong {s : State} {d : Reg} {off : BitVec 37} {idx : BitVec 5} :
    s.keepsR (Machine.execLoopLong d off idx s) :=
  .loopTo

theorem State.keepsR.execYield {s : State}  : s.keepsR (Machine.execYield s) := .runHead (fun _ _ hu => .next hu)

section
variable {s t : State} (h : s.tame t)
include h

theorem State.tame.placeRec {pid : Nat} {handle : Word} : s.tame (t.placeRec pid handle) := by
  unfold State.placeRec
  extract_lets r ps n
  exact .updRec (.takeId h)

end

theorem State.tame.submit {s t : State} (h : s.tame t) {r : LaunchReq} {hdr : List Word} : s.tame (t.submit r hdr).2 := by
  unfold State.submit
  dsimp only
  split
  · exact h
  · split
    · exact h
    · split
      · exact .placeRec (.updQuad h)
      · split
        · exact h
        · exact .wr8 (.wr8 (.updQuad h))

section
variable {s t : State} (h : s.tame t)
include h

theorem State.tame.headerFill {r : LaunchReq} : s.tame (t.headerFill r) := .ite h (.engineFill h)

theorem State.tame.dropLaunch {id : Nat} : s.tame (t.dropLaunch id) := .frame h (by rfl)

theorem State.tame.answerLaunch {r : LaunchReq} {d : Word} : s.tame (t.answerLaunch r d) := by
  unfold State.answerLaunch
  split
  · exact .answer h
  · exact .updVf h

end

theorem State.keepsR.execLaunchAccept {s : State} {id : Nat} : s.keepsR (Machine.execLaunchAccept id s) := by
  refine .event (.bind fun r _ => ?_)
  split
  · split
    · exact .none
    · split
      · exact .some (.dropLaunch .self)
      · exact .thenMap (.handback .self) fun _ hu => .dropLaunch hu
  · exact .some (.evqPush (.dropLaunch .self))
  · split
    · exact .some (.answerLaunch (.dropLaunch (.submit (.headerFill .self))))
    · exact .none
    · exact .some (.answerLaunch (.frame .self (by rfl)))
    · exact .some (.answerLaunch (.dropLaunch .self))

theorem State.keepsR.execSpawnAccept {s : State} {id : Nat} : s.keepsR (Machine.execSpawnAccept id s) := by
  refine .event (.bind fun r _ => .bind fun tk _ => ?_)
  extract_lets jp
  have hjp (a : Word × State) (ha : s.tame a.2) : s.tameO (jp a) := by
    unfold jp
    have hs1 : s.tame (a.2.dropLaunch id) := .dropLaunch ha
    have hs2 : s.tame (if r.counted then (a.2.dropLaunch id).endCount tk 1 else a.2.dropLaunch id) := .ite (.endCount hs1) hs1
    dsimp only
    split
    · exact .some hs2
    · exact .some (.ite (.postOrReport hs2) (.drainDeny hs2))
  split
  · exact hjp _ (.submit (.headerFill .self))
  · exact .none
  · exact hjp (3, s) .self
  · exact hjp (5, s) .self

theorem State.keepsR.execPieceEnqueue {s : State} {qi rec : Nat} : s.keepsR (Machine.execPieceEnqueue qi rec s) := by
  unfold Machine.execPieceEnqueue
  refine .unitEvent ?_
  extract_lets r earlier fits p prio
  split
  · exact .none
  · refine .map (fun _ _ => ?_)
    extract_lets e
    exact .updQuad (.updQuad .self)

theorem State.tame.bindEntry {s t : State} (h : s.tame t) {qi tk pid prio unit : Nat} {e : Entry} {hdr : List Word} :
    s.tame (t.bindEntry qi tk pid prio unit e hdr) := by
  have hbound (x : Slot) (p : (boundSlot x hdr e.handle (e.next (hdrPin hdr)) prio unit).pl = true) : x.pl = true := by
    have hp : (if hdrPin hdr then 0x20#64 else 0x10#64 : Word).getLsbD 0 = true := p
    split at hp <;> exact absurd hp (by decide)
  exact .updRegion (.updSlot (.updQuad h) (hf := hbound))

theorem State.keepsR.execTaskBind {s : State} {qi : Nat} : s.keepsR (Machine.execTaskBind qi s) := by
  unfold Machine.execTaskBind
  refine .unitEvent ?_
  extract_lets q pid free ready
  refine .bind (fun _ _ => ?_)
  refine .bind (fun _ _ => ?_)
  split
  · exact .some (.bindEntry .self)
  · exact .none

theorem State.keepsR.execRunListPromotion {s : State} {qi list idx : Nat} : s.keepsR (Machine.execRunListPromotion qi list idx s) :=
  .unitEvent (.findSome fun _ => .bind fun _ _ => .guard (.setQuad .self))

theorem State.keepsR.execReadyRingPush {s : State} {qi : Nat} : s.keepsR (Machine.execReadyRingPush qi s) := by
  unfold Machine.execReadyRingPush
  refine .unitEvent ?_
  extract_lets q
  exact .bind (fun _ _ => .some (.setQuad (.wr8 .self)))

theorem State.keepsR.execReadyRecordPlace {s : State} {qi : Nat} : s.keepsR (Machine.execReadyRecordPlace qi s) := by
  unfold Machine.execReadyRecordPlace
  refine .unitEvent ?_
  refine .bind (fun _ _ => ?_)
  extract_lets s1
  have hs1 : s.tame s1 := .updQuad .self
  exact .some (.ite hs1 (.placeRec hs1))

theorem State.keepsR.execDepCellDecrement {s : State} {id : Nat} : s.keepsR (Machine.execDepCellDecrement id s) := by
  unfold Machine.execDepCellDecrement
  refine .event ?_
  refine .bind (fun _ _ => ?_)
  split
  · refine .bind (fun _ _ => ?_)
    split
    · exact .none
    · exact .some (.respond (.setStage (.decCell .self)))
  · exact .none

theorem State.keepsR.execDec {s : State} {a : Reg} : s.keepsR (Machine.execDec a s) := by
  unfold Machine.execDec
  refine .runHead (fun _ _ hu => ?_)
  extract_lets x k
  refine .memWait ?_
  refine .orElse ?_
  split
  · exact .holdEffect hu
  · split
    · split
      · exact .block
      · exact .localWait (.next (.decCell hu))
    · exact .roomFor (.next (.launchFlight (.addCount hu)))

theorem State.keepsR.execTset {s : State} {a b : Reg} : s.keepsR (Machine.execTset a b s) := by
  unfold Machine.execTset
  refine .runReply (fun _ _ hu => ?_) (fun _ _ hu => ?_)
  · extract_lets x k
    split
    · exact .trap
    · refine .memWait ?_
      refine .orElse ?_
      split
      · exact .trap
      · split
        · exact .block
        · split
          · refine .localWait ?_
            split
            · exact .trap
            · next _ _ heq =>
                exact .next (State.tameO.tsetCell hu _ heq)
          · exact .keep (.await (.launchFlight hu))
  · split
    · exact .next hu
    · exact .trap

theorem State.keepsR.execLaunch {s : State} {d a b : Reg} : s.keepsR (Machine.execLaunch d a b s) := by
  unfold Machine.execLaunch
  refine .runReply (fun _ _ hu => ?_) (fun _ _ hu => .put hu)
  extract_lets x r a1
  have ha1 : s.tame a1 := .takeId hu
  split
  · exact .trap
  · refine .memWait ?_
    refine .orElse ?_
    split
    · exact .block
    · exact .keep (.await (.frame ha1 (by rfl)))

theorem State.keepsR.execSpawn {s : State} {a b : Reg} : s.keepsR (Machine.execSpawn a b s) := by
  unfold Machine.execSpawn
  refine .runHead (fun _ _ hu => ?_)
  extract_lets x tile r a1
  have ha1 : s.tame a1 := .takeId (.addCount hu)
  refine .memWait ?_
  refine .orElse ?_
  split
  · exact .holdEffect hu
  · split
    · exact .block
    · exact .roomFor (.next (.frame ha1 (by rfl)))

theorem State.keepsR.execDomain {s : State} {sel : DomSel} {d : Reg} {n : BitVec 22} : s.keepsR (Machine.execDomain sel d n s) := by
  unfold Machine.execDomain
  refine .runHead (fun _ _ hu => ?_)
  extract_lets h1 x
  exact .put hu

theorem State.keepsR.execAllow {s : State} {sel : AllowSel} {d : Reg} : s.keepsR (Machine.execAllow sel d s) := by
  unfold Machine.execAllow
  refine .runHead (fun _ _ hu => ?_)
  extract_lets r x
  exact .put hu

theorem State.keepsR.execKeyhome {s : State} {d a : Reg} : s.keepsR (Machine.execKeyhome d a s) := .runHead (fun _ _ hu => .put hu)

theorem State.keepsR.execSplit {s : State}  : s.keepsR (Machine.execSplit s) := by
  unfold Machine.execSplit
  refine .runHead (fun _ _ hu => ?_)
  split
  · exact .trap
  · split
    · exact .keep (.rip hu)
    · exact .next hu

section
variable {s t : State} (h : s.tame t)
include h

theorem State.tame.post {tk : Nat} {p : Place} {a tag : Word} {data : List Byte} {counted : Bool} {pc : Word} :
    s.tame (t.post tk p a tag data counted pc) := by
  unfold State.post
  extract_lets x basted numbered m s1 s2
  have hs1 : s.tame s1 := .updCore (.takeId h)
  have hs2 : s.tame s2 := .ite (.addCount hs1) hs1
  exact .ite (.updSlot hs2 (by exact fun _ => id)) hs2

theorem State.tame.depart {ck : Nat} {m : Msg} : s.tame (t.depart ck m) := by
  unfold State.depart
  split
  · extract_lets w
    exact .frame h (by rfl)
  · split
    · exact .frame h (by rfl)
    · extract_lets s1
      have hs1 : s.tame s1 := .inject (.takeId h)
      exact .frame hs1 (by rfl)

theorem State.tame.transmit {ck : Nat} : s.tame (t.transmit ck) := by
  unfold State.transmit
  split
  · exact h
  · split
    · exact h
    · exact .depart (.updCore h)

end

theorem State.keepsR.execMsend {s : State} {k : ElemKind} {d a b c : Reg} {len : BitVec 10} : s.keepsR (Machine.execMsend k d a b c len s) := by
  refine .runHead fun g t ht => .orElse (.orElse (.ite .block (.kindWait ?_)))
  dsimp only
  split
  · split
    · next u hu => exact .put (.asNext hu (.holdEffect ht))
    · exact .holdEffect ht
  · exact .roomFor (.ite .block (.put (.post ht)))

section
variable {s t : State} (h : s.tame t)
include h

theorem State.tame.dropMsg {id : Nat} : s.tame (t.dropMsg id) := .frame h (by rfl)

theorem State.tame.setMsg {m : Msg} : s.tame (t.setMsg m) := .frame h (by rfl)

theorem State.tame.endMsgCount {m : Msg} : s.tame (t.endMsgCount m) := by
  unfold State.endMsgCount
  split
  · exact .ite (.endCount h) h
  · exact h

theorem State.tame.refuseMsg {m : Msg} : s.tame (t.refuseMsg m) := .setMsg (.dropPacket h)

theorem State.tame.denyMsg {m : Msg} : s.tame (t.denyMsg m) := by
  unfold State.denyMsg
  extract_lets s1
  have hs1 : s.tame s1 := .endMsgCount (.dropMsg (.dropPacket h))
  split
  · exact hs1
  · extract_lets s2
    have hs2 : s.tame s2 := .updCore hs1
    exact .ite (.postOrReport hs2) (.drainDeny hs2)

theorem State.tame.acceptedMsg {m : Msg} : s.tame (t.acceptedMsg m) := by
  unfold State.acceptedMsg
  split
  · exact .dropMsg (.dropPacket h)
  · exact .ite (.setMsg h) (.setMsg (.inject (.dropPacket h)))

theorem State.tame.messageHere {pid ck : Nat} : s.tame (t.messageHere pid ck) :=
  .ite (.foldl h (fun _ _ hu => .updSlot hu (hf := fun x => by split <;> exact id))) h

end

theorem State.keepsR.execMessageAccept {s : State} {id : Nat} : s.keepsR (Machine.execMessageAccept id s) := by
  unfold Machine.execMessageAccept
  refine .event ?_
  refine .bind (fun _ _ => ?_)
  split
  · exact .none
  · split
    · split
      · exact .some (.acceptedMsg .self)
      · exact .none
    · extract_lets qi c taken
      have htaken : s.tame taken := .acceptedMsg (.messageHere (.updCoreIn .self))
      split
      · exact .none
      · split
        · exact .some (.denyMsg .self)
        · split
          · exact .some (.refuseMsg .self)
          · split
            · exact .some (.ite (.acceptedMsg .self) htaken)
            · exact .some (.ite (.refuseMsg .self) htaken)
            · exact .some htaken

theorem State.keepsR.execMessageAcknowledge {s : State} {id : Nat} : s.keepsR (Machine.execMessageAcknowledge id s) :=
  .event (.bind (fun _ _ => .some (.endMsgCount (.dropMsg (.dropPacket .self)))))

theorem State.keepsR.execMessageResend {s : State} {id : Nat} : s.keepsR (Machine.execMessageResend id s) := by
  unfold Machine.execMessageResend
  refine .event ?_
  refine .bind (fun _ _ => ?_)
  extract_lets from_ s1
  have hs1 : s.tame s1 := .inject .self
  split
  · exact .none
  · split
    · exact .some (.setMsg .self)
    · exact .some (.setMsg hs1)

section
variable {s t : State} (h : s.tame t)
include h

theorem State.tame.putPayload {k : ElemKind} {b : Reg} {v : Word} {bs : List Byte} : s.tame (t.putPayload k b v bs) := by
  unfold State.putPayload
  split
  · exact .writeReg h
  · exact .updMe (.updMyCore h) (by exact fun _ => id)
  · exact .wrBytes h

end

theorem State.keepsR.execMrecv {s : State} {k : ElemKind} {d b : Reg} {len : BitVec 10} : s.keepsR (Machine.execMrecv k d b len s) := by
  refine .runHead fun g t ht => .orElse (.ite .block (.kindWait ?_))
  split
  · exact .block
  · next m rest _ =>
    have hput {w : Word} {n : Nat} : s.tameA (Machine.put (t.updMyCore fun c => { c with rxq := rest }).basteAfterPop d w n) :=
      .put (.basteAfterPop (.updMyCore ht))
    refine .ite .trap ?_
    split
    · next u hu => exact .next (.putPayload (.asNext hu hput))
    · exact hput

theorem State.keepsR.execMwait {s : State}  : s.keepsR (Machine.execMwait s) := by
  unfold Machine.execMwait
  refine .runReply (fun _ _ hu => ?_) (fun _ _ hu => .next hu)
  split
  · exact .next (.updMe hu (by exact fun _ => id))
  · split
    · exact .next hu
    · exact .block

theorem State.keepsR.execMsgst {s : State} {sel : MsgSel} {d : Reg} : s.keepsR (Machine.execMsgst sel d s) :=
  .runHead (fun _ _ hu => .put hu)

theorem State.keepsR.execC30MessagePop {s : State} {ck : Nat} : s.keepsR (Machine.execC30MessagePop ck s) :=
  .unitEvent (.some (.updCore .self))

theorem State.keepsR.execC31SendBlock {s : State} {tk : Nat} {v : Word} : s.keepsR (Machine.execC31SendBlock tk v s) :=
  .unitEvent (.some (.pushOrHold .self))

theorem State.keepsR.execSendBlockRead {s : State} {ck : Nat} : s.keepsR (Machine.execSendBlockRead ck s) := by
  unfold Machine.execSendBlockRead
  refine .unitEvent ?_
  refine .bind (fun _ _ => ?_)
  extract_lets tk t1 b s1 p at_
  have ht1 : s.tame t1 := .frame .self (by rfl)
  have hs1 : s.tame s1 := .updCore .self
  split
  · exact .some (.postOrReport hs1)
  · split
    · exact .none
    · exact .some (.post hs1)

theorem State.tame.drainWrite {s t : State} (h : s.tame t) {d : DrainTask} {ks : List (Nat × Byte × Byte)} : s.tame (t.drainWrite d ks) :=
  h.mem (fun w => w.drainWrite d ks) (State.slots_foldl fun _ _ => Eq.refl _)

theorem State.tameO.drainRed {s t : State} (h : s.tame t) {f : Flight} {k : Nat} : s.tameO (t.drainRed f k) := by
  intro u hu
  obtain ⟨r, hr, rfl⟩ := Option.map_eq_some_iff.mp hu
  split at hr
  · exact State.tameP.runAtomic h _ hr
  · split at hr
    · exact State.tameP.ownAtomic h _ hr
    · exact State.tameP.homeRuns h _ hr

/-- The state that a record's performance leaves. -/
def State.tameD (s : State) : DrainEnd → Prop
  | .done t | .sent t _ | .later t => s.tame t
  | _ => True

theorem State.tameD.drainPeer {s t : State} (h : s.tame t) {d : DrainTask} {a : Word} {n : Nat} {op : MemOp} :
    s.tameD (t.drainPeer d a n op) := State.tame.launchFlight h

theorem State.tameD.drainPush {s t : State} (h : s.tame t) {qi ch : Nat} {d : DrainTask} {data : List Byte} {close : Bool} :
    s.tameD (t.drainPush qi d ch data close) := by
  unfold State.drainPush
  dsimp only
  split
  · split
    · exact trivial
    · split
      · exact trivial
      · exact State.tame.startFill h
  · split
    · exact trivial
    · split
      · exact trivial
      · split
        · exact trivial
        · split
          · exact trivial
          · exact State.tame.sendPush h

theorem State.tameD.drainOne {s t : State} (h : s.tame t) {qi : Nat} {d : DrainTask} {e : Effect} : s.tameD (t.drainOne qi d e) := by
  unfold State.drainOne
  cases e with
  | store a bs =>
    dsimp only
    split
    · exact State.tame.drainWrite h
    · exact .drainPeer h
    · exact trivial
  | red a op n b =>
    dsimp only
    split
    · split
      · next u hu => exact State.tameO.drainRed h _ hu
      · exact trivial
    · exact .drainPeer h
    · exact trivial
  | push ch data => exact .drainPush h
  | close ch => exact .drainPush h
  | msg a tag data =>
    dsimp only
    split
    · exact trivial
    · split
      · exact trivial
      · exact State.tame.post h
  | dec a =>
    dsimp only
    split
    · exact State.tame.decCell h
    · exact trivial
  | spawn hdr tile => exact State.tame.frame (.takeId h) (by rfl)

section
variable {s t : State} (h : s.tame t)
include h

theorem State.tame.setDrain {qi idx : Nat} {d : DrainTask} : s.tame (t.setDrain qi idx d) := .ite (.pieceDone (.updQuad h)) (.updQuad h)

theorem State.tame.drainFill {d : DrainTask} {p1 : Effect} : s.tame (t.drainFill d p1) := by
  unfold State.drainFill
  split
  · exact .engineFill h
  · exact .engineFill h
  · exact .engineFill h
  · exact h

end

theorem State.keepsR.execEffectDrainRecord {s : State} {qi idx : Nat} : s.keepsR (Machine.execEffectDrainRecord qi idx s) := by
  refine .unitEvent (.bind fun d _ => ?_)
  split
  · exact .none
  · split
    · split
      · exact .none
      · exact .some (.setDrain .self)
    · split
      · exact .some (.setDrain .self)
      · next e rest _ =>
        have hone : s.tameD ((s.drainFill d e).drainOne qi d e) := .drainOne (.drainFill .self)
        have hlost (c : Nat) (i : Word) : s.tame ((s.drainReport d c i).setDrain qi idx { d with failed := true, recs := rest }) :=
          .setDrain (.drainReport .self)
        dsimp only
        split
        · exact .none
        · cases hend : (s.drainFill d e).drainOne qi d e with
          | done t =>
            rw [hend] at hone
            exact .some (.setDrain hone)
          | sent t id =>
            rw [hend] at hone
            exact .some (.setDrain hone)
          | later t =>
            rw [hend] at hone
            exact .some hone
          | wait => exact .none
          | fail c i => exact .some (hlost _ _)
          | bad kind a err =>
            cases err with
            | owned => exact .none
            | xlate why =>
              dsimp only
              split
              · exact .some (.setDrain (.takeId .self))
              · exact .some (.service (.setDrain .self))
            | ats => exact .some (hlost _ _)
            | _ => exact .some (hlost _ _)

end Sys2Proof.Machine

end

section
/-! SUPPORT. The same of links, the optical edge and the panel controller. -/

namespace Sys2Proof.Machine

section
variable {s t : State} (h : s.tame t)
include h

theorem State.tame.setFlit {f : Flit} : s.tame (t.setFlit f) := .frame h (by rfl)

end

theorem State.keepsR.execCreditReturn {s : State} {n : Nat} : s.keepsR (Machine.execCreditReturn n s) := by
  unfold Machine.execCreditReturn
  refine .event ?_
  split
  · exact .some (.frame .self (by rfl))
  · exact .none

section
variable {s t : State} (h : s.tame t)
include h

theorem State.tame.bounce {p : Packet} : s.tame (t.bounce p) := by
  unfold State.bounce
  extract_lets mine s1
  have hs1 : s.tame s1 := .foldl h (fun _ _ hu => .freeBuffer hu)
  exact .frame hs1 (by rfl)

theorem State.tame.deliverFlit {p : Packet} {f : Flit} : s.tame (t.deliverFlit p f) := by
  unfold State.deliverFlit
  split
  · exact .bounce h
  · extract_lets s1
    have hs1 : s.tame s1 := .freeBuffer h
    exact .frame hs1 (by rfl)

theorem State.tame.enterRouter {l : Nat} {f : Flit} : s.tame (t.enterRouter l f) := by
  unfold State.enterRouter
  extract_lets r
  exact .setFlit h

end

section
variable {s t : State} (h : s.tame t) {next : State → Option (Packet × Flit)} {go : State → Packet → Flit → State}
  (hgo : ∀ u p f, s.tame u → s.tame (go u p f))
include h hgo

theorem State.tame.passOn {n left : Nat} : s.tame (State.passOn next go n t left) := by
  induction n generalizing t left with
  | zero => exact h
  | succ n ih =>
    unfold State.passOn
    split
    · exact h
    · split
      · exact h
      · split
        · exact .setFlit h
        · exact ih (hgo _ _ _ (.freeBuffer h))

theorem State.tame.useLink {l : Nat} {p : Packet} {f : Flit} : s.tame (t.useLink l p f next go) :=
  .ite (.setFlit (.frame h (by rfl))) (.passOn (hgo _ _ _ (.freeBuffer (.frame h (by rfl)))) hgo)

end

theorem State.keepsR.execStreamFlitHop {s : State} {pkt seq : Nat} : s.keepsR (Machine.execStreamFlitHop pkt seq s) := by
  unfold Machine.execStreamFlitHop
  refine .event ?_
  refine .bind (fun _ _ => ?_)
  refine .bind (fun _ _ => ?_)
  refine .bind (fun _ _ => ?_)
  split
  · exact .some (.deliverFlit .self)
  · refine .bind (fun _ _ => ?_)
    split
    · exact .some (.useLink .self (fun _ _ _ hu => .enterRouter hu))
    · exact .none

section
variable {s t : State} (h : s.tame t)
include h

theorem State.tame.redArrive {pkt r : Nat} : s.tame (t.redArrive pkt r) := by
  unfold State.redArrive
  split
  · exact h
  · exact .redJoin h

theorem State.tame.cross {l : Nat} {p : Packet} {f : Flit} : s.tame (t.cross l p f) := by
  unfold State.cross
  split
  · extract_lets n
    exact .redArrive (.enterRouter (.updPanel h))
  · exact h

end

theorem State.keepsR.execBestEffortFlitHop {s : State} {pkt seq : Nat} : s.keepsR (Machine.execBestEffortFlitHop pkt seq s) := by
  unfold Machine.execBestEffortFlitHop
  refine .event ?_
  refine .bind (fun _ _ => ?_)
  refine .bind (fun _ _ => ?_)
  split
  · exact .none
  · split
    · exact .some (.deliverFlit .self)
    · exact .some (.bounce .self)
    · refine .bind (fun _ _ => ?_)
      split
      · exact .some (.useLink .self (fun _ _ _ hu => .cross hu))
      · exact .none

theorem State.keepsR.execStitchCrossing {s : State} {pkt seq : Nat} : s.keepsR (Machine.execStitchCrossing pkt seq s) := by
  unfold Machine.execStitchCrossing
  refine .event ?_
  refine .bind (fun _ _ => ?_)
  refine .bind (fun _ _ => ?_)
  split
  · exact .some (.setFlit .self)
  · exact .none

section
variable {s t : State} (h : s.tame t)
include h

theorem State.tame.packetLost {pkt : Nat} : s.tame (t.packetLost pkt) := by
  unfold State.packetLost
  extract_lets s1 s2
  have hs1 : s.tame s1 := .frame h (by rfl)
  have hs2 : s.tame s2 := by
    unfold s2
    split
    · exact .ite (.dropMsg hs1) (.denyMsg hs1)
    · exact hs1
  split
  · exact .ackPush hs2
  · exact hs2

theorem State.tame.packetTo {pkt qi : Nat} : s.tame (t.packetTo pkt qi) := .frame h (by rfl)

end

theorem State.keepsR.execPacketBounce {s : State} {pkt : Nat} : s.keepsR (Machine.execPacketBounce pkt s) := by
  unfold Machine.execPacketBounce
  refine .event ?_
  refine .bind (fun _ _ => ?_)
  split
  · exact .none
  · split
    · exact .some (.packetLost .self)
    · extract_lets q again s1
      have hs1 : s.tame s1 := .frame .self (by rfl)
      exact .some (.packetTo hs1)

theorem State.keepsR.execLinkRetrain {s : State} {link width : Nat} : s.keepsR (Machine.execLinkRetrain link width s) := by
  unfold Machine.execLinkRetrain
  refine .unitEvent ?_
  split
  · exact .none
  · extract_lets a s1 bytes s2
    have hs1 : s.tame s1 := .frame .self (by rfl)
    have hs2 : s.tame s2 := .foldl hs1 (fun _ _ hu => .foldl hu (fun _ _ hu1 => .ite (.shortfall hu1) hu1))
    exact .some (.regrade hs2)

section
variable {s t : State} (h : s.tame t)
include h

theorem State.tame.ctrlReply {r : CtrlReq} {w0 : Word} {data : List Byte} : s.tame (t.ctrlReply r w0 data) := by
  unfold State.ctrlReply
  extract_lets bs hdr s1 a
  have hs1 : s.tame s1 := .frame h (by rfl)
  have ha : s.tame a := .takeId hs1
  exact .frame ha (by rfl)

theorem State.tame.ctrlStatus {r : CtrlReq} {n : Nat} : s.tame (t.ctrlStatus r n) := .ctrlReply h

end

theorem State.keepsR.ctrlEvent {s : State} {id : Nat} {code : Nat → Bool} {k : CtrlReq → State} (hk : ∀ r, s.tame (k r)) :
    s.keepsR (ctrlEvent id code s k) := .event (.bind fun _ _ => .guard (hk _))

section
variable {s t : State} (h : s.tame t)
include h

theorem State.tame.setSlots {hops : List (Nat × Nat)} {v : BitVec 32} : s.tame (t.setSlots hops v) := .frame h (by rfl)

theorem State.tame.openStream {pid : Nat} {t1 : Stream} : s.tame (t.openStream pid t1) := by
  unfold State.openStream
  extract_lets plan
  exact .updPart (.setSlots h)

end

theorem State.keepsR.execCtrlOpenStream {s : State} {id : Nat} : s.keepsR (Machine.execCtrlOpenStream id s) := by
  unfold Machine.execCtrlOpenStream
  refine .ctrlEvent (fun _ => ?_)
  extract_lets n
  exact .ctrlStatus (.ite (.openStream (.draw .self)) (.draw .self))

section
variable {s t : State} (h : s.tame t)
include h

theorem State.tame.closeStream {pid : Nat} {t1 : Stream} : s.tame (t.closeStream pid t1) := by
  unfold State.closeStream
  extract_lets mine ids s1
  have hs1 : s.tame s1 := .frame h (by rfl)
  exact .updPart (.setSlots hs1)

end

theorem State.keepsR.execCtrlCloseStream {s : State} {id : Nat} : s.keepsR (Machine.execCtrlCloseStream id s) := by
  unfold Machine.execCtrlCloseStream
  refine .ctrlEvent (fun _ => ?_)
  split
  · exact .ctrlStatus .self
  · split
    · exact .ctrlStatus .self
    · exact .ctrlStatus (.closeStream .self)

theorem State.keepsR.execCtrlReadLink {s : State} {id : Nat} : s.keepsR (Machine.execCtrlReadLink id s) := by
  unfold Machine.execCtrlReadLink
  refine .ctrlEvent (fun _ => ?_)
  split
  · exact .ctrlStatus .self
  · split
    · exact .ctrlStatus .self
    · extract_lets l
      exact .ctrlReply .self

theorem State.keepsR.execCtrlReadBandedLatency {s : State} {id : Nat} : s.keepsR (Machine.execCtrlReadBandedLatency id s) := by
  unfold Machine.execCtrlReadBandedLatency
  refine .ctrlEvent (fun _ => ?_)
  extract_lets b
  exact .ite (.ctrlStatus .self) (.ctrlReply .self)

section
variable {s t : State} (h : s.tame t)
include h

theorem State.tame.updEdge {unit : Nat} {f : Edge → Edge} : s.tame (t.updEdge unit f) := .frame h (by rfl)

end

theorem State.keepsR.execCtrlReadEdgeUnit {s : State} {id : Nat} : s.keepsR (Machine.execCtrlReadEdgeUnit id s) := by
  unfold Machine.execCtrlReadEdgeUnit
  refine .ctrlEvent (fun _ => ?_)
  extract_lets u
  exact .ite (.ctrlStatus .self) (.ite (.ctrlStatus .self) (.ctrlReply .self))

theorem State.keepsR.execCtrlRoutePeer {s : State} {id : Nat} : s.keepsR (Machine.execCtrlRoutePeer id s) := by
  unfold Machine.execCtrlRoutePeer
  refine .ctrlEvent (fun _ => ?_)
  extract_lets panel u m owned
  exact .ite (.ctrlStatus .self) (.ite (.ctrlStatus .self) (.ctrlStatus (.updPart .self)))

theorem State.keepsR.execCtrlReservedCode {s : State} {id : Nat} : s.keepsR (Machine.execCtrlReservedCode id s) :=
  .ctrlEvent (fun _ => .ctrlStatus .self)

section
variable {s t : State} (h : s.tame t)
include h

theorem State.tame.burstTo {ids : List Nat} {st : Stage} {ms : MsgSt} : s.tame (t.burstTo ids st ms) := .frame h (by rfl)

end

theorem State.keepsR.execBurstSend {s : State} {unit peer : Nat} : s.keepsR (Machine.execBurstSend unit peer s) := by
  unfold Machine.execBurstSend
  refine .unitEvent ?_
  extract_lets e ready
  refine .bind (fun _ _ => ?_)
  extract_lets ids b
  exact .some (.updEdge (.burstTo .self))

section
variable {s t : State} (h : s.tame t)
include h

theorem State.tame.dropBurst {unit seq : Nat} : s.tame (t.dropBurst unit seq) := .updEdge h

end

theorem State.keepsR.execBurstAck {s : State} {unit seq : Nat} : s.keepsR (Machine.execBurstAck unit seq s) :=
  .unitEvent (.bind (fun _ _ => .some (.dropBurst (.burstTo .self))))

theorem State.keepsR.execBurstResend {s : State} {unit seq : Nat} : s.keepsR (Machine.execBurstResend unit seq s) := by
  unfold Machine.execBurstResend
  refine .unitEvent ?_
  refine .bind (fun _ _ => ?_)
  split
  · exact .none
  · exact .some (.updEdge .self)

theorem State.keepsR.execBurstRefusal {s : State} {unit seq : Nat} : s.keepsR (Machine.execBurstRefusal unit seq s) := by
  unfold Machine.execBurstRefusal
  refine .unitEvent ?_
  refine .bind (fun _ _ => ?_)
  extract_lets fs ms
  exact .some (.foldl (.foldl (.dropBurst .self) (fun _ _ hu => .denialArrives hu)) (fun _ _ hu => .denyMsg hu))

section
variable {s t : State} (h : s.tame t)
include h

theorem State.tame.receiveMsg {panel pid : Nat} {m : Msg} : s.tame (t.receiveMsg panel pid m) := by
  unfold State.receiveMsg
  split
  · exact h
  · extract_lets a
    have ha : s.tame a := .takeId h
    exact .frame ha (by rfl)

theorem State.tame.peerWrites {k : Nat} : s.tame (t.peerWrites k) := by
  unfold State.peerWrites
  split
  · exact h
  · extract_lets s1
    have hs1 : s.tame s1 := .invalidateOthers h
    exact .frame hs1 (by rfl)

end

theorem State.tame.peerAct {s t : State} (h : s.tame t) {q k : Nat} {ks : List Nat} {x : PeerPkt} : s.tame (t.peerAct q k ks x) := by
  unfold State.peerAct
  split
  · exact h
  · exact h
  · exact .ite (.dieLoad h) h
  · exact .scatter (.foldl h fun _ _ hu => .peerWrites hu)
  · exact .wr (.peerWrites h)
  · exact .ite (.wr (.peerWrites h)) (.peerWrites h)
  · exact .ite h (.wordJoin (.takeId h))
  · exact .ite h (.wordJoin (.takeId h))
  · next b full =>
    split
    · exact h
    · exact .setFe (k := k) (b := full) (.wr8 h) (by rfl)

section
variable {s t : State} (h : s.tame t)
include h

theorem State.tame.receive {panel : Nat} {x : PeerPkt} : s.tame (t.receive panel x) := by
  unfold State.receive
  split
  · exact .receiveMsg h
  · exact .receiveMsg h
  · split
    · exact .peerAct h
    · exact h

end

theorem State.keepsR.execBurstReceive {s : State} {unit panel seq : Nat} {crcOk : Bool} {pkts : List PeerPkt} :
    s.keepsR (Machine.execBurstReceive unit panel seq crcOk pkts s) := by
  unfold Machine.execBurstReceive
  refine .unitEvent ?_
  split
  · exact .some (.updEdge .self)
  · extract_lets s1
    have hs1 : s.tame s1 := .updEdge .self
    split
    · exact .some hs1
    · split
      · exact .none
      · exact .some (.foldl (.updEdge hs1) (fun _ _ hu => .receive hu))

theorem State.keepsR.execWavelengthLockChange {s : State} {unit : Nat} {lock degr : BitVec 16} {clock : ControlReport} :
    s.keepsR (Machine.execWavelengthLockChange unit lock degr clock s) :=
  .unitEvent (.some (.updEdge .self))

theorem State.keepsR.execReductionHoldExpiry {s : State} {id : Nat} : s.keepsR (Machine.execReductionHoldExpiry id s) := by
  unfold Machine.execReductionHoldExpiry
  refine .event ?_
  refine .map (fun _ _ => ?_)
  extract_lets t1
  have ht1 : s.tame t1 := .frame .self (by rfl)
  split
  · exact .redJoin ht1
  · exact ht1

theorem State.keepsR.execReductionPairExpiry {s : State} {loc rsn : Nat} : s.keepsR (Machine.execReductionPairExpiry loc rsn s) := by
  unfold Machine.execReductionPairExpiry
  refine .event ?_
  refine .bind (fun _ _ => ?_)
  extract_lets oldest
  split
  · exact .some (.frame .self (by rfl))
  · exact .none

end Sys2Proof.Machine

end

section
/-! SUPPORT. The same of the yoke, copies and the partition's own operations. -/

namespace Sys2Proof.Machine

section
variable {s t : State} (h : s.tame t)
include h

theorem State.tame.updSlice {ck : Nat} {f : Slice → Slice} : s.tame (t.updSlice ck f) := .updCore h

theorem State.tame.dropOp {ck : Nat} {o : SliceOp} : s.tame (t.dropOp ck o) := .updSlice h

theorem State.tame.dropOpId {ck id : Nat} : s.tame (t.dropOpId ck id) := .updSlice h

theorem State.tameO.instantOp {ck : Nat} {o : SliceOp} : s.tameO (t.instantOp ck o) := by
  unfold State.instantOp
  split
  · exact .some (.updSlice (.dropOp h))
  · exact .some (.updSlice (.dropOp h))
  · exact .some (.updSlice (.dropOp h))
  · exact .some (.updCore (.dropOp h))
  · exact .none

end

theorem State.tame.advanceFuel {s t : State} (h : s.tame t) {ck n : Nat} : s.tame (t.advanceFuel ck n) := by
  induction n generalizing t with
  | zero => exact h
  | succ n ih =>
    unfold State.advanceFuel
    split
    · exact h
    · next u hu =>
      obtain ⟨o, _, ho⟩ := List.exists_of_findSome?_eq_some hu
      exact ih (State.tameO.instantOp h _ ho)

section
variable {s t : State} (h : s.tame t)
include h

theorem State.tame.advanceSlice {ck : Nat} : s.tame (t.advanceSlice ck) := .advanceFuel h

theorem State.tame.enterOp {o : SliceOp} : s.tame (t.enterOp o) := .advanceSlice (.updSlice h)

end

theorem State.keepsR.execWswap {s : State}  : s.keepsR (Machine.execWswap s) := .runHead (fun _ _ hu => .next (.enterOp hu))

theorem State.keepsR.execMzero {s : State} {first : BitVec 6} {count : BitVec 7} : s.keepsR (Machine.execMzero first count s) :=
  .runHead (fun _ _ hu => .next (.enterOp hu))

theorem State.keepsR.execMread {s : State} {d : VReg} {g : BitVec 22} : s.keepsR (Machine.execMread d g s) :=
  .runHead (fun _ _ hu => .next (.enterOp (.updMe hu (by exact fun _ => id))))

theorem State.keepsR.execGeom {s : State} {sel : GeomSel} {d : Reg} : s.keepsR (Machine.execGeom sel d s) := by
  unfold Machine.execGeom
  refine .runHead (fun _ _ hu => ?_)
  extract_lets g
  exact .put hu

section
variable {s t : State} (h : s.tame t)
include h

theorem State.tame.endTile {ck slot : Nat} : s.tame (t.endTile ck slot) := .ite (.endCount h) h

theorem State.tameO.yokeBack {ck slot kind : Nat} {ws : List Word} {a : Word} {reason : Nat} {final : Bool} :
    s.tameO (t.yokeBack ck slot kind ws a reason final) := by
  unfold State.yokeBack
  split
  · exact .some h
  · exact .handback h

end

theorem State.keepsR.execLtab {s : State} {a : Reg} : s.keepsR (Machine.execLtab a s) := by
  unfold Machine.execLtab
  refine .runHead (fun _ _ hu => ?_)
  extract_lets x a1 t11
  have ha1 : s.tame a1 := .takeId hu
  have ht11 : s.tame t11 := .frame ha1 (by rfl)
  exact .memWait (.orElse (.roomFor (.next (.addCount ht11))))

theorem State.keepsR.execLtabDone {s : State} {id : Nat} : s.keepsR (Machine.execLtabDone id s) := by
  unfold Machine.execLtabDone
  refine .event ?_
  refine .bind (fun _ _ => ?_)
  split
  · exact .none
  · split
    · extract_lets tab t1
      have ht1 : s.tame t1 := .frame .self (by rfl)
      exact .some (.endCount (.updQuad (.engineFill ht1)))
    · exact .none

theorem State.keepsR.execSbtake {s : State} {d a : Reg} : s.keepsR (Machine.execSbtake d a s) := by
  unfold Machine.execSbtake
  refine .runHead (fun _ _ hu => ?_)
  extract_lets x ck l
  split
  · exact .trap
  · split
    · split
      · exact .put hu
      · exact .put (.updSlice hu)
    · split
      · exact .trap
      · split
        · exact .put (.enterOp (.updSlice hu))
        · exact .put (.updSlice hu)

theorem State.keepsR.wload {s : State} {sc : Bool} {a b : Reg} : s.keepsR (Machine.wload sc a b s) := by
  unfold Machine.wload
  refine .runHead (fun _ _ hu => ?_)
  extract_lets x w ck l t11
  have ht11 : s.tame t11 := .ite (.updSlice hu) hu
  exact .memWait (.orElse (.roomFor (.next (.addCount (.enterOp (.takeId ht11))))))

theorem State.keepsR.execWload {s : State} {a b : Reg} : s.keepsR (Machine.execWload a b s) := .wload

theorem State.keepsR.execWloadSc {s : State} {a b : Reg} : s.keepsR (Machine.execWloadSc a b s) := .wload

theorem State.keepsR.execWloadDone {s : State} {ck : Nat} : s.keepsR (Machine.execWloadDone ck s) := by
  unfold Machine.execWloadDone
  refine .unitEvent ?_
  refine .bind (fun _ _ => ?_)
  split
  · split
    · exact .none
    · split
      · extract_lets p
        exact .some (.advanceSlice (.endTile (.updSlice (.dropOpId (.engineFill .self)))))
      · exact .none
  · exact .none

theorem State.keepsR.execGang {s : State} {a : Reg} : s.keepsR (Machine.execGang a s) := by
  unfold Machine.execGang
  refine .runReply (fun _ _ hu => ?_) (fun _ _ hu => .next hu)
  extract_lets x
  exact .orElse (.memWait (.keep (.blockMe (.await (.enterOp (.takeId hu))))))

theorem State.keepsR.execC28StreamCommand {s : State} {ck slot : Nat} {v : Word} : s.keepsR (Machine.execC28StreamCommand ck slot v s) :=
  .unitEvent (.pushPort .self)

/-- Every slot but one keeps its system registers and its place. -/
def State.stands (s t : State) (k : Nat) : Prop := ∀ n, n ≠ k → (t.slot n).sr = (s.slot n).sr ∧ (t.slot n).pc = (s.slot n).pc

section
variable {s t u : State} {k : Nat} (h : s.stands t k)

theorem State.stands.self : s.stands s k := fun _ _ => ⟨Eq.refl _, Eq.refl _⟩

include h

theorem State.stands.slots (hs : u.slots = t.slots) : s.stands u k := fun n => by
  rw [State.slot, hs]
  exact h n

theorem State.stands.updSlot {j : Nat} {f : Slot → Slot} (hf : ∀ x, (f x).sr = x.sr ∧ (f x).pc = x.pc) :
    s.stands (t.updSlot j f) k := fun n hn => by
  rw [State.slot_updSlot]
  split
  · next hj => rw [(hf _).1, (hf _).2, ← hj]; exact h n hn
  · exact h n hn

theorem State.stands.own {f : Slot → Slot} : s.stands (t.updSlot k f) k := fun n hn => by
  rw [State.slot_updSlot_ne _ _ _ _ hn]
  exact h n hn

end

theorem State.slots_evqPush {s : State} {v : Nat} {bs : List Byte} : (s.evqPush v bs).slots = s.slots := by
  unfold State.evqPush
  dsimp only
  split <;> rfl

theorem State.slots_service {s : State} {p : Nat} {m : Svc} : (s.service p m).slots = s.slots := by
  unfold State.service
  dsimp only
  split
  · exact State.slots_evqPush
  · rfl

theorem State.slots_deadStreams {s : State} {q : Nat} : (s.deadStreams q).slots = s.slots := by
  refine State.slots_foldl fun u p => State.slots_foldl fun v x => ?_
  split
  · exact State.slots_evqPush.trans State.slots_service
  · rfl

theorem State.slots_regrade {s : State} {r : Nat} : (s.regrade r).slots = s.slots := by
  refine State.slots_foldl fun u e => ?_
  split
  · unfold State.reclass
    dsimp only
    split
    · exact State.slots_evqPush.trans State.slots_service
    · rfl
  · rfl

theorem State.slots_containMsgs {s : State} {q d : Nat} {b : Bool} : (s.containMsgs q d b).slots = s.slots := by
  refine State.slots_foldl fun u c => ?_
  extract_lets lost m u1
  have hu1 : u1.slots = u.slots := by
    unfold u1
    split
    · exact State.slots_service
    · exact State.slots_foldl fun _ _ => State.slots_service
  split
  · exact hu1
  · exact State.slots_service.trans hu1

theorem State.slots_loseFlights {s : State} {q : Nat} : (s.loseFlights q).slots = s.slots := by
  unfold State.loseFlights
  refine Eq.trans (State.slots_foldl fun _ _ => Eq.refl _) (State.slots_foldl fun u f => ?_)
  split
  · rfl
  · exact (State.slots_dropPacket _ _).1

theorem State.slots_failHolds {s : State} {q : Nat} : (s.failHolds q).slots = s.slots := by
  refine State.slots_foldl fun u h => State.slots_foldl fun v i => ?_
  unfold State.resendRed
  split
  · rfl
  · split
    · exact (State.slots_dropPacket _ _).1
    · rfl

/-- A containment leaves the slots. -/
theorem State.slots_contain {s : State} {q d c : Nat} : (s.contain q d c).slots = s.slots := by
  unfold State.contain
  extract_lets q0 dead ent s0 st s1 s2 s21 spare s3
  have hs0 : s0.slots = s.slots := by
    unfold s0
    split
    · exact State.slots_failHolds
    · rfl
  have hs2 : s2.slots = s.slots := State.slots_loseFlights.trans (State.slots_containMsgs.trans hs0)
  have hs21 : s21.slots = s.slots := by
    unfold s21
    split
    · exact State.slots_deadStreams.trans hs2
    · exact hs2
  have hs3 : s3.slots = s.slots := by
    unfold s3
    split <;> exact hs21
  split
  · split
    · exact State.slots_regrade.trans (State.slots_deadStreams.trans hs0)
    · exact hs0
  · exact State.slots_regrade.trans hs3

theorem State.stands.resetRotation {s t : State} {k ck : Nat} (h : s.stands t k) : s.stands (t.resetRotation ck) k := by
  unfold State.resetRotation
  split
  · exact h.slots (by rfl)
  · exact h

theorem State.stands.endGroup {s t : State} {k g : Nat} (h : s.stands t k) : s.stands (t.endGroup g) k := by
  unfold State.endGroup
  split
  · exact h
  · next x _ =>
    split
    · exact h.slots (by rfl)
    · extract_lets s1 s2 s3
      have hs2 : s.stands s2 k := State.stands.updSlot (t := s1) (h.slots rfl) fun _ => ⟨rfl, rfl⟩
      have hs3 : s.stands s3 k := by
        unfold s3
        split
        · exact hs2
        · exact hs2.updSlot fun x => by split <;> exact ⟨rfl, rfl⟩
      split
      · exact hs3
      · split
        · exact hs3.slots (by rfl)
        · exact hs3.updSlot (by exact fun _ => ⟨rfl, rfl⟩)

theorem State.stands.ripFlights {s t : State} {k tk : Nat} (h : s.stands t k) : s.stands (t.ripFlights tk) k := by
  refine List.foldlRecOn (motive := fun t => s.stands t k) _ _ (h.slots rfl) fun u hu f _ => ?_
  have hcount : s.stands (u.endCount tk f.ctr) k := hu.updSlot (by exact fun _ => ⟨rfl, rfl⟩)
  dsimp only
  split
  · exact hcount.endGroup
  · exact hcount.endGroup
  · exact hcount

theorem State.stands.rip {s : State} {tk : Nat} : s.stands (s.rip tk false) tk := by
  have hret : (s.returnAllot tk).slots = s.slots := by
    unfold State.returnAllot
    split <;> rfl
  have hslot : s.stands (s.ripSlot tk) tk :=
    .resetRotation (.own (.ripFlights (.own (.slots (.slots .self hret) (by rfl)))))
  unfold State.rip
  dsimp only
  split
  · exact hslot
  · exact hslot.slots (by rfl)

/-- A trap's entry leaves every other slot's registers and place. -/
theorem State.stands.enterTrap {s : State} {tk cause : Nat} {info epc : Word} : s.stands (s.enterTrap tk cause info epc) tk := by
  unfold State.enterTrap
  dsimp only
  split
  · unfold State.doubleTrap
    dsimp only
    split
    · exact .slots (.own .self) State.slots_contain
    · refine .slots ?_ State.slots_service
      split
      · exact .rip
      · exact State.stands.slots (t := s.updSlot tk fun y => { y with st := .moving, op := .none, pc := epc }) (.own .self) (by rfl)
  · exact fun n hn => by rw [State.slot_setSlot, if_neg hn]; exact ⟨rfl, rfl⟩

theorem State.slots_advanceSlice {s : State} {ck : Nat} : (s.advanceSlice ck).slots = s.slots := by
  have hfuel (n : Nat) (t : State) : (t.advanceFuel ck n).slots = t.slots := by
    induction n generalizing t with
    | zero => rfl
    | succ n ih =>
      unfold State.advanceFuel
      split
      · rfl
      · next u hu =>
        obtain ⟨o, _, ho⟩ := List.exists_of_findSome?_eq_some hu
        rw [ih]
        cases o <;> cases ho <;> rfl
  exact hfuel _ s

/-- What leaves the slots alone, after what may have entered a trap. -/
theorem State.kept.then {s t u : State} (h : s.kept t) (ht : t.tame u) (hs : u.slots = t.slots) : s.kept u := by
  refine ⟨fun w => ht.1 (h.1 w), fun tk => ?_⟩
  rw [State.trapEntered, State.slot, hs]
  exact h.2 tk

/-- Traps entered in one slot after the other. -/
theorem State.kept.traps {α : Type} {s : State} {g : State → α → State} {tk : α → Nat} (hg : ∀ (t : State) (a : α), t.stands (g t a)
    (tk a) ∧ t.kept (g t a))
    {l : List α} (hl : (l.map tk).Nodup) {t : State} (h : s.kept t) (hsr : ∀ a ∈ l, (t.slot (tk a)).sr = (s.slot (tk a)).sr) :
    s.kept (l.foldl g t) := by
  induction l generalizing t with
  | nil => exact h
  | cons a l ih =>
    obtain ⟨hstands, hkept⟩ := hg t a
    rw [List.map_cons, List.nodup_cons] at hl
    obtain ⟨hnew, hl⟩ := hl
    refine ih hl ⟨fun w => hkept.1 (h.1 w), fun n p => ?_⟩ fun b hb => ?_
    · by_cases hn : n = tk a
      · have he : (t.slot n).sr = (s.slot n).sr := by rw [hn]; exact hsr a List.mem_cons_self
        rcases hkept.2 n p with hold | ⟨hexl, hrest⟩
        · rw [Slot.pl, he] at hold
          exact .inl hold
        · rw [Slot.exl, he] at hexl
          rw [he] at hrest
          exact .inr ⟨hexl, hrest⟩
      · obtain ⟨hreg, hpc⟩ := hstands n hn
        rw [Slot.pl, hreg] at p
        rw [State.trapEntered, Slot.exl, Slot.exl, hreg, hpc]
        exact h.2 n p
    · have hne : tk b ≠ tk a := fun he => hnew (List.mem_map.mpr ⟨b, hb, he⟩)
      rw [(hstands _ hne).1]
      exact hsr b (List.mem_cons_of_mem _ hb)

theorem State.stands.postOrReport {s t : State} {k tk c : Nat} {i pc : Word} (h : s.stands t k) : s.stands (t.postOrReport tk c i pc) k := by
  unfold State.postOrReport
  split
  · exact h.slots State.slots_service
  · exact h.updSlot fun x => by split <;> exact ⟨rfl, rfl⟩

theorem State.stands.endTile {s t : State} {k ck slot : Nat} (h : s.stands t k) : s.stands (t.endTile ck slot) k := by
  unfold State.endTile
  split
  · exact h.updSlot (by exact fun _ => ⟨rfl, rfl⟩)
  · exact h

theorem State.kept.voidGang {s : State} {es : List JoinEnt} {f : JoinFail} (hes : (es.map fun e => agentOf e.ck e.slot).Nodup) :
    s.kept (s.voidGang es f) := by
  refine .traps (tk := fun e => agentOf e.ck e.slot) (fun t e => ?_) hes (State.tame.kept .self) fun _ _ => Eq.refl _
  dsimp only
  have hdrop : t.tame (t.dropOpId e.ck e.id) := .dropOpId .self
  have hgo (u : State) (hs : t.stands u (agentOf e.ck e.slot)) (hk : t.kept u) :
      t.stands (u.advanceSlice e.ck) (agentOf e.ck e.slot) ∧ t.kept (u.advanceSlice e.ck) :=
    ⟨hs.slots State.slots_advanceSlice, hk.then (.advanceSlice .self) State.slots_advanceSlice⟩
  refine hgo _ ?_ ?_
  · split
    · exact State.stands.enterTrap (s := t.dropOpId e.ck e.id)
    · split
      · exact State.stands.slots .self State.slots_service
      · exact .postOrReport (.endTile (.slots .self (by rfl)))
  · split
    · exact .enterTrapAfter hdrop (Eq.refl _)
    · split
      · exact State.tame.kept (.service hdrop)
      · exact State.tame.kept (.postOrReport (.endTile hdrop))

section
variable {s t : State} (h : s.tame t)
include h

theorem State.tame.headDone {e : JoinEnt} : s.tame (t.headDone e) := .ite (.reply h) h

theorem State.tame.joinOne {gid : Nat} {e : JoinEnt} {d : GangDesc} : s.tame (t.joinOne gid e d) := by
  unfold State.joinOne
  extract_lets run t1 t11
  have ht1 : s.tame t1 := .headDone (.dropOpId h)
  have ht11 : s.tame t11 := .headDone (.advanceSlice (.updSlice h))
  exact .ite (.advanceSlice (.ite ht1 (.endTile ht1))) (.ite (.addCount ht11) ht11)

end

theorem firstGang_ck {ck : Nat} {seen ops : List SliceOp} {e : JoinEnt} (h : firstGang ck seen ops = some e) : e.ck = ck := by
  induction ops generalizing seen with
  | nil => exact nomatch h
  | cons o ops ih =>
    cases o with
    | gang id slot head addr pc =>
      cases h
      rfl
    | _ => exact ih h

/-- The entries of different cores are of different slots. -/
theorem nodup_agents {ops : Nat → List SliceOp} {cks : List Nat} (h : cks.Nodup) :
    ((cks.filterMap fun ck => firstGang ck [] (ops ck)).map fun e => agentOf e.ck e.slot).Nodup := by
  have hsub : ((cks.filterMap fun ck => firstGang ck [] (ops ck)).map fun e => e.ck).Sublist cks := by
    clear h
    induction cks with
    | nil => exact .slnil
    | cons c cks ih =>
      cases hf : firstGang c [] (ops c) with
      | none =>
        rw [List.filterMap_cons_none (f := fun ck => firstGang ck [] (ops ck)) hf]
        exact .cons _ ih
      | some e =>
        rw [List.filterMap_cons_some (f := fun ck => firstGang ck [] (ops ck)) hf, List.map_cons, firstGang_ck hf]
        exact .cons_cons _ ih
  refine List.Nodup.of_map (f := (· / 8)) ?_
  rw [List.map_map]
  have hck : ((fun x => x / 8) ∘ fun e : JoinEnt => agentOf e.ck e.slot) = fun e => e.ck := by
    funext e
    show (e.ck * 8 + e.slot % 8) / 8 = e.ck
    omega
  rw [hck]
  exact hsub.nodup h

theorem State.keepsR.execGangJoin {s : State} {qi : Nat} : s.keepsR (Machine.execGangJoin qi s) := by
  refine .unitEventKept fun u hu => ?_
  have hvoid (f : JoinFail) : s.kept (s.voidGang (((List.range 4).map fun c => qi * 4 + c).filterMap fun ck => firstGang ck []
      (s.core ck).slice.ops) f) := by
    refine .voidGang (nodup_agents (ops := fun ck => (s.core ck).slice.ops) ?_)
    exact (List.nodup_range).map fun a b hab => by simpa using hab
  have hjoin (l : List (JoinEnt × GangDesc)) : s.tame (l.foldl (fun u x => u.joinOne s.ids x.1 x.2) s.takeId) :=
    .foldl (.takeId .self) fun _ _ hu => .joinOne hu
  dsimp only at hu
  split at hu
  · exact nomatch hu
  · split at hu
    · exact nomatch hu
    · split at hu
      · cases hu
        exact hvoid _
      · split at hu
        · exact nomatch hu
        · split at hu
          · cases hu
            exact hvoid _
          · split at hu
            · exact nomatch hu
            · split at hu
              · cases hu
                exact State.tame.kept (hjoin _)
              · cases hu
                exact State.tame.kept (.updQuad (hjoin _))

section
variable {s t : State} (h : s.tame t)
include h

theorem State.tame.gangEnd {qi : Nat} {g : Gang} : s.tame (t.gangEnd qi g) :=
  .foldl (.updQuad h) (fun _ _ hu => .advanceSlice (.endTile (.dropOpId hu)))

end

theorem State.keepsR.execGangRow {s : State} {qi : Nat} : s.keepsR (Machine.execGangRow qi s) := by
  unfold Machine.execGangRow
  refine .unitEvent ?_
  refine .bind (fun _ _ => ?_)
  refine .bind (fun _ _ => ?_)
  split
  · exact .none
  · extract_lets w tk
    split
    · exact .none
    · exact .some (.updQuad .self)
    · extract_lets t1
      have ht1 : s.tame t1 := .foldl (.engineFill .self) (fun _ _ hu => .updSlice hu)
      split
      · exact .some (.updQuad ht1)
      · exact .some (.gangEnd ht1)

theorem State.keepsR.execMdrain {s : State} {fmt : OFmt} {r : Rnd} {a b c : Reg} : s.keepsR (Machine.execMdrain fmt r a b c s) := by
  unfold Machine.execMdrain
  refine .runHead (fun _ _ hu => ?_)
  extract_lets x rc
  refine .memWait ?_
  refine .orElse ?_
  split
  · exact .trapFree
  · exact .orElse (.roomFor (.next (.addCount (.enterOp (.takeId hu)))))

theorem State.keepsR.execMdrainPort {s : State} {fmt : OFmt} {r : Rnd} {b : Reg} : s.keepsR (Machine.execMdrainPort fmt r b s) := by
  unfold Machine.execMdrainPort
  refine .runHead (fun _ _ hu => ?_)
  extract_lets rc
  split
  · exact .trap
  · split
    · exact .block
    · exact .roomFor (.next (.addCount (.enterOp (.takeId hu))))

section
variable {s t : State} (h : s.tame t)
include h

theorem State.tame.stepDrain {ck : Nat} {o next : SliceOp} {last : Bool} {slot : Nat} : s.tame (t.stepDrain ck o next last slot) :=
  .ite (.advanceSlice (.endTile (.dropOp h))) (.updSlice h)

end

theorem State.keepsR.execMdrainRowWrite {s : State} {ck : Nat} : s.keepsR (Machine.execMdrainRowWrite ck s) := by
  unfold Machine.execMdrainRowWrite
  refine .unitEvent ?_
  refine .bind (fun _ _ => ?_)
  split
  · extract_lets n k bs
    split
    · exact .none
    · exact .some (.stepDrain (.wrBytes (.noteBlock .self)))
  · exact .none

theorem State.keepsR.execMdrainHandlePush {s : State} {ck : Nat} : s.keepsR (Machine.execMdrainHandlePush ck s) := by
  unfold Machine.execMdrainHandlePush
  refine .unitEvent ?_
  refine .bind (fun _ _ => ?_)
  split
  · split
    · exact .none
    · extract_lets last h1 t1
      have ht1 : s.tame t1 := .updCore .self
      exact .some (.stepDrain ht1)
  · exact .none

theorem State.keepsR.execC28HandlePop {s : State} {ck : Nat} : s.keepsR (Machine.execC28HandlePop ck s) := by
  unfold Machine.execC28HandlePop
  refine .unitEvent ?_
  split
  · exact .none
  · exact .some (.updCore .self)

section
variable {s t : State} (h : s.tame t)
include h

theorem State.tameO.gangBack {qi ck : Nat} {g : Gang} {p : GangPart} {f : Word × Nat × Bool} : s.tameO (t.gangBack qi ck g p f) := by
  unfold State.gangBack
  refine .thenMap (.yokeBack h) (fun _ hu => ?_)
  extract_lets scale t1 parts rest gangs
  have ht1 : s.tame t1 := .updSlice (.endTile (.dropOpId hu))
  exact .advanceSlice (.updQuad ht1)

end

theorem State.keepsR.execYokeHandback {s : State} {ck id : Nat} : s.keepsR (Machine.execYokeHandback ck id s) := by
  refine .unitEvent ?_
  extract_lets qi
  split
  · exact .none
  · split
    · exact .bind fun _ _ => .bind fun _ _ => .ite (.gangBack .self) .none
    · split
      · exact .thenMap (.yokeBack .self) fun _ hu => .advanceSlice (.updSlice (.endTile (.dropOpId hu)))
      · exact .none
    · split
      · extract_lets back
        refine .thenMap ?_ fun _ hu => .endCount (.frame hu (by rfl))
        unfold back
        split
        · exact .some .self
        · exact .handback .self
      · exact .none
    · exact .none

section
variable {s t : State} (h : s.tame t)
include h

theorem State.tame.queueCopy {k : Copy} : s.tame (t.queueCopy k) := by
  unfold State.queueCopy
  extract_lets i
  exact .addCount (.updMyCore (.takeId h))

theorem State.tameA.submitCopy {wait : Bool} {d : Reg} {c : CopyWords} : s.tameA (Machine.submitCopy wait d c t) := by
  unfold Machine.submitCopy
  refine .orElse ?_
  extract_lets w k
  split
  · exact .block
  · split
    · exact .trap
    · refine .orElse ?_
      split
      · exact .trap
      · split
        · exact .trapFree
        · refine .orElse ?_
          split
          · exact .block
          · split
            · split
              · exact .block
              · exact .put h
            · exact .roomFor (.put (.queueCopy h))

end

theorem State.keepsR.cpyqHead {s : State} {wait : Bool} {d a : Reg} : s.keepsR (Machine.cpyqHead wait d a s) :=
  .runHead (fun _ _ hu => .submitCopy hu)

theorem State.keepsR.execCpyq {s : State} {d a : Reg} : s.keepsR (Machine.execCpyq d a s) := .cpyqHead

theorem State.keepsR.execCpyqNb {s : State} {d a : Reg} : s.keepsR (Machine.execCpyqNb d a s) := .cpyqHead

theorem State.keepsR.cpyresHead {s : State} {wait : Bool} {d a : Reg} : s.keepsR (Machine.cpyresHead wait d a s) := by
  unfold Machine.cpyresHead
  refine .runHead (fun _ _ hu => ?_)
  extract_lets x k
  refine .orElse ?_
  split
  · exact .block
  · split
    · exact .trap
    · exact .submitCopy hu

theorem State.keepsR.execCpyres {s : State} {d a : Reg} : s.keepsR (Machine.execCpyres d a s) := .cpyresHead

theorem State.keepsR.execCpyresNb {s : State} {d a : Reg} : s.keepsR (Machine.execCpyresNb d a s) := .cpyresHead

section
variable {s t : State} (h : s.tame t)
include h

theorem State.tame.rowsFill {ck : Nat} {k : Copy} {n : Nat} : s.tame (t.rowsFill ck k n) := by
  unfold State.rowsFill
  extract_lets page
  have hpage : ∀ (t : State) (p : Perm) (a : Word), s.tame t → s.tame (page t p a) := fun _ _ _ hu => .ite (.engineFill hu) hu
  exact .foldl h (fun _ _ hu => hpage _ _ _ (hpage _ _ _ hu))

theorem State.tame.setCopy {ck : Nat} {k : Copy} : s.tame (t.setCopy ck k) := .updCore h

end

theorem State.keepsR.execCopyStart {s : State} {ck : Nat} : s.keepsR (Machine.execCopyStart ck s) := by
  unfold Machine.execCopyStart
  refine .unitEvent ?_
  extract_lets c
  refine .bind (fun _ _ => ?_)
  split
  · exact .none
  · exact .some (.setCopy .self)

section
variable {s t : State} (h : s.tame t)
include h

theorem State.tame.copyBarrier {ck : Nat} {k : Copy} {n : Nat} : s.tame (t.copyBarrier ck k n) := by
  unfold State.copyBarrier
  split
  · exact h
  · extract_lets j b
    exact .ite (.setTb h) (.postAsync (.setTb h))

theorem State.tame.drawMany {n : Nat} : s.tame (t.drawMany n) := .frame h (by rfl)

theorem State.tame.sectorLanded {ck : Nat} {k : Copy} {n m : Nat} : s.tame (t.sectorLanded ck k n m) := .copyBarrier (.setCopy h)

theorem State.tameO.landSector {ck : Nat} {k : Copy} {n : Nat} {x : Sector} {bs : List Byte} : s.tameO (t.landSector ck k n x bs) := by
  unfold State.landSector
  split
  · split
    · exact .none
    · exact .some (.sectorLanded (.wrBytes (.recallLines (.engineFill h))))
  · exact .some (.setCopy (.launchFlight h))
  · exact .none

theorem State.tame.readPeer {ck : Nat} {k : Copy} {n : Nat} {a : Word} {m : Nat} : s.tame (t.readPeer ck k n a m) :=
  .setCopy (.launchFlight h)

theorem State.tameO.sectorRead {ck : Nat} {k : Copy} {n : Nat} {x : Sector} {bs : List Byte} : s.tameO (t.sectorRead ck k n x bs) := by
  unfold State.sectorRead
  extract_lets pid sid
  split
  · split
    · exact .some (.setCopy (.inject h))
    · exact .landSector h
  · exact .landSector h

theorem State.tameO.sectorGoes {ck : Nat} {k : Copy} {x : Sector} {r : SectorRun} : s.tameO (t.sectorGoes ck k x r) := by
  unfold State.sectorGoes
  split
  · exact .none
  · split
    · split
      · exact .some (.sectorLanded h)
      · exact .none
    · split
      · split
        · exact .sectorRead h
        · exact .landSector (.dropPacket h)
      · exact .none

end

theorem State.keepsR.execCopySectorLand {s : State} {ck id n : Nat} : s.keepsR (Machine.execCopySectorLand ck id n s) := by
  unfold Machine.execCopySectorLand
  refine .unitEvent ?_
  refine .bind (fun _ _ => ?_)
  refine .bind (fun _ _ => ?_)
  split
  · exact .none
  · split
    · exact .some (.setCopy .self)
    · exact .none
    · split
      · exact .sectorGoes .self
      · split
        · exact .some (.readPeer (.rowsFill .self))
        · split
          · exact .none
          · exact .sectorRead (.drawMany (.engineFill (.rowsFill .self)))

section
variable {s t : State} (h : s.tame t)
include h

theorem State.tame.takeScale {pid tc : Nat} {b : Scale} : s.tame (t.takeScale pid tc b) := .updCoreIn h

end

theorem State.keepsR.execScaleBlockDeliver {s : State} {ck id : Nat} : s.keepsR (Machine.execScaleBlockDeliver ck id s) := by
  unfold Machine.execScaleBlockDeliver
  refine .unitEvent ?_
  refine .bind (fun _ _ => ?_)
  split
  · exact .none
  · split
    · exact .some (.setCopy .self)
    · exact .none
    · extract_lets a2 peer block hdr n len bs b
      split
      · exact .some (.readPeer .self)
      · split
        · exact .none
        · split
          · exact .none
          · split
            · exact .some (.setCopy .self)
            · split
              · exact .some (.setCopy .self)
              · split
                · exact .none
                · extract_lets t1
                  have ht1 : s.tame t1 := .takeScale (.drawMany (.engineFill .self))
                  exact .some (.copyBarrier (.setCopy ht1))

section
variable {s t : State} (h : s.tame t)
include h

theorem State.tame.endCopy {ck : Nat} {k : Copy} : s.tame (t.endCopy ck k) :=
  .endCount (.updCore (.foldl h (fun _ _ hu => .dropPacket hu)))

end

theorem State.keepsR.execCopyComplete {s : State} {ck id : Nat} : s.keepsR (Machine.execCopyComplete ck id s) := by
  unfold Machine.execCopyComplete
  refine .unitEvent ?_
  refine .bind (fun _ _ => ?_)
  extract_lets st t1
  have ht1 : s.tame t1 := .endCopy .self
  split
  · exact .none
  · split
    · exact .none
    · split
      · split
        · exact .none
        · exact .some (.endCopy (.updCore .self))
      · split
        · split
          · exact .none
          · exact .some (.endCopy (.wr8 .self))
        · refine .some ?_
          split
          · exact .postAsync ht1
          · exact ht1

theorem State.keepsR.execC29RecordPop {s : State} {ck : Nat} : s.keepsR (Machine.execC29RecordPop ck s) := by
  unfold Machine.execC29RecordPop
  refine .unitEvent ?_
  split
  · exact .none
  · exact .some (.updCore .self)

theorem State.keepsR.execCopyHandback {s : State} {ck id : Nat} : s.keepsR (Machine.execCopyHandback ck id s) := by
  unfold Machine.execCopyHandback
  refine .unitEvent ?_
  refine .bind (fun _ _ => ?_)
  refine .bind (fun _ _ => ?_)
  split
  · exact .none
  · extract_lets r
    exact .thenO (.handback .self) (fun _ hu => .some (.endCopy hu))

theorem State.keepsR.execCpyst {s : State} {sel : CpySel} {d : Reg} : s.keepsR (Machine.execCpyst sel d s) := by
  unfold Machine.execCpyst
  refine .runHead (fun _ _ hu => ?_)
  extract_lets f
  exact .put hu

theorem State.keepsR.execPanelReset {s : State} : s.keepsR (Machine.execPanelReset s) := by
  refine .next (.foldl (.foldl ?_ fun _ _ hu => .updRegion hu) fun _ _ hu => .regrade hu)
  exact ⟨fun w => ⟨FMap.wf_filter _ w.1, rfl⟩, fun tk p => absurd p (by simp [State.slot, State.reset, FMap.get, Slot.pl])⟩

end Sys2Proof.Machine

end

section
/-! SUPPORT. The same of tenancy, and of substitution, fill and resizing. -/

namespace Sys2Proof.Machine

section
variable {s t : State} (h : s.tame t)
include h

theorem State.tame.zeroShare {qi base n : Nat} : s.tame (t.zeroShare qi base n) := .zeroRange h

end

theorem State.Wf.giveQuad {t : State} (h : t.Wf) {qi pid p size : Nat} {slots : List Slot} : (t.giveQuad qi pid p size slots).Wf := by
  have hz (base : Nat) : (t.zeroShare qi base size).Wf := h.zeroRange _ _
  unfold State.giveQuad
  dsimp only
  split
  · exact .folds (.folds (hz 0) fun _ _ hu => hu) fun _ _ hu => hu
  · exact hz _

theorem State.Wf.execPartitionCreate {s t : State} {c : PartCfg} (h : s.Wf) (e : Machine.execPartitionCreate c s = .next t) : t.Wf := by
  unfold Machine.execPartitionCreate event at e
  cases e
  split
  · exact h
  · exact .folds (.folds h fun _ _ hu => hu) fun _ _ hu => .giveQuad hu

theorem State.keepsR.execSvccoreWrite {s : State} {pid : Nat} {v : Word} : s.keepsR (Machine.execSvccoreWrite pid v s) := by
  unfold Machine.execSvccoreWrite
  refine .event ?_
  split
  · exact .some (.updPart .self)
  · exact .none

theorem State.keepsR.execHostLaunch {s : State} {v : Nat} {hdr : Word} : s.keepsR (Machine.execHostLaunch v hdr s) := by
  unfold Machine.execHostLaunch
  refine .event ?_
  refine .bind (fun _ _ => ?_)
  split
  · split
    · extract_lets r a2
      have ha2 : s.tame a2 := .takeId .self
      exact .some (.frame ha2 (by rfl))
    · exact .some (.updVf .self)
  · exact .some (.updVf .self)

theorem State.keepsR.execVfDoorbell {s : State} {v : Nat} {w : Word} : s.keepsR (Machine.execVfDoorbell v w s) :=
  .event (.bind (fun _ _ => .bind (fun _ _ => .some (.wakeUp .self))))

theorem State.keepsR.execHostRegisterWrite {s : State} {v off size : Nat} {w : Word} :
    s.keepsR (Machine.execHostRegisterWrite v off size w s) := by
  unfold Machine.execHostRegisterWrite
  refine .event ?_
  split
  · exact .none
  · split
    · exact .some (.updVf .self)
    · exact .some (.updVf .self)
    · exact .some (.updVf .self)
    · exact .none

theorem State.keepsR.debugWrite {s : State} {v q : Nat} {halt arm : Bool} : s.keepsR (Machine.debugWrite v q halt arm s) := by
  unfold Machine.debugWrite
  refine .event ?_
  extract_lets s1
  have hs1 : s.tame s1 := .updVf .self
  split
  · exact .some (.setDebug hs1)
  · exact .some hs1

theorem State.keepsR.execDebugHalt {s : State} {v : Nat} {q : DebugQuad} : s.keepsR (Machine.execDebugHalt v q s) := .debugWrite

theorem State.keepsR.execDebugResume {s : State} {v : Nat} {q : DebugQuad} : s.keepsR (Machine.execDebugResume v q s) := .debugWrite

theorem State.keepsR.execDebugBrkarm {s : State} {v q : Nat} {arm : DebugBits} : s.keepsR (Machine.execDebugBrkarm v q arm s) :=
  .debugWrite

theorem State.keptBut.execDebugSlotStart {s t : State} {tk : Nat} {pc : Option Word} {srs regs : List (Nat × Word)}
    (e : Machine.execDebugSlotStart tk pc srs regs s = .next t) : s.keptBut t tk := by
  refine .unitEvent (fun u hu => ?_) e
  dsimp only at hu
  obtain ⟨_, hu⟩ := Option.ite_none_left_eq_some.mp hu
  split at hu <;> (cases hu; exact .setSlot .self)

section
variable {s t : State} (h : s.tame t)
include h

theorem State.tame.forgetQuad {qi pid : Nat} : s.tame (t.forgetQuad qi pid) := .regrantRings (.updQuad h)

end

/-- A slot as one that has never run is at level 0. -/
theorem Slot.pl_fresh {n : BitVec 8} : ({ faultTag := n } : Slot).pl = false := by simp [Slot.pl]

theorem State.tame.resetQuad {s t : State} (h : s.tame t) {pid qi : Nat} : s.tame (t.resetQuad pid qi) := by
  have hfresh (u : State) (hu : s.tame u) (n : Nat) : s.tame (u.setSlot n { faultTag := (u.slot n).faultTag + 1#8 }) :=
    hu.setSlot fun p => absurd p (by rw [Slot.pl_fresh]; decide)
  have hs1 : s.tame (match t.ctxOf qi pid with
    | some c => t.zeroShare qi c.base (t.spSize pid)
    | none => t) := by
    split
    · exact .zeroShare h
    · exact h
  unfold State.resetQuad
  exact .ite (.foldl (.foldl (.forgetQuad hs1) fun u n hu => hfresh u hu _) fun _ _ hu => .updCore hu) (.forgetQuad hs1)

section
variable {s t : State} (h : s.tame t)
include h

theorem State.tame.zeroFormer {pid : Nat} : s.tame (t.zeroFormer pid) :=
  .foldl h (fun _ _ hu => .foldl hu (fun _ _ hu1 => .zeroShare hu1))

theorem State.tame.discard {pid : Nat} : s.tame (t.discard pid) := by
  unfold State.discard
  extract_lets mine
  exact .frame h (by rfl)

theorem State.tame.flushFlits {pid : Nat} : s.tame (t.flushFlits pid) :=
  .foldl h (fun _ _ hu => .foldl hu (fun _ _ hu1 => .freeBuffer hu1))

theorem State.tame.drainStream {pid : Nat} {t1 : Stream} : s.tame (t.drainStream pid t1) := .updPanel (.setSlots (.closeStream h))

theorem State.tame.freeDrained {r : Nat} : s.tame (t.freeDrained r) := by
  unfold State.freeDrained
  extract_lets done
  exact .updPanel h

end

theorem State.keepsR.execFunctionReset {s : State} {v : Nat} : s.keepsR (Machine.execFunctionReset v s) := by
  unfold Machine.execFunctionReset
  refine .event ?_
  refine .bind (fun _ _ => ?_)
  extract_lets s1 s2 s3 owned s4
  have hs1 : s.tame s1 := .foldl .self (fun _ _ hu => .drainStream hu)
  have hs2 : s.tame s2 := .discard (.flushFlits hs1)
  have hs3 : s.tame s3 := .zeroFormer (.foldl hs2 (fun _ _ hu => .resetQuad hu))
  have hs4 : s.tame s4 := .foldl hs3 (fun _ _ hu => .reassign hu)
  exact .some (.updPart (.frame hs4 (by rfl)))

section
variable {s t : State} (h : s.tame t)
include h

theorem State.tame.rekey {old new : BitVec 512} {pa n : Nat} : s.tame (t.rekey old new pa n) := by
  unfold State.rekey
  refine .foldl h (fun _ _ hu => ?_)
  extract_lets k
  exact .wr hu

end

theorem State.keepsR.execKeyLoad {s : State} {id : Nat} {key : BitVec 512} : s.keepsR (Machine.execKeyLoad id key s) := by
  unfold Machine.execKeyLoad
  refine .event ?_
  split
  · extract_lets old s1
    have hs1 : s.tame s1 := .ite .self (.foldl .self (fun _ _ hu => .rekey hu))
    exact .some (.updPanel hs1)
  · exact .none

theorem State.keepsR.execFrameReassign {s : State} {frame old new : Nat} : s.keepsR (Machine.execFrameReassign frame old new s) := by
  unfold Machine.execFrameReassign
  refine .event ?_
  extract_lets pa
  split
  · exact .none
  · exact .some (.reassign .self)

theorem State.keepsR.execStage2MappingChange {s : State} {pid ipa size pa : Nat} {perm : BitVec 3} :
    s.keepsR (Machine.execStage2MappingChange pid ipa size pa perm s) := by
  unfold Machine.execStage2MappingChange
  refine .event ?_
  extract_lets pt gone s1 new s2
  have hs1 : s.tame s1 := .frame .self (by rfl)
  have hs2 : s.tame s2 := .ite hs1 (.updPanel hs1)
  split
  · exact .none
  · split
    · exact .none
    · exact .some (.updPart hs2)

theorem State.keepsR.execUncorrectableEccError {s : State} {qi core : Nat} : s.keepsR (Machine.execUncorrectableEccError qi core s) :=
  .unitEvent (.some (.contain .self))

theorem State.keepsR.execPipelineParityError {s : State} {qi core : Nat} : s.keepsR (Machine.execPipelineParityError qi core s) :=
  .unitEvent (.some (.contain .self))

theorem State.keepsR.execRouterHeartbeatLoss {s : State} {qi : Nat} : s.keepsR (Machine.execRouterHeartbeatLoss qi s) :=
  .unitEvent (.some (.contain .self))

theorem State.keepsR.execCorrectableEccError {s : State} {qi : Nat} : s.keepsR (Machine.execCorrectableEccError qi s) :=
  .unitEvent (.some (.updPanel .self))

theorem State.keepsR.execReinstateEntryAppend {s : State} {qi unit : Nat} {time : Word} {sig : Nat} :
    s.keepsR (Machine.execReinstateEntryAppend qi unit time sig s) := by
  unfold Machine.execReinstateEntryAppend
  refine .unitEvent ?_
  split
  · exact .some (.updPanel .self)
  · exact .none

theorem State.keepsR.execDroopAlarmRaise {s : State} {r : Nat} : s.keepsR (Machine.execDroopAlarmRaise r s) := by
  unfold Machine.execDroopAlarmRaise
  refine .unitEvent ?_
  split
  · exact .none
  · exact .some (.updRegion .self)

theorem State.keepsR.execDroopAlarmClear {s : State} {r : Nat} : s.keepsR (Machine.execDroopAlarmClear r s) :=
  .unitEvent (.some (.updRegion .self))

theorem State.keepsR.execFreezeInput {s : State}  : s.keepsR (Machine.execFreezeInput s) := .next (.updPanel .self)

theorem State.keepsR.execFreezeCommand {s : State} {regions : BitVec 16} : s.keepsR (Machine.execFreezeCommand regions s) :=
  .next (.foldl .self (fun _ _ hu => .ite (.updRegion hu) hu))

theorem State.tame.copyRange {s t : State} (h : s.tame t) {src dst n : Nat} : s.tame (t.copyRange src dst n) :=
  h.mem (fun w => w.copyRange src dst n) rfl

section
variable {s t : State} (h : s.tame t)
include h

theorem State.tame.moveKeys {qi : Nat} {f : Nat → Nat} : s.tame (t.moveKeys qi f) :=
  .frameMap h (by rfl) (hg := fun x => by split <;> exact ⟨rfl, id⟩)

end

theorem State.tame.moveBlock {s t : State} (h : s.tame t) {qi src blk : Nat} : s.tame (t.moveBlock qi src blk) := by
  unfold State.moveBlock
  extract_lets a b new
  exact .updQuad (.moveKeys (.copyRange h))

theorem State.keepsR.execShareFillBlock {s : State} {qi blk : Nat} : s.keepsR (Machine.execShareFillBlock qi blk s) := by
  unfold Machine.execShareFillBlock
  refine .unitEvent ?_
  refine .bind (fun _ _ => ?_)
  split
  · exact .none
  · exact .some (.moveBlock .self)

section
variable {s t : State} (h : s.tame t)
include h

theorem State.tame.finishFill {qi : Nat} : s.tame (t.finishFill qi) := by
  unfold State.finishFill
  split
  · exact h
  · exact .foldl h (fun _ _ hu => .moveBlock hu)

end

theorem State.tame.clearSlot {s t : State} (h : s.tame t) {tk : Nat} : s.tame (t.clearSlot tk) :=
  h.setSlot fun p => absurd p (by rw [Slot.pl_fresh]; decide)

section
variable {s t : State} (h : s.tame t)
include h

theorem State.tame.leaveSlot {tk pid qt : Nat} {survives : Bool} : s.tame (t.leaveSlot tk pid qt survives) := by
  unfold State.leaveSlot
  extract_lets x t1
  have ht1 : s.tame t1 := by
    unfold t1
    split
    · exact .pushEntries h
    · exact .pieceDone h
  exact .ite h (.ite (.clearSlot (.ripFlights ht1)) (.ite (.ripFlights h) (.clearSlot (.ripFlights h))))

theorem State.tame.loseEntries {lists : FMap (List Entry)} : s.tame (t.loseEntries lists) :=
  .foldl h (fun _ _ hu => .foldl hu (fun _ _ hu1 => .foldl hu1 (fun _ _ hu2 => .pieceDone hu2)))

theorem State.tame.failMoves {qf : Nat} : s.tame (t.failMoves qf) := by
  unfold State.failMoves
  extract_lets gone
  exact .foldl (.frame h (by rfl)) (fun _ _ hu => .answerMove hu)

theorem State.tame.redirect {qf qt : Nat} : s.tame (t.redirect qf qt) := by
  unfold State.redirect
  extract_lets s1
  have hs1 : s.tame s1 := .foldl h (fun _ _ hu => .bounce hu)
  exact .frame hs1 (by rfl)

theorem State.tame.reopen {pid : Nat} {t1 : Stream} : s.tame (t.reopen pid t1) := by
  unfold State.reopen
  extract_lets s1 plan ok
  have hs1 : s.tame s1 := .closeStream h
  exact .ite (.openStream hs1) (.shortfall hs1)

theorem State.tame.freshCores {qi : Nat} : s.tame (t.freshCores qi) := .foldl h (fun _ _ hu => .updCore hu)

theorem State.tame.guardLost {pid p : Nat} : s.tame (t.guardLost pid p) := .frameMap h (by rfl) (hg := fun x => by split <;> exact ⟨rfl, id⟩)

end

theorem State.tame.moveLogs {s t : State} (h : s.tame t) {qf : Nat} {new : Option Nat} : s.tame (t.moveLogs qf new) := by
  unfold State.moveLogs
  extract_lets at_
  exact .frameMap (g := fun x => (x.1, x.2.updTask fun t => { t with atomLog := t.atomLog.filterMap at_ })) h rfl fun _ => ⟨rfl, id⟩

section
variable {s t : State} (h : s.tame t)
include h

theorem State.tame.substitute {qf qt : Nat} : s.tame (t.substitute qf qt) := by
  unfold State.substitute
  extract_lets s0 q survives pid kept basted held home lost sub s1 s2 s3 s4 s5 s6 s7
  have hs0 : s.tame s0 := .ite (.finishFill h) h
  have hs1 : s.tame s1 := .setQuad (.zeroRange hs0)
  have hs2 : s.tame s2 := .foldl hs1 (fun _ _ hu => .leaveSlot hu)
  have hs3 : s.tame s3 := .ite hs2 (.foldl (.loseEntries hs2) (fun _ _ hu => .pieceDone hu))
  have hs4 : s.tame s4 := .freshCores (.setQuad hs3)
  have hs5 : s.tame s5 := .foldl hs4 (fun _ _ hu => .updCore hu)
  have hs6 : s.tame s6 := .moveLogs (.redirect (.failMoves hs5))
  have hs7 : s.tame s7 := by
    unfold s7
    refine .foldl hs6 (fun _ _ hu => ?_)
    extract_lets u1
    have hu1 : s.tame u1 := .ite hu (.guardLost hu)
    exact .foldl hu1 (fun _ _ hu2 => .reopen hu2)
  exact .foldl (.regrantRings hs7) (fun _ _ hu => .poison hu)

theorem State.tame.replaceEntry {pid p : Nat} {l : Leave} {prio : Nat} {e : Entry} : s.tame (t.replaceEntry pid p l prio e) := by
  unfold State.replaceEntry
  split
  · exact .updQuad h
  · exact .foldl h (fun _ _ hu => .pieceDone hu)

theorem State.tame.replaceWaiting {pid p : Nat} {l : Leave} : s.tame (t.replaceWaiting pid p l) := by
  unfold State.replaceWaiting
  extract_lets place
  exact .frame h (by rfl)

theorem State.tame.recell {pid : Nat} {h1 : Word → Word} : s.tame (t.recell pid h1) := by
  unfold State.recell
  refine .foldl h (fun _ _ hu => ?_)
  refine .foldl hu (fun _ _ hu1 => ?_)
  split
  · exact hu1
  · extract_lets own
    exact .ite (.wr8 hu1) hu1

end

theorem State.tame.rehandle {s t : State} (h : s.tame t) {pid : Nat} {f : Word → Word} : s.tame (t.rehandle pid f) := by
  have hcell : t.tame (t.recell pid f) := .recell .self
  obtain ⟨hwf, _⟩ := hcell
  refine h.trans ⟨hwf, fun tk => pl_of_map (fun e => ?_) t.slots tk⟩
  split
  · exact ⟨rfl, id⟩
  · exact ⟨rfl, id⟩

section
variable {s t : State} (h : s.tame t)
include h

theorem State.tame.moveRec {qi : Nat} {c : Ctx} {l : Leave} {idx : Nat} : s.tame (t.moveRec qi c l idx) := by
  unfold State.moveRec
  extract_lets n place old r
  clear_value place
  split
  · exact h
  · extract_lets t1
    have ht1 : s.tame t1 := .rehandle h
    exact .updQuad (.updQuad ht1)

theorem State.tame.moveDrain {qi : Nat} {c : Ctx} {l : Leave} : s.tame (t.moveDrain qi c l) := by
  unfold State.moveDrain
  refine .foldl h (fun _ _ hu => ?_)
  split
  · exact .updQuad hu
  · exact .pieceDone hu

theorem State.tame.removeSlot {tk pid p : Nat} {failed : Bool} {l : Leave} : s.tame (t.removeSlot tk pid p failed l) := by
  unfold State.removeSlot
  extract_lets x t1
  have ht1 : s.tame t1 := .clearSlot (.ripFlights h)
  split
  · exact h
  · split
    · split
      · exact .replaceEntry ht1
      · exact ht1
    · split
      · exact .saveImage ht1
      · exact ht1

theorem State.tame.removeSaved {qi : Nat} {c : Ctx} {l : Leave} : s.tame (t.removeSaved qi c l) := by
  unfold State.removeSaved
  split
  · exact h
  · exact .foldl h (fun _ _ hu => .ite hu (.saveImage hu))

end

/-- What the leaving of channels gives, whether they leave, wait or are refused. -/
def State.tameL (s : State) (r : Except (Option State) State) : Prop := s.tameE r ∧ ∀ u, r = .error (some u) → s.tame u

theorem State.tameL.ok {s t : State} (h : s.tame t) : s.tameL (.ok t) := ⟨.ok h, fun _ e => nomatch e⟩

theorem State.tameL.letChans {s t : State} (h : s.tame t) {qi pid : Nat} : s.tameL (t.letChans qi pid) := by
  refine List.foldlRecOn (motive := fun r => s.tameL r) _ _ (.ok h) fun r hr e _ => ?_
  split
  · exact hr
  · next u =>
    have hu : s.tame u := hr.1 u rfl
    split
    · exact ⟨.error, fun _ e => nomatch e⟩
    · split
      · next v hv => exact .ok ((State.tameB.evictChan hu).1 v hv)
      · next v hv =>
        refine ⟨.error, fun w hw => ?_⟩
        cases hw
        exact (State.tameB.evictChan hu).2 _ hv

theorem State.tame.leaveChans {s t : State} (h : s.tame t) {qi pid : Nat} : s.tame (t.leaveChans qi pid) := by
  refine .foldl h fun u e hu => .ite (.poison hu) ?_
  split
  · next v hv => exact (State.tameB.evictChan hu).1 v hv
  · exact .poison hu

section
variable {s t : State} (h : s.tame t)
include h

theorem State.tame.loseChans {qi pid : Nat} : s.tame (t.loseChans qi pid) := by
  unfold State.loseChans
  extract_lets basted
  exact .foldl h (fun _ _ hu => .poison hu)

end

theorem State.Wf.enterContext {t : State} (h : t.Wf) {qi pid : Nat} : (t.enterContext qi pid).Wf :=
  .folds (.folds (s := t.updQuad qi _) h fun _ _ hu => hu) fun _ _ hu => hu

section
variable {s t : State} (h : s.tame t)
include h

theorem State.tame.orphan {qi : Nat} : s.tame (t.orphan qi) := by
  unfold State.orphan
  extract_lets mine t1
  have ht1 : s.tame t1 := .failMoves h
  exact .frame ht1 (by rfl)

end

theorem State.Wf.removeQuad {t : State} (h : t.Wf) {qi : Nat} {c : Ctx} {l : Leave} : (t.removeQuad qi c l).Wf := by
  unfold State.removeQuad
  extract_lets survives recs s0 q s2 lists s3 s4 s5 s6 s61
  have hs0 : t.tame s0 := .replaceWaiting (.ite (.foldl .self fun _ _ hu => .moveRec hu) .self)
  clear_value s0
  have hs2 : t.tame s2 := .ite (.foldl (.orphan hs0) fun _ _ hu => .removeSlot hu) (.removeSaved hs0)
  clear_value s2
  have hs3 : t.tame s3 := .ite (.moveDrain (.foldl hs2 fun _ _ hu => .foldl hu fun _ _ hu1 => .replaceEntry hu1))
    (.foldl (.loseEntries hs2) fun _ _ hu => .pieceDone hu)
  clear_value s3
  have hs4 : t.tame s4 := .dropBarriers hs3
  clear_value s4
  have hs5 : t.tame s5 := .foldl hs4 fun _ _ hu => .ite (.shortfall (.closeStream hu)) (.closeStream hu)
  clear_value s5
  have hs6 : t.tame s6 := .updQuad (.forgetQuad (.ite hs5 (.moveLogs hs5)))
  clear_value s6
  have hwf : s61.Wf := hs6.1 h
  clear_value s61
  split
  · exact hwf
  · split
    · exact (State.tame.freshCores .self).1 hwf
    · exact hwf.enterContext

section
variable {s t : State} (h : s.tame t)
include h

theorem State.tame.renumberAll {pid : Nat} {new : Part} {f : Nat → Option Nat} : s.tame (t.renumberAll pid new f) := by
  unfold State.renumberAll
  extract_lets old ring grown joined fresh pt t1 a
  have ht1 : s.tame t1 := .rehandle h
  have ha : s.tame a := .setPart ht1
  exact .frame ha (by rfl)

theorem State.tame.reguard {pid : Nat} {guard : Nat → Option Nat} : s.tame (t.reguard pid guard) :=
  .frameMap h (by rfl) (hg := fun x => by dsimp only; split <;> exact ⟨rfl, id⟩)

end

theorem State.Wf.resized {t : State} (h : t.Wf) {pid x0 y0 w h1 : Nat} : (t.resized pid x0 y0 w h1).Wf := by
  unfold State.resized
  extract_lets old new joined f gone guard runs quads s0 s1 s2 s3 pt s4
  have hs0 : t.tame s0 := .foldl .self fun _ _ hu => .leaveChans hu
  have hs1 : s1.Wf := hs0.1 h
  have hs2 : s2.Wf := .folds hs1 fun _ _ hu => .ite hu (.giveQuad hu)
  have hs3 : s3.Wf := .folds hs2 fun _ _ hu => .removeQuad hu
  have hend : s3.tame (new.regions.foldl (fun t r => t.regrade r) ((s4.reguard pid guard).reclass pid (y0 / 2))) :=
    .foldl (.reclass (.reguard (.renumberAll .self))) fun _ _ hu => .regrade hu
  exact hend.1 hs3

section
variable {s t : State} (h : s.tame t)
include h

theorem State.tame.setLeaving {pid : Nat} {quads : List Nat} {b : Bool} : s.tame (t.setLeaving pid quads b) :=
  .foldl h (fun _ _ hu => .updQuad hu)

end

theorem State.keepsR.execPartitionResize {s : State} {pid x0 y0 w h : Nat} : s.keepsR (Machine.execPartitionResize pid x0 y0 w h s) := by
  unfold Machine.execPartitionResize
  refine .event ?_
  extract_lets quads pinned rest out
  have hout : s.tameL out := List.foldlRecOn (motive := fun r => s.tameL r) _ _ (.ok .self) fun r hr e _ => by
    split
    · next u => exact .letChans (hr.1 u rfl)
    · exact hr
  clear_value out
  split
  · exact .ite (.some (.setLeaving .self)) .none
  · split
    · exact .some (.foldl (.setLeaving .self) fun _ _ hu => .beginMove hu)
    · split
      · exact .none
      · split
        · next u => exact .some (.frame (hout.1 u rfl) (by rfl))
        · next u =>
          intro v hv
          cases hv
          exact hout.2 v rfl

end Sys2Proof.Machine

end

section
/-! SUPPORT. The same of map switches, the context swap and the scalar heads. -/

namespace Sys2Proof.Machine

section
variable {s t : State} (h : s.tame t)
include h

theorem State.tame.nextEpoch : s.tame (t.nextEpoch) := .updPanel h

theorem State.tame.remapped {qf logical : Nat} {spare : Option Nat} : s.tame (t.remapped qf logical spare) := by
  unfold State.remapped
  extract_lets entry s1
  have hs1 : s.tame s1 := .updPanel (.nextEpoch h)
  exact .foldl hs1 (fun _ _ hu => .updPart hu)

end

theorem State.Wf.leavePanel {t : State} (h : t.Wf) {qf logical : Nat} : (t.leavePanel qf logical).Wf := by
  unfold State.leavePanel
  extract_lets out
  have hout : t.tame out := .foldl .self fun _ _ hu => .ite (.leaveChans hu) (.loseChans hu)
  have hmap : t.tame (out.remapped qf logical none) := .remapped hout
  exact .folds (hmap.1 h) fun _ _ hu => .removeQuad hu

theorem State.Wf.adopt {t : State} (h : t.Wf) {c : MapChange} : (t.adopt c).Wf := by
  unfold State.adopt
  split
  · split
    · exact (State.tame.nextEpoch .self).1 (.resized h)
    · exact (State.tame.setLeaving .self).1 h
  · next qf logical sp _ =>
    extract_lets spare
    clear_value spare
    refine (State.tame.regrade .self).1 ?_
    split
    · exact (State.tame.remapped .self).1 h
    · split
      · exact (State.tame.substitute (.remapped .self)).1 h
      · exact .leavePanel h

theorem State.Wf.adoptOne {t u : State} (h : t.Wf) {c : MapChange} (e : t.adoptOne c = some u) : u.Wf := by
  obtain ⟨_, e⟩ := Option.ite_none_left_eq_some.mp e
  cases e
  exact .keepStopped (.adopt (t := { t with changes := t.changes.erase c }) h)

theorem State.Wf.adoptDue {t : State} (h : t.Wf) : t.adoptDue.Wf := by
  refine .folds h fun u c hu => .ite ?_ hu
  cases e : u.adoptOne c with
  | none => exact hu
  | some v => exact hu.adoptOne e

theorem State.Wf.execMapSwitch {s t : State} {n : Nat} (h : s.Wf) (e : Machine.execMapSwitch n s = .next t) : t.Wf := by
  unfold Machine.execMapSwitch event at e
  cases e
  cases e : s.changes[n]?.bind s.adoptOne with
  | none => exact h
  | some u =>
    obtain ⟨c, _, hc⟩ := Option.bind_eq_some_iff.mp e
    exact h.adoptOne hc

section
variable {s t : State} (h : s.tame t)
include h

theorem State.tame.wakesLand {qi : Nat} : s.tame (t.wakesLand qi) := .foldl (.frame h (by rfl)) (fun _ _ hu => .takeWake hu)

theorem State.tame.abandonAll {qi : Nat} : s.tame (t.abandonAll qi) := by
  unfold State.abandonAll
  refine .foldl h (fun _ _ hu => ?_)
  split
  · exact .getD hu (.abandonWait hu)
  · exact hu

theorem State.tame.ripAll {qi : Nat} : s.tame (t.ripAll qi) := .foldl h (fun _ _ hu => .ite (.rip hu) hu)

theorem State.tame.saveSlots {qi : Nat} {c : Ctx} : s.tame (t.saveSlots qi c) := by
  unfold State.saveSlots
  refine .foldl h (fun _ _ hu => ?_)
  extract_lets x
  exact .ite hu (.writeImage hu)

end

theorem State.Wf.setQuad {t : State} (h : t.Wf) {qi : Nat} {q : Quad} : (t.setQuad qi q).Wf := h

theorem State.Wf.execContextSwap {s t : State} {qi : Nat} (h : s.Wf) (e : Machine.execContextSwap qi s = .next t) : t.Wf := by
  suffices hopt : ∀ o, (∀ u, o = Option.some u → u.Wf) → Machine.unitEvent (quadOk qi) qi s o = .next t → t.Wf by
    refine hopt _ (fun u hu => ?_) e
    split at hu
    · next c0 c1 _ =>
      obtain ⟨_, hu⟩ := Option.ite_none_left_eq_some.mp hu
      split at hu
      · cases hu
        exact (State.tame.ripAll (.updQuad .self)).1 h
      · dsimp only at hu
        obtain ⟨_, hu⟩ := Option.ite_none_left_eq_some.mp hu
        have hout : s.tameL (((s.abandonAll qi).wakesLand qi).letChans qi c0.pid) := .letChans (.wakesLand (.abandonAll .self))
        split at hu
        · next v hv =>
          cases hu
          exact (hout.2 u hv).1 h
        · next v hv =>
          rw [← Option.some.inj hu]
          have hsave : (v.saveSlots qi c0).Wf := (State.tame.saveSlots (hout.1 v hv)).1 h
          exact .enterContext (.setQuad hsave)
    · cases hu
  intro o ho hn
  unfold unitEvent event at hn
  split at hn
  · cases hn
    cases o with
    | none => exact h
    | some u => exact ho u rfl
  · cases hn

theorem State.keepsR.binary {s : State} {d a b : Reg} {lat : Nat} {f : Word → Word → Word} : s.keepsR (Machine.binary d a b lat f s) :=
  .runHead (fun _ _ hu => .put hu)

theorem State.keepsR.unary {s : State} {d a : Reg} {f : Word → Word} : s.keepsR (Machine.unary d a f s) :=
  .runHead (fun _ _ hu => .put hu)

theorem State.keepsR.execNop {s : State}  : s.keepsR (Machine.execNop s) := .runHead (fun _ _ hu => .next hu)

theorem State.keepsR.execAdd {s : State} {d a b : Reg} : s.keepsR (Machine.execAdd d a b s) := .binary

theorem State.keepsR.execSub {s : State} {d a b : Reg} : s.keepsR (Machine.execSub d a b s) := .binary

theorem State.keepsR.execAddw {s : State} {d a b : Reg} : s.keepsR (Machine.execAddw d a b s) := .binary

theorem State.keepsR.execSubw {s : State} {d a b : Reg} : s.keepsR (Machine.execSubw d a b s) := .binary

theorem State.keepsR.execMul {s : State} {d a b : Reg} : s.keepsR (Machine.execMul d a b s) := .binary

theorem State.keepsR.execMulh {s : State} {d a b : Reg} : s.keepsR (Machine.execMulh d a b s) := .binary

theorem State.keepsR.execMulhu {s : State} {d a b : Reg} : s.keepsR (Machine.execMulhu d a b s) := .binary

theorem State.keepsR.execMulw {s : State} {d a b : Reg} : s.keepsR (Machine.execMulw d a b s) := .binary

theorem State.keepsR.execDiv {s : State} {d a b : Reg} : s.keepsR (Machine.execDiv d a b s) := .binary

theorem State.keepsR.execDivu {s : State} {d a b : Reg} : s.keepsR (Machine.execDivu d a b s) := .binary

theorem State.keepsR.execRem {s : State} {d a b : Reg} : s.keepsR (Machine.execRem d a b s) := .binary

theorem State.keepsR.execRemu {s : State} {d a b : Reg} : s.keepsR (Machine.execRemu d a b s) := .binary

theorem State.keepsR.execAnd {s : State} {d a b : Reg} : s.keepsR (Machine.execAnd d a b s) := .binary

theorem State.keepsR.execOr {s : State} {d a b : Reg} : s.keepsR (Machine.execOr d a b s) := .binary

theorem State.keepsR.execXor {s : State} {d a b : Reg} : s.keepsR (Machine.execXor d a b s) := .binary

theorem State.keepsR.execAndn {s : State} {d a b : Reg} : s.keepsR (Machine.execAndn d a b s) := .binary

theorem State.keepsR.execOrn {s : State} {d a b : Reg} : s.keepsR (Machine.execOrn d a b s) := .binary

theorem State.keepsR.execShl {s : State} {d a b : Reg} : s.keepsR (Machine.execShl d a b s) := .binary

theorem State.keepsR.execShr {s : State} {d a b : Reg} : s.keepsR (Machine.execShr d a b s) := .binary

theorem State.keepsR.execSra {s : State} {d a b : Reg} : s.keepsR (Machine.execSra d a b s) := .binary

theorem State.keepsR.execRotl {s : State} {d a b : Reg} : s.keepsR (Machine.execRotl d a b s) := .binary

theorem State.keepsR.execRotr {s : State} {d a b : Reg} : s.keepsR (Machine.execRotr d a b s) := .binary

theorem State.keepsR.execMin {s : State} {d a b : Reg} : s.keepsR (Machine.execMin d a b s) := .binary

theorem State.keepsR.execMax {s : State} {d a b : Reg} : s.keepsR (Machine.execMax d a b s) := .binary

theorem State.keepsR.execMinu {s : State} {d a b : Reg} : s.keepsR (Machine.execMinu d a b s) := .binary

theorem State.keepsR.execMaxu {s : State} {d a b : Reg} : s.keepsR (Machine.execMaxu d a b s) := .binary

theorem State.keepsR.execSeq {s : State} {d a b : Reg} : s.keepsR (Machine.execSeq d a b s) := .binary

theorem State.keepsR.execSne {s : State} {d a b : Reg} : s.keepsR (Machine.execSne d a b s) := .binary

theorem State.keepsR.execSlt {s : State} {d a b : Reg} : s.keepsR (Machine.execSlt d a b s) := .binary

theorem State.keepsR.execSltu {s : State} {d a b : Reg} : s.keepsR (Machine.execSltu d a b s) := .binary

theorem State.keepsR.execClz {s : State} {d a : Reg} : s.keepsR (Machine.execClz d a s) := .unary

theorem State.keepsR.execCtz {s : State} {d a : Reg} : s.keepsR (Machine.execCtz d a s) := .unary

theorem State.keepsR.execPopc {s : State} {d a : Reg} : s.keepsR (Machine.execPopc d a s) := .unary

theorem State.keepsR.execBrev {s : State} {d a : Reg} : s.keepsR (Machine.execBrev d a s) := .unary

theorem State.keepsR.execBswap {s : State} {d a : Reg} : s.keepsR (Machine.execBswap d a s) := .unary

theorem State.keepsR.execAddi {s : State} {d a : Reg} {imm : BitVec 22} : s.keepsR (Machine.execAddi d a imm s) := .unary

theorem State.keepsR.execAndi {s : State} {d a : Reg} {imm : BitVec 22} : s.keepsR (Machine.execAndi d a imm s) := .unary

theorem State.keepsR.execOri {s : State} {d a : Reg} {imm : BitVec 22} : s.keepsR (Machine.execOri d a imm s) := .unary

theorem State.keepsR.execXori {s : State} {d a : Reg} {imm : BitVec 22} : s.keepsR (Machine.execXori d a imm s) := .unary

theorem State.keepsR.execSlti {s : State} {d a : Reg} {imm : BitVec 22} : s.keepsR (Machine.execSlti d a imm s) := .unary

theorem State.keepsR.execShli {s : State} {d a : Reg} {imm : BitVec 22} : s.keepsR (Machine.execShli d a imm s) := .unary

theorem State.keepsR.execShri {s : State} {d a : Reg} {imm : BitVec 22} : s.keepsR (Machine.execShri d a imm s) := .unary

theorem State.keepsR.execSrai {s : State} {d a : Reg} {imm : BitVec 22} : s.keepsR (Machine.execSrai d a imm s) := .unary

theorem State.keepsR.execSel {s : State} {d a b c : Reg} : s.keepsR (Machine.execSel d a b c s) := .runHead (fun _ _ hu => .put hu)

theorem State.keepsR.execExt {s : State} {d a : Reg} {pos : BitVec 6} {len : BitVec 7} : s.keepsR (Machine.execExt d a pos len s) :=
  .unary

theorem State.keepsR.execExts {s : State} {d a : Reg} {pos : BitVec 6} {len : BitVec 7} : s.keepsR (Machine.execExts d a pos len s) :=
  .unary

theorem State.keepsR.execIns {s : State} {d a : Reg} {pos : BitVec 6} {len : BitVec 7} : s.keepsR (Machine.execIns d a pos len s) :=
  .runHead (fun _ _ hu => .put hu)

theorem State.keepsR.execLi {s : State} {d : Reg} {imm : BitVec 48} : s.keepsR (Machine.execLi d imm s) :=
  .runHead (fun _ _ hu => .put hu)

theorem State.keepsR.execLih {s : State} {d a : Reg} {imm : BitVec 16} : s.keepsR (Machine.execLih d a imm s) := .unary

theorem State.keepsR.execMov {s : State} {d a : Reg} : s.keepsR (Machine.execMov d a s) := .unary

theorem State.keepsR.execAddpc {s : State} {d : Reg} {imm : BitVec 22} : s.keepsR (Machine.execAddpc d imm s) :=
  .runHead (fun _ _ hu => .put hu)

end Sys2Proof.Machine

end

section
/-! SUPPORT. The same of every instruction and event, and of a step: memory stays canonical whatever turn it takes. -/

namespace Sys2Proof.Machine

/-- The instructions and events that put another slot's state in the place of a slot's own, or start one at its level. -/
def Instr.replaces (i : Instr) (tk : Nat) : Prop :=
  (∃ n, i = .taskBind n ∨ i = .contextSwap n ∨ i = .mapSwitch n) ∨
      (∃ c, i = .partitionCreate c) ∨ i = .restoreComplete tk ∨ i = .bastedSlotResume tk
    ∨ ∃ v ws rs, i = .debugSlotStart tk v ws rs

/-- What an instruction or an event answers keeps memory canonical, and PL rises only where a trap is entered or a slot is replaced. -/
def State.performs (s : State) (i : Instr) (r : Res) : Prop :=
  ∀ t, r = .next t → (s.Wf → t.Wf) ∧ ∀ tk, (t.slot tk).pl = true → (s.slot tk).pl = true ∨ s.trapEntered t tk ∨ Instr.replaces i tk

section
variable {s : State} {i : Instr} {r : Res}

theorem State.performs.rest (h : s.keepsR r) : s.performs i r := fun t e => by
  obtain ⟨hwf, hpl⟩ := h t e
  exact ⟨hwf, fun tk p => (hpl tk p).imp_right .inl⟩

theorem State.performs.but {k : Nat} (h : ∀ {t}, r = .next t → s.keptBut t k) (hi : Instr.replaces i k) : s.performs i r := fun t e => by
  obtain ⟨hwf, hpl⟩ := h e
  refine ⟨hwf, fun tk p => ?_⟩
  by_cases hk : tk = k
  · exact .inr (.inr (hk ▸ hi))
  · exact .inl (hpl tk hk p)

theorem State.performs.all (h : ∀ {t}, s.Wf → r = .next t → t.Wf) (hi : ∀ tk, Instr.replaces i tk) : s.performs i r := fun _ e =>
  ⟨fun w => h w e, fun tk _ => .inr (.inr (hi tk))⟩

end

/-- The rule of every instruction and event, from the rule of its meaning. -/
theorem State.performs.exec {i : Instr} {s : State} : s.performs i (Machine.exec i s) := by
  cases i with
  | nop => exact .rest .execNop
  | add => exact .rest .execAdd
  | sub => exact .rest .execSub
  | addw => exact .rest .execAddw
  | subw => exact .rest .execSubw
  | mul => exact .rest .execMul
  | mulh => exact .rest .execMulh
  | mulhu => exact .rest .execMulhu
  | mulw => exact .rest .execMulw
  | div => exact .rest .execDiv
  | divu => exact .rest .execDivu
  | rem => exact .rest .execRem
  | remu => exact .rest .execRemu
  | and_ => exact .rest .execAnd
  | or_ => exact .rest .execOr
  | xor => exact .rest .execXor
  | andn => exact .rest .execAndn
  | orn => exact .rest .execOrn
  | shl => exact .rest .execShl
  | shr => exact .rest .execShr
  | sra => exact .rest .execSra
  | rotl => exact .rest .execRotl
  | rotr => exact .rest .execRotr
  | clz => exact .rest .execClz
  | ctz => exact .rest .execCtz
  | popc => exact .rest .execPopc
  | brev => exact .rest .execBrev
  | bswap => exact .rest .execBswap
  | min => exact .rest .execMin
  | max => exact .rest .execMax
  | minu => exact .rest .execMinu
  | maxu => exact .rest .execMaxu
  | seq => exact .rest .execSeq
  | sne => exact .rest .execSne
  | slt => exact .rest .execSlt
  | sltu => exact .rest .execSltu
  | addi => exact .rest .execAddi
  | andi => exact .rest .execAndi
  | ori => exact .rest .execOri
  | xori => exact .rest .execXori
  | slti => exact .rest .execSlti
  | shli => exact .rest .execShli
  | shri => exact .rest .execShri
  | srai => exact .rest .execSrai
  | sel => exact .rest .execSel
  | ext => exact .rest .execExt
  | exts => exact .rest .execExts
  | ins => exact .rest .execIns
  | li => exact .rest .execLi
  | lih => exact .rest .execLih
  | mov => exact .rest .execMov
  | addpc => exact .rest .execAddpc
  | br => exact .rest .execBr
  | brLong => exact .rest .execBrLong
  | beq => exact .rest .execBeq
  | bne => exact .rest .execBne
  | blt => exact .rest .execBlt
  | bge => exact .rest .execBge
  | bltu => exact .rest .execBltu
  | bgeu => exact .rest .execBgeu
  | bz => exact .rest .execBz
  | bzLong => exact .rest .execBzLong
  | bnz => exact .rest .execBnz
  | bnzLong => exact .rest .execBnzLong
  | call => exact .rest .execCall
  | callLong => exact .rest .execCallLong
  | callr => exact .rest .execCallr
  | ret => exact .rest .execRet
  | jr => exact .rest .execJr
  | loop => exact .rest .execLoop
  | loopLong => exact .rest .execLoopLong
  | yield => exact .rest .execYield
  | tend => exact .rest .execTend
  | trap => exact .rest .execTrap
  | eret => exact .rest .execEret
  | rdsr => exact .rest .execRdsr
  | wrsr => exact .rest .execWrsr
  | swsr => exact .rest .execSwsr
  | getid => exact .rest .execGetid
  | wid => exact .rest .execWid
  | timeLoc => exact .rest .execTimeLoc
  | timeGlob => exact .rest .execTimeGlob
  | waitaddr => exact .rest .execWaitaddr
  | wake => exact .rest .execWake
  | spill => exact .rest .execSpill
  | restor => exact .rest .execRestor
  | brk => exact .rest .execBrk
  | baste => exact .rest .execBaste
  | salloc => exact .rest .execSalloc
  | sfree => exact .rest .execSfree
  | qmap => exact .rest .execQmap
  | qclear => exact .rest .execQclear
  | qlen => exact .rest .execQlen
  | vadd => exact .rest .execVadd
  | vsub => exact .rest .execVsub
  | vmul => exact .rest .execVmul
  | vdiv => exact .rest .execVdiv
  | vfma => exact .rest .execVfma
  | vfms => exact .rest .execVfms
  | vfnma => exact .rest .execVfnma
  | vmin => exact .rest .execVmin
  | vmax => exact .rest .execVmax
  | vabs => exact .rest .execVabs
  | vneg => exact .rest .execVneg
  | vrcp => exact .rest .execVrcp
  | vrsq => exact .rest .execVrsq
  | vexp2 => exact .rest .execVexp2
  | vlog2 => exact .rest .execVlog2
  | vsqrt => exact .rest .execVsqrt
  | vtanh => exact .rest .execVtanh
  | vcvt => exact .rest .execVcvt
  | vquant => exact .rest .execVquant
  | vscale => exact .rest .execVscale
  | vcmp => exact .rest .execVcmp
  | vsel => exact .rest .execVsel
  | viadd => exact .rest .execViadd
  | visub => exact .rest .execVisub
  | vimul => exact .rest .execVimul
  | vimad => exact .rest .execVimad
  | vand => exact .rest .execVand
  | vor => exact .rest .execVor
  | vxor => exact .rest .execVxor
  | vshl => exact .rest .execVshl
  | vshr => exact .rest .execVshr
  | vsra => exact .rest .execVsra
  | vredadd => exact .rest .execVredadd
  | vredmax => exact .rest .execVredmax
  | vredmin => exact .rest .execVredmin
  | vscanadd => exact .rest .execVscanadd
  | vperm => exact .rest .execVperm
  | vbcast => exact .rest .execVbcast
  | vsplat => exact .rest .execVsplat
  | viota => exact .rest .execViota
  | vmov => exact .rest .execVmov
  | vextr => exact .rest .execVextr
  | vinsr => exact .rest .execVinsr
  | vld => exact .rest .execVld
  | vst => exact .rest .execVst
  | vlds => exact .rest .execVlds
  | vsts => exact .rest .execVsts
  | vgath => exact .rest .execVgath
  | vscat => exact .rest .execVscat
  | mand => exact .rest .execMand
  | mor => exact .rest .execMor
  | mxor => exact .rest .execMxor
  | mnot => exact .rest .execMnot
  | mpopc => exact .rest .execMpopc
  | mfirst => exact .rest .execMfirst
  | msetv => exact .rest .execMsetv
  | mgetv => exact .rest .execMgetv
  | vdadd => exact .rest .execVdadd
  | vdmul => exact .rest .execVdmul
  | vdfma => exact .rest .execVdfma
  | vclass => exact .rest .execVclass
  | vround => exact .rest .execVround
  | vfcvti => exact .rest .execVfcvti
  | vicvtf => exact .rest .execVicvtf
  | ld => exact .rest .execLd
  | lds => exact .rest .execLds
  | st => exact .rest .execSt
  | ldg => exact .rest .execLdg
  | stg => exact .rest .execStg
  | lda => exact .rest .execLda
  | stl => exact .rest .execStl
  | pref => exact .rest .execPref
  | cflushLine => exact .rest .execCflushLine
  | cflushAll a => exact .rest (.execCflushAll (_a := a))
  | cinvLine => exact .rest .execCinvLine
  | cinvIline => exact .rest .execCinvIline
  | cinvAll a => exact .rest (.execCinvAll (_a := a))
  | fence => exact .rest .execFence
  | waitc => exact .rest .execWaitc
  | lde _ _ _ _ cp => exact .rest (.execLde (_cp := cp))
  | stf _ _ _ _ cp => exact .rest (.execStf (_cp := cp))
  | feinitEmpty => exact .rest .execFeinitEmpty
  | feinitFull => exact .rest .execFeinitFull
  | touchRd => exact .rest .execTouchRd
  | touchWr => exact .rest .execTouchWr
  | amo => exact .rest .execAmo
  | cas => exact .rest .execCas
  | cas2 => exact .rest .execCas2
  | red => exact .rest .execRed
  | placeSet => exact .rest .execPlaceSet
  | placeGet => exact .rest .execPlaceGet
  | placeClr => exact .rest .execPlaceClr
  | arrive => exact .rest .execArrive
  | waitb => exact .rest .execWaitb
  | barset => exact .rest .execBarset
  | tbinit => exact .rest .execTbinit
  | tbexp => exact .rest .execTbexp
  | tbarr => exact .rest .execTbarr
  | tbwait => exact .rest .execTbwait
  | tbtest => exact .rest .execTbtest
  | chpush => exact .rest .execChpush
  | chpop => exact .rest .execChpop
  | choffer => exact .rest .execChoffer
  | chtake => exact .rest .execChtake
  | chpeek => exact .rest .execChpeek
  | chlen => exact .rest .execChlen
  | chclose => exact .rest .execChclose
  | chinv => exact .rest .execChinv
  | spawn => exact .rest .execSpawn
  | dec => exact .rest .execDec
  | tset => exact .rest .execTset
  | domain => exact .rest .execDomain
  | allow => exact .rest .execAllow
  | keyhome => exact .rest .execKeyhome
  | split => exact .rest .execSplit
  | launch => exact .rest .execLaunch
  | geom => exact .rest .execGeom
  | ltab => exact .rest .execLtab
  | wload => exact .rest .execWload
  | wloadSc => exact .rest .execWloadSc
  | wswap => exact .rest .execWswap
  | gang => exact .rest .execGang
  | mzero => exact .rest .execMzero
  | mdrain => exact .rest .execMdrain
  | mdrainPort => exact .rest .execMdrainPort
  | mread => exact .rest .execMread
  | sbtake => exact .rest .execSbtake
  | cpyq => exact .rest .execCpyq
  | cpyqNb => exact .rest .execCpyqNb
  | cpyst => exact .rest .execCpyst
  | cpyres => exact .rest .execCpyres
  | cpyresNb => exact .rest .execCpyresNb
  | msend => exact .rest .execMsend
  | mrecv => exact .rest .execMrecv
  | mwait => exact .rest .execMwait
  | msgst => exact .rest .execMsgst
  | illegalInstruction => exact .rest .execIllegalInstruction
  | heldPushRetry => exact .rest .execHeldPushRetry
  | asyncTrapEntry => exact .rest .execAsyncTrapEntry
  | lineFetch => exact .rest .execLineFetch
  | cycleAllowanceExhausted => exact .rest .execCycleAllowanceExhausted
  | basteIntervalExpiry => exact .rest .execBasteIntervalExpiry
  | wakeArrival => exact .rest .execWakeArrival
  | slotSpill => exact .rest .execSlotSpill
  | spillComplete => exact .rest .execSpillComplete
  | restoreComplete => exact .but .execRestoreComplete (.inr (.inr (.inl rfl)))
  | vectorBeatStart => exact .rest .execVectorBeatStart
  | vectorComplete => exact .rest .execVectorComplete
  | ldePerform => exact .rest .execLdePerform
  | stfPerform => exact .rest .execStfPerform
  | loadResponse => exact .rest .execLoadResponse
  | storeAck => exact .rest .execStoreAck
  | remoteAccessArrival => exact .rest .execRemoteAccessArrival
  | remoteDenial => exact .rest .execRemoteDenial
  | homeStore => exact .rest .execHomeStore
  | homeAtomic => exact .rest .execHomeAtomic
  | pageMigration => exact .rest .execPageMigration
  | niAtomic => exact .rest .execNiAtomic
  | translationRequest => exact .rest .execTranslationRequest
  | stage2FaultReply => exact .rest .execStage2FaultReply
  | faultNotice => exact .rest .execFaultNotice
  | atsReply => exact .rest .execAtsReply
  | freplyRetry => exact .rest .execFreplyRetry
  | freplyFail => exact .rest .execFreplyFail
  | s1invPage => exact .rest .execS1invPage
  | s1invAll => exact .rest .execS1invAll
  | s1invComplete => exact .rest .execS1invComplete
  | barsetInstall => exact .rest .execBarsetInstall
  | barrierRelease => exact .rest .execBarrierRelease
  | channelFill => exact .rest .execChannelFill
  | channelPushAccept => exact .rest .execChannelPushAccept
  | channelRefill => exact .rest .execChannelRefill
  | channelEviction => exact .rest .execChannelEviction
  | channelRoomReport => exact .rest .execChannelRoomReport
  | channelCloseApply => exact .rest .execChannelCloseApply
  | probeSend => exact .rest .execProbeSend
  | probeArrival => exact .rest .execProbeArrival
  | probeExpiry => exact .rest .execProbeExpiry
  | letoutRequest => exact .rest .execLetoutRequest
  | spawnAccept => exact .rest .execSpawnAccept
  | depCellDecrement => exact .rest .execDepCellDecrement
  | launchAccept => exact .rest .execLaunchAccept
  | pieceEnqueue => exact .rest .execPieceEnqueue
  | taskBind => exact .rest .execTaskBind
  | runListPromotion => exact .rest .execRunListPromotion
  | readyRingPush => exact .rest .execReadyRingPush
  | readyRecordPlace => exact .rest .execReadyRecordPlace
  | effectDrainRecord => exact .rest .execEffectDrainRecord
  | ltabDone => exact .rest .execLtabDone
  | wloadDone => exact .rest .execWloadDone
  | c28StreamCommand => exact .rest .execC28StreamCommand
  | gangJoin => exact .rest .execGangJoin
  | gangRow => exact .rest .execGangRow
  | mdrainRowWrite => exact .rest .execMdrainRowWrite
  | mdrainHandlePush => exact .rest .execMdrainHandlePush
  | c28HandlePop => exact .rest .execC28HandlePop
  | scaleBlockDeliver => exact .rest .execScaleBlockDeliver
  | yokeHandback => exact .rest .execYokeHandback
  | copyStart => exact .rest .execCopyStart
  | copySectorLand => exact .rest .execCopySectorLand
  | copyComplete => exact .rest .execCopyComplete
  | copyHandback => exact .rest .execCopyHandback
  | c29RecordPop => exact .rest .execC29RecordPop
  | messageAccept => exact .rest .execMessageAccept
  | messageAcknowledge => exact .rest .execMessageAcknowledge
  | messageResend => exact .rest .execMessageResend
  | c30MessagePop => exact .rest .execC30MessagePop
  | c31SendBlock => exact .rest .execC31SendBlock
  | sendBlockRead => exact .rest .execSendBlockRead
  | ctrlOpenStream => exact .rest .execCtrlOpenStream
  | ctrlCloseStream => exact .rest .execCtrlCloseStream
  | ctrlReadLink => exact .rest .execCtrlReadLink
  | ctrlReadBandedLatency => exact .rest .execCtrlReadBandedLatency
  | ctrlReadEdgeUnit => exact .rest .execCtrlReadEdgeUnit
  | ctrlRoutePeer => exact .rest .execCtrlRoutePeer
  | ctrlReservedCode => exact .rest .execCtrlReservedCode
  | bestEffortFlitHop => exact .rest .execBestEffortFlitHop
  | streamFlitHop => exact .rest .execStreamFlitHop
  | creditReturn => exact .rest .execCreditReturn
  | stitchCrossing => exact .rest .execStitchCrossing
  | packetBounce => exact .rest .execPacketBounce
  | mapSwitch => exact .all (fun w e => w.execMapSwitch e) fun _ => .inl ⟨_, .inr (.inr rfl)⟩
  | linkRetrain => exact .rest .execLinkRetrain
  | burstSend => exact .rest .execBurstSend
  | burstReceive => exact .rest .execBurstReceive
  | burstAck => exact .rest .execBurstAck
  | burstResend => exact .rest .execBurstResend
  | burstRefusal => exact .rest .execBurstRefusal
  | panelReset => exact .rest .execPanelReset
  | partitionCreate => exact .all (fun w e => w.execPartitionCreate e) fun _ => .inr (.inl ⟨_, rfl⟩)
  | svccoreWrite => exact .rest .execSvccoreWrite
  | hostLaunch => exact .rest .execHostLaunch
  | vfDoorbell => exact .rest .execVfDoorbell
  | hostRegisterWrite => exact .rest .execHostRegisterWrite
  | debugHalt => exact .rest .execDebugHalt
  | debugResume => exact .rest .execDebugResume
  | debugBrkarm => exact .rest .execDebugBrkarm
  | debugSlotStart => exact .but .execDebugSlotStart (.inr (.inr (.inr (.inr ⟨_, _, _, rfl⟩))))
  | functionReset => exact .rest .execFunctionReset
  | keyLoad => exact .rest .execKeyLoad
  | frameReassign => exact .rest .execFrameReassign
  | bastecfgEnable => exact .rest .execBastecfgEnable
  | bastecfgDisable => exact .rest .execBastecfgDisable
  | freeNoticeArrival => exact .rest .execFreeNoticeArrival
  | uncorrectableEccError => exact .rest .execUncorrectableEccError
  | pipelineParityError => exact .rest .execPipelineParityError
  | routerHeartbeatLoss => exact .rest .execRouterHeartbeatLoss
  | correctableEccError => exact .rest .execCorrectableEccError
  | shareFillBlock => exact .rest .execShareFillBlock
  | bastedSlotResume => exact .but .execBastedSlotResume (.inr (.inr (.inr (.inl rfl))))
  | reductionHoldExpiry => exact .rest .execReductionHoldExpiry
  | reductionPairExpiry => exact .rest .execReductionPairExpiry
  | partitionResize => exact .rest .execPartitionResize
  | watchdogExpiry => exact .rest .execWatchdogExpiry
  | droopAlarmRaise => exact .rest .execDroopAlarmRaise
  | droopAlarmClear => exact .rest .execDroopAlarmClear
  | freezeInput => exact .rest .execFreezeInput
  | freezeCommand => exact .rest .execFreezeCommand
  | contextSwap => exact .all (fun w e => w.execContextSwap e) fun _ => .inl ⟨_, .inr (.inl rfl)⟩
  | channelSpillPopReturn => exact .rest .execChannelSpillPopReturn
  | reinstateEntryAppend => exact .rest .execReinstateEntryAppend
  | stage2MappingChange => exact .rest .execStage2MappingChange
  | wavelengthLockChange => exact .rest .execWavelengthLockChange

theorem State.Wf.exec {s t : State} {i : Instr} (h : s.Wf) (e : Machine.exec i s = .next t) : t.Wf := (State.performs.exec t e).1 h

theorem State.Wf.nextAction {s : State} (h : s.Wf) {tk : Nat} : (s.nextAction tk).2.Wf := by
  unfold State.nextAction
  dsimp only
  split
  · exact h
  · split
    · exact h
    · split
      · split
        · exact h
        · exact (State.tame.withLine .self).1 h
      · exact h

theorem State.Wf.charge {s : State} (h : s.Wf) {tk n : Nat} : (s.charge tk n).Wf :=
  (State.tame.resetRotation (.updSlot (.updCore .self) (by exact fun _ => id))).1 h

theorem State.Wf.issueFrom {ck : Nat} {l : List Nat} {s t : State} (h : s.Wf) (e : Machine.issueFrom ck l s = .next t) : t.Wf := by
  induction l generalizing s with
  | nil =>
    cases e
    exact h
  | cons n l ih =>
    unfold Machine.issueFrom at e
    dsimp only at e
    split at e
    · split at e
      · next u hu =>
        have hnext : u.Wf := State.Wf.exec (State.Wf.nextAction (s := { s with cur := ck * 8 + n }) h) hu
        split at e
        · exact ih hnext e
        · cases e
          exact hnext.charge
      · cases e
      · cases e
    · exact ih h e

theorem State.Wf.ageSlot {s : State} (h : s.Wf) {tk : Nat} : (s.ageSlot tk).Wf := by
  refine .ite h ((State.tame.watchdog .self).1 ?_)
  split
  · next t ht => exact (State.keepsR.execCycleAllowanceExhausted t ht).1 h
  · exact h

theorem State.Wf.tryBind {s : State} (h : s.Wf) {ck : Nat} : (s.tryBind ck).Wf := by
  refine .ite h ?_
  split
  · next t ht => exact (State.keepsR.execTaskBind t ht).1 h
  · exact h

theorem State.Wf.endCycle {s : State} (h : s.Wf) {ck : Nat} : (s.endCycle ck).Wf := by
  unfold State.endCycle
  extract_lets tks s1
  have hs1 : s1.Wf := .folds (.performDue h.retest) fun _ _ hu => (State.tame.retryPush .self).1 hu
  have haged : (tks.foldl (fun t tk => t.ageSlot tk) s1).Wf := .folds hs1 fun _ _ hu => .ageSlot hu
  have hsent : (((tks.foldl (fun t tk => t.ageSlot tk) s1).transmit ck).advanceSlice ck).Wf := (State.tame.advanceSlice (.transmit .self)).1 haged
  exact (State.tame.updCore .self).1 hsent.tryBind

theorem State.Wf.coreTurn {s t : State} {ck : Nat} (h : s.Wf) (e : Machine.coreTurn s ck = .next t) : t.Wf := by
  unfold Machine.coreTurn cycleOf at e
  split at e
  · cases e
  · split at e
    · cases e
      exact h
    · split at e
      · next u hu =>
        rw [← Host.Outcome.next.inj e]
        exact (h.issueFrom hu).endCycle
      · cases e
      · cases e

theorem State.Wf.tickTurn {s t : State} (h : s.Wf) (e : Machine.tickTurn s = .next t) : t.Wf := by
  unfold Machine.tickTurn at e
  rw [← Host.Outcome.next.inj e]
  exact .adoptDue (.folds h fun _ _ hu => .ite hu hu)

theorem State.Wf.cycleTurn {s t : State} {r : Nat} (h : s.Wf) (e : Machine.cycleTurn s r = .next t) : t.Wf := by
  unfold Machine.cycleTurn at e
  split at e
  · cases e
  · split at e
    · cases e
      exact h
    · cases e
      exact (State.tame.freeDrained .self).1 h

theorem State.Wf.stepLimitTurn {s t : State} {r : Nat} {n : BitVec 16} (h : s.Wf) (e : Machine.stepLimitTurn s r n = .next t) : t.Wf := by
  unfold Machine.stepLimitTurn at e
  split at e
  · cases e
  · cases e
    exact h

theorem State.Wf.settled {r : Res} {t : State} (h : ∀ u, r = .next u → u.Wf) (e : Machine.settled r = .next t) : t.Wf := by
  cases r with
  | next u =>
    cases e
    exact (h u rfl).retest
  | fault => cases e
  | refused => cases e

theorem State.Wf.takeTurn {s t : State} {a : Turn} (h : s.Wf) (e : Machine.takeTurn a s = .next t) : t.Wf := by
  cases a with
  | event i =>
    unfold Machine.takeTurn at e
    dsimp only at e
    split at e
    · cases e
      exact h
    · exact .settled (fun _ => h.exec) e
  | core => exact h.coreTurn e
  | tick => exact h.tickTurn e
  | cycle => exact h.cycleTurn e
  | stepLimit => exact h.stepLimitTurn e

theorem State.Wf.step {s t : State} (h : s.Wf) (e : Machine.step s = .next t) : t.Wf := by
  unfold Machine.step at e
  split at e
  · exact h.coreTurn e
  · next a rest _ => exact State.Wf.takeTurn (s := { s with sched := rest }) h e

end Sys2Proof.Machine

open Sys2Proof Sys2Proof.Machine

/-- Settles O60: every operation of the model keeps the canonical form of memory (`State.Wf`), so every instruction and event does, and
so does each turn that a step may take. -/
theorem stepsKeepMemoryCanonical : Obligations.StepsKeepMemoryCanonical := fun _ _ h e => h.step e

end

section
/-! SUPPORT. A head that names a register outside the allotment exhausts it, whatever else it would do (R91, R96). -/

namespace Sys2Proof.Machine

/-- A head that names a register outside the allotment exhausts it, before any port is looked at (R91, R96). -/
theorem runHead_outside {u : Use} {s : State} {k : (Reg → Word) → State → Act} (hsup : u.sup = none ∨ s.super = true)
    (h : u.names.any s.me.sr.outside = true) : runHead u s k = .next (s.exhaust s.cur 0 0) := by
  unfold runHead Use.issue
  split
  · next hu hs => simp [hu, hs] at hsup
  · rw [if_pos h]
    rfl

/-- An instruction exhausts the allotment where one of the registers listed for it lies outside (R91). -/
def State.exhausts (s : State) (row : Instr × List Reg × List VReg) : Prop :=
  ((row.2.1.any fun r => s.me.sr.outside r.toNat) || row.2.2.any fun v => s.me.sr.outside (v.toNat + 64)) = true →
    exec row.1 s = .next (s.exhaust s.cur 0 0)

theorem Use.names_outside {u : Use} {x : SysRegs} {rs : List Reg} {vs : List VReg} (hrs : rs ⊆ u.rd ++ u.wr) (hvs : vs ⊆ u.vs)
    (h : ((rs.any fun r => x.outside r.toNat) || vs.any fun v => x.outside (v.toNat + 64)) = true) : u.names.any x.outside = true := by
  rw [Bool.or_eq_true, List.any_eq_true, List.any_eq_true] at h
  rw [List.any_eq_true]
  obtain ⟨r, hr, h⟩ | ⟨v, hv, h⟩ := h
  · refine ⟨r.toNat, ?_, h⟩
    simp only [Use.names, List.mem_append]
    exact .inl (.inl (.inl (List.mem_map_of_mem (hrs hr))))
  · refine ⟨v.toNat + 64, ?_, h⟩
    simp only [Use.names, List.mem_append]
    exact .inl (.inl (.inr (List.mem_map_of_mem (f := fun v : VReg => v.toNat + 64) (hvs hv))))

section
variable {s : State} {i : Instr} {u : Use} {k : (Reg → Word) → State → Act} {rs : List Reg} {vs : List VReg}

theorem State.exhausts.head (e : exec i s = runHead u s k) (hrs : rs ⊆ u.rd ++ u.wr) (hvs : vs ⊆ u.vs)
    (hsup : u.sup = none ∨ s.super = true) : s.exhausts (i, rs, vs) := fun h => by
  dsimp only
  rw [e]
  exact runHead_outside hsup (Use.names_outside hrs hvs h)

theorem State.exhausts.reply {fin : Word → State → Act} (hop : s.me.op = .none) (e : exec i s = runReply u s k fin)
    (hrs : rs ⊆ u.rd ++ u.wr) (hvs : vs ⊆ u.vs) (hsup : u.sup = none ∨ s.super = true) : s.exhausts (i, rs, vs) :=
  .head (e.trans (runReply_none hop)) hrs hvs hsup

end
end Sys2Proof.Machine

end

section
/-! SUPPORT. The registers that each head names, family by family: one of them outside the allotment exhausts it. -/

namespace Sys2Proof.Machine

section
variable {s : State}

theorem execChinv_asks {a : Reg} {imm : BitVec 10} (hop : s.me.op = .none) : ∃ k, exec (.chinv a imm) s = runHead { rd := [a] } s k := by
  have hans : ¬ s.me.answered = true := by simp [Slot.answered, hop]
  exact ⟨_, if_neg hans⟩

theorem execBarset_asks {g : BitVec 5} {a : Reg} (hop : s.me.op = .none) :
    ∃ k, exec (.barset g a) s = runHead { rd := [a], sup := some (0x7240 + g.toNat) } s k := by
  change ∃ k, execBarset g a s = _
  rw [execBarset, hop]
  exact ⟨_, rfl⟩

theorem State.exhausts.chinv {a : Reg} {imm : BitVec 10} (hop : s.me.op = .none) : s.exhausts (.chinv a imm, [a], []) := by
  obtain ⟨_, he⟩ := execChinv_asks (imm := imm) (a := a) hop
  exact .head he (by simp) (by simp) (.inl rfl)

theorem State.exhausts.barset {g : BitVec 5} {a : Reg} (hop : s.me.op = .none) (hsuper : s.super = true) :
    s.exhausts (.barset g a, [a], []) := by
  obtain ⟨_, he⟩ := execBarset_asks (g := g) (a := a) hop
  exact .head he (by simp) (by simp) (.inr hsuper)

theorem State.exhausts.vcvt {u v : VReg} {m : MReg} {nf : NFmt} {wide : Bool} {r : Rnd} : s.exhausts (.vcvt u v m nf wide r, [], [u, v]) := by
  cases wide with
  | false => exact .head rfl (by simp) (by simp) (.inl rfl)
  | true => exact .head rfl (by simp) (by simp) (.inl rfl)

section
variable {d a b c : Reg} {u v x y : VReg} {m k : MReg} {imm : BitVec 22} {imm16 : BitVec 16} {imm48 : BitVec 48} {pos : BitVec 6} {len : BitVec 7}
  {o15 : BitVec 15} {far : BitVec 37} {idx g5 : BitVec 5} {off : BitVec 14} {o10 : BitVec 10} {o2 w : BitVec 2} {ch len10 : BitVec 10}
  {g : BitVec 22} {sr : BitVec 12} {sz : Size} {cp : Cp} {sc : Scope} {op : AmoOp} {mo : MOrd} {wide hi : Bool} {r : Rnd} {ty : VTy}
  {nf : NFmt} {cc : Cond} {ofm : OFmt} {sel : IdSel} {dom : DomSel} {al : AllowSel} {gm : GeomSel} {ms : MsgSel} {cs : CpySel}

/-- The scalar heads (R101). -/
theorem State.exhausts_scalar : ∀ row ∈ ([
      (.add d a b, [d, a, b], []), (.sub d a b, [d, a, b], []), (.addw d a b, [d, a, b], []), (.subw d a b, [d, a, b], []),
      (.mul d a b, [d, a, b], []), (.mulw d a b, [d, a, b], []), (.mulh d a b, [d, a, b], []), (.mulhu d a b, [d, a, b], []),
      (.div d a b, [d, a, b], []), (.divu d a b, [d, a, b], []), (.rem d a b, [d, a, b], []), (.remu d a b, [d, a, b], []),
      (.and_ d a b, [d, a, b], []), (.or_ d a b, [d, a, b], []), (.xor d a b, [d, a, b], []), (.andn d a b, [d, a, b], []),
      (.orn d a b, [d, a, b], []), (.shl d a b, [d, a, b], []), (.shr d a b, [d, a, b], []), (.sra d a b, [d, a, b], []),
      (.rotl d a b, [d, a, b], []), (.rotr d a b, [d, a, b], []), (.min d a b, [d, a, b], []), (.max d a b, [d, a, b], []),
      (.minu d a b, [d, a, b], []), (.maxu d a b, [d, a, b], []), (.seq d a b, [d, a, b], []), (.sne d a b, [d, a, b], []),
      (.slt d a b, [d, a, b], []), (.sltu d a b, [d, a, b], []), (.addi d a imm, [d, a], []), (.andi d a imm, [d, a], []),
      (.ori d a imm, [d, a], []), (.xori d a imm, [d, a], []), (.slti d a imm, [d, a], []), (.shli d a imm, [d, a], []),
      (.shri d a imm, [d, a], []), (.srai d a imm, [d, a], []), (.clz d a, [d, a], []), (.ctz d a, [d, a], []), (.popc d a, [d, a], []),
      (.brev d a, [d, a], []), (.bswap d a, [d, a], []), (.mov d a, [d, a], []), (.sel d a b c, [d, a, b, c], []),
      (.ext d a pos len, [d, a], []), (.exts d a pos len, [d, a], []), (.ins d a pos len, [d, a], []), (.li d imm48, [d], []),
      (.lih d a imm16, [d, a], []), (.addpc d imm, [d], [])]
      : List (Instr × List Reg × List VReg)), s.exhausts row := by
  iterate 51 refine List.forall_mem_cons.2 ⟨.head rfl (by simp) (by simp) (.inl rfl), ?_⟩
  exact List.forall_mem_nil _

/-- Control transfer, and the heads of identities, masks, tasks and the yoke. -/
theorem State.exhausts_control (hop : s.me.op = .none) : ∀ row ∈ ([
      (.beq a b o15 idx, [a, b], []), (.bne a b o15 idx, [a, b], []), (.blt a b o15 idx, [a, b], []), (.bge a b o15 idx, [a, b], []),
      (.bltu a b o15 idx, [a, b], []), (.bgeu a b o15 idx, [a, b], []), (.bz a o15 idx, [a], []), (.bzLong a far idx, [a], []),
      (.bnz a o15 idx, [a], []), (.bnzLong a far idx, [a], []), (.call d o15 idx, [d], []), (.callLong d far idx, [d], []),
      (.callr d a, [d, a], []), (.ret d, [d], []), (.jr d, [d], []), (.loop d o15 idx, [d], []), (.loopLong d far idx, [d], []),
      (.getid sel d, [d], []), (.wid d imm, [d], []), (.timeLoc d, [d], []), (.timeGlob d, [d], []), (.wake a, [a], []),
      (.salloc d a imm, [d, a], []), (.sfree a, [a], []), (.qlen d imm, [d], []), (.mpopc d m, [d], []), (.mfirst d m, [d], []),
      (.msetv m a, [a], []), (.mgetv d m, [d], []), (.domain dom d imm, [d], []), (.allow al d, [d], []), (.keyhome d a, [d, a], []),
      (.launch d a b, [d, a, b], []), (.spawn a b, [a, b], []), (.dec a, [a], []), (.tset a b, [a, b], []), (.geom gm d, [d], []),
      (.ltab a, [a], []), (.wload a b, [a, b], []), (.wloadSc a b, [a, b], []), (.gang a, [a], []), (.mdrain ofm r a b c, [a, b, c], []),
      (.mdrainPort ofm r b, [b], []), (.mread u g, [], [u]), (.sbtake d a, [d, a], [])]
      : List (Instr × List Reg × List VReg)), s.exhausts row := by
  iterate 32 refine List.forall_mem_cons.2 ⟨.head rfl (by simp) (by simp) (.inl rfl), ?_⟩
  refine List.forall_mem_cons.2 ⟨.reply hop (rfl : execLaunch d a b s = _) (by simp) (by simp) (.inl rfl), ?_⟩
  iterate 2 refine List.forall_mem_cons.2 ⟨.head rfl (by simp) (by simp) (.inl rfl), ?_⟩
  refine List.forall_mem_cons.2 ⟨.reply hop (rfl : execTset a b s = _) (by simp) (by simp) (.inl rfl), ?_⟩
  iterate 4 refine List.forall_mem_cons.2 ⟨.head rfl (by simp) (by simp) (.inl rfl), ?_⟩
  refine List.forall_mem_cons.2 ⟨.reply hop (rfl : execGang a s = _) (by simp) (by simp) (.inl rfl), ?_⟩
  iterate 4 refine List.forall_mem_cons.2 ⟨.head rfl (by simp) (by simp) (.inl rfl), ?_⟩
  exact List.forall_mem_nil _

/-- The heads of memory, channels, messages and copies. -/
theorem State.exhausts_memory (hop : s.me.op = .none) : ∀ row ∈ ([
      (.ld d a off sz w cp, [d, a], []), (.lds d a off sz w cp, [d, a], []), (.st a b off sz w cp, [a, b], []),
      (.ldg d a b off sz w cp, [d, a, b], []), (.stg d a b off sz w cp, [d, a, b], []), (.lda d a sz sc, [d, a], []),
      (.stl a b sz sc, [a, b], []), (.cflushLine a, [a], []), (.cinvLine a, [a], []), (.cinvIline a, [a], []),
      (.lde d a off w cp, [d, a], []), (.stf a b off w cp, [a, b], []), (.feinitEmpty a b, [a, b], []), (.feinitFull a b, [a, b], []),
      (.touchRd a, [a], []), (.touchWr a, [a], []), (.waitaddr d a b off w, [d, a, b], []), (.amo d a b op wide mo sc, [d, a, b], []),
      (.cas d a b c wide mo sc, [d, a, b, c], []), (.cas2 d a b c mo sc, [d, d + 1, a, b, b + 1, c, c + 1], []),
      (.red a b op wide mo sc, [a, b], []), (.tbinit a b, [a, b], []), (.tbexp a b, [a, b], []), (.tbwait a b, [a, b], []),
      (.tbarr d a, [d, a], []), (.tbtest d a b, [d, a, b], []), (.chlen d a ch, [d, a], []), (.chclose a ch, [a], []),
      (.chinv a ch, [a], []), (.chpush .s a b ch, [a, b], []), (.chpush .v a b ch, [a], [b.setWidth 5]), (.chpush .a a b ch, [a, b], []),
      (.chpop .s d a b ch, [d, a, b], []), (.chpop .v d a b ch, [d, a], [b.setWidth 5]), (.chpop .a d a b ch, [d, a, b], []),
      (.choffer .s d a b ch, [d, a, b], []), (.choffer .v d a b ch, [d, a], [b.setWidth 5]), (.choffer .a d a b ch, [d, a, b], []),
      (.chtake .s d a b ch, [d, a, b], []), (.chtake .v d a b ch, [d, a], [b.setWidth 5]), (.chtake .a d a b ch, [d, a, b], []),
      (.chpeek .s d a b ch, [d, a, b], []), (.chpeek .v d a b ch, [d, a], [b.setWidth 5]), (.chpeek .a d a b ch, [d, a, b], []),
      (.msend .s d a b c len10, [d, a, c, b], []), (.mrecv .s d b len10, [d, b], []),
      (.msend .v d a b c len10, [d, a, c], [b.setWidth 5]), (.mrecv .v d b len10, [d], [b.setWidth 5]),
      (.msend .a d a b c len10, [d, a, c, b], []), (.mrecv .a d b len10, [d, b], []), (.msgst ms d, [d], []), (.cpyst cs d, [d], []),
      (.cpyq d a, [d, a, a + 1, a + 2, a + 3], []), (.cpyqNb d a, [d, a, a + 1, a + 2, a + 3], []), (.cpyres d a, [d, a], []),
      (.cpyresNb d a, [d, a], [])]
      : List (Instr × List Reg × List VReg)), s.exhausts row := by
  iterate 10 refine List.forall_mem_cons.2 ⟨.head rfl (by simp) (by simp) (.inl rfl), ?_⟩
  refine List.forall_mem_cons.2 ⟨.reply hop (rfl : execLde d a off w cp s = _) (by simp) (by simp) (.inl rfl), ?_⟩
  refine List.forall_mem_cons.2 ⟨.reply hop (rfl : execStf a b off w cp s = _) (by simp) (by simp) (.inl rfl), ?_⟩
  iterate 2 refine List.forall_mem_cons.2 ⟨.head rfl (by simp) (by simp) (.inl rfl), ?_⟩
  refine List.forall_mem_cons.2 ⟨.reply hop (rfl : touch false a s = _) (by simp) (by simp) (.inl rfl), ?_⟩
  refine List.forall_mem_cons.2 ⟨.reply hop (rfl : touch true a s = _) (by simp) (by simp) (.inl rfl), ?_⟩
  refine List.forall_mem_cons.2 ⟨.reply hop (rfl : execWaitaddr d a b off w s = _) (by simp) (by simp) (.inl rfl), ?_⟩
  iterate 11 refine List.forall_mem_cons.2 ⟨.head rfl (by simp) (by simp) (.inl rfl), ?_⟩
  refine List.forall_mem_cons.2 ⟨.chinv hop, ?_⟩
  iterate 15 refine List.forall_mem_cons.2 ⟨.head rfl (by simp [chanUse]) (by simp [chanUse, vregOf]) (.inl rfl), ?_⟩
  iterate 6 refine List.forall_mem_cons.2 ⟨.head rfl (by simp [msgUse]) (by simp [msgUse, vregOf]) (.inl rfl), ?_⟩
  iterate 6 refine List.forall_mem_cons.2 ⟨.head rfl (by simp) (by simp) (.inl rfl), ?_⟩
  exact List.forall_mem_nil _

/-- The vector heads (R118). -/
theorem State.exhausts_vector : ∀ row ∈ ([
      (.vadd u v x m r, [], [u, v, x]), (.vsub u v x m r, [], [u, v, x]), (.vmul u v x m r, [], [u, v, x]),
      (.vdiv u v x m r, [], [u, v, x]), (.vdadd u v x m r, [], [u, v, x]), (.vdmul u v x m r, [], [u, v, x]),
      (.vfma u v x y m r, [], [u, v, x, y]), (.vfms u v x y m r, [], [u, v, x, y]), (.vfnma u v x y m r, [], [u, v, x, y]),
      (.vdfma u v x y m r, [], [u, v, x, y]), (.vrcp u v m, [], [u, v]), (.vrsq u v m, [], [u, v]), (.vsqrt u v m, [], [u, v]),
      (.vexp2 u v m, [], [u, v]), (.vlog2 u v m, [], [u, v]), (.vtanh u v m, [], [u, v]), (.vmin u v x m ty, [], [u, v, x]),
      (.vmax u v x m ty, [], [u, v, x]), (.vand u v x m ty, [], [u, v, x]), (.vor u v x m ty, [], [u, v, x]),
      (.vxor u v x m ty, [], [u, v, x]), (.vshl u v x m ty, [], [u, v, x]), (.vshr u v x m ty, [], [u, v, x]),
      (.vsra u v x m ty, [], [u, v, x]), (.vsel u v x m ty, [], [u, v, x]), (.vperm u v x m ty, [], [u, v, x]),
      (.vabs u v m ty, [], [u, v]), (.vneg u v m ty, [], [u, v]), (.vclass u v m ty, [], [u, v]), (.vredmax u v m ty, [], [u, v]),
      (.vredmin u v m ty, [], [u, v]), (.vmov u v m ty, [], [u, v]), (.vround u v m ty r, [], [u, v]), (.vfcvti u v m ty r, [], [u, v]),
      (.vicvtf u v m ty r, [], [u, v]), (.vredadd u v m ty r, [], [u, v]), (.vscanadd u v m ty r, [], [u, v]),
      (.vscale u v x m ty r, [], [u, v, x]), (.viadd u v x m ty wide, [], [u, v, x]), (.visub u v x m ty wide, [], [u, v, x]),
      (.vimul u v x m ty wide hi, [], [u, v, x]), (.vimad u v x y m ty wide, [], [u, v, x, y]), (.vbcast u v m ty pos, [], [u, v]),
      (.vcvt u v m nf wide r, [], [u, v]), (.vquant u v x m nf r, [], [u, v, x]), (.vcmp k v x m ty cc, [], [v, x]),
      (.vsplat u a m ty, [a], [u]), (.viota u m ty, [], [u]), (.vextr d v b wide, [d, b], [v]), (.vinsr v a b wide, [a, b], [v]),
      (.vld v a off m w cp, [a], [v]), (.vst v a off m w cp, [a], [v]), (.vlds v a b m o10, [a, b], [v]),
      (.vsts v a b m o10, [a, b], [v]), (.vgath v a x m o2, [a], [v, x]), (.vscat v a x m o2, [a], [v, x])]
      : List (Instr × List Reg × List VReg)), s.exhausts row := by
  iterate 43 refine List.forall_mem_cons.2 ⟨.head rfl (by simp) (by simp) (.inl rfl), ?_⟩
  refine List.forall_mem_cons.2 ⟨.vcvt, ?_⟩
  iterate 12 refine List.forall_mem_cons.2 ⟨.head rfl (by simp) (by simp) (.inl rfl), ?_⟩
  exact List.forall_mem_nil _

/-- The heads of supervisor level and the system registers. -/
theorem State.exhausts_supervisor (hop : s.me.op = .none) (hsuper : s.super = true) : ∀ row ∈ ([
      (.rdsr d sr, [d], []), (.wrsr sr a, [a], []), (.swsr d sr a, [d, a], []), (.spill d a b, [d, a, b], []),
      (.restor d a b, [d, a, b], []), (.barset g5 a, [a], []), (.placeGet d, [d], []), (.placeClr a, [a], [])]
      : List (Instr × List Reg × List VReg)), s.exhausts row := by
  iterate 3 refine List.forall_mem_cons.2 ⟨.head rfl (by simp) (by simp) (.inr hsuper), ?_⟩
  refine List.forall_mem_cons.2 ⟨.reply hop (rfl : execSpill d a b s = _) (by simp) (by simp) (.inr hsuper), ?_⟩
  refine List.forall_mem_cons.2 ⟨.reply hop (rfl : execRestor d a b s = _) (by simp) (by simp) (.inr hsuper), ?_⟩
  refine List.forall_mem_cons.2 ⟨.barset hop hsuper, ?_⟩
  iterate 2 refine List.forall_mem_cons.2 ⟨.head rfl (by simp) (by simp) (.inr hsuper), ?_⟩
  exact List.forall_mem_nil _

end
end

end Sys2Proof.Machine

end

section
/-! SUPPORT. A head that accesses memory checks the space first: at task level the system space is refused (R191, R222). -/

namespace Sys2Proof.Machine

/-- An instruction that accesses the system space at task level raises 0x03 at its address (R191, R222). -/
def State.denies (s : State) (row : Instr × Use × Word × BitVec 2) : Prop :=
  mayIssue row.2.1 s = true → (s.popPorts row.2.1.rd).mayGo row.2.2.2 row.2.2.1 = true → space row.2.2.1 = 15 → mustBeZero row.2.2.1 = true →
    exec row.1 s = .next (s.enterTrap s.cur 0x03 row.2.2.1 s.me.pc)

/-- At task level the space checks refuse the system space (R191). -/
theorem spaceCheck_system {x : Word} (hsp : space x = 15) (hz : mustBeZero x = true) : spaceCheck false x = some (0x03, x) := by
  simp [spaceCheck, failIf, firstTrap, hsp, hz]

theorem firstTrap_of_head {c : Check} {cs : List Check} {p : Nat × Word} (h : c = some p) : firstTrap (c :: cs) = some p := by
  rw [h]
  rfl

section
variable {s : State} {i : Instr} {u : Use} {k : (Reg → Word) → State → Act} {x : Word} {w : BitVec 2}

/-- A head whose first check after its waits is that of the space. -/
theorem State.denies.head {cs : List Check} {rest : Act} (hlevel : s.super = false) (e : exec i s = runHead u s k)
    (hk : k s.operand (s.popPorts u.rd) = memWait (s.popPorts u.rd) w x ((firstTrap (spaceCheck (s.popPorts u.rd).super x :: cs)).orElse rest)) :
    s.denies (i, u, x, w) := fun hmay hgo hsp hz => by
  have hpop : (s.popPorts u.rd).super = false := (s.super_popPorts u.rd).trans hlevel
  refine e.trans (runHead_trap hmay ?_)
  rw [hk, memWait_of_mayGo hgo, hpop, firstTrap_of_head (spaceCheck_system hsp hz)]
  rfl

/-- A head whose checks refuse the system space. -/
theorem State.denies.trap (e : exec i s = runHead u s k)
    (hk : ∀ t, t = s.popPorts u.rd → t.super = s.super → t.me.optimistic = s.me.optimistic → t.mayGo w x = true → space x = 15 →
      mustBeZero x = true → k s.operand t = .trap 0x03 x) : s.denies (i, u, x, w) := fun hmay hgo hsp hz =>
  e.trans (runHead_trap hmay (hk _ rfl (s.super_popPorts u.rd) (s.optimistic_popPorts u.rd) hgo hsp hz))

/-- A head whose first check is that of the space. -/
theorem State.denies.check {cs : List Check} {rest : Act} (hlevel : s.super = false) (e : exec i s = runHead u s k)
    (hk : k s.operand (s.popPorts u.rd) = (firstTrap (spaceCheck (s.popPorts u.rd).super x :: cs)).orElse rest) : s.denies (i, u, x, w) :=
  .trap e fun t ht hsup _ _ hsp hz => by
    subst ht
    rw [hk, hsup, hlevel, firstTrap_of_head (spaceCheck_system hsp hz)]
    rfl

theorem State.denies.checkReply {cs : List Check} {rest : Act} {fin : Word → State → Act} (hlevel : s.super = false) (hop : s.me.op = .none)
    (e : exec i s = runReply u s k fin)
    (hk : k s.operand (s.popPorts u.rd) = (firstTrap (spaceCheck (s.popPorts u.rd).super x :: cs)).orElse rest) : s.denies (i, u, x, w) :=
  .check hlevel (e.trans (runReply_none hop)) hk

theorem State.denies.reply {cs : List Check} {rest : Act} {fin : Word → State → Act} (hlevel : s.super = false) (hop : s.me.op = .none)
    (e : exec i s = runReply u s k fin)
    (hk : k s.operand (s.popPorts u.rd) = memWait (s.popPorts u.rd) w x ((firstTrap (spaceCheck (s.popPorts u.rd).super x :: cs)).orElse rest)) :
    s.denies (i, u, x, w) := .head hlevel (e.trans (runReply_none hop)) hk

end
end Sys2Proof.Machine

end

section
/-! SUPPORT. The same of the heads whose checks begin otherwise: a vector access looks at its lowest element first, a launch
at its header's words. -/

namespace Sys2Proof.Machine

/-! ## The elements of a vector access under m0 -/

/-- Every lane's element of an access under m0, from the lowest lane on. -/
theorem lanes_of_ones (f : Nat → VElem) :
    ∃ rest, ((List.range 64).filter fun i => (BitVec.allOnes 64).getLsbD i).map f = f 0 :: rest :=
  ⟨_, rfl⟩

theorem laneElems_ones (w : Nat) (f : Nat → Word) :
    ∃ rest, laneElems (BitVec.allOnes 64) w f = { lane := 0, addr := f 0, n := (winBits w + 7) / 8 } :: rest :=
  lanes_of_ones _

/-- The first element of a footprint in the system space is at its base. -/
theorem footElems_ones {a : Word} (hsp : space a = 15) : ∃ e rest, footElems a (window a) (BitVec.allOnes 64) = e :: rest ∧ e.addr = a := by
  obtain ⟨rest, h⟩ := lanes_of_ones fun i =>
    if window a = 7 then { lane := i, addr := a + word (2 * (i / 8)), n := 2 }
    else { lane := i, addr := a + word (i * winBits (window a) / 8), n := (winBits (window a) + 7) / 8, nib := if window a = 6 then i % 2 else 0 }
  refine ⟨_, rest, h, ?_⟩
  have hw : window a = 0 := by simp [window, hsp]
  simp [hw, word]

theorem strided_zero (x y : Word) : strided x y 0 = x := by simp [strided, word]

section
variable {t : State} {x : Word} (hlevel : t.super = false) (hsp : space x = 15) (hz : mustBeZero x = true)
include hlevel hsp hz

theorem State.footCheck_system {p : Perm} {e : VElem} {rest : List VElem} (he : e.addr = x) : t.footCheck p x (e :: rest) = some (0x03, x) := by
  refine firstTrap_of_head (firstTrap_of_head (firstTrap_of_head ?_))
  rw [hlevel, he, spaceCheck_system hsp hz]

theorem State.elemChecks_system {p : Perm} {base : Word} {e : VElem} {rest : List VElem} (he : e.addr = x) :
    t.elemChecks p base (e :: rest) = some (0x03, x) := by
  refine firstTrap_of_head (firstTrap_of_head ?_)
  rw [hlevel, he, spaceCheck_system hsp hz]

theorem loadElems_system {v : VReg} {base mk : Word} {e : VElem} {rest : List VElem} (hgo : t.mayGo 0 base = true) (he : e.addr = x) :
    loadElems t v base mk (e :: rest) = .trap 0x03 x := by
  rw [loadElems, memWait_of_mayGo hgo, State.elemChecks_system hlevel hsp hz he]
  rfl

theorem storeElems_system {val : Vec} {base : Word} {e : VElem} {rest : List VElem} (hgo : t.mayGo 0 base = true) (he : e.addr = x) :
    storeElems t val base (e :: rest) = .trap 0x03 x := by
  rw [storeElems, memWait_of_mayGo hgo, State.elemChecks_system hlevel hsp hz he]
  rfl

theorem State.headerCheck_system : t.headerCheck x = some (0x03, x) := by
  refine firstTrap_of_head (firstTrap_of_head ?_)
  rw [show x + word (8 * 0) = x by simp [word], hlevel, spaceCheck_system hsp hz]

end

/-! ## The heads -/

section
variable {s : State} {d a b c : Reg} {v : VReg} {off : BitVec 14} {o : BitVec 10} {w : BitVec 2} {sz : Size} {cp : Cp} {ofm : OFmt} {r : Rnd}
  (hlevel : s.super = false)
include hlevel

theorem State.denies_ld : s.denies (.ld d a off sz w cp, { rd := [a], wr := [d] }, addrOff (s.operand a) off (sizeBytes sz), w) :=
  .trap rfl fun t _ hsup _ hgo hsp hz => by
    rw [loadAct, memWait_of_mayGo hgo, if_pos (by simp [hsp]), hsup, hlevel, firstTrap_of_head (spaceCheck_system hsp hz)]
    rfl

theorem State.denies_st : s.denies (.st a b off sz w cp, { rd := [a, b] }, addrOff (s.operand a) off (sizeBytes sz), w) :=
  .trap rfl fun t _ hsup _ hgo hsp hz => by
    rw [storeAct, memWait_of_mayGo hgo, if_pos (by simp [hsp]), hsup, hlevel, firstTrap_of_head (spaceCheck_system hsp hz)]
    rfl

theorem State.denies_tset (hop : s.me.op = .none) (hopt : s.me.optimistic = false) :
    s.denies (.tset a b, { rd := [a, b] }, s.operand a, 0) :=
  .trap (Eq.trans (rfl : _ = execTset a b s) (runReply_none hop)) fun t _ hsup ho hgo hsp hz => by
    dsimp only
    rw [ho, hopt, if_neg (by decide), memWait_of_mayGo hgo, State.cellCheck, hsup, hlevel, firstTrap_of_head (spaceCheck_system hsp hz)]
    rfl

theorem State.denies_launch (hop : s.me.op = .none) (hopt : s.me.optimistic = false) :
    s.denies (.launch d a b, { rd := [a, b], wr := [d] }, s.operand a, 0) :=
  .trap (Eq.trans (rfl : _ = execLaunch d a b s) (runReply_none hop)) fun t _ hsup ho hgo hsp hz => by
    dsimp only
    rw [ho, hopt, if_neg (by decide), memWait_of_mayGo hgo, State.headerCheck_system (hsup.trans hlevel) hsp hz]
    rfl

theorem State.denies_spawn : s.denies (.spawn a b, { rd := [a, b] }, s.operand a, 0) :=
  .trap rfl fun t _ hsup _ hgo hsp hz => by
    dsimp only
    rw [memWait_of_mayGo hgo, State.headerCheck_system (hsup.trans hlevel) hsp hz]
    rfl

theorem State.denies_vld : s.denies (.vld v a off 0 w cp, { rd := [a], vs := [v], ms := [0] }, addrOff (s.operand a) off 32, w) :=
  .trap rfl fun t _ hsup _ hgo hsp hz => by
    obtain ⟨e, rest, hes, he⟩ := footElems_ones hsp
    dsimp only
    rw [memWait_of_mayGo hgo, show t.mReg t.cur (0 : MReg).toNat = BitVec.allOnes 64 from rfl, hes,
      State.footCheck_system (hsup.trans hlevel) hsp hz he]
    rfl

theorem State.denies_vst : s.denies (.vst v a off 0 w cp, { rd := [a], vs := [v], ms := [0] }, addrOff (s.operand a) off 32, w) :=
  .trap rfl fun t _ hsup _ hgo hsp hz => by
    obtain ⟨e, rest, hes, he⟩ := footElems_ones hsp
    dsimp only
    rw [memWait_of_mayGo hgo, show t.mReg t.cur (0 : MReg).toNat = BitVec.allOnes 64 from rfl, hes,
      State.footCheck_system (hsup.trans hlevel) hsp hz he]
    rfl

theorem State.denies_vlds : s.denies (.vlds v a b 0 o, { rd := [a, b], vs := [v], ms := [0] }, s.operand a + sext o * 32#64, 0) :=
  .trap rfl fun t _ hsup _ hgo hsp hz => by
    obtain ⟨rest, hes⟩ := laneElems_ones (window (s.operand a + sext o * 32#64)) (strided (s.operand a + sext o * 32#64) (s.operand b))
    dsimp only
    rw [show t.mReg t.cur (0 : MReg).toNat = BitVec.allOnes 64 from rfl, hes]
    exact loadElems_system (hsup.trans hlevel) hsp hz hgo (strided_zero _ _)

theorem State.denies_vsts : s.denies (.vsts v a b 0 o, { rd := [a, b], vs := [v], ms := [0] }, s.operand a + sext o * 32#64, 0) :=
  .trap rfl fun t _ hsup _ hgo hsp hz => by
    obtain ⟨rest, hes⟩ := laneElems_ones (window (s.operand a + sext o * 32#64)) (strided (s.operand a + sext o * 32#64) (s.operand b))
    dsimp only
    rw [show t.mReg t.cur (0 : MReg).toNat = BitVec.allOnes 64 from rfl, hes]
    exact storeElems_system (hsup.trans hlevel) hsp hz hgo (strided_zero _ _)

theorem State.denies_mdrain (hb : drainBad (s.operand b) = false) :
    s.denies (.mdrain ofm r a b c, { rd := [a, b, c] }, s.operand a, 0) :=
  .trap rfl fun t _ hsup _ hgo hsp hz => by
    dsimp only
    rw [memWait_of_mayGo hgo, hb, hsup, hlevel]
    change (firstTrap (spaceCheck false (s.operand a) :: _)).orElse _ = _
    rw [firstTrap_of_head (spaceCheck_system hsp hz)]
    rfl

end
end Sys2Proof.Machine

end

section
/-! SUPPORT. The same of the ends of copies, of a channel's and a message's elements, and of indexed accesses. -/

namespace Sys2Proof.Machine

section
variable {s t : State} {d a b c : Reg} {x : Word}

theorem State.kindCheck_system {e : ChanEnt} {push : Bool} {act : Act} (hlevel : t.super = false) (hsp : space x = 15)
    (hz : mustBeZero x = true) : t.kindCheck .a e push x act = .trap 0x03 x := by
  rw [State.kindCheck, hlevel, firstTrap_of_head (spaceCheck_system hsp hz)]
  rfl

theorem State.payloadCheck_system {p : Perm} {n : Nat} (hlevel : t.super = false) (hsp : space x = 15) (hz : mustBeZero x = true) :
    t.payloadCheck p x n = some (0x03, x) := by
  rw [State.payloadCheck, hlevel, firstTrap_of_head (spaceCheck_system hsp hz)]

theorem cpyresHead_system {wait : Bool} (hlevel : s.super = false) (hmay : mayIssue { rd := [a], wr := [d] } s = true)
    (hsp : space (s.operand a) = 15) (hz : mustBeZero (s.operand a) = true) :
    cpyresHead wait d a s = .next (s.enterTrap s.cur 0x03 (s.operand a) s.me.pc) :=
  runHead_trap hmay (by
    dsimp only
    rw [(s.super_popPorts _).trans hlevel, firstTrap_of_head (spaceCheck_system hsp hz)]
    rfl)

/-- A copy's submission whose shape and words are right looks at its ends first. -/
theorem cpyqHead_system {wait : Bool} {cw : CopyWords} (hlevel : s.super = false)
    (hcw : cw = { w0 := s.operand a, w1 := s.operand (a + 1), w2 := s.operand (a + 2), w3 := s.operand (a + 3) })
    (ht : s.popPorts [a, a + 1, a + 2, a + 3] = t) (hmay : mayIssue { rd := [a, a + 1, a + 2, a + 3], wr := [d] } s = true)
    (hshape : t.shapeCheck cw = none) (howned : (cw.shp && t.owned (t.localKey t.cur (offset cw.shape)) 32) = false)
    (hbad : copyBad cw (t.shapeWord t.cur cw) (t.copyOf t.cur cw) = false)
    (hends : firstTrap [spaceCheck false cw.w0, spaceCheck false cw.w1] = some (0x03, x)) :
    cpyqHead wait d a s = .next (s.enterTrap s.cur 0x03 x s.me.pc) := by
  subst hcw
  refine runHead_trap hmay ?_
  have hcheck : t.copyCheck { w0 := s.operand a, w1 := s.operand (a + 1), w2 := s.operand (a + 2), w3 := s.operand (a + 3) }
      (t.copyOf t.cur { w0 := s.operand a, w1 := s.operand (a + 1), w2 := s.operand (a + 2), w3 := s.operand (a + 3) }) = some (0x03, x) := by
    have hlow : t.super = false := by rw [← ht, s.super_popPorts, hlevel]
    rw [State.copyCheck, hlow]
    dsimp only at hends
    cases h0 : spaceCheck false (s.operand a) with
    | some p => rw [h0] at hends; exact hends
    | none =>
      rw [h0] at hends
      cases h1 : spaceCheck false (s.operand (a + 1)) with
      | some p => rw [h1] at hends; exact hends
      | none => rw [h1] at hends; cases hends
  dsimp only
  rw [ht, submitCopy, hshape]
  dsimp only [Check.orElse]
  rw [howned, hbad, hcheck]
  rfl

/-- A channel's entry that is cached at the quad of the slot. -/
def State.hasChan (s : State) (id : Nat) (e : ChanEnt) : Prop :=
  id < s.myPart.chanCount ∧ s.chanAt (quadOf s.cur) s.myPid id = some e ∧ e.valid = true

theorem withChan_of_hasChan {s0 : State} {id : Nat} {e : ChanEnt} {f : ChanEnt → Act} (h : s.hasChan id e) : withChan s0 s id f = f e := by
  obtain ⟨hcount, hentry, hvalid⟩ := h
  simp [withChan, Nat.not_le.mpr hcount, hentry, hvalid]

theorem State.hasChan.popPorts {id : Nat} {e : ChanEnt} {rs : List Reg} (h : s.hasChan id e) : (s.popPorts rs).hasChan id e := by
  have hcur := s.cur_popPorts rs
  obtain ⟨ss, cs, he⟩ := s.popPorts_eq rs
  rw [he]
  exact h

theorem State.relThread_popPorts (rs : List Reg) : (s.popPorts rs).relThread (s.popPorts rs).cur = s.relThread s.cur := by
  obtain ⟨ss, cs, he⟩ := s.popPorts_eq rs
  rw [he]
  rfl

theorem writerCheck_system {e : ChanEnt} {rs : List Reg} {poisoned act : Act} (hlevel : s.super = false)
    (hsp : space (s.operand b) = 15) (hz : mustBeZero (s.operand b) = true) (hw : e.writer = s.relThread s.cur) :
    writerCheck (s.popPorts rs) e (some .a) (s.operand b) poisoned act = .trap 0x03 (s.operand b) := by
  rw [writerCheck, s.relThread_popPorts, if_neg (not_not_intro hw)]
  exact State.kindCheck_system ((s.super_popPorts rs).trans hlevel) hsp hz

section
variable {e : ChanEnt} {ch : BitVec 10} (hlevel : s.super = false) (he : s.hasChan (chanId (s.operand a) ch) e)
  (hsp : space (s.operand b) = 15) (hz : mustBeZero (s.operand b) = true)
include hlevel he hsp hz

theorem execChpush_system (hw : e.writer = s.relThread s.cur) (hmay : mayIssue { rd := [a, b] } s = true) :
    exec (.chpush .a a b ch) s = .next (s.enterTrap s.cur 0x03 (s.operand b) s.me.pc) :=
  (rfl : _ = runHead (chanUse .a a b none) s _).trans (runHead_trap hmay
    ((withChan_of_hasChan he.popPorts).trans (writerCheck_system hlevel hsp hz hw)))

theorem execChoffer_system (hopt : s.me.optimistic = false) (hw : e.writer = s.relThread s.cur)
    (hmay : mayIssue { rd := [a, b], wr := [d] } s = true) :
    exec (.choffer .a d a b ch) s = .next (s.enterTrap s.cur 0x03 (s.operand b) s.me.pc) :=
  (rfl : _ = runHead { rd := [a, b], wr := [d] } s _).trans (runHead_trap hmay (by
    dsimp only
    rw [s.optimistic_popPorts, hopt, if_neg (by decide)]
    exact (withChan_of_hasChan he.popPorts).trans (writerCheck_system hlevel hsp hz hw)))

theorem popHead_system {wait remove : Bool} (hopt : s.me.optimistic = false) (hr : e.reader = s.relThread s.cur)
    (hmay : mayIssue { rd := [a, b], wr := [d] } s = true) :
    popHead wait remove .a d a b ch s = .next (s.enterTrap s.cur 0x03 (s.operand b) s.me.pc) :=
  (rfl : _ = runHead { rd := [a, b], wr := [d] } s _).trans (runHead_trap hmay (by
    dsimp only
    rw [s.optimistic_popPorts, hopt, if_neg (by decide), withChan_of_hasChan he.popPorts, s.relThread_popPorts, if_neg (not_not_intro hr)]
    exact State.kindCheck_system ((s.super_popPorts _).trans hlevel) hsp hz))

end

section
variable {len : BitVec 10} (hlevel : s.super = false) (hsp : space (s.operand b) = 15) (hz : mustBeZero (s.operand b) = true)
include hlevel hsp hz

theorem execMsend_system (hmay : mayIssue { rd := [a, c, b], wr := [d] } s = true)
    (hcheck : (s.popPorts [a, c, b]).msgCheck (s.operand a) 0 = none) :
    exec (.msend .a d a b c len) s = .next (s.enterTrap s.cur 0x03 (s.operand b) s.me.pc) :=
  (rfl : _ = runHead { rd := [a, c, b], wr := [d] } s _).trans (runHead_trap hmay (by
    dsimp only [State.firstWord]
    rw [State.payloadCheck_system ((s.super_popPorts _).trans hlevel) hsp hz, if_neg (by simp), hcheck]
    rfl))

theorem execMrecv_system (hmay : mayIssue { rd := [b], wr := [d] } s = true) :
    exec (.mrecv .a d b len) s = .next (s.enterTrap s.cur 0x03 (s.operand b) s.me.pc) :=
  (rfl : _ = runHead { rd := [b], wr := [d] } s _).trans (runHead_trap hmay (by
    dsimp only
    rw [State.payloadCheck_system ((s.super_popPorts _).trans hlevel) hsp hz]
    rfl))

end

section
variable {v ix : VReg} {sc : BitVec 2} (hlevel : s.super = false) (hsp : space (indexed (s.operand a) (s.vReg s.cur ix.toNat) sc 0) = 15)
  (hz : mustBeZero (indexed (s.operand a) (s.vReg s.cur ix.toNat) sc 0) = true) (hmay : mayIssue { rd := [a], vs := [v, ix], ms := [0] } s = true)
  (hgo : (s.popPorts [a]).mayGo 0 (s.operand a) = true)
include hlevel hsp hz hmay hgo

theorem execVgath_system : exec (.vgath v a ix 0 sc) s =
    .next (s.enterTrap s.cur 0x03 (indexed (s.operand a) (s.vReg s.cur ix.toNat) sc 0) s.me.pc) :=
  (rfl : _ = runHead { rd := [a], vs := [v, ix], ms := [0] } s _).trans (runHead_trap hmay (by
    dsimp only
    obtain ⟨rest, hes⟩ := laneElems_ones (window (s.operand a)) (indexed (s.operand a) (s.vReg s.cur ix.toNat) sc)
    rw [s.cur_popPorts, s.vReg_popPorts, show (s.popPorts [a]).mReg s.cur (0 : MReg).toNat = BitVec.allOnes 64 from rfl, hes]
    exact loadElems_system ((s.super_popPorts _).trans hlevel) hsp hz hgo rfl))

theorem execVscat_system : exec (.vscat v a ix 0 sc) s =
    .next (s.enterTrap s.cur 0x03 (indexed (s.operand a) (s.vReg s.cur ix.toNat) sc 0) s.me.pc) :=
  (rfl : _ = runHead { rd := [a], vs := [v, ix], ms := [0] } s _).trans (runHead_trap hmay (by
    dsimp only
    obtain ⟨rest, hes⟩ := laneElems_ones (window (s.operand a)) (indexed (s.operand a) (s.vReg s.cur ix.toNat) sc)
    rw [s.cur_popPorts, s.vReg_popPorts (n := ix.toNat), show (s.popPorts [a]).mReg s.cur (0 : MReg).toNat = BitVec.allOnes 64 from rfl, hes]
    exact storeElems_system ((s.super_popPorts _).trans hlevel) hsp hz hgo rfl))

end

end
end Sys2Proof.Machine

end

section
/-! SUPPORT. Privilege is checked first, and PL rises only where a trap is entered or a slot is replaced (R55, R92, R96). -/

namespace Sys2Proof.Machine

section
variable {s : State} {d a b c : Reg} {v : VReg} {off : BitVec 14} {o : BitVec 10} {w : BitVec 2} {sz : Size} {cp : Cp} {sc : Scope} {op : AmoOp}
  {mo : MOrd} {wide : Bool} (hlevel : s.super = false) (hop : s.me.op = .none)
include hlevel hop

/-- Scalar accesses, and the heads of caches and full/empty words. -/
theorem State.denies_accesses : ∀ row ∈ ([
      (.ld d a off sz w cp, { rd := [a], wr := [d] }, addrOff (s.operand a) off (sizeBytes sz), w),
      (.lds d a off sz w cp, { rd := [a], wr := [d] }, addrOff (s.operand a) off (sizeBytes sz), w),
      (.ldg d a b off sz w cp, { rd := [a, b], wr := [d] }, addrIdx (s.operand a) (s.operand b) off (sizeBytes sz), w),
      (.lda d a sz sc, { rd := [a], wr := [d] }, s.operand a, 0),
      (.st a b off sz w cp, { rd := [a, b] }, addrOff (s.operand a) off (sizeBytes sz), w),
      (.stg d a b off sz w cp, { rd := [d, a, b] }, addrIdx (s.operand a) (s.operand b) off (sizeBytes sz), w),
      (.stl a b sz sc, { rd := [a, b] }, s.operand a, 0), (.lde d a off w cp, { rd := [a], wr := [d] }, addrOff (s.operand a) off 8, w),
      (.stf a b off w cp, { rd := [a, b] }, addrOff (s.operand a) off 8, w), (.feinitEmpty a b, { rd := [a, b] }, s.operand a, 0),
      (.feinitFull a b, { rd := [a, b] }, s.operand a, 0), (.touchRd a, { rd := [a] }, s.operand a, 0),
      (.touchWr a, { rd := [a] }, s.operand a, 0), (.waitaddr d a b off w, { rd := [a, b], wr := [d] }, addrOff (s.operand a) off 8, w),
      (.cflushLine a, { rd := [a] }, s.operand a, 0), (.cinvLine a, { rd := [a] }, s.operand a, 0),
      (.cinvIline a, { rd := [a] }, s.operand a, 0)]
      : List (Instr × Use × Word × BitVec 2)), s.denies row := by
  refine List.forall_mem_cons.2 ⟨State.denies_ld hlevel, ?_⟩
  iterate 3 refine List.forall_mem_cons.2 ⟨.head hlevel rfl rfl, ?_⟩
  refine List.forall_mem_cons.2 ⟨State.denies_st hlevel, ?_⟩
  iterate 2 refine List.forall_mem_cons.2 ⟨.head hlevel rfl rfl, ?_⟩
  refine List.forall_mem_cons.2 ⟨.reply hlevel hop (rfl : execLde d a off w cp s = _) rfl, ?_⟩
  refine List.forall_mem_cons.2 ⟨.reply hlevel hop (rfl : execStf a b off w cp s = _) rfl, ?_⟩
  iterate 2 refine List.forall_mem_cons.2 ⟨.head hlevel rfl rfl, ?_⟩
  refine List.forall_mem_cons.2 ⟨.checkReply hlevel hop (rfl : touch false a s = _) rfl, ?_⟩
  refine List.forall_mem_cons.2 ⟨.checkReply hlevel hop (rfl : touch true a s = _) rfl, ?_⟩
  refine List.forall_mem_cons.2 ⟨.checkReply hlevel hop (rfl : execWaitaddr d a b off w s = _) rfl, ?_⟩
  iterate 3 refine List.forall_mem_cons.2 ⟨.check hlevel rfl rfl, ?_⟩
  exact List.forall_mem_nil _

/-- Atomics, barriers, tasks, the yoke and vector accesses. -/
theorem State.denies_engines (hopt : s.me.optimistic = false) : ∀ row ∈ ([
      (.amo d a b op wide mo sc, { rd := [a, b], wr := [d] }, s.operand a, 0),
      (.cas d a b c wide mo sc, { rd := [a, b, c], wr := [d] }, s.operand a, 0),
      (.cas2 d a b c mo sc, { rd := [a, b, b + 1, c, c + 1], wr := [d, d + 1] }, s.operand a, 0),
      (.red a b op wide mo sc, { rd := [a, b] }, s.operand a, 0), (.tbinit a b, { rd := [a, b] }, s.operand a, 0),
      (.tbexp a b, { rd := [a, b] }, s.operand a, 0), (.tbarr d a, { rd := [a], wr := [d] }, s.operand a, 0),
      (.tbwait a b, { rd := [a, b] }, s.operand a, 0), (.tbtest d a b, { rd := [a, b], wr := [d] }, s.operand a, 0),
      (.dec a, { rd := [a] }, s.operand a, 0), (.tset a b, { rd := [a, b] }, s.operand a, 0),
      (.launch d a b, { rd := [a, b], wr := [d] }, s.operand a, 0), (.spawn a b, { rd := [a, b] }, s.operand a, 0),
      (.ltab a, { rd := [a] }, s.operand a, 0), (.wload a b, { rd := [a, b] }, s.operand a, 0),
      (.wloadSc a b, { rd := [a, b] }, s.operand a, 0), (.gang a, { rd := [a] }, s.operand a, 0),
      (.vld v a off 0 w cp, { rd := [a], vs := [v], ms := [0] }, addrOff (s.operand a) off 32, w),
      (.vst v a off 0 w cp, { rd := [a], vs := [v], ms := [0] }, addrOff (s.operand a) off 32, w),
      (.vlds v a b 0 o, { rd := [a, b], vs := [v], ms := [0] }, s.operand a + sext o * 32#64, 0),
      (.vsts v a b 0 o, { rd := [a, b], vs := [v], ms := [0] }, s.operand a + sext o * 32#64, 0)]
      : List (Instr × Use × Word × BitVec 2)), s.denies row := by
  iterate 10 refine List.forall_mem_cons.2 ⟨.head hlevel rfl rfl, ?_⟩
  refine List.forall_mem_cons.2 ⟨State.denies_tset hlevel hop hopt, ?_⟩
  refine List.forall_mem_cons.2 ⟨State.denies_launch hlevel hop hopt, ?_⟩
  refine List.forall_mem_cons.2 ⟨State.denies_spawn hlevel, ?_⟩
  iterate 3 refine List.forall_mem_cons.2 ⟨.head hlevel rfl rfl, ?_⟩
  refine List.forall_mem_cons.2 ⟨.checkReply hlevel hop (rfl : execGang a s = _) rfl, ?_⟩
  refine List.forall_mem_cons.2 ⟨State.denies_vld hlevel, ?_⟩
  refine List.forall_mem_cons.2 ⟨State.denies_vst hlevel, ?_⟩
  refine List.forall_mem_cons.2 ⟨State.denies_vlds hlevel, ?_⟩
  refine List.forall_mem_cons.2 ⟨State.denies_vsts hlevel, ?_⟩
  exact List.forall_mem_nil _

end

/-! ## Heads and registers of supervisor level -/

/-- Tasks may not read TVEC, EPC, ECAUSE, EINFO and ESTATUS (R92). -/
theorem srPriv_of_trapRegs {n : Nat} (h : 0x010 ≤ n ∧ n ≤ 0x014) : srPriv n = some n := by
  obtain ⟨hlo, hhi⟩ := h
  interval_cases n <;> rfl

end Sys2Proof.Machine
open Sys2Proof Sys2Proof.Machine

/-- Settles O9: the checks of a head come in the order of R96 (`Use.issue`), so a head is denied or exhausts the allotment before its own effect;
each head that accesses memory checks the space first; and PL rises only as `State.performs` says, of every instruction and event. -/
theorem privilegedHeadsTrapAtTaskLevel : Obligations.PrivilegedHeadsTrapAtTaskLevel := by
  refine ⟨?privileged, ?outside, ?system, ?ends, ?rises⟩
  case privileged =>
    intro s d a b g sr imm hlevel denied
    refine ⟨runHead_of_task rfl hlevel _, fun hop => ⟨?_, ?_, ?_⟩, runHead_of_task rfl hlevel _, runHead_of_task rfl hlevel _,
      runHead_of_task rfl hlevel _, fun hsr => ?_⟩
    · exact (Eq.trans (rfl : _ = execSpill d a b s) (runReply_none hop)).trans (runHead_of_task rfl hlevel _)
    · exact (Eq.trans (rfl : _ = execRestor d a b s) (runReply_none hop)).trans (runHead_of_task rfl hlevel _)
    · obtain ⟨_, he⟩ := execBarset_asks (g := g) (a := a) hop
      exact he.trans (runHead_of_task rfl hlevel _)
    · have hpriv := srPriv_of_trapRegs hsr
      exact ⟨runHead_of_task hpriv hlevel _, runHead_of_task hpriv hlevel _, runHead_of_task hpriv hlevel _⟩
  case outside =>
    intro s d a b c u v x y m k imm imm16 imm48 pos len o15 far idx g5 off o10 o2 w ch len10 g sr sz cp sc op mo wide hi r ty nf cc ofm sel dom al
      gm ms cs hop out named
    exact ⟨State.exhausts_scalar, State.exhausts_control hop, State.exhausts_memory hop, State.exhausts_vector, State.exhausts_supervisor hop⟩
  case system =>
    intro s d a b c v ix off o o2 w sz cp sc op mo wide ofm r hlevel hop hopt n x at_ step denied
    exact ⟨State.denies_accesses hlevel hop, State.denies_engines hlevel hop hopt,
      fun hb => List.forall_mem_cons.2 ⟨State.denies_mdrain hlevel hb, List.forall_mem_nil _⟩⟩
  case ends =>
    intro s d a b c v ix o2 ch len10 hlevel hopt x y denied four cw t cached
    refine ⟨fun hmay hsp hz => ?_, fun hshape howned hbad => ⟨fun hmay hsp hz => ?_, fun h0 hmay hsp hz => ?_⟩, fun hgo hmay hsp hz => ?_,
      fun e he hw => ⟨fun hmay hsp hz => ?_, fun hmay hsp hz => ?_⟩, fun e he hr hmay hsp hz => ?_, fun hcheck hmay hsp hz => ?_,
      fun hmay hsp hz => ?_⟩
    · simp only [List.forall_mem_cons]
      exact ⟨cpyresHead_system hlevel hmay hsp hz, cpyresHead_system hlevel hmay hsp hz, List.forall_mem_nil _⟩
    · have hends := firstTrap_of_head (cs := [spaceCheck false cw.w1]) (spaceCheck_system hsp hz)
      simp only [List.forall_mem_cons]
      exact ⟨cpyqHead_system hlevel rfl rfl hmay hshape howned hbad hends, cpyqHead_system hlevel rfl rfl hmay hshape howned hbad hends,
        List.forall_mem_nil _⟩
    · have hends : firstTrap [spaceCheck false cw.w0, spaceCheck false cw.w1] = some (0x03, cw.w1) := by
        rw [h0]
        change firstTrap [spaceCheck false cw.w1] = _
        exact firstTrap_of_head (spaceCheck_system hsp hz)
      simp only [List.forall_mem_cons]
      exact ⟨cpyqHead_system hlevel rfl rfl hmay hshape howned hbad hends, cpyqHead_system hlevel rfl rfl hmay hshape howned hbad hends,
        List.forall_mem_nil _⟩
    · simp only [List.forall_mem_cons]
      exact ⟨execVgath_system hlevel hsp hz hmay hgo, execVscat_system hlevel hsp hz hmay hgo, List.forall_mem_nil _⟩
    · exact List.forall_mem_cons.2 ⟨execChpush_system hlevel he hsp hz hw hmay, List.forall_mem_nil _⟩
    · exact List.forall_mem_cons.2 ⟨execChoffer_system hlevel he hsp hz hopt hw hmay, List.forall_mem_nil _⟩
    · simp only [List.forall_mem_cons]
      exact ⟨popHead_system hlevel he hsp hz hopt hr hmay, popHead_system hlevel he hsp hz hopt hr hmay,
        popHead_system hlevel he hsp hz hopt hr hmay, List.forall_mem_nil _⟩
    · exact List.forall_mem_cons.2 ⟨execMsend_system hlevel hsp hz hmay hcheck, List.forall_mem_nil _⟩
    · exact List.forall_mem_cons.2 ⟨execMrecv_system hlevel hsp hz hmay, List.forall_mem_nil _⟩
  case rises =>
    intro i s t tk e hlow hhigh
    obtain ⟨_, hrises⟩ := State.performs.exec t e
    obtain hpl | hentered := hrises tk hhigh
    · exact absurd (hlow.symm.trans hpl) (by decide)
    · exact hentered

end
